-- ==== Sys2Proof/Word.lean ====
section
/-! DEFINITION. The word types of the PH-740 and their plainest arithmetic (00_scope.md R5, R11). -/

namespace Sys2Proof

/-- A general register's value (R33). -/
abbrev Word := BitVec 64

/-- One byte of memory: a location (R154). -/
abbrev Byte := BitVec 8

/-- A register number g0-g15. -/
abbrev Reg := BitVec 4

/-- SignExtend(v, n) to 64 bits (R11). -/
def sext {n : Nat} (v : BitVec n) : Word := v.signExtend 64

/-- ZeroExtend(v, n) to 64 bits (R11). -/
def zext {n : Nat} (v : BitVec n) : Word := v.setWidth 64

/-- A truth value as the 1 or 0 that comparisons write (R276). -/
def boolWord (b : Bool) : Word := if b then 1 else 0

/-- x[lo + len - 1 : lo] as a number. -/
def bits {n : Nat} (v : BitVec n) (lo len : Nat) : Nat := (v.toNat >>> lo) % 2 ^ len

/-- Bit `i` of a value. -/
def bit {n : Nat} (v : BitVec n) (i : Nat) : Bool := v.getLsbD i

end Sys2Proof
end

