-- ==== Sys2Proof/Config.lean ====
section
/-! DEFINITION. What the spec leaves to the part and the values it leaves open, as constants with no body: nothing
can be proved of them but what holds for every value (notes/assumptions 4-8). -/

namespace Sys2Proof.Config

/-- R44: whether an unmarked read of a register with a pending result takes the new value; applied to State's
counter of free values (DESIGN CHOICE, log entry 4). -/
opaque hazardPick : Nat → Bool

/-- R136 with R133: whether a cache still holds a line recorded under other attributes (DESIGN CHOICE, log entry 5). -/
opaque stillCached : Nat → Bool

/-- A value the spec states no result for; applied to State's counter (DESIGN CHOICE, log entry 6). -/
opaque freeWord : Nat → BitVec 64

/-- R320: how far, in units in the last place, a transcendental's magnitude lies above the greatest representable value
not above the exact magnitude, less one: 0 to 3 stand for -1 to 2. A fixed function of the function code, the compute
format and the operand's bits (DESIGN CHOICE, log entry 7). -/
opaque ulpOffset : Nat → Nat → Nat → Fin 4

/-- R21: the modules that the pod populates; a module always counts itself (DESIGN CHOICE, log entry 8). -/
opaque populated : Nat → Bool

/-- R197, R438: whether another module of the pod has lost its router die B, by module and the clock; the spec does not say how a module
learns it (DESIGN CHOICE, log entry 8). -/
opaque lostDieB : Nat → Nat → Bool

/-- R200: the LINKID under which a port's partner sends; the spec does not say how a receiver learns it (DESIGN CHOICE,
log entry 9). -/
opaque partnerLinkid : Nat → BitVec 32

/-- R241: what a CXL.io register of the device on a port reads, by port, offset and the writes that the port's window has carried, each
by offset, length and value (DESIGN CHOICE, log entry 10). -/
opaque cxlWindow : Nat → Nat → List (Nat × Nat × BitVec 64) → BitVec 64

/-- R246: what the management controller reads of the sensors, by sensor and the clock (DESIGN CHOICE, log entry 62). -/
opaque sensor : Nat → Nat → BitVec 32

/-- R428: whether an agent that died still owned a line it had stored to, by the state's counter of free values; a cache writes a dirty line
back at any time (DESIGN CHOICE, log entry 48). -/
opaque stillOwned : Nat → Bool

/-- What a page walk reads at a physical address that does not lie on this module, by address and the state's counter
of free values (DESIGN CHOICE, log entry 11). -/
opaque remoteEntry : Nat → Nat → BitVec 64

/-- R186: which of its 64-byte lines an identifier directory uses for an identifier, by the identifier and the lines; and which of the places
in a version area keeps a list, by its slot and generation (DESIGN CHOICE, log entry 31). -/
opaque directoryLine : BitVec 64 → Nat → Nat
opaque versionPlace : Nat → Nat → Nat

/-- R28: what the host reads in a tenant's launch record, which the spec lets it only write, by tenant, offset and the
clock (DESIGN CHOICE, log entry 27). -/
opaque launchRecordByte : Nat → Nat → Nat → BitVec 8

end Sys2Proof.Config
end

