-- ==== Sys2Proof/Syntax.lean ====
section
/-! DEFINITION. The instructions and events of the PH-740: one constructor for each row of
spec/opcode_table.json. The first 190 have a 32-bit word (12_encoding.md R251-R265), whose fields they carry by
the names of R251; the others are the events of the part's own units, of the fabric and of the host
(95_what_each_step_holds.md), which have no word and carry what arrives from outside or names the unit. -/

namespace Sys2Proof

/-- A Vilvik packet: the header fields of R206, its 40-byte kind area and its payload bytes. `rsv` is 1 when some
reserved bit of the header is not zero (R208). -/
structure Packet where
  clock : BitVec 64
  src : BitVec 26
  dst : BitVec 26
  kind : BitVec 8
  ten : BitVec 4
  incarn : BitVec 16
  reqid : BitVec 32
  pseq : BitVec 32
  len : BitVec 16
  scope : BitVec 4
  rel : Bool
  retry : Bool
  second : Bool
  status : BitVec 8
  rsv : Bool
  area : List (BitVec 8)
  data : List (BitVec 8)
  /-- not in the header: the membership mask that a named scope had when the sender read it (R158), and the port through which the packet
  came in, plus 1, or 0 (R213) -/
  mask : BitVec 64
  port : Nat
  deriving DecidableEq, Repr

/-- A Luasko flit: the link header of R198, 228 payload bytes, the GCM tag and the CRC (R200). -/
structure Flit where
  ccnt : BitVec 5
  cvc : BitVec 3
  eop : Bool
  sop : Bool
  vc : BitVec 3
  typ : BitVec 4
  ks : Bool
  ack : BitVec 16
  seq : BitVec 16
  rsv : Bool
  payload : List (BitVec 8)
  tag : BitVec 96
  crc : BitVec 64
  deriving DecidableEq, Repr

/-- The units that keep a fault counter (R423). -/
inductive FaultUnit where
  | core (n : Nat)
  | array (cl : Nat)
  | slice (die s : Nat)
  | granule (g : Nat)
  | cxl (p : Nat)
  | lanes (port : Nat)
  | link (port : Nat)
  deriving DecidableEq, Repr

/-- Every instruction and event of the opcode table. -/
inductive Instr where
  /-- ADD (R276). -/
  | add (y : Bool) (gd : BitVec 4) (ga : BitVec 4) (la : Bool) (gb : BitVec 4) (lb : Bool) (sat : Bool) (uns : Bool)
  /-- SUB (R276). -/
  | sub (y : Bool) (gd : BitVec 4) (ga : BitVec 4) (la : Bool) (gb : BitVec 4) (lb : Bool) (sat : Bool) (uns : Bool)
  /-- AND (R276). -/
  | and (y : Bool) (gd : BitVec 4) (ga : BitVec 4) (la : Bool) (gb : BitVec 4) (lb : Bool)
  /-- OR (R276). -/
  | or (y : Bool) (gd : BitVec 4) (ga : BitVec 4) (la : Bool) (gb : BitVec 4) (lb : Bool)
  /-- XOR (R276). -/
  | xor (y : Bool) (gd : BitVec 4) (ga : BitVec 4) (la : Bool) (gb : BitVec 4) (lb : Bool)
  /-- ANDN (R276). -/
  | andn (y : Bool) (gd : BitVec 4) (ga : BitVec 4) (la : Bool) (gb : BitVec 4) (lb : Bool)
  /-- SHL (R276). -/
  | shl (y : Bool) (gd : BitVec 4) (ga : BitVec 4) (la : Bool) (gb : BitVec 4) (lb : Bool)
  /-- SHR (R276). -/
  | shr (y : Bool) (gd : BitVec 4) (ga : BitVec 4) (la : Bool) (gb : BitVec 4) (lb : Bool)
  /-- SAR (R276). -/
  | sar (y : Bool) (gd : BitVec 4) (ga : BitVec 4) (la : Bool) (gb : BitVec 4) (lb : Bool)
  /-- ROR (R276). -/
  | ror (y : Bool) (gd : BitVec 4) (ga : BitVec 4) (la : Bool) (gb : BitVec 4) (lb : Bool)
  /-- MIN (R276). -/
  | min (y : Bool) (gd : BitVec 4) (ga : BitVec 4) (la : Bool) (gb : BitVec 4) (lb : Bool) (uns : Bool)
  /-- MAX (R276). -/
  | max (y : Bool) (gd : BitVec 4) (ga : BitVec 4) (la : Bool) (gb : BitVec 4) (lb : Bool) (uns : Bool)
  /-- CMPEQ (R276). -/
  | cmpeq (y : Bool) (gd : BitVec 4) (ga : BitVec 4) (la : Bool) (gb : BitVec 4) (lb : Bool)
  /-- CMPNE (R276). -/
  | cmpne (y : Bool) (gd : BitVec 4) (ga : BitVec 4) (la : Bool) (gb : BitVec 4) (lb : Bool)
  /-- CMPLT (R276). -/
  | cmplt (y : Bool) (gd : BitVec 4) (ga : BitVec 4) (la : Bool) (gb : BitVec 4) (lb : Bool) (uns : Bool)
  /-- CMPLE (R276). -/
  | cmple (y : Bool) (gd : BitVec 4) (ga : BitVec 4) (la : Bool) (gb : BitVec 4) (lb : Bool) (uns : Bool)
  /-- CLZ (R276). -/
  | clz (y : Bool) (gd : BitVec 4) (ga : BitVec 4) (la : Bool)
  /-- POPC (R276). -/
  | popc (y : Bool) (gd : BitVec 4) (ga : BitVec 4) (la : Bool)
  /-- SEXTB (R276). -/
  | sextb (y : Bool) (gd : BitVec 4) (ga : BitVec 4) (la : Bool)
  /-- SEXTH (R276). -/
  | sexth (y : Bool) (gd : BitVec 4) (ga : BitVec 4) (la : Bool)
  /-- SEXTW (R276). -/
  | sextw (y : Bool) (gd : BitVec 4) (ga : BitVec 4) (la : Bool)
  /-- ZEXTB (R276). -/
  | zextb (y : Bool) (gd : BitVec 4) (ga : BitVec 4) (la : Bool)
  /-- ZEXTH (R276). -/
  | zexth (y : Bool) (gd : BitVec 4) (ga : BitVec 4) (la : Bool)
  /-- ZEXTW (R276). -/
  | zextw (y : Bool) (gd : BitVec 4) (ga : BitVec 4) (la : Bool)
  /-- SEL (R276). -/
  | sel (y : Bool) (gd : BitVec 4) (ga : BitVec 4) (la : Bool) (gb : BitVec 4) (lb : Bool)
  /-- MUL (R278). -/
  | mul (y : Bool) (gd : BitVec 4) (ga : BitVec 4) (la : Bool) (gb : BitVec 4) (lb : Bool)
  /-- MULH (R278). -/
  | mulh (y : Bool) (gd : BitVec 4) (ga : BitVec 4) (la : Bool) (gb : BitVec 4) (lb : Bool) (uns : Bool)
  /-- DIV (R278). -/
  | div (y : Bool) (gd : BitVec 4) (ga : BitVec 4) (la : Bool) (gb : BitVec 4) (lb : Bool) (uns : Bool)
  /-- REM (R278). -/
  | rem (y : Bool) (gd : BitVec 4) (ga : BitVec 4) (la : Bool) (gb : BitVec 4) (lb : Bool) (uns : Bool)
  /-- HMIX (R279). -/
  | hmix (y : Bool) (gd : BitVec 4) (ga : BitVec 4) (la : Bool) (gb : BitVec 4) (lb : Bool)
  /-- ADDI (R280). -/
  | addi (y : Bool) (gd : BitVec 4) (ga : BitVec 4) (la : Bool) (imm : BitVec 15)
  /-- ANDI (R280). -/
  | andi (y : Bool) (gd : BitVec 4) (ga : BitVec 4) (la : Bool) (imm : BitVec 15)
  /-- ORI (R280). -/
  | ori (y : Bool) (gd : BitVec 4) (ga : BitVec 4) (la : Bool) (imm : BitVec 15)
  /-- XORI (R280). -/
  | xori (y : Bool) (gd : BitVec 4) (ga : BitVec 4) (la : Bool) (imm : BitVec 15)
  /-- SHLI (R280). -/
  | shli (y : Bool) (gd : BitVec 4) (ga : BitVec 4) (la : Bool) (n : BitVec 6)
  /-- SHRI (R280). -/
  | shri (y : Bool) (gd : BitVec 4) (ga : BitVec 4) (la : Bool) (n : BitVec 6)
  /-- SARI (R280). -/
  | sari (y : Bool) (gd : BitVec 4) (ga : BitVec 4) (la : Bool) (n : BitVec 6)
  /-- RORI (R280). -/
  | rori (y : Bool) (gd : BitVec 4) (ga : BitVec 4) (la : Bool) (n : BitVec 6)
  /-- CMPEQI (R280). -/
  | cmpeqi (y : Bool) (gd : BitVec 4) (ga : BitVec 4) (la : Bool) (imm : BitVec 15)
  /-- CMPLTI (R280). -/
  | cmplti (y : Bool) (gd : BitVec 4) (ga : BitVec 4) (la : Bool) (imm : BitVec 15)
  /-- CMPLTI_UNS (R280). -/
  | cmpltiUns (y : Bool) (gd : BitVec 4) (ga : BitVec 4) (la : Bool) (imm : BitVec 15)
  /-- EXTR (R280). -/
  | extr (y : Bool) (gd : BitVec 4) (ga : BitVec 4) (la : Bool) (pos : BitVec 6) (len : BitVec 6)
  /-- INSR (R280). -/
  | insr (y : Bool) (gd : BitVec 4) (ga : BitVec 4) (la : Bool) (pos : BitVec 6) (len : BitVec 6)
  /-- LUI (R280). -/
  | lui (y : Bool) (gd : BitVec 4) (imm : BitVec 20)
  /-- FADD (R282). -/
  | fadd (y : Bool) (gd : BitVec 4) (ga : BitVec 4) (la : Bool) (gb : BitVec 4) (lb : Bool) (p : Bool)
  /-- FSUB (R282). -/
  | fsub (y : Bool) (gd : BitVec 4) (ga : BitVec 4) (la : Bool) (gb : BitVec 4) (lb : Bool) (p : Bool)
  /-- FMUL (R282). -/
  | fmul (y : Bool) (gd : BitVec 4) (ga : BitVec 4) (la : Bool) (gb : BitVec 4) (lb : Bool) (p : Bool)
  /-- FDIV (R282). -/
  | fdiv (y : Bool) (gd : BitVec 4) (ga : BitVec 4) (la : Bool) (gb : BitVec 4) (lb : Bool) (p : Bool)
  /-- FSQRT (R282). -/
  | fsqrt (y : Bool) (gd : BitVec 4) (ga : BitVec 4) (la : Bool) (p : Bool)
  /-- FMA (R282). -/
  | fma (y : Bool) (gd : BitVec 4) (ga : BitVec 4) (la : Bool) (gb : BitVec 4) (lb : Bool) (p : Bool)
  /-- FMIN (R282). -/
  | fmin (y : Bool) (gd : BitVec 4) (ga : BitVec 4) (la : Bool) (gb : BitVec 4) (lb : Bool) (p : Bool)
  /-- FMAX (R282). -/
  | fmax (y : Bool) (gd : BitVec 4) (ga : BitVec 4) (la : Bool) (gb : BitVec 4) (lb : Bool) (p : Bool)
  /-- FCMP_EQ (R282). -/
  | fcmpEq (y : Bool) (gd : BitVec 4) (ga : BitVec 4) (la : Bool) (gb : BitVec 4) (lb : Bool) (p : Bool)
  /-- FCMP_LT (R282). -/
  | fcmpLt (y : Bool) (gd : BitVec 4) (ga : BitVec 4) (la : Bool) (gb : BitVec 4) (lb : Bool) (p : Bool)
  /-- FCMP_LE (R282). -/
  | fcmpLe (y : Bool) (gd : BitVec 4) (ga : BitVec 4) (la : Bool) (gb : BitVec 4) (lb : Bool) (p : Bool)
  /-- FCVT (R282). -/
  | fcvt (y : Bool) (gd : BitVec 4) (ga : BitVec 4) (la : Bool) (p : Bool)
  /-- FCVTI (R282). -/
  | fcvti (y : Bool) (gd : BitVec 4) (ga : BitVec 4) (la : Bool) (p : Bool)
  /-- FCVTF (R282). -/
  | fcvtf (y : Bool) (gd : BitVec 4) (ga : BitVec 4) (la : Bool) (p : Bool)
  /-- BEQ (R283). -/
  | beq (y : Bool) (ga : BitVec 4) (la : Bool) (gb : BitVec 4) (lb : Bool) (off : BitVec 14)
  /-- BNE (R283). -/
  | bne (y : Bool) (ga : BitVec 4) (la : Bool) (gb : BitVec 4) (lb : Bool) (off : BitVec 14)
  /-- BLT (R283). -/
  | blt (y : Bool) (ga : BitVec 4) (la : Bool) (gb : BitVec 4) (lb : Bool) (off : BitVec 14)
  /-- BGE (R283). -/
  | bge (y : Bool) (ga : BitVec 4) (la : Bool) (gb : BitVec 4) (lb : Bool) (off : BitVec 14)
  /-- LOOP_REG (R54). -/
  | loopReg (y : Bool) (ga : BitVec 4) (la : Bool) (dist : BitVec 14)
  /-- LOOP_IMM (R54). -/
  | loopImm (y : Bool) (count : BitVec 16) (dist : BitVec 8)
  /-- JAL (R284). -/
  | jal (y : Bool) (gd : BitVec 4) (imm : BitVec 20)
  /-- JR (R284). -/
  | jr (y : Bool) (gd : BitVec 4) (ga : BitVec 4) (la : Bool)
  /-- ENDLOOP (R56). -/
  | endloop (y : Bool)
  /-- CALLAT (R286). -/
  | callat (y : Bool) (ga : BitVec 4) (la : Bool) (gb : BitVec 4) (lb : Bool)
  /-- EXIT (R62). -/
  | exit (y : Bool)
  /-- TRIG (R60). -/
  | trig (y : Bool)
  /-- YIELD (R289). -/
  | yield (y : Bool)
  /-- ALIGN (R53). -/
  | align (y : Bool) (n : BitVec 6)
  /-- MIGR (R290). -/
  | migr (y : Bool) (gd : BitVec 4) (ga : BitVec 4) (la : Bool)
  /-- LDB (R291). -/
  | ldb (y : Bool) (gd : BitVec 4) (ga : BitVec 4) (la : Bool) (pol : BitVec 2) (ord : BitVec 2) (scope : BitVec 4) (off : BitVec 7)
  /-- LDH (R291). -/
  | ldh (y : Bool) (gd : BitVec 4) (ga : BitVec 4) (la : Bool) (pol : BitVec 2) (ord : BitVec 2) (scope : BitVec 4) (off : BitVec 7)
  /-- LDW (R291). -/
  | ldw (y : Bool) (gd : BitVec 4) (ga : BitVec 4) (la : Bool) (pol : BitVec 2) (ord : BitVec 2) (scope : BitVec 4) (off : BitVec 7)
  /-- LDD (R291). -/
  | ldd (y : Bool) (gd : BitVec 4) (ga : BitVec 4) (la : Bool) (pol : BitVec 2) (ord : BitVec 2) (scope : BitVec 4) (off : BitVec 7)
  /-- STB (R291). -/
  | stb (y : Bool) (gd : BitVec 4) (ga : BitVec 4) (la : Bool) (pol : BitVec 2) (ord : BitVec 2) (scope : BitVec 4) (off : BitVec 7)
  /-- STH (R291). -/
  | sth (y : Bool) (gd : BitVec 4) (ga : BitVec 4) (la : Bool) (pol : BitVec 2) (ord : BitVec 2) (scope : BitVec 4) (off : BitVec 7)
  /-- STW (R291). -/
  | stw (y : Bool) (gd : BitVec 4) (ga : BitVec 4) (la : Bool) (pol : BitVec 2) (ord : BitVec 2) (scope : BitVec 4) (off : BitVec 7)
  /-- STD (R291). -/
  | std (y : Bool) (gd : BitVec 4) (ga : BitVec 4) (la : Bool) (pol : BitVec 2) (ord : BitVec 2) (scope : BitVec 4) (off : BitVec 7)
  /-- LDF (R293). -/
  | ldf (y : Bool) (gd : BitVec 4) (ga : BitVec 4) (la : Bool) (off : BitVec 7)
  /-- LDFE (R293). -/
  | ldfe (y : Bool) (gd : BitVec 4) (ga : BitVec 4) (la : Bool) (off : BitVec 7)
  /-- STE (R293). -/
  | ste (y : Bool) (gd : BitVec 4) (ga : BitVec 4) (la : Bool) (off : BitVec 7)
  /-- STF (R293). -/
  | stf (y : Bool) (gd : BitVec 4) (ga : BitVec 4) (la : Bool) (off : BitVec 7)
  /-- FEQ (R293). -/
  | feq (y : Bool) (gd : BitVec 4) (ga : BitVec 4) (la : Bool) (off : BitVec 7)
  /-- FESET (R293). -/
  | feset (y : Bool) (ga : BitVec 4) (la : Bool) (full : Bool) (off : BitVec 7)
  /-- PREF (R294). -/
  | pref (y : Bool) (ga : BitVec 4) (la : Bool) (pol : BitVec 2) (off : BitVec 7)
  /-- AADD (R296). -/
  | aadd (y : Bool) (gd : BitVec 4) (ga : BitVec 4) (la : Bool) (gb : BitVec 4) (lb : Bool) (place : BitVec 2) (ord : BitVec 2) (scope : BitVec 4) (sz : Bool)
  /-- AMIN (R296). -/
  | amin (y : Bool) (gd : BitVec 4) (ga : BitVec 4) (la : Bool) (gb : BitVec 4) (lb : Bool) (place : BitVec 2) (ord : BitVec 2) (scope : BitVec 4) (uns : Bool) (sz : Bool)
  /-- AMAX (R296). -/
  | amax (y : Bool) (gd : BitVec 4) (ga : BitVec 4) (la : Bool) (gb : BitVec 4) (lb : Bool) (place : BitVec 2) (ord : BitVec 2) (scope : BitVec 4) (uns : Bool) (sz : Bool)
  /-- AAND (R296). -/
  | aand (y : Bool) (gd : BitVec 4) (ga : BitVec 4) (la : Bool) (gb : BitVec 4) (lb : Bool) (place : BitVec 2) (ord : BitVec 2) (scope : BitVec 4) (sz : Bool)
  /-- AOR (R296). -/
  | aor (y : Bool) (gd : BitVec 4) (ga : BitVec 4) (la : Bool) (gb : BitVec 4) (lb : Bool) (place : BitVec 2) (ord : BitVec 2) (scope : BitVec 4) (sz : Bool)
  /-- AXCH (R296). -/
  | axch (y : Bool) (gd : BitVec 4) (ga : BitVec 4) (la : Bool) (gb : BitVec 4) (lb : Bool) (place : BitVec 2) (ord : BitVec 2) (scope : BitVec 4) (sz : Bool)
  /-- ACAS (R296). -/
  | acas (y : Bool) (gd : BitVec 4) (ga : BitVec 4) (la : Bool) (gb : BitVec 4) (lb : Bool) (place : BitVec 2) (ord : BitVec 2) (scope : BitVec 4) (sz : Bool)
  /-- ADECP (R296). -/
  | adecp (y : Bool) (gd : BitVec 4) (ga : BitVec 4) (la : Bool) (place : BitVec 2) (ord : BitVec 2) (scope : BitVec 4) (sz : Bool)
  /-- AINCB (R296). -/
  | aincb (y : Bool) (gd : BitVec 4) (ga : BitVec 4) (la : Bool) (gb : BitVec 4) (lb : Bool) (place : BitVec 2) (ord : BitVec 2) (scope : BitVec 4) (sz : Bool)
  /-- FENCE (R164). -/
  | fence (y : Bool) (scope : BitVec 4)
  /-- WAITA (R299). -/
  | waita (y : Bool) (gd : BitVec 4) (ga : BitVec 4) (la : Bool) (gb : BitVec 4) (lb : Bool) (word4 : Bool)
  /-- NOTIFY (R300). -/
  | notify (y : Bool) (gd : BitVec 4) (ga : BitVec 4) (la : Bool) (all : Bool)
  /-- BARR (R301). -/
  | barr (y : Bool) (gd : BitVec 4) (ga : BitVec 4) (la : Bool) (comb : BitVec 2)
  /-- BARJ (R301). -/
  | barj (y : Bool) (gd : BitVec 4) (ga : BitVec 4) (la : Bool) (comb : BitVec 2)
  /-- SCOPESET (R303). -/
  | scopeset (y : Bool) (ga : BitVec 4) (la : Bool) (n : BitVec 3)
  /-- LAUNCH (R304). -/
  | launch (y : Bool) (gd : BitVec 4) (ga : BitVec 4) (la : Bool)
  /-- NOP (R258). -/
  | nop (y : Bool)
  /-- TRAP (R306). -/
  | trap (y : Bool) (n : BitVec 6)
  /-- ERET (R392). -/
  | eret (y : Bool)
  /-- HCALL (R306). -/
  | hcall (y : Bool) (n : BitVec 6)
  /-- TLBINV (R308). -/
  | tlbinv (y : Bool) (ga : BitVec 4) (la : Bool) (mode : BitVec 2) (scope : BitVec 4)
  /-- CACHEOP (R309). -/
  | cacheop (y : Bool) (ga : BitVec 4) (la : Bool) (op : BitVec 6)
  /-- IMGSAVE (R310). -/
  | imgsave (y : Bool) (ga : BitVec 4) (la : Bool)
  /-- IMGLOAD (R310). -/
  | imgload (y : Bool) (ga : BitVec 4) (la : Bool)
  /-- MFS (R307). -/
  | mfs (y : Bool) (gd : BitVec 4) (r : BitVec 6)
  /-- MTS (R307). -/
  | mts (y : Bool) (ga : BitVec 4) (la : Bool) (r : BitVec 6)
  /-- ERD (R311). -/
  | erd (y : Bool) (gd : BitVec 4) (eng : BitVec 4) (r : BitVec 10)
  /-- EWR (R311). -/
  | ewr (y : Bool) (ga : BitVec 4) (la : Bool) (eng : BitVec 4) (r : BitVec 10)
  /-- FMT (R116). -/
  | fmt (y : Bool) (fa : BitVec 4) (fb : BitVec 4) (fd : BitVec 4) (smode : BitVec 2) (stile : BitVec 6) (fz : Bool) (sat : Bool)
  /-- VADD (R319). -/
  | vadd (y : Bool) (td : BitVec 6) (ta : BitVec 6) (tb : BitVec 6)
  /-- VSUB (R319). -/
  | vsub (y : Bool) (td : BitVec 6) (ta : BitVec 6) (tb : BitVec 6)
  /-- VMUL (R319). -/
  | vmul (y : Bool) (td : BitVec 6) (ta : BitVec 6) (tb : BitVec 6)
  /-- VDIV (R319). -/
  | vdiv (y : Bool) (td : BitVec 6) (ta : BitVec 6) (tb : BitVec 6)
  /-- VFMA (R319). -/
  | vfma (y : Bool) (td : BitVec 6) (ta : BitVec 6) (tb : BitVec 6)
  /-- VMIN (R319). -/
  | vmin (y : Bool) (td : BitVec 6) (ta : BitVec 6) (tb : BitVec 6)
  /-- VMAX (R319). -/
  | vmax (y : Bool) (td : BitVec 6) (ta : BitVec 6) (tb : BitVec 6)
  /-- VABS (R319). -/
  | vabs (y : Bool) (td : BitVec 6) (ta : BitVec 6)
  /-- VEXP (R320). -/
  | vexp (y : Bool) (td : BitVec 6) (ta : BitVec 6)
  /-- VLOG (R320). -/
  | vlog (y : Bool) (td : BitVec 6) (ta : BitVec 6)
  /-- VSQRT (R320). -/
  | vsqrt (y : Bool) (td : BitVec 6) (ta : BitVec 6)
  /-- VRSQRT (R320). -/
  | vrsqrt (y : Bool) (td : BitVec 6) (ta : BitVec 6)
  /-- VRCP (R320). -/
  | vrcp (y : Bool) (td : BitVec 6) (ta : BitVec 6)
  /-- VTANH (R320). -/
  | vtanh (y : Bool) (td : BitVec 6) (ta : BitVec 6)
  /-- VSIGM (R320). -/
  | vsigm (y : Bool) (td : BitVec 6) (ta : BitVec 6)
  /-- VRED_ADD (R321). -/
  | vredAdd (y : Bool) (td : BitVec 6) (ta : BitVec 6)
  /-- VRED_MIN (R321). -/
  | vredMin (y : Bool) (td : BitVec 6) (ta : BitVec 6)
  /-- VRED_MAX (R321). -/
  | vredMax (y : Bool) (td : BitVec 6) (ta : BitVec 6)
  /-- VSCAN_ADD (R322). -/
  | vscanAdd (y : Bool) (td : BitVec 6) (ta : BitVec 6)
  /-- VSCAN_MAX (R322). -/
  | vscanMax (y : Bool) (td : BitVec 6) (ta : BitVec 6)
  /-- VCMP_EQ (R323). -/
  | vcmpEq (y : Bool) (td : BitVec 6) (ta : BitVec 6) (tb : BitVec 6)
  /-- VCMP_LT (R323). -/
  | vcmpLt (y : Bool) (td : BitVec 6) (ta : BitVec 6) (tb : BitVec 6)
  /-- VCMP_LE (R323). -/
  | vcmpLe (y : Bool) (td : BitVec 6) (ta : BitVec 6) (tb : BitVec 6)
  /-- VSEL (R323). -/
  | vsel (y : Bool) (td : BitVec 6) (ta : BitVec 6) (tb : BitVec 6)
  /-- VBCAST (R324). -/
  | vbcast (y : Bool) (td : BitVec 6) (ta : BitVec 6)
  /-- VGATHER (R325). -/
  | vgather (y : Bool) (td : BitVec 6) (ta : BitVec 6) (tb : BitVec 6)
  /-- VSCAT (R325). -/
  | vscat (y : Bool) (td : BitVec 6) (ta : BitVec 6) (tb : BitVec 6)
  /-- VTRANS (R324). -/
  | vtrans (y : Bool) (td : BitVec 6) (ta : BitVec 6)
  /-- VCVT (R326). -/
  | vcvt (y : Bool) (td : BitVec 6) (ta : BitVec 6)
  /-- VQSCALE (R327). -/
  | vqscale (y : Bool) (td : BitVec 6) (ta : BitVec 6)
  /-- VCBK (R328). -/
  | vcbk (y : Bool) (td : BitVec 6) (ta : BitVec 6)
  /-- BARQ (R330). -/
  | barq (y : Bool) (td : BitVec 6) (ta : BitVec 6) (tb : BitVec 6)
  /-- BARQ_RES (R330). -/
  | barqRes (y : Bool) (td : BitVec 6) (ta : BitVec 6) (tb : BitVec 6)
  /-- TWAIT (R318). -/
  | twait (y : Bool) (ta : BitVec 6)
  /-- TDEF (R316). -/
  | tdef (y : Bool) (ga : BitVec 4) (la : Bool) (t : BitVec 6)
  /-- TSTATE (R317). -/
  | tstate (y : Bool) (gd : BitVec 4) (set : Bool) (st : BitVec 2) (t : BitVec 6)
  /-- CBLD (R329). -/
  | cbld (y : Bool) (ga : BitVec 4) (la : Bool)
  /-- GMSG (R228). -/
  | gmsg (y : Bool) (gd : BitVec 4) (ga : BitVec 4) (la : Bool)
  /-- GBEL (R231). -/
  | gbel (y : Bool) (gd : BitVec 4) (ga : BitVec 4) (la : Bool)
  /-- GMARG (R232). -/
  | gmarg (y : Bool) (gd : BitVec 4) (ga : BitVec 4) (la : Bool)
  /-- MMA (R336). -/
  | mma (y : Bool) (ta : BitVec 6) (tb : BitVec 6)
  /-- MMAS (R337). -/
  | mmas (y : Bool) (td : BitVec 6) (ta : BitVec 6) (tb : BitVec 6)
  /-- MZERO (R335). -/
  | mzero (y : Bool)
  /-- MACC (R335). -/
  | macc (y : Bool) (ta : BitVec 6)
  /-- MST (R335). -/
  | mst (y : Bool) (td : BitVec 6)
  /-- MLEASE (R332). -/
  | mlease (y : Bool) (bound : BitVec 8)
  /-- MREL (R338). -/
  | mrel (y : Bool)
  /-- MSTEP (R338). -/
  | mstep (y : Bool) (gd : BitVec 4)
  /-- CPYQ (R349). -/
  | cpyq (y : Bool) (ga : BitVec 4) (la : Bool) (gb : BitVec 4) (lb : Bool) (nb : Bool)
  /-- KICK (R356). -/
  | kick (y : Bool) (ga : BitVec 4) (la : Bool) (gb : BitVec 4) (lb : Bool)
  /-- CPYWAIT (R354). -/
  | cpywait (y : Bool)
  /-- CPYSTAT (R355). -/
  | cpystat (y : Bool) (gd : BitVec 4)
  /-- LDNN (R360). -/
  | ldnn (y : Bool) (ga : BitVec 4) (la : Bool) (gb : BitVec 4) (lb : Bool)
  /-- STVEC (R360). -/
  | stvec (y : Bool) (ga : BitVec 4) (la : Bool) (gb : BitVec 4) (lb : Bool)
  /-- DLVEC (R360). -/
  | dlvec (y : Bool) (ga : BitVec 4) (la : Bool) (gb : BitVec 4) (lb : Bool)
  /-- IXOPEN (R357). -/
  | ixopen (y : Bool) (gd : BitVec 4) (ga : BitVec 4) (la : Bool)
  /-- IXSTAT (R358). -/
  | ixstat (y : Bool) (gd : BitVec 4) (ga : BitVec 4) (la : Bool)
  /-- SEND (R362). -/
  | send (y : Bool) (ga : BitVec 4) (la : Bool) (scope : BitVec 4) (rel : Bool)
  /-- RPOST (R364). -/
  | rpost (y : Bool) (ga : BitVec 4) (la : Bool)
  /-- RCANCEL (R365). -/
  | rcancel (y : Bool) (ga : BitVec 4) (la : Bool)
  /-- RPROBE (R366). -/
  | rprobe (y : Bool) (gd : BitVec 4) (ga : BitVec 4) (la : Bool)
  /-- RSTAT (R366). -/
  | rstat (y : Bool) (gd : BitVec 4) (ga : BitVec 4) (la : Bool)
  /-- AMSG (R367). -/
  | amsg (y : Bool) (ga : BitVec 4) (la : Bool) (gb : BitVec 4) (lb : Bool) (scope : BitVec 4) (rel : Bool)
  /-- HTSET (R368). -/
  | htset (y : Bool) (ga : BitVec 4) (la : Bool) (gb : BitVec 4) (lb : Bool)
  /-- HTCLR (R368). -/
  | htclr (y : Bool) (ga : BitVec 4) (la : Bool)
  /-- SMFR (R371). -/
  | smfr (y : Bool) (ga : BitVec 4) (la : Bool)
  /-- SMAL (R370). -/
  | smal (y : Bool) (gd : BitVec 4) (ga : BitVec 4) (la : Bool) (mir : Bool)
  /-- SMQUOTA (R372). -/
  | smquota (y : Bool) (gd : BitVec 4)
  /-- KLOAD (R373). -/
  | kload (y : Bool) (ga : BitVec 4) (la : Bool) (rx : Bool)
  /-- KTURN (R374). -/
  | kturn (y : Bool)
  /-- HIST (R376). -/
  | hist (y : Bool) (ga : BitVec 4) (la : Bool) (gb : BitVec 4) (lb : Bool)
  /-- WALK (R375). -/
  | walk (y : Bool) (ga : BitVec 4) (la : Bool)
  /-- GWTAKE (R378). -/
  | gwtake (y : Bool) (gd : BitVec 4) (ga : BitVec 4) (la : Bool)
  /-- Event ALIGN_TIMEOUT (R53). -/
  | alignTimeout (f : Nat)
  /-- Event MIGRATION_ARRIVAL (R49). -/
  | migrationArrival (f : Nat)
  /-- Event FE_WAIT_SERVED (R145). -/
  | feWaitServed (r : Nat)
  /-- Event SPURIOUS_WAKE (R299). -/
  | spuriousWake (f : Nat)
  /-- Event BARRIER_EPISODE_COMPLETE (R301). -/
  | barrierEpisodeComplete (b : Nat)
  /-- Event DIE_BARRIER_REPORT (R92). -/
  | dieBarrierReport (b die : Nat)
  /-- Event GWQ_ARM (R377). -/
  | gwqArm (q : BitVec 4) (ten : BitVec 4) (limit : BitVec 32)
  /-- Event GWQ_DISARM (R377). -/
  | gwqDisarm (q : BitVec 4)
  /-- Event VECTOR_INSTRUCTION_COMPLETE (R313). -/
  | vectorInstructionComplete (f : Nat)
  /-- Event CODEBOOK_REPLACE (R115). -/
  | codebookReplace (f : Nat)
  /-- Event GMSG_SLOT_WRITE (R229). -/
  | gmsgSlotWrite (f : Nat)
  /-- Event MATRIX_LEASE_GRANT (R332). -/
  | matrixLeaseGrant (cl : Nat)
  /-- Event MATRIX_STEP (R336). -/
  | matrixStep (cl : Nat)
  /-- Event MATRIX_COMMAND_COMPLETE (R334). -/
  | matrixCommandComplete (cl : Nat)
  /-- Event COPY_COMMAND_START (R350). -/
  | copyCommandStart (core : Nat)
  /-- Event COPY_COMMAND_COMPLETE (R349). -/
  | copyCommandComplete (core : Nat)
  /-- Event KICK_NOTICE_ARRIVAL (R214). -/
  | kickNoticeArrival (k : Nat)
  /-- Event KICK_TRANSFER_START (R214). -/
  | kickTransferStart (core : Nat)
  /-- Event KICK_TRANSFER_COMPLETE (R214). -/
  | kickTransferComplete (core : Nat)
  /-- Event INDEX_STVEC_PERFORM (R189). -/
  | indexStvecPerform (c : Nat)
  /-- Event INDEX_DLVEC_PERFORM (R190). -/
  | indexDlvecPerform (c : Nat)
  /-- Event VERSION_AREA_FREED (R191). -/
  | versionAreaFreed (c : Nat)
  /-- Event INDEX_LDNN_ACCEPT (R191). -/
  | indexLdnnAccept (c : Nat)
  /-- Event INDEX_SEARCH_COMPLETE (R191). -/
  | indexSearchComplete (c : Nat)
  /-- Event RECEIVE_POST_EVENT (R216). -/
  | receivePostEvent (f : Nat)
  /-- Event RECEIVE_CANCEL_EVENT (R365). -/
  | receiveCancelEvent (f : Nat)
  /-- Event EAGER_SEND_ARRIVAL (R216). -/
  | eagerSendArrival (k : Nat)
  /-- Event RENDEZVOUS_REQUEST_ARRIVAL (R218). -/
  | rendezvousRequestArrival (k : Nat)
  /-- Event RENDEZVOUS_PULL_COMPLETE (R218). -/
  | rendezvousPullComplete (c : Nat)
  /-- Event SEND_COMPLETION_ARRIVAL (R363). -/
  | sendCompletionArrival (k : Nat)
  /-- Event ACTIVE_MESSAGE_ARRIVAL (R211). -/
  | activeMessageArrival (k : Nat)
  /-- Event HANDLER_START (R212). -/
  | handlerStart (core : Nat)
  /-- Event HANDLER_REWRITE_END (R211). -/
  | handlerRewriteEnd (k : Nat)
  /-- Event HANDLER_REWRITE_TIMEOUT (R211). -/
  | handlerRewriteTimeout (k : Nat)
  /-- Event AMSG_RESPONSE_ARRIVAL (R367). -/
  | amsgResponseArrival (k : Nat)
  /-- Event BUILTIN_LOAD (R213). -/
  | builtinLoad (k : Nat)
  /-- Event BUILTIN_STORE (R213). -/
  | builtinStore (k : Nat)
  /-- Event BUILTIN_LDF (R213). -/
  | builtinLdf (k : Nat)
  /-- Event BUILTIN_LDFE (R213). -/
  | builtinLdfe (k : Nat)
  /-- Event BUILTIN_STE (R213). -/
  | builtinSte (k : Nat)
  /-- Event BUILTIN_STF (R213). -/
  | builtinStf (k : Nat)
  /-- Event LEASE_REFRESH (R213). -/
  | leaseRefresh (k : Nat)
  /-- Event REMOTE_ATOMIC (R213). -/
  | remoteAtomic (k : Nat)
  /-- Event TASK_NODE_RUN (R88). -/
  | taskNodeRun (cl node : Nat)
  /-- Event CONDITIONAL_NODE_RUN (R89). -/
  | conditionalNodeRun (cl node : Nat)
  /-- Event WHILE_NODE_RUN (R89). -/
  | whileNodeRun (cl node : Nat)
  /-- Event JOIN_NODE_RUN (R89). -/
  | joinNodeRun (cl node : Nat)
  /-- Event LATCH_NODE_RUN (R90). -/
  | latchNodeRun (cl node : Nat)
  /-- Event WALKER_NODE_COMPLETE (R89). -/
  | walkerNodeComplete (cl node : Nat)
  /-- Event CALLAT_ANSWER (R286). -/
  | callatAnswer (f : Nat)
  /-- Event TASK_START (R86). -/
  | taskStart (core : Nat)
  /-- Event LOAD_DATA_RETURN (R44). -/
  | loadDataReturn (f p : Nat)
  /-- Event STORE_ACK (R171). -/
  | storeAck (r : Nat) (wt : BitVec 64) (cause : BitVec 6)
  /-- Event PAGE_WALK_COMPLETE (R131). -/
  | pageWalkComplete (w : Nat)
  /-- Event HOME_REQUEST (R139). -/
  | homeRequest (r : Nat) (hint : BitVec 8)
  /-- Event REFUSAL_RETRY (R139). -/
  | refusalRetry (r : Nat)
  /-- Event OWNERSHIP_GRANT (R140). -/
  | ownershipGrant (rs : List Nat)
  /-- Event CLOCK_TICK (R167). -/
  | clockTick
  /-- Event HOST_LAUNCH_WRITE (R70). -/
  | hostLaunchWrite (ten : BitVec 4) (off : Nat) (bytes : List (BitVec 8))
  /-- Event HOST_MSIX_ENTRY_WRITE (R28). -/
  | hostMsixEntryWrite (ten : BitVec 4) (vec off : Nat) (bytes : List (BitVec 8))
  /-- Event HOST_SWITCH_WINDOW_ACCESS (R29). -/
  | hostSwitchWindowAccess (write : Bool) (off n : Nat) (bytes : List (BitVec 8))
  /-- Event DISTRIBUTOR_TURN (R75). -/
  | distributorTurn
  /-- Event CLAIM_COMPLETE (R77). -/
  | claimComplete (g : Nat)
  /-- Event IMAGE_CLOSE (R81). -/
  | imageClose (g : Nat)
  /-- Event LAUNCH_COMPLETION (R73). -/
  | launchCompletion (l : Nat)
  /-- Event PACKET_FORWARD (R197). -/
  | packetForward
  /-- Event DETOUR_TIMEOUT (R197). -/
  | detourTimeout (port : Nat)
  /-- Event PACKET_INGRESS (R208). -/
  | packetIngress
  /-- Event FLIT_TRANSMIT (R201). -/
  | flitTransmit (port : Nat)
  /-- Event FLIT_RECEIVE_IDLE (R199). -/
  | flitReceiveIdle (port : Nat) (f : Flit)
  /-- Event FLIT_RECEIVE_HEAD (R203). -/
  | flitReceiveHead (port : Nat) (f : Flit)
  /-- Event FLIT_RECEIVE_BODY (R203). -/
  | flitReceiveBody (port : Nat) (f : Flit)
  /-- Event FLIT_RECEIVE_STOMP (R433). -/
  | flitReceiveStomp (port : Nat) (f : Flit)
  /-- Event FLIT_RECEIVE_KEYTURN (R202). -/
  | flitReceiveKeyturn (port : Nat) (f : Flit)
  /-- Event FLIT_RECEIVE_NAK (R203). -/
  | flitReceiveNak (port : Nat) (f : Flit)
  /-- Event REPLAY_TIMEOUT (R203). -/
  | replayTimeout (port : Nat)
  /-- Event LINK_TRAINED (R244). -/
  | linkTrained (port : Nat) (width : BitVec 2) (mod : BitVec 6) (pod : BitVec 8) (inc : BitVec 16)
  /-- Event ETHERNET_FRAME_RECEIVE (R209). -/
  | ethernetFrameReceive (etype : BitVec 16) (p : Packet)
  /-- Event HEARTBEAT (R429). -/
  | heartbeat
  /-- Event MODULE_SILENCE_TIMEOUT (R429). -/
  | moduleSilenceTimeout (m : BitVec 6)
  /-- Event DEATH_NOTICE_RECEIVE (R430). -/
  | deathNoticeReceive (m : BitVec 6) (inc : BitVec 16)
  /-- Event EVICTED_RETURN_RECEIVE (R431). -/
  | evictedReturnReceive
  /-- Event E2E_RETRY_TIMEOUT (R434). -/
  | e2eRetryTimeout (src dst : Nat)
  /-- Event FAULT_COUNT_EVENT (R423). -/
  | faultCountEvent (u : FaultUnit) (bad : Option Nat)
  /-- Event ROUTER_DIE_B_LOSS (R438). -/
  | routerDieBLoss
  /-- Event ROUTER_DIE_A_LOSS (R438). -/
  | routerDieALoss
  /-- Event MODULE_RESET (R233). -/
  | moduleReset
  /-- Event THROTTLE (R245). -/
  | throttle
  /-- Event THERMAL_SHUTDOWN (R245). -/
  | thermalShutdown
  /-- Event MCTL_GO (R234). -/
  | mctlGo
  /-- Event GWCTL_PORT_DISABLE (R240). -/
  | gwctlPortDisable (port : Nat)
  /-- Event GWCTL_PORT_ENABLE (R240). -/
  | gwctlPortEnable (port : Nat)
  /-- Event GATEWAY_ROLE_TAKE (R18). -/
  | gatewayRoleTake (port : Nat)
  /-- Event TENANT_EN_CLEAR (R243). -/
  | tenantEnClear (ten : BitVec 4)
  /-- Event GATEWAY_START_WRITE (R441). -/
  | gatewayStartWrite (port : Nat) (v : BitVec 64)
  /-- Event GATEWAY_FIBRE_START (R441). -/
  | gatewayFibreStart (port : Nat)
  /-- Event DEVICE_REGISTER_WRITE (R235). -/
  | deviceRegisterWrite (host : Bool) (off n : Nat) (v : BitVec 64)
  /-- Event LOSS_OF_LINK_TRAINING (R436). -/
  | lossOfLinkTraining (port : Nat)
  /-- Event BACK_WITHIN_LIMITS (R245). -/
  | backWithinLimits
  /-- Event TLB_INVALIDATION_DONE (R308). -/
  | tlbInvalidationDone (f : Nat)
  /-- Event SCOPEMASK_PROPAGATED (R303). -/
  | scopemaskPropagated (f : Nat)
  /-- Event SWITCH_FREE_DONE (R371). -/
  | switchFreeDone (f : Nat)
  deriving DecidableEq, Repr

end Sys2Proof
end

