-- ==== Sys2Proof/WellFormed.lean ====
section
/-! DEFINITION. Which instructions the encoding admits: the reserved values of 12_encoding.md (R254-R265) refused.
A term that is not well formed has no word of its own; its use raises RESBITS (or ILLEGAL for an unassigned
register number) as R253 states. -/

namespace Sys2Proof

/-- The special register numbers of R270. -/
def sregAssigned (r : Nat) : Bool := decide (r ≤ 0x15) || (decide (0x18 ≤ r) && decide (r ≤ 0x1F))

/-- The engine register numbers of R264, R205 and R347. -/
def eregAssigned (eng r : Nat) : Bool :=
  match eng with
  | 0 => decide (r ≤ 3)
  | 1 => decide (r ≤ 2)
  | 2 => decide (r ≤ 1)
  | 3 => decide (r ≤ 1)
  | 4 => decide (r ≤ 1)
  | 5 => decide (r ≤ 3)
  | 6 => r == 0 || (decide (0x100 ≤ r) && decide (r ≤ 0x1FF))
  | 7 => decide (r ≤ 0x1F)
  | _ => false

/-- The reserved values of a load or store's imm15 (R260); `dirOk` is the ORD value its direction allows. -/
def accessOk (dirOk : Bool) (pol ord : BitVec 2) (scope : BitVec 4) : Bool :=
  dirOk && scope != 7 && (ord == 1 || ord == 2 || scope == 0) && (ord != 3 || pol == 0)

/-- The reserved values of an atomic's function field (R261). -/
def atomicOk (place ord : BitVec 2) (scope : BitVec 4) : Bool :=
  scope != 7 && (ord != 0 || scope == 0) && (place != 3 || (ord == 0 && scope == 0))

/-- The scope bits of SEND and AMSG (R265). -/
def relScopeOk (rel : Bool) (scope : BitVec 4) : Bool := if rel then scope != 7 else scope == 0

/-- Whether the encoding admits the instruction; an event always is. -/
def Instr.wf (i : Instr) : Bool :=
  match i with
  | .add _ _ _ _ _ _ sat uns => (sat || !uns)
  | .sub _ _ _ _ _ _ sat uns => (sat || !uns)
  | .and _ _ _ _ _ _ => true
  | .or _ _ _ _ _ _ => true
  | .xor _ _ _ _ _ _ => true
  | .andn _ _ _ _ _ _ => true
  | .shl _ _ _ _ _ _ => true
  | .shr _ _ _ _ _ _ => true
  | .sar _ _ _ _ _ _ => true
  | .ror _ _ _ _ _ _ => true
  | .min _ _ _ _ _ _ _ => true
  | .max _ _ _ _ _ _ _ => true
  | .cmpeq _ _ _ _ _ _ => true
  | .cmpne _ _ _ _ _ _ => true
  | .cmplt _ _ _ _ _ _ _ => true
  | .cmple _ _ _ _ _ _ _ => true
  | .clz _ _ _ _ => true
  | .popc _ _ _ _ => true
  | .sextb _ _ _ _ => true
  | .sexth _ _ _ _ => true
  | .sextw _ _ _ _ => true
  | .zextb _ _ _ _ => true
  | .zexth _ _ _ _ => true
  | .zextw _ _ _ _ => true
  | .sel _ _ _ _ _ _ => true
  | .mul _ _ _ _ _ _ => true
  | .mulh _ _ _ _ _ _ _ => true
  | .div _ _ _ _ _ _ _ => true
  | .rem _ _ _ _ _ _ _ => true
  | .hmix _ _ _ _ _ _ => true
  | .addi _ _ _ _ _ => true
  | .andi _ _ _ _ _ => true
  | .ori _ _ _ _ _ => true
  | .xori _ _ _ _ _ => true
  | .shli _ _ _ _ _ => true
  | .shri _ _ _ _ _ => true
  | .sari _ _ _ _ _ => true
  | .rori _ _ _ _ _ => true
  | .cmpeqi _ _ _ _ _ => true
  | .cmplti _ _ _ _ _ => true
  | .cmpltiUns _ _ _ _ _ => true
  | .extr _ _ _ _ pos len => decide (pos.toNat + len.toNat + 1 ≤ 64)
  | .insr _ _ _ _ pos len => decide (pos.toNat + len.toNat + 1 ≤ 64)
  | .lui _ _ _ => true
  | .fadd _ _ _ _ _ _ _ => true
  | .fsub _ _ _ _ _ _ _ => true
  | .fmul _ _ _ _ _ _ _ => true
  | .fdiv _ _ _ _ _ _ _ => true
  | .fsqrt _ _ _ _ _ => true
  | .fma _ _ _ _ _ _ _ => true
  | .fmin _ _ _ _ _ _ _ => true
  | .fmax _ _ _ _ _ _ _ => true
  | .fcmpEq _ _ _ _ _ _ _ => true
  | .fcmpLt _ _ _ _ _ _ _ => true
  | .fcmpLe _ _ _ _ _ _ _ => true
  | .fcvt _ _ _ _ _ => true
  | .fcvti _ _ _ _ _ => true
  | .fcvtf _ _ _ _ _ => true
  | .beq _ _ _ _ _ _ => true
  | .bne _ _ _ _ _ _ => true
  | .blt _ _ _ _ _ _ => true
  | .bge _ _ _ _ _ _ => true
  | .loopReg _ _ _ dist => dist != 0
  | .loopImm _ _ dist => dist != 0
  | .jal _ _ _ => true
  | .jr _ _ _ _ => true
  | .endloop _ => true
  | .callat _ _ _ _ _ => true
  | .exit _ => true
  | .trig _ => true
  | .yield _ => true
  | .align _ _ => true
  | .migr _ _ _ _ => true
  | .ldb _ _ _ _ pol ord scope _ => accessOk (ord != 2) pol ord scope
  | .ldh _ _ _ _ pol ord scope _ => accessOk (ord != 2) pol ord scope
  | .ldw _ _ _ _ pol ord scope _ => accessOk (ord != 2) pol ord scope
  | .ldd _ _ _ _ pol ord scope _ => accessOk (ord != 2) pol ord scope
  | .stb _ _ _ _ pol ord scope _ => accessOk (ord != 1) pol ord scope
  | .sth _ _ _ _ pol ord scope _ => accessOk (ord != 1) pol ord scope
  | .stw _ _ _ _ pol ord scope _ => accessOk (ord != 1) pol ord scope
  | .std _ _ _ _ pol ord scope _ => accessOk (ord != 1) pol ord scope
  | .ldf _ _ _ _ _ => true
  | .ldfe _ _ _ _ _ => true
  | .ste _ _ _ _ _ => true
  | .stf _ _ _ _ _ => true
  | .feq _ _ _ _ _ => true
  | .feset _ _ _ _ _ => true
  | .pref _ _ _ _ _ => true
  | .aadd _ _ _ _ _ _ place ord scope _ => atomicOk place ord scope
  | .amin _ _ _ _ _ _ place ord scope _ _ => atomicOk place ord scope
  | .amax _ _ _ _ _ _ place ord scope _ _ => atomicOk place ord scope
  | .aand _ _ _ _ _ _ place ord scope _ => atomicOk place ord scope
  | .aor _ _ _ _ _ _ place ord scope _ => atomicOk place ord scope
  | .axch _ _ _ _ _ _ place ord scope _ => atomicOk place ord scope
  | .acas _ _ _ _ _ _ place ord scope _ => atomicOk place ord scope
  | .adecp _ _ _ _ place ord scope _ => atomicOk place ord scope
  | .aincb _ _ _ _ _ _ place ord scope _ => atomicOk place ord scope
  | .fence _ scope => scope != 7
  | .waita _ _ _ _ _ _ _ => true
  | .notify _ _ _ _ _ => true
  | .barr _ _ ga la comb => (comb != 0 || (ga == 0 && !la))
  | .barj _ _ ga la comb => (comb != 0 || (ga == 0 && !la))
  | .scopeset _ _ _ _ => true
  | .launch _ _ _ _ => true
  | .nop _ => true
  | .trap _ _ => true
  | .eret _ => true
  | .hcall _ _ => true
  | .tlbinv _ ga la mode scope => (scope != 7 && (mode == 0 || (mode == 1 && ga == 0 && !la)))
  | .cacheop _ _ _ op => decide (op.toNat ≤ 2)
  | .imgsave _ _ _ => true
  | .imgload _ _ _ => true
  | .mfs _ _ r => sregAssigned r.toNat
  | .mts _ _ _ r => sregAssigned r.toNat
  | .erd _ _ eng r => eregAssigned eng.toNat r.toNat
  | .ewr _ _ _ eng r => eregAssigned eng.toNat r.toNat
  | .fmt _ _ _ _ _ _ _ _ => true
  | .vadd _ _ _ _ => true
  | .vsub _ _ _ _ => true
  | .vmul _ _ _ _ => true
  | .vdiv _ _ _ _ => true
  | .vfma _ _ _ _ => true
  | .vmin _ _ _ _ => true
  | .vmax _ _ _ _ => true
  | .vabs _ _ _ => true
  | .vexp _ _ _ => true
  | .vlog _ _ _ => true
  | .vsqrt _ _ _ => true
  | .vrsqrt _ _ _ => true
  | .vrcp _ _ _ => true
  | .vtanh _ _ _ => true
  | .vsigm _ _ _ => true
  | .vredAdd _ _ _ => true
  | .vredMin _ _ _ => true
  | .vredMax _ _ _ => true
  | .vscanAdd _ _ _ => true
  | .vscanMax _ _ _ => true
  | .vcmpEq _ _ _ _ => true
  | .vcmpLt _ _ _ _ => true
  | .vcmpLe _ _ _ _ => true
  | .vsel _ _ _ _ => true
  | .vbcast _ _ _ => true
  | .vgather _ _ _ _ => true
  | .vscat _ _ _ _ => true
  | .vtrans _ _ _ => true
  | .vcvt _ _ _ => true
  | .vqscale _ _ _ => true
  | .vcbk _ _ _ => true
  | .barq _ _ _ _ => true
  | .barqRes _ _ _ _ => true
  | .twait _ _ => true
  | .tdef _ _ _ _ => true
  | .tstate _ _ set st _ => (if set then st == 0 || st == 2 else st == 0)
  | .cbld _ _ _ => true
  | .gmsg _ _ _ _ => true
  | .gbel _ _ _ _ => true
  | .gmarg _ _ _ _ => true
  | .mma _ _ _ => true
  | .mmas _ _ _ _ => true
  | .mzero _ => true
  | .macc _ _ => true
  | .mst _ _ => true
  | .mlease _ bound => bound != 0
  | .mrel _ => true
  | .mstep _ _ => true
  | .cpyq _ _ _ _ _ _ => true
  | .kick _ _ _ _ _ => true
  | .cpywait _ => true
  | .cpystat _ _ => true
  | .ldnn _ _ _ _ _ => true
  | .stvec _ _ _ _ _ => true
  | .dlvec _ _ _ _ _ => true
  | .ixopen _ _ _ _ => true
  | .ixstat _ _ _ _ => true
  | .send _ _ _ scope rel => relScopeOk rel scope
  | .rpost _ _ _ => true
  | .rcancel _ _ _ => true
  | .rprobe _ _ _ _ => true
  | .rstat _ _ _ _ => true
  | .amsg _ _ _ _ _ scope rel => relScopeOk rel scope
  | .htset _ _ _ _ _ => true
  | .htclr _ _ _ => true
  | .smfr _ _ _ => true
  | .smal _ _ _ _ _ => true
  | .smquota _ _ => true
  | .kload _ _ _ _ => true
  | .kturn _ => true
  | .hist _ _ _ _ _ => true
  | .walk _ _ _ => true
  | .gwtake _ _ _ _ => true
  | .alignTimeout _ => true
  | .migrationArrival _ => true
  | .feWaitServed _ => true
  | .spuriousWake _ => true
  | .barrierEpisodeComplete _ => true
  | .dieBarrierReport _ _ => true
  | .gwqArm _ _ _ => true
  | .gwqDisarm _ => true
  | .vectorInstructionComplete _ => true
  | .codebookReplace _ => true
  | .gmsgSlotWrite _ => true
  | .matrixLeaseGrant _ => true
  | .matrixStep _ => true
  | .matrixCommandComplete _ => true
  | .copyCommandStart _ => true
  | .copyCommandComplete _ => true
  | .kickNoticeArrival _ => true
  | .kickTransferStart _ => true
  | .kickTransferComplete _ => true
  | .indexStvecPerform _ => true
  | .indexDlvecPerform _ => true
  | .versionAreaFreed _ => true
  | .indexLdnnAccept _ => true
  | .indexSearchComplete _ => true
  | .receivePostEvent _ => true
  | .receiveCancelEvent _ => true
  | .eagerSendArrival _ => true
  | .rendezvousRequestArrival _ => true
  | .rendezvousPullComplete _ => true
  | .sendCompletionArrival _ => true
  | .activeMessageArrival _ => true
  | .handlerStart _ => true
  | .handlerRewriteEnd _ => true
  | .handlerRewriteTimeout _ => true
  | .amsgResponseArrival _ => true
  | .builtinLoad _ => true
  | .builtinStore _ => true
  | .builtinLdf _ => true
  | .builtinLdfe _ => true
  | .builtinSte _ => true
  | .builtinStf _ => true
  | .leaseRefresh _ => true
  | .remoteAtomic _ => true
  | .taskNodeRun _ _ => true
  | .conditionalNodeRun _ _ => true
  | .whileNodeRun _ _ => true
  | .joinNodeRun _ _ => true
  | .latchNodeRun _ _ => true
  | .walkerNodeComplete _ _ => true
  | .callatAnswer _ => true
  | .taskStart _ => true
  | .loadDataReturn _ _ => true
  | .storeAck _ _ _ => true
  | .pageWalkComplete _ => true
  | .homeRequest _ _ => true
  | .refusalRetry _ => true
  | .ownershipGrant _ => true
  | .clockTick => true
  | .hostLaunchWrite _ _ _ => true
  | .hostMsixEntryWrite _ _ _ _ => true
  | .hostSwitchWindowAccess _ _ _ _ => true
  | .distributorTurn => true
  | .claimComplete _ => true
  | .imageClose _ => true
  | .launchCompletion _ => true
  | .packetForward => true
  | .detourTimeout _ => true
  | .packetIngress => true
  | .flitTransmit _ => true
  | .flitReceiveIdle _ _ => true
  | .flitReceiveHead _ _ => true
  | .flitReceiveBody _ _ => true
  | .flitReceiveStomp _ _ => true
  | .flitReceiveKeyturn _ _ => true
  | .flitReceiveNak _ _ => true
  | .replayTimeout _ => true
  | .linkTrained _ _ _ _ _ => true
  | .ethernetFrameReceive _ _ => true
  | .heartbeat => true
  | .moduleSilenceTimeout _ => true
  | .deathNoticeReceive _ _ => true
  | .evictedReturnReceive => true
  | .e2eRetryTimeout _ _ => true
  | .faultCountEvent _ _ => true
  | .routerDieBLoss => true
  | .routerDieALoss => true
  | .moduleReset => true
  | .throttle => true
  | .thermalShutdown => true
  | .mctlGo => true
  | .gwctlPortDisable _ => true
  | .gwctlPortEnable _ => true
  | .gatewayRoleTake _ => true
  | .tenantEnClear _ => true
  | .gatewayStartWrite _ _ => true
  | .gatewayFibreStart _ => true
  | .deviceRegisterWrite _ _ _ _ => true
  | .lossOfLinkTraining _ => true
  | .backWithinLimits => true
  | .tlbInvalidationDone _ => true
  | .scopemaskPropagated _ => true
  | .switchFreeDone _ => true

end Sys2Proof
end

