-- ==== Sys2Proof/Decode.lean ====
section
/-! DEFINITION. The decoder, total on any word and rejecting by name, and after it the encoder, both from the
encoding tables of 12_encoding.md (R251-R265, R270). -/

namespace Sys2Proof

/-- Why a word is no instruction: R253 check 1 (ILLEGAL) or check 2 (RESBITS). -/
inductive Reject where
  /-- an unassigned major opcode, code, engine or register number -/
  | illegal
  /-- a field that must be zero is not, or holds a reserved value -/
  | resbits
  /-- fewer than four bytes -/
  | short
  deriving DecidableEq, Repr

/-- Bits [lo + len - 1 : lo] of a word as a number (R5). -/
def fN (w lo len : Nat) : Nat := w / 2 ^ lo % 2 ^ len

/-- Bits [lo + len - 1 : lo] of a word as a field. -/
def fV (w lo len : Nat) : BitVec len := BitVec.ofNat len (w / 2 ^ lo)

/-- A one-bit field. -/
def fB (w lo : Nat) : Bool := w / 2 ^ lo % 2 == 1

/-- An instruction whose zero fields are zero and whose values are not reserved (R253 check 2). -/
def need (zeros : Bool) (i : Instr) : Except Reject Instr :=
  if zeros && i.wf then .ok i else .error .resbits

/-- The same for the words that name a register by number: an unassigned number raises ILLEGAL first
(R264, R270, R253). -/
def needAssigned (zeros : Bool) (i : Instr) : Except Reject Instr :=
  if !i.wf then .error .illegal else if zeros then .ok i else .error .resbits

/-- Major 0x00: its assigned codes (R254 and the table of its group). -/
def dec00 (w : Nat) : Except Reject Instr :=
  match fN w 0 6 with
  | 0x0 => need (fN w 6 2 == 0) (.add (fB w 31) (fV w 20 4) (fV w 16 4) (fB w 15) (fV w 11 4) (fB w 10) (fB w 9) (fB w 8))
  | 0x1 => need (fN w 6 2 == 0) (.sub (fB w 31) (fV w 20 4) (fV w 16 4) (fB w 15) (fV w 11 4) (fB w 10) (fB w 9) (fB w 8))
  | 0x2 => need (fN w 6 4 == 0) (.and (fB w 31) (fV w 20 4) (fV w 16 4) (fB w 15) (fV w 11 4) (fB w 10))
  | 0x3 => need (fN w 6 4 == 0) (.or (fB w 31) (fV w 20 4) (fV w 16 4) (fB w 15) (fV w 11 4) (fB w 10))
  | 0x4 => need (fN w 6 4 == 0) (.xor (fB w 31) (fV w 20 4) (fV w 16 4) (fB w 15) (fV w 11 4) (fB w 10))
  | 0x5 => need (fN w 6 4 == 0) (.andn (fB w 31) (fV w 20 4) (fV w 16 4) (fB w 15) (fV w 11 4) (fB w 10))
  | 0x6 => need (fN w 6 4 == 0) (.shl (fB w 31) (fV w 20 4) (fV w 16 4) (fB w 15) (fV w 11 4) (fB w 10))
  | 0x7 => need (fN w 6 4 == 0) (.shr (fB w 31) (fV w 20 4) (fV w 16 4) (fB w 15) (fV w 11 4) (fB w 10))
  | 0x8 => need (fN w 6 4 == 0) (.sar (fB w 31) (fV w 20 4) (fV w 16 4) (fB w 15) (fV w 11 4) (fB w 10))
  | 0x9 => need (fN w 6 4 == 0) (.ror (fB w 31) (fV w 20 4) (fV w 16 4) (fB w 15) (fV w 11 4) (fB w 10))
  | 0xA => need (fN w 6 2 == 0 && fN w 9 1 == 0) (.min (fB w 31) (fV w 20 4) (fV w 16 4) (fB w 15) (fV w 11 4) (fB w 10) (fB w 8))
  | 0xB => need (fN w 6 2 == 0 && fN w 9 1 == 0) (.max (fB w 31) (fV w 20 4) (fV w 16 4) (fB w 15) (fV w 11 4) (fB w 10) (fB w 8))
  | 0xC => need (fN w 6 4 == 0) (.cmpeq (fB w 31) (fV w 20 4) (fV w 16 4) (fB w 15) (fV w 11 4) (fB w 10))
  | 0xD => need (fN w 6 4 == 0) (.cmpne (fB w 31) (fV w 20 4) (fV w 16 4) (fB w 15) (fV w 11 4) (fB w 10))
  | 0xE => need (fN w 6 2 == 0 && fN w 9 1 == 0) (.cmplt (fB w 31) (fV w 20 4) (fV w 16 4) (fB w 15) (fV w 11 4) (fB w 10) (fB w 8))
  | 0xF => need (fN w 6 2 == 0 && fN w 9 1 == 0) (.cmple (fB w 31) (fV w 20 4) (fV w 16 4) (fB w 15) (fV w 11 4) (fB w 10) (fB w 8))
  | 0x10 => need (fN w 11 4 == 0 && fN w 10 1 == 0 && fN w 6 4 == 0) (.clz (fB w 31) (fV w 20 4) (fV w 16 4) (fB w 15))
  | 0x11 => need (fN w 11 4 == 0 && fN w 10 1 == 0 && fN w 6 4 == 0) (.popc (fB w 31) (fV w 20 4) (fV w 16 4) (fB w 15))
  | 0x12 => need (fN w 11 4 == 0 && fN w 10 1 == 0 && fN w 6 4 == 0) (.sextb (fB w 31) (fV w 20 4) (fV w 16 4) (fB w 15))
  | 0x13 => need (fN w 11 4 == 0 && fN w 10 1 == 0 && fN w 6 4 == 0) (.sexth (fB w 31) (fV w 20 4) (fV w 16 4) (fB w 15))
  | 0x14 => need (fN w 11 4 == 0 && fN w 10 1 == 0 && fN w 6 4 == 0) (.sextw (fB w 31) (fV w 20 4) (fV w 16 4) (fB w 15))
  | 0x15 => need (fN w 11 4 == 0 && fN w 10 1 == 0 && fN w 6 4 == 0) (.zextb (fB w 31) (fV w 20 4) (fV w 16 4) (fB w 15))
  | 0x16 => need (fN w 11 4 == 0 && fN w 10 1 == 0 && fN w 6 4 == 0) (.zexth (fB w 31) (fV w 20 4) (fV w 16 4) (fB w 15))
  | 0x17 => need (fN w 11 4 == 0 && fN w 10 1 == 0 && fN w 6 4 == 0) (.zextw (fB w 31) (fV w 20 4) (fV w 16 4) (fB w 15))
  | 0x18 => need (fN w 6 4 == 0) (.sel (fB w 31) (fV w 20 4) (fV w 16 4) (fB w 15) (fV w 11 4) (fB w 10))
  | _ => .error .illegal

/-- Major 0x01: its assigned codes (R254 and the table of its group). -/
def dec01 (w : Nat) : Except Reject Instr :=
  match fN w 0 6 with
  | 0x0 => need (fN w 6 4 == 0) (.mul (fB w 31) (fV w 20 4) (fV w 16 4) (fB w 15) (fV w 11 4) (fB w 10))
  | 0x1 => need (fN w 6 2 == 0 && fN w 9 1 == 0) (.mulh (fB w 31) (fV w 20 4) (fV w 16 4) (fB w 15) (fV w 11 4) (fB w 10) (fB w 8))
  | 0x2 => need (fN w 6 2 == 0 && fN w 9 1 == 0) (.div (fB w 31) (fV w 20 4) (fV w 16 4) (fB w 15) (fV w 11 4) (fB w 10) (fB w 8))
  | 0x3 => need (fN w 6 2 == 0 && fN w 9 1 == 0) (.rem (fB w 31) (fV w 20 4) (fV w 16 4) (fB w 15) (fV w 11 4) (fB w 10) (fB w 8))
  | 0x4 => need (fN w 6 4 == 0) (.hmix (fB w 31) (fV w 20 4) (fV w 16 4) (fB w 15) (fV w 11 4) (fB w 10))
  | _ => .error .illegal

/-- Major 0x10 (R254). -/
def dec10 (w : Nat) : Except Reject Instr :=
  need (true) (.addi (fB w 31) (fV w 20 4) (fV w 16 4) (fB w 15) (fV w 0 15))

/-- Major 0x11 (R254). -/
def dec11 (w : Nat) : Except Reject Instr :=
  need (true) (.andi (fB w 31) (fV w 20 4) (fV w 16 4) (fB w 15) (fV w 0 15))

/-- Major 0x12 (R254). -/
def dec12 (w : Nat) : Except Reject Instr :=
  need (true) (.ori (fB w 31) (fV w 20 4) (fV w 16 4) (fB w 15) (fV w 0 15))

/-- Major 0x13 (R254). -/
def dec13 (w : Nat) : Except Reject Instr :=
  need (true) (.xori (fB w 31) (fV w 20 4) (fV w 16 4) (fB w 15) (fV w 0 15))

/-- Major 0x14 (R254). -/
def dec14 (w : Nat) : Except Reject Instr :=
  need (fN w 6 9 == 0) (.shli (fB w 31) (fV w 20 4) (fV w 16 4) (fB w 15) (fV w 0 6))

/-- Major 0x15 (R254). -/
def dec15 (w : Nat) : Except Reject Instr :=
  need (fN w 6 9 == 0) (.shri (fB w 31) (fV w 20 4) (fV w 16 4) (fB w 15) (fV w 0 6))

/-- Major 0x16 (R254). -/
def dec16 (w : Nat) : Except Reject Instr :=
  need (fN w 6 9 == 0) (.sari (fB w 31) (fV w 20 4) (fV w 16 4) (fB w 15) (fV w 0 6))

/-- Major 0x17 (R254). -/
def dec17 (w : Nat) : Except Reject Instr :=
  need (fN w 6 9 == 0) (.rori (fB w 31) (fV w 20 4) (fV w 16 4) (fB w 15) (fV w 0 6))

/-- Major 0x18 (R254). -/
def dec18 (w : Nat) : Except Reject Instr :=
  need (true) (.cmpeqi (fB w 31) (fV w 20 4) (fV w 16 4) (fB w 15) (fV w 0 15))

/-- Major 0x19 (R254). -/
def dec19 (w : Nat) : Except Reject Instr :=
  need (true) (.cmplti (fB w 31) (fV w 20 4) (fV w 16 4) (fB w 15) (fV w 0 15))

/-- Major 0x1A (R254). -/
def dec1A (w : Nat) : Except Reject Instr :=
  need (true) (.cmpltiUns (fB w 31) (fV w 20 4) (fV w 16 4) (fB w 15) (fV w 0 15))

/-- Major 0x1B (R254). -/
def dec1B (w : Nat) : Except Reject Instr :=
  need (fN w 12 3 == 0) (.extr (fB w 31) (fV w 20 4) (fV w 16 4) (fB w 15) (fV w 6 6) (fV w 0 6))

/-- Major 0x1C (R254). -/
def dec1C (w : Nat) : Except Reject Instr :=
  need (fN w 12 3 == 0) (.insr (fB w 31) (fV w 20 4) (fV w 16 4) (fB w 15) (fV w 6 6) (fV w 0 6))

/-- Major 0x1D (R254). -/
def dec1D (w : Nat) : Except Reject Instr :=
  need (true) (.lui (fB w 31) (fV w 20 4) (fV w 0 20))

/-- Major 0x20: its assigned codes (R254 and the table of its group). -/
def dec20 (w : Nat) : Except Reject Instr :=
  match fN w 0 4 with
  | 0x0 => need (fN w 5 5 == 0) (.fadd (fB w 31) (fV w 20 4) (fV w 16 4) (fB w 15) (fV w 11 4) (fB w 10) (fB w 4))
  | 0x1 => need (fN w 5 5 == 0) (.fsub (fB w 31) (fV w 20 4) (fV w 16 4) (fB w 15) (fV w 11 4) (fB w 10) (fB w 4))
  | 0x2 => need (fN w 5 5 == 0) (.fmul (fB w 31) (fV w 20 4) (fV w 16 4) (fB w 15) (fV w 11 4) (fB w 10) (fB w 4))
  | 0x3 => need (fN w 5 5 == 0) (.fdiv (fB w 31) (fV w 20 4) (fV w 16 4) (fB w 15) (fV w 11 4) (fB w 10) (fB w 4))
  | 0x4 => need (fN w 11 4 == 0 && fN w 10 1 == 0 && fN w 5 5 == 0) (.fsqrt (fB w 31) (fV w 20 4) (fV w 16 4) (fB w 15) (fB w 4))
  | 0x5 => need (fN w 5 5 == 0) (.fma (fB w 31) (fV w 20 4) (fV w 16 4) (fB w 15) (fV w 11 4) (fB w 10) (fB w 4))
  | 0x6 => need (fN w 5 5 == 0) (.fmin (fB w 31) (fV w 20 4) (fV w 16 4) (fB w 15) (fV w 11 4) (fB w 10) (fB w 4))
  | 0x7 => need (fN w 5 5 == 0) (.fmax (fB w 31) (fV w 20 4) (fV w 16 4) (fB w 15) (fV w 11 4) (fB w 10) (fB w 4))
  | 0x8 => need (fN w 5 5 == 0) (.fcmpEq (fB w 31) (fV w 20 4) (fV w 16 4) (fB w 15) (fV w 11 4) (fB w 10) (fB w 4))
  | 0x9 => need (fN w 5 5 == 0) (.fcmpLt (fB w 31) (fV w 20 4) (fV w 16 4) (fB w 15) (fV w 11 4) (fB w 10) (fB w 4))
  | 0xA => need (fN w 5 5 == 0) (.fcmpLe (fB w 31) (fV w 20 4) (fV w 16 4) (fB w 15) (fV w 11 4) (fB w 10) (fB w 4))
  | 0xB => need (fN w 11 4 == 0 && fN w 10 1 == 0 && fN w 5 5 == 0) (.fcvt (fB w 31) (fV w 20 4) (fV w 16 4) (fB w 15) (fB w 4))
  | 0xC => need (fN w 11 4 == 0 && fN w 10 1 == 0 && fN w 5 5 == 0) (.fcvti (fB w 31) (fV w 20 4) (fV w 16 4) (fB w 15) (fB w 4))
  | 0xD => need (fN w 11 4 == 0 && fN w 10 1 == 0 && fN w 5 5 == 0) (.fcvtf (fB w 31) (fV w 20 4) (fV w 16 4) (fB w 15) (fB w 4))
  | _ => .error .illegal

/-- Major 0x28 (R254). -/
def dec28 (w : Nat) : Except Reject Instr :=
  need (true) (.beq (fB w 31) (fV w 20 4) (fB w 19) (fV w 15 4) (fB w 14) (fV w 0 14))

/-- Major 0x29 (R254). -/
def dec29 (w : Nat) : Except Reject Instr :=
  need (true) (.bne (fB w 31) (fV w 20 4) (fB w 19) (fV w 15 4) (fB w 14) (fV w 0 14))

/-- Major 0x2A (R254). -/
def dec2A (w : Nat) : Except Reject Instr :=
  need (true) (.blt (fB w 31) (fV w 20 4) (fB w 19) (fV w 15 4) (fB w 14) (fV w 0 14))

/-- Major 0x2B (R254). -/
def dec2B (w : Nat) : Except Reject Instr :=
  need (true) (.bge (fB w 31) (fV w 20 4) (fB w 19) (fV w 15 4) (fB w 14) (fV w 0 14))

/-- Major 0x2C (R254). -/
def dec2C (w : Nat) : Except Reject Instr :=
  need (fN w 15 4 == 0 && fN w 14 1 == 0) (.loopReg (fB w 31) (fV w 20 4) (fB w 19) (fV w 0 14))

/-- Major 0x2D (R254). -/
def dec2D (w : Nat) : Except Reject Instr :=
  need (true) (.loopImm (fB w 31) (fV w 8 16) (fV w 0 8))

/-- Major 0x2E (R254). -/
def dec2E (w : Nat) : Except Reject Instr :=
  need (true) (.jal (fB w 31) (fV w 20 4) (fV w 0 20))

/-- Major 0x2F: its assigned codes (R254 and the table of its group). -/
def dec2F (w : Nat) : Except Reject Instr :=
  match fN w 0 4 with
  | 0x0 => need (fN w 11 4 == 0 && fN w 10 1 == 0 && fN w 4 6 == 0) (.jr (fB w 31) (fV w 20 4) (fV w 16 4) (fB w 15))
  | 0x1 => need (fN w 20 4 == 0 && fN w 16 4 == 0 && fN w 15 1 == 0 && fN w 11 4 == 0 && fN w 10 1 == 0 && fN w 4 6 == 0) (.endloop (fB w 31))
  | 0x2 => need (fN w 20 4 == 0 && fN w 4 6 == 0) (.callat (fB w 31) (fV w 16 4) (fB w 15) (fV w 11 4) (fB w 10))
  | 0x3 => need (fN w 20 4 == 0 && fN w 16 4 == 0 && fN w 15 1 == 0 && fN w 11 4 == 0 && fN w 10 1 == 0 && fN w 4 6 == 0) (.exit (fB w 31))
  | 0x4 => need (fN w 20 4 == 0 && fN w 16 4 == 0 && fN w 15 1 == 0 && fN w 11 4 == 0 && fN w 10 1 == 0 && fN w 4 6 == 0) (.trig (fB w 31))
  | 0x5 => need (fN w 20 4 == 0 && fN w 16 4 == 0 && fN w 15 1 == 0 && fN w 11 4 == 0 && fN w 10 1 == 0 && fN w 4 6 == 0) (.yield (fB w 31))
  | 0x6 => need (fN w 20 4 == 0 && fN w 16 4 == 0 && fN w 15 1 == 0 && fN w 11 4 == 0 && fN w 10 1 == 0) (.align (fB w 31) (fV w 4 6))
  | 0x7 => need (fN w 11 4 == 0 && fN w 10 1 == 0 && fN w 4 6 == 0) (.migr (fB w 31) (fV w 20 4) (fV w 16 4) (fB w 15))
  | _ => .error .illegal

/-- Major 0x30 (R254). -/
def dec30 (w : Nat) : Except Reject Instr :=
  need (true) (.ldb (fB w 31) (fV w 20 4) (fV w 16 4) (fB w 15) (fV w 13 2) (fV w 11 2) (fV w 7 4) (fV w 0 7))

/-- Major 0x31 (R254). -/
def dec31 (w : Nat) : Except Reject Instr :=
  need (true) (.ldh (fB w 31) (fV w 20 4) (fV w 16 4) (fB w 15) (fV w 13 2) (fV w 11 2) (fV w 7 4) (fV w 0 7))

/-- Major 0x32 (R254). -/
def dec32 (w : Nat) : Except Reject Instr :=
  need (true) (.ldw (fB w 31) (fV w 20 4) (fV w 16 4) (fB w 15) (fV w 13 2) (fV w 11 2) (fV w 7 4) (fV w 0 7))

/-- Major 0x33 (R254). -/
def dec33 (w : Nat) : Except Reject Instr :=
  need (true) (.ldd (fB w 31) (fV w 20 4) (fV w 16 4) (fB w 15) (fV w 13 2) (fV w 11 2) (fV w 7 4) (fV w 0 7))

/-- Major 0x34 (R254). -/
def dec34 (w : Nat) : Except Reject Instr :=
  need (true) (.stb (fB w 31) (fV w 20 4) (fV w 16 4) (fB w 15) (fV w 13 2) (fV w 11 2) (fV w 7 4) (fV w 0 7))

/-- Major 0x35 (R254). -/
def dec35 (w : Nat) : Except Reject Instr :=
  need (true) (.sth (fB w 31) (fV w 20 4) (fV w 16 4) (fB w 15) (fV w 13 2) (fV w 11 2) (fV w 7 4) (fV w 0 7))

/-- Major 0x36 (R254). -/
def dec36 (w : Nat) : Except Reject Instr :=
  need (true) (.stw (fB w 31) (fV w 20 4) (fV w 16 4) (fB w 15) (fV w 13 2) (fV w 11 2) (fV w 7 4) (fV w 0 7))

/-- Major 0x37 (R254). -/
def dec37 (w : Nat) : Except Reject Instr :=
  need (true) (.std (fB w 31) (fV w 20 4) (fV w 16 4) (fB w 15) (fV w 13 2) (fV w 11 2) (fV w 7 4) (fV w 0 7))

/-- Major 0x38 (R254). -/
def dec38 (w : Nat) : Except Reject Instr :=
  need (fN w 7 8 == 0) (.ldf (fB w 31) (fV w 20 4) (fV w 16 4) (fB w 15) (fV w 0 7))

/-- Major 0x39 (R254). -/
def dec39 (w : Nat) : Except Reject Instr :=
  need (fN w 7 8 == 0) (.ldfe (fB w 31) (fV w 20 4) (fV w 16 4) (fB w 15) (fV w 0 7))

/-- Major 0x3A (R254). -/
def dec3A (w : Nat) : Except Reject Instr :=
  need (fN w 7 8 == 0) (.ste (fB w 31) (fV w 20 4) (fV w 16 4) (fB w 15) (fV w 0 7))

/-- Major 0x3B (R254). -/
def dec3B (w : Nat) : Except Reject Instr :=
  need (fN w 7 8 == 0) (.stf (fB w 31) (fV w 20 4) (fV w 16 4) (fB w 15) (fV w 0 7))

/-- Major 0x3C (R254). -/
def dec3C (w : Nat) : Except Reject Instr :=
  need (fN w 7 8 == 0) (.feq (fB w 31) (fV w 20 4) (fV w 16 4) (fB w 15) (fV w 0 7))

/-- Major 0x3D (R254). -/
def dec3D (w : Nat) : Except Reject Instr :=
  need (fN w 20 4 == 0 && fN w 7 7 == 0) (.feset (fB w 31) (fV w 16 4) (fB w 15) (fB w 14) (fV w 0 7))

/-- Major 0x3E (R254). -/
def dec3E (w : Nat) : Except Reject Instr :=
  need (fN w 20 4 == 0 && fN w 7 6 == 0) (.pref (fB w 31) (fV w 16 4) (fB w 15) (fV w 13 2) (fV w 0 7))

/-- Major 0x40 (R254). -/
def dec40 (w : Nat) : Except Reject Instr :=
  need (fN w 1 1 == 0) (.aadd (fB w 31) (fV w 20 4) (fV w 16 4) (fB w 15) (fV w 11 4) (fB w 10) (fV w 8 2) (fV w 6 2) (fV w 2 4) (fB w 0))

/-- Major 0x41 (R254). -/
def dec41 (w : Nat) : Except Reject Instr :=
  need (true) (.amin (fB w 31) (fV w 20 4) (fV w 16 4) (fB w 15) (fV w 11 4) (fB w 10) (fV w 8 2) (fV w 6 2) (fV w 2 4) (fB w 1) (fB w 0))

/-- Major 0x42 (R254). -/
def dec42 (w : Nat) : Except Reject Instr :=
  need (true) (.amax (fB w 31) (fV w 20 4) (fV w 16 4) (fB w 15) (fV w 11 4) (fB w 10) (fV w 8 2) (fV w 6 2) (fV w 2 4) (fB w 1) (fB w 0))

/-- Major 0x43 (R254). -/
def dec43 (w : Nat) : Except Reject Instr :=
  need (fN w 1 1 == 0) (.aand (fB w 31) (fV w 20 4) (fV w 16 4) (fB w 15) (fV w 11 4) (fB w 10) (fV w 8 2) (fV w 6 2) (fV w 2 4) (fB w 0))

/-- Major 0x44 (R254). -/
def dec44 (w : Nat) : Except Reject Instr :=
  need (fN w 1 1 == 0) (.aor (fB w 31) (fV w 20 4) (fV w 16 4) (fB w 15) (fV w 11 4) (fB w 10) (fV w 8 2) (fV w 6 2) (fV w 2 4) (fB w 0))

/-- Major 0x45 (R254). -/
def dec45 (w : Nat) : Except Reject Instr :=
  need (fN w 1 1 == 0) (.axch (fB w 31) (fV w 20 4) (fV w 16 4) (fB w 15) (fV w 11 4) (fB w 10) (fV w 8 2) (fV w 6 2) (fV w 2 4) (fB w 0))

/-- Major 0x46 (R254). -/
def dec46 (w : Nat) : Except Reject Instr :=
  need (fN w 1 1 == 0) (.acas (fB w 31) (fV w 20 4) (fV w 16 4) (fB w 15) (fV w 11 4) (fB w 10) (fV w 8 2) (fV w 6 2) (fV w 2 4) (fB w 0))

/-- Major 0x47: its assigned codes (R254 and the table of its group). -/
def dec47 (w : Nat) : Except Reject Instr :=
  match fN w 1 1 with
  | 0x0 => need (fN w 11 4 == 0 && fN w 10 1 == 0) (.adecp (fB w 31) (fV w 20 4) (fV w 16 4) (fB w 15) (fV w 8 2) (fV w 6 2) (fV w 2 4) (fB w 0))
  | 0x1 => need (true) (.aincb (fB w 31) (fV w 20 4) (fV w 16 4) (fB w 15) (fV w 11 4) (fB w 10) (fV w 8 2) (fV w 6 2) (fV w 2 4) (fB w 0))
  | _ => .error .illegal

/-- Major 0x48 (R254). -/
def dec48 (w : Nat) : Except Reject Instr :=
  need (fN w 20 4 == 0 && fN w 16 4 == 0 && fN w 15 1 == 0 && fN w 11 4 == 0 && fN w 10 1 == 0 && fN w 4 6 == 0) (.fence (fB w 31) (fV w 0 4))

/-- Major 0x49 (R254). -/
def dec49 (w : Nat) : Except Reject Instr :=
  need (fN w 1 9 == 0) (.waita (fB w 31) (fV w 20 4) (fV w 16 4) (fB w 15) (fV w 11 4) (fB w 10) (fB w 0))

/-- Major 0x4A (R254). -/
def dec4A (w : Nat) : Except Reject Instr :=
  need (fN w 11 4 == 0 && fN w 10 1 == 0 && fN w 1 9 == 0) (.notify (fB w 31) (fV w 20 4) (fV w 16 4) (fB w 15) (fB w 0))

/-- Major 0x4B (R254). -/
def dec4B (w : Nat) : Except Reject Instr :=
  need (fN w 11 4 == 0 && fN w 10 1 == 0 && fN w 2 8 == 0) (.barr (fB w 31) (fV w 20 4) (fV w 16 4) (fB w 15) (fV w 0 2))

/-- Major 0x4C (R254). -/
def dec4C (w : Nat) : Except Reject Instr :=
  need (fN w 11 4 == 0 && fN w 10 1 == 0 && fN w 2 8 == 0) (.barj (fB w 31) (fV w 20 4) (fV w 16 4) (fB w 15) (fV w 0 2))

/-- Major 0x4D (R254). -/
def dec4D (w : Nat) : Except Reject Instr :=
  need (fN w 20 4 == 0 && fN w 11 4 == 0 && fN w 10 1 == 0 && fN w 3 7 == 0) (.scopeset (fB w 31) (fV w 16 4) (fB w 15) (fV w 0 3))

/-- Major 0x4E (R254). -/
def dec4E (w : Nat) : Except Reject Instr :=
  need (fN w 11 4 == 0 && fN w 10 1 == 0 && fN w 0 10 == 0) (.launch (fB w 31) (fV w 20 4) (fV w 16 4) (fB w 15))

/-- Major 0x50: its assigned codes (R254 and the table of its group). -/
def dec50 (w : Nat) : Except Reject Instr :=
  match fN w 0 4 with
  | 0x0 => need (fN w 20 4 == 0 && fN w 16 4 == 0 && fN w 15 1 == 0 && fN w 11 4 == 0 && fN w 10 1 == 0 && fN w 4 6 == 0) (.nop (fB w 31))
  | 0x1 => need (fN w 20 4 == 0 && fN w 16 4 == 0 && fN w 15 1 == 0 && fN w 11 4 == 0 && fN w 10 1 == 0) (.trap (fB w 31) (fV w 4 6))
  | 0x2 => need (fN w 20 4 == 0 && fN w 16 4 == 0 && fN w 15 1 == 0 && fN w 11 4 == 0 && fN w 10 1 == 0 && fN w 4 6 == 0) (.eret (fB w 31))
  | 0x3 => need (fN w 20 4 == 0 && fN w 16 4 == 0 && fN w 15 1 == 0 && fN w 11 4 == 0 && fN w 10 1 == 0) (.hcall (fB w 31) (fV w 4 6))
  | 0x4 => need (fN w 20 4 == 0 && fN w 11 4 == 0 && fN w 10 1 == 0) (.tlbinv (fB w 31) (fV w 16 4) (fB w 15) (fV w 8 2) (fV w 4 4))
  | 0x5 => need (fN w 20 4 == 0 && fN w 11 4 == 0 && fN w 10 1 == 0) (.cacheop (fB w 31) (fV w 16 4) (fB w 15) (fV w 4 6))
  | 0x6 => need (fN w 20 4 == 0 && fN w 11 4 == 0 && fN w 10 1 == 0 && fN w 4 6 == 0) (.imgsave (fB w 31) (fV w 16 4) (fB w 15))
  | 0x7 => need (fN w 20 4 == 0 && fN w 11 4 == 0 && fN w 10 1 == 0 && fN w 4 6 == 0) (.imgload (fB w 31) (fV w 16 4) (fB w 15))
  | _ => .error .illegal

/-- Major 0x51 (R254). -/
def dec51 (w : Nat) : Except Reject Instr :=
  needAssigned (fN w 16 4 == 0 && fN w 15 1 == 0 && fN w 6 9 == 0) (.mfs (fB w 31) (fV w 20 4) (fV w 0 6))

/-- Major 0x52 (R254). -/
def dec52 (w : Nat) : Except Reject Instr :=
  needAssigned (fN w 20 4 == 0 && fN w 6 9 == 0) (.mts (fB w 31) (fV w 16 4) (fB w 15) (fV w 0 6))

/-- Major 0x53 (R254). -/
def dec53 (w : Nat) : Except Reject Instr :=
  needAssigned (fN w 16 4 == 0 && fN w 15 1 == 0 && fN w 14 1 == 0) (.erd (fB w 31) (fV w 20 4) (fV w 10 4) (fV w 0 10))

/-- Major 0x54 (R254). -/
def dec54 (w : Nat) : Except Reject Instr :=
  needAssigned (fN w 15 4 == 0 && fN w 14 1 == 0) (.ewr (fB w 31) (fV w 20 4) (fB w 19) (fV w 10 4) (fV w 0 10))

/-- Major 0x58 (R254). -/
def dec58 (w : Nat) : Except Reject Instr :=
  need (fN w 0 2 == 0) (.fmt (fB w 31) (fV w 20 4) (fV w 16 4) (fV w 12 4) (fV w 10 2) (fV w 4 6) (fB w 3) (fB w 2))

/-- Major 0x60: its assigned codes (R254 and the table of its group). -/
def dec60 (w : Nat) : Except Reject Instr :=
  match fN w 0 6 with
  | 0x0 => need (true) (.vadd (fB w 31) (fV w 18 6) (fV w 12 6) (fV w 6 6))
  | 0x1 => need (true) (.vsub (fB w 31) (fV w 18 6) (fV w 12 6) (fV w 6 6))
  | 0x2 => need (true) (.vmul (fB w 31) (fV w 18 6) (fV w 12 6) (fV w 6 6))
  | 0x3 => need (true) (.vdiv (fB w 31) (fV w 18 6) (fV w 12 6) (fV w 6 6))
  | 0x4 => need (true) (.vfma (fB w 31) (fV w 18 6) (fV w 12 6) (fV w 6 6))
  | 0x5 => need (true) (.vmin (fB w 31) (fV w 18 6) (fV w 12 6) (fV w 6 6))
  | 0x6 => need (true) (.vmax (fB w 31) (fV w 18 6) (fV w 12 6) (fV w 6 6))
  | 0x7 => need (fN w 6 6 == 0) (.vabs (fB w 31) (fV w 18 6) (fV w 12 6))
  | 0x8 => need (fN w 6 6 == 0) (.vexp (fB w 31) (fV w 18 6) (fV w 12 6))
  | 0x9 => need (fN w 6 6 == 0) (.vlog (fB w 31) (fV w 18 6) (fV w 12 6))
  | 0xA => need (fN w 6 6 == 0) (.vsqrt (fB w 31) (fV w 18 6) (fV w 12 6))
  | 0xB => need (fN w 6 6 == 0) (.vrsqrt (fB w 31) (fV w 18 6) (fV w 12 6))
  | 0xC => need (fN w 6 6 == 0) (.vrcp (fB w 31) (fV w 18 6) (fV w 12 6))
  | 0xD => need (fN w 6 6 == 0) (.vtanh (fB w 31) (fV w 18 6) (fV w 12 6))
  | 0xE => need (fN w 6 6 == 0) (.vsigm (fB w 31) (fV w 18 6) (fV w 12 6))
  | _ => .error .illegal

/-- Major 0x61: its assigned codes (R254 and the table of its group). -/
def dec61 (w : Nat) : Except Reject Instr :=
  match fN w 0 6 with
  | 0x0 => need (fN w 6 6 == 0) (.vredAdd (fB w 31) (fV w 18 6) (fV w 12 6))
  | 0x1 => need (fN w 6 6 == 0) (.vredMin (fB w 31) (fV w 18 6) (fV w 12 6))
  | 0x2 => need (fN w 6 6 == 0) (.vredMax (fB w 31) (fV w 18 6) (fV w 12 6))
  | 0x3 => need (fN w 6 6 == 0) (.vscanAdd (fB w 31) (fV w 18 6) (fV w 12 6))
  | 0x4 => need (fN w 6 6 == 0) (.vscanMax (fB w 31) (fV w 18 6) (fV w 12 6))
  | 0x5 => need (true) (.vcmpEq (fB w 31) (fV w 18 6) (fV w 12 6) (fV w 6 6))
  | 0x6 => need (true) (.vcmpLt (fB w 31) (fV w 18 6) (fV w 12 6) (fV w 6 6))
  | 0x7 => need (true) (.vcmpLe (fB w 31) (fV w 18 6) (fV w 12 6) (fV w 6 6))
  | 0x8 => need (true) (.vsel (fB w 31) (fV w 18 6) (fV w 12 6) (fV w 6 6))
  | 0x9 => need (fN w 6 6 == 0) (.vbcast (fB w 31) (fV w 18 6) (fV w 12 6))
  | 0xA => need (true) (.vgather (fB w 31) (fV w 18 6) (fV w 12 6) (fV w 6 6))
  | 0xB => need (true) (.vscat (fB w 31) (fV w 18 6) (fV w 12 6) (fV w 6 6))
  | 0xC => need (fN w 6 6 == 0) (.vtrans (fB w 31) (fV w 18 6) (fV w 12 6))
  | 0xD => need (fN w 6 6 == 0) (.vcvt (fB w 31) (fV w 18 6) (fV w 12 6))
  | 0xE => need (fN w 6 6 == 0) (.vqscale (fB w 31) (fV w 18 6) (fV w 12 6))
  | 0xF => need (fN w 6 6 == 0) (.vcbk (fB w 31) (fV w 18 6) (fV w 12 6))
  | 0x10 => need (true) (.barq (fB w 31) (fV w 18 6) (fV w 12 6) (fV w 6 6))
  | 0x11 => need (true) (.barqRes (fB w 31) (fV w 18 6) (fV w 12 6) (fV w 6 6))
  | 0x12 => need (fN w 18 6 == 0 && fN w 6 6 == 0) (.twait (fB w 31) (fV w 12 6))
  | _ => .error .illegal

/-- Major 0x62 (R254). -/
def dec62 (w : Nat) : Except Reject Instr :=
  need (fN w 20 4 == 0 && fN w 6 9 == 0) (.tdef (fB w 31) (fV w 16 4) (fB w 15) (fV w 0 6))

/-- Major 0x63 (R254). -/
def dec63 (w : Nat) : Except Reject Instr :=
  need (fN w 16 4 == 0 && fN w 15 1 == 0 && fN w 6 6 == 0) (.tstate (fB w 31) (fV w 20 4) (fB w 14) (fV w 12 2) (fV w 0 6))

/-- Major 0x64 (R254). -/
def dec64 (w : Nat) : Except Reject Instr :=
  need (fN w 20 4 == 0 && fN w 11 4 == 0 && fN w 10 1 == 0 && fN w 0 10 == 0) (.cbld (fB w 31) (fV w 16 4) (fB w 15))

/-- Major 0x65: its assigned codes (R254 and the table of its group). -/
def dec65 (w : Nat) : Except Reject Instr :=
  match fN w 0 10 with
  | 0x0 => need (fN w 11 4 == 0 && fN w 10 1 == 0) (.gmsg (fB w 31) (fV w 20 4) (fV w 16 4) (fB w 15))
  | 0x1 => need (fN w 11 4 == 0 && fN w 10 1 == 0) (.gbel (fB w 31) (fV w 20 4) (fV w 16 4) (fB w 15))
  | 0x2 => need (fN w 11 4 == 0 && fN w 10 1 == 0) (.gmarg (fB w 31) (fV w 20 4) (fV w 16 4) (fB w 15))
  | _ => .error .illegal

/-- Major 0x66: its assigned codes (R254 and the table of its group). -/
def dec66 (w : Nat) : Except Reject Instr :=
  match fN w 0 6 with
  | 0x0 => need (fN w 18 6 == 0) (.mma (fB w 31) (fV w 12 6) (fV w 6 6))
  | 0x1 => need (true) (.mmas (fB w 31) (fV w 18 6) (fV w 12 6) (fV w 6 6))
  | 0x2 => need (fN w 18 6 == 0 && fN w 12 6 == 0 && fN w 6 6 == 0) (.mzero (fB w 31))
  | 0x3 => need (fN w 18 6 == 0 && fN w 6 6 == 0) (.macc (fB w 31) (fV w 12 6))
  | 0x4 => need (fN w 12 6 == 0 && fN w 6 6 == 0) (.mst (fB w 31) (fV w 18 6))
  | _ => .error .illegal

/-- Major 0x67 (R254). -/
def dec67 (w : Nat) : Except Reject Instr :=
  need (fN w 20 4 == 0 && fN w 16 4 == 0 && fN w 15 1 == 0 && fN w 8 7 == 0) (.mlease (fB w 31) (fV w 0 8))

/-- Major 0x68: its assigned codes (R254 and the table of its group). -/
def dec68 (w : Nat) : Except Reject Instr :=
  match fN w 0 10 with
  | 0x0 => need (fN w 20 4 == 0 && fN w 16 4 == 0 && fN w 15 1 == 0 && fN w 11 4 == 0 && fN w 10 1 == 0) (.mrel (fB w 31))
  | 0x1 => need (fN w 16 4 == 0 && fN w 15 1 == 0 && fN w 11 4 == 0 && fN w 10 1 == 0) (.mstep (fB w 31) (fV w 20 4))
  | _ => .error .illegal

/-- Major 0x70: its assigned codes (R254 and the table of its group). -/
def dec70 (w : Nat) : Except Reject Instr :=
  match fN w 10 4, fN w 0 5 with
  | 0x0, 0x0 => need (fN w 6 4 == 0) (.cpyq (fB w 31) (fV w 20 4) (fB w 19) (fV w 15 4) (fB w 14) (fB w 5))
  | 0x0, 0x1 => need (fN w 5 5 == 0) (.kick (fB w 31) (fV w 20 4) (fB w 19) (fV w 15 4) (fB w 14))
  | 0x0, 0x2 => need (fN w 20 4 == 0 && fN w 19 1 == 0 && fN w 15 4 == 0 && fN w 14 1 == 0 && fN w 5 5 == 0) (.cpywait (fB w 31))
  | 0x2, 0x0 => need (fN w 5 5 == 0) (.ldnn (fB w 31) (fV w 20 4) (fB w 19) (fV w 15 4) (fB w 14))
  | 0x2, 0x1 => need (fN w 5 5 == 0) (.stvec (fB w 31) (fV w 20 4) (fB w 19) (fV w 15 4) (fB w 14))
  | 0x2, 0x2 => need (fN w 5 5 == 0) (.dlvec (fB w 31) (fV w 20 4) (fB w 19) (fV w 15 4) (fB w 14))
  | 0x3, 0x0 => need (fN w 15 4 == 0 && fN w 14 1 == 0) (.send (fB w 31) (fV w 20 4) (fB w 19) (fV w 6 4) (fB w 5))
  | 0x3, 0x1 => need (fN w 15 4 == 0 && fN w 14 1 == 0 && fN w 5 5 == 0) (.rpost (fB w 31) (fV w 20 4) (fB w 19))
  | 0x3, 0x2 => need (fN w 15 4 == 0 && fN w 14 1 == 0 && fN w 5 5 == 0) (.rcancel (fB w 31) (fV w 20 4) (fB w 19))
  | 0x3, 0x3 => need (true) (.amsg (fB w 31) (fV w 20 4) (fB w 19) (fV w 15 4) (fB w 14) (fV w 6 4) (fB w 5))
  | 0x3, 0x4 => need (fN w 5 5 == 0) (.htset (fB w 31) (fV w 20 4) (fB w 19) (fV w 15 4) (fB w 14))
  | 0x3, 0x5 => need (fN w 15 4 == 0 && fN w 14 1 == 0 && fN w 5 5 == 0) (.htclr (fB w 31) (fV w 20 4) (fB w 19))
  | 0x4, 0x0 => need (fN w 15 4 == 0 && fN w 14 1 == 0 && fN w 5 5 == 0) (.smfr (fB w 31) (fV w 20 4) (fB w 19))
  | 0x5, 0x0 => need (fN w 15 4 == 0 && fN w 14 1 == 0 && fN w 6 4 == 0) (.kload (fB w 31) (fV w 20 4) (fB w 19) (fB w 5))
  | 0x5, 0x1 => need (fN w 20 4 == 0 && fN w 19 1 == 0 && fN w 15 4 == 0 && fN w 14 1 == 0 && fN w 5 5 == 0) (.kturn (fB w 31))
  | 0x6, 0x0 => need (fN w 5 5 == 0) (.hist (fB w 31) (fV w 20 4) (fB w 19) (fV w 15 4) (fB w 14))
  | 0x6, 0x1 => need (fN w 15 4 == 0 && fN w 14 1 == 0 && fN w 5 5 == 0) (.walk (fB w 31) (fV w 20 4) (fB w 19))
  | _, _ => .error .illegal

/-- Major 0x71: its assigned codes (R254 and the table of its group). -/
def dec71 (w : Nat) : Except Reject Instr :=
  match fN w 10 4, fN w 0 5 with
  | 0x0, 0x0 => need (fN w 16 4 == 0 && fN w 15 1 == 0 && fN w 5 5 == 0 && fN w 14 1 == 0) (.cpystat (fB w 31) (fV w 20 4))
  | 0x2, 0x0 => need (fN w 5 5 == 0 && fN w 14 1 == 0) (.ixopen (fB w 31) (fV w 20 4) (fV w 16 4) (fB w 15))
  | 0x2, 0x1 => need (fN w 5 5 == 0 && fN w 14 1 == 0) (.ixstat (fB w 31) (fV w 20 4) (fV w 16 4) (fB w 15))
  | 0x3, 0x0 => need (fN w 5 5 == 0 && fN w 14 1 == 0) (.rprobe (fB w 31) (fV w 20 4) (fV w 16 4) (fB w 15))
  | 0x3, 0x1 => need (fN w 5 5 == 0 && fN w 14 1 == 0) (.rstat (fB w 31) (fV w 20 4) (fV w 16 4) (fB w 15))
  | 0x4, 0x0 => need (fN w 6 4 == 0 && fN w 14 1 == 0) (.smal (fB w 31) (fV w 20 4) (fV w 16 4) (fB w 15) (fB w 5))
  | 0x4, 0x1 => need (fN w 16 4 == 0 && fN w 15 1 == 0 && fN w 5 5 == 0 && fN w 14 1 == 0) (.smquota (fB w 31) (fV w 20 4))
  | 0x7, 0x0 => need (fN w 5 5 == 0 && fN w 14 1 == 0) (.gwtake (fB w 31) (fV w 20 4) (fV w 16 4) (fB w 15))
  | _, _ => .error .illegal

/-- The instruction a 32-bit word stands for (R251, R254): the major opcode decides the format. -/
def decodeNat (w : Nat) : Except Reject Instr :=
  match fN w 24 7 with
  | 0x00 => dec00 w
  | 0x01 => dec01 w
  | 0x10 => dec10 w
  | 0x11 => dec11 w
  | 0x12 => dec12 w
  | 0x13 => dec13 w
  | 0x14 => dec14 w
  | 0x15 => dec15 w
  | 0x16 => dec16 w
  | 0x17 => dec17 w
  | 0x18 => dec18 w
  | 0x19 => dec19 w
  | 0x1A => dec1A w
  | 0x1B => dec1B w
  | 0x1C => dec1C w
  | 0x1D => dec1D w
  | 0x20 => dec20 w
  | 0x28 => dec28 w
  | 0x29 => dec29 w
  | 0x2A => dec2A w
  | 0x2B => dec2B w
  | 0x2C => dec2C w
  | 0x2D => dec2D w
  | 0x2E => dec2E w
  | 0x2F => dec2F w
  | 0x30 => dec30 w
  | 0x31 => dec31 w
  | 0x32 => dec32 w
  | 0x33 => dec33 w
  | 0x34 => dec34 w
  | 0x35 => dec35 w
  | 0x36 => dec36 w
  | 0x37 => dec37 w
  | 0x38 => dec38 w
  | 0x39 => dec39 w
  | 0x3A => dec3A w
  | 0x3B => dec3B w
  | 0x3C => dec3C w
  | 0x3D => dec3D w
  | 0x3E => dec3E w
  | 0x40 => dec40 w
  | 0x41 => dec41 w
  | 0x42 => dec42 w
  | 0x43 => dec43 w
  | 0x44 => dec44 w
  | 0x45 => dec45 w
  | 0x46 => dec46 w
  | 0x47 => dec47 w
  | 0x48 => dec48 w
  | 0x49 => dec49 w
  | 0x4A => dec4A w
  | 0x4B => dec4B w
  | 0x4C => dec4C w
  | 0x4D => dec4D w
  | 0x4E => dec4E w
  | 0x50 => dec50 w
  | 0x51 => dec51 w
  | 0x52 => dec52 w
  | 0x53 => dec53 w
  | 0x54 => dec54 w
  | 0x58 => dec58 w
  | 0x60 => dec60 w
  | 0x61 => dec61 w
  | 0x62 => dec62 w
  | 0x63 => dec63 w
  | 0x64 => dec64 w
  | 0x65 => dec65 w
  | 0x66 => dec66 w
  | 0x67 => dec67 w
  | 0x68 => dec68 w
  | 0x70 => dec70 w
  | 0x71 => dec71 w
  | _ => .error .illegal

/-- The decoder on a word. -/
def decodeWord (w : BitVec 32) : Except Reject Instr := decodeNat w.toNat

/-- Four bytes as a little-endian word (R5, R251). -/
def wordOfBytes (b0 b1 b2 b3 : BitVec 8) : Nat :=
  b0.toNat + b1.toNat * 2 ^ 8 + b2.toNat * 2 ^ 16 + b3.toNat * 2 ^ 24

/-- A decoder of words on bytes: the instruction of the first four and the rest. -/
def decodeWith (d : Nat → Except Reject Instr) (bs : List (BitVec 8)) : Except Reject (Instr × List (BitVec 8)) :=
  match bs with
  | b0 :: b1 :: b2 :: b3 :: rest => (d (wordOfBytes b0 b1 b2 b3)).map fun i => (i, rest)
  | _ => .error .short

/-- The decoder on bytes. -/
def decode (bs : List (BitVec 8)) : Except Reject (Instr × List (BitVec 8)) := decodeWith decodeNat bs

/-- Whether a word names engine 5: an ERD, EWR or engine word (R264). -/
def namesEngine5 (w : Nat) : Bool :=
  (fN w 24 7 == 0x53 || fN w 24 7 == 0x54 || fN w 24 7 == 0x70 || fN w 24 7 == 0x71) && fN w 10 4 == 5

/-- The bytes of a word as they stand in memory. -/
def bytesOfWord (w : BitVec 32) : List (BitVec 8) :=
  [w.extractLsb' 0 8, w.extractLsb' 8 8, w.extractLsb' 16 8, w.extractLsb' 24 8]

/-- What the decoder reads from an instruction of `nbits` bits `w`, numbered as the opcode table numbers them. Every
instruction is one 32-bit word. -/
def decodeTableWord (nbits w : Nat) : Option Instr :=
  if nbits ≤ 32 then
    match decode (bytesOfWord (BitVec.ofNat 32 (w % 2 ^ nbits))) with
    | .ok (i, _) => some i
    | .error _ => none
  else none

/-- A one-bit field's number. -/
def b1 (b : Bool) : Nat := if b then 1 else 0

/-- The R format of R251. -/
def encR (y : Bool) (maj gd ga : Nat) (la : Bool) (gb : Nat) (lb : Bool) (fn : Nat) : Nat :=
  b1 y * 0x80000000 + maj * 0x1000000 + gd * 0x100000 + ga * 0x10000 + b1 la * 0x8000 + gb * 0x800 + b1 lb * 0x400 + fn

/-- The I format of R251. -/
def encI (y : Bool) (maj gd ga : Nat) (la : Bool) (imm : Nat) : Nat :=
  b1 y * 0x80000000 + maj * 0x1000000 + gd * 0x100000 + ga * 0x10000 + b1 la * 0x8000 + imm

/-- The J format of R251. -/
def encJ (y : Bool) (maj gd imm : Nat) : Nat := b1 y * 0x80000000 + maj * 0x1000000 + gd * 0x100000 + imm

/-- The B format of R251. -/
def encB (y : Bool) (maj ga : Nat) (la : Bool) (gb : Nat) (lb : Bool) (off : Nat) : Nat :=
  b1 y * 0x80000000 + maj * 0x1000000 + ga * 0x100000 + b1 la * 0x80000 + gb * 0x8000 + b1 lb * 0x4000 + off

/-- The T format of R251. -/
def encT (y : Bool) (maj td ta tb fn : Nat) : Nat :=
  b1 y * 0x80000000 + maj * 0x1000000 + td * 0x40000 + ta * 0x1000 + tb * 0x40 + fn

/-- The X format of R251. -/
def encX (y : Bool) (maj ga : Nat) (la : Bool) (gb : Nat) (lb : Bool) (eng cmd : Nat) : Nat :=
  b1 y * 0x80000000 + maj * 0x1000000 + ga * 0x100000 + b1 la * 0x80000 + gb * 0x8000 + b1 lb * 0x4000 + eng * 0x400 + cmd

/-- A word given by its bits [23:0]: the P format of R251, and the immediate LOOP of R259. -/
def encP (y : Bool) (maj low : Nat) : Nat := b1 y * 0x80000000 + maj * 0x1000000 + low

/-- The word of an instruction, field by field from the highest bit down; an event has none. -/
def encodeNat (i : Instr) : Option Nat :=
  match i with
  | .add y gd ga la gb lb sat uns => some (encR y 0x00 gd.toNat ga.toNat la gb.toNat lb (b1 sat * 0x200 + b1 uns * 0x100))
  | .sub y gd ga la gb lb sat uns => some (encR y 0x00 gd.toNat ga.toNat la gb.toNat lb (b1 sat * 0x200 + b1 uns * 0x100 + 1))
  | .and y gd ga la gb lb => some (encR y 0x00 gd.toNat ga.toNat la gb.toNat lb 2)
  | .or y gd ga la gb lb => some (encR y 0x00 gd.toNat ga.toNat la gb.toNat lb 3)
  | .xor y gd ga la gb lb => some (encR y 0x00 gd.toNat ga.toNat la gb.toNat lb 4)
  | .andn y gd ga la gb lb => some (encR y 0x00 gd.toNat ga.toNat la gb.toNat lb 5)
  | .shl y gd ga la gb lb => some (encR y 0x00 gd.toNat ga.toNat la gb.toNat lb 6)
  | .shr y gd ga la gb lb => some (encR y 0x00 gd.toNat ga.toNat la gb.toNat lb 7)
  | .sar y gd ga la gb lb => some (encR y 0x00 gd.toNat ga.toNat la gb.toNat lb 8)
  | .ror y gd ga la gb lb => some (encR y 0x00 gd.toNat ga.toNat la gb.toNat lb 9)
  | .min y gd ga la gb lb uns => some (encR y 0x00 gd.toNat ga.toNat la gb.toNat lb (b1 uns * 0x100 + 0xA))
  | .max y gd ga la gb lb uns => some (encR y 0x00 gd.toNat ga.toNat la gb.toNat lb (b1 uns * 0x100 + 0xB))
  | .cmpeq y gd ga la gb lb => some (encR y 0x00 gd.toNat ga.toNat la gb.toNat lb 0xC)
  | .cmpne y gd ga la gb lb => some (encR y 0x00 gd.toNat ga.toNat la gb.toNat lb 0xD)
  | .cmplt y gd ga la gb lb uns => some (encR y 0x00 gd.toNat ga.toNat la gb.toNat lb (b1 uns * 0x100 + 0xE))
  | .cmple y gd ga la gb lb uns => some (encR y 0x00 gd.toNat ga.toNat la gb.toNat lb (b1 uns * 0x100 + 0xF))
  | .clz y gd ga la => some (encR y 0x00 gd.toNat ga.toNat la 0 false 0x10)
  | .popc y gd ga la => some (encR y 0x00 gd.toNat ga.toNat la 0 false 0x11)
  | .sextb y gd ga la => some (encR y 0x00 gd.toNat ga.toNat la 0 false 0x12)
  | .sexth y gd ga la => some (encR y 0x00 gd.toNat ga.toNat la 0 false 0x13)
  | .sextw y gd ga la => some (encR y 0x00 gd.toNat ga.toNat la 0 false 0x14)
  | .zextb y gd ga la => some (encR y 0x00 gd.toNat ga.toNat la 0 false 0x15)
  | .zexth y gd ga la => some (encR y 0x00 gd.toNat ga.toNat la 0 false 0x16)
  | .zextw y gd ga la => some (encR y 0x00 gd.toNat ga.toNat la 0 false 0x17)
  | .sel y gd ga la gb lb => some (encR y 0x00 gd.toNat ga.toNat la gb.toNat lb 0x18)
  | .mul y gd ga la gb lb => some (encR y 0x01 gd.toNat ga.toNat la gb.toNat lb 0)
  | .mulh y gd ga la gb lb uns => some (encR y 0x01 gd.toNat ga.toNat la gb.toNat lb (b1 uns * 0x100 + 1))
  | .div y gd ga la gb lb uns => some (encR y 0x01 gd.toNat ga.toNat la gb.toNat lb (b1 uns * 0x100 + 2))
  | .rem y gd ga la gb lb uns => some (encR y 0x01 gd.toNat ga.toNat la gb.toNat lb (b1 uns * 0x100 + 3))
  | .hmix y gd ga la gb lb => some (encR y 0x01 gd.toNat ga.toNat la gb.toNat lb 4)
  | .addi y gd ga la imm => some (encI y 0x10 gd.toNat ga.toNat la imm.toNat)
  | .andi y gd ga la imm => some (encI y 0x11 gd.toNat ga.toNat la imm.toNat)
  | .ori y gd ga la imm => some (encI y 0x12 gd.toNat ga.toNat la imm.toNat)
  | .xori y gd ga la imm => some (encI y 0x13 gd.toNat ga.toNat la imm.toNat)
  | .shli y gd ga la n => some (encI y 0x14 gd.toNat ga.toNat la n.toNat)
  | .shri y gd ga la n => some (encI y 0x15 gd.toNat ga.toNat la n.toNat)
  | .sari y gd ga la n => some (encI y 0x16 gd.toNat ga.toNat la n.toNat)
  | .rori y gd ga la n => some (encI y 0x17 gd.toNat ga.toNat la n.toNat)
  | .cmpeqi y gd ga la imm => some (encI y 0x18 gd.toNat ga.toNat la imm.toNat)
  | .cmplti y gd ga la imm => some (encI y 0x19 gd.toNat ga.toNat la imm.toNat)
  | .cmpltiUns y gd ga la imm => some (encI y 0x1A gd.toNat ga.toNat la imm.toNat)
  | .extr y gd ga la pos len => some (encI y 0x1B gd.toNat ga.toNat la (pos.toNat * 0x40 + len.toNat))
  | .insr y gd ga la pos len => some (encI y 0x1C gd.toNat ga.toNat la (pos.toNat * 0x40 + len.toNat))
  | .lui y gd imm => some (encJ y 0x1D gd.toNat imm.toNat)
  | .fadd y gd ga la gb lb p => some (encR y 0x20 gd.toNat ga.toNat la gb.toNat lb (b1 p * 0x10))
  | .fsub y gd ga la gb lb p => some (encR y 0x20 gd.toNat ga.toNat la gb.toNat lb (b1 p * 0x10 + 1))
  | .fmul y gd ga la gb lb p => some (encR y 0x20 gd.toNat ga.toNat la gb.toNat lb (b1 p * 0x10 + 2))
  | .fdiv y gd ga la gb lb p => some (encR y 0x20 gd.toNat ga.toNat la gb.toNat lb (b1 p * 0x10 + 3))
  | .fsqrt y gd ga la p => some (encR y 0x20 gd.toNat ga.toNat la 0 false (b1 p * 0x10 + 4))
  | .fma y gd ga la gb lb p => some (encR y 0x20 gd.toNat ga.toNat la gb.toNat lb (b1 p * 0x10 + 5))
  | .fmin y gd ga la gb lb p => some (encR y 0x20 gd.toNat ga.toNat la gb.toNat lb (b1 p * 0x10 + 6))
  | .fmax y gd ga la gb lb p => some (encR y 0x20 gd.toNat ga.toNat la gb.toNat lb (b1 p * 0x10 + 7))
  | .fcmpEq y gd ga la gb lb p => some (encR y 0x20 gd.toNat ga.toNat la gb.toNat lb (b1 p * 0x10 + 8))
  | .fcmpLt y gd ga la gb lb p => some (encR y 0x20 gd.toNat ga.toNat la gb.toNat lb (b1 p * 0x10 + 9))
  | .fcmpLe y gd ga la gb lb p => some (encR y 0x20 gd.toNat ga.toNat la gb.toNat lb (b1 p * 0x10 + 0xA))
  | .fcvt y gd ga la p => some (encR y 0x20 gd.toNat ga.toNat la 0 false (b1 p * 0x10 + 0xB))
  | .fcvti y gd ga la p => some (encR y 0x20 gd.toNat ga.toNat la 0 false (b1 p * 0x10 + 0xC))
  | .fcvtf y gd ga la p => some (encR y 0x20 gd.toNat ga.toNat la 0 false (b1 p * 0x10 + 0xD))
  | .beq y ga la gb lb off => some (encB y 0x28 ga.toNat la gb.toNat lb off.toNat)
  | .bne y ga la gb lb off => some (encB y 0x29 ga.toNat la gb.toNat lb off.toNat)
  | .blt y ga la gb lb off => some (encB y 0x2A ga.toNat la gb.toNat lb off.toNat)
  | .bge y ga la gb lb off => some (encB y 0x2B ga.toNat la gb.toNat lb off.toNat)
  | .loopReg y ga la dist => some (encB y 0x2C ga.toNat la 0 false dist.toNat)
  | .loopImm y count dist => some (encP y 0x2D (count.toNat * 0x100 + dist.toNat))
  | .jal y gd imm => some (encJ y 0x2E gd.toNat imm.toNat)
  | .jr y gd ga la => some (encR y 0x2F gd.toNat ga.toNat la 0 false 0)
  | .endloop y => some (encR y 0x2F 0 0 false 0 false 1)
  | .callat y ga la gb lb => some (encR y 0x2F 0 ga.toNat la gb.toNat lb 2)
  | .exit y => some (encR y 0x2F 0 0 false 0 false 3)
  | .trig y => some (encR y 0x2F 0 0 false 0 false 4)
  | .yield y => some (encR y 0x2F 0 0 false 0 false 5)
  | .align y n => some (encR y 0x2F 0 0 false 0 false (n.toNat * 0x10 + 6))
  | .migr y gd ga la => some (encR y 0x2F gd.toNat ga.toNat la 0 false 7)
  | .ldb y gd ga la pol ord scope off => some (encI y 0x30 gd.toNat ga.toNat la (pol.toNat * 0x2000 + ord.toNat * 0x800 + scope.toNat * 0x80 + off.toNat))
  | .ldh y gd ga la pol ord scope off => some (encI y 0x31 gd.toNat ga.toNat la (pol.toNat * 0x2000 + ord.toNat * 0x800 + scope.toNat * 0x80 + off.toNat))
  | .ldw y gd ga la pol ord scope off => some (encI y 0x32 gd.toNat ga.toNat la (pol.toNat * 0x2000 + ord.toNat * 0x800 + scope.toNat * 0x80 + off.toNat))
  | .ldd y gd ga la pol ord scope off => some (encI y 0x33 gd.toNat ga.toNat la (pol.toNat * 0x2000 + ord.toNat * 0x800 + scope.toNat * 0x80 + off.toNat))
  | .stb y gd ga la pol ord scope off => some (encI y 0x34 gd.toNat ga.toNat la (pol.toNat * 0x2000 + ord.toNat * 0x800 + scope.toNat * 0x80 + off.toNat))
  | .sth y gd ga la pol ord scope off => some (encI y 0x35 gd.toNat ga.toNat la (pol.toNat * 0x2000 + ord.toNat * 0x800 + scope.toNat * 0x80 + off.toNat))
  | .stw y gd ga la pol ord scope off => some (encI y 0x36 gd.toNat ga.toNat la (pol.toNat * 0x2000 + ord.toNat * 0x800 + scope.toNat * 0x80 + off.toNat))
  | .std y gd ga la pol ord scope off => some (encI y 0x37 gd.toNat ga.toNat la (pol.toNat * 0x2000 + ord.toNat * 0x800 + scope.toNat * 0x80 + off.toNat))
  | .ldf y gd ga la off => some (encI y 0x38 gd.toNat ga.toNat la off.toNat)
  | .ldfe y gd ga la off => some (encI y 0x39 gd.toNat ga.toNat la off.toNat)
  | .ste y gd ga la off => some (encI y 0x3A gd.toNat ga.toNat la off.toNat)
  | .stf y gd ga la off => some (encI y 0x3B gd.toNat ga.toNat la off.toNat)
  | .feq y gd ga la off => some (encI y 0x3C gd.toNat ga.toNat la off.toNat)
  | .feset y ga la full off => some (encI y 0x3D 0 ga.toNat la (b1 full * 0x4000 + off.toNat))
  | .pref y ga la pol off => some (encI y 0x3E 0 ga.toNat la (pol.toNat * 0x2000 + off.toNat))
  | .aadd y gd ga la gb lb place ord scope sz => some (encR y 0x40 gd.toNat ga.toNat la gb.toNat lb (place.toNat * 0x100 + ord.toNat * 0x40 + scope.toNat * 0x4 + b1 sz))
  | .amin y gd ga la gb lb place ord scope uns sz => some (encR y 0x41 gd.toNat ga.toNat la gb.toNat lb (place.toNat * 0x100 + ord.toNat * 0x40 + scope.toNat * 0x4 + b1 uns * 0x2 + b1 sz))
  | .amax y gd ga la gb lb place ord scope uns sz => some (encR y 0x42 gd.toNat ga.toNat la gb.toNat lb (place.toNat * 0x100 + ord.toNat * 0x40 + scope.toNat * 0x4 + b1 uns * 0x2 + b1 sz))
  | .aand y gd ga la gb lb place ord scope sz => some (encR y 0x43 gd.toNat ga.toNat la gb.toNat lb (place.toNat * 0x100 + ord.toNat * 0x40 + scope.toNat * 0x4 + b1 sz))
  | .aor y gd ga la gb lb place ord scope sz => some (encR y 0x44 gd.toNat ga.toNat la gb.toNat lb (place.toNat * 0x100 + ord.toNat * 0x40 + scope.toNat * 0x4 + b1 sz))
  | .axch y gd ga la gb lb place ord scope sz => some (encR y 0x45 gd.toNat ga.toNat la gb.toNat lb (place.toNat * 0x100 + ord.toNat * 0x40 + scope.toNat * 0x4 + b1 sz))
  | .acas y gd ga la gb lb place ord scope sz => some (encR y 0x46 gd.toNat ga.toNat la gb.toNat lb (place.toNat * 0x100 + ord.toNat * 0x40 + scope.toNat * 0x4 + b1 sz))
  | .adecp y gd ga la place ord scope sz => some (encR y 0x47 gd.toNat ga.toNat la 0 false (place.toNat * 0x100 + ord.toNat * 0x40 + scope.toNat * 0x4 + b1 sz))
  | .aincb y gd ga la gb lb place ord scope sz => some (encR y 0x47 gd.toNat ga.toNat la gb.toNat lb (place.toNat * 0x100 + ord.toNat * 0x40 + scope.toNat * 0x4 + b1 sz + 2))
  | .fence y scope => some (encR y 0x48 0 0 false 0 false scope.toNat)
  | .waita y gd ga la gb lb word4 => some (encR y 0x49 gd.toNat ga.toNat la gb.toNat lb (b1 word4))
  | .notify y gd ga la all => some (encR y 0x4A gd.toNat ga.toNat la 0 false (b1 all))
  | .barr y gd ga la comb => some (encR y 0x4B gd.toNat ga.toNat la 0 false comb.toNat)
  | .barj y gd ga la comb => some (encR y 0x4C gd.toNat ga.toNat la 0 false comb.toNat)
  | .scopeset y ga la n => some (encR y 0x4D 0 ga.toNat la 0 false n.toNat)
  | .launch y gd ga la => some (encR y 0x4E gd.toNat ga.toNat la 0 false 0)
  | .nop y => some (encR y 0x50 0 0 false 0 false 0)
  | .trap y n => some (encR y 0x50 0 0 false 0 false (n.toNat * 0x10 + 1))
  | .eret y => some (encR y 0x50 0 0 false 0 false 2)
  | .hcall y n => some (encR y 0x50 0 0 false 0 false (n.toNat * 0x10 + 3))
  | .tlbinv y ga la mode scope => some (encR y 0x50 0 ga.toNat la 0 false (mode.toNat * 0x100 + scope.toNat * 0x10 + 4))
  | .cacheop y ga la op => some (encR y 0x50 0 ga.toNat la 0 false (op.toNat * 0x10 + 5))
  | .imgsave y ga la => some (encR y 0x50 0 ga.toNat la 0 false 6)
  | .imgload y ga la => some (encR y 0x50 0 ga.toNat la 0 false 7)
  | .mfs y gd r => some (encI y 0x51 gd.toNat 0 false r.toNat)
  | .mts y ga la r => some (encI y 0x52 0 ga.toNat la r.toNat)
  | .erd y gd eng r => some (encI y 0x53 gd.toNat 0 false (eng.toNat * 0x400 + r.toNat))
  | .ewr y ga la eng r => some (encX y 0x54 ga.toNat la 0 false eng.toNat r.toNat)
  | .fmt y fa fb fd smode stile fz sat => some (encP y 0x58 (fa.toNat * 0x100000 + fb.toNat * 0x10000 + fd.toNat * 0x1000 + smode.toNat * 0x400 + stile.toNat * 0x10 + b1 fz * 0x8 + b1 sat * 0x4))
  | .vadd y td ta tb => some (encT y 0x60 td.toNat ta.toNat tb.toNat 0)
  | .vsub y td ta tb => some (encT y 0x60 td.toNat ta.toNat tb.toNat 1)
  | .vmul y td ta tb => some (encT y 0x60 td.toNat ta.toNat tb.toNat 2)
  | .vdiv y td ta tb => some (encT y 0x60 td.toNat ta.toNat tb.toNat 3)
  | .vfma y td ta tb => some (encT y 0x60 td.toNat ta.toNat tb.toNat 4)
  | .vmin y td ta tb => some (encT y 0x60 td.toNat ta.toNat tb.toNat 5)
  | .vmax y td ta tb => some (encT y 0x60 td.toNat ta.toNat tb.toNat 6)
  | .vabs y td ta => some (encT y 0x60 td.toNat ta.toNat 0 7)
  | .vexp y td ta => some (encT y 0x60 td.toNat ta.toNat 0 8)
  | .vlog y td ta => some (encT y 0x60 td.toNat ta.toNat 0 9)
  | .vsqrt y td ta => some (encT y 0x60 td.toNat ta.toNat 0 0xA)
  | .vrsqrt y td ta => some (encT y 0x60 td.toNat ta.toNat 0 0xB)
  | .vrcp y td ta => some (encT y 0x60 td.toNat ta.toNat 0 0xC)
  | .vtanh y td ta => some (encT y 0x60 td.toNat ta.toNat 0 0xD)
  | .vsigm y td ta => some (encT y 0x60 td.toNat ta.toNat 0 0xE)
  | .vredAdd y td ta => some (encT y 0x61 td.toNat ta.toNat 0 0)
  | .vredMin y td ta => some (encT y 0x61 td.toNat ta.toNat 0 1)
  | .vredMax y td ta => some (encT y 0x61 td.toNat ta.toNat 0 2)
  | .vscanAdd y td ta => some (encT y 0x61 td.toNat ta.toNat 0 3)
  | .vscanMax y td ta => some (encT y 0x61 td.toNat ta.toNat 0 4)
  | .vcmpEq y td ta tb => some (encT y 0x61 td.toNat ta.toNat tb.toNat 5)
  | .vcmpLt y td ta tb => some (encT y 0x61 td.toNat ta.toNat tb.toNat 6)
  | .vcmpLe y td ta tb => some (encT y 0x61 td.toNat ta.toNat tb.toNat 7)
  | .vsel y td ta tb => some (encT y 0x61 td.toNat ta.toNat tb.toNat 8)
  | .vbcast y td ta => some (encT y 0x61 td.toNat ta.toNat 0 9)
  | .vgather y td ta tb => some (encT y 0x61 td.toNat ta.toNat tb.toNat 0xA)
  | .vscat y td ta tb => some (encT y 0x61 td.toNat ta.toNat tb.toNat 0xB)
  | .vtrans y td ta => some (encT y 0x61 td.toNat ta.toNat 0 0xC)
  | .vcvt y td ta => some (encT y 0x61 td.toNat ta.toNat 0 0xD)
  | .vqscale y td ta => some (encT y 0x61 td.toNat ta.toNat 0 0xE)
  | .vcbk y td ta => some (encT y 0x61 td.toNat ta.toNat 0 0xF)
  | .barq y td ta tb => some (encT y 0x61 td.toNat ta.toNat tb.toNat 0x10)
  | .barqRes y td ta tb => some (encT y 0x61 td.toNat ta.toNat tb.toNat 0x11)
  | .twait y ta => some (encT y 0x61 0 ta.toNat 0 0x12)
  | .tdef y ga la t => some (encI y 0x62 0 ga.toNat la t.toNat)
  | .tstate y gd set st t => some (encI y 0x63 gd.toNat 0 false (b1 set * 0x4000 + st.toNat * 0x1000 + t.toNat))
  | .cbld y ga la => some (encR y 0x64 0 ga.toNat la 0 false 0)
  | .gmsg y gd ga la => some (encR y 0x65 gd.toNat ga.toNat la 0 false 0)
  | .gbel y gd ga la => some (encR y 0x65 gd.toNat ga.toNat la 0 false 1)
  | .gmarg y gd ga la => some (encR y 0x65 gd.toNat ga.toNat la 0 false 2)
  | .mma y ta tb => some (encT y 0x66 0 ta.toNat tb.toNat 0)
  | .mmas y td ta tb => some (encT y 0x66 td.toNat ta.toNat tb.toNat 1)
  | .mzero y => some (encT y 0x66 0 0 0 2)
  | .macc y ta => some (encT y 0x66 0 ta.toNat 0 3)
  | .mst y td => some (encT y 0x66 td.toNat 0 0 4)
  | .mlease y bound => some (encI y 0x67 0 0 false bound.toNat)
  | .mrel y => some (encR y 0x68 0 0 false 0 false 0)
  | .mstep y gd => some (encR y 0x68 gd.toNat 0 false 0 false 1)
  | .cpyq y ga la gb lb nb => some (encX y 0x70 ga.toNat la gb.toNat lb 0 (b1 nb * 0x20))
  | .kick y ga la gb lb => some (encX y 0x70 ga.toNat la gb.toNat lb 0 1)
  | .cpywait y => some (encX y 0x70 0 false 0 false 0 2)
  | .cpystat y gd => some (encI y 0x71 gd.toNat 0 false 0)
  | .ldnn y ga la gb lb => some (encX y 0x70 ga.toNat la gb.toNat lb 2 0)
  | .stvec y ga la gb lb => some (encX y 0x70 ga.toNat la gb.toNat lb 2 1)
  | .dlvec y ga la gb lb => some (encX y 0x70 ga.toNat la gb.toNat lb 2 2)
  | .ixopen y gd ga la => some (encI y 0x71 gd.toNat ga.toNat la 0x800)
  | .ixstat y gd ga la => some (encI y 0x71 gd.toNat ga.toNat la 0x801)
  | .send y ga la scope rel => some (encX y 0x70 ga.toNat la 0 false 3 (scope.toNat * 0x40 + b1 rel * 0x20))
  | .rpost y ga la => some (encX y 0x70 ga.toNat la 0 false 3 1)
  | .rcancel y ga la => some (encX y 0x70 ga.toNat la 0 false 3 2)
  | .rprobe y gd ga la => some (encI y 0x71 gd.toNat ga.toNat la 0xC00)
  | .rstat y gd ga la => some (encI y 0x71 gd.toNat ga.toNat la 0xC01)
  | .amsg y ga la gb lb scope rel => some (encX y 0x70 ga.toNat la gb.toNat lb 3 (scope.toNat * 0x40 + b1 rel * 0x20 + 3))
  | .htset y ga la gb lb => some (encX y 0x70 ga.toNat la gb.toNat lb 3 4)
  | .htclr y ga la => some (encX y 0x70 ga.toNat la 0 false 3 5)
  | .smfr y ga la => some (encX y 0x70 ga.toNat la 0 false 4 0)
  | .smal y gd ga la mir => some (encI y 0x71 gd.toNat ga.toNat la (b1 mir * 0x20 + 0x1000))
  | .smquota y gd => some (encI y 0x71 gd.toNat 0 false 0x1001)
  | .kload y ga la rx => some (encX y 0x70 ga.toNat la 0 false 5 (b1 rx * 0x20))
  | .kturn y => some (encX y 0x70 0 false 0 false 5 1)
  | .hist y ga la gb lb => some (encX y 0x70 ga.toNat la gb.toNat lb 6 0)
  | .walk y ga la => some (encX y 0x70 ga.toNat la 0 false 6 1)
  | .gwtake y gd ga la => some (encI y 0x71 gd.toNat ga.toNat la 0x1C00)
  | .alignTimeout _ => none
  | .migrationArrival _ => none
  | .feWaitServed _ => none
  | .spuriousWake _ => none
  | .barrierEpisodeComplete _ => none
  | .dieBarrierReport _ _ => none
  | .gwqArm _ _ _ => none
  | .gwqDisarm _ => none
  | .vectorInstructionComplete _ => none
  | .codebookReplace _ => none
  | .gmsgSlotWrite _ => none
  | .matrixLeaseGrant _ => none
  | .matrixStep _ => none
  | .matrixCommandComplete _ => none
  | .copyCommandStart _ => none
  | .copyCommandComplete _ => none
  | .kickNoticeArrival _ => none
  | .kickTransferStart _ => none
  | .kickTransferComplete _ => none
  | .indexStvecPerform _ => none
  | .indexDlvecPerform _ => none
  | .versionAreaFreed _ => none
  | .indexLdnnAccept _ => none
  | .indexSearchComplete _ => none
  | .receivePostEvent _ => none
  | .receiveCancelEvent _ => none
  | .eagerSendArrival _ => none
  | .rendezvousRequestArrival _ => none
  | .rendezvousPullComplete _ => none
  | .sendCompletionArrival _ => none
  | .activeMessageArrival _ => none
  | .handlerStart _ => none
  | .handlerRewriteEnd _ => none
  | .handlerRewriteTimeout _ => none
  | .amsgResponseArrival _ => none
  | .builtinLoad _ => none
  | .builtinStore _ => none
  | .builtinLdf _ => none
  | .builtinLdfe _ => none
  | .builtinSte _ => none
  | .builtinStf _ => none
  | .leaseRefresh _ => none
  | .remoteAtomic _ => none
  | .taskNodeRun _ _ => none
  | .conditionalNodeRun _ _ => none
  | .whileNodeRun _ _ => none
  | .joinNodeRun _ _ => none
  | .latchNodeRun _ _ => none
  | .walkerNodeComplete _ _ => none
  | .callatAnswer _ => none
  | .taskStart _ => none
  | .loadDataReturn _ _ => none
  | .storeAck _ _ _ => none
  | .pageWalkComplete _ => none
  | .homeRequest _ _ => none
  | .refusalRetry _ => none
  | .ownershipGrant _ => none
  | .clockTick => none
  | .hostLaunchWrite _ _ _ => none
  | .hostMsixEntryWrite _ _ _ _ => none
  | .hostSwitchWindowAccess _ _ _ _ => none
  | .distributorTurn => none
  | .claimComplete _ => none
  | .imageClose _ => none
  | .launchCompletion _ => none
  | .packetForward => none
  | .detourTimeout _ => none
  | .packetIngress => none
  | .flitTransmit _ => none
  | .flitReceiveIdle _ _ => none
  | .flitReceiveHead _ _ => none
  | .flitReceiveBody _ _ => none
  | .flitReceiveStomp _ _ => none
  | .flitReceiveKeyturn _ _ => none
  | .flitReceiveNak _ _ => none
  | .replayTimeout _ => none
  | .linkTrained _ _ _ _ _ => none
  | .ethernetFrameReceive _ _ => none
  | .heartbeat => none
  | .moduleSilenceTimeout _ => none
  | .deathNoticeReceive _ _ => none
  | .evictedReturnReceive => none
  | .e2eRetryTimeout _ _ => none
  | .faultCountEvent _ _ => none
  | .routerDieBLoss => none
  | .routerDieALoss => none
  | .moduleReset => none
  | .throttle => none
  | .thermalShutdown => none
  | .mctlGo => none
  | .gwctlPortDisable _ => none
  | .gwctlPortEnable _ => none
  | .gatewayRoleTake _ => none
  | .tenantEnClear _ => none
  | .gatewayStartWrite _ _ => none
  | .gatewayFibreStart _ => none
  | .deviceRegisterWrite _ _ _ _ => none
  | .lossOfLinkTraining _ => none
  | .backWithinLimits => none
  | .tlbInvalidationDone _ => none
  | .scopemaskPropagated _ => none
  | .switchFreeDone _ => none

/-- The word of an instruction (R251); zero for an event, which has none. -/
def encode (i : Instr) : BitVec 32 :=
  match encodeNat i with
  | some n => BitVec.ofNat 32 n
  | none => 0

end Sys2Proof
end

