-- ==== Sys2Proof/Machine/State.lean ====
section
/-! DEFINITION. The state of one PH-740 module as plain data, every piece of it that the spec names, and the state
after reset (10_reset_and_power.md R233). Sparse collections are lists of (number, value) in rising order, and an
unlisted number stands for the value of the reset state. -/

namespace Sys2Proof.Machine

/-- A table by number; an unlisted number has the default its reader names. -/
abbrev Tbl (α : Type) := List (Nat × α)

/-- Why a machine stops. -/
inductive Fault where
  /-- Raised by `step` after the loss of router die A: the module has failed (R438) and runs nothing until a module
  reset. Safe: the spec gives a failed module no behaviour. -/
  | moduleFailed
  deriving DecidableEq, Repr

/-- Why the model gives an instruction no meaning. -/
inductive Refusal where
  /-- An arm of `exec` not written yet, by its mnemonic. Safe: no next state is claimed. -/
  | notModelled (mnemonic : String)
  deriving DecidableEq, Repr

/-- One level of the loop stack (R37, R49): the count and the word indexes of the first and last body
instruction. -/
structure LoopLevel where
  count : BitVec 32
  start : BitVec 16
  stop : BitVec 16
  deriving DecidableEq, Repr

/-- A trap context (R396): EPC, EVAL, the fields of ECAUSE, the frame, and the 256 KiB block of the frame's loop levels
(R392), as its first address. -/
structure TrapCtx where
  epc : BitVec 64
  val : BitVec 64
  cause : BitVec 6
  ppl : BitVec 2
  ppfx : Bool
  frame : Bool
  dbl : Bool
  rdir : Bool
  loops : List LoopLevel
  block : Nat
  deriving DecidableEq, Repr

/-- A failure found after issue (R399): its cause and virtual address. -/
structure Failure where
  cause : BitVec 6
  addr : BitVec 64
  deriving DecidableEq, Repr

/-- A long result not yet written (R42-R45): the value once it exists, or the failure in its place, its flags
(R108), and whether it is still to be written (R44). -/
structure Pend where
  id : Nat
  reg : BitVec 4
  val : Option (BitVec 64)
  fail : Option Failure
  flags : BitVec 5
  keep : Bool
  deriving DecidableEq, Repr

/-- A GMSG whose message is computed and which waits for its slot (R229): its order, the slot's virtual and physical
addresses of its words, its dimension, the damping, and the message by rows. -/
structure SlotJob where
  id : Nat
  va : BitVec 64
  pas : List Nat
  dim : Nat
  damp : Nat
  vals : List (BitVec 64)
  flags : BitVec 5
  deriving DecidableEq, Repr

/-- Where a fibre comes from: the distributor (R38), CALLAT or the walker (R287, R88), a message (R212), MCTL.GO
(R236), a gateway start (R441). -/
inductive FibreKind where
  | placed
  | task
  | handler
  | boot
  | gateway
  deriving DecidableEq, Repr

/-- What is fixed for a fibre's life (R36), and its place. -/
structure Ident where
  kind : FibreKind
  tenant : BitVec 4
  gang : Option Nat
  launch : Nat
  fcoord : BitVec 64
  gangid : BitVec 64
  fstage : BitVec 64
  budget : Nat
  tscope : BitVec 4
  /-- a task's return word (R287) and the scope Sc of its release -/
  ret : BitVec 64
  retScope : BitVec 4
  /-- the walker node a task instance belongs to (R88): cluster and node -/
  node : Option (Nat × Nat)
  /-- the module and fibre number that a fibre migrated from another module of the pod has there (R51) -/
  guest : Option (Nat × Nat)
  /-- what a fibre from another module, and its task fibres, need of their launch there: BTAG, a grid tag, DCHK and HZCHK (R91, R287) -/
  lflags : BitVec 4
  deriving DecidableEq, Repr

/-- Where a placement region address leads: a physical address and its WR bit, nowhere, or a ring whose consumer is not placed. -/
inductive Place where
  | at (pa : Nat) (wr : Bool)
  | none
  | ring
  deriving DecidableEq, Repr

/-- Whom a request to another module serves when it is no access of a fibre's own: a fibre's block read or fetch (R343), an engine's
command by its number (R353), a cluster's walker (R89), or nobody but the counter of drops: a completion or return word (R73, R287,
R399). -/
inductive FarOwner where
  | fibre (f : Nat)
  | cmd (n : Nat)
  | walker (cl : Nat)
  | nobody
  deriving DecidableEq, Repr

/-- A word of another module that an instruction's block or an engine uses: its address, what is done to it (0 read, 1 written, 2 a slot
taken, 3 read at a virtual address there, 4 a slot looked at), the request that was sent for it, and once the answer has come (`here`) the cause it
reports or 0, the value, and whether it is poisoned (R343, R353, R422). -/
structure FarWord where
  owner : FarOwner
  pa : Nat
  op : Nat
  req : Nat
  here : Bool
  cause : Nat
  val : BitVec 64
  bad : Bool
  deriving DecidableEq, Repr

/-- Kinds of memory request. -/
inductive ReqKind where
  | load
  | store
  | atomic
  | feLoad
  | feStore
  | waita
  | notify
  deriving DecidableEq, Repr

/-- An access issued and not yet performed (R154), or waiting at its home (R145, R299). `op` is the atomic or
full/empty operation's number, `pa` the canonical physical address, `rem` the packet of a waiting request from another
module. `acqLv` and `relLv` are the levels of the scopes as the instruction read them at issue (R158), `mon` whether the issuer ran at
device monitor level, `moves` its departures so far (R50), and `place` a waiting request's place in its home's list (R145). -/
structure Req where
  id : Nat
  fib : Nat
  core : Nat
  ten : BitVec 4
  kind : ReqKind
  op : Nat
  uns : Bool
  n : Nat
  pa : Nat
  va : BitVec 64
  cp : BitVec 2
  gr : BitVec 2
  pol : BitVec 2
  acq : Option (BitVec 4)
  rel : Option (BitVec 4)
  sc : Bool
  data : BitVec 64
  expect : BitVec 64
  pend : Option Nat
  refused : Bool
  arrived : Bool
  sent : Bool
  clock : BitVec 64
  rem : Option Packet
  acqLv : Nat
  relLv : Nat
  mon : Bool
  moves : Nat
  place : Nat
  deriving DecidableEq, Repr

/-- A task queue entry (R86), with the identity registers its fibre takes from the caller (R287). -/
structure Task where
  pc : BitVec 64
  args : List (BitVec 64)
  ret : BitVec 64
  retScope : BitVec 4
  caller : Nat
  gang : Nat
  gangid : BitVec 64
  fcoord : BitVec 64
  fstage : BitVec 64
  node : Option (Nat × Nat)
  /-- of a task that a fibre from another module has called: its home there, tenant, budget, trigger scope and launch flags (R51, R287) -/
  guest : Option (Nat × Nat)
  ten : BitVec 4
  budget : Nat
  tscope : BitVec 4
  lflags : BitVec 4
  deriving DecidableEq, Repr

/-- A run of bytes of an engine's memory side: physical address, length, attributes of its page, and whether it lies in the switch window. -/
structure Run where
  pa : Nat
  n : Nat
  cp : BitVec 2
  gr : BitVec 2
  win : Bool
  deriving DecidableEq, Repr

/-- A copy command (R348): its number, fibre, fields of the request, the physical address of its stamp word, its tile
entry as at issue (R344), the level of its scope as at issue (R158), the scratchpad side (a core, and a reservation base for a tile or an offset), and the memory
side translated at issue as runs of (physical address, bytes); `mon` says that it was issued at device monitor level. -/
structure Copy where
  id : Nat
  seq : BitVec 32
  fib : Nat
  ten : BitVec 4
  kind : BitVec 2
  drain : Bool
  sten : Bool
  scope : BitVec 4
  lv : Nat
  stamp : Nat
  tile : Nat
  idx : Nat
  ent : BitVec 64
  home : Nat
  base : Nat
  len : Nat
  pslot : Nat
  poff : Nat
  runs : List Run
  pol : BitVec 2
  started : Bool
  tookTile : Bool
  gang : Option Nat
  mon : Bool
  deriving DecidableEq, Repr

/-- A superseded neighbour list kept in the version area (R191), by the generation that wrote it and the one that superseded it: all ones for
a list that stands by the last commit although a mutation in progress or stopped has begun to rewrite it (R188, R361). -/
structure Version where
  slot : Nat
  lgen : Nat
  until_ : Nat
  nbrs : List (Bool × Nat)
  deriving DecidableEq, Repr

/-- An open index (R183, R185): the engine's working copy of the ICB and its counters. `pl` is the level at which its pages
are translated, its opener's; `alive` are slots that still live though a mutation that has not committed wrote their DGEN (R361). -/
structure Index where
  num : Nat
  ten : BitVec 4
  pl : BitVec 2
  die : Nat
  icb : BitVec 64
  vbase : BitVec 64
  gbase : BitVec 64
  idbase : BitVec 64
  verbase : BitVec 64
  versize : Nat
  cap : Nat
  dim : Nat
  deg : Nat
  dprog : BitVec 8
  alpha : Nat
  ibeam : Nat
  awidth : Nat
  weights : List (BitVec 32)
  entry : Option Nat
  commit : Nat
  nslot : Nat
  liveN : Nat
  versions : List Version
  alive : List Nat
  deriving DecidableEq, Repr

/-- An index command not yet stamped (R359): `op` 0 LDNN, 1 STVEC, 2 DLVEC. `accepted` is the snapshot of an accepted search
(R191); `idx` is the result tile's place in its core's table and `took` whether it has become filling (R344); `next` is the index as a
mutation whose writes to other modules are not yet acknowledged will leave it (R176, R188), and `todo` the groups of writes that it has
still to make, as virtual addresses and bytes. `mon` is whether the command was issued at monitor level (R146). -/
structure IdxCmd where
  id : Nat
  num : Nat
  op : Nat
  fib : Nat
  core : Nat
  mon : Bool
  k : Nat
  l : Nat
  mask : BitVec 64
  value : BitVec 64
  query : List (BitVec 32)
  rt : Nat
  ent : BitVec 64
  base : Nat
  scope : BitVec 4
  lv : Nat
  stamp : Nat
  accepted : Option Nat
  idx : Nat
  took : Bool
  gang : Option Nat
  next : Option Index
  todo : List (List (Nat × List (BitVec 8)))
  deriving DecidableEq, Repr

/-- A posted receive (R215): `stat` is its status record's physical address, `runs` its destination in memory as translated
at posting, `strs` the strides of dimensions 1 to 3, `took` whether its tile has become filling (R364). -/
structure Recv where
  id : Nat
  ten : BitVec 4
  fib : Nat
  gang : Option Nat
  core : Nat
  space : Nat
  ptag : BitVec 64
  tmask : BitVec 64
  psrc : BitVec 26
  smask : BitVec 26
  statva : BitVec 64
  stat : Nat
  base : BitVec 64
  fmt : BitVec 4
  tile : Option Nat
  ent : BitVec 64
  tbase : Nat
  ext : List Nat
  strs : List Nat
  runs : List Run
  idx : Nat
  took : Bool
  deriving DecidableEq, Repr

/-- A SEND, AMSG or KICK not yet answered (R347 MSG.OUT): its request number, core, fibre, tenant, kind (6 or 7 a send, 4
a message, 10 a notice), completion word's physical address, the scope of its release, its source as translated at issue,
the numbers of the poisoned words of an eager payload (R363),
the destination's identity, the sender's gang, and the source's virtual address, length and level of translation. -/
structure Outst where
  id : Nat
  core : Nat
  fib : Nat
  ten : BitVec 4
  kind : Nat
  cpl : Option Nat
  scope : BitVec 4
  runs : List Run
  bad : List Nat
  dst : BitVec 26
  gang : Option Nat
  src : BitVec 64
  len : Nat
  pl : BitVec 2
  deriving DecidableEq, Repr

/-- A walker node (R87). -/
structure Node where
  kind : Nat
  next : Nat
  alt : Nat
  p : BitVec 64
  q : BitVec 64
  s : BitVec 64
  deriving DecidableEq, Repr

/-- A cluster's walker (R87-R90, R375): its graph, the activations ready to run, per node the instances placed and
the task fibres not exited, the join arrivals, the identity and level of the fibre that started it, and the histogram bins that
are not zero. -/
structure Walker where
  gang : Option Nat
  ten : BitVec 4
  pl : BitVec 2
  graph : List Node
  ready : List Nat
  placed : Tbl Nat
  alive : Tbl Nat
  arrivals : Tbl Nat
  tasks : Nat
  done : BitVec 64
  core : Nat
  who : Ident
  ended : Bool
  hist : Tbl (BitVec 32)
  deriving DecidableEq, Repr

/-- What an instruction has still to do when its checks have passed and it must wait (R345, R407). -/
inductive Job where
  /-- a copy command, but for its number and SEQ -/
  | copy (c : Copy)
  /-- a notice with its 40 bytes -/
  | kick (o : Outst) (area : List (BitVec 8))
  /-- a send with its tag, and the scope of its .rel -/
  | send (o : Outst) (tag : BitVec 64) (scope : BitVec 4) (rel : Bool)
  /-- an active message with its kind area -/
  | amsg (o : Outst) (area : List (BitVec 8)) (scope : BitVec 4) (rel : Bool)
  /-- an index command, but for its number -/
  | index (c : IdxCmd)
  /-- a receive, and its descriptor's address -/
  | post (r : Recv) (desc : BitVec 64)
  /-- a task for a core, with the values that CALLAT read -/
  | call (core : Nat) (regs : List (BitVec 64))
  /-- a launch record's address, and the physical address that MIGR goes to -/
  | launch (va : BitVec 64)
  | migr (pa : Nat)
  /-- a graph's address, while the cluster's walker is another's -/
  | graph (va : BitVec 64)
  /-- a graph for the cluster's walker -/
  | walk (w : Walker)
  /-- an access: `k` 0 a load or atomic, 1 a store, 2 a wait with a result, 3 one without -/
  | access (k : Nat) (r : Req) (d : BitVec 4)
  /-- a NOTIFY, `r.uns` its .all -/
  | notify (r : Req) (d : BitVec 4)
  /-- CACHEOP on a line, with the LOC of its page -/
  | cache (r : Req) (loc : BitVec 2) (op : Nat)
  /-- FENCE, EXIT with its result, TRIG, and an arrival at a barrier with its value -/
  | fence (scope : BitVec 4)
  | exit (v : BitVec 64)
  | trig
  | arrive (grid : Bool) (comb : BitVec 2) (v : BitVec 64)
  /-- TLBINV, with the membership mask of a named scope -/
  | tlbinv (scope : BitVec 4) (mask : BitVec 64) (all : Bool) (va : BitVec 64)
  /-- a scope mask, a handler table entry, a switch memory allocation to free, an index to close -/
  | mask (n : Nat) (v : BitVec 64)
  | rewrite (e : Nat) (v : BitVec 65)
  | free (base : BitVec 64)
  | close (num : Nat)
  /-- a sending key, and a key turn -/
  | key (k : List (BitVec 8))
  | turn
  /-- TDEF's entry, and TSTATE's reading of an entry with the state that it sets -/
  | define (core t base : Nat) (v : BitVec 64)
  | state (core t base : Nat) (set : Bool) (st : BitVec 2) (d : BitVec 4)
  /-- GBEL's slots, with the belief's tile and prior (R231) -/
  | belief (d : Nat) (slots : List (BitVec 64 × List Nat)) (core base : Nat) (ent : BitVec 64) (prior : List (List (BitVec 64)))
  deriving DecidableEq, Repr

/-- What a Parked fibre waits for (R46, R82, R345). The first group has performed nothing and issues again; the
second has issued and completes at an event. -/
inductive Wait where
  /-- the switch marker or trap entry's wait for long results (R43, R391) -/
  | marker
  /-- earlier accesses not yet performed, at an instruction that must have them performed -/
  | accesses
  /-- a trap found at issue, by its cause and EVAL, taken once the fibre's long results are written (R391) -/
  | trap (c : Nat) (v : BitVec 64)
  /-- a trap that no context can take: the fibre ends once its accesses are performed (R402) -/
  | doom
  /-- a tile, by core and entry, not ready (R150) -/
  | tile (core t : Nat)
  /-- a tile, by core and entry, that earlier commands still read or name (R316, R340, R352) -/
  | readers (core t : Nat)
  /-- the vector unit (R313) -/
  | unit
  /-- the matrix array's waiting place (R334) -/
  | array
  /-- a stage ring, by an address in it, whose consumer is not placed (R59) -/
  | ring (va : BitVec 64)
  /-- a page walk (R131) -/
  | walk (w : Nat)
  /-- a full command FIFO (R349) -/
  | queue
  /-- the outstanding limit of sends, messages and notices (R345) -/
  | outst
  /-- the outstanding limit of index commands (R345) -/
  | commands
  /-- IXOPEN's close of an index, by number (R345): its commands end first -/
  | closing (num : Nat)
  /-- words that the instruction reads from another module (R343) -/
  | fetch
  /-- room among the waiting accesses of a core's scratchpad, whose full list refused the request (R139, R145) -/
  | refused (core : Nat)
  /-- the cluster walker in use (R375) -/
  | walker
  /-- an unacknowledged key turn (R373), with room in the replay buffer when `room` is set (R374) -/
  | turning (room : Bool)
  /-- copies of the fibre not complete (R354) -/
  | copies
  /-- destination units owned by an engine, as runs of bytes (R175) -/
  | owned (us : List (Nat × Nat))
  /-- a full/empty or WAITA request not served (R145, R299) -/
  | req (r : Nat)
  /-- a barrier episode (R301) -/
  | barrier (b : Nat)
  /-- CALLAT's answer (R286); the target's reply once given -/
  | callat (target : Nat) (ok : Option Bool)
  /-- a vector instruction in the unit (R313) -/
  | vector
  /-- GMSG's slot (R229) -/
  | slot (j : SlotJob)
  /-- MLEASE's grant (R332) -/
  | lease
  /-- the lease asked for again on resumption (R339); the fibre then issues from its PC -/
  | relet
  /-- MST's command (R334) -/
  | store
  /-- CBLD's readers (R115), with the table to install -/
  | codebook (b : List (Nat × BitVec 32))
  /-- an image to close (R310) -/
  | image (g : Nat)
  /-- TLBINV's search (R308), with the membership mask of a named scope as it was at issue (R158) -/
  | tlb (scope : BitVec 4) (mask : BitVec 64) (all : Bool) (va : BitVec 64)
  /-- SCOPESET's spread (R303) -/
  | mask (n : Nat) (v : BitVec 64)
  /-- SMFR's work (R371) -/
  | free (base : Nat)
  /-- RPOST's event (R364) -/
  | post
  /-- RCANCEL's event (R365) -/
  | cancel (va : BitVec 64)
  /-- a synchronous AMSG (R367) -/
  | amsg (id : Nat)
  /-- ALIGN's stall (R53) -/
  | align
  /-- HTSET's or HTCLR's rewrite (R368): tenant × 256 + entry -/
  | rewrite (k : Nat)
  /-- the answer of a fibre's home about a placement region word (R129) -/
  | home (va : BitVec 64)
  /-- a migration offered to another module (R48), by MIGR or by an access -/
  | offer (id : Nat) (migr : Bool)
  /-- a wait within an instruction whose checks have passed and are not made again (R407): the registers that it frees, the one that it
  writes, whether a failure found meanwhile is raised at it (R399), and what it does once the wait is over -/
  | job (free : BitVec 16) (dest : BitVec 4) (fail : Bool) (w : Wait) (j : Job)
  deriving DecidableEq, Repr

/-- The states of R46; a Migrating fibre's destination, and whether MIGR sent it (R290). -/
inductive RunState where
  | starting
  | eligible
  | parked (w : Wait)
  | migrating (dest : Nat) (migr : Bool)
  | imaged
  | exited
  /-- on another module of the pod (R48, R51), to which it has migrated -/
  | away (m : Nat)
  deriving DecidableEq, Repr

/-- A fibre's state (R33), with the model's own bookkeeping of what it has issued. -/
structure Fibre where
  id : Nat
  core : Nat
  run : RunState
  regs : Vector (BitVec 64) 16
  live : BitVec 16
  marks : Tbl Failure
  pend : List Pend
  pc : BitVec 64
  pfx : Bool
  dchk : Bool
  hzchk : Bool
  pl : BitVec 2
  flags : BitVec 5
  fpfx : BitVec 64
  loops : List LoopLevel
  sup : TrapCtx
  mon : TrapCtx
  failure : Option Failure
  ident : Ident
  triggered : Bool
  /-- registers an instruction that has issued and not completed frees (R40), and its destination -/
  heldFree : BitVec 16
  heldDest : BitVec 4
  /-- this fibre's next access does not migrate it: it is the first action after arrival, or was refused (R48, R49) -/
  noMig : Bool
  /-- no instruction has issued since the gang resumed (R400) -/
  resumed : Bool
  /-- a page walk asked for by the instruction at the PC has been answered (R131) -/
  walked : Bool
  /-- how often the fibre has departed from a core: accesses issued before a departure go before those after it (R50) -/
  moves : Nat
  /-- placement region words of a fibre from another module, as its home has answered for the instruction at the PC (R129) -/
  homeMap : Tbl Place
  /-- words of other modules read for the instruction at the PC (R343) -/
  words : List FarWord
  /-- its home asks for it: its gang is being imaged (R46, R81) -/
  recalled : Bool
  deriving DecidableEq, Repr

/-- The next step's author: a fibre that issues, its accesses performed at issue or left to HOME_REQUEST, or an
event. -/
inductive Turn where
  | issue (f : Nat) (defer : Bool)
  | event (e : Instr)
  deriving DecidableEq, Repr

/-- One byte of a self-invalidating copy (R134): holder (core number, or 1024 + die), address, value, dirty, and whether its word
came or was left poisoned (R422). -/
structure CopyByte where
  holder : Nat
  addr : Nat
  val : BitVec 8
  dirty : Bool
  bad : Bool
  deriving DecidableEq, Repr

/-- A leased copy of a remote line (R170), with the numbers of its poisoned words from the line's start on (R422). -/
structure Leased where
  core : Nat
  line : Nat
  bytes : List (BitVec 8)
  le : Nat
  wt : Nat
  bad : List Nat
  deriving DecidableEq, Repr

/-- The timestamps of a line at its home (R168). -/
structure LineTs where
  wt : Nat
  h : Nat
  deriving DecidableEq, Repr

/-- A TLB entry (R130): holder (core, or 1024 + cluster), tenant or monitor root (16), gang, page base and width,
and the leaf as walked. -/
structure TlbEntry where
  holder : Nat
  space : Nat
  page : Nat
  width : Nat
  leaf : BitVec 64
  deriving DecidableEq, Repr

/-- An outstanding page walk (R131). -/
structure Walk where
  id : Nat
  die : Nat
  space : Nat
  va : BitVec 64
  who : List Nat
  deriving DecidableEq, Repr

/-- A line under directory coherence and the core that owns it (R134, R428). -/
structure Owner where
  line : Nat
  n : Nat
  core : Nat
  deriving DecidableEq, Repr

/-- The memory system. `full` lists the scratchpad words whose bit is full and `poison` the poisoned words, both by
address / 8 in rising order. `mem` is home storage. `far` holds the words of other modules that blocks and engines read, and
`owners` the lines under directory coherence that an agent owns (R134). -/
structure MemSys where
  mem : List Host.Cell
  full : List Nat
  poison : List Nat
  reqs : List Req
  copies : List CopyByte
  leases : List Leased
  lines : Tbl LineTs
  attrs : Tbl (BitVec 4)
  tlb : List TlbEntry
  walks : List Walk
  far : List FarWord
  owners : List Owner
  deriving DecidableEq, Repr

/-- A kick notice (R214) at its receiver. -/
structure Notice where
  src : BitVec 26
  ten : BitVec 4
  srcva : BitVec 64
  dstva : BitVec 64
  rstamp : BitVec 64
  sstamp : BitVec 64
  len : Nat
  reqid : BitVec 32
  started : Bool
  id : Nat
  runs : List Run
  cause : BitVec 6
  deriving DecidableEq, Repr

/-- A vector unit instruction that has issued and not completed (R313): its fibre and word, and what it took at issue:
the prefix it consumed, the reservation's base, the entries of its tiles by number, and the codebook (R115). -/
structure VecJob where
  fib : Nat
  instr : Instr
  pfx : Option (BitVec 64)
  base : Nat
  ents : Tbl (BitVec 64)
  book : Tbl (BitVec 32)
  deriving DecidableEq, Repr

/-- What a core holds (R15) beside its fibres and scratchpad. `book` lists the codebook rows that differ from the
reset contents (R114); `bank` the accumulator words that are not zero. -/
structure Core where
  last : Nat
  tiles : Tbl (BitVec 64)
  book : Tbl (BitVec 32)
  bank : Tbl (BitVec 32)
  taskq : List Task
  late : List Task
  fifo : List Copy
  seq : BitVec 32
  done : BitVec 32
  failed : List (Nat × BitVec 32 × BitVec 6)
  waited : List (Nat × BitVec 4)
  kicks : List Notice
  hq : List Packet
  vec : List VecJob
  retired : Bool
  deriving DecidableEq, Repr

/-- A matrix command (R334-R337) with all it took at issue: the cores that supply its operands, the tiles it reads and
names (by core and entry), their entries and scale entries (0 when unused), the reservation bases, the prefix and the
codebooks (R115), and MXA.SRC. `flags` and `poisoned` gather what its steps have met, and `snap` holds the bytes and the poisoned
words of its source tiles once they have been read (R340). -/
structure MCmd where
  fn : Nat
  fib : Nat
  core : Nat
  acore : Nat
  bcore : Nat
  reads : List (Nat × Nat)
  names : List (Nat × Nat)
  ea : BitVec 64
  eb : BitVec 64
  ed : BitVec 64
  sa : BitVec 64
  sb : BitVec 64
  pfx : Option (BitVec 64)
  abase : Nat
  bbase : Nat
  cbase : Nat
  booka : Tbl (BitVec 32)
  bookb : Tbl (BitVec 32)
  step : Nat
  flags : BitVec 5
  poisoned : Option (BitVec 64)
  src : BitVec 8
  snap : Option (List Host.Cell × List Nat)
  deriving DecidableEq, Repr

/-- The lease of a cluster's array (R332): holder, its core, unused bound, and whether it is to be given back once its
commands have completed (R338, R339). -/
structure Lease where
  fib : Nat
  core : Nat
  left : Nat
  rel : Bool
  deriving DecidableEq, Repr

/-- A request for an array (R332); a resumed holder's brings the commands of its image (R339), and says whether the lease had been
released. -/
structure LeaseReq where
  fib : Nat
  bound : Nat
  again : Bool
  rel : Bool
  cmds : List MCmd
  deriving DecidableEq, Repr

/-- A cluster's matrix array: the lease, requests in arrival order, the run's commands with the running one first, the
array's retirement, and MXA.SRC (R333). -/
structure MArray where
  lease : Option Lease
  wait : List LeaseReq
  cmds : List MCmd
  retired : Bool
  src : BitVec 8
  deriving DecidableEq, Repr

/-- A rendezvous pull in progress (R218): the receive and the request it matched. -/
structure Pull where
  id : Nat
  recv : Recv
  req : Packet
  deriving DecidableEq, Repr

/-- A die's receive engine (R216, R217). `posting` holds the posts whose event has not come, with the poster and the
descriptor's address (R364). -/
structure RecvEng where
  posting : List (Nat × BitVec 64 × Recv)
  posted : List Recv
  unexp : List Packet
  pulls : List Pull
  rseq : BitVec 32
  deriving DecidableEq, Repr

/-- An armed WAITA's watch entry (R299); `rem` is the request of a fibre of another module, answered when it wakes. -/
structure Watch where
  req : Nat
  fib : Nat
  core : Nat
  ten : BitVec 4
  ea : BitVec 64
  pa : Nat
  rem : Option Packet
  deriving DecidableEq, Repr

/-- A switch memory allocation (R151, R369, R370): first granule on its die, count, mirrored, attributes, whether it was lost
with router die B (R438), and whether no address maps it: an image region (R80). -/
structure Alloc where
  die : Nat
  gran : Nat
  count : Nat
  mir : Bool
  ten : BitVec 4
  cp : BitVec 2
  gr : BitVec 2
  lost : Bool
  unmapped : Bool
  deriving DecidableEq, Repr

/-- A stage table entry (R69). -/
structure StageEnt where
  entry : BitVec 64
  w : BitVec 64
  deriving DecidableEq, Repr

/-- The states of a launch (R63). -/
inductive LaunchState where
  | queued
  | running
  | triggered
  | done
  deriving DecidableEq, Repr

/-- An accepted launch (R68-R73): record fields, stage table copy and predecessor. -/
structure Launch where
  num : Nat
  ten : BitVec 4
  args : BitVec 64
  grid : BitVec 64
  flags : BitVec 64
  cpladdr : BitVec 64
  cplval : BitVec 64
  ltag : BitVec 32
  pred : Option Nat
  /-- the predecessor's trigger scope (R61) -/
  predScope : BitVec 4
  stages : List StageEnt
  st : LaunchState
  /-- units placed so far, in placement order -/
  placed : Nat
  deriving DecidableEq, Repr

/-- The states of a gang (R63). -/
inductive GangState where
  | placing
  | resident
  | imaging
  | imaged
  | done
  deriving DecidableEq, Repr

/-- A gang's image (R83), as data: bytes, full words and poisoned words by the place of the core in the gang and the offset in its
reservation (in words for the latter two), and the clocks of the gang's cores and of its fibres' (R167). A task entry has its core's
place in the gang, or 1024 plus the number of a core outside it. `cores`, `bases` and `tbases` say where the gang
was, and a walker comes with its cluster, that of the gang first. -/
structure Image where
  cores : List Nat
  bases : List Nat
  tbases : List Nat
  fibres : List Fibre
  spad : List (Nat × Nat × BitVec 8)
  full : List (Nat × Nat)
  bad : List (Nat × Nat)
  clocks : List Nat
  fclocks : Tbl Nat
  tiles : List (Nat × Nat × BitVec 64)
  bank : List (Nat × Nat × BitVec 32)
  books : List (Nat × Tbl (BitVec 32))
  lease : Option Lease
  cmds : List MCmd
  tasks : List (Nat × Task)
  walkers : List (Nat × Walker)
  recvs : List (Nat × Recv)
  deriving DecidableEq, Repr

/-- A gang (R63, R74): its place in the grid, its cores with the base of its reservation and of its tile block on
each, its barrier tag, its image while it has one and its last one, and its image region once it has one (R80): the first granule in
switch memory, or none within pooled memory. `ended` says that an agent's death has ended it (R428). -/
structure Gang where
  id : Nat
  launch : Nat
  ten : BitVec 4
  stage : Nat
  glin : Nat
  st : GangState
  cores : List Nat
  spad : List Nat
  spadLen : Nat
  ringLen : Nat
  tile : List Nat
  tiles : Nat
  acc : Bool
  dieTag : Option Nat
  suspended : Bool
  image : Option Image
  last : Option Image
  region : Option (Option Nat)
  ended : Bool
  deriving DecidableEq, Repr

/-- A co-resident stage's grid tag (R91): a die tag (die × 8 + n), or a module tag with one die tag on each die. -/
structure GridTag where
  launch : Nat
  stage : Nat
  dieTags : List Nat
  modTag : Option Nat
  deriving DecidableEq, Repr

/-- A barrier in progress (R301): a gang's (grid false, number its gang) or a stage's (grid true, number its launch
× 8 + stage), the arrivals (fibre, combine code, value), and a module tag's reports (R92). -/
structure Barrier where
  grid : Bool
  key : Nat
  arrivals : List (Nat × BitVec 2 × BitVec 64)
  reports : List Nat
  deriving DecidableEq, Repr

/-- A tenant's launch window (R70): the record's bytes, which of bytes 56-63 are written, the last result. -/
structure Window where
  bytes : Tbl (BitVec 8)
  mask : BitVec 8
  result : BitVec 64
  deriving DecidableEq, Repr

/-- The distributor on router die A (R70-R92). `waiting` holds, by priority, the launch whose unit waits for its victims (R75). -/
structure Dist where
  launches : List Launch
  gangs : List Gang
  grids : List GridTag
  barriers : List Barrier
  last : Tbl Nat
  lastCluster : Nat
  windows : Tbl Window
  accepted : Tbl (BitVec 64)
  waiting : Tbl Nat
  nextLaunch : Nat
  deriving DecidableEq, Repr

/-- A tenant's registers (R239) and scope masks (R157). -/
structure Tenant where
  quota : BitVec 14
  hostsm : Bool
  imgsm : Bool
  en : Bool
  troot : BitVec 64
  tvec : BitVec 64
  masks : Tbl (BitVec 64)
  handlers : Tbl (BitVec 64)
  rewrites : Tbl (BitVec 65)
  violations : Nat
  deriving DecidableEq, Repr

/-- Device registers (R237-R242), the monitor's root, units out of service, agents declared dead (R428), the writes sent to CXL.io
registers by port, offset and length (R241), and the counters of R423 as (count, window start) by unit. -/
structure Dev where
  etype : BitVec 16
  go : Bool
  lease : BitVec 17
  mod : BitVec 6
  pod : BitVec 8
  violations : BitVec 64
  porten : BitVec 14
  cxlen : BitVec 12
  podTable : Tbl (BitVec 48)
  mailbox : Tbl (BitVec 64)
  tenants : Tbl Tenant
  monRoot : BitVec 64
  counters : Tbl (Nat × Nat)
  drops : Nat
  double : Nat
  retiredSlices : List Nat
  retiredGranules : List Nat
  retiredCxl : List Nat
  dieBLost : Bool
  failed : Bool
  throttled : Bool
  trainedCxl : BitVec 12
  startPending : List Nat
  deadAgents : List Nat
  cxlWrites : List (Nat × Nat × Nat × BitVec 64)
  deriving DecidableEq, Repr

/-- One Vilvik port (R198-R205) and its gateway role (R18): 0 serving, 1 waiting to take it, 2 disabled, 3 retired. `held`
says that its link is retired, and stays down until the device monitor brings up the port (R436). `txq` holds the packets to send as their
virtual channel, whether they leave a detour module (R197), and their payload areas; `txMid` says that the first has begun; `wire` is the flit put on the link last. -/
structure Port where
  role : Nat
  held : Bool
  linkid : BitVec 32
  txs : Bool
  rxs : Bool
  txKey0 : Option (List (BitVec 8))
  txKey1 : Option (List (BitVec 8))
  rxKey0 : Option (List (BitVec 8))
  rxKey1 : Option (List (BitVec 8))
  count : Nat
  rxCount : Nat
  limit : Nat
  turning : Bool
  turnSeq : BitVec 16
  width : BitVec 2
  seq : BitVec 16
  ack : BitVec 16
  expect : BitVec 16
  nakSent : Bool
  nakDue : Bool
  replay : List Flit
  resend : List Flit
  txq : List ((BitVec 3 × Bool) × List (List (BitVec 8)))
  txMid : Bool
  part : List (List (BitVec 8))
  partVc : BitVec 3
  up : Bool
  wire : Option Flit
  deriving DecidableEq, Repr

/-- One (source, destination) pair (R434, R435). `timed` is when, in 16-cycle ticks, its last timeout fell. -/
structure Pair where
  next : BitVec 32
  expect : BitVec 32
  unanswered : List Packet
  retries : Nat
  timed : Nat
  kept : List Packet
  deriving DecidableEq, Repr

/-- A message that waits on a handler rewrite (R211). -/
structure Held where
  die : Nat
  pkt : Packet
  deriving DecidableEq, Repr

/-- An Ethernet frame between pods (R209): destination address, EtherType, and the payload areas. -/
structure Frame where
  mac : BitVec 48
  etype : BitVec 16
  areas : List (List (BitVec 8))
  deriving DecidableEq, Repr

/-- A line of this module in the atomic cache of an ingress port, owned there for a module of the pod (R213, R430). -/
structure AtomLine where
  port : Nat
  line : Nat
  n : Nat
  mod : Nat
  deriving DecidableEq, Repr

/-- The fabric as this module sees it: packets at the routers, packets arrived for a unit, packets from the links,
frames and host messages sent, pairs, incarnations (R429). -/
structure Net where
  router : List Packet
  arrivals : List Packet
  ingress : List Packet
  frames : List Frame
  pairs : Tbl Pair
  outst : List Outst
  held : List Held
  inc : BitVec 16
  exp : Tbl (BitVec 16)
  evicted : Bool
  dead : List Nat
  heard : Tbl Nat
  notices : List (Nat × BitVec 16)
  atomics : List AtomLine
  deriving DecidableEq, Repr

/-- What has left for the host: MSI-X messages by tenant, vector, address and data; posted writes; answers to its
reads; and the MSI-X tables and pending bits (R28). -/
structure HostSide where
  msix : Tbl (BitVec 128)
  pendingIrq : List Nat
  sent : List (Nat × BitVec 64 × BitVec 32)
  writes : List (Nat × Nat × BitVec 64)
  reads : List (List (BitVec 8))
  deriving DecidableEq, Repr

/-- A gateway queue (R220, R377). -/
structure Gwq where
  armed : Bool
  owner : BitVec 4
  limit : BitVec 32
  next : BitVec 33
  deriving DecidableEq, Repr

/-- The model's own bookkeeping: turns still to come, whether the issuing fibre's work is left to events, the count
of free values taken, the next identifier, the 16-cycle ticks since reset with each unit's clock beyond them
(R167), and the turns since the last tick. -/
structure Sched where
  agenda : List Turn
  defer : Bool
  free : Nat
  nextId : Nat
  tick : Nat
  ahead : Tbl Nat
  turns : Nat
  deriving DecidableEq, Repr

/-- The module. `fib` is the fibre whose turn it is or was last; `fibres` the others. -/
structure State where
  fib : Fibre
  fibres : List Fibre
  ms : MemSys
  cores : Tbl Core
  arrays : Tbl MArray
  walkers : Tbl Walker
  walkWait : List (Nat × Nat)
  indexes : List Index
  idxCmds : List IdxCmd
  recvs : Tbl RecvEng
  watches : List Watch
  allocs : List Alloc
  gwqs : Tbl Gwq
  dist : Dist
  dev : Dev
  ports : Tbl Port
  net : Net
  host : HostSide
  sched : Sched
  deriving DecidableEq, Repr

/-- An empty trap context (R396: the value at a fibre's creation). -/
def TrapCtx.empty : TrapCtx := ⟨0, 0, 0, 0, false, false, false, false, [], 0⟩

/-- Identity fields of no fibre. -/
def Ident.none : Ident := ⟨.boot, 0, .none, 0, 0, 0, 0, 15, 6, 0, 0, .none, .none, 0⟩

/-- A fibre at creation: every register dead, FSTAT, FPFX, the loop stack and the trap contexts empty (R38). -/
def Fibre.blank : Fibre :=
  { id := 0, core := 0, run := .exited, regs := Vector.replicate 16 0, live := 0, marks := [], pend := [], pc := 0,
    pfx := false, dchk := false, hzchk := false, pl := 0, flags := 0, fpfx := 0, loops := [], sup := TrapCtx.empty,
    mon := TrapCtx.empty, failure := none, ident := Ident.none, triggered := false, heldFree := 0, heldDest := 0,
    noMig := false, resumed := false, walked := false, moves := 0, homeMap := [], words := [], recalled := false }

/-- A core after reset (R233). -/
def Core.reset : Core := ⟨0, [], [], [], [], [], [], 0, 0, [], [], [], [], [], false⟩

/-- A matrix array after reset. -/
def MArray.reset : MArray := ⟨none, [], [], false, 0⟩

/-- A walker after reset: idle. -/
def Walker.reset : Walker := ⟨none, 0, 0, [], [], [], [], [], 0, 0, 0, Ident.none, false, []⟩

/-- A receive engine after reset. -/
def RecvEng.reset : RecvEng := ⟨[], [], [], [], 0⟩

/-- A gateway queue after reset (R347). -/
def Gwq.reset : Gwq := ⟨false, 0, 0, 0⟩

/-- A launch window after reset (log entry 3). -/
def Window.reset : Window := ⟨[], 0, 0⟩

/-- A tenant after reset: disabled, masks zero (R233, R239); its roots zero and its handlers invalid (log entry 3). -/
def Tenant.reset : Tenant := ⟨0, false, false, false, 0, 0, [], [], [], 0⟩

/-- A pair before its first packet. -/
def Pair.reset : Pair := ⟨0, 0, [], 0, 0, []⟩

/-- A port after reset: role enabled, key slots empty, LSEC at its reset values (R205, R233), the link not yet
trained. -/
def Port.reset : Port :=
  { role := 0, held := false, linkid := 0, txs := false, rxs := false, txKey0 := none, txKey1 := none, rxKey0 := none,
    rxKey1 := none, count := 0, rxCount := 0, limit := 0xFFF00000, turning := false, turnSeq := 0,
    width := 0, seq := 0, ack := 0xFFFF, expect := 0, nakSent := false, nakDue := false, replay := [], resend := [],
    txq := [], txMid := false, part := [], partVc := 0, up := false, wire := none }

/-- The memory system after reset: zero, every full/empty bit empty, caches invalid (R233); pooled memory as log
entry 2 says. -/
def MemSys.reset : MemSys := ⟨[], [], [], [], [], [], [], [], [], [], [], []⟩

/-- The distributor after reset: nothing queued (R233); its turn pointers as log entry 3 says. -/
def Dist.reset : Dist := ⟨[], [], [], [], [], 63, [], [], [], 1⟩

/-- The device registers after reset (R238-R242). -/
def Dev.reset : Dev :=
  { etype := 0x88B5, go := false, lease := 4096, mod := 0, pod := 0, violations := 0, porten := 0x3FFF, cxlen := 0,
    podTable := [], mailbox := [], tenants := [], monRoot := 0, counters := [], drops := 0, double := 0, retiredSlices := [],
    retiredGranules := [], retiredCxl := [], dieBLost := false, failed := false, throttled := false,
    trainedCxl := 0xFFF, startPending := [], deadAgents := [], cxlWrites := [] }

/-- The fabric after reset: NUM and every Exp zero (R429). -/
def Net.reset : Net := ⟨[], [], [], [], [], [], [], 0, [], false, [], [], [], []⟩

/-- The host side after reset (log entry 3). -/
def HostSide.reset : HostSide := ⟨[], [], [], [], []⟩

/-- The bookkeeping after reset: nothing to come, logical clocks zero (R167). -/
def Sched.reset : Sched := ⟨[], false, 0, 1, 0, [], 0⟩

/-- The module right after reset (R233): no fibres, every unit in its reset state. -/
def State.reset : State :=
  { fib := Fibre.blank, fibres := [], ms := MemSys.reset, cores := [], arrays := [], walkers := [], walkWait := [],
    indexes := [], idxCmds := [], recvs := [], watches := [], allocs := [], gwqs := [], dist := Dist.reset,
    dev := Dev.reset, ports := [], net := Net.reset, host := HostSide.reset, sched := Sched.reset }

end Sys2Proof.Machine
end

