-- ==== Sys2Proof/Machine/Tables.lean ====
section
/-! DEFINITION. Reading and writing the sparse tables of the state, and the byte memory's canonical form. -/

namespace Sys2Proof.Machine

/-- A table's entry, or the default. -/
def tget {α : Type} (d : α) (t : Tbl α) (k : Nat) : α :=
  match t with
  | [] => d
  | (a, v) :: r => if a = k then v else tget d r k

/-- Write a table's entry, keeping the numbers rising. -/
def tset {α : Type} (t : Tbl α) (k : Nat) (v : α) : Tbl α :=
  match t with
  | [] => [(k, v)]
  | (a, b) :: r => if k < a then (k, v) :: (a, b) :: r else if k = a then (k, v) :: r else (a, b) :: tset r k v

/-- Remove a table's entry. -/
def tdel {α : Type} (t : Tbl α) (k : Nat) : Tbl α := t.filter fun p => p.1 != k

/-- A byte of memory; an unlisted address reads 0 (R233; log entry 2 for pooled memory). -/
def mget (m : List Host.Cell) (a : Nat) : Byte :=
  match m with
  | [] => 0
  | (k, v) :: r => if k = a then v else mget r a

/-- Write a byte of memory in the canonical form: addresses rising, no byte that reads 0 listed. -/
def mset (m : List Host.Cell) (a : Nat) (v : Byte) : List Host.Cell :=
  match m with
  | [] => if v = 0 then [] else [(a, v)]
  | (k, w) :: r =>
    if a < k then (if v = 0 then (k, w) :: r else (a, v) :: (k, w) :: r)
    else if a = k then (if v = 0 then r else (a, v) :: r)
    else (k, w) :: mset r a v

/-- The `n`-byte little-endian value at `a` (R5, R11). -/
def mrd (m : List Host.Cell) (a n : Nat) : Nat :=
  match n with
  | 0 => 0
  | k + 1 => (mget m a).toNat + 256 * mrd m (a + 1) k

/-- Write `n` little-endian bytes of `v` at `a`. -/
def mwr (m : List Host.Cell) (a n v : Nat) : List Host.Cell :=
  match n with
  | 0 => m
  | k + 1 => mwr (mset m a (BitVec.ofNat 8 v)) (a + 1) k (v / 256)

/-- Zero a range of memory. -/
def mzero (m : List Host.Cell) (a n : Nat) : List Host.Cell :=
  m.filter fun c => decide (c.1 < a) || decide (a + n ≤ c.1)

/-- The canonical form (rising addresses, no listed byte that reads 0), from a lower bound on. -/
def mwfFrom (lo : Nat) (m : List Host.Cell) : Bool :=
  match m with
  | [] => true
  | (k, v) :: r => decide (lo ≤ k) && v != 0 && mwfFrom (k + 1) r

/-- The canonical form of a memory. -/
def memoryWf (m : List Host.Cell) : Bool := mwfFrom 0 m

/-- Membership in a rising set of numbers. -/
def sHas (s : List Nat) (a : Nat) : Bool := s.any fun x => x == a

/-- Add to a rising set. -/
def sAdd (s : List Nat) (a : Nat) : List Nat :=
  match s with
  | [] => [a]
  | k :: r => if a < k then a :: k :: r else if a = k then k :: r else k :: sAdd r a

/-- Remove from a rising set. -/
def sDel (s : List Nat) (a : Nat) : List Nat := s.filter fun x => x != a

/-- Remove a range from a rising set. -/
def sDelRange (s : List Nat) (a n : Nat) : List Nat := s.filter fun x => decide (x < a) || decide (a + n ≤ x)

/-- The first element of a list that satisfies a test, and the list without it. -/
def takeFirst {α : Type} (p : α → Bool) (l : List α) : Option (α × List α) :=
  match l with
  | [] => none
  | x :: r =>
    if p x then some (x, r)
    else match takeFirst p r with
      | none => none
      | some (y, r') => some (y, x :: r')

/-- Change every element that satisfies a test. -/
def modWhere {α : Type} (p : α → Bool) (f : α → α) (l : List α) : List α := l.map fun x => if p x then f x else x

/-- Replace element `k` of a list. -/
def setAt {α : Type} (l : List α) (k : Nat) (v : α) : List α :=
  match l, k with
  | [], _ => []
  | _ :: r, 0 => v :: r
  | x :: r, k + 1 => x :: setAt r k v

/-- Remove element `k` of a list. -/
def dropAt {α : Type} (l : List α) (k : Nat) : List α :=
  match l, k with
  | [], _ => []
  | _ :: r, 0 => r
  | x :: r, k + 1 => x :: dropAt r k

/-- A list of bytes as a little-endian number. -/
def leNat (bs : List Byte) : Nat :=
  match bs with
  | [] => 0
  | b :: r => b.toNat + 256 * leNat r

/-- A number as `n` little-endian bytes. -/
def leBytes (n v : Nat) : List Byte :=
  match n with
  | 0 => []
  | k + 1 => BitVec.ofNat 8 v :: leBytes k (v / 256)

/-- A field of a number: bits [lo + len - 1 : lo]. -/
def nf (v lo len : Nat) : Nat := v / 2 ^ lo % 2 ^ len

/-- A flag of a number: bit `i`. -/
def nb (v i : Nat) : Bool := v / 2 ^ i % 2 == 1

/-- The quotient rounded up. -/
def ceilDiv (a b : Nat) : Nat := (a + b - 1) / b

end Sys2Proof.Machine
end

