-- ==== Sys2Proof/Machine/Numbers.lean ====
section
/-! DEFINITION. Number formats, exact values and rounding (04_numbers.md R94-R108). -/

namespace Sys2Proof.Machine

/-- An exact value: NaN, an infinity, or sign, mantissa and exponent of (-1)^neg × (m + d) × 2^e, with d = 0 unless
`more` is set, and then 0 < d < 1. A zero keeps its sign. -/
inductive Ex where
  | nan
  | inf (neg : Bool)
  | fin (neg : Bool) (m : Nat) (e : Int) (more : Bool)
  deriving DecidableEq, Repr

/-- +0. -/
def exZero : Ex := .fin false 0 0 false

/-- An integer as an exact value. -/
def exInt (i : Int) : Ex := .fin (decide (i < 0)) i.natAbs 0 false

/-- The number of bits of a natural number. -/
def bitLen (n : Nat) : Nat := if n = 0 then 0 else n.log2 + 1

/-- A binary floating format (R95, R96): exponent and mantissa widths, bias, whether it has infinities and NaNs, and
the code of its largest finite magnitude. -/
structure FloatFmt where
  ew : Nat
  mw : Nat
  bias : Nat
  hasInf : Bool
  hasNan : Bool
  maxCode : Nat
  deriving DecidableEq, Repr

/-- FP64 (R96). -/
def fp64 : FloatFmt := ⟨11, 52, 1023, true, true, 0x7FEFFFFFFFFFFFFF⟩

/-- FP32 (R96). -/
def fp32 : FloatFmt := ⟨8, 23, 127, true, true, 0x7F7FFFFF⟩

/-- The floating formats by code (R94, R96). -/
def floatFmt (c : Nat) : Option FloatFmt :=
  match c with
  | 0 => some fp32
  | 1 => some ⟨8, 7, 127, true, true, 0x7F7F⟩
  | 2 => some ⟨5, 10, 15, true, true, 0x7BFF⟩
  | 3 => some ⟨4, 3, 7, false, true, 0x7E⟩
  | 4 => some ⟨5, 2, 15, true, true, 0x7B⟩
  | 5 => some ⟨3, 2, 3, false, false, 0x1F⟩
  | 6 => some ⟨2, 3, 1, false, false, 0x1F⟩
  | 7 => some ⟨2, 1, 1, false, false, 0x7⟩
  | 13 => some fp64
  | _ => none

/-- The integer formats by code: width and signedness (R94, R99). -/
def intFmt (c : Nat) : Option (Nat × Bool) :=
  match c with
  | 8 => some (8, true)
  | 9 => some (8, false)
  | 10 => some (4, true)
  | 12 => some (32, true)
  | 14 => some (16, true)
  | _ => none

/-- The width in bits of a format's element; an LC2 weight takes 2 of its codeword's 16 (R94, R101). -/
def fmtWidth (c : Nat) : Nat :=
  match c with
  | 0 | 12 => 32
  | 1 | 2 | 14 => 16
  | 3 | 4 | 8 | 9 => 8
  | 5 | 6 => 6
  | 7 | 10 => 4
  | 11 => 2
  | 13 => 64
  | _ => 0

/-- Flag bits in FSTAT's order (R34). -/
def flNone : BitVec 5 := 0
/-- NV. -/
def flNV : BitVec 5 := 16
/-- OF. -/
def flOF : BitVec 5 := 8
/-- UF. -/
def flUF : BitVec 5 := 4
/-- NX. -/
def flNX : BitVec 5 := 2
/-- DZ. -/
def flDZ : BitVec 5 := 1

/-- The sign bit of a format's code. -/
def signBit (p : FloatFmt) (neg : Bool) : Nat := if neg then 2 ^ (p.ew + p.mw) else 0

/-- The code of infinity. -/
def infCode (p : FloatFmt) : Nat := (2 ^ p.ew - 1) * 2 ^ p.mw

/-- The canonical NaN (R97). -/
def nanCode (p : FloatFmt) : Nat :=
  if p.hasInf then (2 ^ p.ew - 1) * 2 ^ p.mw + 2 ^ (p.mw - 1) else (2 ^ p.ew - 1) * 2 ^ p.mw + (2 ^ p.mw - 1)

/-- The exact value of a floating code (R95-R97). -/
def decFloat (p : FloatFmt) (v : Nat) : Ex :=
  let m := v % 2 ^ p.mw
  let e := v / 2 ^ p.mw % 2 ^ p.ew
  let s := nb v (p.ew + p.mw)
  if e = 2 ^ p.ew - 1 ∧ p.hasInf then (if m = 0 then .inf s else .nan)
  else if e = 2 ^ p.ew - 1 ∧ p.hasNan ∧ m = 2 ^ p.mw - 1 then .nan
  else if e = 0 then .fin s m (1 - (p.bias : Int) - p.mw) false
  else .fin s (m + 2 ^ p.mw) ((e : Int) - p.bias - p.mw) false

/-- A non-negative value divided by 2^k and rounded to nearest, ties to even, and whether that was inexact. -/
def rndShift (m : Nat) (k : Nat) (more : Bool) : Nat × Bool :=
  let q := m / 2 ^ k
  let r := m % 2 ^ k
  let up :=
    if k = 0 then false
    else if r * 2 > 2 ^ k then true
    else if r * 2 = 2 ^ k then more || q % 2 == 1
    else false
  (if up then q + 1 else q, r != 0 || more)

/-- RoundNE of a value to a floating format (R102-R104, R106): the code and the flags. -/
def roundFloat (p : FloatFmt) (sat : Bool) (x : Ex) : Nat × BitVec 5 :=
  match x with
  | .nan => if p.hasNan then (nanCode p, flNone) else (0, flNV)
  | .inf s => if p.hasInf then (signBit p s + infCode p, flNone) else (signBit p s + p.maxCode, flNV)
  | .fin s m e more =>
    if m = 0 ∧ more = false then (signBit p s, flNone)
    else
      let qmin : Int := 1 - (p.bias : Int) - p.mw
      let ex : Int := (bitLen m : Int) - 1 + e
      let q : Int := max (ex - p.mw) qmin
      let r := if q ≤ e then (m * 2 ^ (e - q).toNat, more) else rndShift m (q - e).toNat more
      let code := r.1 + (q - qmin).toNat * 2 ^ p.mw
      if code > p.maxCode then
        (signBit p s + (if p.hasInf && !sat then infCode p else p.maxCode), flOF ||| flNX)
      else
        let tiny := decide (ex < 1 - (p.bias : Int)) || m == 0
        (signBit p s + code, if r.2 then (if tiny then flUF ||| flNX else flNX) else flNone)

/-- A value rounded to an integer, ties to even, and whether that was inexact. -/
def roundInt (neg : Bool) (m : Nat) (e : Int) (more : Bool) : Int × Bool :=
  let r := if 0 ≤ e then (m * 2 ^ e.toNat, more) else rndShift m (-e).toNat more
  (if neg then -(r.1 : Int) else r.1, r.2)

/-- The least and greatest values of an integer format (R99). -/
def intLo (w : Nat) (signed : Bool) : Int := if signed then -(2 ^ (w - 1) : Nat) else 0
/-- The greatest. -/
def intHi (w : Nat) (signed : Bool) : Int := if signed then ((2 ^ (w - 1) : Nat) : Int) - 1 else ((2 ^ w : Nat) : Int) - 1

/-- An integer as the code of a `w`-bit format, modulo 2^w. -/
def intCode (w : Nat) (i : Int) : Nat := (i % (2 ^ w : Nat)).toNat

/-- A floating value converted to an integer format (R105). -/
def floatToInt (w : Nat) (signed : Bool) (x : Ex) : Nat × BitVec 5 :=
  match x with
  | .nan => (0, flNV)
  | .inf s => (intCode w (if s then intLo w signed else intHi w signed), flNV)
  | .fin s m e more =>
    let r := roundInt s m e more
    if r.1 < intLo w signed then (intCode w (intLo w signed), flNV)
    else if r.1 > intHi w signed then (intCode w (intHi w signed), flNV)
    else (intCode w r.1, if r.2 then flNX else flNone)

/-- An exact integer written to an integer format: wrapped, or saturated (R100). -/
def intToInt (w : Nat) (signed sat : Bool) (i : Int) : Nat :=
  if sat then intCode w (max (intLo w signed) (min (intHi w signed) i)) else intCode w i

/-- The integer value of a `w`-bit code (R99). -/
def decInt (w : Nat) (signed : Bool) (v : Nat) : Int :=
  let u := v % 2 ^ w
  if signed && nb u (w - 1) then (u : Int) - (2 ^ w : Nat) else u

/-- The exact value of a code of a scalar format (R94-R99); LC2 has its own decoder. -/
def decFmt (c v : Nat) : Ex :=
  match floatFmt c with
  | some p => decFloat p v
  | none =>
    match intFmt c with
    | some (w, s) => exInt (decInt w s v)
    | none => .nan

/-- A value converted to a format by RoundNE (R102-R106). -/
def encFmt (c : Nat) (sat : Bool) (x : Ex) : Nat × BitVec 5 :=
  match floatFmt c with
  | some p => roundFloat p sat x
  | none =>
    match intFmt c with
    | some (w, s) => floatToInt w s x
    | none => (0, flNone)

/-- A value rounded to a floating format, as a value again. -/
def roundEx (p : FloatFmt) (sat : Bool) (x : Ex) : Ex × BitVec 5 :=
  let r := roundFloat p sat x
  (decFloat p r.1, r.2)

/-- The FZ test of R106 against a compute format: a tiny value becomes a zero of its sign, with UF and NX. -/
def flushEx (p : FloatFmt) (fz : Bool) (x : Ex) : Ex × BitVec 5 :=
  match x with
  | .fin s m e more =>
    if fz ∧ (m ≠ 0 ∨ more = true) ∧ (bitLen m : Int) - 1 + e < 1 - (p.bias : Int) then
      (.fin s 0 0 false, flUF ||| flNX)
    else (x, flNone)
  | _ => (x, flNone)

/-- Signed numerators of two finite values at their common exponent. -/
def alignEx (s1 : Bool) (m1 : Nat) (e1 : Int) (s2 : Bool) (m2 : Nat) (e2 : Int) : Int × Int × Int :=
  let e := min e1 e2
  let a : Int := (m1 * 2 ^ (e1 - e).toNat : Nat)
  let b : Int := (m2 * 2 ^ (e2 - e).toNat : Nat)
  (if s1 then -a else a, if s2 then -b else b, e)

/-- The exact sum (R107, R119): ∞ - ∞ is NaN with NV, a zero sum of non-zero values +0, a sum of zeros -0 only when
both are. -/
def exAdd (x y : Ex) : Ex × BitVec 5 :=
  match x, y with
  | .nan, _ => (.nan, flNone)
  | _, .nan => (.nan, flNone)
  | .inf a, .inf b => if a = b then (.inf a, flNone) else (.nan, flNV)
  | .inf a, .fin _ _ _ _ => (.inf a, flNone)
  | .fin _ _ _ _, .inf b => (.inf b, flNone)
  | .fin s1 m1 e1 k1, .fin s2 m2 e2 k2 =>
    if m1 = 0 ∧ m2 = 0 then (.fin (s1 && s2) 0 0 (k1 || k2), flNone)
    else
      let a := alignEx s1 m1 e1 s2 m2 e2
      let t := a.1 + a.2.1
      (.fin (decide (t < 0)) t.natAbs a.2.2 (k1 || k2), flNone)

/-- The negated value. -/
def exNeg (x : Ex) : Ex :=
  match x with
  | .nan => .nan
  | .inf s => .inf (!s)
  | .fin s m e k => .fin (!s) m e k

/-- The magnitude. -/
def exAbs (x : Ex) : Ex :=
  match x with
  | .nan => .nan
  | .inf _ => .inf false
  | .fin _ m e k => .fin false m e k

/-- Whether a value is a zero. -/
def exIsZero (x : Ex) : Bool :=
  match x with
  | .fin _ m _ k => m == 0 && !k
  | _ => false

/-- The sign of a value that is not NaN. -/
def exNegative (x : Ex) : Bool :=
  match x with
  | .nan => false
  | .inf s => s
  | .fin s _ _ _ => s

/-- The exact product; 0 × ∞ is NaN with NV (R107). -/
def exMul (x y : Ex) : Ex × BitVec 5 :=
  match x, y with
  | .nan, _ => (.nan, flNone)
  | _, .nan => (.nan, flNone)
  | .inf a, .inf b => (.inf (a != b), flNone)
  | .inf a, .fin s m e k => if exIsZero (.fin s m e k) then (.nan, flNV) else (.inf (a != s), flNone)
  | .fin s m e k, .inf b => if exIsZero (.fin s m e k) then (.nan, flNV) else (.inf (s != b), flNone)
  | .fin s1 m1 e1 k1, .fin s2 m2 e2 k2 => (.fin (s1 != s2) (m1 * m2) (e1 + e2) (k1 || k2), flNone)

/-- The exact quotient to far more bits than any format holds; x / 0 sets DZ, 0 / 0 and ∞ / ∞ NV (R107). -/
def exDiv (x y : Ex) : Ex × BitVec 5 :=
  match x, y with
  | .nan, _ => (.nan, flNone)
  | _, .nan => (.nan, flNone)
  | .inf _, .inf _ => (.nan, flNV)
  | .inf a, .fin s _ _ _ => (.inf (a != s), flNone)
  | .fin s _ _ _, .inf b => (.fin (s != b) 0 0 false, flNone)
  | .fin s1 m1 e1 k1, .fin s2 m2 e2 k2 =>
    if m2 = 0 then
      (if m1 = 0 then (.nan, flNV) else (.inf (s1 != s2), flDZ))
    else if m1 = 0 then (.fin (s1 != s2) 0 0 false, flNone)
    else
      let k := bitLen m2 + 160
      let n := m1 * 2 ^ k
      (.fin (s1 != s2) (n / m2) (e1 - e2 - (k : Int)) (decide (n % m2 ≠ 0) || k1 || k2), flNone)

/-- The integer square root's bits from position `k - 1` down. -/
def isqrtFrom (n k r : Nat) : Nat :=
  match k with
  | 0 => r
  | j + 1 =>
    let t := r + 2 ^ j
    isqrtFrom n j (if t * t ≤ n then t else r)

/-- The integer square root. -/
def isqrt (n : Nat) : Nat := isqrtFrom n (bitLen n / 2 + 1) 0

/-- The exact square root to far more bits than any format holds; below -0 it is NaN with NV (R107, R282). -/
def exSqrt (x : Ex) : Ex × BitVec 5 :=
  match x with
  | .nan => (.nan, flNone)
  | .inf s => if s then (.nan, flNV) else (.inf false, flNone)
  | .fin s m e _ =>
    if m = 0 then (.fin s 0 0 false, flNone)
    else if s then (.nan, flNV)
    else
      let d : Nat := 320 + (if e % 2 = 0 then 0 else 1)
      let n := m * 2 ^ d
      let r := isqrt n
      (.fin false r ((e - (d : Int)) / 2) (decide (r * r ≠ n)), flNone)

/-- x < y on values that are not NaN, with -0 below +0 when `zeros` is set (R124, R282). -/
def exLt (zeros : Bool) (x y : Ex) : Bool :=
  match x, y with
  | .nan, _ => false
  | _, .nan => false
  | .inf a, .inf b => a && !b
  | .inf a, .fin _ _ _ _ => a
  | .fin _ _ _ _, .inf b => !b
  | .fin s1 m1 e1 _, .fin s2 m2 e2 _ =>
    if m1 = 0 ∧ m2 = 0 then zeros && s1 && !s2
    else
      let a := alignEx s1 m1 e1 s2 m2 e2
      decide (a.1 < a.2.1)

/-- x = y, with -0 equal to +0 (R97). -/
def exEq (x y : Ex) : Bool :=
  match x, y with
  | .nan, _ => false
  | _, .nan => false
  | _, _ => !exLt false x y && !exLt false y x

/-- The lesser value; NaN when either is (R124). -/
def exMin (x y : Ex) : Ex :=
  match x, y with
  | .nan, _ => .nan
  | _, .nan => .nan
  | _, _ => if exLt true y x then y else x

/-- The greater value; NaN when either is (R124). -/
def exMax (x y : Ex) : Ex :=
  match x, y with
  | .nan, _ => .nan
  | _, .nan => .nan
  | _, _ => if exLt true x y then y else x

/-- The largest finite magnitude of a format, as a value. -/
def maxFinite (p : FloatFmt) : Ex := decFloat p p.maxCode

end Sys2Proof.Machine
end

