-- ==== Sys2Proof/Machine/Flags.lean ====
section
/-! DEFINITION. The status registers as software reads them: FSTAT (R34), the loop registers (R37), the trap
registers (R396); and the sticky flags (R107, R108). -/

namespace Sys2Proof.Machine

/-- FSTAT's value (R34). -/
def fstat (f : Fibre) : Word :=
  BitVec.ofNat 64 (f.flags.toNat + (if f.loops = [] then 0 else 0x80) + f.loops.length % 8 * 0x100
    + f.pl.toNat * 0x800 + b1 f.hzchk * 0x2000 + b1 f.dchk * 0x4000 + b1 f.pfx * 0x8000)

/-- The flags an instruction's completion ORs into FSTAT (R108). -/
def orFlags (f : Fibre) (fl : BitVec 5) : Fibre := { f with flags := f.flags ||| fl }

/-- ECAUSE's or MCAUSE's value (R396). -/
def causeWord (c : TrapCtx) : Word :=
  BitVec.ofNat 64 (c.cause.toNat + c.ppl.toNat * 0x40 + b1 c.ppfx * 0x100 + b1 c.frame * 0x200 + b1 c.dbl * 0x400
    + b1 c.rdir * 0x800)

/-- The block of the PC: bits [63:18] in place (R37). -/
def pcBlock (pc : Word) : Nat := pc.toNat / 2 ^ 18 * 2 ^ 18

/-- An address in the PC's block by its word index (R37). -/
def blockAddr (pc : Word) (w : BitVec 16) : Word := BitVec.ofNat 64 (pcBlock pc + w.toNat * 4)

/-- The word index of an address within its block (R37). -/
def wordIndex (a : Word) : BitVec 16 := BitVec.ofNat 16 (a.toNat / 4)

/-- LCOUNT, LSTART and LEND (R37): zero at LDEPTH 0. -/
def loopReg (f : Fibre) (which : Nat) : Word :=
  match f.loops with
  | [] => 0
  | l :: _ =>
    match which with
    | 0 => zext l.count
    | 1 => blockAddr f.pc l.start
    | _ => blockAddr f.pc l.stop

/-- The end test of R55 on the completion of the instruction at `pc`: the loop stack and the next PC. -/
def endTest (pc : Word) (loops : List LoopLevel) : List LoopLevel × Word :=
  match loops with
  | [] => ([], pc + 4)
  | l :: r =>
    if l.stop = wordIndex pc then
      (if l.count - 1 ≠ 0 then ({ l with count := l.count - 1 } :: r, blockAddr pc l.start) else endTest pc r)
    else (l :: r, pc + 4)

/-- The fibre after an instruction that falls through (R55). -/
def stepPc (f : Fibre) : Fibre :=
  let r := endTest f.pc f.loops
  { f with loops := r.1, pc := r.2 }

/-- Whether a transfer to `t` leaves the block of the active loops (R56). -/
def leavesBlock (f : Fibre) (t : Word) : Bool := f.loops != [] && pcBlock t != pcBlock f.pc

end Sys2Proof.Machine
end

