-- ==== Sys2Proof/Machine/Fibres.lean ====
section
/-! DEFINITION. Fibres by number, their registers, pending long results and last use (R33-R45, R399), and where
cores, dies and units stand (R8, R17). -/

namespace Sys2Proof.Machine

/-- Every fibre of the module, the current one first. -/
def allFibres (s : State) : List Fibre := s.fib :: s.fibres

/-- The fibre of a number. -/
def fibreOf (s : State) (f : Nat) : Option Fibre := (allFibres s).find? fun x => x.id == f

/-- Change one fibre. -/
def modFibre (s : State) (f : Nat) (g : Fibre → Fibre) : State :=
  if s.fib.id = f then { s with fib := g s.fib } else { s with fibres := modWhere (fun x => x.id == f) g s.fibres }

/-- Change every fibre that satisfies a test. -/
def modFibres (s : State) (p : Fibre → Bool) (g : Fibre → Fibre) : State :=
  { s with fib := if p s.fib then g s.fib else s.fib, fibres := modWhere p g s.fibres }

/-- Make a fibre the current one. -/
def switchTo (s : State) (f : Nat) : State :=
  if s.fib.id = f then s
  else match takeFirst (fun x => x.id == f) s.fibres with
    | none => s
    | some (x, r) => { s with fib := x, fibres := if s.fib.run = .exited then r else r ++ [s.fib] }

/-- Whether a fibre holds its slot (R46). -/
def isResident (f : Fibre) : Bool :=
  match f.run with
  | .exited => false
  | .imaged => false
  | .away _ => false
  | _ => !(f.recalled && f.ident.guest.isNone)

/-- The resident fibres of a core but for its handler's (R15, R212). -/
def onCore (s : State) (c : Nat) : List Fibre :=
  (allFibres s).filter fun f => f.core == c && isResident f && decide (f.ident.kind ≠ .handler)

/-- Add a fibre with the next number. The current fibre's place is taken when it has exited. -/
def addFibre (s : State) (f : Fibre) : State :=
  let n := s.sched.nextId
  let f := { f with id := n }
  let s := { s with sched := { s.sched with nextId := n + 1 } }
  if s.fib.run = .exited then { s with fib := f } else { s with fibres := s.fibres ++ [f] }

/-- Make eligible every parked fibre whose wait satisfies a test (R46). -/
def wake (s : State) (p : Fibre → Wait → Bool) : State :=
  modFibres s (fun f => match f.run with | .parked w => p f w | _ => false) fun f => { f with run := .eligible }

/-- The die of a core (R8). -/
def dieOf (core : Nat) : Nat := core / 256
/-- The cluster of a core, as CLUSTERNUM reads it (R36). -/
def clusterOf (core : Nat) : Nat := core / 16

/-- The port whose gateway core this is (R17). -/
def portOfCore (core : Nat) : Option Nat :=
  let d := core / 256
  let k := 15 - core % 16
  if core / 16 % 16 = 15 ∧ k ≤ 3 ∧ 4 * k + d ≤ 13 then some (4 * k + d) else none

/-- The gateway core of a port (R17). -/
def coreOfPort (f : Nat) : Nat := f % 4 * 256 + 240 + (15 - f / 4)

/-- A port's state. -/
def portOf (s : State) (f : Nat) : Port := tget Port.reset s.ports f

/-- Write a port. -/
def setPort (s : State) (f : Nat) (p : Port) : State := { s with ports := tset s.ports f p }

/-- Whether a core serves as a gateway core (R18). -/
def servesGateway (s : State) (core : Nat) : Bool :=
  match portOfCore core with
  | some f => (portOf s f).role == 0
  | none => false

/-- Whether a core serves as a gateway core or waits to take that role: it then takes no fibre (R18, R48). -/
def gatewayClosed (s : State) (core : Nat) : Bool :=
  match portOfCore core with
  | some f => decide ((portOf s f).role ≤ 1)
  | none => false

/-- A core's state. -/
def coreOf (s : State) (c : Nat) : Core := tget Core.reset s.cores c

/-- Write a core. -/
def setCore (s : State) (c : Nat) (x : Core) : State := { s with cores := tset s.cores c x }

/-- A tenant's registers. -/
def tenantOf (s : State) (t : Nat) : Tenant := tget Tenant.reset s.dev.tenants t

/-- Write a tenant's registers. -/
def setTenant (s : State) (t : Nat) (x : Tenant) : State :=
  { s with dev := { s.dev with tenants := tset s.dev.tenants t x } }

/-- The gang of a number. -/
def gangOf (s : State) (g : Nat) : Option Gang := s.dist.gangs.find? fun x => x.id == g

/-- The gang of a fibre. -/
def gangOfFibre (s : State) (f : Fibre) : Option Gang :=
  match f.ident.gang with
  | none => none
  | some g => gangOf s g

/-- Change a gang. -/
def modGang (s : State) (g : Nat) (h : Gang → Gang) : State :=
  { s with dist := { s.dist with gangs := modWhere (fun x => x.id == g) h s.dist.gangs } }

/-- A cluster's matrix array. -/
def arrayOf (s : State) (cl : Nat) : MArray := tget MArray.reset s.arrays cl

/-- Write a matrix array. -/
def setArray (s : State) (cl : Nat) (a : MArray) : State := { s with arrays := tset s.arrays cl a }

/-- A cluster's walker. -/
def walkerOf (s : State) (cl : Nat) : Walker := tget Walker.reset s.walkers cl

/-- Write a walker. -/
def setWalker (s : State) (cl : Nat) (w : Walker) : State := { s with walkers := tset s.walkers cl w }

/-- A die's receive engine. -/
def recvOf (s : State) (d : Nat) : RecvEng := tget RecvEng.reset s.recvs d

/-- Write a receive engine. -/
def setRecv (s : State) (d : Nat) (r : RecvEng) : State := { s with recvs := tset s.recvs d r }

/-- A gateway queue. -/
def gwqOf (s : State) (q : Nat) : Gwq := tget Gwq.reset s.gwqs q

/-- Write a gateway queue. -/
def setGwq (s : State) (q : Nat) (g : Gwq) : State := { s with gwqs := tset s.gwqs q g }

/-- A fresh number for a request, command or message. -/
def freshId (s : State) : Nat × State :=
  (s.sched.nextId, { s with sched := { s.sched with nextId := s.sched.nextId + 1 } })

/-- The module's number in packet identities (R242). -/
def ownMod (s : State) : Nat := s.dev.mod.toNat

/-- A core's source identity (R207). -/
def srcIdent (s : State) (core : Nat) : BitVec 26 :=
  BitVec.ofNat 26 (s.dev.pod.toNat * 2 ^ 18 + ownMod s * 2 ^ 12 + core)

/-- Whether the fibre belongs to no gang (R48): a boot or gateway fibre. -/
def gangless (f : Fibre) : Bool :=
  match f.ident.kind with
  | .boot => true
  | .gateway => true
  | _ => false

/-- Bit `r` of a register mask. -/
def regBit (r : Reg) : BitVec 16 := BitVec.ofNat 16 (2 ^ r.toNat)

/-- Whether a register is live; g0 never is (R33, R39). -/
def isLive (f : Fibre) (r : Reg) : Bool := r != 0 && f.live.getLsbD r.toNat

/-- A register's written value: 0 for g0 and for a dead register (R11, R41). -/
def regVal (f : Fibre) (r : Reg) : Word := if isLive f r then f.regs.get r.toFin else 0

/-- The pending long result that will be written to a register (R44). -/
def pendOf (f : Fibre) (r : Reg) : Option Pend := f.pend.find? fun p => p.keep && p.reg == r

/-- Whether every long result's value exists (R43). -/
def allReady (f : Fibre) : Bool := f.pend.all fun p => p.val.isSome || p.fail.isSome

/-- What a read of a register yields (R41, R44): the written value, or the pending one once it exists, as the free
choice numbered `k` falls. -/
def readReg (k : Nat) (f : Fibre) (r : Reg) : Word :=
  match pendOf f r with
  | some p =>
    match p.val with
    | some v => if Config.hazardPick k then v else regVal f r
    | none => regVal f r
  | none => regVal f r

/-- Whether a read of a register meets a failure (R399): its mark, or a failed pending result that the read takes. -/
def readMark (k : Nat) (f : Fibre) (r : Reg) : Option Failure :=
  if r = 0 then none
  else match pendOf f r with
    | some p =>
      match p.fail with
      | some e => if Config.hazardPick k then some e else (f.marks.find? fun m => m.1 == r.toNat).map (·.2)
      | none =>
        if p.val.isSome && Config.hazardPick k then none else (f.marks.find? fun m => m.1 == r.toNat).map (·.2)
    | none => (f.marks.find? fun m => m.1 == r.toNat).map (·.2)

/-- Earlier results to a register are discarded when they arrive (R44). -/
def unkeep (f : Fibre) (r : Reg) : List Pend := modWhere (fun p => p.reg == r) (fun p => { p with keep := false }) f.pend

/-- Put a value into a register: it is live and unmarked (R40, R399); g0 discards it (R11). -/
def putReg (f : Fibre) (r : Reg) (v : Word) : Fibre :=
  if r = 0 then f
  else { f with regs := f.regs.set r.toFin v r.toFin.isLt, live := f.live ||| regBit r, marks := tdel f.marks r.toNat }

/-- A short result (R42): written at issue, over any result still pending. -/
def writeShort (f : Fibre) (r : Reg) (v : Word) : Fibre :=
  if r = 0 then f else putReg { f with pend := unkeep f r } r v

/-- A register made live by the issue of a long result (R40, R44): a dead one then reads 0. -/
def makeLive (f : Fibre) (r : Reg) : Fibre :=
  if r = 0 then f
  else if isLive f r then f
  else { f with regs := f.regs.set r.toFin 0 r.toFin.isLt, live := f.live ||| regBit r, marks := tdel f.marks r.toNat }

/-- A long result pending from issue (R42, R44). A result for g0 is kept only for its flags. -/
def addPend (f : Fibre) (p : Pend) : Fibre :=
  let f := makeLive f p.reg
  { f with pend := unkeep f p.reg ++ [{ p with keep := p.reg != 0 }] }

/-- A long result whose value exists at issue. -/
def writeLong (f : Fibre) (id : Nat) (r : Reg) (v : Word) (fl : BitVec 5) : Fibre :=
  if r = 0 ∧ fl = 0 then f else addPend f ⟨id, r, some v, none, fl, true⟩

/-- One pending result arrives (R44, R108, R399): its flags are written, and its value or mark unless discarded. -/
def arrive (f : Fibre) (p : Pend) : Fibre :=
  let f := orFlags f p.flags
  if p.keep && p.reg != 0 then
    match p.fail with
    | some e => { putReg f p.reg 0 with marks := tset f.marks p.reg.toNat e }
    | none => putReg f p.reg (p.val.getD 0)
  else f

/-- Every pending result arrives, oldest first (R43). -/
def drain (f : Fibre) : Fibre := { f.pend.foldl arrive f with pend := [] }

/-- The value of a pending result comes into being. -/
def fillPend (f : Fibre) (id : Nat) (v : Option Word) (e : Option Failure) : Fibre :=
  { f with pend := modWhere (fun p => p.id == id) (fun p => { p with val := v, fail := e }) f.pend }

/-- Last-use reads free registers (R40); a result pending for one is discarded on arrival (R44). -/
def freeRegs (f : Fibre) (mask : BitVec 16) : Fibre :=
  if mask = 0 then f
  else { f with
    live := f.live &&& ~~~mask
    pend := modWhere (fun p => mask.getLsbD p.reg.toNat) (fun p => { p with keep := false }) f.pend }

/-- The number of live registers of a mask. -/
def liveCount (m : BitVec 16) : Nat := ((List.range 16).filter fun i => m.getLsbD i).length

/-- A failure that reaches the fibre without a register (R399): kept when none is pending, else counted. -/
def addFailure (s : State) (f : Nat) (e : Failure) : State :=
  match fibreOf s f with
  | none => s
  | some x =>
    if x.failure.isSome then { s with dev := { s.dev with drops := s.dev.drops + 1 } }
    else modFibre s f fun x => { x with failure := some e }

end Sys2Proof.Machine
end

