-- ==== Sys2Proof/Machine/Device.lean ====
section
/-! DEFINITION. The device registers of region 0b101 and of the configuration window (R235-R243), what a write to
each brings about, and the starts they cause (R234, R236, R240, R441). -/

namespace Sys2Proof.Machine

/-- A mailbox word by its byte offset. -/
def mailWord (s : State) (off : Nat) : Word := tget 0 s.dev.mailbox (off / 8)

/-- Write a mailbox word. -/
def setMail (s : State) (off : Nat) (v : Word) : State :=
  { s with dev := { s.dev with mailbox := tset s.dev.mailbox (off / 8) v } }

/-- Count a discarded access in the violation count (R29, R235). -/
def countViolation (s : State) : State := { s with dev := { s.dev with violations := s.dev.violations + 1 } }

/-- The fibres that hold a slot of a core: those resident and those migrating to it (R15, R48, R49). -/
def slotHolders (s : State) (core : Nat) : List Fibre :=
  (allFibres s).filter fun f => decide (f.ident.kind ≠ .handler) && isResident f
    && (f.core == core || f.run == .migrating core true || f.run == .migrating core false)

/-- Registers reserved on a core by the budgets of its fibres (R39). -/
def reservedRegs (s : State) (core : Nat) : Nat := (slotHolders s core).foldl (fun a f => a + f.ident.budget) 0

/-- Whether a core has a free fibre slot and can reserve `b` registers (R39, R48). -/
def roomFor (s : State) (core b : Nat) : Bool :=
  decide ((slotHolders s core).length < 64) && decide (reservedRegs s core + b ≤ 768)

/-- Whether a core holds a fibre of another tenant (R32, R48). -/
def otherTenant (s : State) (core : Nat) (ten : BitVec 4) : Bool := (slotHolders s core).any fun f => f.ident.tenant != ten

/-- MCTL's value (R238). -/
def mctlWord (d : Dev) : Nat := d.lease.toNat + b1 d.go * 0x20000 + d.etype.toNat * 2 ^ 32

/-- A tenant's TCTL (R239). -/
def tctlWord (t : Tenant) : Nat := b1 t.en + b1 t.imgsm * 2 + b1 t.hostsm * 4 + t.quota.toNat * 2 ^ 32

/-- The 8-byte device register at an aligned offset (R237). -/
def devReg (s : State) (off : Nat) : Word :=
  if off = 0 then BitVec.ofNat 64 (mctlWord s.dev)
  else if off = 8 then BitVec.ofNat 64 (s.dev.mod.toNat + s.dev.pod.toNat * 256)
  else if off = 0x40 then s.dev.violations
  else if off = 0x80 then zext s.dev.porten
  else if off = 0xC0 then zext s.dev.cxlen
  else if 0x800 ≤ off ∧ off < 0x1000 then zext (tget 0 s.dev.podTable ((off - 0x800) / 8))
  else if 0x10000 ≤ off ∧ off < 0x11000 then mailWord s (off - 0x10000)
  else if 0x20000 ≤ off ∧ off < 0x2C000 then
    (if s.dev.trainedCxl.getLsbD ((off - 0x20000) / 0x1000) then
      Config.cxlWindow ((off - 0x20000) / 0x1000) (off % 0x1000)
        ((s.dev.cxlWrites.filter fun x => x.1 == (off - 0x20000) / 0x1000).map (·.2)) else BitVec.allOnes 64)
  else if 0x100000 ≤ off ∧ off < 0x110000 then
    let t := tenantOf s ((off - 0x100000) / 0x1000)
    let o := off % 0x1000
    if o = 0 then BitVec.ofNat 64 (tctlWord t) else if o = 8 then t.troot else if o = 16 then t.tvec else 0
  else 0

/-- `n` bytes at a device register offset. -/
def devRead (s : State) (off n : Nat) : Nat := (devReg s (off / 8 * 8)).toNat / 2 ^ (8 * (off % 8)) % 2 ^ (8 * n)

/-- MCTL.GO (R234, R236): the boot fibre on core 0.0.0 at device monitor level, from the boot record. -/
def startBoot (s : State) : State :=
  if s.dev.go then s
  else
    let s := { s with dev := { s.dev with go := true, monRoot := mailWord s 8 } }
    addFibre s { Fibre.blank with
      run := .eligible
      pc := mailWord s 0 &&& ~~~3
      pl := 2
      ident := { Ident.none with kind := .boot } }

/-- A port's link goes down (R240, R436): key slots erased, unacknowledged flits and a part-sent packet dropped, a part-delivered
packet closed, WIDTH 3, TURNING and TXLD 0 (R437). The packets that have not begun stay queued and detour (R197). -/
def portDown (p : Port) : Port :=
  { p with
    txKey0 := none, txKey1 := none, rxKey0 := none, rxKey1 := none, turning := false,
    width := 3, up := false, replay := [], resend := [], txq := if p.txMid then p.txq.tail else p.txq, txMid := false, part := [],
    nakSent := false, nakDue := false, count := 0, rxCount := 0, txs := false, rxs := false }

/-- GWCTL_PORT_DISABLE: a PORTEN bit cleared (R18, R240). -/
def disablePort (s : State) (f : Nat) : State :=
  let p := portOf s f
  let s := { s with dev := { s.dev with porten := s.dev.porten &&& ~~~(BitVec.ofNat 14 (2 ^ f)) } }
  setPort s f { portDown p with role := if p.role = 3 then 3 else 2 }

/-- GWCTL_PORT_ENABLE: a PORTEN bit set (R18, R240); a retired port stays out. A port whose link is retired is brought up (R436). -/
def enablePort (s : State) (f : Nat) : State :=
  let p := portOf s f
  if p.role = 2 then
    let s := { s with dev := { s.dev with porten := s.dev.porten ||| BitVec.ofNat 14 (2 ^ f) } }
    setPort s f { p with
      role := 1
      held := false }
  else if p.held && p.role != 3 then setPort s f { p with held := false }
  else s

/-- A GWCTL write, port by port. -/
def writeGwctl (s : State) (v : BitVec 14) (ports : List Nat) : State :=
  match ports with
  | [] => s
  | f :: r =>
    let s := if v.getLsbD f then enablePort s f
      else if !v.getLsbD f && s.dev.porten.getLsbD f then disablePort s f else s
    writeGwctl s v r

/-- TENANT_EN_CLEAR: launches are no longer accepted (R243). -/
def clearEn (s : State) (n : Nat) : State := setTenant s n { tenantOf s n with en := false }

/-- A tenant enabled: its ACCEPTED counts start again (R28). -/
def setEn (s : State) (n : Nat) : State :=
  let s := setTenant s n { tenantOf s n with en := true }
  { s with dist := { s.dist with accepted := s.dist.accepted.filter fun p => p.1 / 8 != n } }

/-- A non-zero write to a gateway start record's GO (R441). -/
def gatewayGo (s : State) (f : Nat) (v : Word) : State :=
  let o := 0x100 + 32 * f
  let resOk := (mailWord s (o + 16)).toNat < 16
  if v = 0 ∨ sHas s.dev.startPending f = true then s
  else if (portOf s f).role ≥ 2 ∨ ¬ resOk then setMail s (o + 24) 0
  else
    let s := setMail s (o + 24) v
    { s with dev := { s.dev with startPending := sAdd s.dev.startPending f } }

/-- The pending gateway fibre starts once its core has a slot and 15 registers (R441). -/
def startGateway (s : State) (f : Nat) : State :=
  let core := coreOfPort f
  let o := 0x100 + 32 * f
  if sHas s.dev.startPending f ∧ (portOf s f).role = 0 ∧ roomFor s core 15 = true then
    let rec0 := Fibre.blank
    let s' := { s with dev := { s.dev with startPending := sDel s.dev.startPending f } }
    let s' := setMail s' (o + 24) 0
    addFibre s' { writeShort rec0 1 (mailWord s (o + 8)) with
      core := core
      run := .eligible
      pc := mailWord s o &&& ~~~3
      pl := 2
      ident := { Ident.none with kind := .gateway, tenant := BitVec.ofNat 4 (mailWord s (o + 16)).toNat, tscope := 4 } }
  else s

/-- A register write that would change a MON field without the right to (R9, R235). -/
def denied (mon : Bool) (old new : Word) : Bool := !mon && old != new

/-- A write of a whole 8-byte register value `w` at an aligned offset, `ones` the ones written (R235-R243). `mon`: with device monitor
rights. A pod table entry, a mailbox word, TROOT and TVEC, which have no Access code in the spec, are taken as MON fields; and the level is tested
before whether a field is already fixed at GO, so a store from below that level to such a field counts (DESIGN CHOICE, log
entry 67). -/
def devWriteReg (s : State) (mon : Bool) (off : Nat) (w ones : Word) : State :=
  let old := devReg s off
  if off = 0 then
    let v := w.toNat
    if nf v 48 16 ≠ 0 ∨ nf v 18 14 ≠ 0 ∨ v % 2 ^ 17 < 16 ∨ v % 2 ^ 17 > 65536 then countViolation s
    else if denied mon old w then countViolation s
    else
      let s := { s with dev := { s.dev with etype := BitVec.ofNat 16 (nf v 32 16), lease := BitVec.ofNat 17 v } }
      if nb v 17 then startBoot s else s
  else if off = 8 then
    let v := w.toNat
    if nf v 16 48 ≠ 0 ∨ nf v 6 2 ≠ 0 then countViolation s
    else if denied mon old w then countViolation s
    else if s.dev.go then s
    else { s with dev := { s.dev with mod := BitVec.ofNat 6 v, pod := BitVec.ofNat 8 (v / 256) } }
  else if off = 0x40 then { s with dev := { s.dev with violations := s.dev.violations &&& ~~~ones } }
  else if off = 0x80 then
    if w.toNat ≥ 2 ^ 14 then countViolation s
    else if denied mon old w then countViolation s
    else writeGwctl s (w.setWidth 14) (List.range 14)
  else if off = 0xC0 then
    if w.toNat ≥ 2 ^ 12 then countViolation s
    else if denied mon old w then countViolation s
    else if s.dev.go then s
    else { s with dev := { s.dev with cxlen := w.setWidth 12 } }
  else if 0x800 ≤ off ∧ off < 0x1000 then
    if w.toNat ≥ 2 ^ 48 then countViolation s
    else if denied mon old w then countViolation s
    else { s with dev := { s.dev with podTable := tset s.dev.podTable ((off - 0x800) / 8) (w.setWidth 48) } }
  else if 0x10000 ≤ off ∧ off < 0x11000 then
    let o := off - 0x10000
    if denied mon old w then countViolation s
    else if 0x100 ≤ o ∧ o < 0x2C0 ∧ o % 32 = 24 then gatewayGo s ((o - 0x100) / 32) w
    else setMail s o w
  else if 0x100000 ≤ off ∧ off < 0x110000 then
    let n := (off - 0x100000) / 0x1000
    let o := off % 0x1000
    let v := w.toNat
    if o = 0 then
      if nf v 46 18 ≠ 0 ∨ nf v 3 29 ≠ 0 ∨ nf v 32 14 > 15360 then countViolation s
      else if denied mon old w then countViolation s
      else
        let t := tenantOf s n
        let s := setTenant s n { t with quota := BitVec.ofNat 14 (nf v 32 14), hostsm := nb v 2, imgsm := nb v 1 }
        if nb v 0 && !t.en then setEn s n else if !nb v 0 && t.en then clearEn s n else s
    else if o = 8 then
      if v % 2 ^ 17 ≠ 0 then countViolation s
      else if denied mon old w then countViolation s
      else setTenant s n { tenantOf s n with troot := w }
    else if o = 16 then
      if denied mon old w then countViolation s else setTenant s n { tenantOf s n with tvec := w }
    else s
  else s

/-- A write through the window of a CXL port (R241): carried to the device on a trained port, and discarded on another, whatever the
level of the store (DESIGN CHOICE, log entry 67: the rule names no refusal). -/
def cxlWrite (s : State) (off n : Nat) (v : Word) : State :=
  let p := (off - 0x20000) / 0x1000
  if s.dev.trainedCxl.getLsbD p then
    { s with dev := { s.dev with cxlWrites := s.dev.cxlWrites ++ [(p, off % 0x1000, n, v)] } }
  else s

/-- A write of `n` bytes to a device register (R235): the bytes not written keep their value. -/
def devWrite (s : State) (mon : Bool) (off n : Nat) (v : Word) : State :=
  if 0x20000 ≤ off ∧ off < 0x2C000 then cxlWrite s off n v
  else
    let sh := 8 * (off % 8)
    let mask : Word := BitVec.ofNat 64 ((2 ^ (8 * n) - 1) * 2 ^ sh)
    let data : Word := BitVec.ofNat 64 (v.toNat * 2 ^ sh) &&& mask
    devWriteReg s mon (off / 8 * 8) ((devReg s (off / 8 * 8) &&& ~~~mask) ||| data) data

/-- GATEWAY_ROLE_TAKE: a waiting core takes the role once its placed and task fibres have exited (R18): those that it accepted before and
that are still on their way or queued among them. -/
def takeRole (s : State) (f : Nat) : State :=
  let p := portOf s f
  let c := coreOfPort f
  if p.role = 1 ∧ (slotHolders s c).all (fun x => x.ident.kind == .gateway) = true ∧ (coreOf s c).taskq.isEmpty = true then
    setPort s f { p with role := 0 }
  else s

end Sys2Proof.Machine
end

