-- ==== Sys2Proof/Machine/Operands.lean ====
section
/-! DEFINITION. Effective addresses and their translation: the page walk, the placement region, the region checks and
the reservation checks (R11, R20, R21, R125-R131, R146, R291-R295). -/

namespace Sys2Proof.Machine

/-- The kinds of access that R128 tells apart. -/
inductive AccKind where
  | load
  | store
  | atomic
  | fetch
  deriving DecidableEq, Repr

/-- Cause codes (R397). -/
def cILLEGAL : Nat := 0x01
def cRESBITS : Nat := 0x02
def cPREFIX : Nat := 0x03
def cDEADREG : Nat := 0x04
def cPRIV : Nat := 0x05
def cALIGN : Nat := 0x06
def cXNP : Nat := 0x07
def cXPROT : Nat := 0x08
def cWINDOW : Nat := 0x09
def cTILEUNDEF : Nat := 0x0A
def cTILESHAPE : Nat := 0x0B
def cLEASE : Nat := 0x0C
def cSINGULAR : Nat := 0x0D
def cFORMAT : Nat := 0x0E
def cPOISON : Nat := 0x0F
def cLOST : Nat := 0x10
def cEVICTED : Nat := 0x11
def cNOHANDLER : Nat := 0x12
def cQFULL : Nat := 0x13
def cINDEX : Nat := 0x14
def cRECVLEN : Nat := 0x15
def cTRAPI : Nat := 0x16
def cBREAK : Nat := 0x17
def cHAZARD : Nat := 0x18
def cBOUND : Nat := 0x19
def cLOOPNEST : Nat := 0x1A
def cTIMEOUT : Nat := 0x1B

/-- A WINDOW counts for its tenant where it is found: by a check at issue, by an engine, or where a return with STATUS WINDOW is sent
(R439; DEDUCED, log entry 65). -/
def countWindow (s : State) (ten : BitVec 4) (c : Nat) : State :=
  if c = cWINDOW then
    let t := tenantOf s ten.toNat
    setTenant s ten.toNat { t with violations := t.violations + 1 }
  else s

/-- An access's page as translated: physical address, CP, GR, LOC, MIG, and the page and its leaf for a TLB to hold
(width 0 in the placement region, which no TLB need hold). -/
structure Acc where
  pa : Nat
  cp : BitVec 2
  gr : BitVec 2
  loc : BitVec 2
  mig : Bool
  page : Nat
  width : Nat
  leaf : BitVec 64
  deriving DecidableEq, Repr

/-- The outcome of a translation: an access, a cause with EVAL the address, a ring whose consumer is not placed
(R59), or a word of the placement region that the fibre's home has still to answer for (R129). -/
inductive Trans where
  | ok (a : Acc)
  | bad (cause : Nat)
  | ring
  | miss
  deriving DecidableEq, Repr

/-- The region of a physical address (R20). -/
def regionOf (pa : Nat) : Nat := pa / 2 ^ 53 % 8

/-- The module field of a physical address of regions 1 to 3 (R20). -/
def paMod (pa : Nat) : Nat := nf pa 46 6

/-- Whether an address of this module names the copy of a mirrored allocation on router die B (R151, R152). -/
def mirrorB (s : State) (pa : Nat) : Bool :=
  regionOf pa == 2 && paMod pa == ownMod s && nb pa 29 && s.allocs.any fun a => a.mir
    && decide (a.gran ≤ pa % 2 ^ 29 / 65536) && decide (pa % 2 ^ 29 / 65536 < a.gran + a.count)

/-- One name for each byte of this module: region 1 naming the module itself is region 0 (R21), and a mirrored allocation is reached at
its copy on router die A (R152, R221). -/
def canonPa (s : State) (pa : Nat) : Nat :=
  if regionOf pa = 1 ∧ paMod pa = ownMod s then pa % 2 ^ 46 else if mirrorB s pa then pa - 2 ^ 29 else pa

/-- Whether a canonical address names memory of this module: pooled, switch or scratchpad. -/
def isOwnMem (s : State) (pa : Nat) : Bool :=
  let r := regionOf pa
  r == 0 || ((r == 2 || r == 3) && paMod pa == ownMod s)

/-- Whether a canonical address names memory of another module. -/
def isRemote (s : State) (pa : Nat) : Bool :=
  let r := regionOf pa
  (r == 1 || r == 2 || r == 3) && paMod pa != ownMod s

/-- The physical address of a scratchpad byte of this module (R20). -/
def spadPa (s : State) (core off : Nat) : Nat := 3 * 2 ^ 53 + ownMod s * 2 ^ 46 + core * 2 ^ 20 + off

/-- The physical address of a switch memory granule's byte. -/
def switchPa (s : State) (die off : Nat) : Nat := 2 * 2 ^ 53 + ownMod s * 2 ^ 46 + die * 2 ^ 29 + off

/-- The core of a scratchpad address: PA[29:20] (R20). -/
def spadCore (pa : Nat) : Nat := nf pa 20 10

/-- The pseudo-addresses of stage channel descriptors, which lie in no memory of R20 (log entry 14). -/
def descPa (g o : Nat) : Nat := 2 ^ 56 + g * 64 + o

/-- A stage's incoming ring in bytes (R69). -/
def ringBytes (e : StageEnt) : Nat := (nf e.w.toNat 38 9 + 1) * 8 * (nf e.w.toNat 47 8 + 1)

/-- The launch of a number that is still known. -/
def launchOf (s : State) (n : Nat) : Option Launch := s.dist.launches.find? fun l => l.num == n

/-- A launch's stage entry. -/
def stageOf (l : Launch) (k : Nat) : StageEnt := l.stages.getD k ⟨0, 0⟩

/-- The length of a gang's reservation on its k-th core: the incoming ring lies on fibre 0's core (R69). -/
def resLen (g : Gang) (k : Nat) : Nat := g.spadLen + (if k = 0 then g.ringLen else 0)

/-- The place of a core among a gang's cores. -/
def coreIndex (g : Gang) (core : Nat) : Option Nat := g.cores.findIdx? fun c => c == core

/-- Whether a gang holds its resources. -/
def holdsCores (g : Gang) : Bool :=
  match g.st with
  | .placing => true
  | .resident => true
  | .imaging => true
  | _ => false

/-- The gang of the next stage with the same coordinates (R31, R57). -/
def consumerOf (s : State) (g : Gang) : Option Gang :=
  s.dist.gangs.find? fun x => x.launch == g.launch && x.stage == g.stage + 1 && x.glin == g.glin

/-- The base of the placement region (R129). -/
def gangWindow : Nat := 0xFFFFFF0000000000
/-- The base of the stage window (R129). -/
def stageWindow : Nat := 0xFFFFFF0100000000
/-- Where the model puts the rings within the stage window (log entry 14). -/
def inRingVa : Nat := stageWindow + 0x1000000
/-- The outgoing ring. -/
def outRingVa : Nat := stageWindow + 0x2000000

/-- The number of stages of a gang's launch and whether its stage is the last. -/
def isLastStage (s : State) (g : Gang) : Bool :=
  match launchOf s g.launch with
  | some l => decide (l.stages.length ≤ g.stage + 1)
  | none => true

/-- The outgoing ring's length: the next stage's incoming ring. -/
def outRingLen (s : State) (g : Gang) : Nat :=
  if isLastStage s g then 0
  else match launchOf s g.launch with
    | some l => ringBytes (stageOf l (g.stage + 1))
    | none => 0

/-- A placement region address of a gang (R58, R59, R129). -/
def placeGang (s : State) (g : Gang) (va : Nat) : Place :=
  if va < stageWindow then
    let k := (va - gangWindow) / 2 ^ 20
    let o := va % 2 ^ 20
    if k < g.cores.length ∧ o < resLen g k then .at (spadPa s (g.cores.getD k 0) (g.spad.getD k 0 + o)) true else .none
  else if va < stageWindow + 32 then .at (descPa g.id (va - stageWindow)) false
  else if inRingVa ≤ va ∧ va < inRingVa + g.ringLen then
    .at (spadPa s (g.cores.getD 0 0) (g.spad.getD 0 0 + g.spadLen + (va - inRingVa))) true
  else if outRingVa ≤ va ∧ va < outRingVa + outRingLen s g then
    match consumerOf s g with
    | none => .ring
    | some c =>
      if c.st = .done then .none
      else if holdsCores c ∧ c.st ≠ .placing then
        .at (spadPa s (c.cores.getD 0 0) (c.spad.getD 0 0 + c.spadLen + (va - outRingVa))) true
      else .ring
  else .none

/-- A placement region address of a fibre (R129); a fibre that came from another module learns it from its home (R51), and there is
none while the answer is out. -/
def placeOf (s : State) (f : Fibre) (va : Nat) : Option Place :=
  if gangless f then
    some (if va - gangWindow < 2 ^ 20 then .at (spadPa s f.core (va - gangWindow)) true else .none)
  else match gangOfFibre s f with
    | some g => some (placeGang s g va)
    | none => if f.ident.guest.isSome then (f.homeMap.find? fun x => x.1 == va).map (·.2) else some .none

/-- A page table entry as the walk reads it at its module home (R128). -/
def tableEntry (s : State) (pa : Nat) : Nat :=
  let c := canonPa s pa
  if isOwnMem s c then mrd s.ms.mem c 8 else (Config.remoteEntry c s.sched.free).toNat

/-- Whether an entry ends the walk with XNP at level `lv` (R127, R128, R136). -/
def entryBad (lv e : Nat) : Bool :=
  !nb e 0 || nf e 60 4 != 0
    || (if nb e 1 then lv == 3 || nf e 13 3 != 0 || nf e 2 2 == 3 || nf e 4 2 == 3
        else lv == 0 || nf e 2 14 != 0 || nf e 56 4 != 0 || nb e 16)

/-- The walk of R128 from level `lv`: the leaf and its level. -/
def walkFrom (s : State) (lv va a : Nat) : Option (Nat × Nat) :=
  let e := tableEntry s (a + 8 * nf va (16 + 14 * lv) 14)
  if entryBad lv e then none
  else if nb e 1 then some (e, lv)
  else match lv with
    | 0 => none
    | k + 1 => walkFrom s k va (nf e 16 40 * 2 ^ 16)

/-- The number of offset bits of a leaf's page (R126). -/
def pageWidth (lv : Nat) : Nat := 16 + 14 * lv

/-- The address space of accesses at a privilege level: 16 is the device monitor's (R126). -/
def spaceOf (ten : BitVec 4) (pl : BitVec 2) : Nat := if pl = 2 then 16 else ten.toNat

/-- The root of an address space. -/
def rootOf (s : State) (space : Nat) : Nat := if space = 16 then s.dev.monRoot.toNat else (tenantOf s space).troot.toNat

/-- The TLB entry that covers an address, in the core's TLB or its cluster's (R130). -/
def tlbFind (s : State) (core space va : Nat) : Option TlbEntry :=
  s.ms.tlb.find? fun e => (e.holder == core || e.holder == 1024 + clusterOf core) && e.space == space
    && va / 2 ^ e.width == e.page

/-- The region checks of R21 with R241. -/
def regionOk (s : State) (pa : Nat) : Bool :=
  let pop := paMod pa == ownMod s || Config.populated (paMod pa)
  match regionOf pa with
  | 0 => nf pa 46 7 == 0 && s.dev.cxlen != 0
  | 1 => !nb pa 52 && pop && (paMod pa != ownMod s || s.dev.cxlen != 0)
  | 2 => !nb pa 52 && nf pa 30 16 == 0 && pop
  | 3 => !nb pa 52 && nf pa 30 16 == 0 && pop
  | 4 => nf pa 48 5 == 0
  | 5 => nf pa 24 29 == 0
  | _ => false

/-- Whether LOC matches the region (R128). -/
def locOk (loc pa : Nat) : Bool :=
  match loc with
  | 0 => regionOf pa ≤ 1
  | 1 => regionOf pa == 2
  | 2 => regionOf pa == 3
  | _ => regionOf pa == 4 || regionOf pa == 5

/-- Whether a leaf permits an access (R128). -/
def permits (pl : BitVec 2) (k : AccKind) (leaf : Nat) : Bool :=
  !(pl == 0 && !nb leaf 12) && match k with
    | .load => nb leaf 9
    | .store => nb leaf 10
    | .atomic => nb leaf 9 && nb leaf 10
    | .fetch => nb leaf 11

/-- The checks that follow the walk, in their order (R128, R21). -/
def checkLeaf (s : State) (ten : BitVec 4) (pl : BitVec 2) (k : AccKind) (va leaf width : Nat) : Trans :=
  let pa := nf leaf 16 40 * 2 ^ 16 / 2 ^ width * 2 ^ width + va % 2 ^ width
  if pl ≠ 2 ∧ nf leaf 56 4 ≠ ten.toNat then .bad cWINDOW
  else if permits pl k leaf = false then .bad cXPROT
  else if locOk (nf leaf 6 2) pa = false then .bad cXNP
  else if regionOk s pa = false then .bad cXNP
  else .ok ⟨canonPa s pa, BitVec.ofNat 2 (nf leaf 2 2), BitVec.ofNat 2 (nf leaf 4 2), BitVec.ofNat 2 (nf leaf 6 2), nb leaf 8,
    va / 2 ^ width, width, BitVec.ofNat 64 leaf⟩

/-- Translation of a mapped address for an agent on `core`: an old translation that a TLB holds is used until it is
invalidated (R130), and otherwise the tables are walked. -/
def translateIn (s : State) (core : Nat) (ten : BitVec 4) (pl : BitVec 2) (k : AccKind) (va : Nat) : Trans :=
  let space := spaceOf ten pl
  match tlbFind s core space va with
  | some e => checkLeaf s ten pl k va e.leaf.toNat e.width
  | none =>
    match walkFrom s 3 va (rootOf s space) with
    | none => .bad cXNP
    | some (leaf, lv) => checkLeaf s ten pl k va leaf (pageWidth lv)

/-- Whether an address lies in the placement region (R129). -/
def inPlacement (va : Nat) : Bool := decide (gangWindow ≤ va) && decide (va < 2 ^ 64)

/-- Translation for a fibre (R125-R129), R128's checks and R21's. -/
def translate (s : State) (f : Fibre) (k : AccKind) (va : Nat) : Trans :=
  if inPlacement va then
    match placeOf s f va with
    | none => .miss
    | some .ring => .ring
    | some .none => .bad cXNP
    | some (.at pa wr) =>
      if k = .fetch ∨ ((k = .store ∨ k = .atomic) ∧ wr = false) then .bad cXPROT
      else .ok ⟨pa, 2, 0, 2, false, 0, 0, 0⟩
  else translateIn s f.core f.ident.tenant f.pl k va

/-- The newest `n` entries of a holder, and every entry of the others. -/
def tlbKeep (h n : Nat) (es : List TlbEntry) : List TlbEntry :=
  match es with
  | [] => []
  | e :: r =>
    if e.holder ≠ h then e :: tlbKeep h n r
    else match n with
      | 0 => tlbKeep h 0 r
      | k + 1 => e :: tlbKeep h k r

/-- Put an entry into its holder's TLB of `n` entries, unless that holds the page; the oldest makes room (R15, R130). -/
def tlbFill (n : Nat) (e : TlbEntry) (es : List TlbEntry) : List TlbEntry :=
  if es.any fun x => x.holder == e.holder && x.space == e.space && e.page * 2 ^ e.width / 2 ^ x.width == x.page then es
  else tlbKeep e.holder n (e :: es)

/-- Put the translation of an access into the TLBs of its core, of 256 entries, and of its cluster, of 8,192 (R130). -/
def noteTlb (s : State) (core space : Nat) (a : Acc) : State :=
  if a.width = 0 then s
  else { s with ms := { s.ms with
    tlb := tlbFill 256 ⟨core, space, a.page, a.width, a.leaf⟩
      (tlbFill 8192 ⟨1024 + clusterOf core, space, a.page, a.width, a.leaf⟩ s.ms.tlb) } }

/-- Whether a gang's reservation holds a scratchpad byte. -/
def gangHolds (g : Gang) (core off : Nat) : Bool :=
  holdsCores g && match coreIndex g core with
    | some k => decide (g.spad.getD k 0 ≤ off) && decide (off < g.spad.getD k 0 + resLen g k)
    | none => false

/-- Whether a core's whole scratchpad is the device monitor's own: a gangless fibre is resident there (R236, R441). -/
def monitorOwn (s : State) (core : Nat) : Bool :=
  (allFibres s).any fun f => gangless f && isResident f && f.core == core

/-- Whether a core's whole scratchpad is the reservation of a gateway fibre of a tenant (R441). -/
def gatewayOwn (s : State) (ten : BitVec 4) (core : Nat) : Bool :=
  (allFibres s).any fun f => f.ident.kind == .gateway && f.ident.tenant == ten && isResident f && f.core == core

/-- R146: whether an agent of a tenant at a level may reach a scratchpad byte of this module. -/
def mayReach (s : State) (ten : BitVec 4) (pl : BitVec 2) (pa : Nat) : Bool :=
  let core := spadCore pa
  let off := pa % 2 ^ 20
  if pl = 2 then s.dist.gangs.any (fun g => gangHolds g core off) || monitorOwn s core
  else s.dist.gangs.any (fun g => g.ten == ten && gangHolds g core off) || gatewayOwn s ten core

/-- R146 for a fibre; a word of another module is checked at its home. -/
def fibreReach (s : State) (f : Fibre) (pa : Nat) : Bool :=
  decide (2 ^ 56 ≤ pa) || isRemote s pa || mayReach s f.ident.tenant f.pl pa

/-- Whether a switch memory byte of this module lies in an allocation of another tenant (R30, R369). -/
def switchOther (s : State) (ten : BitVec 4) (pa : Nat) : Bool :=
  regionOf pa == 2 && decide (pa < 2 ^ 56) && !isRemote s pa && s.allocs.any fun a => a.ten != ten && (a.die == nf pa 29 1 || a.mir)
    && decide (a.gran ≤ pa % 2 ^ 29 / 65536) && decide (pa % 2 ^ 29 / 65536 < a.gran + a.count)

/-- Whether an access of a fibre to a physical address raises WINDOW (R30, R146): a scratchpad word outside its reach, or, below device
monitor level, switch memory that another tenant holds. -/
def outOfReach (s : State) (f : Fibre) (pa : Nat) : Bool :=
  (regionOf pa == 3 && !fibreReach s f pa) || (f.pl != 2 && switchOther s f.ident.tenant pa)

/-- The effective address of a base and a scaled signed offset (R125, R291). -/
def effAddr (base : Word) (n : Nat) (off : BitVec 7) : Word := base + BitVec.ofNat 64 n * sext off

/-- Whether an address is aligned to `n` (R11). -/
def aligned (a : Word) (n : Nat) : Bool := a.toNat % n == 0

end Sys2Proof.Machine
end

