-- ==== Sys2Proof/Machine/Memory.lean ====
section
/-! DEFINITION. Where accesses are performed: homes, copies, clocks, full/empty bits, poison, and the performing of one
request (R132-R145, R151-R182, R295-R300, R422, R427, R438). -/

namespace Sys2Proof.Machine

/-- A grain in bytes (R127). -/
def grainBytes (gr : BitVec 2) : Nat := if gr = 0 then 32 else if gr = 1 then 128 else 512

/-- The grain line of an address. -/
def lineBase (gr : BitVec 2) (a : Nat) : Nat := a / grainBytes gr * grainBytes gr

/-- The next slice from `k` on, modulo 16, that is in service (R426); `fuel` tries. -/
def liveSlice (s : State) (die k fuel : Nat) : Nat :=
  match fuel with
  | 0 => k
  | n + 1 => if sHas s.dev.retiredSlices (die * 16 + k) then liveSlice s die ((k + 1) % 16) n else k

/-- The slice index of R132. -/
def sliceIndex (pa : Nat) : Nat := nf pa 9 4 ^^^ nf pa 13 4 ^^^ nf pa 17 4

/-- The die home slice on a die, as a unit number 1024 + die × 16 + slice. -/
def dieHome (s : State) (die pa : Nat) : Nat := 1024 + die * 16 + liveSlice s die (sliceIndex pa) 16

/-- The unit at which a canonical address of this module is performed: a core's scratchpad, an L2 slice or a router die
bank (R132, R137). -/
def homeUnit (s : State) (pa : Nat) : Nat :=
  match regionOf pa with
  | 3 => spadCore pa
  | 2 => 1088 + nf pa 29 1
  | _ => dieHome s (nf pa 21 2 ^^^ nf pa 23 2 ^^^ nf pa 25 2) pa

/-- A unit's logical clock (R167). -/
def clockOf (s : State) (u : Nat) : Nat := s.sched.tick + tget 0 s.sched.ahead u

/-- A unit's clock becomes at least `c` (R167). -/
def raiseClock (s : State) (u c : Nat) : State :=
  if clockOf s u < c then { s with sched := { s.sched with ahead := tset s.sched.ahead u (c - s.sched.tick) } } else s

/-- A request and its response carry the clocks of both ends (R167). -/
def exchange (s : State) (a b : Nat) : State :=
  if a = b then s else let s := raiseClock s b (clockOf s a); raiseClock s a (clockOf s b)

/-- Take a free value. -/
def takeFree (s : State) : Word × State :=
  (Config.freeWord s.sched.free, { s with sched := { s.sched with free := s.sched.free + 1 } })

/-- The level of a named scope with a membership mask, for an agent on a core. -/
def maskLevel (m : Word) (core : Nat) : Nat :=
  if m = 0 then 0 else if nf m.toNat (16 * dieOf core) 16 * 2 ^ (16 * dieOf core) = m.toNat then 1 else 2

/-- The level of a scope, a named one with the mask `m`, for an agent on a core: 0 its L1, 1 the die home slice, 2 the module home
(R135, R158). -/
def levelIn (m : Word) (core : Nat) (sc : BitVec 4) : Nat :=
  if sc.toNat ≤ 1 then 0 else if sc.toNat ≤ 3 then 1 else if sc.toNat < 8 then 2 else maskLevel m core

/-- The level of a scope as it is now. -/
def scopeLevel (s : State) (ten : BitVec 4) (core : Nat) (sc : BitVec 4) : Nat :=
  levelIn (tget 0 (tenantOf s ten.toNat).masks (sc.toNat - 8)) core sc

/-- The copy of a byte that a holder has (R134). -/
def copyAt (s : State) (h a : Nat) : Option CopyByte := s.ms.copies.find? fun c => c.holder == h && c.addr == a

/-- Put a copy of a byte. -/
def putCopy (cs : List CopyByte) (c : CopyByte) : List CopyByte :=
  c :: cs.filter fun x => !(x.holder == c.holder && x.addr == c.addr)

/-- A holder's copies once the dirty bytes `out` of them are written back: clean, but for words that it holds in part, which it drops, so
that no later fill mixes an old byte with newer ones of its word (R154). -/
def cleaned (s : State) (h : Nat) (out : List CopyByte) : List CopyByte :=
  let part := ((out.map fun c => c.addr / 8).eraseDups).filter fun w => (List.range 8).any fun i => (copyAt s h (8 * w + i)).isNone
  (s.ms.copies.filter fun c => !(c.holder == h && part.contains (c.addr / 8))).map fun c =>
    if c.holder == h && out.any (fun x => x.addr == c.addr) then { c with dirty := false } else c

/-- Bytes written back to home storage: a word written whole takes the mark of its bytes, and one written in part keeps its own, or
takes a mark that they bring (R422). -/
def homeBytes (s : State) (out : List CopyByte) : State :=
  { s with ms := { s.ms with
    mem := out.foldl (fun m c => mset m c.addr c.val) s.ms.mem
    poison := ((out.map fun c => c.addr / 8).eraseDups).foldl (fun p w =>
      let bs := out.filter fun c => c.addr / 8 == w
      if bs.any (·.bad) then sAdd p w else if bs.length = 8 then sDel p w else p) s.ms.poison } }

/-- Whether the die home slice of a line is its module home (R132), so that what is written to the one stands at the other. -/
def dieIsHome (s : State) (die pa : Nat) : Bool := homeUnit s pa == dieHome s die pa

/-- The number of a line for its timestamps. -/
def lineKey (gr : BitVec 2) (pa : Nat) : Nat := if regionOf pa = 3 then pa / 8 * 8 else lineBase gr pa

/-- A line's timestamps; zero before any (log entry 3). -/
def tsOf (s : State) (k : Nat) : LineTs := tget ⟨0, 0⟩ s.ms.lines k

/-- Write a line's timestamps. -/
def setTs (s : State) (k : Nat) (t : LineTs) : State := { s with ms := { s.ms with lines := tset s.ms.lines k t } }

/-- The load rule of R168: the timestamp and the state. -/
def scLoadTs (s : State) (k c : Nat) : Nat × State :=
  let t := tsOf s k
  let ts := max c t.wt + 1
  (ts, setTs s k { t with h := max t.h ts })

/-- The store rule of R168 and R169. -/
def scStoreTs (s : State) (k c : Nat) : Nat × State :=
  let t := tsOf s k
  let ts := max (max c t.wt) t.h + 1
  (ts, setTs s k ⟨ts, max t.h ts⟩)

/-- The grain under which the home records a line (R136); 32 bytes where it records none. -/
def grainAt (s : State) (pa : Nat) : BitVec 2 := (tget 0 s.ms.attrs (pa / 32)).setWidth 2

/-- Bytes written back to the module home by a unit: a store there of each line (R169), with that unit's clock. -/
def storeBack (s : State) (clk : Nat → Nat) (out : List CopyByte) : State :=
  let keys := (out.map fun c => (lineKey (grainAt s c.addr) c.addr, clk c.addr)).eraseDups
  homeBytes (keys.foldl (fun s k => (scStoreTs s k.1 k.2).2) s) out

/-- Write the dirty bytes of some copies in a core's L1 to the die home slice (R134), which may be the module home (R132). -/
def pushL1 (s : State) (core : Nat) (p : Nat → Bool) : State :=
  let h := 1024 + dieOf core
  let out := s.ms.copies.filter fun c => c.holder == core && c.dirty && p c.addr
  let low := out.filter fun c => !dieIsHome s (dieOf core) c.addr
  let c := clockOf s core
  storeBack { s with ms := { s.ms with
      copies := low.foldl (fun cs c => putCopy cs { c with holder := h, dirty := true }) (cleaned s core out) } }
    (fun _ => c) (out.filter fun c => dieIsHome s (dieOf core) c.addr)

/-- Write the dirty bytes of some copies in a die's L2 to the module home. -/
def pushL2 (s : State) (die : Nat) (p : Nat → Bool) : State :=
  let h := 1024 + die
  let out := s.ms.copies.filter fun c => c.holder == h && c.dirty && p c.addr
  let clk := fun a => clockOf s (dieHome s die a)
  storeBack { s with ms := { s.ms with copies := cleaned s h out } } clk out

/-- Drop some copies that a holder has. -/
def dropCopies (s : State) (h : Nat → Bool) (p : Nat → Bool) : State :=
  if s.ms.copies.isEmpty then s
  else { s with ms := { s.ms with copies := s.ms.copies.filter fun c => !(h c.holder && p c.addr) } }

/-- Whether a holder stands on a die. -/
def onDie (die h : Nat) : Bool := if h < 1024 then dieOf h == die else h == 1024 + die

/-- Copies on a die are written back and dropped (R138). -/
def flushDie (s : State) (die : Nat) (p : Nat → Bool) : State :=
  if s.ms.copies.isEmpty then s
  else
    let cores := (s.ms.copies.filter fun c => c.holder < 1024 && dieOf c.holder == die && c.dirty && p c.addr).map (·.holder)
    let s := cores.foldl (fun s c => pushL1 s c p) s
    dropCopies (pushL2 s die p) (onDie die) p

/-- Copies everywhere in the module are written back and dropped: a store at the module home (R138). -/
def flushAll (s : State) (p : Nat → Bool) : State :=
  if s.ms.copies.isEmpty then s else [0, 1, 2, 3].foldl (fun s d => flushDie s d p) s

/-- A release's effect on self-invalidating copies: dirty bytes of the core's lines go down to the level (R134). -/
def releaseCopies (s : State) (core level : Nat) : State :=
  if s.ms.copies.isEmpty ∨ level = 0 then s
  else
    let s := pushL1 s core fun _ => true
    if level = 2 then pushL2 s (dieOf core) fun _ => true else s

/-- The clock of a core passes every lease end that it or its die holds (R172). -/
def endLeases (s : State) (core : Nat) : State :=
  let les := (s.ms.leases.filter fun l => dieOf l.core == dieOf core).map (·.le)
  match les with
  | [] => s
  | _ => raiseClock s core (les.foldl max 0 + 1)

/-- An acquire's effect on self-invalidating copies: clean ones above the level are discarded (R134). -/
def acquireCopies (s : State) (core lv : Nat) : State :=
  if lv = 0 ∨ s.ms.copies.isEmpty then s
  else { s with ms := { s.ms with copies := s.ms.copies.filter fun c =>
    c.dirty || !(c.holder == core || (lv == 2 && c.holder == 1024 + dieOf core)) } }

/-- An acquire's effect at a scope of a known level: copies, and at pod or system scope leases (R172). -/
def acquireLv (s : State) (core : Nat) (sc : BitVec 4) (lv : Nat) : State :=
  let s := acquireCopies s core lv
  if sc = 5 ∨ sc = 6 then endLeases s core else s

/-- An acquire's effect at a scope that is read now. -/
def acquireAt (s : State) (ten : BitVec 4) (core : Nat) (sc : BitVec 4) : State := acquireLv s core sc (scopeLevel s ten core sc)

/-- A release's effect at a scope. -/
def releaseAt (s : State) (ten : BitVec 4) (core : Nat) (sc : BitVec 4) : State :=
  releaseCopies s core (scopeLevel s ten core sc)

/-- The sectors of an address's line, by number (R133). -/
def sectors (gr : BitVec 2) (pa : Nat) : List Nat :=
  (List.range (grainBytes gr / 32)).map fun i => lineBase gr pa / 32 + i

/-- The lines that the home records under other attributes than a request's and that its line meets, as first byte and length (R136). -/
def otherLines (s : State) (cp gr : BitVec 2) (pa : Nat) : List (Nat × Nat) :=
  ((sectors gr pa).filterMap fun k => match s.ms.attrs.find? (fun p => p.1 == k) with
    | some (_, v) => if v = BitVec.ofNat 4 (cp.toNat * 4 + gr.toNat) then none
      else some (lineBase (v.setWidth 2) (32 * k), grainBytes (v.setWidth 2))
    | none => none).eraseDups

/-- Whether the home's record of a line's attributes disagrees with a request's (R136). -/
def attrsDiffer (s : State) (cp gr : BitVec 2) (pa : Nat) : Bool := !(otherLines s cp gr pa).isEmpty

/-- Whether the state holds a copy of some byte of a line recorded under other attributes in a cache. -/
def lineCopied (s : State) (cp gr : BitVec 2) (pa : Nat) : Bool :=
  (otherLines s cp gr pa).any fun l => s.ms.copies.any fun c => decide (l.1 ≤ c.addr) && decide (c.addr < l.1 + l.2)

/-- R136: a request whose CP or GR differs is refused while some cache holds the line. -/
def attrRefused (s : State) (a : Acc) : Bool :=
  isOwnMem s a.pa && regionOf a.pa != 3 && decide (a.pa < 2 ^ 56) && attrsDiffer s a.cp a.gr a.pa
    && (lineCopied s a.cp a.gr a.pa || Config.stillCached s.sched.free)

/-- The home records the attributes of a line that a cache may now hold, in place of the lines recorded before; a record stands while a
copy under it is held (R136). -/
def noteAttrs (s : State) (cp gr : BitVec 2) (pa : Nat) : State :=
  if lineCopied s cp gr pa then s
  else
    let v := BitVec.ofNat 4 (cp.toNat * 4 + gr.toNat)
    let gone := otherLines s cp gr pa
    let old := s.ms.attrs.filter fun p => !((sectors gr pa).any (fun k => k == p.1)
      || gone.any fun l => decide (l.1 / 32 ≤ p.1) && decide (p.1 < (l.1 + l.2) / 32))
    if cp = 2 then { s with ms := { s.ms with attrs := old } }
    else { s with ms := { s.ms with attrs := (sectors gr pa).foldl (fun t k => tset t k v) old } }

/-- The CXL port that carries a pooled offset (R241). -/
def cxlPortAt (s : State) (off : Nat) : Nat :=
  let ps := (List.range 12).filter fun p => s.dev.cxlen.getLsbD p
  ps.getD (off / 4096 % ps.length) 0

/-- The offset on its device at which a pooled offset lies (R241). -/
def cxlOffsetAt (s : State) (off : Nat) : Nat :=
  let c := ((List.range 12).filter fun p => s.dev.cxlen.getLsbD p).length
  off / (4096 * c) * 4096 + off % 4096

/-- Whether a granule of switch memory was lost with its router die (R438). -/
def granuleLost (s : State) (pa : Nat) : Bool :=
  regionOf pa == 2 && s.allocs.any fun a => a.lost && a.die == nf pa 29 1
    && decide (a.gran ≤ pa % 2 ^ 29 / 65536) && decide (pa % 2 ^ 29 / 65536 < a.gran + a.count)

/-- Whether an access to a line of this module fails at its home with LOST (R427, R438), as every one does once the module has itself been declared
dead (R430). -/
def homeLost (s : State) (pa : Nat) : Bool :=
  if 2 ^ 56 ≤ pa then false
  else if sHas s.net.dead (ownMod s) && isOwnMem s pa then true
  else if regionOf pa = 0 then sHas s.dev.retiredCxl (cxlPortAt s (pa % 2 ^ 46)) || s.dev.cxlen == 0
  else granuleLost s pa || (regionOf pa == 2 && s.dev.dieBLost && nf pa 29 1 == 1)

/-- Whether a range meets a poisoned word (R422). -/
def poisoned (s : State) (pa n : Nat) : Bool :=
  s.ms.poison.any fun w => decide (pa / 8 ≤ w) && decide (w ≤ (pa + n - 1) / 8)

/-- A gang's stage channel descriptor as a number of 32 bytes (R57). -/
def descWord (s : State) (g : Gang) : Nat :=
  let ring := fun (e : StageEnt) (va : Nat) =>
    va + 2 ^ 64 * ((nf e.w.toNat 38 9 + 1) * 8) + 2 ^ 96 * (nf e.w.toNat 47 8 + 1)
  match launchOf s g.launch with
  | none => 0
  | some l =>
    let inn := if g.stage = 0 then 0 else ring (stageOf l g.stage) inRingVa
    let out := if l.stages.length ≤ g.stage + 1 then 0 else ring (stageOf l (g.stage + 1)) outRingVa
    inn + 2 ^ 128 * out

/-- The pseudo-address of a descriptor byte that another module's distributor has sent, which holds the descriptor itself (R51, R57). -/
def farDescPa (v o : Nat) : Nat := 2 ^ 56 * (2 + v) + o

/-- The bytes of a descriptor at its pseudo-address (R57). -/
def descValue (s : State) (pa n : Nat) : Nat :=
  let o := pa % 64
  if 2 * 2 ^ 56 ≤ pa then (pa / 2 ^ 56 - 2) / 2 ^ (8 * o) % 2 ^ (8 * n)
  else match gangOf s ((pa - 2 ^ 56) / 64) with
    | none => 0
    | some g => descWord s g / 2 ^ (8 * o) % 2 ^ (8 * n)

/-- Home storage. -/
def rdHome (s : State) (pa n : Nat) : Nat := if 2 ^ 56 ≤ pa then descValue s pa n else mrd s.ms.mem pa n

/-- A store into home storage: a whole aligned word clears its poison mark (R422). -/
def wrHome (s : State) (pa n v : Nat) : State :=
  { s with ms := { s.ms with
    mem := mwr s.ms.mem pa n v
    poison := if n = 8 ∧ pa % 8 = 0 ∧ s.ms.poison ≠ [] then sDel s.ms.poison (pa / 8) else s.ms.poison } }

/-- The byte a core's load finds: its L1's copy, its die's, or home storage's (R134). -/
def byteVia (s : State) (core : Nat) (l1 : Bool) (a : Nat) : Byte :=
  match if l1 then copyAt s core a else none with
  | some c => c.val
  | none =>
    match copyAt s (1024 + dieOf core) a with
    | some c => c.val
    | none => mget s.ms.mem a

/-- A value through the copies. -/
def rdVia (s : State) (core : Nat) (l1 : Bool) (pa n : Nat) : Nat :=
  leNat ((List.range n).map fun i => byteVia s core l1 (pa + i))

/-- The mark of the byte that a core's load finds (R422): it travels with the word through the caches. -/
def badVia (s : State) (core : Nat) (l1 : Bool) (a : Nat) : Bool :=
  match if l1 then copyAt s core a else none with
  | some c => c.bad
  | none =>
    match copyAt s (1024 + dieOf core) a with
    | some c => c.bad
    | none => sHas s.ms.poison (a / 8)

/-- Whether a range read through the copies meets a poisoned word (R422). -/
def poisonVia (s : State) (core : Nat) (l1 : Bool) (pa n : Nat) : Bool :=
  if s.ms.copies.isEmpty then poisoned s pa n else (List.range n).any fun i => badVia s core l1 (pa + i)

/-- Fill a holder's copy of a line, leaving the bytes it has (R133, R136). -/
def fillLine (s : State) (h core : Nat) (l1 : Bool) (gr : BitVec 2) (pa : Nat) : State :=
  (List.range (grainBytes gr)).foldl (fun s i =>
    let a := lineBase gr pa + i
    match copyAt s h a with
    | some _ => s
    | none => { s with ms := { s.ms with
      copies := putCopy s.ms.copies ⟨h, a, byteVia s core l1 a, false, badVia s core l1 a⟩ } }) s

/-- Fill the die home slice's copy of a line; where that slice is the module home, home storage is its copy (R132). -/
def fillDie (s : State) (core : Nat) (gr : BitVec 2) (pa : Nat) : State :=
  if dieIsHome s (dieOf core) pa then s else fillLine s (1024 + dieOf core) core false gr pa

/-- A load of a self-invalidating line under a policy (R134, R138): the state and the value. -/
def loadCp01 (s : State) (core : Nat) (pol gr : BitVec 2) (pa n : Nat) : State × Nat :=
  let here := fun a => lineBase gr a == lineBase gr pa
  if pol = 3 then
    let s := flushDie s (dieOf core) here
    (s, mrd s.ms.mem pa n)
  else if pol = 1 then
    let s := dropCopies (pushL1 s core here) (fun h => h == core) here
    let s := fillDie s core gr pa
    (s, rdVia s core false pa n)
  else
    let v := rdVia s core true pa n
    let s := fillDie s core gr pa
    (if pol = 2 then s else fillLine s core core true gr pa, v)

/-- Put dirty bytes into a holder's copy; `bad` says that their word stays poisoned (R422). -/
def dirtyBytes (s : State) (h pa n v : Nat) (bad : Bool) : State :=
  { s with ms := { s.ms with copies := (List.range n).foldl (fun cs i =>
    putCopy cs ⟨h, pa + i, BitVec.ofNat 8 (v / 2 ^ (8 * i)), true, bad⟩) s.ms.copies } }

/-- Whether a store leaves a poisoned word poisoned: one narrower than the word (R422). -/
def staysBad (s : State) (core pa n : Nat) : Bool := !(decide (n = 8) && decide (pa % 8 = 0)) && poisonVia s core true pa n

/-- A store performed at the die home slice, which may be the module home (R132, R134, R138). -/
def storeDie (s : State) (core pa n v : Nat) (bad : Bool) : State :=
  if dieIsHome s (dieOf core) pa then wrHome s pa n v else dirtyBytes s (1024 + dieOf core) pa n v bad

/-- A store to a self-invalidating line under a policy (R134, R138): a stream store that meets its line in the L1 uses that copy, whole. -/
def storeCp01 (s : State) (core : Nat) (pol gr : BitVec 2) (pa n v : Nat) : State :=
  let here := fun a => lineBase gr a == lineBase gr pa
  let bad := staysBad s core pa n
  if pol = 3 then wrHome (flushAll s here) pa n v
  else if pol = 1 then storeDie (dropCopies (pushL1 s core here) (fun h => h == core) here) core pa n v bad
  else if pol = 2 ∧ s.ms.copies.any (fun c => c.holder == core && here c.addr) = false then storeDie s core pa n v bad
  else dirtyBytes s core pa n v bad

/-- A word just written by a core or an engine beside it is poisoned (R422): the mark stands with the dirty copy that holds it, or at its
home. -/
def markBad (s : State) (core w : Nat) : State :=
  let mine := fun (c : CopyByte) => c.addr / 8 == w && c.dirty && (c.holder == core || c.holder == 1024 + dieOf core)
  if s.ms.copies.any mine then
    { s with ms := { s.ms with copies := s.ms.copies.map fun c => if mine c then { c with bad := true } else c } }
  else { s with ms := { s.ms with poison := sAdd s.ms.poison w } }

/-- A value of `n` bytes read as two's complement. -/
def signedN (n v : Nat) : Int := decInt (8 * n) true v

/-- The new value of an atomic (R296), by major 0x40 + op; none writes nothing. -/
def atomicNew (op : Nat) (uns : Bool) (n old b exp : Nat) : Option Nat :=
  let lt := if uns then decide (old < b) else decide (signedN n old < signedN n b)
  match op with
  | 0 => some ((old + b) % 2 ^ (8 * n))
  | 1 => some (if lt then old else b)
  | 2 => some (if lt then b else old)
  | 3 => some (old &&& b)
  | 4 => some (old ||| b)
  | 5 => some b
  | 6 => if old = exp then some b else none
  | 7 => if signedN n old > 0 then some (old - 1) else none
  | _ => if old < b then some (old + 1) else none

/-- Whether a scratchpad word's full/empty bit is full (R144). -/
def isFull (s : State) (pa : Nat) : Bool := sHas s.ms.full (pa / 8)

/-- Set a word's full/empty bit. -/
def setFull (s : State) (pa : Nat) (b : Bool) : State :=
  { s with ms := { s.ms with full := if b then sAdd s.ms.full (pa / 8) else sDel s.ms.full (pa / 8) } }

/-- The bit a full/empty operation waits for (R144): LDF 0 and LDFE 1 full, STE 2 and STF 3 empty, FEQ 4 and FESET 5
nothing, nor a completion word (7); a GMSG of another module (6) empty, unless its header's OVW is set (R229). A word of a stage
channel descriptor, which lies in no scratchpad, has an empty bit (DESIGN CHOICE, log entry 14). -/
def feReady (s : State) (op pa : Nat) : Bool :=
  if op ≤ 1 then isFull s pa
  else if op ≤ 3 then !isFull s pa
  else if op = 6 then !isFull s pa || nb (mrd s.ms.mem pa 8) 8
  else true

/-- What a full/empty operation waits for: 1 full, 2 empty, 0 nothing (R144, R229). -/
def feClass (op : Nat) : Nat := if op ≤ 1 then 1 else if op ≤ 3 ∨ op = 6 then 2 else 0

/-- Whether a GMSG that came to a word before place `p` waits for its slot there (R145, R230). -/
def slotBehind (s : State) (p pa : Nat) : Bool :=
  (allFibres s).any fun f => match f.run with
    | .parked (.slot x) => x.pas.headD 0 / 8 == pa / 8 && decide (x.id < p)
    | _ => false

/-- Whether a GMSG of another module overwrites its slot whether full or empty: it waits for nothing there (R229). -/
def overwrites (s : State) (op pa : Nat) : Bool := op == 6 && nb (mrd s.ms.mem pa 8) 8

/-- Whether an access that reached the word before place `p` waits there for the same bit (R145). -/
def feBehind (s : State) (p op pa : Nat) : Bool :=
  feClass op != 0 && !overwrites s op pa && (s.ms.reqs.any (fun q => decide (q.place < p) && q.arrived && q.pa / 8 == pa / 8
      && (q.kind == .feLoad || q.kind == .feStore) && feClass q.op == feClass op)
    || (feClass op == 2 && slotBehind s p pa))

/-- A request's place among those that wait on its word: its own when it waits, and otherwise behind them all. -/
def placeOfReq (s : State) (r : Req) : Nat := if r.arrived then r.place else s.sched.nextId

/-- Accesses waiting at a scratchpad, local and remote together (R145). -/
def feWaiting (s : State) (core : Nat) : Nat :=
  (s.ms.reqs.filter fun q => q.arrived && regionOf q.pa == 3 && spadCore q.pa == core
    && (q.kind == .feLoad || q.kind == .feStore)).length
  + ((allFibres s).filter fun f => match f.run with
    | .parked (.slot x) => spadCore (x.pas.headD 0) == core && !isRemote s (x.pas.headD 0)
    | _ => false).length

/-- A performed request's outcome: the state and value, a failure, a wait at the home, or a refusal there. -/
inductive Perf where
  | done (s : State) (v : Word)
  | fail (s : State) (cause : Nat)
  | wait (s : State)
  | refused

/-- The value of an `n`-byte read as a register's. -/
def wordN (n v : Nat) : Word := BitVec.ofNat 64 (v % 2 ^ (8 * n))

/-- Whether a core's monitor table is full (R298): its waits at homes of this module and of others. -/
def monitorsFull (s : State) (core : Nat) : Bool :=
  decide (16 ≤ (s.watches.filter fun w => w.core == core && w.rem.isNone).length
    + (s.ms.reqs.filter fun q => q.core == core && q.kind == .waita && q.sent && q.fib != 0).length)

/-- Whether the watch entries of a word's home are full (R298, R299). -/
def watchFull (s : State) (pa : Nat) : Bool :=
  let u := homeUnit s pa
  decide ((if u < 1024 then 64 else 256) ≤ (s.watches.filter fun w => homeUnit s w.pa == u).length)

/-- The ordering effects of a performed acquire (R162, R166, R169), at the level read at issue (R158). -/
def acqEffect (s : State) (r : Req) : State :=
  match r.acq with
  | some sc => acquireLv s r.core sc r.acqLv
  | none => s

/-- The effects before a request leaves its core (R162, R172): a release at the level read at issue, and an .sc operation's end of the
core's leases. -/
def relEffect (s : State) (r : Req) : State :=
  let s := if r.sc && r.fib != 0 then endLeases s r.core else s
  match r.rel with
  | some _ => releaseCopies s r.core r.relLv
  | none => s

/-- Whether two runs of bytes meet. -/
def meets (a n b m : Nat) : Bool := decide (a < b + m) && decide (b < a + n)

/-- Who owns a line after an access of this module to it (R134, R213, R428): a store or atomic performed under ownership leaves it with
its core; another agent's access takes it away, and out of the ports' atomic caches. -/
def noteOwner (s : State) (r : Req) (own : Bool) : State :=
  let lo := lineBase r.gr r.pa
  let n := grainBytes r.gr
  let own := own && r.fib != 0 && r.cp == 0 && r.pol != 3 && !r.sc
  let rest := s.ms.owners.filter fun o => !(meets o.line o.n lo n && (own || o.core != r.core))
  { s with
    ms := { s.ms with owners := if own then ⟨lo, n, r.core⟩ :: rest else rest }
    net := { s.net with atomics := s.net.atomics.filter fun a => !meets a.line a.n lo n } }

/-- An .sc operation's timestamp goes back to its core (R168); one of another module carries it there in its response. -/
def backTs (s : State) (r : Req) (ts : Nat) : State := if r.sc && r.fib != 0 then raiseClock s r.core ts else s

/-- The timestamp of a store performed at its home, marked .sc or not (R168, R169); an .sc one carries it back. -/
def stampStore (s : State) (r : Req) : State :=
  let p := scStoreTs s (lineKey r.gr r.pa) r.clock.toNat
  backTs p.2 r p.1

/-- Perform a load at its place (R134-R138, R168). -/
def performLoad (s : State) (r : Req) : State × Nat :=
  if 2 ^ 56 ≤ r.pa then (s, descValue s r.pa r.n)
  else if regionOf r.pa = 3 then
    let s := exchange s r.core (spadCore r.pa)
    if r.sc then
      let p := scLoadTs s (lineKey r.gr r.pa) r.clock.toNat
      (backTs p.2 r p.1, mrd s.ms.mem r.pa r.n)
    else (s, mrd s.ms.mem r.pa r.n)
  else
    let s := exchange (noteOwner (noteAttrs s r.cp r.gr r.pa) r false) r.core (homeUnit s r.pa)
    if r.sc then
      let s := flushDie s (dieOf r.core) fun a => lineBase r.gr a == lineBase r.gr r.pa
      let p := scLoadTs s (lineKey r.gr r.pa) r.clock.toNat
      (backTs p.2 r p.1, mrd s.ms.mem r.pa r.n)
    else if r.cp = 1 then loadCp01 s r.core r.pol r.gr r.pa r.n
    else (s, mrd s.ms.mem r.pa r.n)

/-- Perform a store at its place. -/
def performStore (s : State) (r : Req) : State :=
  if regionOf r.pa = 3 then stampStore (wrHome (exchange s r.core (spadCore r.pa)) r.pa r.n r.data.toNat) r
  else
    let s := exchange (noteOwner (noteAttrs s r.cp r.gr r.pa) r true) r.core (homeUnit s r.pa)
    if r.sc then stampStore (wrHome (flushAll s fun a => lineBase r.gr a == lineBase r.gr r.pa) r.pa r.n r.data.toNat) r
    else if r.cp = 1 then
      let miss := r.pol = 1 ∨ (r.pol = 2 ∧ s.ms.copies.any (fun c => c.holder == r.core && lineBase r.gr c.addr == lineBase r.gr r.pa) = false)
      let home := r.pol = 3 ∨ (miss ∧ dieIsHome s (dieOf r.core) r.pa = true)
      let s := storeCp01 s r.core r.pol r.gr r.pa r.n r.data.toNat
      if home then stampStore s r else s
    else
      let s := wrHome s r.pa r.n r.data.toNat
      if r.cp = 2 ∨ r.pol = 3 ∨ (r.pol = 1 ∧ dieIsHome s (dieOf r.core) r.pa = true) then stampStore s r else s

/-- Perform an atomic at its place (R159, R168, R180, R295-R297); one of another module counts as a store at the home even when it writes
nothing (R171). -/
def performAtomic (s : State) (r : Req) : State × Nat :=
  let scr := regionOf r.pa = 3
  let s := if scr then exchange s r.core (spadCore r.pa)
    else exchange (noteOwner (noteAttrs s r.cp r.gr r.pa) r true) r.core (homeUnit s r.pa)
  let s := if scr then s else flushAll s fun a => lineBase r.gr a == lineBase r.gr r.pa
  let old := mrd s.ms.mem r.pa r.n
  let s := if r.sc then (scLoadTs s (lineKey r.gr r.pa) r.clock.toNat).2 else s
  let s := match atomicNew r.op r.uns r.n old (r.data.toNat % 2 ^ (8 * r.n)) (r.expect.toNat % 2 ^ (8 * r.n)) with
    | some v =>
      let s := { s with ms := { s.ms with mem := mwr s.ms.mem r.pa r.n v } }
      if r.sc ∨ scr ∨ r.cp ≠ 0 ∨ r.pol = 3 ∨ r.fib = 0 then stampStore s r else s
    | none => if r.sc ∨ r.fib = 0 then stampStore s r else s
  (s, old)

/-- Perform a full/empty operation whose wait has ended, as one step (R144, R145, R169, R293). -/
def performFe (s : State) (r : Req) : State × Nat :=
  let s := exchange s r.core (spadCore r.pa)
  match r.op with
  | 0 => (s, mrd s.ms.mem r.pa 8)
  | 1 => (setFull s r.pa false, mrd s.ms.mem r.pa 8)
  | 2 => (stampStore (wrHome s r.pa 8 r.data.toNat) r, 0)
  | 3 => (setFull (stampStore (wrHome s r.pa 8 r.data.toNat) r) r.pa true, 0)
  | 7 => (setFull (stampStore (wrHome s r.pa 8 r.data.toNat) r) r.pa true, 0)
  | 4 => (s, if isFull s r.pa then 1 else 0)
  | _ => (setFull s r.pa (r.data != 0), 0)

/-- The fibre's own dirty bytes of a self-invalidating line go to the home before a read there (R160). -/
def ownBytesHome (s : State) (r : Req) : State :=
  if r.cp = 1 ∧ regionOf r.pa ≠ 3 then
    let here := fun a => lineBase r.gr a == lineBase r.gr r.pa
    pushL2 (pushL1 s r.core here) (dieOf r.core) here
  else s

/-- Whether a request finds a poisoned word where it is performed (R422): a plain load of a self-invalidating line in the caches, and
another access at the home, once the copies that it writes back are there. -/
def meetsPoison (s : State) (r : Req) : Bool :=
  let here := fun a => lineBase r.gr a == lineBase r.gr r.pa
  if s.ms.copies.isEmpty ∨ r.cp ≠ 1 ∨ regionOf r.pa = 3 then poisoned s r.pa r.n
  else match r.kind with
    | .load => if r.sc ∨ r.pol = 3 then poisoned (flushDie s (dieOf r.core) here) r.pa r.n else poisonVia s r.core true r.pa r.n
    | .waita => poisoned (ownBytesHome s r) r.pa r.n
    | _ => poisoned (flushAll s here) r.pa r.n

/-- Whether the part of a request that reads its data meets poison (R422). -/
def readsPoison (s : State) (r : Req) : Bool :=
  (match r.kind with
    | .load => true
    | .atomic => true
    | .feLoad => decide (r.op ≤ 1)
    | .waita => true
    | _ => false) && meetsPoison s r

/-- The part maps the switch window (R369). -/
def inSwitchWindow (va : Nat) : Bool := decide (0xFFFFFE0000000000 ≤ va) && decide (va ≤ 0xFFFFFE003FFFFFFF)

/-- The allocation of a tenant that holds a switch memory offset (R369). -/
def allocAt (s : State) (ten : BitVec 4) (x : Nat) : Option Alloc :=
  s.allocs.find? fun a => a.ten == ten && !a.unmapped && a.die == x / 2 ^ 29
    && decide (a.gran ≤ x % 2 ^ 29 / 65536) && decide (x % 2 ^ 29 / 65536 < a.gran + a.count)

/-- Whether an access through the switch window reaches its home after its allocation was freed (R371). -/
def windowGone (s : State) (r : Req) : Bool :=
  r.fib != 0 && inSwitchWindow r.va.toNat && (allocAt s r.ten (r.va.toNat % 2 ^ 30)).isNone

/-- Perform a request at its home on this module, or at its target (R137, R154, R399). -/
def performHere (s : State) (r : Req) : Perf :=
  let s := relEffect s r
  let r := if r.fib = 0 then r else { r with clock := BitVec.ofNat 64 (clockOf s r.core) }
  if r.pa < 2 ^ 56 ∧ regionOf r.pa = 5 then
    (match r.kind with
      | .store => .done (devWrite s r.mon (r.pa % 2 ^ 24) r.n r.data) 0
      | _ => .done (acqEffect s r) (wordN r.n (devRead s (r.pa % 2 ^ 24) r.n)))
  else if r.pa < 2 ^ 56 ∧ regionOf r.pa = 4 then
    (match r.kind with
      | .store => .done { s with host := { s.host with writes := s.host.writes ++ [(r.pa % 2 ^ 48, r.n, r.data)] } } 0
      | _ => let p := takeFree s; .done (acqEffect p.2 r) (wordN r.n p.1.toNat))
  else if windowGone s r then .fail s cXNP
  else if homeLost s r.pa then .fail s cLOST
  else
    match r.kind with
    | .load =>
      if readsPoison s r then .fail s cPOISON
      else let p := performLoad s r; .done (acqEffect p.1 r) (wordN r.n p.2)
    | .store => .done (performStore s r) 0
    | .atomic =>
      if readsPoison s r then .fail s cPOISON
      else let p := performAtomic s r; .done (acqEffect p.1 r) (wordN r.n p.2)
    | .waita =>
      if readsPoison s r then .fail s cPOISON
      else
        let s := acqEffect (exchange (noteOwner (ownBytesHome s r) r false) r.core (homeUnit s r.pa)) r
        if rdHome s r.pa r.n ≠ r.expect.toNat % 2 ^ (8 * r.n) then .done s 1
        else if r.op = 1 || (r.fib != 0 && monitorsFull s r.core) || watchFull s r.pa then .done s 2
        else .wait { s with watches := s.watches ++ [⟨r.id, r.fib, r.core, r.ten, r.va, r.pa, none⟩] }
    | .notify => .done s 0
    | _ =>
      if feReady s r.op r.pa && !feBehind s (placeOfReq s r) r.op r.pa then
        (if readsPoison s r then .fail s cPOISON
        else let p := performFe s r; .done (acqEffect p.1 r) (wordN 8 p.2))
      else if feWaiting s (spadCore r.pa) < 64 ∨ r.arrived = true then .wait s
      else .refused

/-- Whether two requests touch a common byte. -/
def overlaps (a b : Req) : Bool := meets a.pa a.n b.pa b.n

/-- Whether a request is held at a target in program order: host memory and device registers (R182). -/
def atTarget (r : Req) : Bool := decide (r.pa < 2 ^ 56) && (regionOf r.pa == 4 || regionOf r.pa == 5)

/-- Whether request `r` must be performed after `q`, an earlier one of its fibre (R50, R160, R162, R168, R169, R182). An acquire or a
release orders them for every observer, whatever its scope (DESIGN CHOICE, log entry 60). -/
def after (q r : Req) : Bool :=
  overlaps q r || q.acq.isSome || r.rel.isSome || (q.sc && r.sc) || q.moves != r.moves || (atTarget q && atTarget r)

/-- Whether two requests go to one home of another module (R178, R207). -/
def sameHome (s : State) (q r : Req) : Bool :=
  isRemote s q.pa && isRemote s r.pa && paMod q.pa == paMod r.pa
    && (if regionOf q.pa = 3 ∨ regionOf r.pa = 3 then regionOf q.pa == regionOf r.pa && spadCore q.pa == spadCore r.pa
      else homeUnit s q.pa == homeUnit s r.pa)

/-- Whether a request's earlier ones let it be performed now: those of its fibre, and those of its core to the same home of another module
that have not left (R178). -/
def mayPerform (s : State) (r : Req) : Bool :=
  !s.ms.reqs.any fun q => decide (q.id < r.id)
    && ((q.fib == r.fib && after q r) || (q.core == r.core && q.fib != 0 && !q.sent && sameHome s q r))

/-- Whether every access of a fibre has been performed (R62, R162, R164), the reads and writes of its matrix commands among them
(R340). -/
def allPerformed (s : State) (f : Nat) : Bool :=
  !s.ms.reqs.any (fun q => q.fib == f) && !s.arrays.any fun a => a.2.cmds.any fun c => c.fib == f

/-- Remove a request. -/
def dropReq (s : State) (id : Nat) : State :=
  { s with ms := { s.ms with reqs := s.ms.reqs.filter fun q => q.id != id } }

/-- Change a request. -/
def modReq (s : State) (id : Nat) (g : Req → Req) : State :=
  { s with ms := { s.ms with reqs := modWhere (fun q => q.id == id) g s.ms.reqs } }

/-- S of R166: cluster scope, or the smallest of die, module and pod that holds the issuing core and the word's. -/
def feScope (s : State) (core pa : Nat) : BitVec 4 :=
  if isRemote s pa then 5
  else if clusterOf (spadCore pa) = clusterOf core then 2
  else if dieOf (spadCore pa) = dieOf core then 3 else 4

/-- The smallest standard scope that holds two cores of this module. -/
def scopeOfCores (a b : Nat) : BitVec 4 :=
  if a = b then 1 else if clusterOf a = clusterOf b then 2 else if dieOf a = dieOf b then 3 else 4

/-- Sw of R298. -/
def waitScope (s : State) (core pa : Nat) : BitVec 4 :=
  if isRemote s pa then 5 else if regionOf pa = 3 then feScope s core pa else 4

end Sys2Proof.Machine
end

