-- ==== Sys2Proof/Machine/Packets.lean ====
section
/-! DEFINITION. Packets between agents (R206-R208): how a message leaves, the packet of a remote access, and what the
model puts into the kind areas whose layout the spec does not give (log entry 13). -/

namespace Sys2Proof.Machine

/-- An identity's pod, module and agent (R206). -/
def idPod (i : BitVec 26) : Nat := nf i.toNat 18 8
/-- Its module. -/
def idMod (i : BitVec 26) : Nat := nf i.toNat 12 6
/-- Its agent (R207). -/
def idAgent (i : BitVec 26) : Nat := nf i.toNat 0 12

/-- The identity of an agent of this module. -/
def ownIdent (s : State) (agent : Nat) : BitVec 26 :=
  BitVec.ofNat 26 (s.dev.pod.toNat * 2 ^ 18 + ownMod s * 2 ^ 12 + agent)

/-- The identity of an agent of another module of the pod. -/
def podIdent (s : State) (m agent : Nat) : BitVec 26 := BitVec.ofNat 26 (s.dev.pod.toNat * 2 ^ 18 + m * 2 ^ 12 + agent)

/-- Whether an identity names this module. -/
def isOwnIdent (s : State) (i : BitVec 26) : Bool := idPod i == s.dev.pod.toNat && idMod i == ownMod s

/-- The unit number of an agent, for its clock (R167). -/
def agentUnit (a : Nat) : Nat := if a < 0x400 then a else if a < 0x440 then 1024 + (a - 0x400) else 1088 + (a - 0x440) % 2

/-- The number of a pair. -/
def pairKey (src dst : BitVec 26) : Nat := src.toNat * 2 ^ 26 + dst.toNat

/-- A pair's state. -/
def pairOf (s : State) (k : Nat) : Pair := tget Pair.reset s.net.pairs k

/-- Write a pair. -/
def setPair (s : State) (k : Nat) (p : Pair) : State := { s with net := { s.net with pairs := tset s.net.pairs k p } }

/-- The membership mask of a named scope as it is now; 0 for a standard scope (R157, R158). -/
def maskOf (s : State) (ten sc : BitVec 4) : Word := if sc.toNat < 8 then 0 else tget 0 (tenantOf s ten.toNat).masks (sc.toNat - 8)

/-- A packet with its header's fixed parts (R206). -/
def mkPacket (s : State) (core : Nat) (dst : BitVec 26) (kind : Nat) (ten : BitVec 4) (reqid : Nat) (scope : BitVec 4)
    (rel : Bool) (area data : List Byte) : Packet :=
  { clock := BitVec.ofNat 64 (clockOf s core), src := srcIdent s core, dst := dst, kind := BitVec.ofNat 8 kind,
    ten := ten, incarn := s.net.inc, reqid := BitVec.ofNat 32 reqid, pseq := 0, len := BitVec.ofNat 16 data.length,
    scope := scope, rel := rel, retry := false, second := false, status := 0, rsv := false, area := area, data := data,
    mask := maskOf s ten scope, port := 14 }

/-- Whether a kind crosses between pods (R209); kind 3 does when it answers a packet of one of the others. -/
def crossesPods (k : Nat) : Bool := k == 3 || (decide (4 ≤ k) && decide (k ≤ 7)) || k == 10 || k == 11

/-- A packet lost or refused by the fabric is counted (R208, R209). -/
def countDrop (s : State) : State := { s with dev := { s.dev with drops := s.dev.drops + 1 } }

/-- Whether a packet answers another, or is a heartbeat or notice that nothing answers: such packets are not kept (R434). -/
def isReply (p : Packet) : Bool := p.kind == 3 || p.kind == 5 || p.kind == 12

/-- A packet leaves: to an agent of this module at once into the arrivals, and otherwise with the pair's next PSEQ, kept
until it is answered, to the routers; at most 32 of a pair are under way (R178, R197, R434). -/
def sendPacket (s : State) (p : Packet) : State :=
  if isOwnIdent s p.dst then
    (if isReply p && s.dev.deadAgents.contains (idAgent p.src) then countDrop s
    else { s with net := { s.net with arrivals := s.net.arrivals ++ [p] } })
  else
    let k := pairKey p.src p.dst
    let pr := pairOf s k
    if isReply p then { s with net := { s.net with router := s.net.router ++ [p] } }
    else
      let p := { p with pseq := pr.next }
      let s := setPair s k { pr with
        next := pr.next + 1
        unanswered := pr.unanswered ++ [p] }
      if pr.unanswered.length < 32 then { s with net := { s.net with router := s.net.router ++ [p] } } else s

/-- A response or return to a packet (R206, R208); the last 32 of a pair are kept (R435). To another pod a response goes only when the packet
was of a kind that crosses (R209). -/
def answer (s : State) (p : Packet) (kind status : Nat) (area data : List Byte) : State :=
  let r : Packet := { p with
    src := p.dst
    dst := p.src
    clock := BitVec.ofNat 64 (clockOf s (agentUnit (idAgent p.dst)))
    kind := BitVec.ofNat 8 kind
    status := BitVec.ofNat 8 status
    incarn := s.net.inc
    area := area
    data := data
    len := BitVec.ofNat 16 data.length
    retry := false
    second := false
    rel := false
    scope := 0 }
  let k := pairKey p.src p.dst
  let pr := pairOf s k
  let s := countWindow s p.ten (if status = 4 then cWINDOW else 0)
  if idPod p.src ≠ s.dev.pod.toNat ∧ kind = 3 ∧ crossesPods p.kind.toNat = false then countDrop s
  else sendPacket (setPair s k { pr with kept := (r :: pr.kept).take 32 }) r

/-- The cause that a STATUS stands for (R206, R367). -/
def statusCause (st : Nat) : Nat :=
  match st with
  | 1 => cNOHANDLER
  | 2 => cNOHANDLER
  | 3 => cQFULL
  | 4 => cWINDOW
  | 5 => cLOST
  | 6 => cEVICTED
  | 7 => cPOISON
  | _ => 0

/-- The STATUS that reports a cause. -/
def causeStatus (c : Nat) : Nat :=
  if c = cQFULL then 3 else if c = cWINDOW then 4 else if c = cLOST then 5 else if c = cEVICTED then 6
  else if c = cPOISON then 7 else if c = 0 then 0 else 5

/-- Why a request to a module of the pod fails before it leaves (R430, R431): EVICTED or LOST. -/
def unreachable (s : State) (m : Nat) : Option Nat :=
  if s.net.evicted then some cEVICTED else if sHas s.net.dead m then some cLOST else none

/-- Why a message to an agent fails before it leaves: a module of another pod is reached through the Ethernet ports, whatever the modules
of this pod are (R209, R430, R431). -/
def unreachableId (s : State) (i : BitVec 26) : Option Nat :=
  if isOwnIdent s i || idPod i != s.dev.pod.toNat then none else unreachable s (idMod i)

/-- The code of a request's kind in a packet's area. -/
def reqCode (k : ReqKind) : Nat :=
  match k with
  | .load => 0
  | .store => 1
  | .atomic => 2
  | .feLoad => 3
  | .feStore => 4
  | .waita => 5
  | .notify => 6

/-- The agent at which a remote address is performed (R132, R207). -/
def remoteAgent (pa : Nat) : Nat :=
  match regionOf pa with
  | 3 => spadCore pa
  | 2 => 0x440 + nf pa 29 1
  | _ => 0x400 + (nf pa 21 2 ^^^ nf pa 23 2 ^^^ nf pa 25 2) * 16 + sliceIndex pa

/-- The kind area of a remote access's request (log entry 13): address, data, expected value, size, operation, flags
(unsigned, .sc, with a lease, at device monitor level), code and grain. -/
def reqArea (r : Req) (lease : Bool) : List Byte :=
  leBytes 8 r.pa ++ leBytes 8 r.data.toNat ++ leBytes 8 r.expect.toNat
    ++ leBytes 1 r.n ++ leBytes 1 r.op ++ leBytes 1 (b1 r.uns + b1 r.sc * 2 + b1 lease * 4 + reqCode r.kind * 8 + b1 r.mon * 64)
    ++ leBytes 1 r.gr.toNat ++ leBytes 8 r.va.toNat

/-- Send a remote access's request (R154, R170, R171). -/
def sendReq (s : State) (r : Req) (lease : Bool) : State :=
  let kind := match r.kind with
    | .load => 0
    | .store => 1
    | _ => 2
  sendPacket s (mkPacket s r.core (podIdent s (paMod r.pa) (remoteAgent r.pa)) kind r.ten r.id (r.rel.getD 0) r.rel.isSome
    (reqArea r lease) [])

/-- An access of an agent on a core with nothing said of it. -/
def blankReq (s : State) (core : Nat) (ten : BitVec 4) (kind : ReqKind) (op n pa : Nat) (va : Word) : Req :=
  { id := s.sched.nextId, fib := 0, core := core, ten := ten, kind := kind, op := op, uns := false, n := n, pa := pa, va := va, cp := 0,
    gr := 0, pol := 0, acq := none, rel := none, sc := false, data := 0, expect := 0, pend := none, refused := false, arrived := false,
    sent := false, clock := BitVec.ofNat 64 (clockOf s core), rem := none, acqLv := 0, relLv := 0, mon := false, moves := 0, place := 0 }

/-- Send a request to another module for an owner, who keeps the word until its answer has come (R343, R353, R422). -/
def sendFar (s : State) (o : FarOwner) (op : Nat) (r : Req) (src : BitVec 26) : State :=
  let s := { s with
    ms := { s.ms with far := s.ms.far ++ [⟨o, r.pa, op, r.id, false, 0, 0, false⟩] }
    sched := { s.sched with nextId := s.sched.nextId + 1 } }
  let kind := match r.kind with
    | .load => 0
    | .store => 1
    | _ => 2
  sendPacket s { mkPacket s r.core (podIdent s (paMod r.pa) (remoteAgent r.pa)) kind r.ten r.id (r.rel.getD 0) r.rel.isSome
    (reqArea r false) [] with src := src }

/-- A completion or return word stored at another module, where the store leaves it full (R176, R287); with no way there it is lost and
counted (R73, R399). -/
def sendWord (s : State) (o : FarOwner) (core : Nat) (ten : BitVec 4) (pa : Nat) (va v : Word) (scope : BitVec 4) : State :=
  match unreachable s (paMod pa) with
  | some _ => countDrop s
  | none => sendFar s o 1 { blankReq s core ten .feStore 7 8 pa va with
      data := v
      rel := some scope } (srcIdent s core)

/-- A field of a kind area. -/
def areaNat (p : Packet) (o n : Nat) : Nat := leNat ((p.area.drop o).take n)

end Sys2Proof.Machine
end

