-- ==== Sys2Proof/Machine/Gangs.lean ====
section
/-! DEFINITION. What a fibre's end and trigger bring about: the task's return word, its gang's and its launch's states,
the lease (R60-R63, R288, R287, R339). -/

namespace Sys2Proof.Machine

/-- The fibres of a gang, task fibres among them, that have not exited. -/
def gangFibres (s : State) (g : Nat) : List Fibre :=
  (allFibres s).filter fun f => f.ident.gang == some g && decide (f.run ≠ .exited)

/-- Whether a task entry in a gang's context is queued on some core (R287). -/
def hasTask (s : State) (g : Nat) : Bool := s.cores.any fun c => (c.2.taskq ++ c.2.late).any fun t => t.gang == g

/-- Whether a gang holds a walker (R375). -/
def holdsWalk (s : State) (g : Nat) : Bool := s.walkers.any fun w => w.2.gang == some g

/-- A launch's priority. -/
def prioOf (l : Launch) : Nat := nf l.flags.toNat 0 3
/-- Its co-resident flag. -/
def coResident (l : Launch) : Bool := nb l.flags.toNat 6
/-- The gangs of a launch. -/
def launchGangs (s : State) (n : Nat) : List Gang := s.dist.gangs.filter fun g => g.launch == n

/-- The grid's x, y and z extents (R68). -/
def gridX (l : Launch) : Nat := nf l.grid.toNat 0 20 + 1
/-- y. -/
def gridY (l : Launch) : Nat := nf l.grid.toNat 20 20 + 1
/-- z. -/
def gridZ (l : Launch) : Nat := nf l.grid.toNat 40 20 + 1

/-- Gangs of each stage. -/
def gridSize (l : Launch) : Nat := gridX l * gridY l * gridZ l

/-- Whether every gang of a launch has been placed. -/
def allPlaced (s : State) (l : Launch) : Bool :=
  (launchGangs s l.num).length == l.stages.length * gridSize l && (launchGangs s l.num).all fun g => g.st != .placing

/-- Whether a placed fibre has not been triggered (R60). -/
def untriggered (n : Nat) (f : Fibre) : Bool :=
  f.ident.launch == n && f.ident.kind == .placed && f.run != .exited && !f.triggered

/-- A launch is triggered when all its fibres are (R60). -/
def launchTriggered (s : State) (l : Launch) : Bool :=
  allPlaced s l && !(allFibres s).any (untriggered l.num)
    && !(launchGangs s l.num).any fun g => match g.image with
      | some i => i.fibres.any (untriggered l.num)
      | none => false

/-- A launch is Done when all its gangs are (R63, R73). -/
def launchDone (s : State) (l : Launch) : Bool :=
  allPlaced s l && (launchGangs s l.num).all fun g => g.st == .done

/-- A launch's state as its gangs and fibres give it (R63). -/
def settleLaunch (s : State) (n : Nat) : State :=
  match launchOf s n with
  | none => s
  | some l =>
    let st := match l.st with
      | .running => if launchTriggered s l then (if launchDone s l then LaunchState.done else .triggered) else .running
      | .triggered => if launchDone s l then .done else .triggered
      | x => x
    { s with dist := { s.dist with launches := modWhere (fun x => x.num == n) (fun x => { x with st := st }) s.dist.launches } }

/-- A gang's image region in switch memory is given back when the gang is Done (R80). -/
def freeRegion (s : State) (r : Option (Option Nat)) : State :=
  match r with
  | some (some x) => { s with allocs := s.allocs.filter fun a => !(a.unmapped && a.die * 8192 + a.gran == x) }
  | _ => s

/-- GANG_DONE: with the last fibre and task gone, the gang's resources are released (R62, R63, R80, R375). -/
def settleGang (s : State) (g : Nat) : State :=
  match gangOf s g with
  | none => s
  | some x =>
    if x.st = .resident ∧ (gangFibres s g).isEmpty = true ∧ hasTask s g = false ∧ holdsWalk s g = false then
      let s := modGang (freeRegion s x.region) g fun x => { x with
        st := .done
        last := none
        region := none }
      settleLaunch { s with dist := { s.dist with barriers := s.dist.barriers.filter fun b => b.grid || b.key != g } }
        x.launch
    else settleLaunch s x.launch

/-- The Resident gangs of those chosen for imaging (R78): with them every gang of a co-resident stage's grid. -/
def withGrids (s : State) (ids : List Nat) : List Nat :=
  (s.dist.gangs.filter fun g => g.st == .resident && (ids.contains g.id || match launchOf s g.launch with
    | some l => coResident l && s.dist.gangs.any fun x => ids.contains x.id && x.launch == g.launch && x.stage == g.stage
    | none => false)).map (·.id)

/-- A control packet about a fibre to another module of the pod (R51; log entry 13): its code, the fibre's number at its home, a value,
and the fibre's GANGID and FSTAGE. -/
def tellModule (s : State) (f : Fibre) (m n code : Nat) (v : Word) (data : List Byte) : State :=
  { s with net := { s.net with router := s.net.router ++ [
    mkPacket s f.core (podIdent s m 0x448) 12 f.ident.tenant 0 f.ident.tscope true
      (leBytes 8 code ++ leBytes 8 n ++ leBytes 8 v.toNat ++ leBytes 8 f.ident.gangid.toNat ++ leBytes 8 f.ident.fstage.toNat) data] } }

/-- A gang's fibres that have migrated to other modules are asked for, so that they are imaged with it (R46, R81). -/
def recallGang (s : State) (g : Nat) : State :=
  (gangFibres s g).foldl (fun s f => match f.run with
    | .away m => tellModule s f m f.id 9 (BitVec.ofNat 64 f.core) []
    | _ => s) s

/-- Imaging begins for some gangs that are Resident (R81). -/
def startImaging (s : State) (ids : List Nat) : State :=
  let ids := withGrids s ids
  ids.foldl recallGang { s with dist := { s.dist with
    gangs := modWhere (fun g => ids.contains g.id) (fun g => { g with st := .imaging }) s.dist.gangs } }

/-- TASK_RETURN_STORE: g1 to the return word, leaving it full; dropped when the word no longer lies in a reservation of
the tenant (R287), which another module finds out for a word of its own. -/
def taskReturn (s : State) (f : Fibre) (v : Word) : State :=
  if f.ident.kind = .task ∧ f.ident.ret ≠ 0 then
    match translate s { f with pl := 0 } .store f.ident.ret.toNat with
    | .ok a =>
      if regionOf a.pa ≠ 3 ∨ 2 ^ 56 ≤ a.pa then s
      else if isRemote s a.pa then
        sendWord (releaseAt s f.ident.tenant f.core f.ident.retScope) .nobody f.core f.ident.tenant a.pa f.ident.ret v f.ident.retScope
      else if fibreReach s { f with pl := 0 } a.pa then
        let s := exchange (releaseAt s f.ident.tenant f.core f.ident.retScope) f.core (spadCore a.pa)
        setFull (scStoreTs (wrHome s a.pa 8 v.toNat) (a.pa / 8 * 8) (clockOf s f.core)).2 a.pa true
      else s
    | _ => s
  else s

/-- A walker's count of a node's task fibres that have not exited falls (R88). -/
def nodeExit (s : State) (f : Fibre) : State :=
  match f.ident.node with
  | none => s
  | some (cl, n) =>
    let w := walkerOf s cl
    setWalker s cl { w with alive := tset w.alive n (tget 0 w.alive n - 1) }

/-- A lease whose holder has ended is given back once its commands have completed (R339). -/
def giveBack (s : State) (f : Fibre) : State :=
  let a := arrayOf s (clusterOf f.core)
  match a.lease with
  | none => s
  | some l =>
    if l.fib ≠ f.id then s
    else if a.cmds.isEmpty then setArray s (clusterOf f.core) { a with lease := none }
    else setArray s (clusterOf f.core) { a with lease := some { l with rel := true } }

/-- News of a fibre from another module of the pod to its home (R51). -/
def tellHome (s : State) (f : Fibre) (m n code : Nat) (v : Word) : State := tellModule s f m n code v []

/-- What a fibre's end brings about outside it: a task's return word, or the news to its home. -/
def newsOfEnd (s : State) (f : Fibre) (v : Word) : State :=
  match f.ident.guest with
  | some (m, n) => tellHome (releaseAt s f.ident.tenant f.core f.ident.retScope) f m n 3 v
  | none => taskReturn s f v

/-- The end of a fibre as by EXIT (R62, R288, R402): its accesses are performed at the trigger scope, a task's return
word is written, and it counts as triggered. `v` is the return value. -/
def endFibre (s : State) (n : Nat) (v : Word) : State :=
  match fibreOf s n with
  | none => s
  | some f =>
    let s := releaseAt s f.ident.tenant f.core f.ident.tscope
    let s := newsOfEnd s f v
    let s := giveBack (nodeExit s f) f
    let s := modFibre s n fun f => { f with run := .exited, triggered := true, pend := [], heldFree := 0 }
    let s := { s with fibres := s.fibres.filter fun x => decide (x.run ≠ .exited) }
    match f.ident.gang with
    | some g => settleGang s g
    | none => s

end Sys2Proof.Machine
end

