-- ==== Sys2Proof/Machine/Ops.lean ====
section
/-! DEFINITION. The shared operations of the meanings: taking a trap and returning from one (R390-R394, R402), and the
issue of an instruction with its checks, its last uses and its completion (R39-R45, R253, R399, R405, R406). -/

namespace Sys2Proof.Machine

/-- The outcome type of exec and step. -/
abbrev Out := Host.Outcome State Fault Refusal

/-- Whether a trap vector can be used (R394). -/
def usableVec (v : Word) : Bool := v != 0 && v.toNat % 4 == 0

/-- Where a trap goes (R394): the monitor context or the supervisor's, RDIR, and the vector. -/
def trapTarget (s : State) (f : Fibre) (c : Nat) (hcall : Bool) : Bool × Bool × Word :=
  let mvec := mailWord s 16
  let tvec := (tenantOf s f.ident.tenant.toNat).tvec
  if hcall || c == cPOISON || c == cEVICTED || f.pl == 2 then (true, false, mvec)
  else if usableVec tvec then (false, false, tvec)
  else (true, true, mvec)

/-- Whether a fibre holds its cluster's array lease (R332). -/
def holdsLease (s : State) (f : Fibre) : Bool :=
  match (arrayOf s (clusterOf f.core)).lease with
  | some l => l.fib == f.id && !l.rel
  | none => false

/-- Whether a core of this module accepts a migrating fibre (R48, R236, R424). -/
def acceptsFibre (s : State) (f : Fibre) (h : Nat) : Bool :=
  roomFor s h f.ident.budget && !otherTenant s h f.ident.tenant && !gatewayClosed s h && !(coreOf s h).retired
    && !monitorOwn s h

/-- The first failure mark of a live register, in register order (R400). -/
def firstMark (f : Fibre) : Option Failure :=
  (f.marks.find? fun m => f.live.getLsbD m.1).map (·.2)

/-- Whether a migration caused by an access may be tried at all (R48-R50, R401, R441). -/
def mayMigrate (s : State) (f : Fibre) : Bool :=
  !f.noMig && !f.recalled && !gangless f && f.ident.kind != .handler && !f.sup.frame && !f.mon.frame && !holdsLease s f

/-- The bytes of a fibre's loop levels in a migration packet, innermost outward (R49, R206). -/
def loopBytes (ls : List LoopLevel) : List Byte :=
  match ls with
  | [] => []
  | l :: r => leBytes 4 l.count.toNat ++ leBytes 2 l.start.toNat ++ leBytes 2 l.stop.toNat ++ loopBytes r

/-- The state a migration packet carries at offsets 32-203 (R49, R206). -/
def migrationData (f : Fibre) : List Byte :=
  let body := leBytes 2 (f.live.toNat / 2 * 2) ++ [0, 0]
    ++ ((List.range 16).filter fun i => f.live.getLsbD i).flatMap (fun i => leBytes 8 (f.regs.toList.getD i 0).toNat)
    ++ leBytes 8 f.pc.toNat ++ leBytes 4 (fstat f).toNat ++ leBytes 4 f.fpfx.toNat ++ loopBytes f.loops
  body ++ List.replicate (172 - body.length) 0

/-- What a fibre's launch record asks, as a fibre on another module carries it: BTAG, a grid tag, DCHK and HZCHK (R68, R69, R91). -/
def launchFlags (s : State) (f : Fibre) : BitVec 4 :=
  if f.ident.guest.isSome then f.ident.lflags
  else match gangOfFibre s f with
    | none => 0
    | some g => match launchOf s g.launch with
      | none => 0
      | some l =>
        let tag := nb (stageOf l g.stage).w.toNat 37
        BitVec.ofNat 4 (b1 tag + b1 (tag && coResident l) * 2 + b1 (nb l.flags.toNat 7) * 4 + b1 (nb l.flags.toNat 8) * 8)

/-- The wait itself of a fibre that waits within an instruction. -/
def plainWait (w : Wait) : Wait :=
  match w with
  | .job _ _ _ w _ => w
  | w => w

/-- Task entries that a resumed gang brings back come into their core's queue as it has room (R86; DESIGN CHOICE, log entry 64). -/
def refill (c : Core) : Core :=
  { c with
    taskq := c.taskq ++ c.late.take (32 - c.taskq.length)
    late := c.late.drop (32 - c.taskq.length) }

/-- What a migration packet says of a fibre beside R49's items (log entry 13): its coordinates, GANGID, FSTAGE, what it is, its home
and its number there, its budget and launch flags, the register that its held instruction writes, whether it waits at a barrier, and `why` it
travels: 0 for an access, 1 by MIGR, 2 for its gang's image. -/
def migrationArea (s : State) (g : Fibre) (d : Reg) (bar : Bool) (why : Nat) : List Byte :=
  let i := g.ident
  let home := i.guest.getD (ownMod s, g.id)
  leBytes 8 i.fcoord.toNat ++ leBytes 8 i.gangid.toNat
    ++ leBytes 1 (i.fstage.toNat % 64 + (if i.kind = .task then 64 else 0) + (if i.ret = 0 then 0 else 128))
    ++ leBytes 1 home.1 ++ leBytes 4 home.2
    ++ leBytes 2 (i.budget + d.toNat * 16 + (launchFlags s g).toNat * 256 + b1 bar * 4096 + why * 8192)

/-- A migration packet to a core of another module (R48, R49); `g` is the fibre as it travels. -/
def migrationPacket (s : State) (n m core : Nat) (g : Fibre) (d : Reg) (bar : Bool) (why : Nat) : Packet :=
  mkPacket s g.core (podIdent s m core) 8 g.ident.tenant n g.ident.tscope false (migrationArea s g d bar why) (migrationData g)

/-- A fibre is offered to the core of a word of another module (R48): what it stored stands at the module home before it departs, where
its loads on the other module may meet it (R50, R160, R165). -/
def offerRemote (s : State) (pa : Nat) (migr : Bool) (g : Fibre) (gd : Reg) : Wait × State :=
  let (n, s) := freshId (releaseAt s g.ident.tenant g.core 5)
  (.offer n migr, sendPacket s (migrationPacket s n (paMod pa) (spadCore pa) g gd false (b1 migr)))

/-- Trap entry's change of the fibre (R391). -/
def enterTrap (f : Fibre) (mon : Bool) (c : Nat) (v epc vec : Word) (rdir dbl : Bool) : Fibre :=
  let x : TrapCtx := ⟨epc, v, BitVec.ofNat 6 c, f.pl, f.pfx, true, dbl, rdir, f.loops, pcBlock epc⟩
  { f with
    mon := if mon then x else f.mon
    sup := if mon then f.sup else x
    pfx := false
    loops := []
    pl := if mon then 2 else 1
    pc := vec
    run := .eligible
    resumed := false
    walked := false
    noMig := false
    homeMap := []
    words := [] }

/-- Park the current fibre: nothing is performed, and the instruction issues again. -/
def parkOn (s : State) (w : Wait) : State := { s with fib := { s.fib with run := .parked w } }

/-- A trap that no context can take ends the fibre as EXIT does (R402), once its accesses are performed. -/
def endTrap (s : State) : State :=
  if allPerformed s s.fib.id then
    let s := { s with dev := { s.dev with double := s.dev.double + 1 } }
    endFibre s s.fib.id (BitVec.allOnes 64)
  else parkOn s .doom

/-- Trap entry with its long results written and no failure pending: the fibre goes to a vector, or to its end (R391, R394, R402). A request
for a walker ends with it (R375). -/
def takeTrap (s : State) (c : Nat) (v epc : Word) (hcall : Bool) : State :=
  let f := s.fib
  let s := { s with
    walkWait := s.walkWait.filter fun w => w.2 != f.id
    sched := { s.sched with free := s.sched.free + 1 } }
  let (mon, rdir, vec) := trapTarget s f c hcall
  if mon then
    if usableVec vec && !f.mon.frame then { s with fib := enterTrap f true c v epc vec rdir false } else endTrap s
  else if f.sup.frame then
    if usableVec (mailWord s 16) && !f.mon.frame then
      { s with fib := enterTrap f true c v epc (mailWord s 16) false true }
    else endTrap s
  else { s with fib := enterTrap f false c v epc vec rdir false }

/-- A trap that an instruction's own check finds: a WINDOW counts for the fibre's tenant (R439). -/
def found (s : State) (c : Nat) : State := countWindow s s.fib.ident.tenant c

/-- A trap raised by the instruction at the PC: entry waits for long results, with the cause kept, and a pending failure takes the
place of the cause (R391, R393, R399). -/
def raise (s : State) (c : Nat) (v : Word) : State :=
  if allReady s.fib then
    let f := drain s.fib
    match f.failure with
    | some e => takeTrap { s with fib := { f with failure := none } } e.cause.toNat e.addr f.pc false
    | none => takeTrap { s with fib := f } c v f.pc false
  else parkOn s (.trap c v)

/-- TRAP and HCALL complete, with the end test, before their trap (R306, R393). -/
def raiseAfter (s : State) (hcall : Bool) (c : Nat) (v : Word) : State :=
  if allReady s.fib then
    let f := drain s.fib
    match f.failure with
    | some e => takeTrap { s with fib := { f with failure := none } } e.cause.toNat e.addr f.pc false
    | none =>
      let g := stepPc f
      takeTrap { s with fib := g } c v g.pc hcall
  else parkOn s .marker

/-- The context that ERET returns through (R392). -/
def eretCtx (f : Fibre) : TrapCtx := if f.pl = 2 then f.mon else f.sup

/-- ERET's change of the fibre (R392). -/
def leaveTrap (f : Fibre) : Fibre :=
  let x := eretCtx f
  let y := { x with frame := false, dbl := false, rdir := false, loops := [] }
  { f with
    mon := if f.pl = 2 then y else f.mon
    sup := if f.pl = 2 then f.sup else y
    pl := x.ppl
    pfx := x.ppfx
    loops := x.loops
    pc := x.epc &&& ~~~3 }

/-- How an instruction uses its fibre: its marker, whether it takes a prefix (R117), the least level it needs (R305), a
context check (R405 step 3), the registers it reads in the order of R406 with their last-use bits, the one it writes,
and whether a pending failure is raised at it (R399). -/
structure Use where
  instr : Instr
  y : Bool
  pfxOk : Bool
  level : Nat
  ctx : State → Option (Nat × Word)
  reads : List (Reg × Bool)
  dest : Reg
  fail : Bool

/-- The word of an instruction as EVAL shows it. -/
def wordVal (i : Instr) : Word := zext (encode i)

/-- An instruction's use of registers, with no other condition. -/
def plainUse (i : Instr) (y : Bool) (reads : List (Reg × Bool)) (dest : Reg) : Use :=
  ⟨i, y, false, 0, fun _ => none, reads, dest, false⟩

/-- ILLEGAL in a handler (R212, R346). -/
def noHandler (i : Instr) (s : State) : Option (Nat × Word) :=
  if s.fib.ident.kind = .handler then some (cILLEGAL, wordVal i) else none

/-- ILLEGAL in a handler and in a fibre that belongs to no gang (R212, R236, R441). -/
def gangOnly (i : Instr) (s : State) : Option (Nat × Word) :=
  if s.fib.ident.kind = .handler ∨ gangless s.fib = true then some (cILLEGAL, wordVal i) else none

/-- What an instruction does once its checks have passed. -/
inductive Eff where
  /-- it traps -/
  | trap (c : Nat) (v : Word)
  /-- it traps for a failure that was found elsewhere, and is counted there (R439) -/
  | report (c : Nat) (v : Word)
  /-- it completes and falls through -/
  | done (t : State)
  /-- it completes and goes to an address -/
  | jump (t : State) (pc : Word)
  /-- it must wait, has performed nothing and issues again -/
  | park (w : Wait) (t : State)
  /-- its checks have passed and it must wait: what it has still to do is kept, and no check is made again (R407) -/
  | later (w : Wait) (j : Job) (t : State)
  /-- it has issued and completes at an event -/
  | hold (w : Wait) (t : State)
  /-- it has issued and its fibre, with its long results written, travels to a core of this module (R49, R290) -/
  | travel (h : Nat) (t : State)
  /-- its access would migrate the fibre to the core of the word at a physical address (R47, R48) -/
  | leave (pa : Nat) (t : State)
  /-- it completes and traps (TRAP, HCALL) -/
  | trapAfter (hcall : Bool) (c : Nat) (v : Word)
  /-- the state is as it gives -/
  | raw (t : State)

/-- Whether an instruction names engine 5 (R264). -/
def isEngine5 (i : Instr) : Bool :=
  match i with
  | .erd _ _ e _ => e == 5
  | .ewr _ _ _ e _ => e == 5
  | .kload _ _ _ _ => true
  | .kturn _ => true
  | _ => false

/-- The cause of an encoding that is not admitted (R253, R264, R270). -/
def rejectCause (i : Instr) : Nat :=
  match i with
  | .mfs _ _ _ => cILLEGAL
  | .mts _ _ _ _ => cILLEGAL
  | .erd _ _ _ _ => cILLEGAL
  | .ewr _ _ _ _ _ => cILLEGAL
  | _ => cRESBITS

/-- The mask of registers that last-use reads free (R40). -/
def freeMask (u : Use) : BitVec 16 :=
  u.reads.foldl (fun m r => if r.2 && r.1 != 0 then m ||| regBit r.1 else m) 0

/-- The checks of one register read (R406); `k` numbers the read's free choice. -/
def readCheck (f : Fibre) (y : Bool) (k : Nat) (r : Reg) : Option (Nat × Word) :=
  match readMark k f r with
  | some e => some (e.cause.toNat, e.addr)
  | none =>
    if f.hzchk && !y && (pendOf f r).isSome then some (cHAZARD, zext r)
    else if f.dchk && r != 0 && !isLive f r then some (cDEADREG, zext r)
    else none

/-- The number of the i-th of some reads, for its free choice (R11, R44): its own, but for a register that the instruction frees, which
gives every read of it one value. -/
def readNo (rs : List (Reg × Bool)) (i : Nat) (r : Reg) : Nat :=
  if rs.any fun x => x.1 == r && x.2 then rs.findIdx fun x => x.1 == r else i

/-- The checks of the reads from the i-th on. -/
def readChecksFrom (f : Fibre) (y : Bool) (k : Nat) (all : List (Reg × Bool)) (i : Nat) (rs : List (Reg × Bool)) : Option (Nat × Word) :=
  match rs with
  | [] => none
  | r :: t =>
    match readCheck f y (k + readNo all i r.1) r.1 with
    | some e => some e
    | none => readChecksFrom f y k all (i + 1) t

/-- The checks of the registers read, in order; `k` numbers the first read's free choice. -/
def readChecks (f : Fibre) (y : Bool) (k : Nat) (rs : List (Reg × Bool)) : Option (Nat × Word) := readChecksFrom f y k rs 0 rs

/-- The checks of the register written (R39, R45). -/
def destCheck (f : Fibre) (y : Bool) (freed : BitVec 16) (d : Reg) : Option (Nat × Word) :=
  if d = 0 then none
  else if f.hzchk && !y && (pendOf f d).isSome then some (cHAZARD, zext d)
  else
    let live := f.live &&& ~~~freed
    if !live.getLsbD d.toNat && decide (f.ident.budget ≤ liveCount live) then some (cBOUND, zext d) else none

/-- The checks of R405's steps 2 to 4. -/
def issueChecks (s : State) (u : Use) : Option (Nat × Word) :=
  let f := s.fib
  if isEngine5 u.instr && !servesGateway s f.core then some (cILLEGAL, wordVal u.instr)
  else if !u.instr.wf then some (rejectCause u.instr, wordVal u.instr)
  else if f.pfx && !u.pfxOk then some (cPREFIX, wordVal u.instr)
  else if f.pl.toNat < u.level then some (cPRIV, wordVal u.instr)
  else match u.ctx s with
    | some e => some e
    | none =>
      match readChecks f u.y s.sched.free u.reads with
      | some e => some e
      | none => destCheck f u.y (freeMask u) u.dest

/-- The values of the reads from the i-th on. -/
def readValsFrom (f : Fibre) (k : Nat) (all : List (Reg × Bool)) (i : Nat) (rs : List (Reg × Bool)) : List Word :=
  match rs with
  | [] => []
  | r :: t => readReg (k + readNo all i r.1) f r.1 :: readValsFrom f k all (i + 1) t

/-- The values read, in the order of the use (R10, R41): R44 chooses anew at each read, and the reads of a register that the instruction
frees give one value (R11). -/
def readVals (f : Fibre) (k : Nat) (rs : List (Reg × Bool)) : List Word := readValsFrom f k rs 0 rs

/-- The k-th value read. -/
def arg (v : List Word) (k : Nat) : Word := v.getD k 0

/-- What issuing clears: the prefix it consumed (R117), and marks of the fibre's first action (R49, R400). -/
def issued (f : Fibre) (u : Use) : Fibre :=
  { f with pfx := f.pfx && !u.pfxOk, resumed := false, walked := false, noMig := false, homeMap := [], words := [] }

/-- The state before a completed instruction's own effect: last uses freed, free choices taken. -/
def afterReads (s : State) (u : Use) : State :=
  { s with
    fib := freeRegs s.fib (freeMask u)
    sched := { s.sched with free := if s.fib.pend.isEmpty then s.sched.free else s.sched.free + u.reads.length } }

/-- Give back what a wait must not have changed. -/
def unread (s t : State) : State :=
  { t with fib := { t.fib with live := s.fib.live, pend := s.fib.pend, regs := s.fib.regs } }

/-- An access would migrate the current fibre (R47-R50): with its long results written, no failure and no mark, and its accesses
performed, so that none can fail once it is under way (R33), it departs when the core of the word accepts it, or is offered to it there;
refused, the access issues again and is performed remotely. -/
def leaveFor (s : State) (pa : Nat) : State :=
  if !allReady s.fib then parkOn s .marker
  else
    let s := { s with fib := drain s.fib }
    match if s.fib.failure.isSome then some (⟨0, 0⟩ : Failure) else firstMark s.fib with
    | some e => raise s e.cause.toNat e.addr
    | none =>
      if !allPerformed s s.fib.id then parkOn s .accesses
      else if isRemote s pa then
        let o := offerRemote s pa false s.fib 0
        parkOn o.2 o.1
      else if acceptsFibre s s.fib (spadCore pa) then
        { s with fib := { s.fib with run := .migrating (spadCore pa) false } }
      else { s with fib := { s.fib with noMig := true } }

/-- Carry out an effect (R40, R55, R117). `s` is the state at issue. -/
def carry (s : State) (u : Use) (e : Eff) : State :=
  match e with
  | .trap c v => raise (found s c) c v
  | .report c v => raise s c v
  | .done t => { t with fib := stepPc (issued t.fib u) }
  | .jump t pc => { t with fib := { issued t.fib u with pc := pc } }
  | .park w t => parkOn (unread s t) w
  | .later w j t => parkOn (unread s t) (.job (freeMask u) u.dest (u.fail || u.y) w j)
  | .hold w t =>
    let t := unread s t
    { t with fib := { issued t.fib u with run := .parked w, heldFree := freeMask u, heldDest := u.dest } }
  | .travel h t => { t with fib := { issued t.fib u with run := .migrating h true, heldFree := 0, heldDest := u.dest } }
  | .leave pa t => leaveFor (unread s t) pa
  | .trapAfter h c v => raiseAfter s h c v
  | .raw t => t

/-- The use of registers by an instruction that goes on after a wait within it (R407): those it frees, and the one that it writes. -/
def jobUse (free : BitVec 16) (d : Reg) (fail : Bool) : Use :=
  ⟨.nop false, false, false, 0, fun _ => none,
    ((List.range 16).filter fun i => free.getLsbD i).map (fun i => (BitVec.ofNat 4 i, true)), d, fail⟩

/-- An instruction goes on after a wait within it (R407): none of its checks is made again, and a failure found meanwhile is raised at it
where it is one that raises failures (R399). `e` is what it still does. -/
def resumeWith (s : State) (u : Use) (e : State → Eff) : State :=
  if u.fail && s.fib.failure.isSome then raise s 0 0 else carry s u (e (afterReads s u))

/-- Issue of an instruction by the current fibre: the switch marker (R43), a pending failure (R399), the checks (R405),
the reads, and its effect. -/
def issue (s : State) (u : Use) (body : State → List Word → Eff) : Out :=
  if u.y && !allReady s.fib then .next (parkOn s .marker)
  else
    let s := if u.y then { s with fib := drain s.fib } else s
    if s.fib.failure.isSome && (u.fail || u.y || s.fib.resumed) then .next (raise s 0 0)
    else match issueChecks s u with
      | some (c, v) => .next (raise s c v)
      | none => .next (carry s u (body (afterReads s u) (readVals s.fib s.sched.free u.reads)))

/-- Write a short result (R42). -/
def setShort (s : State) (d : Reg) (v : Word) : State := { s with fib := writeShort s.fib d v }

/-- Issue a long result whose value exists (R42). -/
def setLong (s : State) (d : Reg) (v : Word) (fl : BitVec 5) : State :=
  let (n, s) := freshId s
  { s with fib := writeLong s.fib n d v fl }

/-- A long result's failure in place of its value (R399): a mark, or without a register a pending failure. -/
def setFailed (s : State) (d : Reg) (c : Nat) (va : Word) : State :=
  let e : Failure := ⟨BitVec.ofNat 6 c, va⟩
  if d = 0 then addFailure s s.fib.id e
  else
    let (n, s) := freshId s
    { s with fib := addPend s.fib ⟨n, d, none, some e, 0, true⟩ }

/-- A long result whose value does not exist yet. -/
def setAwait (s : State) (n : Nat) (d : Reg) : State :=
  if d = 0 then s else { s with fib := addPend s.fib ⟨n, d, none, none, 0, true⟩ }

/-- A held instruction of a fibre completes: last uses freed, the result written with its flags, the PC advanced (R46). -/
def completeFl (s : State) (n : Nat) (r : Option Word) (fl : BitVec 5) : State :=
  let (k, s) := freshId s
  modFibre s n fun f =>
    let f := freeRegs f f.heldFree
    let f := match r with
      | some v => writeLong f k f.heldDest v fl
      | none => f
    stepPc { f with run := .eligible, heldFree := 0, heldDest := 0 }

/-- A held instruction completes with a result that brings no flags. -/
def complete (s : State) (n : Nat) (r : Option Word) : State := completeFl s n r 0

/-- A held instruction completes with a failure in place of its result (R399). -/
def completeFailed (s : State) (n c : Nat) (va : Word) : State :=
  let e : Failure := ⟨BitVec.ofNat 6 c, va⟩
  let (k, s) := freshId s
  match fibreOf s n with
  | none => s
  | some f0 =>
    let s := modFibre s n fun f =>
      let d := f.heldDest
      let f := freeRegs f f.heldFree
      let f := if d = 0 then f else addPend f ⟨k, d, none, some e, 0, true⟩
      stepPc { f with run := .eligible, heldFree := 0, heldDest := 0 }
    if f0.heldDest = 0 then addFailure s n e else s

/-- A held instruction traps instead (R286, R367): the fibre issues nothing of it. The fibre becomes the current one. -/
def completeTrap (s : State) (n c : Nat) (v : Word) : State :=
  match fibreOf s n with
  | none => s
  | some _ =>
    let s := switchTo s n
    raise { s with fib := { s.fib with run := .eligible, heldFree := 0, heldDest := 0 } } c v

/-- Make eligible a parked fibre whose instruction is to issue again. -/
def reissue (s : State) (p : Wait → Bool) : State := wake s fun _ w => p w

end Sys2Proof.Machine
end

