-- ==== Sys2Proof/Machine/Tiles.lean ====
section
/-! DEFINITION. The tile tables: entries and their checks (R147-R150), where elements lie (R101, R143), and the elements
of a tile as codes. -/

namespace Sys2Proof.Machine

/-- STATE (R147). -/
def teState (e : BitVec 64) : Nat := nf e.toNat 62 2
/-- SWZ. -/
def teSwz (e : BitVec 64) : Nat := nf e.toNat 59 3
/-- FMT. -/
def teFmt (e : BitVec 64) : Nat := nf e.toNat 55 4
/-- The row pitch in bytes. -/
def tePitch (e : BitVec 64) : Nat := (nf e.toNat 42 13 + 1) * 8
/-- The columns. -/
def teCols (e : BitVec 64) : Nat := nf e.toNat 34 8 + 1
/-- The rows. -/
def teRows (e : BitVec 64) : Nat := nf e.toNat 26 8 + 1
/-- DEF. -/
def teDef (e : BitVec 64) : Bool := nb e.toNat 25
/-- BASE. -/
def teBase (e : BitVec 64) : Nat := nf e.toNat 0 20

/-- An entry with another STATE. -/
def withTeState (e : BitVec 64) (st : Nat) : BitVec 64 := BitVec.ofNat 64 (e.toNat % 2 ^ 62 + st % 4 * 2 ^ 62)

/-- A row of `c` elements of a format in bytes (R101). -/
def rowBytes (fmt c : Nat) : Nat := ceilDiv (c * fmtWidth fmt) 8

/-- The extent of a tile whose rows are `rb` bytes (R149). -/
def teExtent (e : BitVec 64) (rb : Nat) : Nat := (teRows e - 1) * tePitch e + rb

/-- The swizzled offset within a row of the byte at row offset `o` of row `i` (R143). -/
def swizzle (e : BitVec 64) (i o : Nat) : Nat :=
  if teSwz e = 0 then o
  else
    let n := 2 ^ teSwz e
    let w := o / 8
    8 * (w - w % n + ((w % n) ^^^ (i % n))) + o % 8

/-- The scratchpad offset of the byte at row offset `o` of row `i`, from the reservation's base (R143). -/
def tileByte (rbase : Nat) (e : BitVec 64) (i o : Nat) : Nat := rbase + teBase e + i * tePitch e + swizzle e i o

/-- A tile's place: the core, its gang's reservation base there, and the entry. -/
structure TileAt where
  core : Nat
  base : Nat
  ent : BitVec 64
  deriving DecidableEq, Repr

/-- Whether a fibre is the boot fibre below device monitor level: its core's scratchpad and tile entries are then out of its reach
(R236). -/
def bootBelow (f : Fibre) : Bool := f.ident.kind == .boot && f.pl != 2

/-- The cause of naming a tile that the fibre has not (R148), or that the boot fibre may not use (R236). -/
def noTile (f : Fibre) (t : Nat) : Nat := if bootBelow f && decide (t < 64) then cWINDOW else cTILEUNDEF

/-- The index in a core's tile table of tile `t` of a fibre's gang, with the reservation's base and length (R148); a
gangless fibre has all 64 (R236, R441). -/
def tileSlot (s : State) (f : Fibre) (core t : Nat) : Option (Nat × Nat × Nat) :=
  if gangless f then (if core = f.core ∧ t < 64 ∧ bootBelow f = false then some (t, 0, 2 ^ 20) else none)
  else match gangOfFibre s f with
    | none => none
    | some g =>
      match coreIndex g core with
      | none => none
      | some k => if t < g.tiles ∧ holdsCores g then some (g.tile.getD k 0 + t, g.spad.getD k 0, resLen g k) else none

/-- A tile table entry; an unlisted one is zero (R147). -/
def tileEnt (s : State) (core k : Nat) : BitVec 64 := tget 0 (coreOf s core).tiles k

/-- Write a tile table entry. -/
def setTileEnt (s : State) (core k : Nat) (e : BitVec 64) : State :=
  let c := coreOf s core
  setCore s core { c with tiles := if e = 0 then tdel c.tiles k else tset c.tiles k e }

/-- A named tile that is in the block and defined (R148). -/
def namedTile (s : State) (f : Fibre) (core t : Nat) : Option (Nat × TileAt) :=
  match tileSlot s f core t with
  | none => none
  | some (k, base, _) => if teDef (tileEnt s core k) then some (k, ⟨core, base, tileEnt s core k⟩) else none

/-- Change a tile's STATE, when its entry is defined. -/
def setTileState (s : State) (core k st : Nat) : State := setTileEnt s core k (withTeState (tileEnt s core k) st)

/-- R149's checks of a definition against a reservation of `len` bytes: the cause that fails. -/
def defineCheck (e : BitVec 64) (len : Nat) : Option Nat :=
  if teFmt e = 15 then some cFORMAT
  else if teSwz e = 7 then some cRESBITS
  else
    let rb := rowBytes (teFmt e) (teCols e)
    let ext := teExtent e rb
    if rb > tePitch e ∨ ext > 65536 ∨ teBase e + ext > len
      ∨ (teSwz e ≠ 0 ∧ tePitch e % (8 * 2 ^ teSwz e) ≠ 0) then some cTILESHAPE else none

/-- A scratchpad byte of a tile. -/
def tileRdByte (s : State) (a : TileAt) (i o : Nat) : Byte := mget s.ms.mem (spadPa s a.core (tileByte a.base a.ent i o))

/-- The bit string of a tile's row of `rb` bytes, as a number (R101). -/
def tileRow (s : State) (a : TileAt) (i rb : Nat) : Nat := leNat ((List.range rb).map fun o => tileRdByte s a i o)

/-- The code of element (i, j) of width `w` in a row's bit string (R101). -/
def rowElem (row w j : Nat) : Nat := nf row (w * j) w

/-- A tile's rows, as bit strings in a format. -/
def tileRows (s : State) (a : TileAt) (fmt : Nat) : List Nat :=
  (List.range (teRows a.ent)).map fun i => tileRow s a i (rowBytes fmt (teCols a.ent))

/-- Pack a row of codes of width `w`, element 0 lowest (R101). -/
def packRow (w : Nat) (es : List Nat) : Nat :=
  match es with
  | [] => 0
  | e :: r => e % 2 ^ w + 2 ^ w * packRow w r

/-- Write a row's bit string; a whole word written clears its poison mark (R422). -/
def tileWrRow (s : State) (a : TileAt) (i rb v : Nat) : State :=
  let s := { s with ms := { s.ms with mem := (List.range rb).foldl (fun m o =>
    mset m (spadPa s a.core (tileByte a.base a.ent i o)) (BitVec.ofNat 8 (v / 2 ^ (8 * o)))) s.ms.mem } }
  if s.ms.poison.isEmpty then s
  else { s with ms := { s.ms with poison := (List.range (rb / 8)).foldl (fun p w =>
    sDel p (spadPa s a.core (tileByte a.base a.ent i (8 * w)) / 8)) s.ms.poison } }

/-- Write a tile's rows of codes in a format of width `w`. -/
def tileWrRows (s : State) (a : TileAt) (w i : Nat) (rows : List (List Nat)) : State :=
  match rows with
  | [] => s
  | r :: t => tileWrRows (tileWrRow s a i (ceilDiv (r.length * w) 8) (packRow w r)) a w (i + 1) t

/-- Whether a scratchpad offset of a core lies in a tile's rows of `rb` bytes, by whole words (R175). -/
def tileCovers (rbase : Nat) (e : BitVec 64) (rb off : Nat) : Bool :=
  let p := off - (rbase + teBase e)
  let i := p / tePitch e
  decide (rbase + teBase e ≤ off) && decide (i < teRows e) && decide (swizzle e i (p % tePitch e) < ceilDiv rb 8 * 8)

/-- The gang-window address of a scratchpad byte of a fibre's gang on a core (R129, R422). -/
def windowVa (s : State) (f : Fibre) (core off : Nat) : Word :=
  if gangless f then BitVec.ofNat 64 (gangWindow + off)
  else match gangOfFibre s f with
    | none => BitVec.ofNat 64 gangWindow
    | some g =>
      match coreIndex g core with
      | none => BitVec.ofNat 64 gangWindow
      | some k => BitVec.ofNat 64 (gangWindow + k * 2 ^ 20 + (off - g.spad.getD k 0))

/-- The first poisoned element of a tile in row order, by the offset of its word (R422). -/
def tilePoison (s : State) (a : TileAt) (rb : Nat) : Option Nat :=
  if s.ms.poison.isEmpty then none
  else
    ((List.range (teRows a.ent)).flatMap fun i => (List.range (ceilDiv rb 8)).map fun w => tileByte a.base a.ent i (8 * w)).find?
      fun off => sHas s.ms.poison (spadPa s a.core off / 8)

end Sys2Proof.Machine
end

