-- ==== Sys2Proof/Machine/Access.lean ====
section
/-! DEFINITION. An access from its effective address on: its checks in R410's order, engine ownership (R175), the
migration it may cause (R47-R50), and its performing at issue or its wait (R154-R182). -/

namespace Sys2Proof.Machine

/-- Whether an access meets a run of an engine's destination, by the unit of R175. -/
def runOwns (r : Run) (pa n : Nat) : Bool :=
  if regionOf r.pa = 3 then decide (r.pa / 8 * 8 < pa + n) && decide (pa < ceilDiv (r.pa + r.n) 8 * 8)
  else decide (lineBase r.gr r.pa < pa + n) && decide (pa < lineBase r.gr (r.pa + r.n - 1) + grainBytes r.gr)

/-- Whether an access meets a tile that an engine owns. -/
def tileOwns (s : State) (core base : Nat) (ent : BitVec 64) (pa n : Nat) : Bool :=
  regionOf pa == 3 && !isRemote s pa && spadCore pa == core
    && (tileCovers base ent (rowBytes (teFmt ent) (teCols ent)) (pa % 2 ^ 20)
      || tileCovers base ent (rowBytes (teFmt ent) (teCols ent)) ((pa + n - 1) % 2 ^ 20))

/-- Whether a copy command owns bytes (R175, R349). -/
def copyOwns (s : State) (c : Copy) (pa n : Nat) : Bool :=
  match c.kind with
  | 0 => tileOwns s c.home c.base c.ent pa n
  | 2 => regionOf pa == 3 && spadCore pa == c.home && decide (c.base < pa % 2 ^ 20 + n)
      && decide (pa % 2 ^ 20 < c.base + c.len)
  | _ => c.runs.any fun r => runOwns r pa n

/-- Whether a receive owns bytes (R175, R364). -/
def recvOwns (s : State) (r : Recv) (pa n : Nat) : Bool :=
  match r.tile with
  | some _ => tileOwns s r.core r.tbase r.ent pa n
  | none => r.runs.any fun x => runOwns x pa n

/-- Engine ownership by the commands whose numbers satisfy a test (R175): whether one has taken a unit that an access
touches and has not written it. -/
def ownedIf (p : Nat → Bool) (s : State) (pa n : Nat) : Bool :=
  decide (pa < 2 ^ 56)
    && (s.cores.any (fun c => c.2.fifo.any (fun x => p x.id && copyOwns s x pa n)
          || c.2.kicks.any fun k => p k.id && k.started && k.runs.any fun r => runOwns r pa n)
      || s.recvs.any (fun e => e.2.posted.any (fun r => p r.id && recvOwns s r pa n)
          || e.2.pulls.any fun q => p q.recv.id && recvOwns s q.recv pa n)
      || s.idxCmds.any fun c => p c.id && c.op == 0 && tileOwns s c.core c.base c.ent pa n)

/-- Engine ownership by any command (R175). -/
def owned (s : State) (pa n : Nat) : Bool := ownedIf (fun _ => true) s pa n

/-- Ask the die for a page walk; 0 while 32 run (R131). -/
def askWalk (s : State) (space : Nat) (va : Word) : Nat × State :=
  let d := dieOf s.fib.core
  match s.ms.walks.find? fun w => w.die == d && w.space == space && w.va.toNat / 65536 == va.toNat / 65536 with
  | some w =>
    (w.id, { s with ms := { s.ms with
      walks := modWhere (fun x => x.id == w.id) (fun x => { x with who := x.who ++ [s.fib.id] }) s.ms.walks } })
  | none =>
    if 32 ≤ (s.ms.walks.filter fun w => w.die == d).length then (0, s)
    else
      let (n, s) := freshId s
      (n, { s with ms := { s.ms with walks := s.ms.walks ++ [⟨n, d, space, va, [s.fib.id]⟩] } })

/-- Translation for an agent of a tenant at a level on a core, outside the placement region (R128, R369). -/
def translateAgent (s : State) (core : Nat) (ten : BitVec 4) (pl : BitVec 2) (k : AccKind) (va : Nat) : Trans :=
  if inSwitchWindow va then
    match allocAt s ten (va % 2 ^ 30) with
    | none => .bad cXNP
    | some a => if k = .fetch then .bad cXPROT
      else .ok ⟨switchPa s 0 (va % 2 ^ 30), a.cp, a.gr, 1, false, 0, 0, 0⟩
  else if inPlacement va then .bad cXNP
  else translateIn s core ten pl k va

/-- Translation for a fibre with the placement region, the switch window and the tables (R125-R131, R369). -/
def translateFibre (s : State) (f : Fibre) (k : AccKind) (va : Nat) : Trans :=
  if inPlacement va then translate s f k va else translateAgent s f.core f.ident.tenant f.pl k va

/-- Whether a translation must wait for a page walk: the issuing fibre's work is left to events, its TLBs do not hold
the page, and no answer to it has come (R131). -/
def mustWalk (s : State) (va : Nat) : Bool :=
  s.sched.defer && !s.fib.walked && !inPlacement va && !inSwitchWindow va
    && (tlbFind s s.fib.core (spaceOf s.fib.ident.tenant s.fib.pl) va).isNone

/-- The wait of a fibre whose ring is not placed (R59), or for a word of the placement region of which its home, another module, is asked
(R51, R129). -/
def askHome (s : State) (va : Word) : Wait × State :=
  match s.fib.ident.guest with
  | some (m, n) => (.home va, tellHome s s.fib m n 7 va)
  | none => (.home va, s)

/-- An access by the current fibre: R410's checks in their order, `own` giving the instruction's own, then what `go`
does with the translated address. `mig` says that the access is a load, store or atomic, which may migrate the fibre (R47). -/
def accessIf (mig : Bool) (s : State) (k : AccKind) (n : Nat) (ea : Word) (own : Acc → Option Nat) (go : State → Acc → Eff) : Eff :=
  if !aligned ea n then .trap cALIGN ea
  else if mustWalk s ea.toNat then
    let r := askWalk s (spaceOf s.fib.ident.tenant s.fib.pl) ea
    .park (.walk r.1) r.2
  else match translateFibre s s.fib k ea.toNat with
    | .bad c => .trap c ea
    | .ring => .park (.ring ea) s
    | .miss => let w := askHome s ea; .park w.1 w.2
    | .ok a =>
      match own a with
      | some c => .trap c ea
      | none =>
        if outOfReach s s.fib a.pa then .trap cWINDOW ea
        else if attrRefused s a then .trap cXPROT ea
        else
          let s := noteTlb s s.fib.core (spaceOf s.fib.ident.tenant s.fib.pl) a
          let far := a.mig && a.loc == 2 && (isRemote s a.pa || spadCore a.pa != s.fib.core)
          if mig && far && mayMigrate s s.fib then .leave a.pa s else go s a

/-- A load, store or atomic by the current fibre. -/
def access (s : State) (k : AccKind) (n : Nat) (ea : Word) (own : Acc → Option Nat) (go : State → Acc → Eff) : Eff :=
  accessIf true s k n ea own go

/-- A full/empty operation, WAITA or NOTIFY, which does not migrate the fibre (R47). -/
def accessStay (s : State) (k : AccKind) (n : Nat) (ea : Word) (own : Acc → Option Nat) (go : State → Acc → Eff) : Eff :=
  accessIf false s k n ea own go

/-- No check of the instruction's own. -/
def noOwn (_ : Acc) : Option Nat := none

/-- XPROT for host and device-register addresses (R292, R295, R299). -/
def notTarget (a : Acc) : Option Nat := if a.loc = 3 then some cXPROT else none

/-- XPROT for a page whose LOC is not scratchpad window (R146). -/
def onlySpad (a : Acc) : Option Nat := if a.loc ≠ 2 then some cXPROT else none

/-- The outcome of an address's checks alone. -/
inductive Chk where
  | ok (a : Acc)
  | bad (c : Nat) (v : Word)
  | wait (w : Wait) (s : State)
  deriving DecidableEq, Repr

/-- The checks of an address of `n` bytes by the current fibre, without an access. -/
def checkAt (s : State) (k : AccKind) (n : Nat) (va : Word) (own : Acc → Option Nat) : Chk :=
  if !aligned va n then .bad cALIGN va
  else match translateFibre s s.fib k va.toNat with
    | .bad c => .bad c va
    | .ring => .wait (.ring va) s
    | .miss => let w := askHome s va; .wait w.1 w.2
    | .ok a =>
      match own a with
      | some c => .bad c va
      | none => if outOfReach s s.fib a.pa then .bad cWINDOW va else .ok a

/-- The check of an 8-byte scratchpad store that engines make of their completion words (R146). -/
def checkWord (s : State) (va : Word) : Chk := checkAt s .store 8 va onlySpad

/-- A request of the current fibre at an address. -/
def mkReq (s : State) (kind : ReqKind) (op n : Nat) (a : Acc) (va : Word) : Req :=
  { blankReq s s.fib.core s.fib.ident.tenant kind op n a.pa va with
    fib := s.fib.id
    cp := a.cp
    gr := a.gr
    mon := s.fib.pl == 2
    moves := s.fib.moves }

/-- A request with its ordering suffixes, whose scopes are read at issue (R158). -/
def withOrder (s : State) (r : Req) (acq rel : Option (BitVec 4)) (sc : Bool) : Req :=
  let lv := fun (o : Option (BitVec 4)) => match o with
    | some x => scopeLevel s r.ten r.core x
    | none => 0
  { r with
    acq := acq
    rel := rel
    sc := sc
    acqLv := lv acq
    relLv := lv rel }

/-- Put a request into the queue of those not yet performed; a remote one leaves at once when its earlier ones allow. -/
def queueReq (s : State) (r : Req) (lease : Bool) : State :=
  let s := { s with sched := { s.sched with nextId := s.sched.nextId + 1 } }
  if isRemote s r.pa && mayPerform s r then
    let s := relEffect s r
    sendReq { s with ms := { s.ms with reqs := s.ms.reqs ++ [{ r with sent := true }] } } r lease
  else { s with ms := { s.ms with reqs := s.ms.reqs ++ [r] } }

/-- Whether a request is performed at issue: nothing of the fibre's earlier accesses stands before it, and its work is
not left to events. -/
def atIssue (s : State) (r : Req) : Bool := !s.sched.defer && mayPerform s r && !isRemote s r.pa

/-- A request for a word of another module that the current fibre's instruction needs at issue (R343). -/
def askFar (s : State) (pa : Nat) (va : Word) : State :=
  let r := blankReq s s.fib.core s.fib.ident.tenant .load 0 8 pa va
  let s := sendReq { s with sched := { s.sched with nextId := s.sched.nextId + 1 } } { r with mon := s.fib.pl == 2 } false
  { s with fib := { s.fib with words := s.fib.words ++ [⟨.fibre s.fib.id, pa, 0, r.id, false, 0, 0, false⟩] } }

/-- A word of another module at an instruction's issue (R343): it is asked for, and the instruction issues again once the word is here; a
failure is its trap. -/
def fetchFar (s : State) (pa : Nat) (va : Word) (go : State → Word → Eff) : Eff :=
  match s.fib.words.find? fun w => w.pa == pa && w.op == 0 with
  | some w =>
    if !w.here then .park .fetch s
    else if w.cause ≠ 0 then .report w.cause va
    else go s w.val
  | none =>
    match unreachable s (paMod pa) with
    | some c => .trap c va
    | none => .park .fetch (askFar s pa va)

/-- The value of one plain load performed at once on this module, or the cause that takes its place (R343); memory of the host reads as a
free value. -/
def loadNow (s : State) (a : Acc) (va : Word) : Except Nat (Word × State) :=
  match performHere s (mkReq s .load 0 8 a va) with
    | .done t v => .ok (v, t)
    | .fail _ c => .error c
    | _ => .error cLOST

/-- A block that an instruction reads at issue (R343): `n` plain 8-byte loads in increasing address, each checked as a load;
a failure found by one is the instruction's trap. `acc` gathers the words read. -/
def readBlock (n : Nat) (s : State) (va : Word) (acc : List Word) (go : State → List Word → Eff) : Eff :=
  match n with
  | 0 => go s acc
  | k + 1 => access s .load 8 va noOwn fun s a =>
    if owned s a.pa 8 then .park (.owned [(a.pa, 8)]) s
    else if !mayPerform s (mkReq s .load 0 8 a va) then .park .accesses s
    else if isRemote s a.pa then fetchFar s a.pa va fun s v => readBlock k s (va + 8) (acc ++ [v]) go
    else match loadNow s a va with
      | .error c => .trap c va
      | .ok r => readBlock k r.2 (va + 8) (acc ++ [r.1]) go

/-- A lease that covers a load and that the core may still use (R170, R171). -/
def usableLease (s : State) (r : Req) : Option Leased :=
  s.ms.leases.find? fun l => dieOf l.core == dieOf r.core && l.line == lineBase r.gr r.pa
    && decide (clockOf s r.core ≤ l.le)

/-- Whether a load may take or use a lease (R138, R170, R172). -/
def mayLease (r : Req) : Bool :=
  r.kind == .load && (r.pol == 0 || r.pol == 2) && (r.cp == 0 || r.cp == 1) && !r.sc && r.acq != some 5 && r.acq != some 6
    && regionOf r.pa != 3

/-- A store or atomic to another module ends its core's own leased copy of the line (R171). -/
def dropLease (s : State) (r : Req) : State :=
  if isRemote s r.pa ∧ r.kind ≠ .load then
    { s with ms := { s.ms with leases := s.ms.leases.filter fun l => !(l.core == r.core && l.line == lineBase r.gr r.pa) } }
  else s

/-- A load or atomic with a register result (R42, R291, R295, R399). -/
def doLoad (s : State) (r : Req) (d : Reg) : State :=
  let fail := if isRemote s r.pa then unreachable s (paMod r.pa) else none
  match fail with
  | some c => setFailed s d c r.va
  | none =>
    match if isRemote s r.pa && mayLease r && mayPerform s r then usableLease s r else none with
    | some l =>
      if l.bad.any fun k => meets r.pa r.n (l.line + 8 * k) 8 then setFailed s d cPOISON r.va
      else setLong (acqEffect s r) d (wordN r.n (leNat ((l.bytes.drop (r.pa - l.line)).take r.n))) 0
    | none =>
      let s := dropLease s r
      if atIssue s r then
        match performHere s r with
        | .done s v => setLong s d v 0
        | .fail s c => setFailed s d c r.va
        | _ => s
      else
        let r := { r with pend := if d = 0 then none else some r.id }
        setAwait (queueReq s r (mayLease r)) r.id d

/-- A store (R291, R399): it has no register result. -/
def doStore (s : State) (r : Req) : State :=
  match if isRemote s r.pa then unreachable s (paMod r.pa) else none with
  | some c => setFailed s 0 c r.va
  | none =>
    let s := dropLease s r
    if atIssue s r then
      match performHere s r with
      | .done s _ => s
      | .fail s c => setFailed s 0 c r.va
      | _ => s
    else queueReq s r false

/-- An access that may wait at its home (R145, R293, R299): `d` its result register when `res` is set. -/
def doWait (s : State) (r : Req) (d : Reg) (res : Bool) : Eff :=
  match if isRemote s r.pa then unreachable s (paMod r.pa) else none with
  | some c => .done (setFailed s (if res then d else 0) c r.va)
  | none =>
    if atIssue s r then
      match performHere s r with
      | .done s v => .done (if res then setLong s d v 0 else s)
      | .fail s c => .done (setFailed s (if res then d else 0) c r.va)
      | .wait s => .hold (.req r.id) (queueReq s { r with arrived := true, place := r.id } false)
      | .refused => .hold (.req r.id) (queueReq s { r with refused := true } false)
    else .hold (.req r.id) (queueReq s r false)

/-- Whether a request must still wait: a release for the fibre's earlier accesses (R162, R171), an .sc operation for the earlier one's
timestamp (R168); a failure found meanwhile is then raised at it (R399). -/
def mustFollow (t : State) (r : Req) : Bool :=
  (r.rel.isSome && !allPerformed t t.fib.id) || (r.sc && t.ms.reqs.any fun q => q.fib == t.fib.id && q.sc)

/-- An access whose checks have passed: it waits for units that an engine owns (R175), where it must for the fibre's earlier accesses, and
is then performed or queued. `k` is 0 for a load or atomic, 1 for a store, 2 for a wait with a result, 3 for one without. -/
def accessEff (t : State) (k : Nat) (r : Req) (d : Reg) : Eff :=
  let r := { r with id := t.sched.nextId }
  if owned t r.pa r.n then .later (.owned [(r.pa, r.n)]) (.access k r d) t
  else if mustFollow t r then .later .accesses (.access k r d) t
  else match k with
    | 0 => .done (doLoad t r d)
    | 1 => .done (doStore t r)
    | 2 => doWait t r d true
    | _ => doWait t r d false

end Sys2Proof.Machine
end

