-- ==== Sys2Proof/Machine/Atomics.lean ====
section
/-! DEFINITION. Atomics, FENCE, WAITA and NOTIFY: majors 0x40-0x4A (R295-R300, R302). -/

namespace Sys2Proof.Machine

/-- What PLACE, ORD and SCOPE ask of an atomic (R297, R169): PLACE 2 at the home; the predictor of PLACE 0 chooses as PLACE 1 does (DESIGN
CHOICE, log entry 60). -/
def atomicOrd (s : State) (r : Req) (place ord : BitVec 2) (scope : BitVec 4) : Req :=
  if place = 3 then withOrder s r (some 6) (some 6) true
  else withOrder s { r with pol := if place = 2 then 3 else 0 } (if ord.getLsbD 0 then some scope else none)
    (if ord.getLsbD 1 then some scope else none) false

/-- The size of an atomic (R295). -/
def atomicSize (sz : Bool) : Nat := if sz then 8 else 4

/-- An atomic (R295-R297): `op` counts from major 0x40, with ADECP 7 and AINCB 8; `reads` holds ga, then gb and gd where
the instruction reads them, and `kb`, `ke` are their places. -/
def atomic (i : Instr) (op : Nat) (uns sz : Bool) (y : Bool) (gd : Reg) (reads : List (Reg × Bool)) (kb ke : Nat)
    (place ord : BitVec 2) (scope : BitVec 4) (s : State) : Out :=
  issue s { plainUse i y reads gd with fail := place == 3 || ord != 0 } fun t v =>
    access t .atomic (atomicSize sz) (arg v 0) notTarget fun t a =>
      let r := atomicOrd t { mkReq t .atomic op (atomicSize sz) a (arg v 0) with
        uns := uns
        data := arg v kb
        expect := arg v ke } place ord scope
      accessEff t 0 r gd

/-- AADD (R296). -/
def execAadd (y : Bool) (gd : BitVec 4) (ga : BitVec 4) (la : Bool) (gb : BitVec 4) (lb : Bool) (place : BitVec 2) (ord : BitVec 2) (scope : BitVec 4) (sz : Bool)
    (s : State) : Out :=
  atomic (.aadd y gd ga la gb lb place ord scope sz) 0 false sz y gd [(ga, la), (gb, lb)] 1 9 place ord scope s

/-- AMIN (R296). -/
def execAmin (y : Bool) (gd : BitVec 4) (ga : BitVec 4) (la : Bool) (gb : BitVec 4) (lb : Bool) (place : BitVec 2) (ord : BitVec 2) (scope : BitVec 4) (uns : Bool) (sz : Bool)
    (s : State) : Out :=
  atomic (.amin y gd ga la gb lb place ord scope uns sz) 1 uns sz y gd [(ga, la), (gb, lb)] 1 9 place ord scope s

/-- AMAX (R296). -/
def execAmax (y : Bool) (gd : BitVec 4) (ga : BitVec 4) (la : Bool) (gb : BitVec 4) (lb : Bool) (place : BitVec 2) (ord : BitVec 2) (scope : BitVec 4) (uns : Bool) (sz : Bool)
    (s : State) : Out :=
  atomic (.amax y gd ga la gb lb place ord scope uns sz) 2 uns sz y gd [(ga, la), (gb, lb)] 1 9 place ord scope s

/-- AAND (R296). -/
def execAand (y : Bool) (gd : BitVec 4) (ga : BitVec 4) (la : Bool) (gb : BitVec 4) (lb : Bool) (place : BitVec 2) (ord : BitVec 2) (scope : BitVec 4) (sz : Bool)
    (s : State) : Out :=
  atomic (.aand y gd ga la gb lb place ord scope sz) 3 false sz y gd [(ga, la), (gb, lb)] 1 9 place ord scope s

/-- AOR (R296). -/
def execAor (y : Bool) (gd : BitVec 4) (ga : BitVec 4) (la : Bool) (gb : BitVec 4) (lb : Bool) (place : BitVec 2) (ord : BitVec 2) (scope : BitVec 4) (sz : Bool)
    (s : State) : Out :=
  atomic (.aor y gd ga la gb lb place ord scope sz) 4 false sz y gd [(ga, la), (gb, lb)] 1 9 place ord scope s

/-- AXCH (R296). -/
def execAxch (y : Bool) (gd : BitVec 4) (ga : BitVec 4) (la : Bool) (gb : BitVec 4) (lb : Bool) (place : BitVec 2) (ord : BitVec 2) (scope : BitVec 4) (sz : Bool)
    (s : State) : Out :=
  atomic (.axch y gd ga la gb lb place ord scope sz) 5 false sz y gd [(ga, la), (gb, lb)] 1 9 place ord scope s

/-- ACAS (R296). -/
def execAcas (y : Bool) (gd : BitVec 4) (ga : BitVec 4) (la : Bool) (gb : BitVec 4) (lb : Bool) (place : BitVec 2) (ord : BitVec 2) (scope : BitVec 4) (sz : Bool)
    (s : State) : Out :=
  atomic (.acas y gd ga la gb lb place ord scope sz) 6 false sz y gd [(ga, la), (gb, lb), (gd, false)] 1 2 place ord scope s

/-- ADECP (R296). -/
def execAdecp (y : Bool) (gd : BitVec 4) (ga : BitVec 4) (la : Bool) (place : BitVec 2) (ord : BitVec 2) (scope : BitVec 4) (sz : Bool)
    (s : State) : Out :=
  atomic (.adecp y gd ga la place ord scope sz) 7 false sz y gd [(ga, la)] 9 9 place ord scope s

/-- AINCB (R296). -/
def execAincb (y : Bool) (gd : BitVec 4) (ga : BitVec 4) (la : Bool) (gb : BitVec 4) (lb : Bool) (place : BitVec 2) (ord : BitVec 2) (scope : BitVec 4) (sz : Bool)
    (s : State) : Out :=
  atomic (.aincb y gd ga la gb lb place ord scope sz) 8 false sz y gd [(ga, la), (gb, lb)] 1 9 place ord scope s

/-- FENCE's work (R164, R302): every earlier access performed, then a release and an acquire at the scope. -/
def fenceEff (t : State) (scope : BitVec 4) : Eff :=
  if !allPerformed t t.fib.id then .later .accesses (.fence scope) t
  else
    let t := releaseAt t t.fib.ident.tenant t.fib.core scope
    .done (acquireAt t t.fib.ident.tenant t.fib.core scope)

/-- FENCE (R164, R302). -/
def execFence (y : Bool) (scope : BitVec 4) (s : State) : Out :=
  issue s { plainUse (.fence y scope) y [] 0 with fail := true } fun t _ => fenceEff t scope

/-- WAITA (R299): compares at the home and waits while the word still holds the expected value. -/
def execWaita (y : Bool) (gd ga : BitVec 4) (la : Bool) (gb : BitVec 4) (lb word4 : Bool) (s : State) : Out :=
  let i := Instr.waita y gd ga la gb lb word4
  issue s ⟨i, y, false, 0, noHandler i, [(ga, la), (gb, lb)], gd, true⟩ fun t v =>
    let n := if word4 then 4 else 8
    accessStay t .load n (arg v 0) notTarget fun t a =>
      let full := b1 (isRemote t a.pa && monitorsFull t t.fib.core)
      accessEff t 2 (withOrder t { mkReq t .waita full n a (arg v 0) with expect := arg v 1 } (some (waitScope t t.fib.core a.pa)) none
        false) gd

/-- The waiters that a NOTIFY wakes: those of the tenant on the location, the earliest armed or all (R300). -/
def wokenBy (s : State) (ten : BitVec 4) (pa : Nat) (all : Bool) : List Watch :=
  let ws := s.watches.filter fun w => w.ten == ten && w.pa == pa
  if all then ws else ws.take 1

/-- A waiting WAITA completes with a status; its monitor and watch entries are freed (R299);
one of another module is answered. -/
def wakeWatch (s : State) (w : Watch) (status : Word) : State :=
  let s := { s with watches := s.watches.filter fun x => x.req != w.req }
  let s := dropReq s w.req
  let s := if status = 0 then acquireAt s w.ten w.core (waitScope s w.core w.pa) else s
  match w.rem with
  | some p => answer s p 3 0 (leBytes 8 status.toNat ++ leBytes 8 0 ++ leBytes 8 0) []
  | none => complete s w.fib (some status)

/-- NOTIFY's step at the home (R300): the number woken. -/
def notifyAt (s : State) (ten : BitVec 4) (pa : Nat) (all : Bool) : State × Nat :=
  let ws := wokenBy s ten pa all
  (ws.foldl (fun s w => wakeWatch s w 0) s, ws.length)

/-- NOTIFY after its checks (R300): a release at Sw, then its step at the home; `r.uns` is its .all. -/
def notifyEff (t : State) (r : Req) (d : Reg) : Eff :=
  if !allPerformed t t.fib.id then .later .accesses (.notify r d) t
  else
    let t := releaseAt t t.fib.ident.tenant t.fib.core (waitScope t t.fib.core r.pa)
    if isRemote t r.pa then .done (doLoad t (withOrder t { r with id := t.sched.nextId } none (some 5) false) d)
    else if homeLost t r.pa then .done (setFailed t d cLOST r.va)
    else
      let n := notifyAt (exchange t t.fib.core (homeUnit t r.pa)) t.fib.ident.tenant r.pa r.uns
      .done (setLong n.1 d (BitVec.ofNat 64 n.2) 0)

/-- NOTIFY (R300). -/
def execNotify (y : Bool) (gd ga : BitVec 4) (la all : Bool) (s : State) : Out :=
  issue s { plainUse (.notify y gd ga la all) y [(ga, la)] gd with fail := true } fun t v =>
    let ea := arg v 0
    if !aligned ea 4 then .trap cALIGN ea
    else accessStay t .atomic (if aligned ea 8 then 8 else 4) ea notTarget fun t a =>
      notifyEff t { mkReq t .notify (b1 all) 4 a ea with uns := all } gd

end Sys2Proof.Machine
end

