-- ==== Sys2Proof/Machine/Elements.lean ====
section
/-! DEFINITION. Tile operands as numbers: the pending prefix (R35, R116-R118), block scales (R109-R111), codebook weights
(R113, R114), the reading of operands (R112), compute formats (R119), results, and reductions (R123, R124). -/

namespace Sys2Proof.Machine

/-- The formats and modes in force for one instruction (R118). -/
structure Fmts where
  fa : Nat
  fb : Nat
  fd : Nat
  smode : Nat
  stile : Nat
  fz : Bool
  sat : Bool
  deriving DecidableEq, Repr

/-- The fields of a prefix (R35). -/
def pfxFmts (p : BitVec 64) : Fmts :=
  let v := p.toNat
  ⟨nf v 20 4, nf v 16 4, nf v 12 4, nf v 10 2, nf v 4 6, nb v 3, nb v 2⟩

/-- The prefix that the next consumer finds (R117). -/
def pendingPfx (f : Fibre) : Option (BitVec 64) := if f.pfx then some f.fpfx else none

/-- The block length of a scale mode in elements (R109). -/
def scaleBlock (sm : Nat) : Nat := if sm = 1 then 32 else if sm = 2 then 128 else 16

/-- Formats that are read unscaled in every mode (R109). -/
def wideFmt (c : Nat) : Bool := c == 0 || c == 1 || c == 2 || c == 12 || c == 13 || c == 14

/-- Whether a mode scales a format (R109). -/
def isScaled (sm c : Nat) : Bool :=
  match sm with
  | 1 => decide (3 ≤ c ∧ c ≤ 10)
  | 2 => c == 11
  | 3 => c == 7 || c == 10
  | _ => false

/-- Whether a mode refuses a format (R109). -/
def refusesFmt (sm c : Nat) : Bool := sm != 0 && !wideFmt c && !isScaled sm c

/-- Open formats (R315). -/
def openFmt (c : Nat) : Bool := decide (c ≤ 14) && c != 11

/-- A codebook row's reset contents: entry i of row p is 2 × p[i] (R114). -/
def bookReset (p : Nat) : Nat :=
  (List.range 8).foldl (fun a i => a + 2 * nf p i 1 * 2 ^ (4 * i)) 0

/-- A codebook row (R114). -/
def bookRow (b : Tbl (BitVec 32)) (p : Nat) : Nat :=
  match b.find? fun x => x.1 == p with
  | some (_, v) => v.toNat
  | none => bookReset p

/-- The exact value of weight `j` of a codeword, unscaled (R113). -/
def lc2Weight (b : Tbl (BitVec 32)) (w j : Nat) : Ex :=
  let signs := nf w 8 7
  let par := ((List.range 7).filter fun i => nb signs i).length % 2 == 1
  let neg := if j = 7 then par else nb signs j
  .fin neg (nf (bookRow b (w % 256)) (4 * j) 4 + nf w 15 1) (-1) false

/-- The exact value of a scale byte, NaN for a NaN block (R111). -/
def scaleVal (sm k : Nat) : Ex :=
  if sm = 3 then decFmt 3 k
  else if k = 255 then .nan else .fin false 1 ((k : Int) - 127) false

/-- An operand: its tile, the format it is read in, its scale tile, the scale mode, and the codebook of its core. -/
structure Opnd where
  tile : TileAt
  fmt : Nat
  scale : Option TileAt
  smode : Nat
  book : Tbl (BitVec 32)
  deriving DecidableEq, Repr

/-- A tile's bytes in row-major order, as codes of an 8-bit format. -/
def tileBytes (s : State) (a : TileAt) : List Nat :=
  (List.range (teRows a.ent)).flatMap fun i =>
    let row := tileRow s a i (teCols a.ent)
    (List.range (teCols a.ent)).map fun j => rowElem row 8 j

/-- The exact unscaled value of an element in its row's bit string. -/
def elemVal (o : Opnd) (row j : Nat) : Ex :=
  if o.fmt = 11 then lc2Weight o.book (nf row (16 * (j / 8)) 16) (j % 8)
  else decFmt o.fmt (rowElem row (fmtWidth o.fmt) j)

/-- The floating format of a compute format; none is exact integer arithmetic (R119). -/
def cfFloat (cf : Option Nat) : Option FloatFmt :=
  match cf with
  | some c => floatFmt c
  | none => none

/-- A value into the compute format, with R106's flush test first (R112, R119). -/
def intoCf (cf : Option Nat) (fz sat : Bool) (x : Ex) : Ex × BitVec 5 :=
  match cfFloat cf with
  | none => (x, flNone)
  | some p =>
    let a := flushEx p fz x
    let b := roundEx p sat a.1
    (b.1, a.2 ||| b.2)

/-- An operand element (R112). -/
def opElem (o : Opnd) (cf : Option Nat) (fz sat : Bool) (row j : Nat) (sc : Option Nat) : Ex × BitVec 5 :=
  let x := elemVal o row j
  match sc with
  | none => if x = .nan then (.nan, flNone) else intoCf cf fz sat x
  | some k =>
    let v := scaleVal o.smode k
    if x = .nan ∨ v = .nan then (.nan, flNone) else intoCf cf fz sat (exMul x v).1

/-- An operand's rows of values, and the flags of reading them (R112). -/
def opRows (s : State) (o : Opnd) (cf : Option Nat) (fz sat : Bool) : List (List (Ex × BitVec 5)) :=
  let c := teCols o.tile.ent
  let scales := match o.scale with
    | some t => some (tileBytes s t)
    | none => none
  (List.range (teRows o.tile.ent)).map fun i =>
    let row := tileRow s o.tile i (rowBytes o.fmt c)
    (List.range c).map fun j =>
      opElem o cf fz sat row j (scales.map fun b => b.getD ((i * c + j) / scaleBlock o.smode) 0)

/-- The flags of a list of results. -/
def flagsOf {α : Type} (l : List (α × BitVec 5)) : BitVec 5 := l.foldl (fun a x => a ||| x.2) 0

/-- The flags of rows of results. -/
def rowFlags {α : Type} (l : List (List (α × BitVec 5))) : BitVec 5 := l.foldl (fun a r => a ||| flagsOf r) 0

/-- The values of rows. -/
def rowVals {α : Type} (l : List (List (α × BitVec 5))) : List (List α) := l.map fun r => r.map (·.1)

/-- Whether a format is an integer format (R94). -/
def isIntFmt (c : Nat) : Bool := (intFmt c).isSome

/-- The compute format (R119): none is exact integer arithmetic. -/
def computeFmt (fs : List Nat) (scaled : Bool) : Option Nat :=
  if fs.any fun c => c == 13 then some 13
  else if !scaled && fs.all isIntFmt then none
  else some 0

/-- An exact integer value. -/
def intOf (x : Ex) : Int :=
  match x with
  | .fin s m e _ => (roundInt s m e false).1
  | _ => 0

/-- Result(x) (R315): the code in FD, and its flags. -/
def resultOf (cf : Option Nat) (fd : Nat) (fz sat : Bool) (x : Ex) : Nat × BitVec 5 :=
  match cfFloat cf with
  | none =>
    match intFmt fd with
    | some (w, sg) => (intToInt w sg sat (intOf x), flNone)
    | none => encFmt fd sat x
  | some p =>
    let a := flushEx p fz x
    let b := encFmt fd sat a.1
    (b.1, a.2 ||| b.2)

/-- The combining step of a reduction or scan: 0 add, 1 min, 2 max (R123, R124). -/
def combineEx (op : Nat) (cf : Option Nat) (fz sat : Bool) (x y : Ex) : Ex × BitVec 5 :=
  match op with
  | 1 => (exMin x y, flNone)
  | 2 => (exMax x y, flNone)
  | _ =>
    let a := exAdd x y
    let b := intoCf cf fz sat a.1
    (b.1, a.2 ||| b.2)

/-- Combine with an empty lane (R123), flags gathered. -/
def combineOpt (c : Ex → Ex → Ex × BitVec 5) (x y : Option Ex × BitVec 5) : Option Ex × BitVec 5 :=
  match x.1, y.1 with
  | none, v => (v, x.2 ||| y.2)
  | some a, none => (some a, x.2 ||| y.2)
  | some a, some b =>
    let r := c a b
    (some r.1, x.2 ||| y.2 ||| r.2)

/-- Fold lanes by halves (R123). -/
def foldHalves (c : Ex → Ex → Ex × BitVec 5) (n : Nat) (v : List (Option Ex × BitVec 5)) : Option Ex × BitVec 5 :=
  match n with
  | 0 => v.headD (none, 0)
  | k + 1 => foldHalves c k (List.zipWith (combineOpt c) (v.take (2 ^ k)) (v.drop (2 ^ k)))

/-- The elements of a row that fall to a lane, in increasing order. -/
def laneElems (row : List Ex) (l : Nat) : List Ex :=
  (List.range ((row.length + 63 - l) / 64)).map fun c => row.getD (64 * c + l) .nan

/-- A row's reduction before its final rounding (R123). -/
def reduceRow (c : Ex → Ex → Ex × BitVec 5) (row : List Ex) : Option Ex × BitVec 5 :=
  foldHalves c 6 ((List.range 64).map fun l => (laneElems row l).foldl (fun a x => combineOpt c a (some x, 0)) (none, 0))

/-- A row's inclusive prefixes (R322). -/
def scanRow (c : Ex → Ex → Ex × BitVec 5) (acc : Option Ex × BitVec 5) (row : List Ex) : List (Option Ex × BitVec 5) :=
  match row with
  | [] => []
  | x :: r =>
    let a := combineOpt c (acc.1, 0) (some x, 0)
    a :: scanRow c a r

/-- Split a list into blocks of `n`. -/
def blocksOf {α : Type} (n fuel : Nat) (l : List α) : List (List α) :=
  match fuel with
  | 0 => []
  | k + 1 => if l.isEmpty then [] else l.take n :: blocksOf n k (l.drop n)

/-- Emax of R327. -/
def emaxOf (fd : Nat) : Int :=
  match fd with
  | 3 => 8
  | 4 => 15
  | 5 => 4
  | 6 => 2
  | 7 => 2
  | 8 => 6
  | 9 => 7
  | _ => 2

/-- The greatest magnitude of a list of values that are not NaN (R327). -/
def amaxOf (xs : List Ex) : Ex := xs.foldl (fun a x => exMax a (exAbs x)) exZero

/-- The scale byte of a block by mode 1 (R327). -/
def scaleMode1 (fd : Nat) (amax : Ex) : Nat :=
  match amax with
  | .fin _ m e _ =>
    if m = 0 then 127 else (min 254 (max 0 ((bitLen m : Int) - 1 + e - emaxOf fd + 127))).toNat
  | _ => 254

/-- The scale byte of a block by mode 3 (R327). -/
def scaleMode3 (fd : Nat) (amax : Ex) : Nat :=
  (encFmt 3 true (exDiv amax (exInt (if fd = 7 then 6 else 7))).1).1

/-- Quantise one block (R327): the scale byte, the codes and the flags. -/
def quantBlock (sm fd : Nat) (cf : Option Nat) (fz : Bool) (xs : List Ex) : Nat × List (Nat × BitVec 5) :=
  if xs.any fun x => x == .nan then (if sm = 1 then 0xFF else 0x7F, xs.map fun _ => (0, flNV))
  else
    let k := if sm = 1 then scaleMode1 fd (amaxOf xs) else scaleMode3 fd (amaxOf xs)
    let sc := scaleVal sm k
    (k, xs.map fun x => if exIsZero sc then (0, flNone) else resultOf cf fd fz true (exDiv x sc).1)

/-- The formats that a scaled destination may have (R327). -/
def quantFmt (sm fd : Nat) : Bool := (sm == 1 || sm == 3) && isScaled sm fd

/-- Write element (i, j) of a tile read in a format; padding after the last is zero (R101), and a whole word written
clears its poison mark (R422). -/
def tileWrElem (s : State) (a : TileAt) (fmt i j code : Nat) : State :=
  let w := fmtWidth fmt
  let lo := w * j / 8
  let n := (w * j + w - 1) / 8 + 1 - lo
  let sh := w * j % 8
  let old := leNat ((List.range n).map fun k => tileRdByte s a i (lo + k))
  let high := if j + 1 = teCols a.ent then 0 else old / 2 ^ (sh + w) * 2 ^ (sh + w)
  let v := old % 2 ^ sh + code % 2 ^ w * 2 ^ sh + high
  let s := { s with ms := { s.ms with mem := (List.range n).foldl (fun m k =>
    mset m (spadPa s a.core (tileByte a.base a.ent i (lo + k))) (BitVec.ofNat 8 (v / 2 ^ (8 * k)))) s.ms.mem } }
  if w = 64 ∧ s.ms.poison ≠ [] then
    { s with ms := { s.ms with poison := sDel s.ms.poison (spadPa s a.core (tileByte a.base a.ent i lo) / 8) } }
  else s

/-- Write a list of bytes into a UINT8 tile in row-major order from its first element. -/
def tileWrBytes (s : State) (a : TileAt) (n : Nat) (bs : List Nat) : State :=
  match bs with
  | [] => s
  | b :: r => tileWrBytes (tileWrElem s a 9 (n / teCols a.ent) (n % teCols a.ent) b) a (n + 1) r

end Sys2Proof.Machine
end

