-- ==== Sys2Proof/Machine/Transcend.lean ====
section
/-! DEFINITION. The transcendental functions of R320: values to 512 fraction bits, truncated, from which the part's own
value lies at most 2 units in the last place away (log entry 7). -/

namespace Sys2Proof.Machine

/-- Fraction bits of the fixed-point values. -/
def fxBits : Nat := 512

/-- One in fixed point. -/
def fxOne : Nat := 2 ^ fxBits

/-- The sum of z^(2i+1) / (2i+1) from a term on, all in fixed point, `z2` being z². -/
def atanhFrom (n i t z2 acc : Nat) : Nat :=
  match n with
  | 0 => acc
  | k + 1 => atanhFrom k (i + 1) (t * z2 / fxOne) z2 (acc + t / (2 * i + 1))

/-- atanh of a fixed-point z up to 1/3. -/
def fxAtanh (z : Nat) : Nat := atanhFrom 170 0 z (z * z / fxOne) 0

/-- ln 2 in fixed point. -/
def fxLn2 : Nat := 2 * fxAtanh (fxOne / 3)

/-- The Taylor sum of e^r from a term on, in fixed point. -/
def expFrom (n i t r acc : Nat) : Nat :=
  match n with
  | 0 => acc
  | k + 1 => expFrom k (i + 1) (t * r / fxOne / i) r (acc + t)

/-- e^r in fixed point for r below ln 2. -/
def fxExp (r : Nat) : Nat := expFrom 110 1 fxOne r 0

/-- A finite value in fixed point, rounded down. -/
def fxOf (neg : Bool) (m : Nat) (e : Int) : Int :=
  let q := e + fxBits
  let v : Nat := if 0 ≤ q then m * 2 ^ q.toNat else if neg then ceilDiv m (2 ^ (-q).toNat) else m / 2 ^ (-q).toNat
  if neg then -(v : Int) else v

/-- Whether a magnitude is at least 2^12, where every result has left the range of FP64. -/
def hugeMag (m : Nat) (e : Int) : Bool := decide ((12 : Int) < (bitLen m : Int) + e)

/-- A magnitude just above 0. -/
def tinyPos : Ex := .fin false 0 (-8192) true

/-- A magnitude just below 1. -/
def nearOne : Ex := .fin false (2 ^ 200 - 1) (-200) true

/-- e^x of a finite non-zero x, its magnitude rounded down. -/
def exExp (neg : Bool) (m : Nat) (e : Int) : Ex :=
  if hugeMag m e then (if neg then tinyPos else .fin false 1 8192 true)
  else
    let x := fxOf neg m e
    let k := x / (fxLn2 : Int)
    .fin false (fxExp (x - k * (fxLn2 : Int)).toNat) (k - fxBits) true

/-- ln x of a finite x above 0 that is not 1. -/
def exLog (m : Nat) (e : Int) : Ex :=
  let k : Int := (bitLen m : Int) - 1 + e
  let f := m * fxOne / 2 ^ (bitLen m - 1)
  let v : Int := k * (fxLn2 : Int) + ((2 * fxAtanh ((f - fxOne) * fxOne / (f + fxOne)) : Nat) : Int)
  .fin (decide (v < 0)) v.natAbs (-(fxBits : Int)) true

/-- tanh of a finite non-zero magnitude. -/
def exTanh (m : Nat) (e : Int) : Ex :=
  if (bitLen m : Int) + e < -100 then .fin false (m * 2 ^ 200 - 1) (e - 200) true
  else if hugeMag (2 * m) e then nearOne
  else
    let t := exExp true (2 * m) e
    match exDiv (exAdd (exInt 1) (exNeg t)).1 (exAdd (exInt 1) t).1 with
    | (.fin s q x _, _) => .fin s q x true
    | (x, _) => x

/-- 1 / (1 + e^-x) of a finite non-zero x. -/
def exSigm (neg : Bool) (m : Nat) (e : Int) : Ex :=
  if hugeMag m e then (if neg then tinyPos else nearOne)
  else
    let t := exExp true m e
    match exDiv (if neg then t else exInt 1) (exAdd (exInt 1) t).1 with
    | (.fin s q x _, _) => .fin s q x true
    | (x, _) => x

/-- The part's value in a compute format for an exact magnitude: truncated to the format, moved by the part's own
offset (R320), and whether the exact magnitude is tiny. -/
def placeUlp (p : FloatFmt) (off : Nat) (x : Ex) : Ex × Bool :=
  match x with
  | .fin s m e _ =>
    let ex : Int := (bitLen m : Int) - 1 + e
    let qmin : Int := 1 - (p.bias : Int) - p.mw
    let q : Int := if m = 0 then qmin else max (ex - p.mw) qmin
    let r := if q ≤ e then m * 2 ^ (e - q).toNat else m / 2 ^ (q - e).toNat
    (.fin s (r + off - 1) q false, m == 0 || decide (ex < 1 - (p.bias : Int)))
  | _ => (x, false)

/-- What an operand gives: a value fixed by R320's table or rounded once, or an exact magnitude to be approximated. -/
inductive TrVal where
  | fixed (x : Ex) (fl : BitVec 5)
  | approx (x : Ex)
  deriving DecidableEq, Repr

/-- Whether a finite value is 1. -/
def isOne (x : Ex) : Bool := exEq x (exInt 1)

/-- The functions of R320 by code 0x08-0x0E: VEXP, VLOG, VSQRT, VRSQRT, VRCP, VTANH, VSIGM. -/
def trVal (fn : Nat) (x : Ex) : TrVal :=
  match fn, x with
  | 10, _ => let r := exSqrt x; .fixed r.1 r.2
  | 12, _ => let r := exDiv (exInt 1) x; .fixed r.1 r.2
  | _, .nan => .fixed .nan flNone
  | 8, .inf s => .fixed (if s then exZero else .inf false) flNone
  | 8, .fin s m e _ => if m = 0 then .fixed (exInt 1) flNone else .approx (exExp s m e)
  | 9, .inf s => if s then .fixed .nan flNV else .fixed (.inf false) flNone
  | 9, .fin s m e k =>
    if m = 0 then .fixed (.inf true) flDZ
    else if s then .fixed .nan flNV
    else if isOne (.fin s m e k) then .fixed exZero flNone
    else .approx (exLog m e)
  | 11, .inf s => if s then .fixed .nan flNV else .fixed exZero flNone
  | 11, .fin s m e k =>
    if m = 0 then .fixed (.inf s) flDZ
    else if s then .fixed .nan flNV
    else if isOne (.fin s m e k) then .fixed (exInt 1) flNone
    else .approx (exDiv (exInt 1) (exSqrt x).1).1
  | 13, .inf s => .fixed (.fin s 1 0 false) flNone
  | 13, .fin s m e k =>
    if m = 0 then .fixed (.fin s m e k) flNone
    else match exTanh m e with
      | .fin _ a b c => .approx (.fin s a b c)
      | y => .approx y
  | _, .inf s => .fixed (if s then exZero else exInt 1) flNone
  | _, .fin s m e _ => if m = 0 then .fixed (.fin false 1 (-1) false) flNone else .approx (exSigm s m e)

/-- The code and flags that a transcendental writes (R320, R103, R106). -/
def trResult (fn cf : Nat) (fd : Nat) (fz sat : Bool) (x : Ex) : Nat × BitVec 5 :=
  match trVal fn x, floatFmt cf with
  | .fixed v fl, _ =>
    let r := resultOf (some cf) fd fz sat v
    (r.1, r.2 ||| fl)
  | .approx _, none => (0, flNone)
  | .approx v, some p =>
    let a := placeUlp p (Config.ulpOffset fn cf (roundFloat p false x).1).val v
    let b := roundEx p sat a.1
    let r := resultOf (some cf) fd fz sat b.1
    let nx := if exEq (decFmt fd r.1) v && !(match v with | .fin _ _ _ k => k | _ => false) then flNone else flNX
    let uf := if a.2 && nx != flNone then flUF else flNone
    let all := r.2 ||| b.2
    (r.1, if all &&& flNV ≠ 0 then all &&& ~~~flNX else if nx = flNone then all &&& ~~~(flNX ||| flUF) else all ||| nx ||| uf)

end Sys2Proof.Machine
end

