-- ==== Sys2Proof/Machine/Vector.lean ====
section
/-! DEFINITION. The vector unit's instructions: majors 0x60 and 0x61 but for TWAIT (R312-R315, R319-R330). -/

namespace Sys2Proof.Machine

/-- What a vector instruction does with its operands. `el` holds a function code of R319, `tr` one of R320, `red` and
`scan` a combining step of R123 and R124, `cmp` 0 equal, 1 less, 2 less or equal. -/
inductive VFn where
  | el (k : Nat)
  | tr (k : Nat)
  | red (op : Nat)
  | scan (op : Nat)
  | cmp (k : Nat)
  | sel
  | bcast
  | gather
  | scat
  | trans
  | cvt
  | qscale
  | cbk
  | barq (res : Bool)
  deriving DecidableEq, Repr

/-- A vector instruction's function and tiles. -/
structure VOp where
  fn : VFn
  td : Nat
  ta : Nat
  tb : Option Nat
  deriving DecidableEq, Repr

/-- A tile that an instruction names: its number, its index in the core's table, and its place. -/
structure TileRef where
  num : Nat
  idx : Nat
  tile : TileAt
  deriving DecidableEq, Repr

/-- The tiles and formats in force for a vector instruction, and its scale and residual tiles (R110, R327, R330). -/
structure VPlan where
  f : Fmts
  d : TileRef
  a : TileRef
  b : Option TileRef
  sa : Option TileRef
  sb : Option TileRef
  sd : Option TileRef
  res : Option TileRef
  deriving DecidableEq, Repr

/-- How tile numbers are looked up. -/
abbrev Look := Nat → Option (Nat × TileAt)

/-- A tile named by number, or TILEUNDEF with EVAL the number, or 64 beyond 63 (R312). -/
def nameTile (look : Look) (n : Nat) : Except (Nat × Word) TileRef :=
  if 63 < n then .error (cTILEUNDEF, 64)
  else match look n with
    | some (k, t) => .ok ⟨n, k, t⟩
    | none => .error (cTILEUNDEF, BitVec.ofNat 64 n)

/-- A tile named when there is one. -/
def nameOpt (look : Look) (n : Option Nat) : Except (Nat × Word) (Option TileRef) :=
  match n with
  | none => .ok none
  | some k =>
    match nameTile look k with
    | .ok t => .ok (some t)
    | .error e => .error e

/-- The formats in force: the tiles', or the prefix's in their place (R118). -/
def fmtsInForce (pfx : Option (BitVec 64)) (a : TileRef) (b : Option TileRef) (d : TileRef) : Fmts :=
  match pfx with
  | some p => pfxFmts p
  | none => ⟨teFmt a.tile.ent, match b with | some t => teFmt t.tile.ent | none => 0, teFmt d.tile.ent, 0, 0, false, false⟩

/-- The scale tile that the destination's scales go to (R327, R330). -/
def destScale (op : VOp) (f : Fmts) : Option Nat :=
  match op.fn with
  | .qscale => if f.smode = 1 ∨ f.smode = 3 then some f.stile else none
  | .barq _ => if f.smode = 1 ∨ f.smode = 3 then some (f.stile + 2) else none
  | _ => none

/-- The residual tile of BARQ.res (R330). -/
def residual (op : VOp) : Option Nat :=
  match op.fn with
  | .barq true => some (op.td + 1)
  | _ => none

/-- R312's step 2: every tile that the instruction names. -/
def vecNames (pfx : Option (BitVec 64)) (look : Look) (op : VOp) : Except (Nat × Word) VPlan := do
  let d ← nameTile look op.td
  let a ← nameTile look op.ta
  let b ← nameOpt look op.tb
  let f := fmtsInForce pfx a b d
  let sa ← nameOpt look (if isScaled f.smode f.fa then some f.stile else none)
  let sb ← nameOpt look (if op.tb.isSome && isScaled f.smode f.fb then some (f.stile + 1) else none)
  let sd ← nameOpt look (destScale op f)
  let res ← nameOpt look (residual op)
  return ⟨f, d, a, b, sa, sb, sd, res⟩

/-- The tiles of a plan. -/
def planTiles (p : VPlan) : List TileRef :=
  [p.d, p.a] ++ p.b.toList ++ p.sa.toList ++ p.sb.toList ++ p.sd.toList ++ p.res.toList

/-- The tiles that a plan writes. -/
def planWrites (p : VPlan) : List TileRef := [p.d] ++ p.sd.toList ++ p.res.toList

/-- The first of some checks that fails: each is whether it holds, its cause and its value. -/
def firstFail (l : List (Bool × Nat × Nat)) : Option (Nat × Word) :=
  (l.find? fun x => !x.1).map fun x => (x.2.1, BitVec.ofNat 64 x.2.2)

/-- Whether the destination's format is one the instruction takes (R315, R327, R330). -/
def destFmtOk (op : VOp) (f : Fmts) : Bool :=
  match op.fn with
  | .qscale => quantFmt f.smode f.fd
  | .barq _ => if f.smode = 0 then openFmt f.fd else quantFmt f.smode f.fd
  | _ => openFmt f.fd

/-- Whether operand A's format is one the instruction takes (R315). -/
def aFmtOk (op : VOp) (f : Fmts) : Bool :=
  match op.fn with
  | .cbk => f.fa == 11 && (f.smode == 0 || f.smode == 2)
  | .qscale => f.fa == 13 || f.fa == 0 || f.fa == 1 || f.fa == 2
  | _ => openFmt f.fa

/-- Whether operand B's format is one the instruction takes (R315). -/
def bFmtOk (op : VOp) (f : Fmts) : Bool :=
  match op.fn with
  | .gather => f.fb == 12
  | .scat => f.fb == 12
  | _ => openFmt f.fb

/-- The check of a scale tile's format (R110). -/
def scaleFmtCheck (t : Option TileRef) : List (Bool × Nat × Nat) :=
  match t with
  | some r => [(teFmt r.tile.ent == 9, cFORMAT, r.num)]
  | none => []

/-- Whether the destination's format is checked by the instruction's own entry, after the scale tiles (R413). -/
def destByEntry (op : VOp) : Bool :=
  match op.fn with
  | .qscale => true
  | .barq _ => true
  | _ => false

/-- R312's step 4: formats (R109, R315), in R413's order. -/
def vecFormats (op : VOp) (p : VPlan) : List (Bool × Nat × Nat) :=
  let f := p.f
  let dest := [(destFmtOk op f, cFORMAT, op.td)]
  [(aFmtOk op f && !refusesFmt f.smode f.fa, cFORMAT, op.ta)]
  ++ (match op.tb with
    | some t => [(bFmtOk op f && !refusesFmt f.smode f.fb, cFORMAT, t)]
    | none => [])
  ++ (if destByEntry op then [] else dest)
  ++ scaleFmtCheck p.sa ++ scaleFmtCheck p.sb ++ scaleFmtCheck p.sd
  ++ (if destByEntry op then dest else [])
  ++ (match p.res with
    | some r => let c := teFmt r.tile.ent; [(c == 13 || c == 0 || c == 1 || c == 2, cFORMAT, r.num)]
    | none => [])

/-- R101 and R118 for one tile read or written in a format. -/
def rowChecks (t : TileRef) (fmt : Nat) : List (Bool × Nat × Nat) :=
  let c := teCols t.tile.ent
  [(fmt != 11 || c % 8 == 0, cTILESHAPE, t.num), (decide (rowBytes fmt c ≤ tePitch t.tile.ent), cTILESHAPE, t.num)]

/-- R110's shape check of a scale tile for a tile of elements. -/
def scaleShape (sm : Nat) (t : TileRef) (sc : Option TileRef) : List (Bool × Nat × Nat) :=
  match sc with
  | none => []
  | some r =>
    let c := teCols t.tile.ent
    let b := scaleBlock sm
    [(c % b == 0 && decide (teRows t.tile.ent * c / b ≤ teRows r.tile.ent * teCols r.tile.ent), cTILESHAPE, r.num)]

/-- Whether two tiles have equal rows and columns. -/
def sameShape (x y : TileRef) : Bool :=
  teRows x.tile.ent == teRows y.tile.ent && teCols x.tile.ent == teCols y.tile.ent

/-- Whether operand B has another tile's shape; true without B. -/
def bShape (p : VPlan) (t : TileRef) : Bool :=
  match p.b with
  | some b => sameShape b t
  | none => true

/-- The shape an instruction's own entry asks for (R319-R330). -/
def entryShape (op : VOp) (p : VPlan) : List (Bool × Nat × Nat) :=
  let rows := fun (t : TileRef) => teRows t.tile.ent
  let cols := fun (t : TileRef) => teCols t.tile.ent
  match op.fn with
  | .red _ => [(rows p.d == rows p.a, cTILESHAPE, op.td)]
  | .bcast => [((rows p.a == 1 && cols p.a == 1) || (rows p.a == 1 && cols p.a == cols p.d), cTILESHAPE, op.ta)]
  | .trans => [(rows p.d == cols p.a && cols p.d == rows p.a, cTILESHAPE, op.td)]
  | .gather => [(bShape p p.d, cTILESHAPE, op.tb.getD 0)]
  | .scat => [(bShape p p.a, cTILESHAPE, op.tb.getD 0)]
  | _ => [(sameShape p.d p.a && bShape p p.d, cTILESHAPE, op.td)]

/-- R312's step 5: shapes, the scale tiles' first (R413). -/
def vecShapes (op : VOp) (p : VPlan) : List (Bool × Nat × Nat) :=
  scaleShape p.f.smode p.a p.sa
  ++ (match p.b with
    | some b => scaleShape p.f.smode b p.sb
    | none => [])
  ++ scaleShape p.f.smode p.d p.sd
  ++ rowChecks p.a p.f.fa
  ++ (match p.b with
    | some b => rowChecks b p.f.fb
    | none => [])
  ++ rowChecks p.d p.f.fd
  ++ entryShape op p
  ++ (match p.res with
    | some r => [(sameShape r p.d, cTILESHAPE, r.num)]
    | none => [])

/-- Whether a matrix command of the cluster that has not completed reads a tile (R340). -/
def matrixReads (s : State) (core idx : Nat) : Bool :=
  (arrayOf s (clusterOf core)).cmds.any fun c => c.reads.contains (core, idx)

/-- Whether a copy command that has not completed still reads one of a tile's bytes as its source (R352). -/
def copyReads (s : State) (core : Nat) (a : TileAt) (rb : Nat) : Bool :=
  s.cores.any fun c => c.2.fifo.any fun x =>
    (x.kind == 1 && x.home == core && decide (x.base + teBase x.ent < tileByte a.base a.ent (teRows a.ent) rb)
        && decide (a.base + teBase a.ent < x.base + teBase x.ent + teExtent x.ent (rowBytes (teFmt x.ent) (teCols x.ent))))
      || (x.kind == 3 && x.home == core && decide (x.base < tileByte a.base a.ent (teRows a.ent) rb)
        && decide (a.base + teBase a.ent < x.base + x.len))

/-- Whether an engine works that could own scratchpad words (R175). -/
def enginesBusy (s : State) : Bool :=
  s.cores.any (fun c => !c.2.fifo.isEmpty || !c.2.kicks.isEmpty)
    || s.recvs.any (fun r => !r.2.posted.isEmpty || !r.2.pulls.isEmpty) || !s.idxCmds.isEmpty

/-- The 8-byte words of a tile whose rows hold `rb` bytes, as runs. -/
def tileUnits (s : State) (a : TileAt) (rb : Nat) : List (Nat × Nat) :=
  (List.range (teRows a.ent)).flatMap fun i => (List.range (ceilDiv rb 8)).map fun w =>
    (spadPa s a.core (tileByte a.base a.ent i (8 * w)), 8)

/-- Whether an engine owns a word of a tile's rows (R175). -/
def tileOwned (s : State) (a : TileAt) (rb : Nat) : Bool := enginesBusy s && (tileUnits s a rb).any fun u => owned s u.1 u.2

/-- Whether earlier accesses of a fibre must be performed before its tile accesses (R160, R162, R314). -/
def mustPerform (s : State) (f : Fibre) : Bool :=
  s.ms.reqs.any fun q => q.fib == f.id && (regionOf q.pa == 3 || q.acq.isSome || q.sc)

/-- The bytes of a tile's row in the formats in force. -/
def rowLen (p : VPlan) (t : TileRef) : Nat :=
  let c := teCols t.tile.ent
  if t == p.d then rowBytes p.f.fd c else if t == p.a then rowBytes p.f.fa c
  else if p.b == some t then rowBytes p.f.fb c else rowBytes (teFmt t.tile.ent) c

/-- The tiles that an instruction reads (R422). -/
def vecReads (op : VOp) (p : VPlan) : List TileRef :=
  [p.a] ++ p.b.toList ++ (match op.fn with
    | .el 4 => [p.d]
    | .sel => [p.d]
    | _ => []) ++ p.sa.toList ++ p.sb.toList

/-- The first poisoned word that an instruction reads, as its offset and core (R422). -/
def vecPoison (s : State) (op : VOp) (p : VPlan) : Option Nat :=
  if s.ms.poison.isEmpty then none
  else (vecReads op p).findSome? fun t => tilePoison s t.tile (rowLen p t)

/-- The index tile's values in row-major order (R325). -/
def indexVals (s : State) (t : TileAt) : List Int :=
  (List.range (teRows t.ent)).flatMap fun i =>
    let row := tileRow s t i (rowBytes 12 (teCols t.ent))
    (List.range (teCols t.ent)).map fun j => decInt 32 true (rowElem row 32 j)

/-- The number of elements that an index may name (R325). -/
def indexBound (op : VOp) (p : VPlan) : Nat :=
  let t := match op.fn with
    | .scat => p.d
    | _ => p.a
  teRows t.tile.ent * teCols t.tile.ent

/-- The first index out of range (R325). -/
def badIndex (s : State) (op : VOp) (p : VPlan) : Option Int :=
  match op.fn, p.b with
  | .gather, some b => (indexVals s b.tile).find? fun k => decide (k < 0) || decide ((indexBound op p : Int) ≤ k)
  | .scat, some b => (indexVals s b.tile).find? fun k => decide (k < 0) || decide ((indexBound op p : Int) ≤ k)
  | _, _ => none

/-- The compute format of a vector instruction (R119, R320). -/
def vecCf (op : VOp) (p : VPlan) : Option Nat :=
  let fs := match op.fn, p.b with
    | .gather, _ => [p.f.fa, p.f.fd]
    | .scat, _ => [p.f.fa, p.f.fd]
    | _, some _ => [p.f.fa, p.f.fb, p.f.fd]
    | _, none => [p.f.fa, p.f.fd]
  match op.fn with
  | .tr _ => if p.f.fa = 13 ∨ p.f.fd = 13 then some 13 else some 0
  | _ => computeFmt fs (p.sa.isSome || p.sb.isSome || p.sd.isSome)

/-- The exact function of R319; `d` is the old destination element. -/
def elemFn (k : Nat) (x y d : Ex) : Ex × BitVec 5 :=
  match k with
  | 0 => exAdd x y
  | 1 => exAdd x (exNeg y)
  | 2 => exMul x y
  | 3 => exDiv x y
  | 4 =>
    let m := exMul x y
    let r := exAdd d m.1
    (r.1, if d = .nan then flNone else m.2 ||| r.2)
  | 5 => (exMin x y, flNone)
  | 6 => (exMax x y, flNone)
  | _ => (exAbs x, flNone)

/-- Whether an integer is the most negative of a signed format. -/
def leastIn (fmt : Nat) (i : Int) : Bool :=
  match intFmt fmt with
  | some (w, true) => decide (i = intLo w true)
  | _ => false

/-- Division with exact integers (R100, R319): a zero divisor gives all ones, and the most negative value of the dividend's format by -1
gives the dividend. -/
def intDivCode (fa fd : Nat) (sat : Bool) (x y : Ex) : Nat :=
  if intOf y = 0 then 2 ^ fmtWidth fd - 1
  else if intOf y = -1 ∧ leastIn fa (intOf x) = true then (resultOf none fd false sat (exInt (intOf x))).1
  else (resultOf none fd false sat (exInt ((intOf x).tdiv (intOf y)))).1

/-- One element of R319's instructions: its code and flags. -/
def elemResult (k : Nat) (cf : Option Nat) (f : Fmts) (x y d : Ex) : Nat × BitVec 5 :=
  if k = 3 ∧ cf = none then (intDivCode f.fa f.fd f.sat x y, flNone)
  else
    let v := elemFn k x y d
    let r := resultOf cf f.fd f.fz f.sat v.1
    (r.1, v.2 ||| r.2)

/-- Whether a comparison holds (R323). -/
def cmpHolds (k : Nat) (x y : Ex) : Bool :=
  match k with
  | 0 => exEq x y
  | 1 => exLt false x y
  | _ => exLt false x y || exEq x y

/-- The element of rows at a linear position. -/
def linear (c : Nat) (rows : List (List Ex)) (k : Nat) : Ex := (rows.getD (k / c) []).getD (k % c) .nan

/-- The result codes of a quantised row: scale bytes, codes with flags (R327). -/
def quantRow (sm fd : Nat) (cf : Option Nat) (fz : Bool) (row : List Ex) : List Nat × List (Nat × BitVec 5) :=
  let qs := (blocksOf (scaleBlock sm) row.length row).map (quantBlock sm fd cf fz)
  (qs.map (·.1), qs.flatMap (·.2))

/-- What a written row of codes, with its scale bytes, stands for (R330). -/
def standsFor (sm fd : Nat) (bytes codes : List Nat) : List Ex :=
  (List.range codes.length).map fun j =>
    let x := decFmt fd (codes.getD j 0)
    if sm = 0 then x
    else
      let v := scaleVal sm (bytes.getD (j / scaleBlock sm) 0)
      if x = .nan ∨ v = .nan then .nan else (exMul x v).1

/-- What a vector instruction writes: the destination's rows whole, or single elements of it, scale bytes, residual
rows, and its flags. -/
structure VOut where
  rows : List (List Nat)
  elems : List (Nat × Nat × Nat)
  bytes : List Nat
  resRows : List (List Nat)
  flags : BitVec 5
  deriving DecidableEq, Repr

/-- Whole rows of results. -/
def wholeRows (fl : BitVec 5) (rs : List (List (Nat × BitVec 5))) : VOut := ⟨rowVals rs, [], [], [], fl ||| rowFlags rs⟩

/-- BARQ (R330): rows of sums, then their results, scale bytes and residuals. -/
def barqOut (p : VPlan) (cf : Option Nat) (fl : BitVec 5) (a b : List (List Ex)) : VOut :=
  let f := p.f
  let sums := List.zipWith (fun x y => List.zipWith (fun u v =>
    let r := exAdd u v
    let t := intoCf cf f.fz f.sat r.1
    (t.1, r.2 ||| t.2)) x y) a b
  let s := rowVals sums
  let q := s.map fun r => if f.smode = 0 then ([], r.map (resultOf cf f.fd f.fz f.sat)) else quantRow f.smode f.fd cf f.fz r
  let codes := q.map fun r => r.2.map (·.1)
  let fl := fl ||| rowFlags sums ||| rowFlags (q.map (·.2))
  match p.res with
  | none => ⟨codes, [], q.flatMap (·.1), [], fl⟩
  | some t =>
    let rf := teFmt t.tile.ent
    let rs := List.zipWith (fun (sr : List Ex) (qr : List Nat × List (Nat × BitVec 5)) =>
      List.zipWith (fun x v =>
        let d := if x = .nan then (.nan, flNone) else exAdd x (exNeg v)
        let y := match cfFloat cf with
          | some q => flushEx q f.fz d.1
          | none => (d.1, flNone)
        let e := encFmt rf f.sat y.1
        (e.1, d.2 ||| y.2 ||| e.2)) sr (standsFor f.smode f.fd qr.1 (qr.2.map (·.1)))) s q
    ⟨codes, [], q.flatMap (·.1), rowVals rs, fl ||| rowFlags rs⟩

/-- The whole of what a vector instruction writes, from its operands as they stand (R313). DESIGN CHOICE (log entry 28): the
flags of operand reads (R112) are set in every reduction, those by minimum and maximum among them, where R124 names only the
final rounding. -/
def vecOut (s : State) (op : VOp) (p : VPlan) (book : Tbl (BitVec 32)) : VOut :=
  let f := p.f
  let cf := vecCf op p
  let oa : Opnd := ⟨p.a.tile, f.fa, p.sa.map (·.tile), f.smode, book⟩
  let ra := opRows s oa cf f.fz f.sat
  let a := rowVals ra
  let rb := match op.fn, p.b with
    | .gather, _ => []
    | .scat, _ => []
    | _, some t => opRows s ⟨t.tile, f.fb, p.sb.map (·.tile), f.smode, book⟩ cf f.fz f.sat
    | _, none => []
  let b := rowVals rb
  let fl := rowFlags ra ||| rowFlags rb
  let old := fun (_ : Unit) => rowVals (opRows s ⟨p.d.tile, f.fd, none, 0, book⟩ none false false)
  let res := resultOf cf f.fd f.fz f.sat
  let rd := teRows p.d.tile.ent
  let cd := teCols p.d.tile.ent
  let ca := teCols p.a.tile.ent
  match op.fn with
  | .el k =>
    let dd := if k = 4 then old () else []
    wholeRows fl ((List.range rd).map fun i => (List.range cd).map fun j =>
      elemResult k cf f ((a.getD i []).getD j .nan) ((b.getD i []).getD j .nan) ((dd.getD i []).getD j .nan))
  | .tr k => wholeRows fl (a.map fun r => r.map (trResult k (cf.getD 0) f.fd f.fz f.sat))
  | .red k =>
    let vs := a.map fun r =>
      let v := reduceRow (combineEx k cf f.fz f.sat) r
      let e := res (v.1.getD .nan)
      (e.1, v.2 ||| e.2)
    ⟨[], (List.range rd).map fun i => (i, 0, (vs.getD i (0, 0)).1), [], [], fl ||| flagsOf vs⟩
  | .scan k => wholeRows fl (a.map fun r => (scanRow (combineEx k cf f.fz f.sat) (none, 0) r).map fun v =>
      let e := res (v.1.getD .nan)
      (e.1, v.2 ||| e.2))
  | .cmp k => ⟨List.zipWith (fun x y => List.zipWith (fun u v => (encFmt f.fd f.sat (exInt (if cmpHolds k u v then 1 else 0))).1)
      x y) a b, [], [], [], flNone⟩
  | .sel =>
    let c := old ()
    wholeRows fl ((List.range rd).map fun i => (List.range cd).map fun j =>
      res (if exIsZero ((c.getD i []).getD j .nan) then (b.getD i []).getD j .nan else (a.getD i []).getD j .nan))
  | .bcast => wholeRows fl ((List.range rd).map fun _ => (List.range cd).map fun j =>
      res ((a.getD 0 []).getD (if ca = 1 then 0 else j) .nan))
  | .gather =>
    let ix := match p.b with
      | some t => indexVals s t.tile
      | none => []
    wholeRows fl ((List.range rd).map fun i => (List.range cd).map fun j =>
      res (linear ca a ((ix.getD (i * cd + j) 0).toNat)))
  | .scat =>
    let ix := match p.b with
      | some t => indexVals s t.tile
      | none => []
    let vs := a.flatMap fun r => r.map res
    ⟨[], List.zipWith (fun (k : Int) (v : Nat × BitVec 5) => (k.toNat / cd, k.toNat % cd, v.1)) ix vs, [], [],
      fl ||| flagsOf vs⟩
  | .trans => wholeRows fl ((List.range rd).map fun i => (List.range cd).map fun j => res ((a.getD j []).getD i .nan))
  | .qscale =>
    let q := a.map (quantRow f.smode f.fd cf f.fz)
    ⟨q.map fun r => r.2.map (·.1), [], q.flatMap (·.1), [], fl ||| rowFlags (q.map (·.2))⟩
  | .barq _ => barqOut p cf fl a b
  | _ => wholeRows fl (a.map fun r => r.map res)

/-- Write a vector instruction's results (R313). -/
def vecWrite (s : State) (p : VPlan) (o : VOut) : State :=
  let s := tileWrRows s p.d.tile (fmtWidth p.f.fd) 0 o.rows
  let s := o.elems.foldl (fun s e => tileWrElem s p.d.tile p.f.fd e.1 e.2.1 e.2.2) s
  let s := match p.sd with
    | some t => tileWrBytes s t.tile 0 o.bytes
    | none => s
  match p.res with
  | some t => tileWrRows s t.tile (fmtWidth (teFmt t.tile.ent)) 0 o.resRows
  | none => s

/-- What a vector instruction raises once it reads its operands: POISON (R422), an index out of range (R325). -/
def vecTrap (s : State) (f : Fibre) (op : VOp) (p : VPlan) : Option (Nat × Word) :=
  match vecPoison s op p with
  | some off => some (cPOISON, windowVa s f p.a.tile.core off)
  | none =>
    match badIndex s op p with
    | some k => some (cTILESHAPE, BitVec.ofInt 64 k)
    | none => none

/-- The instruction's checks in R312's order, then its waits: tiles not ready, readers of the tiles it writes (R340, R352),
words an engine owns (R175), earlier accesses (R160), the unit (R313). -/
def vecReady (s : State) (op : VOp) : Except Eff VPlan :=
  let f := s.fib
  match vecNames (pendingPfx f) (namedTile s f f.core) op with
  | .error (_, v) => .error (.trap (noTile f v.toNat) v)
  | .ok p =>
    match (planTiles p).find? fun t => teState t.tile.ent != 2 with
    | some t => .error (.park (.tile f.core t.idx) s)
    | none =>
      match firstFail (vecFormats op p ++ vecShapes op p) with
      | some (c, v) => .error (.trap c v)
      | none =>
        match (planWrites p).find? fun t => matrixReads s f.core t.idx || copyReads s f.core t.tile (rowLen p t) with
        | some t => .error (.park (.readers f.core t.idx) s)
        | none =>
          if (planTiles p).any fun t => tileOwned s t.tile (rowLen p t) then
            .error (.park (.owned ((planTiles p).flatMap fun t => tileUnits s t.tile (rowLen p t))) s)
          else if mustPerform s f then .error (.park .accesses s)
          else if !(coreOf s f.core).vec.isEmpty then .error (.park .unit s)
          else .ok p

/-- A vector instruction (R312, R313): done at issue, or left to the unit when the fibre's work is left to events. -/
def vecExec (i : Instr) (y : Bool) (op : VOp) (s : State) : Out :=
  issue s { plainUse i y [] 0 with pfxOk := true } fun t _ =>
    match vecReady t op with
    | .error e => e
    | .ok p =>
      let c := coreOf t t.fib.core
      if t.sched.defer then
        .hold .vector (setCore t t.fib.core { c with vec := c.vec ++ [⟨t.fib.id, i, pendingPfx t.fib, p.d.tile.base,
          (planTiles p).foldl (fun e r => tset e r.num r.tile.ent) [], c.book⟩] })
      else match vecTrap t t.fib op p with
        | some (k, v) => .trap k v
        | none =>
          let o := vecOut t op p c.book
          let t := vecWrite t p o
          .done { t with fib := orFlags t.fib o.flags }


/-- VADD (R319). -/
def execVadd (y : Bool) (td ta tb : BitVec 6) (s : State) : Out :=
  vecExec (.vadd y td ta tb) y ⟨.el 0, td.toNat, ta.toNat, some tb.toNat⟩ s

/-- VSUB (R319). -/
def execVsub (y : Bool) (td ta tb : BitVec 6) (s : State) : Out :=
  vecExec (.vsub y td ta tb) y ⟨.el 1, td.toNat, ta.toNat, some tb.toNat⟩ s

/-- VMUL (R319). -/
def execVmul (y : Bool) (td ta tb : BitVec 6) (s : State) : Out :=
  vecExec (.vmul y td ta tb) y ⟨.el 2, td.toNat, ta.toNat, some tb.toNat⟩ s

/-- VDIV (R319). -/
def execVdiv (y : Bool) (td ta tb : BitVec 6) (s : State) : Out :=
  vecExec (.vdiv y td ta tb) y ⟨.el 3, td.toNat, ta.toNat, some tb.toNat⟩ s

/-- VFMA (R319). -/
def execVfma (y : Bool) (td ta tb : BitVec 6) (s : State) : Out :=
  vecExec (.vfma y td ta tb) y ⟨.el 4, td.toNat, ta.toNat, some tb.toNat⟩ s

/-- VMIN (R319). -/
def execVmin (y : Bool) (td ta tb : BitVec 6) (s : State) : Out :=
  vecExec (.vmin y td ta tb) y ⟨.el 5, td.toNat, ta.toNat, some tb.toNat⟩ s

/-- VMAX (R319). -/
def execVmax (y : Bool) (td ta tb : BitVec 6) (s : State) : Out :=
  vecExec (.vmax y td ta tb) y ⟨.el 6, td.toNat, ta.toNat, some tb.toNat⟩ s

/-- VABS (R319). -/
def execVabs (y : Bool) (td ta : BitVec 6) (s : State) : Out :=
  vecExec (.vabs y td ta) y ⟨.el 7, td.toNat, ta.toNat, none⟩ s

/-- VEXP (R320). -/
def execVexp (y : Bool) (td ta : BitVec 6) (s : State) : Out :=
  vecExec (.vexp y td ta) y ⟨.tr 8, td.toNat, ta.toNat, none⟩ s

/-- VLOG (R320). -/
def execVlog (y : Bool) (td ta : BitVec 6) (s : State) : Out :=
  vecExec (.vlog y td ta) y ⟨.tr 9, td.toNat, ta.toNat, none⟩ s

/-- VSQRT (R320). -/
def execVsqrt (y : Bool) (td ta : BitVec 6) (s : State) : Out :=
  vecExec (.vsqrt y td ta) y ⟨.tr 10, td.toNat, ta.toNat, none⟩ s

/-- VRSQRT (R320). -/
def execVrsqrt (y : Bool) (td ta : BitVec 6) (s : State) : Out :=
  vecExec (.vrsqrt y td ta) y ⟨.tr 11, td.toNat, ta.toNat, none⟩ s

/-- VRCP (R320). -/
def execVrcp (y : Bool) (td ta : BitVec 6) (s : State) : Out :=
  vecExec (.vrcp y td ta) y ⟨.tr 12, td.toNat, ta.toNat, none⟩ s

/-- VTANH (R320). -/
def execVtanh (y : Bool) (td ta : BitVec 6) (s : State) : Out :=
  vecExec (.vtanh y td ta) y ⟨.tr 13, td.toNat, ta.toNat, none⟩ s

/-- VSIGM (R320). -/
def execVsigm (y : Bool) (td ta : BitVec 6) (s : State) : Out :=
  vecExec (.vsigm y td ta) y ⟨.tr 14, td.toNat, ta.toNat, none⟩ s

/-- VRED_ADD (R321). -/
def execVredAdd (y : Bool) (td ta : BitVec 6) (s : State) : Out :=
  vecExec (.vredAdd y td ta) y ⟨.red 0, td.toNat, ta.toNat, none⟩ s

/-- VRED_MIN (R321). -/
def execVredMin (y : Bool) (td ta : BitVec 6) (s : State) : Out :=
  vecExec (.vredMin y td ta) y ⟨.red 1, td.toNat, ta.toNat, none⟩ s

/-- VRED_MAX (R321). -/
def execVredMax (y : Bool) (td ta : BitVec 6) (s : State) : Out :=
  vecExec (.vredMax y td ta) y ⟨.red 2, td.toNat, ta.toNat, none⟩ s

/-- VSCAN_ADD (R322). -/
def execVscanAdd (y : Bool) (td ta : BitVec 6) (s : State) : Out :=
  vecExec (.vscanAdd y td ta) y ⟨.scan 0, td.toNat, ta.toNat, none⟩ s

/-- VSCAN_MAX (R322). -/
def execVscanMax (y : Bool) (td ta : BitVec 6) (s : State) : Out :=
  vecExec (.vscanMax y td ta) y ⟨.scan 2, td.toNat, ta.toNat, none⟩ s

/-- VCMP_EQ (R323). -/
def execVcmpEq (y : Bool) (td ta tb : BitVec 6) (s : State) : Out :=
  vecExec (.vcmpEq y td ta tb) y ⟨.cmp 0, td.toNat, ta.toNat, some tb.toNat⟩ s

/-- VCMP_LT (R323). -/
def execVcmpLt (y : Bool) (td ta tb : BitVec 6) (s : State) : Out :=
  vecExec (.vcmpLt y td ta tb) y ⟨.cmp 1, td.toNat, ta.toNat, some tb.toNat⟩ s

/-- VCMP_LE (R323). -/
def execVcmpLe (y : Bool) (td ta tb : BitVec 6) (s : State) : Out :=
  vecExec (.vcmpLe y td ta tb) y ⟨.cmp 2, td.toNat, ta.toNat, some tb.toNat⟩ s

/-- VSEL (R323). -/
def execVsel (y : Bool) (td ta tb : BitVec 6) (s : State) : Out :=
  vecExec (.vsel y td ta tb) y ⟨.sel, td.toNat, ta.toNat, some tb.toNat⟩ s

/-- VBCAST (R324). -/
def execVbcast (y : Bool) (td ta : BitVec 6) (s : State) : Out :=
  vecExec (.vbcast y td ta) y ⟨.bcast, td.toNat, ta.toNat, none⟩ s

/-- VGATHER (R325). -/
def execVgather (y : Bool) (td ta tb : BitVec 6) (s : State) : Out :=
  vecExec (.vgather y td ta tb) y ⟨.gather, td.toNat, ta.toNat, some tb.toNat⟩ s

/-- VSCAT (R325). -/
def execVscat (y : Bool) (td ta tb : BitVec 6) (s : State) : Out :=
  vecExec (.vscat y td ta tb) y ⟨.scat, td.toNat, ta.toNat, some tb.toNat⟩ s

/-- VTRANS (R324). -/
def execVtrans (y : Bool) (td ta : BitVec 6) (s : State) : Out :=
  vecExec (.vtrans y td ta) y ⟨.trans, td.toNat, ta.toNat, none⟩ s

/-- VCVT (R326). -/
def execVcvt (y : Bool) (td ta : BitVec 6) (s : State) : Out :=
  vecExec (.vcvt y td ta) y ⟨.cvt, td.toNat, ta.toNat, none⟩ s

/-- VQSCALE (R327). -/
def execVqscale (y : Bool) (td ta : BitVec 6) (s : State) : Out :=
  vecExec (.vqscale y td ta) y ⟨.qscale, td.toNat, ta.toNat, none⟩ s

/-- VCBK (R328). -/
def execVcbk (y : Bool) (td ta : BitVec 6) (s : State) : Out :=
  vecExec (.vcbk y td ta) y ⟨.cbk, td.toNat, ta.toNat, none⟩ s

/-- BARQ (R330). -/
def execBarq (y : Bool) (td ta tb : BitVec 6) (s : State) : Out :=
  vecExec (.barq y td ta tb) y ⟨.barq false, td.toNat, ta.toNat, some tb.toNat⟩ s

/-- BARQ_RES (R330). -/
def execBarqRes (y : Bool) (td ta tb : BitVec 6) (s : State) : Out :=
  vecExec (.barqRes y td ta tb) y ⟨.barq true, td.toNat, ta.toNat, some tb.toNat⟩ s

/-- The function and tiles of an instruction in the unit. -/
def vecOp (i : Instr) : Option VOp :=
  match i with
  | .vadd _ td ta tb => some ⟨.el 0, td.toNat, ta.toNat, some tb.toNat⟩
  | .vsub _ td ta tb => some ⟨.el 1, td.toNat, ta.toNat, some tb.toNat⟩
  | .vmul _ td ta tb => some ⟨.el 2, td.toNat, ta.toNat, some tb.toNat⟩
  | .vdiv _ td ta tb => some ⟨.el 3, td.toNat, ta.toNat, some tb.toNat⟩
  | .vfma _ td ta tb => some ⟨.el 4, td.toNat, ta.toNat, some tb.toNat⟩
  | .vmin _ td ta tb => some ⟨.el 5, td.toNat, ta.toNat, some tb.toNat⟩
  | .vmax _ td ta tb => some ⟨.el 6, td.toNat, ta.toNat, some tb.toNat⟩
  | .vabs _ td ta => some ⟨.el 7, td.toNat, ta.toNat, none⟩
  | .vexp _ td ta => some ⟨.tr 8, td.toNat, ta.toNat, none⟩
  | .vlog _ td ta => some ⟨.tr 9, td.toNat, ta.toNat, none⟩
  | .vsqrt _ td ta => some ⟨.tr 10, td.toNat, ta.toNat, none⟩
  | .vrsqrt _ td ta => some ⟨.tr 11, td.toNat, ta.toNat, none⟩
  | .vrcp _ td ta => some ⟨.tr 12, td.toNat, ta.toNat, none⟩
  | .vtanh _ td ta => some ⟨.tr 13, td.toNat, ta.toNat, none⟩
  | .vsigm _ td ta => some ⟨.tr 14, td.toNat, ta.toNat, none⟩
  | .vredAdd _ td ta => some ⟨.red 0, td.toNat, ta.toNat, none⟩
  | .vredMin _ td ta => some ⟨.red 1, td.toNat, ta.toNat, none⟩
  | .vredMax _ td ta => some ⟨.red 2, td.toNat, ta.toNat, none⟩
  | .vscanAdd _ td ta => some ⟨.scan 0, td.toNat, ta.toNat, none⟩
  | .vscanMax _ td ta => some ⟨.scan 2, td.toNat, ta.toNat, none⟩
  | .vcmpEq _ td ta tb => some ⟨.cmp 0, td.toNat, ta.toNat, some tb.toNat⟩
  | .vcmpLt _ td ta tb => some ⟨.cmp 1, td.toNat, ta.toNat, some tb.toNat⟩
  | .vcmpLe _ td ta tb => some ⟨.cmp 2, td.toNat, ta.toNat, some tb.toNat⟩
  | .vsel _ td ta tb => some ⟨.sel, td.toNat, ta.toNat, some tb.toNat⟩
  | .vbcast _ td ta => some ⟨.bcast, td.toNat, ta.toNat, none⟩
  | .vgather _ td ta tb => some ⟨.gather, td.toNat, ta.toNat, some tb.toNat⟩
  | .vscat _ td ta tb => some ⟨.scat, td.toNat, ta.toNat, some tb.toNat⟩
  | .vtrans _ td ta => some ⟨.trans, td.toNat, ta.toNat, none⟩
  | .vcvt _ td ta => some ⟨.cvt, td.toNat, ta.toNat, none⟩
  | .vqscale _ td ta => some ⟨.qscale, td.toNat, ta.toNat, none⟩
  | .vcbk _ td ta => some ⟨.cbk, td.toNat, ta.toNat, none⟩
  | .barq _ td ta tb => some ⟨.barq false, td.toNat, ta.toNat, some tb.toNat⟩
  | .barqRes _ td ta tb => some ⟨.barq true, td.toNat, ta.toNat, some tb.toNat⟩
  | _ => none

/-- How a job of the unit finds its tiles: the entries it took at issue. -/
def jobLook (core : Nat) (j : VecJob) : Look := fun n =>
  match j.ents.find? fun e => e.1 == n with
  | some (_, e) => some (n, ⟨core, j.base, e⟩)
  | none => none

/-- A fibre whose held instruction traps finds its prefix as it was (R117). -/
def trapHeld (s : State) (n : Nat) (pfx : Option (BitVec 64)) (c : Nat) (v : Word) : State :=
  completeTrap (modFibre s n fun f => { f with pfx := pfx.isSome }) n c v

/-- A vector instruction in the unit completes (R313). -/
def vecComplete (s : State) (j : VecJob) (core : Nat) (op : VOp) : State :=
  match fibreOf s j.fib, vecNames j.pfx (jobLook core j) op with
  | some f, .ok p =>
    match vecTrap s f op p with
    | some (c, v) => trapHeld s j.fib j.pfx c v
    | none =>
      let o := vecOut s op p j.book
      let s := vecWrite s p o
      complete (modFibre s j.fib fun f => orFlags f o.flags) j.fib none
  | _, _ => s

end Sys2Proof.Machine
end

