-- ==== Sys2Proof/Machine/TileOps.lean ====
section
/-! DEFINITION. Defining, setting and waiting on tiles, a codebook's image and the format prefix: majors 0x58, 0x62-0x64
and TWAIT (R316-R318, R331, R413). -/

namespace Sys2Proof.Machine

/-- FMT (R116, R331): loads FPFX and leaves a prefix pending. -/
def execFmt (y : Bool) (fa fb fd : BitVec 4) (smode : BitVec 2) (stile : BitVec 6) (fz sat : Bool) (s : State) : Out :=
  let i := Instr.fmt y fa fb fd smode stile fz sat
  issue s (plainUse i y [] 0) fun t _ =>
    if fa = 15 ∨ fb = 15 ∨ fd = 15 then .trap cFORMAT (wordVal i)
    else .done { t with fib := { t.fib with fpfx := wordVal i &&& 0xFFFFFC, pfx := true } }

/-- TWAIT (R318). -/
def execTwait (y : Bool) (ta : BitVec 6) (s : State) : Out :=
  issue s (plainUse (.twait y ta) y [] 0) fun t _ =>
    match namedTile t t.fib t.fib.core ta.toNat with
    | none => .trap (noTile t.fib ta.toNat) (zext ta)
    | some (k, a) => if teState a.ent = 2 then .done t else .park (.tile t.fib.core k) t

/-- Whether a tile is filling or draining (R150). -/
def tileMoving (e : BitVec 64) : Bool := teDef e && (teState e == 1 || teState e == 3)

/-- Whether a matrix command of the cluster names a tile and has not completed (R316, R340). -/
def matrixNames (s : State) (core idx : Nat) : Bool :=
  (arrayOf s (clusterOf core)).cmds.any fun c => c.names.contains (core, idx)

/-- Whether a copy command reads a tile's words (R352). -/
def copyReadsEnt (s : State) (core : Nat) (a : TileAt) : Bool :=
  copyReads s core a (rowBytes (teFmt a.ent) (teCols a.ent))

/-- The checks of a definition's value (R316, R149). -/
def tdefCheck (v : Word) (len : Nat) : Option Nat :=
  if nf v.toNat 20 5 ≠ 0 ∨ nf v.toNat 0 3 ≠ 0 ∨ nf v.toNat 62 2 % 2 = 1 then some cRESBITS else defineCheck v len

/-- Whether a tile's entry, in a block at `base`, is moving, named or read, so that it cannot be rewritten (R316, R340, R352). -/
def entryBusy (s : State) (core k base : Nat) : Bool :=
  let e := tileEnt s core k
  tileMoving e || matrixNames s core k || (teDef e && copyReadsEnt s core ⟨core, base, e⟩)

/-- TDEF after its checks (R316). -/
def defineEff (u : State) (core k base : Nat) (w : Word) : Eff :=
  if entryBusy u core k base then .later (.readers core k) (.define core k base w) u
  else .done (setTileEnt u core k (if teDef w then w else 0))

/-- Whether TSTATE waits: for a tile filling or draining, and where it sets the state for a reader too (R317, R340, R352). -/
def stateBusy (s : State) (core k base : Nat) (set : Bool) : Bool :=
  let e := tileEnt s core k
  tileMoving e || (set && (matrixReads s core k || copyReadsEnt s core ⟨core, base, e⟩))

/-- TSTATE after its checks (R317). -/
def stateEff (u : State) (core k base : Nat) (set : Bool) (st : BitVec 2) (d : Reg) : Eff :=
  if stateBusy u core k base set then .later (.readers core k) (.state core k base set st d) u
  else
    let u := setLong u d (tileEnt u core k) 0
    .done (if set then setTileState u core k st.toNat else u)

/-- TDEF (R316). -/
def execTdef (y : Bool) (ga : BitVec 4) (la : Bool) (t : BitVec 6) (s : State) : Out :=
  issue s (plainUse (.tdef y ga la t) y [(ga, la)] 0) fun u v =>
    let core := u.fib.core
    match tileSlot u u.fib core t.toNat with
    | none => .trap (noTile u.fib t.toNat) (zext t)
    | some (k, base, len) =>
      let w := arg v 0
      match if teDef w then tdefCheck w len else none with
      | some c => .trap c (zext t)
      | none => defineEff u core k base w

/-- TSTATE (R317). -/
def execTstate (y : Bool) (gd : BitVec 4) (set : Bool) (st : BitVec 2) (t : BitVec 6) (s : State) : Out :=
  issue s (plainUse (.tstate y gd set st t) y [] gd) fun u _ =>
    let core := u.fib.core
    match tileSlot u u.fib core t.toNat with
    | none => .trap (noTile u.fib t.toNat) (zext t)
    | some (k, base, _) =>
      let e := tileEnt u core k
      if set && !teDef e then .trap cTILEUNDEF (zext t)
      else stateEff u core k base set st gd

/-- The codebook that a 1 KiB image gives, by its 128 doublewords (R114): rows that differ from the reset contents. -/
def bookOf (ws : List Word) : Tbl (BitVec 32) :=
  (List.range 256).foldl (fun b p =>
    let w := (ws.getD (p / 2) 0).toNat / 2 ^ (32 * (p % 2)) % 2 ^ 32
    if w = bookReset p then b else b ++ [(p, BitVec.ofNat 32 w)]) []

end Sys2Proof.Machine
end

