-- ==== Sys2Proof/Machine/Matrix.lean ====
section
/-! DEFINITION. The matrix array: majors 0x66-0x68, and the commands' steps (R120-R122, R332-R340, R414, R422); the codebook load, which
waits for its readers (R115, R329). -/

namespace Sys2Proof.Machine

/-- The slot of a fibre's core in its gang (R129). -/
def ownSlot (s : State) (f : Fibre) : Option Nat :=
  match gangOfFibre s f with
  | none => none
  | some g => if holdsCores g then coreIndex g f.core else none

/-- Whether a fibre's gang holds the accumulator bank of its core (R332). -/
def hasBank (s : State) (f : Fibre) : Bool :=
  (ownSlot s f).isSome && match gangOfFibre s f with
    | some g => g.acc
    | none => false

/-- MLEASE's context checks (R332, R236). -/
def leaseAsk (i : Instr) (s : State) : Option (Nat × Word) :=
  match gangOnly i s with
  | some e => some e
  | none =>
    if holdsLease s s.fib then some (cLEASE, 3)
    else if !hasBank s s.fib then some (cLEASE, 4) else none

/-- The context check of a matrix command, MREL and EWR to MXA.SRC (R332); `unit` when it uses the bound. -/
def leaseHeld (uses : Bool) (s : State) : Option (Nat × Word) :=
  match (arrayOf s (clusterOf s.fib.core)).lease with
  | none => some (cLEASE, 1)
  | some l =>
    if l.fib ≠ s.fib.id ∨ l.rel = true then some (cLEASE, 1)
    else if uses && l.left == 0 then some (cLEASE, 2) else none

/-- The array after a grant to a fibre (R332, R333). -/
def grantTo (s : State) (f : Fibre) (bound : Nat) (a : MArray) : MArray :=
  let k := (ownSlot s f).getD 0
  { a with lease := some ⟨f.id, f.core, bound, false⟩, src := BitVec.ofNat 8 (k * 17) }

/-- MLEASE (R332): granted at once when the array is free, else in arrival order. -/
def execMlease (y : Bool) (bound : BitVec 8) (s : State) : Out :=
  let i := Instr.mlease y bound
  issue s { plainUse i y [] 0 with ctx := leaseAsk i } fun t _ =>
    let cl := clusterOf t.fib.core
    let a := arrayOf t cl
    if a.lease.isNone && a.wait.isEmpty && !a.retired && !t.sched.defer then
      .done (setArray t cl (grantTo t t.fib bound.toNat a))
    else .hold .lease (setArray t cl { a with wait := a.wait ++ [⟨t.fib.id, bound.toNat, false, false, []⟩] })

/-- The formats in force for a matrix command (R336); without a prefix FD follows the operands. -/
def matrixFmts (pfx : Option (BitVec 64)) (ea eb ed : BitVec 64) (fn : Nat) : Fmts :=
  match pfx with
  | some p => pfxFmts p
  | none =>
    let fa := teFmt ea
    let fb := teFmt eb
    let narrow := fun c => c == 8 || c == 9 || c == 10
    let fd := if fn ≤ 1 then (if narrow fa && narrow fb then 12 else 0) else teFmt ed
    ⟨fa, fb, fd, 0, 0, false, false⟩

/-- An integer narrow format (R121). -/
def narrowInt (c : Nat) : Bool := c == 8 || c == 9 || c == 10

/-- The tiles of a matrix command: operand A or MACC's, operand B, the metadata or MST's, and scale tiles, with the cores
that hold them. -/
structure MNames where
  a : Option TileRef
  b : Option TileRef
  d : Option TileRef
  sa : Option TileRef
  sb : Option TileRef
  deriving DecidableEq, Repr

/-- R312's step 2 for a matrix command (R333): A and the metadata on one core, B on another, MACC's and MST's tiles on the
fibre's own. -/
def matrixNamesOf (s : State) (pfx : Option (BitVec 64)) (fn : Nat) (ta tb td : Option Nat) (ca cb cd : Nat) :
    Except (Nat × Word) MNames := do
  let f := s.fib
  let a ← nameOpt (namedTile s f ca) ta
  let b ← nameOpt (namedTile s f cb) tb
  let d ← nameOpt (namedTile s f cd) td
  let e := fun (t : Option TileRef) => (t.map fun r => r.tile.ent).getD 0
  let g := matrixFmts pfx (e a) (e b) (e d) fn
  let sa ← nameOpt (namedTile s f ca) (if ta.isSome && isScaled g.smode g.fa then some g.stile else none)
  let sb ← nameOpt (namedTile s f cb) (if tb.isSome && isScaled g.smode g.fb then some (g.stile + 1) else none)
  return ⟨a, b, d, sa, sb⟩

/-- The tiles of a command in order. -/
def mTiles (n : MNames) : List TileRef := n.a.toList ++ n.b.toList ++ n.d.toList ++ n.sa.toList ++ n.sb.toList

/-- An operand's checks of format and row length (R109, R110, R315, R101, R118). -/
def operandFmt (t : Option TileRef) (c sm : Nat) (ok : Bool) : List (Bool × Nat × Nat) :=
  match t with
  | some r => [(ok && !refusesFmt sm c, cFORMAT, r.num)]
  | none => []

/-- The row and scale shape checks of an operand. -/
def operandShape (t : Option TileRef) (c sm : Nat) (sc : Option TileRef) : List (Bool × Nat × Nat) :=
  match t with
  | some r => scaleShape sm r sc ++ rowChecks r c
  | none => []

/-- The formats a matrix command accepts (R336, R337, R335), checked in R312's step 4. -/
def matrixFormatChecks (fn : Nat) (g : Fmts) (n : MNames) : List (Bool × Nat × Nat) :=
  let mma := decide (fn ≤ 1)
  operandFmt n.a g.fa g.smode (if mma then decide (g.fa ≤ 11) && !(fn == 1 && g.fa == 11) else openFmt g.fa)
  ++ operandFmt n.b g.fb g.smode (decide (g.fb ≤ 11))
  ++ scaleFmtCheck n.sa ++ scaleFmtCheck n.sb
  ++ (if mma then [(g.fd == 0 || (g.fd == 12 && narrowInt g.fa && narrowInt g.fb && g.smode == 0), cFORMAT, 64)] else [])
  ++ (match n.d with
    | some r => if fn = 1 then [(teFmt r.tile.ent == 9, cFORMAT, r.num)] else [(openFmt g.fd, cFORMAT, r.num)]
    | none => [])

/-- The shapes a matrix command requires (R335-R337), checked in step 5. -/
def matrixShapeChecks (fn : Nat) (n : MNames) : List (Bool × Nat × Nat) :=
  let rows := fun (t : Option TileRef) => match t with
    | some r => teRows r.tile.ent
    | none => 0
  let cols := fun (t : Option TileRef) => match t with
    | some r => teCols r.tile.ent
    | none => 0
  let num := fun (t : Option TileRef) => match t with
    | some r => r.num
    | none => 0
  let m := rows n.a
  let k := rows n.b
  match fn with
  | 0 => [(cols n.a == k, cTILESHAPE, num n.a), (decide (m ≤ 128), cTILESHAPE, num n.a),
      (decide (cols n.b ≤ 128), cTILESHAPE, num n.b)]
  | 1 => [(k % 4 == 0, cTILESHAPE, num n.b), (cols n.a == k / 2, cTILESHAPE, num n.a),
      (rows n.d == m && decide (k / 4 ≤ cols n.d), cTILESHAPE, num n.d), (decide (m ≤ 128), cTILESHAPE, num n.a),
      (decide (cols n.b ≤ 128), cTILESHAPE, num n.b)]
  | 3 => [(decide (m ≤ 128) && decide (cols n.a ≤ 128), cTILESHAPE, num n.a)]
  | 4 => [(decide (rows n.d ≤ 128) && decide (cols n.d ≤ 128), cTILESHAPE, num n.d)]
  | _ => []

/-- All of a matrix command's format and shape checks. -/
def matrixChecks (fn : Nat) (g : Fmts) (n : MNames) : Option (Nat × Word) :=
  firstFail (matrixFormatChecks fn g n ++ operandShape n.a g.fa g.smode n.sa ++ operandShape n.b g.fb g.smode n.sb
    ++ (if fn = 4 then operandShape n.d g.fd 0 none else []) ++ matrixShapeChecks fn n)

/-- The entry of an optional tile, 0 when there is none. -/
def entOf (t : Option TileRef) : BitVec 64 := (t.map fun r => r.tile.ent).getD 0

/-- The table place of a tile. -/
def placeOfTile (t : Option TileRef) : List (Nat × Nat) := (t.map fun r => (r.tile.core, r.idx)).toList

/-- The base of a tile's reservation. -/
def baseOfTile (t : Option TileRef) : Nat := (t.map fun r => r.tile.base).getD 0

/-- The command that a matrix instruction hands to the array, with all it takes at issue (R115, R316, R333). -/
def mkCmd (s : State) (fn ca cb : Nat) (pfx : Option (BitVec 64)) (n : MNames) : MCmd :=
  let src := placeOfTile n.a ++ placeOfTile n.b ++ (if fn = 1 then placeOfTile n.d else []) ++ placeOfTile n.sa
    ++ placeOfTile n.sb
  { fn := fn, fib := s.fib.id, core := s.fib.core, acore := ca, bcore := cb, reads := src,
    names := src ++ placeOfTile n.d, ea := entOf n.a, eb := entOf n.b, ed := entOf n.d, sa := entOf n.sa,
    sb := entOf n.sb, pfx := pfx, abase := baseOfTile n.a, bbase := baseOfTile n.b, cbase := baseOfTile n.d,
    booka := (coreOf s ca).book, bookb := (coreOf s cb).book, step := 0, flags := 0, poisoned := none,
    src := (arrayOf s (clusterOf s.fib.core)).src, snap := none }

/-- A command's formats. -/
def cmdFmts (c : MCmd) : Fmts := matrixFmts c.pfx c.ea c.eb c.ed c.fn

/-- Operand A of a command. -/
def cmdA (c : MCmd) : Opnd :=
  ⟨⟨c.acore, c.abase, c.ea⟩, (cmdFmts c).fa, if c.sa = 0 then none else some ⟨c.acore, c.abase, c.sa⟩, (cmdFmts c).smode,
    c.booka⟩

/-- Operand B of a command. -/
def cmdB (c : MCmd) : Opnd :=
  ⟨⟨c.bcore, c.bbase, c.eb⟩, (cmdFmts c).fb, if c.sb = 0 then none else some ⟨c.bcore, c.bbase, c.sb⟩, (cmdFmts c).smode,
    c.bookb⟩

/-- One operand element read into a compute format (R112). -/
def opAt (s : State) (o : Opnd) (cf : Option Nat) (fz sat : Bool) (i j : Nat) : Ex × BitVec 5 :=
  let c := teCols o.tile.ent
  let k := (i * c + j) / scaleBlock o.smode
  opElem o cf fz sat (tileRow s o.tile i (rowBytes o.fmt c)) j
    (o.scale.map fun t => rowElem (tileRow s t (k / teCols t.ent) (teCols t.ent)) 8 (k % teCols t.ent))

/-- Whether a word of a tile's row is poisoned, by the byte at a row offset. -/
def byteBad (s : State) (t : TileAt) (i o : Nat) : Bool := sHas s.ms.poison (spadPa s t.core (tileByte t.base t.ent i o) / 8)

/-- Whether an operand element, or its scale, lies in a poisoned word (R422). -/
def elemBad (s : State) (o : Opnd) (i j : Nat) : Bool :=
  let w := if o.fmt = 11 then 16 else fmtWidth o.fmt
  let q := if o.fmt = 11 then j / 8 else j
  let c := teCols o.tile.ent
  let k := (i * c + j) / scaleBlock o.smode
  byteBad s o.tile i (w * q / 8) || byteBad s o.tile i ((w * q + w - 1) / 8) || match o.scale with
    | some t => byteBad s t (k / teCols t.ent) (k % teCols t.ent)
    | none => false

/-- K of a command (R336): 0 for the bank commands. -/
def cmdK (c : MCmd) : Nat := if c.fn ≤ 1 then teRows c.eb else 0

/-- The steps of a command (R338). -/
def cmdSteps (c : MCmd) : Nat := if c.fn ≤ 1 then ceilDiv (cmdK c) 16 else 1

/-- The products of row `i` in K positions from `lo` below `hi`: the position and A's column (R336, R337). -/
def kept (s : State) (c : MCmd) (i lo hi : Nat) : List (Nat × Nat) :=
  if c.fn = 1 then
    let t : TileAt := ⟨c.acore, c.cbase, c.ed⟩
    let row := tileRow s t i (teCols c.ed)
    (List.range ((hi - lo) / 4)).flatMap fun x =>
      let g := lo / 4 + x
      let m := rowElem row 8 g
      (4 * g + m % 4, 2 * g) :: if m / 4 % 4 > m % 4 then [(4 * g + m / 4 % 4, 2 * g + 1)] else []
  else (List.range (hi - lo)).map fun x => (lo + x, lo + x)

/-- Whether the sum of a bank element uses a poisoned word (R422). -/
def sumBad (s : State) (c : MCmd) (i j : Nat) : Bool :=
  if s.ms.poison.isEmpty then false
  else (kept s c i 0 (cmdK c)).any (fun k => elemBad s (cmdA c) i k.2 || elemBad s (cmdB c) k.1 j)
    || (c.fn == 1 && (List.range (cmdK c / 4)).any fun g => byteBad s ⟨c.acore, c.cbase, c.ed⟩ i g)

/-- ChunkRound of an accumulator and a chunk's products (R120). A chunk with a NaN operand sets no NV, whatever infinities it holds
(DESIGN CHOICE, log entry 28). -/
def chunkRound (fz sat : Bool) (acc : Ex) (ps : List (Ex × BitVec 5)) : Nat × BitVec 5 :=
  let fl := flagsOf ps
  let has := fun (x : Ex) => ps.any fun p => p.1 == x
  if has .nan then (nanCode fp32, fl)
  else if has (.inf false) && has (.inf true) then (nanCode fp32, fl ||| flNV)
  else if acc = .nan then (nanCode fp32, fl)
  else
    let vs := acc :: ps.map (·.1)
    let pos := vs.any fun v => v == .inf false
    let neg := vs.any fun v => v == .inf true
    if pos && neg then (nanCode fp32, fl ||| flNV)
    else if pos || neg then (signBit fp32 neg + infCode fp32, fl)
    else
      let v := vs.foldl (fun a x => (exAdd a x).1) exZero
      if exIsZero v then (0, fl)
      else
        let a := flushEx fp32 fz v
        let b := roundFloat fp32 sat a.1
        (b.1, fl ||| a.2 ||| b.2)

/-- A bank word. -/
def bankWord (c : Core) (i j : Nat) : Nat := (tget 0 c.bank (i * 128 + j)).toNat

/-- Write bank words; a zero is not listed. -/
def setBank (c : Core) (ws : List (Nat × Nat)) : Core :=
  { c with bank := ws.foldl (fun b w => if w.2 = 0 then tdel b w.1 else tset b w.1 (BitVec.ofNat 32 w.2)) c.bank }

/-- The address that a poisoned operand is reported at (R422). -/
def cmdPoisonVa (s : State) (c : MCmd) : BitVec 64 :=
  let f := (fibreOf s c.fib).getD s.fib
  let at' := fun (t : TileAt) (rb : Nat) => (tilePoison s t rb).map fun off => windowVa s f t.core off
  let a := cmdA c
  let b := cmdB c
  match at' a.tile (rowBytes a.fmt (teCols c.ea)) with
  | some v => v
  | none => match if c.fn ≤ 1 then at' b.tile (rowBytes b.fmt (teCols c.eb)) else none with
    | some v => v
    | none => match if c.fn = 1 then at' ⟨c.acore, c.cbase, c.ed⟩ (teCols c.ed) else none with
      | some v => v
      | none => 0

/-- Whether a scratchpad address lies between a tile's first byte and the end of its last row. -/
def tileSpan (s : State) (t : TileAt) (pa : Nat) : Bool :=
  let lo := spadPa s t.core (t.base + teBase t.ent)
  decide (lo ≤ pa) && decide (pa < lo + teRows t.ent * tePitch t.ent)

/-- The source tiles of MMA and MMAS as they stand: their bytes and poisoned words (R340). -/
def cmdSnap (s : State) (c : MCmd) : List Host.Cell × List Nat :=
  let a := cmdA c
  let b := cmdB c
  let ts := [a.tile, b.tile] ++ a.scale.toList ++ b.scale.toList ++ (if c.fn = 1 then [⟨c.acore, c.cbase, c.ed⟩] else [])
  let here := fun (pa : Nat) => ts.any fun t => tileSpan s t pa
  (s.ms.mem.filter fun x => here x.1, s.ms.poison.filter fun w => here (8 * w))

/-- The state in which a command reads its sources: each word of them is read once, before the first step (R340). -/
def cmdView (s : State) (c : MCmd) : State :=
  match c.snap with
  | some (m, p) => { s with ms := { s.ms with
    mem := m
    poison := p } }
  | none => s

/-- What the dense partner's elements of a sparse chunk flag when they are read, those at pruned positions among them (R122). -/
def sparseFlags (c : MCmd) (m n : Nat) (bad : Nat → Nat → Bool) (bs : List (List (Ex × BitVec 5))) : BitVec 5 :=
  if c.fn ≠ 1 then flNone
  else (List.range n).foldl (fun a j =>
    if (List.range m).all fun i => bad i j then a else a ||| bs.foldl (fun x r => x ||| (r.getD j (.nan, 0)).2) 0) flNone

/-- One K-chunk step of MMA or MMAS (R120-R122, R336, R337); `u` is the state its operands are read in. -/
def stepMmaIn (u s : State) (c : MCmd) : State × MCmd :=
  let g := cmdFmts c
  let m := teRows c.ea
  let n := teCols c.eb
  let lo := 16 * c.step
  let hi := min (lo + 16) (cmdK c)
  let ints := g.fd == 12
  let cf : Option Nat := if ints then none else some 0
  let core := coreOf s c.core
  let bs := (List.range (hi - lo)).map fun x => (List.range n).map fun j => opAt u (cmdB c) cf g.fz g.sat (lo + x) j
  let out := (List.range m).flatMap fun i =>
    let ks := (kept u c i lo hi).map fun k => (k.1, opAt u (cmdA c) cf g.fz g.sat i k.2)
    (List.range n).map fun j =>
      let bad := sumBad u c i j
      let ps := ks.map fun k =>
        let b := (bs.getD (k.1 - lo) []).getD j (.nan, 0)
        let p := exMul k.2.1 b.1
        (p.1, p.2 ||| k.2.2 ||| b.2)
      let old := bankWord core i j
      let r : Nat × BitVec 5 :=
        if bad then (if ints then 0x80000000 else nanCode fp32, flNone)
        else if ints then
          (intCode 32 (decInt 32 true old + ps.foldl (fun a p => a + intOf p.1) 0), flNone)
        else chunkRound g.fz g.sat (decFmt 0 old) ps
      (i * 128 + j, r, bad)
  let fl := out.foldl (fun a o => a ||| o.2.1.2) (c.flags ||| (if ints then flNone else sparseFlags c m n (sumBad u c) bs))
  let s' := setCore s c.core (setBank core (out.map fun o => (o.1, o.2.1.1)))
  (s', { c with
    step := c.step + 1
    flags := fl
    poisoned := if c.poisoned.isNone && out.any (fun o => o.2.2) then some (cmdPoisonVa u c) else c.poisoned })

/-- One K-chunk step, with the sources taken before the first. -/
def stepMma (s : State) (c : MCmd) : State × MCmd :=
  let c := if c.snap.isNone then { c with snap := some (cmdSnap s c) } else c
  stepMmaIn (cmdView s c) s c

/-- MACC's step (R335, R422). -/
def stepMacc (s : State) (c : MCmd) : State × MCmd :=
  let g := cmdFmts c
  let core := coreOf s c.core
  let a := cmdA c
  let out := (List.range (teRows c.ea)).flatMap fun i => (List.range (teCols c.ea)).map fun j =>
    let bad := elemBad s a i j
    let r : Nat × BitVec 5 :=
      if bad then (if g.fa = 12 then 0x80000000 else nanCode fp32, flNone)
      else if g.fa = 12 then (rowElem (tileRow s a.tile i (rowBytes 12 (teCols c.ea))) 32 j, flNone)
      else
        let v := opAt s a (some 0) g.fz g.sat i j
        let e := roundFloat fp32 g.sat v.1
        (e.1, v.2 ||| e.2)
    (i * 128 + j, r, bad)
  (setCore s c.core (setBank core (out.map fun o => (o.1, o.2.1.1))), { c with
    step := 1
    flags := out.foldl (fun x o => x ||| o.2.1.2) c.flags
    poisoned := if out.any (fun o => o.2.2) then some (cmdPoisonVa s c) else c.poisoned })

/-- MST's step (R335): FP64 is computed in FP64, other floating destinations in FP32. -/
def stepMst (s : State) (c : MCmd) : State × MCmd :=
  let g := cmdFmts c
  let core := coreOf s c.core
  let cf : Option Nat := if isIntFmt g.fd then none else if g.fd = 13 then some 13 else some 0
  let rows := (List.range (teRows c.ed)).map fun i => (List.range (teCols c.ed)).map fun j =>
    let w := bankWord core i j
    resultOf cf g.fd g.fz g.sat (decFmt (if cf.isNone then 12 else 0) w)
  (tileWrRows s ⟨c.core, c.cbase, c.ed⟩ (fmtWidth g.fd) 0 (rowVals rows), { c with
    step := 1
    flags := c.flags ||| rowFlags rows })

/-- One step of a command (R335-R337). -/
def stepCmd (s : State) (c : MCmd) : State × MCmd :=
  match c.fn with
  | 2 => (setCore s c.core { coreOf s c.core with bank := [] }, { c with step := 1 })
  | 3 => stepMacc s c
  | 4 => stepMst s c
  | _ => stepMma s c

/-- Steps to the command's end. -/
def runSteps (n : Nat) (s : State) (c : MCmd) : State × MCmd :=
  match n with
  | 0 => (s, c)
  | k + 1 => let r := stepCmd s c; runSteps k r.1 r.2

/-- What a completed command leaves with its fibre: flags, and POISON as a pending failure (R108, R422). -/
def cmdFlags (s : State) (c : MCmd) : State :=
  let s := modFibre s c.fib fun f => orFlags f c.flags
  match c.poisoned with
  | some va => addFailure s c.fib ⟨BitVec.ofNat 6 cPOISON, va⟩
  | none => s

/-- One unit of the bound used (R334). -/
def useBound (s : State) (cl : Nat) : State :=
  let a := arrayOf s cl
  setArray s cl { a with lease := a.lease.map fun l => { l with left := l.left - 1 } }

/-- A command is handed to the array (R334): it runs at issue when the array is idle and the fibre's work is not left to
events. -/
def hand (s : State) (c : MCmd) (parks : Bool) : Eff :=
  let cl := clusterOf s.fib.core
  let s := useBound s cl
  let a := arrayOf s cl
  if a.cmds.isEmpty && !s.sched.defer then
    let r := runSteps (cmdSteps c) s c
    .done (cmdFlags r.1 r.2)
  else
    let s := setArray s cl { a with cmds := a.cmds ++ [c] }
    if parks then .hold .store s else .done s

/-- What keeps a matrix command from issuing once its checks have passed: a tile not ready, readers of the tile it writes,
an engine's words, the fibre's earlier accesses, a command waiting to start (R312, R334, R340, R175, R162). -/
def matrixWait (s : State) (fn : Nat) (n : MNames) : Option Wait :=
  let w := if fn = 4 then n.d else none
  match w with
  | some r => if matrixReads s r.tile.core r.idx && !(arrayOf s (clusterOf s.fib.core)).cmds.all (fun c => c.fib == s.fib.id)
      || copyReads s r.tile.core r.tile (rowBytes (teFmt r.tile.ent) (teCols r.tile.ent)) then some (.readers r.tile.core r.idx)
    else matrixBusy s n
  | none => matrixBusy s n
where
  /-- The waits that every command has. -/
  matrixBusy (s : State) (n : MNames) : Option Wait :=
    if (mTiles n).any fun t => tileOwned s t.tile (rowBytes (teFmt t.tile.ent) (teCols t.tile.ent)) then
      some (.owned ((mTiles n).flatMap fun t => tileUnits s t.tile (rowBytes (teFmt t.tile.ent) (teCols t.tile.ent))))
    else if mustPerform s s.fib then some .accesses
    else if 2 ≤ (arrayOf s (clusterOf s.fib.core)).cmds.length then some .array
    else none

/-- A matrix command (R312, R334): its names, readiness, checks and waits, then its handing over. -/
def matrixExec (i : Instr) (y : Bool) (fn : Nat) (ta tb td : Option Nat) (s : State) : Out :=
  issue s { plainUse i y [] 0 with pfxOk := decide (fn ≠ 2), ctx := leaseHeld true } fun t _ =>
    let src := (arrayOf t (clusterOf t.fib.core)).src.toNat
    let slots := match gangOfFibre t t.fib with
      | some g => g.cores
      | none => []
    let ca := if fn ≤ 1 then slots.getD (src % 16) t.fib.core else t.fib.core
    let cb := slots.getD (src / 16) t.fib.core
    let cd := if fn = 1 then ca else t.fib.core
    let pfx := if fn = 2 then none else pendingPfx t.fib
    match matrixNamesOf t pfx fn ta tb td ca cb cd with
    | .error (c, v) => .trap c v
    | .ok n =>
      match (mTiles n).find? fun r => teState r.tile.ent != 2 with
      | some r => .park (.tile r.tile.core r.idx) t
      | none =>
        match matrixChecks fn (matrixFmts pfx (entOf n.a) (entOf n.b) (entOf n.d) fn) n with
        | some (c, v) => .trap c v
        | none =>
          match matrixWait t fn n with
          | some w => .park w t
          | none => hand t (mkCmd t fn ca cb pfx n) (fn == 4)

/-- MMA (R336). -/
def execMma (y : Bool) (ta tb : BitVec 6) (s : State) : Out :=
  matrixExec (.mma y ta tb) y 0 (some ta.toNat) (some tb.toNat) none s

/-- MMAS (R337). -/
def execMmas (y : Bool) (td ta tb : BitVec 6) (s : State) : Out :=
  matrixExec (.mmas y td ta tb) y 1 (some ta.toNat) (some tb.toNat) (some td.toNat) s

/-- MZERO (R335). -/
def execMzero (y : Bool) (s : State) : Out := matrixExec (.mzero y) y 2 none none none s

/-- MACC (R335). -/
def execMacc (y : Bool) (ta : BitVec 6) (s : State) : Out := matrixExec (.macc y ta) y 3 (some ta.toNat) none none s

/-- MST (R335). -/
def execMst (y : Bool) (td : BitVec 6) (s : State) : Out := matrixExec (.mst y td) y 4 none none (some td.toNat) s

/-- MREL (R338). -/
def execMrel (y : Bool) (s : State) : Out :=
  issue s { plainUse (.mrel y) y [] 0 with ctx := leaseHeld false } fun t _ =>
    let cl := clusterOf t.fib.core
    let a := arrayOf t cl
    .done (setArray t cl { a with
      lease := if a.cmds.isEmpty then none else a.lease.map fun l => { l with rel := true } })

/-- MSTEP's status word (R338). -/
def mstepWord (s : State) (f : Fibre) : Word :=
  let own := fun (a : MArray) => (a.lease.map (·.fib)) == some f.id
  let a := ((s.arrays.find? fun x => own x.2).map (·.2)).getD (arrayOf s (clusterOf f.core))
  let mine := own a
  let held := holdsLease s f
  let left := match a.lease with
    | some l => if mine then l.left else 0
    | none => 0
  let run := if mine then a.cmds.head? else none
  BitVec.ofNat 64 (b1 held * 2 ^ 63 + b1 run.isSome * 2 ^ 62 + left * 2 ^ 40
    + (match run with
      | some c => c.fn * 2 ^ 32 + c.step * 2 ^ 16 + cmdSteps c
      | none => 7 * 2 ^ 32))

/-- MSTEP (R338). -/
def execMstep (y : Bool) (gd : BitVec 4) (s : State) : Out :=
  issue s (plainUse (.mstep y gd) y [] gd) fun t _ => .done (setLong t gd (mstepWord t t.fib) 0)

/-- The array is given back when its run has ended (R338, R339). -/
def giveArray (s : State) (cl : Nat) : State :=
  let a := arrayOf s cl
  match a.lease with
  | some l => if l.rel && a.cmds.isEmpty then setArray s cl { a with lease := none } else s
  | none => s

/-- Whether an instruction or matrix command issued earlier still reads a core's codebook (R115). The formats are those in
force (R118). -/
def bookRead (s : State) (core : Nat) : Bool :=
  (coreOf s core).vec.any (fun j => match j.instr with
    | .vcbk _ _ _ => true
    | _ => false)
  || (arrayOf s (clusterOf core)).cmds.any fun c =>
    (c.fn == 0 || c.fn == 1) && ((c.acore == core && (cmdFmts c).fa == 11) || (c.bcore == core && (cmdFmts c).fb == 11))

/-- Replace a core's codebook (R115). -/
def setBook (s : State) (core : Nat) (b : Tbl (BitVec 32)) : State :=
  let c := coreOf s core
  setCore s core { c with book := b }

/-- CBLD (R329): the image is read at issue; the table is replaced once its earlier readers have finished. -/
def execCbld (y : Bool) (ga : BitVec 4) (la : Bool) (s : State) : Out :=
  let i := Instr.cbld y ga la
  issue s { plainUse i y [(ga, la)] 0 with ctx := noHandler i } fun t v =>
    if !aligned (arg v 0) 64 then .trap cALIGN (arg v 0)
    else readBlock 128 t (arg v 0) [] fun t ws =>
      if !t.sched.defer && !bookRead t t.fib.core then .done (setBook t t.fib.core (bookOf ws))
      else .hold (.codebook (bookOf ws)) t

end Sys2Proof.Machine
end

