-- ==== Sys2Proof/Machine/Belief.lean ====
section
/-! DEFINITION. Gaussian belief propagation: GMSG, GBEL and GMARG of major 0x65 (R222-R232, R341, R415). -/

namespace Sys2Proof.Machine

/-- An exact value rounded to FP64 with the flags so far (R227). -/
def r64 (x : Ex × BitVec 5) : Ex × BitVec 5 :=
  let r := roundEx fp64 false x.1
  (r.1, x.2 ||| r.2)

/-- RoundNE(s - RoundNE(x × y)) (R227). -/
def mulSub (s : Ex × BitVec 5) (x y : Ex) : Ex × BitVec 5 :=
  let p := r64 (exMul x y)
  let d := exAdd s.1 (exNeg p.1)
  r64 (d.1, s.2 ||| p.2 ||| d.2)

/-- RoundNE(s / d) (R227). -/
def divR (s : Ex × BitVec 5) (d : Ex) : Ex × BitVec 5 :=
  let q := exDiv s.1 d
  r64 (q.1, s.2 ||| q.2)

/-- RoundNE(x + y). -/
def addR (x y : Ex) : Ex × BitVec 5 := r64 (exAdd x y)

/-- A list's element, NaN beyond its end. -/
def vAt (v : List Ex) (k : Nat) : Ex := v.getD k .nan

/-- A matrix's element. -/
def mAt (m : List (List Ex)) (r c : Nat) : Ex := vAt (m.getD r []) c

/-- A sum of R227: from `s`, subtract x(q) × y(q) for the positions listed, in order. -/
def mulSubs (s : Ex × BitVec 5) (x y : Nat → Ex) (qs : List Nat) : Ex × BitVec 5 :=
  qs.foldl (fun a q => mulSub a (x q) (y q)) s

/-- A factorisation: L by rows, the pivots, and the flags. -/
structure Fact where
  l : List (List Ex)
  piv : List Ex
  flags : BitVec 5
  deriving DecidableEq, Repr

/-- Chol(A, m, θ) from column `p` on, `n` columns to go (R227): the pivot index on a singular pivot. -/
def cholFrom (n p m : Nat) (a : List (List Ex)) (th : Ex) (f : Fact) : Except Nat Fact :=
  match n with
  | 0 => .ok f
  | k + 1 =>
    let lp := fun q => mAt f.l p q
    let s := mulSubs (mAt a p p, f.flags) lp lp (List.range p)
    if exLt false th s.1 = false then .error p
    else
      let sq := exSqrt s.1
      let d := r64 (sq.1, s.2 ||| sq.2)
      let col := (List.range m).map fun r =>
        if r < p then (exZero, flNone)
        else if r = p then d
        else divR (mulSubs (mAt a r p, flNone) (fun q => mAt f.l r q) lp (List.range p)) d.1
      let l := (List.range m).map fun r => if r < p then f.l.getD r [] else f.l.getD r [] ++ [(col.getD r (.nan, 0)).1]
      cholFrom k (p + 1) m a th ⟨l, f.piv ++ [s.1], d.2 ||| flagsOf col⟩

/-- Chol(A, m, θ) (R227). -/
def chol (m : Nat) (a : List (List Ex)) (th : Ex) : Except Nat Fact :=
  cholFrom m 0 m a th ⟨List.replicate m [], [], flNone⟩

/-- Solve's forward pass (R227). -/
def forwardFrom (n p : Nat) (l : List (List Ex)) (v : List Ex) (z : List Ex × BitVec 5) : List Ex × BitVec 5 :=
  match n with
  | 0 => z
  | k + 1 =>
    let s := divR (mulSubs (vAt v p, z.2) (fun q => mAt l p q) (fun q => vAt z.1 q) (List.range p)) (mAt l p p)
    forwardFrom k (p + 1) l v (z.1 ++ [s.1], s.2)

/-- Solve's backward pass: `y` holds the elements from `p` on. -/
def backwardFrom (p m : Nat) (l : List (List Ex)) (z : List Ex) (y : List Ex × BitVec 5) : List Ex × BitVec 5 :=
  match p with
  | 0 => y
  | k + 1 =>
    let s := divR (mulSubs (vAt z k, y.2) (fun q => mAt l q k) (fun q => vAt y.1 (q - (k + 1)))
      ((List.range (m - (k + 1))).map fun x => k + 1 + x)) (mAt l k k)
    backwardFrom k m l z (s.1 :: y.1, s.2)

/-- Solve(L, v) (R227). -/
def solve (m : Nat) (l : List (List Ex)) (v : List Ex) : List Ex × BitVec 5 :=
  let z := forwardFrom m 0 l v ([], flNone)
  backwardFrom m m l z.1 ([], z.2)

/-- The descriptor's fields (R224). -/
structure GDesc where
  t0 : Nat
  t1 : Nat
  di : Nat
  dj : Nat
  damp : Nat
  flags : Nat
  count : Nat
  b7 : Nat
  thresh : Nat
  slot : BitVec 64
  last : Nat
  deriving DecidableEq, Repr

/-- A descriptor from its four words. -/
def gDesc (ws : List Word) : GDesc :=
  let w := (ws.getD 0 0).toNat
  ⟨nf w 0 8, nf w 8 8, nf w 16 8, nf w 24 8, nf w 32 8, nf w 40 8, nf w 48 8, nf w 56 8, (ws.getD 1 0).toNat, ws.getD 2 0,
    (ws.getD 3 0).toNat⟩

/-- Whether a threshold is finite and at least 0 (R224). -/
def threshOk (v : Nat) : Bool :=
  match decFloat fp64 v with
  | .fin s m _ _ => !s || m == 0
  | _ => false

/-- R226's step 1: `k` 0 GMSG, 1 GBEL, 2 GMARG. -/
def gFieldsOk (k : Nat) (d : GDesc) : Bool :=
  decide (d.t0 < 64) && decide (d.t1 < 64) && decide (1 ≤ d.di) && decide (d.di ≤ 8) && d.b7 == 0 && d.last == 0
    && match k with
      | 0 => decide (1 ≤ d.dj) && decide (d.dj ≤ 8) && decide (d.flags ≤ 1) && d.count == 0 && threshOk d.thresh
      | 1 => d.dj == 0 && d.damp == 0 && d.flags == 0 && d.thresh == 0
      | _ => d.dj == 0 && d.damp == 0 && d.flags == 0 && d.count == 0 && d.slot == 0 && threshOk d.thresh

/-- A tile of a Gaussian block with its dimension (R222). -/
structure GTile where
  num : Nat
  dim : Nat
  deriving DecidableEq, Repr

/-- A tile as far as a block of `n` rows uses it: the rows beyond are neither read nor written (R222). -/
def gPart (t : TileAt) (n : Nat) : TileAt :=
  { t with ent := BitVec.ofNat 64 (t.ent.toNat - (teRows t.ent - 1) * 2 ^ 26 + (n - 1) * 2 ^ 26) }

/-- R226's step 2: TILEUNDEF, the wait, FORMAT, TILESHAPE, for the two tiles; `wr` when the first is written. Where both tiles fail one check
T0 is named (DESIGN CHOICE, log entry 37: R226 and R415 name only "the tile"). -/
def gTiles (s : State) (a b : GTile) (wr : Bool) : Except Eff (TileRef × TileRef) :=
  let f := s.fib
  let look := namedTile s f f.core
  match nameTile look a.num, nameTile look b.num with
  | .error (_, v), _ => .error (.trap (noTile f a.num) v)
  | _, .error (_, v) => .error (.trap (noTile f b.num) v)
  | .ok x, .ok y =>
    match [x, y].find? fun t => teState t.tile.ent != 2 with
    | some t => .error (.park (.tile f.core t.idx) s)
    | none =>
      let fit := fun (t : TileRef) (n : Nat) => decide (n ≤ teRows t.tile.ent) && decide (n + 1 ≤ teCols t.tile.ent)
      match firstFail [(teFmt x.tile.ent == 13, cFORMAT, x.num), (teFmt y.tile.ent == 13, cFORMAT, y.num),
          (fit x a.dim, cTILESHAPE, x.num), (fit y b.dim, cTILESHAPE, y.num)] with
      | some (c, v) => .error (.trap c v)
      | none =>
        if wr && (matrixReads s f.core x.idx || copyReadsEnt s f.core x.tile) then .error (.park (.readers f.core x.idx) s)
        else if tileOwned s (gPart x.tile a.dim) (8 * (a.dim + 1)) || tileOwned s (gPart y.tile b.dim) (8 * (b.dim + 1)) then
          .error (.park (.owned (tileUnits s (gPart x.tile a.dim) (8 * (a.dim + 1)) ++ tileUnits s (gPart y.tile b.dim) (8 * (b.dim + 1)))) s)
        else if mustPerform s f then .error (.park .accesses s)
        else if !(coreOf s f.core).vec.isEmpty then .error (.park .unit s)
        else .ok (x, y)

/-- The block of dimension `n` that a tile holds: rows of η and Λ (R222). -/
def gBlock (s : State) (t : TileAt) (n : Nat) : List (List Ex) :=
  (List.range n).map fun r =>
    let row := tileRow s t r (8 * (n + 1))
    (List.range (n + 1)).map fun c => decFloat fp64 (rowElem row 64 c)

/-- The first poisoned word of a block's elements that are read, those on or below the diagonal (R222, R422). -/
def gPoison (s : State) (f : Fibre) (t : TileAt) (n : Nat) : Option Word :=
  if s.ms.poison.isEmpty then none
  else (((List.range n).flatMap fun i => (List.range (i + 2)).map fun w => tileByte t.base t.ent i (8 * w)).find?
    fun off => sHas s.ms.poison (spadPa s t.core off / 8)).map (windowVa s f t.core)

/-- Write column `c` of a block into a tile. -/
def gWrite (s : State) (t : TileAt) (rows : List (List Ex)) : State :=
  (List.range rows.length).foldl (fun s r =>
    (List.range (rows.getD r []).length).foldl (fun s c =>
      tileWrElem s t 13 r c (roundFloat fp64 false (mAt rows r c)).1) s) s

/-- The bytes of a slot (R223). -/
def slotBytes (d : Nat) : Nat := 8 + 8 * d * (d + 1)

/-- The pitch of a slot array (R223). -/
def slotPitch (d : Nat) : Nat := 64 * ceilDiv (slotBytes d) 64

/-- The physical addresses of `n` words of a slot from its word `k` on, each as the translation of its page gives it. -/
def slotWords (n k : Nat) (s : State) (kind : AccKind) (va : Word) : Except Eff (List Nat) :=
  match n with
  | 0 => .ok []
  | m + 1 =>
    match checkAt s kind 8 (va + BitVec.ofNat 64 (8 * k)) onlySpad with
    | .bad c _ => .error (.trap c va)
    | .wait w t => .error (.park w t)
    | .ok a => match slotWords m (k + 1) s kind va with
      | .error e => .error e
      | .ok r => .ok (a.pa :: r)

/-- R226's step 3 for one slot, header dimension apart: the physical addresses of its words. A slot that begins or goes on at another module
lies there whole, in one piece (DESIGN CHOICE, log entry 37). -/
def slotAt (s : State) (k : AccKind) (d : Nat) (va : Word) : Except Eff (List Nat) :=
  match slotWords (slotBytes d / 8) 0 s k va with
  | .error e => .error e
  | .ok pas =>
    let p := pas.headD 0
    if pas.any (isRemote s) && !(isRemote s p && pas == (List.range pas.length).map fun k => p + 8 * k) then .error (.trap cWINDOW va)
    else if pas.any fun x => owned s x 8 then .error (.park (.owned (pas.map fun x => (x, 8))) s)
    else .ok pas

/-- A slot's word by number, on this module. -/
def slotWord (s : State) (pas : List Nat) (k : Nat) : Word := wordN 8 (mrd s.ms.mem (pas.getD k 0) 8)

/-- The words of a slot of dimension `d` that are read, by number, when its header is `hdr`: the header; where it holds a message (R223) its η;
and, where its precision is used (`all`), the elements on or below the diagonal (R222). -/
def slotRead (d : Nat) (all : Bool) (hdr : Word) : List Nat :=
  if hdr.toNat / 2 ^ 32 = 0 then [0]
  else 0 :: (List.range d).flatMap fun r => (List.range (if all then r + 2 else 1)).map fun c => 1 + r * (d + 1) + c

/-- The first poisoned word of a slot on this module among those that are read (R422). -/
def slotPoison (s : State) (va : Word) (pas : List Nat) (d : Nat) (all : Bool) : Option Word :=
  if s.ms.poison.isEmpty then none
  else ((slotRead d all (slotWord s pas 0)).find? fun k => poisoned s (pas.getD k 0) 8).map fun k => va + BitVec.ofNat 64 (8 * k)

/-- What an instruction does with a slot's header: read at once, or at another module when it has been fetched; a poisoned one raises
POISON (R422). -/
def withHeader (s : State) (pas : List Nat) (va : Word) (go : State → Word → Eff) : Eff :=
  let p := pas.headD 0
  if isRemote s p then fetchFar s p va go
  else if poisoned s p 8 then .trap cPOISON va
  else go s (slotWord s pas 0)

/-- The lower triangle element of a symmetric block's precision (R228). -/
def lam (b : List (List Ex)) (r c : Nat) : Ex := if c ≤ r then mAt b r (1 + c) else mAt b c (1 + r)

/-- The message of R228 by rows (e, then M), and its flags; the pivot index when it is singular. -/
def gMessage (d : GDesc) (fb vb : List (List Ex)) : Except Nat (List (List Ex) × BitVec 5) :=
  let side := d.flags = 1
  let di := if side then d.dj else d.di
  let dj := if side then d.di else d.dj
  let oi := if side then d.di else 0
  let oj := if side then 0 else d.di
  let a := (List.range dj).map fun p => (List.range (p + 1)).map fun q => addR (lam fb (oj + p) (oj + q)) (mAt vb p (1 + q))
  let b := (List.range dj).map fun p => addR (mAt fb (oj + p) 0) (mAt vb p 0)
  match chol dj (rowVals a) (decFloat fp64 d.thresh) with
  | .error p => .error p
  | .ok f =>
    let y0 := solve dj f.l (b.map (·.1))
    let ys := (List.range di).map fun l => solve dj f.l ((List.range dj).map fun q => lam fb (oj + q) (oi + l))
    let coef := fun k q => lam fb (oi + k) (oj + q)
    let e := (List.range di).map fun k => mulSubs (mAt fb (oi + k) 0, flNone) (coef k) (vAt y0.1) (List.range dj)
    let m := (List.range di).map fun k => (List.range (k + 1)).map fun l =>
      mulSubs (lam fb (oi + k) (oi + l), flNone) (coef k) (vAt (ys.getD l ([], 0)).1) (List.range dj)
    let mv := rowVals m
    let rows := (List.range di).map fun k =>
      (e.getD k (.nan, 0)).1 :: (List.range di).map fun l => if l ≤ k then mAt mv k l else mAt mv l k
    .ok (rows, rowFlags a ||| flagsOf b ||| f.flags ||| y0.2 ||| ys.foldl (fun x y => x ||| y.2) 0 ||| flagsOf e ||| rowFlags m)

/-- One damped value (R229). -/
def dampVal (k n : Nat) (x p : Ex) : Ex × BitVec 5 :=
  if n ≠ 0 ∧ k ≠ 0 then
    let a := exMul (exInt ((256 - k : Nat) : Int)) x
    let b := exMul (exInt (k : Int)) p
    let t := exAdd a.1 b.1
    let q := exMul t.1 (.fin false 1 (-8) false)
    r64 (q.1, a.2 ||| b.2 ||| t.2 ||| q.2)
  else (x, flNone)

/-- The number in a slot's DATA of the value that stands for value `k`: an element above the diagonal is read below it (R222). -/
def lowIdx (d k : Nat) : Nat :=
  let r := k / (d + 1)
  let c := k % (d + 1)
  if c ≤ r + 1 then k else (c - 1) * (d + 1) + 1 + r

/-- GMSG's write of its slot at its home (R229) and its result: the damped message, the residual, then the header, left full. -/
def slotWrite (s : State) (core : Nat) (j : SlotJob) : State × Word × BitVec 5 :=
  let hdr := (slotWord s j.pas 0).toNat
  let n := hdr / 2 ^ 32
  let ps := (List.range (j.dim * (j.dim + 1))).map fun k => decFloat fp64 (slotWord s j.pas (1 + lowIdx j.dim k)).toNat
  let xs := j.vals.map fun v => decFloat fp64 v.toNat
  let ds := List.zipWith (dampVal j.damp n) xs ps
  let r := (List.range j.dim).foldl (fun (a : Ex × BitVec 5) k =>
    let i := k * (j.dim + 1)
    let p := if n = 0 then exZero else vAt ps i
    let d := addR (ds.getD i (.nan, 0)).1 (exNeg p)
    let q := r64 (exMul d.1 d.1)
    let t := addR a.1 q.1
    (t.1, a.2 ||| d.2 ||| q.2 ||| t.2)) (exZero, flNone)
  let codes := ds.map fun x => (roundFloat fp64 false x.1).1
  let fl := j.flags ||| flagsOf ds ||| r.2
  let res := BitVec.ofNat 64 (roundFloat fp64 false r.1).1
  let hdr' := BitVec.ofNat 64 (hdr % 2 ^ 32 + (n + 1) % 2 ^ 32 * 2 ^ 32)
  let pa := j.pas.headD 0
  let put := fun (s : State) (a v : Nat) => (scStoreTs (wrHome s a 8 v) (a / 8 * 8) (clockOf s core)).2
  let s := exchange s core (spadCore pa)
  let s := (List.range codes.length).foldl (fun s k => put s (j.pas.getD (1 + k) 0) (codes.getD k 0)) s
  (setFull (put s pa hdr'.toNat) pa true, res, fl)

/-- Whether a GMSG's wait has ended (R229, R230): the slot empty or overwritable, and none waiting that came before (R145). -/
def slotFree (s : State) (j : SlotJob) : Bool := feReady s 6 (j.pas.headD 0) && !feBehind s j.id 6 (j.pas.headD 0)

/-- Whether a slot's scratchpad has room for a waiting GMSG (R145). -/
def slotRoom (s : State) (j : SlotJob) : Bool := decide (feWaiting s (spadCore (j.pas.headD 0)) < 64)

/-- The request of a GMSG whose slot is at another module: a release at module pairs' scope, its damping, dimension and flags beside
the message (log entry 13). -/
def slotReq (s : State) (j : SlotJob) : Req :=
  withOrder s { mkReq s .feStore 6 8 ⟨j.pas.headD 0, 2, 0, 2, false, 0, 0, 0⟩ j.va with
    data := BitVec.ofNat 64 (j.damp + j.dim * 256)
    expect := zext j.flags
    sent := true } none (some 5) false

/-- GMSG once its message is computed: the header's write is a release at the S of R166 (R229), and a poisoned word of the message it replaces
raises POISON before anything is written (R422). At another module the slot is written there,
and the message goes with the request (log entry 13). -/
def sendSlot (s : State) (gd : Reg) (j : SlotJob) : Eff :=
  let f := s.fib
  let pa := j.pas.headD 0
  if isRemote s pa then
    match unreachable s (paMod pa) with
    | some c => .done (setFailed s gd c j.va)
    | none =>
      let r := slotReq s j
      let s := relEffect { s with
        ms := { s.ms with reqs := s.ms.reqs ++ [r] }
        sched := { s.sched with nextId := s.sched.nextId + 1 } } r
      .hold (.req r.id) (sendPacket s (mkPacket s r.core (podIdent s (paMod pa) (remoteAgent pa)) 2 r.ten r.id 5 true (reqArea r false)
        (j.vals.flatMap fun v => leBytes 8 v.toNat)))
  else
    let s := releaseAt s f.ident.tenant f.core (feScope s f.core pa)
    if slotFree s j && !s.sched.defer then
      match slotPoison s j.va j.pas j.dim (j.damp != 0) with
      | some v => .trap cPOISON v
      | none =>
        let r := slotWrite s f.core j
        .done (setLong r.1 gd r.2.1 r.2.2)
    else if slotRoom s j then .hold (.slot j) s
    else .park (.refused (spadCore pa)) s

/-- In a handler, which holds no tiles: TILEUNDEF with T0 (R341, R415), fetched where the descriptor lies on another module; a free value
where T0 cannot be read (DESIGN CHOICE, log entry 37). -/
def handlerTile (s : State) (da : Word) : Eff :=
  let name := fun (v : Word) => Eff.trap cTILEUNDEF v
  let free := name (Config.freeWord s.sched.free)
  match translateFibre s s.fib .load da.toNat with
  | .ok a =>
    let p := a.pa / 8 * 8
    if isOwnMem s a.pa then name (BitVec.ofNat 64 (rdVia s s.fib.core true a.pa 1 % 64))
    else if !isRemote s a.pa then free
    else match s.fib.words.find? fun w => w.pa == p && w.op == 0 with
      | some w =>
        if !w.here then .park .fetch s
        else if w.cause ≠ 0 then free
        else name (BitVec.ofNat 64 (w.val.toNat / 2 ^ (a.pa % 8 * 8) % 64))
      | none => if (unreachable s (paMod p)).isSome then free else .park .fetch (askFar s p da)
  | _ => free

/-- GMSG (R224-R230): the slot's header is read before the tiles' elements, so POISON of an element (R422) comes after its TILESHAPE and before
SINGULAR (DESIGN CHOICE, log entry 37). -/
def execGmsg (y : Bool) (gd ga : BitVec 4) (la : Bool) (s : State) : Out :=
  let i := Instr.gmsg y gd ga la
  issue s { plainUse i y [(ga, la)] gd with fail := true } fun t v =>
    let da := arg v 0
    if t.fib.ident.kind = .handler then handlerTile t da
    else if !aligned da 32 then .trap cALIGN da
    else readBlock 4 t da [] fun t ws =>
      let d := gDesc ws
      if !gFieldsOk 0 d then .trap cRESBITS da
      else
        let di := if d.flags = 1 then d.dj else d.di
        let dj := if d.flags = 1 then d.di else d.dj
        match gTiles t ⟨d.t0, d.di + d.dj⟩ ⟨d.t1, dj⟩ false with
        | .error e => e
        | .ok (x, z) =>
          match slotAt t .store di d.slot with
          | .error e => e
          | .ok pas =>
            withHeader t pas d.slot fun t hdr =>
              if hdr.toNat % 16 ≠ di then .trap cTILESHAPE d.slot
              else match gPoison t t.fib x.tile (d.di + d.dj), gPoison t t.fib z.tile dj with
                | some p, _ => .trap cPOISON p
                | _, some p => .trap cPOISON p
                | none, none =>
                  match gMessage d (gBlock t x.tile (d.di + d.dj)) (gBlock t z.tile dj) with
                  | .error p => .trap cSINGULAR (BitVec.ofNat 64 p)
                  | .ok (rows, fl) =>
                    if !allPerformed t t.fib.id then .park .accesses t
                    else
                      let (n, t) := freshId t
                      let vals := rows.flatMap fun r => r.map fun x => BitVec.ofNat 64 (roundFloat fp64 false x).1
                      sendSlot t gd ⟨n, d.slot, pas, di, d.damp, vals, fl⟩

/-- The slots of an array by address (R231). -/
def slotArray (s : State) (d n : Nat) (va : Word) (acc : List (Word × List Nat)) : Except Eff (List (Word × List Nat)) :=
  match n with
  | 0 => .ok acc
  | k + 1 =>
    match slotAt s .atomic d va with
    | .error e => .error e
    | .ok pas => slotArray s d k (va + BitVec.ofNat 64 (slotPitch d)) (acc ++ [(va, pas)])

/-- A request for a whole slot of another module: read and emptied there in one step (8), or only looked at (9); the words in whose name the
answer comes back are `ks` (R231). -/
def askSlot (s : State) (op fop d : Nat) (pas : List Nat) (ks : List Nat) (va : Word) : State :=
  let r := { blankReq s s.fib.core s.fib.ident.tenant .feLoad op 8 (pas.headD 0) va with
    data := BitVec.ofNat 64 d
    mon := s.fib.pl == 2 }
  let s := sendReq { s with sched := { s.sched with nextId := s.sched.nextId + 1 } } r false
  { s with fib := { s.fib with
    words := s.fib.words ++ ks.map fun p => ⟨.fibre s.fib.id, p, fop, r.id, false, 0, 0, false⟩ } }

/-- A word of a slot as GBEL has it from another module, or has taken it (2), or looked at it (4). -/
def slotFar (s : State) (fop pa : Nat) : Option FarWord := s.fib.words.find? fun w => w.pa == pa && w.op == fop

/-- The header of one of GBEL's slots, and the first poisoned word that it reads there, the slot's address at another module. -/
def lookSlot (s : State) (d : Nat) (x : Word × List Nat) (go : State → Word → Option Word → Eff) : Eff :=
  let p := x.2.headD 0
  if !isRemote s p then withHeader s x.2 x.1 fun s hdr => go s hdr (slotPoison s x.1 x.2 d true)
  else match slotFar s 4 p with
    | some w => if !w.here then .park .fetch s else if w.cause ≠ 0 then .report w.cause x.1 else go s w.val (if w.bad then some x.1 else none)
    | none => match unreachable s (paMod p) with
      | some c => .trap c x.1
      | none => .park .fetch (askSlot s 9 4 d x.2 [p] x.1)

/-- The headers of an array's slots, each with the dimension expected (R226, R415), and the first poisoned word that is read of them. -/
def slotHeaders (s : State) (d : Nat) (xs : List (Word × List Nat)) (bad : Option Word) (go : State → Option Word → Eff) : Eff :=
  match xs with
  | [] => go s bad
  | x :: r => lookSlot s d x fun s hdr b =>
    if hdr.toNat % 16 ≠ d then .trap cTILESHAPE x.1 else slotHeaders s d r (bad <|> b) go

/-- A slot of this module is read and, when full, emptied (R231): what it held goes with the instruction's other words. -/
def takeHere (s : State) (pas : List Nat) : State :=
  let pa := pas.headD 0
  let full := isFull s pa
  let ws := pas.map fun p => FarWord.mk (.fibre s.fib.id) p 2 0 true 0 (wordN 8 (mrd s.ms.mem p 8)) (p == pa && full)
  let s := exchange s s.fib.core (spadCore pa)
  let s := if full then setFull (acquireAt s s.fib.ident.tenant s.fib.core (feScope s s.fib.core pa)) pa false else s
  { s with fib := { s.fib with words := s.fib.words ++ ws } }

/-- One slot summed into a belief (R231): the state, the belief with its flags, the count of full slots, and the slots summed before. -/
def gSlot (d : Nat) (a : State × List (List (Ex × BitVec 5)) × List Nat × List Nat) (x : Word × List Nat) :
    State × List (List (Ex × BitVec 5)) × List Nat × List Nat :=
  let s := a.1
  let pa := x.2.headD 0
  let word := fun (k : Nat) => ((slotFar s 2 (x.2.getD k 0)).map (·.val)).getD 0
  let full := ((slotFar s 2 pa).map (·.bad)).getD false && !a.2.2.2.contains pa
  let hdr : Nat := (word 0).toNat
  let b := if hdr / 2 ^ 32 = 0 then a.2.1
    else (List.range d).map fun r => (List.range (d + 1)).map fun c =>
      let e := (a.2.1.getD r []).getD c (.nan, 0)
      if c = 0 ∨ c ≤ r + 1 then
        let y := addR e.1 (decFloat fp64 (word (1 + r * (d + 1) + c)).toNat)
        (y.1, e.2 ||| y.2)
      else e
  let s := if full && isRemote s pa then acquireAt s s.fib.ident.tenant s.fib.core (feScope s s.fib.core pa) else s
  (s, b, if full then pa :: a.2.2.1 else a.2.2.1, pa :: a.2.2.2)

/-- A block with its lower triangle mirrored. -/
def mirror (n : Nat) (b : List (List Ex)) : List (List Ex) :=
  (List.range n).map fun r => mAt b r 0 :: (List.range n).map fun c => lam b r c

/-- GBEL once its checks have passed (R231): the slots `todo` are read and emptied in increasing address, at another module in one step there;
then their sum is written. A slot that fails or is poisoned only now, after another has been emptied, is a failure found after issue, under
the register written (R399; DESIGN CHOICE, log entry 37). -/
def beliefEff (s : State) (gd : Reg) (d : Nat) (slots : List (Word × List Nat)) (t : TileAt) (prior : List (List Word))
    (todo : List (Word × List Nat)) : Eff :=
  let wait := fun (w : Wait) (s : State) => Eff.later w (.belief d slots t.core t.base t.ent prior) s
  match todo with
  | [] =>
    let b0 := prior.map fun r => r.map fun e => (decFloat fp64 e.toNat, flNone)
    let r := slots.foldl (gSlot d) (s, b0, [], [])
    .done (setLong (gWrite r.1 t (mirror d (rowVals r.2.1))) gd (BitVec.ofNat 64 r.2.2.1.length) (rowFlags r.2.1))
  | x :: r =>
    let pa := x.2.headD 0
    match slotFar s 2 pa with
    | some w =>
      if !w.here then wait .fetch s
      else if w.cause ≠ 0 then .done (setFailed s gd w.cause x.1)
      else beliefEff s gd d slots t prior r
    | none =>
      if isRemote s pa then
        match unreachable s (paMod pa) with
        | some c => .done (setFailed s gd c x.1)
        | none => wait .fetch (askSlot s 8 2 d x.2 x.2 x.1)
      else if x.2.any fun p => owned s p 8 then wait (.owned (x.2.map fun p => (p, 8))) s
      else match slotPoison s x.1 x.2 d true with
        | some v => .done (setFailed s gd cPOISON v)
        | none => beliefEff (takeHere s x.2) gd d slots t prior r

/-- The codes of the block of dimension `n` that a tile holds (R222). -/
def gCodes (s : State) (t : TileAt) (n : Nat) : List (List Word) :=
  (List.range n).map fun r =>
    let row := tileRow s t r (8 * (n + 1))
    (List.range (n + 1)).map fun c => BitVec.ofNat 64 (rowElem row 64 c)

/-- GBEL (R231): every header is checked before any slot is read (R415); POISON comes after them, the prior's first (DESIGN CHOICE, log
entry 37). -/
def execGbel (y : Bool) (gd ga : BitVec 4) (la : Bool) (s : State) : Out :=
  let i := Instr.gbel y gd ga la
  issue s { plainUse i y [(ga, la)] gd with fail := true } fun t v =>
    let da := arg v 0
    if t.fib.ident.kind = .handler then handlerTile t da
    else if !aligned da 32 then .trap cALIGN da
    else readBlock 4 t da [] fun t ws =>
      let d := gDesc ws
      if !gFieldsOk 1 d then .trap cRESBITS da
      else match gTiles t ⟨d.t0, d.di⟩ ⟨d.t1, d.di⟩ true with
        | .error e => e
        | .ok (x, z) =>
          match slotArray t d.di (d.count + 1) d.slot [] with
          | .error e => e
          | .ok slots =>
            slotHeaders t d.di slots none fun t bad =>
              match gPoison t t.fib z.tile d.di <|> bad with
              | some p => .trap cPOISON p
              | none => beliefEff t gd d.di slots x.tile (gCodes t z.tile d.di) slots

/-- The least of some values that are not NaN. -/
def leastOf (xs : List Ex) : Ex := xs.foldl (fun a x => exMin a x) (.inf false)

/-- GMARG (R232). -/
def execGmarg (y : Bool) (gd ga : BitVec 4) (la : Bool) (s : State) : Out :=
  let i := Instr.gmarg y gd ga la
  issue s (plainUse i y [(ga, la)] gd) fun t v =>
    let da := arg v 0
    if t.fib.ident.kind = .handler then handlerTile t da
    else if !aligned da 32 then .trap cALIGN da
    else readBlock 4 t da [] fun t ws =>
      let d := gDesc ws
      if !gFieldsOk 2 d then .trap cRESBITS da
      else match gTiles t ⟨d.t0, d.di⟩ ⟨d.t1, d.di⟩ true with
        | .error e => e
        | .ok (x, z) =>
          match gPoison t t.fib z.tile d.di with
          | some p => .trap cPOISON p
          | none =>
            let b := gBlock t z.tile d.di
            match chol d.di ((List.range d.di).map fun r => (List.range (r + 1)).map fun c => mAt b r (1 + c))
                (decFloat fp64 d.thresh) with
            | .error p => .trap cSINGULAR (BitVec.ofNat 64 p)
            | .ok f =>
              let mu := solve d.di f.l ((List.range d.di).map fun r => mAt b r 0)
              let cols := (List.range d.di).map fun l =>
                solve d.di f.l ((List.range d.di).map fun q => if q = l then exInt 1 else exZero)
              let low := (List.range d.di).map fun r => vAt mu.1 r :: (List.range (r + 1)).map fun c => vAt (cols.getD c ([], 0)).1 r
              let fl := f.flags ||| mu.2 ||| cols.foldl (fun a c => a ||| c.2) 0
              let t := gWrite t x.tile (mirror d.di low)
              .done (setLong t gd (BitVec.ofNat 64 (roundFloat fp64 false (leastOf f.piv)).1) fl)

end Sys2Proof.Machine
end

