-- ==== Sys2Proof/Machine/Engine.lean ====
section
/-! DEFINITION. What the engines share: the memory side of a command as translated at issue, moving words, and completion
words (R174-R177, R343, R353, R422). -/

namespace Sys2Proof.Machine

/-- A piece of at most 8 bytes that an engine reads or writes. -/
structure Piece where
  pa : Nat
  n : Nat
  cp : BitVec 2
  gr : BitVec 2
  win : Bool
  deriving DecidableEq, Repr

/-- Pieces of 8 bytes, the last one shorter when the length asks for it. -/
def chunk8 (pa n : Nat) (cp gr : BitVec 2) (win : Bool) : List Piece :=
  (List.range (ceilDiv n 8)).map fun k => ⟨pa + 8 * k, min 8 (n - 8 * k), cp, gr, win⟩

/-- The pieces of runs in order. -/
def runPieces (rs : List Run) : List Piece := rs.flatMap fun r => chunk8 r.pa r.n r.cp r.gr r.win

/-- The pieces of a tile's rows of `rb` bytes (R143). -/
def tilePieces (s : State) (core base : Nat) (e : BitVec 64) (rb : Nat) : List Piece :=
  (List.range (teRows e)).flatMap fun i => (List.range (ceilDiv rb 8)).map fun w =>
    ⟨spadPa s core (tileByte base e i (8 * w)), min 8 (rb - 8 * w), 2, 0, false⟩

/-- Whether a scratchpad byte of this module still lies in a reservation that a command may reach: of its tenant, or of any tenant or the
device monitor's own when it was given at device monitor level (R146, R353). -/
def spadHeld (s : State) (ten : BitVec 4) (mon : Bool) (pa : Nat) : Bool := mayReach s ten (if mon then 2 else 0) pa

/-- Who reads and writes: the owner of the words that come from other modules, the core in whose name the engine works, the tenant, and
whether the command was given at device monitor level. -/
structure Agent where
  owner : FarOwner
  core : Nat
  ten : BitVec 4
  mon : Bool
  deriving DecidableEq, Repr

/-- The current fibre as the reader of what its instruction takes at issue. -/
def fibreAgent (s : State) : Agent := ⟨.fibre s.fib.id, s.fib.core, s.fib.ident.tenant, s.fib.pl == 2⟩

/-- A request in an engine's name. -/
def engReq (s : State) (e : Agent) (kind : ReqKind) (p : Piece) (pol : BitVec 2) (v : Nat) : Req :=
  { blankReq s e.core e.ten kind 0 p.n p.pa 0 with
    cp := p.cp
    gr := p.gr
    pol := if p.cp = 1 ∧ pol ≠ 3 then 1 else pol
    data := BitVec.ofNat 64 v
    mon := e.mon }

/-- A word of another module that an owner has asked for. -/
def farOf (s : State) (o : FarOwner) (op pa : Nat) : Option FarWord :=
  (match o with
    | .fibre _ => s.fib.words
    | _ => s.ms.far).find? fun w => w.owner == o && w.pa == pa && w.op == op

/-- An owner asks another module for a piece. -/
def askPiece (s : State) (e : Agent) (p : Piece) : State :=
  match e.owner with
  | .fibre _ => askFar s p.pa 0
  | _ => sendFar s e.owner 0 (engReq s e .load p 0 0) (srcIdent s e.core)

/-- The words of an owner go: its command has ended. -/
def dropFar (s : State) (o : FarOwner) : State :=
  { s with ms := { s.ms with far := s.ms.far.filter fun w => w.owner != o } }

/-- Pieces of other modules are asked for, once each (R174, R353): the state, and whether all of them have come. A module that cannot be
reached is not asked. -/
def gather (s : State) (e : Agent) (ps : List Piece) : State × Bool :=
  let far := ps.filter fun p => isRemote s p.pa
  let miss := far.filter fun p => (farOf s e.owner 0 p.pa).isNone && (unreachable s (paMod p.pa)).isNone
  if miss.isEmpty then (s, far.all fun p => match farOf s e.owner 0 p.pa with
    | some w => w.here
    | none => true)
  else (miss.foldl (fun s p => askPiece s e p) s, false)

/-- Why an engine's read or write of a piece of this module fails (R353): a word that no longer lies in a reservation or allocation of the
tenant, one whose allocation in the switch window has been freed (R371), or one whose memory is lost. -/
def engBad (s : State) (e : Agent) (p : Piece) : Option Nat :=
  if regionOf p.pa = 3 ∧ spadHeld s e.ten e.mon p.pa = false then some cWINDOW
  else if p.win && (allocAt s e.ten (p.pa % 2 ^ 30)).isNone then some cXNP
  else if !e.mon && switchOther s e.ten p.pa then some cWINDOW
  else if homeLost s p.pa then some cLOST
  else none

/-- One source piece read once (R174): a cause, or the value and whether it is poisoned (R353, R422); a word of another module is the one
that came from there. Memory of the host reads as a free value (log entry 11). -/
def engRead (s : State) (e : Agent) (pol : BitVec 2) (p : Piece) : Except Nat (State × Nat × Bool) :=
  if isRemote s p.pa then
    match farOf s e.owner 0 p.pa with
    | some w => if w.bad || w.cause == 0 then .ok (s, w.val.toNat % 2 ^ (8 * p.n), w.bad) else .error w.cause
    | none => .error ((unreachable s (paMod p.pa)).getD cLOST)
  else if regionOf p.pa = 4 then let f := takeFree s; .ok (f.2, f.1.toNat % 2 ^ (8 * p.n), false)
  else match engBad s e p with
    | some c => .error c
    | none =>
      let bad := poisoned s p.pa p.n
      let r := performLoad s (engReq s e .load p pol 0)
      .ok (r.1, r.2, bad)

/-- One destination piece of this module or the host written (R175, R422). -/
def engWrite (s : State) (e : Agent) (pol : BitVec 2) (p : Piece) (v : Nat) (bad : Bool) : Except Nat State :=
  if regionOf p.pa = 4 then
    .ok { s with host := { s.host with writes := s.host.writes ++ [(p.pa % 2 ^ 48, p.n, BitVec.ofNat 64 v)] } }
  else match engBad s e p with
    | some c => .error c
    | none =>
      let s := performStore s (engReq s e .store p pol v)
      .ok (if bad then markBad s e.core (p.pa / 8) else s)

/-- A WINDOW that an engine finds on this module counts for its tenant (R439). -/
def engFound (s : State) (e : Agent) (p : Piece) (c : Nat) : State := if isRemote s p.pa then s else countWindow s e.ten c

/-- Move source pieces to destination pieces in order (R349, R353): the state, the bytes moved, and the cause that stopped
it or 0. `sp` and `dp` are the policies of the two sides. -/
def moveWords (s : State) (e : Agent) (sp dp : BitVec 2) (src dst : List Piece) (moved : Nat) :
    State × Nat × Nat :=
  match src, dst with
  | a :: x, b :: y =>
    match engRead s e sp a with
    | .error c => (engFound s e a c, moved, c)
    | .ok (t, v, bad) =>
      match engWrite t e dp b v bad with
      | .error c => (engFound t e b c, moved, c)
      | .ok u => moveWords u e sp dp x y (moved + b.n)
  | _, _ => (s, moved, 0)

/-- A scratchpad word of this module stored by an engine, with the timestamp of a store at its home (R169). -/
def putWord (s : State) (core pa v : Nat) : State :=
  let s := exchange s core (spadCore pa)
  (scStoreTs (wrHome s pa 8 v) (pa / 8 * 8) (clockOf s core)).2

/-- A word of this module or another stored full (R176); dropped when it no longer lies in a reservation that its command may reach. -/
def putFull (s : State) (core : Nat) (ten : BitVec 4) (mon : Bool) (scope : BitVec 4) (pa v : Nat) : State :=
  if regionOf pa ≠ 3 then s
  else if isRemote s pa then sendWord s .nobody core ten pa 0 (BitVec.ofNat 64 v) scope
  else if spadHeld s ten mon pa then setFull (putWord s core pa v) pa true
  else s

/-- A completion word (R176): written full, as a release of a core at a scope whose level was read at issue (R158). -/
def stampWord (s : State) (core : Nat) (ten : BitVec 4) (mon : Bool) (scope : BitVec 4) (lv pa v : Nat) : State :=
  putFull (releaseCopies s core lv) core ten mon scope pa v

/-- A completion word at a scope that is read now. -/
def fullWord (s : State) (core : Nat) (ten : BitVec 4) (mon : Bool) (scope : BitVec 4) (pa : Nat) (v : Nat) : State :=
  stampWord s core ten mon scope (scopeLevel s ten core scope) pa v

/-- The pages of a side from `va`, each with its access (R128, R349): the first that fails is reported by its page for a
copy, and otherwise by the address that fails. -/
def sidePages (pg : Bool) (fuel : Nat) (s : State) (k : AccKind) (va n : Nat) (acc : List (Nat × Acc × Nat)) :
    Except Eff (List (Nat × Acc × Nat)) :=
  match fuel with
  | 0 => .ok acc
  | m + 1 =>
    if n = 0 then .ok acc
    else
      let va := va % 2 ^ 64
      let len := min n (65536 - va % 65536)
      let bad := fun (c : Nat) => Except.error (Eff.trap c (BitVec.ofNat 64 (if pg then va / 65536 * 65536 else va)))
      match translateFibre s s.fib k va with
      | .bad c => bad c
      | .ring => .error (.park (.ring (BitVec.ofNat 64 va)) s)
      | .miss => let w := askHome s (BitVec.ofNat 64 va); .error (.park w.1 w.2)
      | .ok a =>
        if outOfReach s s.fib a.pa || outOfReach s s.fib (a.pa + len - 1) then bad cWINDOW
        else if attrRefused s a then bad cXPROT
        else sidePages pg m s k (va + len) (n - len) (acc ++ [(va, a, len)])

/-- The pages of a list of rows. -/
def sideRows (pg : Bool) (s : State) (k : AccKind) (rows : List (Nat × Nat)) (acc : List (Nat × Acc × Nat)) :
    Except Eff (List (Nat × Acc × Nat)) :=
  match rows with
  | [] => .ok acc
  | r :: t =>
    match sidePages pg (r.2 / 65536 + 2) s k r.1 r.2 acc with
    | .error e => .error e
    | .ok x => sideRows pg s k t x

/-- Whether a translation led through the switch window (R369): switch memory without a leaf. -/
def throughWindow (a : Acc) : Bool := regionOf a.pa == 2 && a.leaf == 0

/-- A side's runs. -/
def sideRuns (ps : List (Nat × Acc × Nat)) : List Run :=
  ps.map fun p => ⟨p.2.1.pa, p.2.2, p.2.1.cp, p.2.1.gr, throughWindow p.2.1⟩

/-- The pages of an engine's side that an agent of a tenant reaches from `va` on by a translation (R128, R214): its runs, and the cause
that stops them or 0. -/
def agentRuns (fuel : Nat) (s : State) (ten : BitVec 4) (pl : BitVec 2) (tr : Nat → Trans) (own : Acc → Option Nat) (va n : Nat)
    (acc : List Run) : List Run × Nat :=
  match fuel with
  | 0 => (acc, 0)
  | m + 1 =>
    if n = 0 then (acc, 0)
    else
      let len := min n (65536 - va % 65536)
      match tr va with
      | .ok a =>
        match own a with
        | some c => (acc, c)
        | none =>
          if regionOf a.pa = 3 ∧ isRemote s a.pa = false ∧ !(mayReach s ten pl a.pa && mayReach s ten pl (a.pa + len - 1)) then (acc, cWINDOW)
          else if pl ≠ 2 ∧ switchOther s ten a.pa = true then (acc, cWINDOW)
          else if attrRefused s a then (acc, cXPROT)
          else agentRuns m s ten pl tr own ((va + len) % 2 ^ 64) (n - len) (acc ++ [⟨a.pa, len, a.cp, a.gr, throughWindow a⟩])
      | .bad c => (acc, c)
      | _ => (acc, cXNP)

/-- The least standard scope that holds a core of this module and an identity's core (R214, R363). -/
def scopeToIdent (s : State) (core : Nat) (i : BitVec 26) : BitVec 4 :=
  if idPod i ≠ s.dev.pod.toNat then 6
  else if idMod i ≠ ownMod s then 5
  else if idAgent i < 1024 then scopeOfCores core (idAgent i) else 4

end Sys2Proof.Machine
end

