-- ==== Sys2Proof/Machine/CopyEng.lean ====
section
/-! DEFINITION. The copy engine and kick notices: CPYQ, KICK, CPYWAIT and CPYSTAT, and the steps of their engine (R214,
R348-R356, R416). -/

namespace Sys2Proof.Machine

/-- A fibre's gang slot k: its core, the base of the reservation there and its length; for a gangless fibre slot 0 is its
own core (R129, R349), none of which the boot fibre reaches below device monitor level (R236). -/
def slotOf (s : State) (f : Fibre) (k : Nat) : Option (Nat × Nat × Nat) :=
  if gangless f then (if k = 0 then some (f.core, 0, if bootBelow f then 0 else 2 ^ 20) else none)
  else match gangOfFibre s f with
    | none => none
    | some g =>
      if k < g.cores.length ∧ holdsCores g ∧ clusterOf (g.cores.getD 0 0) = clusterOf f.core then
        some (g.cores.getD k 0, g.spad.getD k 0, resLen g k)
      else none

/-- The fields of a request's words 2 and 3 (R348). -/
structure CopyReq where
  kind : Nat
  drain : Bool
  sten : Bool
  scope : Nat
  stslot : Nat
  pol : Nat
  rsv : Bool
  stoff : Nat
  tile : Nat
  trsv : Nat
  mpitch : Nat
  pslot : Nat
  poff : Nat
  plen : Nat
  deriving DecidableEq, Repr

/-- A request's fields (R348). -/
def copyReq (b : Word) : CopyReq :=
  let w2 := b.toNat % 2 ^ 32
  let w3 := b.toNat / 2 ^ 32
  ⟨nf w3 30 2, nb w3 29, nb w3 28, nf w3 24 4, nf w3 20 4, nf w3 18 2, nb w3 17, nf w3 0 17, nf w2 26 6, nf w2 24 2, nf w2 0 24,
    nf w2 28 4, nf w2 14 14, nf w2 0 14⟩

/-- Whether a request breaks R348 (R349). -/
def copyReserved (r : CopyReq) (nbk : Bool) : Bool :=
  r.rsv || (r.drain && r.kind != 1) || (decide (r.kind ≤ 1) && r.trsv != 0)
    || (if r.sten then r.scope == 0 || r.scope == 7 else r.scope != 0) || (nbk && !r.sten)

/-- The stamp word of a request: its physical address, or the trap (R349). -/
def copyStamp (s : State) (r : CopyReq) : Except (Nat × Word) Nat :=
  if !r.sten then .ok 0
  else match slotOf s s.fib r.stslot with
    | none => .error (cTILEUNDEF, BitVec.ofNat 64 (r.stslot + 64))
    | some (core, base, len) =>
      if len < 8 * r.stoff + 8 then .error (cWINDOW, BitVec.ofNat 64 (8 * r.stoff))
      else .ok (spadPa s core (base + 8 * r.stoff))

/-- The scratchpad side of a request, and the rows of its memory side by address and length (R349). -/
structure CopySide where
  home : Nat
  base : Nat
  len : Nat
  idx : Nat
  ent : BitVec 64
  rows : List (Nat × Nat)
  deriving DecidableEq, Repr

/-- The checks of the two sides' shapes (R349). -/
def copySide (s : State) (r : CopyReq) (a : Word) : Except (Nat × Word) CopySide :=
  if r.kind ≤ 1 then
    match namedTile s s.fib s.fib.core r.tile with
    | none => .error (noTile s.fib r.tile, BitVec.ofNat 64 r.tile)
    | some (k, t) =>
      let rb := rowBytes (teFmt t.ent) (teCols t.ent)
      let st := if r.mpitch = 0 then 8 * ceilDiv rb 8 else 8 * r.mpitch
      if st < rb then .error (cTILESHAPE, BitVec.ofNat 64 r.tile)
      else if a.toNat % 8 ≠ 0 then .error (cALIGN, a)
      else .ok ⟨t.core, t.base, rb, k, t.ent, (List.range (teRows t.ent)).map fun i => (a.toNat + i * st, rb)⟩
  else match slotOf s s.fib r.pslot with
    | none => .error (cTILEUNDEF, BitVec.ofNat 64 (r.pslot + 64))
    | some (core, base, len) =>
      let n := 64 * (r.plen + 1)
      if len < 64 * r.poff + n then .error (cWINDOW, BitVec.ofNat 64 (64 * r.poff))
      else if a.toNat % 64 ≠ 0 then .error (cALIGN, a)
      else .ok ⟨core, base + 64 * r.poff, n, 0, 0, [(a.toNat, n)]⟩

/-- Whether a page may not serve as a memory side (R349): a device register, or a written side on another module or in
another cluster's scratchpad. -/
def sideRefused (s : State) (core : Nat) (wr : Bool) (a : Acc) : Bool :=
  regionOf a.pa == 5 || (wr && (isRemote s a.pa || (regionOf a.pa == 3 && clusterOf (spadCore a.pa) != clusterOf core)))

/-- The pieces of a command's scratchpad side. -/
def copyNear (s : State) (c : Copy) : List Piece :=
  if c.kind.toNat ≤ 1 then tilePieces s c.home c.base c.ent c.len else chunk8 (spadPa s c.home c.base) c.len 2 0 false

/-- The pieces that a command writes. -/
def copyDst (s : State) (c : Copy) : List Piece := if c.kind = 0 ∨ c.kind = 2 then copyNear s c else runPieces c.runs

/-- The pieces that a command reads. -/
def copySrc (s : State) (c : Copy) : List Piece := if c.kind = 0 ∨ c.kind = 2 then runPieces c.runs else copyNear s c

/-- Whether an earlier copy command still reads a scratchpad piece as its source (R352). -/
def sourcedBefore (s : State) (id : Nat) (p : Piece) : Bool :=
  s.cores.any fun c => c.2.fifo.any fun x => decide (x.id < id) && (x.kind == 1 || x.kind == 3)
    && (copyNear s x).any fun q => q.pa / 8 == p.pa / 8

/-- Whether a receive names a tile that it has not yet made filling. -/
def recvWaits (r : Recv) (id core idx : Nat) : Bool :=
  r.tile.isSome && !r.took && decide (r.id < id) && r.core == core && r.idx == idx

/-- Whether an engine command issued earlier than `id` still waits to change the state of a tile (R344). -/
def earlierOnTile (s : State) (id core idx : Nat) : Bool :=
  s.cores.any (fun c => c.2.fifo.any fun x => decide (x.kind.toNat ≤ 1) && !x.tookTile && decide (x.id < id) && x.home == core
    && x.idx == idx)
  || s.recvs.any (fun e => e.2.posted.any (fun r => recvWaits r id core idx) || e.2.pulls.any fun p => recvWaits p.recv id core idx)
  || s.idxCmds.any fun c => c.op == 0 && !c.took && decide (c.id < id) && c.core == core && c.idx == idx

/-- Whether a tile may now be taken by the engine command numbered `id` (R150, R340, R344, R352). -/
def canTake (s : State) (id core idx : Nat) (dest : Bool) : Bool :=
  let e := tileEnt s core idx
  !(teState e == 1 || teState e == 3) && !earlierOnTile s id core idx
    && !(dest && (matrixReads s core idx || s.cores.any fun c => c.2.fifo.any fun x =>
      decide (x.id < id) && x.kind == 1 && x.home == core && x.idx == idx))

/-- A command takes its tile: a destination becomes filling, a source that drains draining (R150, R344). -/
def takeTile (s : State) (c : Copy) : State × Copy :=
  if c.kind = 0 then (setTileState s c.home c.idx 1, { c with tookTile := true })
  else if c.kind = 1 ∧ c.drain ∧ teState (tileEnt s c.home c.idx) = 2 then
    (setTileState s c.home c.idx 3, { c with tookTile := true })
  else (s, { c with tookTile := true })

/-- Whether a command may take its tile now; a command without one may. -/
def copyMayTake (s : State) (c : Copy) : Bool := decide (2 ≤ c.kind.toNat) || canTake s c.id c.home c.idx (c.kind == 0)

/-- The next copy number, skipping 0 (R349). -/
def nextSeq (n : BitVec 32) : BitVec 32 := if n + 1 = 0 then 1 else n + 1

/-- A request as the command it asks for, but for its number and SEQ; the level of its scope is as it is now (R158). -/
def copyOf (s : State) (r : CopyReq) (stamp : Nat) (sd : CopySide) (runs : List Run) : Copy :=
  let sc : BitVec 4 := if r.sten then BitVec.ofNat 4 r.scope else 2
  { id := 0, seq := 0, fib := s.fib.id, ten := s.fib.ident.tenant, kind := BitVec.ofNat 2 r.kind, drain := r.drain, sten := r.sten,
    scope := sc, lv := scopeLevel s s.fib.ident.tenant s.fib.core sc, stamp := stamp, tile := r.tile, idx := sd.idx, ent := sd.ent,
    home := sd.home, base := sd.base, len := sd.len, pslot := r.pslot, poff := r.poff, runs := runs, pol := BitVec.ofNat 2 r.pol,
    started := false, tookTile := false, gang := s.fib.ident.gang, mon := s.fib.pl == 2 }

/-- A CPYQ accepted into the FIFO (R349). -/
def queueCopy (s : State) (x : Copy) : State :=
  let (n, s) := freshId s
  let core := s.fib.core
  let seq := nextSeq (coreOf s core).seq
  let s := releaseCopies s core x.lv
  let x : Copy := { x with
    id := n
    seq := seq }
  let y := if copyMayTake s x then takeTile s x else (s, x)
  let c := coreOf y.1 core
  setCore y.1 core { c with
    seq := seq
    fifo := c.fifo ++ [y.2] }

/-- A `.nb` request that finds the FIFO full writes its stamp without parking (R351): at once, or behind the fibre's accesses that are not
yet performed, which its release orders before it. -/
def stampNow (s : State) (sc : BitVec 4) (stamp v : Nat) : State :=
  let f := s.fib
  if allPerformed s f.id then fullWord s f.core f.ident.tenant (f.pl == 2) sc stamp v
  else
    let r := withOrder s { mkReq s .feStore 7 8 ⟨stamp, 2, 0, 2, false, 0, 0, 0⟩ 0 with data := BitVec.ofNat 64 v } none (some sc) false
    queueReq s r false

/-- The entries of a core's command FIFO in use: its commands and the notices that the engine has taken (R214). -/
def fifoUsed (c : Core) : Nat := c.fifo.length + (c.kicks.filter fun k => k.started).length

/-- CPYQ after its checks (R349): it waits for a free entry of the FIFO and for the fibre's earlier accesses, and is queued. -/
def copyEff (t : State) (x : Copy) : Eff :=
  if 16 ≤ fifoUsed (coreOf t t.fib.core) then .later .queue (.copy x) t
  else if !allPerformed t t.fib.id then .later .accesses (.copy x) t
  else .done (queueCopy t x)

/-- CPYQ (R349, R351). -/
def execCpyq (y : Bool) (ga : BitVec 4) (la : Bool) (gb : BitVec 4) (lb nb : Bool) (s : State) : Out :=
  issue s { plainUse (.cpyq y ga la gb lb nb) y [(ga, la), (gb, lb)] 0 with fail := true } fun t v =>
    let r := copyReq (arg v 1)
    if t.fib.ident.kind = .handler then .trap cTILEUNDEF 64
    else if copyReserved r nb then .trap cRESBITS (arg v 1)
    else match copyStamp t r with
      | .error (c, x) => .trap c x
      | .ok stamp =>
        match copySide t r (arg v 0) with
        | .error (c, x) => .trap c x
        | .ok sd =>
          let wr := r.kind == 1 || r.kind == 3
          match sideRows true t (if wr then .store else .load) sd.rows [] with
          | .error e => e
          | .ok ps =>
            match ps.find? fun p => sideRefused t t.fib.core wr p.2.1 with
            | some p => .trap cXPROT (BitVec.ofNat 64 p.1)
            | none =>
              if nb && decide (16 ≤ fifoUsed (coreOf t t.fib.core)) then
                .done (stampNow t (BitVec.ofNat 4 r.scope) stamp (cQFULL * 2 ^ 58))
              else copyEff t (copyOf t r stamp sd (sideRuns ps))

/-- COPY_COMMAND_START (R350): the first command not started takes its tile when it may. -/
def copyStart (s : State) (core : Nat) : State :=
  let c := coreOf s core
  match c.fifo.find? fun x => !x.started with
  | none => s
  | some x =>
    if x.tookTile || copyMayTake s x then
      let y := if x.tookTile then (s, x) else takeTile s x
      let c := coreOf y.1 core
      setCore y.1 core { c with fifo := modWhere (fun z => z.id == x.id) (fun _ => { y.2 with started := true }) c.fifo }
    else s

/-- Whether a started command's destination is free of earlier owners and readers (R175, R350, R352). -/
def copyClear (s : State) (c : Copy) : Bool :=
  (copyDst s c).all fun p => !ownedIf (fun n => decide (n < c.id)) s p.pa p.n && !sourcedBefore s c.id p

/-- A copy command as an engine's agent. -/
def copyAgent (core : Nat) (x : Copy) : Agent := ⟨.cmd x.id, core, x.ten, x.mon⟩

/-- A command's end: words moved, then its stamp and its tile's state together (R349, R350, R353). -/
def finishCopy (s : State) (core : Nat) (x : Copy) : State :=
  let near : BitVec 2 := 0
  let far := x.pol
  let up := x.kind = 0 ∨ x.kind = 2
  let m := moveWords s (copyAgent core x) (if up then far else near) (if up then near else far) (copySrc s x) (copyDst s x) 0
  let s := dropFar m.1 (.cmd x.id)
  let cause := m.2.2
  let c := coreOf s core
  let s := setCore s core { c with
    fifo := c.fifo.filter fun z => z.id != x.id
    done := x.seq
    failed := if cause = 0 then c.failed else c.failed ++ [(x.fib, x.seq, BitVec.ofNat 6 cause)]
    waited := c.waited ++ [(x.fib, x.scope)] }
  let s := if x.kind = 0 then setTileState s x.home x.idx 2
    else if x.kind = 1 ∧ x.drain ∧ teState (tileEnt s x.home x.idx) = 3 then setTileState s x.home x.idx 0 else s
  if x.sten then stampWord s core x.ten x.mon x.scope x.lv x.stamp (cause * 2 ^ 58 + x.seq.toNat) else s

/-- COPY_COMMAND_COMPLETE (R350): the head command, once started and with its words of other modules read; the notices taken before it
have ended. -/
def copyComplete (s : State) (core : Nat) : State :=
  match (coreOf s core).fifo with
  | [] => s
  | x :: _ =>
    if !x.started || !copyClear s x || (coreOf s core).kicks.any (fun k => k.started && decide (k.id < x.id)) then s
    else
      let g := gather s (copyAgent core x) (copySrc s x)
      if g.2 then finishCopy g.1 core x else g.1

/-- CPYWAIT (R354). -/
def execCpywait (y : Bool) (s : State) : Out :=
  issue s { plainUse (.cpywait y) y [] 0 with fail := true } fun t _ =>
    let f := t.fib
    let c := coreOf t f.core
    if c.fifo.any fun x => x.fib == f.id then .park .copies t
    else match c.failed.find? fun x => x.1 == f.id with
      | some x =>
        if !allReady f then .park .marker t
        else
        let t' := if (drain f).failure.isNone then setCore t f.core { c with failed := c.failed.filter fun z => z != x } else t
        .raw (raise t' x.2.2.toNat (zext x.2.1))
      | none =>
        let t := (c.waited.filter fun x => x.1 == f.id).foldl (fun t x => acquireAt t f.ident.tenant f.core x.2) t
        let c := coreOf t f.core
        .done (setCore t f.core { c with waited := c.waited.filter fun x => x.1 != f.id })

/-- CPY.STAT (R347). -/
def cpyStat (c : Core) : Word := BitVec.ofNat 64 (c.done.toNat * 2 ^ 32 + (16 - fifoUsed c))

/-- CPYSTAT (R355). -/
def execCpystat (y : Bool) (gd : BitVec 4) (s : State) : Out :=
  issue s { plainUse (.cpystat y gd) y [] gd with fail := true } fun t _ =>
    .done (setLong t gd (cpyStat (coreOf t t.fib.core)) 0)

/-- The outstanding messages of a core (R347 MSG.OUT); an accepted kick (kind 110) is no longer one. -/
def msgOut (s : State) (core : Nat) : Nat := (s.net.outst.filter fun o => o.core == core && o.kind != 110).length

/-- Put an outstanding message on record. -/
def addOutst (s : State) (o : Outst) : State := { s with net := { s.net with outst := s.net.outst ++ [o] } }

/-- Whether a module of the pod is populated (R21). -/
def populatedMod (s : State) (m : Nat) : Bool := m == ownMod s || Config.populated m

/-- A completion word of an outstanding message. -/
def completeWord (s : State) (o : Outst) (v : Nat) : State :=
  match o.cpl with
  | some pa => fullWord s o.core o.ten (o.pl == 2) o.scope pa v
  | none => s

/-- KICK after its checks (R356): it waits for room among the outstanding messages and for the fibre's earlier accesses, and the notice
leaves; one for a module that cannot be reached ends at once (R430, R431). -/
def kickEff (t : State) (o : Outst) (area : List Byte) : Eff :=
  if 32 ≤ msgOut t t.fib.core then .later .outst (.kick o area) t
  else if !allPerformed t t.fib.id then .later .accesses (.kick o area) t
  else
    let t := releaseAt t o.ten t.fib.core o.scope
    match unreachableId t o.dst with
    | some c => .done (completeWord t o c)
    | none =>
      let (n, t) := freshId t
      let t := addOutst t { o with id := n }
      .done (sendPacket t (mkPacket t t.fib.core o.dst 10 o.ten n o.scope true area []))

/-- A message of the current fibre as its core keeps it, but for its number. -/
def outstOf (s : State) (kind : Nat) (cpl : Option Nat) (dst : BitVec 26) (runs : List Run) (src : Word) (len : Nat) : Outst :=
  ⟨0, s.fib.core, s.fib.id, s.fib.ident.tenant, kind, cpl, scopeToIdent s s.fib.core dst, runs, [], dst, s.fib.ident.gang, src, len, s.fib.pl⟩

/-- KICK (R356). -/
def execKick (y : Bool) (ga : BitVec 4) (la : Bool) (gb : BitVec 4) (lb : Bool) (s : State) : Out :=
  issue s { plainUse (.kick y ga la gb lb) y [(ga, la), (gb, lb)] 0 with fail := true } fun t v =>
    let a := arg v 0
    let b := (arg v 1).toNat
    if 65536 ≤ b ∨ populatedMod t (b / 1024) = false then .trap cBOUND (arg v 1)
    else if !aligned a 8 then .trap cALIGN a
    else readBlock 5 t a [] fun t ws =>
      let src := ws.getD 0 0
      let dst := ws.getD 1 0
      let ss := ws.getD 3 0
      let w4 := (ws.getD 4 0).toNat
      let len := w4 % 2 ^ 32
      if len % 8 ≠ 0 ∨ len < 8 ∨ 2 ^ 24 < len ∨ w4 / 2 ^ 32 ≠ 0 then .trap cRESBITS a
      else if src.toNat % 8 ≠ 0 then .trap cALIGN src
      else if dst.toNat % 8 ≠ 0 then .trap cALIGN dst
      else match sideRows false t .load [(src.toNat, len)] [] with
        | .error e => e
        | .ok ps =>
          match if ss = 0 then Chk.ok ⟨0, 0, 0, 0, false, 0, 0, 0⟩ else checkWord t ss with
          | .bad c x => .trap c x
          | .wait w t => .park w t
          | .ok st =>
            kickEff t (outstOf t 10 (if ss = 0 then none else some st.pa) (podIdent t (b / 1024) (b % 1024)) (sideRuns ps) src len)
              (ws.flatMap fun w => leBytes 8 w.toNat)

/-- A message is answered (R347, R356, R363, R367): it leaves the record. -/
def dropOutst (s : State) (id : Nat) : State :=
  dropFar { s with net := { s.net with outst := s.net.outst.filter fun o => o.id != id } } (.cmd id)

/-- The sender of a notice learns its fate (R356): accepted it only leaves the record, and its SSTAMP is written when the
transfer ends; returned, SSTAMP holds the cause. -/
def noticeAnswered (s : State) (o : Outst) (status : Nat) : State :=
  if status = 0 then
    { s with net := { s.net with outst := modWhere (fun x => x.id == o.id) (fun x => { x with kind := 110 }) s.net.outst } }
  else dropOutst (completeWord s o (statusCause status)) o.id

/-- The destination of a notice at its receiver (R356): runs, or none and the cause that goes into the stamps. -/
def noticeDest (s : State) (core : Nat) (k : Notice) : List Run × Nat :=
  let x := agentRuns (k.len / 65536 + 2) s k.ten 0 (translateAgent s core k.ten 0 .store) (fun a => if sideRefused s core true a then some cXPROT else none)
    k.dstva.toNat k.len []
  if x.2 = 0 then x else ([], x.2)

/-- KICK_TRANSFER_START (R214): the first notice not taken is taken while the FIFO has a free entry, and takes its place there. -/
def kickStart (s : State) (core : Nat) : State :=
  let c := coreOf s core
  match c.kicks.find? fun k => !k.started with
  | none => s
  | some k =>
    if 16 ≤ fifoUsed c then s
    else
      let d := noticeDest s core k
      let (n, s) := freshId (countWindow s k.ten d.2)
      setCore s core { c with kicks := modWhere (fun x => x.id == k.id) (fun k => { k with
        id := n
        started := true
        runs := d.1
        cause := BitVec.ofNat 6 d.2 }) c.kicks }

/-- The pages of an outstanding message's source as they are translated now, and the cause that stops them (R363). The placement region is
the sender's gang's as it now lies; without a gang of this module it is as at issue. -/
def sourceRuns (s : State) (o : Outst) : List Run × Nat :=
  let runs := fun (tr : Nat → Trans) => agentRuns (o.len / 65536 + 2) s o.ten o.pl tr noOwn o.src.toNat o.len []
  if !inPlacement o.src.toNat then runs (translateAgent s o.core o.ten o.pl .load)
  else if o.gang.isNone then (o.runs, 0)
  else runs (translate s { Fibre.blank with
    core := o.core
    pl := o.pl
    ident := { Ident.none with
      kind := .placed
      tenant := o.ten
      gang := o.gang } } .load)

/-- The word at an offset of an outstanding message's source, for a puller on another module (R214, R218). -/
def sourceWord (s : State) (o : Outst) (off : Nat) : Option Piece := ((runPieces (sourceRuns s o).1).drop (off / 8)).head?

/-- The source of a notice or a rendezvous message as its puller reads it (R214, R218): the pieces, the cause that ends them or 0, and
whether the words of other modules have come. A sender on another module is asked word by word, at addresses that it translates; its
pieces stand under a pooled address of that module for want of a physical one (log entry 13). -/
def pullSource (s : State) (e : Agent) (src : BitVec 26) (reqid : Nat) (va : Word) (len : Nat) : State × List Piece × Nat × Bool :=
  if isOwnIdent s src then
    match s.net.outst.find? fun o => o.id == reqid with
    | none => (s, [], cLOST, true)
    | some o =>
      let x := sourceRuns s o
      let ps := runPieces x.1
      let g := gather s e ps
      (g.1, ps, x.2, g.2)
  else
    let base := 2 ^ 53 + idMod src * 2 ^ 46
    let ps := chunk8 base len 2 0 false
    let miss := ps.filter fun p => (farOf s e.owner 0 p.pa).isNone && (unreachable s (paMod p.pa)).isNone
    if miss.isEmpty then (s, ps, 0, ps.all fun p => match farOf s e.owner 0 p.pa with
      | some w => w.here
      | none => true)
    else
      (miss.foldl (fun s p => sendFar s e.owner 0 { engReq s e .load p 0 0 with
        op := 3
        va := va + BitVec.ofNat 64 (p.pa - base)
        expect := BitVec.ofNat 64 reqid } (srcIdent s e.core)) s, ps, 0, false)

/-- Whether a started transfer's destination is free of earlier owners (R175). -/
def kickClear (s : State) (k : Notice) : Bool :=
  (runPieces k.runs).all fun p => !ownedIf (fun n => decide (n < k.id)) s p.pa p.n && !sourcedBefore s k.id p

/-- The receiver's stamp word (R356): checked as an 8-byte scratchpad store under the notice's tenant. -/
def noticeStamp (s : State) (core : Nat) (ten : BitVec 4) (va : Word) : Option Nat :=
  if va = 0 ∨ aligned va 8 = false then none
  else match translateAgent s core ten 0 .store va.toNat with
    | .ok a => if a.loc = 2 ∧ (isRemote s a.pa = true ∨ mayReach s ten 0 a.pa = true) then some a.pa else none
    | _ => none

/-- A taken notice as an engine's agent. -/
def kickAgent (core : Nat) (k : Notice) : Agent := ⟨.cmd k.id, core, k.ten, false⟩

/-- A taken notice's words are moved: the state, the bytes moved, the cause, and whether it could be done now. -/
def kickMove (s : State) (core : Nat) (k : Notice) : State × Nat × Nat × Bool :=
  if k.cause ≠ 0 then (s, 0, k.cause.toNat, true)
  else
    let e := kickAgent core k
    let x := pullSource s e k.src k.reqid.toNat k.srcva k.len
    if x.2.2.2 then
      let m := moveWords x.1 e 0 0 x.2.1 (runPieces k.runs) 0
      if m.2.2 = 0 then (countWindow m.1 k.ten x.2.2.1, m.2.1, x.2.2.1, true) else (m.1, m.2.1, m.2.2, true)
    else (x.1, 0, 0, false)

/-- KICK_TRANSFER_COMPLETE (R214): the words moved, then RSTAMP, then SSTAMP by a built-in store. Commands of the FIFO before it have
ended (R350). -/
def kickComplete (s : State) (core : Nat) : State :=
  match (coreOf s core).kicks with
  | [] => s
  | k :: _ =>
    if !k.started || !kickClear s k || (coreOf s core).fifo.any (fun x => decide (x.id < k.id)) then s
    else
      let m := kickMove s core k
      if !m.2.2.2 then m.1
      else
      let s := dropFar m.1 (.cmd k.id)
      let c := coreOf s core
      let s := setCore s core { c with kicks := c.kicks.filter fun x => x.id != k.id }
      let v := m.2.1 * 2 ^ 32 + m.2.2.1
      let sk := scopeToIdent s core k.src
      let s := match noticeStamp s core k.ten k.rstamp with
        | some pa => fullWord s core k.ten false sk pa v
        | none => s
      if isOwnIdent s k.src then
        match s.net.outst.find? fun o => o.id == k.reqid.toNat with
        | some o => dropOutst (completeWord (raiseClock s o.core (clockOf s core)) o v) o.id
        | none => s
      else if k.sstamp = 0 then s
      else
        let (n, s) := freshId s
        sendPacket s (mkPacket s core k.src 4 k.ten n sk true
          (leBytes 8 (2 ^ 63 + 0x0B) ++ leBytes 8 k.sstamp.toNat ++ leBytes 8 v ++ leBytes 8 0 ++ leBytes 8 0) [])

/-- KICK_NOTICE_ARRIVAL (R214): queued, or returned with QFULL; a notice of this module is answered at once. -/
def noticeArrive (s : State) (p : Packet) : State :=
  let core := idAgent p.dst
  let s := raiseClock s core p.clock.toNat
  let c := coreOf s core
  let full := decide (16 ≤ (c.kicks.filter fun k => !k.started).length)
  let (n, s) := freshId s
  let k : Notice := ⟨p.src, p.ten, BitVec.ofNat 64 (areaNat p 0 8), BitVec.ofNat 64 (areaNat p 8 8), BitVec.ofNat 64 (areaNat p 16 8),
    BitVec.ofNat 64 (areaNat p 24 8), areaNat p 32 4, p.reqid, false, n, [], 0⟩
  let s := if full then s else setCore s core { c with kicks := c.kicks ++ [k] }
  if isOwnIdent s p.src then
    match s.net.outst.find? fun o => o.id == p.reqid.toNat with
    | some o => noticeAnswered (raiseClock s o.core (clockOf s core)) o (if full then 3 else 0)
    | none => s
  else if full then answer s p 5 3 p.area p.data else answer s p 3 0 [] []

end Sys2Proof.Machine
end

