-- ==== Sys2Proof/Machine/Receive.lean ====
section
/-! DEFINITION. The receive engine: RPOST, RCANCEL, RPROBE and RSTAT, matching, landing and status records, and the arrival of
sends (R215-R219, R363-R366). -/

namespace Sys2Proof.Machine

/-- A tagged message at a receive engine (R216, R218, R442): its packet's fields in the kind area, TAG and MLEN. -/
def msgTag (p : Packet) : Nat := areaNat p 0 8
/-- The bytes sent. -/
def msgLen (p : Packet) : Nat := areaNat p 8 4

/-- The elements of a receive's capacity (R215). -/
def recvCap (r : Recv) : Nat := r.ext.foldl (fun a e => a * e) 1

/-- Whether a message of a tenant matches a receive (R216). -/
def recvMatch (r : Recv) (p : Packet) : Bool :=
  r.ten == p.ten && (p.src &&& r.smask) == (r.psrc &&& r.smask)
    && (BitVec.ofNat 64 (msgTag p) &&& r.tmask) == (r.ptag &&& r.tmask)

/-- Pieces that lie within aligned words. -/
def chunkWords (pa n : Nat) (cp gr : BitVec 2) (win : Bool) : List Piece :=
  let h := min n ((8 - pa % 8) % 8)
  (if h = 0 then [] else [⟨pa, h, cp, gr, win⟩]) ++ chunk8 (pa + h) (n - h) cp gr win

/-- The first `n` bytes of a list of runs, and the rest. -/
def splitRuns (rs : List Run) (n : Nat) : List Run × List Run :=
  match rs with
  | [] => ([], [])
  | r :: t =>
    if n = 0 then ([], r :: t)
    else if r.n ≤ n then let x := splitRuns t (n - r.n); (r :: x.1, x.2)
    else ([{ r with n := n }], { r with pa := r.pa + n, n := r.n - n } :: t)

/-- A run of elements of a destination: its pieces, its first element's number and how many, and whether the last of them ends a row. -/
structure Seg where
  pieces : List Piece
  first : Nat
  count : Nat
  row : Bool
  deriving DecidableEq, Repr

/-- The runs of a memory destination, one for each place of dimensions 1 to 3 (R215). -/
def memSegs (rb ext0 : Nat) (n : Nat) (k : Nat) (rs : List Run) : List Seg :=
  match n with
  | 0 => []
  | m + 1 =>
    if rs.isEmpty then []
    else
      let x := splitRuns rs rb
      ⟨x.1.flatMap fun r => chunkWords r.pa r.n r.cp r.gr r.win, k, ext0, true⟩ :: memSegs rb ext0 m (k + ext0) x.2

/-- The rows of a tile destination that a capacity reaches (R215, R101). -/
def tileSegs (s : State) (r : Recv) (w : Nat) : List Seg :=
  let c := teCols r.ent
  (List.range (ceilDiv (recvCap r) c)).map fun i =>
    let n := min c (recvCap r - i * c)
    ⟨(List.range (ceilDiv (ceilDiv (n * w) 8) 8)).map fun q =>
      ⟨spadPa s r.core (tileByte r.tbase r.ent i (8 * q)), min 8 (ceilDiv (n * w) 8 - 8 * q), 2, 0, false⟩, i * c, n, n == c⟩

/-- A receive's destination in element order. -/
def recvSegs (s : State) (r : Recv) : List Seg :=
  let w := fmtWidth r.fmt.toNat
  match r.tile with
  | some _ => tileSegs s r w
  | none => memSegs (ceilDiv (r.ext.getD 0 1 * w) 8) (r.ext.getD 0 1) (recvCap r) 0 r.runs

/-- A payload as read: its bytes as one number, how many, the numbers of its poisoned words, and why reading stopped (0:
it did not). -/
structure Payload where
  val : Nat
  n : Nat
  bad : List Nat
  cause : Nat
  deriving DecidableEq, Repr

/-- A receive as an engine's agent. -/
def recvAgent (n : Nat) (r : Recv) : Agent := ⟨.cmd n, r.core, r.ten, r.space == 16⟩

/-- Write one run's first `bitsLeft` bits (R215): the bits at payload bit `o` go to the pieces in order; a partial byte keeps its
other bits, unless it ends a row (R101), and poison travels with the word (R422). -/
def writeSeg (s : State) (r : Recv) (p : Payload) (row : Bool) (o bitsLeft : Nat) (ps : List Piece) : State × Nat :=
  match ps with
  | [] => (s, 0)
  | q :: t =>
    if bitsLeft = 0 then (s, 0)
    else
      let nbits := min (8 * q.n) bitsLeft
      let n := ceilDiv nbits 8
      let new := nf p.val o nbits
      let v := if row || nbits == 8 * n then new else new + rdHome s q.pa n / 2 ^ nbits * 2 ^ nbits
      let bad := p.bad.any fun w => decide (w * 64 < o + nbits) && decide (o < w * 64 + 64)
      match engWrite s (recvAgent 0 r) 0 { q with n := n } v bad with
      | .error c => (engFound s (recvAgent 0 r) q c, c)
      | .ok u => writeSeg u r p row (o + nbits) (bitsLeft - nbits) t

/-- Write the runs in order until the payload's bits are used up: the state, the bits landed and a cause or 0. -/
def writeSegs (s : State) (r : Recv) (p : Payload) (w : Nat) (gs : List Seg) (landed : Nat) : State × Nat × Nat :=
  match gs with
  | [] => (s, landed, 0)
  | g :: t =>
    let o := g.first * w
    if 8 * p.n ≤ o then (s, landed, 0)
    else
      let nbits := min (g.count * w) (8 * p.n - o)
      let x := writeSeg s r p (g.row && nbits == g.count * w) o nbits g.pieces
      if x.2 = 0 then writeSegs x.1 r p w t (landed + nbits) else (x.1, landed, x.2)

/-- The scope of a receive's status record (R219): its engine's die, when the record lies in a scratchpad there. -/
def recvScope (s : State) (r : Recv) (die : Nat) : BitVec 4 :=
  if isRemote s r.stat = false ∧ dieOf (spadCore r.stat) = die then 3 else 4

/-- A word of a status record that is not its last: stored as the engine stores at home, there or at another module. -/
def recordWord (s : State) (r : Recv) (o v : Nat) : State :=
  if isRemote s r.stat then
    (match unreachable s (paMod r.stat) with
      | some _ => s
      | none => sendFar s .nobody 1 { blankReq s r.core r.ten .store 0 8 (r.stat + o) (r.statva + BitVec.ofNat 64 o) with
          data := BitVec.ofNat 64 v } (srcIdent s r.core))
  else putWord s r.core (r.stat + o) v

/-- The status record (R219): bytes 0-23, then STATUS, full, with the next sequence number. -/
def writeRecord (s : State) (die : Nat) (r : Recv) (tag src len mlen code : Nat) : State :=
  let e := recvOf s die
  let seq := e.rseq + 1
  let s := setRecv s die { e with rseq := seq }
  if regionOf r.stat = 3 ∧ (isRemote s r.stat = true ∨ spadHeld s r.ten (r.space == 16) r.stat = true) then
    let s := recordWord (recordWord (recordWord s r 0 tag) r 8 (src % 2 ^ 32 + len % 2 ^ 32 * 2 ^ 32)) r 16 mlen
    fullWord s r.core r.ten (r.space == 16) (recvScope s r die) (r.stat + 24) (seq.toNat * 2 ^ 32 + code % 64 * 2 ^ 26)
  else s

/-- The code of a send that ends with a cause (R219, R363): a source page that has stopped translating counts as WINDOW, since no other
code of R363 says it (DEDUCED, log entry 13). -/
def msgCode (c : Nat) : Nat := if c = cXNP ∨ c = cXPROT then cWINDOW else c

/-- A payload lands in a matched receive (R215, R219): the state, the bytes landed and the code. -/
def land (s : State) (die : Nat) (r : Recv) (p : Packet) (pay : Payload) : State × Nat × Nat :=
  let w := fmtWidth r.fmt.toNat
  let cap := ceilDiv (recvCap r * w) 8
  let x := writeSegs s r { pay with n := min pay.n cap } w (recvSegs s r) 0
  let code := if pay.cause ≠ 0 then msgCode pay.cause else if x.2.2 ≠ 0 then x.2.2 else if cap < msgLen p then cRECVLEN else 0
  let len := ceilDiv x.2.1 8
  let s := match r.tile with
    | some _ => setTileState x.1 r.core r.idx 2
    | none => x.1
  (writeRecord s die r (msgTag p) p.src.toNat len (msgLen p) code, len, code)

/-- The sender of a landed message learns of it (R218, R363). -/
def tellSender (s : State) (die : Nat) (r : Recv) (p : Packet) (len code : Nat) : State :=
  if isOwnIdent s p.src then
    match s.net.outst.find? fun o => o.id == p.reqid.toNat with
    | some o =>
      dropOutst (completeWord (raiseClock s o.core (clockOf s r.core)) { o with scope := scopeOfCores o.core r.core } (len * 2 ^ 32 + code)) o.id
    | none => s
  else
    sendPacket s { mkPacket s r.core p.src 11 p.ten p.reqid.toNat 0 false (leBytes 4 len ++ leBytes 1 code) [] with
      src := ownIdent s (0x444 + die) }

/-- The words of a payload by number, each with its value and length in bytes. -/
def payWords (v n : Nat) : List (Nat × Nat × Nat) :=
  (List.range (ceilDiv n 8)).map fun k => let m := min 8 (n - 8 * k); (k, nf v (64 * k) (8 * m), m)

/-- A value that no sound word of an eager payload has (log entry 13): each poisoned word travels as this one, so that its mark is not lost
(R422). -/
def poisonCode (p : Payload) : Nat :=
  let sound := (payWords p.val p.n).filter fun w => !p.bad.contains w.1
  ((List.range 1024).find? fun e => sound.all fun w => w.2.1 != e % 2 ^ (8 * w.2.2)).getD 0

/-- A payload's value as it travels. -/
def markedVal (p : Payload) : Nat :=
  if p.bad.isEmpty then p.val
  else
    let e := poisonCode p
    (payWords p.val p.n).foldl (fun v w => v + (if p.bad.contains w.1 then e % 2 ^ (8 * w.2.2) else w.2.1) * 2 ^ (64 * w.1)) 0

/-- The payload of an eager message, with its poisoned words (R422): a message of another module that has some comes with STATUS POISON,
and the value that stands for them follows its bytes (log entry 13). -/
def eagerPayload (s : State) (p : Packet) : Payload :=
  let bs := p.data.take (msgLen p)
  let bad := if isOwnIdent s p.src then
    match s.net.outst.find? fun o => o.id == p.reqid.toNat with
    | some o => o.bad
    | none => []
    else if p.status = 7 then
      let mark := leNat ((p.data.drop (msgLen p)).take 8)
      ((payWords (leNat bs) bs.length).filter fun w => w.2.1 == mark % 2 ^ (8 * w.2.2)).map (·.1)
    else []
  ⟨leNat bs, bs.length, bad, 0⟩

/-- Read source pieces in order, each word once (R174, R218): the payload, and the state. -/
def readPieces (s : State) (e : Agent) (ps : List Piece) (sh : Nat) (acc : Payload) : State × Payload :=
  match ps with
  | [] => (s, acc)
  | p :: t =>
    match engRead s e 0 p with
    | .error c => (engFound s e p c, { acc with cause := c })
    | .ok (u, v, bad) =>
      readPieces u e t (sh + 8 * p.n)
        { acc with
          val := acc.val + v * 2 ^ sh
          n := acc.n + p.n
          bad := if bad then acc.bad ++ [acc.n / 8] else acc.bad }

/-- The payload of a rendezvous message as pulled from its sender (R218), or none while words of another module are still to come. -/
def pulledPayload (s : State) (n : Nat) (r : Recv) (p : Packet) : State × Option Payload :=
  let e := recvAgent n r
  let x := pullSource s e p.src p.reqid.toNat (BitVec.ofNat 64 (areaNat p 12 8)) (msgLen p)
  if x.2.2.2 then
    let y := readPieces x.1 e x.2.1 0 ⟨0, 0, [], 0⟩
    let last := if y.2.cause = 0 then x.2.2.1 else 0
    (dropFar (countWindow y.1 p.ten last) e.owner, some { y.2 with cause := y.2.cause + last })
  else (x.1, none)

/-- Whether a matched payload may land: the receive has its tile, and every earlier owner has written (R175, R364). -/
def recvClear (s : State) (r : Recv) : Bool :=
  r.took && (recvSegs s r).all fun g => g.pieces.all fun p =>
    !ownedIf (fun n => decide (n < r.id)) s p.pa p.n && !sourcedBefore s r.id p

/-- A matched message's payload lands, and its sender is told. -/
def landNow (s : State) (die : Nat) (r : Recv) (p : Packet) (pay : Payload) : State :=
  let y := land s die r p pay
  tellSender y.1 die r p y.2.1 y.2.2

/-- A match (R216): an eager payload lands at once when it may; anything else is a pull in progress. -/
def matched (s : State) (die : Nat) (r : Recv) (p : Packet) : State :=
  if p.kind = 6 && recvClear s r then landNow s die r p (eagerPayload s p)
  else
    let (n, s) := freshId s
    let e := recvOf s die
    setRecv s die { e with pulls := e.pulls ++ [⟨n, r, p⟩] }

/-- A pull whose payload is here lands; before that its words are asked for. -/
def pullNow (s : State) (die : Nat) (q : Pull) : State :=
  let x := if q.req.kind = 7 then pulledPayload s q.id q.recv q.req else (s, some (eagerPayload s q.req))
  match x.2 with
  | none => x.1
  | some pay =>
    let e := recvOf x.1 die
    landNow (setRecv x.1 die { e with pulls := e.pulls.filter fun y => y.id != q.id }) die q.recv q.req pay

/-- RENDEZVOUS_PULL_COMPLETE (R218): a pull that may land does. -/
def pullComplete (s : State) (c : Nat) (dies : List Nat) : State :=
  match dies with
  | [] => s
  | d :: t =>
    let e := recvOf s d
    match e.pulls.find? fun p => p.id == c with
    | some p =>
      if recvClear s p.recv then pullNow s d p else s
    | none => pullComplete s c t

/-- A receive takes its tile once it may (R364). -/
def recvTake (s : State) (r : Recv) : State × Recv :=
  if r.took then (s, r)
  else if canTake s r.id r.core r.idx true then (setTileState s r.core r.idx 1, { r with took := true })
  else (s, r)

/-- Receives of a list take their tiles in order. -/
def takeList (s : State) (rs : List Recv) : State × List Recv :=
  match rs with
  | [] => (s, [])
  | r :: t =>
    let x := recvTake s r
    let y := takeList x.1 t
    (y.1, x.2 :: y.2)

/-- The same for pulls. -/
def takePulls (s : State) (ps : List Pull) : State × List Pull :=
  match ps with
  | [] => (s, [])
  | p :: t =>
    let x := recvTake s p.recv
    let y := takePulls x.1 t
    (y.1, { p with recv := x.2 } :: y.2)

/-- Every receive of a die takes its tile when it may. -/
def takeDie (s : State) (die : Nat) : State :=
  let e := recvOf s die
  if (e.posted.any fun r => !r.took) || (e.pulls.any fun p => !p.recv.took) then
    let x := takePulls s e.pulls
    let y := takeList x.1 e.posted
    setRecv y.1 die { recvOf y.1 die with
      posted := y.2
      pulls := x.2 }
  else s

/-- Receives whose tiles have come free take them (R364). -/
def takePosted (s : State) : State := if s.recvs.isEmpty then s else [0, 1, 2, 3].foldl takeDie s

/-- A receive's status word made empty at its posting, here or at the module whose scratchpad holds it (R364). -/
def emptyStat (s : State) (r : Recv) : State :=
  if isRemote s r.stat then
    (match unreachable s (paMod r.stat) with
      | some _ => s
      | none => sendFar s .nobody 1 (blankReq s r.core r.ten .feStore 5 8 (r.stat + 24) (r.statva + 24)) (srcIdent s r.core))
  else setFull s (r.stat + 24) false

/-- A receive enters its engine (R216, R364): it searches the unexpected queue, and is posted when nothing matches. -/
def postRecv (s : State) (die : Nat) (r : Recv) : State :=
  let s := emptyStat s r
  let x := recvTake s r
  let s := x.1
  let e := recvOf s die
  match takeFirst (recvMatch x.2) e.unexp with
  | some (p, rest) => matched (setRecv s die { e with unexp := rest }) die x.2 p
  | none => setRecv s die { e with posted := e.posted ++ [x.2] }

/-- RECEIVE_POST_EVENT (R364): the engine performs the post of a fibre. -/
def postEvent (s : State) (f : Nat) (dies : List Nat) : State :=
  match dies with
  | [] => s
  | d :: t =>
    let e := recvOf s d
    match e.posting.find? fun x => x.1 == f with
    | some x =>
      let s := setRecv s d { e with posting := e.posting.filter fun y => y.1 != f }
      if 4096 ≤ e.posted.length then completeTrap s f cQFULL x.2.1
      else complete (postRecv s d x.2.2) f none
    | none => postEvent s f t

/-- The pages of a memory destination's rows from place `k` on, translated as stores (R364). -/
def postRows (n : Nat) (s : State) (base st1 st2 st3 e1 e2 rb k : Nat) (acc : List (Nat × Acc × Nat)) : Except Eff (List (Nat × Acc × Nat)) :=
  match n with
  | 0 => .ok acc
  | m + 1 =>
    let va := (base + k % e1 * st1 + k / e1 % e2 * st2 + k / (e1 * e2) * st3) % 2 ^ 64
    match sidePages false (rb / 65536 + 2) s .store va rb [] with
    | .error e => .error e
    | .ok ps => postRows m s base st1 st2 st3 e1 e2 rb (k + 1) (acc ++ ps)

/-- The destination of a descriptor (R364 steps 3 and 4): the receive, or what the instruction does instead. -/
def postDest (s : State) (r : Recv) : Except Eff Recv :=
  match r.tile with
  | some t =>
    match namedTile s s.fib s.fib.core t with
    | none => .error (.trap (noTile s.fib t) (BitVec.ofNat 64 t))
    | some (k, a) =>
      if teFmt a.ent ≠ r.fmt.toNat then .error (.trap cFORMAT (BitVec.ofNat 64 t))
      else if (r.fmt = 11 ∧ teCols a.ent % 8 ≠ 0) ∨ recvCap r > teRows a.ent * teCols a.ent then .error (.trap cTILESHAPE (BitVec.ofNat 64 t))
      else .ok { r with
        ent := a.ent
        tbase := a.base
        idx := k
        took := false }
  | none =>
    let e := fun i => r.ext.getD i 1
    match postRows (e 1 * e 2 * e 3) s r.base.toNat (r.strs.getD 0 0) (r.strs.getD 1 0) (r.strs.getD 2 0) (e 1) (e 2)
      (ceilDiv (e 0 * fmtWidth r.fmt.toNat) 8) 0 [] with
    | .error x => .error x
    | .ok ps => match ps.find? fun p => isRemote s p.2.1.pa || regionOf p.2.1.pa == 5 with
      | some p => .error (.trap cXPROT (BitVec.ofNat 64 p.1))
      | none => .ok { r with
        runs := sideRuns ps
        took := true }

/-- Whether a descriptor breaks R215 (R364 step 1). -/
def postReserved (ws : List Word) : Bool :=
  let w := fun i => (ws.getD i 0).toNat
  let tile := nb (w 5) 7
  nf (w 2) 26 6 != 0 || nf (w 2) 58 6 != 0 || nf (w 5) 4 3 != 0 || w 5 / 256 != 0 || w 11 != 0
    || (tile && w 4 / 64 != 0) || nf (w 6) 0 32 == 0 || nf (w 6) 32 32 == 0 || nf (w 7) 0 32 == 0 || nf (w 7) 32 32 == 0

/-- RPOST after its checks (R364): the fibre's earlier accesses performed at die scope, and the post with the die's engine. `desc` is its
descriptor's address. -/
def postEff (t : State) (r : Recv) (desc : Word) : Eff :=
  if !allPerformed t t.fib.id then .later .accesses (.post r desc) t
  else
    let (n, t) := freshId (releaseAt t r.ten t.fib.core 3)
    let r := { r with id := n }
    let d := dieOf t.fib.core
    let e := recvOf t d
    if t.sched.defer then
      .hold .post (setRecv t d { e with posting := e.posting ++ [(t.fib.id, desc, r)] })
    else if 4096 ≤ e.posted.length then .trap cQFULL desc
    else .done (postRecv t d r)

/-- RPOST (R364). -/
def execRpost (y : Bool) (ga : BitVec 4) (la : Bool) (s : State) : Out :=
  issue s { plainUse (.rpost y ga la) y [(ga, la)] 0 with fail := true } fun t v =>
    let a := arg v 0
    if !aligned a 32 then .trap cALIGN a
    else readBlock 12 t a [] fun t ws =>
      let w := fun i => (ws.getD i 0).toNat
      let tile := nb (w 5) 7
      if t.fib.ident.kind = .handler ∧ tile = true then .trap cTILEUNDEF 64
      else if postReserved ws then .trap cRESBITS a
      else if nf (w 5) 0 4 = 15 then .trap cFORMAT a
      else if w 3 % 32 ≠ 0 then .trap cALIGN (ws.getD 3 0)
      else match checkWord t (ws.getD 3 0) with
        | .bad c x => .trap c x
        | .wait w t => .park w t
        | .ok st =>
          let f := t.fib
          let r : Recv := { id := 0, ten := f.ident.tenant, fib := f.id, gang := f.ident.gang, core := f.core,
                            space := spaceOf f.ident.tenant f.pl, ptag := ws.getD 0 0, tmask := ws.getD 1 0,
                            psrc := BitVec.ofNat 26 (w 2), smask := BitVec.ofNat 26 (w 2 / 2 ^ 32), statva := ws.getD 3 0,
                            stat := st.pa, base := ws.getD 4 0, fmt := BitVec.ofNat 4 (w 5),
                            tile := if tile then some (w 4 % 64) else none, ent := 0, tbase := 0,
                            ext := [nf (w 6) 0 32, nf (w 6) 32 32, nf (w 7) 0 32, nf (w 7) 32 32], strs := [w 8, w 9, w 10], runs := [],
                            idx := 0, took := false }
          match postDest t r with
          | .error e => e
          | .ok r => postEff t r a

/-- The engine's removal of the earliest receive of a tenant with a STATVA (R365). -/
def cancelRecv (s : State) (die : Nat) (ten : BitVec 4) (va : Word) : State :=
  let e := recvOf s die
  match takeFirst (fun r => r.ten == ten && r.statva == va) e.posted with
  | none => s
  | some (r, rest) =>
    let s := setRecv s die { e with posted := rest }
    let s := match r.tile with
      | some _ => if r.took then setTileState s r.core r.idx 2 else s
      | none => s
    writeRecord s die r 0 0x3FFFFFF 0 (2 ^ 64 - 1) 0

/-- RCANCEL (R365). -/
def execRcancel (y : Bool) (ga : BitVec 4) (la : Bool) (s : State) : Out :=
  issue s { plainUse (.rcancel y ga la) y [(ga, la)] 0 with fail := true } fun t v =>
    let a := arg v 0
    if !aligned a 32 then .trap cALIGN a
    else if t.sched.defer then .hold (.cancel a) t
    else .done (cancelRecv t (dieOf t.fib.core) t.fib.ident.tenant a)

/-- RECEIVE_CANCEL_EVENT (R365). -/
def cancelEvent (s : State) (f : Nat) : State :=
  match fibreOf s f with
  | none => s
  | some x =>
    match x.run with
    | .parked (.cancel va) => complete (cancelRecv s (dieOf x.core) x.ident.tenant va) f none
    | _ => s

/-- RPROBE (R366). -/
def execRprobe (y : Bool) (gd ga : BitVec 4) (la : Bool) (s : State) : Out :=
  issue s { plainUse (.rprobe y gd ga la) y [(ga, la)] gd with fail := true } fun t v =>
    let a := arg v 0
    if !aligned a 8 then .trap cALIGN a
    else readBlock 3 t a [] fun t ws =>
      let w2 := (ws.getD 2 0).toNat
      if nf w2 26 6 ≠ 0 ∨ nf w2 58 6 ≠ 0 then .trap cRESBITS a
      else
        let s26 := BitVec.ofNat 26 (w2 / 2 ^ 32)
        let p26 := BitVec.ofNat 26 w2
        let hit := (recvOf t (dieOf t.fib.core)).unexp.find? fun p => p.ten == t.fib.ident.tenant
          && (p.src &&& s26) == (p26 &&& s26)
          && (BitVec.ofNat 64 (msgTag p) &&& ws.getD 1 0) == (ws.getD 0 0 &&& ws.getD 1 0)
        .done (setLong t gd (match hit with
          | some p => BitVec.ofNat 64 (2 ^ 63 + p.src.toNat * 2 ^ 32 + msgLen p % 2 ^ 32)
          | none => 0) 0)

/-- RSTAT (R366). -/
def execRstat (y : Bool) (gd ga : BitVec 4) (la : Bool) (s : State) : Out :=
  issue s { plainUse (.rstat y gd ga la) y [(ga, la)] gd with fail := true } fun t v =>
    let a := arg v 0
    if 2 ≤ a.toNat then .trap cRESBITS a
    else
      let e := recvOf t (dieOf t.fib.core)
      let mine := fun (x : BitVec 4) => a == 1 || x == t.fib.ident.tenant
      .done (setLong t gd (BitVec.ofNat 64 ((e.posted.filter fun r => mine r.ten).length * 2 ^ 32
        + (e.unexp.filter fun p => mine p.ten).length)) 0)

/-- The packets of `net.arrivals` without number `k`. -/
def dropArrival (s : State) (k : Nat) : State := { s with net := { s.net with arrivals := dropAt s.net.arrivals k } }

/-- Whether no earlier packet of the same pair of agents still waits to be taken (R178). -/
def inOrder (s : State) (k : Nat) (p : Packet) : Bool :=
  !(s.net.arrivals.take k).any fun q => q.src == p.src && q.dst == p.dst

/-- An arrival at a receive engine (R216, R217): matched, kept as unexpected, or sent back with QFULL. -/
def sendArrive (s : State) (p : Packet) : State :=
  let die := idAgent p.dst - 0x444
  let e := recvOf s die
  let ack := fun (s : State) => if isOwnIdent s p.src then s else answer s p 3 0 [] []
  match takeFirst (fun r => recvMatch r p) e.posted with
  | some (r, rest) => matched (ack (setRecv s die { e with posted := rest })) die r p
  | none =>
    if e.unexp.length < 1024 then ack (setRecv s die { e with unexp := e.unexp ++ [p] })
    else if isOwnIdent s p.src then
      match s.net.outst.find? fun o => o.id == p.reqid.toNat with
      | some o => dropOutst (completeWord (raiseClock s o.core (clockOf s (die * 256))) o cQFULL) o.id
      | none => s
    else answer s p 5 3 p.area p.data

/-- EAGER_SEND_ARRIVAL (R218): a message of two packets is taken when both are here. -/
def eagerArrive (s : State) (k : Nat) : State :=
  match s.net.arrivals[k]? with
  | none => s
  | some p =>
    if p.kind ≠ 6 ∨ p.second = true ∨ inOrder s k p = false then s
    else if msgLen p + (if p.status = 7 then 8 else 0) ≤ 3804 then sendArrive (dropArrival s k) p
    else
      match takeFirst (fun q => q.kind == 6 && q.second && q.src == p.src && q.dst == p.dst) (s.net.arrivals.drop (k + 1)) with
      | none => s
      | some (q, rest) =>
        let s := { s with net := { s.net with arrivals := s.net.arrivals.take k ++ rest } }
        let s := if isOwnIdent s q.src then s else answer s q 3 0 [] []
        sendArrive s { p with data := p.data ++ q.data }

/-- RENDEZVOUS_REQUEST_ARRIVAL (R218). -/
def rendezvousArrive (s : State) (k : Nat) : State :=
  match s.net.arrivals[k]? with
  | none => s
  | some p => if p.kind = 7 ∧ inOrder s k p = true then sendArrive (dropArrival s k) p else s

/-- SEND_COMPLETION_ARRIVAL (R363): a completion or a return of a send. -/
def sendCompletion (s : State) (k : Nat) : State :=
  match s.net.arrivals[k]? with
  | none => s
  | some p =>
    match s.net.outst.find? fun o => o.id == p.reqid.toNat && (o.kind == 6 || o.kind == 7) with
    | none => s
    | some o =>
      if p.kind = 11 then
        dropOutst (completeWord (raiseClock (dropArrival s k) o.core p.clock.toNat) o (areaNat p 0 4 * 2 ^ 32 + areaNat p 4 1 % 64)) o.id
      else if p.kind = 5 then
        dropOutst (completeWord (raiseClock (dropArrival s k) o.core p.clock.toNat) o (statusCause p.status.toNat)) o.id
      else if p.kind = 3 then dropArrival s k
      else s

/-- Event RECEIVE_POST_EVENT (R216). -/
def execReceivePostEvent (f : Nat) (s : State) : Out := .next (postEvent s f [0, 1, 2, 3])
/-- Event RECEIVE_CANCEL_EVENT (R365). -/
def execReceiveCancelEvent (f : Nat) (s : State) : Out := .next (cancelEvent s f)
/-- Event EAGER_SEND_ARRIVAL (R216). -/
def execEagerSendArrival (k : Nat) (s : State) : Out := .next (eagerArrive s k)
/-- Event RENDEZVOUS_REQUEST_ARRIVAL (R218). -/
def execRendezvousRequestArrival (k : Nat) (s : State) : Out := .next (rendezvousArrive s k)
/-- Event RENDEZVOUS_PULL_COMPLETE (R218). -/
def execRendezvousPullComplete (c : Nat) (s : State) : Out := .next (pullComplete s c [0, 1, 2, 3])
/-- Event SEND_COMPLETION_ARRIVAL (R363). -/
def execSendCompletionArrival (k : Nat) (s : State) : Out := .next (sendCompletion s k)

end Sys2Proof.Machine
end

