-- ==== Sys2Proof/Machine/Messaging.lean ====
section
/-! DEFINITION. Sends and active messages: SEND, AMSG, HTSET and HTCLR, the handler table, handler units and answers (R210-R212,
R362, R363, R367, R368). -/

namespace Sys2Proof.Machine

/-- The kind area of an eager packet (R442): TAG, MLEN and MOFF. -/
def eagerArea (tag : Word) (len off : Nat) : List Byte := leBytes 8 tag.toNat ++ leBytes 4 len ++ leBytes 4 off

/-- The kind area of a rendezvous request (log entry 13): TAG, LEN and SRCVA. -/
def sendArea (tag : Word) (len : Nat) (src : Word) : List Byte := leBytes 8 tag.toNat ++ leBytes 4 len ++ leBytes 8 src.toNat

/-- What an eager message carries (R218, R422): its bytes, and to another module, with poisoned words among them, the value that stands for
those after them, under STATUS POISON (log entry 13). -/
def eagerData (p : Payload) (len : Nat) (own : Bool) : List Byte × BitVec 8 :=
  if own || p.bad.isEmpty then (leBytes len p.val, 0) else (leBytes len (markedVal p) ++ leBytes 8 (poisonCode p), 7)

/-- A SEND leaves (R218, R363): a rendezvous request, or an eager message read now in one packet or two, each with its own REQID
(R206). -/
def sendOut (s : State) (o : Outst) (tag : Word) (scope : BitVec 4) (rel : Bool) : State :=
  let (n, s) := freshId s
  let core := s.fib.core
  let o := { o with id := n }
  match unreachableId s o.dst with
  | some c => completeWord s o c
  | none =>
    if 4096 < o.len then
      sendPacket (addOutst s o) (mkPacket s core o.dst 7 o.ten n scope rel (sendArea tag o.len o.src) [])
    else
      let x := readPieces s (fibreAgent s) (runPieces o.runs) 0 ⟨0, 0, [], 0⟩
      if x.2.cause ≠ 0 then completeWord x.1 o (msgCode x.2.cause)
      else
        let d := eagerData x.2 o.len (isOwnIdent s o.dst)
        let part := fun (s : State) (id off : Nat) (bs : List Byte) =>
          { mkPacket s core o.dst 6 o.ten id scope rel (eagerArea tag o.len off) bs with
            status := d.2
            second := off != 0 }
        let s := addOutst x.1 { o with bad := x.2.bad }
        let s := sendPacket s (part s n 0 (d.1.take 3804))
        if d.1.length ≤ 3804 then s
        else
          let (n2, s) := freshId s
          sendPacket s (part s n2 3804 (d.1.drop 3804))

/-- SEND after its checks (R362, R363): it waits for room among the outstanding messages, for the fibre's earlier accesses and for the
words of other modules that an eager message carries, and leaves. -/
def sendEff (t : State) (o : Outst) (tag : Word) (scope : BitVec 4) (rel : Bool) : Eff :=
  if 32 ≤ msgOut t t.fib.core then .later .outst (.send o tag scope rel) t
  else if !allPerformed t t.fib.id then .later .accesses (.send o tag scope rel) t
  else
    let g := if o.len ≤ 4096 then gather t (fibreAgent t) (runPieces o.runs) else (t, true)
    let t := g.1
    if !g.2 then .later .fetch (.send o tag scope rel) t
    else
      let t := releaseAt t o.ten t.fib.core 4
      let t := if rel then releaseAt t o.ten t.fib.core scope else t
      .done (sendOut t o tag scope rel)

/-- SEND (R362, R363). -/
def execSend (y : Bool) (ga : BitVec 4) (la : Bool) (scope : BitVec 4) (rel : Bool) (s : State) : Out :=
  issue s { plainUse (.send y ga la scope rel) y [(ga, la)] 0 with fail := true } fun t v =>
    let a := arg v 0
    if !aligned a 32 then .trap cALIGN a
    else readBlock 4 t a [] fun t ws =>
      let w1 := (ws.getD 1 0).toNat
      let dst := BitVec.ofNat 26 w1
      let len := w1 / 2 ^ 32
      let src := ws.getD 2 0
      let cpl := ws.getD 3 0
      if nf w1 26 6 ≠ 0 ∨ idAgent dst < 0x444 ∨ 0x447 < idAgent dst ∨ 2 ^ 24 < len then .trap cRESBITS a
      else if idPod dst = t.dev.pod.toNat ∧ populatedMod t (idMod dst) = false then .trap cBOUND a
      else if idPod dst ≠ t.dev.pod.toNat ∧ 4096 < len then .trap cBOUND a
      else if src.toNat % 8 ≠ 0 then .trap cALIGN src
      else match sideRows false t .load [(src.toNat, len)] [] with
        | .error e => e
        | .ok ps =>
          match if cpl = 0 then Chk.ok ⟨0, 0, 0, 0, false, 0, 0, 0⟩ else checkWord t cpl with
          | .bad c x => .trap c x
          | .wait w t => .park w t
          | .ok st =>
            sendEff t (outstOf t (if len ≤ 4096 then 6 else 7) (if cpl = 0 then none else some st.pa) dst (sideRuns ps) src len) (ws.getD 0 0)
              scope rel

/-- Whether AMSG may carry a HANDLER value (R210, R367). -/
def handlerAllowed (h : Nat) : Bool :=
  if nb h 63 then nf h 8 55 == 0 && (let c := h % 256; (decide (4 ≤ c) && decide (c ≤ 7)) || c == 0x0A || c == 0x0B)
  else nf h 8 55 == 0

/-- An AMSG's answer reaches its sender (R367): STATUS 0 is acceptance. `dst` is the destination core's identity. -/
def amsgAnswered (s : State) (o : Outst) (status : Nat) (dst : BitVec 26) : State :=
  match o.cpl with
  | some _ => dropOutst (completeWord s o (status % 256)) o.id
  | none =>
    let s := dropOutst s o.id
    if status = 0 then complete s o.fib none
    else completeTrap s o.fib (statusCause status) (if status ≤ 2 then BitVec.ofNat 64 status else zext dst)

/-- A message of this module or another is answered (R367): at once, or by a response or return. -/
def answerMsg (s : State) (p : Packet) (status : Nat) : State :=
  if isOwnIdent s p.src then
    match s.net.outst.find? fun o => o.id == p.reqid.toNat with
    | some o => amsgAnswered (raiseClock s o.core (clockOf s (agentUnit (idAgent p.dst)))) o status p.dst
    | none => s
  else if status = 0 then answer s p 3 0 [] [] else answer s p 5 status p.area p.data

/-- AMSG after its checks (R367): it waits for room among the outstanding messages, and as a release for the fibre's earlier accesses;
a synchronous one then waits for its answer. `area` is its kind area. -/
def amsgEff (t : State) (o : Outst) (area : List Byte) (scope : BitVec 4) (rel : Bool) : Eff :=
  if 32 ≤ msgOut t t.fib.core then .later .outst (.amsg o area scope rel) t
  else if rel && !allPerformed t t.fib.id then .later .accesses (.amsg o area scope rel) t
  else match unreachableId t o.dst, o.cpl with
    | some c, none => .report c (zext o.dst)
    | some c, some _ => .done (completeWord (if rel then releaseAt t o.ten o.core scope else t) o (causeStatus c))
    | none, _ =>
      let t := if rel then releaseAt t o.ten o.core scope else t
      let (n, t) := freshId t
      let t := addOutst t { o with id := n }
      let t := sendPacket t (mkPacket t o.core o.dst 4 o.ten n scope rel area [])
      if o.cpl.isNone then .hold (.amsg n) t else .done t

/-- AMSG (R367). -/
def execAmsg (y : Bool) (ga : BitVec 4) (la : Bool) (gb : BitVec 4) (lb : Bool) (scope : BitVec 4) (rel : Bool) (s : State) : Out :=
  issue s { plainUse (.amsg y ga la gb lb scope rel) y
      [(ga, la), (gb, lb), (1, false), (2, false), (3, false), (4, false), (5, false)] 0 with fail := true } fun t v =>
    let a := arg v 0
    let h := arg v 1
    let dst := a.setWidth 26
    let cpl := arg v 6
    if 2 ^ 26 ≤ a.toNat ∨ 1024 ≤ idAgent dst then .trap cRESBITS a
    else if handlerAllowed h.toNat = false then .trap cRESBITS h
    else if idPod dst = t.dev.pod.toNat ∧ populatedMod t (idMod dst) = false then .trap cBOUND a
    else match if cpl = 0 then Chk.ok ⟨0, 0, 0, 0, false, 0, 0, 0⟩ else checkWord t cpl with
      | .bad c x => .trap c x
      | .wait w t => .park w t
      | .ok st =>
        amsgEff t (outstOf t 4 (if cpl = 0 then none else some st.pa) dst [] 0 0)
          (leBytes 8 h.toNat ++ leBytes 8 (arg v 2).toNat ++ leBytes 8 (arg v 3).toNat ++ leBytes 8 (arg v 4).toNat
            ++ leBytes 8 (arg v 5).toNat) scope rel

/-- Write a handler table entry: valid with a PC, or not valid. -/
def putHandler (s : State) (ten e : Nat) (v : BitVec 65) : State :=
  let t := tenantOf s ten
  setTenant s ten { t with handlers := if v.getLsbD 64 then tset t.handlers e (v.setWidth 64) else tdel t.handlers e }

/-- A rewrite of an entry begins (R211): a rewrite already under way takes effect first. -/
def startRewrite (s : State) (ten e : Nat) (v : BitVec 65) : State :=
  let s := match (tenantOf s ten).rewrites.find? fun p => p.1 == e with
    | some p => putHandler s ten e p.2
    | none => s
  let t := tenantOf s ten
  setTenant s ten { t with rewrites := tset t.rewrites e v }

/-- HTSET and HTCLR after their checks (R368). -/
def rewriteEntry (t : State) (e : Nat) (v : BitVec 65) : Eff :=
  if !allPerformed t t.fib.id then .later .accesses (.rewrite e v) t
  else
    let ten := t.fib.ident.tenant
    let t := releaseAt t ten t.fib.core 4
    if t.sched.defer then .hold (.rewrite (ten.toNat * 256 + e)) (startRewrite t ten.toNat e v)
    else match (tenantOf t ten.toNat).rewrites.find? fun p => p.1 == e with
      | some _ => .hold (.rewrite (ten.toNat * 256 + e)) (startRewrite t ten.toNat e v)
      | none => .done (putHandler t ten.toNat e v)

/-- HTSET (R368). -/
def execHtset (y : Bool) (ga : BitVec 4) (la : Bool) (gb : BitVec 4) (lb : Bool) (s : State) : Out :=
  issue s { plainUse (.htset y ga la gb lb) y [(ga, la), (gb, lb)] 0 with fail := true } fun t v =>
    if 255 < (arg v 0).toNat then .trap cBOUND (arg v 0)
    else if !aligned (arg v 1) 4 then .trap cALIGN (arg v 1)
    else rewriteEntry t (arg v 0).toNat (BitVec.ofNat 65 (2 ^ 64 + (arg v 1).toNat))

/-- HTCLR (R368). -/
def execHtclr (y : Bool) (ga : BitVec 4) (la : Bool) (s : State) : Out :=
  issue s { plainUse (.htclr y ga la) y [(ga, la)] 0 with fail := true } fun t v =>
    if 255 < (arg v 0).toNat then .trap cBOUND (arg v 0) else rewriteEntry t (arg v 0).toNat 0

/-- Whether a message of the same pair stands before an arrival, in the arrivals or held for a rewrite (R178). -/
def pairFirst (s : State) (k : Nat) (p : Packet) : Bool :=
  inOrder s k p && !s.net.held.any fun h => h.pkt.src == p.src && h.pkt.dst == p.dst

/-- ACTIVE_MESSAGE_ARRIVAL (R211, R367, R437): the entry is checked, and the message queued with the entry's PC, held during a
rewrite while fewer than 64 are held on its core die, or returned. -/
def messageArrive (s : State) (k : Nat) : State :=
  match s.net.arrivals[k]? with
  | none => s
  | some p =>
    let h := areaNat p 0 8
    if p.kind ≠ 4 ∨ nb h 63 = true ∨ pairFirst s k p = false then s
    else
      let s := dropArrival s k
      let core := idAgent p.dst
      let t := tenantOf s p.ten.toNat
      let busy := t.rewrites.any fun x => x.1 == h % 256
      if busy && decide ((s.net.held.filter fun x => x.die == dieOf core).length < 64) then
        { s with net := { s.net with held := s.net.held ++ [⟨dieOf core, p⟩] } }
      else
      let s := raiseClock s core p.clock.toNat
      if busy then answerMsg s p 2
      else match t.handlers.find? fun x => x.1 == h % 256 with
        | none => answerMsg s p 1
        | some x =>
          let c := coreOf s core
          if 64 ≤ c.hq.length then answerMsg s p 3
          else
            let s := setCore s core { c with
              hq := c.hq ++ [{ p with area := leBytes 8 x.2.toNat ++ p.area.drop 8 }] }
            answerMsg s p 0

/-- The five registers a handler starts with (R212). -/
def handlerRegs (f : Fibre) (p : Packet) : Fibre :=
  [1, 2, 3, 4].foldl (fun f k => putReg f (BitVec.ofNat 4 k) (BitVec.ofNat 64 (areaNat p (8 * k) 8)))
    (putReg f 5 (zext p.src))

/-- HANDLER_START (R212, R179): the next message's handler, once the previous one has ended. -/
def handlerStart (s : State) (core : Nat) : State :=
  let c := coreOf s core
  match c.hq with
  | [] => s
  | p :: r =>
    if (allFibres s).any fun f => f.ident.kind == .handler && f.core == core && decide (f.run ≠ .exited) then s
    else
      let s := setCore s core { c with hq := r }
      let s := if p.rel then acquireLv s core p.scope (levelIn p.mask core p.scope) else s
      addFibre s (handlerRegs { Fibre.blank with
        core := core
        run := .eligible
        pc := BitVec.ofNat 64 (areaNat p 0 8)
        ident := { Ident.none with kind := .handler, tenant := p.ten, budget := 15, tscope := 4 } } p)

/-- HANDLER_REWRITE_END (R211): the entry takes its value everywhere, its writers go on, and the messages held for it arrive
again. -/
def rewriteEnd (s : State) (k : Nat) : State :=
  let ten := k / 256
  let e := k % 256
  match (tenantOf s ten).rewrites.find? fun x => x.1 == e with
  | none => s
  | some x =>
    let s := putHandler s ten e x.2
    let t := tenantOf s ten
    let s := setTenant s ten { t with rewrites := tdel t.rewrites e }
    let mine := fun (h : Held) => h.pkt.ten.toNat == ten && areaNat h.pkt 0 8 % 256 == e
    let back := (s.net.held.filter mine).map (·.pkt)
    let s := { s with net := { s.net with held := s.net.held.filter fun h => !mine h, arrivals := back ++ s.net.arrivals } }
    ((allFibres s).filter fun f => f.run == .parked (.rewrite k)).foldl (fun s f => complete s f.id none) s

/-- HANDLER_REWRITE_TIMEOUT (R211): a held message is returned with BUSY. -/
def rewriteTimeout (s : State) (k : Nat) : State :=
  match s.net.held[k]? with
  | none => s
  | some h => answerMsg { s with net := { s.net with held := dropAt s.net.held k } } h.pkt 2

/-- AMSG_RESPONSE_ARRIVAL (R367, R356): a response or return from another module for a message or a notice. -/
def responseArrive (s : State) (k : Nat) : State :=
  match s.net.arrivals[k]? with
  | none => s
  | some p =>
    match s.net.outst.find? fun o => o.id == p.reqid.toNat && (o.kind == 4 || o.kind == 10) with
    | none => s
    | some o =>
      if p.kind ≠ 3 ∧ p.kind ≠ 5 then s
      else
        let s := raiseClock (dropArrival s k) o.core p.clock.toNat
        if o.kind = 4 then amsgAnswered s o p.status.toNat p.src
        else noticeAnswered s o p.status.toNat

/-- Event ACTIVE_MESSAGE_ARRIVAL (R211). -/
def execActiveMessageArrival (k : Nat) (s : State) : Out := .next (messageArrive s k)
/-- Event HANDLER_START (R212). -/
def execHandlerStart (core : Nat) (s : State) : Out := .next (handlerStart s core)
/-- Event HANDLER_REWRITE_END (R211). -/
def execHandlerRewriteEnd (k : Nat) (s : State) : Out := .next (rewriteEnd s k)
/-- Event HANDLER_REWRITE_TIMEOUT (R211). -/
def execHandlerRewriteTimeout (k : Nat) (s : State) : Out := .next (rewriteTimeout s k)
/-- Event AMSG_RESPONSE_ARRIVAL (R367). -/
def execAmsgResponseArrival (k : Nat) (s : State) : Out := .next (responseArrive s k)

end Sys2Proof.Machine
end

