-- ==== Sys2Proof/Machine/Builtins.lean ====
section
/-! DEFINITION. Requests that arrive for a home of this module: those of other modules (R170, R171, R213) and the built-in active
messages (R213), each performed at its line's home and answered. -/

namespace Sys2Proof.Machine

/-- A request as it is performed at a home of this module, for another agent: uncached there, in the home's own name. -/
def homeReq (s : State) (ten : BitVec 4) (clk : BitVec 64) (kind : ReqKind) (op n pa : Nat) (va gr : Nat) (data : Nat) : Req :=
  { blankReq s (homeUnit s pa) ten kind op n pa (BitVec.ofNat 64 va) with
    cp := 2
    gr := BitVec.ofNat 2 gr
    data := BitVec.ofNat 64 data
    clock := clk }

/-- The kind of a request by its code. -/
def codeKind (c : Nat) : ReqKind :=
  match c with
  | 0 => .load
  | 1 => .store
  | 2 => .atomic
  | 3 => .feLoad
  | 4 => .feStore
  | 5 => .waita
  | _ => .notify

/-- A remote access's request as its kind area gives it (log entry 13), and whether it asks for a lease. -/
def areaReq (s : State) (p : Packet) : Req × Bool :=
  let fl := areaNat p 26 1
  let pa := canonPa s (areaNat p 0 8)
  let r := homeReq s p.ten p.clock (codeKind (nf fl 3 3)) (areaNat p 25 1) (areaNat p 24 1) pa (areaNat p 28 8) (areaNat p 27 1)
    (areaNat p 8 8)
  ({ r with
    expect := BitVec.ofNat 64 (areaNat p 16 8)
    uns := nb fl 0
    sc := nb fl 1
    mon := nb fl 6 }, nb fl 2)

/-- Whether a request of another module may reach an address of this one (R30, R146, R221). -/
def homeAllows (s : State) (r : Req) (pa : Nat) : Bool :=
  match regionOf pa with
  | 0 => true
  | 2 => s.allocs.any fun a => (a.ten == r.ten || r.mon) && !a.unmapped && (a.die == nf pa 29 1 || a.mir)
      && decide (a.gran ≤ pa % 2 ^ 29 / 65536) && decide (pa % 2 ^ 29 / 65536 < a.gran + a.count)
  | 3 => mayReach s r.ten (if r.mon then 2 else 0) pa
  | _ => false

/-- The kind area of a response (log entry 13): the value, the line's WT, or the timestamp of an .sc load, and the lease end, or a slot's
flags or whether it was full. -/
def respArea (v wt le : Nat) : List Byte := leBytes 8 v ++ leBytes 8 wt ++ leBytes 8 le

/-- The poisoned words of a line that a response brings, by bits from its first (R422); the response's area holds them last. -/
def lineMarks (s : State) (r : Req) : List Byte :=
  leBytes 8 ((List.range (grainBytes r.gr / 8)).foldl (fun a k => a + b1 (poisoned s (lineBase r.gr r.pa + 8 * k) 8) * 2 ^ k) 0)

/-- A lease on a line (R170): LE and H at the home, with the line's bytes. -/
def grantLease (s : State) (r : Req) (c : Nat) : State × Nat × List Byte :=
  let k := lineKey r.gr r.pa
  let t := tsOf s k
  let le := max c t.wt + s.dev.lease.toNat
  (setTs s k { t with h := max t.h le }, le, (List.range (grainBytes r.gr)).map fun i => mget s.ms.mem (lineBase r.gr r.pa + i))

/-- Whether a request acts on a whole message slot: a GMSG (6), or the reading of one by GBEL, which empties it (8) or looks
at its header (9). -/
def isSlot (r : Req) : Bool := (r.kind == .feStore && r.op == 6) || (r.kind == .feLoad && (r.op == 8 || r.op == 9))

/-- The dimension of a slot request. -/
def slotDim (r : Req) : Nat := if r.kind = .feStore then r.data.toNat / 256 % 16 else r.data.toNat % 16

/-- The bytes that a request acts on. -/
def reqBytes (r : Req) : Nat := if isSlot r then slotBytes (slotDim r) else r.n

/-- A slot request of another module is performed (R229, R231): its value, its third word and its data, or the cause that stops it. A slot
that is only looked at gives its header, and whether a data word that GBEL would read is poisoned. -/
def slotServe (s : State) (r : Req) (data : List Byte) : Except Nat (State × Word × Nat × List Byte) :=
  let pas := (List.range (reqBytes r / 8)).map fun k => r.pa + 8 * k
  let bad := slotPoison s r.va pas (slotDim r) (r.kind != .feStore || r.data.toNat % 256 != 0)
  if (if r.op = 9 then poisoned s r.pa 8 else bad.isSome) then .error cPOISON
  else if r.op = 9 then .ok (s, slotWord s pas 0, b1 bad.isSome, [])
  else if r.kind = .feStore then
    let vals := (List.range (pas.length - 1)).map fun k => BitVec.ofNat 64 (leNat ((data.drop (8 * k)).take 8))
    let x := slotWrite s r.core ⟨r.id, r.va, pas, slotDim r, r.data.toNat % 256, vals, r.expect.setWidth 5⟩
    .ok (x.1, x.2.1, x.2.2.toNat, [])
  else
    .ok (setFull s r.pa false, slotWord s pas 0, b1 (isFull s r.pa), pas.flatMap fun a => leBytes 8 (mrd s.ms.mem a 8))

/-- A request is performed at its home: its outcome, and the third word and the data of its answer. -/
def performAt (s : State) (p : Packet) (r : Req) : Perf × Nat × List Byte :=
  if !isSlot r then (performHere s r, 0, [])
  else if r.kind = .feStore && !(feReady s 6 r.pa && !feBehind s (placeOfReq s r) 6 r.pa) then
    (if feWaiting s (spadCore r.pa) < 64 ∨ r.arrived = true then .wait s else .refused, 0, [])
  else match slotServe s r p.data with
    | .error c => (.fail s c, 0, [])
    | .ok x => (.done x.1 x.2.1, x.2.2)

/-- The answer to a performed request (R206, R213): a built-in message of this module is answered as a message. -/
def answerDone (s : State) (p : Packet) (r : Req) (v : Word) (x : Nat) (data : List Byte) : State :=
  if isOwnIdent s p.src then answerMsg s p 0
  else
    let wt := (tsOf s (lineKey r.gr r.pa)).wt
    let ts := if r.kind = .load ∧ r.sc = true then max r.clock.toNat wt + 1 else wt
    answer s p 3 0 (respArea v.toNat ts x ++ if data.isEmpty then [] else lineMarks s r) data

/-- The answer to a request that fails; a poisoned word travels with its mark (R422). -/
def answerFail (s : State) (p : Packet) (r : Req) (c : Nat) : State :=
  if isOwnIdent s p.src then answerMsg s p (causeStatus c)
  else answer s p 3 (causeStatus c) (respArea (if c = cPOISON then mrd s.ms.mem r.pa r.n else 0) 0 0) []

/-- A request that must wait at its home begins its wait, in its place behind those already there (R145, R299). -/
def beginWait (s : State) (p : Packet) (r : Req) : State :=
  let (n, s) := freshId s
  if r.kind = .waita then
    { s with watches := modWhere (fun w => w.req == r.id) (fun w => { w with req := n, rem := some p }) s.watches }
  else
    { s with ms := { s.ms with reqs := s.ms.reqs ++ [{ r with
      id := n
      place := n
      arrived := true
      rem := some p }] } }

/-- A remote atomic leaves its line in the atomic cache of the port it came through, which holds 128 lines (R213). -/
def portLine (s : State) (p : Packet) (r : Req) : State :=
  if r.kind ≠ .atomic ∨ regionOf r.pa = 3 ∨ isOwnIdent s p.src = true then s
  else
    let here := fun (a : AtomLine) => a.port == p.port
    let as := if 128 ≤ (s.net.atomics.filter here).length then
      (match takeFirst here s.net.atomics with
        | some x => x.2
        | none => s.net.atomics)
      else s.net.atomics
    exchange { s with net := { s.net with atomics := as ++ [⟨p.port, lineBase r.gr r.pa, grainBytes r.gr, idMod p.src⟩] } }
      (1092 + p.port) r.core

/-- An arrival goes to the back: its home refused it, and it is tried again (R139). -/
def laterArrival (s : State) (k : Nat) (p : Packet) : State :=
  { s with net := { s.net with arrivals := dropAt s.net.arrivals k ++ [p] } }

/-- The SSTAMP of a notice that another module has taken ends it (R214, R356). -/
def noticeEnds (s : State) (p : Packet) (r : Req) : State :=
  if r.kind ≠ .feStore ∨ r.op ≠ 3 then s
  else match s.net.outst.find? fun o => o.kind == 110 && o.dst == p.src && o.cpl == some r.pa with
    | some o => dropOutst s o.id
    | none => s

/-- A request whose checks have passed is performed at its home and answered, waits there, or is refused (R139, R145, R171, R213). -/
def serveAt (s : State) (k : Nat) (p : Packet) (r : Req) (lease : Bool) : State :=
  let s1 := raiseClock (dropArrival s k) r.core p.clock.toNat
  match performAt s1 p r with
  | (.done t v, x, data) =>
    let t := noticeEnds (portLine { t with ms := { t.ms with attrs := s.ms.attrs } } p r) p r
    if lease then
      let g := grantLease t r p.clock.toNat
      answerDone g.1 p r v g.2.1 g.2.2
    else answerDone t p r v x data
  | (.fail t c, _, _) => answerFail t p r c
  | (.wait t, _, _) => beginWait t p r
  | (.refused, _, _) => laterArrival s k p

/-- A word of the source of a message of this module, read for its puller at the address that the sender gave (R214, R218): the page is
translated now. A word that lies on a third module is fetched first. -/
def serveSource (s : State) (k : Nat) (p : Packet) (r : Req) : State :=
  let s1 := raiseClock (dropArrival s k) (agentUnit (idAgent p.dst)) p.clock.toNat
  match s.net.outst.find? fun o => o.id == r.expect.toNat && o.ten == p.ten with
  | none => answerFail s1 p r cWINDOW
  | some o =>
    match sourceWord s o (r.va - o.src).toNat with
    | none => answerFail s1 p r (msgCode (sourceRuns s o).2)
    | some q =>
      let e : Agent := ⟨.cmd o.id, o.core, o.ten, o.pl == 2⟩
      let g := gather s e [q]
      if !g.2 then g.1
      else match engRead (raiseClock (dropArrival g.1 k) (agentUnit (idAgent p.dst)) p.clock.toNat) e 0 q with
        | .error c => answerFail s1 p r c
        | .ok (t, v, bad) =>
          if bad then answer t p 3 (causeStatus cPOISON) (respArea v 0 0) [] else answer t p 3 0 (respArea v 0 0) []

/-- Whether an engine's ownership holds a request back at its home (R175). -/
def heldBack (s : State) (r : Req) : Bool := r.kind != .waita && r.kind != .notify && owned s r.pa (reqBytes r)

/-- A request of another module at its home (R145, R171, R213, R299, R422). `k` is the packet's place among the arrivals. -/
def serve (s : State) (k : Nat) (p : Packet) (r : Req) (lease : Bool) : State :=
  if r.kind = .load ∧ r.op = 3 then serveSource s k p r
  else if isOwnMem s r.pa = false ∨ homeAllows s r r.pa = false ∨ homeAllows s r (r.pa + reqBytes r - 1) = false then
    answer (dropArrival s k) p 5 4 p.area p.data
  else if heldBack s r then s
  else if r.kind = .notify then
    let s := raiseClock (dropArrival s k) r.core p.clock.toNat
    if homeLost s r.pa then answerFail s p r cLOST
    else
      let x := notifyAt s r.ten r.pa (r.op == 1)
      answer x.1 p 3 0 (respArea x.2 0 0) []
  else serveAt s k p r lease

/-- Whether a message of a pair has begun and waits at its home (R178). The full/empty operations and WAITA of an instruction, which R178's list
leaves out, let later ones of the pair go on while they wait (DESIGN CHOICE, log entry 43). -/
def pairWaiting (s : State) (p : Packet) : Bool :=
  let of := fun (q : Packet) => q.src == p.src && q.dst == p.dst && q.kind == 4
  s.ms.reqs.any (fun r => r.rem.any of) || s.watches.any fun w => w.rem.any of

/-- Whether no earlier request of the pair is still to be taken, and no earlier message of it waits to complete (R178). -/
def requestFirst (s : State) (k : Nat) (p : Packet) : Bool :=
  !((s.net.arrivals.take k).any fun q => q.src == p.src && q.dst == p.dst) && !pairWaiting s p

/-- The built-in of a code (R213): request kind, operation, bytes and the access it is translated as (R293). -/
def builtinOp (c : Nat) : Option (ReqKind × Nat × Nat × AccKind) :=
  if c < 4 then some (.load, 0, 2 ^ c, .load)
  else if c < 8 then some (.store, 0, 2 ^ (c - 4), .store)
  else match c with
    | 8 => some (.feLoad, 0, 8, .load)
    | 9 => some (.feLoad, 1, 8, .atomic)
    | 10 => some (.feStore, 2, 8, .store)
    | 11 => some (.feStore, 3, 8, .store)
    | _ => none

/-- A built-in message is performed at its line's home (R213): ARG0 is translated under its tenant. A message whose ARG0 is misaligned, or fails
its translation, permission or reservation, is returned with STATUS WINDOW (DESIGN CHOICE, log entry 43: the spec gives no STATUS for
it). -/
def serveBuiltin (s : State) (k : Nat) (p : Packet) : State :=
  let core := idAgent p.dst
  let va := areaNat p 8 8
  match builtinOp (areaNat p 0 1) with
  | none => answerMsg (dropArrival s k) p 1
  | some (kind, op, n, ak) =>
    let refuse := answerMsg (dropArrival s k) p 4
    if va % n ≠ 0 then refuse
    else match translateAgent s core p.ten 0 ak va with
      | .ok a =>
        if isOwnMem s a.pa = false ∨ a.loc = 3 ∨ (kind ≠ .load ∧ kind ≠ .store ∧ a.loc ≠ 2)
          ∨ (regionOf a.pa = 3 ∧ mayReach s p.ten 0 a.pa = false) ∨ switchOther s p.ten a.pa = true then refuse
        else
          let r := homeReq s p.ten p.clock kind op n a.pa va a.gr.toNat (areaNat p 16 8)
          if heldBack s r then s else serveAt s k p r false
      | _ => refuse

/-- An arrival is served when its code is one of an event's: `rc` the remote request codes with their operations, `bc` the
built-in codes. -/
def serveIf (s : State) (k : Nat) (rc : Nat → Nat → Bool) (bc : Nat → Bool) : State :=
  match s.net.arrivals[k]? with
  | none => s
  | some p =>
    if requestFirst s k p = false then s
    else if p.kind.toNat ≤ 2 then
      if rc (nf (areaNat p 26 1) 3 3) (areaNat p 25 1) then let x := areaReq s p; serve s k p x.1 x.2 else s
    else if p.kind = 4 ∧ nb (areaNat p 0 8) 63 = true ∧ bc (areaNat p 0 1) = true then serveBuiltin s k p
    else s

/-- Event BUILTIN_LOAD (R213). -/
def execBuiltinLoad (k : Nat) (s : State) : Out :=
  .next (serveIf s k (fun c _ => c == 0) fun c => decide (c < 4) || decide (13 ≤ c))
/-- Event BUILTIN_STORE (R213). -/
def execBuiltinStore (k : Nat) (s : State) : Out :=
  .next (serveIf s k (fun c _ => c == 1) fun c => decide (4 ≤ c) && decide (c < 8))
/-- Event BUILTIN_LDF (R213); FEQ of another module is served with it. -/
def execBuiltinLdf (k : Nat) (s : State) : Out := .next (serveIf s k (fun c op => c == 3 && op != 1) fun c => c == 8)
/-- Event BUILTIN_LDFE (R213). -/
def execBuiltinLdfe (k : Nat) (s : State) : Out := .next (serveIf s k (fun c op => c == 3 && op == 1) fun c => c == 9)
/-- Event BUILTIN_STE (R213). -/
def execBuiltinSte (k : Nat) (s : State) : Out := .next (serveIf s k (fun c op => c == 4 && op == 2) fun c => c == 10)
/-- Event BUILTIN_STF (R213); FESET of another module is served with it. -/
def execBuiltinStf (k : Nat) (s : State) : Out := .next (serveIf s k (fun c op => c == 4 && op != 2) fun c => c == 11)
/-- Event REMOTE_ATOMIC (R213); WAITA and NOTIFY of another module are served with it. -/
def execRemoteAtomic (k : Nat) (s : State) : Out :=
  .next (serveIf s k (fun c _ => c == 2 || decide (5 ≤ c)) fun _ => false)

/-- Event LEASE_REFRESH (R213, R170): the recorded WT stands in the area's data word; the line goes with it only when its WT has
changed. -/
def execLeaseRefresh (k : Nat) (s : State) : Out :=
  .next (match s.net.arrivals[k]? with
    | none => s
    | some p =>
      let built := p.kind == 4 && nb (areaNat p 0 8) 63 && areaNat p 0 1 == 12
      if (p.kind ≠ 9 ∧ built = false) ∨ requestFirst s k p = false then s
      else
        let x := areaReq s p
        let at_ : Option (Nat × BitVec 2) := if p.kind = 9 then some (x.1.pa, x.1.gr)
          else match translateAgent s (idAgent p.dst) p.ten 0 .load (areaNat p 8 8) with
            | .ok a => some (a.pa, a.gr)
            | _ => none
        let was := if p.kind = 9 then areaNat p 8 8 else areaNat p 16 8
        let s1 := dropArrival s k
        match at_ with
        | none => answer s1 p 5 4 p.area p.data
        | some (pa, gr) =>
          if isOwnMem s pa = false ∨ homeAllows s x.1 pa = false then answer s1 p 5 4 p.area p.data
          else if owned s pa 8 then s
          else if homeLost s pa then answer s1 p 3 5 (respArea 0 0 0) []
          else
            let r := homeReq s p.ten p.clock .load 0 8 pa 0 gr.toNat 0
            let wt := (tsOf s1 (lineKey gr pa)).wt
            let g := grantLease (raiseClock (noteOwner s1 r false) r.core p.clock.toNat) r p.clock.toNat
            answer g.1 p 3 0 (respArea 0 wt g.2.1 ++ if wt = was then [] else lineMarks g.1 r) (if wt = was then [] else g.2.2))

end Sys2Proof.Machine
end

