-- ==== Sys2Proof/Machine/Control.lean ====
section
/-! DEFINITION. Control: branches, jumps, hardware loops, CALLAT, EXIT, TRIG, YIELD, ALIGN and MIGR (R283-R290,
R47-R62). -/

namespace Sys2Proof.Machine

/-- The target of a word offset (R259). -/
def relTarget (pc : Word) (off : Word) : Word := pc + 4 * off

/-- A transfer to a target, checked against the block of the active loops (R56). -/
def goTo (t : State) (target : Word) (f : State → State) : Eff :=
  if leavesBlock t.fib target then .trap cLOOPNEST target else .jump (f t) target

/-- A conditional branch (R283): the target of a branch not taken is not checked. -/
def branch (i : Instr) (y : Bool) (ga : Reg) (la : Bool) (gb : Reg) (lb : Bool) (off : BitVec 14)
    (cond : Word → Word → Bool) (s : State) : Out :=
  issue s (plainUse i y [(ga, la), (gb, lb)] 0) fun t v =>
    if cond (arg v 0) (arg v 1) then goTo t (relTarget t.fib.pc (sext off)) id else .done t

/-- BEQ (R283). -/
def execBeq (y : Bool) (ga : BitVec 4) (la : Bool) (gb : BitVec 4) (lb : Bool) (off : BitVec 14) (s : State) : Out :=
  branch (.beq y ga la gb lb off) y ga la gb lb off (fun a b => a == b) s

/-- BNE (R283). -/
def execBne (y : Bool) (ga : BitVec 4) (la : Bool) (gb : BitVec 4) (lb : Bool) (off : BitVec 14) (s : State) : Out :=
  branch (.bne y ga la gb lb off) y ga la gb lb off (fun a b => a != b) s

/-- BLT (R283), signed. -/
def execBlt (y : Bool) (ga : BitVec 4) (la : Bool) (gb : BitVec 4) (lb : Bool) (off : BitVec 14) (s : State) : Out :=
  branch (.blt y ga la gb lb off) y ga la gb lb off (fun a b => a.slt b) s

/-- BGE (R283), signed. -/
def execBge (y : Bool) (ga : BitVec 4) (la : Bool) (gb : BitVec 4) (lb : Bool) (off : BitVec 14) (s : State) : Out :=
  branch (.bge y ga la gb lb off) y ga la gb lb off (fun a b => !a.slt b) s

/-- LOOP (R54): its checks whatever the count, then a level pushed, or the body skipped when the count is 0. -/
def startLoop (t : State) (n : BitVec 32) (dist : Nat) : Eff :=
  let pc := t.fib.pc
  let stop := pc + BitVec.ofNat 64 (4 * dist)
  let beyond := match t.fib.loops with
    | [] => false
    | l :: _ => decide (l.stop.toNat < (wordIndex stop).toNat)
  if t.fib.loops.length ≥ 4 ∨ pcBlock stop ≠ pcBlock pc ∨ beyond = true then .trap cLOOPNEST pc
  else if n = 0 then .jump t (stop + 4)
  else .jump { t with fib := { t.fib with loops := ⟨n, wordIndex (pc + 4), wordIndex stop⟩ :: t.fib.loops } } (pc + 4)

/-- LOOP with a register count (R54, R285). -/
def execLoopReg (y : Bool) (ga : BitVec 4) (la : Bool) (dist : BitVec 14) (s : State) : Out :=
  issue s (plainUse (.loopReg y ga la dist) y [(ga, la)] 0) fun t v => startLoop t ((arg v 0).setWidth 32) dist.toNat

/-- LOOP with an immediate count (R54, R285). -/
def execLoopImm (y : Bool) (count : BitVec 16) (dist : BitVec 8) (s : State) : Out :=
  issue s (plainUse (.loopImm y count dist) y [] 0) fun t _ => startLoop t (count.setWidth 32) dist.toNat

/-- ENDLOOP (R56). -/
def execEndloop (y : Bool) (s : State) : Out :=
  issue s (plainUse (.endloop y) y [] 0) fun t _ =>
    match t.fib.loops with
    | [] => .trap cLOOPNEST t.fib.pc
    | l :: r => .jump { t with fib := { t.fib with loops := r } } (blockAddr t.fib.pc l.stop + 4)

/-- JAL (R284). -/
def execJal (y : Bool) (gd : BitVec 4) (imm : BitVec 20) (s : State) : Out :=
  issue s (plainUse (.jal y gd imm) y [] gd) fun t _ =>
    goTo t (relTarget t.fib.pc (sext imm)) fun t => setLong t gd (t.fib.pc + 4) 0

/-- JR (R284). -/
def execJr (y : Bool) (gd ga : BitVec 4) (la : Bool) (s : State) : Out :=
  issue s (plainUse (.jr y gd ga la) y [(ga, la)] gd) fun t v =>
    if !aligned (arg v 0) 4 then .trap cALIGN (arg v 0)
    else goTo t (arg v 0) fun t => setLong t gd (t.fib.pc + 4) 0

/-- Whether a core's task queue accepts an entry (R86, R236, R286, R424). -/
def acceptsTask (s : State) (core : Nat) : Bool :=
  decide ((coreOf s core).taskq.length < 32) && !gatewayClosed s core && !(coreOf s core).retired && !monitorOwn s core

/-- Put a task into a core's queue. -/
def pushTask (s : State) (core : Nat) (t : Task) : State :=
  let c := coreOf s core
  setCore s core { c with taskq := c.taskq ++ [t] }

/-- CALLAT's task (R286, R287). One that a fibre from another module calls gets its number from their home, 0 until then (R51). -/
def callTask (s : State) (v : List Word) (sc : BitVec 4) : Task :=
  let f := s.fib
  { pc := arg v 0
    args := [arg v 2, arg v 3, arg v 4, arg v 5]
    ret := arg v 6
    retScope := sc
    caller := (f.ident.guest.map (·.2)).getD f.id
    gang := f.ident.gang.getD 0
    gangid := f.ident.gangid ||| BitVec.ofNat 64 (2 ^ 63)
    fcoord := f.ident.fcoord
    fstage := f.ident.fstage
    node := none
    guest := f.ident.guest.map fun g => (g.1, 0)
    ten := f.ident.tenant
    budget := f.ident.budget
    tscope := f.ident.tscope
    lflags := launchFlags s f }

/-- An accepted task of the current fibre: into the core's queue, and the fibre's home hears of it when that is another module, since
the task belongs to the gang there (R51, R287). -/
def callTo (s : State) (core : Nat) (v : List Word) (sc : BitVec 4) : State :=
  let s := pushTask s core (callTask s v sc)
  match s.fib.ident.guest with
  | some (m, n) => tellModule s s.fib m n 10 (arg v 6) (leBytes 1 sc.toNat)
  | none => s

/-- CALLAT after its checks (R286): the earlier accesses performed at Sc, the task sent, and the fibre parked until the answer. `v` is what
it read. -/
def callatEff (t : State) (core : Nat) (v : List Word) : Eff :=
  if !allPerformed t t.fib.id then .later .accesses (.call core v) t
  else
    let sc := scopeOfCores t.fib.core core
    let t := exchange (releaseAt t t.fib.ident.tenant t.fib.core sc) t.fib.core core
    let ok := acceptsTask t core
    let t := if ok then callTo t core v sc else t
    .hold (.callat core (some ok)) t

/-- CALLAT (R286). -/
def execCallat (y : Bool) (ga : BitVec 4) (la : Bool) (gb : BitVec 4) (lb : Bool) (s : State) : Out :=
  let i := Instr.callat y ga la gb lb
  issue s ⟨i, y, false, 0, gangOnly i,
      [(ga, la), (gb, lb), (1, false), (2, false), (3, false), (4, false), (5, false)], 0, true⟩ fun t v =>
    let target := arg v 1
    if target.toNat > 1023 then .trap cBOUND target
    else if !aligned (arg v 0) 4 then .trap cALIGN (arg v 0)
    else match if arg v 6 = 0 then Chk.ok ⟨0, 0, 0, 0, false, 0, 0, 0⟩ else checkWord t (arg v 6) with
      | .bad c x => .trap c x
      | .wait w t => .park w t
      | .ok _ => callatEff t target.toNat v

/-- EXIT after its checks (R62): its accesses performed, the fibre ends. -/
def exitEff (t : State) (v : Word) : Eff :=
  if !allPerformed t t.fib.id then .later .accesses (.exit v) t else .raw (endFibre t t.fib.id v)

/-- EXIT (R62, R288): waits for long results, performs its accesses, and ends the fibre. -/
def execExit (y : Bool) (s : State) : Out :=
  let ret := s.fib.ident.kind = .task ∧ s.fib.ident.ret ≠ 0
  issue s ⟨.exit y, true, false, 0, fun _ => none, if ret then [(1, false)] else [], 0, true⟩ fun t v => exitEff t (arg v 0)

/-- TRIG after its checks (R60, R61, R288). -/
def trigEff (t : State) : Eff :=
  if !allPerformed t t.fib.id then .later .accesses .trig t
  else
    let t := releaseAt t t.fib.ident.tenant t.fib.core t.fib.ident.tscope
    let t := { t with fib := { t.fib with triggered := true } }
    .done (match t.fib.ident.guest with
      | some (m, n) => tellHome t t.fib m n 6 0
      | none => settleLaunch t t.fib.ident.launch)

/-- TRIG (R60, R61, R288): a release at the trigger scope that triggers the fibre; a task's has no effect. -/
def execTrig (y : Bool) (s : State) : Out :=
  issue s ⟨.trig y, y, false, 0, gangOnly (.trig y), [], 0, true⟩ fun t _ =>
    if t.fib.ident.kind = .task then .done t else trigEff t

/-- YIELD (R289): no architectural effect. -/
def execYield (y : Bool) (s : State) : Out := issue s (plainUse (.yield y) y [] 0) fun t _ => .done t

/-- Whether two fibres belong to one gang: a gang of this module, or of another from which both have come (R51). -/
def sameGang (f x : Fibre) : Bool :=
  match f.ident.gang, x.ident.gang with
  | some a, some b => a == b
  | none, none => f.ident.guest.isSome && (f.ident.guest.map (·.1)) == (x.ident.guest.map (·.1))
      && f.ident.gangid.toNat % 2 ^ 63 == x.ident.gangid.toNat % 2 ^ 63
  | _, _ => false

/-- Whether a fibre waits at the same ALIGN on another core of the cluster (R53). -/
def alignMate (f x : Fibre) : Bool :=
  x.run == .parked .align && x.pc == f.pc && sameGang f x && x.core != f.core && clusterOf x.core == clusterOf f.core

/-- ALIGN (R53, R289): stalls until a fibre of the gang on another core reaches the same address, or the limit; an
operand of 0 completes at once. Whoever waits there stops waiting. -/
def execAlign (y : Bool) (n : BitVec 6) (s : State) : Out :=
  issue s (plainUse (.align y n) y [] 0) fun t _ =>
    if n = 0 then .done t
    else match t.fibres.filter (alignMate t.fib) with
      | [] => .hold .align t
      | xs => .done (xs.foldl (fun t x => complete t x.id none) t)

/-- MIGR from its wait for the fibre's long results and accesses on (R49, R50, R290): `free` are the registers that it frees. -/
def migrEff (t : State) (free : BitVec 16) (d : Reg) (pa : Nat) : Eff :=
  if !allReady t.fib then .later .marker (.migr pa) t
  else if !allPerformed t t.fib.id then .later .accesses (.migr pa) t
  else
    let t := { t with fib := drain t.fib }
    if t.fib.failure.isSome then .trap 0 0
    else match firstMark t.fib with
    | some e => .report e.cause.toNat e.addr
    | none =>
    if isRemote t pa then
      let o := offerRemote t pa true (stepPc (freeRegs t.fib free)) d
      .hold o.1 o.2
    else if acceptsFibre t t.fib (spadCore pa) then .travel (spadCore pa) t
    else .done (setLong t d 2 0)

/-- MIGR (R290). -/
def execMigr (y : Bool) (gd ga : BitVec 4) (la : Bool) (s : State) : Out :=
  let i := Instr.migr y gd ga la
  let u : Use := ⟨i, y, false, 0, gangOnly i, [(ga, la)], gd, true⟩
  issue s u fun t v =>
    match firstMark t.fib with
    | some e => .report e.cause.toNat e.addr
    | none =>
      if !aligned (arg v 0) 8 then .trap cALIGN (arg v 0)
      else match translateFibre t t.fib .load (arg v 0).toNat with
        | .bad c => .trap c (arg v 0)
        | .ring => .park (.ring (arg v 0)) t
        | .miss => let w := askHome t (arg v 0); .park w.1 w.2
        | .ok a =>
          if a.loc ≠ 2 then .trap cXPROT (arg v 0)
          else if holdsLease t t.fib then .trap cLEASE (arg v 0)
          else if !isRemote t a.pa && spadCore a.pa == t.fib.core then .done (setLong t gd 1 0)
          else if t.fib.sup.frame || t.fib.mon.frame then .done (setLong t gd 2 0)
          else migrEff t (freeMask u) gd a.pa

end Sys2Proof.Machine
end

