-- ==== Sys2Proof/Machine/DeviceEvents.lean ====
section
/-! DEFINITION. The steps of the device registers: starts, ports, gateway roles and register writes (R18, R234-R243, R441). -/

namespace Sys2Proof.Machine

/-- A write of 1 to GO, with the rest of MCTL kept (R234, R238). -/
def writeGo (s : State) : State := devWriteReg s true 0 (BitVec.ofNat 64 (mctlWord s.dev) ||| 0x20000) 0x20000

/-- A port's PORTEN bit cleared (R240). -/
def clearPorten (s : State) (f : Nat) : State :=
  if f < 14 ∧ s.dev.porten.getLsbD f = true then disablePort s f else s

/-- A port's PORTEN bit set (R240). -/
def setPorten (s : State) (f : Nat) : State :=
  if f < 14 then enablePort s f else s

/-- A write to a device register, by the host with device monitor rights or by the current fibre (R235): `n` bytes at an offset, inside
one register. -/
def regWrite (s : State) (host : Bool) (off n : Nat) (v : Word) : State :=
  if n = 0 ∨ off % 8 + n > 8 ∨ off ≥ 2 ^ 24 then s else devWrite s (host || s.fib.pl == 2) off n v

/-- Event MCTL_GO (R234). -/
def execMctlGo (s : State) : Out := .next (writeGo s)
/-- Event GWCTL_PORT_DISABLE (R240). -/
def execGwctlPortDisable (f : Nat) (s : State) : Out := .next (clearPorten s f)
/-- Event GWCTL_PORT_ENABLE (R240). -/
def execGwctlPortEnable (f : Nat) (s : State) : Out := .next (setPorten s f)
/-- Event GATEWAY_ROLE_TAKE (R18). -/
def execGatewayRoleTake (f : Nat) (s : State) : Out := .next (takeRole s f)
/-- Event TENANT_EN_CLEAR (R243). -/
def execTenantEnClear (t : BitVec 4) (s : State) : Out := .next (clearEn s t.toNat)
/-- Event GATEWAY_START_WRITE (R441). -/
def execGatewayStartWrite (f : Nat) (v : BitVec 64) (s : State) : Out :=
  .next (if f < 14 then gatewayGo s f v else s)
/-- Event GATEWAY_FIBRE_START (R441). -/
def execGatewayFibreStart (f : Nat) (s : State) : Out := .next (startGateway s f)
/-- Event DEVICE_REGISTER_WRITE (R235). -/
def execDeviceRegisterWrite (host : Bool) (off n : Nat) (v : BitVec 64) (s : State) : Out := .next (regWrite s host off n v)

end Sys2Proof.Machine
end

