-- ==== Sys2Proof/Machine/IndexEng.lean ====
section
/-! DEFINITION. The vector-addressed index: the control block and its checks, distances, lists and versions, search, insertion and
deletion, and IXOPEN, IXSTAT, LDNN, STVEC and DLVEC (R183-R195, R357-R361). -/

namespace Sys2Proof.Machine

/-- A holder number that no TLB has: engines walk the tables themselves. -/
def noTlb : Nat := 65536

/-- An index's number. -/
def indexOf (s : State) (n : Nat) : Option Index := s.indexes.find? fun i => i.num == n

/-- Change an index. -/
def modIndex (s : State) (n : Nat) (g : Index → Index) : State :=
  { s with indexes := modWhere (fun i => i.num == n) g s.indexes }

/-- Where an index's virtual address lies (R361): its page must be pooled and directory coherent, with RD and WR. -/
def ixPa (s : State) (ix : Index) (va : Nat) : Option Nat :=
  match translateAgent s noTlb ix.ten ix.pl .atomic (va % 2 ^ 64) with
  | .ok a => if a.loc = 0 ∧ a.cp = 0 then some a.pa else none
  | _ => none

/-- Why a command's read of its index stops: a memory error (R361), or a line of another module that is still to come, by its address. -/
inductive IxErr where
  | mem
  | need (pa : Nat)
  deriving DecidableEq, Repr

/-- A command's view of its index: the state, the index and the command as an engine's agent. -/
structure IxView where
  s : State
  ix : Index
  e : Agent

/-- The pieces of a 64-byte line. -/
def linePieces (pa : Nat) : List Piece := chunk8 pa 64 0 0 false

/-- A 64-byte line of an index's stores (R361). -/
def ixLine (v : IxView) (va : Nat) : Except IxErr Nat :=
  match ixPa v.s v.ix va with
  | none => .error .mem
  | some pa =>
    if isRemote v.s pa then
      let ws := (linePieces pa).map fun p => farOf v.s v.e.owner 0 p.pa
      if (unreachable v.s (paMod pa)).isSome && ws.any (·.isNone) then .error .mem
      else if ws.any fun w => match w with
        | some w => !w.here
        | none => true then .error (.need pa)
      else if ws.any fun w => match w with
        | some w => w.bad || w.cause != 0
        | none => true then .error .mem
      else .ok (leNat ((ws.filterMap id).flatMap fun w => leBytes 8 w.val.toNat))
    else if homeLost v.s pa || poisoned v.s pa 64 then .error .mem
    else .ok (mrd v.s.ms.mem pa 64)

/-- A run of `n` 64-byte lines as one number. -/
def ixRead (v : IxView) (va : Nat) (n : Nat) : Except IxErr Nat :=
  match n with
  | 0 => .ok 0
  | k + 1 => do
    let x ← ixLine v va
    let y ← ixRead v (va + 64) k
    return x + 2 ^ 512 * y

/-- The 64-byte lines of a slot's vector (R186). -/
def vecLines (ix : Index) : Nat := ceilDiv (4 * ix.dim) 64
/-- The 64-byte lines of a slot's graph record. -/
def recLines (ix : Index) : Nat := ceilDiv (40 + 8 * ix.deg) 64

/-- A slot's vector: its FP32 codes. -/
def ixVec (v : IxView) (n : Nat) : Except IxErr (List (BitVec 32)) := do
  let x ← ixRead v (v.ix.vbase.toNat + n * (64 * vecLines v.ix)) (vecLines v.ix)
  return (List.range v.ix.dim).map fun d => BitVec.ofNat 32 (nf x (32 * d) 32)

/-- A slot's graph record (R186). -/
structure Rec where
  id : Nat
  attr : Nat
  cgen : Nat
  dgen : Nat
  lgen : Nat
  nbrs : List (Bool × Nat)
  deriving DecidableEq, Repr

/-- All ones: an unused identifier, generation or edge. -/
def ones64 : Nat := 2 ^ 64 - 1

/-- The list that a slot has by the last commit, where a mutation in progress or stopped has begun to rewrite it (R361). -/
def heldList (ix : Index) (n : Nat) : Option Version := ix.versions.find? fun w => w.slot == n && w.until_ == ones64

/-- The graph record of a slot as of the last commit or an earlier one: what a mutation has written that has not committed does not
count (R188, R361). -/
def ixRec (v : IxView) (n : Nat) : Except IxErr Rec := do
  let x ← ixRead v (v.ix.gbase.toNat + n * (64 * recLines v.ix)) (recLines v.ix)
  let es := ((List.range v.ix.deg).map fun i => nf x (320 + 64 * i) 64).filter fun e => e != ones64
  let r : Rec := ⟨nf x 0 64, nf x 64 64, nf x 128 64, if v.ix.alive.contains n then ones64 else nf x 192 64, nf x 256 64,
    es.map fun e => (nb e 63, e % 2 ^ 40)⟩
  return match heldList v.ix n with
    | some w => { r with
      lgen := w.lgen
      nbrs := w.nbrs }
    | none => r

/-- One of `n` places: a choice of the part among them. -/
def oneOf (k n : Nat) : Nat := if n ≤ 1 then 0 else k % n

/-- The line of the identifier directory that an identifier uses is read (R186, R361); what it holds has no architectural layout. -/
def dirRead (v : IxView) (id : Nat) : Except IxErr Unit := do
  let n := ceilDiv v.ix.cap 2
  let _ ← ixLine v (v.ix.idbase.toNat + 64 * oneOf (Config.directoryLine (BitVec.ofNat 64 id) n) n)
  return ()

/-- The places of an index's version area (R191). -/
def versionRoom (ix : Index) : Nat := ix.versize / (64 * recLines ix)

/-- The place of the version area that keeps a superseded list is read (R191, R361). -/
def versionRead (v : IxView) (w : Version) : Except IxErr Unit := do
  let n := oneOf (Config.versionPlace w.slot w.lgen) (versionRoom v.ix)
  let _ ← ixRead v (v.ix.verbase.toNat + n * (64 * recLines v.ix)) (recLines v.ix)
  return ()

/-- The places of some superseded lists. -/
def versionsRead (v : IxView) (ws : List Version) : Except IxErr Unit :=
  match ws with
  | [] => .ok ()
  | w :: t => do
    versionRead v w
    versionsRead v t

/-- The live slot with an identifier among `n` slots from `k` on (R189, R190). The directory that would name it has no architectural
layout (R186), so the records say it: one that cannot be read stops the command only when no other holds the identifier (DESIGN CHOICE,
log entry 31). -/
def liveSlot (v : IxView) (id n k : Nat) : Except IxErr (Option Nat) :=
  match n with
  | 0 => .ok none
  | m + 1 =>
    match ixRec v k with
    | .ok r => if r.id = id ∧ r.cgen ≠ ones64 ∧ r.dgen = ones64 then .ok (some k) else liveSlot v id m (k + 1)
    | .error e => match liveSlot v id m (k + 1) with
      | .ok (some x) => .ok (some x)
      | _ => .error e

/-- A finite FP32 value in units of 2^-149. -/
def fxUnits (c : BitVec 32) : Int :=
  match decFloat fp32 c.toNat with
  | .fin s m e _ => let v : Int := (m * 2 ^ (e + 149).toNat : Nat); if s then -v else v
  | _ => 0

/-- Whether an FP32 code is an infinity or a NaN. -/
def notFinite (c : BitVec 32) : Bool :=
  match decFloat fp32 c.toNat with
  | .fin _ _ _ _ => false
  | _ => true

/-- Sums over dimensions of w × f, with w = 1 when there are no weights. -/
def wsum (ws q x : List (BitVec 32)) (f : Int → Int → Int) : Int :=
  match q, x with
  | a :: q', b :: x' =>
    (match ws with
      | [] => 2 ^ 149
      | w :: _ => fxUnits w) * f (fxUnits a) (fxUnits b) + wsum ws.tail q' x' f
  | _, _ => 0

/-- An integer times a power of two as an exact value. -/
def exScaled (i : Int) (e : Int) : Ex := .fin (decide (i < 0)) i.natAbs e false

/-- RoundNE to FP32 (R187). -/
def rnd32 (x : Ex) : BitVec 32 := BitVec.ofNat 32 (roundFloat fp32 false x).1

/-- 1 + S / sqrt(P) for S² ≤ P, to enough bits that one rounding of it is exact (R187). -/
def cosEx (t : Int) (p : Nat) : Ex :=
  let k := bitLen p + 400
  let n := t.natAbs * t.natAbs * 2 ^ (2 * k)
  let r := isqrt (n / p)
  let exact := decide (n % p = 0) && decide (r * r = n / p)
  if 0 ≤ t then .fin false (2 ^ k + r) (-(k : Int)) (!exact)
  else if exact then .fin false (2 ^ k - r) (-(k : Int)) false
  else .fin false (2 ^ k - r - 1) (-(k : Int)) true

/-- Dist under a distance program (R187), as an FP32 code. -/
def distBy (fin_ f : Nat) (ws q x : List (BitVec 32)) : BitVec 32 :=
  let t := wsum ws q x (match f with
    | 0 => fun a b => (a - b) * (a - b)
    | 1 => fun a b => -(a * b)
    | _ => fun a b => ((a - b).natAbs : Nat))
  let v := exScaled t (if f = 2 then -298 else -447)
  match fin_ with
  | 0 => rnd32 v
  | 1 => rnd32 (exSqrt v).1
  | _ =>
    let sq := wsum ws q q fun a b => a * b
    let sx := wsum ws x x fun a b => a * b
    if sq = 0 ∨ sx = 0 then 0x3F800000 else rnd32 (cosEx t (sq * sx).toNat)

/-- Dist of a query and a vector (R187). -/
def distOf (ix : Index) (q x : List (BitVec 32)) : BitVec 32 :=
  distBy (bits ix.dprog 3 2) (bits ix.dprog 0 2) ix.weights q x

/-- The construction distance δ (R187). -/
def deltaOf (ix : Index) (q x : List (BitVec 32)) : BitVec 32 :=
  let f := bits ix.dprog 0 2
  let n := bits ix.dprog 3 2
  distBy n (if f = 1 ∧ n = 0 then 0 else f) ix.weights q x

/-- An FP32 code that is not NaN as a number of the same order; the zeros are equal. -/
def distKey (c : BitVec 32) : Int := if c.getLsbD 31 then -((c.toNat % 2 ^ 31 : Nat) : Int) else c.toNat

/-- Order by distance, then by number. -/
def nearer (a b : Int × Nat) : Bool := decide (a.1 < b.1) || (a.1 == b.1 && decide (a.2 < b.2))

/-- A slot in a search's beam: its distance, its number and whether it is expanded. -/
structure Beam where
  key : Int
  slot : Nat
  done : Bool
  deriving DecidableEq, Repr

/-- Place a slot in an ordered beam. -/
def beamPut (b : List Beam) (x : Beam) : List Beam :=
  match b with
  | [] => [x]
  | y :: t => if nearer (x.key, x.slot) (y.key, y.slot) then x :: y :: t else y :: beamPut t x

/-- A list as of a snapshot (R191): the version that was current then, which is kept while a search needs it; else the record's own. A version
that is superseded is read from the version area. -/
def listAsOf (v : IxView) (r : Rec) (u snap : Nat) : Except IxErr (List (Bool × Nat)) :=
  match v.ix.versions.find? fun w => w.slot == u && decide (w.lgen ≤ snap) && decide (snap < w.until_) with
  | some w => do
    if w.until_ ≠ ones64 then versionRead v w
    return w.nbrs
  | none => .ok r.nbrs

/-- Visit the edges of an expanded slot (R191): the visited slots with their distances, and the beam. -/
def visit (v : IxView) (dist : List (BitVec 32) → BitVec 32) (snap lim : Nat) (es : List (Bool × Nat))
    (vis : List (Int × Nat)) (b : List Beam) : Except IxErr (List (Int × Nat) × List Beam) :=
  match es with
  | [] => .ok (vis, b)
  | e :: t =>
    if vis.any fun x => x.2 == e.2 then visit v dist snap lim t vis b
    else do
      let r ← ixRec v e.2
      if snap < r.cgen then visit v dist snap lim t vis b
      else do
        let x ← ixVec v e.2
        let k := distKey (dist x)
        visit v dist snap lim t (vis ++ [(k, e.2)]) ((beamPut b ⟨k, e.2, false⟩).take lim)

/-- The loop of R191. -/
def searchLoop (fuel : Nat) (v : IxView) (dist : List (BitVec 32) → BitVec 32) (snap lim : Nat)
    (vis : List (Int × Nat)) (b : List Beam) : Except IxErr (List (Int × Nat)) :=
  match fuel with
  | 0 => .ok vis
  | n + 1 =>
    match b.find? fun x => !x.done with
    | none => .ok vis
    | some u => do
      let r ← ixRec v u.slot
      let b := modWhere (fun x => x.slot == u.slot) (fun x => { x with done := true }) b
      let es ← listAsOf v r u.slot snap
      let y ← visit v dist snap lim es vis b
      searchLoop n v dist snap lim y.1 y.2

/-- Search(q, s, L) (R191): the visited slots with their distances. -/
def search (v : IxView) (dist : List (BitVec 32) → BitVec 32) (snap lim : Nat) : Except IxErr (List (Int × Nat)) :=
  match v.ix.entry with
  | none => .ok []
  | some e => do
    let r ← ixRec v e
    let x ← ixVec v e
    let k := distKey (dist x)
    searchLoop (v.ix.nslot + 1) v dist snap lim [(k, e)] (if snap < r.cgen then [] else [⟨k, e, false⟩])

/-- Insert into an ordered list. -/
def putOrd {α : Type} (lt : α → α → Bool) (l : List α) (x : α) : List α :=
  match l with
  | [] => [x]
  | y :: t => if lt x y then x :: y :: t else y :: putOrd lt t x

/-- An ordered list. -/
def sortBy {α : Type} (lt : α → α → Bool) (l : List α) : List α := l.foldl (putOrd lt) []

/-- α × δ(k, v) ≤ δ(c, v) (R189), exactly. -/
def pruned (ix : Index) (kv cv : BitVec 32) : Bool :=
  !exLt false (exMul (exInt 256) (decFloat fp32 cv.toNat)).1 (exMul (exInt ix.alpha) (decFloat fp32 kv.toNat)).1

/-- Prune's choice among candidates in order (R189); `kept` holds slots with their vectors. -/
def pruneFrom (ix : Index) (c : List (BitVec 32)) (cand kept : List (Nat × List (BitVec 32))) : List (Nat × List (BitVec 32)) :=
  match cand with
  | [] => kept
  | v :: t =>
    if ix.deg ≤ kept.length then kept
    else if kept.any fun k => pruned ix (deltaOf ix k.2 v.2) (deltaOf ix c v.2) then pruneFrom ix c t kept
    else pruneFrom ix c t (kept ++ [v])

/-- Prune(c, C) (R189): the anchored edges first, then candidates by (δ(c, v), v). -/
def prune (ix : Index) (slot : Nat) (c : List (BitVec 32)) (anch cand : List (Nat × List (BitVec 32))) : List (Bool × Nat) :=
  let cs := sortBy (fun a b => nearer (distKey (deltaOf ix c a.2), a.1) (distKey (deltaOf ix c b.2), b.1))
    (cand.filter fun v => v.1 != slot && !anch.any fun k => k.1 == v.1)
  (pruneFrom ix c cs anch).map fun v => (anch.any fun k => k.1 == v.1, v.1)

/-- The vectors of some slots. -/
def withVecs (v : IxView) (ns : List Nat) : Except IxErr (List (Nat × List (BitVec 32))) :=
  match ns with
  | [] => .ok []
  | n :: t => do
    let x ← ixVec v n
    let r ← withVecs v t
    return (n, x) :: r

/-- The records of some slots. -/
def withRecs (v : IxView) (ns : List Nat) : Except IxErr (List (Nat × Rec)) :=
  match ns with
  | [] => .ok []
  | n :: t => do
    let x ← ixRec v n
    let r ← withRecs v t
    return (n, x) :: r

/-- The first of some slots whose list has fewer than M anchored edges (R189). -/
def anchorFor (v : IxView) (ns : List Nat) : Except IxErr (Option Nat) :=
  match ns with
  | [] => .ok none
  | n :: t => do
    let r ← ixRec v n
    if (r.nbrs.filter fun e => e.1).length < v.ix.deg then return some n else anchorFor v t

/-- The new list of slot `w`, whose record is `r` and vector `c`, once slot `n` with vector `x` is linked to it, anchored there when `w` is
`p` (R189). -/
def linkList (v : IxView) (n p : Nat) (x : List (BitVec 32)) (w : Nat) (r : Rec) (c : List (BitVec 32)) : Except IxErr (List (Bool × Nat)) :=
  let a := r.nbrs.filter fun e => e.1
  let b := r.nbrs.filter fun e => !e.1
  let l := if w = p then a ++ [(true, n)] ++ b else a ++ b ++ [(false, n)]
  if l.length ≤ v.ix.deg then .ok l
  else do
    let ws ← withVecs v ((l.map (·.2)).filter fun k => k != n)
    let ws := (n, x) :: ws
    let of := fun (anch : Bool) => (l.filter fun e => e.1 == anch).filterMap fun e => ws.find? fun w => w.1 == e.2
    return prune v.ix w c (of true) (of false)

/-- The new lists of the linked slots (R189): each with its slot and its record before. -/
def linkLists (v : IxView) (n p : Nat) (x : List (BitVec 32)) (vs : List Nat) : Except IxErr (List (Nat × Rec × List (Bool × Nat))) :=
  match vs with
  | [] => .ok []
  | w :: t => do
    let r ← ixRec v w
    let c ← ixVec v w
    let l ← linkList v n p x w r c
    let rest ← linkLists v n p x t
    return if l = r.nbrs then rest else (w, r, l) :: rest

/-- The bytes of a neighbour list (R186). -/
def nbrBytes (deg : Nat) (l : List (Bool × Nat)) : List Byte :=
  (List.range deg).flatMap fun i => leBytes 8 (match l[i]? with
    | some e => b1 e.1 * 2 ^ 63 + e.2 % 2 ^ 40
    | none => ones64)

/-- Write the words of a run of an index's bytes (R188): words of another module are sent there and acknowledged. Whether any was sent, or
none at a memory error. -/
def ixWrite (s : State) (ix : Index) (e : Agent) (va : Nat) (bs : List Byte) : Option (State × Bool) :=
  (List.range (ceilDiv bs.length 8)).foldl (fun (o : Option (State × Bool)) k =>
    match o with
    | none => none
    | some (s, sent) =>
      match ixPa s ix (va + 8 * k) with
      | none => none
      | some pa =>
        let p : Piece := ⟨pa, min 8 (bs.length - 8 * k), 0, 0, false⟩
        let v := leNat ((bs.drop (8 * k)).take 8)
        if isRemote s pa then
          (match unreachable s (paMod pa) with
            | some _ => none
            | none => some (sendFar s e.owner 1 (engReq s e .store p 0 v) (srcIdent s e.core), true))
        else match engWrite s e 0 p v false with
          | .error _ => none
          | .ok s => some (s, sent)) (some (s, false))

/-- Write a list of (address, bytes). -/
def ixWrites (s : State) (ix : Index) (e : Agent) (ws : List (Nat × List Byte)) : Option (State × Bool) :=
  match ws with
  | [] => some (s, false)
  | w :: t =>
    match ixWrite s ix e w.1 w.2 with
    | none => none
    | some a => (ixWrites a.1 ix e t).map fun b => (b.1, a.2 || b.2)

/-- The address of a slot's graph record. -/
def recVa (ix : Index) (n : Nat) : Nat := ix.gbase.toNat + n * (64 * recLines ix)

/-- Whether an accepted search of an index has not ended. -/
def searching (s : State) (num : Nat) : Bool := s.idxCmds.any fun c => c.num == num && c.accepted.isSome

/-- The versions of an index that some accepted search may still need, or one to come before the commit in progress (R191). -/
def trimVersions (s : State) (num : Nat) : State :=
  let snaps := (s.idxCmds.filter fun c => c.num == num).filterMap (·.accepted)
  let needed := fun (ix : Index) (v : Version) => decide (ix.commit < v.until_) || snaps.any fun a => decide (a < v.until_)
  modIndex s num fun ix => { ix with versions := ix.versions.filter (needed ix) }

/-- An index command as its engine's agent. -/
def idxAgent (ix : Index) (c : IdxCmd) : Agent := ⟨.cmd c.id, ix.die * 256, ix.ten, ix.pl == 2⟩

/-- A command's stamp and its end (R188, R360): its result tile becomes ready with the stamp. -/
def stampCmd (s : State) (c : IdxCmd) (ten : BitVec 4) (v : Nat) : State :=
  let s := dropFar { s with idxCmds := s.idxCmds.filter fun x => x.id != c.id } (.cmd c.id)
  let s := trimVersions s c.num
  let s := if c.op = 0 ∧ c.took = true then setTileState s c.core c.idx 2 else s
  if c.stamp = 0 then s else stampWord s c.core ten c.mon c.scope c.lv c.stamp v

/-- A stamp's value (R188). -/
def stampVal (gen code : Nat) (exact short : Bool) (count : Nat) : Nat :=
  gen % 2 ^ 48 * 2 ^ 16 + code * 2 ^ 12 + b1 exact * 2 ^ 11 + b1 short * 2 ^ 10 + count

/-- A command stopped by a memory error (R361). -/
def stampError (s : State) (c : IdxCmd) (ten : BitVec 4) : State := stampCmd s c ten ((2 ^ 48 - 1) * 2 ^ 16)

/-- A command whose read of its index has stopped: it ends (R361), or asks for the line that it needs. -/
def ixStop (v : IxView) (c : IdxCmd) (e : IxErr) : State :=
  match e with
  | .mem => stampError v.s c v.ix.ten
  | .need pa => (gather v.s v.e (linePieces pa)).1

/-- The counters of R183 as their bytes. -/
def counterBytes (ix : Index) : List Byte :=
  leBytes 8 (match ix.entry with
    | some e => e
    | none => ones64) ++ leBytes 8 ix.commit ++ leBytes 8 ix.nslot ++ leBytes 8 ix.liveN

/-- The groups of a commit's writes, each once the one before has been performed; then the index is as `new` says, and the stamp follows
(R176, R188). -/
def pushGroups (gs : List (List (Nat × List Byte))) (s : State) (c : IdxCmd) (ix new : Index) : State :=
  match gs with
  | [] => stampCmd (modIndex s ix.num fun _ => new) c ix.ten (stampVal new.commit 0 false false 0)
  | g :: t =>
    match ixWrites s ix (idxAgent ix c) g with
    | none => stampError s c ix.ten
    | some (s, sent) =>
      if sent then
        { s with idxCmds := modWhere (fun x => x.id == c.id) (fun x => { x with
          next := some new
          todo := t }) s.idxCmds }
      else pushGroups t s c ix new

/-- The index while a mutation writes: the lists of `old` and the slot `dead` stand as they are until it has committed (R188, R361). -/
def whileWriting (ix : Index) (old : List Version) (dead : Option Nat) : Index :=
  { ix with
    versions := ix.versions.filter (fun w => !(w.until_ == ones64 && old.any fun o => o.slot == w.slot))
      ++ old.map fun w => { w with until_ := ones64 }
    alive := ix.alive ++ dead.toList }

/-- Commit a mutation (R188): lists, then generations, counters and the stamp; `old` are the lists that it supersedes, `dead` the slot that
it deletes. -/
def commitCmd (v : IxView) (c : IdxCmd) (new : Index) (old : List Version) (dead : Option Nat) (lists gens : List (Nat × List Byte)) : State :=
  let new := { new with
    versions := v.ix.versions.filter (fun w => !(w.until_ == ones64 && old.any fun o => o.slot == w.slot)) ++ old
    alive := v.ix.alive.filter fun n => dead != some n }
  pushGroups [lists, gens, [(v.ix.icb.toNat + 72, counterBytes new)]] (modIndex v.s v.ix.num fun i => whileWriting i old dead) c v.ix new

/-- A commit goes on when its words of other modules have been acknowledged; a failed one ends the command (R361). -/
def resumeCommit (s : State) (c : IdxCmd) (ix new : Index) : State :=
  let ws := s.ms.far.filter fun w => w.owner == .cmd c.id && w.op == 1
  if ws.any fun w => !w.here then s
  else if ws.any fun w => w.cause != 0 then stampError s c ix.ten
  else pushGroups c.todo (dropFar s (.cmd c.id)) c ix new

/-- STVEC's links (R189): its own list, the slot that anchors it, the lists that change and the live slot that it replaces; none when no
slot can anchor it. -/
def stvecPlan (v : IxView) (n id : Nat) (x : List (BitVec 32)) :
    Except IxErr (Option (List (Bool × Nat) × List (Nat × Rec × List (Bool × Nat)) × Option Nat)) := do
  let vis ← search v (deltaOf v.ix x) v.ix.commit v.ix.ibeam
  let order := (sortBy nearer vis).map (·.2)
  let cand ← withVecs v order
  let list := prune v.ix n x [] cand
  let p ← anchorFor v (list.map (·.2) ++ order)
  match p with
  | none => return none
  | some p =>
    let ls ← linkLists v n p x (list.map (·.2) ++ (if list.any fun e => e.2 == p then [] else [p]))
    dirRead v id
    let dead ← liveSlot v id n 0
    return some (list, ls, dead)

/-- The superseded lists that a mutation must keep in the version area: none when no accepted search has a snapshot below it (R191). -/
def keptLists (s : State) (ix : Index) (old : List Version) : List Version := if searching s ix.num then old else []

/-- Whether the version area has no room for lists to be superseded (R191). -/
def versionFull (s : State) (ix : Index) (n : Nat) : Bool :=
  searching s ix.num && decide (versionRoom ix < (ix.versions.filter fun w => w.until_ != ones64).length + n)

/-- STVEC on its index (R189); a full version area leaves it waiting (R191). -/
def stvec (v : IxView) (c : IdxCmd) : State :=
  let ix := v.ix
  let n := ix.nslot
  let x := c.query
  let g := ix.commit + 1
  if n = ix.cap then stampCmd v.s c ix.ten (stampVal ix.commit 1 false false 0)
  else
    let vecW := (ix.vbase.toNat + n * (64 * vecLines ix), x.flatMap fun v => leBytes 4 v.toNat)
    let head := fun (l : List (Bool × Nat)) => (recVa ix n,
      leBytes 8 c.mask.toNat ++ leBytes 8 c.value.toNat ++ leBytes 8 ones64 ++ leBytes 8 ones64 ++ leBytes 8 g ++ nbrBytes ix.deg l)
    let birth := (recVa ix n + 16, leBytes 8 g)
    match ix.entry with
    | none =>
      match dirRead v c.mask.toNat with
      | .error e => ixStop v c e
      | .ok _ => commitCmd v c { ix with
        entry := some n
        commit := g
        nslot := n + 1
        liveN := ix.liveN + 1 } [] none [vecW, head []] [birth]
    | some _ =>
      match stvecPlan v n c.mask.toNat x with
      | .error e => ixStop v c e
      | .ok none => stampCmd v.s c ix.ten (stampVal ix.commit 3 false false 0)
      | .ok (some (list, ls, dead)) =>
        let old := ls.map fun l => (⟨l.1, l.2.1.lgen, g, l.2.1.nbrs⟩ : Version)
        if versionFull v.s ix ls.length then v.s
        else match versionsRead v (keptLists v.s ix old) with
          | .error e => ixStop v c e
          | .ok _ => commitCmd v c { ix with
            commit := g
            nslot := n + 1
            liveN := if dead.isSome then ix.liveN else ix.liveN + 1 } old dead
            ([vecW, head list] ++ ls.map fun l => (recVa ix l.1 + 32, leBytes 8 g ++ nbrBytes ix.deg l.2.2))
            (birth :: (match dead with
              | some o => [(recVa ix o + 24, leBytes 8 g)]
              | none => []))

/-- DLVEC on its index (R190). -/
def dlvec (v : IxView) (c : IdxCmd) : State :=
  match (do
    dirRead v c.mask.toNat
    liveSlot v c.mask.toNat v.ix.nslot 0) with
  | .error e => ixStop v c e
  | .ok none => stampCmd v.s c v.ix.ten (stampVal v.ix.commit 2 false false 0)
  | .ok (some o) =>
    let g := v.ix.commit + 1
    commitCmd v c { v.ix with
      commit := g
      liveN := v.ix.liveN - 1 } [] (some o) [] [(recVa v.ix o + 24, leBytes 8 g)]

/-- Whether two commands go to one engine. -/
def sameEngine (s : State) (a b : IdxCmd) : Bool := ((indexOf s a.num).map (·.die)) == ((indexOf s b.num).map (·.die))

/-- Whether a mutation is next (R188, R360): no earlier mutation of its index, and every earlier command of its core to the engine accepted.
The mutations of several cores reach the engine in the order of their issue (DESIGN CHOICE, log entry 31): the spec leaves that to their
arrival. -/
def mutationNext (s : State) (c : IdxCmd) : Bool :=
  !s.idxCmds.any fun x => decide (x.id < c.id)
    && ((x.num == c.num && x.op != 0) || (x.core == c.core && sameEngine s x c && (x.op != 0 || x.accepted.isNone)))

/-- Perform a mutation of kind `op` when it is next, or go on with its commit. -/
def mutate (s : State) (n op : Nat) (anyOp : Bool) : State :=
  match s.idxCmds.find? fun c => c.id == n with
  | none => s
  | some c =>
    match indexOf s c.num with
    | none => s
    | some ix =>
      if c.op = 0 ∨ (c.op ≠ op ∧ anyOp = false) ∨ mutationNext s c = false then s
      else match c.next with
        | some new => resumeCommit s c ix new
        | none => if c.op = 1 then stvec ⟨s, ix, idxAgent ix c⟩ c else dlvec ⟨s, ix, idxAgent ix c⟩ c

/-- Whether a search may now be accepted: every earlier mutation of its core has committed (R191), and its core's earlier searches on the
engine are accepted (R360). -/
def acceptNext (s : State) (c : IdxCmd) : Bool :=
  !s.idxCmds.any fun x => x.core == c.core && decide (x.id < c.id) && (x.op != 0 || (sameEngine s x c && x.accepted.isNone))

/-- INDEX_LDNN_ACCEPT (R191): the snapshot is COMMIT at acceptance; the result tile becomes filling if it has not (R344). -/
def acceptSearch (s : State) (n : Nat) : State :=
  match s.idxCmds.find? fun c => c.id == n with
  | none => s
  | some c =>
    match indexOf s c.num with
    | none => s
    | some ix =>
      if c.op ≠ 0 ∨ c.accepted.isSome = true ∨ acceptNext s c = false then s
      else if !c.took && !canTake s c.id c.core c.idx true then s
      else
        let s := if c.took then s else setTileState s c.core c.idx 1
        { s with idxCmds := modWhere (fun x => x.id == n) (fun x => { x with
          took := true
          accepted := some ix.commit }) s.idxCmds }

/-- A result row's two words (R191). -/
def writeResult (s : State) (c : IdxCmd) (i id : Nat) (dist : BitVec 32) : State :=
  let pa := fun o => spadPa s c.core (tileByte c.base c.ent i o)
  putWord (putWord s c.core (pa 0) id) c.core (pa 8) dist.toNat

/-- Write result rows from row `i` on, padding the rest (R191). -/
def writeResults (s : State) (c : IdxCmd) (n i : Nat) (rs : List (Nat × BitVec 32)) : State :=
  match n with
  | 0 => s
  | m + 1 =>
    match rs with
    | [] => writeResults (writeResult s c i ones64 0x7F800000) c m (i + 1) []
    | r :: t => writeResults (writeResult s c i r.1 r.2) c m (i + 1) t

/-- Whether an accepted search's result rows are free of earlier owners and readers (R175). -/
def searchClear (s : State) (c : IdxCmd) : Bool :=
  (tilePieces s c.core c.base c.ent 16).all fun p =>
    !ownedIf (fun n => decide (n < c.id)) s p.pa p.n && !sourcedBefore s c.id p

/-- A search's outcome (R191): its rows, and EXACT. Every slot of the snapshot is reachable (R192), so more than L of them exist exactly when
more than L are visited. -/
def searchRows (v : IxView) (c : IdxCmd) (snap : Nat) : Except IxErr (List (Nat × BitVec 32) × Bool) := do
  let vis ← search v (distOf v.ix c.query) snap c.l
  let rs ← withRecs v (vis.map (·.2))
  let ok := fun (z : (Int × Nat) × (Nat × Rec)) => decide (z.2.2.cgen ≤ snap) && decide (snap < z.2.2.dgen)
    && (BitVec.ofNat 64 z.2.2.attr &&& c.mask) == c.value
  let top := (sortBy (fun (a b : (Int × Nat) × (Nat × Rec)) => nearer (a.1.1, a.2.2.id) (b.1.1, b.2.2.id)) ((vis.zip rs).filter ok)).take c.k
  let ws ← withVecs v (top.map fun z => z.1.2)
  return ((top.zip ws).map fun z => (z.1.2.2.id, distOf v.ix c.query z.2.2), decide (vis.length ≤ c.l))

/-- INDEX_SEARCH_COMPLETE (R191-R193). Where the result tile's reservation has been released meanwhile the rows are not written and the command is
stamped all the same (DESIGN CHOICE, log entry 40: the spec says nothing of it). -/
def searchComplete (s : State) (n : Nat) : State :=
  match s.idxCmds.find? fun c => c.id == n with
  | none => s
  | some c =>
    match indexOf s c.num, c.accepted with
    | some ix, some snap =>
      let v : IxView := ⟨s, ix, idxAgent ix c⟩
      if !searchClear s c then s
      else match searchRows v c snap with
        | .error e => ixStop v c e
        | .ok (rows, exact) =>
          let held := spadHeld s ix.ten c.mon (spadPa s c.core (c.base + teBase c.ent))
          let s := if held then writeResults s c c.k 0 rows else s
          stampCmd s c ix.ten (stampVal snap 0 exact (decide (rows.length < c.k)) rows.length)
    | _, _ => s

/-- The words of a region that IXOPEN reads at open (R185), as pieces, or the cause that stops it. -/
def openWords (n : Nat) (s : State) (f : Fibre) (va : Nat) (acc : List Piece) : Except (Nat × Word) (List Piece) :=
  match n with
  | 0 => .ok acc
  | k + 1 =>
    match translateFibre s f .load (va % 2 ^ 64) with
    | .ok a => openWords k s f (va + 8) (acc ++ [⟨a.pa, 8, a.cp, a.gr, false⟩])
    | .bad c => .error (c, BitVec.ofNat 64 va)
    | _ => .error (cXNP, BitVec.ofNat 64 va)

/-- A region's words as one number, or the cause that stops the instruction (R343, R399). -/
def openRead (s : State) (va : Nat) (ps : List Piece) : Except (Nat × Word) Nat :=
  match ps with
  | [] => .ok 0
  | p :: t =>
    match engRead s (fibreAgent s) 0 p with
    | .error c => .error (c, BitVec.ofNat 64 va)
    | .ok (u, v, bad) =>
      if bad then .error (cPOISON, BitVec.ofNat 64 va)
      else match openRead u (va + 8) t with
        | .error e => .error e
        | .ok w => .ok (v + 2 ^ 64 * w)

/-- The weights, read once at open (R185). -/
def openWeights (t : State) (n va : Nat) (go : State → List (BitVec 32) → Eff) : Eff :=
  let lo := va / 8 * 8
  match openWords (if n = 0 then 0 else ceilDiv (va - lo + 4 * n) 8) t t.fib lo [] with
  | .error e => .trap e.1 e.2
  | .ok ps =>
    let g := gather t (fibreAgent t) ps
    if !g.2 then .park .fetch g.1
    else match openRead g.1 lo ps with
      | .error e => .trap e.1 e.2
      | .ok v => go g.1 ((List.range n).map fun k => BitVec.ofNat 32 (nf v (8 * (va - lo) + 32 * k) 32))

/-- Pages translated at open, from `va` on (R185): a failure by its page, or whether one is not pooled and directory
coherent. -/
def openPages (n : Nat) (s : State) (k : AccKind) (va : Nat) (bad : Bool) : Except Eff Bool :=
  match n with
  | 0 => .ok bad
  | m + 1 =>
    let page := va % 2 ^ 64 / 65536 * 65536
    let at_ := BitVec.ofNat 64 page
    match translateFibre s s.fib k page with
    | .bad c => .error (.trap c at_)
    | .ring => .error (.park (.ring at_) s)
    | .miss => let w := askHome s at_; .error (.park w.1 w.2)
    | .ok a => openPages m s k (page + 65536) (bad || a.loc != 0 || a.cp != 0)

/-- The pages that a region of `n` bytes spans. -/
def pageCount (va n : Nat) : Nat := if n = 0 then 0 else (va + n - 1) / 65536 - va / 65536 + 1

/-- Several regions' pages in order: (access, address, pages). -/
def openRegions (s : State) (rs : List (AccKind × Nat × Nat)) (bad : Bool) : Except Eff Bool :=
  match rs with
  | [] => .ok bad
  | r :: t =>
    match openPages r.2.2 s r.1 r.2.1 bad with
    | .error e => .error e
    | .ok b => openRegions s t b

/-- Whether DPROG breaks R184. -/
def dprogBad (d : BitVec 8) : Bool :=
  let f := bits d 0 2
  let n := bits d 3 2
  bits d 5 3 != 0 || f == 3 || n == 3 || (n == 1 && f == 1) || (n == 2 && f != 1)

/-- Whether an ICB's fields or counters are refused (R183, R185). -/
def icbBad (ws : List Word) : Bool :=
  let w := fun i => (ws.getD i 0).toNat
  let cap := w 6
  let dim := nf (w 7) 0 16
  let deg := nf (w 7) 16 8
  let dp := BitVec.ofNat 8 (nf (w 7) 24 8)
  let alpha := nf (w 7) 32 16
  let ib := nf (w 7) 48 16
  w 0 % 4096 != 0 || w 1 % 4096 != 0 || w 2 % 4096 != 0 || w 3 % 65536 != 0 || w 4 % 65536 != 0 || w 4 == 0
    || cap == 0 || decide (2 ^ 40 < cap) || dim == 0 || decide (4096 < dim) || decide (deg < 2) || decide (64 < deg)
    || dprogBad dp || decide (alpha < 256) || decide (1024 < alpha) || ib == 0 || decide (1024 < ib)
    || decide (4 < nf (w 8) 0 8) || w 8 / 256 != 0 || w 13 != 0 || w 14 != 0 || w 15 != 0
    || (dp.getLsbD 2 && w 5 == 0)
    || decide (cap < w 11) || decide (w 11 < w 12) || (w 9 == ones64 && w 11 != 0) || (w 9 != ones64 && decide (w 11 ≤ w 9))

/-- The lowest free index number (R357). -/
def freeIndex (s : State) : Option Nat := (List.range 64).find? fun n => (indexOf s n).isNone

/-- The index of a tenant with an ICB address (R185). -/
def indexAt (s : State) (ten : BitVec 4) (icb : Word) : Option Index := s.indexes.find? fun i => i.ten == ten && i.icb == icb

/-- An ICB opened (R185). WBASE 0 names no weights (R183), so it has no pages to translate and the refusal for W = 1
with WBASE 0 is reached (DEDUCED). -/
def openIndex (t : State) (a : Word) (gd : Reg) : Eff :=
  let ten := t.fib.ident.tenant
  match openPages 1 t .atomic a.toNat false with
  | .error e => e
  | .ok b0 =>
    readBlock 16 t a [] fun t ws =>
      let w := fun i => (ws.getD i 0).toNat
      let dim := nf (w 7) 0 16
      let dp := BitVec.ofNat 8 (nf (w 7) 24 8)
      let wt := dp.getLsbD 2
      match openRegions t ([(.atomic, w 3, pageCount (w 3) (w 4))] ++ (if wt && w 5 != 0 then [(.load, w 5, pageCount (w 5) (4 * dim))] else [])
          ++ [(.atomic, w 0, 1), (.atomic, w 1, 1), (.atomic, w 2, 1)]) b0 with
      | .error e => e
      | .ok bad =>
        if bad || icbBad ws || (indexAt t ten a).isSome then .trap cINDEX a
        else match freeIndex t with
          | none => .trap cINDEX a
          | some n => openWeights t (if wt then dim else 0) (w 5) fun t weights =>
            if weights.any fun c => notFinite c || decide (fxUnits c < 0) then .trap cINDEX a
            else
              let ix : Index := { num := n, ten := ten, pl := t.fib.pl, die := dieOf t.fib.core, icb := a, vbase := ws.getD 0 0,
                                  gbase := ws.getD 1 0, idbase := ws.getD 2 0, verbase := ws.getD 3 0, versize := w 4, cap := w 6,
                                  dim := dim, deg := nf (w 7) 16 8, dprog := dp, alpha := nf (w 7) 32 16, ibeam := nf (w 7) 48 16,
                                  awidth := nf (w 8) 0 8, weights := weights,
                                  entry := if w 9 = ones64 then none else some (w 9), commit := w 10, nslot := w 11, liveN := w 12,
                                  versions := [], alive := [] }
              .done (setLong { t with indexes := t.indexes ++ [ix] } gd (BitVec.ofNat 64 n) 0)

/-- The close of an index (R357), once every command on it is stamped. -/
def closeEff (t : State) (gd : Reg) (num : Nat) : Eff :=
  if t.idxCmds.any fun c => c.num == num then .later (.closing num) (.close num) t
  else .done (setLong { t with indexes := t.indexes.filter fun i => i.num != num } gd (BitVec.ofNat 64 num) 0)

/-- IXOPEN (R357). -/
def execIxopen (y : Bool) (gd ga : BitVec 4) (la : Bool) (s : State) : Out :=
  issue s { plainUse (.ixopen y gd ga la) y [(ga, la)] gd with fail := true } fun t v =>
    let a := arg v 0
    if a.getLsbD 0 then
      match indexAt t t.fib.ident.tenant (a - 1) with
      | some ix => closeEff t gd ix.num
      | none => .trap (if t.indexes.any fun i => i.icb == a - 1 then cWINDOW else cINDEX) (a - 1)
    else if !aligned a 128 then .trap cALIGN a
    else openIndex t a gd

/-- IXSTAT (R358). -/
def execIxstat (y : Bool) (gd ga : BitVec 4) (la : Bool) (s : State) : Out :=
  issue s { plainUse (.ixstat y gd ga la) y [(ga, la)] gd with fail := true } fun t v =>
    let a := arg v 0
    if 63 < a.toNat then .trap cBOUND a
    else match indexOf t a.toNat with
      | none => .done (setLong t gd 0 0)
      | some ix =>
        if ix.ten ≠ t.fib.ident.tenant then .trap cWINDOW a
        else .done (setLong t gd (BitVec.ofNat 64 (ix.commit % 2 ^ 48 * 2 ^ 16 + 128 + ix.die)) 0)

/-- Whether a command block is refused (R359, R360 step 2). -/
def blockBad (op : Nat) (ix : Index) (ws : List Word) : Bool :=
  let w := fun i => (ws.getD i 0).toNat
  let b0 := nf (w 0) 0 8
  let b1' := nf (w 0) 8 8
  let k := nf (w 0) 16 16
  let l := nf (w 0) 32 16
  let sc := nf (w 0) 48 8
  let width := match ix.awidth with
    | 0 => 0
    | 1 => 8
    | 2 => 16
    | 3 => 32
    | _ => 64
  nf (w 0) 56 8 != 0 || decide (15 < sc) || sc == 0 || sc == 7
    || (match op with
      | 0 => decide (63 < b0) || decide (63 < b1') || k == 0 || decide (256 < k) || decide (l < k) || decide (1024 < l)
      | 1 => decide (63 < b0) || b1' != 0 || k != 0 || l != 0 || w 1 == ones64 || decide (2 ^ width ≤ w 2)
      | _ => b0 != 0 || b1' != 0 || k != 0 || l != 0 || w 1 == ones64 || w 2 != 0)

/-- The first DIM elements of a tile, row by row, as FP32 codes (R360 step 4). -/
def tileVector (s : State) (a : TileAt) (dim : Nat) : List (BitVec 32) :=
  let fmt := teFmt a.ent
  let w := fmtWidth fmt
  (((tileRows s a fmt).flatMap fun row => (List.range (teCols a.ent)).map fun j => rowElem row w j).take dim).map fun c =>
    if fmt = 0 then BitVec.ofNat 32 c else rnd32 (decFmt fmt c)

/-- The tile of a command's query or vector, ready and of a format and shape that serve (R360 step 3); DLVEC has none. -/
def cmdTile (t : State) (op tile : Nat) (dim : Nat) (go : Option TileAt → Eff) : Eff :=
  if op = 2 then go none
  else match namedTile t t.fib t.fib.core tile with
    | none => .trap (noTile t.fib tile) (BitVec.ofNat 64 tile)
    | some (k, q) =>
      if teState q.ent ≠ 2 then .park (.tile t.fib.core k) t
      else if 2 < teFmt q.ent then .trap cFORMAT (BitVec.ofNat 64 tile)
      else if teRows q.ent * teCols q.ent < dim then .trap cTILESHAPE (BitVec.ofNat 64 tile)
      else go (some q)

/-- The first poisoned word that holds one of a tile's first `dim` elements, by its offset (R360, R422). -/
def vectorPoison (s : State) (a : TileAt) (dim : Nat) : Option Nat :=
  let w := fmtWidth (teFmt a.ent)
  let cols := teCols a.ent
  if s.ms.poison.isEmpty then none
  else ((List.range (teRows a.ent)).flatMap fun i =>
      (List.range (ceilDiv (min cols (dim - i * cols) * w) 64)).map fun k => tileByte a.base a.ent i (8 * k)).find?
    fun off => sHas s.ms.poison (spadPa s a.core off / 8)

/-- The query or vector of a command (R360 step 4). -/
def cmdVector (t : State) (q : Option TileAt) (dim : Nat) (a : Word) (go : List (BitVec 32) → Eff) : Eff :=
  match q with
  | none => go []
  | some q =>
    match vectorPoison t q dim with
    | some o => .trap cPOISON (windowVa t t.fib t.fib.core o)
    | none =>
      let x := tileVector t q dim
      if x.any notFinite then .trap cINDEX a else go x

/-- The result tile of LDNN (R360 step 3). -/
def resultTile (t : State) (op tile k : Nat) : Except (Nat × Word) (Nat × TileAt) :=
  if op ≠ 0 then .ok (0, ⟨t.fib.core, 0, 0⟩)
  else match namedTile t t.fib t.fib.core tile with
    | none => .error (noTile t.fib tile, BitVec.ofNat 64 tile)
    | some (i, r) =>
      if teFmt r.ent ≠ 12 then .error (cFORMAT, BitVec.ofNat 64 tile)
      else if teRows r.ent < k ∨ teCols r.ent < 4 then .error (cTILESHAPE, BitVec.ofNat 64 tile)
      else .ok (i, r)

/-- An index command goes to its engine once there is room for it and the fibre's earlier accesses are performed (R360, R174). -/
def indexEff (t : State) (c : IdxCmd) : Eff :=
  if 16 ≤ (t.idxCmds.filter fun x => x.core == t.fib.core).length then .later .commands (.index c) t
  else if !allPerformed t t.fib.id then .later .accesses (.index c) t
  else
    let t := releaseCopies t t.fib.core c.lv
    let (n, t) := freshId t
    let take := c.op == 0 && canTake t n c.core c.idx true
    let t := if take then setTileState t c.core c.idx 1 else t
    .done { t with idxCmds := t.idxCmds ++ [{ c with
      id := n
      took := take }] }

/-- LDNN, STVEC and DLVEC (R359, R360): `op` 0, 1 or 2. -/
def indexCmd (i : Instr) (op : Nat) (y : Bool) (ga : Reg) (la : Bool) (gb : Reg) (lb : Bool) (s : State) : Out :=
  issue s { plainUse i y [(ga, la), (gb, lb)] 0 with fail := true } fun t v =>
    let a := arg v 0
    let b := arg v 1
    if t.fib.ident.kind = .handler ∧ op ≠ 2 then .trap cTILEUNDEF 64
    else if 63 < b.toNat then .trap cBOUND b
    else match indexOf t b.toNat with
      | none => .trap cINDEX b
      | some ix =>
        if ix.ten ≠ t.fib.ident.tenant then .trap cWINDOW b
        else if !aligned a 32 then .trap cALIGN a
        else readBlock 4 t a [] fun t ws =>
          if blockBad op ix ws then .trap cINDEX a
          else
            let w0 := (ws.getD 0 0).toNat
            cmdTile t op (nf w0 0 8) ix.dim fun q =>
              match resultTile t op (nf w0 8 8) (nf w0 16 16) with
              | .error e => .trap e.1 e.2
              | .ok r => cmdVector t q ix.dim a fun x =>
                let st := ws.getD 3 0
                match if st = 0 then Chk.ok ⟨0, 0, 0, 0, false, 0, 0, 0⟩ else checkWord t st with
                | .bad c x => .trap c x
                | .wait w t => .park w t
                | .ok ad =>
                  let sc := BitVec.ofNat 4 (nf w0 48 8)
                  indexEff t { id := 0, num := ix.num, op := op, fib := t.fib.id, core := t.fib.core, mon := t.fib.pl == 2,
                               k := nf w0 16 16, l := nf w0 32 16, mask := ws.getD 1 0, value := ws.getD 2 0, query := x,
                               rt := nf w0 8 8, ent := r.2.ent, base := r.2.base, scope := sc,
                               lv := scopeLevel t t.fib.ident.tenant t.fib.core sc, stamp := if st = 0 then 0 else ad.pa,
                               accepted := none, idx := r.1, took := false, gang := t.fib.ident.gang, next := none, todo := [] }

/-- LDNN (R360). -/
def execLdnn (y : Bool) (ga : BitVec 4) (la : Bool) (gb : BitVec 4) (lb : Bool) (s : State) : Out :=
  indexCmd (.ldnn y ga la gb lb) 0 y ga la gb lb s
/-- STVEC (R360). -/
def execStvec (y : Bool) (ga : BitVec 4) (la : Bool) (gb : BitVec 4) (lb : Bool) (s : State) : Out :=
  indexCmd (.stvec y ga la gb lb) 1 y ga la gb lb s
/-- DLVEC (R360). -/
def execDlvec (y : Bool) (ga : BitVec 4) (la : Bool) (gb : BitVec 4) (lb : Bool) (s : State) : Out :=
  indexCmd (.dlvec y ga la gb lb) 2 y ga la gb lb s

/-- Event INDEX_STVEC_PERFORM (R189). -/
def execIndexStvecPerform (c : Nat) (s : State) : Out := .next (mutate s c 1 false)
/-- Event INDEX_DLVEC_PERFORM (R190). -/
def execIndexDlvecPerform (c : Nat) (s : State) : Out := .next (mutate s c 2 false)
/-- Event VERSION_AREA_FREED (R191). -/
def execVersionAreaFreed (c : Nat) (s : State) : Out := .next (mutate s c 0 true)
/-- Event INDEX_LDNN_ACCEPT (R191). -/
def execIndexLdnnAccept (c : Nat) (s : State) : Out := .next (acceptSearch s c)
/-- Event INDEX_SEARCH_COMPLETE (R191). -/
def execIndexSearchComplete (c : Nat) (s : State) : Out := .next (searchComplete s c)

end Sys2Proof.Machine
end

