-- ==== Sys2Proof/Machine/Aes.lean ====
section
/-! DEFINITION. AES-256 in Galois/Counter Mode, the cipher that R200 names (NIST FIPS 197 and SP 800-38D; log entry 9). -/

namespace Sys2Proof.Machine

/-- Multiplication by x in AES's field. -/
def aesX (b : Byte) : Byte := (b <<< 1) ^^^ (if b.getLsbD 7 then 0x1B else 0)

/-- Multiplication in AES's field, over the lowest `n` bits of the second factor. -/
def aesMul (n : Nat) (a b : Byte) : Byte :=
  match n with
  | 0 => 0
  | k + 1 => (if b.getLsbD 0 then a else 0) ^^^ aesMul k (aesX a) (b >>> 1)

/-- The inverse in AES's field, 0 for 0: the 254th power. -/
def aesInv (a : Byte) : Byte :=
  let m := aesMul 8
  let p2 := m a a
  let p3 := m p2 a
  let p6 := m p3 p3
  let p12 := m p6 p6
  let p15 := m p12 p3
  let p30 := m p15 p15
  let p60 := m p30 p30
  let p120 := m p60 p60
  let p126 := m p120 p6
  let p127 := m p126 a
  m p127 p127

/-- A byte rotated left. -/
def rotByte (b : Byte) (n : Nat) : Byte := (b <<< n) ||| (b >>> (8 - n))

/-- One entry of the substitution table, computed. -/
def sboxAt (a : Byte) : Byte :=
  let b := aesInv a
  b ^^^ rotByte b 1 ^^^ rotByte b 2 ^^^ rotByte b 3 ^^^ rotByte b 4 ^^^ 0x63

/-- The substitution table. -/
def sboxTable : List Byte := (List.range 256).map fun n => sboxAt (BitVec.ofNat 8 n)

/-- Substitute every byte through a table. -/
def subBytes (t : List Byte) (bs : List Byte) : List Byte := bs.map fun b => t.getD b.toNat 0

/-- Two byte strings combined. -/
def xorBytes (a b : List Byte) : List Byte := a.zipWith (fun x y => x ^^^ y) b

/-- The key schedule's words from the last eight on, newest first: `i` is the number of the next word and `n` how many are to come. -/
def keyWords (t : List Byte) (n i : Nat) (rc : Byte) (ws : List (List Byte)) : List (List Byte) :=
  match n with
  | 0 => ws
  | k + 1 =>
    let prev := ws.getD 0 []
    let x :=
      if i % 8 = 0 then
        match subBytes t (prev.drop 1 ++ prev.take 1) with
        | [] => []
        | b :: r => (b ^^^ rc) :: r
      else if i % 8 = 4 then subBytes t prev
      else prev
    keyWords t k (i + 1) (if i % 8 = 0 then aesX rc else rc) (xorBytes x (ws.getD 7 []) :: ws)

/-- The words of a key in their order. -/
def splitWords (n : Nat) (bs : List Byte) : List (List Byte) :=
  match n with
  | 0 => []
  | k + 1 => bs.take 4 :: splitWords k (bs.drop 4)

/-- The fifteen round keys of a 32-byte key, as bytes in order. -/
def roundKeys (t : List Byte) (key : List Byte) : List Byte := (keyWords t 52 8 1 (splitWords 8 key).reverse).reverse.flatten

/-- A round's shift of the rows: byte 4c + r comes from column c + r. -/
def shiftRows (bs : List Byte) : List Byte := (List.range 16).map fun i => bs.getD ((i + 4 * (i % 4)) % 16) 0

/-- A round's mixing of one column. -/
def mixColumn (a b c d : Byte) : List Byte :=
  let x := fun (p q r s : Byte) => aesX p ^^^ aesX q ^^^ q ^^^ r ^^^ s
  [x a b c d, x b c d a, x c d a b, x d a b c]

/-- A round's mixing of the columns. -/
def mixColumns (bs : List Byte) : List Byte :=
  (List.range 4).flatMap fun c => mixColumn (bs.getD (4 * c) 0) (bs.getD (4 * c + 1) 0) (bs.getD (4 * c + 2) 0) (bs.getD (4 * c + 3) 0)

/-- The rounds that mix, then the last one. -/
def aesRounds (t : List Byte) (n : Nat) (ks : List Byte) (b : List Byte) : List Byte :=
  match n with
  | 0 => xorBytes (shiftRows (subBytes t b)) ks
  | k + 1 => aesRounds t k (ks.drop 16) (xorBytes (mixColumns (shiftRows (subBytes t b))) ks)

/-- AES-256 of one block under its round keys. -/
def aesBlock (t ks : List Byte) (b : List Byte) : List Byte := aesRounds t 13 (ks.drop 16) (xorBytes b ks)

/-- `n` big-endian bytes. -/
def beBytes (n v : Nat) : List Byte := (leBytes n v).reverse

/-- The number that big-endian bytes give. -/
def beNat (bs : List Byte) : Nat := leNat bs.reverse

/-- Multiplication in GCM's field, over `n` more bits of the first factor from bit `n - 1` down. -/
def gcmMul (n : Nat) (x v : BitVec 128) : BitVec 128 :=
  match n with
  | 0 => 0
  | k + 1 => (if x.getLsbD k then v else 0) ^^^ gcmMul k x ((v >>> 1) ^^^ (if v.getLsbD 0 then 0xE1000000000000000000000000000000 else 0))

/-- GHASH over blocks of 16 bytes, the last padded with zeros. -/
def ghash (n : Nat) (h y : BitVec 128) (bs : List Byte) : BitVec 128 :=
  match n with
  | 0 => y
  | k + 1 =>
    let b := bs.take 16
    ghash k h (gcmMul 128 (y ^^^ BitVec.ofNat 128 (beNat (b ++ List.replicate (16 - b.length) 0))) h) (bs.drop 16)

/-- `n` blocks of the key stream from a counter on. -/
def gcmBlocks (t ks nonce : List Byte) (n ctr : Nat) : List Byte :=
  match n with
  | 0 => []
  | k + 1 => aesBlock t ks (nonce ++ beBytes 4 ctr) ++ gcmBlocks t ks nonce k (ctr + 1)

/-- The key stream of `len` bytes under a 96-bit nonce. -/
def gcmStream (key nonce : List Byte) (len : Nat) : List Byte :=
  let t := sboxTable
  (gcmBlocks t (roundKeys t key) nonce (ceilDiv len 16) 2).take len

/-- The first 96 bits of the tag of a ciphertext with additional data (R200), its first byte lowest. -/
def gcmTag (key nonce aad ct : List Byte) : BitVec 96 :=
  let t := sboxTable
  let ks := roundKeys t key
  let h := BitVec.ofNat 128 (beNat (aesBlock t ks (List.replicate 16 0)))
  let y := ghash (ceilDiv ct.length 16) h (ghash (ceilDiv aad.length 16) h 0 aad) ct
  let y := gcmMul 128 (y ^^^ BitVec.ofNat 128 (8 * aad.length * 2 ^ 64 + 8 * ct.length)) h
  BitVec.ofNat 96 (leNat ((xorBytes (beBytes 16 y.toNat) (aesBlock t ks (nonce ++ beBytes 4 1))).take 12))

end Sys2Proof.Machine
end

