-- ==== Sys2Proof/Machine/LinkSec.lean ====
section
/-! DEFINITION. Luasko flits and link security: the header, encryption and CRC of a flit, KLOAD and KTURN (R198-R205, R244, R373,
R374). -/

namespace Sys2Proof.Machine

/-- The link header as a number (R198). -/
def flitHeader (f : Flit) : Nat :=
  f.seq.toNat + f.ack.toNat * 2 ^ 16 + b1 f.ks * 2 ^ 32 + f.typ.toNat * 2 ^ 33 + f.vc.toNat * 2 ^ 37 + b1 f.sop * 2 ^ 40
    + b1 f.eop * 2 ^ 41 + f.cvc.toNat * 2 ^ 48 + f.ccnt.toNat * 2 ^ 51

/-- One bit step of the CRC-64 of R200. -/
def crcBit (r : BitVec 64) : BitVec 64 := if r.getLsbD 63 then (r <<< 1) ^^^ 0x42F0E1EBA9EA3693 else r <<< 1

/-- The CRC over bytes, most significant bit first (R200). -/
def crcFrom (r : BitVec 64) (bs : List Byte) : BitVec 64 :=
  match bs with
  | [] => r
  | b :: t =>
    let x := r ^^^ (b.setWidth 64 <<< 56)
    crcFrom (crcBit (crcBit (crcBit (crcBit (crcBit (crcBit (crcBit (crcBit x)))))))) t

/-- The CRC of bytes 0-247 of a flit (R200). -/
def flitCrc (f : Flit) : BitVec 64 :=
  ~~~(crcFrom (BitVec.allOnes 64) (leBytes 8 (flitHeader f) ++ f.payload ++ leBytes 12 f.tag.toNat))

/-- The nonce: LINKID, then the invocation count (R200). -/
def flitNonce (linkid : BitVec 32) (count : Nat) : List Byte := beBytes 4 linkid.toNat ++ beBytes 8 count

/-- A flit with its payload encrypted, its tag and its CRC (R200). -/
def sealFlit (key : List Byte) (linkid : BitVec 32) (count : Nat) (f : Flit) : Flit :=
  let nonce := flitNonce linkid count
  let ct := xorBytes f.payload (gcmStream key nonce 228)
  let f := { f with
    payload := ct
    tag := gcmTag key nonce (leBytes 8 (flitHeader f)) ct }
  { f with crc := flitCrc f }

/-- A flit's payload as decrypted, or none when its tag is wrong (R200, R203). -/
def openFlit (key : List Byte) (linkid : BitVec 32) (count : Nat) (f : Flit) : Option (List Byte) :=
  let nonce := flitNonce linkid count
  if gcmTag key nonce (leBytes 8 (flitHeader f)) f.payload = f.tag then
    some (xorBytes f.payload (gcmStream key nonce 228))
  else none

/-- A payload of zeros. -/
def zeroPayload : List Byte := List.replicate 228 0

/-- A port's active sending key. -/
def txKey (p : Port) : Option (List Byte) := if p.txs then p.txKey1 else p.txKey0
/-- Its idle sending slot's key. -/
def txIdle (p : Port) : Option (List Byte) := if p.txs then p.txKey0 else p.txKey1
/-- Its idle receiving slot's key. -/
def rxIdle (p : Port) : Option (List Byte) := if p.rxs then p.rxKey0 else p.rxKey1
/-- Its active receiving key. -/
def rxKey (p : Port) : Option (List Byte) := if p.rxs then p.rxKey1 else p.rxKey0

/-- Put a key into the idle sending slot. -/
def setTxIdle (p : Port) (k : Option (List Byte)) : Port := if p.txs then { p with txKey0 := k } else { p with txKey1 := k }
/-- Put a key into the idle receiving slot. -/
def setRxIdle (p : Port) (k : Option (List Byte)) : Port := if p.rxs then { p with rxKey0 := k } else { p with rxKey1 := k }

/-- LSEC.STAT (R205). While a turn is unacknowledged TXLD reads 0 (R374). -/
def lsecStat (p : Port) : Word :=
  BitVec.ofNat 64 (b1 p.turning + b1 (rxIdle p).isSome * 2 + b1 ((txIdle p).isSome && !p.turning) * 4 + b1 p.rxs * 8 + b1 p.txs * 16
    + b1 (p.count == 2 ^ 32) * 32 + b1 (decide (p.limit ≤ p.count)) * 64 + p.width.toNat * 128)

/-- A new flit of a port, in its active slot, with the next sequence number (R198). -/
def newFlit (p : Port) (typ : BitVec 4) (vc : BitVec 3) (sop eop : Bool) (payload : List Byte) : Flit :=
  ⟨0, 0, eop, sop, vc, typ, p.txs, p.ack, p.seq, false, payload, 0, 0⟩

/-- A flit of an encrypted type leaves: encrypted under the active slot, or clear without a key; it goes on the link and into the replay
buffer (R201, R203, R244). -/
def sendFlit (p : Port) (f : Flit) : Port :=
  let x := match txKey p with
    | some k => sealFlit k p.linkid p.count f
    | none => { f with crc := flitCrc f }
  { p with
    replay := p.replay ++ [x]
    wire := some x
    seq := p.seq + 1
    count := p.count + b1 (txKey p).isSome }

/-- The port of the issuing fibre's gateway core. -/
def ownPort (s : State) : Nat := (portOfCore s.fib.core).getD 0

/-- A sending key goes into the idle slot once no turn is unacknowledged (R373). -/
def keyEff (t : State) (k : List Byte) : Eff :=
  let f := ownPort t
  let p := portOf t f
  if p.turning then .later (.turning false) (.key k) t else .done (setPort t f (setTxIdle p (some k)))

/-- KLOAD (R373): a device monitor's, on a serving gateway core. -/
def execKload (y : Bool) (ga : BitVec 4) (la rx : Bool) (s : State) : Out :=
  let i := Instr.kload y ga la rx
  issue s { plainUse i y [(ga, la)] 0 with
            level := 2
            ctx := noHandler i
            fail := true } fun t v =>
    let a := arg v 0
    if !aligned a 32 then .trap cALIGN a
    else readBlock 4 t a [] fun t ws =>
      let f := ownPort t
      let p := portOf t f
      let key := ws.flatMap fun w => leBytes 8 w.toNat
      if rx then .done (setPort t f (setRxIdle p (some key))) else keyEff t key

/-- The port after its KEYTURN flit is placed (R202, R374), on the control class's virtual channel (R197). -/
def turnPort (p : Port) : Port :=
  let q := sendFlit p (newFlit p 4 6 false false zeroPayload)
  { q with
    txs := !p.txs
    count := 0
    turning := true
    turnSeq := p.seq }

/-- The turn of a key after KTURN's checks (R374): it waits for room in the replay buffer. -/
def turnEff (t : State) : Eff :=
  let f := ownPort t
  let p := portOf t f
  if p.turning || decide (64 ≤ p.replay.length) then .later (.turning true) .turn t else .done (setPort t f (turnPort p))

/-- KTURN (R374): waits while a turn is unacknowledged, and for room in the replay buffer. -/
def execKturn (y : Bool) (s : State) : Out :=
  let i := Instr.kturn y
  issue s { plainUse i y [] 0 with
            level := 2
            ctx := noHandler i
            fail := true } fun t _ =>
    let f := ownPort t
    let p := portOf t f
    if p.turning then .park (.turning true) t
    else if (txIdle p).isNone then .trap cILLEGAL (wordVal i)
    else turnEff t

end Sys2Proof.Machine
end

