-- ==== Sys2Proof/Machine/SwitchMem.lean ====
section
/-! DEFINITION. The switch memory allocator: SMAL, SMFR and SMQUOTA, and the host's switch memory window (R29, R151, R152,
R369-R372). -/

namespace Sys2Proof.Machine

/-- Granules on a router die open to allocation (R151). -/
def dieGranules : Nat := 7680

/-- Whether an allocation holds a granule of a die; a mirrored one holds it on both. -/
def holdsGranule (a : Alloc) (die g : Nat) : Bool := (a.mir || a.die == die) && decide (a.gran ≤ g) && decide (g < a.gran + a.count)

/-- Whether a granule is free and in service. -/
def granuleFree (s : State) (die g : Nat) : Bool :=
  !(s.allocs.any fun a => holdsGranule a die g) && !sHas s.dev.retiredGranules (die * 8192 + g)

/-- Free granules on a die (R347). -/
def freeCount (s : State) (die : Nat) : Nat := ((List.range dieGranules).filter fun g => granuleFree s die g).length

/-- The granules that a tenant holds: mirrored ones twice, images included (R347). -/
def usedBy (s : State) (ten : BitVec 4) : Nat :=
  (s.allocs.filter fun a => a.ten == ten).foldl (fun n a => n + a.count * (if a.mir then 2 else 1)) 0

/-- The lowest run of `need` granules that satisfy a test, from granule `g` on with `len` already in a row. -/
def runFrom (ok : Nat → Bool) (need n g len : Nat) : Option Nat :=
  match n with
  | 0 => none
  | m + 1 =>
    if ok g then (if need ≤ len + 1 then some (g + 1 - need) else runFrom ok need m (g + 1) (len + 1))
    else runFrom ok need m (g + 1) 0

/-- The lowest run on a die. -/
def dieRun (s : State) (die need : Nat) : Option Nat :=
  if die = 1 ∧ s.dev.dieBLost = true then none else runFrom (granuleFree s die) need dieGranules 0 0

/-- Where an allocation goes (R370): the die and first granule. -/
def placeRun (s : State) (need : Nat) (mir : Bool) : Option (Nat × Nat) :=
  if mir then
    (if s.dev.dieBLost then none
    else (runFrom (fun g => granuleFree s 0 g && granuleFree s 1 g) need dieGranules 0 0).map fun g => (0, g))
  else
    let d := if freeCount s 0 < freeCount s 1 && !s.dev.dieBLost then 1 else 0
    match dieRun s d need with
    | some g => some (d, g)
    | none => (dieRun s (1 - d) need).map fun g => (1 - d, g)

/-- The switch window's address of an offset (R369). -/
def switchVa (off : Nat) : Word := BitVec.ofNat 64 (0xFFFFFE0000000000 + off)

/-- SMAL (R370). -/
def execSmal (y : Bool) (gd ga : BitVec 4) (la mir : Bool) (s : State) : Out :=
  issue s { plainUse (.smal y gd ga la mir) y [(ga, la)] gd with fail := true } fun t v =>
    let a := (arg v 0).toNat
    let n := nf a 0 14
    let need := if mir then 2 * n else n
    let ten := t.fib.ident.tenant
    if nf a 14 2 ≠ 0 ∨ a / 2 ^ 20 ≠ 0 ∨ nf a 16 2 = 3 ∨ nf a 18 2 = 3 ∨ n = 0 ∨ 15360 < n then .trap cRESBITS (arg v 0)
    else if (tenantOf t ten.toNat).quota.toNat < usedBy t ten + need then .trap cBOUND (arg v 0)
    else match placeRun t n mir with
      | none => .done (setLong t gd 0 0)
      | some (d, g) =>
        let x : Alloc := ⟨d, g, n, mir, ten, BitVec.ofNat 2 (nf a 16 2), BitVec.ofNat 2 (nf a 18 2), false, false⟩
        let t := { t with allocs := t.allocs ++ [x], ms := { t.ms with
          mem := mzero t.ms.mem (switchPa t d (g * 65536)) (n * 65536) } }
        .done (setLong t gd (switchVa (d * 2 ^ 29 + g * 65536)) 0)

/-- The allocation of a tenant based at a window address (R371). -/
def allocBased (s : State) (ten : BitVec 4) (va : Nat) : Option Alloc :=
  s.allocs.find? fun a => a.ten == ten && !a.unmapped && (switchVa (a.die * 2 ^ 29 + a.gran * 65536)).toNat == va

/-- Whether a physical address lies in an allocation. -/
def inAlloc (s : State) (a : Alloc) (pa : Nat) : Bool :=
  let lo := switchPa s a.die (a.gran * 65536)
  decide (lo ≤ pa) && decide (pa < lo + a.count * 65536)

/-- An allocation's end (R371 steps 2 to 4): unmapped (no TLB of the model holds the window), cached copies dropped, zeroed, and returned to the quota. -/
def freeAlloc (s : State) (a : Alloc) : State :=
  let here := inAlloc s a
  let s := dropCopies s (fun _ => true) here
  { s with
    allocs := s.allocs.filter fun x => x != a
    ms := { s.ms with
      mem := mzero s.ms.mem (switchPa s a.die (a.gran * 65536)) (a.count * 65536)
      poison := s.ms.poison.filter fun w => !here (w * 8)
      attrs := s.ms.attrs.filter fun p => !here (p.1 * 32) } }

/-- SMFR after its checks (R371). -/
def freeEff (t : State) (base : Word) : Eff :=
  if !allPerformed t t.fib.id then .later .accesses (.free base) t
  else
    let t := releaseAt t t.fib.ident.tenant t.fib.core 4
    if t.sched.defer then .hold (.free base.toNat) t
    else .done (match allocBased t t.fib.ident.tenant base.toNat with
      | some a => freeAlloc t a
      | none => t)

/-- SMFR (R371). -/
def execSmfr (y : Bool) (ga : BitVec 4) (la : Bool) (s : State) : Out :=
  issue s { plainUse (.smfr y ga la) y [(ga, la)] 0 with fail := true } fun t v =>
    match allocBased t t.fib.ident.tenant (arg v 0).toNat with
    | none => .trap cXNP (arg v 0)
    | some _ => freeEff t (arg v 0)

/-- SWITCH_FREE_DONE (R371): the free of a fibre finishes and the fibre goes on. -/
def execSwitchFreeDone (f : Nat) (s : State) : Out :=
  .next (match fibreOf s f with
    | none => s
    | some x =>
      match x.run with
      | .parked (.free base) =>
        let s := match allocBased s x.ident.tenant base with
          | some a => freeAlloc s a
          | none => s
        complete s f none
      | _ => s)

/-- SMA.USE (R347). -/
def smaUse (s : State) (ten : BitVec 4) : Word :=
  BitVec.ofNat 64 ((tenantOf s ten.toNat).quota.toNat * 2 ^ 32 + usedBy s ten % 2 ^ 14)

/-- SMQUOTA (R372). -/
def execSmquota (y : Bool) (gd : BitVec 4) (s : State) : Out :=
  issue s { plainUse (.smquota y gd) y [] gd with fail := true } fun t _ => .done (setLong t gd (smaUse t t.fib.ident.tenant) 0)

/-- The bytes of home storage at an address. -/
def rdBytes (s : State) (pa n : Nat) : List Byte := (List.range n).map fun i => mget s.ms.mem (pa + i)

/-- Bytes written to home storage one at a time. -/
def wrBytes (s : State) (pa : Nat) (bs : List Byte) : State :=
  match bs with
  | [] => s
  | b :: t => wrBytes { s with ms := { s.ms with mem := mset s.ms.mem pa b } } (pa + 1) t

/-- Bytes that the host writes to switch memory: a store at the home of each line it touches (R169), which clears the poison of whole words
(R422). -/
def hostBytes (s : State) (pa : Nat) (bs : List Byte) : State :=
  let keys := ((List.range bs.length).map fun i => lineKey (grainAt s (pa + i)) (pa + i)).eraseDups
  let s := keys.foldl (fun s k => (scStoreTs s k 0).2) (wrBytes s pa bs)
  { s with ms := { s.ms with
    poison := s.ms.poison.filter fun w => !(decide (pa ≤ 8 * w) && decide (8 * w + 8 ≤ pa + bs.length)) } }

/-- Whether the host may reach a range of switch memory (R29). -/
def hostMay (s : State) (off n : Nat) : Bool :=
  s.allocs.any fun a => !a.lost && !a.unmapped && (tenantOf s a.ten.toNat).hostsm && a.die == off / 2 ^ 29
    && decide (a.gran * 65536 ≤ off % 2 ^ 29) && decide (off % 2 ^ 29 + n ≤ (a.gran + a.count) * 65536)

/-- HOST_SWITCH_WINDOW_ACCESS (R29): performed at the bank, or discarded and counted. -/
def execHostSwitchWindowAccess (write : Bool) (off n : Nat) (bytes : List (BitVec 8)) (s : State) : Out :=
  .next (
    let pa := switchPa s 0 off
    let n := if write then bytes.length else n
    if hostMay s off n then
      let near := fun a => decide (pa / 512 * 512 ≤ a) && decide (a < (pa + n) / 512 * 512 + 512)
      let s := flushAll s near
      if write then hostBytes s pa bytes else { s with host := { s.host with reads := s.host.reads ++ [rdBytes s pa n] } }
    else
      let s := countViolation s
      if write then s else { s with host := { s.host with reads := s.host.reads ++ [List.replicate n 0xFF] } })

end Sys2Proof.Machine
end

