-- ==== Sys2Proof/Machine/Walk.lean ====
section
/-! DEFINITION. The cluster walker, its histogram, and the gateway queues: WALK, HIST, the runs of nodes, and GWTAKE (R87-R90, R220,
R375-R378). -/

namespace Sys2Proof.Machine

/-- No successor (R87). -/
def noNode : Nat := 0xFFFF

/-- A graph node of four words (R87). -/
def nodeOf (ws : List Word) : Node :=
  let w0 := (ws.getD 0 0).toNat
  ⟨nf w0 0 8, nf w0 16 16, nf w0 32 16, ws.getD 1 0, ws.getD 2 0, ws.getD 3 0⟩

/-- Whether a node is refused (R87, R375): `n` nodes, `task k` whether node k is a task node. A join with no arrivals needed, a latch of
no target or of more than 256, and a join's or latch's ALT other than 0xFFFF stand in no list of refusals; they are refused
as fields out of range (DESIGN CHOICE, log entry 63). -/
def nodeBad (n : Nat) (task : Nat → Bool) (ws : List Word) : Bool :=
  let w0 := (ws.getD 0 0).toNat
  let x := nodeOf ws
  let p := x.p.toNat
  let q := x.q.toNat
  let s := x.s.toNat
  let succ := fun k => k == noNode || decide (k < n)
  nf w0 8 8 != 0 || nf w0 48 16 != 0 || !succ x.next || match x.kind with
    | 0 => !succ x.alt || s / 2 ^ 53 != 0
    | 1 => !succ x.alt || q != 0 || s != 0
    | 2 => !succ x.alt || q != 0 || s != 0
    | 3 => x.alt != noNode || p != 0 || q != 0 || s == 0 || decide (256 ≤ s)
    | 4 =>
      let b0 := nf p 0 8
      let t := nf p 8 8
      let k := nf p 16 9
      x.alt != noNode || p / 2 ^ 25 != 0 || s / 2 ^ 32 != 0 || k == 0 || decide (256 < k) || decide (256 < b0 + k)
        || !(List.range k).all fun j => decide (t + j < n) && task (t + j)
    | _ => true

/-- The first refused node from node `i` on. -/
def firstBad (n : Nat) (task : Nat → Bool) (i : Nat) (nodes : List (List Word)) : Option Nat :=
  match nodes with
  | [] => none
  | x :: t => if nodeBad n task x then some i else firstBad n task (i + 1) t

/-- Words in groups of four. -/
def groups4 (n : Nat) (ws : List Word) : List (List Word) :=
  match n with
  | 0 => []
  | k + 1 => ws.take 4 :: groups4 k (ws.drop 4)

/-- Whether a fibre still asks for a cluster's walker: it is on one of the cluster's cores. -/
def asksWalk (s : State) (cl n : Nat) : Bool :=
  (allFibres s).any fun x => x.id == n && clusterOf x.core == cl && isResident x && match x.run with
    | .migrating _ _ => false
    | _ => true

/-- Whether a fibre is the first to be granted its cluster's walker, in arrival order (R375). -/
def walkTurn (s : State) (cl f : Nat) : Bool :=
  match (s.walkWait.filter fun w => w.1 == cl && asksWalk s cl w.2).head? with
  | none => true
  | some w => w.2 == f

/-- A fibre joins the requests for its cluster's walker, or keeps its place. -/
def joinWalk (s : State) (cl f : Nat) : State :=
  if s.walkWait.any fun w => w.1 == cl && w.2 == f then s else { s with walkWait := s.walkWait ++ [(cl, f)] }

/-- A fibre leaves the requests. -/
def leaveWalk (s : State) (f : Nat) : State := { s with walkWait := s.walkWait.filter fun w => w.2 != f }

/-- What names a fibre's gang to a walker: its number, or for a fibre from another module its home, stage, launch and place in the grid
(R51). -/
def gangKey (f : Fibre) : Option Nat :=
  match f.ident.gang with
  | some g => some g
  | none => f.ident.guest.map fun m => 2 ^ 60 + m.1 * 2 ^ 46 + nf f.ident.fstage.toNat 0 3 * 2 ^ 43 + nf f.ident.gangid.toNat 40 23 * 2 ^ 20
      + nf f.ident.gangid.toNat 0 20

/-- A wait within an instruction whose earlier checks are not made again (R407): it goes on from there. -/
def goOn (j : Job) (e : Eff) : Eff :=
  match e with
  | .park w t => .later w j t
  | e => e

/-- A checked graph is loaded and started (R375): the gang holds the walker, and the fibre's earlier accesses are performed at cluster scope
first. -/
def walkEff (t : State) (w : Walker) : Eff :=
  let f := t.fib
  if !allPerformed t f.id then .later .accesses (.walk w) t
  else
    let t := leaveWalk (releaseAt t f.ident.tenant f.core 2) f.id
    .done (setWalker t (clusterOf f.core) w)

/-- WALK from its wait for the cluster's walker on (R375 steps 2 to 4). -/
def graphEff (t : State) (a : Word) : Eff :=
  let f := t.fib
  let cl := clusterOf f.core
  let q := joinWalk t cl f.id
  if (walkerOf t cl).gang.isSome || !walkTurn q cl f.id then .later .walker (.graph a) q
  else goOn (.graph a) (readBlock 4 q a [] fun t hs =>
    let h0 := (hs.getD 0 0).toNat
    let n := nf h0 0 16
    let start := nf h0 16 16
    if n = 0 ∨ 256 < n ∨ n ≤ start ∨ h0 / 2 ^ 32 ≠ 0 ∨ hs.getD 2 0 ≠ 0 ∨ hs.getD 3 0 ≠ 0 then .trap cRESBITS a
    else readBlock (4 * n) t (a + 32) [] fun t ns =>
      let gs := groups4 n ns
      let task := fun k => match gs[k]? with
        | some x => (nodeOf x).kind == 0
        | none => false
      match firstBad n task 0 gs with
      | some k => .trap cRESBITS (a + BitVec.ofNat 64 (32 + 32 * k))
      | none => walkEff t { Walker.reset with
          gang := gangKey f
          ten := f.ident.tenant
          pl := f.pl
          graph := gs.map nodeOf
          ready := [start]
          done := hs.getD 1 0
          core := f.core
          who := { f.ident with lflags := launchFlags t f } })

/-- WALK (R375). -/
def execWalk (y : Bool) (ga : BitVec 4) (la : Bool) (s : State) : Out :=
  let i := Instr.walk y ga la
  issue s { plainUse i y [(ga, la)] 0 with
            ctx := gangOnly i
            fail := true } fun t v =>
    let a := arg v 0
    let f := t.fib
    let cl := clusterOf f.core
    let w := walkerOf t cl
    if !aligned a 32 then .trap cALIGN a
    else if w.gang.isSome && w.gang == gangKey f then .trap cLEASE 6
    else graphEff t a

/-- A histogram bin (R90). -/
def histBin (w : Walker) (b : Nat) : Nat := (tget 0 w.hist b).toNat

/-- HIST (R376). -/
def execHist (y : Bool) (ga : BitVec 4) (la : Bool) (gb : BitVec 4) (lb : Bool) (s : State) : Out :=
  let i := Instr.hist y ga la gb lb
  issue s { plainUse i y [(ga, la), (gb, lb)] 0 with
            ctx := gangOnly i
            fail := true } fun t v =>
    let cl := clusterOf t.fib.core
    let w := walkerOf t cl
    if w.gang.isNone || w.gang != gangKey t.fib then .trap cLEASE 5
    else if 255 < (arg v 0).toNat then .trap cBOUND (arg v 0)
    else
      let b := (arg v 0).toNat
      let n := min (histBin w b + (arg v 1).toNat) 4294967295
      .done (setWalker t cl { w with hist := tset w.hist b (BitVec.ofNat 32 n) })

/-- The walker as an agent of its gang, for translation. -/
def walkFibre (w : Walker) : Fibre :=
  { Fibre.blank with
    core := w.core
    pl := w.pl
    ident := { w.who with
      kind := .placed
      tenant := w.ten } }

/-- A walk that has come to its end (R375): DONE is written, the walker is freed, and its gang may be Done. A path held at a join whose
other arrivals can no longer come counts as ended (DESIGN CHOICE, log entry 63). -/
def settleWalk (s : State) (cl : Nat) : State :=
  let w := walkerOf s cl
  match w.gang with
  | none => s
  | some g =>
    if (w.ready.isEmpty && w.placed.isEmpty) || (w.ended && w.alive.all fun p => p.2 == 0) then
      let v := w.tasks % 2 ^ 32 * 2 ^ 32 + (if w.ended then cBOUND else 0)
      let s := setWalker s cl Walker.reset
      let s := if w.done = 0 ∨ aligned w.done 8 = false then s
        else match translateFibre s (walkFibre w) .store w.done.toNat with
          | .ok a => if a.loc = 2 ∧ fibreReach s (walkFibre w) a.pa = true then fullWord s w.core w.ten (w.pl == 2) 2 a.pa v else s
          | _ => s
      settleGang s g
    else s

/-- Start a node's successor, unless the path ends there. -/
def startNode (w : Walker) (k : Nat) : Walker := if k = noNode then w else { w with ready := w.ready ++ [k] }

/-- Take one activation of a node. -/
def takeReady (w : Walker) (n : Nat) : Walker :=
  match takeFirst (fun k => k == n) w.ready with
  | some (_, r) => { w with ready := r }
  | none => w

/-- The core that takes an instance (R88): the first from `c` on, modulo 16, that is neither a gateway core nor retired. -/
def taskCore (s : State) (cl c fuel : Nat) : Option Nat :=
  match fuel with
  | 0 => none
  | k + 1 =>
    let core := cl * 16 + c % 16
    if servesGateway s core || (coreOf s core).retired then taskCore s cl (c + 1) k else some core

/-- Instance `i` of a task node as a queue entry (R88). -/
def instanceOf (w : Walker) (cl node : Nat) (x : Node) (i : Nat) : Task :=
  { pc := x.p
    args := [x.q + BitVec.ofNat 64 (i * nf x.s.toNat 32 16), BitVec.ofNat 64 i]
    ret := 0
    retScope := 2
    caller := (w.who.guest.map (·.2)).getD 0
    gang := w.gang.getD 0
    gangid := w.who.gangid ||| BitVec.ofNat 64 (2 ^ 63)
    fcoord := w.who.fcoord
    fstage := w.who.fstage
    node := some (cl, node)
    guest := w.who.guest.map fun g => (g.1, 0)
    ten := w.ten
    budget := w.who.budget
    tscope := w.who.tscope
    lflags := w.who.lflags }

/-- The home of a gang of another module hears of each task that its walk places (R51). -/
def nodeTask (s : State) (w : Walker) : State :=
  match w.who.guest with
  | some (m, n) => tellModule s (walkFibre w) m n 10 0 (leBytes 1 2)
  | none => s

/-- Place instances of a task node from number `i` on until a queue is full (R88). -/
def placeTasks (n : Nat) (s : State) (cl node : Nat) (x : Node) : State :=
  match n with
  | 0 => s
  | m + 1 =>
    let w := walkerOf s cl
    let i := tget 0 w.placed node
    let sv := x.s.toNat
    let f := nf sv 48 4 + (if nb sv 52 then i else 0)
    match taskCore s cl f 16 with
    | none => setWalker s cl { w with ended := true }
    | some core =>
      if !acceptsTask s core then s
      else
        let g3 := takeFree s
        let g4 := takeFree g3.2
        let s := nodeTask (pushTask g4.2 core { instanceOf w cl node x i with
          args := [x.q + BitVec.ofNat 64 (i * nf sv 32 16), BitVec.ofNat 64 i, g3.1, g4.1] }) w
        placeTasks m (setWalker s cl { w with
          placed := tset w.placed node (i + 1)
          alive := tset w.alive node (tget 0 w.alive node + 1)
          tasks := w.tasks + 1 }) cl node x

/-- Whether a node is running: its instances are being placed or have not all exited. -/
def nodeRunning (w : Walker) (node : Nat) : Bool := w.placed.any fun p => p.1 == node

/-- TASK_NODE_RUN (R88): an activation begins, or a waiting one places what it can. A further activation of a node that is still running
waits until it has completed (DESIGN CHOICE, log entry 63). -/
def taskNode (s : State) (cl node : Nat) : State :=
  let w := walkerOf s cl
  match w.graph[node]? with
  | none => s
  | some x =>
    if x.kind ≠ 0 ∨ w.gang = none ∨ w.ended = true then s
    else
      let n := nf x.s.toNat 0 32
      let start := w.ready.any (fun k => k == node) && !nodeRunning w node
      if start && n == 0 then settleWalk (setWalker s cl (startNode (startNode (takeReady w node) x.next) x.alt)) cl
      else
        let w := if start then { takeReady w node with placed := tset w.placed node 0 } else w
        if nodeRunning w node then settleWalk (placeTasks (n - tget 0 w.placed node) (setWalker s cl w) cl node x) cl else s

/-- WALKER_NODE_COMPLETE (R88, R89): every task fibre of the node has exited; their accesses are performed at cluster scope, and
the successors start. -/
def nodeComplete (s : State) (cl node : Nat) : State :=
  let w := walkerOf s cl
  match w.graph[node]? with
  | none => s
  | some x =>
    if x.kind = 0 ∧ nodeRunning w node = true ∧ tget 0 w.placed node = nf x.s.toNat 0 32 ∧ tget 0 w.alive node = 0 then
      let s := (List.range 16).foldl (fun s c => releaseAt s w.ten (cl * 16 + c) 2) s
      let w := { w with placed := tdel w.placed node, alive := tdel w.alive node }
      settleWalk (setWalker s cl (if w.ended then w else startNode (startNode w x.next) x.alt)) cl
    else settleWalk s cl

/-- The condition word of a node, read as an acquire at cluster scope (R89): at the die home slice, past the L1 (R135), or at the module
that holds it. None while that module has not answered; a read that fails gives a free value (log entry 6). -/
def condWord (s : State) (cl : Nat) (w : Walker) (va : Word) : State × Option Word :=
  let f := walkFibre w
  let free := let x := takeFree s; (x.2, some x.1)
  if !aligned va 8 then free
  else match translateFibre s f .load va.toNat with
    | .ok a =>
      if outOfReach s f a.pa then free
      else if isRemote s a.pa then
        let e : Agent := ⟨.walker cl, w.core, w.ten, w.pl == 2⟩
        let p : Piece := ⟨a.pa, 8, a.cp, a.gr, false⟩
        let g := gather s e [p]
        if !g.2 then (g.1, none)
        else match engRead s e 0 p with
          | .ok (t, v, bad) =>
            let t := dropFar (acquireLv t w.core 2 1) e.owner
            if bad then let x := takeFree t; (x.2, some x.1) else (t, some (BitVec.ofNat 64 v))
          | .error _ => let x := takeFree (dropFar s e.owner); (x.2, some x.1)
      else match performHere s { blankReq s w.core w.ten .load 0 8 a.pa va with
          cp := a.cp
          gr := a.gr
          pol := if a.cp = 1 then 1 else 0
          mon := w.pl == 2
          acq := some 2
          acqLv := 1 } with
        | .done t v => (t, some v)
        | _ => free
    | _ => free

/-- CONDITIONAL_NODE_RUN and WHILE_NODE_RUN (R89): ALT when the word is not 0, NEXT otherwise. -/
def condNode (s : State) (cl node kind : Nat) : State :=
  let w := walkerOf s cl
  match w.graph[node]? with
  | none => s
  | some x =>
    if x.kind ≠ kind ∨ w.gang = none ∨ w.ended = true ∨ (w.ready.any fun k => k == node) = false then s
    else
      let r := condWord s cl w x.p
      match r.2 with
      | none => r.1
      | some v =>
        let w := takeReady (walkerOf r.1 cl) node
        settleWalk (setWalker r.1 cl (startNode w (if v = 0 then x.next else x.alt))) cl

/-- JOIN_NODE_RUN (R89). -/
def joinNode (s : State) (cl node : Nat) : State :=
  let w := walkerOf s cl
  match w.graph[node]? with
  | none => s
  | some x =>
    if x.kind ≠ 3 ∨ w.gang = none ∨ w.ended = true ∨ (w.ready.any fun k => k == node) = false then s
    else
      let w := takeReady w node
      let n := tget 0 w.arrivals node + 1
      let w := if n < x.s.toNat then { w with arrivals := tset w.arrivals node n }
        else startNode { w with arrivals := tdel w.arrivals node } x.next
      settleWalk (setWalker s cl w) cl

/-- The targets of a latch from number `j` on, `sum` the bins before (R90). -/
def latchTargets (n : Nat) (w : Walker) (x : Node) (j sum : Nat) : Walker :=
  match n with
  | 0 => w
  | m + 1 =>
    let t := nf x.p.toNat 8 8 + j
    let h := histBin w (nf x.p.toNat 0 8 + j)
    match w.graph[t]? with
    | none => w
    | some y =>
      let y' := { y with
        s := BitVec.ofNat 64 (y.s.toNat / 2 ^ 32 * 2 ^ 32 + h)
        q := x.q + BitVec.ofNat 64 (nf x.s.toNat 0 32 * sum) }
      latchTargets m { w with graph := setAt w.graph t y' } x (j + 1) (sum + h)

/-- LATCH_NODE_RUN (R90). -/
def latchNode (s : State) (cl node : Nat) : State :=
  let w := walkerOf s cl
  match w.graph[node]? with
  | none => s
  | some x =>
    if x.kind ≠ 4 ∨ w.gang = none ∨ w.ended = true ∨ (w.ready.any fun k => k == node) = false then s
    else settleWalk (setWalker s cl (startNode (latchTargets (nf x.p.toNat 16 9) (takeReady w node) x 0 0) x.next)) cl

/-- Event TASK_NODE_RUN (R88). -/
def execTaskNodeRun (cl node : Nat) (s : State) : Out := .next (taskNode s cl node)
/-- Event CONDITIONAL_NODE_RUN (R89). -/
def execConditionalNodeRun (cl node : Nat) (s : State) : Out := .next (condNode s cl node 1)
/-- Event WHILE_NODE_RUN (R89). -/
def execWhileNodeRun (cl node : Nat) (s : State) : Out := .next (condNode s cl node 2)
/-- Event JOIN_NODE_RUN (R89). -/
def execJoinNodeRun (cl node : Nat) (s : State) : Out := .next (joinNode s cl node)
/-- Event LATCH_NODE_RUN (R90). -/
def execLatchNodeRun (cl node : Nat) (s : State) : Out := .next (latchNode s cl node)
/-- Event WALKER_NODE_COMPLETE (R89). -/
def execWalkerNodeComplete (cl node : Nat) (s : State) : Out := .next (nodeComplete s cl node)

/-- Whether an earlier acquire of the fibre's is still to be performed, which a later atomic waits for (R447). -/
def behindAcquire (s : State) : Bool := s.ms.reqs.any fun q => q.fib == s.fib.id && !q.sent && (q.acq.isSome || q.sc)

/-- GWTAKE (R378): an atomic at module scope, performed at router die A at once, but after an earlier acquire (R447). -/
def execGwtake (y : Bool) (gd ga : BitVec 4) (la : Bool) (s : State) : Out :=
  issue s { plainUse (.gwtake y gd ga la) y [(ga, la)] gd with fail := true } fun t v =>
    let a := arg v 0
    if 15 < a.toNat then .trap cBOUND a
    else
      let q := gwqOf t a.toNat
      if q.armed && q.owner != t.fib.ident.tenant then .trap cWINDOW a
      else if behindAcquire t then .park .accesses t
      else if !q.armed || q.next == q.limit.setWidth 33 then .done (setLong t gd (BitVec.allOnes 64) 0)
      else .done (setLong (setGwq t a.toNat { q with next := q.next + 1 }) gd (q.next.setWidth 64) 0)

/-- Event GWQ_ARM (R377): LIMIT, NEXT := 0, OWNER := the tenant; refused while another tenant's. -/
def execGwqArm (q ten : BitVec 4) (limit : BitVec 32) (s : State) : Out :=
  .next (
    let g := gwqOf s q.toNat
    if g.armed && g.owner != ten then s else setGwq s q.toNat ⟨true, ten, limit, 0⟩)

/-- Event GWQ_DISARM (R377). -/
def execGwqDisarm (q : BitVec 4) (s : State) : Out :=
  .next (setGwq s q.toNat { gwqOf s q.toNat with armed := false })

end Sys2Proof.Machine
end

