-- ==== Sys2Proof/Machine/EngineRegs.lean ====
section
/-! DEFINITION. The engine registers: ERD and EWR (R205, R264, R311, R333, R347, R377). -/

namespace Sys2Proof.Machine

/-- CPY.DST (R347): the oldest incomplete command of the core that writes scratchpad. -/
def cpyDst (c : Core) : Nat :=
  match c.fifo.find? fun x => x.kind == 0 || x.kind == 2 with
  | none => 0
  | some x =>
    2 ^ 63 + x.kind.toNat * 2 ^ 61 + (if x.kind = 0 then x.tile * 2 ^ 55 else x.pslot * 2 ^ 51 + x.poff % 2 ^ 14)

/-- MXA.HOLD (R347). -/
def mxaHold (a : MArray) : Nat :=
  match a.lease with
  | some l => 2 ^ 63 + l.core
  | none => 0

/-- The value of an engine register for a fibre (R205, R333, R347). -/
def eregRead (s : State) (f : Fibre) (eng r : Nat) : Word :=
  let c := coreOf s f.core
  let a := arrayOf s (clusterOf f.core)
  let w := walkerOf s (clusterOf f.core)
  let ten := f.ident.tenant
  BitVec.ofNat 64 (match eng, r with
    | 0, 0 => (cpyStat c).toNat
    | 0, 1 => c.seq.toNat
    | 0, 2 => cpyDst c
    | 0, 3 => (c.kicks.filter fun k => !k.started).length
    | 1, 0 => a.src.toNat
    | 1, 1 => (match a.cmds with
      | [] => 0
      | m :: _ => cmdK m % 2 ^ 16)
    | 1, 2 => mxaHold a
    | 2, 0 => (s.indexes.filter fun i => i.ten == ten).foldl (fun n i => n + 2 ^ i.num) 0
    | 2, 1 => (s.idxCmds.filter fun x => x.core == f.core).length
    | 3, 0 => msgOut s f.core
    | 3, 1 => (recvOf s (dieOf f.core)).rseq.toNat
    | 4, 0 => (smaUse s ten).toNat
    | 4, 1 => freeCount s 0 + freeCount s 1 * 2 ^ 16
    | 5, 0 => (portOf s (ownPort s)).linkid.toNat
    | 5, 1 => (portOf s (ownPort s)).count
    | 5, 2 => (portOf s (ownPort s)).limit
    | 5, 3 => (lsecStat (portOf s (ownPort s))).toNat
    | 6, 0 => b1 w.gang.isSome * 2 ^ 63 + b1 (w.gang.isSome && w.gang == gangKey f) * 2 ^ 62 + w.tasks % 2 ^ 32
    | 6, k => histBin w (k - 0x100)
    | 7, k =>
      let q := gwqOf s (k % 16)
      if k < 16 then b1 q.armed * 2 ^ 63 + q.owner.toNat * 2 ^ 32 + q.limit.toNat else q.next.toNat
    | _, _ => 0)

/-- A register's reserved bits (R3): the fields its map names with a dash. -/
def eregReserved (eng r : Nat) : Nat :=
  let top := fun k => 2 ^ 64 - 2 ^ k
  match eng, r with
  | 0, 0 => 2 ^ 32 - 2 ^ 5
  | 0, 1 => top 32
  | 0, 2 => 2 ^ 51 - 2 ^ 14
  | 0, 3 => top 5
  | 1, 0 => top 8
  | 1, 1 => top 16
  | 1, 2 => 2 ^ 63 - 2 ^ 10
  | 2, 1 => top 5
  | 3, 0 => top 6
  | 3, 1 => top 32
  | 4, 0 => top 46 + (2 ^ 32 - 2 ^ 14)
  | 4, 1 => top 30 + (2 ^ 16 - 2 ^ 14)
  | 5, 0 => top 32
  | 5, 2 => top 33
  | 5, 3 => top 9
  | 6, 0 => 2 ^ 62 - 2 ^ 32
  | 6, _ => top 32
  | 7, k => if k < 16 then 2 ^ 63 - 2 ^ 36 else top 33
  | _, _ => 0

/-- LEASE at the context checks: MXA.SRC without the lease (R332, R405). -/
def eregCtx (eng r : Nat) (wr : Bool) (s : State) : Option (Nat × Word) :=
  if eng = 1 ∧ r = 0 ∧ wr = true then leaseHeld false s else none

/-- LEASE for a WLK register when the gang does not hold the walker (R347), and WINDOW for a gateway queue that another tenant has armed
(R377). -/
def eregOther (s : State) (eng r : Nat) : Option (Nat × Word) :=
  if eng = 6 then
    let w := walkerOf s (clusterOf s.fib.core)
    if w.gang.isSome && w.gang == gangKey s.fib then none else some (cLEASE, 5)
  else if eng = 7 then
    let q := gwqOf s (r % 16)
    if q.armed && q.owner != s.fib.ident.tenant then some (cWINDOW, BitVec.ofNat 64 (r % 16)) else none
  else none

/-- ERD (R311): a long result. -/
def execErd (y : Bool) (gd : BitVec 4) (eng : BitVec 4) (r : BitVec 10) (s : State) : Out :=
  issue s { plainUse (.erd y gd eng r) y [] gd with ctx := eregCtx eng.toNat r.toNat false } fun t _ =>
    match eregOther t eng.toNat r.toNat with
    | some (c, x) => .trap c x
    | none => .done (setLong t gd (eregRead t t.fib eng.toNat r.toNat) 0)

/-- A write's checks in R412's order: RESBITS for reserved bits and for values out of range, PRIV for a MON field, TILEUNDEF for
a slot, LEASE for the walker, WINDOW for a queue. -/
def eregCheck (s : State) (i : Instr) (eng r : Nat) (v : Word) : Option (Nat × Word) :=
  let n := v.toNat
  if v &&& BitVec.ofNat 64 (eregReserved eng r) ≠ 0 then some (cRESBITS, wordVal i)
  else if eng = 5 ∧ r = 2 ∧ 2 ^ 32 < n then some (cRESBITS, wordVal i)
  else if eng = 5 ∧ r = 0 ∧ s.fib.pl ≠ 2 ∧ n ≠ (portOf s (ownPort s)).linkid.toNat then some (cPRIV, wordVal i)
  else if eng = 1 ∧ r = 0 then
    let c := (match gangOfFibre s s.fib with
      | some g => g.cores.length
      | none => 0)
    if c ≤ n % 16 then some (cTILEUNDEF, BitVec.ofNat 64 (n % 16 + 64))
    else if c ≤ n / 16 % 16 then some (cTILEUNDEF, BitVec.ofNat 64 (n / 16 % 16 + 64))
    else none
  else eregOther s eng r

/-- A write's effect; read-only fields ignore it (R9). A queue that is disarmed takes the LIMIT written too (R347). -/
def eregWrite (s : State) (eng r : Nat) (v : Word) : State :=
  let f := s.fib
  let cl := clusterOf f.core
  match eng, r with
  | 1, 0 => setArray s cl { arrayOf s cl with src := v.setWidth 8 }
  | 5, 0 => setPort s (ownPort s) { portOf s (ownPort s) with linkid := v.setWidth 32 }
  | 5, 2 => setPort s (ownPort s) { portOf s (ownPort s) with limit := v.toNat }
  | 6, 0 => s
  | 6, k =>
    let w := walkerOf s cl
    setWalker s cl { w with hist := if v = 0 then tdel w.hist (k - 0x100) else tset w.hist (k - 0x100) (v.setWidth 32) }
  | 7, k =>
    if 16 ≤ k then s
    else if v.getLsbD 63 then setGwq s k ⟨true, f.ident.tenant, v.setWidth 32, 0⟩
    else setGwq s k { gwqOf s k with
      armed := false
      limit := v.setWidth 32 }
  | _, _ => s

/-- EWR (R311). -/
def execEwr (y : Bool) (ga : BitVec 4) (la : Bool) (eng : BitVec 4) (r : BitVec 10) (s : State) : Out :=
  let i := Instr.ewr y ga la eng r
  issue s { plainUse i y [(ga, la)] 0 with ctx := eregCtx eng.toNat r.toNat true } fun t v =>
    match eregCheck t i eng.toNat r.toNat (arg v 0) with
    | some (c, x) => .trap c x
    | none => .done (eregWrite t eng.toNat r.toNat (arg v 0))

end Sys2Proof.Machine
end

