-- ==== Sys2Proof/Machine/Fabric.lean ====
section
/-! DEFINITION. The fabric: packets in flits and frames, routing, the ingress and its checks, retry, and what the failure of a
module of the pod brings about (R196-R209, R429-R435). -/

namespace Sys2Proof.Machine

/-- Bytes padded with zeros to a length. -/
def padTo (n : Nat) (bs : List Byte) : List Byte := (bs ++ List.replicate (n - bs.length) 0).take n

/-- The header at payload offsets 0-31 (R206). -/
def headerBytes (p : Packet) : List Byte :=
  leBytes 8 p.clock.toNat ++ leBytes 4 p.src.toNat ++ leBytes 4 p.dst.toNat ++ leBytes 1 p.kind.toNat ++ leBytes 1 p.ten.toNat
    ++ leBytes 2 p.incarn.toNat ++ leBytes 4 p.reqid.toNat ++ leBytes 4 p.pseq.toNat ++ leBytes 2 p.len.toNat
    ++ leBytes 1 (p.scope.toNat + b1 p.rel * 16 + b1 p.retry * 32 + b1 p.second * 64) ++ leBytes 1 p.status.toNat

/-- A packet's bytes (R206): a migration carries the fibre's state at offsets 32-203 and its identity after it. -/
def packetBytes (p : Packet) : List Byte :=
  headerBytes p ++ (if p.kind = 8 then padTo 172 p.data ++ padTo 24 p.area else padTo 40 p.area ++ p.data)

/-- Bytes cut into payload areas of 228. -/
def payloads (n : Nat) (bs : List Byte) : List (List Byte) :=
  match n with
  | 0 => []
  | k + 1 => if bs.isEmpty then [] else padTo 228 bs :: payloads k (bs.drop 228)

/-- The packet that payload areas hold (R206). -/
def parsePacket (bs : List Byte) : Packet :=
  let n := fun o len => leNat ((bs.drop o).take len)
  let mig := n 16 1 == 8
  { clock := BitVec.ofNat 64 (n 0 8), src := BitVec.ofNat 26 (n 8 4), dst := BitVec.ofNat 26 (n 12 4), kind := BitVec.ofNat 8 (n 16 1),
    ten := BitVec.ofNat 4 (n 17 1), incarn := BitVec.ofNat 16 (n 18 2), reqid := BitVec.ofNat 32 (n 20 4),
    pseq := BitVec.ofNat 32 (n 24 4), len := BitVec.ofNat 16 (n 28 2), scope := BitVec.ofNat 4 (n 30 1), rel := nb (n 30 1) 4,
    retry := nb (n 30 1) 5, second := nb (n 30 1) 6, status := BitVec.ofNat 8 (n 31 1),
    rsv := nf (n 8 4) 26 6 != 0 || nf (n 12 4) 26 6 != 0 || nf (n 17 1) 4 4 != 0 || nb (n 30 1) 7,
    area := if mig then (bs.drop 204).take 24 else (bs.drop 32).take 40,
    data := if mig then (bs.drop 32).take 172 else (bs.drop 72).take (n 28 2), mask := 0, port := 14 }

/-- Whether a reserved field of a packet's kind area is not zero (R206, R208): of an eager send (R442), a migration and a kick notice
(R214). -/
def areaReserved (p : Packet) : Bool :=
  match p.kind.toNat with
  | 6 => areaNat p 16 24 != 0
  | 8 => leNat ((p.data.drop 2).take 2) != 0
  | 10 => areaNat p 36 4 != 0
  | _ => false

/-- A packet's traffic class (R197): requests, responses, messages, control. -/
def classOf (kind : Nat) : Nat :=
  match kind with
  | 3 => 1
  | 5 => 1
  | 11 => 1
  | 4 => 2
  | 6 => 2
  | 7 => 2
  | 8 => 2
  | 10 => 2
  | 12 => 3
  | _ => 0

/-- A module's row and column (R25). -/
def rowOf (m : Nat) : Nat := m / 8
/-- Its column. -/
def colOf (m : Nat) : Nat := m % 8

/-- The port from a module to another of its row or column (R196). -/
def portTo (a b : Nat) : Nat :=
  if rowOf a = rowOf b then (colOf b + 7 - colOf a) % 8 else 7 + (rowOf b + 7 - rowOf a) % 8

/-- The module at the other end of a port (R196). -/
def partnerOf (m f : Nat) : Nat :=
  if f < 7 then rowOf m * 8 + (colOf m + f + 1) % 8 else (rowOf m + f - 6) % 8 * 8 + colOf m

/-- Whether routing may use a port (R197, R244): its link is up, keyed, and router die B carries the column ports (R438). -/
def portUsable (s : State) (f : Nat) : Bool :=
  let p := portOf s f
  p.up && (txKey p).isSome && p.count != 2 ^ 32 && decide (p.role < 2) && !(decide (7 ≤ f) && s.dev.dieBLost)

/-- Whether a packet goes to a module that has lost its router die B from another row: its column hop then comes first, and both hops are on
the channels with d = 1 (R197, R438). -/
def columnFirst (s : State) (p : Packet) : Bool :=
  (rowOf (ownMod s) != rowOf (idMod p.dst) || (decide (7 ≤ p.port) && decide (p.port < 14)))
    && Config.lostDieB (idMod p.dst) s.sched.tick

/-- The next module on a packet's way (R197): the row hop first, but for a module without its router die B. -/
def nextHop (s : State) (m : Nat) (p : Packet) : Nat :=
  let dst := idMod p.dst
  if rowOf m != rowOf dst && columnFirst s p then rowOf dst * 8 + colOf m
  else if colOf m = colOf dst then dst
  else rowOf m * 8 + colOf dst

/-- Whether this module is a packet's detour module in the dimension of its next hop (R197): it came over a link of that dimension, where a
packet without a detour takes one hop. -/
def isDetour (s : State) (p : Packet) : Bool :=
  decide (p.port < 14) && (decide (p.port < 7) == decide (portTo (ownMod s) (nextHop s (ownMod s) p) < 7))

/-- Queue a packet on a port (R197): `d` its channel's, and whether this is its detour module. -/
def queueOn (s : State) (f : Nat) (p : Packet) (d : Nat) (turned : Bool) : State :=
  let q := portOf s f
  setPort s f { q with txq := q.txq ++ [((BitVec.ofNat 3 (2 * classOf p.kind.toNat + d), turned), payloads 17 (packetBytes p))] }

/-- The ports that may carry a detour of a hop over port `f` (R197): the others of its dimension. -/
def detourPorts (s : State) (f : Nat) : List Nat :=
  ((List.range 14).filter fun g => decide (g < 7) == decide (f < 7) && g != f).filter (portUsable s)

/-- A packet as an Ethernet frame to its pod (R209): the pod table's address, the EtherType in force, and the packet's payload areas. -/
def frameOf (s : State) (p : Packet) : Frame :=
  ⟨tget 0 s.dev.podTable (idPod p.dst), s.dev.etype, payloads 17 (packetBytes p)⟩

/-- PACKET_FORWARD (R197, R209): the packet at the head of the routers goes on, or to the back while no way is open. -/
def forward (s : State) : State :=
  match s.net.router with
  | [] => s
  | p :: r =>
    let s := { s with net := { s.net with router := r } }
    if idPod p.dst ≠ s.dev.pod.toNat then
      (if crossesPods p.kind.toNat then { s with net := { s.net with frames := s.net.frames ++ [frameOf s p] } } else countDrop s)
    else if isOwnIdent s p.dst then { s with net := { s.net with ingress := s.net.ingress ++ [p] } }
    else
      let d := isDetour s p
      let f := portTo (ownMod s) (nextHop s (ownMod s) p)
      if portUsable s f then queueOn s f p (b1 (d || columnFirst s p)) d
      else match if d then [] else detourPorts s f with
        | g :: _ => queueOn s g p 0 false
        | [] => { s with net := { s.net with router := r ++ [p] } }

/-- DETOUR_TIMEOUT (R197): a packet queued on a full output, or on one whose link is down, takes a detour, unless it has taken one in this
dimension. -/
def detourTimeout (s : State) (f : Nat) : State :=
  let q := portOf s f
  let k := if q.txMid then 1 else 0
  match q.txq[k]?, detourPorts s f with
  | some e, g :: _ =>
    if e.1.2 then s
    else
    let s := setPort s f { q with txq := dropAt q.txq k }
    let h := portOf s g
    setPort s g { h with txq := h.txq ++ [e] }
  | _, _ => s

/-- A word that an engine or a block waits for from another module comes, or fails with a cause: `p` says which; a completion word of nobody
leaves only a count when it fails (R73, R343, R353, R399). -/
def farCame (s : State) (p : FarWord → Bool) (c : Nat) (v : FarWord → Word) (bad : FarWord → Bool) : State :=
  let hit := fun (w : FarWord) => !w.here && p w
  let fill := fun (w : FarWord) => if hit w then { w with
    here := true
    cause := c
    val := v w
    bad := bad w } else w
  let lost := (s.ms.far.filter fun w => w.owner == .nobody && hit w).length
  let s := { s with
    dev := { s.dev with drops := if c = 0 then s.dev.drops else s.dev.drops + lost }
    ms := { s.ms with far := (s.ms.far.map fill).filter fun w => !(w.owner == .nobody && w.here) } }
  modFibres s (fun f => f.words.any hit) fun f => { f with words := f.words.map fill }

/-- The words of a request fail with a cause. -/
def failFar (s : State) (p : FarWord → Bool) (c : Nat) : State := farCame s p c (fun _ => 0) fun _ => false

/-- A request of this module to another fails (R399, R430, R434): its result holds the failure, or a waiting fibre goes on with
it; a completion word is lost and counted. -/
def failReq (s : State) (id c : Nat) : State :=
  match s.ms.reqs.find? fun r => r.id == id with
  | none => s
  | some r =>
    let s := dropReq s id
    let e : Failure := ⟨BitVec.ofNat 6 c, r.va⟩
    if r.kind = .feStore ∧ r.op = 7 then countDrop s
    else match fibreOf s r.fib with
    | none => s
    | some f =>
      if f.run = .parked (.req id) then completeFailed s r.fib c r.va
      else match r.pend with
        | some n => modFibre s r.fib fun f => fillPend f n none (some e)
        | none => addFailure s r.fib e

/-- A message of this module to another fails (R363, R367, R356). -/
def failOutst (s : State) (o : Outst) (c : Nat) : State :=
  if o.kind = 4 then
    (match o.cpl with
      | some _ => dropOutst (completeWord s o (if c = cTIMEOUT then 5 else causeStatus c)) o.id
      | none => completeTrap (dropOutst s o.id) o.fib c (zext o.dst))
  else dropOutst (completeWord s o c) o.id

/-- A migration that was not accepted (R48): MIGR reports status 2, and an access is performed remotely. -/
def migrationRefused (s : State) (n : Nat) : State :=
  match (allFibres s).find? fun f => f.run == .parked (.offer n true) || f.run == .parked (.offer n false) with
  | none => s
  | some f =>
    if f.run = .parked (.offer n true) then complete s f.id (some 2)
    else modFibre s f.id fun f => { f with run := .eligible, noMig := true }

/-- Everything that stands on a packet without an answer fails with a cause. On a send completion, which carries its sender's number, nothing
here stands. -/
def failPacket (s : State) (c : Nat) (p : Packet) : State :=
  if p.kind = 8 then migrationRefused s p.reqid.toNat
  else if p.kind = 11 then s
  else match s.net.outst.find? fun o => o.id == p.reqid.toNat with
    | some o => failOutst s o c
    | none => failReq (failFar s (fun w => w.req == p.reqid.toNat) c) p.reqid.toNat c

/-- The pairs of this module whose destination satisfies a test lose their unanswered packets, which fail with a cause. -/
def failPairs (s : State) (t : BitVec 26 → Bool) (c : Nat) : State :=
  let mine := s.net.pairs.filter fun e => t (BitVec.ofNat 26 e.1) && isOwnIdent s (BitVec.ofNat 26 (e.1 / 2 ^ 26))
  mine.foldl (fun s e =>
    let pr := pairOf s e.1
    pr.unanswered.foldl (fun s p => failPacket s c p) (setPair s e.1 { pr with
      unanswered := []
      retries := 0 })) s

/-- Every request and message to some destinations fails with a cause (R430, R431). -/
def failTo (s : State) (t : BitVec 26 → Bool) (c : Nat) : State :=
  let s := failPairs s t c
  let s := (s.ms.reqs.filter fun r => isRemote s r.pa && t (podIdent s (paMod r.pa) 0)).foldl (fun s r => failReq s r.id c) s
  let s := failFar s (fun w => t (podIdent s (paMod w.pa) 0)) c
  (s.net.outst.filter fun o => t o.dst).foldl (fun s o => failOutst s o c) s

/-- An answer to a packet of this module: it leaves its pair's unanswered packets, and the next that waited leaves (R434). -/
def pairAnswered (s : State) (p : Packet) : State :=
  let k := pairKey p.dst p.src
  let pr := pairOf s k
  match takeFirst (fun q => q.reqid == p.reqid) pr.unanswered with
  | none => s
  | some (_, rest) =>
    let s := setPair s k { pr with
      unanswered := rest
      retries := 0 }
    match rest[31]? with
    | some q => { s with net := { s.net with router := s.net.router ++ [q] } }
    | none => s

/-- Whether an agent takes a kind of packet (R207, R208). -/
def agentTakes (a k : Nat) : Bool :=
  let core := decide (a < 0x400)
  let home := decide (a < 0x442)
  let recv := decide (0x444 ≤ a) && decide (a ≤ 0x447)
  match k with
  | 0 => home
  | 1 => home
  | 2 => home
  | 9 => home
  | 3 => core || recv || a == 0x448
  | 5 => core || recv || a == 0x448
  | 4 => core
  | 6 => recv
  | 7 => recv
  | 8 => core
  | 10 => core
  | 11 => core
  | _ => a == 0x448

/-- The incarnation expected of a module (R429). -/
def expOf (s : State) (m : Nat) : BitVec 16 := tget 0 s.net.exp m

/-- A packet taken by its agent: into the arrivals. -/
def arrived (s : State) (p : Packet) : State := { s with net := { s.net with arrivals := s.net.arrivals ++ [p] } }

/-- A request accepted in PSEQ order, resent its kept response, or discarded (R435). -/
def acceptRequest (s : State) (p : Packet) : State :=
  let k := pairKey p.src p.dst
  let pr := pairOf s k
  if p.pseq = pr.expect then
    let s := arrived (setPair s k { pr with expect := pr.expect + 1 }) p
    if p.kind = 11 then answer s p 3 0 [] [] else s
  else if (pr.expect - p.pseq).toNat < 2 ^ 31 then
    match pr.kept.find? fun r => r.reqid == p.reqid with
    | some r => { s with net := { s.net with router := s.net.router ++ [r] } }
    | none => countDrop s
  else s

/-- Whether a packet is router die A's own: a heartbeat or a notice, which belongs to no tenant (DESIGN CHOICE, log entry 13). -/
def routerOwn (p : Packet) : Bool := p.kind == 12 && idAgent p.src == 0x448

/-- A packet that has passed its checks is taken (R434, R435). Its incarnation is the one expected of its sender, so a module of that number
has trained its links, and its regions are reachable again (R430; DEDUCED, log entry 65). -/
def enterModule (s : State) (p : Packet) : State :=
  let s := if idPod p.src == s.dev.pod.toNat then { s with net := { s.net with dead := sDel s.net.dead (idMod p.src) } } else s
  let k := p.kind.toNat
  if k = 3 ∨ k = 5 then arrived (pairAnswered s p) p
  else if k = 12 then arrived s p
  else acceptRequest s p

/-- PACKET_INGRESS (R208, R431, R435): the checks of a packet that enters the module. -/
def ingress (s : State) : State :=
  match s.net.ingress with
  | [] => s
  | p :: r =>
    let s := { s with net := { s.net with ingress := r } }
    let m := idMod p.src
    let pod := idPod p.src == s.dev.pod.toNat
    let s := if pod then { s with net := { s.net with heard := tset s.net.heard m s.sched.tick } } else s
    let k := p.kind.toNat
    if !isOwnIdent s p.dst then { s with net := { s.net with router := s.net.router ++ [p] } }
    else if 13 ≤ k ∨ p.rsv = true ∨ areaReserved p = true then countDrop s
    else if (tenantOf s p.ten.toNat).en = false ∧ routerOwn p = false then answer (countDrop s) p 5 4 p.area p.data
    else if agentTakes (idAgent p.dst) k = false then countDrop s
    else if pod && p.incarn != expOf s m then
      let s := countDrop s
      if k = 3 ∨ k = 5 ∨ s.net.notices.any (fun n => n.1 == m && n.2 == expOf s m) = true then s
      else answer { s with net := { s.net with notices := s.net.notices ++ [(m, expOf s m)] } } p 5 6 p.area p.data
    else enterModule s p

/-- E2E_RETRY_TIMEOUT (R434): the pair's unanswered requests are resent with RETRY, or fail with TIMEOUT after four retries; the
module they were for is then dead (R429). -/
def retryTimeout (s : State) (src dst : Nat) : State :=
  let k := pairKey (BitVec.ofNat 26 src) (BitVec.ofNat 26 dst)
  let pr := pairOf s k
  if pr.unanswered.isEmpty then s
  else if pr.retries < 4 then
    let s := setPair s k { pr with retries := pr.retries + 1 }
    { s with net := { s.net with router := s.net.router ++ (pr.unanswered.take 32).map fun p => { p with retry := true } } }
  else
    pr.unanswered.foldl (fun s p => failPacket s cTIMEOUT p) (setPair s k { pr with
      unanswered := []
      retries := 0 })

/-- The words of a run of bytes are poisoned at their home (R422). -/
def poisonRun (s : State) (pa n : Nat) : State :=
  { s with ms := { s.ms with poison := (List.range (ceilDiv n 8)).foldl (fun p k => sAdd p (pa / 8 + k)) s.ms.poison } }

/-- What the death of a module does here (R430). -/
def moduleDies (s : State) (m : Nat) : State :=
  let here := fun (pa : Nat) => (regionOf pa == 1 || regionOf pa == 2 || regionOf pa == 3) && paMod pa == m
  let s : State := { s with
    net := { s.net with
      exp := tset s.net.exp m (expOf s m + 1)
      dead := sAdd s.net.dead m }
    ms := { s.ms with
      copies := s.ms.copies.filter fun c => !here c.addr
      leases := s.ms.leases.filter fun l => !here l.line }
    recvs := s.recvs.map fun e => (e.1, { e.2 with
      unexp := e.2.unexp.filter fun p => !(idPod p.src == s.dev.pod.toNat && idMod p.src == m) }) }
  let lines := s.net.atomics.filter fun a => a.mod == m
  let s := lines.foldl (fun s a => poisonRun s a.line a.n) { s with net := { s.net with atomics := s.net.atomics.filter fun a => a.mod != m } }
  failTo s (fun i => idPod i == s.dev.pod.toNat && idMod i == m) cLOST

/-- A control packet of router die A (R208; log entry 13): its code, then a module and an incarnation. -/
def control (s : State) (m code a b : Nat) : Packet :=
  { mkPacket s 0 (podIdent s m 0x448) 12 0 0 0 false (leBytes 8 code ++ leBytes 8 a ++ leBytes 8 b) [] with
    src := ownIdent s 0x448 }

/-- The modules that this one's links and the pod's numbering give (R21, R25). -/
def podOthers (s : State) : List Nat := (List.range 64).filter fun m => m != ownMod s && Config.populated m

/-- HEARTBEAT (R429): a control packet on every port. -/
def heartbeat (s : State) : State :=
  (List.range 14).foldl (fun s f =>
    if portUsable s f then queueOn s f (control s (partnerOf (ownMod s) f) 4 0 0) 0 false else s) s

/-- A module declared dead (R429): a death notice to every module of the pod, and its steps here. -/
def declareDead (s : State) (m : Nat) : State :=
  if sHas s.net.dead m ∨ m = ownMod s then s
  else
    let e := expOf s m
    let s := { s with net := { s.net with
      router := s.net.router ++ (podOthers s).map fun x => control s x 5 m e.toNat } }
    moduleDies s m

/-- DEATH_NOTICE_RECEIVE (R430): a notice with the incarnation expected of a module; any other is discarded. -/
def deathNotice (s : State) (m : Nat) (inc : BitVec 16) : State :=
  if inc = expOf s m then moduleDies s m else s

/-- EVICTED_RETURN_RECEIVE (R431): every outstanding request to the pod fails, and later ones will. -/
def evictedReturn (s : State) : State :=
  let s := { s with net := { s.net with
    evicted := true
    arrivals := s.net.arrivals.filter fun p => !(p.kind == 5 && p.status == 6) } }
  failTo s (fun i => idPod i == s.dev.pod.toNat && !isOwnIdent s i) cEVICTED

/-- Event PACKET_FORWARD (R197). -/
def execPacketForward (s : State) : Out := .next (forward s)
/-- Event DETOUR_TIMEOUT (R197). -/
def execDetourTimeout (port : Nat) (s : State) : Out := .next (detourTimeout s port)
/-- Event PACKET_INGRESS (R208). -/
def execPacketIngress (s : State) : Out := .next (ingress s)
/-- Event ETHERNET_FRAME_RECEIVE (R209): a frame of this system's EtherType. -/
def execEthernetFrameReceive (etype : BitVec 16) (p : Packet) (s : State) : Out :=
  .next (if etype = s.dev.etype then { s with net := { s.net with ingress := s.net.ingress ++ [{ p with port := 14 }] } } else s)
/-- Event HEARTBEAT (R429). -/
def execHeartbeat (s : State) : Out := .next (heartbeat s)
/-- Event MODULE_SILENCE_TIMEOUT (R429): no packet of the module has come for 2^24 cycles, 2^20 ticks. -/
def execModuleSilenceTimeout (m : BitVec 6) (s : State) : Out :=
  .next (if tget 0 s.net.heard m.toNat + 2 ^ 20 ≤ s.sched.tick then declareDead s m.toNat else s)
/-- Event DEATH_NOTICE_RECEIVE (R430). -/
def execDeathNoticeReceive (m : BitVec 6) (inc : BitVec 16) (s : State) : Out := .next (deathNotice s m.toNat inc)
/-- Event EVICTED_RETURN_RECEIVE (R431). -/
def execEvictedReturnReceive (s : State) : Out := .next (evictedReturn s)
end Sys2Proof.Machine
end

