-- ==== Sys2Proof/Machine/Links.lean ====
section
/-! DEFINITION. The Vilvik links: sending and receiving flits, acknowledgement and replay, training and its loss, and the counters
whose passing steps a link down or retires it (R198-R204, R244, R423, R436, R437). -/

namespace Sys2Proof.Machine

/-- The number of a unit for its fault counter (R423). -/
def faultKey (u : FaultUnit) : Nat :=
  match u with
  | .core n => n
  | .array cl => 1024 + cl
  | .slice d k => 1088 + d * 16 + k
  | .cxl p => 1152 + p
  | .lanes f => 1164 + f
  | .link f => 1178 + f
  | .granule g => 2048 + g

/-- A unit's threshold and window in 16-cycle ticks (R423). -/
def faultLimit (u : FaultUnit) : Nat × Nat :=
  match u with
  | .core _ => (32, 2 ^ 28)
  | .array _ => (16, 2 ^ 28)
  | .slice _ _ => (64, 2 ^ 28)
  | .granule _ => (16, 2 ^ 28)
  | .cxl _ => (64, 2 ^ 28)
  | .lanes _ => (256, 2 ^ 20)
  | .link _ => (16, 2 ^ 20)

/-- One counted event of `n` (R423): the state, and whether the threshold is passed. An uncorrectable error counts as 8. -/
def countFault (s : State) (u : FaultUnit) (n : Nat) : State × Bool :=
  let k := faultKey u
  let now := s.sched.tick
  let old := tget (0, 0) s.dev.counters k
  let c := if now - old.2 > (faultLimit u).2 then (n, now) else (old.1 + n, old.2)
  ({ s with dev := { s.dev with counters := tset s.dev.counters k c } }, decide ((faultLimit u).1 < c.1))

/-- A link is retired (R436), and stays down until the device monitor brings up its port; its ingress port's atomic cache has been written
back (R213). -/
def retireLink (s : State) (f : Nat) : State :=
  setPort { s with net := { s.net with atomics := s.net.atomics.filter fun a => a.port != f } } f { portDown (portOf s f) with held := true }

/-- A link steps down one width, and below ×2 it is retired; its count restarts (R436). -/
def stepWidth (s : State) (f : Nat) : State :=
  let s := { s with dev := { s.dev with counters := tset s.dev.counters (faultKey (.lanes f)) (0, s.sched.tick) } }
  let p := portOf s f
  if 2 ≤ p.width.toNat then retireLink s f else setPort s f { p with width := p.width + 1 }

/-- `n` counted events of a link's lanes (R423, R436): the width steps down when the count passes. -/
def laneEvents (s : State) (f n : Nat) : State :=
  let x := countFault s (.lanes f) n
  if x.2 then stepWidth x.1 f else x.1

/-- A flit that failed its CRC (R423, R436). -/
def crcFailed (s : State) (f : Nat) : State := laneEvents s f 1

/-- A flit that failed authentication (R203, R423, R436). -/
def authFailed (s : State) (f : Nat) : State :=
  let x := countFault s (.link f) 1
  if x.2 then retireLink x.1 f else x.1

/-- The first bad flit is answered with one NAK (R203). -/
def wantNak (p : Port) : Port := if p.nakSent then p else { p with
  nakSent := true
  nakDue := true }

/-- A receiver's NAK after a failure that may have retired the link. -/
def nakPort (s : State) (f : Nat) : State :=
  let p := portOf s f
  if p.up then setPort s f (wantNak p) else s

/-- The flits after the one with a sequence number, or all when it is not among them. -/
def afterSeq (fs : List Flit) (a : BitVec 16) : List Flit :=
  match fs with
  | [] => []
  | x :: t => if x.seq = a then t else afterSeq t a

/-- An acknowledgement (R202, R203): flits up to it leave the replay buffer; the KEYTURN flit's ends the turn and erases the old
slot. -/
def acknowledged (p : Port) (a : BitVec 16) : Port :=
  if p.replay.any fun x => x.seq == a then
    let rest := afterSeq p.replay a
    let p := { p with replay := rest }
    if p.turning && !rest.any fun x => x.seq == p.turnSeq then setTxIdle { p with turning := false } none else p
  else p

/-- The unit number of a port's ingress, for its clock (R167). -/
def portUnit (f : Nat) : Nat := 1092 + f

/-- A packet delivered over a link (R208): it raises the clock of its ingress port (R167), and a named scope has the members that the mask
here gives it (log entry 13). -/
def deliver (s : State) (f : Nat) (parts : List (List Byte)) : State :=
  let p := parsePacket parts.flatten
  raiseClock { s with net := { s.net with ingress := s.net.ingress ++ [{ p with
    port := f
    mask := maskOf s p.ten p.scope }] } } (portUnit f) p.clock.toNat

/-- A flit of an encrypted type accepted in order, with its payload (R199, R202, R203). -/
def acceptFlit (s : State) (f : Nat) (x : Flit) (payload : List Byte) : State :=
  let p := acknowledged (portOf s f) x.ack
  let p := { p with
    expect := p.expect + 1
    ack := x.seq
    nakSent := false
    nakDue := false
    rxCount := p.rxCount + 1 }
  match x.typ with
  | 1 =>
    if x.eop then deliver (setPort s f { p with part := [] }) f [payload]
    else setPort s f { p with
      part := [payload]
      partVc := x.vc }
  | 2 =>
    if p.part.isEmpty then setPort s f p
    else if x.eop then deliver (setPort s f { p with part := [] }) f (p.part ++ [payload])
    else setPort s f { p with part := p.part ++ [payload] }
  | 3 => setPort s f { p with part := [] }
  | _ =>
    let q := if p.rxs then { p with rxKey1 := none } else { p with rxKey0 := none }
    setPort s f { q with
      rxs := !p.rxs
      rxCount := 0 }

/-- A clear KEYTURN flit (R244): payload and tag zero, and KS naming the port's empty slot. -/
def clearTurn (p : Port) (x : Flit) : Bool := x.typ == 4 && x.payload == zeroPayload && x.tag == 0 && x.ks == p.rxs

/-- A flit arrives (R203): its CRC, its order, then its authentication. `typ` is the event's type; a reserved type or header field
counts as a failed CRC. -/
def receiveFlit (s : State) (f : Nat) (typ : BitVec 4) (x : Flit) : State :=
  let p := portOf s f
  if !p.up then s
  else if x.typ ≠ typ ∧ x.typ.toNat < 6 then s
  else if 6 ≤ x.typ.toNat ∨ x.rsv = true ∨ flitCrc x ≠ x.crc then nakPort (crcFailed s f) f
  else if typ = 0 then setPort s f (acknowledged p x.ack)
  else if typ = 5 then
    let q := acknowledged p x.ack
    setPort s f { q with resend := q.replay }
  else if x.seq ≠ p.expect then setPort s f (wantNak p)
  else match rxKey p with
    | none => if clearTurn p x then acceptFlit s f x x.payload else nakPort (authFailed s f) f
    | some _ =>
      match if x.ks then p.rxKey1 else p.rxKey0 with
      | none => nakPort (authFailed s f) f
      | some k =>
        match openFlit k (Config.partnerLinkid f) p.rxCount x with
        | none => nakPort (authFailed s f) f
        | some payload => acceptFlit s f x payload

/-- An unencrypted flit: TYPE, ACK and the next unsent number, with bytes 8-247 zero (R199). -/
def clearFlit (p : Port) (typ : BitVec 4) : Flit :=
  let f : Flit := ⟨0, 0, false, false, 0, typ, false, p.ack, p.seq, false, zeroPayload, 0, 0⟩
  { f with crc := flitCrc f }

/-- A flit goes on the link. -/
def putWire (p : Port) (f : Flit) : Port := { p with wire := some f }

/-- FLIT_TRANSMIT (R199, R201, R203, R244): a replayed flit as it was, a NAK, the next flit of a packet, or an IDLE. A packet
whose header was found bad after its first flit ends with a STOMP (R433). -/
def transmit (s : State) (f : Nat) : State :=
  let p := portOf s f
  if !p.up then s
  else match p.resend with
    | x :: r => setPort s f (putWire { p with resend := r } x)
    | [] =>
      if p.nakDue then setPort s f (putWire { p with nakDue := false } (clearFlit p 5))
      else if (txKey p).isNone ∨ p.count = 2 ^ 32 ∨ 64 ≤ p.replay.length then setPort s f (putWire p (clearFlit p 0))
      else match p.txq with
        | [] => setPort s f (putWire p (clearFlit p 0))
        | (vc, parts) :: rest =>
          match parts with
          | [] =>
            let q := { p with
              txq := rest
              txMid := false }
            setPort s f (if p.txMid then sendFlit q (newFlit p 3 vc.1 false true zeroPayload) else q)
          | b :: more =>
            let x := newFlit p (if p.txMid then 2 else 1) vc.1 (!p.txMid) more.isEmpty b
            setPort s f { sendFlit p x with
              txq := if more.isEmpty then rest else (vc, more) :: rest
              txMid := !more.isEmpty }

/-- REPLAY_TIMEOUT (R203): the sender replays from the oldest flit. -/
def replayAll (s : State) (f : Nat) : State :=
  let p := portOf s f
  if p.up then setPort s f { p with resend := p.replay } else s

/-- LINK_TRAINED (R196, R242, R244, R429, R430): a partner whose numbers do not match R196 keeps the link down and is counted. A
retired link trains only once its port has been brought up (R436). What the module expects of itself is its own NUM (DEDUCED, log
entry 65). -/
def linkTrained (s : State) (f : Nat) (width : BitVec 2) (m : BitVec 6) (pod : BitVec 8) (inc : BitVec 16) : State :=
  let p := portOf s f
  if 14 ≤ f ∨ 1 ≤ p.role ∨ p.held = true ∨ width = 3 ∨ (7 ≤ f ∧ s.dev.dieBLost = true) then s
  else if pod ≠ s.dev.pod ∨ m.toNat ≠ partnerOf (ownMod s) f then countDrop s
  else
    let s := { s with net := { s.net with
      inc := if s.net.inc.toNat < inc.toNat then inc else s.net.inc
      exp := if s.net.inc.toNat < inc.toNat then tset s.net.exp (ownMod s) inc else s.net.exp
      dead := sDel s.net.dead m.toNat
      heard := tset s.net.heard m.toNat s.sched.tick } }
    setPort s f { portDown p with
      width := width
      up := true
      seq := 0
      ack := 0xFFFF
      expect := 0 }

/-- Event FLIT_TRANSMIT (R201). -/
def execFlitTransmit (port : Nat) (s : State) : Out := .next (transmit s port)
/-- Event FLIT_RECEIVE_IDLE (R199). -/
def execFlitReceiveIdle (port : Nat) (f : Flit) (s : State) : Out := .next (receiveFlit s port 0 f)
/-- Event FLIT_RECEIVE_HEAD (R203). -/
def execFlitReceiveHead (port : Nat) (f : Flit) (s : State) : Out := .next (receiveFlit s port 1 f)
/-- Event FLIT_RECEIVE_BODY (R203). -/
def execFlitReceiveBody (port : Nat) (f : Flit) (s : State) : Out := .next (receiveFlit s port 2 f)
/-- Event FLIT_RECEIVE_STOMP (R433). -/
def execFlitReceiveStomp (port : Nat) (f : Flit) (s : State) : Out := .next (receiveFlit s port 3 f)
/-- Event FLIT_RECEIVE_KEYTURN (R202). -/
def execFlitReceiveKeyturn (port : Nat) (f : Flit) (s : State) : Out := .next (receiveFlit s port 4 f)
/-- Event FLIT_RECEIVE_NAK (R203). -/
def execFlitReceiveNak (port : Nat) (f : Flit) (s : State) : Out := .next (receiveFlit s port 5 f)
/-- Event REPLAY_TIMEOUT (R203). -/
def execReplayTimeout (port : Nat) (s : State) : Out := .next (replayAll s port)
/-- Event LINK_TRAINED (R244). -/
def execLinkTrained (port : Nat) (width : BitVec 2) (m : BitVec 6) (pod : BitVec 8) (inc : BitVec 16) (s : State) : Out :=
  .next (linkTrained s port width m pod inc)
/-- Event LOSS_OF_LINK_TRAINING (R436). -/
def execLossOfLinkTraining (port : Nat) (s : State) : Out := .next (if port < 14 then retireLink s port else s)

end Sys2Proof.Machine
end

