-- ==== Sys2Proof/Machine/Failures.lean ====
section
/-! DEFINITION. Faults of units: counters and retirement, the loss of a router die, throttling, and reset (R233, R245, R423-R427,
R438). -/

namespace Sys2Proof.Machine

/-- Waiting WAITAs whose watch entries satisfy a test are woken with status 3 (R299). -/
def wakeLost (s : State) (p : Watch → Bool) : State := (s.watches.filter p).foldl (fun s w => wakeWatch s w 3) s

/-- A core leaves placement (R425): the WAITAs armed at its scratchpad lose their watch entries (R299), and a gateway core takes its port with
it. -/
def dropCore (s : State) (n : Nat) : State :=
  let s := setCore s n { coreOf s n with retired := true }
  let s := wakeLost s fun w => regionOf w.pa == 3 && isOwnMem s w.pa && spadCore w.pa == n
  match portOfCore n with
  | some f =>
    let s := { s with dev := { s.dev with porten := s.dev.porten &&& ~~~(BitVec.ofNat 14 (2 ^ f)) } }
    setPort s f { portDown (portOf s f) with role := 3 }
  | none => s

/-- The homes of the fibres and numbered tasks of other modules on a core are asked to image their gangs (R51, R424; log entry 13). -/
def tellHomes (s : State) (n : Nat) : State :=
  let blank := fun (t : Task) => { Fibre.blank with
    core := n
    ident := { Ident.none with tenant := t.ten } }
  let fs := (onCore s n).filterMap (fun f => f.ident.guest.map fun g => (f, g))
    ++ (coreOf s n).taskq.filterMap fun t => t.guest.map fun g => (blank t, g)
  fs.foldl (fun s x => if x.2.2 = 0 then s else tellModule s x.1 x.2.1 x.2.2 19 0 []) s

/-- A retired core (R424, R425): its gangs become victims, those with task entries queued there among them; one that has been ended is not
imaged (R428). -/
def retireCore (s : State) (n : Nat) : State :=
  startImaging (tellHomes (dropCore s n) n) ((s.dist.gangs.filter fun g => !g.ended
    && (g.cores.contains n || ((coreOf s n).taskq ++ (coreOf s n).late).any (fun t => t.gang == g.id && t.guest.isNone)
      || (allFibres s).any fun f => f.ident.gang == some g.id && f.core == n && isResident f)).map (·.id))

/-- A retired slice (R426): its dirty lines are written back, its watch entries are lost, and its lines move to the next slice. A
die with none left fails the module. -/
def retireSlice (s : State) (d k : Nat) : State :=
  let u := 1024 + d * 16 + k
  let s := pushL2 s d fun a => dieHome s d a == u
  let s := wakeLost s fun w => homeUnit s w.pa == u
  let s := { s with dev := { s.dev with retiredSlices := sAdd s.dev.retiredSlices (d * 16 + k) } }
  if (List.range 16).all fun j => sHas s.dev.retiredSlices (d * 16 + j) then { s with dev := { s.dev with failed := true } } else s

/-- Whether a unit has been retired: its events are then not counted (R423). -/
def isRetired (s : State) (u : FaultUnit) : Bool :=
  match u with
  | .core n => (coreOf s n).retired
  | .array cl => (arrayOf s cl).retired
  | .slice d k => sHas s.dev.retiredSlices (d * 16 + k)
  | .granule g => sHas s.dev.retiredGranules g
  | .cxl p => sHas s.dev.retiredCxl p
  | .lanes f => !(portOf s f).up
  | .link f => !(portOf s f).up

/-- A unit's retirement (R423-R427, R436). -/
def retire (s : State) (u : FaultUnit) : State :=
  match u with
  | .core n => retireCore s n
  | .array cl => setArray s cl { arrayOf s cl with retired := true }
  | .slice d k => retireSlice s d k
  | .granule g => { s with dev := { s.dev with retiredGranules := sAdd s.dev.retiredGranules g } }
  | .cxl p => { s with dev := { s.dev with retiredCxl := sAdd s.dev.retiredCxl p } }
  | .lanes f => stepWidth s f
  | .link f => retireLink s f

/-- The cache whose entry a unit's error is in, as a copy's holder has it: a core's, or a die's slices'. -/
def cacheOfUnit (u : FaultUnit) : Nat :=
  match u with
  | .core n => n
  | .slice d _ => 1024 + d
  | _ => 2048

/-- Whether the entry of a cache covers a sector: the cache holds a copy of it; a core's entry, one that the core owns; a directory's or an
atomic cache's, one that any agent owns or that is in an atomic cache (R134, R213). -/
def coversSector (s : State) (h x : Nat) : Bool :=
  s.ms.copies.any (fun c => c.holder == h && c.addr / 32 * 32 == x)
    || s.ms.owners.any (fun o => (o.core == h || decide (1024 ≤ h)) && meets x 32 o.line o.n)
    || (decide (1024 ≤ h) && s.net.atomics.any fun a => meets x 32 a.line a.n)

/-- An error in the tag or the directory entry of the frame of 512 bytes at an address (R421, R133): every line that the entry covers is
poisoned at its home, and its state there becomes "no copies". The entry covers the sector of the address; of the others in its frame, the
lines that are only loaded under directory coherence leave no trace here, so each is free (DESIGN CHOICE, log entry 65). -/
def entryLost (s : State) (h a : Nat) : State :=
  let xs := ((List.range 16).map fun k => (k, a / 512 * 512 + 32 * k)).filterMap fun x =>
    if x.2 = a / 32 * 32 ∨ coversSector s h x.2 = true ∨ Config.stillCached (s.sched.free + x.1) = true then some x.2 else none
  let s := xs.foldl (fun s x => poisonRun s x 32) s
  { s with
    sched := { s.sched with free := s.sched.free + 16 }
    ms := { s.ms with
    copies := s.ms.copies.filter fun c => !(c.holder == h && xs.contains (c.addr / 32 * 32))
    owners := s.ms.owners.filter fun o => !xs.any fun x => meets x 32 o.line o.n
    attrs := s.ms.attrs.filter fun p => !xs.contains (32 * p.1) } }

/-- The packet that a port is sending has a bad header, found after its first flit: the rest of it is one STOMP flit (R433). -/
def stompPort (p : Port) : Port :=
  if p.txMid then
    match p.txq with
    | (vc, _) :: r => { p with txq := (vc, []) :: r }
    | [] => p
  else p

/-- FAULT_COUNT_EVENT (R421-R423): `bad` is none for a corrected error, the address of the word that an uncorrectable one leaves
poisoned, 2^56 or more for one in a register, TLB or tile table entry, which is a lasting fault of its core at once, and 2^57 plus
an address for one in the tag or directory entry that covers it. An uncorrectable error at a link is one in the header of the packet
that it sends (R433). -/
def faultEvent (s : State) (u : FaultUnit) (bad : Option Nat) : State :=
  if isRetired s u then s
  else
    let s := match u, bad with
      | .link _, _ => s
      | _, some a => if a < 2 ^ 56 then { s with ms := { s.ms with poison := sAdd s.ms.poison (a / 8) } }
        else if 2 ^ 57 ≤ a then entryLost s (cacheOfUnit u) (a - 2 ^ 57) else s
      | _, none => s
    match u, bad with
    | .lanes f, b => laneEvents s f (if b.isSome then 8 else 1)
    | .link f, none => authFailed s f
    | .link f, some _ => setPort s f (stompPort (portOf s f))
    | .core n, some a =>
      if 2 ^ 56 ≤ a ∧ a < 2 ^ 57 then retireCore s n
      else
        let x := countFault s (.core n) 8
        if x.2 then retire x.1 (.core n) else x.1
    | _, _ =>
      let x := countFault s u (if bad.isSome then 8 else 1)
      if x.2 then retire x.1 u else x.1

/-- Unexpected messages lost with router die B: each sender's completion reports LOST (R438). -/
def lostUnexpected (s : State) (die : Nat) : State :=
  let e := recvOf s die
  let s := setRecv s die { e with unexp := [] }
  e.unexp.foldl (fun s p =>
    if isOwnIdent s p.src then
      match s.net.outst.find? fun o => o.id == p.reqid.toNat with
      | some o => dropOutst (completeWord s o cLOST) o.id
      | none => s
    else sendPacket s { mkPacket s 0 p.src 11 p.ten p.reqid.toNat 0 false (leBytes 4 0 ++ leBytes 1 cLOST) [] with
      src := ownIdent s (0x444 + die) }) s

/-- ROUTER_DIE_B_LOSS (R438). -/
def loseDieB (s : State) : State :=
  if s.dev.dieBLost then s
  else
    let s := { s with
      dev := { s.dev with dieBLost := true }
      allocs := s.allocs.map fun a => if a.die == 1 && !a.mir then { a with lost := true } else a }
    let s := wakeLost s fun w => regionOf w.pa == 2 && nf w.pa 29 1 == 1
    let s := [7, 8, 9, 10, 11, 12, 13].foldl retireLink s
    lostUnexpected (lostUnexpected s 2) 3

/-- Whether an address lies in pooled memory of this module, which a reset leaves (R22, R440). -/
def isPooled (a : Nat) : Bool := decide (a < 2 ^ 46)

/-- MODULE_RESET (R233): every unit in its reset state; pooled memory is on its own devices and keeps its contents and marks. Retired units and a
lost router die B are in service again (DESIGN CHOICE, log entry 67: R233 and R423 do not say). -/
def resetModule (s : State) : State :=
  { State.reset with
    ms := { MemSys.reset with
      mem := s.ms.mem.filter fun c => isPooled c.1
      poison := s.ms.poison.filter fun w => isPooled (8 * w) }
    dev := { Dev.reset with trainedCxl := s.dev.trainedCxl }
    sched := { Sched.reset with
      agenda := s.sched.agenda
      free := s.sched.free
      nextId := s.sched.nextId } }

/-- A gang is ended by the death of an agent (R428): its walk and its task entries go, and its fibres receive a pending failure EVICTED, on whatever module they are. -/
def endGang (s : State) (g : Nat) : State :=
  let s := modGang s g fun x => { x with ended := true }
  let s : State := { s with
    walkers := s.walkers.filter fun w => w.2.gang != some g
    cores := s.cores.map fun c => (c.1, refill { c.2 with
      taskq := c.2.taskq.filter fun t => t.gang != g || t.guest.isSome
      late := c.2.late.filter fun t => t.gang != g }) }
  let s := (gangFibres s g).foldl (fun s f => match f.run with
    | .away m => tellModule s f m f.id 18 (BitVec.ofNat 64 cEVICTED) []
    | _ => addFailure s f.id ⟨BitVec.ofNat 6 cEVICTED, 0⟩) s
  settleGang s g

/-- A fibre on a dead core is gone, with what it had issued (R428); the home of one from another module hears of it. -/
def loseFibre (s : State) (f : Fibre) : State :=
  let s := match f.ident.guest with
    | some (m, n) => tellHome s f m n 11 0
    | none => s
  let s := giveBack s f
  let s : State := { s with
    ms := { s.ms with reqs := s.ms.reqs.filter fun r => r.fib != f.id }
    watches := s.watches.filter fun w => w.fib != f.id || w.rem.isSome }
  let s := modFibre s f.id fun f => { f with run := .exited, pend := [] }
  { s with fibres := s.fibres.filter fun x => decide (x.run ≠ .exited) }

/-- A core declared dead (R428): it is retired without imaging, the lines that it owned are poisoned, its copies and leases are gone, and
its gangs are ended. A line that it stored to may have been written back before; a queued task entry counts as a fibre (DESIGN CHOICE,
log entry 48). -/
def coreDies (s : State) (n : Nat) : State :=
  let here := (allFibres s).filter fun f => f.core == n && isResident f
  let gs := ((here.filterMap (·.ident.gang)) ++ (((coreOf s n).taskq ++ (coreOf s n).late).filter fun t => t.guest.isNone).map (·.gang)).eraseDups
  let s := (s.ms.owners.filter fun o => o.core == n).foldl (fun s o =>
    let s := if Config.stillOwned s.sched.free then poisonRun s o.line o.n else s
    { s with sched := { s.sched with free := s.sched.free + 1 } }) s
  let s : State := { s with ms := { s.ms with
    owners := s.ms.owners.filter fun o => o.core != n
    copies := s.ms.copies.filter fun c => c.holder != n
    leases := s.ms.leases.filter fun l => l.core != n } }
  let s := here.foldl loseFibre s
  let s := setCore s n { coreOf s n with taskq := [], late := [] }
  dropCore (gs.foldl endGang s) n

/-- A slice declared dead (R428): its dirty lines cannot be read, so they are poisoned at their module home, and it is retired. -/
def sliceDies (s : State) (d k : Nat) : State :=
  let u := 1024 + d * 16 + k
  let mine := fun (c : CopyByte) => c.holder == 1024 + d && dieHome s d c.addr == u
  let s := (s.ms.copies.filter fun c => mine c && c.dirty).foldl (fun s c => poisonRun s c.addr 1)
    { s with ms := { s.ms with copies := s.ms.copies.filter fun c => !mine c } }
  retireSlice s d k

/-- A home declares an agent of its module dead (R428). Responses that still come from it are discarded and counted. -/
def declareAgent (s : State) (a : Nat) : State :=
  let late := fun (p : Packet) => isReply p && isOwnIdent s p.src && idAgent p.src == a
  let n := (s.net.arrivals.filter late).length
  let s : State := { s with
    dev := { s.dev with
      deadAgents := sAdd s.dev.deadAgents a
      drops := s.dev.drops + n }
    net := { s.net with arrivals := s.net.arrivals.filter fun p => !late p } }
  if a < 0x400 then coreDies s a
  else if a < 0x440 then sliceDies s ((a - 0x400) / 16) ((a - 0x400) % 16)
  else s

/-- A directory request of a home to an agent of this module that has had no response is retried; after four retries the agent is declared
dead (R428, R434). A timeout that does not fall when the last request's next one would is another request's: that one has had its response
(DESIGN CHOICE, log entry 48). -/
def retryOwn (s : State) (src dst : BitVec 26) : State :=
  let k := pairKey src dst
  let pr := pairOf s k
  let a := idAgent dst
  if idAgent src < 0x400 ∨ 0x442 ≤ idAgent src ∨ s.dev.deadAgents.contains a = true ∨ (0x440 ≤ a ∧ (a < 0x444 ∨ 0x448 ≤ a)) then s
  else
    let same := decide (0 < pr.retries) && s.sched.tick == pr.timed + 1024 * 2 ^ pr.retries
    let n := if same then pr.retries else 0
    if n < 4 then setPair s k { pr with
      retries := n + 1
      timed := s.sched.tick }
    else declareAgent (setPair s k { pr with retries := 0 }) a

/-- E2E_RETRY_TIMEOUT of a pair (R434): within the module, of a directory request; to another, exhaustion also declares the module dead
(R429). -/
def retryPair (s : State) (src dst : BitVec 26) : State :=
  if isOwnIdent s src && isOwnIdent s dst then retryOwn s src dst
  else
    let pr := pairOf s (pairKey src dst)
    let out := !pr.unanswered.isEmpty && decide (4 ≤ pr.retries)
    let s := retryTimeout s src.toNat dst.toNat
    if out && idPod dst == s.dev.pod.toNat then declareDead s (idMod dst) else s

/-- Event E2E_RETRY_TIMEOUT (R434). -/
def execE2eRetryTimeout (src dst : Nat) (s : State) : Out := .next (retryPair s (BitVec.ofNat 26 src) (BitVec.ofNat 26 dst))
/-- Event FAULT_COUNT_EVENT (R423). -/
def execFaultCountEvent (u : FaultUnit) (bad : Option Nat) (s : State) : Out := .next (faultEvent s u bad)
/-- Event ROUTER_DIE_B_LOSS (R438). -/
def execRouterDieBLoss (s : State) : Out := .next (loseDieB s)
/-- Event ROUTER_DIE_A_LOSS (R438): a module failure. -/
def execRouterDieALoss (s : State) : Out := .next { s with dev := { s.dev with failed := true } }
/-- Event MODULE_RESET (R233). -/
def execModuleReset (s : State) : Out := .next (resetModule s)
/-- Event THROTTLE (R245): results do not change. -/
def execThrottle (s : State) : Out := .next { s with dev := { s.dev with throttled := true } }
/-- Event BACK_WITHIN_LIMITS (R245). -/
def execBackWithinLimits (s : State) : Out := .next { s with dev := { s.dev with throttled := false } }
/-- Event THERMAL_SHUTDOWN (R245): the module enters reset. -/
def execThermalShutdown (s : State) : Out := .next (resetModule s)

end Sys2Proof.Machine
end

