-- ==== Sys2Proof/Machine/Float.lean ====
section
/-! DEFINITION. The scalar float group: major 0x20 (R281, R282), in FP64, or FP32 with .f32. -/

namespace Sys2Proof.Machine

/-- The format of a scalar float instruction (R281). -/
def scalarFmt (p : Bool) : FloatFmt := if p then fp32 else fp64

/-- An operand: FP32 ignores bits [63:32] (R281). -/
def floatArg (p : Bool) (a : Word) : Ex := decFloat (scalarFmt p) (if p then a.toNat % 2 ^ 32 else a.toNat)

/-- A result rounded once, with FZ and SAT 0 (R281), and its flags with those the operation set. -/
def floatRes (p : Bool) (r : Ex × BitVec 5) : Word × BitVec 5 :=
  let x := roundFloat (scalarFmt p) false r.1
  (BitVec.ofNat 64 x.1, r.2 ||| x.2)

/-- A value's code where no rounding is needed, with no flag. -/
def floatCode (p : Bool) (x : Ex) : Word × BitVec 5 := (BitVec.ofNat 64 (roundFloat (scalarFmt p) false x).1, 0)

/-- A long float result with its flags (R107, R108). -/
def setFloat (t : State) (d : Reg) (r : Word × BitVec 5) : State := setLong t d r.1 r.2

/-- A two-operand float instruction. -/
def floatRR (i : Instr) (y : Bool) (gd ga : Reg) (la : Bool) (gb : Reg) (lb p : Bool)
    (g : Ex → Ex → Word × BitVec 5) (s : State) : Out :=
  issue s (plainUse i y [(ga, la), (gb, lb)] gd) fun t v =>
    .done (setFloat t gd (g (floatArg p (arg v 0)) (floatArg p (arg v 1))))

/-- A conversion to INT64 (R282, R105). -/
def floatToInt64 (x : Ex) : Word × BitVec 5 :=
  let r := floatToInt 64 true x
  (BitVec.ofNat 64 r.1, r.2)

/-- FADD (R281, R282). -/
def execFadd (y : Bool) (gd ga : BitVec 4) (la : Bool) (gb : BitVec 4) (lb : Bool) (p : Bool) (s : State) : Out :=
  floatRR (.fadd y gd ga la gb lb p) y gd ga la gb lb p (fun a b => floatRes p (exAdd a b)) s

/-- FSUB (R281, R282). -/
def execFsub (y : Bool) (gd ga : BitVec 4) (la : Bool) (gb : BitVec 4) (lb : Bool) (p : Bool) (s : State) : Out :=
  floatRR (.fsub y gd ga la gb lb p) y gd ga la gb lb p (fun a b => floatRes p (exAdd a (exNeg b))) s

/-- FMUL (R281, R282). -/
def execFmul (y : Bool) (gd ga : BitVec 4) (la : Bool) (gb : BitVec 4) (lb : Bool) (p : Bool) (s : State) : Out :=
  floatRR (.fmul y gd ga la gb lb p) y gd ga la gb lb p (fun a b => floatRes p (exMul a b)) s

/-- FDIV (R281, R282). -/
def execFdiv (y : Bool) (gd ga : BitVec 4) (la : Bool) (gb : BitVec 4) (lb : Bool) (p : Bool) (s : State) : Out :=
  floatRR (.fdiv y gd ga la gb lb p) y gd ga la gb lb p (fun a b => floatRes p (exDiv a b)) s

/-- FSQRT (R282). -/
def execFsqrt (y : Bool) (gd ga : BitVec 4) (la : Bool) (p : Bool) (s : State) : Out :=
  issue s (plainUse (.fsqrt y gd ga la p) y [(ga, la)] gd) fun t v =>
    .done (setFloat t gd (floatRes p (exSqrt (floatArg p (arg v 0)))))

/-- FMA (R282): old G[d] + a × b, rounded once. -/
def execFma (y : Bool) (gd ga : BitVec 4) (la : Bool) (gb : BitVec 4) (lb : Bool) (p : Bool) (s : State) : Out :=
  issue s (plainUse (.fma y gd ga la gb lb p) y [(ga, la), (gb, lb), (gd, false)] gd) fun t v =>
    let m := exMul (floatArg p (arg v 0)) (floatArg p (arg v 1))
    let r := exAdd (floatArg p (arg v 2)) m.1
    .done (setFloat t gd (floatRes p (r.1, if floatArg p (arg v 2) = .nan then 0 else m.2 ||| r.2)))

/-- FMIN (R281, R282). -/
def execFmin (y : Bool) (gd ga : BitVec 4) (la : Bool) (gb : BitVec 4) (lb : Bool) (p : Bool) (s : State) : Out :=
  floatRR (.fmin y gd ga la gb lb p) y gd ga la gb lb p (fun a b => floatCode p (exMin a b)) s

/-- FMAX (R281, R282). -/
def execFmax (y : Bool) (gd ga : BitVec 4) (la : Bool) (gb : BitVec 4) (lb : Bool) (p : Bool) (s : State) : Out :=
  floatRR (.fmax y gd ga la gb lb p) y gd ga la gb lb p (fun a b => floatCode p (exMax a b)) s

/-- FCMP.eq (R281, R282). -/
def execFcmpEq (y : Bool) (gd ga : BitVec 4) (la : Bool) (gb : BitVec 4) (lb : Bool) (p : Bool) (s : State) : Out :=
  floatRR (.fcmpEq y gd ga la gb lb p) y gd ga la gb lb p (fun a b => (boolWord (exEq a b), 0)) s

/-- FCMP.lt (R281, R282). -/
def execFcmpLt (y : Bool) (gd ga : BitVec 4) (la : Bool) (gb : BitVec 4) (lb : Bool) (p : Bool) (s : State) : Out :=
  floatRR (.fcmpLt y gd ga la gb lb p) y gd ga la gb lb p (fun a b => (boolWord (exLt false a b), 0)) s

/-- FCMP.le (R281, R282). -/
def execFcmpLe (y : Bool) (gd ga : BitVec 4) (la : Bool) (gb : BitVec 4) (lb : Bool) (p : Bool) (s : State) : Out :=
  floatRR (.fcmpLe y gd ga la gb lb p) y gd ga la gb lb p (fun a b => (boolWord (exLt false a b || exEq a b), 0)) s

/-- FCVT (R282): FP32 to FP64, exact, or with P = 1 FP64 to FP32. -/
def execFcvt (y : Bool) (gd ga : BitVec 4) (la : Bool) (p : Bool) (s : State) : Out :=
  issue s (plainUse (.fcvt y gd ga la p) y [(ga, la)] gd) fun t v =>
    .done (setFloat t gd (floatRes p (floatArg (!p) (arg v 0), 0)))

/-- FCVTI (R282). -/
def execFcvti (y : Bool) (gd ga : BitVec 4) (la : Bool) (p : Bool) (s : State) : Out :=
  issue s (plainUse (.fcvti y gd ga la p) y [(ga, la)] gd) fun t v =>
    .done (setFloat t gd (floatToInt64 (floatArg p (arg v 0))))

/-- FCVTF (R282). -/
def execFcvtf (y : Bool) (gd ga : BitVec 4) (la : Bool) (p : Bool) (s : State) : Out :=
  issue s (plainUse (.fcvtf y gd ga la p) y [(ga, la)] gd) fun t v =>
    .done (setFloat t gd (floatRes p (exInt (arg v 0).toInt, 0)))

end Sys2Proof.Machine
end

