-- ==== Sys2Proof/Machine/Sync.lean ====
section
/-! DEFINITION. Barriers and SCOPESET: majors 0x4B-0x4D (R301, R303, R91, R92). -/

namespace Sys2Proof.Machine

/-- A barrier's number: a gang's number or a stage's (launch × 8 + stage), with the kind in bit 0. -/
def barrierId (grid : Bool) (key : Nat) : Nat := key * 2 + b1 grid

/-- A barrier in progress, empty when there is none. -/
def barrierOf (s : State) (grid : Bool) (key : Nat) : Barrier :=
  (s.dist.barriers.find? fun b => b.grid == grid && b.key == key).getD ⟨grid, key, [], []⟩

/-- Write a barrier. -/
def setBarrier (s : State) (b : Barrier) : State :=
  { s with dist := { s.dist with
    barriers := b :: s.dist.barriers.filter fun x => !(x.grid == b.grid && x.key == b.key) } }

/-- The fibres of a gang that take part in its barriers: the placed ones not exited (R301), its image's among them. -/
def memberFibres (s : State) (g : Gang) : List Fibre :=
  let p := fun (f : Fibre) => f.ident.gang == some g.id && f.ident.kind == .placed && decide (f.run ≠ .exited)
  (allFibres s).filter p ++ (match g.image with
    | some i => i.fibres.filter p
    | none => [])

/-- The members of a barrier. -/
def barrierMembers (s : State) (grid : Bool) (key : Nat) : List Fibre :=
  if grid then (s.dist.gangs.filter fun g => g.launch == key / 8 && g.stage == key % 8).flatMap (memberFibres s)
  else match gangOf s key with
    | some g => memberFibres s g
    | none => []

/-- A stage's grid tag (R91). -/
def gridTag (s : State) (l st : Nat) : Option GridTag := s.dist.grids.find? fun t => t.launch == l && t.stage == st

/-- The scope of a core against a tag's own: the smallest standard scope holding both (R301). -/
def widen (a b : BitVec 4) : BitVec 4 := if a.toNat < b.toNat then b else a

/-- The scope at which an episode's arrivals and completions act (R301, R51). -/
def barrierScope (s : State) (grid : Bool) (key : Nat) : BitVec 4 :=
  let ms := barrierMembers s grid key
  if ms.any fun f => match f.run with | .away _ => true | _ => false then 5
  else if grid then
    match gridTag s (key / 8) (key % 8) with
    | some t => if t.modTag.isSome then 4
      else
        let d := (t.dieTags.headD 0) / 8
        if ms.all fun f => dieOf f.core == d then 3 else 4
    | none => 4
  else match gangOf s key with
    | some g => ms.foldl (fun a f => widen a (scopeOfCores (g.cores.headD 0) f.core)) 2
    | none => 2

/-- ILLEGAL in a handler, a task fibre or a gangless fibre, or without the tag (R91, R301, R212, R236). -/
def barrierCtx (i : Instr) (grid : Bool) (s : State) : Option (Nat × Word) :=
  let f := s.fib
  let tagged := match gangOfFibre s f with
    | none => f.ident.guest.isSome && f.ident.lflags.getLsbD (b1 grid)
    | some g =>
      if grid then (gridTag s g.launch g.stage).isSome
      else match launchOf s g.launch with
        | some l => nb (stageOf l g.stage).w.toNat 37
        | none => false
  if f.ident.kind ≠ .placed ∨ tagged = false then some (cILLEGAL, wordVal i) else none

/-- An arrival after its checks (R301): a release at the tag's scope; the fibre is parked until the episode completes. A fibre that came
from another module of the pod arrives over the fabric (R51, log entry 13). -/
def arriveEff (t : State) (grid : Bool) (comb : BitVec 2) (v : Word) : Eff :=
  if !allPerformed t t.fib.id then .later .accesses (.arrive grid comb v) t
  else match t.fib.ident.guest with
    | some (m, n) =>
      let t := releaseAt t t.fib.ident.tenant t.fib.core 5
      .hold (.barrier 0) (tellHome t t.fib m n (1 + b1 grid * 256 + comb.toNat * 65536) v)
    | none =>
      let key := match gangOfFibre t t.fib with
        | some g => if grid then g.launch * 8 + g.stage else g.id
        | none => 0
      let t := releaseAt t t.fib.ident.tenant t.fib.core (barrierScope t grid key)
      let b := barrierOf t grid key
      .hold (.barrier (barrierId grid key)) (setBarrier t { b with arrivals := b.arrivals ++ [(t.fib.id, comb, v)] })

/-- BARR and BARJ (R301). -/
def arriveAt (i : Instr) (grid y : Bool) (gd ga : Reg) (la : Bool) (comb : BitVec 2) (s : State) : Out :=
  issue s ⟨i, y, false, 0, barrierCtx i grid, [(ga, la)], gd, true⟩ fun t v => arriveEff t grid comb (arg v 0)

/-- BARR (R301). -/
def execBarr (y : Bool) (gd ga : BitVec 4) (la : Bool) (comb : BitVec 2) (s : State) : Out :=
  arriveAt (.barr y gd ga la comb) false y gd ga la comb s

/-- BARJ (R301, R91). -/
def execBarj (y : Bool) (gd ga : BitVec 4) (la : Bool) (comb : BitVec 2) (s : State) : Out :=
  arriveAt (.barj y gd ga la comb) true y gd ga la comb s

/-- The combined value of an episode (R301). -/
def combine (as : List (Nat × BitVec 2 × Word)) : Word :=
  match as with
  | [] => 0
  | (_, c, v) :: r =>
    if r.all (fun a => a.2.1 == c) = false then BitVec.allOnes 64
    else match c with
      | 0 => 0
      | 1 => r.foldl (fun a b => if b.2.2.ult a then b.2.2 else a) v
      | 2 => r.foldl (fun a b => if a.ult b.2.2 then b.2.2 else a) v
      | _ => r.foldl (fun a b => a + b.2.2) v

/-- Whether every member has arrived (R301): those that exited count. -/
def allArrived (s : State) (b : Barrier) : Bool :=
  b.arrivals != [] && (barrierMembers s b.grid b.key).all fun f => b.arrivals.any fun a => a.1 == f.id

/-- The dies whose reports a barrier needs: a module tag's (R92). -/
def barrierDies (s : State) (b : Barrier) : List Nat :=
  if b.grid then
    match gridTag s (b.key / 8) (b.key % 8) with
    | some t => if t.modTag.isSome then t.dieTags.map (· / 8) else []
    | none => []
  else []

/-- Whether a die's tree has completed for a barrier: every member whose core lies on it has arrived (R92). -/
def dieArrived (s : State) (b : Barrier) (die : Nat) : Bool :=
  ((barrierMembers s b.grid b.key).filter fun f => dieOf f.core == die).all fun f => b.arrivals.any fun a => a.1 == f.id

/-- A held instruction of a fibre in an image completes there (R82). -/
def completeIn (f : Fibre) (r : Option Word) : Fibre :=
  let f := freeRegs f f.heldFree
  let f := match r with
    | some v => writeShort f f.heldDest v
    | none => f
  stepPc { f with
    run := .eligible
    heldFree := 0
    heldDest := 0 }

/-- A fibre in an image whose episode completes goes on from there when its gang resumes (R82). -/
def releaseImaged (s : State) (v : Word) (n : Nat) : State :=
  { s with dist := { s.dist with gangs := s.dist.gangs.map fun g => { g with
    image := g.image.map fun i => { i with fibres := modWhere (fun f => f.id == n) (fun f => completeIn f (some v)) i.fibres } } } }

/-- Whether a fibre is in an image. -/
def inImage (s : State) (n : Nat) : Bool := s.dist.gangs.any fun g => match g.image with
  | some i => i.fibres.any fun f => f.id == n
  | none => false

/-- The arriving fibres receive the result, and each makes the episode's acquire (R301). -/
def release1 (s : State) (sc : BitVec 4) (v : Word) (n : Nat) : State :=
  if inImage s n then releaseImaged s v n
  else match fibreOf s n with
  | none => s
  | some f =>
    match f.run with
    | .away m => tellModule s f m n 2 v []
    | _ => complete (acquireAt s f.ident.tenant f.core sc) n (some v)

/-- An arrival's release at the episode's scope, which a member that has migrated since may have widened (R51, R301). -/
def releaseArrival (s : State) (sc : BitVec 4) (n : Nat) : State :=
  match fibreOf s n with
  | none => s
  | some f => match f.run with
    | .away _ => s
    | _ => releaseAt s f.ident.tenant f.core sc

/-- Complete a barrier episode (R301): every arrival's release at its scope, then the results, each with an acquire. -/
def completeBarrier (s : State) (b : Barrier) : State :=
  let sc := barrierScope s b.grid b.key
  let v := combine b.arrivals
  let s := { s with dist := { s.dist with
    barriers := s.dist.barriers.filter fun x => !(x.grid == b.grid && x.key == b.key) } }
  let s := b.arrivals.foldl (fun s a => releaseArrival s sc a.1) s
  b.arrivals.foldl (fun s a => release1 s sc v a.1) s

/-- SCOPESET and MTS SCOPEMASKn (R303): a release at module scope; the fibre is parked until every die has the value. -/
def setMask (t : State) (n : Nat) (v : Word) : Eff :=
  if !allPerformed t t.fib.id then .later .accesses (.mask n v) t
  else .hold (.mask n v) (releaseAt t t.fib.ident.tenant t.fib.core 4)

/-- SCOPESET (R303). -/
def execScopeset (y : Bool) (ga : BitVec 4) (la : Bool) (n : BitVec 3) (s : State) : Out :=
  issue s { plainUse (.scopeset y ga la n) y [(ga, la)] 0 with fail := true } fun t v => setMask t n.toNat (arg v 0)

end Sys2Proof.Machine
end

