-- ==== Sys2Proof/Machine/System.lean ====
section
/-! DEFINITION. The system instructions but for the engine registers: majors 0x50-0x52 (R305-R310, R392, R396). -/

namespace Sys2Proof.Machine

/-- NOP (R258): no effect. -/
def execNop (y : Bool) (s : State) : Out := issue s (plainUse (.nop y) y [] 0) fun t _ => .done t

/-- TRAP n (R306, R393): TRAPI with EVAL n, or BREAK for 63, after the instruction has completed. -/
def execTrap (y : Bool) (n : BitVec 6) (s : State) : Out :=
  issue s (plainUse (.trap y n) y [] 0) fun _ _ => .trapAfter false (if n = 63 then cBREAK else cTRAPI) (zext n)

/-- HCALL n (R306): TRAPI through the monitor context. -/
def execHcall (y : Bool) (n : BitVec 6) (s : State) : Out :=
  issue s { plainUse (.hcall y n) y [] 0 with level := 1 } fun _ _ =>
    .trapAfter true cTRAPI (BitVec.ofNat 64 (2 ^ 63) + zext n)

/-- ERET (R392). -/
def execEret (y : Bool) (s : State) : Out :=
  issue s { plainUse (.eret y) y [] 0 with level := 1, fail := true } fun t _ =>
    let x := eretCtx t.fib
    if !x.frame then .trap cILLEGAL 0x50000002
    else if x.loops != [] && pcBlock x.epc != x.block then .trap cLOOPNEST x.epc
    else .raw { t with fib := issued (leaveTrap t.fib) ⟨.eret y, y, false, 0, fun _ => none, [], 0, true⟩ }

/-- TLBINV after its checks (R308): the earlier accesses performed at module scope; the fibre is parked until every TLB in scope has
finished. -/
def tlbinvEff (t : State) (scope : BitVec 4) (m : Word) (all : Bool) (va : Word) : Eff :=
  if !allPerformed t t.fib.id then .later .accesses (.tlbinv scope m all va) t
  else .hold (.tlb scope m all va) (releaseAt t t.fib.ident.tenant t.fib.core 4)

/-- TLBINV (R308), with the mask of a named scope as it is now (R158). -/
def execTlbinv (y : Bool) (ga : BitVec 4) (la : Bool) (mode : BitVec 2) (scope : BitVec 4) (s : State) : Out :=
  issue s { plainUse (.tlbinv y ga la mode scope) y [(ga, la)] 0 with level := 1, fail := true } fun t v =>
    tlbinvEff t scope (maskOf t t.fib.ident.tenant scope) (mode == 1) (arg v 0)

/-- Whether a TLB's holder lies within a scope of a fibre's core, a named one with the mask `m` (R156, R158, R308). -/
def tlbInScope (f : Fibre) (sc : BitVec 4) (m : Word) (h : Nat) : Bool :=
  let cl := if h < 1024 then clusterOf h else h - 1024
  let mine := h == f.core || h == 1024 + clusterOf f.core
  if sc.toNat ≤ 1 then mine
  else if sc.toNat = 2 then cl == clusterOf f.core
  else if sc.toNat = 3 then cl / 16 == dieOf f.core
  else if sc.toNat < 8 then true
  else mine || m.getLsbD cl

/-- The TLB entries that a TLBINV removes (R308): the fibre's tenant's, and at device monitor level those of the
monitor's own root. -/
def tlbRemove (s : State) (f : Fibre) (sc : BitVec 4) (m : Word) (all : Bool) (va : Nat) : State :=
  { s with ms := { s.ms with tlb := s.ms.tlb.filter fun e =>
    !((e.space == f.ident.tenant.toNat || (f.pl == 2 && e.space == 16)) && tlbInScope f sc m e.holder
      && (all || va / 2 ^ e.width == e.page)) } }

/-- The core no longer owns a line that it has written back and dropped (R134, R309). -/
def disownLine (s : State) (core : Nat) (a : Acc) : State :=
  { s with ms := { s.ms with owners := s.ms.owners.filter fun o =>
    !(o.core == core && meets o.line o.n (lineBase a.gr a.pa) (grainBytes a.gr)) } }

/-- CACHEOP's effect on the issuing core's copy of a line (R309): a dirty copy, or a clean or leased one. -/
def cacheOp (s : State) (core : Nat) (a : Acc) (op : Nat) : State :=
  let here := fun x => lineBase a.gr x == lineBase a.gr a.pa
  if a.loc.toNat ≥ 2 ∨ a.cp = 2 then s
  else if op = 0 then pushL1 s core here
  else
    let s := { s with ms := { s.ms with leases := s.ms.leases.filter fun l => !(l.core == core && here l.line) } }
    if op = 1 then disownLine (dropCopies (pushL1 s core here) (fun h => h == core) here) core a
    else if s.ms.copies.any fun c => c.holder == core && here c.addr && c.dirty then s
    else dropCopies s (fun h => h == core) here

/-- Whether the current fibre has accesses to a line not yet performed (R160). -/
def lineBusy (s : State) (a : Acc) : Bool :=
  s.ms.reqs.any fun q => q.fib == s.fib.id && meets q.pa q.n (lineBase a.gr a.pa) (grainBytes a.gr)

/-- CACHEOP after its checks (R160, R309). -/
def cacheEff (t : State) (r : Req) (loc : BitVec 2) (op : Nat) : Eff :=
  let a : Acc := ⟨r.pa, r.cp, r.gr, loc, false, 0, 0, 0⟩
  if lineBusy t a then .later .accesses (.cache r loc op) t else .done (cacheOp t t.fib.core a op)

/-- CACHEOP (R309). -/
def execCacheop (y : Bool) (ga : BitVec 4) (la : Bool) (op : BitVec 6) (s : State) : Out :=
  issue s (plainUse (.cacheop y ga la op) y [(ga, la)] 0) fun t v =>
    match translateFibre t t.fib .load (arg v 0).toNat with
    | .bad c => .trap c (arg v 0)
    | .ok a =>
      if outOfReach t t.fib a.pa then .trap cWINDOW (arg v 0)
      else cacheEff t (mkReq t .load 0 8 a (arg v 0)) a.loc op.toNat
    | _ => .done t

/-- The gang that a handle names (R310). -/
def handleGang (s : State) (h : Word) : Option Gang :=
  s.dist.gangs.find? fun g => g.launch == nf h.toNat 40 23 && g.stage == nf h.toNat 20 3 && g.glin == nf h.toNat 0 20

/-- The tenant of the gang that a handle names, one still Queued in its launch's grid among them (R63, R310). -/
def handleTenant (s : State) (h : Word) : Option (BitVec 4) :=
  match handleGang s h with
  | some g => some g.ten
  | none => match launchOf s (nf h.toNat 40 23) with
    | some l => if nf h.toNat 20 3 < l.stages.length ∧ nf h.toNat 0 20 < gridSize l then some l.ten else none
    | none => none

/-- Whether a handle has a reserved bit set. -/
def badHandle (h : Word) : Bool := nb h.toNat 63 || nf h.toNat 23 17 != 0

/-- The checks of IMGSAVE and IMGLOAD (R310, R412). -/
def handleCheck (i : Instr) (t : State) (h : Word) : Option (Nat × Word) :=
  if badHandle h then some (cRESBITS, h)
  else if (handleGang t h).any fun g => t.fib.ident.gang == some g.id then some (cILLEGAL, wordVal i)
  else if t.fib.pl ≠ 2 && (handleTenant t h).any fun x => x != t.fib.ident.tenant then some (cWINDOW, h) else none

/-- IMGSAVE (R310): the gang is imaged as a pre-emption victim is and held suspended; the fibre is parked until the image
closes. A gang still Queued has nothing to image and is left alone (DESIGN CHOICE, log entry 16). -/
def execImgsave (y : Bool) (ga : BitVec 4) (la : Bool) (s : State) : Out :=
  let i := Instr.imgsave y ga la
  issue s { plainUse i y [(ga, la)] 0 with level := 1 } fun t v =>
    match handleCheck i t (arg v 0) with
    | some (c, x) => .trap c x
    | none =>
      match handleGang t (arg v 0) with
      | none => .done t
      | some g =>
        match g.st with
        | .done => .done t
        | .imaged => .done (modGang t g.id fun g => { g with suspended := true })
        | _ => .hold (.image g.id) (startImaging (modGang t g.id fun g => { g with suspended := true }) [g.id])

/-- A gang that an agent's death has ended goes back to its last image (R428); what is left of its fibres ends. -/
def reviveGang (s : State) (g : Gang) : State :=
  match g.ended && g.st != .done, g.last with
  | true, some i =>
    let s := modGang s g.id fun g => { g with
      st := .imaged
      image := some i
      ended := false
      suspended := false }
    { s with fibres := s.fibres.filter fun f => f.ident.gang != some g.id }
  | _, _ => modGang s g.id fun g => { g with suspended := false }

/-- IMGLOAD (R310, R428): clears the suspension. -/
def execImgload (y : Bool) (ga : BitVec 4) (la : Bool) (s : State) : Out :=
  let i := Instr.imgload y ga la
  issue s { plainUse i y [(ga, la)] 0 with level := 1 } fun t v =>
    match handleCheck i t (arg v 0) with
    | some (c, x) => .trap c x
    | none =>
      match handleGang t (arg v 0) with
      | none => .done t
      | some g => .done (reviveGang t g)

/-- A special register's value (R270, R307). -/
def sregRead (s : State) (r : Nat) : Word :=
  let f := s.fib
  match r with
  | 0x00 => fstat f
  | 0x01 => f.fpfx
  | 0x02 => f.ident.fcoord
  | 0x03 => f.ident.fstage
  | 0x04 => zext f.ident.tenant
  | 0x05 => f.ident.gangid
  | 0x06 => loopReg f 0
  | 0x07 => loopReg f 1
  | 0x08 => loopReg f 2
  | 0x09 => f.sup.epc
  | 0x0A => causeWord f.sup
  | 0x0B => f.sup.val
  | 0x0C => BitVec.ofNat 64 (clockOf s f.core)
  | 0x0D => BitVec.ofNat 64 f.core
  | 0x0E => BitVec.ofNat 64 (clusterOf f.core)
  | 0x0F => BitVec.ofNat 64 (dieOf f.core)
  | 0x10 => BitVec.ofNat 64 (ownMod s)
  | 0x11 => zext s.net.inc
  | 0x12 => zext s.dev.pod
  | 0x13 => f.mon.epc
  | 0x14 => causeWord f.mon
  | 0x15 => f.mon.val
  | _ => tget 0 (tenantOf s f.ident.tenant.toNat).masks (r - 0x18)

/-- MFS (R307). -/
def execMfs (y : Bool) (gd : BitVec 4) (r : BitVec 6) (s : State) : Out :=
  issue s (plainUse (.mfs y gd r) y [] gd) fun t _ => .done (setLong t gd (sregRead t r.toNat) 0)

/-- The registers that MTS ignores (R307). -/
def sregIgnored (r : Nat) : Bool :=
  r == 2 || r == 3 || r == 4 || r == 5 || (decide (0x0C ≤ r) && decide (r ≤ 0x12))

/-- A special register's reserved bits (R3): the fields its map names with a dash. -/
def sregReserved (r : Nat) : Word :=
  match r with
  | 0x00 => ~~~0xFF9F
  | 0x01 => ~~~0xFFFFFC
  | 0x06 => ~~~0xFFFFFFFF
  | 0x07 => 3
  | 0x08 => 3
  | 0x09 => 3
  | 0x13 => 3
  | 0x0A => ~~~0xFFF
  | 0x14 => ~~~0xFFF
  | _ => 0

/-- The trap context whose registers a number belongs to: 1 the supervisor's, 2 the monitor's, 0 neither. -/
def sregCtx (r : Nat) : Nat :=
  if 0x09 ≤ r ∧ r ≤ 0x0B then 1 else if 0x13 ≤ r ∧ r ≤ 0x15 then 2 else 0

/-- Write a register of a trap context (R396): `k` 0 EPC, 1 ECAUSE, 2 EVAL. -/
def ctxWrite (x : TrapCtx) (k : Nat) (v : Word) : TrapCtx :=
  match k with
  | 0 => { x with epc := v }
  | 1 => { x with cause := v.setWidth 6, ppl := BitVec.ofNat 2 (nf v.toNat 6 2) }
  | _ => { x with val := v }

/-- MTS's checks in R412's order: RESBITS, PRIV, LOOPNEST. The PPL value 0b11, which is reserved (R396) and which R412 gives no cause
for at device monitor level, raises RESBITS there (DESIGN CHOICE, log entry 66). -/
def mtsCheck (i : Instr) (f : Fibre) (r : Nat) (v : Word) : Option (Nat × Word) :=
  let x := if sregCtx r = 2 then f.mon else f.sup
  if sregIgnored r then none
  else if v &&& sregReserved r ≠ 0 then some (cRESBITS, wordVal i)
  else if (sregCtx r = 1 ∧ f.pl = 0) ∨ (sregCtx r = 2 ∧ f.pl ≠ 2) then some (cPRIV, wordVal i)
  else if r = 0x0A ∧ f.pl ≠ 2 ∧ nf v.toNat 6 2 ≠ x.ppl.toNat then some (cPRIV, wordVal i)
  else if (r = 0x0A ∨ r = 0x14) ∧ nf v.toNat 6 2 = 3 then some (cRESBITS, wordVal i)
  else if 6 ≤ r ∧ r ≤ 8 ∧ f.loops = [] then some (cLOOPNEST, 0)
  else none

/-- MTS's write to a fibre's own register (R34, R37, R396). -/
def sregWrite (f : Fibre) (r : Nat) (v : Word) : Fibre :=
  match r with
  | 0x00 => { f with dchk := v.getLsbD 14, hzchk := v.getLsbD 13, flags := f.flags &&& ~~~(v.setWidth 5) }
  | 0x06 => { f with loops := match f.loops with | [] => [] | l :: t => { l with count := v.setWidth 32 } :: t }
  | 0x07 => { f with loops := match f.loops with | [] => [] | l :: t => { l with start := wordIndex v } :: t }
  | 0x08 => { f with loops := match f.loops with | [] => [] | l :: t => { l with stop := wordIndex v } :: t }
  | 0x09 => { f with sup := ctxWrite f.sup 0 v }
  | 0x0A => { f with sup := ctxWrite f.sup 1 v }
  | 0x0B => { f with sup := ctxWrite f.sup 2 v }
  | 0x13 => { f with mon := ctxWrite f.mon 0 v }
  | 0x14 => { f with mon := ctxWrite f.mon 1 v }
  | 0x15 => { f with mon := ctxWrite f.mon 2 v }
  | _ => f

/-- MTS (R307). -/
def execMts (y : Bool) (ga : BitVec 4) (la : Bool) (r : BitVec 6) (s : State) : Out :=
  let i := Instr.mts y ga la r
  issue s { plainUse i y [(ga, la)] 0 with fail := decide (0x18 ≤ r.toNat) } fun t v =>
    match mtsCheck i t.fib r.toNat (arg v 0) with
    | some (c, x) => .trap c x
    | none =>
      if 0x18 ≤ r.toNat then setMask t (r.toNat - 0x18) (arg v 0)
      else .done { t with fib := sregWrite t.fib r.toNat (arg v 0) }

end Sys2Proof.Machine
end

