-- ==== Sys2Proof/Machine/UnitEvents.lean ====
section
/-! DEFINITION. The steps of a core's units: the vector unit, GMSG's slot, the matrix array, the copy engine and kick transfers
(R115, R214, R229, R313, R332-R340, R350). -/

namespace Sys2Proof.Machine

/-- The core and job of a fibre's vector instruction. -/
def vecJobOf (s : State) (n : Nat) : Option (Nat × VecJob) :=
  s.cores.findSome? fun c => (c.2.vec.find? fun j => j.fib == n).map fun j => (c.1, j)

/-- VECTOR_INSTRUCTION_COMPLETE (R313): the unit's instruction of a fibre. -/
def vectorDone (s : State) (n : Nat) : State :=
  match vecJobOf s n with
  | none => s
  | some (core, j) =>
    let c := coreOf s core
    let s := setCore s core { c with vec := c.vec.filter fun x => x.fib != n }
    match vecOp j.instr with
    | none => s
    | some op => vecComplete s j core op

/-- CODEBOOK_REPLACE (R115, R329): the table of a fibre parked in CBLD, once its earlier readers have completed. -/
def codebookReplace (s : State) (n : Nat) : State :=
  match fibreOf s n with
  | none => s
  | some f =>
    match f.run with
    | .parked (.codebook b) => if bookRead s f.core then s else complete (setBook s f.core b) n none
    | _ => s

/-- GMSG_SLOT_WRITE (R229, R230): a GMSG whose wait for its slot has ended writes it. -/
def gmsgWrite (s : State) (n : Nat) : State :=
  match fibreOf s n with
  | none => s
  | some f =>
    match f.run with
    | .parked (.slot j) =>
      if slotFree s j then
        match slotPoison s j.va j.pas j.dim (j.damp != 0) with
        | some v => completeTrap s n cPOISON v
        | none =>
          let r := slotWrite s f.core j
          completeFl r.1 n (some r.2.1) r.2.2
      else s
    | _ => s

/-- The array's grant to a request: the lease, and the commands a resumed holder brings (R332, R339). -/
def grantReq (s : State) (cl : Nat) (q : LeaseReq) (rest : List LeaseReq) : State :=
  match fibreOf s q.fib with
  | none => setArray s cl { arrayOf s cl with wait := rest }
  | some f =>
    let a := grantTo s f q.bound { arrayOf s cl with wait := rest }
    let s := setArray s cl { a with
      cmds := q.cmds
      lease := a.lease.map fun l => { l with rel := q.rel } }
    if q.again then modFibre s q.fib fun f => if f.run = .parked .relet then { f with run := .eligible } else f
    else complete s q.fib none

/-- MATRIX_LEASE_GRANT (R332): the first request, when the array is free; a retired array grants none. -/
def leaseGrant (s : State) (cl : Nat) : State :=
  let a := arrayOf s cl
  match a.wait with
  | [] => s
  | q :: r => if a.lease.isSome || !a.cmds.isEmpty || a.retired then s else grantReq s cl q r

/-- Whether a fibre's gang is being imaged. -/
def fibImaging (s : State) (n : Nat) : Bool :=
  match fibreOf s n with
  | none => false
  | some f => match gangOfFibre s f with
    | some g => g.st == .imaging
    | none => false

/-- MATRIX_STEP (R120, R338, R81): one step of the running command; a run of a gang being imaged has stopped. -/
def matrixStep (s : State) (cl : Nat) : State :=
  match (arrayOf s cl).cmds with
  | [] => s
  | c :: r =>
    if cmdSteps c ≤ c.step ∨ fibImaging s c.fib = true then s
    else
      let x := stepCmd s c
      setArray x.1 cl { arrayOf x.1 cl with cmds := x.2 :: r }

/-- MATRIX_COMMAND_COMPLETE (R334, R338, R339): the running command, all its steps done. -/
def matrixDone (s : State) (cl : Nat) : State :=
  match (arrayOf s cl).cmds with
  | [] => s
  | c :: r =>
    if c.step < cmdSteps c then s
    else
      let s := cmdFlags (setArray s cl { arrayOf s cl with cmds := r }) c
      let s := match fibreOf s c.fib with
        | some f => if f.run = .parked .store ∧ c.fn = 4 then complete s c.fib none else s
        | none => s
      giveArray s cl

/-- KICK_NOTICE_ARRIVAL (R214): a notice among the arrivals, in its pair's order. -/
def kickArrive (s : State) (k : Nat) : State :=
  match s.net.arrivals[k]? with
  | none => s
  | some p => if p.kind = 10 ∧ inOrder s k p = true then noticeArrive (dropArrival s k) p else s

/-- Event VECTOR_INSTRUCTION_COMPLETE (R313). -/
def execVectorInstructionComplete (f : Nat) (s : State) : Out := .next (vectorDone s f)
/-- Event CODEBOOK_REPLACE (R329). -/
def execCodebookReplace (f : Nat) (s : State) : Out := .next (codebookReplace s f)
/-- Event GMSG_SLOT_WRITE (R229). -/
def execGmsgSlotWrite (f : Nat) (s : State) : Out := .next (gmsgWrite s f)
/-- Event MATRIX_LEASE_GRANT (R332). -/
def execMatrixLeaseGrant (cl : Nat) (s : State) : Out := .next (leaseGrant s cl)
/-- Event MATRIX_STEP (R120). -/
def execMatrixStep (cl : Nat) (s : State) : Out := .next (matrixStep s cl)
/-- Event MATRIX_COMMAND_COMPLETE (R334). -/
def execMatrixCommandComplete (cl : Nat) (s : State) : Out := .next (matrixDone s cl)
/-- Event COPY_COMMAND_START (R350). -/
def execCopyCommandStart (core : Nat) (s : State) : Out := .next (copyStart s core)
/-- Event COPY_COMMAND_COMPLETE (R350). -/
def execCopyCommandComplete (core : Nat) (s : State) : Out := .next (copyComplete s core)
/-- Event KICK_NOTICE_ARRIVAL (R214). -/
def execKickNoticeArrival (k : Nat) (s : State) : Out := .next (kickArrive s k)
/-- Event KICK_TRANSFER_START (R214). -/
def execKickTransferStart (core : Nat) (s : State) : Out := .next (kickStart s core)
/-- Event KICK_TRANSFER_COMPLETE (R214). -/
def execKickTransferComplete (core : Nat) (s : State) : Out := .next (kickComplete s core)

end Sys2Proof.Machine
end

