-- ==== Sys2Proof/Machine/Guests.lean ====
section
/-! DEFINITION. Fibres that have migrated between modules of the pod: their arrival, their return for an image, and the control packets
that keep them members of their gangs (R46-R51, R59-R62, R82, R129, R287, R301, R428; log entries 13 and 26). -/

namespace Sys2Proof.Machine

/-- A control packet to another module about nothing that has a fibre here (log entry 13). -/
def tellPlain (s : State) (ten : BitVec 4) (m n code : Nat) (v : Word) (data : List Byte) : State :=
  tellModule s { Fibre.blank with ident := { Ident.none with tenant := ten } } m n code v data

/-- The fibre that a migration packet carries (R49), as its destination installs it. -/
def arrivingFibre (p : Packet) : Fibre :=
  let d := fun o n => leNat ((p.data.drop o).take n)
  let mask := d 0 2
  let ls := (List.range 16).filter fun i => nb mask i
  let k := ls.length
  let st := d (12 + 8 * k) 4
  let o := 20 + 8 * k
  let regs := (List.range k).foldl (fun f i => putReg f (BitVec.ofNat 4 (ls.getD i 0)) (BitVec.ofNat 64 (d (4 + 8 * i) 8))) Fibre.blank
  let tag := areaNat p 16 1
  let info := areaNat p 22 2
  { regs with
    core := idAgent p.dst
    run := .eligible
    pc := BitVec.ofNat 64 (d (4 + 8 * k) 8)
    flags := BitVec.ofNat 5 st
    pl := BitVec.ofNat 2 (nf st 11 2)
    hzchk := nb st 13
    dchk := nb st 14
    pfx := nb st 15
    fpfx := BitVec.ofNat 64 (d (16 + 8 * k) 4)
    loops := (List.range (nf st 8 3)).map fun i =>
      ⟨BitVec.ofNat 32 (d (o + 8 * i) 4), BitVec.ofNat 16 (d (o + 8 * i + 4) 2), BitVec.ofNat 16 (d (o + 8 * i + 6) 2)⟩
    noMig := decide (nf info 13 2 = 0)
    ident := { Ident.none with
      kind := if nb tag 6 then .task else .placed
      tenant := p.ten
      fcoord := BitVec.ofNat 64 (areaNat p 0 8)
      gangid := BitVec.ofNat 64 (areaNat p 8 8)
      fstage := BitVec.ofNat 64 (tag % 64)
      budget := info % 16
      tscope := p.scope
      ret := if nb tag 7 then 1 else 0
      retScope := if nb tag 7 then 5 else 0
      guest := some (areaNat p 17 1, areaNat p 18 4)
      lflags := BitVec.ofNat 4 (nf info 8 4) } }

/-- The register that the held instruction of a migrating fibre writes, and whether it waits at a barrier. -/
def arrivingHold (p : Packet) : Reg × Bool := (BitVec.ofNat 4 (nf (areaNat p 22 2) 4 4), nb (areaNat p 22 2) 12)

/-- A migrating fibre at its destination: MIGR's status is written there (R49, R290), and one that waits at a barrier still waits; its first
accesses follow an acquire at pod scope (R50, R160). -/
def settleArrival (s : State) (p : Packet) (f : Fibre) (bar : Nat) : State × Fibre :=
  let h := arrivingHold p
  (acquireAt s f.ident.tenant f.core 5,
    if h.2 then { f with
      run := .parked (.barrier bar)
      heldDest := h.1 }
    else if h.1 = 0 then f
    else writeShort f h.1 0)

/-- The barrier at which a fibre has arrived (R301). -/
def barrierAt (s : State) (n : Nat) : Nat :=
  match s.dist.barriers.find? fun b => b.arrivals.any fun a => a.1 == n with
  | some b => barrierId b.grid b.key
  | none => 0

/-- Whether a gang of this module is being imaged. -/
def gangImaging (s : State) (f : Fibre) : Bool :=
  match gangOfFibre s f with
  | some g => g.st == .imaging
  | none => false

/-- A fibre of this module comes back from another (R48, R51): its record becomes the fibre again, where a core takes it. One that its
gang's imaging asked for is there for the image alone: it holds no slot, no registers and no core (R46, R81; `isResident`). -/
def fibreReturns (s : State) (p : Packet) (r : Fibre) : State :=
  let img := gangImaging s r && nf (areaNat p 22 2) 13 2 == 2
  let f := { arrivingFibre p with
    id := r.id
    core := if img then r.core else idAgent p.dst
    triggered := r.triggered
    recalled := img
    moves := r.moves + 1
    ident := r.ident }
  if img || acceptsFibre s f f.core then
    let x := settleArrival s p f (barrierAt s r.id)
    answer (modFibre x.1 r.id fun _ => x.2) p 3 0 [] []
  else answer s p 3 3 [] []

/-- A fibre from another module of the pod is installed or refused (R48, R49, R290). -/
def guestArrive (s : State) (k : Nat) (p : Packet) : State :=
  let s := raiseClock (dropArrival s k) (idAgent p.dst) p.clock.toNat
  let f := arrivingFibre p
  let home := f.ident.guest.getD (0, 0)
  if home.1 = ownMod s then
    match fibreOf s home.2 with
    | some r => (match r.run with
      | .away _ => fibreReturns s p r
      | _ => answer s p 3 3 [] [])
    | none => answer s p 3 3 [] []
  else if acceptsFibre s f f.core then
    let x := settleArrival s p f 0
    answer (addFibre x.1 x.2) p 3 0 [] []
  else answer s p 3 3 [] []

/-- A fibre leaves this module without a trace: its home, or where it has gone, holds it. -/
def forgetFibre (s : State) (n : Nat) : State :=
  let s := modFibre s n fun f => { f with
    run := .exited
    pend := []
    heldFree := 0 }
  { s with fibres := s.fibres.filter fun x => decide (x.run ≠ .exited) }

/-- The copy commands that a fibre issued on a core before it left are no longer its to wait for (R354). -/
def disown (s : State) (core n : Nat) : State :=
  let c := coreOf s core
  setCore s core { c with
    fifo := modWhere (fun x => x.fib == n) (fun x => { x with fib := 0 }) c.fifo
    failed := c.failed.filter fun x => x.1 != n
    waited := c.waited.filter fun x => x.1 != n }

/-- The offer of a fibre to another module was accepted (R48-R50): its stores here are performed at pod scope, and what its core still
owes it stays behind (R354). One whose gang is being imaged meanwhile is asked for (R46). A fibre whose home is a third module's is no longer
here, and its home hears where it is. -/
def offerTaken (s : State) (f : Fibre) (m : Nat) : State :=
  let s := disown (releaseAt s f.ident.tenant f.core 5) f.core f.id
  match f.ident.guest with
  | none =>
    let s := modFibre s f.id fun f => { f with
      run := .away m
      heldFree := 0
      heldDest := 0
      pend := [] }
    if gangImaging s f then tellModule s f m f.id 9 0 [] else s
  | some (h, n) => forgetFibre (if m = h then s else tellHome s f h n 16 (BitVec.ofNat 64 m)) f.id

/-- A fibre of another module goes back to its home for its gang's image (R46, R81): the packet is answered to nobody. -/
def goHome (s : State) (f : Fibre) (m : Nat) (d : Reg) (bar : Bool) : State :=
  let (k, s) := freshId s
  let s := releaseAt s f.ident.tenant f.core 5
  let s := sendPacket s (migrationPacket s k m 0 f d bar 2)
  { s with ms := { s.ms with far := s.ms.far ++ [⟨.nobody, 3 * 2 ^ 53 + m * 2 ^ 46, 1, k, false, 0, 0, false⟩] } }

/-- The placement region word that a home tells another module (R51, R129): a kind, and an address or a descriptor. -/
def placeBytes (s : State) (g : Gang) (va : Nat) : Option (List Byte) :=
  match placeGang s g va with
  | .ring => none
  | .none => some [0]
  | .at pa wr => some (if 2 ^ 56 ≤ pa then 2 :: leBytes 8 (pa % 64) ++ leBytes 32 (descWord s g) else (if wr then 3 else 1) :: leBytes 8 pa)

/-- The word as the other module reads it. -/
def placeHeard (data : List Byte) : Place :=
  let n := fun o k => leNat ((data.drop o).take k)
  match n 0 1 with
  | 0 => .none
  | 2 => .at (farDescPa (n 9 32) (n 1 8)) false
  | k => .at (n 1 8) (k == 3)

/-- The answer about a placement region word reaches the fibre that asked, which issues again (R51, R129). -/
def hearPlace (s : State) (m n : Nat) (va : Word) (data : List Byte) : State :=
  modFibres s (fun f => f.ident.guest == some (m, n)) fun f => { f with
    homeMap := f.homeMap ++ [(va.toNat, placeHeard data)]
    run := if f.run = .parked (.home va) then .eligible else f.run }

/-- An arrival at a barrier from a fibre that has migrated to another module (R51, R301). -/
def farArrival (s : State) (f : Fibre) (w v : Nat) : State :=
  match gangOfFibre s f with
  | none => s
  | some g =>
    let grid := nb w 8
    let key := if grid then g.launch * 8 + g.stage else g.id
    let b := barrierOf s grid key
    setBarrier s { b with arrivals := b.arrivals ++ [(f.id, BitVec.ofNat 2 (w / 65536), BitVec.ofNat 64 v)] }

/-- A barrier's result reaches a fibre that came from another module, or goes back when the fibre is not here (R51, R301). -/
def farResult (s : State) (ten : BitVec 4) (m n v : Nat) : State :=
  match (allFibres s).find? fun f => f.ident.guest == some (m, n) && f.run == .parked (.barrier 0) with
  | none => tellPlain s ten m n 17 (BitVec.ofNat 64 v) []
  | some f => complete (acquireAt s f.ident.tenant f.core 5) f.id (some (BitVec.ofNat 64 v))

/-- A result that did not reach its fibre is given again (R301). -/
def resultAgain (s : State) (n : Nat) (v : Word) : State :=
  if inImage s n then releaseImaged s v n
  else match fibreOf s n with
  | none => s
  | some f => match f.run with
    | .away m => tellModule s f m n 2 v []
    | .parked (.barrier _) => complete (acquireAt s f.ident.tenant f.core 5) n (some v)
    | _ => s

/-- A fibre on another module has called a task there (R51, R287): its record here is a fibre of the gang that is away. -/
def farTask (s : State) (f : Fibre) (m : Nat) (ret : Word) (sc : BitVec 4) : State :=
  let n := s.sched.nextId
  let t : Fibre := { Fibre.blank with
    core := f.core
    run := .away m
    ident := { f.ident with
      kind := .task
      gangid := f.ident.gangid ||| BitVec.ofNat 64 (2 ^ 63)
      ret := ret
      retScope := sc
      node := none } }
  let s := { s with
    fibres := s.fibres ++ [{ t with id := n }]
    sched := { s.sched with nextId := n + 1 } }
  let s := tellModule s f m f.id 12 (BitVec.ofNat 64 n) (leBytes 8 ret.toNat)
  if gangImaging s f then tellModule s f m n 9 0 [] else s

/-- A fibre on another module was lost with the agent that it ran on (R428): its gang is ended. -/
def farLost (s : State) (f : Fibre) : State :=
  let s := forgetFibre s f.id
  match f.ident.gang with
  | some g => endGang s g
  | none => s

/-- News of a fibre that is on module `m`: it arrives at a barrier, ends, triggers, calls a task, is lost, or has gone on, or its core is
retired (R51, R60, R62, R287, R424, R428). -/
def homeNews (s : State) (p : Packet) (m code n v : Nat) : State :=
  match fibreOf s n with
  | none => if code = 10 then tellPlain s p.ten m n 13 0 [] else s
  | some f =>
    match f.run with
    | .away _ =>
      (match code % 256 with
        | 1 => farArrival s f code v
        | 3 => endFibre s n (BitVec.ofNat 64 v)
        | 6 => settleLaunch (modFibre s n fun f => { f with triggered := true }) f.ident.launch
        | 10 => farTask s f m (BitVec.ofNat 64 v) (BitVec.ofNat 4 (leNat (p.data.take 1)))
        | 11 => farLost s f
        | 19 => startImaging s f.ident.gang.toList
        | 16 =>
          let s := modFibre s n fun f => { f with run := .away v }
          if gangImaging s f then tellModule s f v n 9 0 [] else s
        | _ => s)
    | _ => s

/-- Change the first task entry of the module's queues that satisfies a test. -/
def modTask (s : State) (p : Task → Bool) (h : Task → List Task) : State :=
  match s.cores.find? fun c => c.2.taskq.any p with
  | none => s
  | some (c, x) =>
    let i := (x.taskq.findIdx? p).getD 0
    setCore s c (refill { x with taskq := x.taskq.take i ++ ((x.taskq[i]?).map h).getD [] ++ x.taskq.drop (i + 1) })

/-- The numbers that their home gives to the tasks of a fibre from another module; refused, the task is dropped. -/
def taskNumber (s : State) (m n : Nat) (num : Option (Nat × Word)) : State :=
  match num with
  | some (k, ret) => modTask s (fun t => t.guest == some (m, 0) && t.caller == n && t.ret == ret) fun t => [{ t with guest := some (m, k) }]
  | none => modTask s (fun t => t.guest == some (m, 0) && t.caller == n) fun _ => []

/-- A waiting request of another module is given up there (R82): it has performed nothing. A request that is not here may still be under
way. -/
def withdrawFar (s : State) (ten : BitVec 4) (m n : Nat) : State :=
  let mine := fun (p : Packet) => idMod p.src == m && idPod p.src == s.dev.pod.toNat && p.reqid == BitVec.ofNat 32 n
  match s.ms.reqs.find? fun r => (r.rem.map mine).getD false with
  | some r => (match r.rem with
    | some p => answer (dropReq s r.id) p 3 0 (respArea 0 0 (2 ^ 32)) []
    | none => s)
  | none => match s.watches.find? fun w => (w.rem.map mine).getD false with
    | some w => wakeWatch s w 3
    | none => match s.net.arrivals.findIdx? fun p => decide (p.kind.toNat ≤ 2) && mine p with
      | some k => (match s.net.arrivals[k]? with
        | some p => answer (dropArrival s k) p 3 0 (respArea (if nf (areaNat p 26 1) 3 3 = 5 then 3 else 0) 0
            (if nf (areaNat p 26 1) 3 3 = 5 then 0 else 2 ^ 32)) []
        | none => s)
      | none => tellPlain s ten m n 15 0 []

/-- A guest is asked for by its home (R81): it goes at its next boundary, and a task entry goes at once. -/
def recallGuest (s : State) (taskFib : Task → Fibre) (m n : Nat) : State :=
  let s := modFibres s (fun f => f.ident.guest == some (m, n) && f.run != .exited) fun f => { f with recalled := true }
  match (s.cores.flatMap (·.2.taskq)).find? fun t => t.guest == some (m, n) with
  | none => s
  | some t => goHome (modTask s (fun t => t.guest == some (m, n)) fun _ => []) (taskFib t) m 0 false

end Sys2Proof.Machine
end

