-- ==== Sys2Proof/Machine/MemEvents.lean ====
section
/-! DEFINITION. The steps by which accesses, walks and waits go on: responses, homes, page walks, full/empty waits, barriers, task answers,
migrations, TLB searches and scope masks, and the clock (R44, R48, R49, R53, R92, R131, R139-R145, R167-R171, R286, R299, R301, R303,
R308). -/

namespace Sys2Proof.Machine

/-- A request's value reaches its fibre (R44): a pending result comes into being, or the waiting instruction completes, a GMSG of another
module's slot with the flags of both ends (R227). -/
def deliverReq (s : State) (r : Req) (v : Word) (fl : BitVec 5) : State :=
  match fibreOf s r.fib with
  | none => s
  | some f =>
    if f.run = .parked (.req r.id) then
      completeFl s r.fib (some v) (if r.kind = .feStore ∧ r.op = 6 then r.expect.setWidth 5 ||| fl else 0)
    else match r.pend with
      | some n => modFibre s r.fib fun f => fillPend f n (some v) none
      | none => s

/-- The response among the arrivals to a request number, and its place. -/
def respTo (s : State) (id : Nat) : Option (Nat × Packet) :=
  ((List.range s.net.arrivals.length).zip s.net.arrivals).find? fun x =>
    (x.2.kind == 3 || x.2.kind == 5) && x.2.reqid == BitVec.ofNat 32 id && isOwnIdent s x.2.dst

/-- The cause that a response reports, 0 when there is none; a request that comes back undone was lost. -/
def respCause (p : Packet) : Nat :=
  if p.status ≠ 0 then statusCause p.status.toNat else if p.kind = 5 then cLOST else 0

/-- A lease that a response brings (R170), with the marks of its poisoned words (R422). -/
def keepLease (s : State) (r : Req) (p : Packet) : State :=
  if p.data.isEmpty then s
  else
    let l : Leased := ⟨r.core, lineBase r.gr r.pa, p.data, areaNat p 16 8, areaNat p 8 8,
      (List.range (p.data.length / 8)).filter fun k => nb (areaNat p 24 8) k⟩
    { s with ms := { s.ms with leases := l :: s.ms.leases.filter fun x => !(x.core == r.core && x.line == l.line) } }

/-- A wait that was given up at its home (R82): the instruction has performed nothing and issues again. -/
def waitGiven (s : State) (r : Req) : State :=
  modFibre (dropReq s r.id) r.fib fun f => if f.run = .parked (.req r.id) then { f with
    run := .eligible
    heldFree := 0
    heldDest := 0 } else f

/-- A response is taken (R44, R162, R168, R170, R171, R399): clocks, the acquire, a lease, and the value or the failure. -/
def takeResponse (s : State) (r : Req) (k : Nat) (p : Packet) : State :=
  let s := raiseClock (dropArrival s k) r.core p.clock.toNat
  if respCause p ≠ 0 then failReq s r.id (respCause p)
  else if (r.kind = .feLoad ∨ r.kind = .feStore) ∧ areaNat p 16 8 = 2 ^ 32 then waitGiven s r
  else
    let s := if r.kind = .load ∧ r.sc = false then s else raiseClock s r.core (areaNat p 8 8)
    deliverReq (keepLease (acqEffect (dropReq s r.id) r) r p) r (BitVec.ofNat 64 (areaNat p 0 8)) (BitVec.ofNat 5 (areaNat p 16 8))

/-- Whether a word of another module is asked for by a request number. -/
def farWaits (s : State) (id : Nat) : Bool :=
  s.ms.far.any (fun w => w.req == id && !w.here) || (allFibres s).any fun f => f.words.any fun w => w.req == id && !w.here

/-- The words of another module that a request asked for come with its answer (R343, R353, R422): the value, or a slot's words in order; a
poisoned word comes with its mark, and a slot's header says whether it was full. -/
def farAnswer (s : State) (id k : Nat) (p : Packet) : State :=
  let s := raiseClock (dropArrival s k) (agentUnit (idAgent p.dst)) p.clock.toNat
  let base := (((allFibres s).flatMap (·.words)).find? fun w => w.req == id).map (·.pa) |>.getD 0
  farCame s (fun w => w.req == id) (respCause p)
    (fun w => BitVec.ofNat 64 (if w.op = 2 then leNat ((p.data.drop (w.pa - base)).take 8) else areaNat p 0 8))
    fun w => if w.op = 2 ∨ w.op = 4 then decide (w.pa = base) && areaNat p 16 8 != 0 else respCause p == cPOISON

/-- The request of a number. -/
def reqOf (s : State) (id : Nat) : Option Req := s.ms.reqs.find? fun r => r.id == id

/-- LOAD_DATA_RETURN (R43, R44, R108, R399): a long result whose value exists is written, or a response brings one; the words that a block
or an engine asked another module for come in the same way (R343, R353). -/
def dataReturn (s : State) (n p : Nat) : State :=
  match if farWaits s p then respTo s p else none with
  | some (k, q) => farAnswer s p k q
  | none => match fibreOf s n with
  | none => s
  | some f =>
    match takeFirst (fun (x : Pend) => x.id == p && (x.val.isSome || x.fail.isSome)) f.pend with
    | some (x, rest) => modFibre s n fun f => { arrive f x with pend := rest }
    | none =>
      match reqOf s p, respTo s p with
      | some r, some (k, q) => if r.fib = n ∧ r.sent = true ∧ r.kind ≠ .store then takeResponse s r k q else s
      | _, _ => s

/-- STORE_ACK (R171, R399): the acknowledgement of a remote store, with the line's WT and a cause or 0; a completion word's too. -/
def storeAck (s : State) (id : Nat) (wt : BitVec 64) (cause : BitVec 6) : State :=
  match respTo s id with
  | none => s
  | some (k, p) =>
    if areaNat p 8 8 ≠ wt.toNat ∨ respCause p ≠ cause.toNat then s
    else if farWaits s id then farAnswer s id k p
    else match reqOf s id with
      | some r => if r.kind = .store ∧ r.sent = true then takeResponse s r k p else s
      | none => s

/-- A request performed at its home on this module: delivered, failed, or left to wait in its place behind those already there, or to be
retried (R145). A completion word whose reservation is gone is not written (R176). -/
def performReq (s : State) (r : Req) : State :=
  if r.kind = .feStore ∧ r.op = 7 ∧ spadHeld s r.ten r.mon r.pa = false then dropReq s r.id
  else match performHere s r with
  | .done t v => deliverReq (dropReq t r.id) r v 0
  | .fail t c => failReq t r.id c
  | .wait t =>
    let (n, t) := freshId t
    modReq t r.id fun q => { q with
      arrived := true
      place := if r.arrived then q.place else n }
  | .refused => modReq s r.id fun q => { q with refused := true }

/-- HOME_REQUEST (R139, R154, R160, R162): a request whose earlier ones allow it leaves its core; it is performed at its home, sent
to another module, or with a wait hint refused. -/
def homeRequest (s : State) (id : Nat) (hint : BitVec 8) : State :=
  match reqOf s id with
  | none => s
  | some r =>
    if r.arrived || r.sent || r.refused || r.rem.isSome || !mayPerform s r then s
    else if hint ≠ 0 then modReq s id fun q => { q with refused := true }
    else
      let r := { r with clock := BitVec.ofNat 64 (clockOf s r.core) }
      if isRemote s r.pa then
        let s := modReq (relEffect s r) id fun q => { q with sent := true }
        sendReq s r (mayLease r)
      else performReq s r

/-- REFUSAL_RETRY (R139). -/
def refusalRetry (s : State) (id : Nat) : State := modReq s id fun q => { q with refused := false }

/-- OWNERSHIP_GRANT (R140): requests that met at one home, performed in the order of their grants. -/
def ownershipGrant (s : State) (ids : List Nat) : State := ids.foldl (fun s id => homeRequest s id 0) s

/-- A waiting full/empty request of another module, or of a built-in message, once performed, is answered (R213). -/
def answerWait (s : State) (r : Req) (p : Packet) : State :=
  match performAt s p r with
  | (.done t v, x, data) => answerDone (noticeEnds (dropReq t r.id) p r) p r v x data
  | (.fail t c, _, _) => answerFail (dropReq t r.id) p r c
  | _ => s

/-- FE_WAIT_SERVED (R145): a waiting access whose bit is as it needs and which is first of its kind is performed. -/
def feServed (s : State) (id : Nat) : State :=
  match reqOf s id with
  | none => s
  | some r =>
    if (r.kind ≠ .feLoad ∧ r.kind ≠ .feStore) ∨ r.arrived = false ∨ feReady s r.op r.pa = false ∨ feBehind s r.place r.op r.pa = true then s
    else match r.rem with
      | none => performReq s r
      | some p => answerWait s r p

/-- Whether a fibre waits for a page walk, within an instruction or to issue it again. -/
def waitsWalk (w : Nat) (f : Fibre) : Bool :=
  match f.run with
  | .parked x => plainWait x == .walk w
  | _ => false

/-- PAGE_WALK_COMPLETE (R128, R130, R131): the walk's leaf goes into the TLBs of its requesters, which issue again. -/
def walkComplete (s : State) (w : Nat) : State :=
  match s.ms.walks.find? fun x => x.id == w with
  | none => s
  | some x =>
    let s := { s with ms := { s.ms with walks := s.ms.walks.filter fun y => y.id != w } }
    let who := x.who.filterMap (fibreOf s)
    let s := match walkFrom s 3 x.va.toNat (rootOf s x.space) with
      | none => s
      | some (leaf, lv) =>
        let a : Acc := ⟨0, 0, 0, 0, false, x.va.toNat / 2 ^ pageWidth lv, pageWidth lv, BitVec.ofNat 64 leaf⟩
        who.foldl (fun s f => noteTlb s f.core x.space a) s
    modFibres s (waitsWalk w) fun f => { f with
      run := if f.run = .parked (.walk w) then .eligible else f.run
      walked := true }

/-- CLOCK_TICK (R167): 16 cycles pass. -/
def clockTick (s : State) : State :=
  { s with sched := { s.sched with
    tick := s.sched.tick + 1
    turns := 0 } }

/-- SPURIOUS_WAKE (R299): an armed WAITA goes on with status 3. -/
def spuriousWake (s : State) (n : Nat) : State :=
  match s.watches.find? fun w => w.fib == n && w.rem.isNone with
  | none => s
  | some w => wakeWatch s w 3

/-- A fibre's arrival on another core of this module (R48-R50, R160, R290, R354): what it stored is performed at the least scope that holds
both cores, its later loads follow an acquire there, and its copy commands stay behind. -/
def moveFibre (s : State) (f : Fibre) (dest : Nat) (migr : Bool) : State :=
  let sc := scopeOfCores f.core dest
  let ten := f.ident.tenant
  let s := acquireAt (exchange (releaseAt s ten f.core sc) f.core dest) ten dest sc
  let s := modFibre (leaveWalk (disown s f.core f.id) f.id) f.id fun f => { f with
    core := dest
    moves := f.moves + 1 }
  if migr then complete s f.id (some 0) else modFibre s f.id fun f => { f with
    run := .eligible
    noMig := true }

/-- A core retired while a fibre was on its way there takes none (R424): the fibre stays where it was (R48, R290). -/
def moveRefused (s : State) (f : Fibre) (migr : Bool) : State :=
  if migr then complete s f.id (some 2) else modFibre s f.id fun f => { f with
    run := .eligible
    noMig := true }

/-- MIGRATION_ARRIVAL (R48-R50, R290, R424): a fibre in flight is installed at its destination, or the answer to one offered to another
module comes; for no fibre's number, a fibre from another module arrives. -/
def migrationArrival (s : State) (n : Nat) : State :=
  match fibreOf s n with
  | some f =>
    (match f.run with
      | .migrating dest migr =>
        if !allPerformed s n then s
        else if (coreOf s dest).retired then moveRefused s f migr
        else moveFibre s f dest migr
      | .parked (.offer id _) =>
        (match respTo s id with
          | none => s
          | some (k, p) =>
            let s := dropArrival s k
            if respCause p = 0 then offerTaken s f (idMod p.src) else migrationRefused s id)
      | _ => s)
  | none =>
    match ((List.range s.net.arrivals.length).zip s.net.arrivals).find? fun x => x.2.kind == 8 with
    | some (k, p) => guestArrive s k p
    | none => s

/-- ALIGN_TIMEOUT (R53). -/
def alignTimeout (s : State) (n : Nat) : State :=
  match fibreOf s n with
  | some f => if f.run = .parked .align then complete s n none else s
  | none => s

/-- BARRIER_EPISODE_COMPLETE (R301, R92): a barrier whose members have all arrived and whose dies have all reported. -/
def episodeComplete (s : State) (b : Nat) : State :=
  match s.dist.barriers.find? fun x => barrierId x.grid x.key == b with
  | none => s
  | some x => if allArrived s x && (barrierDies s x).all (fun d => x.reports.contains d) then completeBarrier s x else s

/-- DIE_BARRIER_REPORT (R92): a die's tree has completed and reports to router die A. -/
def dieReport (s : State) (b die : Nat) : State :=
  match s.dist.barriers.find? fun x => barrierId x.grid x.key == b with
  | none => s
  | some x =>
    if (barrierDies s x).contains die && !x.reports.contains die && dieArrived s x die then
      setBarrier s { x with reports := x.reports ++ [die] }
    else s

/-- TLB_INVALIDATION_DONE (R308). -/
def tlbDone (s : State) (n : Nat) : State :=
  match fibreOf s n with
  | some f =>
    (match f.run with
      | .parked (.tlb sc m all va) => complete (tlbRemove s f sc m all va.toNat) n none
      | _ => s)
  | none => s

/-- SCOPEMASK_PROPAGATED (R303). -/
def maskDone (s : State) (n : Nat) : State :=
  match fibreOf s n with
  | some f =>
    (match f.run with
      | .parked (.mask k v) =>
        let t := tenantOf s f.ident.tenant.toNat
        complete (setTenant s f.ident.tenant.toNat { t with masks := tset t.masks k v }) n none
      | _ => s)
  | none => s

/-- CALLAT_ANSWER (R286): accepted, or QFULL as a trap of the CALLAT. -/
def callatAnswer (s : State) (n : Nat) : State :=
  match fibreOf s n with
  | some f =>
    (match f.run with
      | .parked (.callat target (some ok)) =>
        if ok then complete s n none else completeTrap s n cQFULL (BitVec.ofNat 64 target)
      | _ => s)
  | none => s

/-- Event LOAD_DATA_RETURN (R44). -/
def execLoadDataReturn (f p : Nat) (s : State) : Out := .next (dataReturn s f p)
/-- Event STORE_ACK (R171). -/
def execStoreAck (r : Nat) (wt : BitVec 64) (cause : BitVec 6) (s : State) : Out := .next (storeAck s r wt cause)
/-- Event HOME_REQUEST (R139). -/
def execHomeRequest (r : Nat) (hint : BitVec 8) (s : State) : Out := .next (homeRequest s r hint)
/-- Event REFUSAL_RETRY (R139). -/
def execRefusalRetry (r : Nat) (s : State) : Out := .next (refusalRetry s r)
/-- Event OWNERSHIP_GRANT (R140). -/
def execOwnershipGrant (rs : List Nat) (s : State) : Out := .next (ownershipGrant s rs)
/-- Event FE_WAIT_SERVED (R145). -/
def execFeWaitServed (r : Nat) (s : State) : Out := .next (feServed s r)
/-- Event PAGE_WALK_COMPLETE (R131). -/
def execPageWalkComplete (w : Nat) (s : State) : Out := .next (walkComplete s w)
/-- Event CLOCK_TICK (R167). -/
def execClockTick (s : State) : Out := .next (clockTick s)
/-- Event SPURIOUS_WAKE (R299). -/
def execSpuriousWake (f : Nat) (s : State) : Out := .next (spuriousWake s f)
/-- Event MIGRATION_ARRIVAL (R49). -/
def execMigrationArrival (f : Nat) (s : State) : Out := .next (migrationArrival s f)
/-- Event ALIGN_TIMEOUT (R53). -/
def execAlignTimeout (f : Nat) (s : State) : Out := .next (alignTimeout s f)
/-- Event BARRIER_EPISODE_COMPLETE (R301). -/
def execBarrierEpisodeComplete (b : Nat) (s : State) : Out := .next (episodeComplete s b)
/-- Event DIE_BARRIER_REPORT (R92). -/
def execDieBarrierReport (b die : Nat) (s : State) : Out := .next (dieReport s b die)
/-- Event TLB_INVALIDATION_DONE (R308). -/
def execTlbInvalidationDone (f : Nat) (s : State) : Out := .next (tlbDone s f)
/-- Event SCOPEMASK_PROPAGATED (R303). -/
def execScopemaskPropagated (f : Nat) (s : State) : Out := .next (maskDone s f)
/-- Event CALLAT_ANSWER (R286). -/
def execCallatAnswer (f : Nat) (s : State) : Out := .next (callatAnswer s f)

end Sys2Proof.Machine
end

