-- ==== Sys2Proof/Machine/Launch.lean ====
section
/-! DEFINITION. From launch to placement: submission and its checks, the host's windows, completion, the fit and claim of a placement
unit, victims, the distributor's turn, and task fibres (R28, R60-R79, R86, R91, R114, R287, R304). -/

namespace Sys2Proof.Machine

/-- Gang size of a stage (R69). -/
def stSize (e : StageEnt) : Nat := nf e.w.toNat 0 10 + 1
/-- Register budget. -/
def stBudget (e : StageEnt) : Nat := nf e.w.toNat 10 4
/-- Fibres per core. -/
def stFp (e : StageEnt) : Nat := nf e.w.toNat 14 6 + 1
/-- Scratchpad of each core in bytes. -/
def stSpad (e : StageEnt) : Nat := nf e.w.toNat 20 9 * 4096
/-- Tile entries of each core. -/
def stTiles (e : StageEnt) : Nat := nf e.w.toNat 29 7
/-- Whether each core needs its accumulator bank. -/
def stAcc (e : StageEnt) : Bool := nb e.w.toNat 36
/-- Whether each gang needs a route tag. -/
def stBtag (e : StageEnt) : Bool := nb e.w.toNat 37
/-- Cores of a gang: C of R69. -/
def stCores (e : StageEnt) : Nat := ceilDiv (stSize e) (stFp e)
/-- The incoming ring of stage `k`. -/
def stRing (e : StageEnt) (k : Nat) : Nat := if k = 0 then 0 else ringBytes e

/-- A launch's trigger scope. -/
def tscopeOf (l : Launch) : BitVec 4 := BitVec.ofNat 4 (nf l.flags.toNat 9 4)

/-- Whether a core is open to placement (R18, R74, R236). -/
def openCore (s : State) (c : Nat) : Bool := !gatewayClosed s c && !(coreOf s c).retired && !monitorOwn s c

/-- What a gang needs of one core (R74): fibre slots, registers, reservation bytes, tile entries, the bank, and for a resuming gang
the codebook table of its image. -/
structure Need where
  fibres : Nat
  regs : Nat
  len : Nat
  tiles : Nat
  acc : Bool
  book : Option (Tbl (BitVec 32))
  deriving DecidableEq, Repr

/-- The cores beyond an imaged gang's own that held fibres or task entries of its (R85). -/
def outerCores (g : Gang) (i : Image) : List Nat :=
  let far := i.tasks.filter fun t => decide (1024 ≤ t.1)
  let cs : List Nat := i.fibres.map (fun f => f.core) ++ far.map fun t => t.1 - 1024
  (cs.filter fun c => (coreIndex g c).isNone).eraseDups

/-- The place in its gang that a core of an image takes (R85): its own, or for a core beyond the gang's a place that all that shared it share
again, from the last on (DESIGN CHOICE, log entry 16). -/
def slotOfCore (g : Gang) (i : Image) (c : Nat) : Nat :=
  match coreIndex g c with
  | some k => k
  | none => g.cores.length - 1 - ((outerCores g i).findIdx? fun x => x == c).getD 0 % g.cores.length

/-- The place in its gang of a fibre of an image. -/
def imageSlot (g : Gang) (i : Image) (f : Fibre) : Nat := slotOfCore g i f.core

/-- The needs of a gang's cores in order (R74, R85); `img` is the gang as imaged when it resumes. A core that takes more fibres of the image
than its share needs room for them all (DESIGN CHOICE, log entry 64). -/
def needsOf (e : StageEnt) (st : Nat) (img : Option (Gang × Image)) : List Need :=
  (List.range (stCores e)).map fun k =>
    let share := if k + 1 < stCores e then stFp e else stSize e - stFp e * (stCores e - 1)
    let mine := match img with
      | some (g, i) => i.fibres.filter fun f => imageSlot g i f == k
      | none => []
    let book := img.map fun x => ((x.2.books.find? fun b => b.1 == k).map (·.2)).getD []
    ⟨max share mine.length, max (share * stBudget e) (mine.foldl (fun a f => a + f.ident.budget) 0),
      stSpad e + (if k = 0 then stRing e st else 0), stTiles e, stAcc e, book⟩

/-- The gangs that hold a core's resources. -/
def gangsOn (s : State) (c : Nat) : List Gang := s.dist.gangs.filter fun g => holdsCores g && g.cores.contains c

/-- The lowest of some starts at which a run of `len` below `lim` meets none of the held runs. -/
def gapAt (held : List (Nat × Nat)) (len lim : Nat) (starts : List Nat) : Option Nat :=
  let ok := starts.filter fun b => decide (b + len ≤ lim) && held.all fun h => decide (h.1 + h.2 ≤ b) || decide (b + len ≤ h.1)
  ok.foldl (fun (a : Option Nat) b => match a with
    | some x => some (min x b)
    | none => some b) none

/-- A place for a reservation on a core (log entry 15: the lowest that fits, on a 4 KiB boundary). -/
def spadGap (s : State) (c len : Nat) : Option Nat :=
  let held := (gangsOn s c).map fun g => let k := (coreIndex g c).getD 0; (g.spad.getD k 0, resLen g k)
  gapAt held len (2 ^ 20) (0 :: held.map fun h => ceilDiv (h.1 + h.2) 4096 * 4096)

/-- A place for a block of tile entries on a core (log entry 15). -/
def tileGap (s : State) (c n : Nat) : Option Nat :=
  let held := (gangsOn s c).map fun g => let k := (coreIndex g c).getD 0; (g.tile.getD k 0, g.tiles)
  gapAt held n 64 (0 :: held.map fun h => h.1 + h.2)

/-- Whether a core can hold a share (R74): the bases of the reservation and of the tile block. -/
def coreFit (s : State) (ten : BitVec 4) (n : Need) (c : Nat) : Option (Nat × Nat) :=
  let on := gangsOn s c
  if !openCore s c || otherTenant s c ten || decide (64 < (slotHolders s c).length + n.fibres)
    || decide (768 < reservedRegs s c + n.regs) || (n.acc && (on.any (fun g => g.acc) || (arrayOf s (clusterOf c)).retired)) then none
  else if (match n.book with
      | some b => !on.isEmpty && (coreOf s c).book != b
      | none => false) then none
  else match spadGap s c n.len, tileGap s c n.tiles with
    | some a, some b => some (a, b)
    | _, _ => none

/-- The cores that a gang's shares take, in increasing number (R74). -/
def pickCores (s : State) (ten : BitVec 4) (needs : List Need) (cs : List Nat) : Option (List (Nat × Nat × Nat)) :=
  match needs, cs with
  | [], _ => some []
  | _ :: _, [] => none
  | n :: ns, c :: r =>
    match coreFit s ten n c with
    | some x => (pickCores s ten ns r).map fun t => (c, x.1, x.2) :: t
    | none => pickCores s ten (n :: ns) r

/-- Whether a die's route tag is in use (R91). -/
def tagUsed (s : State) (t : Nat) : Bool :=
  s.dist.gangs.any (fun g => holdsCores g && g.dieTag == some t)
    || s.dist.grids.any fun x => x.dieTags.contains t && s.dist.gangs.any fun g =>
      holdsCores g && g.launch == x.launch && g.stage == x.stage

/-- A free route tag of a die. -/
def freeTag (s : State) (die : Nat) : Option Nat := ((List.range 8).map fun n => die * 8 + n).find? fun t => !tagUsed s t

/-- Whether a die has the tag that a gang needs (R74), and beside it, for a co-resident unit, the further tag that its grid
is given on every die it spans (R91). -/
def tagRoom (s : State) (l : Launch) (e : StageEnt) (die : Nat) : Bool :=
  !stBtag e || decide ((if coResident l then 2 else 1) ≤ (((List.range 8).map fun n => die * 8 + n).filter fun t => !tagUsed s t).length)

/-- A free module tag (R91). -/
def freeModTag (s : State) : Option Nat := (List.range 8).find? fun n => !(s.dist.grids.any fun x => x.modTag == some n
  && s.dist.gangs.any fun g => holdsCores g && g.launch == x.launch && g.stage == x.stage)

/-- The clusters in the order R74 tries them. -/
def clusterOrder (s : State) (l : Nat) (st glin : Nat) : List Nat :=
  let prev := if st = 0 then none else s.dist.gangs.find? fun g => g.launch == l && g.stage + 1 == st && g.glin == glin && holdsCores g
  let near := match prev with
    | some g =>
      let c := clusterOf (g.cores.headD 0)
      (c / 16 * 16 + (c + 1) % 16) :: (List.range 16).map fun i => c / 16 * 16 + i
    | none => []
  near ++ (List.range 64).map fun i => (s.dist.lastCluster + 1 + i) % 64

/-- A resident gang's fibres are put into the state with the numbers they have. -/
def putFibre (s : State) (f : Fibre) : State := if s.fib.run = .exited then { s with fib := f } else { s with fibres := s.fibres ++ [f] }

/-- A placed fibre at its start (R36, R38, R57). R38 makes g1 and g2 live, also where the budget is 1: the fibre then starts with more live
registers than R39 allows it (DESIGN CHOICE, log entry 68). -/
def placedFibre (l : Launch) (g : Gang) (e : StageEnt) (i : Nat) : Fibre :=
  let x := gridX l
  let y := gridY l
  { writeShort (writeShort Fibre.blank 1 l.args) 2 (BitVec.ofNat 64 stageWindow) with
    core := g.cores.getD (i / stFp e) 0
    run := .starting
    pc := e.entry
    dchk := nb l.flags.toNat 7
    hzchk := nb l.flags.toNat 8
    ident := { Ident.none with
      kind := .placed
      tenant := l.ten
      gang := some g.id
      launch := l.num
      fcoord := BitVec.ofNat 64 (g.glin % x + g.glin / x % y * 2 ^ 20 + g.glin / (x * y) * 2 ^ 40)
      gangid := BitVec.ofNat 64 (g.glin + i * 2 ^ 20 + (stSize e - 1) * 2 ^ 30 + l.num * 2 ^ 40)
      fstage := BitVec.ofNat 64 (g.stage + (l.stages.length - 1) * 8)
      budget := stBudget e
      tscope := tscopeOf l } }

/-- A claimed core (R76, R114, R147): its reservation reads as zero with every word empty, its tile entries are at their reset, and a
codebook table is installed where no other gang is resident. -/
def claimCore (s : State) (g : Gang) (k : Nat) (book : Tbl (BitVec 32)) : State :=
  let c := g.cores.getD k 0
  let pa := spadPa s c (g.spad.getD k 0)
  let n := resLen g k
  let x := coreOf s c
  let t0 := g.tile.getD k 0
  let s := setCore s c { x with
    tiles := x.tiles.filter fun e => decide (e.1 < t0) || decide (t0 + g.tiles ≤ e.1)
    book := if (gangsOn s c).isEmpty then book else x.book }
  let s := { s with ms := { s.ms with
    mem := mzero s.ms.mem pa n
    full := sDelRange s.ms.full (pa / 8) (ceilDiv n 8)
    poison := sDelRange s.ms.poison (pa / 8) (ceilDiv n 8) } }
  raiseClock s c (clockOf s 1088)

/-- The clusters whose walkers a resuming gang takes: its own, and for walkers that its migrated fibres held elsewhere the lowest others that
are free (DESIGN CHOICE, log entry 16). -/
def walkSpots (s : State) (cl n : Nat) : List Nat :=
  (cl :: (List.range 64).filter fun c => c != cl && (walkerOf s c).gang.isNone).take n

/-- Whether a resuming gang that holds walkers would find its cluster's in use, or too few free (log entry 16). -/
def walkTaken (s : State) (cl : Nat) (img : Option (Gang × Image)) : Bool :=
  match img with
  | some (_, i) => !i.walkers.isEmpty && ((walkerOf s cl).gang.isSome || decide ((walkSpots s cl i.walkers.length).length < i.walkers.length))
  | none => false

/-- A resuming gang's walkers are its own from its claim on. -/
def claimWalkers (s : State) (g cl : Nat) (i : Image) : State :=
  (walkSpots s cl i.walkers.length).foldl (fun s c => setWalker s c { Walker.reset with gang := some g }) s

/-- The claim of one gang (R74, R76, R77), or of a gang resuming from its image (R85): its fibres are Starting until it completes. -/
def claimGang (s : State) (l : Launch) (st glin : Nat) (old : Option Gang) : Option State :=
  let e := stageOf l st
  let img := match old with
    | some g => g.image.map fun i => (g, i)
    | none => none
  let needs := needsOf e st img
  match (clusterOrder s l.num st glin).findSome? fun cl =>
      if !tagRoom s l e (cl / 16) then none
      else if walkTaken s cl img then none
      else (pickCores s l.ten needs ((List.range 16).map fun i => cl * 16 + i)).map fun x => (cl, x) with
  | none => none
  | some (cl, xs) =>
    let tag := if stBtag e then freeTag s (cl / 16) else none
    let (n, s1) := freshId s
    let g : Gang := ⟨(old.map (·.id)).getD n, l.num, l.ten, st, glin, .placing, xs.map (·.1), xs.map (·.2.1), stSpad e, stRing e st,
      xs.map (·.2.2), stTiles e, stAcc e, tag, false, old.bind (·.image), old.bind (·.last), old.bind (·.region), false⟩
    let s2 := (List.range xs.length).foldl (fun s k => claimCore s g k (((needs.getD k ⟨0, 0, 0, 0, false, none⟩).book).getD [])) s1
    let s2 := { s2 with dist := { s2.dist with
      gangs := if old.isSome then modWhere (fun x => x.id == g.id) (fun _ => g) s2.dist.gangs else s2.dist.gangs ++ [g]
      lastCluster := cl } }
    some (match img with
      | none => (List.range (stSize e)).foldl (fun s i => addFibre s (placedFibre l g e i)) s2
      | some (o, i) =>
        let s2 := claimWalkers s2 g.id cl i
        let s3 := i.fibres.foldl (fun s f => putFibre s { f with
          core := g.cores.getD (imageSlot o i f) 0
          run := .starting }) s2
        let s4 := (List.range xs.length).foldl (fun s k => raiseClock s (g.cores.getD k 0) (i.clocks.getD k 0)) s3
        i.fibres.foldl (fun s f => raiseClock s (g.cores.getD (imageSlot o i f) 0) (tget 0 i.fclocks f.id)) s4)

/-- A placement unit: a gang or a stage's grid not placed before, or imaged gangs that resume together. -/
inductive PUnit where
  | fresh (k : Nat)
  | imaged (gs : List Gang)
  deriving DecidableEq, Repr

/-- Claim several gangs one after the other. -/
def claimAll (s : State) (l : Launch) (xs : List (Nat × Nat × Option Gang)) : Option State :=
  match xs with
  | [] => some s
  | x :: r =>
    match claimGang s l x.1 x.2.1 x.2.2 with
    | none => none
    | some t => claimAll t l r

/-- The grid tag of a co-resident stage (R91). -/
def claimGrid (s : State) (l : Launch) (st : Nat) : Option State :=
  if !stBtag (stageOf l st) then some s
  else
    let ds := (List.range 4).filter fun d => s.dist.gangs.any fun g => g.launch == l.num && g.stage == st && holdsCores g
      && g.cores.any fun c => dieOf c == d
    let tags := ds.filterMap (freeTag s)
    let mod := if ds.length ≤ 1 then none else freeModTag s
    if tags.length < ds.length ∨ (1 < ds.length ∧ mod.isNone = true) then none
    else some { s with dist := { s.dist with
      grids := ⟨l.num, st, tags, mod⟩ :: s.dist.grids.filter fun x => !(x.launch == l.num && x.stage == st) } }

/-- The claim of a unit (R74, R76), none when it does not fit. -/
def claimUnit (s : State) (l : Launch) (u : PUnit) : Option State :=
  match u with
  | .fresh k =>
    if coResident l then
      (claimAll s l ((List.range (gridSize l)).map fun g => (k, g, none))).bind fun t => claimGrid t l k
    else claimAll s l [(k % l.stages.length, k / l.stages.length, none)]
  | .imaged gs =>
    (claimAll s l (gs.map fun g => (g.stage, g.glin, some g))).bind fun t =>
      if coResident l then claimGrid t l ((gs.map (·.stage)).headD 0) else some t

/-- The number of units of a launch. -/
def unitCount (l : Launch) : Nat := if coResident l then l.stages.length else l.stages.length * gridSize l

/-- Change a launch. -/
def modLaunch (s : State) (n : Nat) (f : Launch → Launch) : State :=
  { s with dist := { s.dist with launches := modWhere (fun x => x.num == n) f s.dist.launches } }

/-- Imaged gangs of a launch that may resume (R75, R310): a co-resident stage's only all together. -/
def resumable (s : State) (l : Launch) : Option (List Gang) :=
  let im := (launchGangs s l.num).filter fun g => g.st == .imaged && !g.suspended
  match im with
  | [] => none
  | g :: _ =>
    if coResident l then
      let fits := im.filter fun x =>
        (launchGangs s l.num).all fun y => y.stage != x.stage || y.st == .done || (y.st == .imaged && !y.suspended)
      match fits with
      | [] => none
      | x :: _ => some (fits.filter fun y => y.stage == x.stage)
    else some [g]

/-- Whether a launch's predecessor lets it be placed (R60, R75). -/
def predReady (s : State) (l : Launch) : Bool :=
  match l.pred with
  | none => true
  | some n => match launchOf s n with
    | none => true
    | some p => p.st == .triggered || p.st == .done

/-- The first ready unit of a launch in placement order (R75, R243). -/
def readyUnit (s : State) (l : Launch) : Option PUnit :=
  if l.st = .done then none
  else match resumable s l with
    | some gs => some (.imaged gs)
    | none =>
      if (l.st = .queued ∨ l.st = .running) ∧ l.placed < unitCount l ∧ predReady s l = true ∧ (tenantOf s l.ten.toNat).en = true
        ∧ (launchGangs s l.num).all (fun g => g.st != .imaged || g.suspended) = true then some (.fresh l.placed) else none

/-- The launches with a ready unit at a priority, oldest first. -/
def readyAt (s : State) (p : Nat) : List Launch := s.dist.launches.filter fun l => prioOf l == p && (readyUnit s l).isSome

/-- The granules of a gang's image in switch memory (log entry 16): its reservations and banks, and one for the rest. -/
def imageGranules (g : Gang) : Nat :=
  1 + ceilDiv ((List.range g.cores.length).foldl (fun a k => a + resLen g k) 0 + (if g.acc then g.cores.length * 65536 else 0)) 65536

/-- Room for a gang's image in its tenant's switch memory quota (R80, R151): images there are mirrored and count twice (R438). -/
def switchRoom (s : State) (g : Gang) : Option (Nat × Nat) :=
  let t := tenantOf s g.ten.toNat
  if t.imgsm && decide (usedBy s g.ten + 2 * imageGranules g ≤ t.quota.toNat) then placeRun s (imageGranules g) true else none

/-- The image region of a gang, taken with its first image and kept (R80): in switch memory, else in pooled memory, whose space for images
never runs out while a CXL port is enabled (DESIGN CHOICE, log entry 16); none when the tenant's image store cannot hold the image. -/
def takeRegion (s : State) (g : Gang) : Option (Option Nat × State) :=
  match g.region with
  | some r => some (r, s)
  | none =>
    match switchRoom s g with
    | some (d, x) => some (some (d * 8192 + x), { s with
      allocs := s.allocs ++ [⟨d, x, imageGranules g, true, g.ten, 0, 0, false, true⟩] })
    | none => if s.dev.cxlen = 0 then none else some (none, s)

/-- The image store with the images of several gangs, none when it cannot hold them all (R79). -/
def storeAll (s : State) (gs : List Gang) : Option State :=
  match gs with
  | [] => some s
  | g :: r => match takeRegion s g with
    | some x => storeAll x.2 r
    | none => none

/-- The gangs that are being imaged have their image regions (R79, R80). -/
def pledge (s : State) : State :=
  (s.dist.gangs.filter fun g => g.st == .imaging).foldl (fun s g => match takeRegion s g with
    | some (r, t) => modGang t g.id fun g => { g with region := some r }
    | none => s) s

/-- The state without what some gangs hold. -/
def freed (s : State) (ids : List Nat) : State :=
  let gone := fun (f : Fibre) => match f.ident.gang with
    | some g => ids.contains g
    | none => false
  { s with
    fib := if gone s.fib then Fibre.blank else s.fib
    fibres := s.fibres.filter fun f => !gone f
    dist := { s.dist with gangs := s.dist.gangs.filter fun g => !ids.contains g.id } }

/-- Whether a victim goes before another (R79): the youngest launch, then the highest GLIN, then the higher stage (DESIGN CHOICE,
log entry 64). -/
def youngerGang (s : State) (a b : Gang) : Bool :=
  let pos := fun (g : Gang) => (s.dist.launches.findIdx? fun l => l.num == g.launch).getD 0
  decide (pos b < pos a) || (pos a == pos b && (decide (b.glin < a.glin) || (a.glin == b.glin && decide (b.stage < a.stage))))

/-- The gangs that may be victims for priority `p` (R78, R79), in their order; `cl` names one cluster. -/
def victimList (s : State) (p : Nat) (cl : Option Nat) : List Gang :=
  sortBy (youngerGang s) (s.dist.gangs.filter fun g => g.st == .resident
    && (match launchOf s g.launch with
      | some l => decide (p < prioOf l)
      | none => false)
    && (match cl with
      | some c => clusterOf (g.cores.headD 0) == c
      | none => true))

/-- The first of some gangs, in their order, whose imaging lets a unit fit, with those already chosen `ids` and those already Imaging (R79).
A gang is taken with its co-resident grid; one whose images the store cannot hold with the others is no candidate. `st` is the state
with the image regions of those chosen. -/
def victimsFrom (s : State) (l : Launch) (u : PUnit) (gs : List Gang) (st : State) (ids : List Nat) : Option (List Nat) :=
  let base := (s.dist.gangs.filter fun g => g.st == .imaging).map (·.id)
  if (claimUnit (freed s (base ++ ids)) l u).isSome then some ids
  else match gs with
    | [] => none
    | g :: r =>
      let more := (withGrids s [g.id]).filter fun n => !ids.contains n
      match storeAll st (more.filterMap (gangOf s)) with
      | some x => victimsFrom s l u r x (ids ++ more)
      | none => victimsFrom s l u r st ids

/-- The victims among a list's gangs (R79). -/
def victimsNeeded (s : State) (l : Launch) (u : PUnit) (gs : List Gang) : Option (List Nat) := victimsFrom s l u gs s []

/-- Victims (R79): the cluster that needs the fewest, the lowest on a tie; a unit that no one cluster's gangs make room for takes them
from every cluster in the same order (log entry 17). Image regions are taken when the victims are chosen. -/
def victims (s : State) (l : Launch) (u : PUnit) (p : Nat) : State :=
  let s := pledge s
  let per := (List.range 64).filterMap fun c => (victimsNeeded s l u (victimList s p (some c)))
  let best := per.foldl (fun (a : Option (List Nat)) x => match a with
    | none => some x
    | some y => if x.length < y.length then some x else some y) none
  match best with
  | some ids => pledge (startImaging s ids)
  | none => match victimsNeeded s l u (victimList s p none) with
    | some ids => pledge (startImaging s ids)
    | none => s

/-- The launch that a turn serves at a priority (R75): the tenants take turns, and a unit that waits for its victims stays first. -/
def servedLaunch (s : State) (ls : List Launch) (p : Nat) : Option Launch :=
  match (s.dist.waiting.find? fun w => w.1 == p).bind fun w => ls.find? fun l => l.num == w.2 with
  | some l => some l
  | none =>
    let last := tget 15 s.dist.last p
    (List.range 16).findSome? fun i => ls.find? fun l => l.ten.toNat == (last + 1 + i) % 16

/-- What remains after a unit's claim: its launch has begun, and no longer waits first at its priority. -/
def unitPlaced (s : State) (l : Launch) (u : PUnit) : State :=
  let s := { s with dist := { s.dist with waiting := s.dist.waiting.filter fun w => w.2 != l.num } }
  modLaunch s l.num fun x => { x with
    st := if x.st = .queued then .running else x.st
    placed := match u with
      | .fresh k => k + 1
      | .imaged _ => x.placed }

/-- DISTRIBUTOR_TURN (R75-R79): nothing while a claim is in progress. -/
def turn (s : State) : State :=
  if s.dist.gangs.any fun g => g.st == .placing then s
  else match (List.range 8).find? fun p => !(readyAt s p).isEmpty with
    | none => s
    | some p =>
      match servedLaunch s (readyAt s p) p with
      | none => s
      | some l =>
        match readyUnit s l with
        | none => s
        | some u =>
          let s := { s with dist := { s.dist with last := tset s.dist.last p l.ten.toNat } }
          match claimUnit s l u with
          | some t => unitPlaced t l u
          | none =>
            if s.dist.gangs.any fun g => g.st == .resident && match launchOf s g.launch with
              | some x => decide (p < prioOf x)
              | none => false
            then victims { s with dist := { s.dist with waiting := tset s.dist.waiting p l.num } } l u p
            else s

/-- Eight bytes that the distributor reads for a tenant (R71): translated through its root at user level. -/
def distRead (s : State) (ten : BitVec 4) (va : Nat) : Option (Word × State) :=
  match translateAgent s noTlb ten 0 .load (va % 2 ^ 64) with
  | .ok a =>
    if regionOf a.pa = 5 then some (devReg s (a.pa % 2 ^ 24), s)
    else if isOwnMem s a.pa = false then
      (if isRemote s a.pa ∧ (unreachable s (paMod a.pa)).isSome = true then none else some (takeFree s))
    else if (regionOf a.pa = 3 ∧ mayReach s ten 0 a.pa = false) ∨ switchOther s ten a.pa = true ∨ homeLost s a.pa = true ∨ poisoned s a.pa 8 = true then none
    else some (wordN 8 (rdHome s a.pa 8), s)
  | _ => none

/-- A stage table of `n` entries. -/
def readStages (n : Nat) (s : State) (ten : BitVec 4) (va : Nat) (acc : List StageEnt) : Option (List StageEnt × State) :=
  match n with
  | 0 => some (acc, s)
  | k + 1 =>
    match distRead s ten va with
    | none => none
    | some (e, s) =>
      match distRead s ten (va + 8) with
      | none => none
      | some (w, s) => readStages k s ten (va + 16) (acc ++ [⟨e, w⟩])

/-- R71 step 2: whether the record's fields are refused. -/
def recordBad (ws : List Word) : Bool :=
  let w := fun k => (ws.getD k 0).toNat
  nf (w 2) 60 4 != 0 || nf (w 3) 26 38 != 0 || w 6 != 0 || decide (nf (w 3) 9 4 < 2) || decide (6 < nf (w 3) 9 4)
    || decide (2 ^ 20 < (nf (w 2) 0 20 + 1) * (nf (w 2) 20 20 + 1) * (nf (w 2) 40 20 + 1)) || w 1 % 16 != 0 || w 4 % 8 != 0

/-- R71 step 4: whether a stage table entry is refused. -/
def entryRefused (e : StageEnt) : Bool :=
  nf e.w.toNat 55 9 != 0 || e.entry.toNat % 4 != 0 || stBudget e == 0 || decide (64 < stTiles e) || decide (2 ^ 20 < stSpad e)

/-- The module with no other work resident. -/
def idle (s : State) : State :=
  { s with
    fib := Fibre.blank
    fibres := []
    dist := { s.dist with
      gangs := []
      grids := [] } }

/-- R71 step 5. -/
def tooBig (s : State) (l : Launch) : Bool :=
  let open1 := fun cl => ((List.range 16).filter fun i => !gatewayClosed s (cl * 16 + i) && !(coreOf s (cl * 16 + i)).retired).length
  let most := ((List.range 64).map open1).foldl max 0
  (List.range l.stages.length).any fun k =>
    let e := stageOf l k
    decide (most < stCores e) || decide (768 < stFp e * stBudget e) || decide (2 ^ 20 < stSpad e + stRing e k)
      || (coResident l && (claimUnit (idle s) l (.fresh k)).isNone)

/-- A launch number not in use (R36, R70): the next free one of a rolling counter of 23 bits that passes over 0 (DESIGN CHOICE, log
entry 64). -/
def freeLaunch (s : State) (n fuel : Nat) : Nat :=
  match fuel with
  | 0 => n
  | k + 1 => if n = 0 ∨ (launchOf s n).isSome = true then freeLaunch s ((n + 1) % 2 ^ 23) k else n

/-- The predecessor that a record names (R72). -/
def predOf (s : State) (ten : BitVec 4) (w3 w7 : Nat) : Option Launch :=
  if nb w3 13 then (s.dist.launches.filter fun l => l.ten == ten && l.ltag.toNat == w7 / 2 ^ 32 && l.st != .done).getLast? else none

/-- A submission (R70-R72): the state and the result word. -/
def submit (s : State) (ten : BitVec 4) (ws : List Word) : State × Word :=
  let w := fun k => ws.getD k 0
  if (tenantOf s ten.toNat).en = false then (s, 2)
  else if recordBad ws then (s, 1)
  else match readStages (nf (w 3).toNat 3 3 + 1) s ten (w 1).toNat [] with
    | none => (s, 4)
    | some (st, s) =>
      let n := freeLaunch s s.dist.nextLaunch (s.dist.launches.length + 2)
      let pred := predOf s ten (w 3).toNat (w 7).toNat
      let l : Launch := ⟨n, ten, w 0, w 2, w 3, w 4, w 5, BitVec.ofNat 32 (w 7).toNat, pred.map (·.num), (pred.map tscopeOf).getD 0, st,
        .queued, 0⟩
      if st.any entryRefused then (s, 1)
      else if tooBig s l then (s, 3)
      else if 256 ≤ (s.dist.launches.filter fun x => x.ten == ten && prioOf x == prioOf l && x.st == .queued).length then (s, 2)
      else
        let k := ten.toNat * 8 + prioOf l
        ({ s with dist := { s.dist with
          launches := s.dist.launches ++ [l]
          nextLaunch := (n + 1) % 2 ^ 23
          accepted := tset s.dist.accepted k (tget 0 s.dist.accepted k + 1) } }, BitVec.ofNat 64 (n * 256))

/-- LAUNCH from its wait for the fibre's earlier accesses on (R304). -/
def launchEff (t : State) (va : Word) (d : Reg) : Eff :=
  if !allPerformed t t.fib.id then .later .accesses (.launch va) t
  else goOn (.launch va) (readBlock 8 (releaseAt t t.fib.ident.tenant t.fib.core 4) va [] fun t ws =>
    let t := raiseClock t 1088 (clockOf t t.fib.core)
    let r := submit t t.fib.ident.tenant ws
    .done (setLong r.1 d r.2 0))

/-- LAUNCH (R304). -/
def execLaunch (y : Bool) (gd ga : BitVec 4) (la : Bool) (s : State) : Out :=
  let i := Instr.launch y gd ga la
  issue s ⟨i, y, false, 0, noHandler i, [(ga, la)], gd, true⟩ fun t v =>
    if !aligned (arg v 0) 64 then .trap cALIGN (arg v 0) else launchEff t (arg v 0) gd

/-- The doublewords of a window's record. -/
def windowWords (b : Tbl Byte) : List Word :=
  (List.range 8).map fun k => BitVec.ofNat 64 (leNat ((List.range 8).map fun i => tget 0 b (8 * k + i)))

/-- HOST_LAUNCH_WRITE (R28, R29, R70, R234). -/
def hostLaunch (s : State) (ten : BitVec 4) (off : Nat) (bytes : List Byte) : State :=
  if s.dev.go = false ∨ (tenantOf s ten.toNat).en = false then countViolation s
  else
    let w := tget Window.reset s.dist.windows ten.toNat
    let put := fun (a : Window) (i : Nat) =>
      if off + i < 64 then { a with
        bytes := tset a.bytes (off + i) (bytes.getD i 0)
        mask := if 56 ≤ off + i then a.mask ||| BitVec.ofNat 8 (2 ^ (off + i - 56)) else a.mask }
      else a
    let w := (List.range bytes.length).foldl put w
    let keep := fun (s : State) (w : Window) => { s with dist := { s.dist with windows := tset s.dist.windows ten.toNat w } }
    if w.mask = 0xFF then
      let r := submit s ten (windowWords w.bytes)
      keep r.1 { w with
        mask := 0
        result := r.2 }
    else keep s w

/-- A tenant's MSI-X table entry; masked at reset (log entry 3). -/
def msixEntry (s : State) (k : Nat) : BitVec 128 := tget (BitVec.ofNat 128 (2 ^ 96)) s.host.msix k

/-- An MSI-X message is sent, or waits for its vector to be unmasked (R28). -/
def raiseVector (s : State) (ten : BitVec 4) (vec : Nat) : State :=
  let k := ten.toNat * 2048 + vec
  let e := (msixEntry s k).toNat
  if nb e 96 then { s with host := { s.host with pendingIrq := sAdd s.host.pendingIrq k } }
  else { s with host := { s.host with
    pendingIrq := sDel s.host.pendingIrq k
    sent := s.host.sent ++ [(k, BitVec.ofNat 64 e, BitVec.ofNat 32 (nf e 64 32))] } }

/-- HOST_MSIX_ENTRY_WRITE (R28, R29): bytes of an entry; unmasking a vector whose bit is pending sends its message. -/
def hostMsix (s : State) (ten : BitVec 4) (vec off : Nat) (bytes : List Byte) : State :=
  if (tenantOf s ten.toNat).en = false then countViolation s
  else if 2048 ≤ vec ∨ 16 < off + bytes.length then s
  else
    let k := ten.toNat * 2048 + vec
    let e := (msixEntry s k).toNat
    let n := 8 * bytes.length
    let v := e - nf e (8 * off) n * 2 ^ (8 * off) + leNat bytes * 2 ^ (8 * off)
    let s := { s with host := { s.host with msix := tset s.host.msix k (BitVec.ofNat 128 v) } }
    if sHas s.host.pendingIrq k && !nb v 96 then raiseVector s ten vec else s

/-- The completion word's store (R73, R71): a failure drops it and is counted. -/
def storeCompletion (s : State) (l : Launch) : State :=
  if l.cpladdr = 0 then s
  else match translateAgent s noTlb l.ten 0 .store l.cpladdr.toNat with
    | .ok a =>
      if isRemote s a.pa then
        (match unreachable s (paMod a.pa) with
          | some _ => countDrop s
          | none => sendFar s .nobody 1 { blankReq s 1088 l.ten .store 0 8 a.pa l.cpladdr with
              gr := a.gr
              data := l.cplval
              rel := some 6 } (ownIdent s 0x448))
      else if (regionOf a.pa = 3 ∧ mayReach s l.ten 0 a.pa = false) ∨ switchOther s l.ten a.pa = true then countDrop s
      else if regionOf a.pa = 5 then devWrite s false (a.pa % 2 ^ 24) 8 l.cplval
      else if regionOf a.pa = 4 then { s with host := { s.host with writes := s.host.writes ++ [(a.pa % 2 ^ 48, 8, l.cplval)] } }
      else if homeLost s a.pa then countDrop s
      else
        let s := flushAll s fun x => lineBase a.gr x == lineBase a.gr a.pa
        let p := scStoreTs (wrHome s a.pa 8 l.cplval.toNat) (lineKey a.gr a.pa) (clockOf s 1088)
        p.2
    | _ => countDrop s

/-- A completed launch leaves the distributor, with its gangs, their grid tags and image regions (R63, R80). -/
def forget (s : State) (n : Nat) : State :=
  let s := (launchGangs s n).foldl (fun s g => freeRegion s g.region) s
  { s with
    dist := { s.dist with
      launches := s.dist.launches.filter fun l => l.num != n
      gangs := s.dist.gangs.filter fun g => g.launch != n
      grids := s.dist.grids.filter fun x => x.launch != n
      barriers := s.dist.barriers.filter fun b => !(b.grid && b.key / 8 == n) } }

/-- LAUNCH_COMPLETION (R73): accesses performed at system scope, the completion word, the interrupt. -/
def launchDoneSteps (s : State) (n : Nat) : State :=
  match launchOf s n with
  | none => s
  | some l =>
    if l.st ≠ .done then s
    else
      let s := storeCompletion (flushAll s fun _ => true) l
      let s := if nb l.flags.toNat 14 then raiseVector s l.ten (nf l.flags.toNat 15 11) else s
      forget s n

/-- A task fibre at its start (R287), of a launch of this module by number, or of a gang of another (R51), whose return word its home
stores. -/
def taskFibre (core : Nat) (t : Task) (l : Nat) : Fibre :=
  let far := t.guest.isSome
  let f := (List.range t.args.length).foldl (fun f i => writeShort f (BitVec.ofNat 4 (i + 1)) (t.args.getD i 0)) Fibre.blank
  { f with
    core := core
    run := .eligible
    pc := t.pc
    dchk := t.lflags.getLsbD 2
    hzchk := t.lflags.getLsbD 3
    ident := { Ident.none with
      kind := .task
      tenant := t.ten
      gang := if far then none else some t.gang
      launch := l
      fcoord := t.fcoord
      gangid := t.gangid
      fstage := t.fstage
      budget := t.budget
      tscope := t.tscope
      ret := t.ret
      retScope := if far then 5 else t.retScope
      node := t.node
      guest := t.guest
      lflags := if far then t.lflags else 0 } }

/-- The launch under which a queued task may start: its gang is Resident, or lies on another module that has given the task its number
(R51, R287). -/
def taskLaunch (s : State) (t : Task) : Option Nat :=
  match t.guest with
  | some (_, n) => if n = 0 then none else some 0
  | none => (gangOf s t.gang).bind fun g => if g.st = .resident then some g.launch else none

/-- TASK_START (R86, R287, R424): the head entry of a core's queue becomes a fibre of its gang when the core has the room; its start is an acquire
at Sc. -/
def taskStart (s : State) (core : Nat) : State :=
  match (coreOf s core).taskq with
  | [] => s
  | t :: r =>
    match taskLaunch s t with
    | none => s
    | some l =>
      if roomFor s core t.budget = true ∧ otherTenant s core t.ten = false ∧ (coreOf s core).retired = false then
        let s := setCore s core (refill { coreOf s core with taskq := r })
        addFibre (acquireAt s t.ten core t.retScope) (taskFibre core t l)
      else s

/-- Event HOST_LAUNCH_WRITE (R70). -/
def execHostLaunchWrite (ten : BitVec 4) (off : Nat) (bytes : List (BitVec 8)) (s : State) : Out := .next (hostLaunch s ten off bytes)
/-- Event HOST_MSIX_ENTRY_WRITE (R28). -/
def execHostMsixEntryWrite (ten : BitVec 4) (vec off : Nat) (bytes : List (BitVec 8)) (s : State) : Out :=
  .next (hostMsix s ten vec off bytes)
/-- Event DISTRIBUTOR_TURN (R75). -/
def execDistributorTurn (s : State) : Out := .next (turn s)
/-- Event LAUNCH_COMPLETION (R73). -/
def execLaunchCompletion (l : Nat) (s : State) : Out := .next (launchDoneSteps s l)
/-- Event TASK_START (R86). -/
def execTaskStart (core : Nat) (s : State) : Out := .next (taskStart s core)

end Sys2Proof.Machine
end

