-- ==== Sys2Proof/Machine/Image.lean ====
section
/-! DEFINITION. Images: closing one, and a gang's resumption or start when its claim completes (R59, R61, R76, R77, R80-R85, R114, R310,
R339, R345, R400, R404). -/

namespace Sys2Proof.Machine

/-- Whether a fibre belongs to a gang and is still on this module. -/
def inGang (g : Nat) (f : Fibre) : Bool :=
  f.ident.gang == some g && match f.run with
    | .exited => false
    | .away _ => false
    | _ => true

/-- Whether a fibre has already taken a slot of the GBEL that it waits in (R231). -/
def slotsBegun (f : Fibre) : Bool :=
  match f.run with
  | .parked (.job _ _ _ _ (.belief _ _ _ _ _ _)) => f.words.any fun w => w.op == 2
  | _ => false

/-- Whether a fibre's wait lets its gang's image close (R81, R82, R345): the waits of R82 and those in which nothing has been
performed; the bounded waits end first, and words that other modules have been asked for come first. -/
def waitCloses (s : State) (f : Fibre) : Bool :=
  match f.run with
  | .migrating _ _ => false
  | .parked w => !slotsBegun f
    && (match plainWait w with
      | .walk n => n == 0
      | .req r => s.ms.reqs.any fun q => q.id == r && q.arrived && q.rem.isNone
      | .trap _ _ => false
      | .doom => false
      | .closing _ => false
      | .fetch => f.words.all fun w => w.here
      | .callat _ _ => false
      | .vector => false
      | .codebook _ => false
      | .image _ => false
      | .tlb _ _ _ _ => false
      | .mask _ _ => false
      | .free _ => false
      | .post => false
      | .cancel _ => false
      | .amsg _ => false
      | .rewrite _ => false
      | .offer _ _ => false
      | _ => true)
  | _ => true

/-- Whether a fibre has come to a boundary with its issued instructions completed and its accesses performed (R81). -/
def fibreCloses (s : State) (f : Fibre) : Bool :=
  waitCloses s f && allReady f && s.ms.reqs.all fun q => q.fib != f.id || f.run == .parked (.req q.id)

/-- Whether the commands that the gang's fibres, exited ones among them, have issued to the engines have drained (R81). -/
def enginesClose (s : State) (g : Gang) : Bool :=
  let mine := fun (n : Nat) => (allFibres s).any fun f => f.id == n && inGang g.id f
  !(s.cores.any (fun c => c.2.fifo.any (fun x => x.gang == some g.id) || c.2.vec.any fun x => mine x.fib)
    || s.idxCmds.any (fun c => c.gang == some g.id)
    || s.recvs.any (fun e => e.2.pulls.any (fun p => p.recv.gang == some g.id) || e.2.posting.any fun p => p.2.2.gang == some g.id)
    || (arrayOf s (clusterOf (g.cores.headD 0))).cmds.any fun c => g.cores.contains c.core && (fibreOf s c.fib).isNone)

/-- A fibre as its image holds it, with the state it resumes in (R82): what was withdrawn issues again, a WAITA has status 3, an ALIGN
has ended. -/
def imagedFibre (s : State) (f0 : Fibre) : Fibre :=
  let f := { drain f0 with recalled := false }
  let again := { f with
    run := .eligible
    words := []
    heldFree := 0
    heldDest := 0 }
  match f.run with
  | .parked w =>
    (match w with
      | .req r => if s.ms.reqs.any (fun q => q.id == r && q.kind == .waita) then completeIn f (some 3) else again
      | .align => completeIn f none
      | .barrier _ => f
      | .store => f
      | _ => again)
  | _ => { f with run := .eligible }

/-- The lease of a gang and its commands, or those of a resumed holder that still asks (R339). -/
def leaseOf (s : State) (g : Gang) : Option Lease × List MCmd :=
  let a := arrayOf s (clusterOf (g.cores.headD 0))
  let mine := fun (n : Nat) => (allFibres s).any fun f => f.id == n && inGang g.id f
  match a.lease with
  | some l =>
    if mine l.fib then (some l, a.cmds)
    else match a.wait.find? fun q => q.again && mine q.fib with
      | some q => (some ⟨q.fib, 0, q.bound, q.rel⟩, q.cmds)
      | none => (none, [])
  | none => match a.wait.find? fun q => q.again && mine q.fib with
    | some q => (some ⟨q.fib, 0, q.bound, q.rel⟩, q.cmds)
    | none => (none, [])

/-- Whether a physical address lies in a gang's reservation (R84). -/
def inReservation (s : State) (g : Gang) (pa : Nat) : Bool :=
  regionOf pa == 3 && !isRemote s pa && gangHolds g (spadCore pa) (pa % 2 ^ 20)

/-- Whether a posted receive is withdrawn with a gang (R84). -/
def recvWithdrawn (s : State) (g : Gang) (r : Recv) : Bool :=
  r.gang == some g.id && (inReservation s g r.stat || r.tile.isSome || r.runs.any fun x => inReservation s g x.pa)

/-- What a gang's k-th core gives its image (R83): bytes, full and poisoned words, tile entries, bank words, a codebook and tasks. -/
def imageBytes (s : State) (g : Gang) (k : Nat) : List (Nat × Nat × Byte) :=
  let lo := spadPa s (g.cores.getD k 0) (g.spad.getD k 0)
  (s.ms.mem.filter fun c => decide (lo ≤ c.1) && decide (c.1 < lo + resLen g k)).map fun c => (k, c.1 - lo, c.2)

/-- The words of a list that lie in the k-th reservation, by their place in it. -/
def imageWords (s : State) (g : Gang) (k : Nat) (ws : List Nat) : List (Nat × Nat) :=
  let lo := spadPa s (g.cores.getD k 0) (g.spad.getD k 0) / 8
  (ws.filter fun w => decide (lo ≤ w) && decide (w < lo + ceilDiv (resLen g k) 8)).map fun w => (k, w - lo)

/-- The tile entries of the k-th core. -/
def imageTiles (s : State) (g : Gang) (k : Nat) : List (Nat × Nat × BitVec 64) :=
  let t0 := g.tile.getD k 0
  ((coreOf s (g.cores.getD k 0)).tiles.filter fun e => decide (t0 ≤ e.1) && decide (e.1 < t0 + g.tiles)).map fun e => (k, e.1 - t0, e.2)

/-- The task entries in a gang's context, with the place of their core in the gang (R83), or 1024 and the number of another core. -/
def imageTasks (s : State) (g : Gang) : List (Nat × Task) :=
  s.cores.flatMap fun c => ((c.2.taskq ++ c.2.late).filter fun t => t.gang == g.id && t.guest.isNone).map fun t => ((coreIndex g c.1).getD (1024 + c.1), t)

/-- The walkers that a gang holds, that of its own cluster first: a fibre that has migrated may have started one elsewhere (R83, R375). -/
def gangWalkers (s : State) (g : Gang) : List (Nat × Walker) :=
  let cl := clusterOf (g.cores.headD 0)
  let ws := s.walkers.filter fun w => w.2.gang == some g.id
  (ws.filter fun w => w.1 == cl) ++ ws.filter fun w => w.1 != cl

/-- A gang's image (R83). -/
def makeImage (s : State) (g : Gang) : Image :=
  let ks := List.range g.cores.length
  let core := fun k => coreOf s (g.cores.getD k 0)
  let x := leaseOf s g
  { cores := g.cores
    bases := g.spad
    tbases := g.tile
    fibres := ((allFibres s).filter (inGang g.id)).map (imagedFibre s)
    spad := ks.flatMap (imageBytes s g)
    full := ks.flatMap fun k => imageWords s g k s.ms.full
    bad := ks.flatMap fun k => imageWords s g k s.ms.poison
    clocks := g.cores.map (clockOf s)
    fclocks := ((allFibres s).filter (inGang g.id)).map fun f => (f.id, clockOf s f.core)
    tiles := ks.flatMap (imageTiles s g)
    bank := if g.acc then ks.flatMap fun k => (core k).bank.map fun e => (k, e.1, e.2) else []
    books := (ks.filter fun k => (core k).book != []).map fun k => (k, (core k).book)
    lease := x.1
    cmds := x.2
    tasks := imageTasks s g
    walkers := gangWalkers s g
    recvs := s.recvs.flatMap fun e => (e.2.posted.filter (recvWithdrawn s g)).map fun r => (e.1, r) }

/-- What the engines and waiting lists keep of an imaged gang is withdrawn (R82, R84, R339). -/
def withdraw (s : State) (g : Gang) (mine : Nat → Bool) : State :=
  let cl := clusterOf (g.cores.headD 0)
  let a := arrayOf s cl
  let held := match a.lease with
    | some l => mine l.fib
    | none => false
  let s := setArray s cl { a with
    lease := if held then none else a.lease
    cmds := if held then [] else a.cmds
    wait := a.wait.filter fun q => !mine q.fib }
  { s with
    walkers := s.walkers.filter fun w => w.2.gang != some g.id
    cores := s.cores.map fun c => (c.1, refill { c.2 with
      taskq := c.2.taskq.filter fun t => t.gang != g.id || t.guest.isSome
      late := c.2.late.filter fun t => t.gang != g.id })
    walkWait := s.walkWait.filter fun w => !mine w.2
    watches := s.watches.filter fun w => !(mine w.fib && w.rem.isNone)
    recvs := s.recvs.map fun e => (e.1, { e.2 with posted := e.2.posted.filter fun r => !recvWithdrawn s g r })
    ms := { s.ms with reqs := s.ms.reqs.filter fun q => !mine q.fib } }

/-- Waits of some fibres at homes on other modules are given up there (R82): each home is asked once. -/
def askWithdraw (s : State) (fs : List Fibre) : State :=
  fs.foldl (fun s f => match f.run with
    | .parked (.req r) => (match reqOf s r with
      | some q =>
        if q.sent && q.place == 0 && (q.kind == .feLoad || q.kind == .feStore || q.kind == .waita) then
          modReq (tellModule s f (paMod q.pa) r 14 0 []) r fun q => { q with place := 1 }
        else s
      | none => s)
    | _ => s) s

/-- Whether a fibre of a gang is on another module: it is asked for, and the image waits for it (R46). -/
def anyAway (s : State) (n : Nat) : Bool := (gangFibres s n).any fun f => match f.run with
  | .away _ => true
  | _ => false

/-- IMAGE_CLOSE (R81-R84, R310): once the gang has drained, its image is written, its resources are released, and IMGSAVEs that wait for
it complete. -/
def imageClose (s : State) (n : Nat) : State :=
  match gangOf s n with
  | none => s
  | some g =>
    let fs := (allFibres s).filter (inGang n)
    if g.st ≠ .imaging then s
    else if fs.all (fibreCloses s) = false ∨ anyAway s n = true ∨ enginesClose s g = false then askWithdraw s fs
    else
      let img := makeImage s g
      let ids := fs.map (·.id)
      let s := withdraw s g fun i => ids.contains i
      let s := (fs.map (·.core) ++ g.cores).eraseDups.foldl (fun s c => releaseCopies s c 2) s
      let s := match takeRegion s g with
        | some (r, s) => modGang s n fun g => { g with region := some r }
        | none => s
      let s := modGang s n fun g => { g with
        st := .imaged
        dieTag := none
        image := some img
        last := some img }
      let s := { s with
        fib := if ids.contains s.fib.id then Fibre.blank else s.fib
        fibres := s.fibres.filter fun f => !ids.contains f.id }
      ((allFibres s).filter fun f => f.run == .parked (.image n)).foldl (fun s f => complete s f.id none) s

/-- Where a scratchpad address of an imaged gang's old reservations now lies (R85). -/
def movedPa (s : State) (g : Gang) (i : Image) (pa : Nat) : Option Nat :=
  let k := i.cores.findIdx? fun c => c == spadCore pa
  match k with
  | none => none
  | some k =>
    let o := pa % 2 ^ 20 - i.bases.getD k 0
    if regionOf pa = 3 ∧ isRemote s pa = false ∧ i.bases.getD k 0 ≤ pa % 2 ^ 20 ∧ o < resLen g k then
      some (spadPa s (g.cores.getD k 0) (g.spad.getD k 0 + o))
    else none

/-- An imaged gang as it lay before. -/
def oldGang (g : Gang) (i : Image) : Gang := { g with
  st := .resident
  cores := i.cores
  spad := i.bases }

/-- A tile's place by core and entry, moved with its gang. -/
def movedTile (g : Gang) (i : Image) (p : Nat × Nat) : Nat × Nat :=
  match i.cores.findIdx? fun c => c == p.1 with
  | some k => (g.cores.getD k 0, g.tile.getD k 0 + (p.2 - i.tbases.getD k 0))
  | none => p

/-- A core of an imaged gang, and its reservation's base, moved with it. -/
def movedCore (g : Gang) (i : Image) (c : Nat) : Nat × Nat :=
  match i.cores.findIdx? fun x => x == c with
  | some k => (g.cores.getD k 0, g.spad.getD k 0)
  | none => (c, 0)

/-- A matrix command of an image, moved with its gang (R85, R339), the words that it has read among them (R340). -/
def movedCmd (s : State) (g : Gang) (i : Image) (c : MCmd) : MCmd :=
  let at_ := fun (a : Nat) => (movedPa s g i a).getD a
  let a := movedCore g i c.acore
  let b := movedCore g i c.bcore
  let d := movedCore g i c.core
  { c with
    core := d.1
    acore := a.1
    bcore := b.1
    abase := a.2
    bbase := b.2
    cbase := if c.fn = 1 then a.2 else d.2
    snap := c.snap.map fun x => (x.1.foldl (fun m b => mset m (at_ b.1) b.2) [], x.2.foldl (fun t w => sAdd t (at_ (8 * w) / 8)) [])
    reads := c.reads.map (movedTile g i)
    names := c.names.map (movedTile g i) }

/-- Who posts a withdrawn receive anew: its fibre, or, when that has exited, its gang on the core where it was posted. -/
def poster (s : State) (g : Gang) (i : Image) (r : Recv) : Fibre :=
  match fibreOf s r.fib with
  | some f => { f with pl := if r.space = 16 then 2 else f.pl }
  | none => { Fibre.blank with
    core := (movedCore g i r.core).1
    pl := if r.space = 16 then 2 else 1
    ident := { Ident.none with
      kind := .placed
      tenant := g.ten
      gang := some g.id } }

/-- A withdrawn receive posted anew (R84): its addresses are translated again. None when its record or its destination no longer lies in
the reservation, or is refused. -/
def movedRecv (s : State) (g : Gang) (i : Image) (r : Recv) : Option Recv :=
  let f := poster s g i r
  let old := oldGang g i
  match translateFibre s f .store r.statva.toNat with
  | .ok a =>
    if a.loc ≠ 2 ∨ outOfReach s f a.pa = true ∨ (inReservation s old r.stat = true ∧ inReservation s g a.pa = false) then none
    else match postDest { s with fib := f } { r with core := f.core } with
      | .error _ => none
      | .ok x =>
        if (r.runs.zip x.runs).all fun p => !inReservation s old p.1.pa || inReservation s g p.2.pa then some { x with
          stat := a.pa
          took := r.took
          ent := if r.took then r.ent else x.ent }
        else none
  | _ => none

/-- Repost one receive of an image (R84): a dropped one leaves its fibre a pending failure. So does one that the engine has no place for:
R217's limit holds here too, and the failure is RPOST's QFULL (R364; DESIGN CHOICE, log entry 64). -/
def repost (s : State) (g : Gang) (i : Image) (x : Nat × Recv) : State :=
  let (n, s) := freshId s
  match movedRecv s g i { x.2 with id := n } with
  | some r =>
    if 4096 ≤ (recvOf s x.1).posted.length then addFailure s x.2.fib ⟨BitVec.ofNat 6 cQFULL, x.2.statva⟩ else postRecv s x.1 r
  | none => addFailure s x.2.fib ⟨BitVec.ofNat 6 cWINDOW, x.2.statva⟩

/-- Where the walkers of an image now are: each cluster's with the cluster whose walker the gang has claimed for it (R85). -/
def walkPlaces (s : State) (g : Gang) (i : Image) : List (Nat × Nat) := (i.walkers.map (·.1)).zip ((gangWalkers s g).map (·.1))

/-- The walker's node that a fibre or task entry belongs to, on the cluster that the walker is on now (R85, R88). -/
def movedNode (ws : List (Nat × Nat)) (x : Option (Nat × Nat)) : Option (Nat × Nat) := x.map fun n => (tget n.1 ws n.1, n.2)

/-- A resumed gang's k-th core takes back its tile entries, bank and tasks. The tasks go behind those queued there, as the queue has room
(`refill`; DESIGN CHOICE, log entry 64). -/
def returnCore (s : State) (g : Gang) (i : Image) (k : Nat) : State :=
  let c := g.cores.getD k 0
  let x := coreOf s c
  let ws := walkPlaces s g i
  let s := setCore s c (refill { x with
    tiles := (i.tiles.filter fun e => e.1 == k).foldl (fun t e => tset t (g.tile.getD k 0 + e.2.1) e.2.2) x.tiles
    bank := if g.acc then (i.bank.filter fun e => e.1 == k).map (·.2) else x.bank
    late := x.late ++ (i.tasks.filter fun t => t.1 == k || (decide (1024 ≤ t.1) && slotOfCore (oldGang g i) i (t.1 - 1024) == k)).map fun t =>
      { t.2 with node := movedNode ws t.2.node } })
  acquireAt s g.ten c 4

/-- The place in memory of a word or byte of an image. -/
def imagePa (s : State) (g : Gang) (k o : Nat) : Nat := spadPa s (g.cores.getD k 0) (g.spad.getD k 0) + o

/-- The failures and acquires that CPYWAIT still owes a fibre go with it (R354). -/
def moveOwed (s : State) (n old new : Nat) : State :=
  if old = new then s
  else
    let a := coreOf s old
    let b := coreOf s new
    let s := setCore s new { b with
      failed := b.failed ++ a.failed.filter fun x => x.1 == n
      waited := b.waited ++ a.waited.filter fun x => x.1 == n }
    setCore s old { a with
      failed := a.failed.filter fun x => x.1 != n
      waited := a.waited.filter fun x => x.1 != n }

/-- A resumed fibre takes its state from its image; a holder of the array first asks for it again (R85, R339, R400), and issues nothing before
it is granted (`mayIssue`). -/
def returnFibre (s : State) (g : Gang) (i : Image) (f : Fibre) : State :=
  match fibreOf s f.id with
  | none => s
  | some p =>
    let ask : Bool := match i.lease with
      | some l => l.fib == f.id && decide (f.run = .eligible)
      | none => false
    let ws := walkPlaces s g i
    let s := moveOwed s f.id f.core p.core
    modFibre s f.id fun _ => { f with
      core := p.core
      failure := if f.failure.isSome then f.failure else p.failure
      ident := { f.ident with node := movedNode ws f.ident.node }
      run := if ask then .parked .relet else f.run
      resumed := true
      walked := false
      noMig := false }

/-- The state of a resumed gang returns from its image (R83-R85). -/
def restore (s : State) (g : Gang) (i : Image) : State :=
  let s := { s with ms := { s.ms with
    mem := i.spad.foldl (fun m b => mset m (imagePa s g b.1 b.2.1) b.2.2) s.ms.mem
    full := i.full.foldl (fun t w => sAdd t (imagePa s g w.1 0 / 8 + w.2)) s.ms.full
    poison := i.bad.foldl (fun t w => sAdd t (imagePa s g w.1 0 / 8 + w.2)) s.ms.poison } }
  let s := (List.range g.cores.length).foldl (fun s k => returnCore s g i k) s
  let s := i.fibres.foldl (fun s f => returnFibre s g i f) s
  let cl := clusterOf (g.cores.headD 0)
  let s := match i.lease with
    | some l =>
      let a := arrayOf s cl
      setArray s cl { a with wait := a.wait ++ [⟨l.fib, l.left, true, l.rel, i.cmds.map (movedCmd s g i)⟩] }
    | none => s
  let s := (i.walkers.zip ((gangWalkers s g).map (·.1))).foldl (fun s x =>
    setWalker s x.2 { x.1.2 with core := g.cores.getD (slotOfCore (oldGang g i) i x.1.2.core) 0 }) s
  i.recvs.foldl (fun s x => repost s g i x) s

/-- The gangs that are imaged with a gang: its co-resident stage's grid, or itself (R78). -/
def gridOf (s : State) (g : Gang) : List Gang :=
  match launchOf s g.launch with
  | some l => if coResident l then (launchGangs s g.launch).filter fun x => x.stage == g.stage else [g]
  | none => [g]

/-- A gang whose claim has completed is imaged when one of its grid was suspended or imaged, or lies on a core retired, meanwhile; the whole
grid at once, with its last claim (R78, R310, R424). -/
def imageClaimed (s : State) (n : Nat) : State :=
  match gangOf s n with
  | none => s
  | some g =>
    let gs := gridOf s g
    if gs.all (fun x => x.st != .placing) && gs.any (fun x => x.st == .resident
      && (x.suspended || gs.any (fun y => y.st == .imaging || y.st == .imaged) || x.cores.any fun c => (coreOf s c).retired)) then startImaging s [n] else s

/-- CLAIM_COMPLETE (R61, R76, R77, R84, R85): the gang is Resident and its fibres Eligible. A dependant launch's fibres begin with an acquire
at the predecessor's trigger scope. The launch may trigger now (R60). A gang suspended meanwhile, or on a core retired meanwhile, is imaged. -/
def claimComplete (s : State) (n : Nat) : State :=
  match gangOf s n with
  | none => s
  | some g =>
    if g.st ≠ .placing then s
    else
      let s := modGang s n fun g => { g with
        st := .resident
        image := none }
      let s := match g.image with
        | some i => restore s { g with st := .resident } i
        | none =>
          let s := modFibres s (fun f => f.ident.gang == some n && f.run == .starting) fun f => { f with run := .eligible }
          match launchOf s g.launch with
          | some l => if l.pred.isSome then g.cores.foldl (fun s c => acquireAt s g.ten c l.predScope) s else s
          | none => s
      imageClaimed (settleLaunch s g.launch) n

/-- Event CLAIM_COMPLETE (R76). -/
def execClaimComplete (g : Nat) (s : State) : Out := .next (claimComplete s g)
/-- Event IMAGE_CLOSE (R81). -/
def execImageClose (g : Nat) (s : State) : Out := .next (imageClose s g)

end Sys2Proof.Machine
end

