-- ==== Sys2Proof/Machine/Integer.lean ====
section
/-! DEFINITION. The integer groups: majors 0x00, 0x01 and 0x10-0x1D (R276-R280). -/

namespace Sys2Proof.Machine

/-- An exact integer clamped to an interval. -/
def clamp (lo hi i : Int) : Int := max lo (min hi i)

/-- Saturating addition and subtraction (R277): the exact result clamped to the signed or the unsigned range. -/
def satWord (uns : Bool) (i : Int) : Word :=
  BitVec.ofInt 64 (if uns then clamp 0 (2 ^ 64 - 1) i else clamp (-(2 ^ 63)) (2 ^ 63 - 1) i)

/-- ADD (R276, R277). -/
def addWord (sat uns : Bool) (a b : Word) : Word :=
  if sat then (if uns then satWord true (a.toNat + b.toNat) else satWord false (a.toInt + b.toInt)) else a + b

/-- SUB (R276, R277). -/
def subWord (sat uns : Bool) (a b : Word) : Word :=
  if sat then (if uns then satWord true ((a.toNat : Int) - b.toNat) else satWord false (a.toInt - b.toInt)) else a - b

/-- A shift amount: the low six bits (R276). -/
def amount (b : Word) : Nat := b.toNat % 64

/-- a < b, signed, or unsigned with .uns (R276). -/
def ltWord (uns : Bool) (a b : Word) : Bool := if uns then a.ult b else a.slt b

/-- The number of leading zero bits (R276). -/
def clzWord (a : Word) : Word := BitVec.ofNat 64 (64 - bitLen a.toNat)

/-- The number of one bits (R276). -/
def popcWord (a : Word) : Word := BitVec.ofNat 64 ((List.range 64).filter fun i => a.getLsbD i).length

/-- MULH (R278): bits [127:64] of the exact product. -/
def mulhWord (uns : Bool) (a b : Word) : Word :=
  if uns then BitVec.ofNat 64 (a.toNat * b.toNat / 2 ^ 64) else BitVec.ofInt 64 (a.toInt * b.toInt / 2 ^ 64)

/-- DIV (R278): truncated towards zero; a divisor of 0 gives all ones, and -2^63 / -1 the dividend. -/
def divWord (uns : Bool) (a b : Word) : Word :=
  if b = 0 then BitVec.allOnes 64 else if uns then a / b else a.sdiv b

/-- REM (R278): the sign of the dividend; a divisor of 0 gives the dividend. -/
def remWord (uns : Bool) (a b : Word) : Word :=
  if b = 0 then a else if uns then a % b else a.srem b

/-- HMIX's mixing hash (R279). -/
def hmixWord (a b : Word) : Word :=
  let x := a ^^^ b.rotateRight 23
  let x := x * 0x8E5A3C71D2B94F17
  let x := x ^^^ (x >>> 31)
  let x := x * 0xB7E15163A9D42C8B
  x ^^^ (x >>> 29)

/-- EXTR (R280): the field [pos + len - 1 : pos], with `len` its length less one. -/
def extrWord (a : Word) (pos len : BitVec 6) : Word := (a >>> pos.toNat) &&& BitVec.ofNat 64 (2 ^ (len.toNat + 1) - 1)

/-- INSR (R280). -/
def insrWord (old a : Word) (pos len : BitVec 6) : Word :=
  let m : Word := BitVec.ofNat 64 (2 ^ (len.toNat + 1) - 1)
  (old &&& ~~~(m <<< pos.toNat)) ||| ((a &&& m) <<< pos.toNat)

/-- A two-operand instruction with a short result. -/
def shortRR (i : Instr) (y : Bool) (gd ga : Reg) (la : Bool) (gb : Reg) (lb : Bool) (g : Word → Word → Word)
    (s : State) : Out :=
  issue s (plainUse i y [(ga, la), (gb, lb)] gd) fun t v => .done (setShort t gd (g (arg v 0) (arg v 1)))

/-- A one-operand instruction with a short result. -/
def shortR (i : Instr) (y : Bool) (gd ga : Reg) (la : Bool) (g : Word → Word) (s : State) : Out :=
  issue s (plainUse i y [(ga, la)] gd) fun t v => .done (setShort t gd (g (arg v 0)))

/-- A two-operand instruction with a long result (R42). -/
def longRR (i : Instr) (y : Bool) (gd ga : Reg) (la : Bool) (gb : Reg) (lb : Bool) (g : Word → Word → Word)
    (s : State) : Out :=
  issue s (plainUse i y [(ga, la), (gb, lb)] gd) fun t v => .done (setLong t gd (g (arg v 0) (arg v 1)) 0)

/-- ADD (R276, R277). -/
def execAdd (y : Bool) (gd ga : BitVec 4) (la : Bool) (gb : BitVec 4) (lb : Bool) (sat uns : Bool) (s : State) : Out :=
  shortRR (.add y gd ga la gb lb sat uns) y gd ga la gb lb (fun a b => addWord sat uns a b) s

/-- SUB (R276, R277). -/
def execSub (y : Bool) (gd ga : BitVec 4) (la : Bool) (gb : BitVec 4) (lb : Bool) (sat uns : Bool) (s : State) : Out :=
  shortRR (.sub y gd ga la gb lb sat uns) y gd ga la gb lb (fun a b => subWord sat uns a b) s

/-- AND (R276). -/
def execAnd (y : Bool) (gd ga : BitVec 4) (la : Bool) (gb : BitVec 4) (lb : Bool) (s : State) : Out :=
  shortRR (.and y gd ga la gb lb) y gd ga la gb lb (fun a b => a &&& b) s

/-- OR (R276). -/
def execOr (y : Bool) (gd ga : BitVec 4) (la : Bool) (gb : BitVec 4) (lb : Bool) (s : State) : Out :=
  shortRR (.or y gd ga la gb lb) y gd ga la gb lb (fun a b => a ||| b) s

/-- XOR (R276). -/
def execXor (y : Bool) (gd ga : BitVec 4) (la : Bool) (gb : BitVec 4) (lb : Bool) (s : State) : Out :=
  shortRR (.xor y gd ga la gb lb) y gd ga la gb lb (fun a b => a ^^^ b) s

/-- ANDN (R276). -/
def execAndn (y : Bool) (gd ga : BitVec 4) (la : Bool) (gb : BitVec 4) (lb : Bool) (s : State) : Out :=
  shortRR (.andn y gd ga la gb lb) y gd ga la gb lb (fun a b => a &&& ~~~b) s

/-- SHL (R276). -/
def execShl (y : Bool) (gd ga : BitVec 4) (la : Bool) (gb : BitVec 4) (lb : Bool) (s : State) : Out :=
  shortRR (.shl y gd ga la gb lb) y gd ga la gb lb (fun a b => a <<< amount b) s

/-- SHR (R276). -/
def execShr (y : Bool) (gd ga : BitVec 4) (la : Bool) (gb : BitVec 4) (lb : Bool) (s : State) : Out :=
  shortRR (.shr y gd ga la gb lb) y gd ga la gb lb (fun a b => a >>> amount b) s

/-- SAR (R276). -/
def execSar (y : Bool) (gd ga : BitVec 4) (la : Bool) (gb : BitVec 4) (lb : Bool) (s : State) : Out :=
  shortRR (.sar y gd ga la gb lb) y gd ga la gb lb (fun a b => a.sshiftRight (amount b)) s

/-- ROR (R276). -/
def execRor (y : Bool) (gd ga : BitVec 4) (la : Bool) (gb : BitVec 4) (lb : Bool) (s : State) : Out :=
  shortRR (.ror y gd ga la gb lb) y gd ga la gb lb (fun a b => a.rotateRight (amount b)) s

/-- MIN (R276). -/
def execMin (y : Bool) (gd ga : BitVec 4) (la : Bool) (gb : BitVec 4) (lb : Bool) (uns : Bool) (s : State) : Out :=
  shortRR (.min y gd ga la gb lb uns) y gd ga la gb lb (fun a b => if ltWord uns b a then b else a) s

/-- MAX (R276). -/
def execMax (y : Bool) (gd ga : BitVec 4) (la : Bool) (gb : BitVec 4) (lb : Bool) (uns : Bool) (s : State) : Out :=
  shortRR (.max y gd ga la gb lb uns) y gd ga la gb lb (fun a b => if ltWord uns a b then b else a) s

/-- CMPEQ (R276). -/
def execCmpeq (y : Bool) (gd ga : BitVec 4) (la : Bool) (gb : BitVec 4) (lb : Bool) (s : State) : Out :=
  shortRR (.cmpeq y gd ga la gb lb) y gd ga la gb lb (fun a b => boolWord (a == b)) s

/-- CMPNE (R276). -/
def execCmpne (y : Bool) (gd ga : BitVec 4) (la : Bool) (gb : BitVec 4) (lb : Bool) (s : State) : Out :=
  shortRR (.cmpne y gd ga la gb lb) y gd ga la gb lb (fun a b => boolWord (a != b)) s

/-- CMPLT (R276). -/
def execCmplt (y : Bool) (gd ga : BitVec 4) (la : Bool) (gb : BitVec 4) (lb : Bool) (uns : Bool) (s : State) : Out :=
  shortRR (.cmplt y gd ga la gb lb uns) y gd ga la gb lb (fun a b => boolWord (ltWord uns a b)) s

/-- CMPLE (R276). -/
def execCmple (y : Bool) (gd ga : BitVec 4) (la : Bool) (gb : BitVec 4) (lb : Bool) (uns : Bool) (s : State) : Out :=
  shortRR (.cmple y gd ga la gb lb uns) y gd ga la gb lb (fun a b => boolWord (!ltWord uns b a)) s

/-- CLZ (R276). -/
def execClz (y : Bool) (gd ga : BitVec 4) (la : Bool) (s : State) : Out :=
  shortR (.clz y gd ga la) y gd ga la (fun a => clzWord a) s

/-- POPC (R276). -/
def execPopc (y : Bool) (gd ga : BitVec 4) (la : Bool) (s : State) : Out :=
  shortR (.popc y gd ga la) y gd ga la (fun a => popcWord a) s

/-- SEXTB (R276). -/
def execSextb (y : Bool) (gd ga : BitVec 4) (la : Bool) (s : State) : Out :=
  shortR (.sextb y gd ga la) y gd ga la (fun a => sext (a.setWidth 8)) s

/-- SEXTH (R276). -/
def execSexth (y : Bool) (gd ga : BitVec 4) (la : Bool) (s : State) : Out :=
  shortR (.sexth y gd ga la) y gd ga la (fun a => sext (a.setWidth 16)) s

/-- SEXTW (R276). -/
def execSextw (y : Bool) (gd ga : BitVec 4) (la : Bool) (s : State) : Out :=
  shortR (.sextw y gd ga la) y gd ga la (fun a => sext (a.setWidth 32)) s

/-- ZEXTB (R276). -/
def execZextb (y : Bool) (gd ga : BitVec 4) (la : Bool) (s : State) : Out :=
  shortR (.zextb y gd ga la) y gd ga la (fun a => zext (a.setWidth 8)) s

/-- ZEXTH (R276). -/
def execZexth (y : Bool) (gd ga : BitVec 4) (la : Bool) (s : State) : Out :=
  shortR (.zexth y gd ga la) y gd ga la (fun a => zext (a.setWidth 16)) s

/-- ZEXTW (R276). -/
def execZextw (y : Bool) (gd ga : BitVec 4) (la : Bool) (s : State) : Out :=
  shortR (.zextw y gd ga la) y gd ga la (fun a => zext (a.setWidth 32)) s

/-- SEL (R276): a when the old G[d] is not 0, otherwise b. -/
def execSel (y : Bool) (gd ga : BitVec 4) (la : Bool) (gb : BitVec 4) (lb : Bool) (s : State) : Out :=
  issue s (plainUse (.sel y gd ga la gb lb) y [(ga, la), (gb, lb), (gd, false)] gd) fun t v =>
    .done (setShort t gd (if arg v 2 ≠ 0 then arg v 0 else arg v 1))

/-- MUL (R278). -/
def execMul (y : Bool) (gd ga : BitVec 4) (la : Bool) (gb : BitVec 4) (lb : Bool) (s : State) : Out :=
  longRR (.mul y gd ga la gb lb) y gd ga la gb lb (fun a b => a * b) s

/-- MULH (R278). -/
def execMulh (y : Bool) (gd ga : BitVec 4) (la : Bool) (gb : BitVec 4) (lb : Bool) (uns : Bool) (s : State) : Out :=
  longRR (.mulh y gd ga la gb lb uns) y gd ga la gb lb (fun a b => mulhWord uns a b) s

/-- DIV (R278). -/
def execDiv (y : Bool) (gd ga : BitVec 4) (la : Bool) (gb : BitVec 4) (lb : Bool) (uns : Bool) (s : State) : Out :=
  longRR (.div y gd ga la gb lb uns) y gd ga la gb lb (fun a b => divWord uns a b) s

/-- REM (R278). -/
def execRem (y : Bool) (gd ga : BitVec 4) (la : Bool) (gb : BitVec 4) (lb : Bool) (uns : Bool) (s : State) : Out :=
  longRR (.rem y gd ga la gb lb uns) y gd ga la gb lb (fun a b => remWord uns a b) s

/-- HMIX (R279). -/
def execHmix (y : Bool) (gd ga : BitVec 4) (la : Bool) (gb : BitVec 4) (lb : Bool) (s : State) : Out :=
  longRR (.hmix y gd ga la gb lb) y gd ga la gb lb (fun a b => hmixWord a b) s

/-- ADDI (R280). -/
def execAddi (y : Bool) (gd ga : BitVec 4) (la : Bool) (imm : BitVec 15) (s : State) : Out :=
  shortR (.addi y gd ga la imm) y gd ga la (fun a => a + sext imm) s

/-- ANDI (R280). -/
def execAndi (y : Bool) (gd ga : BitVec 4) (la : Bool) (imm : BitVec 15) (s : State) : Out :=
  shortR (.andi y gd ga la imm) y gd ga la (fun a => a &&& zext imm) s

/-- ORI (R280). -/
def execOri (y : Bool) (gd ga : BitVec 4) (la : Bool) (imm : BitVec 15) (s : State) : Out :=
  shortR (.ori y gd ga la imm) y gd ga la (fun a => a ||| zext imm) s

/-- XORI (R280). -/
def execXori (y : Bool) (gd ga : BitVec 4) (la : Bool) (imm : BitVec 15) (s : State) : Out :=
  shortR (.xori y gd ga la imm) y gd ga la (fun a => a ^^^ zext imm) s

/-- SHLI (R280). -/
def execShli (y : Bool) (gd ga : BitVec 4) (la : Bool) (n : BitVec 6) (s : State) : Out :=
  shortR (.shli y gd ga la n) y gd ga la (fun a => a <<< n.toNat) s

/-- SHRI (R280). -/
def execShri (y : Bool) (gd ga : BitVec 4) (la : Bool) (n : BitVec 6) (s : State) : Out :=
  shortR (.shri y gd ga la n) y gd ga la (fun a => a >>> n.toNat) s

/-- SARI (R280). -/
def execSari (y : Bool) (gd ga : BitVec 4) (la : Bool) (n : BitVec 6) (s : State) : Out :=
  shortR (.sari y gd ga la n) y gd ga la (fun a => a.sshiftRight n.toNat) s

/-- RORI (R280). -/
def execRori (y : Bool) (gd ga : BitVec 4) (la : Bool) (n : BitVec 6) (s : State) : Out :=
  shortR (.rori y gd ga la n) y gd ga la (fun a => a.rotateRight n.toNat) s

/-- CMPEQI (R280). -/
def execCmpeqi (y : Bool) (gd ga : BitVec 4) (la : Bool) (imm : BitVec 15) (s : State) : Out :=
  shortR (.cmpeqi y gd ga la imm) y gd ga la (fun a => boolWord (a == sext imm)) s

/-- CMPLTI (R280). -/
def execCmplti (y : Bool) (gd ga : BitVec 4) (la : Bool) (imm : BitVec 15) (s : State) : Out :=
  shortR (.cmplti y gd ga la imm) y gd ga la (fun a => boolWord (ltWord false a (sext imm))) s

/-- CMPLTI.uns (R280). -/
def execCmpltiUns (y : Bool) (gd ga : BitVec 4) (la : Bool) (imm : BitVec 15) (s : State) : Out :=
  shortR (.cmpltiUns y gd ga la imm) y gd ga la (fun a => boolWord (ltWord true a (sext imm))) s

/-- EXTR (R280). -/
def execExtr (y : Bool) (gd ga : BitVec 4) (la : Bool) (pos len : BitVec 6) (s : State) : Out :=
  shortR (.extr y gd ga la pos len) y gd ga la (fun a => extrWord a pos len) s

/-- INSR (R280); the read of gd carries no last-use bit. -/
def execInsr (y : Bool) (gd ga : BitVec 4) (la : Bool) (pos len : BitVec 6) (s : State) : Out :=
  issue s (plainUse (.insr y gd ga la pos len) y [(ga, la), (gd, false)] gd) fun t v =>
    .done (setShort t gd (insrWord (arg v 1) (arg v 0) pos len))

/-- LUI (R280). -/
def execLui (y : Bool) (gd : BitVec 4) (imm : BitVec 20) (s : State) : Out :=
  issue s (plainUse (.lui y gd imm) y [] gd) fun t _ => .done (setShort t gd (sext imm <<< 15))

end Sys2Proof.Machine
end

