-- ==== Sys2Proof/Machine/Loads.lean ====
section
/-! DEFINITION. Loads and stores, full/empty operations and PREF: majors 0x30-0x3E (R291-R294). -/

namespace Sys2Proof.Machine

/-- What ORD and SCOPE ask of a load (R292, R169). -/
def loadOrd (s : State) (r : Req) (pol ord : BitVec 2) (scope : BitVec 4) : Req :=
  match ord with
  | 1 => withOrder s { r with pol := pol } (some scope) none false
  | 3 => withOrder s r (some 6) none true
  | _ => { r with pol := pol }

/-- What ORD and SCOPE ask of a store (R292, R169). -/
def storeOrd (s : State) (r : Req) (pol ord : BitVec 2) (scope : BitVec 4) : Req :=
  match ord with
  | 2 => withOrder s { r with pol := pol } none (some scope) false
  | 3 => withOrder s r none (some 6) true
  | _ => { r with pol := pol }

/-- The instruction's own check: an .sc access takes no host or device-register address (R292). -/
def scOwn (ord : BitVec 2) (a : Acc) : Option Nat := if ord = 3 then notTarget a else none

/-- A load of `n` bytes (R291, R292). -/
def loadN (i : Instr) (n : Nat) (y : Bool) (gd ga : Reg) (la : Bool) (pol ord : BitVec 2) (scope : BitVec 4)
    (off : BitVec 7) (s : State) : Out :=
  issue s { plainUse i y [(ga, la)] gd with fail := ord != 0 } fun t v =>
    let ea := effAddr (arg v 0) n off
    access t .load n ea (scOwn ord) fun t a =>
      let r := loadOrd t (mkReq t .load 0 n a ea) pol ord scope
      accessEff t 0 r gd

/-- A store of `n` bytes (R291, R292); the read of gd carries no last-use bit. -/
def storeN (i : Instr) (n : Nat) (y : Bool) (gd ga : Reg) (la : Bool) (pol ord : BitVec 2) (scope : BitVec 4)
    (off : BitVec 7) (s : State) : Out :=
  issue s { plainUse i y [(ga, la), (gd, false)] 0 with fail := ord != 0 } fun t v =>
    let ea := effAddr (arg v 0) n off
    access t .store n ea (scOwn ord) fun t a =>
      let r := storeOrd t { mkReq t .store 0 n a ea with data := arg v 1 } pol ord scope
      accessEff t 1 r 0

/-- LDB (R291, R292). -/
def execLdb (y : Bool) (gd ga : BitVec 4) (la : Bool) (pol ord : BitVec 2) (scope : BitVec 4) (off : BitVec 7)
    (s : State) : Out :=
  loadN (.ldb y gd ga la pol ord scope off) 1 y gd ga la pol ord scope off s

/-- LDH (R291, R292). -/
def execLdh (y : Bool) (gd ga : BitVec 4) (la : Bool) (pol ord : BitVec 2) (scope : BitVec 4) (off : BitVec 7)
    (s : State) : Out :=
  loadN (.ldh y gd ga la pol ord scope off) 2 y gd ga la pol ord scope off s

/-- LDW (R291, R292). -/
def execLdw (y : Bool) (gd ga : BitVec 4) (la : Bool) (pol ord : BitVec 2) (scope : BitVec 4) (off : BitVec 7)
    (s : State) : Out :=
  loadN (.ldw y gd ga la pol ord scope off) 4 y gd ga la pol ord scope off s

/-- LDD (R291, R292). -/
def execLdd (y : Bool) (gd ga : BitVec 4) (la : Bool) (pol ord : BitVec 2) (scope : BitVec 4) (off : BitVec 7)
    (s : State) : Out :=
  loadN (.ldd y gd ga la pol ord scope off) 8 y gd ga la pol ord scope off s

/-- STB (R291, R292). -/
def execStb (y : Bool) (gd ga : BitVec 4) (la : Bool) (pol ord : BitVec 2) (scope : BitVec 4) (off : BitVec 7)
    (s : State) : Out :=
  storeN (.stb y gd ga la pol ord scope off) 1 y gd ga la pol ord scope off s

/-- STH (R291, R292). -/
def execSth (y : Bool) (gd ga : BitVec 4) (la : Bool) (pol ord : BitVec 2) (scope : BitVec 4) (off : BitVec 7)
    (s : State) : Out :=
  storeN (.sth y gd ga la pol ord scope off) 2 y gd ga la pol ord scope off s

/-- STW (R291, R292). -/
def execStw (y : Bool) (gd ga : BitVec 4) (la : Bool) (pol ord : BitVec 2) (scope : BitVec 4) (off : BitVec 7)
    (s : State) : Out :=
  storeN (.stw y gd ga la pol ord scope off) 4 y gd ga la pol ord scope off s

/-- STD (R291, R292). -/
def execStd (y : Bool) (gd ga : BitVec 4) (la : Bool) (pol ord : BitVec 2) (scope : BitVec 4) (off : BitVec 7)
    (s : State) : Out :=
  storeN (.std y gd ga la pol ord scope off) 8 y gd ga la pol ord scope off s

/-- A full/empty operation with a register result (R293). -/
def feLoad (i : Instr) (op : Nat) (k : AccKind) (acq : Bool) (y : Bool) (gd ga : Reg) (la : Bool) (off : BitVec 7)
    (s : State) : Out :=
  issue s { plainUse i y [(ga, la)] gd with fail := acq } fun t v =>
    let ea := effAddr (arg v 0) 8 off
    accessStay t k 8 ea onlySpad fun t a =>
      let sc := feScope t t.fib.core a.pa
      accessEff t 2 (withOrder t (mkReq t .feLoad op 8 a ea) (if acq then some sc else none) none false) gd

/-- A full/empty operation without one (R293). `data` is stored, or for FESET is the bit. -/
def feStore (i : Instr) (op : Nat) (rel : Bool) (y : Bool) (reads : List (Reg × Bool)) (off : BitVec 7)
    (data : List Word → Word) (s : State) : Out :=
  issue s { plainUse i y reads 0 with fail := rel } fun t v =>
    let ea := effAddr (arg v 0) 8 off
    accessStay t .store 8 ea onlySpad fun t a =>
      let sc := feScope t t.fib.core a.pa
      let r := withOrder t { mkReq t .feStore op 8 a ea with data := data v } none (if rel then some sc else none) false
      accessEff t 3 r 0

/-- LDF (R293): waits for full, translated as a load, an acquire at S. -/
def execLdf (y : Bool) (gd ga : BitVec 4) (la : Bool) (off : BitVec 7) (s : State) : Out :=
  feLoad (.ldf y gd ga la off) 0 .load true y gd ga la off s

/-- LDFE (R293): waits for full and leaves empty, translated as an atomic, an acquire at S. -/
def execLdfe (y : Bool) (gd ga : BitVec 4) (la : Bool) (off : BitVec 7) (s : State) : Out :=
  feLoad (.ldfe y gd ga la off) 1 .atomic true y gd ga la off s

/-- STE (R293): waits for empty and leaves empty. -/
def execSte (y : Bool) (gd ga : BitVec 4) (la : Bool) (off : BitVec 7) (s : State) : Out :=
  feStore (.ste y gd ga la off) 2 false y [(ga, la), (gd, false)] off (fun v => arg v 1) s

/-- STF (R293): waits for empty and leaves full, a release at S. -/
def execStf (y : Bool) (gd ga : BitVec 4) (la : Bool) (off : BitVec 7) (s : State) : Out :=
  feStore (.stf y gd ga la off) 3 true y [(ga, la), (gd, false)] off (fun v => arg v 1) s

/-- FEQ (R293): reads the bit. -/
def execFeq (y : Bool) (gd ga : BitVec 4) (la : Bool) (off : BitVec 7) (s : State) : Out :=
  feLoad (.feq y gd ga la off) 4 .load false y gd ga la off s

/-- FESET (R293): sets the bit; a release at S when it leaves the word full. -/
def execFeset (y : Bool) (ga : BitVec 4) (la full : Bool) (off : BitVec 7) (s : State) : Out :=
  feStore (.feset y ga la full off) 5 full y [(ga, la)] off (fun _ => boolWord full) s

/-- PREF (R294): a hint with no architectural effect, which never faults beyond its register checks. -/
def execPref (y : Bool) (ga : BitVec 4) (la : Bool) (pol : BitVec 2) (off : BitVec 7) (s : State) : Out :=
  issue s (plainUse (.pref y ga la pol off) y [(ga, la)] 0) fun t _ => .done t

end Sys2Proof.Machine
end

