-- ==== Sys2Proof/Machine/Dispatch.lean ====
section
/-! DEFINITION. exec: one arm for each instruction and event, each a call of its meaning. -/

namespace Sys2Proof.Machine

def exec (i : Instr) (s : State) : Host.Outcome State Fault Refusal :=
  match i with
  | .add y gd ga la gb lb sat uns => Sys2Proof.Machine.execAdd y gd ga la gb lb sat uns s
  | .sub y gd ga la gb lb sat uns => Sys2Proof.Machine.execSub y gd ga la gb lb sat uns s
  | .and y gd ga la gb lb => Sys2Proof.Machine.execAnd y gd ga la gb lb s
  | .or y gd ga la gb lb => Sys2Proof.Machine.execOr y gd ga la gb lb s
  | .xor y gd ga la gb lb => Sys2Proof.Machine.execXor y gd ga la gb lb s
  | .andn y gd ga la gb lb => Sys2Proof.Machine.execAndn y gd ga la gb lb s
  | .shl y gd ga la gb lb => Sys2Proof.Machine.execShl y gd ga la gb lb s
  | .shr y gd ga la gb lb => Sys2Proof.Machine.execShr y gd ga la gb lb s
  | .sar y gd ga la gb lb => Sys2Proof.Machine.execSar y gd ga la gb lb s
  | .ror y gd ga la gb lb => Sys2Proof.Machine.execRor y gd ga la gb lb s
  | .min y gd ga la gb lb uns => Sys2Proof.Machine.execMin y gd ga la gb lb uns s
  | .max y gd ga la gb lb uns => Sys2Proof.Machine.execMax y gd ga la gb lb uns s
  | .cmpeq y gd ga la gb lb => Sys2Proof.Machine.execCmpeq y gd ga la gb lb s
  | .cmpne y gd ga la gb lb => Sys2Proof.Machine.execCmpne y gd ga la gb lb s
  | .cmplt y gd ga la gb lb uns => Sys2Proof.Machine.execCmplt y gd ga la gb lb uns s
  | .cmple y gd ga la gb lb uns => Sys2Proof.Machine.execCmple y gd ga la gb lb uns s
  | .clz y gd ga la => Sys2Proof.Machine.execClz y gd ga la s
  | .popc y gd ga la => Sys2Proof.Machine.execPopc y gd ga la s
  | .sextb y gd ga la => Sys2Proof.Machine.execSextb y gd ga la s
  | .sexth y gd ga la => Sys2Proof.Machine.execSexth y gd ga la s
  | .sextw y gd ga la => Sys2Proof.Machine.execSextw y gd ga la s
  | .zextb y gd ga la => Sys2Proof.Machine.execZextb y gd ga la s
  | .zexth y gd ga la => Sys2Proof.Machine.execZexth y gd ga la s
  | .zextw y gd ga la => Sys2Proof.Machine.execZextw y gd ga la s
  | .sel y gd ga la gb lb => Sys2Proof.Machine.execSel y gd ga la gb lb s
  | .mul y gd ga la gb lb => Sys2Proof.Machine.execMul y gd ga la gb lb s
  | .mulh y gd ga la gb lb uns => Sys2Proof.Machine.execMulh y gd ga la gb lb uns s
  | .div y gd ga la gb lb uns => Sys2Proof.Machine.execDiv y gd ga la gb lb uns s
  | .rem y gd ga la gb lb uns => Sys2Proof.Machine.execRem y gd ga la gb lb uns s
  | .hmix y gd ga la gb lb => Sys2Proof.Machine.execHmix y gd ga la gb lb s
  | .addi y gd ga la imm => Sys2Proof.Machine.execAddi y gd ga la imm s
  | .andi y gd ga la imm => Sys2Proof.Machine.execAndi y gd ga la imm s
  | .ori y gd ga la imm => Sys2Proof.Machine.execOri y gd ga la imm s
  | .xori y gd ga la imm => Sys2Proof.Machine.execXori y gd ga la imm s
  | .shli y gd ga la n => Sys2Proof.Machine.execShli y gd ga la n s
  | .shri y gd ga la n => Sys2Proof.Machine.execShri y gd ga la n s
  | .sari y gd ga la n => Sys2Proof.Machine.execSari y gd ga la n s
  | .rori y gd ga la n => Sys2Proof.Machine.execRori y gd ga la n s
  | .cmpeqi y gd ga la imm => Sys2Proof.Machine.execCmpeqi y gd ga la imm s
  | .cmplti y gd ga la imm => Sys2Proof.Machine.execCmplti y gd ga la imm s
  | .cmpltiUns y gd ga la imm => Sys2Proof.Machine.execCmpltiUns y gd ga la imm s
  | .extr y gd ga la pos len => Sys2Proof.Machine.execExtr y gd ga la pos len s
  | .insr y gd ga la pos len => Sys2Proof.Machine.execInsr y gd ga la pos len s
  | .lui y gd imm => Sys2Proof.Machine.execLui y gd imm s
  | .fadd y gd ga la gb lb p => Sys2Proof.Machine.execFadd y gd ga la gb lb p s
  | .fsub y gd ga la gb lb p => Sys2Proof.Machine.execFsub y gd ga la gb lb p s
  | .fmul y gd ga la gb lb p => Sys2Proof.Machine.execFmul y gd ga la gb lb p s
  | .fdiv y gd ga la gb lb p => Sys2Proof.Machine.execFdiv y gd ga la gb lb p s
  | .fsqrt y gd ga la p => Sys2Proof.Machine.execFsqrt y gd ga la p s
  | .fma y gd ga la gb lb p => Sys2Proof.Machine.execFma y gd ga la gb lb p s
  | .fmin y gd ga la gb lb p => Sys2Proof.Machine.execFmin y gd ga la gb lb p s
  | .fmax y gd ga la gb lb p => Sys2Proof.Machine.execFmax y gd ga la gb lb p s
  | .fcmpEq y gd ga la gb lb p => Sys2Proof.Machine.execFcmpEq y gd ga la gb lb p s
  | .fcmpLt y gd ga la gb lb p => Sys2Proof.Machine.execFcmpLt y gd ga la gb lb p s
  | .fcmpLe y gd ga la gb lb p => Sys2Proof.Machine.execFcmpLe y gd ga la gb lb p s
  | .fcvt y gd ga la p => Sys2Proof.Machine.execFcvt y gd ga la p s
  | .fcvti y gd ga la p => Sys2Proof.Machine.execFcvti y gd ga la p s
  | .fcvtf y gd ga la p => Sys2Proof.Machine.execFcvtf y gd ga la p s
  | .beq y ga la gb lb off => Sys2Proof.Machine.execBeq y ga la gb lb off s
  | .bne y ga la gb lb off => Sys2Proof.Machine.execBne y ga la gb lb off s
  | .blt y ga la gb lb off => Sys2Proof.Machine.execBlt y ga la gb lb off s
  | .bge y ga la gb lb off => Sys2Proof.Machine.execBge y ga la gb lb off s
  | .loopReg y ga la dist => Sys2Proof.Machine.execLoopReg y ga la dist s
  | .loopImm y count dist => Sys2Proof.Machine.execLoopImm y count dist s
  | .jal y gd imm => Sys2Proof.Machine.execJal y gd imm s
  | .jr y gd ga la => Sys2Proof.Machine.execJr y gd ga la s
  | .endloop y => Sys2Proof.Machine.execEndloop y s
  | .callat y ga la gb lb => Sys2Proof.Machine.execCallat y ga la gb lb s
  | .exit y => Sys2Proof.Machine.execExit y s
  | .trig y => Sys2Proof.Machine.execTrig y s
  | .yield y => Sys2Proof.Machine.execYield y s
  | .align y n => Sys2Proof.Machine.execAlign y n s
  | .migr y gd ga la => Sys2Proof.Machine.execMigr y gd ga la s
  | .ldb y gd ga la pol ord scope off => Sys2Proof.Machine.execLdb y gd ga la pol ord scope off s
  | .ldh y gd ga la pol ord scope off => Sys2Proof.Machine.execLdh y gd ga la pol ord scope off s
  | .ldw y gd ga la pol ord scope off => Sys2Proof.Machine.execLdw y gd ga la pol ord scope off s
  | .ldd y gd ga la pol ord scope off => Sys2Proof.Machine.execLdd y gd ga la pol ord scope off s
  | .stb y gd ga la pol ord scope off => Sys2Proof.Machine.execStb y gd ga la pol ord scope off s
  | .sth y gd ga la pol ord scope off => Sys2Proof.Machine.execSth y gd ga la pol ord scope off s
  | .stw y gd ga la pol ord scope off => Sys2Proof.Machine.execStw y gd ga la pol ord scope off s
  | .std y gd ga la pol ord scope off => Sys2Proof.Machine.execStd y gd ga la pol ord scope off s
  | .ldf y gd ga la off => Sys2Proof.Machine.execLdf y gd ga la off s
  | .ldfe y gd ga la off => Sys2Proof.Machine.execLdfe y gd ga la off s
  | .ste y gd ga la off => Sys2Proof.Machine.execSte y gd ga la off s
  | .stf y gd ga la off => Sys2Proof.Machine.execStf y gd ga la off s
  | .feq y gd ga la off => Sys2Proof.Machine.execFeq y gd ga la off s
  | .feset y ga la full off => Sys2Proof.Machine.execFeset y ga la full off s
  | .pref y ga la pol off => Sys2Proof.Machine.execPref y ga la pol off s
  | .aadd y gd ga la gb lb place ord scope sz => Sys2Proof.Machine.execAadd y gd ga la gb lb place ord scope sz s
  | .amin y gd ga la gb lb place ord scope uns sz => Sys2Proof.Machine.execAmin y gd ga la gb lb place ord scope uns sz s
  | .amax y gd ga la gb lb place ord scope uns sz => Sys2Proof.Machine.execAmax y gd ga la gb lb place ord scope uns sz s
  | .aand y gd ga la gb lb place ord scope sz => Sys2Proof.Machine.execAand y gd ga la gb lb place ord scope sz s
  | .aor y gd ga la gb lb place ord scope sz => Sys2Proof.Machine.execAor y gd ga la gb lb place ord scope sz s
  | .axch y gd ga la gb lb place ord scope sz => Sys2Proof.Machine.execAxch y gd ga la gb lb place ord scope sz s
  | .acas y gd ga la gb lb place ord scope sz => Sys2Proof.Machine.execAcas y gd ga la gb lb place ord scope sz s
  | .adecp y gd ga la place ord scope sz => Sys2Proof.Machine.execAdecp y gd ga la place ord scope sz s
  | .aincb y gd ga la gb lb place ord scope sz => Sys2Proof.Machine.execAincb y gd ga la gb lb place ord scope sz s
  | .fence y scope => Sys2Proof.Machine.execFence y scope s
  | .waita y gd ga la gb lb word4 => Sys2Proof.Machine.execWaita y gd ga la gb lb word4 s
  | .notify y gd ga la all => Sys2Proof.Machine.execNotify y gd ga la all s
  | .barr y gd ga la comb => Sys2Proof.Machine.execBarr y gd ga la comb s
  | .barj y gd ga la comb => Sys2Proof.Machine.execBarj y gd ga la comb s
  | .scopeset y ga la n => Sys2Proof.Machine.execScopeset y ga la n s
  | .launch y gd ga la => Sys2Proof.Machine.execLaunch y gd ga la s
  | .nop y => Sys2Proof.Machine.execNop y s
  | .trap y n => Sys2Proof.Machine.execTrap y n s
  | .eret y => Sys2Proof.Machine.execEret y s
  | .hcall y n => Sys2Proof.Machine.execHcall y n s
  | .tlbinv y ga la mode scope => Sys2Proof.Machine.execTlbinv y ga la mode scope s
  | .cacheop y ga la op => Sys2Proof.Machine.execCacheop y ga la op s
  | .imgsave y ga la => Sys2Proof.Machine.execImgsave y ga la s
  | .imgload y ga la => Sys2Proof.Machine.execImgload y ga la s
  | .mfs y gd r => Sys2Proof.Machine.execMfs y gd r s
  | .mts y ga la r => Sys2Proof.Machine.execMts y ga la r s
  | .erd y gd eng r => Sys2Proof.Machine.execErd y gd eng r s
  | .ewr y ga la eng r => Sys2Proof.Machine.execEwr y ga la eng r s
  | .fmt y fa fb fd smode stile fz sat => Sys2Proof.Machine.execFmt y fa fb fd smode stile fz sat s
  | .vadd y td ta tb => Sys2Proof.Machine.execVadd y td ta tb s
  | .vsub y td ta tb => Sys2Proof.Machine.execVsub y td ta tb s
  | .vmul y td ta tb => Sys2Proof.Machine.execVmul y td ta tb s
  | .vdiv y td ta tb => Sys2Proof.Machine.execVdiv y td ta tb s
  | .vfma y td ta tb => Sys2Proof.Machine.execVfma y td ta tb s
  | .vmin y td ta tb => Sys2Proof.Machine.execVmin y td ta tb s
  | .vmax y td ta tb => Sys2Proof.Machine.execVmax y td ta tb s
  | .vabs y td ta => Sys2Proof.Machine.execVabs y td ta s
  | .vexp y td ta => Sys2Proof.Machine.execVexp y td ta s
  | .vlog y td ta => Sys2Proof.Machine.execVlog y td ta s
  | .vsqrt y td ta => Sys2Proof.Machine.execVsqrt y td ta s
  | .vrsqrt y td ta => Sys2Proof.Machine.execVrsqrt y td ta s
  | .vrcp y td ta => Sys2Proof.Machine.execVrcp y td ta s
  | .vtanh y td ta => Sys2Proof.Machine.execVtanh y td ta s
  | .vsigm y td ta => Sys2Proof.Machine.execVsigm y td ta s
  | .vredAdd y td ta => Sys2Proof.Machine.execVredAdd y td ta s
  | .vredMin y td ta => Sys2Proof.Machine.execVredMin y td ta s
  | .vredMax y td ta => Sys2Proof.Machine.execVredMax y td ta s
  | .vscanAdd y td ta => Sys2Proof.Machine.execVscanAdd y td ta s
  | .vscanMax y td ta => Sys2Proof.Machine.execVscanMax y td ta s
  | .vcmpEq y td ta tb => Sys2Proof.Machine.execVcmpEq y td ta tb s
  | .vcmpLt y td ta tb => Sys2Proof.Machine.execVcmpLt y td ta tb s
  | .vcmpLe y td ta tb => Sys2Proof.Machine.execVcmpLe y td ta tb s
  | .vsel y td ta tb => Sys2Proof.Machine.execVsel y td ta tb s
  | .vbcast y td ta => Sys2Proof.Machine.execVbcast y td ta s
  | .vgather y td ta tb => Sys2Proof.Machine.execVgather y td ta tb s
  | .vscat y td ta tb => Sys2Proof.Machine.execVscat y td ta tb s
  | .vtrans y td ta => Sys2Proof.Machine.execVtrans y td ta s
  | .vcvt y td ta => Sys2Proof.Machine.execVcvt y td ta s
  | .vqscale y td ta => Sys2Proof.Machine.execVqscale y td ta s
  | .vcbk y td ta => Sys2Proof.Machine.execVcbk y td ta s
  | .barq y td ta tb => Sys2Proof.Machine.execBarq y td ta tb s
  | .barqRes y td ta tb => Sys2Proof.Machine.execBarqRes y td ta tb s
  | .twait y ta => Sys2Proof.Machine.execTwait y ta s
  | .tdef y ga la t => Sys2Proof.Machine.execTdef y ga la t s
  | .tstate y gd set st t => Sys2Proof.Machine.execTstate y gd set st t s
  | .cbld y ga la => Sys2Proof.Machine.execCbld y ga la s
  | .gmsg y gd ga la => Sys2Proof.Machine.execGmsg y gd ga la s
  | .gbel y gd ga la => Sys2Proof.Machine.execGbel y gd ga la s
  | .gmarg y gd ga la => Sys2Proof.Machine.execGmarg y gd ga la s
  | .mma y ta tb => Sys2Proof.Machine.execMma y ta tb s
  | .mmas y td ta tb => Sys2Proof.Machine.execMmas y td ta tb s
  | .mzero y => Sys2Proof.Machine.execMzero y s
  | .macc y ta => Sys2Proof.Machine.execMacc y ta s
  | .mst y td => Sys2Proof.Machine.execMst y td s
  | .mlease y bound => Sys2Proof.Machine.execMlease y bound s
  | .mrel y => Sys2Proof.Machine.execMrel y s
  | .mstep y gd => Sys2Proof.Machine.execMstep y gd s
  | .cpyq y ga la gb lb nb => Sys2Proof.Machine.execCpyq y ga la gb lb nb s
  | .kick y ga la gb lb => Sys2Proof.Machine.execKick y ga la gb lb s
  | .cpywait y => Sys2Proof.Machine.execCpywait y s
  | .cpystat y gd => Sys2Proof.Machine.execCpystat y gd s
  | .ldnn y ga la gb lb => Sys2Proof.Machine.execLdnn y ga la gb lb s
  | .stvec y ga la gb lb => Sys2Proof.Machine.execStvec y ga la gb lb s
  | .dlvec y ga la gb lb => Sys2Proof.Machine.execDlvec y ga la gb lb s
  | .ixopen y gd ga la => Sys2Proof.Machine.execIxopen y gd ga la s
  | .ixstat y gd ga la => Sys2Proof.Machine.execIxstat y gd ga la s
  | .send y ga la scope rel => Sys2Proof.Machine.execSend y ga la scope rel s
  | .rpost y ga la => Sys2Proof.Machine.execRpost y ga la s
  | .rcancel y ga la => Sys2Proof.Machine.execRcancel y ga la s
  | .rprobe y gd ga la => Sys2Proof.Machine.execRprobe y gd ga la s
  | .rstat y gd ga la => Sys2Proof.Machine.execRstat y gd ga la s
  | .amsg y ga la gb lb scope rel => Sys2Proof.Machine.execAmsg y ga la gb lb scope rel s
  | .htset y ga la gb lb => Sys2Proof.Machine.execHtset y ga la gb lb s
  | .htclr y ga la => Sys2Proof.Machine.execHtclr y ga la s
  | .smfr y ga la => Sys2Proof.Machine.execSmfr y ga la s
  | .smal y gd ga la mir => Sys2Proof.Machine.execSmal y gd ga la mir s
  | .smquota y gd => Sys2Proof.Machine.execSmquota y gd s
  | .kload y ga la rx => Sys2Proof.Machine.execKload y ga la rx s
  | .kturn y => Sys2Proof.Machine.execKturn y s
  | .hist y ga la gb lb => Sys2Proof.Machine.execHist y ga la gb lb s
  | .walk y ga la => Sys2Proof.Machine.execWalk y ga la s
  | .gwtake y gd ga la => Sys2Proof.Machine.execGwtake y gd ga la s
  | .alignTimeout f => Sys2Proof.Machine.execAlignTimeout f s
  | .migrationArrival f => Sys2Proof.Machine.execMigrationArrival f s
  | .feWaitServed r => Sys2Proof.Machine.execFeWaitServed r s
  | .spuriousWake f => Sys2Proof.Machine.execSpuriousWake f s
  | .barrierEpisodeComplete b => Sys2Proof.Machine.execBarrierEpisodeComplete b s
  | .dieBarrierReport b die => Sys2Proof.Machine.execDieBarrierReport b die s
  | .gwqArm q ten limit => Sys2Proof.Machine.execGwqArm q ten limit s
  | .gwqDisarm q => Sys2Proof.Machine.execGwqDisarm q s
  | .vectorInstructionComplete f => Sys2Proof.Machine.execVectorInstructionComplete f s
  | .codebookReplace f => Sys2Proof.Machine.execCodebookReplace f s
  | .gmsgSlotWrite f => Sys2Proof.Machine.execGmsgSlotWrite f s
  | .matrixLeaseGrant cl => Sys2Proof.Machine.execMatrixLeaseGrant cl s
  | .matrixStep cl => Sys2Proof.Machine.execMatrixStep cl s
  | .matrixCommandComplete cl => Sys2Proof.Machine.execMatrixCommandComplete cl s
  | .copyCommandStart core => Sys2Proof.Machine.execCopyCommandStart core s
  | .copyCommandComplete core => Sys2Proof.Machine.execCopyCommandComplete core s
  | .kickNoticeArrival k => Sys2Proof.Machine.execKickNoticeArrival k s
  | .kickTransferStart core => Sys2Proof.Machine.execKickTransferStart core s
  | .kickTransferComplete core => Sys2Proof.Machine.execKickTransferComplete core s
  | .indexStvecPerform c => Sys2Proof.Machine.execIndexStvecPerform c s
  | .indexDlvecPerform c => Sys2Proof.Machine.execIndexDlvecPerform c s
  | .versionAreaFreed c => Sys2Proof.Machine.execVersionAreaFreed c s
  | .indexLdnnAccept c => Sys2Proof.Machine.execIndexLdnnAccept c s
  | .indexSearchComplete c => Sys2Proof.Machine.execIndexSearchComplete c s
  | .receivePostEvent f => Sys2Proof.Machine.execReceivePostEvent f s
  | .receiveCancelEvent f => Sys2Proof.Machine.execReceiveCancelEvent f s
  | .eagerSendArrival k => Sys2Proof.Machine.execEagerSendArrival k s
  | .rendezvousRequestArrival k => Sys2Proof.Machine.execRendezvousRequestArrival k s
  | .rendezvousPullComplete c => Sys2Proof.Machine.execRendezvousPullComplete c s
  | .sendCompletionArrival k => Sys2Proof.Machine.execSendCompletionArrival k s
  | .activeMessageArrival k => Sys2Proof.Machine.execActiveMessageArrival k s
  | .handlerStart core => Sys2Proof.Machine.execHandlerStart core s
  | .handlerRewriteEnd k => Sys2Proof.Machine.execHandlerRewriteEnd k s
  | .handlerRewriteTimeout k => Sys2Proof.Machine.execHandlerRewriteTimeout k s
  | .amsgResponseArrival k => Sys2Proof.Machine.execAmsgResponseArrival k s
  | .builtinLoad k => Sys2Proof.Machine.execBuiltinLoad k s
  | .builtinStore k => Sys2Proof.Machine.execBuiltinStore k s
  | .builtinLdf k => Sys2Proof.Machine.execBuiltinLdf k s
  | .builtinLdfe k => Sys2Proof.Machine.execBuiltinLdfe k s
  | .builtinSte k => Sys2Proof.Machine.execBuiltinSte k s
  | .builtinStf k => Sys2Proof.Machine.execBuiltinStf k s
  | .leaseRefresh k => Sys2Proof.Machine.execLeaseRefresh k s
  | .remoteAtomic k => Sys2Proof.Machine.execRemoteAtomic k s
  | .taskNodeRun cl node => Sys2Proof.Machine.execTaskNodeRun cl node s
  | .conditionalNodeRun cl node => Sys2Proof.Machine.execConditionalNodeRun cl node s
  | .whileNodeRun cl node => Sys2Proof.Machine.execWhileNodeRun cl node s
  | .joinNodeRun cl node => Sys2Proof.Machine.execJoinNodeRun cl node s
  | .latchNodeRun cl node => Sys2Proof.Machine.execLatchNodeRun cl node s
  | .walkerNodeComplete cl node => Sys2Proof.Machine.execWalkerNodeComplete cl node s
  | .callatAnswer f => Sys2Proof.Machine.execCallatAnswer f s
  | .taskStart core => Sys2Proof.Machine.execTaskStart core s
  | .loadDataReturn f p => Sys2Proof.Machine.execLoadDataReturn f p s
  | .storeAck r wt cause => Sys2Proof.Machine.execStoreAck r wt cause s
  | .pageWalkComplete w => Sys2Proof.Machine.execPageWalkComplete w s
  | .homeRequest r hint => Sys2Proof.Machine.execHomeRequest r hint s
  | .refusalRetry r => Sys2Proof.Machine.execRefusalRetry r s
  | .ownershipGrant rs => Sys2Proof.Machine.execOwnershipGrant rs s
  | .clockTick => Sys2Proof.Machine.execClockTick s
  | .hostLaunchWrite ten off bytes => Sys2Proof.Machine.execHostLaunchWrite ten off bytes s
  | .hostMsixEntryWrite ten vec off bytes => Sys2Proof.Machine.execHostMsixEntryWrite ten vec off bytes s
  | .hostSwitchWindowAccess write off n bytes => Sys2Proof.Machine.execHostSwitchWindowAccess write off n bytes s
  | .distributorTurn => Sys2Proof.Machine.execDistributorTurn s
  | .claimComplete g => Sys2Proof.Machine.execClaimComplete g s
  | .imageClose g => Sys2Proof.Machine.execImageClose g s
  | .launchCompletion l => Sys2Proof.Machine.execLaunchCompletion l s
  | .packetForward => Sys2Proof.Machine.execPacketForward s
  | .detourTimeout port => Sys2Proof.Machine.execDetourTimeout port s
  | .packetIngress => Sys2Proof.Machine.execPacketIngress s
  | .flitTransmit port => Sys2Proof.Machine.execFlitTransmit port s
  | .flitReceiveIdle port f => Sys2Proof.Machine.execFlitReceiveIdle port f s
  | .flitReceiveHead port f => Sys2Proof.Machine.execFlitReceiveHead port f s
  | .flitReceiveBody port f => Sys2Proof.Machine.execFlitReceiveBody port f s
  | .flitReceiveStomp port f => Sys2Proof.Machine.execFlitReceiveStomp port f s
  | .flitReceiveKeyturn port f => Sys2Proof.Machine.execFlitReceiveKeyturn port f s
  | .flitReceiveNak port f => Sys2Proof.Machine.execFlitReceiveNak port f s
  | .replayTimeout port => Sys2Proof.Machine.execReplayTimeout port s
  | .linkTrained port width mod pod inc => Sys2Proof.Machine.execLinkTrained port width mod pod inc s
  | .ethernetFrameReceive etype p => Sys2Proof.Machine.execEthernetFrameReceive etype p s
  | .heartbeat => Sys2Proof.Machine.execHeartbeat s
  | .moduleSilenceTimeout m => Sys2Proof.Machine.execModuleSilenceTimeout m s
  | .deathNoticeReceive m inc => Sys2Proof.Machine.execDeathNoticeReceive m inc s
  | .evictedReturnReceive => Sys2Proof.Machine.execEvictedReturnReceive s
  | .e2eRetryTimeout src dst => Sys2Proof.Machine.execE2eRetryTimeout src dst s
  | .faultCountEvent u bad => Sys2Proof.Machine.execFaultCountEvent u bad s
  | .routerDieBLoss => Sys2Proof.Machine.execRouterDieBLoss s
  | .routerDieALoss => Sys2Proof.Machine.execRouterDieALoss s
  | .moduleReset => Sys2Proof.Machine.execModuleReset s
  | .throttle => Sys2Proof.Machine.execThrottle s
  | .thermalShutdown => Sys2Proof.Machine.execThermalShutdown s
  | .mctlGo => Sys2Proof.Machine.execMctlGo s
  | .gwctlPortDisable port => Sys2Proof.Machine.execGwctlPortDisable port s
  | .gwctlPortEnable port => Sys2Proof.Machine.execGwctlPortEnable port s
  | .gatewayRoleTake port => Sys2Proof.Machine.execGatewayRoleTake port s
  | .tenantEnClear ten => Sys2Proof.Machine.execTenantEnClear ten s
  | .gatewayStartWrite port v => Sys2Proof.Machine.execGatewayStartWrite port v s
  | .gatewayFibreStart port => Sys2Proof.Machine.execGatewayFibreStart port s
  | .deviceRegisterWrite host off n v => Sys2Proof.Machine.execDeviceRegisterWrite host off n v s
  | .lossOfLinkTraining port => Sys2Proof.Machine.execLossOfLinkTraining port s
  | .backWithinLimits => Sys2Proof.Machine.execBackWithinLimits s
  | .tlbInvalidationDone f => Sys2Proof.Machine.execTlbInvalidationDone f s
  | .scopemaskPropagated f => Sys2Proof.Machine.execScopemaskPropagated f s
  | .switchFreeDone f => Sys2Proof.Machine.execSwitchFreeDone f s

end Sys2Proof.Machine
end

