-- ==== Sys2Proof/Machine/Fetch.lean ====
section
/-! DEFINITION. Fetching an instruction: its word through the tables, and the traps of a word that cannot be fetched or is no
instruction (R21, R128, R146, R253, R264, R399, R405, R422). -/

namespace Sys2Proof.Machine

/-- What a fetch comes to. -/
inductive Fetched where
  | word (w : BitVec 32) (s : State)
  /-- a fetch fault -/
  | fault (c : Nat)
  /-- a fetch fault that the home of the word on another module reports -/
  | came (c : Nat)
  /-- the fibre waits for the word -/
  | later (s : State)

/-- The word at an address that translation gave, or the cause of a fetch fault (R399, R146, R422). Memory of the host reads as a free
value; a word of another module is asked for there. -/
def wordAt (s : State) (a : Acc) : Fetched :=
  if regionOf a.pa = 4 then
    let x := takeFree s
    .word (x.1.setWidth 32) x.2
  else if isRemote s a.pa then
    let here := a.pa / 8 * 8
    match s.fib.words.find? fun w => w.pa == here && w.op == 0 with
    | some w =>
      if !w.here then .later (parkOn s .fetch)
      else if w.cause ≠ 0 then .came w.cause
      else .word (BitVec.ofNat 32 (nf w.val.toNat (8 * (a.pa % 8)) 32)) s
    | none =>
      match unreachable s (paMod a.pa) with
      | some c => .fault c
      | none => .later (parkOn (askFar s here s.fib.pc) .fetch)
  else if regionOf a.pa = 5 then .word (BitVec.ofNat 32 (devRead s (a.pa % 2 ^ 24) 4)) s
  else if outOfReach s s.fib a.pa then .fault cWINDOW
  else if attrRefused s a then .fault cXPROT
  else if homeLost s a.pa then .fault cLOST
  else if poisonVia s s.fib.core true a.pa 4 then .fault cPOISON
  else .word (BitVec.ofNat 32 (rdVia s s.fib.core true a.pa 4)) s

/-- The word at the current fibre's PC, or the cause of a fetch fault (R128, R405). -/
def fetchWord (s : State) : Fetched :=
  match translateFibre s s.fib .fetch s.fib.pc.toNat with
  | .bad c => .fault c
  | .ok a => wordAt s a
  | .miss => let w := askHome s s.fib.pc; .later (parkOn w.2 w.1)
  | .ring => .fault cXPROT

/-- The cause that a word which is no instruction raises (R253, R264). -/
def wordCause (s : State) (w : BitVec 32) (r : Reject) : Nat :=
  if namesEngine5 w.toNat && !servesGateway s s.fib.core then cILLEGAL
  else if r = .illegal then cILLEGAL else cRESBITS

/-- A word that is no instruction: its marker's wait, then its trap (R253). -/
def refuseWord (s : State) (w : BitVec 32) (r : Reject) : State :=
  if w.getLsbD 31 && !allReady s.fib then parkOn s .marker else raise s (wordCause s w r) (zext w)

/-- A fetch fault (R405 step 1), counted where it is a WINDOW (R439). -/
def fetchFault (s : State) (c : Nat) : State := raise (found s c) c s.fib.pc

end Sys2Proof.Machine
end

