-- ==== Sys2Proof/Machine/Schedule.lean ====
section
/-! DEFINITION. Whose turn it is: the fibres that may issue (R46, R81, R93), the steps that the units may take, the order in which
the model takes them when nothing else is laid down (log entry 18), and what follows each step at once (R51, R82, R364). -/

namespace Sys2Proof.Machine

/-- Whether an address of a stage ring is no longer one whose consumer is not placed (R59). -/
def ringPlaced (s : State) (f : Fibre) (va : Word) : Bool :=
  match translateFibre s f .load va.toNat with
  | .ring => false
  | _ => true

/-- Whether a tile of a core is no longer filling, draining, named or read (R316, R340, R352). -/
def tileFree (s : State) (c t : Nat) : Bool :=
  let e := tileEnt s c t
  !tileMoving e && !matrixNames s c t
    && !(s.dist.gangs.any fun g => match coreIndex g c with
      | some k => holdsCores g && decide (g.tile.getD k 0 ≤ t) && decide (t < g.tile.getD k 0 + g.tiles)
          && copyReadsEnt s c ⟨c, g.spad.getD k 0, e⟩
      | none => false)

/-- Whether the condition that a parked fibre waits for is met, so that its instruction issues again or its trap is taken (R46). -/
def plainOver (s : State) (f : Fibre) (w : Wait) : Bool :=
  match w with
  | .marker => allReady f
  | .accesses => allPerformed s f.id
  | .trap _ _ => allReady f
  | .doom => allPerformed s f.id
  | .tile c t => teState (tileEnt s c t) == 2 || !teDef (tileEnt s c t)
  | .readers c t => tileFree s c t
  | .unit => (coreOf s f.core).vec.isEmpty
  | .array => decide ((arrayOf s (clusterOf f.core)).cmds.length < 2)
  | .ring va => ringPlaced s f va
  | .queue => decide (fifoUsed (coreOf s f.core) < 16)
  | .outst => decide (msgOut s f.core < 32)
  | .commands => decide ((s.idxCmds.filter fun c => c.core == f.core).length < 16)
  | .closing n => !s.idxCmds.any fun c => c.num == n
  | .fetch => f.words.all fun w => w.here
  | .refused c => decide (feWaiting s c < 64)
  | .walker => (walkerOf s (clusterOf f.core)).gang.isNone && walkTurn s (clusterOf f.core) f.id
  | .turning room =>
    let p := portOf s ((portOfCore f.core).getD 0)
    !p.turning && (!room || decide (p.replay.length < 64))
  | .owned us => !us.any fun u => owned s u.1 u.2
  | .walk w => if w = 0 then decide ((s.ms.walks.filter fun x => x.die == dieOf f.core).length < 32) else !s.ms.walks.any fun x => x.id == w
  | .home va => f.homeMap.any fun x => x.1 == va.toNat
  | .copies => !(coreOf s f.core).fifo.any fun x => x.fib == f.id
  | _ => false

/-- Whether the wait of a parked fibre is over; one within an instruction ends when what it still has to do can go on (R407). -/
def waitOver (s : State) (f : Fibre) (w : Wait) : Bool :=
  match w with
  | .job _ _ _ w j => (match j with
    | .access _ r _ => (match w with
      | .accesses => !mustFollow { s with fib := f } r
      | w => plainOver s f w)
    | .define core t base _ => !entryBusy s core t base
    | .state core t base set _ _ => !stateBusy s core t base set
    | .cache r loc _ => (match w with
      | .accesses => !lineBusy { s with fib := f } ⟨r.pa, r.cp, r.gr, loc, false, 0, 0, 0⟩
      | w => plainOver s f w)
    | _ => plainOver s f w)
  | w => plainOver s f w

/-- Whether a fibre's gang lets it issue (R46, R81). -/
def gangRuns (s : State) (f : Fibre) : Bool :=
  match f.ident.gang with
  | none => true
  | some g => match gangOf s g with
    | some x => x.st == .resident
    | none => false

/-- Whether a resumed fibre still asks for the array that it held: it issues nothing before it has it (R339). -/
def asksArray (s : State) (f : Fibre) : Bool := (arrayOf s (clusterOf f.core)).wait.any fun q => q.again && q.fib == f.id

/-- Whether a fibre may take an issue turn; a trap already raised is taken, and a GBEL that has begun to empty its slots goes on, though its
gang is being imaged (R81, R231, R391). -/
def mayIssue (s : State) (f : Fibre) : Bool :=
  match f.run with
  | .eligible => gangRuns s f && !asksArray s f
  | .parked (.trap _ _) => allReady f
  | .parked .doom => allPerformed s f.id
  | .parked w => (gangRuns s f || slotsBegun f) && !asksArray s f && waitOver s f w
  | _ => false

/-- A fibre's place in the order after a number, in rising numbers and round again. -/
def turnKey (last n : Nat) : Nat := if last < n then n else n + 2 ^ 64

/-- The fibre of least key. -/
def leastBy (key : Fibre → Nat) (l : List Fibre) : Option Fibre :=
  match l with
  | [] => none
  | f :: r => match leastBy key r with
    | none => some f
    | some g => if key g < key f then some g else some f

/-- Whether a fibre is the next of its core (R93): the handler unit has a path of its own. -/
def nextOnCore (s : State) (f : Fibre) : Bool :=
  f.ident.kind == .handler || match leastBy (fun x => turnKey (coreOf s f.core).last x.id)
      ((onCore s f.core).filter (mayIssue s)) with
    | some g => g.id == f.id
    | none => false

/-- The fibre to issue next: each core's next, and among the cores in turn. -/
def nextFibre (s : State) : Option Fibre :=
  leastBy (fun x => turnKey s.fib.id x.id) ((allFibres s).filter fun f => mayIssue s f && nextOnCore s f)

/-- A step of a unit. -/
abbrev UnitStep := State → Out

/-- The built-in handlers' steps on a packet. -/
def builtinSteps (k : Nat) : List UnitStep :=
  [execBuiltinLoad k, execBuiltinStore k, execBuiltinLdf k, execBuiltinLdfe k, execBuiltinSte k, execBuiltinStf k, execRemoteAtomic k, execLeaseRefresh k]

/-- The steps that take an answer. -/
def answerSteps (s : State) (k : Nat) (p : Packet) : List UnitStep :=
  (s.ms.reqs.filter fun r => r.sent && BitVec.ofNat 32 r.id == p.reqid).map (fun r =>
      if r.kind = .store then execStoreAck r.id (BitVec.ofNat 64 (areaNat p 8 8)) (BitVec.ofNat 6 (respCause p))
      else execLoadDataReturn r.fib r.id)
    ++ ((s.ms.far ++ (allFibres s).flatMap (·.words)).filter fun w => !w.here && BitVec.ofNat 32 w.req == p.reqid).map (fun w =>
      if w.op = 1 then execStoreAck w.req (BitVec.ofNat 64 (areaNat p 8 8)) (BitVec.ofNat 6 (respCause p)) else execLoadDataReturn 0 w.req)
    ++ (allFibres s).filterMap (fun f => match f.run with
      | .parked (.offer id _) => if BitVec.ofNat 32 id == p.reqid then some (execMigrationArrival f.id) else none
      | _ => none)
    ++ [execSendCompletionArrival k, execAmsgResponseArrival k]

/-- The steps that take an arrival, by its kind (R206). -/
def arrivalSteps (s : State) (k : Nat) (p : Packet) : List UnitStep :=
  match p.kind.toNat with
  | 3 => answerSteps s k p
  | 4 => execActiveMessageArrival k :: builtinSteps k
  | 5 => if p.status = 6 then [execEvictedReturnReceive] else answerSteps s k p
  | 6 => [execEagerSendArrival k]
  | 7 => [execRendezvousRequestArrival k]
  | 8 => [execMigrationArrival 0]
  | 10 => [execKickNoticeArrival k]
  | 11 => answerSteps s k p
  | _ => builtinSteps k

/-- The steps of the fabric. -/
def netSteps (s : State) : List UnitStep :=
  (List.range s.net.arrivals.length).flatMap (fun k => match s.net.arrivals[k]? with
      | some p => arrivalSteps s k p
      | none => [])
    ++ (if s.net.ingress.isEmpty then [] else [execPacketIngress])
    ++ (if s.net.router.isEmpty then [] else [execPacketForward])
    ++ (s.ports.filter fun x => !x.2.txq.isEmpty && !portUsable s x.1).map (fun x => execDetourTimeout x.1)
    ++ (s.ports.filter fun x => !(x.2.txq.isEmpty && x.2.resend.isEmpty) || x.2.nakDue).map fun x => execFlitTransmit x.1

/-- The steps of requests and walks. -/
def requestSteps (s : State) : List UnitStep :=
  s.ms.reqs.flatMap (fun r => if r.arrived then [execFeWaitServed r.id] else if r.sent || r.refused then [] else [execHomeRequest r.id 0])
    ++ s.ms.walks.map fun w => execPageWalkComplete w.id

/-- The step that a fibre waits for. -/
def fibreSteps (f : Fibre) : List UnitStep :=
  match f.run with
  | .migrating _ _ => [execMigrationArrival f.id]
  | .parked (.callat _ _) => [execCallatAnswer f.id]
  | .parked .vector => [execVectorInstructionComplete f.id]
  | .parked (.slot _) => [execGmsgSlotWrite f.id]
  | .parked (.codebook _) => [execCodebookReplace f.id]
  | .parked (.tlb _ _ _ _) => [execTlbInvalidationDone f.id]
  | .parked (.mask _ _) => [execScopemaskPropagated f.id]
  | .parked (.free _) => [execSwitchFreeDone f.id]
  | .parked .post => [execReceivePostEvent f.id]
  | .parked (.cancel _) => [execReceiveCancelEvent f.id]
  | .parked (.rewrite k) => [execHandlerRewriteEnd k]
  | _ => []

/-- The steps of a core's units. -/
def coreSteps (n : Nat) (c : Core) : List UnitStep :=
  (if c.fifo.isEmpty then [] else [execCopyCommandStart n, execCopyCommandComplete n])
    ++ (if c.kicks.isEmpty then [] else [execKickTransferStart n, execKickTransferComplete n])
    ++ (if c.hq.isEmpty then [] else [execHandlerStart n])
    ++ (if c.taskq.isEmpty then [] else [execTaskStart n])
    ++ c.vec.map fun j => execVectorInstructionComplete j.fib

/-- The steps of a cluster's array. -/
def arraySteps (cl : Nat) (a : MArray) : List UnitStep :=
  (if a.cmds.isEmpty then [] else [execMatrixStep cl, execMatrixCommandComplete cl]) ++ (if a.wait.isEmpty then [] else [execMatrixLeaseGrant cl])

/-- The steps of a cluster's walker. -/
def walkerSteps (cl : Nat) (w : Walker) : List UnitStep :=
  w.ready.flatMap (fun n => [execTaskNodeRun cl n, execConditionalNodeRun cl n, execWhileNodeRun cl n, execJoinNodeRun cl n, execLatchNodeRun cl n])
    ++ w.placed.flatMap fun n => [execTaskNodeRun cl n.1, execWalkerNodeComplete cl n.1]

/-- The steps of the index engines and receive engines. -/
def engineSteps (s : State) : List UnitStep :=
  s.idxCmds.flatMap (fun c => match c.op with
      | 0 => [execIndexLdnnAccept c.id, execIndexSearchComplete c.id]
      | 1 => [execIndexStvecPerform c.id, execVersionAreaFreed c.id]
      | _ => [execIndexDlvecPerform c.id])
    ++ s.recvs.flatMap fun e => e.2.pulls.map fun p => execRendezvousPullComplete p.id

/-- The steps of the distributor and its barriers. -/
def distSteps (s : State) : List UnitStep :=
  s.dist.barriers.flatMap (fun b => (barrierDies s b).map (fun d => execDieBarrierReport (barrierId b.grid b.key) d)
      ++ [execBarrierEpisodeComplete (barrierId b.grid b.key)])
    ++ s.dist.gangs.flatMap (fun g => match g.st with
      | .placing => [execClaimComplete g.id]
      | .imaging => [execImageClose g.id]
      | _ => [])
    ++ (s.dist.launches.filter fun l => l.st == .done).map (fun l => execLaunchCompletion l.num)
    ++ (if s.dist.launches.isEmpty then [] else [execDistributorTurn])

/-- The steps of the gateways. -/
def gatewaySteps (s : State) : List UnitStep :=
  s.dev.startPending.map (fun f => execGatewayFibreStart f) ++ (s.ports.filter fun x => x.2.role == 1).map fun x => execGatewayRoleTake x.1

/-- Every step that some unit may take now. -/
def unitSteps (s : State) : List UnitStep :=
  netSteps s ++ requestSteps s ++ (allFibres s).flatMap fibreSteps ++ s.cores.flatMap (fun c => coreSteps c.1 c.2)
    ++ s.arrays.flatMap (fun a => arraySteps a.1 a.2) ++ s.walkers.flatMap (fun w => walkerSteps w.1 w.2)
    ++ engineSteps s ++ distSteps s ++ gatewaySteps s

/-- Steps that may come at any time and that nothing waits for: retries, returns of values that exist, and ALIGN's end (R44, R53, R139). -/
def lateSteps (s : State) : List UnitStep :=
  (s.ms.reqs.filter fun r => r.refused).map (fun r => execRefusalRetry r.id)
    ++ (allFibres s).flatMap (fun f => (f.pend.filter fun p => p.val.isSome || p.fail.isSome).map fun p => execLoadDataReturn f.id p.id)
    ++ ((allFibres s).filter fun f => f.run == .parked .align).map fun f => execAlignTimeout f.id

/-- The state after the first of some steps that changes it. -/
def firstChange (s : State) (l : List UnitStep) : Option State :=
  match l with
  | [] => none
  | g :: r =>
    match g s with
    | .next t => if t = s then firstChange s r else some t
    | _ => firstChange s r

/-- What the model does when the agenda lays nothing down. -/
inductive Choice where
  | issue (n : Nat)
  | goto (t : State)
  | tick

/-- The choice when the agenda lays none down: a tick after sixteen turns (R167), else the units' steps, else a fibre's, else what
nothing waits for, else a tick. -/
def choose (s : State) : Choice :=
  if 16 ≤ s.sched.turns then .tick
  else match if s.sched.turns = 15 then firstChange s (lateSteps s) else none with
    | some t => .goto t
    | none => match firstChange s (unitSteps s) with
      | some t => .goto t
      | none => match nextFibre s with
        | some f => .issue f.id
        | none => match firstChange s (lateSteps s) with
          | some t => .goto t
          | none => .tick

/-- A turn begins: it is counted, and taken from the agenda. -/
def beginTurn (s : State) : State :=
  { s with sched := { s.sched with
    agenda := s.sched.agenda.tail
    turns := s.sched.turns + 1 } }

/-- A fibre takes its turn: it is the current one and, on its core, the last to issue (R93). -/
def takeTurn (s : State) (n : Nat) (d : Bool) : State :=
  let s := switchTo s n
  let s := { s with
    fib := { s.fib with run := .eligible }
    sched := { s.sched with defer := d } }
  if s.fib.ident.kind = .handler then s
  else setCore s s.fib.core { coreOf s s.fib.core with last := n }

/-- Whether the fibre of a number may take a turn: it may issue, and is its core's next (R93). -/
def canIssue (s : State) (n : Nat) : Bool :=
  match fibreOf s n with
  | some f => mayIssue s f && nextOnCore s f
  | none => false

/-- A home answers about a word of its gang's placement region; not before a ring's consumer is placed (R51, R59, R129). -/
def tellPlace (s : State) (m n : Nat) (va : Word) : Option State :=
  match fibreOf s n with
  | none => some s
  | some f => match gangOfFibre s f with
    | none => some s
    | some g => (placeBytes s g va.toNat).map fun d => tellModule s f m n 8 va d

/-- A control packet of another module (R208; log entry 13), none when it cannot be dealt with yet. -/
def takeControl (s : State) (p : Packet) : Option State :=
  let code := areaNat p 0 8
  let n := areaNat p 8 8
  let v := areaNat p 16 8
  let m := idMod p.src
  match code % 256 with
  | 2 => some (farResult s p.ten m n v)
  | 4 => some s
  | 5 => some (deathNotice s n (BitVec.ofNat 16 v))
  | 7 => tellPlace s m n (BitVec.ofNat 64 v)
  | 8 => some (hearPlace s m n (BitVec.ofNat 64 v) p.data)
  | 9 => some (recallGuest s (fun t => taskFibre 0 t 0) m n)
  | 12 => some (taskNumber s m n (some (v, BitVec.ofNat 64 (leNat (p.data.take 8)))))
  | 13 => some (taskNumber s m n none)
  | 14 => some (withdrawFar s p.ten m n)
  | 15 => some (modReq s n fun q => { q with place := 0 })
  | 17 => some (resultAgain s n (BitVec.ofNat 64 v))
  | 18 => some (((allFibres s).filter fun f => f.ident.guest == some (m, n)).foldl
      (fun s f => addFailure s f.id ⟨BitVec.ofNat 6 v, 0⟩) s)
  | _ => some (homeNews s p m code n v)

/-- Control packets among the arrivals are taken at once. -/
def takeControls (s : State) : State :=
  let l := s.net.arrivals.filter fun p => p.kind == 12
  if l.isEmpty then s
  else l.foldl (fun s p => (takeControl s p).getD { s with net := { s.net with arrivals := s.net.arrivals ++ [p] } })
    { s with net := { s.net with arrivals := s.net.arrivals.filter fun p => p.kind != 12 } }

/-- Whether a fibre of another module that its home asks for has come to a boundary at which a packet can carry it (R49, R81). -/
def recallReady (s : State) (f : Fibre) : Bool :=
  fibreCloses s f && !f.sup.frame && !f.mon.frame && f.failure.isNone && (firstMark f).isNone && f.words.isEmpty && !holdsLease s f

/-- Fibres that their homes ask for go there (R46, R81, R82). -/
def sendRecalled (s : State) : State :=
  let fs := (allFibres s).filter fun f => f.recalled && isResident f
  if fs.isEmpty then s
  else (fs.filter (recallReady s)).foldl (fun s f => match f.ident.guest with
    | none => s
    | some (m, _) =>
      let bar : Bool := match f.run with
        | .parked (.barrier _) => true
        | _ => false
      let g := imagedFibre s f
      let g := if bar then { freeRegs g f.heldFree with run := .eligible } else g
      let s := { s with
        walkWait := s.walkWait.filter fun w => w.2 != f.id
        watches := s.watches.filter fun w => !(w.fib == f.id && w.rem.isNone)
        ms := { s.ms with reqs := s.ms.reqs.filter fun q => q.fib != f.id } }
      forgetFibre (goHome s g m (if bar then f.heldDest else 0) bar) f.id) (askWithdraw s fs)

/-- Whether an answer is one that something here waits for. -/
def awaited (s : State) (p : Packet) : Bool :=
  let mine := fun (n : Nat) => BitVec.ofNat 32 n == p.reqid
  s.ms.reqs.any (fun r => r.sent && mine r.id) || s.net.outst.any (fun o => mine o.id)
    || s.ms.far.any (fun w => !w.here && mine w.req)
    || (allFibres s).any fun f => f.words.any (fun w => !w.here && mine w.req) || match f.run with
      | .parked (.offer id _) => mine id
      | _ => false

/-- Whether a packet is an answer to something that has ended; a return with EVICTED is about the module and never stray (R431). -/
def isStray (s : State) (p : Packet) : Bool :=
  (p.kind == 3 || p.kind == 11 || (p.kind == 5 && p.status != 6)) && !awaited s p

/-- Answers that nothing waits for any longer are discarded. -/
def dropStray (s : State) : State :=
  if s.net.arrivals.any (isStray s) then
    { s with net := { s.net with arrivals := s.net.arrivals.filter fun p => !isStray s p } }
  else s

/-- What follows each step at once: control packets, fibres that their homes ask for, answers to nothing, and receives whose tiles have come
free (R364). -/
def settle (s : State) : State := takePosted (dropStray (sendRecalled (takeControls s)))

end Sys2Proof.Machine
end

