-- ==== Sys2Proof/Machine/Turns.lean ====
section
/-! DEFINITION. A turn: a fibre fetches, decodes and runs an instruction, or a unit takes a step (R46, R93, R253, R405); and the placing
of one instruction where the next turn fetches it (log entry 19). -/

namespace Sys2Proof.Machine

/-- What an instruction that frees some registers and has result register `d` still does after a wait within it (R407). -/
def jobEff (free : BitVec 16) (d : Reg) (j : Job) (t : State) : Eff :=
  match j with
  | .copy c => copyEff t c
  | .kick o area => kickEff t o area
  | .send o tag scope rel => sendEff t o tag scope rel
  | .amsg o area scope rel => amsgEff t o area scope rel
  | .index c => indexEff t c
  | .post r desc => postEff t r desc
  | .call core v => callatEff t core v
  | .launch va => launchEff t va d
  | .migr pa => migrEff t free d pa
  | .graph va => graphEff t va
  | .walk w => walkEff t w
  | .access k r d => accessEff t k r d
  | .notify r d => notifyEff t r d
  | .cache r loc op => cacheEff t r loc op
  | .fence scope => fenceEff t scope
  | .exit v => exitEff t v
  | .trig => trigEff t
  | .arrive grid comb v => arriveEff t grid comb v
  | .tlbinv scope m all va => tlbinvEff t scope m all va
  | .mask n v => setMask t n v
  | .rewrite e v => rewriteEntry t e v
  | .free base => freeEff t base
  | .close num => closeEff t d num
  | .key k => keyEff t k
  | .turn => turnEff t
  | .define core k base w => defineEff t core k base w
  | .state core k base set st d => stateEff t core k base set st d
  | .belief n slots core base ent prior => beliefEff t d n slots ⟨core, base, ent⟩ prior slots

/-- The current fibre runs the instruction at its PC (R405). -/
def runFibre (s : State) : Out :=
  match fetchWord s with
  | .fault c => .next (fetchFault s c)
  | .came c => .next (raise s c s.fib.pc)
  | .later t => .next t
  | .word w t =>
    match decodeWord w with
    | .ok i => exec i t
    | .error r => .next (refuseWord t w r)

/-- A fibre's turn: it takes the trap that it has already raised (R391, R402), or runs its instruction. -/
def runNext (s : State) (n : Nat) (d : Bool) : Out :=
  match fibreOf s n with
  | none => .next s
  | some f => match f.run with
    | .parked (.trap c v) => .next (raise (takeTurn s n d) c v)
    | .parked .doom => .next (endTrap (takeTurn s n d))
    | .parked (.job free dest fail _ j) => .next (resumeWith (takeTurn s n d) (jobUse free dest fail) (jobEff free dest j))
    | _ => runFibre (takeTurn s n d)

/-- Whether a constructor is an event: it has no word. -/
def isEvent (i : Instr) : Bool := (encodeNat i).isNone

/-- A turn that the agenda lays down; one that cannot be taken passes. -/
def runTurn (s : State) (t : Turn) : Out :=
  match t with
  | .issue n d => if canIssue s n then runNext s n d else .next s
  | .event e => if isEvent e then exec e s else .next s

/-- The turn that the model chooses. -/
def runChoice (s : State) (c : Choice) : Out :=
  match c with
  | .issue n => runNext s n false
  | .goto t => .next t
  | .tick => .next (clockTick s)

/-- An outcome followed by what follows each step at once. -/
def settled (o : Out) : Out :=
  match o with
  | .next s => .next (settle s)
  | x => x

/-- One turn of a module that has not failed. -/
def takeOne (s : State) : Out :=
  settled (match s.sched.agenda with
    | t :: _ => runTurn (beginTurn s) t
    | [] => runChoice (beginTurn s) (choose (beginTurn s)))

/-- A failed module runs nothing until its reset (R438). -/
def failedTurn (s : State) : Out :=
  match s.sched.agenda with
  | .event .moduleReset :: _ => exec .moduleReset (beginTurn s)
  | _ => .fault .moduleFailed

/-- The leaf that maps virtual address 0 on to a physical address: RD, WR, EX and USR, uncached, switch memory (R127). -/
def leafWord (pa : Nat) : Nat := pa + 0x1E4B

/-- The next-level entry that points to a table (R127). -/
def tableWord (pa : Nat) : Nat := pa + 1

/-- Page tables for the device monitor in the module's switch memory: virtual address x is switch memory offset x (R126, R127). -/
def bootTables (s : State) : List Host.Cell :=
  let p := switchPa s 0 0
  mwr (mwr s.ms.mem p 8 (tableWord (p + 0x20000))) (p + 0x20000) 8 (leafWord p)

/-- The next turn is a fibre's: it is its core's next (R93). -/
def nextTurn (s : State) (n core : Nat) : State :=
  setCore { s with sched := { s.sched with agenda := [.issue n false] } } core { coreOf s core with last := n - 1 }

/-- The boot fibre started as by MCTL.GO from a boot record (R234), with an instruction at its PC and the turn its own. -/
def bootWith (s : State) (w : BitVec 32) : State :=
  let m := mwr (bootTables s) (switchPa s 0 0x40000) 4 w.toNat
  let s := { s with
    ms := { s.ms with mem := m }
    dev := { s.dev with go := false } }
  let s := startBoot (setMail (setMail s 0 0x40000) 8 (BitVec.ofNat 64 (switchPa s 0 0)))
  nextTurn s (s.sched.nextId - 1) 0

/-- The physical address of the current fibre's next word, where it may issue. -/
def nextPa (s : State) : Option Nat :=
  if mayIssue s s.fib && (match s.fib.run with
      | .parked (.trap _ _) => false
      | .parked .doom => false
      | _ => true) then
    match translateFibre s s.fib .fetch s.fib.pc.toNat with
    | .ok a => if isOwnMem s a.pa then some a.pa else none
    | _ => none
  else none

/-- A word stored at a physical address of this module, in the sight of every core. -/
def placeWord (s : State) (pa : Nat) (w : BitVec 32) : State :=
  nextTurn { s with ms := { s.ms with
    mem := mwr s.ms.mem pa 4 w.toNat
    copies := s.ms.copies.filter fun c => decide (c.addr < pa) || decide (pa + 4 ≤ c.addr)
    poison := s.ms.poison.filter fun x => x != pa / 8 } } s.fib.id s.fib.core

/-- An instruction placed where the next step fetches: at the current fibre's PC, or, where no fibre can take a turn there, at the PC of a
boot fibre that is started. -/
def placeInstr (s : State) (w : BitVec 32) : State :=
  match nextPa s with
  | some pa => placeWord s pa w
  | none => bootWith s w

end Sys2Proof.Machine
end

