-- ==== Sys2Proof/Machine/Step.lean ====
section
/-! DEFINITION. One step of the machine: the turn that the agenda lays down, or the one the model chooses. -/

namespace Sys2Proof.Machine

/-- One step. -/
def step (s : State) : Host.Outcome State Fault Refusal := if s.dev.failed then failedTurn s else takeOne s

/-- The state with an instruction of `nbits` bits `w`, numbered as the opcode table numbers them, where the next step fetches. -/
def State.withFetchWord (s : State) (nbits w : Nat) : State := placeInstr s (BitVec.ofNat 32 (w % 2 ^ nbits))

end Sys2Proof.Machine
end

