-- ==== Sys2Proof/Laws/Encoding.lean ====
section
/-! SUPPORT. Fields of encoded words: what the decoder's field reads give on the encoder's formats. -/

namespace Sys2Proof

theorem b1_lt (b : Bool) : b1 b < 2 := by cases b <;> decide

theorem fV_eq (w lo len : Nat) (v : BitVec len) (h : w / 2 ^ lo % 2 ^ len = v.toNat) : fV w lo len = v := by
  apply BitVec.eq_of_toNat_eq
  simp [fV, h]

theorem fB_eq (w lo : Nat) (b : Bool) (h : w / 2 ^ lo % 2 = b1 b) : fB w lo = b := by
  cases b <;> simp [fB, h, b1]

/-- A field that lies in the low `k` bits is a field of the number's remainder. -/
theorem field_mod (w lo len k : Nat) (h : lo + len ≤ k) : w % 2 ^ k / 2 ^ lo % 2 ^ len = w / 2 ^ lo % 2 ^ len := by
  apply Nat.eq_of_testBit_eq
  intro i
  simp only [Nat.testBit_mod_two_pow, Nat.testBit_div_two_pow]
  by_cases hi : i < len
  · have : lo + i < k := by omega
    simp [hi, Nat.add_comm lo i] at this ⊢
    intro _
    omega
  · simp [hi]

/-- A field of a low part, from the remainder. -/
theorem field_low (w f lo len k : Nat) (h : lo + len ≤ k) (hw : w % 2 ^ k = f) : w / 2 ^ lo % 2 ^ len = f / 2 ^ lo % 2 ^ len := by
  rw [← hw, field_mod w lo len k h]

theorem lt_R (y : Bool) (maj : Nat) (gd : Nat) (ga : Nat) (la : Bool) (gb : Nat) (lb : Bool) (fn : Nat) (h_maj : maj < 128) (h_gd : gd < 16) (h_ga : ga < 16) (h_gb : gb < 16) (h_fn : fn < 1024) : encR y maj gd ga la gb lb fn < 2 ^ 32 := by
  have b_y := b1_lt y
  have b_la := b1_lt la
  have b_lb := b1_lt lb
  unfold encR
  omega

theorem maj_R (y : Bool) (maj : Nat) (gd : Nat) (ga : Nat) (la : Bool) (gb : Nat) (lb : Bool) (fn : Nat) (h_maj : maj < 128) (h_gd : gd < 16) (h_ga : ga < 16) (h_gb : gb < 16) (h_fn : fn < 1024) : (encR y maj gd ga la gb lb fn) / 2 ^ 24 % 2 ^ 7 = maj := by
  have b_y := b1_lt y
  have b_la := b1_lt la
  have b_lb := b1_lt lb
  unfold encR
  omega

theorem y_R (y : Bool) (maj : Nat) (gd : Nat) (ga : Nat) (la : Bool) (gb : Nat) (lb : Bool) (fn : Nat) (h_maj : maj < 128) (h_gd : gd < 16) (h_ga : ga < 16) (h_gb : gb < 16) (h_fn : fn < 1024) : (encR y maj gd ga la gb lb fn) / 2 ^ 31 % 2 = b1 y := by
  have b_y := b1_lt y
  have b_la := b1_lt la
  have b_lb := b1_lt lb
  unfold encR
  omega

theorem at20_R (y : Bool) (maj : Nat) (gd : Nat) (ga : Nat) (la : Bool) (gb : Nat) (lb : Bool) (fn : Nat) (h_gd : gd < 16) (h_ga : ga < 16) (h_gb : gb < 16) (h_fn : fn < 1024) : (encR y maj gd ga la gb lb fn) / 2 ^ 20 % 2 ^ 4 = gd := by
  have b_y := b1_lt y
  have b_la := b1_lt la
  have b_lb := b1_lt lb
  unfold encR
  omega

theorem at16_R (y : Bool) (maj : Nat) (gd : Nat) (ga : Nat) (la : Bool) (gb : Nat) (lb : Bool) (fn : Nat) (h_ga : ga < 16) (h_gb : gb < 16) (h_fn : fn < 1024) : (encR y maj gd ga la gb lb fn) / 2 ^ 16 % 2 ^ 4 = ga := by
  have b_y := b1_lt y
  have b_la := b1_lt la
  have b_lb := b1_lt lb
  unfold encR
  omega

theorem at15_R (y : Bool) (maj : Nat) (gd : Nat) (ga : Nat) (la : Bool) (gb : Nat) (lb : Bool) (fn : Nat) (h_gb : gb < 16) (h_fn : fn < 1024) : (encR y maj gd ga la gb lb fn) / 2 ^ 15 % 2 ^ 1 = b1 la := by
  have b_y := b1_lt y
  have b_la := b1_lt la
  have b_lb := b1_lt lb
  unfold encR
  omega

theorem at11_R (y : Bool) (maj : Nat) (gd : Nat) (ga : Nat) (la : Bool) (gb : Nat) (lb : Bool) (fn : Nat) (h_gb : gb < 16) (h_fn : fn < 1024) : (encR y maj gd ga la gb lb fn) / 2 ^ 11 % 2 ^ 4 = gb := by
  have b_y := b1_lt y
  have b_la := b1_lt la
  have b_lb := b1_lt lb
  unfold encR
  omega

theorem at10_R (y : Bool) (maj : Nat) (gd : Nat) (ga : Nat) (la : Bool) (gb : Nat) (lb : Bool) (fn : Nat) (h_fn : fn < 1024) : (encR y maj gd ga la gb lb fn) / 2 ^ 10 % 2 ^ 1 = b1 lb := by
  have b_y := b1_lt y
  have b_la := b1_lt la
  have b_lb := b1_lt lb
  unfold encR
  omega

theorem low_R (y : Bool) (maj : Nat) (gd : Nat) (ga : Nat) (la : Bool) (gb : Nat) (lb : Bool) (fn : Nat) (h_fn : fn < 1024) : (encR y maj gd ga la gb lb fn) % 2 ^ 10 = fn := by
  have b_y := b1_lt y
  have b_la := b1_lt la
  have b_lb := b1_lt lb
  unfold encR
  omega

theorem lt_I (y : Bool) (maj : Nat) (gd : Nat) (ga : Nat) (la : Bool) (imm : Nat) (h_maj : maj < 128) (h_gd : gd < 16) (h_ga : ga < 16) (h_imm : imm < 32768) : encI y maj gd ga la imm < 2 ^ 32 := by
  have b_y := b1_lt y
  have b_la := b1_lt la
  unfold encI
  omega

theorem maj_I (y : Bool) (maj : Nat) (gd : Nat) (ga : Nat) (la : Bool) (imm : Nat) (h_maj : maj < 128) (h_gd : gd < 16) (h_ga : ga < 16) (h_imm : imm < 32768) : (encI y maj gd ga la imm) / 2 ^ 24 % 2 ^ 7 = maj := by
  have b_y := b1_lt y
  have b_la := b1_lt la
  unfold encI
  omega

theorem y_I (y : Bool) (maj : Nat) (gd : Nat) (ga : Nat) (la : Bool) (imm : Nat) (h_maj : maj < 128) (h_gd : gd < 16) (h_ga : ga < 16) (h_imm : imm < 32768) : (encI y maj gd ga la imm) / 2 ^ 31 % 2 = b1 y := by
  have b_y := b1_lt y
  have b_la := b1_lt la
  unfold encI
  omega

theorem at20_I (y : Bool) (maj : Nat) (gd : Nat) (ga : Nat) (la : Bool) (imm : Nat) (h_gd : gd < 16) (h_ga : ga < 16) (h_imm : imm < 32768) : (encI y maj gd ga la imm) / 2 ^ 20 % 2 ^ 4 = gd := by
  have b_y := b1_lt y
  have b_la := b1_lt la
  unfold encI
  omega

theorem at16_I (y : Bool) (maj : Nat) (gd : Nat) (ga : Nat) (la : Bool) (imm : Nat) (h_ga : ga < 16) (h_imm : imm < 32768) : (encI y maj gd ga la imm) / 2 ^ 16 % 2 ^ 4 = ga := by
  have b_y := b1_lt y
  have b_la := b1_lt la
  unfold encI
  omega

theorem at15_I (y : Bool) (maj : Nat) (gd : Nat) (ga : Nat) (la : Bool) (imm : Nat) (h_imm : imm < 32768) : (encI y maj gd ga la imm) / 2 ^ 15 % 2 ^ 1 = b1 la := by
  have b_y := b1_lt y
  have b_la := b1_lt la
  unfold encI
  omega

theorem low_I (y : Bool) (maj : Nat) (gd : Nat) (ga : Nat) (la : Bool) (imm : Nat) (h_imm : imm < 32768) : (encI y maj gd ga la imm) % 2 ^ 15 = imm := by
  have b_y := b1_lt y
  have b_la := b1_lt la
  unfold encI
  omega

theorem lt_J (y : Bool) (maj : Nat) (gd : Nat) (imm : Nat) (h_maj : maj < 128) (h_gd : gd < 16) (h_imm : imm < 1048576) : encJ y maj gd imm < 2 ^ 32 := by
  have b_y := b1_lt y
  unfold encJ
  omega

theorem maj_J (y : Bool) (maj : Nat) (gd : Nat) (imm : Nat) (h_maj : maj < 128) (h_gd : gd < 16) (h_imm : imm < 1048576) : (encJ y maj gd imm) / 2 ^ 24 % 2 ^ 7 = maj := by
  have b_y := b1_lt y
  unfold encJ
  omega

theorem y_J (y : Bool) (maj : Nat) (gd : Nat) (imm : Nat) (h_maj : maj < 128) (h_gd : gd < 16) (h_imm : imm < 1048576) : (encJ y maj gd imm) / 2 ^ 31 % 2 = b1 y := by
  have b_y := b1_lt y
  unfold encJ
  omega

theorem at20_J (y : Bool) (maj : Nat) (gd : Nat) (imm : Nat) (h_gd : gd < 16) (h_imm : imm < 1048576) : (encJ y maj gd imm) / 2 ^ 20 % 2 ^ 4 = gd := by
  have b_y := b1_lt y
  unfold encJ
  omega

theorem low_J (y : Bool) (maj : Nat) (gd : Nat) (imm : Nat) (h_imm : imm < 1048576) : (encJ y maj gd imm) % 2 ^ 20 = imm := by
  have b_y := b1_lt y
  unfold encJ
  omega

theorem lt_B (y : Bool) (maj : Nat) (ga : Nat) (la : Bool) (gb : Nat) (lb : Bool) (off : Nat) (h_maj : maj < 128) (h_ga : ga < 16) (h_gb : gb < 16) (h_off : off < 16384) : encB y maj ga la gb lb off < 2 ^ 32 := by
  have b_y := b1_lt y
  have b_la := b1_lt la
  have b_lb := b1_lt lb
  unfold encB
  omega

theorem maj_B (y : Bool) (maj : Nat) (ga : Nat) (la : Bool) (gb : Nat) (lb : Bool) (off : Nat) (h_maj : maj < 128) (h_ga : ga < 16) (h_gb : gb < 16) (h_off : off < 16384) : (encB y maj ga la gb lb off) / 2 ^ 24 % 2 ^ 7 = maj := by
  have b_y := b1_lt y
  have b_la := b1_lt la
  have b_lb := b1_lt lb
  unfold encB
  omega

theorem y_B (y : Bool) (maj : Nat) (ga : Nat) (la : Bool) (gb : Nat) (lb : Bool) (off : Nat) (h_maj : maj < 128) (h_ga : ga < 16) (h_gb : gb < 16) (h_off : off < 16384) : (encB y maj ga la gb lb off) / 2 ^ 31 % 2 = b1 y := by
  have b_y := b1_lt y
  have b_la := b1_lt la
  have b_lb := b1_lt lb
  unfold encB
  omega

theorem at20_B (y : Bool) (maj : Nat) (ga : Nat) (la : Bool) (gb : Nat) (lb : Bool) (off : Nat) (h_ga : ga < 16) (h_gb : gb < 16) (h_off : off < 16384) : (encB y maj ga la gb lb off) / 2 ^ 20 % 2 ^ 4 = ga := by
  have b_y := b1_lt y
  have b_la := b1_lt la
  have b_lb := b1_lt lb
  unfold encB
  omega

theorem at19_B (y : Bool) (maj : Nat) (ga : Nat) (la : Bool) (gb : Nat) (lb : Bool) (off : Nat) (h_gb : gb < 16) (h_off : off < 16384) : (encB y maj ga la gb lb off) / 2 ^ 19 % 2 ^ 1 = b1 la := by
  have b_y := b1_lt y
  have b_la := b1_lt la
  have b_lb := b1_lt lb
  unfold encB
  omega

theorem at15_B (y : Bool) (maj : Nat) (ga : Nat) (la : Bool) (gb : Nat) (lb : Bool) (off : Nat) (h_gb : gb < 16) (h_off : off < 16384) : (encB y maj ga la gb lb off) / 2 ^ 15 % 2 ^ 4 = gb := by
  have b_y := b1_lt y
  have b_la := b1_lt la
  have b_lb := b1_lt lb
  unfold encB
  omega

theorem at14_B (y : Bool) (maj : Nat) (ga : Nat) (la : Bool) (gb : Nat) (lb : Bool) (off : Nat) (h_off : off < 16384) : (encB y maj ga la gb lb off) / 2 ^ 14 % 2 ^ 1 = b1 lb := by
  have b_y := b1_lt y
  have b_la := b1_lt la
  have b_lb := b1_lt lb
  unfold encB
  omega

theorem low_B (y : Bool) (maj : Nat) (ga : Nat) (la : Bool) (gb : Nat) (lb : Bool) (off : Nat) (h_off : off < 16384) : (encB y maj ga la gb lb off) % 2 ^ 14 = off := by
  have b_y := b1_lt y
  have b_la := b1_lt la
  have b_lb := b1_lt lb
  unfold encB
  omega

theorem lt_T (y : Bool) (maj : Nat) (td : Nat) (ta : Nat) (tb : Nat) (fn : Nat) (h_maj : maj < 128) (h_td : td < 64) (h_ta : ta < 64) (h_tb : tb < 64) (h_fn : fn < 64) : encT y maj td ta tb fn < 2 ^ 32 := by
  have b_y := b1_lt y
  unfold encT
  omega

theorem maj_T (y : Bool) (maj : Nat) (td : Nat) (ta : Nat) (tb : Nat) (fn : Nat) (h_maj : maj < 128) (h_td : td < 64) (h_ta : ta < 64) (h_tb : tb < 64) (h_fn : fn < 64) : (encT y maj td ta tb fn) / 2 ^ 24 % 2 ^ 7 = maj := by
  have b_y := b1_lt y
  unfold encT
  omega

theorem y_T (y : Bool) (maj : Nat) (td : Nat) (ta : Nat) (tb : Nat) (fn : Nat) (h_maj : maj < 128) (h_td : td < 64) (h_ta : ta < 64) (h_tb : tb < 64) (h_fn : fn < 64) : (encT y maj td ta tb fn) / 2 ^ 31 % 2 = b1 y := by
  have b_y := b1_lt y
  unfold encT
  omega

theorem at18_T (y : Bool) (maj : Nat) (td : Nat) (ta : Nat) (tb : Nat) (fn : Nat) (h_td : td < 64) (h_ta : ta < 64) (h_tb : tb < 64) (h_fn : fn < 64) : (encT y maj td ta tb fn) / 2 ^ 18 % 2 ^ 6 = td := by
  have b_y := b1_lt y
  unfold encT
  omega

theorem at12_T (y : Bool) (maj : Nat) (td : Nat) (ta : Nat) (tb : Nat) (fn : Nat) (h_ta : ta < 64) (h_tb : tb < 64) (h_fn : fn < 64) : (encT y maj td ta tb fn) / 2 ^ 12 % 2 ^ 6 = ta := by
  have b_y := b1_lt y
  unfold encT
  omega

theorem at6_T (y : Bool) (maj : Nat) (td : Nat) (ta : Nat) (tb : Nat) (fn : Nat) (h_tb : tb < 64) (h_fn : fn < 64) : (encT y maj td ta tb fn) / 2 ^ 6 % 2 ^ 6 = tb := by
  have b_y := b1_lt y
  unfold encT
  omega

theorem low_T (y : Bool) (maj : Nat) (td : Nat) (ta : Nat) (tb : Nat) (fn : Nat) (h_fn : fn < 64) : (encT y maj td ta tb fn) % 2 ^ 6 = fn := by
  have b_y := b1_lt y
  unfold encT
  omega

theorem lt_X (y : Bool) (maj : Nat) (ga : Nat) (la : Bool) (gb : Nat) (lb : Bool) (eng : Nat) (cmd : Nat) (h_maj : maj < 128) (h_ga : ga < 16) (h_gb : gb < 16) (h_eng : eng < 16) (h_cmd : cmd < 1024) : encX y maj ga la gb lb eng cmd < 2 ^ 32 := by
  have b_y := b1_lt y
  have b_la := b1_lt la
  have b_lb := b1_lt lb
  unfold encX
  omega

theorem maj_X (y : Bool) (maj : Nat) (ga : Nat) (la : Bool) (gb : Nat) (lb : Bool) (eng : Nat) (cmd : Nat) (h_maj : maj < 128) (h_ga : ga < 16) (h_gb : gb < 16) (h_eng : eng < 16) (h_cmd : cmd < 1024) : (encX y maj ga la gb lb eng cmd) / 2 ^ 24 % 2 ^ 7 = maj := by
  have b_y := b1_lt y
  have b_la := b1_lt la
  have b_lb := b1_lt lb
  unfold encX
  omega

theorem y_X (y : Bool) (maj : Nat) (ga : Nat) (la : Bool) (gb : Nat) (lb : Bool) (eng : Nat) (cmd : Nat) (h_maj : maj < 128) (h_ga : ga < 16) (h_gb : gb < 16) (h_eng : eng < 16) (h_cmd : cmd < 1024) : (encX y maj ga la gb lb eng cmd) / 2 ^ 31 % 2 = b1 y := by
  have b_y := b1_lt y
  have b_la := b1_lt la
  have b_lb := b1_lt lb
  unfold encX
  omega

theorem at20_X (y : Bool) (maj : Nat) (ga : Nat) (la : Bool) (gb : Nat) (lb : Bool) (eng : Nat) (cmd : Nat) (h_ga : ga < 16) (h_gb : gb < 16) (h_eng : eng < 16) (h_cmd : cmd < 1024) : (encX y maj ga la gb lb eng cmd) / 2 ^ 20 % 2 ^ 4 = ga := by
  have b_y := b1_lt y
  have b_la := b1_lt la
  have b_lb := b1_lt lb
  unfold encX
  omega

theorem at19_X (y : Bool) (maj : Nat) (ga : Nat) (la : Bool) (gb : Nat) (lb : Bool) (eng : Nat) (cmd : Nat) (h_gb : gb < 16) (h_eng : eng < 16) (h_cmd : cmd < 1024) : (encX y maj ga la gb lb eng cmd) / 2 ^ 19 % 2 ^ 1 = b1 la := by
  have b_y := b1_lt y
  have b_la := b1_lt la
  have b_lb := b1_lt lb
  unfold encX
  omega

theorem at15_X (y : Bool) (maj : Nat) (ga : Nat) (la : Bool) (gb : Nat) (lb : Bool) (eng : Nat) (cmd : Nat) (h_gb : gb < 16) (h_eng : eng < 16) (h_cmd : cmd < 1024) : (encX y maj ga la gb lb eng cmd) / 2 ^ 15 % 2 ^ 4 = gb := by
  have b_y := b1_lt y
  have b_la := b1_lt la
  have b_lb := b1_lt lb
  unfold encX
  omega

theorem at14_X (y : Bool) (maj : Nat) (ga : Nat) (la : Bool) (gb : Nat) (lb : Bool) (eng : Nat) (cmd : Nat) (h_eng : eng < 16) (h_cmd : cmd < 1024) : (encX y maj ga la gb lb eng cmd) / 2 ^ 14 % 2 ^ 1 = b1 lb := by
  have b_y := b1_lt y
  have b_la := b1_lt la
  have b_lb := b1_lt lb
  unfold encX
  omega

theorem at10_X (y : Bool) (maj : Nat) (ga : Nat) (la : Bool) (gb : Nat) (lb : Bool) (eng : Nat) (cmd : Nat) (h_eng : eng < 16) (h_cmd : cmd < 1024) : (encX y maj ga la gb lb eng cmd) / 2 ^ 10 % 2 ^ 4 = eng := by
  have b_y := b1_lt y
  have b_la := b1_lt la
  have b_lb := b1_lt lb
  unfold encX
  omega

theorem low_X (y : Bool) (maj : Nat) (ga : Nat) (la : Bool) (gb : Nat) (lb : Bool) (eng : Nat) (cmd : Nat) (h_cmd : cmd < 1024) : (encX y maj ga la gb lb eng cmd) % 2 ^ 10 = cmd := by
  have b_y := b1_lt y
  have b_la := b1_lt la
  have b_lb := b1_lt lb
  unfold encX
  omega

theorem lt_P (y : Bool) (maj : Nat) (low : Nat) (h_maj : maj < 128) (h_low : low < 16777216) : encP y maj low < 2 ^ 32 := by
  have b_y := b1_lt y
  unfold encP
  omega

theorem maj_P (y : Bool) (maj : Nat) (low : Nat) (h_maj : maj < 128) (h_low : low < 16777216) : (encP y maj low) / 2 ^ 24 % 2 ^ 7 = maj := by
  have b_y := b1_lt y
  unfold encP
  omega

theorem y_P (y : Bool) (maj : Nat) (low : Nat) (h_maj : maj < 128) (h_low : low < 16777216) : (encP y maj low) / 2 ^ 31 % 2 = b1 y := by
  have b_y := b1_lt y
  unfold encP
  omega

theorem low_P (y : Bool) (maj : Nat) (low : Nat) (h_low : low < 16777216) : (encP y maj low) % 2 ^ 24 = low := by
  have b_y := b1_lt y
  unfold encP
  omega

/-- A word read back from its bytes. -/
theorem bytes_word (v : BitVec 32) :
    wordOfBytes (v.extractLsb' 0 8) (v.extractLsb' 8 8) (v.extractLsb' 16 8) (v.extractLsb' 24 8) = v.toNat := by
  have := v.isLt
  simp only [wordOfBytes, BitVec.extractLsb'_toNat, Nat.shiftRight_eq_div_pow]
  omega

end Sys2Proof
end

