-- ==== Sys2Proof/Laws/PerInstr.lean ====
section
/-! SUPPORT. The family RoundTrip: for each constructor, decoding the bytes of its encoding gives it back (R251-R265, R270). -/

set_option Elab.async false

namespace Sys2Proof.Laws.RoundTrip

/-- A well-formed instruction that has a word is decoded from the four bytes of that word, and nothing is left over; an event has no
word. -/
def Statement (i : Instr) : Prop :=
  match encodeNat i with
  | some _ => i.wf = true → decode (bytesOfWord (encode i)) = .ok (i, [])
  | none => encode i = 0

theorem of_bytes (d : Nat → Except Reject Instr) (i : Instr) (v : BitVec 32) (n : Nat) (hv : v.toNat = n) (h : d n = .ok i) :
    decodeWith d (bytesOfWord v) = .ok (i, []) := by
  simp only [bytesOfWord, decodeWith, bytes_word, hv, h]
  rfl

/-- From the decoding of the number of a word to that of its bytes. -/
theorem of_number (i : Instr) (w : Nat) (he : encodeNat i = some w) (hl : w < 2 ^ 32)
    (hd : i.wf = true → decodeNat w = .ok i) : Statement i := by
  unfold Statement
  rw [he]
  intro h
  have hn : (BitVec.ofNat 32 w).toNat = w := by
    simp only [BitVec.toNat_ofNat, Nat.mod_eq_of_lt hl]
  have hv : encode i = BitVec.ofNat 32 w := by
    simp only [encode, he]
  rw [hv]
  exact of_bytes decodeNat i _ w hn (hd h)

theorem at_dec00 (w : Nat) (h : fN w 24 7 = 0x00) : decodeNat w = dec00 w := by
  simp only [decodeNat, h]

theorem at_dec01 (w : Nat) (h : fN w 24 7 = 0x01) : decodeNat w = dec01 w := by
  simp only [decodeNat, h]

theorem at_dec10 (w : Nat) (h : fN w 24 7 = 0x10) : decodeNat w = dec10 w := by
  simp only [decodeNat, h]

theorem at_dec11 (w : Nat) (h : fN w 24 7 = 0x11) : decodeNat w = dec11 w := by
  simp only [decodeNat, h]

theorem at_dec12 (w : Nat) (h : fN w 24 7 = 0x12) : decodeNat w = dec12 w := by
  simp only [decodeNat, h]

theorem at_dec13 (w : Nat) (h : fN w 24 7 = 0x13) : decodeNat w = dec13 w := by
  simp only [decodeNat, h]

theorem at_dec14 (w : Nat) (h : fN w 24 7 = 0x14) : decodeNat w = dec14 w := by
  simp only [decodeNat, h]

theorem at_dec15 (w : Nat) (h : fN w 24 7 = 0x15) : decodeNat w = dec15 w := by
  simp only [decodeNat, h]

theorem at_dec16 (w : Nat) (h : fN w 24 7 = 0x16) : decodeNat w = dec16 w := by
  simp only [decodeNat, h]

theorem at_dec17 (w : Nat) (h : fN w 24 7 = 0x17) : decodeNat w = dec17 w := by
  simp only [decodeNat, h]

theorem at_dec18 (w : Nat) (h : fN w 24 7 = 0x18) : decodeNat w = dec18 w := by
  simp only [decodeNat, h]

theorem at_dec19 (w : Nat) (h : fN w 24 7 = 0x19) : decodeNat w = dec19 w := by
  simp only [decodeNat, h]

theorem at_dec1A (w : Nat) (h : fN w 24 7 = 0x1A) : decodeNat w = dec1A w := by
  simp only [decodeNat, h]

theorem at_dec1B (w : Nat) (h : fN w 24 7 = 0x1B) : decodeNat w = dec1B w := by
  simp only [decodeNat, h]

theorem at_dec1C (w : Nat) (h : fN w 24 7 = 0x1C) : decodeNat w = dec1C w := by
  simp only [decodeNat, h]

theorem at_dec1D (w : Nat) (h : fN w 24 7 = 0x1D) : decodeNat w = dec1D w := by
  simp only [decodeNat, h]

theorem at_dec20 (w : Nat) (h : fN w 24 7 = 0x20) : decodeNat w = dec20 w := by
  simp only [decodeNat, h]

theorem at_dec28 (w : Nat) (h : fN w 24 7 = 0x28) : decodeNat w = dec28 w := by
  simp only [decodeNat, h]

theorem at_dec29 (w : Nat) (h : fN w 24 7 = 0x29) : decodeNat w = dec29 w := by
  simp only [decodeNat, h]

theorem at_dec2A (w : Nat) (h : fN w 24 7 = 0x2A) : decodeNat w = dec2A w := by
  simp only [decodeNat, h]

theorem at_dec2B (w : Nat) (h : fN w 24 7 = 0x2B) : decodeNat w = dec2B w := by
  simp only [decodeNat, h]

theorem at_dec2C (w : Nat) (h : fN w 24 7 = 0x2C) : decodeNat w = dec2C w := by
  simp only [decodeNat, h]

theorem at_dec2D (w : Nat) (h : fN w 24 7 = 0x2D) : decodeNat w = dec2D w := by
  simp only [decodeNat, h]

theorem at_dec2E (w : Nat) (h : fN w 24 7 = 0x2E) : decodeNat w = dec2E w := by
  simp only [decodeNat, h]

theorem at_dec2F (w : Nat) (h : fN w 24 7 = 0x2F) : decodeNat w = dec2F w := by
  simp only [decodeNat, h]

theorem at_dec30 (w : Nat) (h : fN w 24 7 = 0x30) : decodeNat w = dec30 w := by
  simp only [decodeNat, h]

theorem at_dec31 (w : Nat) (h : fN w 24 7 = 0x31) : decodeNat w = dec31 w := by
  simp only [decodeNat, h]

theorem at_dec32 (w : Nat) (h : fN w 24 7 = 0x32) : decodeNat w = dec32 w := by
  simp only [decodeNat, h]

theorem at_dec33 (w : Nat) (h : fN w 24 7 = 0x33) : decodeNat w = dec33 w := by
  simp only [decodeNat, h]

theorem at_dec34 (w : Nat) (h : fN w 24 7 = 0x34) : decodeNat w = dec34 w := by
  simp only [decodeNat, h]

theorem at_dec35 (w : Nat) (h : fN w 24 7 = 0x35) : decodeNat w = dec35 w := by
  simp only [decodeNat, h]

theorem at_dec36 (w : Nat) (h : fN w 24 7 = 0x36) : decodeNat w = dec36 w := by
  simp only [decodeNat, h]

theorem at_dec37 (w : Nat) (h : fN w 24 7 = 0x37) : decodeNat w = dec37 w := by
  simp only [decodeNat, h]

theorem at_dec38 (w : Nat) (h : fN w 24 7 = 0x38) : decodeNat w = dec38 w := by
  simp only [decodeNat, h]

theorem at_dec39 (w : Nat) (h : fN w 24 7 = 0x39) : decodeNat w = dec39 w := by
  simp only [decodeNat, h]

theorem at_dec3A (w : Nat) (h : fN w 24 7 = 0x3A) : decodeNat w = dec3A w := by
  simp only [decodeNat, h]

theorem at_dec3B (w : Nat) (h : fN w 24 7 = 0x3B) : decodeNat w = dec3B w := by
  simp only [decodeNat, h]

theorem at_dec3C (w : Nat) (h : fN w 24 7 = 0x3C) : decodeNat w = dec3C w := by
  simp only [decodeNat, h]

theorem at_dec3D (w : Nat) (h : fN w 24 7 = 0x3D) : decodeNat w = dec3D w := by
  simp only [decodeNat, h]

theorem at_dec3E (w : Nat) (h : fN w 24 7 = 0x3E) : decodeNat w = dec3E w := by
  simp only [decodeNat, h]

theorem at_dec40 (w : Nat) (h : fN w 24 7 = 0x40) : decodeNat w = dec40 w := by
  simp only [decodeNat, h]

theorem at_dec41 (w : Nat) (h : fN w 24 7 = 0x41) : decodeNat w = dec41 w := by
  simp only [decodeNat, h]

theorem at_dec42 (w : Nat) (h : fN w 24 7 = 0x42) : decodeNat w = dec42 w := by
  simp only [decodeNat, h]

theorem at_dec43 (w : Nat) (h : fN w 24 7 = 0x43) : decodeNat w = dec43 w := by
  simp only [decodeNat, h]

theorem at_dec44 (w : Nat) (h : fN w 24 7 = 0x44) : decodeNat w = dec44 w := by
  simp only [decodeNat, h]

theorem at_dec45 (w : Nat) (h : fN w 24 7 = 0x45) : decodeNat w = dec45 w := by
  simp only [decodeNat, h]

theorem at_dec46 (w : Nat) (h : fN w 24 7 = 0x46) : decodeNat w = dec46 w := by
  simp only [decodeNat, h]

theorem at_dec47 (w : Nat) (h : fN w 24 7 = 0x47) : decodeNat w = dec47 w := by
  simp only [decodeNat, h]

theorem at_dec48 (w : Nat) (h : fN w 24 7 = 0x48) : decodeNat w = dec48 w := by
  simp only [decodeNat, h]

theorem at_dec49 (w : Nat) (h : fN w 24 7 = 0x49) : decodeNat w = dec49 w := by
  simp only [decodeNat, h]

theorem at_dec4A (w : Nat) (h : fN w 24 7 = 0x4A) : decodeNat w = dec4A w := by
  simp only [decodeNat, h]

theorem at_dec4B (w : Nat) (h : fN w 24 7 = 0x4B) : decodeNat w = dec4B w := by
  simp only [decodeNat, h]

theorem at_dec4C (w : Nat) (h : fN w 24 7 = 0x4C) : decodeNat w = dec4C w := by
  simp only [decodeNat, h]

theorem at_dec4D (w : Nat) (h : fN w 24 7 = 0x4D) : decodeNat w = dec4D w := by
  simp only [decodeNat, h]

theorem at_dec4E (w : Nat) (h : fN w 24 7 = 0x4E) : decodeNat w = dec4E w := by
  simp only [decodeNat, h]

theorem at_dec50 (w : Nat) (h : fN w 24 7 = 0x50) : decodeNat w = dec50 w := by
  simp only [decodeNat, h]

theorem at_dec51 (w : Nat) (h : fN w 24 7 = 0x51) : decodeNat w = dec51 w := by
  simp only [decodeNat, h]

theorem at_dec52 (w : Nat) (h : fN w 24 7 = 0x52) : decodeNat w = dec52 w := by
  simp only [decodeNat, h]

theorem at_dec53 (w : Nat) (h : fN w 24 7 = 0x53) : decodeNat w = dec53 w := by
  simp only [decodeNat, h]

theorem at_dec54 (w : Nat) (h : fN w 24 7 = 0x54) : decodeNat w = dec54 w := by
  simp only [decodeNat, h]

theorem at_dec58 (w : Nat) (h : fN w 24 7 = 0x58) : decodeNat w = dec58 w := by
  simp only [decodeNat, h]

theorem at_dec60 (w : Nat) (h : fN w 24 7 = 0x60) : decodeNat w = dec60 w := by
  simp only [decodeNat, h]

theorem at_dec61 (w : Nat) (h : fN w 24 7 = 0x61) : decodeNat w = dec61 w := by
  simp only [decodeNat, h]

theorem at_dec62 (w : Nat) (h : fN w 24 7 = 0x62) : decodeNat w = dec62 w := by
  simp only [decodeNat, h]

theorem at_dec63 (w : Nat) (h : fN w 24 7 = 0x63) : decodeNat w = dec63 w := by
  simp only [decodeNat, h]

theorem at_dec64 (w : Nat) (h : fN w 24 7 = 0x64) : decodeNat w = dec64 w := by
  simp only [decodeNat, h]

theorem at_dec65 (w : Nat) (h : fN w 24 7 = 0x65) : decodeNat w = dec65 w := by
  simp only [decodeNat, h]

theorem at_dec66 (w : Nat) (h : fN w 24 7 = 0x66) : decodeNat w = dec66 w := by
  simp only [decodeNat, h]

theorem at_dec67 (w : Nat) (h : fN w 24 7 = 0x67) : decodeNat w = dec67 w := by
  simp only [decodeNat, h]

theorem at_dec68 (w : Nat) (h : fN w 24 7 = 0x68) : decodeNat w = dec68 w := by
  simp only [decodeNat, h]

theorem at_dec70 (w : Nat) (h : fN w 24 7 = 0x70) : decodeNat w = dec70 w := by
  simp only [decodeNat, h]

theorem at_dec71 (w : Nat) (h : fN w 24 7 = 0x71) : decodeNat w = dec71 w := by
  simp only [decodeNat, h]

theorem add (y : Bool) (gd : BitVec 4) (ga : BitVec 4) (la : Bool) (gb : BitVec 4) (lb : Bool) (sat : Bool) (uns : Bool) : Statement (.add y gd ga la gb lb sat uns) := by
  have q_gd := gd.isLt
  have q_ga := ga.isLt
  have q_gb := gb.isLt
  have b_y := b1_lt y
  have b_la := b1_lt la
  have b_lb := b1_lt lb
  have b_sat := b1_lt sat
  have b_uns := b1_lt uns
  have hlo : (b1 sat * 0x200 + b1 uns * 0x100) < 1024 := by omega
  refine of_number _ (encR y 0x00 gd.toNat ga.toNat la gb.toNat lb (b1 sat * 0x200 + b1 uns * 0x100)) rfl (lt_R y 0x00 gd.toNat ga.toNat la gb.toNat lb (b1 sat * 0x200 + b1 uns * 0x100) (by decide) gd.isLt ga.isLt gb.isLt hlo) fun h => ?_
  have hm := maj_R y 0x00 gd.toNat ga.toNat la gb.toNat lb (b1 sat * 0x200 + b1 uns * 0x100) (by decide) gd.isLt ga.isLt gb.isLt hlo
  have hy := y_R y 0x00 gd.toNat ga.toNat la gb.toNat lb (b1 sat * 0x200 + b1 uns * 0x100) (by decide) gd.isLt ga.isLt gb.isLt hlo
  have hl := low_R y 0x00 gd.toNat ga.toNat la gb.toNat lb (b1 sat * 0x200 + b1 uns * 0x100) hlo
  have a20 := at20_R y 0x00 gd.toNat ga.toNat la gb.toNat lb (b1 sat * 0x200 + b1 uns * 0x100) gd.isLt ga.isLt gb.isLt hlo
  have a16 := at16_R y 0x00 gd.toNat ga.toNat la gb.toNat lb (b1 sat * 0x200 + b1 uns * 0x100) ga.isLt gb.isLt hlo
  have a15 := at15_R y 0x00 gd.toNat ga.toNat la gb.toNat lb (b1 sat * 0x200 + b1 uns * 0x100) gb.isLt hlo
  have a11 := at11_R y 0x00 gd.toNat ga.toNat la gb.toNat lb (b1 sat * 0x200 + b1 uns * 0x100) gb.isLt hlo
  have a10 := at10_R y 0x00 gd.toNat ga.toNat la gb.toNat lb (b1 sat * 0x200 + b1 uns * 0x100) hlo
  generalize encR y 0x00 gd.toNat ga.toNat la gb.toNat lb (b1 sat * 0x200 + b1 uns * 0x100) = w at *
  have e1 : fN w 0 6 = 0x0 := ((field_low _ _ 0 6 10 (by decide) hl)).trans (by omega)
  have e2 : fN w 6 2 = 0 := ((field_low _ _ 6 2 10 (by decide) hl)).trans (by omega)
  have e3 : fB w 31 = y := fB_eq _ _ _ (hy)
  have e4 : fV w 20 4 = gd := fV_eq _ _ _ _ (a20)
  have e5 : fV w 16 4 = ga := fV_eq _ _ _ _ (a16)
  have e6 : fB w 15 = la := fB_eq _ _ _ (a15)
  have e7 : fV w 11 4 = gb := fV_eq _ _ _ _ (a11)
  have e8 : fB w 10 = lb := fB_eq _ _ _ (a10)
  have e9 : fB w 9 = sat := fB_eq _ _ _ (((field_low _ _ 9 1 10 (by decide) hl)).trans (by omega))
  have e10 : fB w 8 = uns := fB_eq _ _ _ (((field_low _ _ 8 1 10 (by decide) hl)).trans (by omega))
  have hM : fN w 24 7 = 0x00 := hm
  rw [at_dec00 w hM]
  simp only [dec00, e1, e2, e3, e4, e5, e6, e7, e8, e9, e10, need, h]
  rfl

theorem sub (y : Bool) (gd : BitVec 4) (ga : BitVec 4) (la : Bool) (gb : BitVec 4) (lb : Bool) (sat : Bool) (uns : Bool) : Statement (.sub y gd ga la gb lb sat uns) := by
  have q_gd := gd.isLt
  have q_ga := ga.isLt
  have q_gb := gb.isLt
  have b_y := b1_lt y
  have b_la := b1_lt la
  have b_lb := b1_lt lb
  have b_sat := b1_lt sat
  have b_uns := b1_lt uns
  have hlo : (b1 sat * 0x200 + b1 uns * 0x100 + 1) < 1024 := by omega
  refine of_number _ (encR y 0x00 gd.toNat ga.toNat la gb.toNat lb (b1 sat * 0x200 + b1 uns * 0x100 + 1)) rfl (lt_R y 0x00 gd.toNat ga.toNat la gb.toNat lb (b1 sat * 0x200 + b1 uns * 0x100 + 1) (by decide) gd.isLt ga.isLt gb.isLt hlo) fun h => ?_
  have hm := maj_R y 0x00 gd.toNat ga.toNat la gb.toNat lb (b1 sat * 0x200 + b1 uns * 0x100 + 1) (by decide) gd.isLt ga.isLt gb.isLt hlo
  have hy := y_R y 0x00 gd.toNat ga.toNat la gb.toNat lb (b1 sat * 0x200 + b1 uns * 0x100 + 1) (by decide) gd.isLt ga.isLt gb.isLt hlo
  have hl := low_R y 0x00 gd.toNat ga.toNat la gb.toNat lb (b1 sat * 0x200 + b1 uns * 0x100 + 1) hlo
  have a20 := at20_R y 0x00 gd.toNat ga.toNat la gb.toNat lb (b1 sat * 0x200 + b1 uns * 0x100 + 1) gd.isLt ga.isLt gb.isLt hlo
  have a16 := at16_R y 0x00 gd.toNat ga.toNat la gb.toNat lb (b1 sat * 0x200 + b1 uns * 0x100 + 1) ga.isLt gb.isLt hlo
  have a15 := at15_R y 0x00 gd.toNat ga.toNat la gb.toNat lb (b1 sat * 0x200 + b1 uns * 0x100 + 1) gb.isLt hlo
  have a11 := at11_R y 0x00 gd.toNat ga.toNat la gb.toNat lb (b1 sat * 0x200 + b1 uns * 0x100 + 1) gb.isLt hlo
  have a10 := at10_R y 0x00 gd.toNat ga.toNat la gb.toNat lb (b1 sat * 0x200 + b1 uns * 0x100 + 1) hlo
  generalize encR y 0x00 gd.toNat ga.toNat la gb.toNat lb (b1 sat * 0x200 + b1 uns * 0x100 + 1) = w at *
  have e1 : fN w 0 6 = 0x1 := ((field_low _ _ 0 6 10 (by decide) hl)).trans (by omega)
  have e2 : fN w 6 2 = 0 := ((field_low _ _ 6 2 10 (by decide) hl)).trans (by omega)
  have e3 : fB w 31 = y := fB_eq _ _ _ (hy)
  have e4 : fV w 20 4 = gd := fV_eq _ _ _ _ (a20)
  have e5 : fV w 16 4 = ga := fV_eq _ _ _ _ (a16)
  have e6 : fB w 15 = la := fB_eq _ _ _ (a15)
  have e7 : fV w 11 4 = gb := fV_eq _ _ _ _ (a11)
  have e8 : fB w 10 = lb := fB_eq _ _ _ (a10)
  have e9 : fB w 9 = sat := fB_eq _ _ _ (((field_low _ _ 9 1 10 (by decide) hl)).trans (by omega))
  have e10 : fB w 8 = uns := fB_eq _ _ _ (((field_low _ _ 8 1 10 (by decide) hl)).trans (by omega))
  have hM : fN w 24 7 = 0x00 := hm
  rw [at_dec00 w hM]
  simp only [dec00, e1, e2, e3, e4, e5, e6, e7, e8, e9, e10, need, h]
  rfl

theorem and (y : Bool) (gd : BitVec 4) (ga : BitVec 4) (la : Bool) (gb : BitVec 4) (lb : Bool) : Statement (.and y gd ga la gb lb) := by
  have q_gd := gd.isLt
  have q_ga := ga.isLt
  have q_gb := gb.isLt
  have b_y := b1_lt y
  have b_la := b1_lt la
  have b_lb := b1_lt lb
  refine of_number _ (encR y 0x00 gd.toNat ga.toNat la gb.toNat lb 2) rfl (lt_R y 0x00 gd.toNat ga.toNat la gb.toNat lb 2 (by decide) gd.isLt ga.isLt gb.isLt (by decide)) fun h => ?_
  have hm := maj_R y 0x00 gd.toNat ga.toNat la gb.toNat lb 2 (by decide) gd.isLt ga.isLt gb.isLt (by decide)
  have hy := y_R y 0x00 gd.toNat ga.toNat la gb.toNat lb 2 (by decide) gd.isLt ga.isLt gb.isLt (by decide)
  have hl := low_R y 0x00 gd.toNat ga.toNat la gb.toNat lb 2 (by decide)
  have a20 := at20_R y 0x00 gd.toNat ga.toNat la gb.toNat lb 2 gd.isLt ga.isLt gb.isLt (by decide)
  have a16 := at16_R y 0x00 gd.toNat ga.toNat la gb.toNat lb 2 ga.isLt gb.isLt (by decide)
  have a15 := at15_R y 0x00 gd.toNat ga.toNat la gb.toNat lb 2 gb.isLt (by decide)
  have a11 := at11_R y 0x00 gd.toNat ga.toNat la gb.toNat lb 2 gb.isLt (by decide)
  have a10 := at10_R y 0x00 gd.toNat ga.toNat la gb.toNat lb 2 (by decide)
  generalize encR y 0x00 gd.toNat ga.toNat la gb.toNat lb 2 = w at *
  have e1 : fN w 0 6 = 0x2 := ((field_low _ _ 0 6 10 (by decide) hl)).trans (by omega)
  have e2 : fN w 6 4 = 0 := ((field_low _ _ 6 4 10 (by decide) hl)).trans (by omega)
  have e3 : fB w 31 = y := fB_eq _ _ _ (hy)
  have e4 : fV w 20 4 = gd := fV_eq _ _ _ _ (a20)
  have e5 : fV w 16 4 = ga := fV_eq _ _ _ _ (a16)
  have e6 : fB w 15 = la := fB_eq _ _ _ (a15)
  have e7 : fV w 11 4 = gb := fV_eq _ _ _ _ (a11)
  have e8 : fB w 10 = lb := fB_eq _ _ _ (a10)
  have hM : fN w 24 7 = 0x00 := hm
  rw [at_dec00 w hM]
  simp only [dec00, e1, e2, e3, e4, e5, e6, e7, e8, need, h]
  rfl

theorem or (y : Bool) (gd : BitVec 4) (ga : BitVec 4) (la : Bool) (gb : BitVec 4) (lb : Bool) : Statement (.or y gd ga la gb lb) := by
  have q_gd := gd.isLt
  have q_ga := ga.isLt
  have q_gb := gb.isLt
  have b_y := b1_lt y
  have b_la := b1_lt la
  have b_lb := b1_lt lb
  refine of_number _ (encR y 0x00 gd.toNat ga.toNat la gb.toNat lb 3) rfl (lt_R y 0x00 gd.toNat ga.toNat la gb.toNat lb 3 (by decide) gd.isLt ga.isLt gb.isLt (by decide)) fun h => ?_
  have hm := maj_R y 0x00 gd.toNat ga.toNat la gb.toNat lb 3 (by decide) gd.isLt ga.isLt gb.isLt (by decide)
  have hy := y_R y 0x00 gd.toNat ga.toNat la gb.toNat lb 3 (by decide) gd.isLt ga.isLt gb.isLt (by decide)
  have hl := low_R y 0x00 gd.toNat ga.toNat la gb.toNat lb 3 (by decide)
  have a20 := at20_R y 0x00 gd.toNat ga.toNat la gb.toNat lb 3 gd.isLt ga.isLt gb.isLt (by decide)
  have a16 := at16_R y 0x00 gd.toNat ga.toNat la gb.toNat lb 3 ga.isLt gb.isLt (by decide)
  have a15 := at15_R y 0x00 gd.toNat ga.toNat la gb.toNat lb 3 gb.isLt (by decide)
  have a11 := at11_R y 0x00 gd.toNat ga.toNat la gb.toNat lb 3 gb.isLt (by decide)
  have a10 := at10_R y 0x00 gd.toNat ga.toNat la gb.toNat lb 3 (by decide)
  generalize encR y 0x00 gd.toNat ga.toNat la gb.toNat lb 3 = w at *
  have e1 : fN w 0 6 = 0x3 := ((field_low _ _ 0 6 10 (by decide) hl)).trans (by omega)
  have e2 : fN w 6 4 = 0 := ((field_low _ _ 6 4 10 (by decide) hl)).trans (by omega)
  have e3 : fB w 31 = y := fB_eq _ _ _ (hy)
  have e4 : fV w 20 4 = gd := fV_eq _ _ _ _ (a20)
  have e5 : fV w 16 4 = ga := fV_eq _ _ _ _ (a16)
  have e6 : fB w 15 = la := fB_eq _ _ _ (a15)
  have e7 : fV w 11 4 = gb := fV_eq _ _ _ _ (a11)
  have e8 : fB w 10 = lb := fB_eq _ _ _ (a10)
  have hM : fN w 24 7 = 0x00 := hm
  rw [at_dec00 w hM]
  simp only [dec00, e1, e2, e3, e4, e5, e6, e7, e8, need, h]
  rfl

theorem xor (y : Bool) (gd : BitVec 4) (ga : BitVec 4) (la : Bool) (gb : BitVec 4) (lb : Bool) : Statement (.xor y gd ga la gb lb) := by
  have q_gd := gd.isLt
  have q_ga := ga.isLt
  have q_gb := gb.isLt
  have b_y := b1_lt y
  have b_la := b1_lt la
  have b_lb := b1_lt lb
  refine of_number _ (encR y 0x00 gd.toNat ga.toNat la gb.toNat lb 4) rfl (lt_R y 0x00 gd.toNat ga.toNat la gb.toNat lb 4 (by decide) gd.isLt ga.isLt gb.isLt (by decide)) fun h => ?_
  have hm := maj_R y 0x00 gd.toNat ga.toNat la gb.toNat lb 4 (by decide) gd.isLt ga.isLt gb.isLt (by decide)
  have hy := y_R y 0x00 gd.toNat ga.toNat la gb.toNat lb 4 (by decide) gd.isLt ga.isLt gb.isLt (by decide)
  have hl := low_R y 0x00 gd.toNat ga.toNat la gb.toNat lb 4 (by decide)
  have a20 := at20_R y 0x00 gd.toNat ga.toNat la gb.toNat lb 4 gd.isLt ga.isLt gb.isLt (by decide)
  have a16 := at16_R y 0x00 gd.toNat ga.toNat la gb.toNat lb 4 ga.isLt gb.isLt (by decide)
  have a15 := at15_R y 0x00 gd.toNat ga.toNat la gb.toNat lb 4 gb.isLt (by decide)
  have a11 := at11_R y 0x00 gd.toNat ga.toNat la gb.toNat lb 4 gb.isLt (by decide)
  have a10 := at10_R y 0x00 gd.toNat ga.toNat la gb.toNat lb 4 (by decide)
  generalize encR y 0x00 gd.toNat ga.toNat la gb.toNat lb 4 = w at *
  have e1 : fN w 0 6 = 0x4 := ((field_low _ _ 0 6 10 (by decide) hl)).trans (by omega)
  have e2 : fN w 6 4 = 0 := ((field_low _ _ 6 4 10 (by decide) hl)).trans (by omega)
  have e3 : fB w 31 = y := fB_eq _ _ _ (hy)
  have e4 : fV w 20 4 = gd := fV_eq _ _ _ _ (a20)
  have e5 : fV w 16 4 = ga := fV_eq _ _ _ _ (a16)
  have e6 : fB w 15 = la := fB_eq _ _ _ (a15)
  have e7 : fV w 11 4 = gb := fV_eq _ _ _ _ (a11)
  have e8 : fB w 10 = lb := fB_eq _ _ _ (a10)
  have hM : fN w 24 7 = 0x00 := hm
  rw [at_dec00 w hM]
  simp only [dec00, e1, e2, e3, e4, e5, e6, e7, e8, need, h]
  rfl

theorem andn (y : Bool) (gd : BitVec 4) (ga : BitVec 4) (la : Bool) (gb : BitVec 4) (lb : Bool) : Statement (.andn y gd ga la gb lb) := by
  have q_gd := gd.isLt
  have q_ga := ga.isLt
  have q_gb := gb.isLt
  have b_y := b1_lt y
  have b_la := b1_lt la
  have b_lb := b1_lt lb
  refine of_number _ (encR y 0x00 gd.toNat ga.toNat la gb.toNat lb 5) rfl (lt_R y 0x00 gd.toNat ga.toNat la gb.toNat lb 5 (by decide) gd.isLt ga.isLt gb.isLt (by decide)) fun h => ?_
  have hm := maj_R y 0x00 gd.toNat ga.toNat la gb.toNat lb 5 (by decide) gd.isLt ga.isLt gb.isLt (by decide)
  have hy := y_R y 0x00 gd.toNat ga.toNat la gb.toNat lb 5 (by decide) gd.isLt ga.isLt gb.isLt (by decide)
  have hl := low_R y 0x00 gd.toNat ga.toNat la gb.toNat lb 5 (by decide)
  have a20 := at20_R y 0x00 gd.toNat ga.toNat la gb.toNat lb 5 gd.isLt ga.isLt gb.isLt (by decide)
  have a16 := at16_R y 0x00 gd.toNat ga.toNat la gb.toNat lb 5 ga.isLt gb.isLt (by decide)
  have a15 := at15_R y 0x00 gd.toNat ga.toNat la gb.toNat lb 5 gb.isLt (by decide)
  have a11 := at11_R y 0x00 gd.toNat ga.toNat la gb.toNat lb 5 gb.isLt (by decide)
  have a10 := at10_R y 0x00 gd.toNat ga.toNat la gb.toNat lb 5 (by decide)
  generalize encR y 0x00 gd.toNat ga.toNat la gb.toNat lb 5 = w at *
  have e1 : fN w 0 6 = 0x5 := ((field_low _ _ 0 6 10 (by decide) hl)).trans (by omega)
  have e2 : fN w 6 4 = 0 := ((field_low _ _ 6 4 10 (by decide) hl)).trans (by omega)
  have e3 : fB w 31 = y := fB_eq _ _ _ (hy)
  have e4 : fV w 20 4 = gd := fV_eq _ _ _ _ (a20)
  have e5 : fV w 16 4 = ga := fV_eq _ _ _ _ (a16)
  have e6 : fB w 15 = la := fB_eq _ _ _ (a15)
  have e7 : fV w 11 4 = gb := fV_eq _ _ _ _ (a11)
  have e8 : fB w 10 = lb := fB_eq _ _ _ (a10)
  have hM : fN w 24 7 = 0x00 := hm
  rw [at_dec00 w hM]
  simp only [dec00, e1, e2, e3, e4, e5, e6, e7, e8, need, h]
  rfl

theorem shl (y : Bool) (gd : BitVec 4) (ga : BitVec 4) (la : Bool) (gb : BitVec 4) (lb : Bool) : Statement (.shl y gd ga la gb lb) := by
  have q_gd := gd.isLt
  have q_ga := ga.isLt
  have q_gb := gb.isLt
  have b_y := b1_lt y
  have b_la := b1_lt la
  have b_lb := b1_lt lb
  refine of_number _ (encR y 0x00 gd.toNat ga.toNat la gb.toNat lb 6) rfl (lt_R y 0x00 gd.toNat ga.toNat la gb.toNat lb 6 (by decide) gd.isLt ga.isLt gb.isLt (by decide)) fun h => ?_
  have hm := maj_R y 0x00 gd.toNat ga.toNat la gb.toNat lb 6 (by decide) gd.isLt ga.isLt gb.isLt (by decide)
  have hy := y_R y 0x00 gd.toNat ga.toNat la gb.toNat lb 6 (by decide) gd.isLt ga.isLt gb.isLt (by decide)
  have hl := low_R y 0x00 gd.toNat ga.toNat la gb.toNat lb 6 (by decide)
  have a20 := at20_R y 0x00 gd.toNat ga.toNat la gb.toNat lb 6 gd.isLt ga.isLt gb.isLt (by decide)
  have a16 := at16_R y 0x00 gd.toNat ga.toNat la gb.toNat lb 6 ga.isLt gb.isLt (by decide)
  have a15 := at15_R y 0x00 gd.toNat ga.toNat la gb.toNat lb 6 gb.isLt (by decide)
  have a11 := at11_R y 0x00 gd.toNat ga.toNat la gb.toNat lb 6 gb.isLt (by decide)
  have a10 := at10_R y 0x00 gd.toNat ga.toNat la gb.toNat lb 6 (by decide)
  generalize encR y 0x00 gd.toNat ga.toNat la gb.toNat lb 6 = w at *
  have e1 : fN w 0 6 = 0x6 := ((field_low _ _ 0 6 10 (by decide) hl)).trans (by omega)
  have e2 : fN w 6 4 = 0 := ((field_low _ _ 6 4 10 (by decide) hl)).trans (by omega)
  have e3 : fB w 31 = y := fB_eq _ _ _ (hy)
  have e4 : fV w 20 4 = gd := fV_eq _ _ _ _ (a20)
  have e5 : fV w 16 4 = ga := fV_eq _ _ _ _ (a16)
  have e6 : fB w 15 = la := fB_eq _ _ _ (a15)
  have e7 : fV w 11 4 = gb := fV_eq _ _ _ _ (a11)
  have e8 : fB w 10 = lb := fB_eq _ _ _ (a10)
  have hM : fN w 24 7 = 0x00 := hm
  rw [at_dec00 w hM]
  simp only [dec00, e1, e2, e3, e4, e5, e6, e7, e8, need, h]
  rfl

theorem shr (y : Bool) (gd : BitVec 4) (ga : BitVec 4) (la : Bool) (gb : BitVec 4) (lb : Bool) : Statement (.shr y gd ga la gb lb) := by
  have q_gd := gd.isLt
  have q_ga := ga.isLt
  have q_gb := gb.isLt
  have b_y := b1_lt y
  have b_la := b1_lt la
  have b_lb := b1_lt lb
  refine of_number _ (encR y 0x00 gd.toNat ga.toNat la gb.toNat lb 7) rfl (lt_R y 0x00 gd.toNat ga.toNat la gb.toNat lb 7 (by decide) gd.isLt ga.isLt gb.isLt (by decide)) fun h => ?_
  have hm := maj_R y 0x00 gd.toNat ga.toNat la gb.toNat lb 7 (by decide) gd.isLt ga.isLt gb.isLt (by decide)
  have hy := y_R y 0x00 gd.toNat ga.toNat la gb.toNat lb 7 (by decide) gd.isLt ga.isLt gb.isLt (by decide)
  have hl := low_R y 0x00 gd.toNat ga.toNat la gb.toNat lb 7 (by decide)
  have a20 := at20_R y 0x00 gd.toNat ga.toNat la gb.toNat lb 7 gd.isLt ga.isLt gb.isLt (by decide)
  have a16 := at16_R y 0x00 gd.toNat ga.toNat la gb.toNat lb 7 ga.isLt gb.isLt (by decide)
  have a15 := at15_R y 0x00 gd.toNat ga.toNat la gb.toNat lb 7 gb.isLt (by decide)
  have a11 := at11_R y 0x00 gd.toNat ga.toNat la gb.toNat lb 7 gb.isLt (by decide)
  have a10 := at10_R y 0x00 gd.toNat ga.toNat la gb.toNat lb 7 (by decide)
  generalize encR y 0x00 gd.toNat ga.toNat la gb.toNat lb 7 = w at *
  have e1 : fN w 0 6 = 0x7 := ((field_low _ _ 0 6 10 (by decide) hl)).trans (by omega)
  have e2 : fN w 6 4 = 0 := ((field_low _ _ 6 4 10 (by decide) hl)).trans (by omega)
  have e3 : fB w 31 = y := fB_eq _ _ _ (hy)
  have e4 : fV w 20 4 = gd := fV_eq _ _ _ _ (a20)
  have e5 : fV w 16 4 = ga := fV_eq _ _ _ _ (a16)
  have e6 : fB w 15 = la := fB_eq _ _ _ (a15)
  have e7 : fV w 11 4 = gb := fV_eq _ _ _ _ (a11)
  have e8 : fB w 10 = lb := fB_eq _ _ _ (a10)
  have hM : fN w 24 7 = 0x00 := hm
  rw [at_dec00 w hM]
  simp only [dec00, e1, e2, e3, e4, e5, e6, e7, e8, need, h]
  rfl

theorem sar (y : Bool) (gd : BitVec 4) (ga : BitVec 4) (la : Bool) (gb : BitVec 4) (lb : Bool) : Statement (.sar y gd ga la gb lb) := by
  have q_gd := gd.isLt
  have q_ga := ga.isLt
  have q_gb := gb.isLt
  have b_y := b1_lt y
  have b_la := b1_lt la
  have b_lb := b1_lt lb
  refine of_number _ (encR y 0x00 gd.toNat ga.toNat la gb.toNat lb 8) rfl (lt_R y 0x00 gd.toNat ga.toNat la gb.toNat lb 8 (by decide) gd.isLt ga.isLt gb.isLt (by decide)) fun h => ?_
  have hm := maj_R y 0x00 gd.toNat ga.toNat la gb.toNat lb 8 (by decide) gd.isLt ga.isLt gb.isLt (by decide)
  have hy := y_R y 0x00 gd.toNat ga.toNat la gb.toNat lb 8 (by decide) gd.isLt ga.isLt gb.isLt (by decide)
  have hl := low_R y 0x00 gd.toNat ga.toNat la gb.toNat lb 8 (by decide)
  have a20 := at20_R y 0x00 gd.toNat ga.toNat la gb.toNat lb 8 gd.isLt ga.isLt gb.isLt (by decide)
  have a16 := at16_R y 0x00 gd.toNat ga.toNat la gb.toNat lb 8 ga.isLt gb.isLt (by decide)
  have a15 := at15_R y 0x00 gd.toNat ga.toNat la gb.toNat lb 8 gb.isLt (by decide)
  have a11 := at11_R y 0x00 gd.toNat ga.toNat la gb.toNat lb 8 gb.isLt (by decide)
  have a10 := at10_R y 0x00 gd.toNat ga.toNat la gb.toNat lb 8 (by decide)
  generalize encR y 0x00 gd.toNat ga.toNat la gb.toNat lb 8 = w at *
  have e1 : fN w 0 6 = 0x8 := ((field_low _ _ 0 6 10 (by decide) hl)).trans (by omega)
  have e2 : fN w 6 4 = 0 := ((field_low _ _ 6 4 10 (by decide) hl)).trans (by omega)
  have e3 : fB w 31 = y := fB_eq _ _ _ (hy)
  have e4 : fV w 20 4 = gd := fV_eq _ _ _ _ (a20)
  have e5 : fV w 16 4 = ga := fV_eq _ _ _ _ (a16)
  have e6 : fB w 15 = la := fB_eq _ _ _ (a15)
  have e7 : fV w 11 4 = gb := fV_eq _ _ _ _ (a11)
  have e8 : fB w 10 = lb := fB_eq _ _ _ (a10)
  have hM : fN w 24 7 = 0x00 := hm
  rw [at_dec00 w hM]
  simp only [dec00, e1, e2, e3, e4, e5, e6, e7, e8, need, h]
  rfl

theorem ror (y : Bool) (gd : BitVec 4) (ga : BitVec 4) (la : Bool) (gb : BitVec 4) (lb : Bool) : Statement (.ror y gd ga la gb lb) := by
  have q_gd := gd.isLt
  have q_ga := ga.isLt
  have q_gb := gb.isLt
  have b_y := b1_lt y
  have b_la := b1_lt la
  have b_lb := b1_lt lb
  refine of_number _ (encR y 0x00 gd.toNat ga.toNat la gb.toNat lb 9) rfl (lt_R y 0x00 gd.toNat ga.toNat la gb.toNat lb 9 (by decide) gd.isLt ga.isLt gb.isLt (by decide)) fun h => ?_
  have hm := maj_R y 0x00 gd.toNat ga.toNat la gb.toNat lb 9 (by decide) gd.isLt ga.isLt gb.isLt (by decide)
  have hy := y_R y 0x00 gd.toNat ga.toNat la gb.toNat lb 9 (by decide) gd.isLt ga.isLt gb.isLt (by decide)
  have hl := low_R y 0x00 gd.toNat ga.toNat la gb.toNat lb 9 (by decide)
  have a20 := at20_R y 0x00 gd.toNat ga.toNat la gb.toNat lb 9 gd.isLt ga.isLt gb.isLt (by decide)
  have a16 := at16_R y 0x00 gd.toNat ga.toNat la gb.toNat lb 9 ga.isLt gb.isLt (by decide)
  have a15 := at15_R y 0x00 gd.toNat ga.toNat la gb.toNat lb 9 gb.isLt (by decide)
  have a11 := at11_R y 0x00 gd.toNat ga.toNat la gb.toNat lb 9 gb.isLt (by decide)
  have a10 := at10_R y 0x00 gd.toNat ga.toNat la gb.toNat lb 9 (by decide)
  generalize encR y 0x00 gd.toNat ga.toNat la gb.toNat lb 9 = w at *
  have e1 : fN w 0 6 = 0x9 := ((field_low _ _ 0 6 10 (by decide) hl)).trans (by omega)
  have e2 : fN w 6 4 = 0 := ((field_low _ _ 6 4 10 (by decide) hl)).trans (by omega)
  have e3 : fB w 31 = y := fB_eq _ _ _ (hy)
  have e4 : fV w 20 4 = gd := fV_eq _ _ _ _ (a20)
  have e5 : fV w 16 4 = ga := fV_eq _ _ _ _ (a16)
  have e6 : fB w 15 = la := fB_eq _ _ _ (a15)
  have e7 : fV w 11 4 = gb := fV_eq _ _ _ _ (a11)
  have e8 : fB w 10 = lb := fB_eq _ _ _ (a10)
  have hM : fN w 24 7 = 0x00 := hm
  rw [at_dec00 w hM]
  simp only [dec00, e1, e2, e3, e4, e5, e6, e7, e8, need, h]
  rfl

theorem min (y : Bool) (gd : BitVec 4) (ga : BitVec 4) (la : Bool) (gb : BitVec 4) (lb : Bool) (uns : Bool) : Statement (.min y gd ga la gb lb uns) := by
  have q_gd := gd.isLt
  have q_ga := ga.isLt
  have q_gb := gb.isLt
  have b_y := b1_lt y
  have b_la := b1_lt la
  have b_lb := b1_lt lb
  have b_uns := b1_lt uns
  have hlo : (b1 uns * 0x100 + 0xA) < 1024 := by omega
  refine of_number _ (encR y 0x00 gd.toNat ga.toNat la gb.toNat lb (b1 uns * 0x100 + 0xA)) rfl (lt_R y 0x00 gd.toNat ga.toNat la gb.toNat lb (b1 uns * 0x100 + 0xA) (by decide) gd.isLt ga.isLt gb.isLt hlo) fun h => ?_
  have hm := maj_R y 0x00 gd.toNat ga.toNat la gb.toNat lb (b1 uns * 0x100 + 0xA) (by decide) gd.isLt ga.isLt gb.isLt hlo
  have hy := y_R y 0x00 gd.toNat ga.toNat la gb.toNat lb (b1 uns * 0x100 + 0xA) (by decide) gd.isLt ga.isLt gb.isLt hlo
  have hl := low_R y 0x00 gd.toNat ga.toNat la gb.toNat lb (b1 uns * 0x100 + 0xA) hlo
  have a20 := at20_R y 0x00 gd.toNat ga.toNat la gb.toNat lb (b1 uns * 0x100 + 0xA) gd.isLt ga.isLt gb.isLt hlo
  have a16 := at16_R y 0x00 gd.toNat ga.toNat la gb.toNat lb (b1 uns * 0x100 + 0xA) ga.isLt gb.isLt hlo
  have a15 := at15_R y 0x00 gd.toNat ga.toNat la gb.toNat lb (b1 uns * 0x100 + 0xA) gb.isLt hlo
  have a11 := at11_R y 0x00 gd.toNat ga.toNat la gb.toNat lb (b1 uns * 0x100 + 0xA) gb.isLt hlo
  have a10 := at10_R y 0x00 gd.toNat ga.toNat la gb.toNat lb (b1 uns * 0x100 + 0xA) hlo
  generalize encR y 0x00 gd.toNat ga.toNat la gb.toNat lb (b1 uns * 0x100 + 0xA) = w at *
  have e1 : fN w 0 6 = 0xA := ((field_low _ _ 0 6 10 (by decide) hl)).trans (by omega)
  have e2 : fN w 6 2 = 0 := ((field_low _ _ 6 2 10 (by decide) hl)).trans (by omega)
  have e3 : fN w 9 1 = 0 := ((field_low _ _ 9 1 10 (by decide) hl)).trans (by omega)
  have e4 : fB w 31 = y := fB_eq _ _ _ (hy)
  have e5 : fV w 20 4 = gd := fV_eq _ _ _ _ (a20)
  have e6 : fV w 16 4 = ga := fV_eq _ _ _ _ (a16)
  have e7 : fB w 15 = la := fB_eq _ _ _ (a15)
  have e8 : fV w 11 4 = gb := fV_eq _ _ _ _ (a11)
  have e9 : fB w 10 = lb := fB_eq _ _ _ (a10)
  have e10 : fB w 8 = uns := fB_eq _ _ _ (((field_low _ _ 8 1 10 (by decide) hl)).trans (by omega))
  have hM : fN w 24 7 = 0x00 := hm
  rw [at_dec00 w hM]
  simp only [dec00, e1, e2, e3, e4, e5, e6, e7, e8, e9, e10, need, h]
  rfl

theorem max (y : Bool) (gd : BitVec 4) (ga : BitVec 4) (la : Bool) (gb : BitVec 4) (lb : Bool) (uns : Bool) : Statement (.max y gd ga la gb lb uns) := by
  have q_gd := gd.isLt
  have q_ga := ga.isLt
  have q_gb := gb.isLt
  have b_y := b1_lt y
  have b_la := b1_lt la
  have b_lb := b1_lt lb
  have b_uns := b1_lt uns
  have hlo : (b1 uns * 0x100 + 0xB) < 1024 := by omega
  refine of_number _ (encR y 0x00 gd.toNat ga.toNat la gb.toNat lb (b1 uns * 0x100 + 0xB)) rfl (lt_R y 0x00 gd.toNat ga.toNat la gb.toNat lb (b1 uns * 0x100 + 0xB) (by decide) gd.isLt ga.isLt gb.isLt hlo) fun h => ?_
  have hm := maj_R y 0x00 gd.toNat ga.toNat la gb.toNat lb (b1 uns * 0x100 + 0xB) (by decide) gd.isLt ga.isLt gb.isLt hlo
  have hy := y_R y 0x00 gd.toNat ga.toNat la gb.toNat lb (b1 uns * 0x100 + 0xB) (by decide) gd.isLt ga.isLt gb.isLt hlo
  have hl := low_R y 0x00 gd.toNat ga.toNat la gb.toNat lb (b1 uns * 0x100 + 0xB) hlo
  have a20 := at20_R y 0x00 gd.toNat ga.toNat la gb.toNat lb (b1 uns * 0x100 + 0xB) gd.isLt ga.isLt gb.isLt hlo
  have a16 := at16_R y 0x00 gd.toNat ga.toNat la gb.toNat lb (b1 uns * 0x100 + 0xB) ga.isLt gb.isLt hlo
  have a15 := at15_R y 0x00 gd.toNat ga.toNat la gb.toNat lb (b1 uns * 0x100 + 0xB) gb.isLt hlo
  have a11 := at11_R y 0x00 gd.toNat ga.toNat la gb.toNat lb (b1 uns * 0x100 + 0xB) gb.isLt hlo
  have a10 := at10_R y 0x00 gd.toNat ga.toNat la gb.toNat lb (b1 uns * 0x100 + 0xB) hlo
  generalize encR y 0x00 gd.toNat ga.toNat la gb.toNat lb (b1 uns * 0x100 + 0xB) = w at *
  have e1 : fN w 0 6 = 0xB := ((field_low _ _ 0 6 10 (by decide) hl)).trans (by omega)
  have e2 : fN w 6 2 = 0 := ((field_low _ _ 6 2 10 (by decide) hl)).trans (by omega)
  have e3 : fN w 9 1 = 0 := ((field_low _ _ 9 1 10 (by decide) hl)).trans (by omega)
  have e4 : fB w 31 = y := fB_eq _ _ _ (hy)
  have e5 : fV w 20 4 = gd := fV_eq _ _ _ _ (a20)
  have e6 : fV w 16 4 = ga := fV_eq _ _ _ _ (a16)
  have e7 : fB w 15 = la := fB_eq _ _ _ (a15)
  have e8 : fV w 11 4 = gb := fV_eq _ _ _ _ (a11)
  have e9 : fB w 10 = lb := fB_eq _ _ _ (a10)
  have e10 : fB w 8 = uns := fB_eq _ _ _ (((field_low _ _ 8 1 10 (by decide) hl)).trans (by omega))
  have hM : fN w 24 7 = 0x00 := hm
  rw [at_dec00 w hM]
  simp only [dec00, e1, e2, e3, e4, e5, e6, e7, e8, e9, e10, need, h]
  rfl

theorem cmpeq (y : Bool) (gd : BitVec 4) (ga : BitVec 4) (la : Bool) (gb : BitVec 4) (lb : Bool) : Statement (.cmpeq y gd ga la gb lb) := by
  have q_gd := gd.isLt
  have q_ga := ga.isLt
  have q_gb := gb.isLt
  have b_y := b1_lt y
  have b_la := b1_lt la
  have b_lb := b1_lt lb
  refine of_number _ (encR y 0x00 gd.toNat ga.toNat la gb.toNat lb 0xC) rfl (lt_R y 0x00 gd.toNat ga.toNat la gb.toNat lb 0xC (by decide) gd.isLt ga.isLt gb.isLt (by decide)) fun h => ?_
  have hm := maj_R y 0x00 gd.toNat ga.toNat la gb.toNat lb 0xC (by decide) gd.isLt ga.isLt gb.isLt (by decide)
  have hy := y_R y 0x00 gd.toNat ga.toNat la gb.toNat lb 0xC (by decide) gd.isLt ga.isLt gb.isLt (by decide)
  have hl := low_R y 0x00 gd.toNat ga.toNat la gb.toNat lb 0xC (by decide)
  have a20 := at20_R y 0x00 gd.toNat ga.toNat la gb.toNat lb 0xC gd.isLt ga.isLt gb.isLt (by decide)
  have a16 := at16_R y 0x00 gd.toNat ga.toNat la gb.toNat lb 0xC ga.isLt gb.isLt (by decide)
  have a15 := at15_R y 0x00 gd.toNat ga.toNat la gb.toNat lb 0xC gb.isLt (by decide)
  have a11 := at11_R y 0x00 gd.toNat ga.toNat la gb.toNat lb 0xC gb.isLt (by decide)
  have a10 := at10_R y 0x00 gd.toNat ga.toNat la gb.toNat lb 0xC (by decide)
  generalize encR y 0x00 gd.toNat ga.toNat la gb.toNat lb 0xC = w at *
  have e1 : fN w 0 6 = 0xC := ((field_low _ _ 0 6 10 (by decide) hl)).trans (by omega)
  have e2 : fN w 6 4 = 0 := ((field_low _ _ 6 4 10 (by decide) hl)).trans (by omega)
  have e3 : fB w 31 = y := fB_eq _ _ _ (hy)
  have e4 : fV w 20 4 = gd := fV_eq _ _ _ _ (a20)
  have e5 : fV w 16 4 = ga := fV_eq _ _ _ _ (a16)
  have e6 : fB w 15 = la := fB_eq _ _ _ (a15)
  have e7 : fV w 11 4 = gb := fV_eq _ _ _ _ (a11)
  have e8 : fB w 10 = lb := fB_eq _ _ _ (a10)
  have hM : fN w 24 7 = 0x00 := hm
  rw [at_dec00 w hM]
  simp only [dec00, e1, e2, e3, e4, e5, e6, e7, e8, need, h]
  rfl

theorem cmpne (y : Bool) (gd : BitVec 4) (ga : BitVec 4) (la : Bool) (gb : BitVec 4) (lb : Bool) : Statement (.cmpne y gd ga la gb lb) := by
  have q_gd := gd.isLt
  have q_ga := ga.isLt
  have q_gb := gb.isLt
  have b_y := b1_lt y
  have b_la := b1_lt la
  have b_lb := b1_lt lb
  refine of_number _ (encR y 0x00 gd.toNat ga.toNat la gb.toNat lb 0xD) rfl (lt_R y 0x00 gd.toNat ga.toNat la gb.toNat lb 0xD (by decide) gd.isLt ga.isLt gb.isLt (by decide)) fun h => ?_
  have hm := maj_R y 0x00 gd.toNat ga.toNat la gb.toNat lb 0xD (by decide) gd.isLt ga.isLt gb.isLt (by decide)
  have hy := y_R y 0x00 gd.toNat ga.toNat la gb.toNat lb 0xD (by decide) gd.isLt ga.isLt gb.isLt (by decide)
  have hl := low_R y 0x00 gd.toNat ga.toNat la gb.toNat lb 0xD (by decide)
  have a20 := at20_R y 0x00 gd.toNat ga.toNat la gb.toNat lb 0xD gd.isLt ga.isLt gb.isLt (by decide)
  have a16 := at16_R y 0x00 gd.toNat ga.toNat la gb.toNat lb 0xD ga.isLt gb.isLt (by decide)
  have a15 := at15_R y 0x00 gd.toNat ga.toNat la gb.toNat lb 0xD gb.isLt (by decide)
  have a11 := at11_R y 0x00 gd.toNat ga.toNat la gb.toNat lb 0xD gb.isLt (by decide)
  have a10 := at10_R y 0x00 gd.toNat ga.toNat la gb.toNat lb 0xD (by decide)
  generalize encR y 0x00 gd.toNat ga.toNat la gb.toNat lb 0xD = w at *
  have e1 : fN w 0 6 = 0xD := ((field_low _ _ 0 6 10 (by decide) hl)).trans (by omega)
  have e2 : fN w 6 4 = 0 := ((field_low _ _ 6 4 10 (by decide) hl)).trans (by omega)
  have e3 : fB w 31 = y := fB_eq _ _ _ (hy)
  have e4 : fV w 20 4 = gd := fV_eq _ _ _ _ (a20)
  have e5 : fV w 16 4 = ga := fV_eq _ _ _ _ (a16)
  have e6 : fB w 15 = la := fB_eq _ _ _ (a15)
  have e7 : fV w 11 4 = gb := fV_eq _ _ _ _ (a11)
  have e8 : fB w 10 = lb := fB_eq _ _ _ (a10)
  have hM : fN w 24 7 = 0x00 := hm
  rw [at_dec00 w hM]
  simp only [dec00, e1, e2, e3, e4, e5, e6, e7, e8, need, h]
  rfl

theorem cmplt (y : Bool) (gd : BitVec 4) (ga : BitVec 4) (la : Bool) (gb : BitVec 4) (lb : Bool) (uns : Bool) : Statement (.cmplt y gd ga la gb lb uns) := by
  have q_gd := gd.isLt
  have q_ga := ga.isLt
  have q_gb := gb.isLt
  have b_y := b1_lt y
  have b_la := b1_lt la
  have b_lb := b1_lt lb
  have b_uns := b1_lt uns
  have hlo : (b1 uns * 0x100 + 0xE) < 1024 := by omega
  refine of_number _ (encR y 0x00 gd.toNat ga.toNat la gb.toNat lb (b1 uns * 0x100 + 0xE)) rfl (lt_R y 0x00 gd.toNat ga.toNat la gb.toNat lb (b1 uns * 0x100 + 0xE) (by decide) gd.isLt ga.isLt gb.isLt hlo) fun h => ?_
  have hm := maj_R y 0x00 gd.toNat ga.toNat la gb.toNat lb (b1 uns * 0x100 + 0xE) (by decide) gd.isLt ga.isLt gb.isLt hlo
  have hy := y_R y 0x00 gd.toNat ga.toNat la gb.toNat lb (b1 uns * 0x100 + 0xE) (by decide) gd.isLt ga.isLt gb.isLt hlo
  have hl := low_R y 0x00 gd.toNat ga.toNat la gb.toNat lb (b1 uns * 0x100 + 0xE) hlo
  have a20 := at20_R y 0x00 gd.toNat ga.toNat la gb.toNat lb (b1 uns * 0x100 + 0xE) gd.isLt ga.isLt gb.isLt hlo
  have a16 := at16_R y 0x00 gd.toNat ga.toNat la gb.toNat lb (b1 uns * 0x100 + 0xE) ga.isLt gb.isLt hlo
  have a15 := at15_R y 0x00 gd.toNat ga.toNat la gb.toNat lb (b1 uns * 0x100 + 0xE) gb.isLt hlo
  have a11 := at11_R y 0x00 gd.toNat ga.toNat la gb.toNat lb (b1 uns * 0x100 + 0xE) gb.isLt hlo
  have a10 := at10_R y 0x00 gd.toNat ga.toNat la gb.toNat lb (b1 uns * 0x100 + 0xE) hlo
  generalize encR y 0x00 gd.toNat ga.toNat la gb.toNat lb (b1 uns * 0x100 + 0xE) = w at *
  have e1 : fN w 0 6 = 0xE := ((field_low _ _ 0 6 10 (by decide) hl)).trans (by omega)
  have e2 : fN w 6 2 = 0 := ((field_low _ _ 6 2 10 (by decide) hl)).trans (by omega)
  have e3 : fN w 9 1 = 0 := ((field_low _ _ 9 1 10 (by decide) hl)).trans (by omega)
  have e4 : fB w 31 = y := fB_eq _ _ _ (hy)
  have e5 : fV w 20 4 = gd := fV_eq _ _ _ _ (a20)
  have e6 : fV w 16 4 = ga := fV_eq _ _ _ _ (a16)
  have e7 : fB w 15 = la := fB_eq _ _ _ (a15)
  have e8 : fV w 11 4 = gb := fV_eq _ _ _ _ (a11)
  have e9 : fB w 10 = lb := fB_eq _ _ _ (a10)
  have e10 : fB w 8 = uns := fB_eq _ _ _ (((field_low _ _ 8 1 10 (by decide) hl)).trans (by omega))
  have hM : fN w 24 7 = 0x00 := hm
  rw [at_dec00 w hM]
  simp only [dec00, e1, e2, e3, e4, e5, e6, e7, e8, e9, e10, need, h]
  rfl

theorem cmple (y : Bool) (gd : BitVec 4) (ga : BitVec 4) (la : Bool) (gb : BitVec 4) (lb : Bool) (uns : Bool) : Statement (.cmple y gd ga la gb lb uns) := by
  have q_gd := gd.isLt
  have q_ga := ga.isLt
  have q_gb := gb.isLt
  have b_y := b1_lt y
  have b_la := b1_lt la
  have b_lb := b1_lt lb
  have b_uns := b1_lt uns
  have hlo : (b1 uns * 0x100 + 0xF) < 1024 := by omega
  refine of_number _ (encR y 0x00 gd.toNat ga.toNat la gb.toNat lb (b1 uns * 0x100 + 0xF)) rfl (lt_R y 0x00 gd.toNat ga.toNat la gb.toNat lb (b1 uns * 0x100 + 0xF) (by decide) gd.isLt ga.isLt gb.isLt hlo) fun h => ?_
  have hm := maj_R y 0x00 gd.toNat ga.toNat la gb.toNat lb (b1 uns * 0x100 + 0xF) (by decide) gd.isLt ga.isLt gb.isLt hlo
  have hy := y_R y 0x00 gd.toNat ga.toNat la gb.toNat lb (b1 uns * 0x100 + 0xF) (by decide) gd.isLt ga.isLt gb.isLt hlo
  have hl := low_R y 0x00 gd.toNat ga.toNat la gb.toNat lb (b1 uns * 0x100 + 0xF) hlo
  have a20 := at20_R y 0x00 gd.toNat ga.toNat la gb.toNat lb (b1 uns * 0x100 + 0xF) gd.isLt ga.isLt gb.isLt hlo
  have a16 := at16_R y 0x00 gd.toNat ga.toNat la gb.toNat lb (b1 uns * 0x100 + 0xF) ga.isLt gb.isLt hlo
  have a15 := at15_R y 0x00 gd.toNat ga.toNat la gb.toNat lb (b1 uns * 0x100 + 0xF) gb.isLt hlo
  have a11 := at11_R y 0x00 gd.toNat ga.toNat la gb.toNat lb (b1 uns * 0x100 + 0xF) gb.isLt hlo
  have a10 := at10_R y 0x00 gd.toNat ga.toNat la gb.toNat lb (b1 uns * 0x100 + 0xF) hlo
  generalize encR y 0x00 gd.toNat ga.toNat la gb.toNat lb (b1 uns * 0x100 + 0xF) = w at *
  have e1 : fN w 0 6 = 0xF := ((field_low _ _ 0 6 10 (by decide) hl)).trans (by omega)
  have e2 : fN w 6 2 = 0 := ((field_low _ _ 6 2 10 (by decide) hl)).trans (by omega)
  have e3 : fN w 9 1 = 0 := ((field_low _ _ 9 1 10 (by decide) hl)).trans (by omega)
  have e4 : fB w 31 = y := fB_eq _ _ _ (hy)
  have e5 : fV w 20 4 = gd := fV_eq _ _ _ _ (a20)
  have e6 : fV w 16 4 = ga := fV_eq _ _ _ _ (a16)
  have e7 : fB w 15 = la := fB_eq _ _ _ (a15)
  have e8 : fV w 11 4 = gb := fV_eq _ _ _ _ (a11)
  have e9 : fB w 10 = lb := fB_eq _ _ _ (a10)
  have e10 : fB w 8 = uns := fB_eq _ _ _ (((field_low _ _ 8 1 10 (by decide) hl)).trans (by omega))
  have hM : fN w 24 7 = 0x00 := hm
  rw [at_dec00 w hM]
  simp only [dec00, e1, e2, e3, e4, e5, e6, e7, e8, e9, e10, need, h]
  rfl

theorem clz (y : Bool) (gd : BitVec 4) (ga : BitVec 4) (la : Bool) : Statement (.clz y gd ga la) := by
  have q_gd := gd.isLt
  have q_ga := ga.isLt
  have b_y := b1_lt y
  have b_la := b1_lt la
  refine of_number _ (encR y 0x00 gd.toNat ga.toNat la 0 false 0x10) rfl (lt_R y 0x00 gd.toNat ga.toNat la 0 false 0x10 (by decide) gd.isLt ga.isLt (by decide) (by decide)) fun h => ?_
  have hm := maj_R y 0x00 gd.toNat ga.toNat la 0 false 0x10 (by decide) gd.isLt ga.isLt (by decide) (by decide)
  have hy := y_R y 0x00 gd.toNat ga.toNat la 0 false 0x10 (by decide) gd.isLt ga.isLt (by decide) (by decide)
  have hl := low_R y 0x00 gd.toNat ga.toNat la 0 false 0x10 (by decide)
  have a11 := at11_R y 0x00 gd.toNat ga.toNat la 0 false 0x10 (by decide) (by decide)
  have a10 := at10_R y 0x00 gd.toNat ga.toNat la 0 false 0x10 (by decide)
  have a20 := at20_R y 0x00 gd.toNat ga.toNat la 0 false 0x10 gd.isLt ga.isLt (by decide) (by decide)
  have a16 := at16_R y 0x00 gd.toNat ga.toNat la 0 false 0x10 ga.isLt (by decide) (by decide)
  have a15 := at15_R y 0x00 gd.toNat ga.toNat la 0 false 0x10 (by decide) (by decide)
  generalize encR y 0x00 gd.toNat ga.toNat la 0 false 0x10 = w at *
  have e1 : fN w 0 6 = 0x10 := ((field_low _ _ 0 6 10 (by decide) hl)).trans (by omega)
  have e2 : fN w 11 4 = 0 := a11
  have e3 : fN w 10 1 = 0 := a10
  have e4 : fN w 6 4 = 0 := ((field_low _ _ 6 4 10 (by decide) hl)).trans (by omega)
  have e5 : fB w 31 = y := fB_eq _ _ _ (hy)
  have e6 : fV w 20 4 = gd := fV_eq _ _ _ _ (a20)
  have e7 : fV w 16 4 = ga := fV_eq _ _ _ _ (a16)
  have e8 : fB w 15 = la := fB_eq _ _ _ (a15)
  have hM : fN w 24 7 = 0x00 := hm
  rw [at_dec00 w hM]
  simp only [dec00, e1, e2, e3, e4, e5, e6, e7, e8, need, h]
  rfl

theorem popc (y : Bool) (gd : BitVec 4) (ga : BitVec 4) (la : Bool) : Statement (.popc y gd ga la) := by
  have q_gd := gd.isLt
  have q_ga := ga.isLt
  have b_y := b1_lt y
  have b_la := b1_lt la
  refine of_number _ (encR y 0x00 gd.toNat ga.toNat la 0 false 0x11) rfl (lt_R y 0x00 gd.toNat ga.toNat la 0 false 0x11 (by decide) gd.isLt ga.isLt (by decide) (by decide)) fun h => ?_
  have hm := maj_R y 0x00 gd.toNat ga.toNat la 0 false 0x11 (by decide) gd.isLt ga.isLt (by decide) (by decide)
  have hy := y_R y 0x00 gd.toNat ga.toNat la 0 false 0x11 (by decide) gd.isLt ga.isLt (by decide) (by decide)
  have hl := low_R y 0x00 gd.toNat ga.toNat la 0 false 0x11 (by decide)
  have a11 := at11_R y 0x00 gd.toNat ga.toNat la 0 false 0x11 (by decide) (by decide)
  have a10 := at10_R y 0x00 gd.toNat ga.toNat la 0 false 0x11 (by decide)
  have a20 := at20_R y 0x00 gd.toNat ga.toNat la 0 false 0x11 gd.isLt ga.isLt (by decide) (by decide)
  have a16 := at16_R y 0x00 gd.toNat ga.toNat la 0 false 0x11 ga.isLt (by decide) (by decide)
  have a15 := at15_R y 0x00 gd.toNat ga.toNat la 0 false 0x11 (by decide) (by decide)
  generalize encR y 0x00 gd.toNat ga.toNat la 0 false 0x11 = w at *
  have e1 : fN w 0 6 = 0x11 := ((field_low _ _ 0 6 10 (by decide) hl)).trans (by omega)
  have e2 : fN w 11 4 = 0 := a11
  have e3 : fN w 10 1 = 0 := a10
  have e4 : fN w 6 4 = 0 := ((field_low _ _ 6 4 10 (by decide) hl)).trans (by omega)
  have e5 : fB w 31 = y := fB_eq _ _ _ (hy)
  have e6 : fV w 20 4 = gd := fV_eq _ _ _ _ (a20)
  have e7 : fV w 16 4 = ga := fV_eq _ _ _ _ (a16)
  have e8 : fB w 15 = la := fB_eq _ _ _ (a15)
  have hM : fN w 24 7 = 0x00 := hm
  rw [at_dec00 w hM]
  simp only [dec00, e1, e2, e3, e4, e5, e6, e7, e8, need, h]
  rfl

theorem sextb (y : Bool) (gd : BitVec 4) (ga : BitVec 4) (la : Bool) : Statement (.sextb y gd ga la) := by
  have q_gd := gd.isLt
  have q_ga := ga.isLt
  have b_y := b1_lt y
  have b_la := b1_lt la
  refine of_number _ (encR y 0x00 gd.toNat ga.toNat la 0 false 0x12) rfl (lt_R y 0x00 gd.toNat ga.toNat la 0 false 0x12 (by decide) gd.isLt ga.isLt (by decide) (by decide)) fun h => ?_
  have hm := maj_R y 0x00 gd.toNat ga.toNat la 0 false 0x12 (by decide) gd.isLt ga.isLt (by decide) (by decide)
  have hy := y_R y 0x00 gd.toNat ga.toNat la 0 false 0x12 (by decide) gd.isLt ga.isLt (by decide) (by decide)
  have hl := low_R y 0x00 gd.toNat ga.toNat la 0 false 0x12 (by decide)
  have a11 := at11_R y 0x00 gd.toNat ga.toNat la 0 false 0x12 (by decide) (by decide)
  have a10 := at10_R y 0x00 gd.toNat ga.toNat la 0 false 0x12 (by decide)
  have a20 := at20_R y 0x00 gd.toNat ga.toNat la 0 false 0x12 gd.isLt ga.isLt (by decide) (by decide)
  have a16 := at16_R y 0x00 gd.toNat ga.toNat la 0 false 0x12 ga.isLt (by decide) (by decide)
  have a15 := at15_R y 0x00 gd.toNat ga.toNat la 0 false 0x12 (by decide) (by decide)
  generalize encR y 0x00 gd.toNat ga.toNat la 0 false 0x12 = w at *
  have e1 : fN w 0 6 = 0x12 := ((field_low _ _ 0 6 10 (by decide) hl)).trans (by omega)
  have e2 : fN w 11 4 = 0 := a11
  have e3 : fN w 10 1 = 0 := a10
  have e4 : fN w 6 4 = 0 := ((field_low _ _ 6 4 10 (by decide) hl)).trans (by omega)
  have e5 : fB w 31 = y := fB_eq _ _ _ (hy)
  have e6 : fV w 20 4 = gd := fV_eq _ _ _ _ (a20)
  have e7 : fV w 16 4 = ga := fV_eq _ _ _ _ (a16)
  have e8 : fB w 15 = la := fB_eq _ _ _ (a15)
  have hM : fN w 24 7 = 0x00 := hm
  rw [at_dec00 w hM]
  simp only [dec00, e1, e2, e3, e4, e5, e6, e7, e8, need, h]
  rfl

theorem sexth (y : Bool) (gd : BitVec 4) (ga : BitVec 4) (la : Bool) : Statement (.sexth y gd ga la) := by
  have q_gd := gd.isLt
  have q_ga := ga.isLt
  have b_y := b1_lt y
  have b_la := b1_lt la
  refine of_number _ (encR y 0x00 gd.toNat ga.toNat la 0 false 0x13) rfl (lt_R y 0x00 gd.toNat ga.toNat la 0 false 0x13 (by decide) gd.isLt ga.isLt (by decide) (by decide)) fun h => ?_
  have hm := maj_R y 0x00 gd.toNat ga.toNat la 0 false 0x13 (by decide) gd.isLt ga.isLt (by decide) (by decide)
  have hy := y_R y 0x00 gd.toNat ga.toNat la 0 false 0x13 (by decide) gd.isLt ga.isLt (by decide) (by decide)
  have hl := low_R y 0x00 gd.toNat ga.toNat la 0 false 0x13 (by decide)
  have a11 := at11_R y 0x00 gd.toNat ga.toNat la 0 false 0x13 (by decide) (by decide)
  have a10 := at10_R y 0x00 gd.toNat ga.toNat la 0 false 0x13 (by decide)
  have a20 := at20_R y 0x00 gd.toNat ga.toNat la 0 false 0x13 gd.isLt ga.isLt (by decide) (by decide)
  have a16 := at16_R y 0x00 gd.toNat ga.toNat la 0 false 0x13 ga.isLt (by decide) (by decide)
  have a15 := at15_R y 0x00 gd.toNat ga.toNat la 0 false 0x13 (by decide) (by decide)
  generalize encR y 0x00 gd.toNat ga.toNat la 0 false 0x13 = w at *
  have e1 : fN w 0 6 = 0x13 := ((field_low _ _ 0 6 10 (by decide) hl)).trans (by omega)
  have e2 : fN w 11 4 = 0 := a11
  have e3 : fN w 10 1 = 0 := a10
  have e4 : fN w 6 4 = 0 := ((field_low _ _ 6 4 10 (by decide) hl)).trans (by omega)
  have e5 : fB w 31 = y := fB_eq _ _ _ (hy)
  have e6 : fV w 20 4 = gd := fV_eq _ _ _ _ (a20)
  have e7 : fV w 16 4 = ga := fV_eq _ _ _ _ (a16)
  have e8 : fB w 15 = la := fB_eq _ _ _ (a15)
  have hM : fN w 24 7 = 0x00 := hm
  rw [at_dec00 w hM]
  simp only [dec00, e1, e2, e3, e4, e5, e6, e7, e8, need, h]
  rfl

theorem sextw (y : Bool) (gd : BitVec 4) (ga : BitVec 4) (la : Bool) : Statement (.sextw y gd ga la) := by
  have q_gd := gd.isLt
  have q_ga := ga.isLt
  have b_y := b1_lt y
  have b_la := b1_lt la
  refine of_number _ (encR y 0x00 gd.toNat ga.toNat la 0 false 0x14) rfl (lt_R y 0x00 gd.toNat ga.toNat la 0 false 0x14 (by decide) gd.isLt ga.isLt (by decide) (by decide)) fun h => ?_
  have hm := maj_R y 0x00 gd.toNat ga.toNat la 0 false 0x14 (by decide) gd.isLt ga.isLt (by decide) (by decide)
  have hy := y_R y 0x00 gd.toNat ga.toNat la 0 false 0x14 (by decide) gd.isLt ga.isLt (by decide) (by decide)
  have hl := low_R y 0x00 gd.toNat ga.toNat la 0 false 0x14 (by decide)
  have a11 := at11_R y 0x00 gd.toNat ga.toNat la 0 false 0x14 (by decide) (by decide)
  have a10 := at10_R y 0x00 gd.toNat ga.toNat la 0 false 0x14 (by decide)
  have a20 := at20_R y 0x00 gd.toNat ga.toNat la 0 false 0x14 gd.isLt ga.isLt (by decide) (by decide)
  have a16 := at16_R y 0x00 gd.toNat ga.toNat la 0 false 0x14 ga.isLt (by decide) (by decide)
  have a15 := at15_R y 0x00 gd.toNat ga.toNat la 0 false 0x14 (by decide) (by decide)
  generalize encR y 0x00 gd.toNat ga.toNat la 0 false 0x14 = w at *
  have e1 : fN w 0 6 = 0x14 := ((field_low _ _ 0 6 10 (by decide) hl)).trans (by omega)
  have e2 : fN w 11 4 = 0 := a11
  have e3 : fN w 10 1 = 0 := a10
  have e4 : fN w 6 4 = 0 := ((field_low _ _ 6 4 10 (by decide) hl)).trans (by omega)
  have e5 : fB w 31 = y := fB_eq _ _ _ (hy)
  have e6 : fV w 20 4 = gd := fV_eq _ _ _ _ (a20)
  have e7 : fV w 16 4 = ga := fV_eq _ _ _ _ (a16)
  have e8 : fB w 15 = la := fB_eq _ _ _ (a15)
  have hM : fN w 24 7 = 0x00 := hm
  rw [at_dec00 w hM]
  simp only [dec00, e1, e2, e3, e4, e5, e6, e7, e8, need, h]
  rfl

theorem zextb (y : Bool) (gd : BitVec 4) (ga : BitVec 4) (la : Bool) : Statement (.zextb y gd ga la) := by
  have q_gd := gd.isLt
  have q_ga := ga.isLt
  have b_y := b1_lt y
  have b_la := b1_lt la
  refine of_number _ (encR y 0x00 gd.toNat ga.toNat la 0 false 0x15) rfl (lt_R y 0x00 gd.toNat ga.toNat la 0 false 0x15 (by decide) gd.isLt ga.isLt (by decide) (by decide)) fun h => ?_
  have hm := maj_R y 0x00 gd.toNat ga.toNat la 0 false 0x15 (by decide) gd.isLt ga.isLt (by decide) (by decide)
  have hy := y_R y 0x00 gd.toNat ga.toNat la 0 false 0x15 (by decide) gd.isLt ga.isLt (by decide) (by decide)
  have hl := low_R y 0x00 gd.toNat ga.toNat la 0 false 0x15 (by decide)
  have a11 := at11_R y 0x00 gd.toNat ga.toNat la 0 false 0x15 (by decide) (by decide)
  have a10 := at10_R y 0x00 gd.toNat ga.toNat la 0 false 0x15 (by decide)
  have a20 := at20_R y 0x00 gd.toNat ga.toNat la 0 false 0x15 gd.isLt ga.isLt (by decide) (by decide)
  have a16 := at16_R y 0x00 gd.toNat ga.toNat la 0 false 0x15 ga.isLt (by decide) (by decide)
  have a15 := at15_R y 0x00 gd.toNat ga.toNat la 0 false 0x15 (by decide) (by decide)
  generalize encR y 0x00 gd.toNat ga.toNat la 0 false 0x15 = w at *
  have e1 : fN w 0 6 = 0x15 := ((field_low _ _ 0 6 10 (by decide) hl)).trans (by omega)
  have e2 : fN w 11 4 = 0 := a11
  have e3 : fN w 10 1 = 0 := a10
  have e4 : fN w 6 4 = 0 := ((field_low _ _ 6 4 10 (by decide) hl)).trans (by omega)
  have e5 : fB w 31 = y := fB_eq _ _ _ (hy)
  have e6 : fV w 20 4 = gd := fV_eq _ _ _ _ (a20)
  have e7 : fV w 16 4 = ga := fV_eq _ _ _ _ (a16)
  have e8 : fB w 15 = la := fB_eq _ _ _ (a15)
  have hM : fN w 24 7 = 0x00 := hm
  rw [at_dec00 w hM]
  simp only [dec00, e1, e2, e3, e4, e5, e6, e7, e8, need, h]
  rfl

theorem zexth (y : Bool) (gd : BitVec 4) (ga : BitVec 4) (la : Bool) : Statement (.zexth y gd ga la) := by
  have q_gd := gd.isLt
  have q_ga := ga.isLt
  have b_y := b1_lt y
  have b_la := b1_lt la
  refine of_number _ (encR y 0x00 gd.toNat ga.toNat la 0 false 0x16) rfl (lt_R y 0x00 gd.toNat ga.toNat la 0 false 0x16 (by decide) gd.isLt ga.isLt (by decide) (by decide)) fun h => ?_
  have hm := maj_R y 0x00 gd.toNat ga.toNat la 0 false 0x16 (by decide) gd.isLt ga.isLt (by decide) (by decide)
  have hy := y_R y 0x00 gd.toNat ga.toNat la 0 false 0x16 (by decide) gd.isLt ga.isLt (by decide) (by decide)
  have hl := low_R y 0x00 gd.toNat ga.toNat la 0 false 0x16 (by decide)
  have a11 := at11_R y 0x00 gd.toNat ga.toNat la 0 false 0x16 (by decide) (by decide)
  have a10 := at10_R y 0x00 gd.toNat ga.toNat la 0 false 0x16 (by decide)
  have a20 := at20_R y 0x00 gd.toNat ga.toNat la 0 false 0x16 gd.isLt ga.isLt (by decide) (by decide)
  have a16 := at16_R y 0x00 gd.toNat ga.toNat la 0 false 0x16 ga.isLt (by decide) (by decide)
  have a15 := at15_R y 0x00 gd.toNat ga.toNat la 0 false 0x16 (by decide) (by decide)
  generalize encR y 0x00 gd.toNat ga.toNat la 0 false 0x16 = w at *
  have e1 : fN w 0 6 = 0x16 := ((field_low _ _ 0 6 10 (by decide) hl)).trans (by omega)
  have e2 : fN w 11 4 = 0 := a11
  have e3 : fN w 10 1 = 0 := a10
  have e4 : fN w 6 4 = 0 := ((field_low _ _ 6 4 10 (by decide) hl)).trans (by omega)
  have e5 : fB w 31 = y := fB_eq _ _ _ (hy)
  have e6 : fV w 20 4 = gd := fV_eq _ _ _ _ (a20)
  have e7 : fV w 16 4 = ga := fV_eq _ _ _ _ (a16)
  have e8 : fB w 15 = la := fB_eq _ _ _ (a15)
  have hM : fN w 24 7 = 0x00 := hm
  rw [at_dec00 w hM]
  simp only [dec00, e1, e2, e3, e4, e5, e6, e7, e8, need, h]
  rfl

theorem zextw (y : Bool) (gd : BitVec 4) (ga : BitVec 4) (la : Bool) : Statement (.zextw y gd ga la) := by
  have q_gd := gd.isLt
  have q_ga := ga.isLt
  have b_y := b1_lt y
  have b_la := b1_lt la
  refine of_number _ (encR y 0x00 gd.toNat ga.toNat la 0 false 0x17) rfl (lt_R y 0x00 gd.toNat ga.toNat la 0 false 0x17 (by decide) gd.isLt ga.isLt (by decide) (by decide)) fun h => ?_
  have hm := maj_R y 0x00 gd.toNat ga.toNat la 0 false 0x17 (by decide) gd.isLt ga.isLt (by decide) (by decide)
  have hy := y_R y 0x00 gd.toNat ga.toNat la 0 false 0x17 (by decide) gd.isLt ga.isLt (by decide) (by decide)
  have hl := low_R y 0x00 gd.toNat ga.toNat la 0 false 0x17 (by decide)
  have a11 := at11_R y 0x00 gd.toNat ga.toNat la 0 false 0x17 (by decide) (by decide)
  have a10 := at10_R y 0x00 gd.toNat ga.toNat la 0 false 0x17 (by decide)
  have a20 := at20_R y 0x00 gd.toNat ga.toNat la 0 false 0x17 gd.isLt ga.isLt (by decide) (by decide)
  have a16 := at16_R y 0x00 gd.toNat ga.toNat la 0 false 0x17 ga.isLt (by decide) (by decide)
  have a15 := at15_R y 0x00 gd.toNat ga.toNat la 0 false 0x17 (by decide) (by decide)
  generalize encR y 0x00 gd.toNat ga.toNat la 0 false 0x17 = w at *
  have e1 : fN w 0 6 = 0x17 := ((field_low _ _ 0 6 10 (by decide) hl)).trans (by omega)
  have e2 : fN w 11 4 = 0 := a11
  have e3 : fN w 10 1 = 0 := a10
  have e4 : fN w 6 4 = 0 := ((field_low _ _ 6 4 10 (by decide) hl)).trans (by omega)
  have e5 : fB w 31 = y := fB_eq _ _ _ (hy)
  have e6 : fV w 20 4 = gd := fV_eq _ _ _ _ (a20)
  have e7 : fV w 16 4 = ga := fV_eq _ _ _ _ (a16)
  have e8 : fB w 15 = la := fB_eq _ _ _ (a15)
  have hM : fN w 24 7 = 0x00 := hm
  rw [at_dec00 w hM]
  simp only [dec00, e1, e2, e3, e4, e5, e6, e7, e8, need, h]
  rfl

theorem sel (y : Bool) (gd : BitVec 4) (ga : BitVec 4) (la : Bool) (gb : BitVec 4) (lb : Bool) : Statement (.sel y gd ga la gb lb) := by
  have q_gd := gd.isLt
  have q_ga := ga.isLt
  have q_gb := gb.isLt
  have b_y := b1_lt y
  have b_la := b1_lt la
  have b_lb := b1_lt lb
  refine of_number _ (encR y 0x00 gd.toNat ga.toNat la gb.toNat lb 0x18) rfl (lt_R y 0x00 gd.toNat ga.toNat la gb.toNat lb 0x18 (by decide) gd.isLt ga.isLt gb.isLt (by decide)) fun h => ?_
  have hm := maj_R y 0x00 gd.toNat ga.toNat la gb.toNat lb 0x18 (by decide) gd.isLt ga.isLt gb.isLt (by decide)
  have hy := y_R y 0x00 gd.toNat ga.toNat la gb.toNat lb 0x18 (by decide) gd.isLt ga.isLt gb.isLt (by decide)
  have hl := low_R y 0x00 gd.toNat ga.toNat la gb.toNat lb 0x18 (by decide)
  have a20 := at20_R y 0x00 gd.toNat ga.toNat la gb.toNat lb 0x18 gd.isLt ga.isLt gb.isLt (by decide)
  have a16 := at16_R y 0x00 gd.toNat ga.toNat la gb.toNat lb 0x18 ga.isLt gb.isLt (by decide)
  have a15 := at15_R y 0x00 gd.toNat ga.toNat la gb.toNat lb 0x18 gb.isLt (by decide)
  have a11 := at11_R y 0x00 gd.toNat ga.toNat la gb.toNat lb 0x18 gb.isLt (by decide)
  have a10 := at10_R y 0x00 gd.toNat ga.toNat la gb.toNat lb 0x18 (by decide)
  generalize encR y 0x00 gd.toNat ga.toNat la gb.toNat lb 0x18 = w at *
  have e1 : fN w 0 6 = 0x18 := ((field_low _ _ 0 6 10 (by decide) hl)).trans (by omega)
  have e2 : fN w 6 4 = 0 := ((field_low _ _ 6 4 10 (by decide) hl)).trans (by omega)
  have e3 : fB w 31 = y := fB_eq _ _ _ (hy)
  have e4 : fV w 20 4 = gd := fV_eq _ _ _ _ (a20)
  have e5 : fV w 16 4 = ga := fV_eq _ _ _ _ (a16)
  have e6 : fB w 15 = la := fB_eq _ _ _ (a15)
  have e7 : fV w 11 4 = gb := fV_eq _ _ _ _ (a11)
  have e8 : fB w 10 = lb := fB_eq _ _ _ (a10)
  have hM : fN w 24 7 = 0x00 := hm
  rw [at_dec00 w hM]
  simp only [dec00, e1, e2, e3, e4, e5, e6, e7, e8, need, h]
  rfl

theorem mul (y : Bool) (gd : BitVec 4) (ga : BitVec 4) (la : Bool) (gb : BitVec 4) (lb : Bool) : Statement (.mul y gd ga la gb lb) := by
  have q_gd := gd.isLt
  have q_ga := ga.isLt
  have q_gb := gb.isLt
  have b_y := b1_lt y
  have b_la := b1_lt la
  have b_lb := b1_lt lb
  refine of_number _ (encR y 0x01 gd.toNat ga.toNat la gb.toNat lb 0) rfl (lt_R y 0x01 gd.toNat ga.toNat la gb.toNat lb 0 (by decide) gd.isLt ga.isLt gb.isLt (by decide)) fun h => ?_
  have hm := maj_R y 0x01 gd.toNat ga.toNat la gb.toNat lb 0 (by decide) gd.isLt ga.isLt gb.isLt (by decide)
  have hy := y_R y 0x01 gd.toNat ga.toNat la gb.toNat lb 0 (by decide) gd.isLt ga.isLt gb.isLt (by decide)
  have hl := low_R y 0x01 gd.toNat ga.toNat la gb.toNat lb 0 (by decide)
  have a20 := at20_R y 0x01 gd.toNat ga.toNat la gb.toNat lb 0 gd.isLt ga.isLt gb.isLt (by decide)
  have a16 := at16_R y 0x01 gd.toNat ga.toNat la gb.toNat lb 0 ga.isLt gb.isLt (by decide)
  have a15 := at15_R y 0x01 gd.toNat ga.toNat la gb.toNat lb 0 gb.isLt (by decide)
  have a11 := at11_R y 0x01 gd.toNat ga.toNat la gb.toNat lb 0 gb.isLt (by decide)
  have a10 := at10_R y 0x01 gd.toNat ga.toNat la gb.toNat lb 0 (by decide)
  generalize encR y 0x01 gd.toNat ga.toNat la gb.toNat lb 0 = w at *
  have e1 : fN w 0 6 = 0x0 := ((field_low _ _ 0 6 10 (by decide) hl)).trans (by omega)
  have e2 : fN w 6 4 = 0 := ((field_low _ _ 6 4 10 (by decide) hl)).trans (by omega)
  have e3 : fB w 31 = y := fB_eq _ _ _ (hy)
  have e4 : fV w 20 4 = gd := fV_eq _ _ _ _ (a20)
  have e5 : fV w 16 4 = ga := fV_eq _ _ _ _ (a16)
  have e6 : fB w 15 = la := fB_eq _ _ _ (a15)
  have e7 : fV w 11 4 = gb := fV_eq _ _ _ _ (a11)
  have e8 : fB w 10 = lb := fB_eq _ _ _ (a10)
  have hM : fN w 24 7 = 0x01 := hm
  rw [at_dec01 w hM]
  simp only [dec01, e1, e2, e3, e4, e5, e6, e7, e8, need, h]
  rfl

theorem mulh (y : Bool) (gd : BitVec 4) (ga : BitVec 4) (la : Bool) (gb : BitVec 4) (lb : Bool) (uns : Bool) : Statement (.mulh y gd ga la gb lb uns) := by
  have q_gd := gd.isLt
  have q_ga := ga.isLt
  have q_gb := gb.isLt
  have b_y := b1_lt y
  have b_la := b1_lt la
  have b_lb := b1_lt lb
  have b_uns := b1_lt uns
  have hlo : (b1 uns * 0x100 + 1) < 1024 := by omega
  refine of_number _ (encR y 0x01 gd.toNat ga.toNat la gb.toNat lb (b1 uns * 0x100 + 1)) rfl (lt_R y 0x01 gd.toNat ga.toNat la gb.toNat lb (b1 uns * 0x100 + 1) (by decide) gd.isLt ga.isLt gb.isLt hlo) fun h => ?_
  have hm := maj_R y 0x01 gd.toNat ga.toNat la gb.toNat lb (b1 uns * 0x100 + 1) (by decide) gd.isLt ga.isLt gb.isLt hlo
  have hy := y_R y 0x01 gd.toNat ga.toNat la gb.toNat lb (b1 uns * 0x100 + 1) (by decide) gd.isLt ga.isLt gb.isLt hlo
  have hl := low_R y 0x01 gd.toNat ga.toNat la gb.toNat lb (b1 uns * 0x100 + 1) hlo
  have a20 := at20_R y 0x01 gd.toNat ga.toNat la gb.toNat lb (b1 uns * 0x100 + 1) gd.isLt ga.isLt gb.isLt hlo
  have a16 := at16_R y 0x01 gd.toNat ga.toNat la gb.toNat lb (b1 uns * 0x100 + 1) ga.isLt gb.isLt hlo
  have a15 := at15_R y 0x01 gd.toNat ga.toNat la gb.toNat lb (b1 uns * 0x100 + 1) gb.isLt hlo
  have a11 := at11_R y 0x01 gd.toNat ga.toNat la gb.toNat lb (b1 uns * 0x100 + 1) gb.isLt hlo
  have a10 := at10_R y 0x01 gd.toNat ga.toNat la gb.toNat lb (b1 uns * 0x100 + 1) hlo
  generalize encR y 0x01 gd.toNat ga.toNat la gb.toNat lb (b1 uns * 0x100 + 1) = w at *
  have e1 : fN w 0 6 = 0x1 := ((field_low _ _ 0 6 10 (by decide) hl)).trans (by omega)
  have e2 : fN w 6 2 = 0 := ((field_low _ _ 6 2 10 (by decide) hl)).trans (by omega)
  have e3 : fN w 9 1 = 0 := ((field_low _ _ 9 1 10 (by decide) hl)).trans (by omega)
  have e4 : fB w 31 = y := fB_eq _ _ _ (hy)
  have e5 : fV w 20 4 = gd := fV_eq _ _ _ _ (a20)
  have e6 : fV w 16 4 = ga := fV_eq _ _ _ _ (a16)
  have e7 : fB w 15 = la := fB_eq _ _ _ (a15)
  have e8 : fV w 11 4 = gb := fV_eq _ _ _ _ (a11)
  have e9 : fB w 10 = lb := fB_eq _ _ _ (a10)
  have e10 : fB w 8 = uns := fB_eq _ _ _ (((field_low _ _ 8 1 10 (by decide) hl)).trans (by omega))
  have hM : fN w 24 7 = 0x01 := hm
  rw [at_dec01 w hM]
  simp only [dec01, e1, e2, e3, e4, e5, e6, e7, e8, e9, e10, need, h]
  rfl

theorem div (y : Bool) (gd : BitVec 4) (ga : BitVec 4) (la : Bool) (gb : BitVec 4) (lb : Bool) (uns : Bool) : Statement (.div y gd ga la gb lb uns) := by
  have q_gd := gd.isLt
  have q_ga := ga.isLt
  have q_gb := gb.isLt
  have b_y := b1_lt y
  have b_la := b1_lt la
  have b_lb := b1_lt lb
  have b_uns := b1_lt uns
  have hlo : (b1 uns * 0x100 + 2) < 1024 := by omega
  refine of_number _ (encR y 0x01 gd.toNat ga.toNat la gb.toNat lb (b1 uns * 0x100 + 2)) rfl (lt_R y 0x01 gd.toNat ga.toNat la gb.toNat lb (b1 uns * 0x100 + 2) (by decide) gd.isLt ga.isLt gb.isLt hlo) fun h => ?_
  have hm := maj_R y 0x01 gd.toNat ga.toNat la gb.toNat lb (b1 uns * 0x100 + 2) (by decide) gd.isLt ga.isLt gb.isLt hlo
  have hy := y_R y 0x01 gd.toNat ga.toNat la gb.toNat lb (b1 uns * 0x100 + 2) (by decide) gd.isLt ga.isLt gb.isLt hlo
  have hl := low_R y 0x01 gd.toNat ga.toNat la gb.toNat lb (b1 uns * 0x100 + 2) hlo
  have a20 := at20_R y 0x01 gd.toNat ga.toNat la gb.toNat lb (b1 uns * 0x100 + 2) gd.isLt ga.isLt gb.isLt hlo
  have a16 := at16_R y 0x01 gd.toNat ga.toNat la gb.toNat lb (b1 uns * 0x100 + 2) ga.isLt gb.isLt hlo
  have a15 := at15_R y 0x01 gd.toNat ga.toNat la gb.toNat lb (b1 uns * 0x100 + 2) gb.isLt hlo
  have a11 := at11_R y 0x01 gd.toNat ga.toNat la gb.toNat lb (b1 uns * 0x100 + 2) gb.isLt hlo
  have a10 := at10_R y 0x01 gd.toNat ga.toNat la gb.toNat lb (b1 uns * 0x100 + 2) hlo
  generalize encR y 0x01 gd.toNat ga.toNat la gb.toNat lb (b1 uns * 0x100 + 2) = w at *
  have e1 : fN w 0 6 = 0x2 := ((field_low _ _ 0 6 10 (by decide) hl)).trans (by omega)
  have e2 : fN w 6 2 = 0 := ((field_low _ _ 6 2 10 (by decide) hl)).trans (by omega)
  have e3 : fN w 9 1 = 0 := ((field_low _ _ 9 1 10 (by decide) hl)).trans (by omega)
  have e4 : fB w 31 = y := fB_eq _ _ _ (hy)
  have e5 : fV w 20 4 = gd := fV_eq _ _ _ _ (a20)
  have e6 : fV w 16 4 = ga := fV_eq _ _ _ _ (a16)
  have e7 : fB w 15 = la := fB_eq _ _ _ (a15)
  have e8 : fV w 11 4 = gb := fV_eq _ _ _ _ (a11)
  have e9 : fB w 10 = lb := fB_eq _ _ _ (a10)
  have e10 : fB w 8 = uns := fB_eq _ _ _ (((field_low _ _ 8 1 10 (by decide) hl)).trans (by omega))
  have hM : fN w 24 7 = 0x01 := hm
  rw [at_dec01 w hM]
  simp only [dec01, e1, e2, e3, e4, e5, e6, e7, e8, e9, e10, need, h]
  rfl

theorem rem (y : Bool) (gd : BitVec 4) (ga : BitVec 4) (la : Bool) (gb : BitVec 4) (lb : Bool) (uns : Bool) : Statement (.rem y gd ga la gb lb uns) := by
  have q_gd := gd.isLt
  have q_ga := ga.isLt
  have q_gb := gb.isLt
  have b_y := b1_lt y
  have b_la := b1_lt la
  have b_lb := b1_lt lb
  have b_uns := b1_lt uns
  have hlo : (b1 uns * 0x100 + 3) < 1024 := by omega
  refine of_number _ (encR y 0x01 gd.toNat ga.toNat la gb.toNat lb (b1 uns * 0x100 + 3)) rfl (lt_R y 0x01 gd.toNat ga.toNat la gb.toNat lb (b1 uns * 0x100 + 3) (by decide) gd.isLt ga.isLt gb.isLt hlo) fun h => ?_
  have hm := maj_R y 0x01 gd.toNat ga.toNat la gb.toNat lb (b1 uns * 0x100 + 3) (by decide) gd.isLt ga.isLt gb.isLt hlo
  have hy := y_R y 0x01 gd.toNat ga.toNat la gb.toNat lb (b1 uns * 0x100 + 3) (by decide) gd.isLt ga.isLt gb.isLt hlo
  have hl := low_R y 0x01 gd.toNat ga.toNat la gb.toNat lb (b1 uns * 0x100 + 3) hlo
  have a20 := at20_R y 0x01 gd.toNat ga.toNat la gb.toNat lb (b1 uns * 0x100 + 3) gd.isLt ga.isLt gb.isLt hlo
  have a16 := at16_R y 0x01 gd.toNat ga.toNat la gb.toNat lb (b1 uns * 0x100 + 3) ga.isLt gb.isLt hlo
  have a15 := at15_R y 0x01 gd.toNat ga.toNat la gb.toNat lb (b1 uns * 0x100 + 3) gb.isLt hlo
  have a11 := at11_R y 0x01 gd.toNat ga.toNat la gb.toNat lb (b1 uns * 0x100 + 3) gb.isLt hlo
  have a10 := at10_R y 0x01 gd.toNat ga.toNat la gb.toNat lb (b1 uns * 0x100 + 3) hlo
  generalize encR y 0x01 gd.toNat ga.toNat la gb.toNat lb (b1 uns * 0x100 + 3) = w at *
  have e1 : fN w 0 6 = 0x3 := ((field_low _ _ 0 6 10 (by decide) hl)).trans (by omega)
  have e2 : fN w 6 2 = 0 := ((field_low _ _ 6 2 10 (by decide) hl)).trans (by omega)
  have e3 : fN w 9 1 = 0 := ((field_low _ _ 9 1 10 (by decide) hl)).trans (by omega)
  have e4 : fB w 31 = y := fB_eq _ _ _ (hy)
  have e5 : fV w 20 4 = gd := fV_eq _ _ _ _ (a20)
  have e6 : fV w 16 4 = ga := fV_eq _ _ _ _ (a16)
  have e7 : fB w 15 = la := fB_eq _ _ _ (a15)
  have e8 : fV w 11 4 = gb := fV_eq _ _ _ _ (a11)
  have e9 : fB w 10 = lb := fB_eq _ _ _ (a10)
  have e10 : fB w 8 = uns := fB_eq _ _ _ (((field_low _ _ 8 1 10 (by decide) hl)).trans (by omega))
  have hM : fN w 24 7 = 0x01 := hm
  rw [at_dec01 w hM]
  simp only [dec01, e1, e2, e3, e4, e5, e6, e7, e8, e9, e10, need, h]
  rfl

theorem hmix (y : Bool) (gd : BitVec 4) (ga : BitVec 4) (la : Bool) (gb : BitVec 4) (lb : Bool) : Statement (.hmix y gd ga la gb lb) := by
  have q_gd := gd.isLt
  have q_ga := ga.isLt
  have q_gb := gb.isLt
  have b_y := b1_lt y
  have b_la := b1_lt la
  have b_lb := b1_lt lb
  refine of_number _ (encR y 0x01 gd.toNat ga.toNat la gb.toNat lb 4) rfl (lt_R y 0x01 gd.toNat ga.toNat la gb.toNat lb 4 (by decide) gd.isLt ga.isLt gb.isLt (by decide)) fun h => ?_
  have hm := maj_R y 0x01 gd.toNat ga.toNat la gb.toNat lb 4 (by decide) gd.isLt ga.isLt gb.isLt (by decide)
  have hy := y_R y 0x01 gd.toNat ga.toNat la gb.toNat lb 4 (by decide) gd.isLt ga.isLt gb.isLt (by decide)
  have hl := low_R y 0x01 gd.toNat ga.toNat la gb.toNat lb 4 (by decide)
  have a20 := at20_R y 0x01 gd.toNat ga.toNat la gb.toNat lb 4 gd.isLt ga.isLt gb.isLt (by decide)
  have a16 := at16_R y 0x01 gd.toNat ga.toNat la gb.toNat lb 4 ga.isLt gb.isLt (by decide)
  have a15 := at15_R y 0x01 gd.toNat ga.toNat la gb.toNat lb 4 gb.isLt (by decide)
  have a11 := at11_R y 0x01 gd.toNat ga.toNat la gb.toNat lb 4 gb.isLt (by decide)
  have a10 := at10_R y 0x01 gd.toNat ga.toNat la gb.toNat lb 4 (by decide)
  generalize encR y 0x01 gd.toNat ga.toNat la gb.toNat lb 4 = w at *
  have e1 : fN w 0 6 = 0x4 := ((field_low _ _ 0 6 10 (by decide) hl)).trans (by omega)
  have e2 : fN w 6 4 = 0 := ((field_low _ _ 6 4 10 (by decide) hl)).trans (by omega)
  have e3 : fB w 31 = y := fB_eq _ _ _ (hy)
  have e4 : fV w 20 4 = gd := fV_eq _ _ _ _ (a20)
  have e5 : fV w 16 4 = ga := fV_eq _ _ _ _ (a16)
  have e6 : fB w 15 = la := fB_eq _ _ _ (a15)
  have e7 : fV w 11 4 = gb := fV_eq _ _ _ _ (a11)
  have e8 : fB w 10 = lb := fB_eq _ _ _ (a10)
  have hM : fN w 24 7 = 0x01 := hm
  rw [at_dec01 w hM]
  simp only [dec01, e1, e2, e3, e4, e5, e6, e7, e8, need, h]
  rfl

theorem addi (y : Bool) (gd : BitVec 4) (ga : BitVec 4) (la : Bool) (imm : BitVec 15) : Statement (.addi y gd ga la imm) := by
  have q_gd := gd.isLt
  have q_ga := ga.isLt
  have q_imm := imm.isLt
  have b_y := b1_lt y
  have b_la := b1_lt la
  refine of_number _ (encI y 0x10 gd.toNat ga.toNat la imm.toNat) rfl (lt_I y 0x10 gd.toNat ga.toNat la imm.toNat (by decide) gd.isLt ga.isLt imm.isLt) fun h => ?_
  have hm := maj_I y 0x10 gd.toNat ga.toNat la imm.toNat (by decide) gd.isLt ga.isLt imm.isLt
  have hy := y_I y 0x10 gd.toNat ga.toNat la imm.toNat (by decide) gd.isLt ga.isLt imm.isLt
  have hl := low_I y 0x10 gd.toNat ga.toNat la imm.toNat imm.isLt
  have a20 := at20_I y 0x10 gd.toNat ga.toNat la imm.toNat gd.isLt ga.isLt imm.isLt
  have a16 := at16_I y 0x10 gd.toNat ga.toNat la imm.toNat ga.isLt imm.isLt
  have a15 := at15_I y 0x10 gd.toNat ga.toNat la imm.toNat imm.isLt
  generalize encI y 0x10 gd.toNat ga.toNat la imm.toNat = w at *
  have e1 : fB w 31 = y := fB_eq _ _ _ (hy)
  have e2 : fV w 20 4 = gd := fV_eq _ _ _ _ (a20)
  have e3 : fV w 16 4 = ga := fV_eq _ _ _ _ (a16)
  have e4 : fB w 15 = la := fB_eq _ _ _ (a15)
  have e5 : fV w 0 15 = imm := fV_eq _ _ _ _ (((field_low _ _ 0 15 15 (by decide) hl)).trans (by omega))
  have hM : fN w 24 7 = 0x10 := hm
  rw [at_dec10 w hM]
  simp only [dec10, e1, e2, e3, e4, e5, need, h]
  rfl

theorem andi (y : Bool) (gd : BitVec 4) (ga : BitVec 4) (la : Bool) (imm : BitVec 15) : Statement (.andi y gd ga la imm) := by
  have q_gd := gd.isLt
  have q_ga := ga.isLt
  have q_imm := imm.isLt
  have b_y := b1_lt y
  have b_la := b1_lt la
  refine of_number _ (encI y 0x11 gd.toNat ga.toNat la imm.toNat) rfl (lt_I y 0x11 gd.toNat ga.toNat la imm.toNat (by decide) gd.isLt ga.isLt imm.isLt) fun h => ?_
  have hm := maj_I y 0x11 gd.toNat ga.toNat la imm.toNat (by decide) gd.isLt ga.isLt imm.isLt
  have hy := y_I y 0x11 gd.toNat ga.toNat la imm.toNat (by decide) gd.isLt ga.isLt imm.isLt
  have hl := low_I y 0x11 gd.toNat ga.toNat la imm.toNat imm.isLt
  have a20 := at20_I y 0x11 gd.toNat ga.toNat la imm.toNat gd.isLt ga.isLt imm.isLt
  have a16 := at16_I y 0x11 gd.toNat ga.toNat la imm.toNat ga.isLt imm.isLt
  have a15 := at15_I y 0x11 gd.toNat ga.toNat la imm.toNat imm.isLt
  generalize encI y 0x11 gd.toNat ga.toNat la imm.toNat = w at *
  have e1 : fB w 31 = y := fB_eq _ _ _ (hy)
  have e2 : fV w 20 4 = gd := fV_eq _ _ _ _ (a20)
  have e3 : fV w 16 4 = ga := fV_eq _ _ _ _ (a16)
  have e4 : fB w 15 = la := fB_eq _ _ _ (a15)
  have e5 : fV w 0 15 = imm := fV_eq _ _ _ _ (((field_low _ _ 0 15 15 (by decide) hl)).trans (by omega))
  have hM : fN w 24 7 = 0x11 := hm
  rw [at_dec11 w hM]
  simp only [dec11, e1, e2, e3, e4, e5, need, h]
  rfl

theorem ori (y : Bool) (gd : BitVec 4) (ga : BitVec 4) (la : Bool) (imm : BitVec 15) : Statement (.ori y gd ga la imm) := by
  have q_gd := gd.isLt
  have q_ga := ga.isLt
  have q_imm := imm.isLt
  have b_y := b1_lt y
  have b_la := b1_lt la
  refine of_number _ (encI y 0x12 gd.toNat ga.toNat la imm.toNat) rfl (lt_I y 0x12 gd.toNat ga.toNat la imm.toNat (by decide) gd.isLt ga.isLt imm.isLt) fun h => ?_
  have hm := maj_I y 0x12 gd.toNat ga.toNat la imm.toNat (by decide) gd.isLt ga.isLt imm.isLt
  have hy := y_I y 0x12 gd.toNat ga.toNat la imm.toNat (by decide) gd.isLt ga.isLt imm.isLt
  have hl := low_I y 0x12 gd.toNat ga.toNat la imm.toNat imm.isLt
  have a20 := at20_I y 0x12 gd.toNat ga.toNat la imm.toNat gd.isLt ga.isLt imm.isLt
  have a16 := at16_I y 0x12 gd.toNat ga.toNat la imm.toNat ga.isLt imm.isLt
  have a15 := at15_I y 0x12 gd.toNat ga.toNat la imm.toNat imm.isLt
  generalize encI y 0x12 gd.toNat ga.toNat la imm.toNat = w at *
  have e1 : fB w 31 = y := fB_eq _ _ _ (hy)
  have e2 : fV w 20 4 = gd := fV_eq _ _ _ _ (a20)
  have e3 : fV w 16 4 = ga := fV_eq _ _ _ _ (a16)
  have e4 : fB w 15 = la := fB_eq _ _ _ (a15)
  have e5 : fV w 0 15 = imm := fV_eq _ _ _ _ (((field_low _ _ 0 15 15 (by decide) hl)).trans (by omega))
  have hM : fN w 24 7 = 0x12 := hm
  rw [at_dec12 w hM]
  simp only [dec12, e1, e2, e3, e4, e5, need, h]
  rfl

theorem xori (y : Bool) (gd : BitVec 4) (ga : BitVec 4) (la : Bool) (imm : BitVec 15) : Statement (.xori y gd ga la imm) := by
  have q_gd := gd.isLt
  have q_ga := ga.isLt
  have q_imm := imm.isLt
  have b_y := b1_lt y
  have b_la := b1_lt la
  refine of_number _ (encI y 0x13 gd.toNat ga.toNat la imm.toNat) rfl (lt_I y 0x13 gd.toNat ga.toNat la imm.toNat (by decide) gd.isLt ga.isLt imm.isLt) fun h => ?_
  have hm := maj_I y 0x13 gd.toNat ga.toNat la imm.toNat (by decide) gd.isLt ga.isLt imm.isLt
  have hy := y_I y 0x13 gd.toNat ga.toNat la imm.toNat (by decide) gd.isLt ga.isLt imm.isLt
  have hl := low_I y 0x13 gd.toNat ga.toNat la imm.toNat imm.isLt
  have a20 := at20_I y 0x13 gd.toNat ga.toNat la imm.toNat gd.isLt ga.isLt imm.isLt
  have a16 := at16_I y 0x13 gd.toNat ga.toNat la imm.toNat ga.isLt imm.isLt
  have a15 := at15_I y 0x13 gd.toNat ga.toNat la imm.toNat imm.isLt
  generalize encI y 0x13 gd.toNat ga.toNat la imm.toNat = w at *
  have e1 : fB w 31 = y := fB_eq _ _ _ (hy)
  have e2 : fV w 20 4 = gd := fV_eq _ _ _ _ (a20)
  have e3 : fV w 16 4 = ga := fV_eq _ _ _ _ (a16)
  have e4 : fB w 15 = la := fB_eq _ _ _ (a15)
  have e5 : fV w 0 15 = imm := fV_eq _ _ _ _ (((field_low _ _ 0 15 15 (by decide) hl)).trans (by omega))
  have hM : fN w 24 7 = 0x13 := hm
  rw [at_dec13 w hM]
  simp only [dec13, e1, e2, e3, e4, e5, need, h]
  rfl

theorem shli (y : Bool) (gd : BitVec 4) (ga : BitVec 4) (la : Bool) (n : BitVec 6) : Statement (.shli y gd ga la n) := by
  have q_gd := gd.isLt
  have q_ga := ga.isLt
  have q_n := n.isLt
  have b_y := b1_lt y
  have b_la := b1_lt la
  have hlo : n.toNat < 32768 := by omega
  refine of_number _ (encI y 0x14 gd.toNat ga.toNat la n.toNat) rfl (lt_I y 0x14 gd.toNat ga.toNat la n.toNat (by decide) gd.isLt ga.isLt hlo) fun h => ?_
  have hm := maj_I y 0x14 gd.toNat ga.toNat la n.toNat (by decide) gd.isLt ga.isLt hlo
  have hy := y_I y 0x14 gd.toNat ga.toNat la n.toNat (by decide) gd.isLt ga.isLt hlo
  have hl := low_I y 0x14 gd.toNat ga.toNat la n.toNat hlo
  have a20 := at20_I y 0x14 gd.toNat ga.toNat la n.toNat gd.isLt ga.isLt hlo
  have a16 := at16_I y 0x14 gd.toNat ga.toNat la n.toNat ga.isLt hlo
  have a15 := at15_I y 0x14 gd.toNat ga.toNat la n.toNat hlo
  generalize encI y 0x14 gd.toNat ga.toNat la n.toNat = w at *
  have e1 : fN w 6 9 = 0 := ((field_low _ _ 6 9 15 (by decide) hl)).trans (by omega)
  have e2 : fB w 31 = y := fB_eq _ _ _ (hy)
  have e3 : fV w 20 4 = gd := fV_eq _ _ _ _ (a20)
  have e4 : fV w 16 4 = ga := fV_eq _ _ _ _ (a16)
  have e5 : fB w 15 = la := fB_eq _ _ _ (a15)
  have e6 : fV w 0 6 = n := fV_eq _ _ _ _ (((field_low _ _ 0 6 15 (by decide) hl)).trans (by omega))
  have hM : fN w 24 7 = 0x14 := hm
  rw [at_dec14 w hM]
  simp only [dec14, e1, e2, e3, e4, e5, e6, need, h]
  rfl

theorem shri (y : Bool) (gd : BitVec 4) (ga : BitVec 4) (la : Bool) (n : BitVec 6) : Statement (.shri y gd ga la n) := by
  have q_gd := gd.isLt
  have q_ga := ga.isLt
  have q_n := n.isLt
  have b_y := b1_lt y
  have b_la := b1_lt la
  have hlo : n.toNat < 32768 := by omega
  refine of_number _ (encI y 0x15 gd.toNat ga.toNat la n.toNat) rfl (lt_I y 0x15 gd.toNat ga.toNat la n.toNat (by decide) gd.isLt ga.isLt hlo) fun h => ?_
  have hm := maj_I y 0x15 gd.toNat ga.toNat la n.toNat (by decide) gd.isLt ga.isLt hlo
  have hy := y_I y 0x15 gd.toNat ga.toNat la n.toNat (by decide) gd.isLt ga.isLt hlo
  have hl := low_I y 0x15 gd.toNat ga.toNat la n.toNat hlo
  have a20 := at20_I y 0x15 gd.toNat ga.toNat la n.toNat gd.isLt ga.isLt hlo
  have a16 := at16_I y 0x15 gd.toNat ga.toNat la n.toNat ga.isLt hlo
  have a15 := at15_I y 0x15 gd.toNat ga.toNat la n.toNat hlo
  generalize encI y 0x15 gd.toNat ga.toNat la n.toNat = w at *
  have e1 : fN w 6 9 = 0 := ((field_low _ _ 6 9 15 (by decide) hl)).trans (by omega)
  have e2 : fB w 31 = y := fB_eq _ _ _ (hy)
  have e3 : fV w 20 4 = gd := fV_eq _ _ _ _ (a20)
  have e4 : fV w 16 4 = ga := fV_eq _ _ _ _ (a16)
  have e5 : fB w 15 = la := fB_eq _ _ _ (a15)
  have e6 : fV w 0 6 = n := fV_eq _ _ _ _ (((field_low _ _ 0 6 15 (by decide) hl)).trans (by omega))
  have hM : fN w 24 7 = 0x15 := hm
  rw [at_dec15 w hM]
  simp only [dec15, e1, e2, e3, e4, e5, e6, need, h]
  rfl

theorem sari (y : Bool) (gd : BitVec 4) (ga : BitVec 4) (la : Bool) (n : BitVec 6) : Statement (.sari y gd ga la n) := by
  have q_gd := gd.isLt
  have q_ga := ga.isLt
  have q_n := n.isLt
  have b_y := b1_lt y
  have b_la := b1_lt la
  have hlo : n.toNat < 32768 := by omega
  refine of_number _ (encI y 0x16 gd.toNat ga.toNat la n.toNat) rfl (lt_I y 0x16 gd.toNat ga.toNat la n.toNat (by decide) gd.isLt ga.isLt hlo) fun h => ?_
  have hm := maj_I y 0x16 gd.toNat ga.toNat la n.toNat (by decide) gd.isLt ga.isLt hlo
  have hy := y_I y 0x16 gd.toNat ga.toNat la n.toNat (by decide) gd.isLt ga.isLt hlo
  have hl := low_I y 0x16 gd.toNat ga.toNat la n.toNat hlo
  have a20 := at20_I y 0x16 gd.toNat ga.toNat la n.toNat gd.isLt ga.isLt hlo
  have a16 := at16_I y 0x16 gd.toNat ga.toNat la n.toNat ga.isLt hlo
  have a15 := at15_I y 0x16 gd.toNat ga.toNat la n.toNat hlo
  generalize encI y 0x16 gd.toNat ga.toNat la n.toNat = w at *
  have e1 : fN w 6 9 = 0 := ((field_low _ _ 6 9 15 (by decide) hl)).trans (by omega)
  have e2 : fB w 31 = y := fB_eq _ _ _ (hy)
  have e3 : fV w 20 4 = gd := fV_eq _ _ _ _ (a20)
  have e4 : fV w 16 4 = ga := fV_eq _ _ _ _ (a16)
  have e5 : fB w 15 = la := fB_eq _ _ _ (a15)
  have e6 : fV w 0 6 = n := fV_eq _ _ _ _ (((field_low _ _ 0 6 15 (by decide) hl)).trans (by omega))
  have hM : fN w 24 7 = 0x16 := hm
  rw [at_dec16 w hM]
  simp only [dec16, e1, e2, e3, e4, e5, e6, need, h]
  rfl

theorem rori (y : Bool) (gd : BitVec 4) (ga : BitVec 4) (la : Bool) (n : BitVec 6) : Statement (.rori y gd ga la n) := by
  have q_gd := gd.isLt
  have q_ga := ga.isLt
  have q_n := n.isLt
  have b_y := b1_lt y
  have b_la := b1_lt la
  have hlo : n.toNat < 32768 := by omega
  refine of_number _ (encI y 0x17 gd.toNat ga.toNat la n.toNat) rfl (lt_I y 0x17 gd.toNat ga.toNat la n.toNat (by decide) gd.isLt ga.isLt hlo) fun h => ?_
  have hm := maj_I y 0x17 gd.toNat ga.toNat la n.toNat (by decide) gd.isLt ga.isLt hlo
  have hy := y_I y 0x17 gd.toNat ga.toNat la n.toNat (by decide) gd.isLt ga.isLt hlo
  have hl := low_I y 0x17 gd.toNat ga.toNat la n.toNat hlo
  have a20 := at20_I y 0x17 gd.toNat ga.toNat la n.toNat gd.isLt ga.isLt hlo
  have a16 := at16_I y 0x17 gd.toNat ga.toNat la n.toNat ga.isLt hlo
  have a15 := at15_I y 0x17 gd.toNat ga.toNat la n.toNat hlo
  generalize encI y 0x17 gd.toNat ga.toNat la n.toNat = w at *
  have e1 : fN w 6 9 = 0 := ((field_low _ _ 6 9 15 (by decide) hl)).trans (by omega)
  have e2 : fB w 31 = y := fB_eq _ _ _ (hy)
  have e3 : fV w 20 4 = gd := fV_eq _ _ _ _ (a20)
  have e4 : fV w 16 4 = ga := fV_eq _ _ _ _ (a16)
  have e5 : fB w 15 = la := fB_eq _ _ _ (a15)
  have e6 : fV w 0 6 = n := fV_eq _ _ _ _ (((field_low _ _ 0 6 15 (by decide) hl)).trans (by omega))
  have hM : fN w 24 7 = 0x17 := hm
  rw [at_dec17 w hM]
  simp only [dec17, e1, e2, e3, e4, e5, e6, need, h]
  rfl

theorem cmpeqi (y : Bool) (gd : BitVec 4) (ga : BitVec 4) (la : Bool) (imm : BitVec 15) : Statement (.cmpeqi y gd ga la imm) := by
  have q_gd := gd.isLt
  have q_ga := ga.isLt
  have q_imm := imm.isLt
  have b_y := b1_lt y
  have b_la := b1_lt la
  refine of_number _ (encI y 0x18 gd.toNat ga.toNat la imm.toNat) rfl (lt_I y 0x18 gd.toNat ga.toNat la imm.toNat (by decide) gd.isLt ga.isLt imm.isLt) fun h => ?_
  have hm := maj_I y 0x18 gd.toNat ga.toNat la imm.toNat (by decide) gd.isLt ga.isLt imm.isLt
  have hy := y_I y 0x18 gd.toNat ga.toNat la imm.toNat (by decide) gd.isLt ga.isLt imm.isLt
  have hl := low_I y 0x18 gd.toNat ga.toNat la imm.toNat imm.isLt
  have a20 := at20_I y 0x18 gd.toNat ga.toNat la imm.toNat gd.isLt ga.isLt imm.isLt
  have a16 := at16_I y 0x18 gd.toNat ga.toNat la imm.toNat ga.isLt imm.isLt
  have a15 := at15_I y 0x18 gd.toNat ga.toNat la imm.toNat imm.isLt
  generalize encI y 0x18 gd.toNat ga.toNat la imm.toNat = w at *
  have e1 : fB w 31 = y := fB_eq _ _ _ (hy)
  have e2 : fV w 20 4 = gd := fV_eq _ _ _ _ (a20)
  have e3 : fV w 16 4 = ga := fV_eq _ _ _ _ (a16)
  have e4 : fB w 15 = la := fB_eq _ _ _ (a15)
  have e5 : fV w 0 15 = imm := fV_eq _ _ _ _ (((field_low _ _ 0 15 15 (by decide) hl)).trans (by omega))
  have hM : fN w 24 7 = 0x18 := hm
  rw [at_dec18 w hM]
  simp only [dec18, e1, e2, e3, e4, e5, need, h]
  rfl

theorem cmplti (y : Bool) (gd : BitVec 4) (ga : BitVec 4) (la : Bool) (imm : BitVec 15) : Statement (.cmplti y gd ga la imm) := by
  have q_gd := gd.isLt
  have q_ga := ga.isLt
  have q_imm := imm.isLt
  have b_y := b1_lt y
  have b_la := b1_lt la
  refine of_number _ (encI y 0x19 gd.toNat ga.toNat la imm.toNat) rfl (lt_I y 0x19 gd.toNat ga.toNat la imm.toNat (by decide) gd.isLt ga.isLt imm.isLt) fun h => ?_
  have hm := maj_I y 0x19 gd.toNat ga.toNat la imm.toNat (by decide) gd.isLt ga.isLt imm.isLt
  have hy := y_I y 0x19 gd.toNat ga.toNat la imm.toNat (by decide) gd.isLt ga.isLt imm.isLt
  have hl := low_I y 0x19 gd.toNat ga.toNat la imm.toNat imm.isLt
  have a20 := at20_I y 0x19 gd.toNat ga.toNat la imm.toNat gd.isLt ga.isLt imm.isLt
  have a16 := at16_I y 0x19 gd.toNat ga.toNat la imm.toNat ga.isLt imm.isLt
  have a15 := at15_I y 0x19 gd.toNat ga.toNat la imm.toNat imm.isLt
  generalize encI y 0x19 gd.toNat ga.toNat la imm.toNat = w at *
  have e1 : fB w 31 = y := fB_eq _ _ _ (hy)
  have e2 : fV w 20 4 = gd := fV_eq _ _ _ _ (a20)
  have e3 : fV w 16 4 = ga := fV_eq _ _ _ _ (a16)
  have e4 : fB w 15 = la := fB_eq _ _ _ (a15)
  have e5 : fV w 0 15 = imm := fV_eq _ _ _ _ (((field_low _ _ 0 15 15 (by decide) hl)).trans (by omega))
  have hM : fN w 24 7 = 0x19 := hm
  rw [at_dec19 w hM]
  simp only [dec19, e1, e2, e3, e4, e5, need, h]
  rfl

theorem cmpltiUns (y : Bool) (gd : BitVec 4) (ga : BitVec 4) (la : Bool) (imm : BitVec 15) : Statement (.cmpltiUns y gd ga la imm) := by
  have q_gd := gd.isLt
  have q_ga := ga.isLt
  have q_imm := imm.isLt
  have b_y := b1_lt y
  have b_la := b1_lt la
  refine of_number _ (encI y 0x1A gd.toNat ga.toNat la imm.toNat) rfl (lt_I y 0x1A gd.toNat ga.toNat la imm.toNat (by decide) gd.isLt ga.isLt imm.isLt) fun h => ?_
  have hm := maj_I y 0x1A gd.toNat ga.toNat la imm.toNat (by decide) gd.isLt ga.isLt imm.isLt
  have hy := y_I y 0x1A gd.toNat ga.toNat la imm.toNat (by decide) gd.isLt ga.isLt imm.isLt
  have hl := low_I y 0x1A gd.toNat ga.toNat la imm.toNat imm.isLt
  have a20 := at20_I y 0x1A gd.toNat ga.toNat la imm.toNat gd.isLt ga.isLt imm.isLt
  have a16 := at16_I y 0x1A gd.toNat ga.toNat la imm.toNat ga.isLt imm.isLt
  have a15 := at15_I y 0x1A gd.toNat ga.toNat la imm.toNat imm.isLt
  generalize encI y 0x1A gd.toNat ga.toNat la imm.toNat = w at *
  have e1 : fB w 31 = y := fB_eq _ _ _ (hy)
  have e2 : fV w 20 4 = gd := fV_eq _ _ _ _ (a20)
  have e3 : fV w 16 4 = ga := fV_eq _ _ _ _ (a16)
  have e4 : fB w 15 = la := fB_eq _ _ _ (a15)
  have e5 : fV w 0 15 = imm := fV_eq _ _ _ _ (((field_low _ _ 0 15 15 (by decide) hl)).trans (by omega))
  have hM : fN w 24 7 = 0x1A := hm
  rw [at_dec1A w hM]
  simp only [dec1A, e1, e2, e3, e4, e5, need, h]
  rfl

theorem extr (y : Bool) (gd : BitVec 4) (ga : BitVec 4) (la : Bool) (pos : BitVec 6) (len : BitVec 6) : Statement (.extr y gd ga la pos len) := by
  have q_gd := gd.isLt
  have q_ga := ga.isLt
  have q_pos := pos.isLt
  have q_len := len.isLt
  have b_y := b1_lt y
  have b_la := b1_lt la
  have hlo : (pos.toNat * 0x40 + len.toNat) < 32768 := by omega
  refine of_number _ (encI y 0x1B gd.toNat ga.toNat la (pos.toNat * 0x40 + len.toNat)) rfl (lt_I y 0x1B gd.toNat ga.toNat la (pos.toNat * 0x40 + len.toNat) (by decide) gd.isLt ga.isLt hlo) fun h => ?_
  have hm := maj_I y 0x1B gd.toNat ga.toNat la (pos.toNat * 0x40 + len.toNat) (by decide) gd.isLt ga.isLt hlo
  have hy := y_I y 0x1B gd.toNat ga.toNat la (pos.toNat * 0x40 + len.toNat) (by decide) gd.isLt ga.isLt hlo
  have hl := low_I y 0x1B gd.toNat ga.toNat la (pos.toNat * 0x40 + len.toNat) hlo
  have a20 := at20_I y 0x1B gd.toNat ga.toNat la (pos.toNat * 0x40 + len.toNat) gd.isLt ga.isLt hlo
  have a16 := at16_I y 0x1B gd.toNat ga.toNat la (pos.toNat * 0x40 + len.toNat) ga.isLt hlo
  have a15 := at15_I y 0x1B gd.toNat ga.toNat la (pos.toNat * 0x40 + len.toNat) hlo
  generalize encI y 0x1B gd.toNat ga.toNat la (pos.toNat * 0x40 + len.toNat) = w at *
  have e1 : fN w 12 3 = 0 := ((field_low _ _ 12 3 15 (by decide) hl)).trans (by omega)
  have e2 : fB w 31 = y := fB_eq _ _ _ (hy)
  have e3 : fV w 20 4 = gd := fV_eq _ _ _ _ (a20)
  have e4 : fV w 16 4 = ga := fV_eq _ _ _ _ (a16)
  have e5 : fB w 15 = la := fB_eq _ _ _ (a15)
  have e6 : fV w 6 6 = pos := fV_eq _ _ _ _ (((field_low _ _ 6 6 15 (by decide) hl)).trans (by omega))
  have e7 : fV w 0 6 = len := fV_eq _ _ _ _ (((field_low _ _ 0 6 15 (by decide) hl)).trans (by omega))
  have hM : fN w 24 7 = 0x1B := hm
  rw [at_dec1B w hM]
  simp only [dec1B, e1, e2, e3, e4, e5, e6, e7, need, h]
  rfl

theorem insr (y : Bool) (gd : BitVec 4) (ga : BitVec 4) (la : Bool) (pos : BitVec 6) (len : BitVec 6) : Statement (.insr y gd ga la pos len) := by
  have q_gd := gd.isLt
  have q_ga := ga.isLt
  have q_pos := pos.isLt
  have q_len := len.isLt
  have b_y := b1_lt y
  have b_la := b1_lt la
  have hlo : (pos.toNat * 0x40 + len.toNat) < 32768 := by omega
  refine of_number _ (encI y 0x1C gd.toNat ga.toNat la (pos.toNat * 0x40 + len.toNat)) rfl (lt_I y 0x1C gd.toNat ga.toNat la (pos.toNat * 0x40 + len.toNat) (by decide) gd.isLt ga.isLt hlo) fun h => ?_
  have hm := maj_I y 0x1C gd.toNat ga.toNat la (pos.toNat * 0x40 + len.toNat) (by decide) gd.isLt ga.isLt hlo
  have hy := y_I y 0x1C gd.toNat ga.toNat la (pos.toNat * 0x40 + len.toNat) (by decide) gd.isLt ga.isLt hlo
  have hl := low_I y 0x1C gd.toNat ga.toNat la (pos.toNat * 0x40 + len.toNat) hlo
  have a20 := at20_I y 0x1C gd.toNat ga.toNat la (pos.toNat * 0x40 + len.toNat) gd.isLt ga.isLt hlo
  have a16 := at16_I y 0x1C gd.toNat ga.toNat la (pos.toNat * 0x40 + len.toNat) ga.isLt hlo
  have a15 := at15_I y 0x1C gd.toNat ga.toNat la (pos.toNat * 0x40 + len.toNat) hlo
  generalize encI y 0x1C gd.toNat ga.toNat la (pos.toNat * 0x40 + len.toNat) = w at *
  have e1 : fN w 12 3 = 0 := ((field_low _ _ 12 3 15 (by decide) hl)).trans (by omega)
  have e2 : fB w 31 = y := fB_eq _ _ _ (hy)
  have e3 : fV w 20 4 = gd := fV_eq _ _ _ _ (a20)
  have e4 : fV w 16 4 = ga := fV_eq _ _ _ _ (a16)
  have e5 : fB w 15 = la := fB_eq _ _ _ (a15)
  have e6 : fV w 6 6 = pos := fV_eq _ _ _ _ (((field_low _ _ 6 6 15 (by decide) hl)).trans (by omega))
  have e7 : fV w 0 6 = len := fV_eq _ _ _ _ (((field_low _ _ 0 6 15 (by decide) hl)).trans (by omega))
  have hM : fN w 24 7 = 0x1C := hm
  rw [at_dec1C w hM]
  simp only [dec1C, e1, e2, e3, e4, e5, e6, e7, need, h]
  rfl

theorem lui (y : Bool) (gd : BitVec 4) (imm : BitVec 20) : Statement (.lui y gd imm) := by
  have q_gd := gd.isLt
  have q_imm := imm.isLt
  have b_y := b1_lt y
  refine of_number _ (encJ y 0x1D gd.toNat imm.toNat) rfl (lt_J y 0x1D gd.toNat imm.toNat (by decide) gd.isLt imm.isLt) fun h => ?_
  have hm := maj_J y 0x1D gd.toNat imm.toNat (by decide) gd.isLt imm.isLt
  have hy := y_J y 0x1D gd.toNat imm.toNat (by decide) gd.isLt imm.isLt
  have hl := low_J y 0x1D gd.toNat imm.toNat imm.isLt
  have a20 := at20_J y 0x1D gd.toNat imm.toNat gd.isLt imm.isLt
  generalize encJ y 0x1D gd.toNat imm.toNat = w at *
  have e1 : fB w 31 = y := fB_eq _ _ _ (hy)
  have e2 : fV w 20 4 = gd := fV_eq _ _ _ _ (a20)
  have e3 : fV w 0 20 = imm := fV_eq _ _ _ _ (((field_low _ _ 0 20 20 (by decide) hl)).trans (by omega))
  have hM : fN w 24 7 = 0x1D := hm
  rw [at_dec1D w hM]
  simp only [dec1D, e1, e2, e3, need, h]
  rfl

theorem fadd (y : Bool) (gd : BitVec 4) (ga : BitVec 4) (la : Bool) (gb : BitVec 4) (lb : Bool) (p : Bool) : Statement (.fadd y gd ga la gb lb p) := by
  have q_gd := gd.isLt
  have q_ga := ga.isLt
  have q_gb := gb.isLt
  have b_y := b1_lt y
  have b_la := b1_lt la
  have b_lb := b1_lt lb
  have b_p := b1_lt p
  have hlo : (b1 p * 0x10) < 1024 := by omega
  refine of_number _ (encR y 0x20 gd.toNat ga.toNat la gb.toNat lb (b1 p * 0x10)) rfl (lt_R y 0x20 gd.toNat ga.toNat la gb.toNat lb (b1 p * 0x10) (by decide) gd.isLt ga.isLt gb.isLt hlo) fun h => ?_
  have hm := maj_R y 0x20 gd.toNat ga.toNat la gb.toNat lb (b1 p * 0x10) (by decide) gd.isLt ga.isLt gb.isLt hlo
  have hy := y_R y 0x20 gd.toNat ga.toNat la gb.toNat lb (b1 p * 0x10) (by decide) gd.isLt ga.isLt gb.isLt hlo
  have hl := low_R y 0x20 gd.toNat ga.toNat la gb.toNat lb (b1 p * 0x10) hlo
  have a20 := at20_R y 0x20 gd.toNat ga.toNat la gb.toNat lb (b1 p * 0x10) gd.isLt ga.isLt gb.isLt hlo
  have a16 := at16_R y 0x20 gd.toNat ga.toNat la gb.toNat lb (b1 p * 0x10) ga.isLt gb.isLt hlo
  have a15 := at15_R y 0x20 gd.toNat ga.toNat la gb.toNat lb (b1 p * 0x10) gb.isLt hlo
  have a11 := at11_R y 0x20 gd.toNat ga.toNat la gb.toNat lb (b1 p * 0x10) gb.isLt hlo
  have a10 := at10_R y 0x20 gd.toNat ga.toNat la gb.toNat lb (b1 p * 0x10) hlo
  generalize encR y 0x20 gd.toNat ga.toNat la gb.toNat lb (b1 p * 0x10) = w at *
  have e1 : fN w 0 4 = 0x0 := ((field_low _ _ 0 4 10 (by decide) hl)).trans (by omega)
  have e2 : fN w 5 5 = 0 := ((field_low _ _ 5 5 10 (by decide) hl)).trans (by omega)
  have e3 : fB w 31 = y := fB_eq _ _ _ (hy)
  have e4 : fV w 20 4 = gd := fV_eq _ _ _ _ (a20)
  have e5 : fV w 16 4 = ga := fV_eq _ _ _ _ (a16)
  have e6 : fB w 15 = la := fB_eq _ _ _ (a15)
  have e7 : fV w 11 4 = gb := fV_eq _ _ _ _ (a11)
  have e8 : fB w 10 = lb := fB_eq _ _ _ (a10)
  have e9 : fB w 4 = p := fB_eq _ _ _ (((field_low _ _ 4 1 10 (by decide) hl)).trans (by omega))
  have hM : fN w 24 7 = 0x20 := hm
  rw [at_dec20 w hM]
  simp only [dec20, e1, e2, e3, e4, e5, e6, e7, e8, e9, need, h]
  rfl

theorem fsub (y : Bool) (gd : BitVec 4) (ga : BitVec 4) (la : Bool) (gb : BitVec 4) (lb : Bool) (p : Bool) : Statement (.fsub y gd ga la gb lb p) := by
  have q_gd := gd.isLt
  have q_ga := ga.isLt
  have q_gb := gb.isLt
  have b_y := b1_lt y
  have b_la := b1_lt la
  have b_lb := b1_lt lb
  have b_p := b1_lt p
  have hlo : (b1 p * 0x10 + 1) < 1024 := by omega
  refine of_number _ (encR y 0x20 gd.toNat ga.toNat la gb.toNat lb (b1 p * 0x10 + 1)) rfl (lt_R y 0x20 gd.toNat ga.toNat la gb.toNat lb (b1 p * 0x10 + 1) (by decide) gd.isLt ga.isLt gb.isLt hlo) fun h => ?_
  have hm := maj_R y 0x20 gd.toNat ga.toNat la gb.toNat lb (b1 p * 0x10 + 1) (by decide) gd.isLt ga.isLt gb.isLt hlo
  have hy := y_R y 0x20 gd.toNat ga.toNat la gb.toNat lb (b1 p * 0x10 + 1) (by decide) gd.isLt ga.isLt gb.isLt hlo
  have hl := low_R y 0x20 gd.toNat ga.toNat la gb.toNat lb (b1 p * 0x10 + 1) hlo
  have a20 := at20_R y 0x20 gd.toNat ga.toNat la gb.toNat lb (b1 p * 0x10 + 1) gd.isLt ga.isLt gb.isLt hlo
  have a16 := at16_R y 0x20 gd.toNat ga.toNat la gb.toNat lb (b1 p * 0x10 + 1) ga.isLt gb.isLt hlo
  have a15 := at15_R y 0x20 gd.toNat ga.toNat la gb.toNat lb (b1 p * 0x10 + 1) gb.isLt hlo
  have a11 := at11_R y 0x20 gd.toNat ga.toNat la gb.toNat lb (b1 p * 0x10 + 1) gb.isLt hlo
  have a10 := at10_R y 0x20 gd.toNat ga.toNat la gb.toNat lb (b1 p * 0x10 + 1) hlo
  generalize encR y 0x20 gd.toNat ga.toNat la gb.toNat lb (b1 p * 0x10 + 1) = w at *
  have e1 : fN w 0 4 = 0x1 := ((field_low _ _ 0 4 10 (by decide) hl)).trans (by omega)
  have e2 : fN w 5 5 = 0 := ((field_low _ _ 5 5 10 (by decide) hl)).trans (by omega)
  have e3 : fB w 31 = y := fB_eq _ _ _ (hy)
  have e4 : fV w 20 4 = gd := fV_eq _ _ _ _ (a20)
  have e5 : fV w 16 4 = ga := fV_eq _ _ _ _ (a16)
  have e6 : fB w 15 = la := fB_eq _ _ _ (a15)
  have e7 : fV w 11 4 = gb := fV_eq _ _ _ _ (a11)
  have e8 : fB w 10 = lb := fB_eq _ _ _ (a10)
  have e9 : fB w 4 = p := fB_eq _ _ _ (((field_low _ _ 4 1 10 (by decide) hl)).trans (by omega))
  have hM : fN w 24 7 = 0x20 := hm
  rw [at_dec20 w hM]
  simp only [dec20, e1, e2, e3, e4, e5, e6, e7, e8, e9, need, h]
  rfl

theorem fmul (y : Bool) (gd : BitVec 4) (ga : BitVec 4) (la : Bool) (gb : BitVec 4) (lb : Bool) (p : Bool) : Statement (.fmul y gd ga la gb lb p) := by
  have q_gd := gd.isLt
  have q_ga := ga.isLt
  have q_gb := gb.isLt
  have b_y := b1_lt y
  have b_la := b1_lt la
  have b_lb := b1_lt lb
  have b_p := b1_lt p
  have hlo : (b1 p * 0x10 + 2) < 1024 := by omega
  refine of_number _ (encR y 0x20 gd.toNat ga.toNat la gb.toNat lb (b1 p * 0x10 + 2)) rfl (lt_R y 0x20 gd.toNat ga.toNat la gb.toNat lb (b1 p * 0x10 + 2) (by decide) gd.isLt ga.isLt gb.isLt hlo) fun h => ?_
  have hm := maj_R y 0x20 gd.toNat ga.toNat la gb.toNat lb (b1 p * 0x10 + 2) (by decide) gd.isLt ga.isLt gb.isLt hlo
  have hy := y_R y 0x20 gd.toNat ga.toNat la gb.toNat lb (b1 p * 0x10 + 2) (by decide) gd.isLt ga.isLt gb.isLt hlo
  have hl := low_R y 0x20 gd.toNat ga.toNat la gb.toNat lb (b1 p * 0x10 + 2) hlo
  have a20 := at20_R y 0x20 gd.toNat ga.toNat la gb.toNat lb (b1 p * 0x10 + 2) gd.isLt ga.isLt gb.isLt hlo
  have a16 := at16_R y 0x20 gd.toNat ga.toNat la gb.toNat lb (b1 p * 0x10 + 2) ga.isLt gb.isLt hlo
  have a15 := at15_R y 0x20 gd.toNat ga.toNat la gb.toNat lb (b1 p * 0x10 + 2) gb.isLt hlo
  have a11 := at11_R y 0x20 gd.toNat ga.toNat la gb.toNat lb (b1 p * 0x10 + 2) gb.isLt hlo
  have a10 := at10_R y 0x20 gd.toNat ga.toNat la gb.toNat lb (b1 p * 0x10 + 2) hlo
  generalize encR y 0x20 gd.toNat ga.toNat la gb.toNat lb (b1 p * 0x10 + 2) = w at *
  have e1 : fN w 0 4 = 0x2 := ((field_low _ _ 0 4 10 (by decide) hl)).trans (by omega)
  have e2 : fN w 5 5 = 0 := ((field_low _ _ 5 5 10 (by decide) hl)).trans (by omega)
  have e3 : fB w 31 = y := fB_eq _ _ _ (hy)
  have e4 : fV w 20 4 = gd := fV_eq _ _ _ _ (a20)
  have e5 : fV w 16 4 = ga := fV_eq _ _ _ _ (a16)
  have e6 : fB w 15 = la := fB_eq _ _ _ (a15)
  have e7 : fV w 11 4 = gb := fV_eq _ _ _ _ (a11)
  have e8 : fB w 10 = lb := fB_eq _ _ _ (a10)
  have e9 : fB w 4 = p := fB_eq _ _ _ (((field_low _ _ 4 1 10 (by decide) hl)).trans (by omega))
  have hM : fN w 24 7 = 0x20 := hm
  rw [at_dec20 w hM]
  simp only [dec20, e1, e2, e3, e4, e5, e6, e7, e8, e9, need, h]
  rfl

theorem fdiv (y : Bool) (gd : BitVec 4) (ga : BitVec 4) (la : Bool) (gb : BitVec 4) (lb : Bool) (p : Bool) : Statement (.fdiv y gd ga la gb lb p) := by
  have q_gd := gd.isLt
  have q_ga := ga.isLt
  have q_gb := gb.isLt
  have b_y := b1_lt y
  have b_la := b1_lt la
  have b_lb := b1_lt lb
  have b_p := b1_lt p
  have hlo : (b1 p * 0x10 + 3) < 1024 := by omega
  refine of_number _ (encR y 0x20 gd.toNat ga.toNat la gb.toNat lb (b1 p * 0x10 + 3)) rfl (lt_R y 0x20 gd.toNat ga.toNat la gb.toNat lb (b1 p * 0x10 + 3) (by decide) gd.isLt ga.isLt gb.isLt hlo) fun h => ?_
  have hm := maj_R y 0x20 gd.toNat ga.toNat la gb.toNat lb (b1 p * 0x10 + 3) (by decide) gd.isLt ga.isLt gb.isLt hlo
  have hy := y_R y 0x20 gd.toNat ga.toNat la gb.toNat lb (b1 p * 0x10 + 3) (by decide) gd.isLt ga.isLt gb.isLt hlo
  have hl := low_R y 0x20 gd.toNat ga.toNat la gb.toNat lb (b1 p * 0x10 + 3) hlo
  have a20 := at20_R y 0x20 gd.toNat ga.toNat la gb.toNat lb (b1 p * 0x10 + 3) gd.isLt ga.isLt gb.isLt hlo
  have a16 := at16_R y 0x20 gd.toNat ga.toNat la gb.toNat lb (b1 p * 0x10 + 3) ga.isLt gb.isLt hlo
  have a15 := at15_R y 0x20 gd.toNat ga.toNat la gb.toNat lb (b1 p * 0x10 + 3) gb.isLt hlo
  have a11 := at11_R y 0x20 gd.toNat ga.toNat la gb.toNat lb (b1 p * 0x10 + 3) gb.isLt hlo
  have a10 := at10_R y 0x20 gd.toNat ga.toNat la gb.toNat lb (b1 p * 0x10 + 3) hlo
  generalize encR y 0x20 gd.toNat ga.toNat la gb.toNat lb (b1 p * 0x10 + 3) = w at *
  have e1 : fN w 0 4 = 0x3 := ((field_low _ _ 0 4 10 (by decide) hl)).trans (by omega)
  have e2 : fN w 5 5 = 0 := ((field_low _ _ 5 5 10 (by decide) hl)).trans (by omega)
  have e3 : fB w 31 = y := fB_eq _ _ _ (hy)
  have e4 : fV w 20 4 = gd := fV_eq _ _ _ _ (a20)
  have e5 : fV w 16 4 = ga := fV_eq _ _ _ _ (a16)
  have e6 : fB w 15 = la := fB_eq _ _ _ (a15)
  have e7 : fV w 11 4 = gb := fV_eq _ _ _ _ (a11)
  have e8 : fB w 10 = lb := fB_eq _ _ _ (a10)
  have e9 : fB w 4 = p := fB_eq _ _ _ (((field_low _ _ 4 1 10 (by decide) hl)).trans (by omega))
  have hM : fN w 24 7 = 0x20 := hm
  rw [at_dec20 w hM]
  simp only [dec20, e1, e2, e3, e4, e5, e6, e7, e8, e9, need, h]
  rfl

theorem fsqrt (y : Bool) (gd : BitVec 4) (ga : BitVec 4) (la : Bool) (p : Bool) : Statement (.fsqrt y gd ga la p) := by
  have q_gd := gd.isLt
  have q_ga := ga.isLt
  have b_y := b1_lt y
  have b_la := b1_lt la
  have b_p := b1_lt p
  have hlo : (b1 p * 0x10 + 4) < 1024 := by omega
  refine of_number _ (encR y 0x20 gd.toNat ga.toNat la 0 false (b1 p * 0x10 + 4)) rfl (lt_R y 0x20 gd.toNat ga.toNat la 0 false (b1 p * 0x10 + 4) (by decide) gd.isLt ga.isLt (by decide) hlo) fun h => ?_
  have hm := maj_R y 0x20 gd.toNat ga.toNat la 0 false (b1 p * 0x10 + 4) (by decide) gd.isLt ga.isLt (by decide) hlo
  have hy := y_R y 0x20 gd.toNat ga.toNat la 0 false (b1 p * 0x10 + 4) (by decide) gd.isLt ga.isLt (by decide) hlo
  have hl := low_R y 0x20 gd.toNat ga.toNat la 0 false (b1 p * 0x10 + 4) hlo
  have a11 := at11_R y 0x20 gd.toNat ga.toNat la 0 false (b1 p * 0x10 + 4) (by decide) hlo
  have a10 := at10_R y 0x20 gd.toNat ga.toNat la 0 false (b1 p * 0x10 + 4) hlo
  have a20 := at20_R y 0x20 gd.toNat ga.toNat la 0 false (b1 p * 0x10 + 4) gd.isLt ga.isLt (by decide) hlo
  have a16 := at16_R y 0x20 gd.toNat ga.toNat la 0 false (b1 p * 0x10 + 4) ga.isLt (by decide) hlo
  have a15 := at15_R y 0x20 gd.toNat ga.toNat la 0 false (b1 p * 0x10 + 4) (by decide) hlo
  generalize encR y 0x20 gd.toNat ga.toNat la 0 false (b1 p * 0x10 + 4) = w at *
  have e1 : fN w 0 4 = 0x4 := ((field_low _ _ 0 4 10 (by decide) hl)).trans (by omega)
  have e2 : fN w 11 4 = 0 := a11
  have e3 : fN w 10 1 = 0 := a10
  have e4 : fN w 5 5 = 0 := ((field_low _ _ 5 5 10 (by decide) hl)).trans (by omega)
  have e5 : fB w 31 = y := fB_eq _ _ _ (hy)
  have e6 : fV w 20 4 = gd := fV_eq _ _ _ _ (a20)
  have e7 : fV w 16 4 = ga := fV_eq _ _ _ _ (a16)
  have e8 : fB w 15 = la := fB_eq _ _ _ (a15)
  have e9 : fB w 4 = p := fB_eq _ _ _ (((field_low _ _ 4 1 10 (by decide) hl)).trans (by omega))
  have hM : fN w 24 7 = 0x20 := hm
  rw [at_dec20 w hM]
  simp only [dec20, e1, e2, e3, e4, e5, e6, e7, e8, e9, need, h]
  rfl

theorem fma (y : Bool) (gd : BitVec 4) (ga : BitVec 4) (la : Bool) (gb : BitVec 4) (lb : Bool) (p : Bool) : Statement (.fma y gd ga la gb lb p) := by
  have q_gd := gd.isLt
  have q_ga := ga.isLt
  have q_gb := gb.isLt
  have b_y := b1_lt y
  have b_la := b1_lt la
  have b_lb := b1_lt lb
  have b_p := b1_lt p
  have hlo : (b1 p * 0x10 + 5) < 1024 := by omega
  refine of_number _ (encR y 0x20 gd.toNat ga.toNat la gb.toNat lb (b1 p * 0x10 + 5)) rfl (lt_R y 0x20 gd.toNat ga.toNat la gb.toNat lb (b1 p * 0x10 + 5) (by decide) gd.isLt ga.isLt gb.isLt hlo) fun h => ?_
  have hm := maj_R y 0x20 gd.toNat ga.toNat la gb.toNat lb (b1 p * 0x10 + 5) (by decide) gd.isLt ga.isLt gb.isLt hlo
  have hy := y_R y 0x20 gd.toNat ga.toNat la gb.toNat lb (b1 p * 0x10 + 5) (by decide) gd.isLt ga.isLt gb.isLt hlo
  have hl := low_R y 0x20 gd.toNat ga.toNat la gb.toNat lb (b1 p * 0x10 + 5) hlo
  have a20 := at20_R y 0x20 gd.toNat ga.toNat la gb.toNat lb (b1 p * 0x10 + 5) gd.isLt ga.isLt gb.isLt hlo
  have a16 := at16_R y 0x20 gd.toNat ga.toNat la gb.toNat lb (b1 p * 0x10 + 5) ga.isLt gb.isLt hlo
  have a15 := at15_R y 0x20 gd.toNat ga.toNat la gb.toNat lb (b1 p * 0x10 + 5) gb.isLt hlo
  have a11 := at11_R y 0x20 gd.toNat ga.toNat la gb.toNat lb (b1 p * 0x10 + 5) gb.isLt hlo
  have a10 := at10_R y 0x20 gd.toNat ga.toNat la gb.toNat lb (b1 p * 0x10 + 5) hlo
  generalize encR y 0x20 gd.toNat ga.toNat la gb.toNat lb (b1 p * 0x10 + 5) = w at *
  have e1 : fN w 0 4 = 0x5 := ((field_low _ _ 0 4 10 (by decide) hl)).trans (by omega)
  have e2 : fN w 5 5 = 0 := ((field_low _ _ 5 5 10 (by decide) hl)).trans (by omega)
  have e3 : fB w 31 = y := fB_eq _ _ _ (hy)
  have e4 : fV w 20 4 = gd := fV_eq _ _ _ _ (a20)
  have e5 : fV w 16 4 = ga := fV_eq _ _ _ _ (a16)
  have e6 : fB w 15 = la := fB_eq _ _ _ (a15)
  have e7 : fV w 11 4 = gb := fV_eq _ _ _ _ (a11)
  have e8 : fB w 10 = lb := fB_eq _ _ _ (a10)
  have e9 : fB w 4 = p := fB_eq _ _ _ (((field_low _ _ 4 1 10 (by decide) hl)).trans (by omega))
  have hM : fN w 24 7 = 0x20 := hm
  rw [at_dec20 w hM]
  simp only [dec20, e1, e2, e3, e4, e5, e6, e7, e8, e9, need, h]
  rfl

theorem fmin (y : Bool) (gd : BitVec 4) (ga : BitVec 4) (la : Bool) (gb : BitVec 4) (lb : Bool) (p : Bool) : Statement (.fmin y gd ga la gb lb p) := by
  have q_gd := gd.isLt
  have q_ga := ga.isLt
  have q_gb := gb.isLt
  have b_y := b1_lt y
  have b_la := b1_lt la
  have b_lb := b1_lt lb
  have b_p := b1_lt p
  have hlo : (b1 p * 0x10 + 6) < 1024 := by omega
  refine of_number _ (encR y 0x20 gd.toNat ga.toNat la gb.toNat lb (b1 p * 0x10 + 6)) rfl (lt_R y 0x20 gd.toNat ga.toNat la gb.toNat lb (b1 p * 0x10 + 6) (by decide) gd.isLt ga.isLt gb.isLt hlo) fun h => ?_
  have hm := maj_R y 0x20 gd.toNat ga.toNat la gb.toNat lb (b1 p * 0x10 + 6) (by decide) gd.isLt ga.isLt gb.isLt hlo
  have hy := y_R y 0x20 gd.toNat ga.toNat la gb.toNat lb (b1 p * 0x10 + 6) (by decide) gd.isLt ga.isLt gb.isLt hlo
  have hl := low_R y 0x20 gd.toNat ga.toNat la gb.toNat lb (b1 p * 0x10 + 6) hlo
  have a20 := at20_R y 0x20 gd.toNat ga.toNat la gb.toNat lb (b1 p * 0x10 + 6) gd.isLt ga.isLt gb.isLt hlo
  have a16 := at16_R y 0x20 gd.toNat ga.toNat la gb.toNat lb (b1 p * 0x10 + 6) ga.isLt gb.isLt hlo
  have a15 := at15_R y 0x20 gd.toNat ga.toNat la gb.toNat lb (b1 p * 0x10 + 6) gb.isLt hlo
  have a11 := at11_R y 0x20 gd.toNat ga.toNat la gb.toNat lb (b1 p * 0x10 + 6) gb.isLt hlo
  have a10 := at10_R y 0x20 gd.toNat ga.toNat la gb.toNat lb (b1 p * 0x10 + 6) hlo
  generalize encR y 0x20 gd.toNat ga.toNat la gb.toNat lb (b1 p * 0x10 + 6) = w at *
  have e1 : fN w 0 4 = 0x6 := ((field_low _ _ 0 4 10 (by decide) hl)).trans (by omega)
  have e2 : fN w 5 5 = 0 := ((field_low _ _ 5 5 10 (by decide) hl)).trans (by omega)
  have e3 : fB w 31 = y := fB_eq _ _ _ (hy)
  have e4 : fV w 20 4 = gd := fV_eq _ _ _ _ (a20)
  have e5 : fV w 16 4 = ga := fV_eq _ _ _ _ (a16)
  have e6 : fB w 15 = la := fB_eq _ _ _ (a15)
  have e7 : fV w 11 4 = gb := fV_eq _ _ _ _ (a11)
  have e8 : fB w 10 = lb := fB_eq _ _ _ (a10)
  have e9 : fB w 4 = p := fB_eq _ _ _ (((field_low _ _ 4 1 10 (by decide) hl)).trans (by omega))
  have hM : fN w 24 7 = 0x20 := hm
  rw [at_dec20 w hM]
  simp only [dec20, e1, e2, e3, e4, e5, e6, e7, e8, e9, need, h]
  rfl

theorem fmax (y : Bool) (gd : BitVec 4) (ga : BitVec 4) (la : Bool) (gb : BitVec 4) (lb : Bool) (p : Bool) : Statement (.fmax y gd ga la gb lb p) := by
  have q_gd := gd.isLt
  have q_ga := ga.isLt
  have q_gb := gb.isLt
  have b_y := b1_lt y
  have b_la := b1_lt la
  have b_lb := b1_lt lb
  have b_p := b1_lt p
  have hlo : (b1 p * 0x10 + 7) < 1024 := by omega
  refine of_number _ (encR y 0x20 gd.toNat ga.toNat la gb.toNat lb (b1 p * 0x10 + 7)) rfl (lt_R y 0x20 gd.toNat ga.toNat la gb.toNat lb (b1 p * 0x10 + 7) (by decide) gd.isLt ga.isLt gb.isLt hlo) fun h => ?_
  have hm := maj_R y 0x20 gd.toNat ga.toNat la gb.toNat lb (b1 p * 0x10 + 7) (by decide) gd.isLt ga.isLt gb.isLt hlo
  have hy := y_R y 0x20 gd.toNat ga.toNat la gb.toNat lb (b1 p * 0x10 + 7) (by decide) gd.isLt ga.isLt gb.isLt hlo
  have hl := low_R y 0x20 gd.toNat ga.toNat la gb.toNat lb (b1 p * 0x10 + 7) hlo
  have a20 := at20_R y 0x20 gd.toNat ga.toNat la gb.toNat lb (b1 p * 0x10 + 7) gd.isLt ga.isLt gb.isLt hlo
  have a16 := at16_R y 0x20 gd.toNat ga.toNat la gb.toNat lb (b1 p * 0x10 + 7) ga.isLt gb.isLt hlo
  have a15 := at15_R y 0x20 gd.toNat ga.toNat la gb.toNat lb (b1 p * 0x10 + 7) gb.isLt hlo
  have a11 := at11_R y 0x20 gd.toNat ga.toNat la gb.toNat lb (b1 p * 0x10 + 7) gb.isLt hlo
  have a10 := at10_R y 0x20 gd.toNat ga.toNat la gb.toNat lb (b1 p * 0x10 + 7) hlo
  generalize encR y 0x20 gd.toNat ga.toNat la gb.toNat lb (b1 p * 0x10 + 7) = w at *
  have e1 : fN w 0 4 = 0x7 := ((field_low _ _ 0 4 10 (by decide) hl)).trans (by omega)
  have e2 : fN w 5 5 = 0 := ((field_low _ _ 5 5 10 (by decide) hl)).trans (by omega)
  have e3 : fB w 31 = y := fB_eq _ _ _ (hy)
  have e4 : fV w 20 4 = gd := fV_eq _ _ _ _ (a20)
  have e5 : fV w 16 4 = ga := fV_eq _ _ _ _ (a16)
  have e6 : fB w 15 = la := fB_eq _ _ _ (a15)
  have e7 : fV w 11 4 = gb := fV_eq _ _ _ _ (a11)
  have e8 : fB w 10 = lb := fB_eq _ _ _ (a10)
  have e9 : fB w 4 = p := fB_eq _ _ _ (((field_low _ _ 4 1 10 (by decide) hl)).trans (by omega))
  have hM : fN w 24 7 = 0x20 := hm
  rw [at_dec20 w hM]
  simp only [dec20, e1, e2, e3, e4, e5, e6, e7, e8, e9, need, h]
  rfl

theorem fcmpEq (y : Bool) (gd : BitVec 4) (ga : BitVec 4) (la : Bool) (gb : BitVec 4) (lb : Bool) (p : Bool) : Statement (.fcmpEq y gd ga la gb lb p) := by
  have q_gd := gd.isLt
  have q_ga := ga.isLt
  have q_gb := gb.isLt
  have b_y := b1_lt y
  have b_la := b1_lt la
  have b_lb := b1_lt lb
  have b_p := b1_lt p
  have hlo : (b1 p * 0x10 + 8) < 1024 := by omega
  refine of_number _ (encR y 0x20 gd.toNat ga.toNat la gb.toNat lb (b1 p * 0x10 + 8)) rfl (lt_R y 0x20 gd.toNat ga.toNat la gb.toNat lb (b1 p * 0x10 + 8) (by decide) gd.isLt ga.isLt gb.isLt hlo) fun h => ?_
  have hm := maj_R y 0x20 gd.toNat ga.toNat la gb.toNat lb (b1 p * 0x10 + 8) (by decide) gd.isLt ga.isLt gb.isLt hlo
  have hy := y_R y 0x20 gd.toNat ga.toNat la gb.toNat lb (b1 p * 0x10 + 8) (by decide) gd.isLt ga.isLt gb.isLt hlo
  have hl := low_R y 0x20 gd.toNat ga.toNat la gb.toNat lb (b1 p * 0x10 + 8) hlo
  have a20 := at20_R y 0x20 gd.toNat ga.toNat la gb.toNat lb (b1 p * 0x10 + 8) gd.isLt ga.isLt gb.isLt hlo
  have a16 := at16_R y 0x20 gd.toNat ga.toNat la gb.toNat lb (b1 p * 0x10 + 8) ga.isLt gb.isLt hlo
  have a15 := at15_R y 0x20 gd.toNat ga.toNat la gb.toNat lb (b1 p * 0x10 + 8) gb.isLt hlo
  have a11 := at11_R y 0x20 gd.toNat ga.toNat la gb.toNat lb (b1 p * 0x10 + 8) gb.isLt hlo
  have a10 := at10_R y 0x20 gd.toNat ga.toNat la gb.toNat lb (b1 p * 0x10 + 8) hlo
  generalize encR y 0x20 gd.toNat ga.toNat la gb.toNat lb (b1 p * 0x10 + 8) = w at *
  have e1 : fN w 0 4 = 0x8 := ((field_low _ _ 0 4 10 (by decide) hl)).trans (by omega)
  have e2 : fN w 5 5 = 0 := ((field_low _ _ 5 5 10 (by decide) hl)).trans (by omega)
  have e3 : fB w 31 = y := fB_eq _ _ _ (hy)
  have e4 : fV w 20 4 = gd := fV_eq _ _ _ _ (a20)
  have e5 : fV w 16 4 = ga := fV_eq _ _ _ _ (a16)
  have e6 : fB w 15 = la := fB_eq _ _ _ (a15)
  have e7 : fV w 11 4 = gb := fV_eq _ _ _ _ (a11)
  have e8 : fB w 10 = lb := fB_eq _ _ _ (a10)
  have e9 : fB w 4 = p := fB_eq _ _ _ (((field_low _ _ 4 1 10 (by decide) hl)).trans (by omega))
  have hM : fN w 24 7 = 0x20 := hm
  rw [at_dec20 w hM]
  simp only [dec20, e1, e2, e3, e4, e5, e6, e7, e8, e9, need, h]
  rfl

theorem fcmpLt (y : Bool) (gd : BitVec 4) (ga : BitVec 4) (la : Bool) (gb : BitVec 4) (lb : Bool) (p : Bool) : Statement (.fcmpLt y gd ga la gb lb p) := by
  have q_gd := gd.isLt
  have q_ga := ga.isLt
  have q_gb := gb.isLt
  have b_y := b1_lt y
  have b_la := b1_lt la
  have b_lb := b1_lt lb
  have b_p := b1_lt p
  have hlo : (b1 p * 0x10 + 9) < 1024 := by omega
  refine of_number _ (encR y 0x20 gd.toNat ga.toNat la gb.toNat lb (b1 p * 0x10 + 9)) rfl (lt_R y 0x20 gd.toNat ga.toNat la gb.toNat lb (b1 p * 0x10 + 9) (by decide) gd.isLt ga.isLt gb.isLt hlo) fun h => ?_
  have hm := maj_R y 0x20 gd.toNat ga.toNat la gb.toNat lb (b1 p * 0x10 + 9) (by decide) gd.isLt ga.isLt gb.isLt hlo
  have hy := y_R y 0x20 gd.toNat ga.toNat la gb.toNat lb (b1 p * 0x10 + 9) (by decide) gd.isLt ga.isLt gb.isLt hlo
  have hl := low_R y 0x20 gd.toNat ga.toNat la gb.toNat lb (b1 p * 0x10 + 9) hlo
  have a20 := at20_R y 0x20 gd.toNat ga.toNat la gb.toNat lb (b1 p * 0x10 + 9) gd.isLt ga.isLt gb.isLt hlo
  have a16 := at16_R y 0x20 gd.toNat ga.toNat la gb.toNat lb (b1 p * 0x10 + 9) ga.isLt gb.isLt hlo
  have a15 := at15_R y 0x20 gd.toNat ga.toNat la gb.toNat lb (b1 p * 0x10 + 9) gb.isLt hlo
  have a11 := at11_R y 0x20 gd.toNat ga.toNat la gb.toNat lb (b1 p * 0x10 + 9) gb.isLt hlo
  have a10 := at10_R y 0x20 gd.toNat ga.toNat la gb.toNat lb (b1 p * 0x10 + 9) hlo
  generalize encR y 0x20 gd.toNat ga.toNat la gb.toNat lb (b1 p * 0x10 + 9) = w at *
  have e1 : fN w 0 4 = 0x9 := ((field_low _ _ 0 4 10 (by decide) hl)).trans (by omega)
  have e2 : fN w 5 5 = 0 := ((field_low _ _ 5 5 10 (by decide) hl)).trans (by omega)
  have e3 : fB w 31 = y := fB_eq _ _ _ (hy)
  have e4 : fV w 20 4 = gd := fV_eq _ _ _ _ (a20)
  have e5 : fV w 16 4 = ga := fV_eq _ _ _ _ (a16)
  have e6 : fB w 15 = la := fB_eq _ _ _ (a15)
  have e7 : fV w 11 4 = gb := fV_eq _ _ _ _ (a11)
  have e8 : fB w 10 = lb := fB_eq _ _ _ (a10)
  have e9 : fB w 4 = p := fB_eq _ _ _ (((field_low _ _ 4 1 10 (by decide) hl)).trans (by omega))
  have hM : fN w 24 7 = 0x20 := hm
  rw [at_dec20 w hM]
  simp only [dec20, e1, e2, e3, e4, e5, e6, e7, e8, e9, need, h]
  rfl

theorem fcmpLe (y : Bool) (gd : BitVec 4) (ga : BitVec 4) (la : Bool) (gb : BitVec 4) (lb : Bool) (p : Bool) : Statement (.fcmpLe y gd ga la gb lb p) := by
  have q_gd := gd.isLt
  have q_ga := ga.isLt
  have q_gb := gb.isLt
  have b_y := b1_lt y
  have b_la := b1_lt la
  have b_lb := b1_lt lb
  have b_p := b1_lt p
  have hlo : (b1 p * 0x10 + 0xA) < 1024 := by omega
  refine of_number _ (encR y 0x20 gd.toNat ga.toNat la gb.toNat lb (b1 p * 0x10 + 0xA)) rfl (lt_R y 0x20 gd.toNat ga.toNat la gb.toNat lb (b1 p * 0x10 + 0xA) (by decide) gd.isLt ga.isLt gb.isLt hlo) fun h => ?_
  have hm := maj_R y 0x20 gd.toNat ga.toNat la gb.toNat lb (b1 p * 0x10 + 0xA) (by decide) gd.isLt ga.isLt gb.isLt hlo
  have hy := y_R y 0x20 gd.toNat ga.toNat la gb.toNat lb (b1 p * 0x10 + 0xA) (by decide) gd.isLt ga.isLt gb.isLt hlo
  have hl := low_R y 0x20 gd.toNat ga.toNat la gb.toNat lb (b1 p * 0x10 + 0xA) hlo
  have a20 := at20_R y 0x20 gd.toNat ga.toNat la gb.toNat lb (b1 p * 0x10 + 0xA) gd.isLt ga.isLt gb.isLt hlo
  have a16 := at16_R y 0x20 gd.toNat ga.toNat la gb.toNat lb (b1 p * 0x10 + 0xA) ga.isLt gb.isLt hlo
  have a15 := at15_R y 0x20 gd.toNat ga.toNat la gb.toNat lb (b1 p * 0x10 + 0xA) gb.isLt hlo
  have a11 := at11_R y 0x20 gd.toNat ga.toNat la gb.toNat lb (b1 p * 0x10 + 0xA) gb.isLt hlo
  have a10 := at10_R y 0x20 gd.toNat ga.toNat la gb.toNat lb (b1 p * 0x10 + 0xA) hlo
  generalize encR y 0x20 gd.toNat ga.toNat la gb.toNat lb (b1 p * 0x10 + 0xA) = w at *
  have e1 : fN w 0 4 = 0xA := ((field_low _ _ 0 4 10 (by decide) hl)).trans (by omega)
  have e2 : fN w 5 5 = 0 := ((field_low _ _ 5 5 10 (by decide) hl)).trans (by omega)
  have e3 : fB w 31 = y := fB_eq _ _ _ (hy)
  have e4 : fV w 20 4 = gd := fV_eq _ _ _ _ (a20)
  have e5 : fV w 16 4 = ga := fV_eq _ _ _ _ (a16)
  have e6 : fB w 15 = la := fB_eq _ _ _ (a15)
  have e7 : fV w 11 4 = gb := fV_eq _ _ _ _ (a11)
  have e8 : fB w 10 = lb := fB_eq _ _ _ (a10)
  have e9 : fB w 4 = p := fB_eq _ _ _ (((field_low _ _ 4 1 10 (by decide) hl)).trans (by omega))
  have hM : fN w 24 7 = 0x20 := hm
  rw [at_dec20 w hM]
  simp only [dec20, e1, e2, e3, e4, e5, e6, e7, e8, e9, need, h]
  rfl

theorem fcvt (y : Bool) (gd : BitVec 4) (ga : BitVec 4) (la : Bool) (p : Bool) : Statement (.fcvt y gd ga la p) := by
  have q_gd := gd.isLt
  have q_ga := ga.isLt
  have b_y := b1_lt y
  have b_la := b1_lt la
  have b_p := b1_lt p
  have hlo : (b1 p * 0x10 + 0xB) < 1024 := by omega
  refine of_number _ (encR y 0x20 gd.toNat ga.toNat la 0 false (b1 p * 0x10 + 0xB)) rfl (lt_R y 0x20 gd.toNat ga.toNat la 0 false (b1 p * 0x10 + 0xB) (by decide) gd.isLt ga.isLt (by decide) hlo) fun h => ?_
  have hm := maj_R y 0x20 gd.toNat ga.toNat la 0 false (b1 p * 0x10 + 0xB) (by decide) gd.isLt ga.isLt (by decide) hlo
  have hy := y_R y 0x20 gd.toNat ga.toNat la 0 false (b1 p * 0x10 + 0xB) (by decide) gd.isLt ga.isLt (by decide) hlo
  have hl := low_R y 0x20 gd.toNat ga.toNat la 0 false (b1 p * 0x10 + 0xB) hlo
  have a11 := at11_R y 0x20 gd.toNat ga.toNat la 0 false (b1 p * 0x10 + 0xB) (by decide) hlo
  have a10 := at10_R y 0x20 gd.toNat ga.toNat la 0 false (b1 p * 0x10 + 0xB) hlo
  have a20 := at20_R y 0x20 gd.toNat ga.toNat la 0 false (b1 p * 0x10 + 0xB) gd.isLt ga.isLt (by decide) hlo
  have a16 := at16_R y 0x20 gd.toNat ga.toNat la 0 false (b1 p * 0x10 + 0xB) ga.isLt (by decide) hlo
  have a15 := at15_R y 0x20 gd.toNat ga.toNat la 0 false (b1 p * 0x10 + 0xB) (by decide) hlo
  generalize encR y 0x20 gd.toNat ga.toNat la 0 false (b1 p * 0x10 + 0xB) = w at *
  have e1 : fN w 0 4 = 0xB := ((field_low _ _ 0 4 10 (by decide) hl)).trans (by omega)
  have e2 : fN w 11 4 = 0 := a11
  have e3 : fN w 10 1 = 0 := a10
  have e4 : fN w 5 5 = 0 := ((field_low _ _ 5 5 10 (by decide) hl)).trans (by omega)
  have e5 : fB w 31 = y := fB_eq _ _ _ (hy)
  have e6 : fV w 20 4 = gd := fV_eq _ _ _ _ (a20)
  have e7 : fV w 16 4 = ga := fV_eq _ _ _ _ (a16)
  have e8 : fB w 15 = la := fB_eq _ _ _ (a15)
  have e9 : fB w 4 = p := fB_eq _ _ _ (((field_low _ _ 4 1 10 (by decide) hl)).trans (by omega))
  have hM : fN w 24 7 = 0x20 := hm
  rw [at_dec20 w hM]
  simp only [dec20, e1, e2, e3, e4, e5, e6, e7, e8, e9, need, h]
  rfl

theorem fcvti (y : Bool) (gd : BitVec 4) (ga : BitVec 4) (la : Bool) (p : Bool) : Statement (.fcvti y gd ga la p) := by
  have q_gd := gd.isLt
  have q_ga := ga.isLt
  have b_y := b1_lt y
  have b_la := b1_lt la
  have b_p := b1_lt p
  have hlo : (b1 p * 0x10 + 0xC) < 1024 := by omega
  refine of_number _ (encR y 0x20 gd.toNat ga.toNat la 0 false (b1 p * 0x10 + 0xC)) rfl (lt_R y 0x20 gd.toNat ga.toNat la 0 false (b1 p * 0x10 + 0xC) (by decide) gd.isLt ga.isLt (by decide) hlo) fun h => ?_
  have hm := maj_R y 0x20 gd.toNat ga.toNat la 0 false (b1 p * 0x10 + 0xC) (by decide) gd.isLt ga.isLt (by decide) hlo
  have hy := y_R y 0x20 gd.toNat ga.toNat la 0 false (b1 p * 0x10 + 0xC) (by decide) gd.isLt ga.isLt (by decide) hlo
  have hl := low_R y 0x20 gd.toNat ga.toNat la 0 false (b1 p * 0x10 + 0xC) hlo
  have a11 := at11_R y 0x20 gd.toNat ga.toNat la 0 false (b1 p * 0x10 + 0xC) (by decide) hlo
  have a10 := at10_R y 0x20 gd.toNat ga.toNat la 0 false (b1 p * 0x10 + 0xC) hlo
  have a20 := at20_R y 0x20 gd.toNat ga.toNat la 0 false (b1 p * 0x10 + 0xC) gd.isLt ga.isLt (by decide) hlo
  have a16 := at16_R y 0x20 gd.toNat ga.toNat la 0 false (b1 p * 0x10 + 0xC) ga.isLt (by decide) hlo
  have a15 := at15_R y 0x20 gd.toNat ga.toNat la 0 false (b1 p * 0x10 + 0xC) (by decide) hlo
  generalize encR y 0x20 gd.toNat ga.toNat la 0 false (b1 p * 0x10 + 0xC) = w at *
  have e1 : fN w 0 4 = 0xC := ((field_low _ _ 0 4 10 (by decide) hl)).trans (by omega)
  have e2 : fN w 11 4 = 0 := a11
  have e3 : fN w 10 1 = 0 := a10
  have e4 : fN w 5 5 = 0 := ((field_low _ _ 5 5 10 (by decide) hl)).trans (by omega)
  have e5 : fB w 31 = y := fB_eq _ _ _ (hy)
  have e6 : fV w 20 4 = gd := fV_eq _ _ _ _ (a20)
  have e7 : fV w 16 4 = ga := fV_eq _ _ _ _ (a16)
  have e8 : fB w 15 = la := fB_eq _ _ _ (a15)
  have e9 : fB w 4 = p := fB_eq _ _ _ (((field_low _ _ 4 1 10 (by decide) hl)).trans (by omega))
  have hM : fN w 24 7 = 0x20 := hm
  rw [at_dec20 w hM]
  simp only [dec20, e1, e2, e3, e4, e5, e6, e7, e8, e9, need, h]
  rfl

theorem fcvtf (y : Bool) (gd : BitVec 4) (ga : BitVec 4) (la : Bool) (p : Bool) : Statement (.fcvtf y gd ga la p) := by
  have q_gd := gd.isLt
  have q_ga := ga.isLt
  have b_y := b1_lt y
  have b_la := b1_lt la
  have b_p := b1_lt p
  have hlo : (b1 p * 0x10 + 0xD) < 1024 := by omega
  refine of_number _ (encR y 0x20 gd.toNat ga.toNat la 0 false (b1 p * 0x10 + 0xD)) rfl (lt_R y 0x20 gd.toNat ga.toNat la 0 false (b1 p * 0x10 + 0xD) (by decide) gd.isLt ga.isLt (by decide) hlo) fun h => ?_
  have hm := maj_R y 0x20 gd.toNat ga.toNat la 0 false (b1 p * 0x10 + 0xD) (by decide) gd.isLt ga.isLt (by decide) hlo
  have hy := y_R y 0x20 gd.toNat ga.toNat la 0 false (b1 p * 0x10 + 0xD) (by decide) gd.isLt ga.isLt (by decide) hlo
  have hl := low_R y 0x20 gd.toNat ga.toNat la 0 false (b1 p * 0x10 + 0xD) hlo
  have a11 := at11_R y 0x20 gd.toNat ga.toNat la 0 false (b1 p * 0x10 + 0xD) (by decide) hlo
  have a10 := at10_R y 0x20 gd.toNat ga.toNat la 0 false (b1 p * 0x10 + 0xD) hlo
  have a20 := at20_R y 0x20 gd.toNat ga.toNat la 0 false (b1 p * 0x10 + 0xD) gd.isLt ga.isLt (by decide) hlo
  have a16 := at16_R y 0x20 gd.toNat ga.toNat la 0 false (b1 p * 0x10 + 0xD) ga.isLt (by decide) hlo
  have a15 := at15_R y 0x20 gd.toNat ga.toNat la 0 false (b1 p * 0x10 + 0xD) (by decide) hlo
  generalize encR y 0x20 gd.toNat ga.toNat la 0 false (b1 p * 0x10 + 0xD) = w at *
  have e1 : fN w 0 4 = 0xD := ((field_low _ _ 0 4 10 (by decide) hl)).trans (by omega)
  have e2 : fN w 11 4 = 0 := a11
  have e3 : fN w 10 1 = 0 := a10
  have e4 : fN w 5 5 = 0 := ((field_low _ _ 5 5 10 (by decide) hl)).trans (by omega)
  have e5 : fB w 31 = y := fB_eq _ _ _ (hy)
  have e6 : fV w 20 4 = gd := fV_eq _ _ _ _ (a20)
  have e7 : fV w 16 4 = ga := fV_eq _ _ _ _ (a16)
  have e8 : fB w 15 = la := fB_eq _ _ _ (a15)
  have e9 : fB w 4 = p := fB_eq _ _ _ (((field_low _ _ 4 1 10 (by decide) hl)).trans (by omega))
  have hM : fN w 24 7 = 0x20 := hm
  rw [at_dec20 w hM]
  simp only [dec20, e1, e2, e3, e4, e5, e6, e7, e8, e9, need, h]
  rfl

theorem beq (y : Bool) (ga : BitVec 4) (la : Bool) (gb : BitVec 4) (lb : Bool) (off : BitVec 14) : Statement (.beq y ga la gb lb off) := by
  have q_ga := ga.isLt
  have q_gb := gb.isLt
  have q_off := off.isLt
  have b_y := b1_lt y
  have b_la := b1_lt la
  have b_lb := b1_lt lb
  refine of_number _ (encB y 0x28 ga.toNat la gb.toNat lb off.toNat) rfl (lt_B y 0x28 ga.toNat la gb.toNat lb off.toNat (by decide) ga.isLt gb.isLt off.isLt) fun h => ?_
  have hm := maj_B y 0x28 ga.toNat la gb.toNat lb off.toNat (by decide) ga.isLt gb.isLt off.isLt
  have hy := y_B y 0x28 ga.toNat la gb.toNat lb off.toNat (by decide) ga.isLt gb.isLt off.isLt
  have hl := low_B y 0x28 ga.toNat la gb.toNat lb off.toNat off.isLt
  have a20 := at20_B y 0x28 ga.toNat la gb.toNat lb off.toNat ga.isLt gb.isLt off.isLt
  have a19 := at19_B y 0x28 ga.toNat la gb.toNat lb off.toNat gb.isLt off.isLt
  have a15 := at15_B y 0x28 ga.toNat la gb.toNat lb off.toNat gb.isLt off.isLt
  have a14 := at14_B y 0x28 ga.toNat la gb.toNat lb off.toNat off.isLt
  generalize encB y 0x28 ga.toNat la gb.toNat lb off.toNat = w at *
  have e1 : fB w 31 = y := fB_eq _ _ _ (hy)
  have e2 : fV w 20 4 = ga := fV_eq _ _ _ _ (a20)
  have e3 : fB w 19 = la := fB_eq _ _ _ (a19)
  have e4 : fV w 15 4 = gb := fV_eq _ _ _ _ (a15)
  have e5 : fB w 14 = lb := fB_eq _ _ _ (a14)
  have e6 : fV w 0 14 = off := fV_eq _ _ _ _ (((field_low _ _ 0 14 14 (by decide) hl)).trans (by omega))
  have hM : fN w 24 7 = 0x28 := hm
  rw [at_dec28 w hM]
  simp only [dec28, e1, e2, e3, e4, e5, e6, need, h]
  rfl

theorem bne (y : Bool) (ga : BitVec 4) (la : Bool) (gb : BitVec 4) (lb : Bool) (off : BitVec 14) : Statement (.bne y ga la gb lb off) := by
  have q_ga := ga.isLt
  have q_gb := gb.isLt
  have q_off := off.isLt
  have b_y := b1_lt y
  have b_la := b1_lt la
  have b_lb := b1_lt lb
  refine of_number _ (encB y 0x29 ga.toNat la gb.toNat lb off.toNat) rfl (lt_B y 0x29 ga.toNat la gb.toNat lb off.toNat (by decide) ga.isLt gb.isLt off.isLt) fun h => ?_
  have hm := maj_B y 0x29 ga.toNat la gb.toNat lb off.toNat (by decide) ga.isLt gb.isLt off.isLt
  have hy := y_B y 0x29 ga.toNat la gb.toNat lb off.toNat (by decide) ga.isLt gb.isLt off.isLt
  have hl := low_B y 0x29 ga.toNat la gb.toNat lb off.toNat off.isLt
  have a20 := at20_B y 0x29 ga.toNat la gb.toNat lb off.toNat ga.isLt gb.isLt off.isLt
  have a19 := at19_B y 0x29 ga.toNat la gb.toNat lb off.toNat gb.isLt off.isLt
  have a15 := at15_B y 0x29 ga.toNat la gb.toNat lb off.toNat gb.isLt off.isLt
  have a14 := at14_B y 0x29 ga.toNat la gb.toNat lb off.toNat off.isLt
  generalize encB y 0x29 ga.toNat la gb.toNat lb off.toNat = w at *
  have e1 : fB w 31 = y := fB_eq _ _ _ (hy)
  have e2 : fV w 20 4 = ga := fV_eq _ _ _ _ (a20)
  have e3 : fB w 19 = la := fB_eq _ _ _ (a19)
  have e4 : fV w 15 4 = gb := fV_eq _ _ _ _ (a15)
  have e5 : fB w 14 = lb := fB_eq _ _ _ (a14)
  have e6 : fV w 0 14 = off := fV_eq _ _ _ _ (((field_low _ _ 0 14 14 (by decide) hl)).trans (by omega))
  have hM : fN w 24 7 = 0x29 := hm
  rw [at_dec29 w hM]
  simp only [dec29, e1, e2, e3, e4, e5, e6, need, h]
  rfl

theorem blt (y : Bool) (ga : BitVec 4) (la : Bool) (gb : BitVec 4) (lb : Bool) (off : BitVec 14) : Statement (.blt y ga la gb lb off) := by
  have q_ga := ga.isLt
  have q_gb := gb.isLt
  have q_off := off.isLt
  have b_y := b1_lt y
  have b_la := b1_lt la
  have b_lb := b1_lt lb
  refine of_number _ (encB y 0x2A ga.toNat la gb.toNat lb off.toNat) rfl (lt_B y 0x2A ga.toNat la gb.toNat lb off.toNat (by decide) ga.isLt gb.isLt off.isLt) fun h => ?_
  have hm := maj_B y 0x2A ga.toNat la gb.toNat lb off.toNat (by decide) ga.isLt gb.isLt off.isLt
  have hy := y_B y 0x2A ga.toNat la gb.toNat lb off.toNat (by decide) ga.isLt gb.isLt off.isLt
  have hl := low_B y 0x2A ga.toNat la gb.toNat lb off.toNat off.isLt
  have a20 := at20_B y 0x2A ga.toNat la gb.toNat lb off.toNat ga.isLt gb.isLt off.isLt
  have a19 := at19_B y 0x2A ga.toNat la gb.toNat lb off.toNat gb.isLt off.isLt
  have a15 := at15_B y 0x2A ga.toNat la gb.toNat lb off.toNat gb.isLt off.isLt
  have a14 := at14_B y 0x2A ga.toNat la gb.toNat lb off.toNat off.isLt
  generalize encB y 0x2A ga.toNat la gb.toNat lb off.toNat = w at *
  have e1 : fB w 31 = y := fB_eq _ _ _ (hy)
  have e2 : fV w 20 4 = ga := fV_eq _ _ _ _ (a20)
  have e3 : fB w 19 = la := fB_eq _ _ _ (a19)
  have e4 : fV w 15 4 = gb := fV_eq _ _ _ _ (a15)
  have e5 : fB w 14 = lb := fB_eq _ _ _ (a14)
  have e6 : fV w 0 14 = off := fV_eq _ _ _ _ (((field_low _ _ 0 14 14 (by decide) hl)).trans (by omega))
  have hM : fN w 24 7 = 0x2A := hm
  rw [at_dec2A w hM]
  simp only [dec2A, e1, e2, e3, e4, e5, e6, need, h]
  rfl

theorem bge (y : Bool) (ga : BitVec 4) (la : Bool) (gb : BitVec 4) (lb : Bool) (off : BitVec 14) : Statement (.bge y ga la gb lb off) := by
  have q_ga := ga.isLt
  have q_gb := gb.isLt
  have q_off := off.isLt
  have b_y := b1_lt y
  have b_la := b1_lt la
  have b_lb := b1_lt lb
  refine of_number _ (encB y 0x2B ga.toNat la gb.toNat lb off.toNat) rfl (lt_B y 0x2B ga.toNat la gb.toNat lb off.toNat (by decide) ga.isLt gb.isLt off.isLt) fun h => ?_
  have hm := maj_B y 0x2B ga.toNat la gb.toNat lb off.toNat (by decide) ga.isLt gb.isLt off.isLt
  have hy := y_B y 0x2B ga.toNat la gb.toNat lb off.toNat (by decide) ga.isLt gb.isLt off.isLt
  have hl := low_B y 0x2B ga.toNat la gb.toNat lb off.toNat off.isLt
  have a20 := at20_B y 0x2B ga.toNat la gb.toNat lb off.toNat ga.isLt gb.isLt off.isLt
  have a19 := at19_B y 0x2B ga.toNat la gb.toNat lb off.toNat gb.isLt off.isLt
  have a15 := at15_B y 0x2B ga.toNat la gb.toNat lb off.toNat gb.isLt off.isLt
  have a14 := at14_B y 0x2B ga.toNat la gb.toNat lb off.toNat off.isLt
  generalize encB y 0x2B ga.toNat la gb.toNat lb off.toNat = w at *
  have e1 : fB w 31 = y := fB_eq _ _ _ (hy)
  have e2 : fV w 20 4 = ga := fV_eq _ _ _ _ (a20)
  have e3 : fB w 19 = la := fB_eq _ _ _ (a19)
  have e4 : fV w 15 4 = gb := fV_eq _ _ _ _ (a15)
  have e5 : fB w 14 = lb := fB_eq _ _ _ (a14)
  have e6 : fV w 0 14 = off := fV_eq _ _ _ _ (((field_low _ _ 0 14 14 (by decide) hl)).trans (by omega))
  have hM : fN w 24 7 = 0x2B := hm
  rw [at_dec2B w hM]
  simp only [dec2B, e1, e2, e3, e4, e5, e6, need, h]
  rfl

theorem loopReg (y : Bool) (ga : BitVec 4) (la : Bool) (dist : BitVec 14) : Statement (.loopReg y ga la dist) := by
  have q_ga := ga.isLt
  have q_dist := dist.isLt
  have b_y := b1_lt y
  have b_la := b1_lt la
  refine of_number _ (encB y 0x2C ga.toNat la 0 false dist.toNat) rfl (lt_B y 0x2C ga.toNat la 0 false dist.toNat (by decide) ga.isLt (by decide) dist.isLt) fun h => ?_
  have hm := maj_B y 0x2C ga.toNat la 0 false dist.toNat (by decide) ga.isLt (by decide) dist.isLt
  have hy := y_B y 0x2C ga.toNat la 0 false dist.toNat (by decide) ga.isLt (by decide) dist.isLt
  have hl := low_B y 0x2C ga.toNat la 0 false dist.toNat dist.isLt
  have a15 := at15_B y 0x2C ga.toNat la 0 false dist.toNat (by decide) dist.isLt
  have a14 := at14_B y 0x2C ga.toNat la 0 false dist.toNat dist.isLt
  have a20 := at20_B y 0x2C ga.toNat la 0 false dist.toNat ga.isLt (by decide) dist.isLt
  have a19 := at19_B y 0x2C ga.toNat la 0 false dist.toNat (by decide) dist.isLt
  generalize encB y 0x2C ga.toNat la 0 false dist.toNat = w at *
  have e1 : fN w 15 4 = 0 := a15
  have e2 : fN w 14 1 = 0 := a14
  have e3 : fB w 31 = y := fB_eq _ _ _ (hy)
  have e4 : fV w 20 4 = ga := fV_eq _ _ _ _ (a20)
  have e5 : fB w 19 = la := fB_eq _ _ _ (a19)
  have e6 : fV w 0 14 = dist := fV_eq _ _ _ _ (((field_low _ _ 0 14 14 (by decide) hl)).trans (by omega))
  have hM : fN w 24 7 = 0x2C := hm
  rw [at_dec2C w hM]
  simp only [dec2C, e1, e2, e3, e4, e5, e6, need, h]
  rfl

theorem loopImm (y : Bool) (count : BitVec 16) (dist : BitVec 8) : Statement (.loopImm y count dist) := by
  have q_count := count.isLt
  have q_dist := dist.isLt
  have b_y := b1_lt y
  have hlo : (count.toNat * 0x100 + dist.toNat) < 16777216 := by omega
  refine of_number _ (encP y 0x2D (count.toNat * 0x100 + dist.toNat)) rfl (lt_P y 0x2D (count.toNat * 0x100 + dist.toNat) (by decide) hlo) fun h => ?_
  have hm := maj_P y 0x2D (count.toNat * 0x100 + dist.toNat) (by decide) hlo
  have hy := y_P y 0x2D (count.toNat * 0x100 + dist.toNat) (by decide) hlo
  have hl := low_P y 0x2D (count.toNat * 0x100 + dist.toNat) hlo
  generalize encP y 0x2D (count.toNat * 0x100 + dist.toNat) = w at *
  have e1 : fB w 31 = y := fB_eq _ _ _ (hy)
  have e2 : fV w 8 16 = count := fV_eq _ _ _ _ (((field_low _ _ 8 16 24 (by decide) hl)).trans (by omega))
  have e3 : fV w 0 8 = dist := fV_eq _ _ _ _ (((field_low _ _ 0 8 24 (by decide) hl)).trans (by omega))
  have hM : fN w 24 7 = 0x2D := hm
  rw [at_dec2D w hM]
  simp only [dec2D, e1, e2, e3, need, h]
  rfl

theorem jal (y : Bool) (gd : BitVec 4) (imm : BitVec 20) : Statement (.jal y gd imm) := by
  have q_gd := gd.isLt
  have q_imm := imm.isLt
  have b_y := b1_lt y
  refine of_number _ (encJ y 0x2E gd.toNat imm.toNat) rfl (lt_J y 0x2E gd.toNat imm.toNat (by decide) gd.isLt imm.isLt) fun h => ?_
  have hm := maj_J y 0x2E gd.toNat imm.toNat (by decide) gd.isLt imm.isLt
  have hy := y_J y 0x2E gd.toNat imm.toNat (by decide) gd.isLt imm.isLt
  have hl := low_J y 0x2E gd.toNat imm.toNat imm.isLt
  have a20 := at20_J y 0x2E gd.toNat imm.toNat gd.isLt imm.isLt
  generalize encJ y 0x2E gd.toNat imm.toNat = w at *
  have e1 : fB w 31 = y := fB_eq _ _ _ (hy)
  have e2 : fV w 20 4 = gd := fV_eq _ _ _ _ (a20)
  have e3 : fV w 0 20 = imm := fV_eq _ _ _ _ (((field_low _ _ 0 20 20 (by decide) hl)).trans (by omega))
  have hM : fN w 24 7 = 0x2E := hm
  rw [at_dec2E w hM]
  simp only [dec2E, e1, e2, e3, need, h]
  rfl

theorem jr (y : Bool) (gd : BitVec 4) (ga : BitVec 4) (la : Bool) : Statement (.jr y gd ga la) := by
  have q_gd := gd.isLt
  have q_ga := ga.isLt
  have b_y := b1_lt y
  have b_la := b1_lt la
  refine of_number _ (encR y 0x2F gd.toNat ga.toNat la 0 false 0) rfl (lt_R y 0x2F gd.toNat ga.toNat la 0 false 0 (by decide) gd.isLt ga.isLt (by decide) (by decide)) fun h => ?_
  have hm := maj_R y 0x2F gd.toNat ga.toNat la 0 false 0 (by decide) gd.isLt ga.isLt (by decide) (by decide)
  have hy := y_R y 0x2F gd.toNat ga.toNat la 0 false 0 (by decide) gd.isLt ga.isLt (by decide) (by decide)
  have hl := low_R y 0x2F gd.toNat ga.toNat la 0 false 0 (by decide)
  have a11 := at11_R y 0x2F gd.toNat ga.toNat la 0 false 0 (by decide) (by decide)
  have a10 := at10_R y 0x2F gd.toNat ga.toNat la 0 false 0 (by decide)
  have a20 := at20_R y 0x2F gd.toNat ga.toNat la 0 false 0 gd.isLt ga.isLt (by decide) (by decide)
  have a16 := at16_R y 0x2F gd.toNat ga.toNat la 0 false 0 ga.isLt (by decide) (by decide)
  have a15 := at15_R y 0x2F gd.toNat ga.toNat la 0 false 0 (by decide) (by decide)
  generalize encR y 0x2F gd.toNat ga.toNat la 0 false 0 = w at *
  have e1 : fN w 0 4 = 0x0 := ((field_low _ _ 0 4 10 (by decide) hl)).trans (by omega)
  have e2 : fN w 11 4 = 0 := a11
  have e3 : fN w 10 1 = 0 := a10
  have e4 : fN w 4 6 = 0 := ((field_low _ _ 4 6 10 (by decide) hl)).trans (by omega)
  have e5 : fB w 31 = y := fB_eq _ _ _ (hy)
  have e6 : fV w 20 4 = gd := fV_eq _ _ _ _ (a20)
  have e7 : fV w 16 4 = ga := fV_eq _ _ _ _ (a16)
  have e8 : fB w 15 = la := fB_eq _ _ _ (a15)
  have hM : fN w 24 7 = 0x2F := hm
  rw [at_dec2F w hM]
  simp only [dec2F, e1, e2, e3, e4, e5, e6, e7, e8, need, h]
  rfl

theorem endloop (y : Bool) : Statement (.endloop y) := by
  have b_y := b1_lt y
  refine of_number _ (encR y 0x2F 0 0 false 0 false 1) rfl (lt_R y 0x2F 0 0 false 0 false 1 (by decide) (by decide) (by decide) (by decide) (by decide)) fun h => ?_
  have hm := maj_R y 0x2F 0 0 false 0 false 1 (by decide) (by decide) (by decide) (by decide) (by decide)
  have hy := y_R y 0x2F 0 0 false 0 false 1 (by decide) (by decide) (by decide) (by decide) (by decide)
  have hl := low_R y 0x2F 0 0 false 0 false 1 (by decide)
  have a20 := at20_R y 0x2F 0 0 false 0 false 1 (by decide) (by decide) (by decide) (by decide)
  have a16 := at16_R y 0x2F 0 0 false 0 false 1 (by decide) (by decide) (by decide)
  have a15 := at15_R y 0x2F 0 0 false 0 false 1 (by decide) (by decide)
  have a11 := at11_R y 0x2F 0 0 false 0 false 1 (by decide) (by decide)
  have a10 := at10_R y 0x2F 0 0 false 0 false 1 (by decide)
  generalize encR y 0x2F 0 0 false 0 false 1 = w at *
  have e1 : fN w 0 4 = 0x1 := ((field_low _ _ 0 4 10 (by decide) hl)).trans (by omega)
  have e2 : fN w 20 4 = 0 := a20
  have e3 : fN w 16 4 = 0 := a16
  have e4 : fN w 15 1 = 0 := a15
  have e5 : fN w 11 4 = 0 := a11
  have e6 : fN w 10 1 = 0 := a10
  have e7 : fN w 4 6 = 0 := ((field_low _ _ 4 6 10 (by decide) hl)).trans (by omega)
  have e8 : fB w 31 = y := fB_eq _ _ _ (hy)
  have hM : fN w 24 7 = 0x2F := hm
  rw [at_dec2F w hM]
  simp only [dec2F, e1, e2, e3, e4, e5, e6, e7, e8, need, h]
  rfl

theorem callat (y : Bool) (ga : BitVec 4) (la : Bool) (gb : BitVec 4) (lb : Bool) : Statement (.callat y ga la gb lb) := by
  have q_ga := ga.isLt
  have q_gb := gb.isLt
  have b_y := b1_lt y
  have b_la := b1_lt la
  have b_lb := b1_lt lb
  refine of_number _ (encR y 0x2F 0 ga.toNat la gb.toNat lb 2) rfl (lt_R y 0x2F 0 ga.toNat la gb.toNat lb 2 (by decide) (by decide) ga.isLt gb.isLt (by decide)) fun h => ?_
  have hm := maj_R y 0x2F 0 ga.toNat la gb.toNat lb 2 (by decide) (by decide) ga.isLt gb.isLt (by decide)
  have hy := y_R y 0x2F 0 ga.toNat la gb.toNat lb 2 (by decide) (by decide) ga.isLt gb.isLt (by decide)
  have hl := low_R y 0x2F 0 ga.toNat la gb.toNat lb 2 (by decide)
  have a20 := at20_R y 0x2F 0 ga.toNat la gb.toNat lb 2 (by decide) ga.isLt gb.isLt (by decide)
  have a16 := at16_R y 0x2F 0 ga.toNat la gb.toNat lb 2 ga.isLt gb.isLt (by decide)
  have a15 := at15_R y 0x2F 0 ga.toNat la gb.toNat lb 2 gb.isLt (by decide)
  have a11 := at11_R y 0x2F 0 ga.toNat la gb.toNat lb 2 gb.isLt (by decide)
  have a10 := at10_R y 0x2F 0 ga.toNat la gb.toNat lb 2 (by decide)
  generalize encR y 0x2F 0 ga.toNat la gb.toNat lb 2 = w at *
  have e1 : fN w 0 4 = 0x2 := ((field_low _ _ 0 4 10 (by decide) hl)).trans (by omega)
  have e2 : fN w 20 4 = 0 := a20
  have e3 : fN w 4 6 = 0 := ((field_low _ _ 4 6 10 (by decide) hl)).trans (by omega)
  have e4 : fB w 31 = y := fB_eq _ _ _ (hy)
  have e5 : fV w 16 4 = ga := fV_eq _ _ _ _ (a16)
  have e6 : fB w 15 = la := fB_eq _ _ _ (a15)
  have e7 : fV w 11 4 = gb := fV_eq _ _ _ _ (a11)
  have e8 : fB w 10 = lb := fB_eq _ _ _ (a10)
  have hM : fN w 24 7 = 0x2F := hm
  rw [at_dec2F w hM]
  simp only [dec2F, e1, e2, e3, e4, e5, e6, e7, e8, need, h]
  rfl

theorem exit (y : Bool) : Statement (.exit y) := by
  have b_y := b1_lt y
  refine of_number _ (encR y 0x2F 0 0 false 0 false 3) rfl (lt_R y 0x2F 0 0 false 0 false 3 (by decide) (by decide) (by decide) (by decide) (by decide)) fun h => ?_
  have hm := maj_R y 0x2F 0 0 false 0 false 3 (by decide) (by decide) (by decide) (by decide) (by decide)
  have hy := y_R y 0x2F 0 0 false 0 false 3 (by decide) (by decide) (by decide) (by decide) (by decide)
  have hl := low_R y 0x2F 0 0 false 0 false 3 (by decide)
  have a20 := at20_R y 0x2F 0 0 false 0 false 3 (by decide) (by decide) (by decide) (by decide)
  have a16 := at16_R y 0x2F 0 0 false 0 false 3 (by decide) (by decide) (by decide)
  have a15 := at15_R y 0x2F 0 0 false 0 false 3 (by decide) (by decide)
  have a11 := at11_R y 0x2F 0 0 false 0 false 3 (by decide) (by decide)
  have a10 := at10_R y 0x2F 0 0 false 0 false 3 (by decide)
  generalize encR y 0x2F 0 0 false 0 false 3 = w at *
  have e1 : fN w 0 4 = 0x3 := ((field_low _ _ 0 4 10 (by decide) hl)).trans (by omega)
  have e2 : fN w 20 4 = 0 := a20
  have e3 : fN w 16 4 = 0 := a16
  have e4 : fN w 15 1 = 0 := a15
  have e5 : fN w 11 4 = 0 := a11
  have e6 : fN w 10 1 = 0 := a10
  have e7 : fN w 4 6 = 0 := ((field_low _ _ 4 6 10 (by decide) hl)).trans (by omega)
  have e8 : fB w 31 = y := fB_eq _ _ _ (hy)
  have hM : fN w 24 7 = 0x2F := hm
  rw [at_dec2F w hM]
  simp only [dec2F, e1, e2, e3, e4, e5, e6, e7, e8, need, h]
  rfl

theorem trig (y : Bool) : Statement (.trig y) := by
  have b_y := b1_lt y
  refine of_number _ (encR y 0x2F 0 0 false 0 false 4) rfl (lt_R y 0x2F 0 0 false 0 false 4 (by decide) (by decide) (by decide) (by decide) (by decide)) fun h => ?_
  have hm := maj_R y 0x2F 0 0 false 0 false 4 (by decide) (by decide) (by decide) (by decide) (by decide)
  have hy := y_R y 0x2F 0 0 false 0 false 4 (by decide) (by decide) (by decide) (by decide) (by decide)
  have hl := low_R y 0x2F 0 0 false 0 false 4 (by decide)
  have a20 := at20_R y 0x2F 0 0 false 0 false 4 (by decide) (by decide) (by decide) (by decide)
  have a16 := at16_R y 0x2F 0 0 false 0 false 4 (by decide) (by decide) (by decide)
  have a15 := at15_R y 0x2F 0 0 false 0 false 4 (by decide) (by decide)
  have a11 := at11_R y 0x2F 0 0 false 0 false 4 (by decide) (by decide)
  have a10 := at10_R y 0x2F 0 0 false 0 false 4 (by decide)
  generalize encR y 0x2F 0 0 false 0 false 4 = w at *
  have e1 : fN w 0 4 = 0x4 := ((field_low _ _ 0 4 10 (by decide) hl)).trans (by omega)
  have e2 : fN w 20 4 = 0 := a20
  have e3 : fN w 16 4 = 0 := a16
  have e4 : fN w 15 1 = 0 := a15
  have e5 : fN w 11 4 = 0 := a11
  have e6 : fN w 10 1 = 0 := a10
  have e7 : fN w 4 6 = 0 := ((field_low _ _ 4 6 10 (by decide) hl)).trans (by omega)
  have e8 : fB w 31 = y := fB_eq _ _ _ (hy)
  have hM : fN w 24 7 = 0x2F := hm
  rw [at_dec2F w hM]
  simp only [dec2F, e1, e2, e3, e4, e5, e6, e7, e8, need, h]
  rfl

theorem yield (y : Bool) : Statement (.yield y) := by
  have b_y := b1_lt y
  refine of_number _ (encR y 0x2F 0 0 false 0 false 5) rfl (lt_R y 0x2F 0 0 false 0 false 5 (by decide) (by decide) (by decide) (by decide) (by decide)) fun h => ?_
  have hm := maj_R y 0x2F 0 0 false 0 false 5 (by decide) (by decide) (by decide) (by decide) (by decide)
  have hy := y_R y 0x2F 0 0 false 0 false 5 (by decide) (by decide) (by decide) (by decide) (by decide)
  have hl := low_R y 0x2F 0 0 false 0 false 5 (by decide)
  have a20 := at20_R y 0x2F 0 0 false 0 false 5 (by decide) (by decide) (by decide) (by decide)
  have a16 := at16_R y 0x2F 0 0 false 0 false 5 (by decide) (by decide) (by decide)
  have a15 := at15_R y 0x2F 0 0 false 0 false 5 (by decide) (by decide)
  have a11 := at11_R y 0x2F 0 0 false 0 false 5 (by decide) (by decide)
  have a10 := at10_R y 0x2F 0 0 false 0 false 5 (by decide)
  generalize encR y 0x2F 0 0 false 0 false 5 = w at *
  have e1 : fN w 0 4 = 0x5 := ((field_low _ _ 0 4 10 (by decide) hl)).trans (by omega)
  have e2 : fN w 20 4 = 0 := a20
  have e3 : fN w 16 4 = 0 := a16
  have e4 : fN w 15 1 = 0 := a15
  have e5 : fN w 11 4 = 0 := a11
  have e6 : fN w 10 1 = 0 := a10
  have e7 : fN w 4 6 = 0 := ((field_low _ _ 4 6 10 (by decide) hl)).trans (by omega)
  have e8 : fB w 31 = y := fB_eq _ _ _ (hy)
  have hM : fN w 24 7 = 0x2F := hm
  rw [at_dec2F w hM]
  simp only [dec2F, e1, e2, e3, e4, e5, e6, e7, e8, need, h]
  rfl

theorem align (y : Bool) (n : BitVec 6) : Statement (.align y n) := by
  have q_n := n.isLt
  have b_y := b1_lt y
  have hlo : (n.toNat * 0x10 + 6) < 1024 := by omega
  refine of_number _ (encR y 0x2F 0 0 false 0 false (n.toNat * 0x10 + 6)) rfl (lt_R y 0x2F 0 0 false 0 false (n.toNat * 0x10 + 6) (by decide) (by decide) (by decide) (by decide) hlo) fun h => ?_
  have hm := maj_R y 0x2F 0 0 false 0 false (n.toNat * 0x10 + 6) (by decide) (by decide) (by decide) (by decide) hlo
  have hy := y_R y 0x2F 0 0 false 0 false (n.toNat * 0x10 + 6) (by decide) (by decide) (by decide) (by decide) hlo
  have hl := low_R y 0x2F 0 0 false 0 false (n.toNat * 0x10 + 6) hlo
  have a20 := at20_R y 0x2F 0 0 false 0 false (n.toNat * 0x10 + 6) (by decide) (by decide) (by decide) hlo
  have a16 := at16_R y 0x2F 0 0 false 0 false (n.toNat * 0x10 + 6) (by decide) (by decide) hlo
  have a15 := at15_R y 0x2F 0 0 false 0 false (n.toNat * 0x10 + 6) (by decide) hlo
  have a11 := at11_R y 0x2F 0 0 false 0 false (n.toNat * 0x10 + 6) (by decide) hlo
  have a10 := at10_R y 0x2F 0 0 false 0 false (n.toNat * 0x10 + 6) hlo
  generalize encR y 0x2F 0 0 false 0 false (n.toNat * 0x10 + 6) = w at *
  have e1 : fN w 0 4 = 0x6 := ((field_low _ _ 0 4 10 (by decide) hl)).trans (by omega)
  have e2 : fN w 20 4 = 0 := a20
  have e3 : fN w 16 4 = 0 := a16
  have e4 : fN w 15 1 = 0 := a15
  have e5 : fN w 11 4 = 0 := a11
  have e6 : fN w 10 1 = 0 := a10
  have e7 : fB w 31 = y := fB_eq _ _ _ (hy)
  have e8 : fV w 4 6 = n := fV_eq _ _ _ _ (((field_low _ _ 4 6 10 (by decide) hl)).trans (by omega))
  have hM : fN w 24 7 = 0x2F := hm
  rw [at_dec2F w hM]
  simp only [dec2F, e1, e2, e3, e4, e5, e6, e7, e8, need, h]
  rfl

theorem migr (y : Bool) (gd : BitVec 4) (ga : BitVec 4) (la : Bool) : Statement (.migr y gd ga la) := by
  have q_gd := gd.isLt
  have q_ga := ga.isLt
  have b_y := b1_lt y
  have b_la := b1_lt la
  refine of_number _ (encR y 0x2F gd.toNat ga.toNat la 0 false 7) rfl (lt_R y 0x2F gd.toNat ga.toNat la 0 false 7 (by decide) gd.isLt ga.isLt (by decide) (by decide)) fun h => ?_
  have hm := maj_R y 0x2F gd.toNat ga.toNat la 0 false 7 (by decide) gd.isLt ga.isLt (by decide) (by decide)
  have hy := y_R y 0x2F gd.toNat ga.toNat la 0 false 7 (by decide) gd.isLt ga.isLt (by decide) (by decide)
  have hl := low_R y 0x2F gd.toNat ga.toNat la 0 false 7 (by decide)
  have a11 := at11_R y 0x2F gd.toNat ga.toNat la 0 false 7 (by decide) (by decide)
  have a10 := at10_R y 0x2F gd.toNat ga.toNat la 0 false 7 (by decide)
  have a20 := at20_R y 0x2F gd.toNat ga.toNat la 0 false 7 gd.isLt ga.isLt (by decide) (by decide)
  have a16 := at16_R y 0x2F gd.toNat ga.toNat la 0 false 7 ga.isLt (by decide) (by decide)
  have a15 := at15_R y 0x2F gd.toNat ga.toNat la 0 false 7 (by decide) (by decide)
  generalize encR y 0x2F gd.toNat ga.toNat la 0 false 7 = w at *
  have e1 : fN w 0 4 = 0x7 := ((field_low _ _ 0 4 10 (by decide) hl)).trans (by omega)
  have e2 : fN w 11 4 = 0 := a11
  have e3 : fN w 10 1 = 0 := a10
  have e4 : fN w 4 6 = 0 := ((field_low _ _ 4 6 10 (by decide) hl)).trans (by omega)
  have e5 : fB w 31 = y := fB_eq _ _ _ (hy)
  have e6 : fV w 20 4 = gd := fV_eq _ _ _ _ (a20)
  have e7 : fV w 16 4 = ga := fV_eq _ _ _ _ (a16)
  have e8 : fB w 15 = la := fB_eq _ _ _ (a15)
  have hM : fN w 24 7 = 0x2F := hm
  rw [at_dec2F w hM]
  simp only [dec2F, e1, e2, e3, e4, e5, e6, e7, e8, need, h]
  rfl

theorem ldb (y : Bool) (gd : BitVec 4) (ga : BitVec 4) (la : Bool) (pol : BitVec 2) (ord : BitVec 2) (scope : BitVec 4) (off : BitVec 7) : Statement (.ldb y gd ga la pol ord scope off) := by
  have q_gd := gd.isLt
  have q_ga := ga.isLt
  have q_pol := pol.isLt
  have q_ord := ord.isLt
  have q_scope := scope.isLt
  have q_off := off.isLt
  have b_y := b1_lt y
  have b_la := b1_lt la
  have hlo : (pol.toNat * 0x2000 + ord.toNat * 0x800 + scope.toNat * 0x80 + off.toNat) < 32768 := by omega
  refine of_number _ (encI y 0x30 gd.toNat ga.toNat la (pol.toNat * 0x2000 + ord.toNat * 0x800 + scope.toNat * 0x80 + off.toNat)) rfl (lt_I y 0x30 gd.toNat ga.toNat la (pol.toNat * 0x2000 + ord.toNat * 0x800 + scope.toNat * 0x80 + off.toNat) (by decide) gd.isLt ga.isLt hlo) fun h => ?_
  have hm := maj_I y 0x30 gd.toNat ga.toNat la (pol.toNat * 0x2000 + ord.toNat * 0x800 + scope.toNat * 0x80 + off.toNat) (by decide) gd.isLt ga.isLt hlo
  have hy := y_I y 0x30 gd.toNat ga.toNat la (pol.toNat * 0x2000 + ord.toNat * 0x800 + scope.toNat * 0x80 + off.toNat) (by decide) gd.isLt ga.isLt hlo
  have hl := low_I y 0x30 gd.toNat ga.toNat la (pol.toNat * 0x2000 + ord.toNat * 0x800 + scope.toNat * 0x80 + off.toNat) hlo
  have a20 := at20_I y 0x30 gd.toNat ga.toNat la (pol.toNat * 0x2000 + ord.toNat * 0x800 + scope.toNat * 0x80 + off.toNat) gd.isLt ga.isLt hlo
  have a16 := at16_I y 0x30 gd.toNat ga.toNat la (pol.toNat * 0x2000 + ord.toNat * 0x800 + scope.toNat * 0x80 + off.toNat) ga.isLt hlo
  have a15 := at15_I y 0x30 gd.toNat ga.toNat la (pol.toNat * 0x2000 + ord.toNat * 0x800 + scope.toNat * 0x80 + off.toNat) hlo
  generalize encI y 0x30 gd.toNat ga.toNat la (pol.toNat * 0x2000 + ord.toNat * 0x800 + scope.toNat * 0x80 + off.toNat) = w at *
  have e1 : fB w 31 = y := fB_eq _ _ _ (hy)
  have e2 : fV w 20 4 = gd := fV_eq _ _ _ _ (a20)
  have e3 : fV w 16 4 = ga := fV_eq _ _ _ _ (a16)
  have e4 : fB w 15 = la := fB_eq _ _ _ (a15)
  have e5 : fV w 13 2 = pol := fV_eq _ _ _ _ (((field_low _ _ 13 2 15 (by decide) hl)).trans (by omega))
  have e6 : fV w 11 2 = ord := fV_eq _ _ _ _ (((field_low _ _ 11 2 15 (by decide) hl)).trans (by omega))
  have e7 : fV w 7 4 = scope := fV_eq _ _ _ _ (((field_low _ _ 7 4 15 (by decide) hl)).trans (by omega))
  have e8 : fV w 0 7 = off := fV_eq _ _ _ _ (((field_low _ _ 0 7 15 (by decide) hl)).trans (by omega))
  have hM : fN w 24 7 = 0x30 := hm
  rw [at_dec30 w hM]
  simp only [dec30, e1, e2, e3, e4, e5, e6, e7, e8, need, h]
  rfl

theorem ldh (y : Bool) (gd : BitVec 4) (ga : BitVec 4) (la : Bool) (pol : BitVec 2) (ord : BitVec 2) (scope : BitVec 4) (off : BitVec 7) : Statement (.ldh y gd ga la pol ord scope off) := by
  have q_gd := gd.isLt
  have q_ga := ga.isLt
  have q_pol := pol.isLt
  have q_ord := ord.isLt
  have q_scope := scope.isLt
  have q_off := off.isLt
  have b_y := b1_lt y
  have b_la := b1_lt la
  have hlo : (pol.toNat * 0x2000 + ord.toNat * 0x800 + scope.toNat * 0x80 + off.toNat) < 32768 := by omega
  refine of_number _ (encI y 0x31 gd.toNat ga.toNat la (pol.toNat * 0x2000 + ord.toNat * 0x800 + scope.toNat * 0x80 + off.toNat)) rfl (lt_I y 0x31 gd.toNat ga.toNat la (pol.toNat * 0x2000 + ord.toNat * 0x800 + scope.toNat * 0x80 + off.toNat) (by decide) gd.isLt ga.isLt hlo) fun h => ?_
  have hm := maj_I y 0x31 gd.toNat ga.toNat la (pol.toNat * 0x2000 + ord.toNat * 0x800 + scope.toNat * 0x80 + off.toNat) (by decide) gd.isLt ga.isLt hlo
  have hy := y_I y 0x31 gd.toNat ga.toNat la (pol.toNat * 0x2000 + ord.toNat * 0x800 + scope.toNat * 0x80 + off.toNat) (by decide) gd.isLt ga.isLt hlo
  have hl := low_I y 0x31 gd.toNat ga.toNat la (pol.toNat * 0x2000 + ord.toNat * 0x800 + scope.toNat * 0x80 + off.toNat) hlo
  have a20 := at20_I y 0x31 gd.toNat ga.toNat la (pol.toNat * 0x2000 + ord.toNat * 0x800 + scope.toNat * 0x80 + off.toNat) gd.isLt ga.isLt hlo
  have a16 := at16_I y 0x31 gd.toNat ga.toNat la (pol.toNat * 0x2000 + ord.toNat * 0x800 + scope.toNat * 0x80 + off.toNat) ga.isLt hlo
  have a15 := at15_I y 0x31 gd.toNat ga.toNat la (pol.toNat * 0x2000 + ord.toNat * 0x800 + scope.toNat * 0x80 + off.toNat) hlo
  generalize encI y 0x31 gd.toNat ga.toNat la (pol.toNat * 0x2000 + ord.toNat * 0x800 + scope.toNat * 0x80 + off.toNat) = w at *
  have e1 : fB w 31 = y := fB_eq _ _ _ (hy)
  have e2 : fV w 20 4 = gd := fV_eq _ _ _ _ (a20)
  have e3 : fV w 16 4 = ga := fV_eq _ _ _ _ (a16)
  have e4 : fB w 15 = la := fB_eq _ _ _ (a15)
  have e5 : fV w 13 2 = pol := fV_eq _ _ _ _ (((field_low _ _ 13 2 15 (by decide) hl)).trans (by omega))
  have e6 : fV w 11 2 = ord := fV_eq _ _ _ _ (((field_low _ _ 11 2 15 (by decide) hl)).trans (by omega))
  have e7 : fV w 7 4 = scope := fV_eq _ _ _ _ (((field_low _ _ 7 4 15 (by decide) hl)).trans (by omega))
  have e8 : fV w 0 7 = off := fV_eq _ _ _ _ (((field_low _ _ 0 7 15 (by decide) hl)).trans (by omega))
  have hM : fN w 24 7 = 0x31 := hm
  rw [at_dec31 w hM]
  simp only [dec31, e1, e2, e3, e4, e5, e6, e7, e8, need, h]
  rfl

theorem ldw (y : Bool) (gd : BitVec 4) (ga : BitVec 4) (la : Bool) (pol : BitVec 2) (ord : BitVec 2) (scope : BitVec 4) (off : BitVec 7) : Statement (.ldw y gd ga la pol ord scope off) := by
  have q_gd := gd.isLt
  have q_ga := ga.isLt
  have q_pol := pol.isLt
  have q_ord := ord.isLt
  have q_scope := scope.isLt
  have q_off := off.isLt
  have b_y := b1_lt y
  have b_la := b1_lt la
  have hlo : (pol.toNat * 0x2000 + ord.toNat * 0x800 + scope.toNat * 0x80 + off.toNat) < 32768 := by omega
  refine of_number _ (encI y 0x32 gd.toNat ga.toNat la (pol.toNat * 0x2000 + ord.toNat * 0x800 + scope.toNat * 0x80 + off.toNat)) rfl (lt_I y 0x32 gd.toNat ga.toNat la (pol.toNat * 0x2000 + ord.toNat * 0x800 + scope.toNat * 0x80 + off.toNat) (by decide) gd.isLt ga.isLt hlo) fun h => ?_
  have hm := maj_I y 0x32 gd.toNat ga.toNat la (pol.toNat * 0x2000 + ord.toNat * 0x800 + scope.toNat * 0x80 + off.toNat) (by decide) gd.isLt ga.isLt hlo
  have hy := y_I y 0x32 gd.toNat ga.toNat la (pol.toNat * 0x2000 + ord.toNat * 0x800 + scope.toNat * 0x80 + off.toNat) (by decide) gd.isLt ga.isLt hlo
  have hl := low_I y 0x32 gd.toNat ga.toNat la (pol.toNat * 0x2000 + ord.toNat * 0x800 + scope.toNat * 0x80 + off.toNat) hlo
  have a20 := at20_I y 0x32 gd.toNat ga.toNat la (pol.toNat * 0x2000 + ord.toNat * 0x800 + scope.toNat * 0x80 + off.toNat) gd.isLt ga.isLt hlo
  have a16 := at16_I y 0x32 gd.toNat ga.toNat la (pol.toNat * 0x2000 + ord.toNat * 0x800 + scope.toNat * 0x80 + off.toNat) ga.isLt hlo
  have a15 := at15_I y 0x32 gd.toNat ga.toNat la (pol.toNat * 0x2000 + ord.toNat * 0x800 + scope.toNat * 0x80 + off.toNat) hlo
  generalize encI y 0x32 gd.toNat ga.toNat la (pol.toNat * 0x2000 + ord.toNat * 0x800 + scope.toNat * 0x80 + off.toNat) = w at *
  have e1 : fB w 31 = y := fB_eq _ _ _ (hy)
  have e2 : fV w 20 4 = gd := fV_eq _ _ _ _ (a20)
  have e3 : fV w 16 4 = ga := fV_eq _ _ _ _ (a16)
  have e4 : fB w 15 = la := fB_eq _ _ _ (a15)
  have e5 : fV w 13 2 = pol := fV_eq _ _ _ _ (((field_low _ _ 13 2 15 (by decide) hl)).trans (by omega))
  have e6 : fV w 11 2 = ord := fV_eq _ _ _ _ (((field_low _ _ 11 2 15 (by decide) hl)).trans (by omega))
  have e7 : fV w 7 4 = scope := fV_eq _ _ _ _ (((field_low _ _ 7 4 15 (by decide) hl)).trans (by omega))
  have e8 : fV w 0 7 = off := fV_eq _ _ _ _ (((field_low _ _ 0 7 15 (by decide) hl)).trans (by omega))
  have hM : fN w 24 7 = 0x32 := hm
  rw [at_dec32 w hM]
  simp only [dec32, e1, e2, e3, e4, e5, e6, e7, e8, need, h]
  rfl

theorem ldd (y : Bool) (gd : BitVec 4) (ga : BitVec 4) (la : Bool) (pol : BitVec 2) (ord : BitVec 2) (scope : BitVec 4) (off : BitVec 7) : Statement (.ldd y gd ga la pol ord scope off) := by
  have q_gd := gd.isLt
  have q_ga := ga.isLt
  have q_pol := pol.isLt
  have q_ord := ord.isLt
  have q_scope := scope.isLt
  have q_off := off.isLt
  have b_y := b1_lt y
  have b_la := b1_lt la
  have hlo : (pol.toNat * 0x2000 + ord.toNat * 0x800 + scope.toNat * 0x80 + off.toNat) < 32768 := by omega
  refine of_number _ (encI y 0x33 gd.toNat ga.toNat la (pol.toNat * 0x2000 + ord.toNat * 0x800 + scope.toNat * 0x80 + off.toNat)) rfl (lt_I y 0x33 gd.toNat ga.toNat la (pol.toNat * 0x2000 + ord.toNat * 0x800 + scope.toNat * 0x80 + off.toNat) (by decide) gd.isLt ga.isLt hlo) fun h => ?_
  have hm := maj_I y 0x33 gd.toNat ga.toNat la (pol.toNat * 0x2000 + ord.toNat * 0x800 + scope.toNat * 0x80 + off.toNat) (by decide) gd.isLt ga.isLt hlo
  have hy := y_I y 0x33 gd.toNat ga.toNat la (pol.toNat * 0x2000 + ord.toNat * 0x800 + scope.toNat * 0x80 + off.toNat) (by decide) gd.isLt ga.isLt hlo
  have hl := low_I y 0x33 gd.toNat ga.toNat la (pol.toNat * 0x2000 + ord.toNat * 0x800 + scope.toNat * 0x80 + off.toNat) hlo
  have a20 := at20_I y 0x33 gd.toNat ga.toNat la (pol.toNat * 0x2000 + ord.toNat * 0x800 + scope.toNat * 0x80 + off.toNat) gd.isLt ga.isLt hlo
  have a16 := at16_I y 0x33 gd.toNat ga.toNat la (pol.toNat * 0x2000 + ord.toNat * 0x800 + scope.toNat * 0x80 + off.toNat) ga.isLt hlo
  have a15 := at15_I y 0x33 gd.toNat ga.toNat la (pol.toNat * 0x2000 + ord.toNat * 0x800 + scope.toNat * 0x80 + off.toNat) hlo
  generalize encI y 0x33 gd.toNat ga.toNat la (pol.toNat * 0x2000 + ord.toNat * 0x800 + scope.toNat * 0x80 + off.toNat) = w at *
  have e1 : fB w 31 = y := fB_eq _ _ _ (hy)
  have e2 : fV w 20 4 = gd := fV_eq _ _ _ _ (a20)
  have e3 : fV w 16 4 = ga := fV_eq _ _ _ _ (a16)
  have e4 : fB w 15 = la := fB_eq _ _ _ (a15)
  have e5 : fV w 13 2 = pol := fV_eq _ _ _ _ (((field_low _ _ 13 2 15 (by decide) hl)).trans (by omega))
  have e6 : fV w 11 2 = ord := fV_eq _ _ _ _ (((field_low _ _ 11 2 15 (by decide) hl)).trans (by omega))
  have e7 : fV w 7 4 = scope := fV_eq _ _ _ _ (((field_low _ _ 7 4 15 (by decide) hl)).trans (by omega))
  have e8 : fV w 0 7 = off := fV_eq _ _ _ _ (((field_low _ _ 0 7 15 (by decide) hl)).trans (by omega))
  have hM : fN w 24 7 = 0x33 := hm
  rw [at_dec33 w hM]
  simp only [dec33, e1, e2, e3, e4, e5, e6, e7, e8, need, h]
  rfl

theorem stb (y : Bool) (gd : BitVec 4) (ga : BitVec 4) (la : Bool) (pol : BitVec 2) (ord : BitVec 2) (scope : BitVec 4) (off : BitVec 7) : Statement (.stb y gd ga la pol ord scope off) := by
  have q_gd := gd.isLt
  have q_ga := ga.isLt
  have q_pol := pol.isLt
  have q_ord := ord.isLt
  have q_scope := scope.isLt
  have q_off := off.isLt
  have b_y := b1_lt y
  have b_la := b1_lt la
  have hlo : (pol.toNat * 0x2000 + ord.toNat * 0x800 + scope.toNat * 0x80 + off.toNat) < 32768 := by omega
  refine of_number _ (encI y 0x34 gd.toNat ga.toNat la (pol.toNat * 0x2000 + ord.toNat * 0x800 + scope.toNat * 0x80 + off.toNat)) rfl (lt_I y 0x34 gd.toNat ga.toNat la (pol.toNat * 0x2000 + ord.toNat * 0x800 + scope.toNat * 0x80 + off.toNat) (by decide) gd.isLt ga.isLt hlo) fun h => ?_
  have hm := maj_I y 0x34 gd.toNat ga.toNat la (pol.toNat * 0x2000 + ord.toNat * 0x800 + scope.toNat * 0x80 + off.toNat) (by decide) gd.isLt ga.isLt hlo
  have hy := y_I y 0x34 gd.toNat ga.toNat la (pol.toNat * 0x2000 + ord.toNat * 0x800 + scope.toNat * 0x80 + off.toNat) (by decide) gd.isLt ga.isLt hlo
  have hl := low_I y 0x34 gd.toNat ga.toNat la (pol.toNat * 0x2000 + ord.toNat * 0x800 + scope.toNat * 0x80 + off.toNat) hlo
  have a20 := at20_I y 0x34 gd.toNat ga.toNat la (pol.toNat * 0x2000 + ord.toNat * 0x800 + scope.toNat * 0x80 + off.toNat) gd.isLt ga.isLt hlo
  have a16 := at16_I y 0x34 gd.toNat ga.toNat la (pol.toNat * 0x2000 + ord.toNat * 0x800 + scope.toNat * 0x80 + off.toNat) ga.isLt hlo
  have a15 := at15_I y 0x34 gd.toNat ga.toNat la (pol.toNat * 0x2000 + ord.toNat * 0x800 + scope.toNat * 0x80 + off.toNat) hlo
  generalize encI y 0x34 gd.toNat ga.toNat la (pol.toNat * 0x2000 + ord.toNat * 0x800 + scope.toNat * 0x80 + off.toNat) = w at *
  have e1 : fB w 31 = y := fB_eq _ _ _ (hy)
  have e2 : fV w 20 4 = gd := fV_eq _ _ _ _ (a20)
  have e3 : fV w 16 4 = ga := fV_eq _ _ _ _ (a16)
  have e4 : fB w 15 = la := fB_eq _ _ _ (a15)
  have e5 : fV w 13 2 = pol := fV_eq _ _ _ _ (((field_low _ _ 13 2 15 (by decide) hl)).trans (by omega))
  have e6 : fV w 11 2 = ord := fV_eq _ _ _ _ (((field_low _ _ 11 2 15 (by decide) hl)).trans (by omega))
  have e7 : fV w 7 4 = scope := fV_eq _ _ _ _ (((field_low _ _ 7 4 15 (by decide) hl)).trans (by omega))
  have e8 : fV w 0 7 = off := fV_eq _ _ _ _ (((field_low _ _ 0 7 15 (by decide) hl)).trans (by omega))
  have hM : fN w 24 7 = 0x34 := hm
  rw [at_dec34 w hM]
  simp only [dec34, e1, e2, e3, e4, e5, e6, e7, e8, need, h]
  rfl

theorem sth (y : Bool) (gd : BitVec 4) (ga : BitVec 4) (la : Bool) (pol : BitVec 2) (ord : BitVec 2) (scope : BitVec 4) (off : BitVec 7) : Statement (.sth y gd ga la pol ord scope off) := by
  have q_gd := gd.isLt
  have q_ga := ga.isLt
  have q_pol := pol.isLt
  have q_ord := ord.isLt
  have q_scope := scope.isLt
  have q_off := off.isLt
  have b_y := b1_lt y
  have b_la := b1_lt la
  have hlo : (pol.toNat * 0x2000 + ord.toNat * 0x800 + scope.toNat * 0x80 + off.toNat) < 32768 := by omega
  refine of_number _ (encI y 0x35 gd.toNat ga.toNat la (pol.toNat * 0x2000 + ord.toNat * 0x800 + scope.toNat * 0x80 + off.toNat)) rfl (lt_I y 0x35 gd.toNat ga.toNat la (pol.toNat * 0x2000 + ord.toNat * 0x800 + scope.toNat * 0x80 + off.toNat) (by decide) gd.isLt ga.isLt hlo) fun h => ?_
  have hm := maj_I y 0x35 gd.toNat ga.toNat la (pol.toNat * 0x2000 + ord.toNat * 0x800 + scope.toNat * 0x80 + off.toNat) (by decide) gd.isLt ga.isLt hlo
  have hy := y_I y 0x35 gd.toNat ga.toNat la (pol.toNat * 0x2000 + ord.toNat * 0x800 + scope.toNat * 0x80 + off.toNat) (by decide) gd.isLt ga.isLt hlo
  have hl := low_I y 0x35 gd.toNat ga.toNat la (pol.toNat * 0x2000 + ord.toNat * 0x800 + scope.toNat * 0x80 + off.toNat) hlo
  have a20 := at20_I y 0x35 gd.toNat ga.toNat la (pol.toNat * 0x2000 + ord.toNat * 0x800 + scope.toNat * 0x80 + off.toNat) gd.isLt ga.isLt hlo
  have a16 := at16_I y 0x35 gd.toNat ga.toNat la (pol.toNat * 0x2000 + ord.toNat * 0x800 + scope.toNat * 0x80 + off.toNat) ga.isLt hlo
  have a15 := at15_I y 0x35 gd.toNat ga.toNat la (pol.toNat * 0x2000 + ord.toNat * 0x800 + scope.toNat * 0x80 + off.toNat) hlo
  generalize encI y 0x35 gd.toNat ga.toNat la (pol.toNat * 0x2000 + ord.toNat * 0x800 + scope.toNat * 0x80 + off.toNat) = w at *
  have e1 : fB w 31 = y := fB_eq _ _ _ (hy)
  have e2 : fV w 20 4 = gd := fV_eq _ _ _ _ (a20)
  have e3 : fV w 16 4 = ga := fV_eq _ _ _ _ (a16)
  have e4 : fB w 15 = la := fB_eq _ _ _ (a15)
  have e5 : fV w 13 2 = pol := fV_eq _ _ _ _ (((field_low _ _ 13 2 15 (by decide) hl)).trans (by omega))
  have e6 : fV w 11 2 = ord := fV_eq _ _ _ _ (((field_low _ _ 11 2 15 (by decide) hl)).trans (by omega))
  have e7 : fV w 7 4 = scope := fV_eq _ _ _ _ (((field_low _ _ 7 4 15 (by decide) hl)).trans (by omega))
  have e8 : fV w 0 7 = off := fV_eq _ _ _ _ (((field_low _ _ 0 7 15 (by decide) hl)).trans (by omega))
  have hM : fN w 24 7 = 0x35 := hm
  rw [at_dec35 w hM]
  simp only [dec35, e1, e2, e3, e4, e5, e6, e7, e8, need, h]
  rfl

theorem stw (y : Bool) (gd : BitVec 4) (ga : BitVec 4) (la : Bool) (pol : BitVec 2) (ord : BitVec 2) (scope : BitVec 4) (off : BitVec 7) : Statement (.stw y gd ga la pol ord scope off) := by
  have q_gd := gd.isLt
  have q_ga := ga.isLt
  have q_pol := pol.isLt
  have q_ord := ord.isLt
  have q_scope := scope.isLt
  have q_off := off.isLt
  have b_y := b1_lt y
  have b_la := b1_lt la
  have hlo : (pol.toNat * 0x2000 + ord.toNat * 0x800 + scope.toNat * 0x80 + off.toNat) < 32768 := by omega
  refine of_number _ (encI y 0x36 gd.toNat ga.toNat la (pol.toNat * 0x2000 + ord.toNat * 0x800 + scope.toNat * 0x80 + off.toNat)) rfl (lt_I y 0x36 gd.toNat ga.toNat la (pol.toNat * 0x2000 + ord.toNat * 0x800 + scope.toNat * 0x80 + off.toNat) (by decide) gd.isLt ga.isLt hlo) fun h => ?_
  have hm := maj_I y 0x36 gd.toNat ga.toNat la (pol.toNat * 0x2000 + ord.toNat * 0x800 + scope.toNat * 0x80 + off.toNat) (by decide) gd.isLt ga.isLt hlo
  have hy := y_I y 0x36 gd.toNat ga.toNat la (pol.toNat * 0x2000 + ord.toNat * 0x800 + scope.toNat * 0x80 + off.toNat) (by decide) gd.isLt ga.isLt hlo
  have hl := low_I y 0x36 gd.toNat ga.toNat la (pol.toNat * 0x2000 + ord.toNat * 0x800 + scope.toNat * 0x80 + off.toNat) hlo
  have a20 := at20_I y 0x36 gd.toNat ga.toNat la (pol.toNat * 0x2000 + ord.toNat * 0x800 + scope.toNat * 0x80 + off.toNat) gd.isLt ga.isLt hlo
  have a16 := at16_I y 0x36 gd.toNat ga.toNat la (pol.toNat * 0x2000 + ord.toNat * 0x800 + scope.toNat * 0x80 + off.toNat) ga.isLt hlo
  have a15 := at15_I y 0x36 gd.toNat ga.toNat la (pol.toNat * 0x2000 + ord.toNat * 0x800 + scope.toNat * 0x80 + off.toNat) hlo
  generalize encI y 0x36 gd.toNat ga.toNat la (pol.toNat * 0x2000 + ord.toNat * 0x800 + scope.toNat * 0x80 + off.toNat) = w at *
  have e1 : fB w 31 = y := fB_eq _ _ _ (hy)
  have e2 : fV w 20 4 = gd := fV_eq _ _ _ _ (a20)
  have e3 : fV w 16 4 = ga := fV_eq _ _ _ _ (a16)
  have e4 : fB w 15 = la := fB_eq _ _ _ (a15)
  have e5 : fV w 13 2 = pol := fV_eq _ _ _ _ (((field_low _ _ 13 2 15 (by decide) hl)).trans (by omega))
  have e6 : fV w 11 2 = ord := fV_eq _ _ _ _ (((field_low _ _ 11 2 15 (by decide) hl)).trans (by omega))
  have e7 : fV w 7 4 = scope := fV_eq _ _ _ _ (((field_low _ _ 7 4 15 (by decide) hl)).trans (by omega))
  have e8 : fV w 0 7 = off := fV_eq _ _ _ _ (((field_low _ _ 0 7 15 (by decide) hl)).trans (by omega))
  have hM : fN w 24 7 = 0x36 := hm
  rw [at_dec36 w hM]
  simp only [dec36, e1, e2, e3, e4, e5, e6, e7, e8, need, h]
  rfl

theorem std (y : Bool) (gd : BitVec 4) (ga : BitVec 4) (la : Bool) (pol : BitVec 2) (ord : BitVec 2) (scope : BitVec 4) (off : BitVec 7) : Statement (.std y gd ga la pol ord scope off) := by
  have q_gd := gd.isLt
  have q_ga := ga.isLt
  have q_pol := pol.isLt
  have q_ord := ord.isLt
  have q_scope := scope.isLt
  have q_off := off.isLt
  have b_y := b1_lt y
  have b_la := b1_lt la
  have hlo : (pol.toNat * 0x2000 + ord.toNat * 0x800 + scope.toNat * 0x80 + off.toNat) < 32768 := by omega
  refine of_number _ (encI y 0x37 gd.toNat ga.toNat la (pol.toNat * 0x2000 + ord.toNat * 0x800 + scope.toNat * 0x80 + off.toNat)) rfl (lt_I y 0x37 gd.toNat ga.toNat la (pol.toNat * 0x2000 + ord.toNat * 0x800 + scope.toNat * 0x80 + off.toNat) (by decide) gd.isLt ga.isLt hlo) fun h => ?_
  have hm := maj_I y 0x37 gd.toNat ga.toNat la (pol.toNat * 0x2000 + ord.toNat * 0x800 + scope.toNat * 0x80 + off.toNat) (by decide) gd.isLt ga.isLt hlo
  have hy := y_I y 0x37 gd.toNat ga.toNat la (pol.toNat * 0x2000 + ord.toNat * 0x800 + scope.toNat * 0x80 + off.toNat) (by decide) gd.isLt ga.isLt hlo
  have hl := low_I y 0x37 gd.toNat ga.toNat la (pol.toNat * 0x2000 + ord.toNat * 0x800 + scope.toNat * 0x80 + off.toNat) hlo
  have a20 := at20_I y 0x37 gd.toNat ga.toNat la (pol.toNat * 0x2000 + ord.toNat * 0x800 + scope.toNat * 0x80 + off.toNat) gd.isLt ga.isLt hlo
  have a16 := at16_I y 0x37 gd.toNat ga.toNat la (pol.toNat * 0x2000 + ord.toNat * 0x800 + scope.toNat * 0x80 + off.toNat) ga.isLt hlo
  have a15 := at15_I y 0x37 gd.toNat ga.toNat la (pol.toNat * 0x2000 + ord.toNat * 0x800 + scope.toNat * 0x80 + off.toNat) hlo
  generalize encI y 0x37 gd.toNat ga.toNat la (pol.toNat * 0x2000 + ord.toNat * 0x800 + scope.toNat * 0x80 + off.toNat) = w at *
  have e1 : fB w 31 = y := fB_eq _ _ _ (hy)
  have e2 : fV w 20 4 = gd := fV_eq _ _ _ _ (a20)
  have e3 : fV w 16 4 = ga := fV_eq _ _ _ _ (a16)
  have e4 : fB w 15 = la := fB_eq _ _ _ (a15)
  have e5 : fV w 13 2 = pol := fV_eq _ _ _ _ (((field_low _ _ 13 2 15 (by decide) hl)).trans (by omega))
  have e6 : fV w 11 2 = ord := fV_eq _ _ _ _ (((field_low _ _ 11 2 15 (by decide) hl)).trans (by omega))
  have e7 : fV w 7 4 = scope := fV_eq _ _ _ _ (((field_low _ _ 7 4 15 (by decide) hl)).trans (by omega))
  have e8 : fV w 0 7 = off := fV_eq _ _ _ _ (((field_low _ _ 0 7 15 (by decide) hl)).trans (by omega))
  have hM : fN w 24 7 = 0x37 := hm
  rw [at_dec37 w hM]
  simp only [dec37, e1, e2, e3, e4, e5, e6, e7, e8, need, h]
  rfl

theorem ldf (y : Bool) (gd : BitVec 4) (ga : BitVec 4) (la : Bool) (off : BitVec 7) : Statement (.ldf y gd ga la off) := by
  have q_gd := gd.isLt
  have q_ga := ga.isLt
  have q_off := off.isLt
  have b_y := b1_lt y
  have b_la := b1_lt la
  have hlo : off.toNat < 32768 := by omega
  refine of_number _ (encI y 0x38 gd.toNat ga.toNat la off.toNat) rfl (lt_I y 0x38 gd.toNat ga.toNat la off.toNat (by decide) gd.isLt ga.isLt hlo) fun h => ?_
  have hm := maj_I y 0x38 gd.toNat ga.toNat la off.toNat (by decide) gd.isLt ga.isLt hlo
  have hy := y_I y 0x38 gd.toNat ga.toNat la off.toNat (by decide) gd.isLt ga.isLt hlo
  have hl := low_I y 0x38 gd.toNat ga.toNat la off.toNat hlo
  have a20 := at20_I y 0x38 gd.toNat ga.toNat la off.toNat gd.isLt ga.isLt hlo
  have a16 := at16_I y 0x38 gd.toNat ga.toNat la off.toNat ga.isLt hlo
  have a15 := at15_I y 0x38 gd.toNat ga.toNat la off.toNat hlo
  generalize encI y 0x38 gd.toNat ga.toNat la off.toNat = w at *
  have e1 : fN w 7 8 = 0 := ((field_low _ _ 7 8 15 (by decide) hl)).trans (by omega)
  have e2 : fB w 31 = y := fB_eq _ _ _ (hy)
  have e3 : fV w 20 4 = gd := fV_eq _ _ _ _ (a20)
  have e4 : fV w 16 4 = ga := fV_eq _ _ _ _ (a16)
  have e5 : fB w 15 = la := fB_eq _ _ _ (a15)
  have e6 : fV w 0 7 = off := fV_eq _ _ _ _ (((field_low _ _ 0 7 15 (by decide) hl)).trans (by omega))
  have hM : fN w 24 7 = 0x38 := hm
  rw [at_dec38 w hM]
  simp only [dec38, e1, e2, e3, e4, e5, e6, need, h]
  rfl

theorem ldfe (y : Bool) (gd : BitVec 4) (ga : BitVec 4) (la : Bool) (off : BitVec 7) : Statement (.ldfe y gd ga la off) := by
  have q_gd := gd.isLt
  have q_ga := ga.isLt
  have q_off := off.isLt
  have b_y := b1_lt y
  have b_la := b1_lt la
  have hlo : off.toNat < 32768 := by omega
  refine of_number _ (encI y 0x39 gd.toNat ga.toNat la off.toNat) rfl (lt_I y 0x39 gd.toNat ga.toNat la off.toNat (by decide) gd.isLt ga.isLt hlo) fun h => ?_
  have hm := maj_I y 0x39 gd.toNat ga.toNat la off.toNat (by decide) gd.isLt ga.isLt hlo
  have hy := y_I y 0x39 gd.toNat ga.toNat la off.toNat (by decide) gd.isLt ga.isLt hlo
  have hl := low_I y 0x39 gd.toNat ga.toNat la off.toNat hlo
  have a20 := at20_I y 0x39 gd.toNat ga.toNat la off.toNat gd.isLt ga.isLt hlo
  have a16 := at16_I y 0x39 gd.toNat ga.toNat la off.toNat ga.isLt hlo
  have a15 := at15_I y 0x39 gd.toNat ga.toNat la off.toNat hlo
  generalize encI y 0x39 gd.toNat ga.toNat la off.toNat = w at *
  have e1 : fN w 7 8 = 0 := ((field_low _ _ 7 8 15 (by decide) hl)).trans (by omega)
  have e2 : fB w 31 = y := fB_eq _ _ _ (hy)
  have e3 : fV w 20 4 = gd := fV_eq _ _ _ _ (a20)
  have e4 : fV w 16 4 = ga := fV_eq _ _ _ _ (a16)
  have e5 : fB w 15 = la := fB_eq _ _ _ (a15)
  have e6 : fV w 0 7 = off := fV_eq _ _ _ _ (((field_low _ _ 0 7 15 (by decide) hl)).trans (by omega))
  have hM : fN w 24 7 = 0x39 := hm
  rw [at_dec39 w hM]
  simp only [dec39, e1, e2, e3, e4, e5, e6, need, h]
  rfl

theorem ste (y : Bool) (gd : BitVec 4) (ga : BitVec 4) (la : Bool) (off : BitVec 7) : Statement (.ste y gd ga la off) := by
  have q_gd := gd.isLt
  have q_ga := ga.isLt
  have q_off := off.isLt
  have b_y := b1_lt y
  have b_la := b1_lt la
  have hlo : off.toNat < 32768 := by omega
  refine of_number _ (encI y 0x3A gd.toNat ga.toNat la off.toNat) rfl (lt_I y 0x3A gd.toNat ga.toNat la off.toNat (by decide) gd.isLt ga.isLt hlo) fun h => ?_
  have hm := maj_I y 0x3A gd.toNat ga.toNat la off.toNat (by decide) gd.isLt ga.isLt hlo
  have hy := y_I y 0x3A gd.toNat ga.toNat la off.toNat (by decide) gd.isLt ga.isLt hlo
  have hl := low_I y 0x3A gd.toNat ga.toNat la off.toNat hlo
  have a20 := at20_I y 0x3A gd.toNat ga.toNat la off.toNat gd.isLt ga.isLt hlo
  have a16 := at16_I y 0x3A gd.toNat ga.toNat la off.toNat ga.isLt hlo
  have a15 := at15_I y 0x3A gd.toNat ga.toNat la off.toNat hlo
  generalize encI y 0x3A gd.toNat ga.toNat la off.toNat = w at *
  have e1 : fN w 7 8 = 0 := ((field_low _ _ 7 8 15 (by decide) hl)).trans (by omega)
  have e2 : fB w 31 = y := fB_eq _ _ _ (hy)
  have e3 : fV w 20 4 = gd := fV_eq _ _ _ _ (a20)
  have e4 : fV w 16 4 = ga := fV_eq _ _ _ _ (a16)
  have e5 : fB w 15 = la := fB_eq _ _ _ (a15)
  have e6 : fV w 0 7 = off := fV_eq _ _ _ _ (((field_low _ _ 0 7 15 (by decide) hl)).trans (by omega))
  have hM : fN w 24 7 = 0x3A := hm
  rw [at_dec3A w hM]
  simp only [dec3A, e1, e2, e3, e4, e5, e6, need, h]
  rfl

theorem stf (y : Bool) (gd : BitVec 4) (ga : BitVec 4) (la : Bool) (off : BitVec 7) : Statement (.stf y gd ga la off) := by
  have q_gd := gd.isLt
  have q_ga := ga.isLt
  have q_off := off.isLt
  have b_y := b1_lt y
  have b_la := b1_lt la
  have hlo : off.toNat < 32768 := by omega
  refine of_number _ (encI y 0x3B gd.toNat ga.toNat la off.toNat) rfl (lt_I y 0x3B gd.toNat ga.toNat la off.toNat (by decide) gd.isLt ga.isLt hlo) fun h => ?_
  have hm := maj_I y 0x3B gd.toNat ga.toNat la off.toNat (by decide) gd.isLt ga.isLt hlo
  have hy := y_I y 0x3B gd.toNat ga.toNat la off.toNat (by decide) gd.isLt ga.isLt hlo
  have hl := low_I y 0x3B gd.toNat ga.toNat la off.toNat hlo
  have a20 := at20_I y 0x3B gd.toNat ga.toNat la off.toNat gd.isLt ga.isLt hlo
  have a16 := at16_I y 0x3B gd.toNat ga.toNat la off.toNat ga.isLt hlo
  have a15 := at15_I y 0x3B gd.toNat ga.toNat la off.toNat hlo
  generalize encI y 0x3B gd.toNat ga.toNat la off.toNat = w at *
  have e1 : fN w 7 8 = 0 := ((field_low _ _ 7 8 15 (by decide) hl)).trans (by omega)
  have e2 : fB w 31 = y := fB_eq _ _ _ (hy)
  have e3 : fV w 20 4 = gd := fV_eq _ _ _ _ (a20)
  have e4 : fV w 16 4 = ga := fV_eq _ _ _ _ (a16)
  have e5 : fB w 15 = la := fB_eq _ _ _ (a15)
  have e6 : fV w 0 7 = off := fV_eq _ _ _ _ (((field_low _ _ 0 7 15 (by decide) hl)).trans (by omega))
  have hM : fN w 24 7 = 0x3B := hm
  rw [at_dec3B w hM]
  simp only [dec3B, e1, e2, e3, e4, e5, e6, need, h]
  rfl

theorem feq (y : Bool) (gd : BitVec 4) (ga : BitVec 4) (la : Bool) (off : BitVec 7) : Statement (.feq y gd ga la off) := by
  have q_gd := gd.isLt
  have q_ga := ga.isLt
  have q_off := off.isLt
  have b_y := b1_lt y
  have b_la := b1_lt la
  have hlo : off.toNat < 32768 := by omega
  refine of_number _ (encI y 0x3C gd.toNat ga.toNat la off.toNat) rfl (lt_I y 0x3C gd.toNat ga.toNat la off.toNat (by decide) gd.isLt ga.isLt hlo) fun h => ?_
  have hm := maj_I y 0x3C gd.toNat ga.toNat la off.toNat (by decide) gd.isLt ga.isLt hlo
  have hy := y_I y 0x3C gd.toNat ga.toNat la off.toNat (by decide) gd.isLt ga.isLt hlo
  have hl := low_I y 0x3C gd.toNat ga.toNat la off.toNat hlo
  have a20 := at20_I y 0x3C gd.toNat ga.toNat la off.toNat gd.isLt ga.isLt hlo
  have a16 := at16_I y 0x3C gd.toNat ga.toNat la off.toNat ga.isLt hlo
  have a15 := at15_I y 0x3C gd.toNat ga.toNat la off.toNat hlo
  generalize encI y 0x3C gd.toNat ga.toNat la off.toNat = w at *
  have e1 : fN w 7 8 = 0 := ((field_low _ _ 7 8 15 (by decide) hl)).trans (by omega)
  have e2 : fB w 31 = y := fB_eq _ _ _ (hy)
  have e3 : fV w 20 4 = gd := fV_eq _ _ _ _ (a20)
  have e4 : fV w 16 4 = ga := fV_eq _ _ _ _ (a16)
  have e5 : fB w 15 = la := fB_eq _ _ _ (a15)
  have e6 : fV w 0 7 = off := fV_eq _ _ _ _ (((field_low _ _ 0 7 15 (by decide) hl)).trans (by omega))
  have hM : fN w 24 7 = 0x3C := hm
  rw [at_dec3C w hM]
  simp only [dec3C, e1, e2, e3, e4, e5, e6, need, h]
  rfl

theorem feset (y : Bool) (ga : BitVec 4) (la : Bool) (full : Bool) (off : BitVec 7) : Statement (.feset y ga la full off) := by
  have q_ga := ga.isLt
  have q_off := off.isLt
  have b_y := b1_lt y
  have b_la := b1_lt la
  have b_full := b1_lt full
  have hlo : (b1 full * 0x4000 + off.toNat) < 32768 := by omega
  refine of_number _ (encI y 0x3D 0 ga.toNat la (b1 full * 0x4000 + off.toNat)) rfl (lt_I y 0x3D 0 ga.toNat la (b1 full * 0x4000 + off.toNat) (by decide) (by decide) ga.isLt hlo) fun h => ?_
  have hm := maj_I y 0x3D 0 ga.toNat la (b1 full * 0x4000 + off.toNat) (by decide) (by decide) ga.isLt hlo
  have hy := y_I y 0x3D 0 ga.toNat la (b1 full * 0x4000 + off.toNat) (by decide) (by decide) ga.isLt hlo
  have hl := low_I y 0x3D 0 ga.toNat la (b1 full * 0x4000 + off.toNat) hlo
  have a20 := at20_I y 0x3D 0 ga.toNat la (b1 full * 0x4000 + off.toNat) (by decide) ga.isLt hlo
  have a16 := at16_I y 0x3D 0 ga.toNat la (b1 full * 0x4000 + off.toNat) ga.isLt hlo
  have a15 := at15_I y 0x3D 0 ga.toNat la (b1 full * 0x4000 + off.toNat) hlo
  generalize encI y 0x3D 0 ga.toNat la (b1 full * 0x4000 + off.toNat) = w at *
  have e1 : fN w 20 4 = 0 := a20
  have e2 : fN w 7 7 = 0 := ((field_low _ _ 7 7 15 (by decide) hl)).trans (by omega)
  have e3 : fB w 31 = y := fB_eq _ _ _ (hy)
  have e4 : fV w 16 4 = ga := fV_eq _ _ _ _ (a16)
  have e5 : fB w 15 = la := fB_eq _ _ _ (a15)
  have e6 : fB w 14 = full := fB_eq _ _ _ (((field_low _ _ 14 1 15 (by decide) hl)).trans (by omega))
  have e7 : fV w 0 7 = off := fV_eq _ _ _ _ (((field_low _ _ 0 7 15 (by decide) hl)).trans (by omega))
  have hM : fN w 24 7 = 0x3D := hm
  rw [at_dec3D w hM]
  simp only [dec3D, e1, e2, e3, e4, e5, e6, e7, need, h]
  rfl

theorem pref (y : Bool) (ga : BitVec 4) (la : Bool) (pol : BitVec 2) (off : BitVec 7) : Statement (.pref y ga la pol off) := by
  have q_ga := ga.isLt
  have q_pol := pol.isLt
  have q_off := off.isLt
  have b_y := b1_lt y
  have b_la := b1_lt la
  have hlo : (pol.toNat * 0x2000 + off.toNat) < 32768 := by omega
  refine of_number _ (encI y 0x3E 0 ga.toNat la (pol.toNat * 0x2000 + off.toNat)) rfl (lt_I y 0x3E 0 ga.toNat la (pol.toNat * 0x2000 + off.toNat) (by decide) (by decide) ga.isLt hlo) fun h => ?_
  have hm := maj_I y 0x3E 0 ga.toNat la (pol.toNat * 0x2000 + off.toNat) (by decide) (by decide) ga.isLt hlo
  have hy := y_I y 0x3E 0 ga.toNat la (pol.toNat * 0x2000 + off.toNat) (by decide) (by decide) ga.isLt hlo
  have hl := low_I y 0x3E 0 ga.toNat la (pol.toNat * 0x2000 + off.toNat) hlo
  have a20 := at20_I y 0x3E 0 ga.toNat la (pol.toNat * 0x2000 + off.toNat) (by decide) ga.isLt hlo
  have a16 := at16_I y 0x3E 0 ga.toNat la (pol.toNat * 0x2000 + off.toNat) ga.isLt hlo
  have a15 := at15_I y 0x3E 0 ga.toNat la (pol.toNat * 0x2000 + off.toNat) hlo
  generalize encI y 0x3E 0 ga.toNat la (pol.toNat * 0x2000 + off.toNat) = w at *
  have e1 : fN w 20 4 = 0 := a20
  have e2 : fN w 7 6 = 0 := ((field_low _ _ 7 6 15 (by decide) hl)).trans (by omega)
  have e3 : fB w 31 = y := fB_eq _ _ _ (hy)
  have e4 : fV w 16 4 = ga := fV_eq _ _ _ _ (a16)
  have e5 : fB w 15 = la := fB_eq _ _ _ (a15)
  have e6 : fV w 13 2 = pol := fV_eq _ _ _ _ (((field_low _ _ 13 2 15 (by decide) hl)).trans (by omega))
  have e7 : fV w 0 7 = off := fV_eq _ _ _ _ (((field_low _ _ 0 7 15 (by decide) hl)).trans (by omega))
  have hM : fN w 24 7 = 0x3E := hm
  rw [at_dec3E w hM]
  simp only [dec3E, e1, e2, e3, e4, e5, e6, e7, need, h]
  rfl

theorem aadd (y : Bool) (gd : BitVec 4) (ga : BitVec 4) (la : Bool) (gb : BitVec 4) (lb : Bool) (place : BitVec 2) (ord : BitVec 2) (scope : BitVec 4) (sz : Bool) : Statement (.aadd y gd ga la gb lb place ord scope sz) := by
  have q_gd := gd.isLt
  have q_ga := ga.isLt
  have q_gb := gb.isLt
  have q_place := place.isLt
  have q_ord := ord.isLt
  have q_scope := scope.isLt
  have b_y := b1_lt y
  have b_la := b1_lt la
  have b_lb := b1_lt lb
  have b_sz := b1_lt sz
  have hlo : (place.toNat * 0x100 + ord.toNat * 0x40 + scope.toNat * 0x4 + b1 sz) < 1024 := by omega
  refine of_number _ (encR y 0x40 gd.toNat ga.toNat la gb.toNat lb (place.toNat * 0x100 + ord.toNat * 0x40 + scope.toNat * 0x4 + b1 sz)) rfl (lt_R y 0x40 gd.toNat ga.toNat la gb.toNat lb (place.toNat * 0x100 + ord.toNat * 0x40 + scope.toNat * 0x4 + b1 sz) (by decide) gd.isLt ga.isLt gb.isLt hlo) fun h => ?_
  have hm := maj_R y 0x40 gd.toNat ga.toNat la gb.toNat lb (place.toNat * 0x100 + ord.toNat * 0x40 + scope.toNat * 0x4 + b1 sz) (by decide) gd.isLt ga.isLt gb.isLt hlo
  have hy := y_R y 0x40 gd.toNat ga.toNat la gb.toNat lb (place.toNat * 0x100 + ord.toNat * 0x40 + scope.toNat * 0x4 + b1 sz) (by decide) gd.isLt ga.isLt gb.isLt hlo
  have hl := low_R y 0x40 gd.toNat ga.toNat la gb.toNat lb (place.toNat * 0x100 + ord.toNat * 0x40 + scope.toNat * 0x4 + b1 sz) hlo
  have a20 := at20_R y 0x40 gd.toNat ga.toNat la gb.toNat lb (place.toNat * 0x100 + ord.toNat * 0x40 + scope.toNat * 0x4 + b1 sz) gd.isLt ga.isLt gb.isLt hlo
  have a16 := at16_R y 0x40 gd.toNat ga.toNat la gb.toNat lb (place.toNat * 0x100 + ord.toNat * 0x40 + scope.toNat * 0x4 + b1 sz) ga.isLt gb.isLt hlo
  have a15 := at15_R y 0x40 gd.toNat ga.toNat la gb.toNat lb (place.toNat * 0x100 + ord.toNat * 0x40 + scope.toNat * 0x4 + b1 sz) gb.isLt hlo
  have a11 := at11_R y 0x40 gd.toNat ga.toNat la gb.toNat lb (place.toNat * 0x100 + ord.toNat * 0x40 + scope.toNat * 0x4 + b1 sz) gb.isLt hlo
  have a10 := at10_R y 0x40 gd.toNat ga.toNat la gb.toNat lb (place.toNat * 0x100 + ord.toNat * 0x40 + scope.toNat * 0x4 + b1 sz) hlo
  generalize encR y 0x40 gd.toNat ga.toNat la gb.toNat lb (place.toNat * 0x100 + ord.toNat * 0x40 + scope.toNat * 0x4 + b1 sz) = w at *
  have e1 : fN w 1 1 = 0 := ((field_low _ _ 1 1 10 (by decide) hl)).trans (by omega)
  have e2 : fB w 31 = y := fB_eq _ _ _ (hy)
  have e3 : fV w 20 4 = gd := fV_eq _ _ _ _ (a20)
  have e4 : fV w 16 4 = ga := fV_eq _ _ _ _ (a16)
  have e5 : fB w 15 = la := fB_eq _ _ _ (a15)
  have e6 : fV w 11 4 = gb := fV_eq _ _ _ _ (a11)
  have e7 : fB w 10 = lb := fB_eq _ _ _ (a10)
  have e8 : fV w 8 2 = place := fV_eq _ _ _ _ (((field_low _ _ 8 2 10 (by decide) hl)).trans (by omega))
  have e9 : fV w 6 2 = ord := fV_eq _ _ _ _ (((field_low _ _ 6 2 10 (by decide) hl)).trans (by omega))
  have e10 : fV w 2 4 = scope := fV_eq _ _ _ _ (((field_low _ _ 2 4 10 (by decide) hl)).trans (by omega))
  have e11 : fB w 0 = sz := fB_eq _ _ _ (((field_low _ _ 0 1 10 (by decide) hl)).trans (by omega))
  have hM : fN w 24 7 = 0x40 := hm
  rw [at_dec40 w hM]
  simp only [dec40, e1, e2, e3, e4, e5, e6, e7, e8, e9, e10, e11, need, h]
  rfl

theorem amin (y : Bool) (gd : BitVec 4) (ga : BitVec 4) (la : Bool) (gb : BitVec 4) (lb : Bool) (place : BitVec 2) (ord : BitVec 2) (scope : BitVec 4) (uns : Bool) (sz : Bool) : Statement (.amin y gd ga la gb lb place ord scope uns sz) := by
  have q_gd := gd.isLt
  have q_ga := ga.isLt
  have q_gb := gb.isLt
  have q_place := place.isLt
  have q_ord := ord.isLt
  have q_scope := scope.isLt
  have b_y := b1_lt y
  have b_la := b1_lt la
  have b_lb := b1_lt lb
  have b_uns := b1_lt uns
  have b_sz := b1_lt sz
  have hlo : (place.toNat * 0x100 + ord.toNat * 0x40 + scope.toNat * 0x4 + b1 uns * 0x2 + b1 sz) < 1024 := by omega
  refine of_number _ (encR y 0x41 gd.toNat ga.toNat la gb.toNat lb (place.toNat * 0x100 + ord.toNat * 0x40 + scope.toNat * 0x4 + b1 uns * 0x2 + b1 sz)) rfl (lt_R y 0x41 gd.toNat ga.toNat la gb.toNat lb (place.toNat * 0x100 + ord.toNat * 0x40 + scope.toNat * 0x4 + b1 uns * 0x2 + b1 sz) (by decide) gd.isLt ga.isLt gb.isLt hlo) fun h => ?_
  have hm := maj_R y 0x41 gd.toNat ga.toNat la gb.toNat lb (place.toNat * 0x100 + ord.toNat * 0x40 + scope.toNat * 0x4 + b1 uns * 0x2 + b1 sz) (by decide) gd.isLt ga.isLt gb.isLt hlo
  have hy := y_R y 0x41 gd.toNat ga.toNat la gb.toNat lb (place.toNat * 0x100 + ord.toNat * 0x40 + scope.toNat * 0x4 + b1 uns * 0x2 + b1 sz) (by decide) gd.isLt ga.isLt gb.isLt hlo
  have hl := low_R y 0x41 gd.toNat ga.toNat la gb.toNat lb (place.toNat * 0x100 + ord.toNat * 0x40 + scope.toNat * 0x4 + b1 uns * 0x2 + b1 sz) hlo
  have a20 := at20_R y 0x41 gd.toNat ga.toNat la gb.toNat lb (place.toNat * 0x100 + ord.toNat * 0x40 + scope.toNat * 0x4 + b1 uns * 0x2 + b1 sz) gd.isLt ga.isLt gb.isLt hlo
  have a16 := at16_R y 0x41 gd.toNat ga.toNat la gb.toNat lb (place.toNat * 0x100 + ord.toNat * 0x40 + scope.toNat * 0x4 + b1 uns * 0x2 + b1 sz) ga.isLt gb.isLt hlo
  have a15 := at15_R y 0x41 gd.toNat ga.toNat la gb.toNat lb (place.toNat * 0x100 + ord.toNat * 0x40 + scope.toNat * 0x4 + b1 uns * 0x2 + b1 sz) gb.isLt hlo
  have a11 := at11_R y 0x41 gd.toNat ga.toNat la gb.toNat lb (place.toNat * 0x100 + ord.toNat * 0x40 + scope.toNat * 0x4 + b1 uns * 0x2 + b1 sz) gb.isLt hlo
  have a10 := at10_R y 0x41 gd.toNat ga.toNat la gb.toNat lb (place.toNat * 0x100 + ord.toNat * 0x40 + scope.toNat * 0x4 + b1 uns * 0x2 + b1 sz) hlo
  generalize encR y 0x41 gd.toNat ga.toNat la gb.toNat lb (place.toNat * 0x100 + ord.toNat * 0x40 + scope.toNat * 0x4 + b1 uns * 0x2 + b1 sz) = w at *
  have e1 : fB w 31 = y := fB_eq _ _ _ (hy)
  have e2 : fV w 20 4 = gd := fV_eq _ _ _ _ (a20)
  have e3 : fV w 16 4 = ga := fV_eq _ _ _ _ (a16)
  have e4 : fB w 15 = la := fB_eq _ _ _ (a15)
  have e5 : fV w 11 4 = gb := fV_eq _ _ _ _ (a11)
  have e6 : fB w 10 = lb := fB_eq _ _ _ (a10)
  have e7 : fV w 8 2 = place := fV_eq _ _ _ _ (((field_low _ _ 8 2 10 (by decide) hl)).trans (by omega))
  have e8 : fV w 6 2 = ord := fV_eq _ _ _ _ (((field_low _ _ 6 2 10 (by decide) hl)).trans (by omega))
  have e9 : fV w 2 4 = scope := fV_eq _ _ _ _ (((field_low _ _ 2 4 10 (by decide) hl)).trans (by omega))
  have e10 : fB w 1 = uns := fB_eq _ _ _ (((field_low _ _ 1 1 10 (by decide) hl)).trans (by omega))
  have e11 : fB w 0 = sz := fB_eq _ _ _ (((field_low _ _ 0 1 10 (by decide) hl)).trans (by omega))
  have hM : fN w 24 7 = 0x41 := hm
  rw [at_dec41 w hM]
  simp only [dec41, e1, e2, e3, e4, e5, e6, e7, e8, e9, e10, e11, need, h]
  rfl

theorem amax (y : Bool) (gd : BitVec 4) (ga : BitVec 4) (la : Bool) (gb : BitVec 4) (lb : Bool) (place : BitVec 2) (ord : BitVec 2) (scope : BitVec 4) (uns : Bool) (sz : Bool) : Statement (.amax y gd ga la gb lb place ord scope uns sz) := by
  have q_gd := gd.isLt
  have q_ga := ga.isLt
  have q_gb := gb.isLt
  have q_place := place.isLt
  have q_ord := ord.isLt
  have q_scope := scope.isLt
  have b_y := b1_lt y
  have b_la := b1_lt la
  have b_lb := b1_lt lb
  have b_uns := b1_lt uns
  have b_sz := b1_lt sz
  have hlo : (place.toNat * 0x100 + ord.toNat * 0x40 + scope.toNat * 0x4 + b1 uns * 0x2 + b1 sz) < 1024 := by omega
  refine of_number _ (encR y 0x42 gd.toNat ga.toNat la gb.toNat lb (place.toNat * 0x100 + ord.toNat * 0x40 + scope.toNat * 0x4 + b1 uns * 0x2 + b1 sz)) rfl (lt_R y 0x42 gd.toNat ga.toNat la gb.toNat lb (place.toNat * 0x100 + ord.toNat * 0x40 + scope.toNat * 0x4 + b1 uns * 0x2 + b1 sz) (by decide) gd.isLt ga.isLt gb.isLt hlo) fun h => ?_
  have hm := maj_R y 0x42 gd.toNat ga.toNat la gb.toNat lb (place.toNat * 0x100 + ord.toNat * 0x40 + scope.toNat * 0x4 + b1 uns * 0x2 + b1 sz) (by decide) gd.isLt ga.isLt gb.isLt hlo
  have hy := y_R y 0x42 gd.toNat ga.toNat la gb.toNat lb (place.toNat * 0x100 + ord.toNat * 0x40 + scope.toNat * 0x4 + b1 uns * 0x2 + b1 sz) (by decide) gd.isLt ga.isLt gb.isLt hlo
  have hl := low_R y 0x42 gd.toNat ga.toNat la gb.toNat lb (place.toNat * 0x100 + ord.toNat * 0x40 + scope.toNat * 0x4 + b1 uns * 0x2 + b1 sz) hlo
  have a20 := at20_R y 0x42 gd.toNat ga.toNat la gb.toNat lb (place.toNat * 0x100 + ord.toNat * 0x40 + scope.toNat * 0x4 + b1 uns * 0x2 + b1 sz) gd.isLt ga.isLt gb.isLt hlo
  have a16 := at16_R y 0x42 gd.toNat ga.toNat la gb.toNat lb (place.toNat * 0x100 + ord.toNat * 0x40 + scope.toNat * 0x4 + b1 uns * 0x2 + b1 sz) ga.isLt gb.isLt hlo
  have a15 := at15_R y 0x42 gd.toNat ga.toNat la gb.toNat lb (place.toNat * 0x100 + ord.toNat * 0x40 + scope.toNat * 0x4 + b1 uns * 0x2 + b1 sz) gb.isLt hlo
  have a11 := at11_R y 0x42 gd.toNat ga.toNat la gb.toNat lb (place.toNat * 0x100 + ord.toNat * 0x40 + scope.toNat * 0x4 + b1 uns * 0x2 + b1 sz) gb.isLt hlo
  have a10 := at10_R y 0x42 gd.toNat ga.toNat la gb.toNat lb (place.toNat * 0x100 + ord.toNat * 0x40 + scope.toNat * 0x4 + b1 uns * 0x2 + b1 sz) hlo
  generalize encR y 0x42 gd.toNat ga.toNat la gb.toNat lb (place.toNat * 0x100 + ord.toNat * 0x40 + scope.toNat * 0x4 + b1 uns * 0x2 + b1 sz) = w at *
  have e1 : fB w 31 = y := fB_eq _ _ _ (hy)
  have e2 : fV w 20 4 = gd := fV_eq _ _ _ _ (a20)
  have e3 : fV w 16 4 = ga := fV_eq _ _ _ _ (a16)
  have e4 : fB w 15 = la := fB_eq _ _ _ (a15)
  have e5 : fV w 11 4 = gb := fV_eq _ _ _ _ (a11)
  have e6 : fB w 10 = lb := fB_eq _ _ _ (a10)
  have e7 : fV w 8 2 = place := fV_eq _ _ _ _ (((field_low _ _ 8 2 10 (by decide) hl)).trans (by omega))
  have e8 : fV w 6 2 = ord := fV_eq _ _ _ _ (((field_low _ _ 6 2 10 (by decide) hl)).trans (by omega))
  have e9 : fV w 2 4 = scope := fV_eq _ _ _ _ (((field_low _ _ 2 4 10 (by decide) hl)).trans (by omega))
  have e10 : fB w 1 = uns := fB_eq _ _ _ (((field_low _ _ 1 1 10 (by decide) hl)).trans (by omega))
  have e11 : fB w 0 = sz := fB_eq _ _ _ (((field_low _ _ 0 1 10 (by decide) hl)).trans (by omega))
  have hM : fN w 24 7 = 0x42 := hm
  rw [at_dec42 w hM]
  simp only [dec42, e1, e2, e3, e4, e5, e6, e7, e8, e9, e10, e11, need, h]
  rfl

theorem aand (y : Bool) (gd : BitVec 4) (ga : BitVec 4) (la : Bool) (gb : BitVec 4) (lb : Bool) (place : BitVec 2) (ord : BitVec 2) (scope : BitVec 4) (sz : Bool) : Statement (.aand y gd ga la gb lb place ord scope sz) := by
  have q_gd := gd.isLt
  have q_ga := ga.isLt
  have q_gb := gb.isLt
  have q_place := place.isLt
  have q_ord := ord.isLt
  have q_scope := scope.isLt
  have b_y := b1_lt y
  have b_la := b1_lt la
  have b_lb := b1_lt lb
  have b_sz := b1_lt sz
  have hlo : (place.toNat * 0x100 + ord.toNat * 0x40 + scope.toNat * 0x4 + b1 sz) < 1024 := by omega
  refine of_number _ (encR y 0x43 gd.toNat ga.toNat la gb.toNat lb (place.toNat * 0x100 + ord.toNat * 0x40 + scope.toNat * 0x4 + b1 sz)) rfl (lt_R y 0x43 gd.toNat ga.toNat la gb.toNat lb (place.toNat * 0x100 + ord.toNat * 0x40 + scope.toNat * 0x4 + b1 sz) (by decide) gd.isLt ga.isLt gb.isLt hlo) fun h => ?_
  have hm := maj_R y 0x43 gd.toNat ga.toNat la gb.toNat lb (place.toNat * 0x100 + ord.toNat * 0x40 + scope.toNat * 0x4 + b1 sz) (by decide) gd.isLt ga.isLt gb.isLt hlo
  have hy := y_R y 0x43 gd.toNat ga.toNat la gb.toNat lb (place.toNat * 0x100 + ord.toNat * 0x40 + scope.toNat * 0x4 + b1 sz) (by decide) gd.isLt ga.isLt gb.isLt hlo
  have hl := low_R y 0x43 gd.toNat ga.toNat la gb.toNat lb (place.toNat * 0x100 + ord.toNat * 0x40 + scope.toNat * 0x4 + b1 sz) hlo
  have a20 := at20_R y 0x43 gd.toNat ga.toNat la gb.toNat lb (place.toNat * 0x100 + ord.toNat * 0x40 + scope.toNat * 0x4 + b1 sz) gd.isLt ga.isLt gb.isLt hlo
  have a16 := at16_R y 0x43 gd.toNat ga.toNat la gb.toNat lb (place.toNat * 0x100 + ord.toNat * 0x40 + scope.toNat * 0x4 + b1 sz) ga.isLt gb.isLt hlo
  have a15 := at15_R y 0x43 gd.toNat ga.toNat la gb.toNat lb (place.toNat * 0x100 + ord.toNat * 0x40 + scope.toNat * 0x4 + b1 sz) gb.isLt hlo
  have a11 := at11_R y 0x43 gd.toNat ga.toNat la gb.toNat lb (place.toNat * 0x100 + ord.toNat * 0x40 + scope.toNat * 0x4 + b1 sz) gb.isLt hlo
  have a10 := at10_R y 0x43 gd.toNat ga.toNat la gb.toNat lb (place.toNat * 0x100 + ord.toNat * 0x40 + scope.toNat * 0x4 + b1 sz) hlo
  generalize encR y 0x43 gd.toNat ga.toNat la gb.toNat lb (place.toNat * 0x100 + ord.toNat * 0x40 + scope.toNat * 0x4 + b1 sz) = w at *
  have e1 : fN w 1 1 = 0 := ((field_low _ _ 1 1 10 (by decide) hl)).trans (by omega)
  have e2 : fB w 31 = y := fB_eq _ _ _ (hy)
  have e3 : fV w 20 4 = gd := fV_eq _ _ _ _ (a20)
  have e4 : fV w 16 4 = ga := fV_eq _ _ _ _ (a16)
  have e5 : fB w 15 = la := fB_eq _ _ _ (a15)
  have e6 : fV w 11 4 = gb := fV_eq _ _ _ _ (a11)
  have e7 : fB w 10 = lb := fB_eq _ _ _ (a10)
  have e8 : fV w 8 2 = place := fV_eq _ _ _ _ (((field_low _ _ 8 2 10 (by decide) hl)).trans (by omega))
  have e9 : fV w 6 2 = ord := fV_eq _ _ _ _ (((field_low _ _ 6 2 10 (by decide) hl)).trans (by omega))
  have e10 : fV w 2 4 = scope := fV_eq _ _ _ _ (((field_low _ _ 2 4 10 (by decide) hl)).trans (by omega))
  have e11 : fB w 0 = sz := fB_eq _ _ _ (((field_low _ _ 0 1 10 (by decide) hl)).trans (by omega))
  have hM : fN w 24 7 = 0x43 := hm
  rw [at_dec43 w hM]
  simp only [dec43, e1, e2, e3, e4, e5, e6, e7, e8, e9, e10, e11, need, h]
  rfl

theorem aor (y : Bool) (gd : BitVec 4) (ga : BitVec 4) (la : Bool) (gb : BitVec 4) (lb : Bool) (place : BitVec 2) (ord : BitVec 2) (scope : BitVec 4) (sz : Bool) : Statement (.aor y gd ga la gb lb place ord scope sz) := by
  have q_gd := gd.isLt
  have q_ga := ga.isLt
  have q_gb := gb.isLt
  have q_place := place.isLt
  have q_ord := ord.isLt
  have q_scope := scope.isLt
  have b_y := b1_lt y
  have b_la := b1_lt la
  have b_lb := b1_lt lb
  have b_sz := b1_lt sz
  have hlo : (place.toNat * 0x100 + ord.toNat * 0x40 + scope.toNat * 0x4 + b1 sz) < 1024 := by omega
  refine of_number _ (encR y 0x44 gd.toNat ga.toNat la gb.toNat lb (place.toNat * 0x100 + ord.toNat * 0x40 + scope.toNat * 0x4 + b1 sz)) rfl (lt_R y 0x44 gd.toNat ga.toNat la gb.toNat lb (place.toNat * 0x100 + ord.toNat * 0x40 + scope.toNat * 0x4 + b1 sz) (by decide) gd.isLt ga.isLt gb.isLt hlo) fun h => ?_
  have hm := maj_R y 0x44 gd.toNat ga.toNat la gb.toNat lb (place.toNat * 0x100 + ord.toNat * 0x40 + scope.toNat * 0x4 + b1 sz) (by decide) gd.isLt ga.isLt gb.isLt hlo
  have hy := y_R y 0x44 gd.toNat ga.toNat la gb.toNat lb (place.toNat * 0x100 + ord.toNat * 0x40 + scope.toNat * 0x4 + b1 sz) (by decide) gd.isLt ga.isLt gb.isLt hlo
  have hl := low_R y 0x44 gd.toNat ga.toNat la gb.toNat lb (place.toNat * 0x100 + ord.toNat * 0x40 + scope.toNat * 0x4 + b1 sz) hlo
  have a20 := at20_R y 0x44 gd.toNat ga.toNat la gb.toNat lb (place.toNat * 0x100 + ord.toNat * 0x40 + scope.toNat * 0x4 + b1 sz) gd.isLt ga.isLt gb.isLt hlo
  have a16 := at16_R y 0x44 gd.toNat ga.toNat la gb.toNat lb (place.toNat * 0x100 + ord.toNat * 0x40 + scope.toNat * 0x4 + b1 sz) ga.isLt gb.isLt hlo
  have a15 := at15_R y 0x44 gd.toNat ga.toNat la gb.toNat lb (place.toNat * 0x100 + ord.toNat * 0x40 + scope.toNat * 0x4 + b1 sz) gb.isLt hlo
  have a11 := at11_R y 0x44 gd.toNat ga.toNat la gb.toNat lb (place.toNat * 0x100 + ord.toNat * 0x40 + scope.toNat * 0x4 + b1 sz) gb.isLt hlo
  have a10 := at10_R y 0x44 gd.toNat ga.toNat la gb.toNat lb (place.toNat * 0x100 + ord.toNat * 0x40 + scope.toNat * 0x4 + b1 sz) hlo
  generalize encR y 0x44 gd.toNat ga.toNat la gb.toNat lb (place.toNat * 0x100 + ord.toNat * 0x40 + scope.toNat * 0x4 + b1 sz) = w at *
  have e1 : fN w 1 1 = 0 := ((field_low _ _ 1 1 10 (by decide) hl)).trans (by omega)
  have e2 : fB w 31 = y := fB_eq _ _ _ (hy)
  have e3 : fV w 20 4 = gd := fV_eq _ _ _ _ (a20)
  have e4 : fV w 16 4 = ga := fV_eq _ _ _ _ (a16)
  have e5 : fB w 15 = la := fB_eq _ _ _ (a15)
  have e6 : fV w 11 4 = gb := fV_eq _ _ _ _ (a11)
  have e7 : fB w 10 = lb := fB_eq _ _ _ (a10)
  have e8 : fV w 8 2 = place := fV_eq _ _ _ _ (((field_low _ _ 8 2 10 (by decide) hl)).trans (by omega))
  have e9 : fV w 6 2 = ord := fV_eq _ _ _ _ (((field_low _ _ 6 2 10 (by decide) hl)).trans (by omega))
  have e10 : fV w 2 4 = scope := fV_eq _ _ _ _ (((field_low _ _ 2 4 10 (by decide) hl)).trans (by omega))
  have e11 : fB w 0 = sz := fB_eq _ _ _ (((field_low _ _ 0 1 10 (by decide) hl)).trans (by omega))
  have hM : fN w 24 7 = 0x44 := hm
  rw [at_dec44 w hM]
  simp only [dec44, e1, e2, e3, e4, e5, e6, e7, e8, e9, e10, e11, need, h]
  rfl

theorem axch (y : Bool) (gd : BitVec 4) (ga : BitVec 4) (la : Bool) (gb : BitVec 4) (lb : Bool) (place : BitVec 2) (ord : BitVec 2) (scope : BitVec 4) (sz : Bool) : Statement (.axch y gd ga la gb lb place ord scope sz) := by
  have q_gd := gd.isLt
  have q_ga := ga.isLt
  have q_gb := gb.isLt
  have q_place := place.isLt
  have q_ord := ord.isLt
  have q_scope := scope.isLt
  have b_y := b1_lt y
  have b_la := b1_lt la
  have b_lb := b1_lt lb
  have b_sz := b1_lt sz
  have hlo : (place.toNat * 0x100 + ord.toNat * 0x40 + scope.toNat * 0x4 + b1 sz) < 1024 := by omega
  refine of_number _ (encR y 0x45 gd.toNat ga.toNat la gb.toNat lb (place.toNat * 0x100 + ord.toNat * 0x40 + scope.toNat * 0x4 + b1 sz)) rfl (lt_R y 0x45 gd.toNat ga.toNat la gb.toNat lb (place.toNat * 0x100 + ord.toNat * 0x40 + scope.toNat * 0x4 + b1 sz) (by decide) gd.isLt ga.isLt gb.isLt hlo) fun h => ?_
  have hm := maj_R y 0x45 gd.toNat ga.toNat la gb.toNat lb (place.toNat * 0x100 + ord.toNat * 0x40 + scope.toNat * 0x4 + b1 sz) (by decide) gd.isLt ga.isLt gb.isLt hlo
  have hy := y_R y 0x45 gd.toNat ga.toNat la gb.toNat lb (place.toNat * 0x100 + ord.toNat * 0x40 + scope.toNat * 0x4 + b1 sz) (by decide) gd.isLt ga.isLt gb.isLt hlo
  have hl := low_R y 0x45 gd.toNat ga.toNat la gb.toNat lb (place.toNat * 0x100 + ord.toNat * 0x40 + scope.toNat * 0x4 + b1 sz) hlo
  have a20 := at20_R y 0x45 gd.toNat ga.toNat la gb.toNat lb (place.toNat * 0x100 + ord.toNat * 0x40 + scope.toNat * 0x4 + b1 sz) gd.isLt ga.isLt gb.isLt hlo
  have a16 := at16_R y 0x45 gd.toNat ga.toNat la gb.toNat lb (place.toNat * 0x100 + ord.toNat * 0x40 + scope.toNat * 0x4 + b1 sz) ga.isLt gb.isLt hlo
  have a15 := at15_R y 0x45 gd.toNat ga.toNat la gb.toNat lb (place.toNat * 0x100 + ord.toNat * 0x40 + scope.toNat * 0x4 + b1 sz) gb.isLt hlo
  have a11 := at11_R y 0x45 gd.toNat ga.toNat la gb.toNat lb (place.toNat * 0x100 + ord.toNat * 0x40 + scope.toNat * 0x4 + b1 sz) gb.isLt hlo
  have a10 := at10_R y 0x45 gd.toNat ga.toNat la gb.toNat lb (place.toNat * 0x100 + ord.toNat * 0x40 + scope.toNat * 0x4 + b1 sz) hlo
  generalize encR y 0x45 gd.toNat ga.toNat la gb.toNat lb (place.toNat * 0x100 + ord.toNat * 0x40 + scope.toNat * 0x4 + b1 sz) = w at *
  have e1 : fN w 1 1 = 0 := ((field_low _ _ 1 1 10 (by decide) hl)).trans (by omega)
  have e2 : fB w 31 = y := fB_eq _ _ _ (hy)
  have e3 : fV w 20 4 = gd := fV_eq _ _ _ _ (a20)
  have e4 : fV w 16 4 = ga := fV_eq _ _ _ _ (a16)
  have e5 : fB w 15 = la := fB_eq _ _ _ (a15)
  have e6 : fV w 11 4 = gb := fV_eq _ _ _ _ (a11)
  have e7 : fB w 10 = lb := fB_eq _ _ _ (a10)
  have e8 : fV w 8 2 = place := fV_eq _ _ _ _ (((field_low _ _ 8 2 10 (by decide) hl)).trans (by omega))
  have e9 : fV w 6 2 = ord := fV_eq _ _ _ _ (((field_low _ _ 6 2 10 (by decide) hl)).trans (by omega))
  have e10 : fV w 2 4 = scope := fV_eq _ _ _ _ (((field_low _ _ 2 4 10 (by decide) hl)).trans (by omega))
  have e11 : fB w 0 = sz := fB_eq _ _ _ (((field_low _ _ 0 1 10 (by decide) hl)).trans (by omega))
  have hM : fN w 24 7 = 0x45 := hm
  rw [at_dec45 w hM]
  simp only [dec45, e1, e2, e3, e4, e5, e6, e7, e8, e9, e10, e11, need, h]
  rfl

theorem acas (y : Bool) (gd : BitVec 4) (ga : BitVec 4) (la : Bool) (gb : BitVec 4) (lb : Bool) (place : BitVec 2) (ord : BitVec 2) (scope : BitVec 4) (sz : Bool) : Statement (.acas y gd ga la gb lb place ord scope sz) := by
  have q_gd := gd.isLt
  have q_ga := ga.isLt
  have q_gb := gb.isLt
  have q_place := place.isLt
  have q_ord := ord.isLt
  have q_scope := scope.isLt
  have b_y := b1_lt y
  have b_la := b1_lt la
  have b_lb := b1_lt lb
  have b_sz := b1_lt sz
  have hlo : (place.toNat * 0x100 + ord.toNat * 0x40 + scope.toNat * 0x4 + b1 sz) < 1024 := by omega
  refine of_number _ (encR y 0x46 gd.toNat ga.toNat la gb.toNat lb (place.toNat * 0x100 + ord.toNat * 0x40 + scope.toNat * 0x4 + b1 sz)) rfl (lt_R y 0x46 gd.toNat ga.toNat la gb.toNat lb (place.toNat * 0x100 + ord.toNat * 0x40 + scope.toNat * 0x4 + b1 sz) (by decide) gd.isLt ga.isLt gb.isLt hlo) fun h => ?_
  have hm := maj_R y 0x46 gd.toNat ga.toNat la gb.toNat lb (place.toNat * 0x100 + ord.toNat * 0x40 + scope.toNat * 0x4 + b1 sz) (by decide) gd.isLt ga.isLt gb.isLt hlo
  have hy := y_R y 0x46 gd.toNat ga.toNat la gb.toNat lb (place.toNat * 0x100 + ord.toNat * 0x40 + scope.toNat * 0x4 + b1 sz) (by decide) gd.isLt ga.isLt gb.isLt hlo
  have hl := low_R y 0x46 gd.toNat ga.toNat la gb.toNat lb (place.toNat * 0x100 + ord.toNat * 0x40 + scope.toNat * 0x4 + b1 sz) hlo
  have a20 := at20_R y 0x46 gd.toNat ga.toNat la gb.toNat lb (place.toNat * 0x100 + ord.toNat * 0x40 + scope.toNat * 0x4 + b1 sz) gd.isLt ga.isLt gb.isLt hlo
  have a16 := at16_R y 0x46 gd.toNat ga.toNat la gb.toNat lb (place.toNat * 0x100 + ord.toNat * 0x40 + scope.toNat * 0x4 + b1 sz) ga.isLt gb.isLt hlo
  have a15 := at15_R y 0x46 gd.toNat ga.toNat la gb.toNat lb (place.toNat * 0x100 + ord.toNat * 0x40 + scope.toNat * 0x4 + b1 sz) gb.isLt hlo
  have a11 := at11_R y 0x46 gd.toNat ga.toNat la gb.toNat lb (place.toNat * 0x100 + ord.toNat * 0x40 + scope.toNat * 0x4 + b1 sz) gb.isLt hlo
  have a10 := at10_R y 0x46 gd.toNat ga.toNat la gb.toNat lb (place.toNat * 0x100 + ord.toNat * 0x40 + scope.toNat * 0x4 + b1 sz) hlo
  generalize encR y 0x46 gd.toNat ga.toNat la gb.toNat lb (place.toNat * 0x100 + ord.toNat * 0x40 + scope.toNat * 0x4 + b1 sz) = w at *
  have e1 : fN w 1 1 = 0 := ((field_low _ _ 1 1 10 (by decide) hl)).trans (by omega)
  have e2 : fB w 31 = y := fB_eq _ _ _ (hy)
  have e3 : fV w 20 4 = gd := fV_eq _ _ _ _ (a20)
  have e4 : fV w 16 4 = ga := fV_eq _ _ _ _ (a16)
  have e5 : fB w 15 = la := fB_eq _ _ _ (a15)
  have e6 : fV w 11 4 = gb := fV_eq _ _ _ _ (a11)
  have e7 : fB w 10 = lb := fB_eq _ _ _ (a10)
  have e8 : fV w 8 2 = place := fV_eq _ _ _ _ (((field_low _ _ 8 2 10 (by decide) hl)).trans (by omega))
  have e9 : fV w 6 2 = ord := fV_eq _ _ _ _ (((field_low _ _ 6 2 10 (by decide) hl)).trans (by omega))
  have e10 : fV w 2 4 = scope := fV_eq _ _ _ _ (((field_low _ _ 2 4 10 (by decide) hl)).trans (by omega))
  have e11 : fB w 0 = sz := fB_eq _ _ _ (((field_low _ _ 0 1 10 (by decide) hl)).trans (by omega))
  have hM : fN w 24 7 = 0x46 := hm
  rw [at_dec46 w hM]
  simp only [dec46, e1, e2, e3, e4, e5, e6, e7, e8, e9, e10, e11, need, h]
  rfl

theorem adecp (y : Bool) (gd : BitVec 4) (ga : BitVec 4) (la : Bool) (place : BitVec 2) (ord : BitVec 2) (scope : BitVec 4) (sz : Bool) : Statement (.adecp y gd ga la place ord scope sz) := by
  have q_gd := gd.isLt
  have q_ga := ga.isLt
  have q_place := place.isLt
  have q_ord := ord.isLt
  have q_scope := scope.isLt
  have b_y := b1_lt y
  have b_la := b1_lt la
  have b_sz := b1_lt sz
  have hlo : (place.toNat * 0x100 + ord.toNat * 0x40 + scope.toNat * 0x4 + b1 sz) < 1024 := by omega
  refine of_number _ (encR y 0x47 gd.toNat ga.toNat la 0 false (place.toNat * 0x100 + ord.toNat * 0x40 + scope.toNat * 0x4 + b1 sz)) rfl (lt_R y 0x47 gd.toNat ga.toNat la 0 false (place.toNat * 0x100 + ord.toNat * 0x40 + scope.toNat * 0x4 + b1 sz) (by decide) gd.isLt ga.isLt (by decide) hlo) fun h => ?_
  have hm := maj_R y 0x47 gd.toNat ga.toNat la 0 false (place.toNat * 0x100 + ord.toNat * 0x40 + scope.toNat * 0x4 + b1 sz) (by decide) gd.isLt ga.isLt (by decide) hlo
  have hy := y_R y 0x47 gd.toNat ga.toNat la 0 false (place.toNat * 0x100 + ord.toNat * 0x40 + scope.toNat * 0x4 + b1 sz) (by decide) gd.isLt ga.isLt (by decide) hlo
  have hl := low_R y 0x47 gd.toNat ga.toNat la 0 false (place.toNat * 0x100 + ord.toNat * 0x40 + scope.toNat * 0x4 + b1 sz) hlo
  have a11 := at11_R y 0x47 gd.toNat ga.toNat la 0 false (place.toNat * 0x100 + ord.toNat * 0x40 + scope.toNat * 0x4 + b1 sz) (by decide) hlo
  have a10 := at10_R y 0x47 gd.toNat ga.toNat la 0 false (place.toNat * 0x100 + ord.toNat * 0x40 + scope.toNat * 0x4 + b1 sz) hlo
  have a20 := at20_R y 0x47 gd.toNat ga.toNat la 0 false (place.toNat * 0x100 + ord.toNat * 0x40 + scope.toNat * 0x4 + b1 sz) gd.isLt ga.isLt (by decide) hlo
  have a16 := at16_R y 0x47 gd.toNat ga.toNat la 0 false (place.toNat * 0x100 + ord.toNat * 0x40 + scope.toNat * 0x4 + b1 sz) ga.isLt (by decide) hlo
  have a15 := at15_R y 0x47 gd.toNat ga.toNat la 0 false (place.toNat * 0x100 + ord.toNat * 0x40 + scope.toNat * 0x4 + b1 sz) (by decide) hlo
  generalize encR y 0x47 gd.toNat ga.toNat la 0 false (place.toNat * 0x100 + ord.toNat * 0x40 + scope.toNat * 0x4 + b1 sz) = w at *
  have e1 : fN w 1 1 = 0x0 := ((field_low _ _ 1 1 10 (by decide) hl)).trans (by omega)
  have e2 : fN w 11 4 = 0 := a11
  have e3 : fN w 10 1 = 0 := a10
  have e4 : fB w 31 = y := fB_eq _ _ _ (hy)
  have e5 : fV w 20 4 = gd := fV_eq _ _ _ _ (a20)
  have e6 : fV w 16 4 = ga := fV_eq _ _ _ _ (a16)
  have e7 : fB w 15 = la := fB_eq _ _ _ (a15)
  have e8 : fV w 8 2 = place := fV_eq _ _ _ _ (((field_low _ _ 8 2 10 (by decide) hl)).trans (by omega))
  have e9 : fV w 6 2 = ord := fV_eq _ _ _ _ (((field_low _ _ 6 2 10 (by decide) hl)).trans (by omega))
  have e10 : fV w 2 4 = scope := fV_eq _ _ _ _ (((field_low _ _ 2 4 10 (by decide) hl)).trans (by omega))
  have e11 : fB w 0 = sz := fB_eq _ _ _ (((field_low _ _ 0 1 10 (by decide) hl)).trans (by omega))
  have hM : fN w 24 7 = 0x47 := hm
  rw [at_dec47 w hM]
  simp only [dec47, e1, e2, e3, e4, e5, e6, e7, e8, e9, e10, e11, need, h]
  rfl

theorem aincb (y : Bool) (gd : BitVec 4) (ga : BitVec 4) (la : Bool) (gb : BitVec 4) (lb : Bool) (place : BitVec 2) (ord : BitVec 2) (scope : BitVec 4) (sz : Bool) : Statement (.aincb y gd ga la gb lb place ord scope sz) := by
  have q_gd := gd.isLt
  have q_ga := ga.isLt
  have q_gb := gb.isLt
  have q_place := place.isLt
  have q_ord := ord.isLt
  have q_scope := scope.isLt
  have b_y := b1_lt y
  have b_la := b1_lt la
  have b_lb := b1_lt lb
  have b_sz := b1_lt sz
  have hlo : (place.toNat * 0x100 + ord.toNat * 0x40 + scope.toNat * 0x4 + b1 sz + 2) < 1024 := by omega
  refine of_number _ (encR y 0x47 gd.toNat ga.toNat la gb.toNat lb (place.toNat * 0x100 + ord.toNat * 0x40 + scope.toNat * 0x4 + b1 sz + 2)) rfl (lt_R y 0x47 gd.toNat ga.toNat la gb.toNat lb (place.toNat * 0x100 + ord.toNat * 0x40 + scope.toNat * 0x4 + b1 sz + 2) (by decide) gd.isLt ga.isLt gb.isLt hlo) fun h => ?_
  have hm := maj_R y 0x47 gd.toNat ga.toNat la gb.toNat lb (place.toNat * 0x100 + ord.toNat * 0x40 + scope.toNat * 0x4 + b1 sz + 2) (by decide) gd.isLt ga.isLt gb.isLt hlo
  have hy := y_R y 0x47 gd.toNat ga.toNat la gb.toNat lb (place.toNat * 0x100 + ord.toNat * 0x40 + scope.toNat * 0x4 + b1 sz + 2) (by decide) gd.isLt ga.isLt gb.isLt hlo
  have hl := low_R y 0x47 gd.toNat ga.toNat la gb.toNat lb (place.toNat * 0x100 + ord.toNat * 0x40 + scope.toNat * 0x4 + b1 sz + 2) hlo
  have a20 := at20_R y 0x47 gd.toNat ga.toNat la gb.toNat lb (place.toNat * 0x100 + ord.toNat * 0x40 + scope.toNat * 0x4 + b1 sz + 2) gd.isLt ga.isLt gb.isLt hlo
  have a16 := at16_R y 0x47 gd.toNat ga.toNat la gb.toNat lb (place.toNat * 0x100 + ord.toNat * 0x40 + scope.toNat * 0x4 + b1 sz + 2) ga.isLt gb.isLt hlo
  have a15 := at15_R y 0x47 gd.toNat ga.toNat la gb.toNat lb (place.toNat * 0x100 + ord.toNat * 0x40 + scope.toNat * 0x4 + b1 sz + 2) gb.isLt hlo
  have a11 := at11_R y 0x47 gd.toNat ga.toNat la gb.toNat lb (place.toNat * 0x100 + ord.toNat * 0x40 + scope.toNat * 0x4 + b1 sz + 2) gb.isLt hlo
  have a10 := at10_R y 0x47 gd.toNat ga.toNat la gb.toNat lb (place.toNat * 0x100 + ord.toNat * 0x40 + scope.toNat * 0x4 + b1 sz + 2) hlo
  generalize encR y 0x47 gd.toNat ga.toNat la gb.toNat lb (place.toNat * 0x100 + ord.toNat * 0x40 + scope.toNat * 0x4 + b1 sz + 2) = w at *
  have e1 : fN w 1 1 = 0x1 := ((field_low _ _ 1 1 10 (by decide) hl)).trans (by omega)
  have e2 : fB w 31 = y := fB_eq _ _ _ (hy)
  have e3 : fV w 20 4 = gd := fV_eq _ _ _ _ (a20)
  have e4 : fV w 16 4 = ga := fV_eq _ _ _ _ (a16)
  have e5 : fB w 15 = la := fB_eq _ _ _ (a15)
  have e6 : fV w 11 4 = gb := fV_eq _ _ _ _ (a11)
  have e7 : fB w 10 = lb := fB_eq _ _ _ (a10)
  have e8 : fV w 8 2 = place := fV_eq _ _ _ _ (((field_low _ _ 8 2 10 (by decide) hl)).trans (by omega))
  have e9 : fV w 6 2 = ord := fV_eq _ _ _ _ (((field_low _ _ 6 2 10 (by decide) hl)).trans (by omega))
  have e10 : fV w 2 4 = scope := fV_eq _ _ _ _ (((field_low _ _ 2 4 10 (by decide) hl)).trans (by omega))
  have e11 : fB w 0 = sz := fB_eq _ _ _ (((field_low _ _ 0 1 10 (by decide) hl)).trans (by omega))
  have hM : fN w 24 7 = 0x47 := hm
  rw [at_dec47 w hM]
  simp only [dec47, e1, e2, e3, e4, e5, e6, e7, e8, e9, e10, e11, need, h]
  rfl

theorem fence (y : Bool) (scope : BitVec 4) : Statement (.fence y scope) := by
  have q_scope := scope.isLt
  have b_y := b1_lt y
  have hlo : scope.toNat < 1024 := by omega
  refine of_number _ (encR y 0x48 0 0 false 0 false scope.toNat) rfl (lt_R y 0x48 0 0 false 0 false scope.toNat (by decide) (by decide) (by decide) (by decide) hlo) fun h => ?_
  have hm := maj_R y 0x48 0 0 false 0 false scope.toNat (by decide) (by decide) (by decide) (by decide) hlo
  have hy := y_R y 0x48 0 0 false 0 false scope.toNat (by decide) (by decide) (by decide) (by decide) hlo
  have hl := low_R y 0x48 0 0 false 0 false scope.toNat hlo
  have a20 := at20_R y 0x48 0 0 false 0 false scope.toNat (by decide) (by decide) (by decide) hlo
  have a16 := at16_R y 0x48 0 0 false 0 false scope.toNat (by decide) (by decide) hlo
  have a15 := at15_R y 0x48 0 0 false 0 false scope.toNat (by decide) hlo
  have a11 := at11_R y 0x48 0 0 false 0 false scope.toNat (by decide) hlo
  have a10 := at10_R y 0x48 0 0 false 0 false scope.toNat hlo
  generalize encR y 0x48 0 0 false 0 false scope.toNat = w at *
  have e1 : fN w 20 4 = 0 := a20
  have e2 : fN w 16 4 = 0 := a16
  have e3 : fN w 15 1 = 0 := a15
  have e4 : fN w 11 4 = 0 := a11
  have e5 : fN w 10 1 = 0 := a10
  have e6 : fN w 4 6 = 0 := ((field_low _ _ 4 6 10 (by decide) hl)).trans (by omega)
  have e7 : fB w 31 = y := fB_eq _ _ _ (hy)
  have e8 : fV w 0 4 = scope := fV_eq _ _ _ _ (((field_low _ _ 0 4 10 (by decide) hl)).trans (by omega))
  have hM : fN w 24 7 = 0x48 := hm
  rw [at_dec48 w hM]
  simp only [dec48, e1, e2, e3, e4, e5, e6, e7, e8, need, h]
  rfl

theorem waita (y : Bool) (gd : BitVec 4) (ga : BitVec 4) (la : Bool) (gb : BitVec 4) (lb : Bool) (word4 : Bool) : Statement (.waita y gd ga la gb lb word4) := by
  have q_gd := gd.isLt
  have q_ga := ga.isLt
  have q_gb := gb.isLt
  have b_y := b1_lt y
  have b_la := b1_lt la
  have b_lb := b1_lt lb
  have b_word4 := b1_lt word4
  have hlo : (b1 word4) < 1024 := by omega
  refine of_number _ (encR y 0x49 gd.toNat ga.toNat la gb.toNat lb (b1 word4)) rfl (lt_R y 0x49 gd.toNat ga.toNat la gb.toNat lb (b1 word4) (by decide) gd.isLt ga.isLt gb.isLt hlo) fun h => ?_
  have hm := maj_R y 0x49 gd.toNat ga.toNat la gb.toNat lb (b1 word4) (by decide) gd.isLt ga.isLt gb.isLt hlo
  have hy := y_R y 0x49 gd.toNat ga.toNat la gb.toNat lb (b1 word4) (by decide) gd.isLt ga.isLt gb.isLt hlo
  have hl := low_R y 0x49 gd.toNat ga.toNat la gb.toNat lb (b1 word4) hlo
  have a20 := at20_R y 0x49 gd.toNat ga.toNat la gb.toNat lb (b1 word4) gd.isLt ga.isLt gb.isLt hlo
  have a16 := at16_R y 0x49 gd.toNat ga.toNat la gb.toNat lb (b1 word4) ga.isLt gb.isLt hlo
  have a15 := at15_R y 0x49 gd.toNat ga.toNat la gb.toNat lb (b1 word4) gb.isLt hlo
  have a11 := at11_R y 0x49 gd.toNat ga.toNat la gb.toNat lb (b1 word4) gb.isLt hlo
  have a10 := at10_R y 0x49 gd.toNat ga.toNat la gb.toNat lb (b1 word4) hlo
  generalize encR y 0x49 gd.toNat ga.toNat la gb.toNat lb (b1 word4) = w at *
  have e1 : fN w 1 9 = 0 := ((field_low _ _ 1 9 10 (by decide) hl)).trans (by omega)
  have e2 : fB w 31 = y := fB_eq _ _ _ (hy)
  have e3 : fV w 20 4 = gd := fV_eq _ _ _ _ (a20)
  have e4 : fV w 16 4 = ga := fV_eq _ _ _ _ (a16)
  have e5 : fB w 15 = la := fB_eq _ _ _ (a15)
  have e6 : fV w 11 4 = gb := fV_eq _ _ _ _ (a11)
  have e7 : fB w 10 = lb := fB_eq _ _ _ (a10)
  have e8 : fB w 0 = word4 := fB_eq _ _ _ (((field_low _ _ 0 1 10 (by decide) hl)).trans (by omega))
  have hM : fN w 24 7 = 0x49 := hm
  rw [at_dec49 w hM]
  simp only [dec49, e1, e2, e3, e4, e5, e6, e7, e8, need, h]
  rfl

theorem notify (y : Bool) (gd : BitVec 4) (ga : BitVec 4) (la : Bool) (all : Bool) : Statement (.notify y gd ga la all) := by
  have q_gd := gd.isLt
  have q_ga := ga.isLt
  have b_y := b1_lt y
  have b_la := b1_lt la
  have b_all := b1_lt all
  have hlo : (b1 all) < 1024 := by omega
  refine of_number _ (encR y 0x4A gd.toNat ga.toNat la 0 false (b1 all)) rfl (lt_R y 0x4A gd.toNat ga.toNat la 0 false (b1 all) (by decide) gd.isLt ga.isLt (by decide) hlo) fun h => ?_
  have hm := maj_R y 0x4A gd.toNat ga.toNat la 0 false (b1 all) (by decide) gd.isLt ga.isLt (by decide) hlo
  have hy := y_R y 0x4A gd.toNat ga.toNat la 0 false (b1 all) (by decide) gd.isLt ga.isLt (by decide) hlo
  have hl := low_R y 0x4A gd.toNat ga.toNat la 0 false (b1 all) hlo
  have a11 := at11_R y 0x4A gd.toNat ga.toNat la 0 false (b1 all) (by decide) hlo
  have a10 := at10_R y 0x4A gd.toNat ga.toNat la 0 false (b1 all) hlo
  have a20 := at20_R y 0x4A gd.toNat ga.toNat la 0 false (b1 all) gd.isLt ga.isLt (by decide) hlo
  have a16 := at16_R y 0x4A gd.toNat ga.toNat la 0 false (b1 all) ga.isLt (by decide) hlo
  have a15 := at15_R y 0x4A gd.toNat ga.toNat la 0 false (b1 all) (by decide) hlo
  generalize encR y 0x4A gd.toNat ga.toNat la 0 false (b1 all) = w at *
  have e1 : fN w 11 4 = 0 := a11
  have e2 : fN w 10 1 = 0 := a10
  have e3 : fN w 1 9 = 0 := ((field_low _ _ 1 9 10 (by decide) hl)).trans (by omega)
  have e4 : fB w 31 = y := fB_eq _ _ _ (hy)
  have e5 : fV w 20 4 = gd := fV_eq _ _ _ _ (a20)
  have e6 : fV w 16 4 = ga := fV_eq _ _ _ _ (a16)
  have e7 : fB w 15 = la := fB_eq _ _ _ (a15)
  have e8 : fB w 0 = all := fB_eq _ _ _ (((field_low _ _ 0 1 10 (by decide) hl)).trans (by omega))
  have hM : fN w 24 7 = 0x4A := hm
  rw [at_dec4A w hM]
  simp only [dec4A, e1, e2, e3, e4, e5, e6, e7, e8, need, h]
  rfl

theorem barr (y : Bool) (gd : BitVec 4) (ga : BitVec 4) (la : Bool) (comb : BitVec 2) : Statement (.barr y gd ga la comb) := by
  have q_gd := gd.isLt
  have q_ga := ga.isLt
  have q_comb := comb.isLt
  have b_y := b1_lt y
  have b_la := b1_lt la
  have hlo : comb.toNat < 1024 := by omega
  refine of_number _ (encR y 0x4B gd.toNat ga.toNat la 0 false comb.toNat) rfl (lt_R y 0x4B gd.toNat ga.toNat la 0 false comb.toNat (by decide) gd.isLt ga.isLt (by decide) hlo) fun h => ?_
  have hm := maj_R y 0x4B gd.toNat ga.toNat la 0 false comb.toNat (by decide) gd.isLt ga.isLt (by decide) hlo
  have hy := y_R y 0x4B gd.toNat ga.toNat la 0 false comb.toNat (by decide) gd.isLt ga.isLt (by decide) hlo
  have hl := low_R y 0x4B gd.toNat ga.toNat la 0 false comb.toNat hlo
  have a11 := at11_R y 0x4B gd.toNat ga.toNat la 0 false comb.toNat (by decide) hlo
  have a10 := at10_R y 0x4B gd.toNat ga.toNat la 0 false comb.toNat hlo
  have a20 := at20_R y 0x4B gd.toNat ga.toNat la 0 false comb.toNat gd.isLt ga.isLt (by decide) hlo
  have a16 := at16_R y 0x4B gd.toNat ga.toNat la 0 false comb.toNat ga.isLt (by decide) hlo
  have a15 := at15_R y 0x4B gd.toNat ga.toNat la 0 false comb.toNat (by decide) hlo
  generalize encR y 0x4B gd.toNat ga.toNat la 0 false comb.toNat = w at *
  have e1 : fN w 11 4 = 0 := a11
  have e2 : fN w 10 1 = 0 := a10
  have e3 : fN w 2 8 = 0 := ((field_low _ _ 2 8 10 (by decide) hl)).trans (by omega)
  have e4 : fB w 31 = y := fB_eq _ _ _ (hy)
  have e5 : fV w 20 4 = gd := fV_eq _ _ _ _ (a20)
  have e6 : fV w 16 4 = ga := fV_eq _ _ _ _ (a16)
  have e7 : fB w 15 = la := fB_eq _ _ _ (a15)
  have e8 : fV w 0 2 = comb := fV_eq _ _ _ _ (((field_low _ _ 0 2 10 (by decide) hl)).trans (by omega))
  have hM : fN w 24 7 = 0x4B := hm
  rw [at_dec4B w hM]
  simp only [dec4B, e1, e2, e3, e4, e5, e6, e7, e8, need, h]
  rfl

theorem barj (y : Bool) (gd : BitVec 4) (ga : BitVec 4) (la : Bool) (comb : BitVec 2) : Statement (.barj y gd ga la comb) := by
  have q_gd := gd.isLt
  have q_ga := ga.isLt
  have q_comb := comb.isLt
  have b_y := b1_lt y
  have b_la := b1_lt la
  have hlo : comb.toNat < 1024 := by omega
  refine of_number _ (encR y 0x4C gd.toNat ga.toNat la 0 false comb.toNat) rfl (lt_R y 0x4C gd.toNat ga.toNat la 0 false comb.toNat (by decide) gd.isLt ga.isLt (by decide) hlo) fun h => ?_
  have hm := maj_R y 0x4C gd.toNat ga.toNat la 0 false comb.toNat (by decide) gd.isLt ga.isLt (by decide) hlo
  have hy := y_R y 0x4C gd.toNat ga.toNat la 0 false comb.toNat (by decide) gd.isLt ga.isLt (by decide) hlo
  have hl := low_R y 0x4C gd.toNat ga.toNat la 0 false comb.toNat hlo
  have a11 := at11_R y 0x4C gd.toNat ga.toNat la 0 false comb.toNat (by decide) hlo
  have a10 := at10_R y 0x4C gd.toNat ga.toNat la 0 false comb.toNat hlo
  have a20 := at20_R y 0x4C gd.toNat ga.toNat la 0 false comb.toNat gd.isLt ga.isLt (by decide) hlo
  have a16 := at16_R y 0x4C gd.toNat ga.toNat la 0 false comb.toNat ga.isLt (by decide) hlo
  have a15 := at15_R y 0x4C gd.toNat ga.toNat la 0 false comb.toNat (by decide) hlo
  generalize encR y 0x4C gd.toNat ga.toNat la 0 false comb.toNat = w at *
  have e1 : fN w 11 4 = 0 := a11
  have e2 : fN w 10 1 = 0 := a10
  have e3 : fN w 2 8 = 0 := ((field_low _ _ 2 8 10 (by decide) hl)).trans (by omega)
  have e4 : fB w 31 = y := fB_eq _ _ _ (hy)
  have e5 : fV w 20 4 = gd := fV_eq _ _ _ _ (a20)
  have e6 : fV w 16 4 = ga := fV_eq _ _ _ _ (a16)
  have e7 : fB w 15 = la := fB_eq _ _ _ (a15)
  have e8 : fV w 0 2 = comb := fV_eq _ _ _ _ (((field_low _ _ 0 2 10 (by decide) hl)).trans (by omega))
  have hM : fN w 24 7 = 0x4C := hm
  rw [at_dec4C w hM]
  simp only [dec4C, e1, e2, e3, e4, e5, e6, e7, e8, need, h]
  rfl

theorem scopeset (y : Bool) (ga : BitVec 4) (la : Bool) (n : BitVec 3) : Statement (.scopeset y ga la n) := by
  have q_ga := ga.isLt
  have q_n := n.isLt
  have b_y := b1_lt y
  have b_la := b1_lt la
  have hlo : n.toNat < 1024 := by omega
  refine of_number _ (encR y 0x4D 0 ga.toNat la 0 false n.toNat) rfl (lt_R y 0x4D 0 ga.toNat la 0 false n.toNat (by decide) (by decide) ga.isLt (by decide) hlo) fun h => ?_
  have hm := maj_R y 0x4D 0 ga.toNat la 0 false n.toNat (by decide) (by decide) ga.isLt (by decide) hlo
  have hy := y_R y 0x4D 0 ga.toNat la 0 false n.toNat (by decide) (by decide) ga.isLt (by decide) hlo
  have hl := low_R y 0x4D 0 ga.toNat la 0 false n.toNat hlo
  have a20 := at20_R y 0x4D 0 ga.toNat la 0 false n.toNat (by decide) ga.isLt (by decide) hlo
  have a11 := at11_R y 0x4D 0 ga.toNat la 0 false n.toNat (by decide) hlo
  have a10 := at10_R y 0x4D 0 ga.toNat la 0 false n.toNat hlo
  have a16 := at16_R y 0x4D 0 ga.toNat la 0 false n.toNat ga.isLt (by decide) hlo
  have a15 := at15_R y 0x4D 0 ga.toNat la 0 false n.toNat (by decide) hlo
  generalize encR y 0x4D 0 ga.toNat la 0 false n.toNat = w at *
  have e1 : fN w 20 4 = 0 := a20
  have e2 : fN w 11 4 = 0 := a11
  have e3 : fN w 10 1 = 0 := a10
  have e4 : fN w 3 7 = 0 := ((field_low _ _ 3 7 10 (by decide) hl)).trans (by omega)
  have e5 : fB w 31 = y := fB_eq _ _ _ (hy)
  have e6 : fV w 16 4 = ga := fV_eq _ _ _ _ (a16)
  have e7 : fB w 15 = la := fB_eq _ _ _ (a15)
  have e8 : fV w 0 3 = n := fV_eq _ _ _ _ (((field_low _ _ 0 3 10 (by decide) hl)).trans (by omega))
  have hM : fN w 24 7 = 0x4D := hm
  rw [at_dec4D w hM]
  simp only [dec4D, e1, e2, e3, e4, e5, e6, e7, e8, need, h]
  rfl

theorem launch (y : Bool) (gd : BitVec 4) (ga : BitVec 4) (la : Bool) : Statement (.launch y gd ga la) := by
  have q_gd := gd.isLt
  have q_ga := ga.isLt
  have b_y := b1_lt y
  have b_la := b1_lt la
  refine of_number _ (encR y 0x4E gd.toNat ga.toNat la 0 false 0) rfl (lt_R y 0x4E gd.toNat ga.toNat la 0 false 0 (by decide) gd.isLt ga.isLt (by decide) (by decide)) fun h => ?_
  have hm := maj_R y 0x4E gd.toNat ga.toNat la 0 false 0 (by decide) gd.isLt ga.isLt (by decide) (by decide)
  have hy := y_R y 0x4E gd.toNat ga.toNat la 0 false 0 (by decide) gd.isLt ga.isLt (by decide) (by decide)
  have hl := low_R y 0x4E gd.toNat ga.toNat la 0 false 0 (by decide)
  have a11 := at11_R y 0x4E gd.toNat ga.toNat la 0 false 0 (by decide) (by decide)
  have a10 := at10_R y 0x4E gd.toNat ga.toNat la 0 false 0 (by decide)
  have a20 := at20_R y 0x4E gd.toNat ga.toNat la 0 false 0 gd.isLt ga.isLt (by decide) (by decide)
  have a16 := at16_R y 0x4E gd.toNat ga.toNat la 0 false 0 ga.isLt (by decide) (by decide)
  have a15 := at15_R y 0x4E gd.toNat ga.toNat la 0 false 0 (by decide) (by decide)
  generalize encR y 0x4E gd.toNat ga.toNat la 0 false 0 = w at *
  have e1 : fN w 11 4 = 0 := a11
  have e2 : fN w 10 1 = 0 := a10
  have e3 : fN w 0 10 = 0 := ((field_low _ _ 0 10 10 (by decide) hl)).trans (by omega)
  have e4 : fB w 31 = y := fB_eq _ _ _ (hy)
  have e5 : fV w 20 4 = gd := fV_eq _ _ _ _ (a20)
  have e6 : fV w 16 4 = ga := fV_eq _ _ _ _ (a16)
  have e7 : fB w 15 = la := fB_eq _ _ _ (a15)
  have hM : fN w 24 7 = 0x4E := hm
  rw [at_dec4E w hM]
  simp only [dec4E, e1, e2, e3, e4, e5, e6, e7, need, h]
  rfl

theorem nop (y : Bool) : Statement (.nop y) := by
  have b_y := b1_lt y
  refine of_number _ (encR y 0x50 0 0 false 0 false 0) rfl (lt_R y 0x50 0 0 false 0 false 0 (by decide) (by decide) (by decide) (by decide) (by decide)) fun h => ?_
  have hm := maj_R y 0x50 0 0 false 0 false 0 (by decide) (by decide) (by decide) (by decide) (by decide)
  have hy := y_R y 0x50 0 0 false 0 false 0 (by decide) (by decide) (by decide) (by decide) (by decide)
  have hl := low_R y 0x50 0 0 false 0 false 0 (by decide)
  have a20 := at20_R y 0x50 0 0 false 0 false 0 (by decide) (by decide) (by decide) (by decide)
  have a16 := at16_R y 0x50 0 0 false 0 false 0 (by decide) (by decide) (by decide)
  have a15 := at15_R y 0x50 0 0 false 0 false 0 (by decide) (by decide)
  have a11 := at11_R y 0x50 0 0 false 0 false 0 (by decide) (by decide)
  have a10 := at10_R y 0x50 0 0 false 0 false 0 (by decide)
  generalize encR y 0x50 0 0 false 0 false 0 = w at *
  have e1 : fN w 0 4 = 0x0 := ((field_low _ _ 0 4 10 (by decide) hl)).trans (by omega)
  have e2 : fN w 20 4 = 0 := a20
  have e3 : fN w 16 4 = 0 := a16
  have e4 : fN w 15 1 = 0 := a15
  have e5 : fN w 11 4 = 0 := a11
  have e6 : fN w 10 1 = 0 := a10
  have e7 : fN w 4 6 = 0 := ((field_low _ _ 4 6 10 (by decide) hl)).trans (by omega)
  have e8 : fB w 31 = y := fB_eq _ _ _ (hy)
  have hM : fN w 24 7 = 0x50 := hm
  rw [at_dec50 w hM]
  simp only [dec50, e1, e2, e3, e4, e5, e6, e7, e8, need, h]
  rfl

theorem trap (y : Bool) (n : BitVec 6) : Statement (.trap y n) := by
  have q_n := n.isLt
  have b_y := b1_lt y
  have hlo : (n.toNat * 0x10 + 1) < 1024 := by omega
  refine of_number _ (encR y 0x50 0 0 false 0 false (n.toNat * 0x10 + 1)) rfl (lt_R y 0x50 0 0 false 0 false (n.toNat * 0x10 + 1) (by decide) (by decide) (by decide) (by decide) hlo) fun h => ?_
  have hm := maj_R y 0x50 0 0 false 0 false (n.toNat * 0x10 + 1) (by decide) (by decide) (by decide) (by decide) hlo
  have hy := y_R y 0x50 0 0 false 0 false (n.toNat * 0x10 + 1) (by decide) (by decide) (by decide) (by decide) hlo
  have hl := low_R y 0x50 0 0 false 0 false (n.toNat * 0x10 + 1) hlo
  have a20 := at20_R y 0x50 0 0 false 0 false (n.toNat * 0x10 + 1) (by decide) (by decide) (by decide) hlo
  have a16 := at16_R y 0x50 0 0 false 0 false (n.toNat * 0x10 + 1) (by decide) (by decide) hlo
  have a15 := at15_R y 0x50 0 0 false 0 false (n.toNat * 0x10 + 1) (by decide) hlo
  have a11 := at11_R y 0x50 0 0 false 0 false (n.toNat * 0x10 + 1) (by decide) hlo
  have a10 := at10_R y 0x50 0 0 false 0 false (n.toNat * 0x10 + 1) hlo
  generalize encR y 0x50 0 0 false 0 false (n.toNat * 0x10 + 1) = w at *
  have e1 : fN w 0 4 = 0x1 := ((field_low _ _ 0 4 10 (by decide) hl)).trans (by omega)
  have e2 : fN w 20 4 = 0 := a20
  have e3 : fN w 16 4 = 0 := a16
  have e4 : fN w 15 1 = 0 := a15
  have e5 : fN w 11 4 = 0 := a11
  have e6 : fN w 10 1 = 0 := a10
  have e7 : fB w 31 = y := fB_eq _ _ _ (hy)
  have e8 : fV w 4 6 = n := fV_eq _ _ _ _ (((field_low _ _ 4 6 10 (by decide) hl)).trans (by omega))
  have hM : fN w 24 7 = 0x50 := hm
  rw [at_dec50 w hM]
  simp only [dec50, e1, e2, e3, e4, e5, e6, e7, e8, need, h]
  rfl

theorem eret (y : Bool) : Statement (.eret y) := by
  have b_y := b1_lt y
  refine of_number _ (encR y 0x50 0 0 false 0 false 2) rfl (lt_R y 0x50 0 0 false 0 false 2 (by decide) (by decide) (by decide) (by decide) (by decide)) fun h => ?_
  have hm := maj_R y 0x50 0 0 false 0 false 2 (by decide) (by decide) (by decide) (by decide) (by decide)
  have hy := y_R y 0x50 0 0 false 0 false 2 (by decide) (by decide) (by decide) (by decide) (by decide)
  have hl := low_R y 0x50 0 0 false 0 false 2 (by decide)
  have a20 := at20_R y 0x50 0 0 false 0 false 2 (by decide) (by decide) (by decide) (by decide)
  have a16 := at16_R y 0x50 0 0 false 0 false 2 (by decide) (by decide) (by decide)
  have a15 := at15_R y 0x50 0 0 false 0 false 2 (by decide) (by decide)
  have a11 := at11_R y 0x50 0 0 false 0 false 2 (by decide) (by decide)
  have a10 := at10_R y 0x50 0 0 false 0 false 2 (by decide)
  generalize encR y 0x50 0 0 false 0 false 2 = w at *
  have e1 : fN w 0 4 = 0x2 := ((field_low _ _ 0 4 10 (by decide) hl)).trans (by omega)
  have e2 : fN w 20 4 = 0 := a20
  have e3 : fN w 16 4 = 0 := a16
  have e4 : fN w 15 1 = 0 := a15
  have e5 : fN w 11 4 = 0 := a11
  have e6 : fN w 10 1 = 0 := a10
  have e7 : fN w 4 6 = 0 := ((field_low _ _ 4 6 10 (by decide) hl)).trans (by omega)
  have e8 : fB w 31 = y := fB_eq _ _ _ (hy)
  have hM : fN w 24 7 = 0x50 := hm
  rw [at_dec50 w hM]
  simp only [dec50, e1, e2, e3, e4, e5, e6, e7, e8, need, h]
  rfl

theorem hcall (y : Bool) (n : BitVec 6) : Statement (.hcall y n) := by
  have q_n := n.isLt
  have b_y := b1_lt y
  have hlo : (n.toNat * 0x10 + 3) < 1024 := by omega
  refine of_number _ (encR y 0x50 0 0 false 0 false (n.toNat * 0x10 + 3)) rfl (lt_R y 0x50 0 0 false 0 false (n.toNat * 0x10 + 3) (by decide) (by decide) (by decide) (by decide) hlo) fun h => ?_
  have hm := maj_R y 0x50 0 0 false 0 false (n.toNat * 0x10 + 3) (by decide) (by decide) (by decide) (by decide) hlo
  have hy := y_R y 0x50 0 0 false 0 false (n.toNat * 0x10 + 3) (by decide) (by decide) (by decide) (by decide) hlo
  have hl := low_R y 0x50 0 0 false 0 false (n.toNat * 0x10 + 3) hlo
  have a20 := at20_R y 0x50 0 0 false 0 false (n.toNat * 0x10 + 3) (by decide) (by decide) (by decide) hlo
  have a16 := at16_R y 0x50 0 0 false 0 false (n.toNat * 0x10 + 3) (by decide) (by decide) hlo
  have a15 := at15_R y 0x50 0 0 false 0 false (n.toNat * 0x10 + 3) (by decide) hlo
  have a11 := at11_R y 0x50 0 0 false 0 false (n.toNat * 0x10 + 3) (by decide) hlo
  have a10 := at10_R y 0x50 0 0 false 0 false (n.toNat * 0x10 + 3) hlo
  generalize encR y 0x50 0 0 false 0 false (n.toNat * 0x10 + 3) = w at *
  have e1 : fN w 0 4 = 0x3 := ((field_low _ _ 0 4 10 (by decide) hl)).trans (by omega)
  have e2 : fN w 20 4 = 0 := a20
  have e3 : fN w 16 4 = 0 := a16
  have e4 : fN w 15 1 = 0 := a15
  have e5 : fN w 11 4 = 0 := a11
  have e6 : fN w 10 1 = 0 := a10
  have e7 : fB w 31 = y := fB_eq _ _ _ (hy)
  have e8 : fV w 4 6 = n := fV_eq _ _ _ _ (((field_low _ _ 4 6 10 (by decide) hl)).trans (by omega))
  have hM : fN w 24 7 = 0x50 := hm
  rw [at_dec50 w hM]
  simp only [dec50, e1, e2, e3, e4, e5, e6, e7, e8, need, h]
  rfl

theorem tlbinv (y : Bool) (ga : BitVec 4) (la : Bool) (mode : BitVec 2) (scope : BitVec 4) : Statement (.tlbinv y ga la mode scope) := by
  have q_ga := ga.isLt
  have q_mode := mode.isLt
  have q_scope := scope.isLt
  have b_y := b1_lt y
  have b_la := b1_lt la
  have hlo : (mode.toNat * 0x100 + scope.toNat * 0x10 + 4) < 1024 := by omega
  refine of_number _ (encR y 0x50 0 ga.toNat la 0 false (mode.toNat * 0x100 + scope.toNat * 0x10 + 4)) rfl (lt_R y 0x50 0 ga.toNat la 0 false (mode.toNat * 0x100 + scope.toNat * 0x10 + 4) (by decide) (by decide) ga.isLt (by decide) hlo) fun h => ?_
  have hm := maj_R y 0x50 0 ga.toNat la 0 false (mode.toNat * 0x100 + scope.toNat * 0x10 + 4) (by decide) (by decide) ga.isLt (by decide) hlo
  have hy := y_R y 0x50 0 ga.toNat la 0 false (mode.toNat * 0x100 + scope.toNat * 0x10 + 4) (by decide) (by decide) ga.isLt (by decide) hlo
  have hl := low_R y 0x50 0 ga.toNat la 0 false (mode.toNat * 0x100 + scope.toNat * 0x10 + 4) hlo
  have a20 := at20_R y 0x50 0 ga.toNat la 0 false (mode.toNat * 0x100 + scope.toNat * 0x10 + 4) (by decide) ga.isLt (by decide) hlo
  have a11 := at11_R y 0x50 0 ga.toNat la 0 false (mode.toNat * 0x100 + scope.toNat * 0x10 + 4) (by decide) hlo
  have a10 := at10_R y 0x50 0 ga.toNat la 0 false (mode.toNat * 0x100 + scope.toNat * 0x10 + 4) hlo
  have a16 := at16_R y 0x50 0 ga.toNat la 0 false (mode.toNat * 0x100 + scope.toNat * 0x10 + 4) ga.isLt (by decide) hlo
  have a15 := at15_R y 0x50 0 ga.toNat la 0 false (mode.toNat * 0x100 + scope.toNat * 0x10 + 4) (by decide) hlo
  generalize encR y 0x50 0 ga.toNat la 0 false (mode.toNat * 0x100 + scope.toNat * 0x10 + 4) = w at *
  have e1 : fN w 0 4 = 0x4 := ((field_low _ _ 0 4 10 (by decide) hl)).trans (by omega)
  have e2 : fN w 20 4 = 0 := a20
  have e3 : fN w 11 4 = 0 := a11
  have e4 : fN w 10 1 = 0 := a10
  have e5 : fB w 31 = y := fB_eq _ _ _ (hy)
  have e6 : fV w 16 4 = ga := fV_eq _ _ _ _ (a16)
  have e7 : fB w 15 = la := fB_eq _ _ _ (a15)
  have e8 : fV w 8 2 = mode := fV_eq _ _ _ _ (((field_low _ _ 8 2 10 (by decide) hl)).trans (by omega))
  have e9 : fV w 4 4 = scope := fV_eq _ _ _ _ (((field_low _ _ 4 4 10 (by decide) hl)).trans (by omega))
  have hM : fN w 24 7 = 0x50 := hm
  rw [at_dec50 w hM]
  simp only [dec50, e1, e2, e3, e4, e5, e6, e7, e8, e9, need, h]
  rfl

theorem cacheop (y : Bool) (ga : BitVec 4) (la : Bool) (op : BitVec 6) : Statement (.cacheop y ga la op) := by
  have q_ga := ga.isLt
  have q_op := op.isLt
  have b_y := b1_lt y
  have b_la := b1_lt la
  have hlo : (op.toNat * 0x10 + 5) < 1024 := by omega
  refine of_number _ (encR y 0x50 0 ga.toNat la 0 false (op.toNat * 0x10 + 5)) rfl (lt_R y 0x50 0 ga.toNat la 0 false (op.toNat * 0x10 + 5) (by decide) (by decide) ga.isLt (by decide) hlo) fun h => ?_
  have hm := maj_R y 0x50 0 ga.toNat la 0 false (op.toNat * 0x10 + 5) (by decide) (by decide) ga.isLt (by decide) hlo
  have hy := y_R y 0x50 0 ga.toNat la 0 false (op.toNat * 0x10 + 5) (by decide) (by decide) ga.isLt (by decide) hlo
  have hl := low_R y 0x50 0 ga.toNat la 0 false (op.toNat * 0x10 + 5) hlo
  have a20 := at20_R y 0x50 0 ga.toNat la 0 false (op.toNat * 0x10 + 5) (by decide) ga.isLt (by decide) hlo
  have a11 := at11_R y 0x50 0 ga.toNat la 0 false (op.toNat * 0x10 + 5) (by decide) hlo
  have a10 := at10_R y 0x50 0 ga.toNat la 0 false (op.toNat * 0x10 + 5) hlo
  have a16 := at16_R y 0x50 0 ga.toNat la 0 false (op.toNat * 0x10 + 5) ga.isLt (by decide) hlo
  have a15 := at15_R y 0x50 0 ga.toNat la 0 false (op.toNat * 0x10 + 5) (by decide) hlo
  generalize encR y 0x50 0 ga.toNat la 0 false (op.toNat * 0x10 + 5) = w at *
  have e1 : fN w 0 4 = 0x5 := ((field_low _ _ 0 4 10 (by decide) hl)).trans (by omega)
  have e2 : fN w 20 4 = 0 := a20
  have e3 : fN w 11 4 = 0 := a11
  have e4 : fN w 10 1 = 0 := a10
  have e5 : fB w 31 = y := fB_eq _ _ _ (hy)
  have e6 : fV w 16 4 = ga := fV_eq _ _ _ _ (a16)
  have e7 : fB w 15 = la := fB_eq _ _ _ (a15)
  have e8 : fV w 4 6 = op := fV_eq _ _ _ _ (((field_low _ _ 4 6 10 (by decide) hl)).trans (by omega))
  have hM : fN w 24 7 = 0x50 := hm
  rw [at_dec50 w hM]
  simp only [dec50, e1, e2, e3, e4, e5, e6, e7, e8, need, h]
  rfl

theorem imgsave (y : Bool) (ga : BitVec 4) (la : Bool) : Statement (.imgsave y ga la) := by
  have q_ga := ga.isLt
  have b_y := b1_lt y
  have b_la := b1_lt la
  refine of_number _ (encR y 0x50 0 ga.toNat la 0 false 6) rfl (lt_R y 0x50 0 ga.toNat la 0 false 6 (by decide) (by decide) ga.isLt (by decide) (by decide)) fun h => ?_
  have hm := maj_R y 0x50 0 ga.toNat la 0 false 6 (by decide) (by decide) ga.isLt (by decide) (by decide)
  have hy := y_R y 0x50 0 ga.toNat la 0 false 6 (by decide) (by decide) ga.isLt (by decide) (by decide)
  have hl := low_R y 0x50 0 ga.toNat la 0 false 6 (by decide)
  have a20 := at20_R y 0x50 0 ga.toNat la 0 false 6 (by decide) ga.isLt (by decide) (by decide)
  have a11 := at11_R y 0x50 0 ga.toNat la 0 false 6 (by decide) (by decide)
  have a10 := at10_R y 0x50 0 ga.toNat la 0 false 6 (by decide)
  have a16 := at16_R y 0x50 0 ga.toNat la 0 false 6 ga.isLt (by decide) (by decide)
  have a15 := at15_R y 0x50 0 ga.toNat la 0 false 6 (by decide) (by decide)
  generalize encR y 0x50 0 ga.toNat la 0 false 6 = w at *
  have e1 : fN w 0 4 = 0x6 := ((field_low _ _ 0 4 10 (by decide) hl)).trans (by omega)
  have e2 : fN w 20 4 = 0 := a20
  have e3 : fN w 11 4 = 0 := a11
  have e4 : fN w 10 1 = 0 := a10
  have e5 : fN w 4 6 = 0 := ((field_low _ _ 4 6 10 (by decide) hl)).trans (by omega)
  have e6 : fB w 31 = y := fB_eq _ _ _ (hy)
  have e7 : fV w 16 4 = ga := fV_eq _ _ _ _ (a16)
  have e8 : fB w 15 = la := fB_eq _ _ _ (a15)
  have hM : fN w 24 7 = 0x50 := hm
  rw [at_dec50 w hM]
  simp only [dec50, e1, e2, e3, e4, e5, e6, e7, e8, need, h]
  rfl

theorem imgload (y : Bool) (ga : BitVec 4) (la : Bool) : Statement (.imgload y ga la) := by
  have q_ga := ga.isLt
  have b_y := b1_lt y
  have b_la := b1_lt la
  refine of_number _ (encR y 0x50 0 ga.toNat la 0 false 7) rfl (lt_R y 0x50 0 ga.toNat la 0 false 7 (by decide) (by decide) ga.isLt (by decide) (by decide)) fun h => ?_
  have hm := maj_R y 0x50 0 ga.toNat la 0 false 7 (by decide) (by decide) ga.isLt (by decide) (by decide)
  have hy := y_R y 0x50 0 ga.toNat la 0 false 7 (by decide) (by decide) ga.isLt (by decide) (by decide)
  have hl := low_R y 0x50 0 ga.toNat la 0 false 7 (by decide)
  have a20 := at20_R y 0x50 0 ga.toNat la 0 false 7 (by decide) ga.isLt (by decide) (by decide)
  have a11 := at11_R y 0x50 0 ga.toNat la 0 false 7 (by decide) (by decide)
  have a10 := at10_R y 0x50 0 ga.toNat la 0 false 7 (by decide)
  have a16 := at16_R y 0x50 0 ga.toNat la 0 false 7 ga.isLt (by decide) (by decide)
  have a15 := at15_R y 0x50 0 ga.toNat la 0 false 7 (by decide) (by decide)
  generalize encR y 0x50 0 ga.toNat la 0 false 7 = w at *
  have e1 : fN w 0 4 = 0x7 := ((field_low _ _ 0 4 10 (by decide) hl)).trans (by omega)
  have e2 : fN w 20 4 = 0 := a20
  have e3 : fN w 11 4 = 0 := a11
  have e4 : fN w 10 1 = 0 := a10
  have e5 : fN w 4 6 = 0 := ((field_low _ _ 4 6 10 (by decide) hl)).trans (by omega)
  have e6 : fB w 31 = y := fB_eq _ _ _ (hy)
  have e7 : fV w 16 4 = ga := fV_eq _ _ _ _ (a16)
  have e8 : fB w 15 = la := fB_eq _ _ _ (a15)
  have hM : fN w 24 7 = 0x50 := hm
  rw [at_dec50 w hM]
  simp only [dec50, e1, e2, e3, e4, e5, e6, e7, e8, need, h]
  rfl

theorem mfs (y : Bool) (gd : BitVec 4) (r : BitVec 6) : Statement (.mfs y gd r) := by
  have q_gd := gd.isLt
  have q_r := r.isLt
  have b_y := b1_lt y
  have hlo : r.toNat < 32768 := by omega
  refine of_number _ (encI y 0x51 gd.toNat 0 false r.toNat) rfl (lt_I y 0x51 gd.toNat 0 false r.toNat (by decide) gd.isLt (by decide) hlo) fun h => ?_
  have hm := maj_I y 0x51 gd.toNat 0 false r.toNat (by decide) gd.isLt (by decide) hlo
  have hy := y_I y 0x51 gd.toNat 0 false r.toNat (by decide) gd.isLt (by decide) hlo
  have hl := low_I y 0x51 gd.toNat 0 false r.toNat hlo
  have a16 := at16_I y 0x51 gd.toNat 0 false r.toNat (by decide) hlo
  have a15 := at15_I y 0x51 gd.toNat 0 false r.toNat hlo
  have a20 := at20_I y 0x51 gd.toNat 0 false r.toNat gd.isLt (by decide) hlo
  generalize encI y 0x51 gd.toNat 0 false r.toNat = w at *
  have e1 : fN w 16 4 = 0 := a16
  have e2 : fN w 15 1 = 0 := a15
  have e3 : fN w 6 9 = 0 := ((field_low _ _ 6 9 15 (by decide) hl)).trans (by omega)
  have e4 : fB w 31 = y := fB_eq _ _ _ (hy)
  have e5 : fV w 20 4 = gd := fV_eq _ _ _ _ (a20)
  have e6 : fV w 0 6 = r := fV_eq _ _ _ _ (((field_low _ _ 0 6 15 (by decide) hl)).trans (by omega))
  have hM : fN w 24 7 = 0x51 := hm
  rw [at_dec51 w hM]
  simp only [dec51, e1, e2, e3, e4, e5, e6, needAssigned, h]
  rfl

theorem mts (y : Bool) (ga : BitVec 4) (la : Bool) (r : BitVec 6) : Statement (.mts y ga la r) := by
  have q_ga := ga.isLt
  have q_r := r.isLt
  have b_y := b1_lt y
  have b_la := b1_lt la
  have hlo : r.toNat < 32768 := by omega
  refine of_number _ (encI y 0x52 0 ga.toNat la r.toNat) rfl (lt_I y 0x52 0 ga.toNat la r.toNat (by decide) (by decide) ga.isLt hlo) fun h => ?_
  have hm := maj_I y 0x52 0 ga.toNat la r.toNat (by decide) (by decide) ga.isLt hlo
  have hy := y_I y 0x52 0 ga.toNat la r.toNat (by decide) (by decide) ga.isLt hlo
  have hl := low_I y 0x52 0 ga.toNat la r.toNat hlo
  have a20 := at20_I y 0x52 0 ga.toNat la r.toNat (by decide) ga.isLt hlo
  have a16 := at16_I y 0x52 0 ga.toNat la r.toNat ga.isLt hlo
  have a15 := at15_I y 0x52 0 ga.toNat la r.toNat hlo
  generalize encI y 0x52 0 ga.toNat la r.toNat = w at *
  have e1 : fN w 20 4 = 0 := a20
  have e2 : fN w 6 9 = 0 := ((field_low _ _ 6 9 15 (by decide) hl)).trans (by omega)
  have e3 : fB w 31 = y := fB_eq _ _ _ (hy)
  have e4 : fV w 16 4 = ga := fV_eq _ _ _ _ (a16)
  have e5 : fB w 15 = la := fB_eq _ _ _ (a15)
  have e6 : fV w 0 6 = r := fV_eq _ _ _ _ (((field_low _ _ 0 6 15 (by decide) hl)).trans (by omega))
  have hM : fN w 24 7 = 0x52 := hm
  rw [at_dec52 w hM]
  simp only [dec52, e1, e2, e3, e4, e5, e6, needAssigned, h]
  rfl

theorem erd (y : Bool) (gd : BitVec 4) (eng : BitVec 4) (r : BitVec 10) : Statement (.erd y gd eng r) := by
  have q_gd := gd.isLt
  have q_eng := eng.isLt
  have q_r := r.isLt
  have b_y := b1_lt y
  have hlo : (eng.toNat * 0x400 + r.toNat) < 32768 := by omega
  refine of_number _ (encI y 0x53 gd.toNat 0 false (eng.toNat * 0x400 + r.toNat)) rfl (lt_I y 0x53 gd.toNat 0 false (eng.toNat * 0x400 + r.toNat) (by decide) gd.isLt (by decide) hlo) fun h => ?_
  have hm := maj_I y 0x53 gd.toNat 0 false (eng.toNat * 0x400 + r.toNat) (by decide) gd.isLt (by decide) hlo
  have hy := y_I y 0x53 gd.toNat 0 false (eng.toNat * 0x400 + r.toNat) (by decide) gd.isLt (by decide) hlo
  have hl := low_I y 0x53 gd.toNat 0 false (eng.toNat * 0x400 + r.toNat) hlo
  have a16 := at16_I y 0x53 gd.toNat 0 false (eng.toNat * 0x400 + r.toNat) (by decide) hlo
  have a15 := at15_I y 0x53 gd.toNat 0 false (eng.toNat * 0x400 + r.toNat) hlo
  have a20 := at20_I y 0x53 gd.toNat 0 false (eng.toNat * 0x400 + r.toNat) gd.isLt (by decide) hlo
  generalize encI y 0x53 gd.toNat 0 false (eng.toNat * 0x400 + r.toNat) = w at *
  have e1 : fN w 16 4 = 0 := a16
  have e2 : fN w 15 1 = 0 := a15
  have e3 : fN w 14 1 = 0 := ((field_low _ _ 14 1 15 (by decide) hl)).trans (by omega)
  have e4 : fB w 31 = y := fB_eq _ _ _ (hy)
  have e5 : fV w 20 4 = gd := fV_eq _ _ _ _ (a20)
  have e6 : fV w 10 4 = eng := fV_eq _ _ _ _ (((field_low _ _ 10 4 15 (by decide) hl)).trans (by omega))
  have e7 : fV w 0 10 = r := fV_eq _ _ _ _ (((field_low _ _ 0 10 15 (by decide) hl)).trans (by omega))
  have hM : fN w 24 7 = 0x53 := hm
  rw [at_dec53 w hM]
  simp only [dec53, e1, e2, e3, e4, e5, e6, e7, needAssigned, h]
  rfl

theorem ewr (y : Bool) (ga : BitVec 4) (la : Bool) (eng : BitVec 4) (r : BitVec 10) : Statement (.ewr y ga la eng r) := by
  have q_ga := ga.isLt
  have q_eng := eng.isLt
  have q_r := r.isLt
  have b_y := b1_lt y
  have b_la := b1_lt la
  refine of_number _ (encX y 0x54 ga.toNat la 0 false eng.toNat r.toNat) rfl (lt_X y 0x54 ga.toNat la 0 false eng.toNat r.toNat (by decide) ga.isLt (by decide) eng.isLt r.isLt) fun h => ?_
  have hm := maj_X y 0x54 ga.toNat la 0 false eng.toNat r.toNat (by decide) ga.isLt (by decide) eng.isLt r.isLt
  have hy := y_X y 0x54 ga.toNat la 0 false eng.toNat r.toNat (by decide) ga.isLt (by decide) eng.isLt r.isLt
  have hl := low_X y 0x54 ga.toNat la 0 false eng.toNat r.toNat r.isLt
  have a15 := at15_X y 0x54 ga.toNat la 0 false eng.toNat r.toNat (by decide) eng.isLt r.isLt
  have a14 := at14_X y 0x54 ga.toNat la 0 false eng.toNat r.toNat eng.isLt r.isLt
  have a20 := at20_X y 0x54 ga.toNat la 0 false eng.toNat r.toNat ga.isLt (by decide) eng.isLt r.isLt
  have a19 := at19_X y 0x54 ga.toNat la 0 false eng.toNat r.toNat (by decide) eng.isLt r.isLt
  have a10 := at10_X y 0x54 ga.toNat la 0 false eng.toNat r.toNat eng.isLt r.isLt
  generalize encX y 0x54 ga.toNat la 0 false eng.toNat r.toNat = w at *
  have e1 : fN w 15 4 = 0 := a15
  have e2 : fN w 14 1 = 0 := a14
  have e3 : fB w 31 = y := fB_eq _ _ _ (hy)
  have e4 : fV w 20 4 = ga := fV_eq _ _ _ _ (a20)
  have e5 : fB w 19 = la := fB_eq _ _ _ (a19)
  have e6 : fV w 10 4 = eng := fV_eq _ _ _ _ (a10)
  have e7 : fV w 0 10 = r := fV_eq _ _ _ _ (((field_low _ _ 0 10 10 (by decide) hl)).trans (by omega))
  have hM : fN w 24 7 = 0x54 := hm
  rw [at_dec54 w hM]
  simp only [dec54, e1, e2, e3, e4, e5, e6, e7, needAssigned, h]
  rfl

theorem fmt (y : Bool) (fa : BitVec 4) (fb : BitVec 4) (fd : BitVec 4) (smode : BitVec 2) (stile : BitVec 6) (fz : Bool) (sat : Bool) : Statement (.fmt y fa fb fd smode stile fz sat) := by
  have q_fa := fa.isLt
  have q_fb := fb.isLt
  have q_fd := fd.isLt
  have q_smode := smode.isLt
  have q_stile := stile.isLt
  have b_y := b1_lt y
  have b_fz := b1_lt fz
  have b_sat := b1_lt sat
  have hlo : (fa.toNat * 0x100000 + fb.toNat * 0x10000 + fd.toNat * 0x1000 + smode.toNat * 0x400 + stile.toNat * 0x10 + b1 fz * 0x8 + b1 sat * 0x4) < 16777216 := by omega
  refine of_number _ (encP y 0x58 (fa.toNat * 0x100000 + fb.toNat * 0x10000 + fd.toNat * 0x1000 + smode.toNat * 0x400 + stile.toNat * 0x10 + b1 fz * 0x8 + b1 sat * 0x4)) rfl (lt_P y 0x58 (fa.toNat * 0x100000 + fb.toNat * 0x10000 + fd.toNat * 0x1000 + smode.toNat * 0x400 + stile.toNat * 0x10 + b1 fz * 0x8 + b1 sat * 0x4) (by decide) hlo) fun h => ?_
  have hm := maj_P y 0x58 (fa.toNat * 0x100000 + fb.toNat * 0x10000 + fd.toNat * 0x1000 + smode.toNat * 0x400 + stile.toNat * 0x10 + b1 fz * 0x8 + b1 sat * 0x4) (by decide) hlo
  have hy := y_P y 0x58 (fa.toNat * 0x100000 + fb.toNat * 0x10000 + fd.toNat * 0x1000 + smode.toNat * 0x400 + stile.toNat * 0x10 + b1 fz * 0x8 + b1 sat * 0x4) (by decide) hlo
  have hl := low_P y 0x58 (fa.toNat * 0x100000 + fb.toNat * 0x10000 + fd.toNat * 0x1000 + smode.toNat * 0x400 + stile.toNat * 0x10 + b1 fz * 0x8 + b1 sat * 0x4) hlo
  generalize encP y 0x58 (fa.toNat * 0x100000 + fb.toNat * 0x10000 + fd.toNat * 0x1000 + smode.toNat * 0x400 + stile.toNat * 0x10 + b1 fz * 0x8 + b1 sat * 0x4) = w at *
  have e1 : fN w 0 2 = 0 := ((field_low _ _ 0 2 24 (by decide) hl)).trans (by omega)
  have e2 : fB w 31 = y := fB_eq _ _ _ (hy)
  have e3 : fV w 20 4 = fa := fV_eq _ _ _ _ (((field_low _ _ 20 4 24 (by decide) hl)).trans (by omega))
  have e4 : fV w 16 4 = fb := fV_eq _ _ _ _ (((field_low _ _ 16 4 24 (by decide) hl)).trans (by omega))
  have e5 : fV w 12 4 = fd := fV_eq _ _ _ _ (((field_low _ _ 12 4 24 (by decide) hl)).trans (by omega))
  have e6 : fV w 10 2 = smode := fV_eq _ _ _ _ (((field_low _ _ 10 2 24 (by decide) hl)).trans (by omega))
  have e7 : fV w 4 6 = stile := fV_eq _ _ _ _ (((field_low _ _ 4 6 24 (by decide) hl)).trans (by omega))
  have e8 : fB w 3 = fz := fB_eq _ _ _ (((field_low _ _ 3 1 24 (by decide) hl)).trans (by omega))
  have e9 : fB w 2 = sat := fB_eq _ _ _ (((field_low _ _ 2 1 24 (by decide) hl)).trans (by omega))
  have hM : fN w 24 7 = 0x58 := hm
  rw [at_dec58 w hM]
  simp only [dec58, e1, e2, e3, e4, e5, e6, e7, e8, e9, need, h]
  rfl

theorem vadd (y : Bool) (td : BitVec 6) (ta : BitVec 6) (tb : BitVec 6) : Statement (.vadd y td ta tb) := by
  have q_td := td.isLt
  have q_ta := ta.isLt
  have q_tb := tb.isLt
  have b_y := b1_lt y
  refine of_number _ (encT y 0x60 td.toNat ta.toNat tb.toNat 0) rfl (lt_T y 0x60 td.toNat ta.toNat tb.toNat 0 (by decide) td.isLt ta.isLt tb.isLt (by decide)) fun h => ?_
  have hm := maj_T y 0x60 td.toNat ta.toNat tb.toNat 0 (by decide) td.isLt ta.isLt tb.isLt (by decide)
  have hy := y_T y 0x60 td.toNat ta.toNat tb.toNat 0 (by decide) td.isLt ta.isLt tb.isLt (by decide)
  have hl := low_T y 0x60 td.toNat ta.toNat tb.toNat 0 (by decide)
  have a18 := at18_T y 0x60 td.toNat ta.toNat tb.toNat 0 td.isLt ta.isLt tb.isLt (by decide)
  have a12 := at12_T y 0x60 td.toNat ta.toNat tb.toNat 0 ta.isLt tb.isLt (by decide)
  have a6 := at6_T y 0x60 td.toNat ta.toNat tb.toNat 0 tb.isLt (by decide)
  generalize encT y 0x60 td.toNat ta.toNat tb.toNat 0 = w at *
  have e1 : fN w 0 6 = 0x0 := ((field_low _ _ 0 6 6 (by decide) hl)).trans (by omega)
  have e2 : fB w 31 = y := fB_eq _ _ _ (hy)
  have e3 : fV w 18 6 = td := fV_eq _ _ _ _ (a18)
  have e4 : fV w 12 6 = ta := fV_eq _ _ _ _ (a12)
  have e5 : fV w 6 6 = tb := fV_eq _ _ _ _ (a6)
  have hM : fN w 24 7 = 0x60 := hm
  rw [at_dec60 w hM]
  simp only [dec60, e1, e2, e3, e4, e5, need, h]
  rfl

theorem vsub (y : Bool) (td : BitVec 6) (ta : BitVec 6) (tb : BitVec 6) : Statement (.vsub y td ta tb) := by
  have q_td := td.isLt
  have q_ta := ta.isLt
  have q_tb := tb.isLt
  have b_y := b1_lt y
  refine of_number _ (encT y 0x60 td.toNat ta.toNat tb.toNat 1) rfl (lt_T y 0x60 td.toNat ta.toNat tb.toNat 1 (by decide) td.isLt ta.isLt tb.isLt (by decide)) fun h => ?_
  have hm := maj_T y 0x60 td.toNat ta.toNat tb.toNat 1 (by decide) td.isLt ta.isLt tb.isLt (by decide)
  have hy := y_T y 0x60 td.toNat ta.toNat tb.toNat 1 (by decide) td.isLt ta.isLt tb.isLt (by decide)
  have hl := low_T y 0x60 td.toNat ta.toNat tb.toNat 1 (by decide)
  have a18 := at18_T y 0x60 td.toNat ta.toNat tb.toNat 1 td.isLt ta.isLt tb.isLt (by decide)
  have a12 := at12_T y 0x60 td.toNat ta.toNat tb.toNat 1 ta.isLt tb.isLt (by decide)
  have a6 := at6_T y 0x60 td.toNat ta.toNat tb.toNat 1 tb.isLt (by decide)
  generalize encT y 0x60 td.toNat ta.toNat tb.toNat 1 = w at *
  have e1 : fN w 0 6 = 0x1 := ((field_low _ _ 0 6 6 (by decide) hl)).trans (by omega)
  have e2 : fB w 31 = y := fB_eq _ _ _ (hy)
  have e3 : fV w 18 6 = td := fV_eq _ _ _ _ (a18)
  have e4 : fV w 12 6 = ta := fV_eq _ _ _ _ (a12)
  have e5 : fV w 6 6 = tb := fV_eq _ _ _ _ (a6)
  have hM : fN w 24 7 = 0x60 := hm
  rw [at_dec60 w hM]
  simp only [dec60, e1, e2, e3, e4, e5, need, h]
  rfl

theorem vmul (y : Bool) (td : BitVec 6) (ta : BitVec 6) (tb : BitVec 6) : Statement (.vmul y td ta tb) := by
  have q_td := td.isLt
  have q_ta := ta.isLt
  have q_tb := tb.isLt
  have b_y := b1_lt y
  refine of_number _ (encT y 0x60 td.toNat ta.toNat tb.toNat 2) rfl (lt_T y 0x60 td.toNat ta.toNat tb.toNat 2 (by decide) td.isLt ta.isLt tb.isLt (by decide)) fun h => ?_
  have hm := maj_T y 0x60 td.toNat ta.toNat tb.toNat 2 (by decide) td.isLt ta.isLt tb.isLt (by decide)
  have hy := y_T y 0x60 td.toNat ta.toNat tb.toNat 2 (by decide) td.isLt ta.isLt tb.isLt (by decide)
  have hl := low_T y 0x60 td.toNat ta.toNat tb.toNat 2 (by decide)
  have a18 := at18_T y 0x60 td.toNat ta.toNat tb.toNat 2 td.isLt ta.isLt tb.isLt (by decide)
  have a12 := at12_T y 0x60 td.toNat ta.toNat tb.toNat 2 ta.isLt tb.isLt (by decide)
  have a6 := at6_T y 0x60 td.toNat ta.toNat tb.toNat 2 tb.isLt (by decide)
  generalize encT y 0x60 td.toNat ta.toNat tb.toNat 2 = w at *
  have e1 : fN w 0 6 = 0x2 := ((field_low _ _ 0 6 6 (by decide) hl)).trans (by omega)
  have e2 : fB w 31 = y := fB_eq _ _ _ (hy)
  have e3 : fV w 18 6 = td := fV_eq _ _ _ _ (a18)
  have e4 : fV w 12 6 = ta := fV_eq _ _ _ _ (a12)
  have e5 : fV w 6 6 = tb := fV_eq _ _ _ _ (a6)
  have hM : fN w 24 7 = 0x60 := hm
  rw [at_dec60 w hM]
  simp only [dec60, e1, e2, e3, e4, e5, need, h]
  rfl

theorem vdiv (y : Bool) (td : BitVec 6) (ta : BitVec 6) (tb : BitVec 6) : Statement (.vdiv y td ta tb) := by
  have q_td := td.isLt
  have q_ta := ta.isLt
  have q_tb := tb.isLt
  have b_y := b1_lt y
  refine of_number _ (encT y 0x60 td.toNat ta.toNat tb.toNat 3) rfl (lt_T y 0x60 td.toNat ta.toNat tb.toNat 3 (by decide) td.isLt ta.isLt tb.isLt (by decide)) fun h => ?_
  have hm := maj_T y 0x60 td.toNat ta.toNat tb.toNat 3 (by decide) td.isLt ta.isLt tb.isLt (by decide)
  have hy := y_T y 0x60 td.toNat ta.toNat tb.toNat 3 (by decide) td.isLt ta.isLt tb.isLt (by decide)
  have hl := low_T y 0x60 td.toNat ta.toNat tb.toNat 3 (by decide)
  have a18 := at18_T y 0x60 td.toNat ta.toNat tb.toNat 3 td.isLt ta.isLt tb.isLt (by decide)
  have a12 := at12_T y 0x60 td.toNat ta.toNat tb.toNat 3 ta.isLt tb.isLt (by decide)
  have a6 := at6_T y 0x60 td.toNat ta.toNat tb.toNat 3 tb.isLt (by decide)
  generalize encT y 0x60 td.toNat ta.toNat tb.toNat 3 = w at *
  have e1 : fN w 0 6 = 0x3 := ((field_low _ _ 0 6 6 (by decide) hl)).trans (by omega)
  have e2 : fB w 31 = y := fB_eq _ _ _ (hy)
  have e3 : fV w 18 6 = td := fV_eq _ _ _ _ (a18)
  have e4 : fV w 12 6 = ta := fV_eq _ _ _ _ (a12)
  have e5 : fV w 6 6 = tb := fV_eq _ _ _ _ (a6)
  have hM : fN w 24 7 = 0x60 := hm
  rw [at_dec60 w hM]
  simp only [dec60, e1, e2, e3, e4, e5, need, h]
  rfl

theorem vfma (y : Bool) (td : BitVec 6) (ta : BitVec 6) (tb : BitVec 6) : Statement (.vfma y td ta tb) := by
  have q_td := td.isLt
  have q_ta := ta.isLt
  have q_tb := tb.isLt
  have b_y := b1_lt y
  refine of_number _ (encT y 0x60 td.toNat ta.toNat tb.toNat 4) rfl (lt_T y 0x60 td.toNat ta.toNat tb.toNat 4 (by decide) td.isLt ta.isLt tb.isLt (by decide)) fun h => ?_
  have hm := maj_T y 0x60 td.toNat ta.toNat tb.toNat 4 (by decide) td.isLt ta.isLt tb.isLt (by decide)
  have hy := y_T y 0x60 td.toNat ta.toNat tb.toNat 4 (by decide) td.isLt ta.isLt tb.isLt (by decide)
  have hl := low_T y 0x60 td.toNat ta.toNat tb.toNat 4 (by decide)
  have a18 := at18_T y 0x60 td.toNat ta.toNat tb.toNat 4 td.isLt ta.isLt tb.isLt (by decide)
  have a12 := at12_T y 0x60 td.toNat ta.toNat tb.toNat 4 ta.isLt tb.isLt (by decide)
  have a6 := at6_T y 0x60 td.toNat ta.toNat tb.toNat 4 tb.isLt (by decide)
  generalize encT y 0x60 td.toNat ta.toNat tb.toNat 4 = w at *
  have e1 : fN w 0 6 = 0x4 := ((field_low _ _ 0 6 6 (by decide) hl)).trans (by omega)
  have e2 : fB w 31 = y := fB_eq _ _ _ (hy)
  have e3 : fV w 18 6 = td := fV_eq _ _ _ _ (a18)
  have e4 : fV w 12 6 = ta := fV_eq _ _ _ _ (a12)
  have e5 : fV w 6 6 = tb := fV_eq _ _ _ _ (a6)
  have hM : fN w 24 7 = 0x60 := hm
  rw [at_dec60 w hM]
  simp only [dec60, e1, e2, e3, e4, e5, need, h]
  rfl

theorem vmin (y : Bool) (td : BitVec 6) (ta : BitVec 6) (tb : BitVec 6) : Statement (.vmin y td ta tb) := by
  have q_td := td.isLt
  have q_ta := ta.isLt
  have q_tb := tb.isLt
  have b_y := b1_lt y
  refine of_number _ (encT y 0x60 td.toNat ta.toNat tb.toNat 5) rfl (lt_T y 0x60 td.toNat ta.toNat tb.toNat 5 (by decide) td.isLt ta.isLt tb.isLt (by decide)) fun h => ?_
  have hm := maj_T y 0x60 td.toNat ta.toNat tb.toNat 5 (by decide) td.isLt ta.isLt tb.isLt (by decide)
  have hy := y_T y 0x60 td.toNat ta.toNat tb.toNat 5 (by decide) td.isLt ta.isLt tb.isLt (by decide)
  have hl := low_T y 0x60 td.toNat ta.toNat tb.toNat 5 (by decide)
  have a18 := at18_T y 0x60 td.toNat ta.toNat tb.toNat 5 td.isLt ta.isLt tb.isLt (by decide)
  have a12 := at12_T y 0x60 td.toNat ta.toNat tb.toNat 5 ta.isLt tb.isLt (by decide)
  have a6 := at6_T y 0x60 td.toNat ta.toNat tb.toNat 5 tb.isLt (by decide)
  generalize encT y 0x60 td.toNat ta.toNat tb.toNat 5 = w at *
  have e1 : fN w 0 6 = 0x5 := ((field_low _ _ 0 6 6 (by decide) hl)).trans (by omega)
  have e2 : fB w 31 = y := fB_eq _ _ _ (hy)
  have e3 : fV w 18 6 = td := fV_eq _ _ _ _ (a18)
  have e4 : fV w 12 6 = ta := fV_eq _ _ _ _ (a12)
  have e5 : fV w 6 6 = tb := fV_eq _ _ _ _ (a6)
  have hM : fN w 24 7 = 0x60 := hm
  rw [at_dec60 w hM]
  simp only [dec60, e1, e2, e3, e4, e5, need, h]
  rfl

theorem vmax (y : Bool) (td : BitVec 6) (ta : BitVec 6) (tb : BitVec 6) : Statement (.vmax y td ta tb) := by
  have q_td := td.isLt
  have q_ta := ta.isLt
  have q_tb := tb.isLt
  have b_y := b1_lt y
  refine of_number _ (encT y 0x60 td.toNat ta.toNat tb.toNat 6) rfl (lt_T y 0x60 td.toNat ta.toNat tb.toNat 6 (by decide) td.isLt ta.isLt tb.isLt (by decide)) fun h => ?_
  have hm := maj_T y 0x60 td.toNat ta.toNat tb.toNat 6 (by decide) td.isLt ta.isLt tb.isLt (by decide)
  have hy := y_T y 0x60 td.toNat ta.toNat tb.toNat 6 (by decide) td.isLt ta.isLt tb.isLt (by decide)
  have hl := low_T y 0x60 td.toNat ta.toNat tb.toNat 6 (by decide)
  have a18 := at18_T y 0x60 td.toNat ta.toNat tb.toNat 6 td.isLt ta.isLt tb.isLt (by decide)
  have a12 := at12_T y 0x60 td.toNat ta.toNat tb.toNat 6 ta.isLt tb.isLt (by decide)
  have a6 := at6_T y 0x60 td.toNat ta.toNat tb.toNat 6 tb.isLt (by decide)
  generalize encT y 0x60 td.toNat ta.toNat tb.toNat 6 = w at *
  have e1 : fN w 0 6 = 0x6 := ((field_low _ _ 0 6 6 (by decide) hl)).trans (by omega)
  have e2 : fB w 31 = y := fB_eq _ _ _ (hy)
  have e3 : fV w 18 6 = td := fV_eq _ _ _ _ (a18)
  have e4 : fV w 12 6 = ta := fV_eq _ _ _ _ (a12)
  have e5 : fV w 6 6 = tb := fV_eq _ _ _ _ (a6)
  have hM : fN w 24 7 = 0x60 := hm
  rw [at_dec60 w hM]
  simp only [dec60, e1, e2, e3, e4, e5, need, h]
  rfl

theorem vabs (y : Bool) (td : BitVec 6) (ta : BitVec 6) : Statement (.vabs y td ta) := by
  have q_td := td.isLt
  have q_ta := ta.isLt
  have b_y := b1_lt y
  refine of_number _ (encT y 0x60 td.toNat ta.toNat 0 7) rfl (lt_T y 0x60 td.toNat ta.toNat 0 7 (by decide) td.isLt ta.isLt (by decide) (by decide)) fun h => ?_
  have hm := maj_T y 0x60 td.toNat ta.toNat 0 7 (by decide) td.isLt ta.isLt (by decide) (by decide)
  have hy := y_T y 0x60 td.toNat ta.toNat 0 7 (by decide) td.isLt ta.isLt (by decide) (by decide)
  have hl := low_T y 0x60 td.toNat ta.toNat 0 7 (by decide)
  have a6 := at6_T y 0x60 td.toNat ta.toNat 0 7 (by decide) (by decide)
  have a18 := at18_T y 0x60 td.toNat ta.toNat 0 7 td.isLt ta.isLt (by decide) (by decide)
  have a12 := at12_T y 0x60 td.toNat ta.toNat 0 7 ta.isLt (by decide) (by decide)
  generalize encT y 0x60 td.toNat ta.toNat 0 7 = w at *
  have e1 : fN w 0 6 = 0x7 := ((field_low _ _ 0 6 6 (by decide) hl)).trans (by omega)
  have e2 : fN w 6 6 = 0 := a6
  have e3 : fB w 31 = y := fB_eq _ _ _ (hy)
  have e4 : fV w 18 6 = td := fV_eq _ _ _ _ (a18)
  have e5 : fV w 12 6 = ta := fV_eq _ _ _ _ (a12)
  have hM : fN w 24 7 = 0x60 := hm
  rw [at_dec60 w hM]
  simp only [dec60, e1, e2, e3, e4, e5, need, h]
  rfl

theorem vexp (y : Bool) (td : BitVec 6) (ta : BitVec 6) : Statement (.vexp y td ta) := by
  have q_td := td.isLt
  have q_ta := ta.isLt
  have b_y := b1_lt y
  refine of_number _ (encT y 0x60 td.toNat ta.toNat 0 8) rfl (lt_T y 0x60 td.toNat ta.toNat 0 8 (by decide) td.isLt ta.isLt (by decide) (by decide)) fun h => ?_
  have hm := maj_T y 0x60 td.toNat ta.toNat 0 8 (by decide) td.isLt ta.isLt (by decide) (by decide)
  have hy := y_T y 0x60 td.toNat ta.toNat 0 8 (by decide) td.isLt ta.isLt (by decide) (by decide)
  have hl := low_T y 0x60 td.toNat ta.toNat 0 8 (by decide)
  have a6 := at6_T y 0x60 td.toNat ta.toNat 0 8 (by decide) (by decide)
  have a18 := at18_T y 0x60 td.toNat ta.toNat 0 8 td.isLt ta.isLt (by decide) (by decide)
  have a12 := at12_T y 0x60 td.toNat ta.toNat 0 8 ta.isLt (by decide) (by decide)
  generalize encT y 0x60 td.toNat ta.toNat 0 8 = w at *
  have e1 : fN w 0 6 = 0x8 := ((field_low _ _ 0 6 6 (by decide) hl)).trans (by omega)
  have e2 : fN w 6 6 = 0 := a6
  have e3 : fB w 31 = y := fB_eq _ _ _ (hy)
  have e4 : fV w 18 6 = td := fV_eq _ _ _ _ (a18)
  have e5 : fV w 12 6 = ta := fV_eq _ _ _ _ (a12)
  have hM : fN w 24 7 = 0x60 := hm
  rw [at_dec60 w hM]
  simp only [dec60, e1, e2, e3, e4, e5, need, h]
  rfl

theorem vlog (y : Bool) (td : BitVec 6) (ta : BitVec 6) : Statement (.vlog y td ta) := by
  have q_td := td.isLt
  have q_ta := ta.isLt
  have b_y := b1_lt y
  refine of_number _ (encT y 0x60 td.toNat ta.toNat 0 9) rfl (lt_T y 0x60 td.toNat ta.toNat 0 9 (by decide) td.isLt ta.isLt (by decide) (by decide)) fun h => ?_
  have hm := maj_T y 0x60 td.toNat ta.toNat 0 9 (by decide) td.isLt ta.isLt (by decide) (by decide)
  have hy := y_T y 0x60 td.toNat ta.toNat 0 9 (by decide) td.isLt ta.isLt (by decide) (by decide)
  have hl := low_T y 0x60 td.toNat ta.toNat 0 9 (by decide)
  have a6 := at6_T y 0x60 td.toNat ta.toNat 0 9 (by decide) (by decide)
  have a18 := at18_T y 0x60 td.toNat ta.toNat 0 9 td.isLt ta.isLt (by decide) (by decide)
  have a12 := at12_T y 0x60 td.toNat ta.toNat 0 9 ta.isLt (by decide) (by decide)
  generalize encT y 0x60 td.toNat ta.toNat 0 9 = w at *
  have e1 : fN w 0 6 = 0x9 := ((field_low _ _ 0 6 6 (by decide) hl)).trans (by omega)
  have e2 : fN w 6 6 = 0 := a6
  have e3 : fB w 31 = y := fB_eq _ _ _ (hy)
  have e4 : fV w 18 6 = td := fV_eq _ _ _ _ (a18)
  have e5 : fV w 12 6 = ta := fV_eq _ _ _ _ (a12)
  have hM : fN w 24 7 = 0x60 := hm
  rw [at_dec60 w hM]
  simp only [dec60, e1, e2, e3, e4, e5, need, h]
  rfl

theorem vsqrt (y : Bool) (td : BitVec 6) (ta : BitVec 6) : Statement (.vsqrt y td ta) := by
  have q_td := td.isLt
  have q_ta := ta.isLt
  have b_y := b1_lt y
  refine of_number _ (encT y 0x60 td.toNat ta.toNat 0 0xA) rfl (lt_T y 0x60 td.toNat ta.toNat 0 0xA (by decide) td.isLt ta.isLt (by decide) (by decide)) fun h => ?_
  have hm := maj_T y 0x60 td.toNat ta.toNat 0 0xA (by decide) td.isLt ta.isLt (by decide) (by decide)
  have hy := y_T y 0x60 td.toNat ta.toNat 0 0xA (by decide) td.isLt ta.isLt (by decide) (by decide)
  have hl := low_T y 0x60 td.toNat ta.toNat 0 0xA (by decide)
  have a6 := at6_T y 0x60 td.toNat ta.toNat 0 0xA (by decide) (by decide)
  have a18 := at18_T y 0x60 td.toNat ta.toNat 0 0xA td.isLt ta.isLt (by decide) (by decide)
  have a12 := at12_T y 0x60 td.toNat ta.toNat 0 0xA ta.isLt (by decide) (by decide)
  generalize encT y 0x60 td.toNat ta.toNat 0 0xA = w at *
  have e1 : fN w 0 6 = 0xA := ((field_low _ _ 0 6 6 (by decide) hl)).trans (by omega)
  have e2 : fN w 6 6 = 0 := a6
  have e3 : fB w 31 = y := fB_eq _ _ _ (hy)
  have e4 : fV w 18 6 = td := fV_eq _ _ _ _ (a18)
  have e5 : fV w 12 6 = ta := fV_eq _ _ _ _ (a12)
  have hM : fN w 24 7 = 0x60 := hm
  rw [at_dec60 w hM]
  simp only [dec60, e1, e2, e3, e4, e5, need, h]
  rfl

theorem vrsqrt (y : Bool) (td : BitVec 6) (ta : BitVec 6) : Statement (.vrsqrt y td ta) := by
  have q_td := td.isLt
  have q_ta := ta.isLt
  have b_y := b1_lt y
  refine of_number _ (encT y 0x60 td.toNat ta.toNat 0 0xB) rfl (lt_T y 0x60 td.toNat ta.toNat 0 0xB (by decide) td.isLt ta.isLt (by decide) (by decide)) fun h => ?_
  have hm := maj_T y 0x60 td.toNat ta.toNat 0 0xB (by decide) td.isLt ta.isLt (by decide) (by decide)
  have hy := y_T y 0x60 td.toNat ta.toNat 0 0xB (by decide) td.isLt ta.isLt (by decide) (by decide)
  have hl := low_T y 0x60 td.toNat ta.toNat 0 0xB (by decide)
  have a6 := at6_T y 0x60 td.toNat ta.toNat 0 0xB (by decide) (by decide)
  have a18 := at18_T y 0x60 td.toNat ta.toNat 0 0xB td.isLt ta.isLt (by decide) (by decide)
  have a12 := at12_T y 0x60 td.toNat ta.toNat 0 0xB ta.isLt (by decide) (by decide)
  generalize encT y 0x60 td.toNat ta.toNat 0 0xB = w at *
  have e1 : fN w 0 6 = 0xB := ((field_low _ _ 0 6 6 (by decide) hl)).trans (by omega)
  have e2 : fN w 6 6 = 0 := a6
  have e3 : fB w 31 = y := fB_eq _ _ _ (hy)
  have e4 : fV w 18 6 = td := fV_eq _ _ _ _ (a18)
  have e5 : fV w 12 6 = ta := fV_eq _ _ _ _ (a12)
  have hM : fN w 24 7 = 0x60 := hm
  rw [at_dec60 w hM]
  simp only [dec60, e1, e2, e3, e4, e5, need, h]
  rfl

theorem vrcp (y : Bool) (td : BitVec 6) (ta : BitVec 6) : Statement (.vrcp y td ta) := by
  have q_td := td.isLt
  have q_ta := ta.isLt
  have b_y := b1_lt y
  refine of_number _ (encT y 0x60 td.toNat ta.toNat 0 0xC) rfl (lt_T y 0x60 td.toNat ta.toNat 0 0xC (by decide) td.isLt ta.isLt (by decide) (by decide)) fun h => ?_
  have hm := maj_T y 0x60 td.toNat ta.toNat 0 0xC (by decide) td.isLt ta.isLt (by decide) (by decide)
  have hy := y_T y 0x60 td.toNat ta.toNat 0 0xC (by decide) td.isLt ta.isLt (by decide) (by decide)
  have hl := low_T y 0x60 td.toNat ta.toNat 0 0xC (by decide)
  have a6 := at6_T y 0x60 td.toNat ta.toNat 0 0xC (by decide) (by decide)
  have a18 := at18_T y 0x60 td.toNat ta.toNat 0 0xC td.isLt ta.isLt (by decide) (by decide)
  have a12 := at12_T y 0x60 td.toNat ta.toNat 0 0xC ta.isLt (by decide) (by decide)
  generalize encT y 0x60 td.toNat ta.toNat 0 0xC = w at *
  have e1 : fN w 0 6 = 0xC := ((field_low _ _ 0 6 6 (by decide) hl)).trans (by omega)
  have e2 : fN w 6 6 = 0 := a6
  have e3 : fB w 31 = y := fB_eq _ _ _ (hy)
  have e4 : fV w 18 6 = td := fV_eq _ _ _ _ (a18)
  have e5 : fV w 12 6 = ta := fV_eq _ _ _ _ (a12)
  have hM : fN w 24 7 = 0x60 := hm
  rw [at_dec60 w hM]
  simp only [dec60, e1, e2, e3, e4, e5, need, h]
  rfl

theorem vtanh (y : Bool) (td : BitVec 6) (ta : BitVec 6) : Statement (.vtanh y td ta) := by
  have q_td := td.isLt
  have q_ta := ta.isLt
  have b_y := b1_lt y
  refine of_number _ (encT y 0x60 td.toNat ta.toNat 0 0xD) rfl (lt_T y 0x60 td.toNat ta.toNat 0 0xD (by decide) td.isLt ta.isLt (by decide) (by decide)) fun h => ?_
  have hm := maj_T y 0x60 td.toNat ta.toNat 0 0xD (by decide) td.isLt ta.isLt (by decide) (by decide)
  have hy := y_T y 0x60 td.toNat ta.toNat 0 0xD (by decide) td.isLt ta.isLt (by decide) (by decide)
  have hl := low_T y 0x60 td.toNat ta.toNat 0 0xD (by decide)
  have a6 := at6_T y 0x60 td.toNat ta.toNat 0 0xD (by decide) (by decide)
  have a18 := at18_T y 0x60 td.toNat ta.toNat 0 0xD td.isLt ta.isLt (by decide) (by decide)
  have a12 := at12_T y 0x60 td.toNat ta.toNat 0 0xD ta.isLt (by decide) (by decide)
  generalize encT y 0x60 td.toNat ta.toNat 0 0xD = w at *
  have e1 : fN w 0 6 = 0xD := ((field_low _ _ 0 6 6 (by decide) hl)).trans (by omega)
  have e2 : fN w 6 6 = 0 := a6
  have e3 : fB w 31 = y := fB_eq _ _ _ (hy)
  have e4 : fV w 18 6 = td := fV_eq _ _ _ _ (a18)
  have e5 : fV w 12 6 = ta := fV_eq _ _ _ _ (a12)
  have hM : fN w 24 7 = 0x60 := hm
  rw [at_dec60 w hM]
  simp only [dec60, e1, e2, e3, e4, e5, need, h]
  rfl

theorem vsigm (y : Bool) (td : BitVec 6) (ta : BitVec 6) : Statement (.vsigm y td ta) := by
  have q_td := td.isLt
  have q_ta := ta.isLt
  have b_y := b1_lt y
  refine of_number _ (encT y 0x60 td.toNat ta.toNat 0 0xE) rfl (lt_T y 0x60 td.toNat ta.toNat 0 0xE (by decide) td.isLt ta.isLt (by decide) (by decide)) fun h => ?_
  have hm := maj_T y 0x60 td.toNat ta.toNat 0 0xE (by decide) td.isLt ta.isLt (by decide) (by decide)
  have hy := y_T y 0x60 td.toNat ta.toNat 0 0xE (by decide) td.isLt ta.isLt (by decide) (by decide)
  have hl := low_T y 0x60 td.toNat ta.toNat 0 0xE (by decide)
  have a6 := at6_T y 0x60 td.toNat ta.toNat 0 0xE (by decide) (by decide)
  have a18 := at18_T y 0x60 td.toNat ta.toNat 0 0xE td.isLt ta.isLt (by decide) (by decide)
  have a12 := at12_T y 0x60 td.toNat ta.toNat 0 0xE ta.isLt (by decide) (by decide)
  generalize encT y 0x60 td.toNat ta.toNat 0 0xE = w at *
  have e1 : fN w 0 6 = 0xE := ((field_low _ _ 0 6 6 (by decide) hl)).trans (by omega)
  have e2 : fN w 6 6 = 0 := a6
  have e3 : fB w 31 = y := fB_eq _ _ _ (hy)
  have e4 : fV w 18 6 = td := fV_eq _ _ _ _ (a18)
  have e5 : fV w 12 6 = ta := fV_eq _ _ _ _ (a12)
  have hM : fN w 24 7 = 0x60 := hm
  rw [at_dec60 w hM]
  simp only [dec60, e1, e2, e3, e4, e5, need, h]
  rfl

theorem vredAdd (y : Bool) (td : BitVec 6) (ta : BitVec 6) : Statement (.vredAdd y td ta) := by
  have q_td := td.isLt
  have q_ta := ta.isLt
  have b_y := b1_lt y
  refine of_number _ (encT y 0x61 td.toNat ta.toNat 0 0) rfl (lt_T y 0x61 td.toNat ta.toNat 0 0 (by decide) td.isLt ta.isLt (by decide) (by decide)) fun h => ?_
  have hm := maj_T y 0x61 td.toNat ta.toNat 0 0 (by decide) td.isLt ta.isLt (by decide) (by decide)
  have hy := y_T y 0x61 td.toNat ta.toNat 0 0 (by decide) td.isLt ta.isLt (by decide) (by decide)
  have hl := low_T y 0x61 td.toNat ta.toNat 0 0 (by decide)
  have a6 := at6_T y 0x61 td.toNat ta.toNat 0 0 (by decide) (by decide)
  have a18 := at18_T y 0x61 td.toNat ta.toNat 0 0 td.isLt ta.isLt (by decide) (by decide)
  have a12 := at12_T y 0x61 td.toNat ta.toNat 0 0 ta.isLt (by decide) (by decide)
  generalize encT y 0x61 td.toNat ta.toNat 0 0 = w at *
  have e1 : fN w 0 6 = 0x0 := ((field_low _ _ 0 6 6 (by decide) hl)).trans (by omega)
  have e2 : fN w 6 6 = 0 := a6
  have e3 : fB w 31 = y := fB_eq _ _ _ (hy)
  have e4 : fV w 18 6 = td := fV_eq _ _ _ _ (a18)
  have e5 : fV w 12 6 = ta := fV_eq _ _ _ _ (a12)
  have hM : fN w 24 7 = 0x61 := hm
  rw [at_dec61 w hM]
  simp only [dec61, e1, e2, e3, e4, e5, need, h]
  rfl

theorem vredMin (y : Bool) (td : BitVec 6) (ta : BitVec 6) : Statement (.vredMin y td ta) := by
  have q_td := td.isLt
  have q_ta := ta.isLt
  have b_y := b1_lt y
  refine of_number _ (encT y 0x61 td.toNat ta.toNat 0 1) rfl (lt_T y 0x61 td.toNat ta.toNat 0 1 (by decide) td.isLt ta.isLt (by decide) (by decide)) fun h => ?_
  have hm := maj_T y 0x61 td.toNat ta.toNat 0 1 (by decide) td.isLt ta.isLt (by decide) (by decide)
  have hy := y_T y 0x61 td.toNat ta.toNat 0 1 (by decide) td.isLt ta.isLt (by decide) (by decide)
  have hl := low_T y 0x61 td.toNat ta.toNat 0 1 (by decide)
  have a6 := at6_T y 0x61 td.toNat ta.toNat 0 1 (by decide) (by decide)
  have a18 := at18_T y 0x61 td.toNat ta.toNat 0 1 td.isLt ta.isLt (by decide) (by decide)
  have a12 := at12_T y 0x61 td.toNat ta.toNat 0 1 ta.isLt (by decide) (by decide)
  generalize encT y 0x61 td.toNat ta.toNat 0 1 = w at *
  have e1 : fN w 0 6 = 0x1 := ((field_low _ _ 0 6 6 (by decide) hl)).trans (by omega)
  have e2 : fN w 6 6 = 0 := a6
  have e3 : fB w 31 = y := fB_eq _ _ _ (hy)
  have e4 : fV w 18 6 = td := fV_eq _ _ _ _ (a18)
  have e5 : fV w 12 6 = ta := fV_eq _ _ _ _ (a12)
  have hM : fN w 24 7 = 0x61 := hm
  rw [at_dec61 w hM]
  simp only [dec61, e1, e2, e3, e4, e5, need, h]
  rfl

theorem vredMax (y : Bool) (td : BitVec 6) (ta : BitVec 6) : Statement (.vredMax y td ta) := by
  have q_td := td.isLt
  have q_ta := ta.isLt
  have b_y := b1_lt y
  refine of_number _ (encT y 0x61 td.toNat ta.toNat 0 2) rfl (lt_T y 0x61 td.toNat ta.toNat 0 2 (by decide) td.isLt ta.isLt (by decide) (by decide)) fun h => ?_
  have hm := maj_T y 0x61 td.toNat ta.toNat 0 2 (by decide) td.isLt ta.isLt (by decide) (by decide)
  have hy := y_T y 0x61 td.toNat ta.toNat 0 2 (by decide) td.isLt ta.isLt (by decide) (by decide)
  have hl := low_T y 0x61 td.toNat ta.toNat 0 2 (by decide)
  have a6 := at6_T y 0x61 td.toNat ta.toNat 0 2 (by decide) (by decide)
  have a18 := at18_T y 0x61 td.toNat ta.toNat 0 2 td.isLt ta.isLt (by decide) (by decide)
  have a12 := at12_T y 0x61 td.toNat ta.toNat 0 2 ta.isLt (by decide) (by decide)
  generalize encT y 0x61 td.toNat ta.toNat 0 2 = w at *
  have e1 : fN w 0 6 = 0x2 := ((field_low _ _ 0 6 6 (by decide) hl)).trans (by omega)
  have e2 : fN w 6 6 = 0 := a6
  have e3 : fB w 31 = y := fB_eq _ _ _ (hy)
  have e4 : fV w 18 6 = td := fV_eq _ _ _ _ (a18)
  have e5 : fV w 12 6 = ta := fV_eq _ _ _ _ (a12)
  have hM : fN w 24 7 = 0x61 := hm
  rw [at_dec61 w hM]
  simp only [dec61, e1, e2, e3, e4, e5, need, h]
  rfl

theorem vscanAdd (y : Bool) (td : BitVec 6) (ta : BitVec 6) : Statement (.vscanAdd y td ta) := by
  have q_td := td.isLt
  have q_ta := ta.isLt
  have b_y := b1_lt y
  refine of_number _ (encT y 0x61 td.toNat ta.toNat 0 3) rfl (lt_T y 0x61 td.toNat ta.toNat 0 3 (by decide) td.isLt ta.isLt (by decide) (by decide)) fun h => ?_
  have hm := maj_T y 0x61 td.toNat ta.toNat 0 3 (by decide) td.isLt ta.isLt (by decide) (by decide)
  have hy := y_T y 0x61 td.toNat ta.toNat 0 3 (by decide) td.isLt ta.isLt (by decide) (by decide)
  have hl := low_T y 0x61 td.toNat ta.toNat 0 3 (by decide)
  have a6 := at6_T y 0x61 td.toNat ta.toNat 0 3 (by decide) (by decide)
  have a18 := at18_T y 0x61 td.toNat ta.toNat 0 3 td.isLt ta.isLt (by decide) (by decide)
  have a12 := at12_T y 0x61 td.toNat ta.toNat 0 3 ta.isLt (by decide) (by decide)
  generalize encT y 0x61 td.toNat ta.toNat 0 3 = w at *
  have e1 : fN w 0 6 = 0x3 := ((field_low _ _ 0 6 6 (by decide) hl)).trans (by omega)
  have e2 : fN w 6 6 = 0 := a6
  have e3 : fB w 31 = y := fB_eq _ _ _ (hy)
  have e4 : fV w 18 6 = td := fV_eq _ _ _ _ (a18)
  have e5 : fV w 12 6 = ta := fV_eq _ _ _ _ (a12)
  have hM : fN w 24 7 = 0x61 := hm
  rw [at_dec61 w hM]
  simp only [dec61, e1, e2, e3, e4, e5, need, h]
  rfl

theorem vscanMax (y : Bool) (td : BitVec 6) (ta : BitVec 6) : Statement (.vscanMax y td ta) := by
  have q_td := td.isLt
  have q_ta := ta.isLt
  have b_y := b1_lt y
  refine of_number _ (encT y 0x61 td.toNat ta.toNat 0 4) rfl (lt_T y 0x61 td.toNat ta.toNat 0 4 (by decide) td.isLt ta.isLt (by decide) (by decide)) fun h => ?_
  have hm := maj_T y 0x61 td.toNat ta.toNat 0 4 (by decide) td.isLt ta.isLt (by decide) (by decide)
  have hy := y_T y 0x61 td.toNat ta.toNat 0 4 (by decide) td.isLt ta.isLt (by decide) (by decide)
  have hl := low_T y 0x61 td.toNat ta.toNat 0 4 (by decide)
  have a6 := at6_T y 0x61 td.toNat ta.toNat 0 4 (by decide) (by decide)
  have a18 := at18_T y 0x61 td.toNat ta.toNat 0 4 td.isLt ta.isLt (by decide) (by decide)
  have a12 := at12_T y 0x61 td.toNat ta.toNat 0 4 ta.isLt (by decide) (by decide)
  generalize encT y 0x61 td.toNat ta.toNat 0 4 = w at *
  have e1 : fN w 0 6 = 0x4 := ((field_low _ _ 0 6 6 (by decide) hl)).trans (by omega)
  have e2 : fN w 6 6 = 0 := a6
  have e3 : fB w 31 = y := fB_eq _ _ _ (hy)
  have e4 : fV w 18 6 = td := fV_eq _ _ _ _ (a18)
  have e5 : fV w 12 6 = ta := fV_eq _ _ _ _ (a12)
  have hM : fN w 24 7 = 0x61 := hm
  rw [at_dec61 w hM]
  simp only [dec61, e1, e2, e3, e4, e5, need, h]
  rfl

theorem vcmpEq (y : Bool) (td : BitVec 6) (ta : BitVec 6) (tb : BitVec 6) : Statement (.vcmpEq y td ta tb) := by
  have q_td := td.isLt
  have q_ta := ta.isLt
  have q_tb := tb.isLt
  have b_y := b1_lt y
  refine of_number _ (encT y 0x61 td.toNat ta.toNat tb.toNat 5) rfl (lt_T y 0x61 td.toNat ta.toNat tb.toNat 5 (by decide) td.isLt ta.isLt tb.isLt (by decide)) fun h => ?_
  have hm := maj_T y 0x61 td.toNat ta.toNat tb.toNat 5 (by decide) td.isLt ta.isLt tb.isLt (by decide)
  have hy := y_T y 0x61 td.toNat ta.toNat tb.toNat 5 (by decide) td.isLt ta.isLt tb.isLt (by decide)
  have hl := low_T y 0x61 td.toNat ta.toNat tb.toNat 5 (by decide)
  have a18 := at18_T y 0x61 td.toNat ta.toNat tb.toNat 5 td.isLt ta.isLt tb.isLt (by decide)
  have a12 := at12_T y 0x61 td.toNat ta.toNat tb.toNat 5 ta.isLt tb.isLt (by decide)
  have a6 := at6_T y 0x61 td.toNat ta.toNat tb.toNat 5 tb.isLt (by decide)
  generalize encT y 0x61 td.toNat ta.toNat tb.toNat 5 = w at *
  have e1 : fN w 0 6 = 0x5 := ((field_low _ _ 0 6 6 (by decide) hl)).trans (by omega)
  have e2 : fB w 31 = y := fB_eq _ _ _ (hy)
  have e3 : fV w 18 6 = td := fV_eq _ _ _ _ (a18)
  have e4 : fV w 12 6 = ta := fV_eq _ _ _ _ (a12)
  have e5 : fV w 6 6 = tb := fV_eq _ _ _ _ (a6)
  have hM : fN w 24 7 = 0x61 := hm
  rw [at_dec61 w hM]
  simp only [dec61, e1, e2, e3, e4, e5, need, h]
  rfl

theorem vcmpLt (y : Bool) (td : BitVec 6) (ta : BitVec 6) (tb : BitVec 6) : Statement (.vcmpLt y td ta tb) := by
  have q_td := td.isLt
  have q_ta := ta.isLt
  have q_tb := tb.isLt
  have b_y := b1_lt y
  refine of_number _ (encT y 0x61 td.toNat ta.toNat tb.toNat 6) rfl (lt_T y 0x61 td.toNat ta.toNat tb.toNat 6 (by decide) td.isLt ta.isLt tb.isLt (by decide)) fun h => ?_
  have hm := maj_T y 0x61 td.toNat ta.toNat tb.toNat 6 (by decide) td.isLt ta.isLt tb.isLt (by decide)
  have hy := y_T y 0x61 td.toNat ta.toNat tb.toNat 6 (by decide) td.isLt ta.isLt tb.isLt (by decide)
  have hl := low_T y 0x61 td.toNat ta.toNat tb.toNat 6 (by decide)
  have a18 := at18_T y 0x61 td.toNat ta.toNat tb.toNat 6 td.isLt ta.isLt tb.isLt (by decide)
  have a12 := at12_T y 0x61 td.toNat ta.toNat tb.toNat 6 ta.isLt tb.isLt (by decide)
  have a6 := at6_T y 0x61 td.toNat ta.toNat tb.toNat 6 tb.isLt (by decide)
  generalize encT y 0x61 td.toNat ta.toNat tb.toNat 6 = w at *
  have e1 : fN w 0 6 = 0x6 := ((field_low _ _ 0 6 6 (by decide) hl)).trans (by omega)
  have e2 : fB w 31 = y := fB_eq _ _ _ (hy)
  have e3 : fV w 18 6 = td := fV_eq _ _ _ _ (a18)
  have e4 : fV w 12 6 = ta := fV_eq _ _ _ _ (a12)
  have e5 : fV w 6 6 = tb := fV_eq _ _ _ _ (a6)
  have hM : fN w 24 7 = 0x61 := hm
  rw [at_dec61 w hM]
  simp only [dec61, e1, e2, e3, e4, e5, need, h]
  rfl

theorem vcmpLe (y : Bool) (td : BitVec 6) (ta : BitVec 6) (tb : BitVec 6) : Statement (.vcmpLe y td ta tb) := by
  have q_td := td.isLt
  have q_ta := ta.isLt
  have q_tb := tb.isLt
  have b_y := b1_lt y
  refine of_number _ (encT y 0x61 td.toNat ta.toNat tb.toNat 7) rfl (lt_T y 0x61 td.toNat ta.toNat tb.toNat 7 (by decide) td.isLt ta.isLt tb.isLt (by decide)) fun h => ?_
  have hm := maj_T y 0x61 td.toNat ta.toNat tb.toNat 7 (by decide) td.isLt ta.isLt tb.isLt (by decide)
  have hy := y_T y 0x61 td.toNat ta.toNat tb.toNat 7 (by decide) td.isLt ta.isLt tb.isLt (by decide)
  have hl := low_T y 0x61 td.toNat ta.toNat tb.toNat 7 (by decide)
  have a18 := at18_T y 0x61 td.toNat ta.toNat tb.toNat 7 td.isLt ta.isLt tb.isLt (by decide)
  have a12 := at12_T y 0x61 td.toNat ta.toNat tb.toNat 7 ta.isLt tb.isLt (by decide)
  have a6 := at6_T y 0x61 td.toNat ta.toNat tb.toNat 7 tb.isLt (by decide)
  generalize encT y 0x61 td.toNat ta.toNat tb.toNat 7 = w at *
  have e1 : fN w 0 6 = 0x7 := ((field_low _ _ 0 6 6 (by decide) hl)).trans (by omega)
  have e2 : fB w 31 = y := fB_eq _ _ _ (hy)
  have e3 : fV w 18 6 = td := fV_eq _ _ _ _ (a18)
  have e4 : fV w 12 6 = ta := fV_eq _ _ _ _ (a12)
  have e5 : fV w 6 6 = tb := fV_eq _ _ _ _ (a6)
  have hM : fN w 24 7 = 0x61 := hm
  rw [at_dec61 w hM]
  simp only [dec61, e1, e2, e3, e4, e5, need, h]
  rfl

theorem vsel (y : Bool) (td : BitVec 6) (ta : BitVec 6) (tb : BitVec 6) : Statement (.vsel y td ta tb) := by
  have q_td := td.isLt
  have q_ta := ta.isLt
  have q_tb := tb.isLt
  have b_y := b1_lt y
  refine of_number _ (encT y 0x61 td.toNat ta.toNat tb.toNat 8) rfl (lt_T y 0x61 td.toNat ta.toNat tb.toNat 8 (by decide) td.isLt ta.isLt tb.isLt (by decide)) fun h => ?_
  have hm := maj_T y 0x61 td.toNat ta.toNat tb.toNat 8 (by decide) td.isLt ta.isLt tb.isLt (by decide)
  have hy := y_T y 0x61 td.toNat ta.toNat tb.toNat 8 (by decide) td.isLt ta.isLt tb.isLt (by decide)
  have hl := low_T y 0x61 td.toNat ta.toNat tb.toNat 8 (by decide)
  have a18 := at18_T y 0x61 td.toNat ta.toNat tb.toNat 8 td.isLt ta.isLt tb.isLt (by decide)
  have a12 := at12_T y 0x61 td.toNat ta.toNat tb.toNat 8 ta.isLt tb.isLt (by decide)
  have a6 := at6_T y 0x61 td.toNat ta.toNat tb.toNat 8 tb.isLt (by decide)
  generalize encT y 0x61 td.toNat ta.toNat tb.toNat 8 = w at *
  have e1 : fN w 0 6 = 0x8 := ((field_low _ _ 0 6 6 (by decide) hl)).trans (by omega)
  have e2 : fB w 31 = y := fB_eq _ _ _ (hy)
  have e3 : fV w 18 6 = td := fV_eq _ _ _ _ (a18)
  have e4 : fV w 12 6 = ta := fV_eq _ _ _ _ (a12)
  have e5 : fV w 6 6 = tb := fV_eq _ _ _ _ (a6)
  have hM : fN w 24 7 = 0x61 := hm
  rw [at_dec61 w hM]
  simp only [dec61, e1, e2, e3, e4, e5, need, h]
  rfl

theorem vbcast (y : Bool) (td : BitVec 6) (ta : BitVec 6) : Statement (.vbcast y td ta) := by
  have q_td := td.isLt
  have q_ta := ta.isLt
  have b_y := b1_lt y
  refine of_number _ (encT y 0x61 td.toNat ta.toNat 0 9) rfl (lt_T y 0x61 td.toNat ta.toNat 0 9 (by decide) td.isLt ta.isLt (by decide) (by decide)) fun h => ?_
  have hm := maj_T y 0x61 td.toNat ta.toNat 0 9 (by decide) td.isLt ta.isLt (by decide) (by decide)
  have hy := y_T y 0x61 td.toNat ta.toNat 0 9 (by decide) td.isLt ta.isLt (by decide) (by decide)
  have hl := low_T y 0x61 td.toNat ta.toNat 0 9 (by decide)
  have a6 := at6_T y 0x61 td.toNat ta.toNat 0 9 (by decide) (by decide)
  have a18 := at18_T y 0x61 td.toNat ta.toNat 0 9 td.isLt ta.isLt (by decide) (by decide)
  have a12 := at12_T y 0x61 td.toNat ta.toNat 0 9 ta.isLt (by decide) (by decide)
  generalize encT y 0x61 td.toNat ta.toNat 0 9 = w at *
  have e1 : fN w 0 6 = 0x9 := ((field_low _ _ 0 6 6 (by decide) hl)).trans (by omega)
  have e2 : fN w 6 6 = 0 := a6
  have e3 : fB w 31 = y := fB_eq _ _ _ (hy)
  have e4 : fV w 18 6 = td := fV_eq _ _ _ _ (a18)
  have e5 : fV w 12 6 = ta := fV_eq _ _ _ _ (a12)
  have hM : fN w 24 7 = 0x61 := hm
  rw [at_dec61 w hM]
  simp only [dec61, e1, e2, e3, e4, e5, need, h]
  rfl

theorem vgather (y : Bool) (td : BitVec 6) (ta : BitVec 6) (tb : BitVec 6) : Statement (.vgather y td ta tb) := by
  have q_td := td.isLt
  have q_ta := ta.isLt
  have q_tb := tb.isLt
  have b_y := b1_lt y
  refine of_number _ (encT y 0x61 td.toNat ta.toNat tb.toNat 0xA) rfl (lt_T y 0x61 td.toNat ta.toNat tb.toNat 0xA (by decide) td.isLt ta.isLt tb.isLt (by decide)) fun h => ?_
  have hm := maj_T y 0x61 td.toNat ta.toNat tb.toNat 0xA (by decide) td.isLt ta.isLt tb.isLt (by decide)
  have hy := y_T y 0x61 td.toNat ta.toNat tb.toNat 0xA (by decide) td.isLt ta.isLt tb.isLt (by decide)
  have hl := low_T y 0x61 td.toNat ta.toNat tb.toNat 0xA (by decide)
  have a18 := at18_T y 0x61 td.toNat ta.toNat tb.toNat 0xA td.isLt ta.isLt tb.isLt (by decide)
  have a12 := at12_T y 0x61 td.toNat ta.toNat tb.toNat 0xA ta.isLt tb.isLt (by decide)
  have a6 := at6_T y 0x61 td.toNat ta.toNat tb.toNat 0xA tb.isLt (by decide)
  generalize encT y 0x61 td.toNat ta.toNat tb.toNat 0xA = w at *
  have e1 : fN w 0 6 = 0xA := ((field_low _ _ 0 6 6 (by decide) hl)).trans (by omega)
  have e2 : fB w 31 = y := fB_eq _ _ _ (hy)
  have e3 : fV w 18 6 = td := fV_eq _ _ _ _ (a18)
  have e4 : fV w 12 6 = ta := fV_eq _ _ _ _ (a12)
  have e5 : fV w 6 6 = tb := fV_eq _ _ _ _ (a6)
  have hM : fN w 24 7 = 0x61 := hm
  rw [at_dec61 w hM]
  simp only [dec61, e1, e2, e3, e4, e5, need, h]
  rfl

theorem vscat (y : Bool) (td : BitVec 6) (ta : BitVec 6) (tb : BitVec 6) : Statement (.vscat y td ta tb) := by
  have q_td := td.isLt
  have q_ta := ta.isLt
  have q_tb := tb.isLt
  have b_y := b1_lt y
  refine of_number _ (encT y 0x61 td.toNat ta.toNat tb.toNat 0xB) rfl (lt_T y 0x61 td.toNat ta.toNat tb.toNat 0xB (by decide) td.isLt ta.isLt tb.isLt (by decide)) fun h => ?_
  have hm := maj_T y 0x61 td.toNat ta.toNat tb.toNat 0xB (by decide) td.isLt ta.isLt tb.isLt (by decide)
  have hy := y_T y 0x61 td.toNat ta.toNat tb.toNat 0xB (by decide) td.isLt ta.isLt tb.isLt (by decide)
  have hl := low_T y 0x61 td.toNat ta.toNat tb.toNat 0xB (by decide)
  have a18 := at18_T y 0x61 td.toNat ta.toNat tb.toNat 0xB td.isLt ta.isLt tb.isLt (by decide)
  have a12 := at12_T y 0x61 td.toNat ta.toNat tb.toNat 0xB ta.isLt tb.isLt (by decide)
  have a6 := at6_T y 0x61 td.toNat ta.toNat tb.toNat 0xB tb.isLt (by decide)
  generalize encT y 0x61 td.toNat ta.toNat tb.toNat 0xB = w at *
  have e1 : fN w 0 6 = 0xB := ((field_low _ _ 0 6 6 (by decide) hl)).trans (by omega)
  have e2 : fB w 31 = y := fB_eq _ _ _ (hy)
  have e3 : fV w 18 6 = td := fV_eq _ _ _ _ (a18)
  have e4 : fV w 12 6 = ta := fV_eq _ _ _ _ (a12)
  have e5 : fV w 6 6 = tb := fV_eq _ _ _ _ (a6)
  have hM : fN w 24 7 = 0x61 := hm
  rw [at_dec61 w hM]
  simp only [dec61, e1, e2, e3, e4, e5, need, h]
  rfl

theorem vtrans (y : Bool) (td : BitVec 6) (ta : BitVec 6) : Statement (.vtrans y td ta) := by
  have q_td := td.isLt
  have q_ta := ta.isLt
  have b_y := b1_lt y
  refine of_number _ (encT y 0x61 td.toNat ta.toNat 0 0xC) rfl (lt_T y 0x61 td.toNat ta.toNat 0 0xC (by decide) td.isLt ta.isLt (by decide) (by decide)) fun h => ?_
  have hm := maj_T y 0x61 td.toNat ta.toNat 0 0xC (by decide) td.isLt ta.isLt (by decide) (by decide)
  have hy := y_T y 0x61 td.toNat ta.toNat 0 0xC (by decide) td.isLt ta.isLt (by decide) (by decide)
  have hl := low_T y 0x61 td.toNat ta.toNat 0 0xC (by decide)
  have a6 := at6_T y 0x61 td.toNat ta.toNat 0 0xC (by decide) (by decide)
  have a18 := at18_T y 0x61 td.toNat ta.toNat 0 0xC td.isLt ta.isLt (by decide) (by decide)
  have a12 := at12_T y 0x61 td.toNat ta.toNat 0 0xC ta.isLt (by decide) (by decide)
  generalize encT y 0x61 td.toNat ta.toNat 0 0xC = w at *
  have e1 : fN w 0 6 = 0xC := ((field_low _ _ 0 6 6 (by decide) hl)).trans (by omega)
  have e2 : fN w 6 6 = 0 := a6
  have e3 : fB w 31 = y := fB_eq _ _ _ (hy)
  have e4 : fV w 18 6 = td := fV_eq _ _ _ _ (a18)
  have e5 : fV w 12 6 = ta := fV_eq _ _ _ _ (a12)
  have hM : fN w 24 7 = 0x61 := hm
  rw [at_dec61 w hM]
  simp only [dec61, e1, e2, e3, e4, e5, need, h]
  rfl

theorem vcvt (y : Bool) (td : BitVec 6) (ta : BitVec 6) : Statement (.vcvt y td ta) := by
  have q_td := td.isLt
  have q_ta := ta.isLt
  have b_y := b1_lt y
  refine of_number _ (encT y 0x61 td.toNat ta.toNat 0 0xD) rfl (lt_T y 0x61 td.toNat ta.toNat 0 0xD (by decide) td.isLt ta.isLt (by decide) (by decide)) fun h => ?_
  have hm := maj_T y 0x61 td.toNat ta.toNat 0 0xD (by decide) td.isLt ta.isLt (by decide) (by decide)
  have hy := y_T y 0x61 td.toNat ta.toNat 0 0xD (by decide) td.isLt ta.isLt (by decide) (by decide)
  have hl := low_T y 0x61 td.toNat ta.toNat 0 0xD (by decide)
  have a6 := at6_T y 0x61 td.toNat ta.toNat 0 0xD (by decide) (by decide)
  have a18 := at18_T y 0x61 td.toNat ta.toNat 0 0xD td.isLt ta.isLt (by decide) (by decide)
  have a12 := at12_T y 0x61 td.toNat ta.toNat 0 0xD ta.isLt (by decide) (by decide)
  generalize encT y 0x61 td.toNat ta.toNat 0 0xD = w at *
  have e1 : fN w 0 6 = 0xD := ((field_low _ _ 0 6 6 (by decide) hl)).trans (by omega)
  have e2 : fN w 6 6 = 0 := a6
  have e3 : fB w 31 = y := fB_eq _ _ _ (hy)
  have e4 : fV w 18 6 = td := fV_eq _ _ _ _ (a18)
  have e5 : fV w 12 6 = ta := fV_eq _ _ _ _ (a12)
  have hM : fN w 24 7 = 0x61 := hm
  rw [at_dec61 w hM]
  simp only [dec61, e1, e2, e3, e4, e5, need, h]
  rfl

theorem vqscale (y : Bool) (td : BitVec 6) (ta : BitVec 6) : Statement (.vqscale y td ta) := by
  have q_td := td.isLt
  have q_ta := ta.isLt
  have b_y := b1_lt y
  refine of_number _ (encT y 0x61 td.toNat ta.toNat 0 0xE) rfl (lt_T y 0x61 td.toNat ta.toNat 0 0xE (by decide) td.isLt ta.isLt (by decide) (by decide)) fun h => ?_
  have hm := maj_T y 0x61 td.toNat ta.toNat 0 0xE (by decide) td.isLt ta.isLt (by decide) (by decide)
  have hy := y_T y 0x61 td.toNat ta.toNat 0 0xE (by decide) td.isLt ta.isLt (by decide) (by decide)
  have hl := low_T y 0x61 td.toNat ta.toNat 0 0xE (by decide)
  have a6 := at6_T y 0x61 td.toNat ta.toNat 0 0xE (by decide) (by decide)
  have a18 := at18_T y 0x61 td.toNat ta.toNat 0 0xE td.isLt ta.isLt (by decide) (by decide)
  have a12 := at12_T y 0x61 td.toNat ta.toNat 0 0xE ta.isLt (by decide) (by decide)
  generalize encT y 0x61 td.toNat ta.toNat 0 0xE = w at *
  have e1 : fN w 0 6 = 0xE := ((field_low _ _ 0 6 6 (by decide) hl)).trans (by omega)
  have e2 : fN w 6 6 = 0 := a6
  have e3 : fB w 31 = y := fB_eq _ _ _ (hy)
  have e4 : fV w 18 6 = td := fV_eq _ _ _ _ (a18)
  have e5 : fV w 12 6 = ta := fV_eq _ _ _ _ (a12)
  have hM : fN w 24 7 = 0x61 := hm
  rw [at_dec61 w hM]
  simp only [dec61, e1, e2, e3, e4, e5, need, h]
  rfl

theorem vcbk (y : Bool) (td : BitVec 6) (ta : BitVec 6) : Statement (.vcbk y td ta) := by
  have q_td := td.isLt
  have q_ta := ta.isLt
  have b_y := b1_lt y
  refine of_number _ (encT y 0x61 td.toNat ta.toNat 0 0xF) rfl (lt_T y 0x61 td.toNat ta.toNat 0 0xF (by decide) td.isLt ta.isLt (by decide) (by decide)) fun h => ?_
  have hm := maj_T y 0x61 td.toNat ta.toNat 0 0xF (by decide) td.isLt ta.isLt (by decide) (by decide)
  have hy := y_T y 0x61 td.toNat ta.toNat 0 0xF (by decide) td.isLt ta.isLt (by decide) (by decide)
  have hl := low_T y 0x61 td.toNat ta.toNat 0 0xF (by decide)
  have a6 := at6_T y 0x61 td.toNat ta.toNat 0 0xF (by decide) (by decide)
  have a18 := at18_T y 0x61 td.toNat ta.toNat 0 0xF td.isLt ta.isLt (by decide) (by decide)
  have a12 := at12_T y 0x61 td.toNat ta.toNat 0 0xF ta.isLt (by decide) (by decide)
  generalize encT y 0x61 td.toNat ta.toNat 0 0xF = w at *
  have e1 : fN w 0 6 = 0xF := ((field_low _ _ 0 6 6 (by decide) hl)).trans (by omega)
  have e2 : fN w 6 6 = 0 := a6
  have e3 : fB w 31 = y := fB_eq _ _ _ (hy)
  have e4 : fV w 18 6 = td := fV_eq _ _ _ _ (a18)
  have e5 : fV w 12 6 = ta := fV_eq _ _ _ _ (a12)
  have hM : fN w 24 7 = 0x61 := hm
  rw [at_dec61 w hM]
  simp only [dec61, e1, e2, e3, e4, e5, need, h]
  rfl

theorem barq (y : Bool) (td : BitVec 6) (ta : BitVec 6) (tb : BitVec 6) : Statement (.barq y td ta tb) := by
  have q_td := td.isLt
  have q_ta := ta.isLt
  have q_tb := tb.isLt
  have b_y := b1_lt y
  refine of_number _ (encT y 0x61 td.toNat ta.toNat tb.toNat 0x10) rfl (lt_T y 0x61 td.toNat ta.toNat tb.toNat 0x10 (by decide) td.isLt ta.isLt tb.isLt (by decide)) fun h => ?_
  have hm := maj_T y 0x61 td.toNat ta.toNat tb.toNat 0x10 (by decide) td.isLt ta.isLt tb.isLt (by decide)
  have hy := y_T y 0x61 td.toNat ta.toNat tb.toNat 0x10 (by decide) td.isLt ta.isLt tb.isLt (by decide)
  have hl := low_T y 0x61 td.toNat ta.toNat tb.toNat 0x10 (by decide)
  have a18 := at18_T y 0x61 td.toNat ta.toNat tb.toNat 0x10 td.isLt ta.isLt tb.isLt (by decide)
  have a12 := at12_T y 0x61 td.toNat ta.toNat tb.toNat 0x10 ta.isLt tb.isLt (by decide)
  have a6 := at6_T y 0x61 td.toNat ta.toNat tb.toNat 0x10 tb.isLt (by decide)
  generalize encT y 0x61 td.toNat ta.toNat tb.toNat 0x10 = w at *
  have e1 : fN w 0 6 = 0x10 := ((field_low _ _ 0 6 6 (by decide) hl)).trans (by omega)
  have e2 : fB w 31 = y := fB_eq _ _ _ (hy)
  have e3 : fV w 18 6 = td := fV_eq _ _ _ _ (a18)
  have e4 : fV w 12 6 = ta := fV_eq _ _ _ _ (a12)
  have e5 : fV w 6 6 = tb := fV_eq _ _ _ _ (a6)
  have hM : fN w 24 7 = 0x61 := hm
  rw [at_dec61 w hM]
  simp only [dec61, e1, e2, e3, e4, e5, need, h]
  rfl

theorem barqRes (y : Bool) (td : BitVec 6) (ta : BitVec 6) (tb : BitVec 6) : Statement (.barqRes y td ta tb) := by
  have q_td := td.isLt
  have q_ta := ta.isLt
  have q_tb := tb.isLt
  have b_y := b1_lt y
  refine of_number _ (encT y 0x61 td.toNat ta.toNat tb.toNat 0x11) rfl (lt_T y 0x61 td.toNat ta.toNat tb.toNat 0x11 (by decide) td.isLt ta.isLt tb.isLt (by decide)) fun h => ?_
  have hm := maj_T y 0x61 td.toNat ta.toNat tb.toNat 0x11 (by decide) td.isLt ta.isLt tb.isLt (by decide)
  have hy := y_T y 0x61 td.toNat ta.toNat tb.toNat 0x11 (by decide) td.isLt ta.isLt tb.isLt (by decide)
  have hl := low_T y 0x61 td.toNat ta.toNat tb.toNat 0x11 (by decide)
  have a18 := at18_T y 0x61 td.toNat ta.toNat tb.toNat 0x11 td.isLt ta.isLt tb.isLt (by decide)
  have a12 := at12_T y 0x61 td.toNat ta.toNat tb.toNat 0x11 ta.isLt tb.isLt (by decide)
  have a6 := at6_T y 0x61 td.toNat ta.toNat tb.toNat 0x11 tb.isLt (by decide)
  generalize encT y 0x61 td.toNat ta.toNat tb.toNat 0x11 = w at *
  have e1 : fN w 0 6 = 0x11 := ((field_low _ _ 0 6 6 (by decide) hl)).trans (by omega)
  have e2 : fB w 31 = y := fB_eq _ _ _ (hy)
  have e3 : fV w 18 6 = td := fV_eq _ _ _ _ (a18)
  have e4 : fV w 12 6 = ta := fV_eq _ _ _ _ (a12)
  have e5 : fV w 6 6 = tb := fV_eq _ _ _ _ (a6)
  have hM : fN w 24 7 = 0x61 := hm
  rw [at_dec61 w hM]
  simp only [dec61, e1, e2, e3, e4, e5, need, h]
  rfl

theorem twait (y : Bool) (ta : BitVec 6) : Statement (.twait y ta) := by
  have q_ta := ta.isLt
  have b_y := b1_lt y
  refine of_number _ (encT y 0x61 0 ta.toNat 0 0x12) rfl (lt_T y 0x61 0 ta.toNat 0 0x12 (by decide) (by decide) ta.isLt (by decide) (by decide)) fun h => ?_
  have hm := maj_T y 0x61 0 ta.toNat 0 0x12 (by decide) (by decide) ta.isLt (by decide) (by decide)
  have hy := y_T y 0x61 0 ta.toNat 0 0x12 (by decide) (by decide) ta.isLt (by decide) (by decide)
  have hl := low_T y 0x61 0 ta.toNat 0 0x12 (by decide)
  have a18 := at18_T y 0x61 0 ta.toNat 0 0x12 (by decide) ta.isLt (by decide) (by decide)
  have a6 := at6_T y 0x61 0 ta.toNat 0 0x12 (by decide) (by decide)
  have a12 := at12_T y 0x61 0 ta.toNat 0 0x12 ta.isLt (by decide) (by decide)
  generalize encT y 0x61 0 ta.toNat 0 0x12 = w at *
  have e1 : fN w 0 6 = 0x12 := ((field_low _ _ 0 6 6 (by decide) hl)).trans (by omega)
  have e2 : fN w 18 6 = 0 := a18
  have e3 : fN w 6 6 = 0 := a6
  have e4 : fB w 31 = y := fB_eq _ _ _ (hy)
  have e5 : fV w 12 6 = ta := fV_eq _ _ _ _ (a12)
  have hM : fN w 24 7 = 0x61 := hm
  rw [at_dec61 w hM]
  simp only [dec61, e1, e2, e3, e4, e5, need, h]
  rfl

theorem tdef (y : Bool) (ga : BitVec 4) (la : Bool) (t : BitVec 6) : Statement (.tdef y ga la t) := by
  have q_ga := ga.isLt
  have q_t := t.isLt
  have b_y := b1_lt y
  have b_la := b1_lt la
  have hlo : t.toNat < 32768 := by omega
  refine of_number _ (encI y 0x62 0 ga.toNat la t.toNat) rfl (lt_I y 0x62 0 ga.toNat la t.toNat (by decide) (by decide) ga.isLt hlo) fun h => ?_
  have hm := maj_I y 0x62 0 ga.toNat la t.toNat (by decide) (by decide) ga.isLt hlo
  have hy := y_I y 0x62 0 ga.toNat la t.toNat (by decide) (by decide) ga.isLt hlo
  have hl := low_I y 0x62 0 ga.toNat la t.toNat hlo
  have a20 := at20_I y 0x62 0 ga.toNat la t.toNat (by decide) ga.isLt hlo
  have a16 := at16_I y 0x62 0 ga.toNat la t.toNat ga.isLt hlo
  have a15 := at15_I y 0x62 0 ga.toNat la t.toNat hlo
  generalize encI y 0x62 0 ga.toNat la t.toNat = w at *
  have e1 : fN w 20 4 = 0 := a20
  have e2 : fN w 6 9 = 0 := ((field_low _ _ 6 9 15 (by decide) hl)).trans (by omega)
  have e3 : fB w 31 = y := fB_eq _ _ _ (hy)
  have e4 : fV w 16 4 = ga := fV_eq _ _ _ _ (a16)
  have e5 : fB w 15 = la := fB_eq _ _ _ (a15)
  have e6 : fV w 0 6 = t := fV_eq _ _ _ _ (((field_low _ _ 0 6 15 (by decide) hl)).trans (by omega))
  have hM : fN w 24 7 = 0x62 := hm
  rw [at_dec62 w hM]
  simp only [dec62, e1, e2, e3, e4, e5, e6, need, h]
  rfl

theorem tstate (y : Bool) (gd : BitVec 4) (set : Bool) (st : BitVec 2) (t : BitVec 6) : Statement (.tstate y gd set st t) := by
  have q_gd := gd.isLt
  have q_st := st.isLt
  have q_t := t.isLt
  have b_y := b1_lt y
  have b_set := b1_lt set
  have hlo : (b1 set * 0x4000 + st.toNat * 0x1000 + t.toNat) < 32768 := by omega
  refine of_number _ (encI y 0x63 gd.toNat 0 false (b1 set * 0x4000 + st.toNat * 0x1000 + t.toNat)) rfl (lt_I y 0x63 gd.toNat 0 false (b1 set * 0x4000 + st.toNat * 0x1000 + t.toNat) (by decide) gd.isLt (by decide) hlo) fun h => ?_
  have hm := maj_I y 0x63 gd.toNat 0 false (b1 set * 0x4000 + st.toNat * 0x1000 + t.toNat) (by decide) gd.isLt (by decide) hlo
  have hy := y_I y 0x63 gd.toNat 0 false (b1 set * 0x4000 + st.toNat * 0x1000 + t.toNat) (by decide) gd.isLt (by decide) hlo
  have hl := low_I y 0x63 gd.toNat 0 false (b1 set * 0x4000 + st.toNat * 0x1000 + t.toNat) hlo
  have a16 := at16_I y 0x63 gd.toNat 0 false (b1 set * 0x4000 + st.toNat * 0x1000 + t.toNat) (by decide) hlo
  have a15 := at15_I y 0x63 gd.toNat 0 false (b1 set * 0x4000 + st.toNat * 0x1000 + t.toNat) hlo
  have a20 := at20_I y 0x63 gd.toNat 0 false (b1 set * 0x4000 + st.toNat * 0x1000 + t.toNat) gd.isLt (by decide) hlo
  generalize encI y 0x63 gd.toNat 0 false (b1 set * 0x4000 + st.toNat * 0x1000 + t.toNat) = w at *
  have e1 : fN w 16 4 = 0 := a16
  have e2 : fN w 15 1 = 0 := a15
  have e3 : fN w 6 6 = 0 := ((field_low _ _ 6 6 15 (by decide) hl)).trans (by omega)
  have e4 : fB w 31 = y := fB_eq _ _ _ (hy)
  have e5 : fV w 20 4 = gd := fV_eq _ _ _ _ (a20)
  have e6 : fB w 14 = set := fB_eq _ _ _ (((field_low _ _ 14 1 15 (by decide) hl)).trans (by omega))
  have e7 : fV w 12 2 = st := fV_eq _ _ _ _ (((field_low _ _ 12 2 15 (by decide) hl)).trans (by omega))
  have e8 : fV w 0 6 = t := fV_eq _ _ _ _ (((field_low _ _ 0 6 15 (by decide) hl)).trans (by omega))
  have hM : fN w 24 7 = 0x63 := hm
  rw [at_dec63 w hM]
  simp only [dec63, e1, e2, e3, e4, e5, e6, e7, e8, need, h]
  rfl

theorem cbld (y : Bool) (ga : BitVec 4) (la : Bool) : Statement (.cbld y ga la) := by
  have q_ga := ga.isLt
  have b_y := b1_lt y
  have b_la := b1_lt la
  refine of_number _ (encR y 0x64 0 ga.toNat la 0 false 0) rfl (lt_R y 0x64 0 ga.toNat la 0 false 0 (by decide) (by decide) ga.isLt (by decide) (by decide)) fun h => ?_
  have hm := maj_R y 0x64 0 ga.toNat la 0 false 0 (by decide) (by decide) ga.isLt (by decide) (by decide)
  have hy := y_R y 0x64 0 ga.toNat la 0 false 0 (by decide) (by decide) ga.isLt (by decide) (by decide)
  have hl := low_R y 0x64 0 ga.toNat la 0 false 0 (by decide)
  have a20 := at20_R y 0x64 0 ga.toNat la 0 false 0 (by decide) ga.isLt (by decide) (by decide)
  have a11 := at11_R y 0x64 0 ga.toNat la 0 false 0 (by decide) (by decide)
  have a10 := at10_R y 0x64 0 ga.toNat la 0 false 0 (by decide)
  have a16 := at16_R y 0x64 0 ga.toNat la 0 false 0 ga.isLt (by decide) (by decide)
  have a15 := at15_R y 0x64 0 ga.toNat la 0 false 0 (by decide) (by decide)
  generalize encR y 0x64 0 ga.toNat la 0 false 0 = w at *
  have e1 : fN w 20 4 = 0 := a20
  have e2 : fN w 11 4 = 0 := a11
  have e3 : fN w 10 1 = 0 := a10
  have e4 : fN w 0 10 = 0 := ((field_low _ _ 0 10 10 (by decide) hl)).trans (by omega)
  have e5 : fB w 31 = y := fB_eq _ _ _ (hy)
  have e6 : fV w 16 4 = ga := fV_eq _ _ _ _ (a16)
  have e7 : fB w 15 = la := fB_eq _ _ _ (a15)
  have hM : fN w 24 7 = 0x64 := hm
  rw [at_dec64 w hM]
  simp only [dec64, e1, e2, e3, e4, e5, e6, e7, need, h]
  rfl

theorem gmsg (y : Bool) (gd : BitVec 4) (ga : BitVec 4) (la : Bool) : Statement (.gmsg y gd ga la) := by
  have q_gd := gd.isLt
  have q_ga := ga.isLt
  have b_y := b1_lt y
  have b_la := b1_lt la
  refine of_number _ (encR y 0x65 gd.toNat ga.toNat la 0 false 0) rfl (lt_R y 0x65 gd.toNat ga.toNat la 0 false 0 (by decide) gd.isLt ga.isLt (by decide) (by decide)) fun h => ?_
  have hm := maj_R y 0x65 gd.toNat ga.toNat la 0 false 0 (by decide) gd.isLt ga.isLt (by decide) (by decide)
  have hy := y_R y 0x65 gd.toNat ga.toNat la 0 false 0 (by decide) gd.isLt ga.isLt (by decide) (by decide)
  have hl := low_R y 0x65 gd.toNat ga.toNat la 0 false 0 (by decide)
  have a11 := at11_R y 0x65 gd.toNat ga.toNat la 0 false 0 (by decide) (by decide)
  have a10 := at10_R y 0x65 gd.toNat ga.toNat la 0 false 0 (by decide)
  have a20 := at20_R y 0x65 gd.toNat ga.toNat la 0 false 0 gd.isLt ga.isLt (by decide) (by decide)
  have a16 := at16_R y 0x65 gd.toNat ga.toNat la 0 false 0 ga.isLt (by decide) (by decide)
  have a15 := at15_R y 0x65 gd.toNat ga.toNat la 0 false 0 (by decide) (by decide)
  generalize encR y 0x65 gd.toNat ga.toNat la 0 false 0 = w at *
  have e1 : fN w 0 10 = 0x0 := ((field_low _ _ 0 10 10 (by decide) hl)).trans (by omega)
  have e2 : fN w 11 4 = 0 := a11
  have e3 : fN w 10 1 = 0 := a10
  have e4 : fB w 31 = y := fB_eq _ _ _ (hy)
  have e5 : fV w 20 4 = gd := fV_eq _ _ _ _ (a20)
  have e6 : fV w 16 4 = ga := fV_eq _ _ _ _ (a16)
  have e7 : fB w 15 = la := fB_eq _ _ _ (a15)
  have hM : fN w 24 7 = 0x65 := hm
  rw [at_dec65 w hM]
  simp only [dec65, e1, e2, e3, e4, e5, e6, e7, need, h]
  rfl

theorem gbel (y : Bool) (gd : BitVec 4) (ga : BitVec 4) (la : Bool) : Statement (.gbel y gd ga la) := by
  have q_gd := gd.isLt
  have q_ga := ga.isLt
  have b_y := b1_lt y
  have b_la := b1_lt la
  refine of_number _ (encR y 0x65 gd.toNat ga.toNat la 0 false 1) rfl (lt_R y 0x65 gd.toNat ga.toNat la 0 false 1 (by decide) gd.isLt ga.isLt (by decide) (by decide)) fun h => ?_
  have hm := maj_R y 0x65 gd.toNat ga.toNat la 0 false 1 (by decide) gd.isLt ga.isLt (by decide) (by decide)
  have hy := y_R y 0x65 gd.toNat ga.toNat la 0 false 1 (by decide) gd.isLt ga.isLt (by decide) (by decide)
  have hl := low_R y 0x65 gd.toNat ga.toNat la 0 false 1 (by decide)
  have a11 := at11_R y 0x65 gd.toNat ga.toNat la 0 false 1 (by decide) (by decide)
  have a10 := at10_R y 0x65 gd.toNat ga.toNat la 0 false 1 (by decide)
  have a20 := at20_R y 0x65 gd.toNat ga.toNat la 0 false 1 gd.isLt ga.isLt (by decide) (by decide)
  have a16 := at16_R y 0x65 gd.toNat ga.toNat la 0 false 1 ga.isLt (by decide) (by decide)
  have a15 := at15_R y 0x65 gd.toNat ga.toNat la 0 false 1 (by decide) (by decide)
  generalize encR y 0x65 gd.toNat ga.toNat la 0 false 1 = w at *
  have e1 : fN w 0 10 = 0x1 := ((field_low _ _ 0 10 10 (by decide) hl)).trans (by omega)
  have e2 : fN w 11 4 = 0 := a11
  have e3 : fN w 10 1 = 0 := a10
  have e4 : fB w 31 = y := fB_eq _ _ _ (hy)
  have e5 : fV w 20 4 = gd := fV_eq _ _ _ _ (a20)
  have e6 : fV w 16 4 = ga := fV_eq _ _ _ _ (a16)
  have e7 : fB w 15 = la := fB_eq _ _ _ (a15)
  have hM : fN w 24 7 = 0x65 := hm
  rw [at_dec65 w hM]
  simp only [dec65, e1, e2, e3, e4, e5, e6, e7, need, h]
  rfl

theorem gmarg (y : Bool) (gd : BitVec 4) (ga : BitVec 4) (la : Bool) : Statement (.gmarg y gd ga la) := by
  have q_gd := gd.isLt
  have q_ga := ga.isLt
  have b_y := b1_lt y
  have b_la := b1_lt la
  refine of_number _ (encR y 0x65 gd.toNat ga.toNat la 0 false 2) rfl (lt_R y 0x65 gd.toNat ga.toNat la 0 false 2 (by decide) gd.isLt ga.isLt (by decide) (by decide)) fun h => ?_
  have hm := maj_R y 0x65 gd.toNat ga.toNat la 0 false 2 (by decide) gd.isLt ga.isLt (by decide) (by decide)
  have hy := y_R y 0x65 gd.toNat ga.toNat la 0 false 2 (by decide) gd.isLt ga.isLt (by decide) (by decide)
  have hl := low_R y 0x65 gd.toNat ga.toNat la 0 false 2 (by decide)
  have a11 := at11_R y 0x65 gd.toNat ga.toNat la 0 false 2 (by decide) (by decide)
  have a10 := at10_R y 0x65 gd.toNat ga.toNat la 0 false 2 (by decide)
  have a20 := at20_R y 0x65 gd.toNat ga.toNat la 0 false 2 gd.isLt ga.isLt (by decide) (by decide)
  have a16 := at16_R y 0x65 gd.toNat ga.toNat la 0 false 2 ga.isLt (by decide) (by decide)
  have a15 := at15_R y 0x65 gd.toNat ga.toNat la 0 false 2 (by decide) (by decide)
  generalize encR y 0x65 gd.toNat ga.toNat la 0 false 2 = w at *
  have e1 : fN w 0 10 = 0x2 := ((field_low _ _ 0 10 10 (by decide) hl)).trans (by omega)
  have e2 : fN w 11 4 = 0 := a11
  have e3 : fN w 10 1 = 0 := a10
  have e4 : fB w 31 = y := fB_eq _ _ _ (hy)
  have e5 : fV w 20 4 = gd := fV_eq _ _ _ _ (a20)
  have e6 : fV w 16 4 = ga := fV_eq _ _ _ _ (a16)
  have e7 : fB w 15 = la := fB_eq _ _ _ (a15)
  have hM : fN w 24 7 = 0x65 := hm
  rw [at_dec65 w hM]
  simp only [dec65, e1, e2, e3, e4, e5, e6, e7, need, h]
  rfl

theorem mma (y : Bool) (ta : BitVec 6) (tb : BitVec 6) : Statement (.mma y ta tb) := by
  have q_ta := ta.isLt
  have q_tb := tb.isLt
  have b_y := b1_lt y
  refine of_number _ (encT y 0x66 0 ta.toNat tb.toNat 0) rfl (lt_T y 0x66 0 ta.toNat tb.toNat 0 (by decide) (by decide) ta.isLt tb.isLt (by decide)) fun h => ?_
  have hm := maj_T y 0x66 0 ta.toNat tb.toNat 0 (by decide) (by decide) ta.isLt tb.isLt (by decide)
  have hy := y_T y 0x66 0 ta.toNat tb.toNat 0 (by decide) (by decide) ta.isLt tb.isLt (by decide)
  have hl := low_T y 0x66 0 ta.toNat tb.toNat 0 (by decide)
  have a18 := at18_T y 0x66 0 ta.toNat tb.toNat 0 (by decide) ta.isLt tb.isLt (by decide)
  have a12 := at12_T y 0x66 0 ta.toNat tb.toNat 0 ta.isLt tb.isLt (by decide)
  have a6 := at6_T y 0x66 0 ta.toNat tb.toNat 0 tb.isLt (by decide)
  generalize encT y 0x66 0 ta.toNat tb.toNat 0 = w at *
  have e1 : fN w 0 6 = 0x0 := ((field_low _ _ 0 6 6 (by decide) hl)).trans (by omega)
  have e2 : fN w 18 6 = 0 := a18
  have e3 : fB w 31 = y := fB_eq _ _ _ (hy)
  have e4 : fV w 12 6 = ta := fV_eq _ _ _ _ (a12)
  have e5 : fV w 6 6 = tb := fV_eq _ _ _ _ (a6)
  have hM : fN w 24 7 = 0x66 := hm
  rw [at_dec66 w hM]
  simp only [dec66, e1, e2, e3, e4, e5, need, h]
  rfl

theorem mmas (y : Bool) (td : BitVec 6) (ta : BitVec 6) (tb : BitVec 6) : Statement (.mmas y td ta tb) := by
  have q_td := td.isLt
  have q_ta := ta.isLt
  have q_tb := tb.isLt
  have b_y := b1_lt y
  refine of_number _ (encT y 0x66 td.toNat ta.toNat tb.toNat 1) rfl (lt_T y 0x66 td.toNat ta.toNat tb.toNat 1 (by decide) td.isLt ta.isLt tb.isLt (by decide)) fun h => ?_
  have hm := maj_T y 0x66 td.toNat ta.toNat tb.toNat 1 (by decide) td.isLt ta.isLt tb.isLt (by decide)
  have hy := y_T y 0x66 td.toNat ta.toNat tb.toNat 1 (by decide) td.isLt ta.isLt tb.isLt (by decide)
  have hl := low_T y 0x66 td.toNat ta.toNat tb.toNat 1 (by decide)
  have a18 := at18_T y 0x66 td.toNat ta.toNat tb.toNat 1 td.isLt ta.isLt tb.isLt (by decide)
  have a12 := at12_T y 0x66 td.toNat ta.toNat tb.toNat 1 ta.isLt tb.isLt (by decide)
  have a6 := at6_T y 0x66 td.toNat ta.toNat tb.toNat 1 tb.isLt (by decide)
  generalize encT y 0x66 td.toNat ta.toNat tb.toNat 1 = w at *
  have e1 : fN w 0 6 = 0x1 := ((field_low _ _ 0 6 6 (by decide) hl)).trans (by omega)
  have e2 : fB w 31 = y := fB_eq _ _ _ (hy)
  have e3 : fV w 18 6 = td := fV_eq _ _ _ _ (a18)
  have e4 : fV w 12 6 = ta := fV_eq _ _ _ _ (a12)
  have e5 : fV w 6 6 = tb := fV_eq _ _ _ _ (a6)
  have hM : fN w 24 7 = 0x66 := hm
  rw [at_dec66 w hM]
  simp only [dec66, e1, e2, e3, e4, e5, need, h]
  rfl

theorem mzero (y : Bool) : Statement (.mzero y) := by
  have b_y := b1_lt y
  refine of_number _ (encT y 0x66 0 0 0 2) rfl (lt_T y 0x66 0 0 0 2 (by decide) (by decide) (by decide) (by decide) (by decide)) fun h => ?_
  have hm := maj_T y 0x66 0 0 0 2 (by decide) (by decide) (by decide) (by decide) (by decide)
  have hy := y_T y 0x66 0 0 0 2 (by decide) (by decide) (by decide) (by decide) (by decide)
  have hl := low_T y 0x66 0 0 0 2 (by decide)
  have a18 := at18_T y 0x66 0 0 0 2 (by decide) (by decide) (by decide) (by decide)
  have a12 := at12_T y 0x66 0 0 0 2 (by decide) (by decide) (by decide)
  have a6 := at6_T y 0x66 0 0 0 2 (by decide) (by decide)
  generalize encT y 0x66 0 0 0 2 = w at *
  have e1 : fN w 0 6 = 0x2 := ((field_low _ _ 0 6 6 (by decide) hl)).trans (by omega)
  have e2 : fN w 18 6 = 0 := a18
  have e3 : fN w 12 6 = 0 := a12
  have e4 : fN w 6 6 = 0 := a6
  have e5 : fB w 31 = y := fB_eq _ _ _ (hy)
  have hM : fN w 24 7 = 0x66 := hm
  rw [at_dec66 w hM]
  simp only [dec66, e1, e2, e3, e4, e5, need, h]
  rfl

theorem macc (y : Bool) (ta : BitVec 6) : Statement (.macc y ta) := by
  have q_ta := ta.isLt
  have b_y := b1_lt y
  refine of_number _ (encT y 0x66 0 ta.toNat 0 3) rfl (lt_T y 0x66 0 ta.toNat 0 3 (by decide) (by decide) ta.isLt (by decide) (by decide)) fun h => ?_
  have hm := maj_T y 0x66 0 ta.toNat 0 3 (by decide) (by decide) ta.isLt (by decide) (by decide)
  have hy := y_T y 0x66 0 ta.toNat 0 3 (by decide) (by decide) ta.isLt (by decide) (by decide)
  have hl := low_T y 0x66 0 ta.toNat 0 3 (by decide)
  have a18 := at18_T y 0x66 0 ta.toNat 0 3 (by decide) ta.isLt (by decide) (by decide)
  have a6 := at6_T y 0x66 0 ta.toNat 0 3 (by decide) (by decide)
  have a12 := at12_T y 0x66 0 ta.toNat 0 3 ta.isLt (by decide) (by decide)
  generalize encT y 0x66 0 ta.toNat 0 3 = w at *
  have e1 : fN w 0 6 = 0x3 := ((field_low _ _ 0 6 6 (by decide) hl)).trans (by omega)
  have e2 : fN w 18 6 = 0 := a18
  have e3 : fN w 6 6 = 0 := a6
  have e4 : fB w 31 = y := fB_eq _ _ _ (hy)
  have e5 : fV w 12 6 = ta := fV_eq _ _ _ _ (a12)
  have hM : fN w 24 7 = 0x66 := hm
  rw [at_dec66 w hM]
  simp only [dec66, e1, e2, e3, e4, e5, need, h]
  rfl

theorem mst (y : Bool) (td : BitVec 6) : Statement (.mst y td) := by
  have q_td := td.isLt
  have b_y := b1_lt y
  refine of_number _ (encT y 0x66 td.toNat 0 0 4) rfl (lt_T y 0x66 td.toNat 0 0 4 (by decide) td.isLt (by decide) (by decide) (by decide)) fun h => ?_
  have hm := maj_T y 0x66 td.toNat 0 0 4 (by decide) td.isLt (by decide) (by decide) (by decide)
  have hy := y_T y 0x66 td.toNat 0 0 4 (by decide) td.isLt (by decide) (by decide) (by decide)
  have hl := low_T y 0x66 td.toNat 0 0 4 (by decide)
  have a12 := at12_T y 0x66 td.toNat 0 0 4 (by decide) (by decide) (by decide)
  have a6 := at6_T y 0x66 td.toNat 0 0 4 (by decide) (by decide)
  have a18 := at18_T y 0x66 td.toNat 0 0 4 td.isLt (by decide) (by decide) (by decide)
  generalize encT y 0x66 td.toNat 0 0 4 = w at *
  have e1 : fN w 0 6 = 0x4 := ((field_low _ _ 0 6 6 (by decide) hl)).trans (by omega)
  have e2 : fN w 12 6 = 0 := a12
  have e3 : fN w 6 6 = 0 := a6
  have e4 : fB w 31 = y := fB_eq _ _ _ (hy)
  have e5 : fV w 18 6 = td := fV_eq _ _ _ _ (a18)
  have hM : fN w 24 7 = 0x66 := hm
  rw [at_dec66 w hM]
  simp only [dec66, e1, e2, e3, e4, e5, need, h]
  rfl

theorem mlease (y : Bool) (bound : BitVec 8) : Statement (.mlease y bound) := by
  have q_bound := bound.isLt
  have b_y := b1_lt y
  have hlo : bound.toNat < 32768 := by omega
  refine of_number _ (encI y 0x67 0 0 false bound.toNat) rfl (lt_I y 0x67 0 0 false bound.toNat (by decide) (by decide) (by decide) hlo) fun h => ?_
  have hm := maj_I y 0x67 0 0 false bound.toNat (by decide) (by decide) (by decide) hlo
  have hy := y_I y 0x67 0 0 false bound.toNat (by decide) (by decide) (by decide) hlo
  have hl := low_I y 0x67 0 0 false bound.toNat hlo
  have a20 := at20_I y 0x67 0 0 false bound.toNat (by decide) (by decide) hlo
  have a16 := at16_I y 0x67 0 0 false bound.toNat (by decide) hlo
  have a15 := at15_I y 0x67 0 0 false bound.toNat hlo
  generalize encI y 0x67 0 0 false bound.toNat = w at *
  have e1 : fN w 20 4 = 0 := a20
  have e2 : fN w 16 4 = 0 := a16
  have e3 : fN w 15 1 = 0 := a15
  have e4 : fN w 8 7 = 0 := ((field_low _ _ 8 7 15 (by decide) hl)).trans (by omega)
  have e5 : fB w 31 = y := fB_eq _ _ _ (hy)
  have e6 : fV w 0 8 = bound := fV_eq _ _ _ _ (((field_low _ _ 0 8 15 (by decide) hl)).trans (by omega))
  have hM : fN w 24 7 = 0x67 := hm
  rw [at_dec67 w hM]
  simp only [dec67, e1, e2, e3, e4, e5, e6, need, h]
  rfl

theorem mrel (y : Bool) : Statement (.mrel y) := by
  have b_y := b1_lt y
  refine of_number _ (encR y 0x68 0 0 false 0 false 0) rfl (lt_R y 0x68 0 0 false 0 false 0 (by decide) (by decide) (by decide) (by decide) (by decide)) fun h => ?_
  have hm := maj_R y 0x68 0 0 false 0 false 0 (by decide) (by decide) (by decide) (by decide) (by decide)
  have hy := y_R y 0x68 0 0 false 0 false 0 (by decide) (by decide) (by decide) (by decide) (by decide)
  have hl := low_R y 0x68 0 0 false 0 false 0 (by decide)
  have a20 := at20_R y 0x68 0 0 false 0 false 0 (by decide) (by decide) (by decide) (by decide)
  have a16 := at16_R y 0x68 0 0 false 0 false 0 (by decide) (by decide) (by decide)
  have a15 := at15_R y 0x68 0 0 false 0 false 0 (by decide) (by decide)
  have a11 := at11_R y 0x68 0 0 false 0 false 0 (by decide) (by decide)
  have a10 := at10_R y 0x68 0 0 false 0 false 0 (by decide)
  generalize encR y 0x68 0 0 false 0 false 0 = w at *
  have e1 : fN w 0 10 = 0x0 := ((field_low _ _ 0 10 10 (by decide) hl)).trans (by omega)
  have e2 : fN w 20 4 = 0 := a20
  have e3 : fN w 16 4 = 0 := a16
  have e4 : fN w 15 1 = 0 := a15
  have e5 : fN w 11 4 = 0 := a11
  have e6 : fN w 10 1 = 0 := a10
  have e7 : fB w 31 = y := fB_eq _ _ _ (hy)
  have hM : fN w 24 7 = 0x68 := hm
  rw [at_dec68 w hM]
  simp only [dec68, e1, e2, e3, e4, e5, e6, e7, need, h]
  rfl

theorem mstep (y : Bool) (gd : BitVec 4) : Statement (.mstep y gd) := by
  have q_gd := gd.isLt
  have b_y := b1_lt y
  refine of_number _ (encR y 0x68 gd.toNat 0 false 0 false 1) rfl (lt_R y 0x68 gd.toNat 0 false 0 false 1 (by decide) gd.isLt (by decide) (by decide) (by decide)) fun h => ?_
  have hm := maj_R y 0x68 gd.toNat 0 false 0 false 1 (by decide) gd.isLt (by decide) (by decide) (by decide)
  have hy := y_R y 0x68 gd.toNat 0 false 0 false 1 (by decide) gd.isLt (by decide) (by decide) (by decide)
  have hl := low_R y 0x68 gd.toNat 0 false 0 false 1 (by decide)
  have a16 := at16_R y 0x68 gd.toNat 0 false 0 false 1 (by decide) (by decide) (by decide)
  have a15 := at15_R y 0x68 gd.toNat 0 false 0 false 1 (by decide) (by decide)
  have a11 := at11_R y 0x68 gd.toNat 0 false 0 false 1 (by decide) (by decide)
  have a10 := at10_R y 0x68 gd.toNat 0 false 0 false 1 (by decide)
  have a20 := at20_R y 0x68 gd.toNat 0 false 0 false 1 gd.isLt (by decide) (by decide) (by decide)
  generalize encR y 0x68 gd.toNat 0 false 0 false 1 = w at *
  have e1 : fN w 0 10 = 0x1 := ((field_low _ _ 0 10 10 (by decide) hl)).trans (by omega)
  have e2 : fN w 16 4 = 0 := a16
  have e3 : fN w 15 1 = 0 := a15
  have e4 : fN w 11 4 = 0 := a11
  have e5 : fN w 10 1 = 0 := a10
  have e6 : fB w 31 = y := fB_eq _ _ _ (hy)
  have e7 : fV w 20 4 = gd := fV_eq _ _ _ _ (a20)
  have hM : fN w 24 7 = 0x68 := hm
  rw [at_dec68 w hM]
  simp only [dec68, e1, e2, e3, e4, e5, e6, e7, need, h]
  rfl

theorem cpyq (y : Bool) (ga : BitVec 4) (la : Bool) (gb : BitVec 4) (lb : Bool) (nb : Bool) : Statement (.cpyq y ga la gb lb nb) := by
  have q_ga := ga.isLt
  have q_gb := gb.isLt
  have b_y := b1_lt y
  have b_la := b1_lt la
  have b_lb := b1_lt lb
  have b_nb := b1_lt nb
  have hlo : (b1 nb * 0x20) < 1024 := by omega
  refine of_number _ (encX y 0x70 ga.toNat la gb.toNat lb 0 (b1 nb * 0x20)) rfl (lt_X y 0x70 ga.toNat la gb.toNat lb 0 (b1 nb * 0x20) (by decide) ga.isLt gb.isLt (by decide) hlo) fun h => ?_
  have hm := maj_X y 0x70 ga.toNat la gb.toNat lb 0 (b1 nb * 0x20) (by decide) ga.isLt gb.isLt (by decide) hlo
  have hy := y_X y 0x70 ga.toNat la gb.toNat lb 0 (b1 nb * 0x20) (by decide) ga.isLt gb.isLt (by decide) hlo
  have hl := low_X y 0x70 ga.toNat la gb.toNat lb 0 (b1 nb * 0x20) hlo
  have a10 := at10_X y 0x70 ga.toNat la gb.toNat lb 0 (b1 nb * 0x20) (by decide) hlo
  have a20 := at20_X y 0x70 ga.toNat la gb.toNat lb 0 (b1 nb * 0x20) ga.isLt gb.isLt (by decide) hlo
  have a19 := at19_X y 0x70 ga.toNat la gb.toNat lb 0 (b1 nb * 0x20) gb.isLt (by decide) hlo
  have a15 := at15_X y 0x70 ga.toNat la gb.toNat lb 0 (b1 nb * 0x20) gb.isLt (by decide) hlo
  have a14 := at14_X y 0x70 ga.toNat la gb.toNat lb 0 (b1 nb * 0x20) (by decide) hlo
  generalize encX y 0x70 ga.toNat la gb.toNat lb 0 (b1 nb * 0x20) = w at *
  have e1 : fN w 10 4 = 0x0 := a10
  have e2 : fN w 0 5 = 0x0 := ((field_low _ _ 0 5 10 (by decide) hl)).trans (by omega)
  have e3 : fN w 6 4 = 0 := ((field_low _ _ 6 4 10 (by decide) hl)).trans (by omega)
  have e4 : fB w 31 = y := fB_eq _ _ _ (hy)
  have e5 : fV w 20 4 = ga := fV_eq _ _ _ _ (a20)
  have e6 : fB w 19 = la := fB_eq _ _ _ (a19)
  have e7 : fV w 15 4 = gb := fV_eq _ _ _ _ (a15)
  have e8 : fB w 14 = lb := fB_eq _ _ _ (a14)
  have e9 : fB w 5 = nb := fB_eq _ _ _ (((field_low _ _ 5 1 10 (by decide) hl)).trans (by omega))
  have hM : fN w 24 7 = 0x70 := hm
  rw [at_dec70 w hM]
  simp only [dec70, e1, e2, e3, e4, e5, e6, e7, e8, e9, need, h]
  rfl

theorem kick (y : Bool) (ga : BitVec 4) (la : Bool) (gb : BitVec 4) (lb : Bool) : Statement (.kick y ga la gb lb) := by
  have q_ga := ga.isLt
  have q_gb := gb.isLt
  have b_y := b1_lt y
  have b_la := b1_lt la
  have b_lb := b1_lt lb
  refine of_number _ (encX y 0x70 ga.toNat la gb.toNat lb 0 1) rfl (lt_X y 0x70 ga.toNat la gb.toNat lb 0 1 (by decide) ga.isLt gb.isLt (by decide) (by decide)) fun h => ?_
  have hm := maj_X y 0x70 ga.toNat la gb.toNat lb 0 1 (by decide) ga.isLt gb.isLt (by decide) (by decide)
  have hy := y_X y 0x70 ga.toNat la gb.toNat lb 0 1 (by decide) ga.isLt gb.isLt (by decide) (by decide)
  have hl := low_X y 0x70 ga.toNat la gb.toNat lb 0 1 (by decide)
  have a10 := at10_X y 0x70 ga.toNat la gb.toNat lb 0 1 (by decide) (by decide)
  have a20 := at20_X y 0x70 ga.toNat la gb.toNat lb 0 1 ga.isLt gb.isLt (by decide) (by decide)
  have a19 := at19_X y 0x70 ga.toNat la gb.toNat lb 0 1 gb.isLt (by decide) (by decide)
  have a15 := at15_X y 0x70 ga.toNat la gb.toNat lb 0 1 gb.isLt (by decide) (by decide)
  have a14 := at14_X y 0x70 ga.toNat la gb.toNat lb 0 1 (by decide) (by decide)
  generalize encX y 0x70 ga.toNat la gb.toNat lb 0 1 = w at *
  have e1 : fN w 10 4 = 0x0 := a10
  have e2 : fN w 0 5 = 0x1 := ((field_low _ _ 0 5 10 (by decide) hl)).trans (by omega)
  have e3 : fN w 5 5 = 0 := ((field_low _ _ 5 5 10 (by decide) hl)).trans (by omega)
  have e4 : fB w 31 = y := fB_eq _ _ _ (hy)
  have e5 : fV w 20 4 = ga := fV_eq _ _ _ _ (a20)
  have e6 : fB w 19 = la := fB_eq _ _ _ (a19)
  have e7 : fV w 15 4 = gb := fV_eq _ _ _ _ (a15)
  have e8 : fB w 14 = lb := fB_eq _ _ _ (a14)
  have hM : fN w 24 7 = 0x70 := hm
  rw [at_dec70 w hM]
  simp only [dec70, e1, e2, e3, e4, e5, e6, e7, e8, need, h]
  rfl

theorem cpywait (y : Bool) : Statement (.cpywait y) := by
  have b_y := b1_lt y
  refine of_number _ (encX y 0x70 0 false 0 false 0 2) rfl (lt_X y 0x70 0 false 0 false 0 2 (by decide) (by decide) (by decide) (by decide) (by decide)) fun h => ?_
  have hm := maj_X y 0x70 0 false 0 false 0 2 (by decide) (by decide) (by decide) (by decide) (by decide)
  have hy := y_X y 0x70 0 false 0 false 0 2 (by decide) (by decide) (by decide) (by decide) (by decide)
  have hl := low_X y 0x70 0 false 0 false 0 2 (by decide)
  have a10 := at10_X y 0x70 0 false 0 false 0 2 (by decide) (by decide)
  have a20 := at20_X y 0x70 0 false 0 false 0 2 (by decide) (by decide) (by decide) (by decide)
  have a19 := at19_X y 0x70 0 false 0 false 0 2 (by decide) (by decide) (by decide)
  have a15 := at15_X y 0x70 0 false 0 false 0 2 (by decide) (by decide) (by decide)
  have a14 := at14_X y 0x70 0 false 0 false 0 2 (by decide) (by decide)
  generalize encX y 0x70 0 false 0 false 0 2 = w at *
  have e1 : fN w 10 4 = 0x0 := a10
  have e2 : fN w 0 5 = 0x2 := ((field_low _ _ 0 5 10 (by decide) hl)).trans (by omega)
  have e3 : fN w 20 4 = 0 := a20
  have e4 : fN w 19 1 = 0 := a19
  have e5 : fN w 15 4 = 0 := a15
  have e6 : fN w 14 1 = 0 := a14
  have e7 : fN w 5 5 = 0 := ((field_low _ _ 5 5 10 (by decide) hl)).trans (by omega)
  have e8 : fB w 31 = y := fB_eq _ _ _ (hy)
  have hM : fN w 24 7 = 0x70 := hm
  rw [at_dec70 w hM]
  simp only [dec70, e1, e2, e3, e4, e5, e6, e7, e8, need, h]
  rfl

theorem cpystat (y : Bool) (gd : BitVec 4) : Statement (.cpystat y gd) := by
  have q_gd := gd.isLt
  have b_y := b1_lt y
  refine of_number _ (encI y 0x71 gd.toNat 0 false 0) rfl (lt_I y 0x71 gd.toNat 0 false 0 (by decide) gd.isLt (by decide) (by decide)) fun h => ?_
  have hm := maj_I y 0x71 gd.toNat 0 false 0 (by decide) gd.isLt (by decide) (by decide)
  have hy := y_I y 0x71 gd.toNat 0 false 0 (by decide) gd.isLt (by decide) (by decide)
  have hl := low_I y 0x71 gd.toNat 0 false 0 (by decide)
  have a16 := at16_I y 0x71 gd.toNat 0 false 0 (by decide) (by decide)
  have a15 := at15_I y 0x71 gd.toNat 0 false 0 (by decide)
  have a20 := at20_I y 0x71 gd.toNat 0 false 0 gd.isLt (by decide) (by decide)
  generalize encI y 0x71 gd.toNat 0 false 0 = w at *
  have e1 : fN w 10 4 = 0x0 := ((field_low _ _ 10 4 15 (by decide) hl)).trans (by omega)
  have e2 : fN w 0 5 = 0x0 := ((field_low _ _ 0 5 15 (by decide) hl)).trans (by omega)
  have e3 : fN w 16 4 = 0 := a16
  have e4 : fN w 15 1 = 0 := a15
  have e5 : fN w 5 5 = 0 := ((field_low _ _ 5 5 15 (by decide) hl)).trans (by omega)
  have e6 : fN w 14 1 = 0 := ((field_low _ _ 14 1 15 (by decide) hl)).trans (by omega)
  have e7 : fB w 31 = y := fB_eq _ _ _ (hy)
  have e8 : fV w 20 4 = gd := fV_eq _ _ _ _ (a20)
  have hM : fN w 24 7 = 0x71 := hm
  rw [at_dec71 w hM]
  simp only [dec71, e1, e2, e3, e4, e5, e6, e7, e8, need, h]
  rfl

theorem ldnn (y : Bool) (ga : BitVec 4) (la : Bool) (gb : BitVec 4) (lb : Bool) : Statement (.ldnn y ga la gb lb) := by
  have q_ga := ga.isLt
  have q_gb := gb.isLt
  have b_y := b1_lt y
  have b_la := b1_lt la
  have b_lb := b1_lt lb
  refine of_number _ (encX y 0x70 ga.toNat la gb.toNat lb 2 0) rfl (lt_X y 0x70 ga.toNat la gb.toNat lb 2 0 (by decide) ga.isLt gb.isLt (by decide) (by decide)) fun h => ?_
  have hm := maj_X y 0x70 ga.toNat la gb.toNat lb 2 0 (by decide) ga.isLt gb.isLt (by decide) (by decide)
  have hy := y_X y 0x70 ga.toNat la gb.toNat lb 2 0 (by decide) ga.isLt gb.isLt (by decide) (by decide)
  have hl := low_X y 0x70 ga.toNat la gb.toNat lb 2 0 (by decide)
  have a10 := at10_X y 0x70 ga.toNat la gb.toNat lb 2 0 (by decide) (by decide)
  have a20 := at20_X y 0x70 ga.toNat la gb.toNat lb 2 0 ga.isLt gb.isLt (by decide) (by decide)
  have a19 := at19_X y 0x70 ga.toNat la gb.toNat lb 2 0 gb.isLt (by decide) (by decide)
  have a15 := at15_X y 0x70 ga.toNat la gb.toNat lb 2 0 gb.isLt (by decide) (by decide)
  have a14 := at14_X y 0x70 ga.toNat la gb.toNat lb 2 0 (by decide) (by decide)
  generalize encX y 0x70 ga.toNat la gb.toNat lb 2 0 = w at *
  have e1 : fN w 10 4 = 0x2 := a10
  have e2 : fN w 0 5 = 0x0 := ((field_low _ _ 0 5 10 (by decide) hl)).trans (by omega)
  have e3 : fN w 5 5 = 0 := ((field_low _ _ 5 5 10 (by decide) hl)).trans (by omega)
  have e4 : fB w 31 = y := fB_eq _ _ _ (hy)
  have e5 : fV w 20 4 = ga := fV_eq _ _ _ _ (a20)
  have e6 : fB w 19 = la := fB_eq _ _ _ (a19)
  have e7 : fV w 15 4 = gb := fV_eq _ _ _ _ (a15)
  have e8 : fB w 14 = lb := fB_eq _ _ _ (a14)
  have hM : fN w 24 7 = 0x70 := hm
  rw [at_dec70 w hM]
  simp only [dec70, e1, e2, e3, e4, e5, e6, e7, e8, need, h]
  rfl

theorem stvec (y : Bool) (ga : BitVec 4) (la : Bool) (gb : BitVec 4) (lb : Bool) : Statement (.stvec y ga la gb lb) := by
  have q_ga := ga.isLt
  have q_gb := gb.isLt
  have b_y := b1_lt y
  have b_la := b1_lt la
  have b_lb := b1_lt lb
  refine of_number _ (encX y 0x70 ga.toNat la gb.toNat lb 2 1) rfl (lt_X y 0x70 ga.toNat la gb.toNat lb 2 1 (by decide) ga.isLt gb.isLt (by decide) (by decide)) fun h => ?_
  have hm := maj_X y 0x70 ga.toNat la gb.toNat lb 2 1 (by decide) ga.isLt gb.isLt (by decide) (by decide)
  have hy := y_X y 0x70 ga.toNat la gb.toNat lb 2 1 (by decide) ga.isLt gb.isLt (by decide) (by decide)
  have hl := low_X y 0x70 ga.toNat la gb.toNat lb 2 1 (by decide)
  have a10 := at10_X y 0x70 ga.toNat la gb.toNat lb 2 1 (by decide) (by decide)
  have a20 := at20_X y 0x70 ga.toNat la gb.toNat lb 2 1 ga.isLt gb.isLt (by decide) (by decide)
  have a19 := at19_X y 0x70 ga.toNat la gb.toNat lb 2 1 gb.isLt (by decide) (by decide)
  have a15 := at15_X y 0x70 ga.toNat la gb.toNat lb 2 1 gb.isLt (by decide) (by decide)
  have a14 := at14_X y 0x70 ga.toNat la gb.toNat lb 2 1 (by decide) (by decide)
  generalize encX y 0x70 ga.toNat la gb.toNat lb 2 1 = w at *
  have e1 : fN w 10 4 = 0x2 := a10
  have e2 : fN w 0 5 = 0x1 := ((field_low _ _ 0 5 10 (by decide) hl)).trans (by omega)
  have e3 : fN w 5 5 = 0 := ((field_low _ _ 5 5 10 (by decide) hl)).trans (by omega)
  have e4 : fB w 31 = y := fB_eq _ _ _ (hy)
  have e5 : fV w 20 4 = ga := fV_eq _ _ _ _ (a20)
  have e6 : fB w 19 = la := fB_eq _ _ _ (a19)
  have e7 : fV w 15 4 = gb := fV_eq _ _ _ _ (a15)
  have e8 : fB w 14 = lb := fB_eq _ _ _ (a14)
  have hM : fN w 24 7 = 0x70 := hm
  rw [at_dec70 w hM]
  simp only [dec70, e1, e2, e3, e4, e5, e6, e7, e8, need, h]
  rfl

theorem dlvec (y : Bool) (ga : BitVec 4) (la : Bool) (gb : BitVec 4) (lb : Bool) : Statement (.dlvec y ga la gb lb) := by
  have q_ga := ga.isLt
  have q_gb := gb.isLt
  have b_y := b1_lt y
  have b_la := b1_lt la
  have b_lb := b1_lt lb
  refine of_number _ (encX y 0x70 ga.toNat la gb.toNat lb 2 2) rfl (lt_X y 0x70 ga.toNat la gb.toNat lb 2 2 (by decide) ga.isLt gb.isLt (by decide) (by decide)) fun h => ?_
  have hm := maj_X y 0x70 ga.toNat la gb.toNat lb 2 2 (by decide) ga.isLt gb.isLt (by decide) (by decide)
  have hy := y_X y 0x70 ga.toNat la gb.toNat lb 2 2 (by decide) ga.isLt gb.isLt (by decide) (by decide)
  have hl := low_X y 0x70 ga.toNat la gb.toNat lb 2 2 (by decide)
  have a10 := at10_X y 0x70 ga.toNat la gb.toNat lb 2 2 (by decide) (by decide)
  have a20 := at20_X y 0x70 ga.toNat la gb.toNat lb 2 2 ga.isLt gb.isLt (by decide) (by decide)
  have a19 := at19_X y 0x70 ga.toNat la gb.toNat lb 2 2 gb.isLt (by decide) (by decide)
  have a15 := at15_X y 0x70 ga.toNat la gb.toNat lb 2 2 gb.isLt (by decide) (by decide)
  have a14 := at14_X y 0x70 ga.toNat la gb.toNat lb 2 2 (by decide) (by decide)
  generalize encX y 0x70 ga.toNat la gb.toNat lb 2 2 = w at *
  have e1 : fN w 10 4 = 0x2 := a10
  have e2 : fN w 0 5 = 0x2 := ((field_low _ _ 0 5 10 (by decide) hl)).trans (by omega)
  have e3 : fN w 5 5 = 0 := ((field_low _ _ 5 5 10 (by decide) hl)).trans (by omega)
  have e4 : fB w 31 = y := fB_eq _ _ _ (hy)
  have e5 : fV w 20 4 = ga := fV_eq _ _ _ _ (a20)
  have e6 : fB w 19 = la := fB_eq _ _ _ (a19)
  have e7 : fV w 15 4 = gb := fV_eq _ _ _ _ (a15)
  have e8 : fB w 14 = lb := fB_eq _ _ _ (a14)
  have hM : fN w 24 7 = 0x70 := hm
  rw [at_dec70 w hM]
  simp only [dec70, e1, e2, e3, e4, e5, e6, e7, e8, need, h]
  rfl

theorem ixopen (y : Bool) (gd : BitVec 4) (ga : BitVec 4) (la : Bool) : Statement (.ixopen y gd ga la) := by
  have q_gd := gd.isLt
  have q_ga := ga.isLt
  have b_y := b1_lt y
  have b_la := b1_lt la
  refine of_number _ (encI y 0x71 gd.toNat ga.toNat la 0x800) rfl (lt_I y 0x71 gd.toNat ga.toNat la 0x800 (by decide) gd.isLt ga.isLt (by decide)) fun h => ?_
  have hm := maj_I y 0x71 gd.toNat ga.toNat la 0x800 (by decide) gd.isLt ga.isLt (by decide)
  have hy := y_I y 0x71 gd.toNat ga.toNat la 0x800 (by decide) gd.isLt ga.isLt (by decide)
  have hl := low_I y 0x71 gd.toNat ga.toNat la 0x800 (by decide)
  have a20 := at20_I y 0x71 gd.toNat ga.toNat la 0x800 gd.isLt ga.isLt (by decide)
  have a16 := at16_I y 0x71 gd.toNat ga.toNat la 0x800 ga.isLt (by decide)
  have a15 := at15_I y 0x71 gd.toNat ga.toNat la 0x800 (by decide)
  generalize encI y 0x71 gd.toNat ga.toNat la 0x800 = w at *
  have e1 : fN w 10 4 = 0x2 := ((field_low _ _ 10 4 15 (by decide) hl)).trans (by omega)
  have e2 : fN w 0 5 = 0x0 := ((field_low _ _ 0 5 15 (by decide) hl)).trans (by omega)
  have e3 : fN w 5 5 = 0 := ((field_low _ _ 5 5 15 (by decide) hl)).trans (by omega)
  have e4 : fN w 14 1 = 0 := ((field_low _ _ 14 1 15 (by decide) hl)).trans (by omega)
  have e5 : fB w 31 = y := fB_eq _ _ _ (hy)
  have e6 : fV w 20 4 = gd := fV_eq _ _ _ _ (a20)
  have e7 : fV w 16 4 = ga := fV_eq _ _ _ _ (a16)
  have e8 : fB w 15 = la := fB_eq _ _ _ (a15)
  have hM : fN w 24 7 = 0x71 := hm
  rw [at_dec71 w hM]
  simp only [dec71, e1, e2, e3, e4, e5, e6, e7, e8, need, h]
  rfl

theorem ixstat (y : Bool) (gd : BitVec 4) (ga : BitVec 4) (la : Bool) : Statement (.ixstat y gd ga la) := by
  have q_gd := gd.isLt
  have q_ga := ga.isLt
  have b_y := b1_lt y
  have b_la := b1_lt la
  refine of_number _ (encI y 0x71 gd.toNat ga.toNat la 0x801) rfl (lt_I y 0x71 gd.toNat ga.toNat la 0x801 (by decide) gd.isLt ga.isLt (by decide)) fun h => ?_
  have hm := maj_I y 0x71 gd.toNat ga.toNat la 0x801 (by decide) gd.isLt ga.isLt (by decide)
  have hy := y_I y 0x71 gd.toNat ga.toNat la 0x801 (by decide) gd.isLt ga.isLt (by decide)
  have hl := low_I y 0x71 gd.toNat ga.toNat la 0x801 (by decide)
  have a20 := at20_I y 0x71 gd.toNat ga.toNat la 0x801 gd.isLt ga.isLt (by decide)
  have a16 := at16_I y 0x71 gd.toNat ga.toNat la 0x801 ga.isLt (by decide)
  have a15 := at15_I y 0x71 gd.toNat ga.toNat la 0x801 (by decide)
  generalize encI y 0x71 gd.toNat ga.toNat la 0x801 = w at *
  have e1 : fN w 10 4 = 0x2 := ((field_low _ _ 10 4 15 (by decide) hl)).trans (by omega)
  have e2 : fN w 0 5 = 0x1 := ((field_low _ _ 0 5 15 (by decide) hl)).trans (by omega)
  have e3 : fN w 5 5 = 0 := ((field_low _ _ 5 5 15 (by decide) hl)).trans (by omega)
  have e4 : fN w 14 1 = 0 := ((field_low _ _ 14 1 15 (by decide) hl)).trans (by omega)
  have e5 : fB w 31 = y := fB_eq _ _ _ (hy)
  have e6 : fV w 20 4 = gd := fV_eq _ _ _ _ (a20)
  have e7 : fV w 16 4 = ga := fV_eq _ _ _ _ (a16)
  have e8 : fB w 15 = la := fB_eq _ _ _ (a15)
  have hM : fN w 24 7 = 0x71 := hm
  rw [at_dec71 w hM]
  simp only [dec71, e1, e2, e3, e4, e5, e6, e7, e8, need, h]
  rfl

theorem send (y : Bool) (ga : BitVec 4) (la : Bool) (scope : BitVec 4) (rel : Bool) : Statement (.send y ga la scope rel) := by
  have q_ga := ga.isLt
  have q_scope := scope.isLt
  have b_y := b1_lt y
  have b_la := b1_lt la
  have b_rel := b1_lt rel
  have hlo : (scope.toNat * 0x40 + b1 rel * 0x20) < 1024 := by omega
  refine of_number _ (encX y 0x70 ga.toNat la 0 false 3 (scope.toNat * 0x40 + b1 rel * 0x20)) rfl (lt_X y 0x70 ga.toNat la 0 false 3 (scope.toNat * 0x40 + b1 rel * 0x20) (by decide) ga.isLt (by decide) (by decide) hlo) fun h => ?_
  have hm := maj_X y 0x70 ga.toNat la 0 false 3 (scope.toNat * 0x40 + b1 rel * 0x20) (by decide) ga.isLt (by decide) (by decide) hlo
  have hy := y_X y 0x70 ga.toNat la 0 false 3 (scope.toNat * 0x40 + b1 rel * 0x20) (by decide) ga.isLt (by decide) (by decide) hlo
  have hl := low_X y 0x70 ga.toNat la 0 false 3 (scope.toNat * 0x40 + b1 rel * 0x20) hlo
  have a10 := at10_X y 0x70 ga.toNat la 0 false 3 (scope.toNat * 0x40 + b1 rel * 0x20) (by decide) hlo
  have a15 := at15_X y 0x70 ga.toNat la 0 false 3 (scope.toNat * 0x40 + b1 rel * 0x20) (by decide) (by decide) hlo
  have a14 := at14_X y 0x70 ga.toNat la 0 false 3 (scope.toNat * 0x40 + b1 rel * 0x20) (by decide) hlo
  have a20 := at20_X y 0x70 ga.toNat la 0 false 3 (scope.toNat * 0x40 + b1 rel * 0x20) ga.isLt (by decide) (by decide) hlo
  have a19 := at19_X y 0x70 ga.toNat la 0 false 3 (scope.toNat * 0x40 + b1 rel * 0x20) (by decide) (by decide) hlo
  generalize encX y 0x70 ga.toNat la 0 false 3 (scope.toNat * 0x40 + b1 rel * 0x20) = w at *
  have e1 : fN w 10 4 = 0x3 := a10
  have e2 : fN w 0 5 = 0x0 := ((field_low _ _ 0 5 10 (by decide) hl)).trans (by omega)
  have e3 : fN w 15 4 = 0 := a15
  have e4 : fN w 14 1 = 0 := a14
  have e5 : fB w 31 = y := fB_eq _ _ _ (hy)
  have e6 : fV w 20 4 = ga := fV_eq _ _ _ _ (a20)
  have e7 : fB w 19 = la := fB_eq _ _ _ (a19)
  have e8 : fV w 6 4 = scope := fV_eq _ _ _ _ (((field_low _ _ 6 4 10 (by decide) hl)).trans (by omega))
  have e9 : fB w 5 = rel := fB_eq _ _ _ (((field_low _ _ 5 1 10 (by decide) hl)).trans (by omega))
  have hM : fN w 24 7 = 0x70 := hm
  rw [at_dec70 w hM]
  simp only [dec70, e1, e2, e3, e4, e5, e6, e7, e8, e9, need, h]
  rfl

theorem rpost (y : Bool) (ga : BitVec 4) (la : Bool) : Statement (.rpost y ga la) := by
  have q_ga := ga.isLt
  have b_y := b1_lt y
  have b_la := b1_lt la
  refine of_number _ (encX y 0x70 ga.toNat la 0 false 3 1) rfl (lt_X y 0x70 ga.toNat la 0 false 3 1 (by decide) ga.isLt (by decide) (by decide) (by decide)) fun h => ?_
  have hm := maj_X y 0x70 ga.toNat la 0 false 3 1 (by decide) ga.isLt (by decide) (by decide) (by decide)
  have hy := y_X y 0x70 ga.toNat la 0 false 3 1 (by decide) ga.isLt (by decide) (by decide) (by decide)
  have hl := low_X y 0x70 ga.toNat la 0 false 3 1 (by decide)
  have a10 := at10_X y 0x70 ga.toNat la 0 false 3 1 (by decide) (by decide)
  have a15 := at15_X y 0x70 ga.toNat la 0 false 3 1 (by decide) (by decide) (by decide)
  have a14 := at14_X y 0x70 ga.toNat la 0 false 3 1 (by decide) (by decide)
  have a20 := at20_X y 0x70 ga.toNat la 0 false 3 1 ga.isLt (by decide) (by decide) (by decide)
  have a19 := at19_X y 0x70 ga.toNat la 0 false 3 1 (by decide) (by decide) (by decide)
  generalize encX y 0x70 ga.toNat la 0 false 3 1 = w at *
  have e1 : fN w 10 4 = 0x3 := a10
  have e2 : fN w 0 5 = 0x1 := ((field_low _ _ 0 5 10 (by decide) hl)).trans (by omega)
  have e3 : fN w 15 4 = 0 := a15
  have e4 : fN w 14 1 = 0 := a14
  have e5 : fN w 5 5 = 0 := ((field_low _ _ 5 5 10 (by decide) hl)).trans (by omega)
  have e6 : fB w 31 = y := fB_eq _ _ _ (hy)
  have e7 : fV w 20 4 = ga := fV_eq _ _ _ _ (a20)
  have e8 : fB w 19 = la := fB_eq _ _ _ (a19)
  have hM : fN w 24 7 = 0x70 := hm
  rw [at_dec70 w hM]
  simp only [dec70, e1, e2, e3, e4, e5, e6, e7, e8, need, h]
  rfl

theorem rcancel (y : Bool) (ga : BitVec 4) (la : Bool) : Statement (.rcancel y ga la) := by
  have q_ga := ga.isLt
  have b_y := b1_lt y
  have b_la := b1_lt la
  refine of_number _ (encX y 0x70 ga.toNat la 0 false 3 2) rfl (lt_X y 0x70 ga.toNat la 0 false 3 2 (by decide) ga.isLt (by decide) (by decide) (by decide)) fun h => ?_
  have hm := maj_X y 0x70 ga.toNat la 0 false 3 2 (by decide) ga.isLt (by decide) (by decide) (by decide)
  have hy := y_X y 0x70 ga.toNat la 0 false 3 2 (by decide) ga.isLt (by decide) (by decide) (by decide)
  have hl := low_X y 0x70 ga.toNat la 0 false 3 2 (by decide)
  have a10 := at10_X y 0x70 ga.toNat la 0 false 3 2 (by decide) (by decide)
  have a15 := at15_X y 0x70 ga.toNat la 0 false 3 2 (by decide) (by decide) (by decide)
  have a14 := at14_X y 0x70 ga.toNat la 0 false 3 2 (by decide) (by decide)
  have a20 := at20_X y 0x70 ga.toNat la 0 false 3 2 ga.isLt (by decide) (by decide) (by decide)
  have a19 := at19_X y 0x70 ga.toNat la 0 false 3 2 (by decide) (by decide) (by decide)
  generalize encX y 0x70 ga.toNat la 0 false 3 2 = w at *
  have e1 : fN w 10 4 = 0x3 := a10
  have e2 : fN w 0 5 = 0x2 := ((field_low _ _ 0 5 10 (by decide) hl)).trans (by omega)
  have e3 : fN w 15 4 = 0 := a15
  have e4 : fN w 14 1 = 0 := a14
  have e5 : fN w 5 5 = 0 := ((field_low _ _ 5 5 10 (by decide) hl)).trans (by omega)
  have e6 : fB w 31 = y := fB_eq _ _ _ (hy)
  have e7 : fV w 20 4 = ga := fV_eq _ _ _ _ (a20)
  have e8 : fB w 19 = la := fB_eq _ _ _ (a19)
  have hM : fN w 24 7 = 0x70 := hm
  rw [at_dec70 w hM]
  simp only [dec70, e1, e2, e3, e4, e5, e6, e7, e8, need, h]
  rfl

theorem rprobe (y : Bool) (gd : BitVec 4) (ga : BitVec 4) (la : Bool) : Statement (.rprobe y gd ga la) := by
  have q_gd := gd.isLt
  have q_ga := ga.isLt
  have b_y := b1_lt y
  have b_la := b1_lt la
  refine of_number _ (encI y 0x71 gd.toNat ga.toNat la 0xC00) rfl (lt_I y 0x71 gd.toNat ga.toNat la 0xC00 (by decide) gd.isLt ga.isLt (by decide)) fun h => ?_
  have hm := maj_I y 0x71 gd.toNat ga.toNat la 0xC00 (by decide) gd.isLt ga.isLt (by decide)
  have hy := y_I y 0x71 gd.toNat ga.toNat la 0xC00 (by decide) gd.isLt ga.isLt (by decide)
  have hl := low_I y 0x71 gd.toNat ga.toNat la 0xC00 (by decide)
  have a20 := at20_I y 0x71 gd.toNat ga.toNat la 0xC00 gd.isLt ga.isLt (by decide)
  have a16 := at16_I y 0x71 gd.toNat ga.toNat la 0xC00 ga.isLt (by decide)
  have a15 := at15_I y 0x71 gd.toNat ga.toNat la 0xC00 (by decide)
  generalize encI y 0x71 gd.toNat ga.toNat la 0xC00 = w at *
  have e1 : fN w 10 4 = 0x3 := ((field_low _ _ 10 4 15 (by decide) hl)).trans (by omega)
  have e2 : fN w 0 5 = 0x0 := ((field_low _ _ 0 5 15 (by decide) hl)).trans (by omega)
  have e3 : fN w 5 5 = 0 := ((field_low _ _ 5 5 15 (by decide) hl)).trans (by omega)
  have e4 : fN w 14 1 = 0 := ((field_low _ _ 14 1 15 (by decide) hl)).trans (by omega)
  have e5 : fB w 31 = y := fB_eq _ _ _ (hy)
  have e6 : fV w 20 4 = gd := fV_eq _ _ _ _ (a20)
  have e7 : fV w 16 4 = ga := fV_eq _ _ _ _ (a16)
  have e8 : fB w 15 = la := fB_eq _ _ _ (a15)
  have hM : fN w 24 7 = 0x71 := hm
  rw [at_dec71 w hM]
  simp only [dec71, e1, e2, e3, e4, e5, e6, e7, e8, need, h]
  rfl

theorem rstat (y : Bool) (gd : BitVec 4) (ga : BitVec 4) (la : Bool) : Statement (.rstat y gd ga la) := by
  have q_gd := gd.isLt
  have q_ga := ga.isLt
  have b_y := b1_lt y
  have b_la := b1_lt la
  refine of_number _ (encI y 0x71 gd.toNat ga.toNat la 0xC01) rfl (lt_I y 0x71 gd.toNat ga.toNat la 0xC01 (by decide) gd.isLt ga.isLt (by decide)) fun h => ?_
  have hm := maj_I y 0x71 gd.toNat ga.toNat la 0xC01 (by decide) gd.isLt ga.isLt (by decide)
  have hy := y_I y 0x71 gd.toNat ga.toNat la 0xC01 (by decide) gd.isLt ga.isLt (by decide)
  have hl := low_I y 0x71 gd.toNat ga.toNat la 0xC01 (by decide)
  have a20 := at20_I y 0x71 gd.toNat ga.toNat la 0xC01 gd.isLt ga.isLt (by decide)
  have a16 := at16_I y 0x71 gd.toNat ga.toNat la 0xC01 ga.isLt (by decide)
  have a15 := at15_I y 0x71 gd.toNat ga.toNat la 0xC01 (by decide)
  generalize encI y 0x71 gd.toNat ga.toNat la 0xC01 = w at *
  have e1 : fN w 10 4 = 0x3 := ((field_low _ _ 10 4 15 (by decide) hl)).trans (by omega)
  have e2 : fN w 0 5 = 0x1 := ((field_low _ _ 0 5 15 (by decide) hl)).trans (by omega)
  have e3 : fN w 5 5 = 0 := ((field_low _ _ 5 5 15 (by decide) hl)).trans (by omega)
  have e4 : fN w 14 1 = 0 := ((field_low _ _ 14 1 15 (by decide) hl)).trans (by omega)
  have e5 : fB w 31 = y := fB_eq _ _ _ (hy)
  have e6 : fV w 20 4 = gd := fV_eq _ _ _ _ (a20)
  have e7 : fV w 16 4 = ga := fV_eq _ _ _ _ (a16)
  have e8 : fB w 15 = la := fB_eq _ _ _ (a15)
  have hM : fN w 24 7 = 0x71 := hm
  rw [at_dec71 w hM]
  simp only [dec71, e1, e2, e3, e4, e5, e6, e7, e8, need, h]
  rfl

theorem amsg (y : Bool) (ga : BitVec 4) (la : Bool) (gb : BitVec 4) (lb : Bool) (scope : BitVec 4) (rel : Bool) : Statement (.amsg y ga la gb lb scope rel) := by
  have q_ga := ga.isLt
  have q_gb := gb.isLt
  have q_scope := scope.isLt
  have b_y := b1_lt y
  have b_la := b1_lt la
  have b_lb := b1_lt lb
  have b_rel := b1_lt rel
  have hlo : (scope.toNat * 0x40 + b1 rel * 0x20 + 3) < 1024 := by omega
  refine of_number _ (encX y 0x70 ga.toNat la gb.toNat lb 3 (scope.toNat * 0x40 + b1 rel * 0x20 + 3)) rfl (lt_X y 0x70 ga.toNat la gb.toNat lb 3 (scope.toNat * 0x40 + b1 rel * 0x20 + 3) (by decide) ga.isLt gb.isLt (by decide) hlo) fun h => ?_
  have hm := maj_X y 0x70 ga.toNat la gb.toNat lb 3 (scope.toNat * 0x40 + b1 rel * 0x20 + 3) (by decide) ga.isLt gb.isLt (by decide) hlo
  have hy := y_X y 0x70 ga.toNat la gb.toNat lb 3 (scope.toNat * 0x40 + b1 rel * 0x20 + 3) (by decide) ga.isLt gb.isLt (by decide) hlo
  have hl := low_X y 0x70 ga.toNat la gb.toNat lb 3 (scope.toNat * 0x40 + b1 rel * 0x20 + 3) hlo
  have a10 := at10_X y 0x70 ga.toNat la gb.toNat lb 3 (scope.toNat * 0x40 + b1 rel * 0x20 + 3) (by decide) hlo
  have a20 := at20_X y 0x70 ga.toNat la gb.toNat lb 3 (scope.toNat * 0x40 + b1 rel * 0x20 + 3) ga.isLt gb.isLt (by decide) hlo
  have a19 := at19_X y 0x70 ga.toNat la gb.toNat lb 3 (scope.toNat * 0x40 + b1 rel * 0x20 + 3) gb.isLt (by decide) hlo
  have a15 := at15_X y 0x70 ga.toNat la gb.toNat lb 3 (scope.toNat * 0x40 + b1 rel * 0x20 + 3) gb.isLt (by decide) hlo
  have a14 := at14_X y 0x70 ga.toNat la gb.toNat lb 3 (scope.toNat * 0x40 + b1 rel * 0x20 + 3) (by decide) hlo
  generalize encX y 0x70 ga.toNat la gb.toNat lb 3 (scope.toNat * 0x40 + b1 rel * 0x20 + 3) = w at *
  have e1 : fN w 10 4 = 0x3 := a10
  have e2 : fN w 0 5 = 0x3 := ((field_low _ _ 0 5 10 (by decide) hl)).trans (by omega)
  have e3 : fB w 31 = y := fB_eq _ _ _ (hy)
  have e4 : fV w 20 4 = ga := fV_eq _ _ _ _ (a20)
  have e5 : fB w 19 = la := fB_eq _ _ _ (a19)
  have e6 : fV w 15 4 = gb := fV_eq _ _ _ _ (a15)
  have e7 : fB w 14 = lb := fB_eq _ _ _ (a14)
  have e8 : fV w 6 4 = scope := fV_eq _ _ _ _ (((field_low _ _ 6 4 10 (by decide) hl)).trans (by omega))
  have e9 : fB w 5 = rel := fB_eq _ _ _ (((field_low _ _ 5 1 10 (by decide) hl)).trans (by omega))
  have hM : fN w 24 7 = 0x70 := hm
  rw [at_dec70 w hM]
  simp only [dec70, e1, e2, e3, e4, e5, e6, e7, e8, e9, need, h]
  rfl

theorem htset (y : Bool) (ga : BitVec 4) (la : Bool) (gb : BitVec 4) (lb : Bool) : Statement (.htset y ga la gb lb) := by
  have q_ga := ga.isLt
  have q_gb := gb.isLt
  have b_y := b1_lt y
  have b_la := b1_lt la
  have b_lb := b1_lt lb
  refine of_number _ (encX y 0x70 ga.toNat la gb.toNat lb 3 4) rfl (lt_X y 0x70 ga.toNat la gb.toNat lb 3 4 (by decide) ga.isLt gb.isLt (by decide) (by decide)) fun h => ?_
  have hm := maj_X y 0x70 ga.toNat la gb.toNat lb 3 4 (by decide) ga.isLt gb.isLt (by decide) (by decide)
  have hy := y_X y 0x70 ga.toNat la gb.toNat lb 3 4 (by decide) ga.isLt gb.isLt (by decide) (by decide)
  have hl := low_X y 0x70 ga.toNat la gb.toNat lb 3 4 (by decide)
  have a10 := at10_X y 0x70 ga.toNat la gb.toNat lb 3 4 (by decide) (by decide)
  have a20 := at20_X y 0x70 ga.toNat la gb.toNat lb 3 4 ga.isLt gb.isLt (by decide) (by decide)
  have a19 := at19_X y 0x70 ga.toNat la gb.toNat lb 3 4 gb.isLt (by decide) (by decide)
  have a15 := at15_X y 0x70 ga.toNat la gb.toNat lb 3 4 gb.isLt (by decide) (by decide)
  have a14 := at14_X y 0x70 ga.toNat la gb.toNat lb 3 4 (by decide) (by decide)
  generalize encX y 0x70 ga.toNat la gb.toNat lb 3 4 = w at *
  have e1 : fN w 10 4 = 0x3 := a10
  have e2 : fN w 0 5 = 0x4 := ((field_low _ _ 0 5 10 (by decide) hl)).trans (by omega)
  have e3 : fN w 5 5 = 0 := ((field_low _ _ 5 5 10 (by decide) hl)).trans (by omega)
  have e4 : fB w 31 = y := fB_eq _ _ _ (hy)
  have e5 : fV w 20 4 = ga := fV_eq _ _ _ _ (a20)
  have e6 : fB w 19 = la := fB_eq _ _ _ (a19)
  have e7 : fV w 15 4 = gb := fV_eq _ _ _ _ (a15)
  have e8 : fB w 14 = lb := fB_eq _ _ _ (a14)
  have hM : fN w 24 7 = 0x70 := hm
  rw [at_dec70 w hM]
  simp only [dec70, e1, e2, e3, e4, e5, e6, e7, e8, need, h]
  rfl

theorem htclr (y : Bool) (ga : BitVec 4) (la : Bool) : Statement (.htclr y ga la) := by
  have q_ga := ga.isLt
  have b_y := b1_lt y
  have b_la := b1_lt la
  refine of_number _ (encX y 0x70 ga.toNat la 0 false 3 5) rfl (lt_X y 0x70 ga.toNat la 0 false 3 5 (by decide) ga.isLt (by decide) (by decide) (by decide)) fun h => ?_
  have hm := maj_X y 0x70 ga.toNat la 0 false 3 5 (by decide) ga.isLt (by decide) (by decide) (by decide)
  have hy := y_X y 0x70 ga.toNat la 0 false 3 5 (by decide) ga.isLt (by decide) (by decide) (by decide)
  have hl := low_X y 0x70 ga.toNat la 0 false 3 5 (by decide)
  have a10 := at10_X y 0x70 ga.toNat la 0 false 3 5 (by decide) (by decide)
  have a15 := at15_X y 0x70 ga.toNat la 0 false 3 5 (by decide) (by decide) (by decide)
  have a14 := at14_X y 0x70 ga.toNat la 0 false 3 5 (by decide) (by decide)
  have a20 := at20_X y 0x70 ga.toNat la 0 false 3 5 ga.isLt (by decide) (by decide) (by decide)
  have a19 := at19_X y 0x70 ga.toNat la 0 false 3 5 (by decide) (by decide) (by decide)
  generalize encX y 0x70 ga.toNat la 0 false 3 5 = w at *
  have e1 : fN w 10 4 = 0x3 := a10
  have e2 : fN w 0 5 = 0x5 := ((field_low _ _ 0 5 10 (by decide) hl)).trans (by omega)
  have e3 : fN w 15 4 = 0 := a15
  have e4 : fN w 14 1 = 0 := a14
  have e5 : fN w 5 5 = 0 := ((field_low _ _ 5 5 10 (by decide) hl)).trans (by omega)
  have e6 : fB w 31 = y := fB_eq _ _ _ (hy)
  have e7 : fV w 20 4 = ga := fV_eq _ _ _ _ (a20)
  have e8 : fB w 19 = la := fB_eq _ _ _ (a19)
  have hM : fN w 24 7 = 0x70 := hm
  rw [at_dec70 w hM]
  simp only [dec70, e1, e2, e3, e4, e5, e6, e7, e8, need, h]
  rfl

theorem smfr (y : Bool) (ga : BitVec 4) (la : Bool) : Statement (.smfr y ga la) := by
  have q_ga := ga.isLt
  have b_y := b1_lt y
  have b_la := b1_lt la
  refine of_number _ (encX y 0x70 ga.toNat la 0 false 4 0) rfl (lt_X y 0x70 ga.toNat la 0 false 4 0 (by decide) ga.isLt (by decide) (by decide) (by decide)) fun h => ?_
  have hm := maj_X y 0x70 ga.toNat la 0 false 4 0 (by decide) ga.isLt (by decide) (by decide) (by decide)
  have hy := y_X y 0x70 ga.toNat la 0 false 4 0 (by decide) ga.isLt (by decide) (by decide) (by decide)
  have hl := low_X y 0x70 ga.toNat la 0 false 4 0 (by decide)
  have a10 := at10_X y 0x70 ga.toNat la 0 false 4 0 (by decide) (by decide)
  have a15 := at15_X y 0x70 ga.toNat la 0 false 4 0 (by decide) (by decide) (by decide)
  have a14 := at14_X y 0x70 ga.toNat la 0 false 4 0 (by decide) (by decide)
  have a20 := at20_X y 0x70 ga.toNat la 0 false 4 0 ga.isLt (by decide) (by decide) (by decide)
  have a19 := at19_X y 0x70 ga.toNat la 0 false 4 0 (by decide) (by decide) (by decide)
  generalize encX y 0x70 ga.toNat la 0 false 4 0 = w at *
  have e1 : fN w 10 4 = 0x4 := a10
  have e2 : fN w 0 5 = 0x0 := ((field_low _ _ 0 5 10 (by decide) hl)).trans (by omega)
  have e3 : fN w 15 4 = 0 := a15
  have e4 : fN w 14 1 = 0 := a14
  have e5 : fN w 5 5 = 0 := ((field_low _ _ 5 5 10 (by decide) hl)).trans (by omega)
  have e6 : fB w 31 = y := fB_eq _ _ _ (hy)
  have e7 : fV w 20 4 = ga := fV_eq _ _ _ _ (a20)
  have e8 : fB w 19 = la := fB_eq _ _ _ (a19)
  have hM : fN w 24 7 = 0x70 := hm
  rw [at_dec70 w hM]
  simp only [dec70, e1, e2, e3, e4, e5, e6, e7, e8, need, h]
  rfl

theorem smal (y : Bool) (gd : BitVec 4) (ga : BitVec 4) (la : Bool) (mir : Bool) : Statement (.smal y gd ga la mir) := by
  have q_gd := gd.isLt
  have q_ga := ga.isLt
  have b_y := b1_lt y
  have b_la := b1_lt la
  have b_mir := b1_lt mir
  have hlo : (b1 mir * 0x20 + 0x1000) < 32768 := by omega
  refine of_number _ (encI y 0x71 gd.toNat ga.toNat la (b1 mir * 0x20 + 0x1000)) rfl (lt_I y 0x71 gd.toNat ga.toNat la (b1 mir * 0x20 + 0x1000) (by decide) gd.isLt ga.isLt hlo) fun h => ?_
  have hm := maj_I y 0x71 gd.toNat ga.toNat la (b1 mir * 0x20 + 0x1000) (by decide) gd.isLt ga.isLt hlo
  have hy := y_I y 0x71 gd.toNat ga.toNat la (b1 mir * 0x20 + 0x1000) (by decide) gd.isLt ga.isLt hlo
  have hl := low_I y 0x71 gd.toNat ga.toNat la (b1 mir * 0x20 + 0x1000) hlo
  have a20 := at20_I y 0x71 gd.toNat ga.toNat la (b1 mir * 0x20 + 0x1000) gd.isLt ga.isLt hlo
  have a16 := at16_I y 0x71 gd.toNat ga.toNat la (b1 mir * 0x20 + 0x1000) ga.isLt hlo
  have a15 := at15_I y 0x71 gd.toNat ga.toNat la (b1 mir * 0x20 + 0x1000) hlo
  generalize encI y 0x71 gd.toNat ga.toNat la (b1 mir * 0x20 + 0x1000) = w at *
  have e1 : fN w 10 4 = 0x4 := ((field_low _ _ 10 4 15 (by decide) hl)).trans (by omega)
  have e2 : fN w 0 5 = 0x0 := ((field_low _ _ 0 5 15 (by decide) hl)).trans (by omega)
  have e3 : fN w 6 4 = 0 := ((field_low _ _ 6 4 15 (by decide) hl)).trans (by omega)
  have e4 : fN w 14 1 = 0 := ((field_low _ _ 14 1 15 (by decide) hl)).trans (by omega)
  have e5 : fB w 31 = y := fB_eq _ _ _ (hy)
  have e6 : fV w 20 4 = gd := fV_eq _ _ _ _ (a20)
  have e7 : fV w 16 4 = ga := fV_eq _ _ _ _ (a16)
  have e8 : fB w 15 = la := fB_eq _ _ _ (a15)
  have e9 : fB w 5 = mir := fB_eq _ _ _ (((field_low _ _ 5 1 15 (by decide) hl)).trans (by omega))
  have hM : fN w 24 7 = 0x71 := hm
  rw [at_dec71 w hM]
  simp only [dec71, e1, e2, e3, e4, e5, e6, e7, e8, e9, need, h]
  rfl

theorem smquota (y : Bool) (gd : BitVec 4) : Statement (.smquota y gd) := by
  have q_gd := gd.isLt
  have b_y := b1_lt y
  refine of_number _ (encI y 0x71 gd.toNat 0 false 0x1001) rfl (lt_I y 0x71 gd.toNat 0 false 0x1001 (by decide) gd.isLt (by decide) (by decide)) fun h => ?_
  have hm := maj_I y 0x71 gd.toNat 0 false 0x1001 (by decide) gd.isLt (by decide) (by decide)
  have hy := y_I y 0x71 gd.toNat 0 false 0x1001 (by decide) gd.isLt (by decide) (by decide)
  have hl := low_I y 0x71 gd.toNat 0 false 0x1001 (by decide)
  have a16 := at16_I y 0x71 gd.toNat 0 false 0x1001 (by decide) (by decide)
  have a15 := at15_I y 0x71 gd.toNat 0 false 0x1001 (by decide)
  have a20 := at20_I y 0x71 gd.toNat 0 false 0x1001 gd.isLt (by decide) (by decide)
  generalize encI y 0x71 gd.toNat 0 false 0x1001 = w at *
  have e1 : fN w 10 4 = 0x4 := ((field_low _ _ 10 4 15 (by decide) hl)).trans (by omega)
  have e2 : fN w 0 5 = 0x1 := ((field_low _ _ 0 5 15 (by decide) hl)).trans (by omega)
  have e3 : fN w 16 4 = 0 := a16
  have e4 : fN w 15 1 = 0 := a15
  have e5 : fN w 5 5 = 0 := ((field_low _ _ 5 5 15 (by decide) hl)).trans (by omega)
  have e6 : fN w 14 1 = 0 := ((field_low _ _ 14 1 15 (by decide) hl)).trans (by omega)
  have e7 : fB w 31 = y := fB_eq _ _ _ (hy)
  have e8 : fV w 20 4 = gd := fV_eq _ _ _ _ (a20)
  have hM : fN w 24 7 = 0x71 := hm
  rw [at_dec71 w hM]
  simp only [dec71, e1, e2, e3, e4, e5, e6, e7, e8, need, h]
  rfl

theorem kload (y : Bool) (ga : BitVec 4) (la : Bool) (rx : Bool) : Statement (.kload y ga la rx) := by
  have q_ga := ga.isLt
  have b_y := b1_lt y
  have b_la := b1_lt la
  have b_rx := b1_lt rx
  have hlo : (b1 rx * 0x20) < 1024 := by omega
  refine of_number _ (encX y 0x70 ga.toNat la 0 false 5 (b1 rx * 0x20)) rfl (lt_X y 0x70 ga.toNat la 0 false 5 (b1 rx * 0x20) (by decide) ga.isLt (by decide) (by decide) hlo) fun h => ?_
  have hm := maj_X y 0x70 ga.toNat la 0 false 5 (b1 rx * 0x20) (by decide) ga.isLt (by decide) (by decide) hlo
  have hy := y_X y 0x70 ga.toNat la 0 false 5 (b1 rx * 0x20) (by decide) ga.isLt (by decide) (by decide) hlo
  have hl := low_X y 0x70 ga.toNat la 0 false 5 (b1 rx * 0x20) hlo
  have a10 := at10_X y 0x70 ga.toNat la 0 false 5 (b1 rx * 0x20) (by decide) hlo
  have a15 := at15_X y 0x70 ga.toNat la 0 false 5 (b1 rx * 0x20) (by decide) (by decide) hlo
  have a14 := at14_X y 0x70 ga.toNat la 0 false 5 (b1 rx * 0x20) (by decide) hlo
  have a20 := at20_X y 0x70 ga.toNat la 0 false 5 (b1 rx * 0x20) ga.isLt (by decide) (by decide) hlo
  have a19 := at19_X y 0x70 ga.toNat la 0 false 5 (b1 rx * 0x20) (by decide) (by decide) hlo
  generalize encX y 0x70 ga.toNat la 0 false 5 (b1 rx * 0x20) = w at *
  have e1 : fN w 10 4 = 0x5 := a10
  have e2 : fN w 0 5 = 0x0 := ((field_low _ _ 0 5 10 (by decide) hl)).trans (by omega)
  have e3 : fN w 15 4 = 0 := a15
  have e4 : fN w 14 1 = 0 := a14
  have e5 : fN w 6 4 = 0 := ((field_low _ _ 6 4 10 (by decide) hl)).trans (by omega)
  have e6 : fB w 31 = y := fB_eq _ _ _ (hy)
  have e7 : fV w 20 4 = ga := fV_eq _ _ _ _ (a20)
  have e8 : fB w 19 = la := fB_eq _ _ _ (a19)
  have e9 : fB w 5 = rx := fB_eq _ _ _ (((field_low _ _ 5 1 10 (by decide) hl)).trans (by omega))
  have hM : fN w 24 7 = 0x70 := hm
  rw [at_dec70 w hM]
  simp only [dec70, e1, e2, e3, e4, e5, e6, e7, e8, e9, need, h]
  rfl

theorem kturn (y : Bool) : Statement (.kturn y) := by
  have b_y := b1_lt y
  refine of_number _ (encX y 0x70 0 false 0 false 5 1) rfl (lt_X y 0x70 0 false 0 false 5 1 (by decide) (by decide) (by decide) (by decide) (by decide)) fun h => ?_
  have hm := maj_X y 0x70 0 false 0 false 5 1 (by decide) (by decide) (by decide) (by decide) (by decide)
  have hy := y_X y 0x70 0 false 0 false 5 1 (by decide) (by decide) (by decide) (by decide) (by decide)
  have hl := low_X y 0x70 0 false 0 false 5 1 (by decide)
  have a10 := at10_X y 0x70 0 false 0 false 5 1 (by decide) (by decide)
  have a20 := at20_X y 0x70 0 false 0 false 5 1 (by decide) (by decide) (by decide) (by decide)
  have a19 := at19_X y 0x70 0 false 0 false 5 1 (by decide) (by decide) (by decide)
  have a15 := at15_X y 0x70 0 false 0 false 5 1 (by decide) (by decide) (by decide)
  have a14 := at14_X y 0x70 0 false 0 false 5 1 (by decide) (by decide)
  generalize encX y 0x70 0 false 0 false 5 1 = w at *
  have e1 : fN w 10 4 = 0x5 := a10
  have e2 : fN w 0 5 = 0x1 := ((field_low _ _ 0 5 10 (by decide) hl)).trans (by omega)
  have e3 : fN w 20 4 = 0 := a20
  have e4 : fN w 19 1 = 0 := a19
  have e5 : fN w 15 4 = 0 := a15
  have e6 : fN w 14 1 = 0 := a14
  have e7 : fN w 5 5 = 0 := ((field_low _ _ 5 5 10 (by decide) hl)).trans (by omega)
  have e8 : fB w 31 = y := fB_eq _ _ _ (hy)
  have hM : fN w 24 7 = 0x70 := hm
  rw [at_dec70 w hM]
  simp only [dec70, e1, e2, e3, e4, e5, e6, e7, e8, need, h]
  rfl

theorem hist (y : Bool) (ga : BitVec 4) (la : Bool) (gb : BitVec 4) (lb : Bool) : Statement (.hist y ga la gb lb) := by
  have q_ga := ga.isLt
  have q_gb := gb.isLt
  have b_y := b1_lt y
  have b_la := b1_lt la
  have b_lb := b1_lt lb
  refine of_number _ (encX y 0x70 ga.toNat la gb.toNat lb 6 0) rfl (lt_X y 0x70 ga.toNat la gb.toNat lb 6 0 (by decide) ga.isLt gb.isLt (by decide) (by decide)) fun h => ?_
  have hm := maj_X y 0x70 ga.toNat la gb.toNat lb 6 0 (by decide) ga.isLt gb.isLt (by decide) (by decide)
  have hy := y_X y 0x70 ga.toNat la gb.toNat lb 6 0 (by decide) ga.isLt gb.isLt (by decide) (by decide)
  have hl := low_X y 0x70 ga.toNat la gb.toNat lb 6 0 (by decide)
  have a10 := at10_X y 0x70 ga.toNat la gb.toNat lb 6 0 (by decide) (by decide)
  have a20 := at20_X y 0x70 ga.toNat la gb.toNat lb 6 0 ga.isLt gb.isLt (by decide) (by decide)
  have a19 := at19_X y 0x70 ga.toNat la gb.toNat lb 6 0 gb.isLt (by decide) (by decide)
  have a15 := at15_X y 0x70 ga.toNat la gb.toNat lb 6 0 gb.isLt (by decide) (by decide)
  have a14 := at14_X y 0x70 ga.toNat la gb.toNat lb 6 0 (by decide) (by decide)
  generalize encX y 0x70 ga.toNat la gb.toNat lb 6 0 = w at *
  have e1 : fN w 10 4 = 0x6 := a10
  have e2 : fN w 0 5 = 0x0 := ((field_low _ _ 0 5 10 (by decide) hl)).trans (by omega)
  have e3 : fN w 5 5 = 0 := ((field_low _ _ 5 5 10 (by decide) hl)).trans (by omega)
  have e4 : fB w 31 = y := fB_eq _ _ _ (hy)
  have e5 : fV w 20 4 = ga := fV_eq _ _ _ _ (a20)
  have e6 : fB w 19 = la := fB_eq _ _ _ (a19)
  have e7 : fV w 15 4 = gb := fV_eq _ _ _ _ (a15)
  have e8 : fB w 14 = lb := fB_eq _ _ _ (a14)
  have hM : fN w 24 7 = 0x70 := hm
  rw [at_dec70 w hM]
  simp only [dec70, e1, e2, e3, e4, e5, e6, e7, e8, need, h]
  rfl

theorem walk (y : Bool) (ga : BitVec 4) (la : Bool) : Statement (.walk y ga la) := by
  have q_ga := ga.isLt
  have b_y := b1_lt y
  have b_la := b1_lt la
  refine of_number _ (encX y 0x70 ga.toNat la 0 false 6 1) rfl (lt_X y 0x70 ga.toNat la 0 false 6 1 (by decide) ga.isLt (by decide) (by decide) (by decide)) fun h => ?_
  have hm := maj_X y 0x70 ga.toNat la 0 false 6 1 (by decide) ga.isLt (by decide) (by decide) (by decide)
  have hy := y_X y 0x70 ga.toNat la 0 false 6 1 (by decide) ga.isLt (by decide) (by decide) (by decide)
  have hl := low_X y 0x70 ga.toNat la 0 false 6 1 (by decide)
  have a10 := at10_X y 0x70 ga.toNat la 0 false 6 1 (by decide) (by decide)
  have a15 := at15_X y 0x70 ga.toNat la 0 false 6 1 (by decide) (by decide) (by decide)
  have a14 := at14_X y 0x70 ga.toNat la 0 false 6 1 (by decide) (by decide)
  have a20 := at20_X y 0x70 ga.toNat la 0 false 6 1 ga.isLt (by decide) (by decide) (by decide)
  have a19 := at19_X y 0x70 ga.toNat la 0 false 6 1 (by decide) (by decide) (by decide)
  generalize encX y 0x70 ga.toNat la 0 false 6 1 = w at *
  have e1 : fN w 10 4 = 0x6 := a10
  have e2 : fN w 0 5 = 0x1 := ((field_low _ _ 0 5 10 (by decide) hl)).trans (by omega)
  have e3 : fN w 15 4 = 0 := a15
  have e4 : fN w 14 1 = 0 := a14
  have e5 : fN w 5 5 = 0 := ((field_low _ _ 5 5 10 (by decide) hl)).trans (by omega)
  have e6 : fB w 31 = y := fB_eq _ _ _ (hy)
  have e7 : fV w 20 4 = ga := fV_eq _ _ _ _ (a20)
  have e8 : fB w 19 = la := fB_eq _ _ _ (a19)
  have hM : fN w 24 7 = 0x70 := hm
  rw [at_dec70 w hM]
  simp only [dec70, e1, e2, e3, e4, e5, e6, e7, e8, need, h]
  rfl

theorem gwtake (y : Bool) (gd : BitVec 4) (ga : BitVec 4) (la : Bool) : Statement (.gwtake y gd ga la) := by
  have q_gd := gd.isLt
  have q_ga := ga.isLt
  have b_y := b1_lt y
  have b_la := b1_lt la
  refine of_number _ (encI y 0x71 gd.toNat ga.toNat la 0x1C00) rfl (lt_I y 0x71 gd.toNat ga.toNat la 0x1C00 (by decide) gd.isLt ga.isLt (by decide)) fun h => ?_
  have hm := maj_I y 0x71 gd.toNat ga.toNat la 0x1C00 (by decide) gd.isLt ga.isLt (by decide)
  have hy := y_I y 0x71 gd.toNat ga.toNat la 0x1C00 (by decide) gd.isLt ga.isLt (by decide)
  have hl := low_I y 0x71 gd.toNat ga.toNat la 0x1C00 (by decide)
  have a20 := at20_I y 0x71 gd.toNat ga.toNat la 0x1C00 gd.isLt ga.isLt (by decide)
  have a16 := at16_I y 0x71 gd.toNat ga.toNat la 0x1C00 ga.isLt (by decide)
  have a15 := at15_I y 0x71 gd.toNat ga.toNat la 0x1C00 (by decide)
  generalize encI y 0x71 gd.toNat ga.toNat la 0x1C00 = w at *
  have e1 : fN w 10 4 = 0x7 := ((field_low _ _ 10 4 15 (by decide) hl)).trans (by omega)
  have e2 : fN w 0 5 = 0x0 := ((field_low _ _ 0 5 15 (by decide) hl)).trans (by omega)
  have e3 : fN w 5 5 = 0 := ((field_low _ _ 5 5 15 (by decide) hl)).trans (by omega)
  have e4 : fN w 14 1 = 0 := ((field_low _ _ 14 1 15 (by decide) hl)).trans (by omega)
  have e5 : fB w 31 = y := fB_eq _ _ _ (hy)
  have e6 : fV w 20 4 = gd := fV_eq _ _ _ _ (a20)
  have e7 : fV w 16 4 = ga := fV_eq _ _ _ _ (a16)
  have e8 : fB w 15 = la := fB_eq _ _ _ (a15)
  have hM : fN w 24 7 = 0x71 := hm
  rw [at_dec71 w hM]
  simp only [dec71, e1, e2, e3, e4, e5, e6, e7, e8, need, h]
  rfl

theorem alignTimeout : ∀ a, Statement (.alignTimeout a) := fun _ => rfl

theorem migrationArrival : ∀ a, Statement (.migrationArrival a) := fun _ => rfl

theorem feWaitServed : ∀ a, Statement (.feWaitServed a) := fun _ => rfl

theorem spuriousWake : ∀ a, Statement (.spuriousWake a) := fun _ => rfl

theorem barrierEpisodeComplete : ∀ a, Statement (.barrierEpisodeComplete a) := fun _ => rfl

theorem dieBarrierReport : ∀ a b, Statement (.dieBarrierReport a b) := fun _ _ => rfl

theorem gwqArm : ∀ a b c, Statement (.gwqArm a b c) := fun _ _ _ => rfl

theorem gwqDisarm : ∀ a, Statement (.gwqDisarm a) := fun _ => rfl

theorem vectorInstructionComplete : ∀ a, Statement (.vectorInstructionComplete a) := fun _ => rfl

theorem codebookReplace : ∀ a, Statement (.codebookReplace a) := fun _ => rfl

theorem gmsgSlotWrite : ∀ a, Statement (.gmsgSlotWrite a) := fun _ => rfl

theorem matrixLeaseGrant : ∀ a, Statement (.matrixLeaseGrant a) := fun _ => rfl

theorem matrixStep : ∀ a, Statement (.matrixStep a) := fun _ => rfl

theorem matrixCommandComplete : ∀ a, Statement (.matrixCommandComplete a) := fun _ => rfl

theorem copyCommandStart : ∀ a, Statement (.copyCommandStart a) := fun _ => rfl

theorem copyCommandComplete : ∀ a, Statement (.copyCommandComplete a) := fun _ => rfl

theorem kickNoticeArrival : ∀ a, Statement (.kickNoticeArrival a) := fun _ => rfl

theorem kickTransferStart : ∀ a, Statement (.kickTransferStart a) := fun _ => rfl

theorem kickTransferComplete : ∀ a, Statement (.kickTransferComplete a) := fun _ => rfl

theorem indexStvecPerform : ∀ a, Statement (.indexStvecPerform a) := fun _ => rfl

theorem indexDlvecPerform : ∀ a, Statement (.indexDlvecPerform a) := fun _ => rfl

theorem versionAreaFreed : ∀ a, Statement (.versionAreaFreed a) := fun _ => rfl

theorem indexLdnnAccept : ∀ a, Statement (.indexLdnnAccept a) := fun _ => rfl

theorem indexSearchComplete : ∀ a, Statement (.indexSearchComplete a) := fun _ => rfl

theorem receivePostEvent : ∀ a, Statement (.receivePostEvent a) := fun _ => rfl

theorem receiveCancelEvent : ∀ a, Statement (.receiveCancelEvent a) := fun _ => rfl

theorem eagerSendArrival : ∀ a, Statement (.eagerSendArrival a) := fun _ => rfl

theorem rendezvousRequestArrival : ∀ a, Statement (.rendezvousRequestArrival a) := fun _ => rfl

theorem rendezvousPullComplete : ∀ a, Statement (.rendezvousPullComplete a) := fun _ => rfl

theorem sendCompletionArrival : ∀ a, Statement (.sendCompletionArrival a) := fun _ => rfl

theorem activeMessageArrival : ∀ a, Statement (.activeMessageArrival a) := fun _ => rfl

theorem handlerStart : ∀ a, Statement (.handlerStart a) := fun _ => rfl

theorem handlerRewriteEnd : ∀ a, Statement (.handlerRewriteEnd a) := fun _ => rfl

theorem handlerRewriteTimeout : ∀ a, Statement (.handlerRewriteTimeout a) := fun _ => rfl

theorem amsgResponseArrival : ∀ a, Statement (.amsgResponseArrival a) := fun _ => rfl

theorem builtinLoad : ∀ a, Statement (.builtinLoad a) := fun _ => rfl

theorem builtinStore : ∀ a, Statement (.builtinStore a) := fun _ => rfl

theorem builtinLdf : ∀ a, Statement (.builtinLdf a) := fun _ => rfl

theorem builtinLdfe : ∀ a, Statement (.builtinLdfe a) := fun _ => rfl

theorem builtinSte : ∀ a, Statement (.builtinSte a) := fun _ => rfl

theorem builtinStf : ∀ a, Statement (.builtinStf a) := fun _ => rfl

theorem leaseRefresh : ∀ a, Statement (.leaseRefresh a) := fun _ => rfl

theorem remoteAtomic : ∀ a, Statement (.remoteAtomic a) := fun _ => rfl

theorem taskNodeRun : ∀ a b, Statement (.taskNodeRun a b) := fun _ _ => rfl

theorem conditionalNodeRun : ∀ a b, Statement (.conditionalNodeRun a b) := fun _ _ => rfl

theorem whileNodeRun : ∀ a b, Statement (.whileNodeRun a b) := fun _ _ => rfl

theorem joinNodeRun : ∀ a b, Statement (.joinNodeRun a b) := fun _ _ => rfl

theorem latchNodeRun : ∀ a b, Statement (.latchNodeRun a b) := fun _ _ => rfl

theorem walkerNodeComplete : ∀ a b, Statement (.walkerNodeComplete a b) := fun _ _ => rfl

theorem callatAnswer : ∀ a, Statement (.callatAnswer a) := fun _ => rfl

theorem taskStart : ∀ a, Statement (.taskStart a) := fun _ => rfl

theorem loadDataReturn : ∀ a b, Statement (.loadDataReturn a b) := fun _ _ => rfl

theorem storeAck : ∀ a b c, Statement (.storeAck a b c) := fun _ _ _ => rfl

theorem pageWalkComplete : ∀ a, Statement (.pageWalkComplete a) := fun _ => rfl

theorem homeRequest : ∀ a b, Statement (.homeRequest a b) := fun _ _ => rfl

theorem refusalRetry : ∀ a, Statement (.refusalRetry a) := fun _ => rfl

theorem ownershipGrant : ∀ a, Statement (.ownershipGrant a) := fun _ => rfl

theorem clockTick : Statement (.clockTick) := rfl

theorem hostLaunchWrite : ∀ a b c, Statement (.hostLaunchWrite a b c) := fun _ _ _ => rfl

theorem hostMsixEntryWrite : ∀ a b c d, Statement (.hostMsixEntryWrite a b c d) := fun _ _ _ _ => rfl

theorem hostSwitchWindowAccess : ∀ a b c d, Statement (.hostSwitchWindowAccess a b c d) := fun _ _ _ _ => rfl

theorem distributorTurn : Statement (.distributorTurn) := rfl

theorem claimComplete : ∀ a, Statement (.claimComplete a) := fun _ => rfl

theorem imageClose : ∀ a, Statement (.imageClose a) := fun _ => rfl

theorem launchCompletion : ∀ a, Statement (.launchCompletion a) := fun _ => rfl

theorem packetForward : Statement (.packetForward) := rfl

theorem detourTimeout : ∀ a, Statement (.detourTimeout a) := fun _ => rfl

theorem packetIngress : Statement (.packetIngress) := rfl

theorem flitTransmit : ∀ a, Statement (.flitTransmit a) := fun _ => rfl

theorem flitReceiveIdle : ∀ a b, Statement (.flitReceiveIdle a b) := fun _ _ => rfl

theorem flitReceiveHead : ∀ a b, Statement (.flitReceiveHead a b) := fun _ _ => rfl

theorem flitReceiveBody : ∀ a b, Statement (.flitReceiveBody a b) := fun _ _ => rfl

theorem flitReceiveStomp : ∀ a b, Statement (.flitReceiveStomp a b) := fun _ _ => rfl

theorem flitReceiveKeyturn : ∀ a b, Statement (.flitReceiveKeyturn a b) := fun _ _ => rfl

theorem flitReceiveNak : ∀ a b, Statement (.flitReceiveNak a b) := fun _ _ => rfl

theorem replayTimeout : ∀ a, Statement (.replayTimeout a) := fun _ => rfl

theorem linkTrained : ∀ a b c d e, Statement (.linkTrained a b c d e) := fun _ _ _ _ _ => rfl

theorem ethernetFrameReceive : ∀ a b, Statement (.ethernetFrameReceive a b) := fun _ _ => rfl

theorem heartbeat : Statement (.heartbeat) := rfl

theorem moduleSilenceTimeout : ∀ a, Statement (.moduleSilenceTimeout a) := fun _ => rfl

theorem deathNoticeReceive : ∀ a b, Statement (.deathNoticeReceive a b) := fun _ _ => rfl

theorem evictedReturnReceive : Statement (.evictedReturnReceive) := rfl

theorem e2eRetryTimeout : ∀ a b, Statement (.e2eRetryTimeout a b) := fun _ _ => rfl

theorem faultCountEvent : ∀ a b, Statement (.faultCountEvent a b) := fun _ _ => rfl

theorem routerDieBLoss : Statement (.routerDieBLoss) := rfl

theorem routerDieALoss : Statement (.routerDieALoss) := rfl

theorem moduleReset : Statement (.moduleReset) := rfl

theorem throttle : Statement (.throttle) := rfl

theorem thermalShutdown : Statement (.thermalShutdown) := rfl

theorem mctlGo : Statement (.mctlGo) := rfl

theorem gwctlPortDisable : ∀ a, Statement (.gwctlPortDisable a) := fun _ => rfl

theorem gwctlPortEnable : ∀ a, Statement (.gwctlPortEnable a) := fun _ => rfl

theorem gatewayRoleTake : ∀ a, Statement (.gatewayRoleTake a) := fun _ => rfl

theorem tenantEnClear : ∀ a, Statement (.tenantEnClear a) := fun _ => rfl

theorem gatewayStartWrite : ∀ a b, Statement (.gatewayStartWrite a b) := fun _ _ => rfl

theorem gatewayFibreStart : ∀ a, Statement (.gatewayFibreStart a) := fun _ => rfl

theorem deviceRegisterWrite : ∀ a b c d, Statement (.deviceRegisterWrite a b c d) := fun _ _ _ _ => rfl

theorem lossOfLinkTraining : ∀ a, Statement (.lossOfLinkTraining a) := fun _ => rfl

theorem backWithinLimits : Statement (.backWithinLimits) := rfl

theorem tlbInvalidationDone : ∀ a, Statement (.tlbInvalidationDone a) := fun _ => rfl

theorem scopemaskPropagated : ∀ a, Statement (.scopemaskPropagated a) := fun _ => rfl

theorem switchFreeDone : ∀ a, Statement (.switchFreeDone a) := fun _ => rfl

end Sys2Proof.Laws.RoundTrip
end

