-- ==== Sys2Proof/Safety.lean ====
section
/-! DEFINITION. The terms in which statements speak of the machine: a safe state, the conditions under which an instruction
performs its own effect, the state in which it acts, the state it leaves, and the frames of what it may change. -/

namespace Sys2Proof.Safety

open Sys2Proof.Machine

/-- What every reachable state satisfies of its memory: the one canonical form. -/
def Canonical (s : State) : Prop := memoryWf s.ms.mem = true

/-- A safe state: it runs (its router die A is not lost, R438) and its memory has the canonical form. -/
def Safe (s : State) : Prop := s.dev.failed = false ∧ Canonical s

/-- The state at an instruction's reads: an instruction marked `.y` has first had every long result written (R43). -/
def atReads (s : State) (y : Bool) : State := if y then { s with fib := drain s.fib } else s

/-- The conditions under which an instruction with a given use of its fibre performs its own effect and raises nothing at
issue (R405): a marked instruction has its long results (R43); no pending failure is raised at it (R399, R400); its encoding
is admitted (R253, R264); it takes the prefix in force, or there is none (R117); the privilege level suffices (R305); its
context check passes; no register read carries a mark, is pending under HZCHK, or is dead under DCHK (R406); and the register
written is not pending under HZCHK and fits the budget (R39). -/
structure Issues (s : State) (u : Use) : Prop where
  results : u.y = true → allReady s.fib = true
  noFailure : s.fib.failure = none ∨ (u.fail = false ∧ u.y = false ∧ s.fib.resumed = false)
  engine : isEngine5 u.instr = true → servesGateway s s.fib.core = true
  admitted : u.instr.wf = true
  takesPrefix : s.fib.pfx = true → u.pfxOk = true
  level : u.level ≤ s.fib.pl.toNat
  context : u.ctx (atReads s u.y) = none
  reads : ∀ k r, u.reads[k]? = some r → readCheck (atReads s u.y).fib u.y (s.sched.free + readNo u.reads k r.1) r.1 = none
  dest : destCheck (atReads s u.y).fib u.y (freeMask u) u.dest = none

/-- The values an instruction reads, in the order of R406. -/
def operands (s : State) (u : Use) : List Word := readVals (atReads s u.y).fib s.sched.free u.reads

/-- The k-th value an instruction reads. -/
def operand (s : State) (u : Use) (k : Nat) : Word := arg (operands s u) k

/-- The state in which an instruction's own effect acts: its last uses are freed (R40). -/
def begun (s : State) (u : Use) : State := afterReads (atReads s u.y) u

/-- The state an instruction leaves that completes and falls through: the prefix consumed (R117), the end test made and the
PC advanced (R55). -/
def finished (u : Use) (t : State) : State := { t with fib := stepPc (issued t.fib u) }

/-- The state an instruction leaves that completes and goes to an address. -/
def wentTo (u : Use) (t : State) (pc : Word) : State := { t with fib := { issued t.fib u with pc := pc } }

/-- The state of an instruction that has issued, holds its fibre, and completes at an event. -/
def holding (s : State) (u : Use) (w : Wait) (t : State) : State := carry (atReads s u.y) u (.hold w t)

/-- The state of an instruction that has passed its checks and waits for something of the machine; what is left of it, `j`, goes on
when the wait is over (R76, R407, log entry 55). -/
def waiting (s : State) (u : Use) (w : Wait) (j : Job) (t : State) : State := carry (atReads s u.y) u (.later w j t)

/-- Every byte of memory reads as before. -/
def SameMemory (s t : State) : Prop := ∀ a, mget t.ms.mem a = mget s.ms.mem a

/-- Every byte of memory outside `n` bytes from `a` reads as before. -/
def SameMemoryBut (s t : State) (a n : Nat) : Prop := ∀ b, b < a ∨ a + n ≤ b → mget t.ms.mem b = mget s.ms.mem b

/-- Only the issuing fibre and the model's own bookkeeping (log entry 1) differ. -/
def OnlyFibre (s t : State) : Prop := t = { s with fib := t.fib, sched := t.sched }

/-- Only the issuing fibre, its place among those that wait for a walker (R375) and the model's own bookkeeping differ. -/
def TrapFrame (s t : State) : Prop :=
  t = { s with
    fib := t.fib
    sched := t.sched
    walkWait := s.walkWait.filter fun w => w.2 != s.fib.id }

/-- The general registers of a fibre but for one: the value, whether it is live, its mark; a last use kills (R40). -/
def SameRegs (f g : Fibre) (d : Reg) (freed : BitVec 16) : Prop :=
  ∀ r : Reg, r ≠ d → g.regs.get r.toFin = f.regs.get r.toFin
    ∧ g.live.getLsbD r.toNat = (f.live.getLsbD r.toNat && !freed.getLsbD r.toNat)
    ∧ g.marks.find? (fun m => m.1 == r.toNat) = f.marks.find? (fun m => m.1 == r.toNat)

/-- Everything of a fibre's status but the sticky flags, the PC and the loop stack, which R55 advances: level, checks, prefix
value, both trap contexts, the pending failure, its identity and its core. -/
def SameStatus (f g : Fibre) : Prop :=
  g.pl = f.pl ∧ g.dchk = f.dchk ∧ g.hzchk = f.hzchk ∧ g.fpfx = f.fpfx ∧ g.sup = f.sup ∧ g.mon = f.mon
    ∧ g.failure = f.failure ∧ g.ident = f.ident ∧ g.core = f.core ∧ g.id = f.id ∧ g.run = f.run ∧ g.triggered = f.triggered

/-- A two-register instruction with a short result (R42): where it issues, it writes `g` of its operands and completes. -/
def ShortTwo (mk : Bool → Reg → Reg → Bool → Reg → Bool → Instr) (g : Word → Word → Word) : Prop :=
  ∀ (s : State) (y : Bool) (gd ga : Reg) (la : Bool) (gb : Reg) (lb : Bool),
    Issues s (plainUse (mk y gd ga la gb lb) y [(ga, la), (gb, lb)] gd) →
    exec (mk y gd ga la gb lb) s = .next (finished (plainUse (mk y gd ga la gb lb) y [(ga, la), (gb, lb)] gd)
      (setShort (begun s (plainUse (mk y gd ga la gb lb) y [(ga, la), (gb, lb)] gd)) gd
        (g (operand s (plainUse (mk y gd ga la gb lb) y [(ga, la), (gb, lb)] gd) 0)
          (operand s (plainUse (mk y gd ga la gb lb) y [(ga, la), (gb, lb)] gd) 1))))

/-- A one-register instruction with a short result. -/
def ShortOne (mk : Bool → Reg → Reg → Bool → Instr) (g : Word → Word) : Prop :=
  ∀ (s : State) (y : Bool) (gd ga : Reg) (la : Bool),
    Issues s (plainUse (mk y gd ga la) y [(ga, la)] gd) →
    exec (mk y gd ga la) s = .next (finished (plainUse (mk y gd ga la) y [(ga, la)] gd)
      (setShort (begun s (plainUse (mk y gd ga la) y [(ga, la)] gd)) gd
        (g (operand s (plainUse (mk y gd ga la) y [(ga, la)] gd) 0))))

/-- A two-register instruction with a long result (R42) and its flags (R108). -/
def LongTwo (mk : Bool → Reg → Reg → Bool → Reg → Bool → Instr) (g : Word → Word → Word × BitVec 5) : Prop :=
  ∀ (s : State) (y : Bool) (gd ga : Reg) (la : Bool) (gb : Reg) (lb : Bool),
    Issues s (plainUse (mk y gd ga la gb lb) y [(ga, la), (gb, lb)] gd) →
    exec (mk y gd ga la gb lb) s = .next (finished (plainUse (mk y gd ga la gb lb) y [(ga, la), (gb, lb)] gd)
      (setLong (begun s (plainUse (mk y gd ga la gb lb) y [(ga, la), (gb, lb)] gd)) gd
        (g (operand s (plainUse (mk y gd ga la gb lb) y [(ga, la), (gb, lb)] gd) 0)
          (operand s (plainUse (mk y gd ga la gb lb) y [(ga, la), (gb, lb)] gd) 1)).1
        (g (operand s (plainUse (mk y gd ga la gb lb) y [(ga, la), (gb, lb)] gd) 0)
          (operand s (plainUse (mk y gd ga la gb lb) y [(ga, la), (gb, lb)] gd) 1)).2))

/-- A one-register instruction with a long result and its flags. -/
def LongOne (mk : Bool → Reg → Reg → Bool → Instr) (g : Word → Word × BitVec 5) : Prop :=
  ∀ (s : State) (y : Bool) (gd ga : Reg) (la : Bool),
    Issues s (plainUse (mk y gd ga la) y [(ga, la)] gd) →
    exec (mk y gd ga la) s = .next (finished (plainUse (mk y gd ga la) y [(ga, la)] gd)
      (setLong (begun s (plainUse (mk y gd ga la) y [(ga, la)] gd)) gd
        (g (operand s (plainUse (mk y gd ga la) y [(ga, la)] gd) 0)).1
        (g (operand s (plainUse (mk y gd ga la) y [(ga, la)] gd) 0)).2))

/-- A conditional branch (R283, R55, R56): not taken it falls through; taken it goes to PC + 4 × SignExtend(offset14, 14),
or raises LOOPNEST at a target outside the block of the active loops. -/
def Branches (mk : Bool → Reg → Bool → Reg → Bool → BitVec 14 → Instr) (rel : Word → Word → Bool) : Prop :=
  ∀ (s : State) (y : Bool) (ga : Reg) (la : Bool) (gb : Reg) (lb : Bool) (off : BitVec 14),
    let u := plainUse (mk y ga la gb lb off) y [(ga, la), (gb, lb)] 0
    let target := s.fib.pc + 4 * off.signExtend 64
    Issues s u →
    (rel (operand s u 0) (operand s u 1) = false → exec (mk y ga la gb lb off) s = .next (finished u (begun s u)))
    ∧ (rel (operand s u 0) (operand s u 1) = true → leavesBlock s.fib target = false →
        exec (mk y ga la gb lb off) s = .next (wentTo u (begun s u) target))
    ∧ (rel (operand s u 0) (operand s u 1) = true → leavesBlock s.fib target = true →
        exec (mk y ga la gb lb off) s = .next (raise (atReads s y) cLOOPNEST target))

/-- What LOOP does with a count and a distance in instructions (R54): the checks come first, whatever the count. -/
def LoopStarts (s : State) (y : Bool) (u : Use) (i : Instr) (n : BitVec 32) (dist : Nat) : Prop :=
  let stop := s.fib.pc + BitVec.ofNat 64 (4 * dist)
  let refused := 4 ≤ s.fib.loops.length ∨ stop.toNat / 2 ^ 18 ≠ s.fib.pc.toNat / 2 ^ 18
    ∨ ∃ l r, s.fib.loops = l :: r ∧ l.stop.toNat < (wordIndex stop).toNat
  (refused → exec i s = .next (raise (atReads s y) cLOOPNEST s.fib.pc))
  ∧ (¬refused → n = 0 → exec i s = .next (wentTo u (begun s u) (stop + 4)))
  ∧ (¬refused → n ≠ 0 → exec i s = .next (wentTo u
      { begun s u with fib := { (begun s u).fib with
        loops := ⟨n, wordIndex (s.fib.pc + 4), wordIndex stop⟩ :: s.fib.loops } } (s.fib.pc + 4)))

/-- The conditions under which an access of `n` bytes at an effective address passes the checks of R410 at once: aligned; no page
walk to wait for; translated to `a`; the instruction's own check; a word within the fibre's reach (R30, R146); attributes the home
accepts (R136); and no engine that owns the bytes (R175). -/
structure Reachable (s : State) (k : AccKind) (n : Nat) (ea : Word) (own : Acc → Option Nat) (a : Acc) : Prop where
  inPlace : ea.toNat % n = 0
  noWalk : mustWalk s ea.toNat = false
  translated : translateFibre s s.fib k ea.toNat = .ok a
  owns : own a = none
  reach : outOfReach s s.fib a.pa = false
  attrs : attrRefused s a = false
  free : owned s a.pa n = false

/-- Those under which a load, store or atomic is made on its fibre's core: the access does not migrate the fibre either (R47, R48). -/
structure Accessible (s : State) (k : AccKind) (n : Nat) (ea : Word) (own : Acc → Option Nat) (a : Acc) : Prop
    extends Reachable s k n ea own a where
  stays : (a.mig && a.loc == 2 && (isRemote s a.pa || spadCore a.pa != s.fib.core) && mayMigrate s s.fib) = false

/-- The state in which an access is made: the core's TLBs hold its page (R130). -/
def touched (s : State) (a : Acc) : State := noteTlb s s.fib.core (spaceOf s.fib.ident.tenant s.fib.pl) a

/-- A load of `n` bytes: where it issues, its access passes and what it must follow is performed, it makes its request and
completes. -/
def Loads (n : Nat) (mk : Bool → Reg → Reg → Bool → BitVec 2 → BitVec 2 → BitVec 4 → BitVec 7 → Instr) : Prop :=
  ∀ (s : State) (y : Bool) (gd ga : Reg) (la : Bool) (pol ord : BitVec 2) (scope : BitVec 4) (off : BitVec 7) (a : Acc),
    let i := mk y gd ga la pol ord scope off
    let u := { plainUse i y [(ga, la)] gd with fail := ord != 0 }
    let ea := operand s u 0 + BitVec.ofNat 64 n * off.signExtend 64
    let t := touched (begun s u) a
    let r := loadOrd t (mkReq t .load 0 n a ea) pol ord scope
    Issues s u → Accessible (begun s u) .load n ea (scOwn ord) a → mustFollow t r = false →
      exec i s = .next (finished u (doLoad t r gd))

/-- A store of `n` bytes of G[d]. -/
def Stores (n : Nat) (mk : Bool → Reg → Reg → Bool → BitVec 2 → BitVec 2 → BitVec 4 → BitVec 7 → Instr) : Prop :=
  ∀ (s : State) (y : Bool) (gd ga : Reg) (la : Bool) (pol ord : BitVec 2) (scope : BitVec 4) (off : BitVec 7) (a : Acc),
    let i := mk y gd ga la pol ord scope off
    let u := { plainUse i y [(ga, la), (gd, false)] 0 with fail := ord != 0 }
    let ea := operand s u 0 + BitVec.ofNat 64 n * off.signExtend 64
    let t := touched (begun s u) a
    let r := storeOrd t { mkReq t .store 0 n a ea with data := operand s u 1 } pol ord scope
    Issues s u → Accessible (begun s u) .store n ea (scOwn ord) a → mustFollow t r = false →
      exec i s = .next (finished u (doStore t r))

/-- An atomic: operation `op`, its operand the k-th value read and the compared value the m-th. -/
def Atomics (i : Instr) (op : Nat) (uns sz y : Bool) (gd : Reg) (reads : List (Reg × Bool)) (k m : Nat) (place ord : BitVec 2)
    (scope : BitVec 4) : Prop :=
  ∀ (s : State) (a : Acc),
    let n := if sz then 8 else 4
    let u := { plainUse i y reads gd with fail := place == 3 || ord != 0 }
    let ea := operand s u 0
    let t := touched (begun s u) a
    let r := atomicOrd t { mkReq t .atomic op n a ea with
      uns := uns
      data := operand s u k
      expect := operand s u m } place ord scope
    Issues s u → Accessible (begun s u) .atomic n ea notTarget a → mustFollow t r = false →
      exec i s = .next (finished u (doLoad t r gd))

/-- A request performed at issue against home storage of this module: nothing earlier stands before it, the line is not lost nor its
switch memory freed (R371), and the copies of self-invalidating lines are not concerned (R134, R154). -/
def AtHome (s : State) (r : Req) : Prop :=
  atIssue s r = true ∧ r.pa < 2 ^ 56 ∧ isOwnMem s r.pa = true ∧ homeLost s r.pa = false ∧ windowGone s r = false
    ∧ (regionOf r.pa = 3 ∨ r.cp ≠ 1) ∧ r.sc = false ∧ r.acq = none ∧ r.rel = none

/-- Every byte outside `n` bytes from `a` reads as before, or as a dirty copy of it that was written back (R134). -/
def WrittenBack (s t : State) (a n : Nat) : Prop :=
  ∀ b, b < a ∨ a + n ≤ b → mget t.ms.mem b = mget s.ms.mem b
    ∨ ∃ c ∈ s.ms.copies, c.dirty = true ∧ c.addr = b ∧ mget t.ms.mem b = c.val

/-- A word of a block that an instruction reads at issue (R343): one of this module is loaded at once; one of another module has been
asked for, has come, and its load has not failed. -/
def WordReads (s : State) (a : Acc) (va w : Word) (r : State) : Prop :=
  (isRemote s a.pa = false ∧ loadNow s a va = .ok (w, r))
  ∨ (isRemote s a.pa = true ∧ r = s ∧ ∃ x, (s.fib.words.find? fun w => w.pa == a.pa && w.op == 0) = some x
      ∧ x.here = true ∧ x.cause = 0 ∧ w = x.val)

/-- A block of `n` words that an instruction reads at issue (R343): each is accessible, nothing earlier stands before it, and
its load succeeds; `ws` are the words and `t` the state after the last. -/
def BlockReads (n : Nat) (s : State) (va : Word) (ws : List Word) (t : State) : Prop :=
  match n with
  | 0 => ws = [] ∧ t = s
  | k + 1 => ∃ a w r tl, Accessible s .load 8 va noOwn a ∧ mayPerform (touched s a) (mkReq (touched s a) .load 0 8 a va) = true
    ∧ WordReads (touched s a) a va w r ∧ ws = w :: tl ∧ BlockReads k r (va + 8) tl t

/-- The header of a slot as GMSG reads it (R226, R343): on this module at once, of another module once it has come. -/
def HeaderReads (s : State) (pas : List Nat) (hdr : Word) : Prop :=
  (isRemote s (pas.headD 0) = false ∧ poisoned s (pas.headD 0) 8 = false ∧ hdr = slotWord s pas 0)
  ∨ (isRemote s (pas.headD 0) = true ∧ ∃ x, (s.fib.words.find? fun w => w.pa == pas.headD 0 && w.op == 0) = some x
      ∧ x.here = true ∧ x.cause = 0 ∧ hdr = x.val)

/-- A slot that passes GBEL's checks (R226, R415): its header names the dimension, and no word that is read is poisoned; a slot of another
module has been looked at there. -/
def SlotReady (s : State) (dim : Nat) (q : Word × List Nat) : Prop :=
  (isRemote s (q.2.headD 0) = false ∧ poisoned s (q.2.headD 0) 8 = false ∧ (slotWord s q.2 0).toNat % 16 = dim
    ∧ slotPoison s q.1 q.2 dim true = none)
  ∨ (isRemote s (q.2.headD 0) = true ∧ ∃ w, slotFar s 4 (q.2.headD 0) = some w ∧ w.here = true ∧ w.cause = 0 ∧ w.bad = false
    ∧ w.val.toNat % 16 = dim)

/-- GBEL's slots are read and emptied in their order (R231): one of this module at once, where no engine owns its words and none that is read
is poisoned; one of another module has been emptied there, and its words have come. -/
def SlotsTaken (d : Nat) (s : State) (todo : List (Word × List Nat)) (t : State) : Prop :=
  match todo with
  | [] => t = s
  | x :: r =>
    (slotFar s 2 (x.2.headD 0) = none ∧ isRemote s (x.2.headD 0) = false ∧ (∀ p ∈ x.2, owned s p 8 = false)
      ∧ slotPoison s x.1 x.2 d true = none ∧ SlotsTaken d (takeHere s x.2) r t)
    ∨ ∃ w, slotFar s 2 (x.2.headD 0) = some w ∧ w.here = true ∧ w.cause = 0 ∧ SlotsTaken d s r t

/-- GBEL's sum once its slots are taken (R231). -/
def beliefOf (d : Nat) (s : State) (slots : List (Word × List Nat)) (prior : List (List Word)) :
    State × List (List (Ex × BitVec 5)) × List Nat × List Nat :=
  slots.foldl (gSlot d) (s, prior.map (fun r => r.map fun e => (decFloat fp64 e.toNat, flNone)), [], [])

/-- A turn of this fibre fetches an instruction: no trap that it has raised, and no instruction that it has issued, is due first. -/
def Fetches (x : Fibre) : Prop :=
  (∀ c v, x.run ≠ .parked (.trap c v)) ∧ x.run ≠ .parked .doom ∧ ∀ free dest fail w j, x.run ≠ .parked (.job free dest fail w j)

/-- The switch marker of an instruction on tiles: the vector instructions, BARQ and the matrix commands. -/
def tileMarker (i : Instr) : Bool :=
  match i with
  | .vadd y _ _ _ => y
  | .vsub y _ _ _ => y
  | .vmul y _ _ _ => y
  | .vdiv y _ _ _ => y
  | .vfma y _ _ _ => y
  | .vmin y _ _ _ => y
  | .vmax y _ _ _ => y
  | .vcmpEq y _ _ _ => y
  | .vcmpLt y _ _ _ => y
  | .vcmpLe y _ _ _ => y
  | .vsel y _ _ _ => y
  | .vgather y _ _ _ => y
  | .vscat y _ _ _ => y
  | .barq y _ _ _ => y
  | .barqRes y _ _ _ => y
  | .vabs y _ _ => y
  | .vexp y _ _ => y
  | .vlog y _ _ => y
  | .vsqrt y _ _ => y
  | .vrsqrt y _ _ => y
  | .vrcp y _ _ => y
  | .vtanh y _ _ => y
  | .vsigm y _ _ => y
  | .vredAdd y _ _ => y
  | .vredMin y _ _ => y
  | .vredMax y _ _ => y
  | .vscanAdd y _ _ => y
  | .vscanMax y _ _ => y
  | .vbcast y _ _ => y
  | .vtrans y _ _ => y
  | .vcvt y _ _ => y
  | .vqscale y _ _ => y
  | .vcbk y _ _ => y
  | .mma y _ _ => y
  | .mmas y _ _ _ => y
  | .mzero y => y
  | .macc y _ => y
  | .mst y _ => y
  | _ => false

/-- The conditions of a vector instruction (R312, R313): its tiles found and full, its formats and shapes those it takes, nothing
reading what it writes, no engine owning its words, the fibre's scratchpad accesses performed and the unit free. -/
structure VectorReady (s : State) (op : VOp) (p : VPlan) : Prop where
  names : vecNames (pendingPfx s.fib) (namedTile s s.fib s.fib.core) op = .ok p
  full : ∀ r ∈ planTiles p, teState r.tile.ent = 2
  checks : ∀ x ∈ vecFormats op p ++ vecShapes op p, x.1 = true
  unread : ∀ r ∈ planWrites p, matrixReads s s.fib.core r.idx = false ∧ copyReads s s.fib.core r.tile (rowLen p r) = false
  unowned : ∀ r ∈ planTiles p, tileOwned s r.tile (rowLen p r) = false
  performed : mustPerform s s.fib = false
  unit : (coreOf s s.fib.core).vec = []

/-- The function number and tiles of a matrix command. -/
def matrixOp (i : Instr) : Option (Nat × Option Nat × Option Nat × Option Nat) :=
  match i with
  | .mma _ ta tb => some (0, some ta.toNat, some tb.toNat, none)
  | .mmas _ td ta tb => some (1, some ta.toNat, some tb.toNat, some td.toNat)
  | .mzero _ => some (2, none, none, none)
  | .macc _ ta => some (3, some ta.toNat, none, none)
  | .mst _ td => some (4, none, none, some td.toNat)
  | _ => none

/-- The cores of operand A, of operand B, and of the metadata or destination (R333). -/
def matrixCores (s : State) (fn : Nat) : Nat × Nat × Nat :=
  let src := (arrayOf s (clusterOf s.fib.core)).src.toNat
  let slots := match gangOfFibre s s.fib with
    | some g => g.cores
    | none => []
  let a := if fn ≤ 1 then slots.getD (src % 16) s.fib.core else s.fib.core
  (a, slots.getD (src / 16) s.fib.core, if fn = 1 then a else s.fib.core)

/-- The conditions of a matrix command (R312, R334-R337): its tiles found and full, its checks, and no wait. -/
structure MatrixReady (s : State) (fn : Nat) (ta tb td : Option Nat) (n : MNames) : Prop where
  names : matrixNamesOf s (if fn = 2 then none else pendingPfx s.fib) fn ta tb td (matrixCores s fn).1 (matrixCores s fn).2.1
    (matrixCores s fn).2.2 = .ok n
  full : ∀ r ∈ mTiles n, teState r.tile.ent = 2
  checks : matrixChecks fn (matrixFmts (if fn = 2 then none else pendingPfx s.fib) (entOf n.a) (entOf n.b) (entOf n.d) fn) n = none
  noWait : matrixWait s fn n = none

/-- The completion word of a command: address 0 names none, any other passes the checks of a word (R343). -/
def CompletionWord (s : State) (va : Word) (cpl : Option Nat) : Prop :=
  (va = 0 ∧ cpl = none) ∨ (va ≠ 0 ∧ ∃ a, checkWord s va = .ok a ∧ cpl = some a.pa)

/-- A completion word that fails the checks of a store to the scratchpad window (R343, R410): misaligned, not translated, outside the
window, or in a reservation the fibre cannot reach. -/
def WordFails (s : State) (va : Word) (c : Nat) : Prop :=
  (va.toNat % 8 ≠ 0 ∧ c = cALIGN)
  ∨ (va.toNat % 8 = 0 ∧ translateFibre s s.fib .store va.toNat = .bad c)
  ∨ (va.toNat % 8 = 0 ∧ ∃ a, translateFibre s s.fib .store va.toNat = .ok a
      ∧ ((a.loc ≠ 2 ∧ c = cXPROT) ∨ (a.loc = 2 ∧ outOfReach s s.fib a.pa = true ∧ c = cWINDOW)))

/-- The receive that a descriptor's words give (R215), before its destination is found (R364). -/
def recvOfBlock (n : Nat) (f : Fibre) (ws : List Word) (stat : Nat) : Recv :=
  let w := fun i => (ws.getD i 0).toNat
  { id := n, ten := f.ident.tenant, fib := f.id, gang := f.ident.gang, core := f.core, space := spaceOf f.ident.tenant f.pl,
    ptag := ws.getD 0 0, tmask := ws.getD 1 0, psrc := BitVec.ofNat 26 (w 2), smask := BitVec.ofNat 26 (w 2 / 2 ^ 32),
    statva := ws.getD 3 0, stat := stat, base := ws.getD 4 0, fmt := BitVec.ofNat 4 (w 5),
    tile := if nb (w 5) 7 then some (w 4 % 64) else none, ent := 0, tbase := 0,
    ext := [nf (w 6) 0 32, nf (w 6) 32 32, nf (w 7) 0 32, nf (w 7) 32 32], strs := [w 8, w 9, w 10], runs := [], idx := 0, took := false }

/-- The nearest visited slots, each with its record, that are live in a snapshot and satisfy a search's mask, at most `k` (R191). -/
def bestOf (c : IdxCmd) (snap : Nat) (vs : List ((Int × Nat) × (Nat × Rec))) : List ((Int × Nat) × (Nat × Rec)) :=
  let ok := fun (z : (Int × Nat) × (Nat × Rec)) => decide (z.2.2.cgen ≤ snap) && decide (snap < z.2.2.dgen)
    && (BitVec.ofNat 64 z.2.2.attr &&& c.mask) == c.value
  (sortBy (fun (a b : (Int × Nat) × (Nat × Rec)) => nearer (a.1.1, a.2.2.id) (b.1.1, b.2.2.id)) (vs.filter ok)).take c.k

end Sys2Proof.Safety
end

