-- ==== Sys2Proof/Certificates/Slice0/Obligations.lean ====
section
/-! DEFINITION. The statements about the model, one definition each; OBLIGATIONS.json lists them. -/

section

open Sys2Proof Sys2Proof.Machine Sys2Proof.Safety

/-- R251-R265, R270: for every well-formed instruction that has a word, decoding the bytes of its encoding gives it back, every
operand at every value that the encoding admits; an event has no word. -/
def Obligations.RoundTrip : Prop := ∀ i : Instr, Sys2Proof.Laws.RoundTrip.Statement i

/-- R251-R265: words written out from the encoding tables decode to the instructions they stand for, and a word with an unassigned
code, or with a field that must be zero and is not, decodes to none and is rejected by name. -/
def Obligations.WordsDecode : Prop :=
  [0x10000000, 0x50000002, 0x8134A902, 0x1D3ABCDE, 0x2034A815, 0x283A2ABC, 0xAE3ABCDE, 0x3034A97F, 0x4034A849, 0xC8000004,
   0x5130001F, 0xE0852BC0, 0xE2038021, 0xE6021480, 0xF03A0020, 0x70380D20, 0x0034A900].map (decodeTableWord 32) = [
    some (.addi false 0 0 false 0), some (.eret false), some (.div true 3 4 true 5 false true), some (.lui false 3 0xabcde),
    some (.fma false 3 4 true 5 false true), some (.beq false 3 true 4 false 0x2abc), some (.jal true 3 0xabcde),
    some (.ldb false 3 4 true 1 1 2 0x7f), some (.aadd false 3 4 true 5 false 0 1 2 true), some (.fence true 4),
    some (.mfs false 3 0x1f), some (.vadd true 0x21 0x12 0x2f), some (.tdef true 3 true 0x21), some (.mma true 0x21 0x12),
    some (.cpyq true 3 true 4 false true), some (.send false 3 true 4 true), none]
  ∧ decodeWord 0x0034A900 = .error .resbits ∧ decodeWord 0x02000000 = .error .illegal ∧ decodeWord 0x50000008 = .error .illegal
  ∧ decodeWord 0x51000016 = .error .illegal ∧ decodeWord 0x50000012 = .error .resbits

/-- R276, R277: the two-register integer instructions, then the one-register ones and SEL. -/
def Obligations.IntegerShortResults : Prop :=
  ((∀ sat uns, ShortTwo (fun y gd ga la gb lb => .add y gd ga la gb lb sat uns) fun a b =>
    if sat then (if uns then BitVec.ofNat 64 (min (a.toNat + b.toNat) (2 ^ 64 - 1))
      else BitVec.ofInt 64 (max (-(2 ^ 63)) (min (a.toInt + b.toInt) (2 ^ 63 - 1)))) else a + b)
  ∧ (∀ sat uns, ShortTwo (fun y gd ga la gb lb => .sub y gd ga la gb lb sat uns) fun a b =>
    if sat then (if uns then BitVec.ofNat 64 (a.toNat - b.toNat)
      else BitVec.ofInt 64 (max (-(2 ^ 63)) (min (a.toInt - b.toInt) (2 ^ 63 - 1)))) else a - b)
  ∧ ShortTwo .and (fun a b => a &&& b)
  ∧ ShortTwo .or (fun a b => a ||| b)
  ∧ ShortTwo .xor (fun a b => a ^^^ b)
  ∧ ShortTwo .andn (fun a b => a &&& ~~~b)
  ∧ ShortTwo .shl (fun a b => a <<< (b.toNat % 64))
  ∧ ShortTwo .shr (fun a b => a >>> (b.toNat % 64))
  ∧ ShortTwo .sar (fun a b => a.sshiftRight (b.toNat % 64))
  ∧ ShortTwo .ror (fun a b => a.rotateRight (b.toNat % 64))
  ∧ (∀ uns, ShortTwo (fun y gd ga la gb lb => .min y gd ga la gb lb uns) fun a b =>
    if uns then (if b.toNat < a.toNat then b else a) else if b.toInt < a.toInt then b else a)
  ∧ (∀ uns, ShortTwo (fun y gd ga la gb lb => .max y gd ga la gb lb uns) fun a b =>
    if uns then (if a.toNat < b.toNat then b else a) else if a.toInt < b.toInt then b else a)
  ∧ ShortTwo .cmpeq (fun a b => if a = b then 1 else 0)
  ∧ ShortTwo .cmpne (fun a b => if a = b then 0 else 1)
  ∧ (∀ uns, ShortTwo (fun y gd ga la gb lb => .cmplt y gd ga la gb lb uns) fun a b =>
    if uns then (if a.toNat < b.toNat then 1 else 0) else if a.toInt < b.toInt then 1 else 0)
  ∧ (∀ uns, ShortTwo (fun y gd ga la gb lb => .cmple y gd ga la gb lb uns) fun a b =>
    if uns then (if a.toNat ≤ b.toNat then 1 else 0) else if a.toInt ≤ b.toInt then 1 else 0))
  ∧ (ShortOne .clz (fun a => BitVec.ofNat 64 (if a = 0 then 64 else 63 - a.toNat.log2))
  ∧ ShortOne .popc (fun a => BitVec.ofNat 64 ((List.range 64).filter fun i => a.getLsbD i).length)
  ∧ ShortOne .sextb (fun a => (a.setWidth 8).signExtend 64)
  ∧ ShortOne .sexth (fun a => (a.setWidth 16).signExtend 64)
  ∧ ShortOne .sextw (fun a => (a.setWidth 32).signExtend 64)
  ∧ ShortOne .zextb (fun a => a &&& 0xFF)
  ∧ ShortOne .zexth (fun a => a &&& 0xFFFF)
  ∧ ShortOne .zextw (fun a => a &&& 0xFFFFFFFF)
  ∧ (∀ (s : State) (y : Bool) (gd ga : Reg) (la : Bool) (gb : Reg) (lb : Bool),
    let u := plainUse (.sel y gd ga la gb lb) y [(ga, la), (gb, lb), (gd, false)] gd
    Issues s u → exec (.sel y gd ga la gb lb) s = .next (finished u (setShort (begun s u) gd
      (if operand s u 2 = 0 then operand s u 1 else operand s u 0)))))

/-- R278, R279: multiplication, division and the mixing hash; their results are long. -/
def Obligations.IntegerLongResults : Prop :=
  LongTwo .mul (fun a b => (a * b, 0))
  ∧ (∀ uns, LongTwo (fun y gd ga la gb lb => .mulh y gd ga la gb lb uns) fun a b =>
    (if uns then BitVec.ofNat 64 (a.toNat * b.toNat / 2 ^ 64) else BitVec.ofInt 64 (a.toInt * b.toInt / 2 ^ 64), 0))
  ∧ (∀ uns, LongTwo (fun y gd ga la gb lb => .div y gd ga la gb lb uns) fun a b =>
    (if b = 0 then 0xFFFFFFFFFFFFFFFF else if uns then BitVec.ofNat 64 (a.toNat / b.toNat)
      else BitVec.ofInt 64 (a.toInt.tdiv b.toInt), 0))
  ∧ (∀ uns, LongTwo (fun y gd ga la gb lb => .rem y gd ga la gb lb uns) fun a b =>
    (if b = 0 then a else if uns then BitVec.ofNat 64 (a.toNat % b.toNat) else BitVec.ofInt 64 (a.toInt.tmod b.toInt), 0))
  ∧ LongTwo .hmix (fun a b =>
    let x1 := (a ^^^ b.rotateRight 23) * 0x8E5A3C71D2B94F17
    let x2 := (x1 ^^^ (x1 >>> 31)) * 0xB7E15163A9D42C8B
    (x2 ^^^ (x2 >>> 29), 0))

/-- R280: the integer immediate forms. -/
def Obligations.IntegerImmediates : Prop :=
  (∀ imm : BitVec 15, ShortOne (fun y gd ga la => .addi y gd ga la imm) fun a => a + imm.signExtend 64)
  ∧ (∀ imm : BitVec 15, ShortOne (fun y gd ga la => .andi y gd ga la imm) fun a => a &&& imm.setWidth 64)
  ∧ (∀ imm : BitVec 15, ShortOne (fun y gd ga la => .ori y gd ga la imm) fun a => a ||| imm.setWidth 64)
  ∧ (∀ imm : BitVec 15, ShortOne (fun y gd ga la => .xori y gd ga la imm) fun a => a ^^^ imm.setWidth 64)
  ∧ (∀ n : BitVec 6, ShortOne (fun y gd ga la => .shli y gd ga la n) fun a => a <<< n.toNat)
  ∧ (∀ n : BitVec 6, ShortOne (fun y gd ga la => .shri y gd ga la n) fun a => a >>> n.toNat)
  ∧ (∀ n : BitVec 6, ShortOne (fun y gd ga la => .sari y gd ga la n) fun a => a.sshiftRight n.toNat)
  ∧ (∀ n : BitVec 6, ShortOne (fun y gd ga la => .rori y gd ga la n) fun a => a.rotateRight n.toNat)
  ∧ (∀ imm : BitVec 15, ShortOne (fun y gd ga la => .cmpeqi y gd ga la imm) fun a => if a = imm.signExtend 64 then 1 else 0)
  ∧ (∀ imm : BitVec 15, ShortOne (fun y gd ga la => .cmplti y gd ga la imm) fun a => if a.toInt < imm.toInt then 1 else 0)
  ∧ (∀ imm : BitVec 15, ShortOne (fun y gd ga la => .cmpltiUns y gd ga la imm) fun a =>
    if a.toNat < (imm.signExtend 64).toNat then 1 else 0)
  ∧ (∀ pos len : BitVec 6, ShortOne (fun y gd ga la => .extr y gd ga la pos len) fun a =>
    BitVec.ofNat 64 (a.toNat / 2 ^ pos.toNat % 2 ^ (len.toNat + 1)))
  ∧ (∀ (s : State) (y : Bool) (gd ga : Reg) (la : Bool) (pos len : BitVec 6),
    let u := plainUse (.insr y gd ga la pos len) y [(ga, la), (gd, false)] gd
    Issues s u → ∃ v : Word, exec (.insr y gd ga la pos len) s = .next (finished u (setShort (begun s u) gd v))
      ∧ ∀ i, i < 64 → v.getLsbD i = (if pos.toNat ≤ i ∧ i ≤ pos.toNat + len.toNat then (operand s u 0).getLsbD (i - pos.toNat)
        else (operand s u 1).getLsbD i))
  ∧ (∀ (s : State) (y : Bool) (gd : Reg) (imm : BitVec 20), Issues s (plainUse (.lui y gd imm) y [] gd) →
    exec (.lui y gd imm) s = .next (finished (plainUse (.lui y gd imm) y [] gd)
      (setShort (begun s (plainUse (.lui y gd imm) y [] gd)) gd (imm.signExtend 64 <<< 15))))

/-- R107, R281, R282: the scalar float instructions. Each result is the exact value rounded once, long, with its flags; FMIN, FMAX
and the comparisons set none. A fused multiply-add with a NaN addend beside infinity times zero sets no flag: that is read from R97 and R107
(log entry 28). -/
def Obligations.ScalarFloatResults : Prop :=
  (∀ p, LongTwo (fun y gd ga la gb lb => .fadd y gd ga la gb lb p) fun a b => floatRes p (exAdd (floatArg p a) (floatArg p b)))
  ∧ (∀ p, LongTwo (fun y gd ga la gb lb => .fsub y gd ga la gb lb p) fun a b =>
    floatRes p (exAdd (floatArg p a) (exNeg (floatArg p b))))
  ∧ (∀ p, LongTwo (fun y gd ga la gb lb => .fmul y gd ga la gb lb p) fun a b => floatRes p (exMul (floatArg p a) (floatArg p b)))
  ∧ (∀ p, LongTwo (fun y gd ga la gb lb => .fdiv y gd ga la gb lb p) fun a b => floatRes p (exDiv (floatArg p a) (floatArg p b)))
  ∧ (∀ p, LongOne (fun y gd ga la => .fsqrt y gd ga la p) fun a => floatRes p (exSqrt (floatArg p a)))
  ∧ (∀ p, LongTwo (fun y gd ga la gb lb => .fmin y gd ga la gb lb p) fun a b =>
    (BitVec.ofNat 64 (roundFloat (scalarFmt p) false (exMin (floatArg p a) (floatArg p b))).1, 0))
  ∧ (∀ p, LongTwo (fun y gd ga la gb lb => .fmax y gd ga la gb lb p) fun a b =>
    (BitVec.ofNat 64 (roundFloat (scalarFmt p) false (exMax (floatArg p a) (floatArg p b))).1, 0))
  ∧ (∀ p, LongTwo (fun y gd ga la gb lb => .fcmpEq y gd ga la gb lb p) fun a b =>
    (if exEq (floatArg p a) (floatArg p b) then 1 else 0, 0))
  ∧ (∀ p, LongTwo (fun y gd ga la gb lb => .fcmpLt y gd ga la gb lb p) fun a b =>
    (if exLt false (floatArg p a) (floatArg p b) then 1 else 0, 0))
  ∧ (∀ p, LongTwo (fun y gd ga la gb lb => .fcmpLe y gd ga la gb lb p) fun a b =>
    (if exLt false (floatArg p a) (floatArg p b) || exEq (floatArg p a) (floatArg p b) then 1 else 0, 0))
  ∧ LongOne (fun y gd ga la => .fcvt y gd ga la false) (fun a => floatRes false (floatArg true a, 0))
  ∧ LongOne (fun y gd ga la => .fcvt y gd ga la true) (fun a => floatRes true (floatArg false a, 0))
  ∧ (∀ p, LongOne (fun y gd ga la => .fcvti y gd ga la p) fun a =>
    (BitVec.ofNat 64 (floatToInt 64 true (floatArg p a)).1, (floatToInt 64 true (floatArg p a)).2))
  ∧ (∀ p, LongOne (fun y gd ga la => .fcvtf y gd ga la p) fun a => floatRes p (exInt a.toInt, 0))
  ∧ (∀ (s : State) (y : Bool) (gd ga : Reg) (la : Bool) (gb : Reg) (lb p : Bool),
    let u := plainUse (.fma y gd ga la gb lb p) y [(ga, la), (gb, lb), (gd, false)] gd
    let m := exMul (floatArg p (operand s u 0)) (floatArg p (operand s u 1))
    let r := exAdd (floatArg p (operand s u 2)) m.1
    let v := floatRes p (r.1, if floatArg p (operand s u 2) = .nan then 0 else m.2 ||| r.2)
    Issues s u → exec (.fma y gd ga la gb lb p) s = .next (finished u (setLong (begun s u) gd v.1 v.2)))

/-- R95-R107 on scalars: an FP32 operand ignores bits 63-32 (R281), a NaN operand gives the canonical NaN without a flag
(R97), and FDIV by a zero sets DZ and gives a signed infinity (R282). -/
def Obligations.ScalarFloatCorners : Prop :=
  (∀ a b : Word, a.setWidth 32 = b.setWidth 32 → floatArg true a = floatArg true b)
  ∧ (∀ p, floatRes p (exAdd .nan .nan) = (if p then (0x7FC00000, 0) else (0x7FF8000000000000, 0)))
  ∧ floatRes false (exDiv (floatArg false 0x3FF0000000000000) (floatArg false 0x8000000000000000)) = (0xFFF0000000000000, 1)
  ∧ floatRes false (exDiv (floatArg false 0) (floatArg false 0)) = (0x7FF8000000000000, 0x10)
  ∧ floatRes true (exSqrt (floatArg true 0x80000000)) = (0x80000000, 0)
  ∧ floatRes true (exSqrt (floatArg true 0xBF800000)) = (0x7FC00000, 0x10)

/-- R283: the conditional branches. -/
def Obligations.ConditionalBranches : Prop :=
  Branches .beq (fun a b => a == b)
  ∧ Branches .bne (fun a b => a != b)
  ∧ Branches .blt (fun a b => decide (a.toInt < b.toInt))
  ∧ Branches .bge (fun a b => decide (b.toInt ≤ a.toInt))

/-- R284: JAL and JR write the return address as a long result and go to their target; a misaligned JR raises ALIGN and writes
nothing; a target outside the block of the active loops raises LOOPNEST (R56). -/
def Obligations.Jumps : Prop :=
  (∀ (s : State) (y : Bool) (gd : Reg) (imm : BitVec 20),
    let u := plainUse (.jal y gd imm) y [] gd
    let target := s.fib.pc + 4 * imm.signExtend 64
    Issues s u → exec (.jal y gd imm) s = .next (if leavesBlock s.fib target then raise (atReads s y) cLOOPNEST target
      else wentTo u (setLong (begun s u) gd (s.fib.pc + 4) 0) target))
  ∧ (∀ (s : State) (y : Bool) (gd ga : Reg) (la : Bool),
    let u := plainUse (.jr y gd ga la) y [(ga, la)] gd
    let target := operand s u 0
    Issues s u → exec (.jr y gd ga la) s = .next (if target.toNat % 4 ≠ 0 then raise (atReads s y) cALIGN target
      else if leavesBlock s.fib target then raise (atReads s y) cLOOPNEST target
      else wentTo u (setLong (begun s u) gd (s.fib.pc + 4) 0) target))

/-- R54-R56: LOOP pushes a level, or skips its body when the count is 0; it raises LOOPNEST with four levels active, for a last
instruction in another block or beyond the enclosing level's; ENDLOOP leaves the innermost level, and raises LOOPNEST with none.
The end test (R55): an instruction that completes at the last address of the innermost level goes back to its first while
iterations remain; otherwise the level ends and the next is tested. -/
def Obligations.HardwareLoops : Prop :=
  ((∀ (s : State) (y : Bool) (ga : Reg) (la : Bool) (dist : BitVec 14),
    let u := plainUse (.loopReg y ga la dist) y [(ga, la)] 0
    Issues s u → LoopStarts s y u (.loopReg y ga la dist) ((operand s u 0).setWidth 32) dist.toNat)
  ∧ (∀ (s : State) (y : Bool) (count : BitVec 16) (dist : BitVec 8),
    let u := plainUse (.loopImm y count dist) y [] 0
    Issues s u → LoopStarts s y u (.loopImm y count dist) (count.setWidth 32) dist.toNat)
  ∧ (∀ (s : State) (y : Bool),
    let u := plainUse (.endloop y) y [] 0
    Issues s u →
      (s.fib.loops = [] → exec (.endloop y) s = .next (raise (atReads s y) cLOOPNEST s.fib.pc))
      ∧ (∀ l r, s.fib.loops = l :: r → ∃ t, exec (.endloop y) s = .next t ∧ t.fib.loops = r
          ∧ t.fib.pc = BitVec.ofNat 64 (s.fib.pc.toNat / 2 ^ 18 * 2 ^ 18 + l.stop.toNat * 4) + 4
          ∧ SameRegs (atReads s y).fib t.fib 0 0 ∧ t.fib.flags = (atReads s y).fib.flags ∧ OnlyFibre s t)))
  ∧ ((∀ pc : Word, endTest pc [] = ([], pc + 4))
  ∧ (∀ (pc : Word) (l : LoopLevel) (r : List LoopLevel), l.stop ≠ wordIndex pc → endTest pc (l :: r) = (l :: r, pc + 4))
  ∧ (∀ (pc : Word) (l : LoopLevel) (r : List LoopLevel), l.stop = wordIndex pc → l.count ≠ 1 →
    endTest pc (l :: r) = ({ l with count := l.count - 1 } :: r, blockAddr pc l.start))
  ∧ (∀ (pc : Word) (l : LoopLevel) (r : List LoopLevel), l.stop = wordIndex pc → l.count = 1 → endTest pc (l :: r) = endTest pc r))

/-- R46, R53, R62, R288-R290: EXIT, TRIG, YIELD, ALIGN and MIGR, with the waits of EXIT, TRIG and MIGR. A guest fibre's TRIG tells the
gang's home (log entry 13). ALIGN ends the wait of every mate that has reached it. MIGR, whose acceptance is decided at issue (log entry
58), moves its fibre: with its long results written, its accesses performed
and no failure pending, it travels to another core of this module that accepts it, or is offered to a core of another module; on the
core it is on, from a trap frame, or where it is not accepted it goes on with status 1 or 2. -/
def Obligations.FibreControl : Prop :=
  (∀ (s : State) (y : Bool),
    let u : Use := ⟨.exit y, true, false, 0, fun _ => none,
      if s.fib.ident.kind = .task ∧ s.fib.ident.ret ≠ 0 then [(1, false)] else [], 0, true⟩
    Issues s u →
      (allPerformed s s.fib.id = true → exec (.exit y) s = .next (endFibre (begun s u) s.fib.id (operand s u 0)))
      ∧ (allPerformed s s.fib.id = false → exec (.exit y) s = .next (waiting s u .accesses (.exit (operand s u 0)) (begun s u))))
  ∧ (∀ (s : State) (y : Bool),
    let u : Use := ⟨.trig y, y, false, 0, gangOnly (.trig y), [], 0, true⟩
    Issues s u → s.fib.ident.kind = .task → exec (.trig y) s = .next (finished u (begun s u)))
  ∧ (∀ (s : State) (y : Bool),
    let u : Use := ⟨.trig y, y, false, 0, gangOnly (.trig y), [], 0, true⟩
    let r := releaseAt (begun s u) s.fib.ident.tenant s.fib.core s.fib.ident.tscope
    let t := { r with fib := { r.fib with triggered := true } }
    Issues s u → s.fib.ident.kind ≠ .task →
      (allPerformed s s.fib.id = true →
        (s.fib.ident.guest = none → exec (.trig y) s = .next (finished u (settleLaunch t s.fib.ident.launch)))
        ∧ (∀ m n, s.fib.ident.guest = some (m, n) → exec (.trig y) s = .next (finished u (tellHome t t.fib m n 6 0))))
      ∧ (allPerformed s s.fib.id = false → exec (.trig y) s = .next (waiting s u .accesses .trig (begun s u))))
  ∧ (∀ (s : State) (y : Bool),
    let u := plainUse (.yield y) y [] 0
    Issues s u → exec (.yield y) s = .next (finished u (begun s u)))
  ∧ (∀ (s : State) (y : Bool) (n : BitVec 6),
    let u := plainUse (.align y n) y [] 0
    Issues s u →
      (n = 0 → exec (.align y n) s = .next (finished u (begun s u)))
      ∧ (n ≠ 0 → (∀ x ∈ s.fibres, alignMate (begun s u).fib x = false) →
        exec (.align y n) s = .next (holding s u .align (begun s u)))
      ∧ (n ≠ 0 → (∃ x ∈ s.fibres, alignMate (begun s u).fib x = true) → exec (.align y n) s = .next (finished u
        ((s.fibres.filter (alignMate (begun s u).fib)).foldl (fun t x => complete t x.id none) (begun s u)))))
  ∧ (∀ (s : State) (y : Bool) (gd ga : Reg) (la : Bool) (a : Acc),
    let u : Use := ⟨.migr y gd ga la, y, false, 0, gangOnly (.migr y gd ga la), [(ga, la)], gd, true⟩
    let b := begun s u
    let t := { b with fib := drain b.fib }
    Issues s u → firstMark b.fib = none → (operand s u 0).toNat % 8 = 0 →
    translateFibre b b.fib .load (operand s u 0).toNat = .ok a → a.loc = 2 → holdsLease b b.fib = false →
      (isRemote s a.pa = false → spadCore a.pa = s.fib.core →
        exec (.migr y gd ga la) s = .next (finished u (setLong b gd 1 0)))
      ∧ ((isRemote s a.pa = true ∨ spadCore a.pa ≠ s.fib.core) → s.fib.sup.frame = true ∨ s.fib.mon.frame = true →
        exec (.migr y gd ga la) s = .next (finished u (setLong b gd 2 0)))
      ∧ ((isRemote s a.pa = true ∨ spadCore a.pa ≠ s.fib.core) → s.fib.sup.frame = false → s.fib.mon.frame = false →
        (allReady b.fib = false → exec (.migr y gd ga la) s = .next (waiting s u .marker (.migr a.pa) b))
        ∧ (allReady b.fib = true → allPerformed s s.fib.id = false →
          exec (.migr y gd ga la) s = .next (waiting s u .accesses (.migr a.pa) b)))
      ∧ (s.fib.sup.frame = false → s.fib.mon.frame = false → allReady b.fib = true → allPerformed s s.fib.id = true →
        t.fib.failure = none → firstMark t.fib = none →
        (isRemote s a.pa = false → spadCore a.pa ≠ s.fib.core →
          (acceptsFibre t t.fib (spadCore a.pa) = true → exec (.migr y gd ga la) s = .next { t with fib := { issued t.fib u with
            run := .migrating (spadCore a.pa) true
            heldFree := 0
            heldDest := gd } })
          ∧ (acceptsFibre t t.fib (spadCore a.pa) = false →
            exec (.migr y gd ga la) s = .next (finished u (setLong t gd 2 0))))
        ∧ (isRemote s a.pa = true →
          let o := offerRemote t a.pa true (stepPc (freeRegs t.fib (freeMask u))) gd
          exec (.migr y gd ga la) s = .next (holding s u o.1 o.2))))

/-- R286: CALLAT with its earlier accesses performed sends its task, or has it refused, and its fibre waits for the answer, which is fixed
at issue (log entry 58); a core number beyond the module raises BOUND, a misaligned entry ALIGN, and a return word that is not 0 is
checked as a store to the scratchpad window. -/
def Obligations.CallAt : Prop :=
  ∀ (s : State) (y : Bool) (ga : Reg) (la : Bool) (gb : Reg) (lb : Bool),
    let i := Instr.callat y ga la gb lb
    let u : Use := ⟨i, y, false, 0, gangOnly i,
      [(ga, la), (gb, lb), (1, false), (2, false), (3, false), (4, false), (5, false)], 0, true⟩
    let core := (operand s u 1).toNat
    let sc := scopeOfCores s.fib.core core
    let t := exchange (releaseAt (begun s u) s.fib.ident.tenant s.fib.core sc) s.fib.core core
    let ok := acceptsTask t core
    Issues s u →
      (1024 ≤ core → exec i s = .next (raise (atReads s y) cBOUND (operand s u 1)))
      ∧ (core < 1024 → (operand s u 0).toNat % 4 ≠ 0 → exec i s = .next (raise (atReads s y) cALIGN (operand s u 0)))
      ∧ (core < 1024 → (operand s u 0).toNat % 4 = 0 → operand s u 6 ≠ 0 → ∀ c, WordFails (begun s u) (operand s u 6) c →
        exec i s = .next (raise (found (atReads s y) c) c (operand s u 6)))
      ∧ (core < 1024 → (operand s u 0).toNat % 4 = 0 → ∀ cpl, CompletionWord (begun s u) (operand s u 6) cpl →
        (allPerformed s s.fib.id = true → exec i s = .next (holding s u (.callat core (some ok))
          (if ok then callTo t core (operands s u) sc else t)))
        ∧ (allPerformed s s.fib.id = false →
          exec i s = .next (waiting s u .accesses (.call core (operands s u)) (begun s u))))

/-- R291, R292, R410: the loads and the stores complete. -/
def Obligations.LoadsAndStoresComplete : Prop :=
  Loads 1 .ldb ∧ Loads 2 .ldh ∧ Loads 4 .ldw ∧ Loads 8 .ldd
  ∧ Stores 1 .stb ∧ Stores 2 .sth ∧ Stores 4 .stw ∧ Stores 8 .std

/-- R291: a load performed at its home on this module gives the little-endian value of its bytes, zero-extended, as a long result,
and changes no byte; a store puts the low bytes of its datum there, and changes no other byte, no register and no full/empty bit. -/
def Obligations.HomeAccessEffects : Prop :=
  (∀ (s : State) (r : Req) (d : Reg), AtHome s r → r.kind = .load → r.n ≤ 8 → poisoned s r.pa r.n = false →
    ∃ t, doLoad s r d = setLong t d (BitVec.ofNat 64 (mrd s.ms.mem r.pa r.n)) 0 ∧ t.fib = s.fib ∧ t.fibres = s.fibres
      ∧ t.dev = s.dev ∧ t.ms.mem = s.ms.mem ∧ t.ms.full = s.ms.full ∧ t.ms.poison = s.ms.poison)
  ∧ (∀ (s : State) (r : Req), Canonical s → AtHome s r → r.kind = .store →
    mrd (doStore s r).ms.mem r.pa r.n = r.data.toNat % 2 ^ (8 * r.n) ∧ SameMemoryBut s (doStore s r) r.pa r.n
      ∧ (doStore s r).fib = s.fib ∧ (doStore s r).fibres = s.fibres ∧ (doStore s r).dev = s.dev
      ∧ (doStore s r).ms.full = s.ms.full ∧ (doStore s r).ms.reqs = s.ms.reqs)

/-- The frame of the stores to memory of this module, every ORD, SCOPE and POL, and of the plain loads, which store nothing. The
address stored to is the one that translation gives the effective address. No register but the destination of a load and those that
last uses free, no flag, no status changes; every byte outside the stored ones reads as before, or as a dirty copy of it that a
release or a line's flush wrote back (R134). -/
def Obligations.LoadAndStoreFrames : Prop :=
  (∀ (s t : State) (n : Nat) (i : Instr) (y : Bool) (gd ga : Reg) (la : Bool) (pol ord : BitVec 2) (scope : BitVec 4)
    (off : BitVec 7) (a : Acc),
    (n = 1 ∧ i = .stb y gd ga la pol ord scope off) ∨ (n = 2 ∧ i = .sth y gd ga la pol ord scope off)
      ∨ (n = 4 ∧ i = .stw y gd ga la pol ord scope off) ∨ (n = 8 ∧ i = .std y gd ga la pol ord scope off) →
    let u := { plainUse i y [(ga, la), (gd, false)] 0 with fail := ord != 0 }
    let ea := operand s u 0 + BitVec.ofNat 64 n * off.signExtend 64
    Canonical s → Issues s u → Accessible (begun s u) .store n ea (scOwn ord) a → isOwnMem s a.pa = true →
    exec i s = .next t →
      WrittenBack s t a.pa n ∧ t.ms.full = s.ms.full ∧ t.dev.mailbox = s.dev.mailbox ∧ t.dev.tenants = s.dev.tenants
      ∧ (t.fib.run = .eligible → s.fib.run = .eligible → SameRegs (atReads s y).fib t.fib 0 (freeMask u)
        ∧ t.fib.flags = (atReads s y).fib.flags ∧ t.fib.pl = s.fib.pl ∧ t.fib.sup = s.fib.sup ∧ t.fib.mon = s.fib.mon))
  ∧ (∀ (s t : State) (n : Nat) (i : Instr) (y : Bool) (gd ga : Reg) (la : Bool) (pol : BitVec 2) (off : BitVec 7) (a : Acc),
    (n = 1 ∧ i = .ldb y gd ga la pol 0 0 off) ∨ (n = 2 ∧ i = .ldh y gd ga la pol 0 0 off)
      ∨ (n = 4 ∧ i = .ldw y gd ga la pol 0 0 off) ∨ (n = 8 ∧ i = .ldd y gd ga la pol 0 0 off) →
    let u := plainUse i y [(ga, la)] gd
    let ea := operand s u 0 + BitVec.ofNat 64 n * off.signExtend 64
    Canonical s → Issues s u → Accessible (begun s u) .load n ea noOwn a → isOwnMem s a.pa = true → exec i s = .next t →
      WrittenBack s t 0 0 ∧ t.ms.full = s.ms.full ∧ t.ms.poison = s.ms.poison ∧ t.dev = { s.dev with drops := t.dev.drops }
      ∧ t.fib.flags = (atReads s y).fib.flags ∧ t.fib.pl = s.fib.pl ∧ t.fib.sup = s.fib.sup ∧ t.fib.mon = s.fib.mon
      ∧ (∀ r : Reg, r ≠ gd → t.fib.regs.get r.toFin = (atReads s y).fib.regs.get r.toFin
        ∧ t.fib.live.getLsbD r.toNat = ((atReads s y).fib.live.getLsbD r.toNat && !(freeMask u).getLsbD r.toNat)))

/-- R410: a misaligned access raises ALIGN with EVAL the effective address, before any other check of the access: the loads, the
stores, the full/empty operations, the atomics and WAITA. -/
def Obligations.MisalignedAccess : Prop :=
  (∀ (s : State) (n : Nat) (i : Instr) (k : AccKind) (reads : List (Reg × Bool)) (y : Bool) (gd ga : Reg) (la : Bool)
    (pol ord : BitVec 2) (scope : BitVec 4) (off : BitVec 7) (d : Reg),
    (k = .load ∧ d = gd ∧ reads = [(ga, la)] ∧ ((n = 2 ∧ i = .ldh y gd ga la pol ord scope off)
      ∨ (n = 4 ∧ i = .ldw y gd ga la pol ord scope off) ∨ (n = 8 ∧ i = .ldd y gd ga la pol ord scope off)))
    ∨ (k = .store ∧ d = 0 ∧ reads = [(ga, la), (gd, false)] ∧ ((n = 2 ∧ i = .sth y gd ga la pol ord scope off)
      ∨ (n = 4 ∧ i = .stw y gd ga la pol ord scope off) ∨ (n = 8 ∧ i = .std y gd ga la pol ord scope off))) →
    let u := { plainUse i y reads d with fail := ord != 0 }
    let ea := operand s u 0 + BitVec.ofNat 64 n * off.signExtend 64
    Issues s u → ea.toNat % n ≠ 0 → exec i s = .next (raise (atReads s y) cALIGN ea))
  ∧ (∀ (s : State) (i : Instr) (reads : List (Reg × Bool)) (d : Reg) (f y : Bool) (gd ga : Reg) (la : Bool) (off : BitVec 7),
    (d = gd ∧ reads = [(ga, la)] ∧ ((f = true ∧ (i = .ldf y gd ga la off ∨ i = .ldfe y gd ga la off))
      ∨ (f = false ∧ i = .feq y gd ga la off)))
    ∨ (d = 0 ∧ reads = [(ga, la), (gd, false)] ∧ ((f = false ∧ i = .ste y gd ga la off) ∨ (f = true ∧ i = .stf y gd ga la off)))
    ∨ (d = 0 ∧ reads = [(ga, la)] ∧ i = .feset y ga la f off) →
    let u := { plainUse i y reads d with fail := f }
    let ea := operand s u 0 + BitVec.ofNat 64 8 * off.signExtend 64
    Issues s u → ea.toNat % 8 ≠ 0 → exec i s = .next (raise (atReads s y) cALIGN ea))
  ∧ (∀ (s : State) (i : Instr) (reads : List (Reg × Bool)) (y : Bool) (gd ga : Reg) (la : Bool) (gb : Reg) (lb : Bool)
      (place ord : BitVec 2) (scope : BitVec 4) (uns sz : Bool),
    (reads = [(ga, la), (gb, lb)] ∧ (i = .aadd y gd ga la gb lb place ord scope sz ∨ i = .amin y gd ga la gb lb place ord scope uns sz
      ∨ i = .amax y gd ga la gb lb place ord scope uns sz ∨ i = .aand y gd ga la gb lb place ord scope sz
      ∨ i = .aor y gd ga la gb lb place ord scope sz ∨ i = .axch y gd ga la gb lb place ord scope sz
      ∨ i = .aincb y gd ga la gb lb place ord scope sz))
    ∨ (reads = [(ga, la), (gb, lb), (gd, false)] ∧ i = .acas y gd ga la gb lb place ord scope sz)
    ∨ (reads = [(ga, la)] ∧ i = .adecp y gd ga la place ord scope sz) →
    let u := { plainUse i y reads gd with fail := place == 3 || ord != 0 }
    Issues s u → (operand s u 0).toNat % (if sz then 8 else 4) ≠ 0 → exec i s = .next (raise (atReads s y) cALIGN (operand s u 0)))
  ∧ (∀ (s : State) (y : Bool) (gd ga : Reg) (la : Bool) (gb : Reg) (lb word4 : Bool),
    let i := Instr.waita y gd ga la gb lb word4
    let u : Use := ⟨i, y, false, 0, noHandler i, [(ga, la), (gb, lb)], gd, true⟩
    Issues s u → (operand s u 0).toNat % (if word4 then 4 else 8) ≠ 0 →
      exec i s = .next (raise (atReads s y) cALIGN (operand s u 0)))

/-- R293, R144: the full/empty operations on a scratchpad word of this module, each performed at issue as one step once its
wait is over; a waiting one holds its fibre. PREF has no effect (R294). -/
def Obligations.FullEmptyOperations : Prop :=
  (∀ (s : State) (i : Instr) (op : Nat) (k : AccKind) (acq y : Bool) (gd ga : Reg) (la : Bool) (off : BitVec 7) (a : Acc),
    (op = 0 ∧ k = .load ∧ acq = true ∧ i = .ldf y gd ga la off) ∨ (op = 1 ∧ k = .atomic ∧ acq = true ∧ i = .ldfe y gd ga la off)
      ∨ (op = 4 ∧ k = .load ∧ acq = false ∧ i = .feq y gd ga la off) →
    let u := { plainUse i y [(ga, la)] gd with fail := acq }
    let ea := operand s u 0 + BitVec.ofNat 64 8 * off.signExtend 64
    let t := touched (begun s u) a
    let r := withOrder t (mkReq t .feLoad op 8 a ea) (if acq then some (feScope t t.fib.core a.pa) else none) none false
    Issues s u → Reachable (begun s u) k 8 ea onlySpad a → isRemote s a.pa = false →
      (∀ w v, atIssue t r = true → performHere t r = .done w v → exec i s = .next (finished u (setLong w gd v 0)))
      ∧ (∀ w c, atIssue t r = true → performHere t r = .fail w c → exec i s = .next (finished u (setFailed w gd c ea)))
      ∧ (∀ w, atIssue t r = true → performHere t r = .wait w →
        exec i s = .next (holding s u (.req r.id) (queueReq w { r with arrived := true, place := r.id } false)))
      ∧ (atIssue t r = true → performHere t r = .refused →
        exec i s = .next (holding s u (.req r.id) (queueReq t { r with refused := true } false)))
      ∧ (atIssue t r = false → exec i s = .next (holding s u (.req r.id) (queueReq t r false))))
  ∧ (∀ (s : State) (i : Instr) (op : Nat) (rel y : Bool) (reads : List (Reg × Bool)) (data : Word) (off : BitVec 7) (a : Acc)
    (gd ga : Reg) (la : Bool),
    let u := { plainUse i y reads 0 with fail := rel }
    (op = 2 ∧ rel = false ∧ reads = [(ga, la), (gd, false)] ∧ data = operand s u 1 ∧ i = .ste y gd ga la off)
      ∨ (op = 3 ∧ rel = true ∧ reads = [(ga, la), (gd, false)] ∧ data = operand s u 1 ∧ i = .stf y gd ga la off)
      ∨ (op = 5 ∧ reads = [(ga, la)] ∧ data = (if rel then 1 else 0) ∧ i = .feset y ga la rel off) →
    let ea := operand s u 0 + BitVec.ofNat 64 8 * off.signExtend 64
    let t := touched (begun s u) a
    let r := withOrder t { mkReq t .feStore op 8 a ea with data := data } none
      (if rel then some (feScope t t.fib.core a.pa) else none) false
    Issues s u → Reachable (begun s u) .store 8 ea onlySpad a → isRemote s a.pa = false →
    (rel = true → allPerformed s s.fib.id = true) →
      (∀ w v, atIssue t r = true → performHere t r = .done w v → exec i s = .next (finished u w))
      ∧ (∀ w c, atIssue t r = true → performHere t r = .fail w c → exec i s = .next (finished u (setFailed w 0 c ea)))
      ∧ (∀ w, atIssue t r = true → performHere t r = .wait w →
        exec i s = .next (holding s u (.req r.id) (queueReq w { r with arrived := true, place := r.id } false)))
      ∧ (atIssue t r = true → performHere t r = .refused →
        exec i s = .next (holding s u (.req r.id) (queueReq t { r with refused := true } false)))
      ∧ (atIssue t r = false → exec i s = .next (holding s u (.req r.id) (queueReq t r false))))
  ∧ (∀ (s : State) (y : Bool) (ga : Reg) (la : Bool) (pol : BitVec 2) (off : BitVec 7),
    let u := plainUse (.pref y ga la pol off) y [(ga, la)] 0
    Issues s u → exec (.pref y ga la pol off) s = .next (finished u (begun s u)))

/-- R144, R293: what the six operations do to a word and its bit: LDF reads; LDFE reads and empties; STE stores; STF stores
and fills; FEQ reads the bit; FESET sets it. Nothing else of memory changes. -/
def Obligations.FullEmptyEffects : Prop :=
  ∀ (s : State) (r : Req), Canonical s → regionOf r.pa = 3 → r.pa < 2 ^ 56 → r.pa % 8 = 0 →
    let q := performFe s r
    (r.op = 0 → q.2 = mrd s.ms.mem r.pa 8 ∧ q.1.ms.mem = s.ms.mem ∧ q.1.ms.full = s.ms.full)
    ∧ (r.op = 1 → q.2 = mrd s.ms.mem r.pa 8 ∧ q.1.ms.mem = s.ms.mem ∧ isFull q.1 r.pa = false)
    ∧ (r.op = 2 → mrd q.1.ms.mem r.pa 8 = r.data.toNat ∧ SameMemoryBut s q.1 r.pa 8 ∧ q.1.ms.full = s.ms.full)
    ∧ (r.op = 3 → mrd q.1.ms.mem r.pa 8 = r.data.toNat ∧ SameMemoryBut s q.1 r.pa 8 ∧ isFull q.1 r.pa = true)
    ∧ (r.op = 4 → q.2 = (if isFull s r.pa then 1 else 0) ∧ q.1.ms.mem = s.ms.mem ∧ q.1.ms.full = s.ms.full)
    ∧ (r.op = 5 → isFull q.1 r.pa = (r.data != 0) ∧ q.1.ms.mem = s.ms.mem)
    ∧ (∀ x, x / 8 ≠ r.pa / 8 → isFull q.1 x = isFull s x)

/-- R295-R297: the atomics complete, each with its operation. -/
def Obligations.AtomicsComplete : Prop :=
  ∀ (y : Bool) (gd ga : Reg) (la : Bool) (gb : Reg) (lb : Bool) (place ord : BitVec 2) (scope : BitVec 4) (uns sz : Bool),
    Atomics (.aadd y gd ga la gb lb place ord scope sz) 0 false sz y gd [(ga, la), (gb, lb)] 1 9 place ord scope
    ∧ Atomics (.amin y gd ga la gb lb place ord scope uns sz) 1 uns sz y gd [(ga, la), (gb, lb)] 1 9 place ord scope
    ∧ Atomics (.amax y gd ga la gb lb place ord scope uns sz) 2 uns sz y gd [(ga, la), (gb, lb)] 1 9 place ord scope
    ∧ Atomics (.aand y gd ga la gb lb place ord scope sz) 3 false sz y gd [(ga, la), (gb, lb)] 1 9 place ord scope
    ∧ Atomics (.aor y gd ga la gb lb place ord scope sz) 4 false sz y gd [(ga, la), (gb, lb)] 1 9 place ord scope
    ∧ Atomics (.axch y gd ga la gb lb place ord scope sz) 5 false sz y gd [(ga, la), (gb, lb)] 1 9 place ord scope
    ∧ Atomics (.acas y gd ga la gb lb place ord scope sz) 6 false sz y gd [(ga, la), (gb, lb), (gd, false)] 1 2 place ord scope
    ∧ Atomics (.adecp y gd ga la place ord scope sz) 7 false sz y gd [(ga, la)] 9 9 place ord scope
    ∧ Atomics (.aincb y gd ga la gb lb place ord scope sz) 8 false sz y gd [(ga, la), (gb, lb)] 1 9 place ord scope

/-- R296: the new value of each atomic, on 8 or 4 bytes read as the operation says; ACAS writes only on a match, ADECP only above
0 and AINCB only below the bound. -/
def Obligations.AtomicNewValues : Prop :=
  ∀ (n old b e : Nat) (uns : Bool), n = 4 ∨ n = 8 → old < 2 ^ (8 * n) → b < 2 ^ (8 * n) →
    let sg := fun (v : Nat) => if v < 2 ^ (8 * n - 1) then (v : Int) else (v : Int) - 2 ^ (8 * n)
    let less := if uns then old < b else sg old < sg b
    atomicNew 0 uns n old b e = some ((old + b) % 2 ^ (8 * n))
    ∧ (less → atomicNew 1 uns n old b e = some old ∧ atomicNew 2 uns n old b e = some b)
    ∧ (¬less → atomicNew 1 uns n old b e = some b ∧ atomicNew 2 uns n old b e = some old)
    ∧ atomicNew 3 uns n old b e = some (old &&& b)
    ∧ atomicNew 4 uns n old b e = some (old ||| b)
    ∧ atomicNew 5 uns n old b e = some b
    ∧ atomicNew 6 uns n old b e = (if old = e then some b else none)
    ∧ atomicNew 7 uns n old b e = (if 0 < sg old then some (old - 1) else none)
    ∧ atomicNew 8 uns n old b e = (if old < b then some (old + 1) else none)

/-- R295, R296: an atomic performed at its home in the scratchpad returns the old value, writes the new one when there is one,
and touches no other byte. -/
def Obligations.AtomicAtHome : Prop :=
  ∀ (s : State) (r : Req), Canonical s → regionOf r.pa = 3 →
    let old := mrd s.ms.mem r.pa r.n
    let q := performAtomic s r
    q.2 = old ∧ SameMemoryBut s q.1 r.pa r.n ∧ q.1.ms.full = s.ms.full ∧ q.1.fib = s.fib
    ∧ (match atomicNew r.op r.uns r.n old (r.data.toNat % 2 ^ (8 * r.n)) (r.expect.toNat % 2 ^ (8 * r.n)) with
      | some v => mrd q.1.ms.mem r.pa r.n = v % 256 ^ r.n
      | none => q.1.ms.mem = s.ms.mem)

/-- R164, R299, R300, R302: FENCE, WAITA and NOTIFY. -/
def Obligations.FencesAndWaits : Prop :=
  (∀ (s : State) (y : Bool) (scope : BitVec 4),
    let u := { plainUse (.fence y scope) y [] 0 with fail := true }
    Issues s u → allPerformed s s.fib.id = true → exec (.fence y scope) s = .next (finished u
      (acquireAt (releaseAt (begun s u) s.fib.ident.tenant s.fib.core scope) s.fib.ident.tenant s.fib.core scope)))
  ∧ (∀ (s : State) (y : Bool) (gd ga : Reg) (la : Bool) (gb : Reg) (lb word4 : Bool) (a : Acc),
    let i := Instr.waita y gd ga la gb lb word4
    let u : Use := ⟨i, y, false, 0, noHandler i, [(ga, la), (gb, lb)], gd, true⟩
    let n := if word4 then 4 else 8
    let t := touched (begun s u) a
    let r := withOrder t { mkReq t .waita 0 n a (operand s u 0) with expect := operand s u 1 }
      (some (waitScope t t.fib.core a.pa)) none false
    Issues s u → Reachable (begun s u) .load n (operand s u 0) notTarget a → isRemote s a.pa = false →
      (∀ w v, atIssue t r = true → performHere t r = .done w v → exec i s = .next (finished u (setLong w gd v 0)))
      ∧ (∀ w c, atIssue t r = true → performHere t r = .fail w c →
        exec i s = .next (finished u (setFailed w gd c (operand s u 0))))
      ∧ (∀ w, atIssue t r = true → performHere t r = .wait w →
        exec i s = .next (holding s u (.req r.id) (queueReq w { r with arrived := true, place := r.id } false)))
      ∧ (atIssue t r = false → exec i s = .next (holding s u (.req r.id) (queueReq t r false))))
  ∧ (∀ (s : State) (y : Bool) (gd ga : Reg) (la all : Bool) (a : Acc),
    let u := { plainUse (.notify y gd ga la all) y [(ga, la)] gd with fail := true }
    let ea := operand s u 0
    let t := releaseAt (touched (begun s u) a) s.fib.ident.tenant s.fib.core (waitScope (begun s u) s.fib.core a.pa)
    let r := notifyAt (exchange t s.fib.core (homeUnit t a.pa)) s.fib.ident.tenant a.pa all
    Issues s u → ea.toNat % 4 = 0 →
    Reachable (begun s u) .atomic (if ea.toNat % 8 = 0 then 8 else 4) ea notTarget a →
    allPerformed s s.fib.id = true → isRemote s a.pa = false → homeLost s a.pa = false →
      exec (.notify y gd ga la all) s = .next (finished u (setLong r.1 gd (BitVec.ofNat 64 r.2) 0)))

/-- R301, R303, R304: an arrival at a barrier is recorded and holds its fibre; SCOPESET makes its release and holds its fibre
until every die has the value; LAUNCH submits its record and returns the result word. The value that an episode gives: 0 without a
combine, the least or the greatest unsigned value, or the sum modulo 2^64; all ones when the arrivals' codes differ. -/
def Obligations.BarriersAndLaunch : Prop :=
  ((∀ (s : State) (i : Instr) (grid y : Bool) (gd ga : Reg) (la : Bool) (comb : BitVec 2) (g : Gang),
    (i = .barr y gd ga la comb ∧ grid = false) ∨ (i = .barj y gd ga la comb ∧ grid = true) →
    let u : Use := ⟨i, y, false, 0, barrierCtx i grid, [(ga, la)], gd, true⟩
    let key := if grid then g.launch * 8 + g.stage else g.id
    let t := releaseAt (begun s u) s.fib.ident.tenant s.fib.core (barrierScope (begun s u) grid key)
    Issues s u → allPerformed s s.fib.id = true → s.fib.ident.guest = none → gangOfFibre s s.fib = some g →
      exec i s = .next (holding s u (.barrier (barrierId grid key))
        (setBarrier t { barrierOf t grid key with
          arrivals := (barrierOf t grid key).arrivals ++ [(s.fib.id, comb, operand s u 0)] })))
  ∧ (∀ (s : State) (y : Bool) (ga : Reg) (la : Bool) (n : BitVec 3),
    let u := { plainUse (.scopeset y ga la n) y [(ga, la)] 0 with fail := true }
    Issues s u → allPerformed s s.fib.id = true → exec (.scopeset y ga la n) s = .next
      (holding s u (.mask n.toNat (operand s u 0)) (releaseAt (begun s u) s.fib.ident.tenant s.fib.core 4)))
  ∧ (∀ (s : State) (y : Bool) (gd ga : Reg) (la : Bool) (ws : List Word) (t : State),
    let i := Instr.launch y gd ga la
    let u : Use := ⟨i, y, false, 0, noHandler i, [(ga, la)], gd, true⟩
    Issues s u → (operand s u 0).toNat % 64 = 0 → allPerformed s s.fib.id = true →
    BlockReads 8 (releaseAt (begun s u) s.fib.ident.tenant s.fib.core 4) (operand s u 0) ws t →
      let t1 := raiseClock t 1088 (clockOf t t.fib.core)
      exec i s = .next (finished u (setLong (submit t1 t1.fib.ident.tenant ws).1 gd (submit t1 t1.fib.ident.tenant ws).2 0))))
  ∧ (∀ (a : Nat × BitVec 2 × Word) (r : List (Nat × BitVec 2 × Word)),
    ((∃ b ∈ r, b.2.1 ≠ a.2.1) → combine (a :: r) = 0xFFFFFFFFFFFFFFFF)
    ∧ ((∀ b ∈ r, b.2.1 = a.2.1) →
      (a.2.1 = 0 → combine (a :: r) = 0)
      ∧ (a.2.1 = 1 → (∀ b ∈ a :: r, (combine (a :: r)).toNat ≤ b.2.2.toNat) ∧ ∃ b ∈ a :: r, combine (a :: r) = b.2.2)
      ∧ (a.2.1 = 2 → (∀ b ∈ a :: r, b.2.2.toNat ≤ (combine (a :: r)).toNat) ∧ ∃ b ∈ a :: r, combine (a :: r) = b.2.2)
      ∧ (a.2.1 = 3 → combine (a :: r) = ((a :: r).map fun b => b.2.2).foldl (· + ·) 0)))

/-- R258, R306, R308-R310, R428: the system instructions at a level that may run them. -/
def Obligations.SystemInstructions : Prop :=
  (∀ (s : State) (y : Bool), Issues s (plainUse (.nop y) y [] 0) →
    exec (.nop y) s = .next (finished (plainUse (.nop y) y [] 0) (begun s (plainUse (.nop y) y [] 0))))
  ∧ (∀ (s : State) (y : Bool) (n : BitVec 6), Issues s (plainUse (.trap y n) y [] 0) →
    exec (.trap y n) s = .next (raiseAfter (atReads s y) false (if n = 63 then cBREAK else cTRAPI) (n.setWidth 64)))
  ∧ (∀ (s : State) (y : Bool) (n : BitVec 6), Issues s { plainUse (.hcall y n) y [] 0 with level := 1 } →
    exec (.hcall y n) s = .next (raiseAfter (atReads s y) true cTRAPI (0x8000000000000000 + n.setWidth 64)))
  ∧ (∀ (s : State) (y : Bool) (ga : Reg) (la : Bool) (mode : BitVec 2) (scope : BitVec 4),
    let u := { plainUse (.tlbinv y ga la mode scope) y [(ga, la)] 0 with
      level := 1
      fail := true }
    Issues s u → allPerformed s s.fib.id = true → exec (.tlbinv y ga la mode scope) s = .next
      (holding s u (.tlb scope (maskOf s s.fib.ident.tenant scope) (mode == 1) (operand s u 0)) (releaseAt (begun s u) s.fib.ident.tenant s.fib.core 4)))
  ∧ (∀ (s : State) (y : Bool) (ga : Reg) (la : Bool) (op : BitVec 6) (a : Acc),
    let u := plainUse (.cacheop y ga la op) y [(ga, la)] 0
    let b : Acc := ⟨a.pa, a.cp, a.gr, a.loc, false, 0, 0, 0⟩
    Issues s u → translateFibre (begun s u) (begun s u).fib .load (operand s u 0).toNat = .ok a →
      (outOfReach (begun s u) (begun s u).fib a.pa = true →
        exec (.cacheop y ga la op) s = .next (raise (found (atReads s y) cWINDOW) cWINDOW (operand s u 0)))
      ∧ (outOfReach (begun s u) (begun s u).fib a.pa = false → lineBusy (begun s u) b = false →
        exec (.cacheop y ga la op) s = .next (finished u (cacheOp (begun s u) s.fib.core b op.toNat))))
  ∧ (∀ (s : State) (y : Bool) (ga : Reg) (la : Bool),
    let i := Instr.imgsave y ga la
    let u := { plainUse i y [(ga, la)] 0 with level := 1 }
    let suspend := fun (g : Gang) => { g with suspended := true }
    Issues s u → handleCheck i (begun s u) (operand s u 0) = none →
      (handleGang s (operand s u 0) = none → exec i s = .next (finished u (begun s u)))
      ∧ (∀ g, handleGang s (operand s u 0) = some g →
        (g.st = .done → exec i s = .next (finished u (begun s u)))
        ∧ (g.st = .imaged → exec i s = .next (finished u (modGang (begun s u) g.id suspend)))
        ∧ (g.st ≠ .done → g.st ≠ .imaged → exec i s = .next
          (holding s u (.image g.id) (startImaging (modGang (begun s u) g.id suspend) [g.id])))))
  ∧ (∀ (s : State) (y : Bool) (ga : Reg) (la : Bool),
    let i := Instr.imgload y ga la
    let u := { plainUse i y [(ga, la)] 0 with level := 1 }
    let back := fun (m : Image) (g : Gang) => { g with
      st := .imaged
      image := some m
      ended := false
      suspended := false }
    Issues s u → handleCheck i (begun s u) (operand s u 0) = none →
      (handleGang s (operand s u 0) = none → exec i s = .next (finished u (begun s u)))
      ∧ (∀ g, handleGang s (operand s u 0) = some g → (g.ended = false ∨ g.st = .done ∨ g.last = none →
          exec i s = .next (finished u (modGang (begun s u) g.id fun g => { g with suspended := false })))
        ∧ (g.ended = true → g.st ≠ .done → ∀ m, g.last = some m →
          exec i s = .next (finished u { modGang (begun s u) g.id (back m) with
            fibres := s.fibres.filter fun f => f.ident.gang != some g.id }))))

/-- R307: MFS reads a special register as a long result; MTS writes one, or ignores a read-only one; MTS of a scope mask makes
its release and holds the fibre, as SCOPESET does (R303). -/
def Obligations.SpecialRegisterMoves : Prop :=
  (∀ (s : State) (y : Bool) (gd : Reg) (r : BitVec 6),
    let u := plainUse (.mfs y gd r) y [] gd
    Issues s u → exec (.mfs y gd r) s = .next (finished u (setLong (begun s u) gd (sregRead (begun s u) r.toNat) 0)))
  ∧ (∀ (s : State) (y : Bool) (ga : Reg) (la : Bool) (r : BitVec 6),
    let i := Instr.mts y ga la r
    let u := { plainUse i y [(ga, la)] 0 with fail := decide (0x18 ≤ r.toNat) }
    let v := operand s u 0
    Issues s u →
      (∀ c x, mtsCheck i (begun s u).fib r.toNat v = some (c, x) → exec i s = .next (raise (found (atReads s y) c) c x))
      ∧ (mtsCheck i (begun s u).fib r.toNat v = none → r.toNat < 0x18 →
        exec i s = .next (finished u { begun s u with fib := sregWrite (begun s u).fib r.toNat v }))
      ∧ (mtsCheck i (begun s u).fib r.toNat v = none → 0x18 ≤ r.toNat → allPerformed s s.fib.id = true →
        exec i s = .next (holding s u (.mask (r.toNat - 0x18) v) (releaseAt (begun s u) s.fib.ident.tenant s.fib.core 4))))

/-- R34, R36, R37, R270, R396: what each special register reads as. -/
def Obligations.SpecialRegisterValues : Prop :=
  ∀ (s : State), let f := s.fib
    (sregRead s 0x00).toNat = f.flags.toNat + (if f.loops = [] then 0 else 2 ^ 7) + f.loops.length % 8 * 2 ^ 8 + f.pl.toNat * 2 ^ 11
        + (if f.hzchk then 2 ^ 13 else 0) + (if f.dchk then 2 ^ 14 else 0) + (if f.pfx then 2 ^ 15 else 0)
    ∧ sregRead s 0x01 = f.fpfx ∧ sregRead s 0x02 = f.ident.fcoord ∧ sregRead s 0x03 = f.ident.fstage
    ∧ sregRead s 0x04 = f.ident.tenant.setWidth 64 ∧ sregRead s 0x05 = f.ident.gangid
    ∧ (f.loops = [] → sregRead s 0x06 = 0 ∧ sregRead s 0x07 = 0 ∧ sregRead s 0x08 = 0)
    ∧ (∀ l r, f.loops = l :: r → sregRead s 0x06 = l.count.setWidth 64
      ∧ sregRead s 0x07 = BitVec.ofNat 64 (f.pc.toNat / 2 ^ 18 * 2 ^ 18 + 4 * l.start.toNat)
      ∧ sregRead s 0x08 = BitVec.ofNat 64 (f.pc.toNat / 2 ^ 18 * 2 ^ 18 + 4 * l.stop.toNat))
    ∧ sregRead s 0x09 = f.sup.epc ∧ sregRead s 0x0B = f.sup.val ∧ sregRead s 0x13 = f.mon.epc ∧ sregRead s 0x15 = f.mon.val
    ∧ (sregRead s 0x0A).toNat = f.sup.cause.toNat + f.sup.ppl.toNat * 2 ^ 6 + (if f.sup.ppfx then 2 ^ 8 else 0)
        + (if f.sup.frame then 2 ^ 9 else 0) + (if f.sup.dbl then 2 ^ 10 else 0) + (if f.sup.rdir then 2 ^ 11 else 0)
    ∧ (sregRead s 0x14).toNat = f.mon.cause.toNat + f.mon.ppl.toNat * 2 ^ 6 + (if f.mon.ppfx then 2 ^ 8 else 0)
        + (if f.mon.frame then 2 ^ 9 else 0) + (if f.mon.dbl then 2 ^ 10 else 0) + (if f.mon.rdir then 2 ^ 11 else 0)
    ∧ sregRead s 0x0C = BitVec.ofNat 64 (clockOf s f.core) ∧ sregRead s 0x10 = s.dev.mod.setWidth 64
    ∧ sregRead s 0x0D = BitVec.ofNat 64 f.core ∧ sregRead s 0x0E = BitVec.ofNat 64 (f.core / 16)
    ∧ sregRead s 0x0F = BitVec.ofNat 64 (f.core / 256) ∧ sregRead s 0x11 = s.net.inc.setWidth 64
    ∧ sregRead s 0x12 = s.dev.pod.setWidth 64
    ∧ (∀ k, k < 8 → sregRead s (0x18 + k) = tget 0 (tenantOf s f.ident.tenant.toNat).masks k)

/-- R34, R307: MTS of FSTAT sets DCHK and HZCHK, clears the flags written as 1, and changes nothing else of the fibre; the frame
of MTS to a fibre's own register. -/
def Obligations.FstatWrite : Prop :=
  ∀ (f : Fibre) (v : Word), let g := sregWrite f 0 v
    g.dchk = v.getLsbD 14 ∧ g.hzchk = v.getLsbD 13 ∧ (∀ k, k < 5 → g.flags.getLsbD k = (f.flags.getLsbD k && !v.getLsbD k))
    ∧ g = { f with
      dchk := g.dchk
      hzchk := g.hzchk
      flags := g.flags }
    ∧ (∀ r, let h := sregWrite f r v
      h.regs = f.regs ∧ h.live = f.live ∧ h.pend = f.pend ∧ h.pc = f.pc ∧ h.pl = f.pl ∧ h.fpfx = f.fpfx
        ∧ (r ≠ 0 → h.flags = f.flags) ∧ (r < 0x09 ∨ 0x0B < r → h.sup = f.sup) ∧ (r < 0x13 ∨ 0x15 < r → h.mon = f.mon)
        ∧ h.sup.frame = f.sup.frame ∧ h.mon.frame = f.mon.frame)

/-- R391, R394: a trap raised with every long result there and no failure pending. The context of the target level takes the
faulting instruction's address, the value, the cause, the level, PFX and the loop stack; the level and the PC become the
target's; RDIR says that TVEC was unusable. Registers, flags and the other context stay, and beyond the fibre only its place
among those waiting for a walker (R375) changes. -/
def Obligations.TrapEntry : Prop :=
  ∀ (s : State) (c : Nat) (v : Word), allReady s.fib = true → s.fib.failure = none →
    let f := drain s.fib
    let t := raise s c v
    let tvec := (tenantOf s s.fib.ident.tenant.toNat).tvec
    let mvec := mailWord s 16
    let ctx := fun (rdir : Bool) => (⟨f.pc, v, BitVec.ofNat 6 c, f.pl, f.pfx, true, false, rdir, f.loops,
      f.pc.toNat / 2 ^ 18 * 2 ^ 18⟩ : TrapCtx)
    let kept := TrapFrame s t ∧ t.fib.regs = f.regs ∧ t.fib.live = f.live ∧ t.fib.marks = f.marks ∧ t.fib.pend = []
      ∧ t.fib.flags = f.flags ∧ t.fib.fpfx = f.fpfx ∧ t.fib.pfx = false ∧ t.fib.loops = [] ∧ t.fib.run = .eligible
      ∧ t.fib.failure = none
    let toMonitor := c = cPOISON ∨ c = cEVICTED ∨ s.fib.pl = 2
    (¬toMonitor → usableVec tvec = true → s.fib.sup.frame = false →
      t.fib.sup = ctx false ∧ t.fib.mon = f.mon ∧ t.fib.pl = 1 ∧ t.fib.pc = tvec ∧ kept)
    ∧ (¬toMonitor → usableVec tvec = false → usableVec mvec = true → s.fib.mon.frame = false →
      t.fib.mon = ctx true ∧ t.fib.sup = f.sup ∧ t.fib.pl = 2 ∧ t.fib.pc = mvec ∧ kept)
    ∧ (toMonitor → usableVec mvec = true → s.fib.mon.frame = false →
      t.fib.mon = ctx false ∧ t.fib.sup = f.sup ∧ t.fib.pl = 2 ∧ t.fib.pc = mvec ∧ kept)

/-- R402: a trap whose supervisor context already holds a frame goes to the device monitor with DBL set, where that context is
free and MVEC usable, and the supervisor context keeps the first trap's values; otherwise the fibre ends as EXIT ends it, a task's
return word all ones, and the double trap is counted; it waits first for its accesses to be performed. -/
def Obligations.DoubleTrap : Prop :=
  ∀ (s : State) (c : Nat) (v : Word), allReady s.fib = true → s.fib.failure = none → c ≠ cPOISON → c ≠ cEVICTED →
    s.fib.pl ≠ 2 → usableVec (tenantOf s s.fib.ident.tenant.toNat).tvec = true → s.fib.sup.frame = true →
    let f := drain s.fib
    let t := raise s c v
    (usableVec (mailWord s 16) = true → s.fib.mon.frame = false →
      t.fib.mon = ⟨f.pc, v, BitVec.ofNat 6 c, f.pl, f.pfx, true, true, false, f.loops, f.pc.toNat / 2 ^ 18 * 2 ^ 18⟩
      ∧ t.fib.sup = f.sup ∧ t.fib.pl = 2 ∧ t.fib.pc = mailWord s 16 ∧ t.fib.regs = f.regs ∧ TrapFrame s t)
    ∧ (usableVec (mailWord s 16) = false ∨ s.fib.mon.frame = true → ∃ w : State,
      w = { s with
        fib := f
        walkWait := s.walkWait.filter fun w => w.2 != s.fib.id
        sched := { s.sched with free := s.sched.free + 1 }
        dev := if allPerformed s s.fib.id then { s.dev with double := s.dev.double + 1 } else s.dev }
      ∧ (allPerformed s s.fib.id = true → t = endFibre w s.fib.id 0xFFFFFFFFFFFFFFFF)
      ∧ (allPerformed s s.fib.id = false → t = parkOn w .doom))

/-- R391, R399: a trap waits, with its cause kept, for long results, and a pending failure is taken in place of the cause raised, at the PC. -/
def Obligations.TrapWaitsAndFailures : Prop :=
  ∀ (s : State) (c : Nat) (v : Word),
    (allReady s.fib = false → raise s c v = parkOn s (.trap c v))
    ∧ (allReady s.fib = true → ∀ e, s.fib.failure = some e →
      raise s c v = takeTrap { s with fib := { drain s.fib with failure := none } } e.cause.toNat e.addr s.fib.pc false)

/-- R392: ERET restores the level, PFX, the loop stack and the PC from the context of its level, and clears FRAME, DBL and RDIR; it
raises ILLEGAL without a frame and LOOPNEST for an EPC outside the block of the frame's levels. -/
def Obligations.TrapReturn : Prop :=
  ∀ (s : State) (y : Bool),
    let u := { plainUse (.eret y) y [] 0 with
      level := 1
      fail := true }
    let x := if s.fib.pl = 2 then s.fib.mon else s.fib.sup
    Issues s u →
      (x.frame = false → exec (.eret y) s = .next (raise (atReads s y) cILLEGAL 0x50000002))
      ∧ (x.frame = true → x.loops ≠ [] → x.epc.toNat / 2 ^ 18 * 2 ^ 18 ≠ x.block →
        exec (.eret y) s = .next (raise (atReads s y) cLOOPNEST x.epc))
      ∧ (x.frame = true → x.loops = [] ∨ x.epc.toNat / 2 ^ 18 * 2 ^ 18 = x.block →
        ∃ t, exec (.eret y) s = .next t ∧ OnlyFibre s t ∧ t.fib.pl = x.ppl ∧ t.fib.pfx = x.ppfx ∧ t.fib.loops = x.loops
          ∧ t.fib.pc = x.epc &&& 0xFFFFFFFFFFFFFFFC
          ∧ (if s.fib.pl = 2 then t.fib.mon else t.fib.sup).frame = false
          ∧ (if s.fib.pl = 2 then t.fib.mon else t.fib.sup).dbl = false
          ∧ (if s.fib.pl = 2 then t.fib.mon else t.fib.sup).rdir = false
          ∧ (if s.fib.pl = 2 then t.fib.mon else t.fib.sup).epc = x.epc
          ∧ (if s.fib.pl = 2 then t.fib.sup = s.fib.sup else t.fib.mon = s.fib.mon)
          ∧ t.fib.regs = (atReads s y).fib.regs ∧ t.fib.live = (atReads s y).fib.live
          ∧ t.fib.flags = (atReads s y).fib.flags ∧ t.fib.fpfx = s.fib.fpfx)

/-- R393, R306: TRAP and HCALL complete first, with the end test, and EPC is the PC that follows. -/
def Obligations.TrapInstructions : Prop :=
  ∀ (s : State) (hcall : Bool) (c : Nat) (v : Word), allReady s.fib = true → s.fib.failure = none →
    let g := stepPc (drain s.fib)
    raiseAfter s hcall c v = takeTrap { s with fib := g } c v g.pc hcall
    ∧ (hcall = true → usableVec (mailWord s 16) = true → s.fib.mon.frame = false →
      ∃ t, raiseAfter s hcall c v = t ∧ t.fib.pl = 2 ∧ t.fib.pc = mailWord s 16 ∧ t.fib.mon.epc = g.pc ∧ t.fib.mon.val = v
        ∧ t.fib.mon.ppl = s.fib.pl ∧ t.fib.mon.frame = true ∧ t.fib.sup = s.fib.sup ∧ t.fib.regs = g.regs ∧ TrapFrame s t)

/-- R305, R346, R253: the privileged instructions raise PRIV at user level, and KLOAD and KTURN below device monitor level, where the core
serves a gateway port (R405), with EVAL their word, whatever their operands. -/
def Obligations.PrivilegeChecks : Prop :=
  (∀ (s : State) (i : Instr) (y : Bool) (ga : Reg) (la : Bool) (mode : BitVec 2) (scope : BitVec 4) (n : BitVec 6),
    i = .eret y ∨ i = .hcall y n ∨ i = .tlbinv y ga la mode scope ∨ i = .imgsave y ga la ∨ i = .imgload y ga la →
    s.fib.pl = 0 → s.fib.failure = none → s.fib.pfx = false → i.wf = true → (y = true → allReady s.fib = true) →
      exec i s = .next (raise (atReads s y) cPRIV ((encode i).setWidth 64)))
  ∧ (∀ (s : State) (i : Instr) (y : Bool) (ga : Reg) (la rx : Bool), i = .kload y ga la rx ∨ i = .kturn y →
    servesGateway s s.fib.core = true → s.fib.pl.toNat < 2 → s.fib.failure = none → s.fib.pfx = false → i.wf = true →
    (y = true → allReady s.fib = true) → exec i s = .next (raise (atReads s y) cPRIV ((encode i).setWidth 64)))

/-- R253, R117, R405, R406: the checks at issue of an instruction that reads and writes plain registers, in their order: an
encoding not admitted, a prefix in force, and then the registers read, each for a mark, HAZARD and DEADREG, and the register
written, for HAZARD and BOUND. -/
def Obligations.IssueCheckOrder : Prop :=
  ∀ (s : State) (i : Instr) (y : Bool) (reads : List (Reg × Bool)) (dest : Reg) (body : State → List Word → Eff),
    let u := plainUse i y reads dest
    let f := (atReads s y).fib
    isEngine5 i = false → s.fib.failure = none → (y = true → allReady s.fib = true) →
      (i.wf = false → issue s u body = .next (raise (atReads s y) (rejectCause i) ((encode i).setWidth 64)))
      ∧ (i.wf = true → s.fib.pfx = true → issue s u body = .next (raise (atReads s y) cPREFIX ((encode i).setWidth 64)))
      ∧ (i.wf = true → s.fib.pfx = false → ∀ k r c x, reads[k]? = some r →
        (∀ j q, j < k → reads[j]? = some q → readCheck f y (s.sched.free + readNo reads j q.1) q.1 = none) →
        readCheck f y (s.sched.free + readNo reads k r.1) r.1 = some (c, x) → issue s u body = .next (raise (atReads s y) c x))
      ∧ (i.wf = true → s.fib.pfx = false → (∀ k r, reads[k]? = some r → readCheck f y (s.sched.free + readNo reads k r.1) r.1 = none) →
        ∀ c x, destCheck f y (freeMask u) dest = some (c, x) → issue s u body = .next (raise (atReads s y) c x))

/-- R39, R41, R45, R399, R406: the checks of one register. A mark raises its cause; under HZCHK a pending register, read or written, raises
HAZARD unless the instruction is marked; under DCHK a dead register other than g0 raises DEADREG; a write that would exceed the budget raises
BOUND; g0 never raises DEADREG or BOUND. -/
def Obligations.RegisterChecks : Prop :=
  ∀ (f : Fibre) (y : Bool) (k : Nat) (r : Reg) (freed : BitVec 16),
    (∀ e, readMark k f r = some e → readCheck f y k r = some (e.cause.toNat, e.addr))
    ∧ (readMark k f r = none → f.hzchk = true → y = false → (pendOf f r).isSome = true → readCheck f y k r = some (cHAZARD, zext r))
    ∧ (readMark k f r = none → (f.hzchk = false ∨ y = true ∨ pendOf f r = none) → f.dchk = true → r ≠ 0 →
      f.live.getLsbD r.toNat = false → readCheck f y k r = some (cDEADREG, zext r))
    ∧ (readMark k f r = none → (f.hzchk = false ∨ y = true ∨ pendOf f r = none) →
      (f.dchk = false ∨ r = 0 ∨ f.live.getLsbD r.toNat = true) → readCheck f y k r = none)
    ∧ destCheck f y freed 0 = none
    ∧ (r ≠ 0 → f.hzchk = true → y = false → (pendOf f r).isSome = true → destCheck f y freed r = some (cHAZARD, zext r))
    ∧ (r ≠ 0 → (f.hzchk = false ∨ y = true ∨ pendOf f r = none) → (f.live &&& ~~~freed).getLsbD r.toNat = false →
      f.ident.budget ≤ liveCount (f.live &&& ~~~freed) → destCheck f y freed r = some (cBOUND, zext r))
    ∧ (r ≠ 0 → (f.hzchk = false ∨ y = true ∨ pendOf f r = none) →
      (f.live &&& ~~~freed).getLsbD r.toNat = true ∨ liveCount (f.live &&& ~~~freed) < f.ident.budget →
      destCheck f y freed r = none)

/-- R11, R33, R40-R45, R108: what a result does to the registers. A short one: the destination is live, unmarked and holds the
value, and an earlier result still pending for it is discarded; g0 keeps reading 0 and is never live; no other register changes. A
long one waits: its register keeps its old value until it arrives, and its value and flags are then written together. -/
def Obligations.ResultRegisters : Prop :=
  (∀ (f : Fibre) (d r : Reg) (v : Word) (k : Nat),
    (writeShort f 0 v = f) ∧ regVal f 0 = 0
    ∧ (d ≠ 0 → let g := writeShort f d v
      regVal g d = v ∧ readReg k g d = v ∧ isLive g d = true ∧ g.marks.find? (fun m => m.1 == d.toNat) = none
      ∧ (r ≠ d → regVal g r = regVal f r ∧ pendOf g r = pendOf f r ∧ isLive g r = isLive f r
        ∧ g.marks.find? (fun m => m.1 == r.toNat) = f.marks.find? (fun m => m.1 == r.toNat))
      ∧ g.flags = f.flags ∧ g.pc = f.pc ∧ g.loops = f.loops ∧ g.pl = f.pl ∧ g.sup = f.sup ∧ g.mon = f.mon))
  ∧ (∀ (f : Fibre) (d : Reg) (v : Word) (fl : BitVec 5) (n : Nat), f.pend = [] → d ≠ 0 → isLive f d = true →
    let g := writeLong f n d v fl
    regVal g d = regVal f d ∧ g.flags = f.flags ∧ (pendOf g d).isSome = true
    ∧ regVal (drain g) d = v ∧ (drain g).flags = f.flags ||| fl ∧ (drain g).pend = []
    ∧ (∀ r : Reg, r ≠ d → regVal (drain g) r = regVal f r) ∧ (drain g).pc = f.pc ∧ (drain g).pl = f.pl)

/-- The frames of the register instructions. Short results: beyond the fibre and the model's bookkeeping nothing changes, so every
byte of memory reads as before; of the fibre only the destination, registers that last uses free, the consumed marks, the PC and the
loop stack, which the end test advances. Long results of the integer and float instructions: the same, but the destination waits for
its result, and the flags wait with it (R108). -/
def Obligations.RegisterInstructionFrames : Prop :=
  (∀ (s t : State) (i : Instr) (y : Bool) (gd ga gb : Reg) (la lb sat uns : Bool) (imm : BitVec 15) (n : BitVec 6),
    let two := plainUse i y [(ga, la), (gb, lb)] gd
    let one := plainUse i y [(ga, la)] gd
    ∀ u : Use, (u = two ∧ (i = .add y gd ga la gb lb sat uns ∨ i = .sub y gd ga la gb lb sat uns ∨ i = .and y gd ga la gb lb
        ∨ i = .or y gd ga la gb lb ∨ i = .xor y gd ga la gb lb ∨ i = .andn y gd ga la gb lb ∨ i = .shl y gd ga la gb lb
        ∨ i = .shr y gd ga la gb lb ∨ i = .sar y gd ga la gb lb ∨ i = .ror y gd ga la gb lb ∨ i = .min y gd ga la gb lb uns
        ∨ i = .max y gd ga la gb lb uns ∨ i = .cmpeq y gd ga la gb lb ∨ i = .cmpne y gd ga la gb lb
        ∨ i = .cmplt y gd ga la gb lb uns ∨ i = .cmple y gd ga la gb lb uns))
      ∨ (u = one ∧ (i = .clz y gd ga la ∨ i = .popc y gd ga la ∨ i = .sextb y gd ga la ∨ i = .sexth y gd ga la
        ∨ i = .sextw y gd ga la ∨ i = .zextb y gd ga la ∨ i = .zexth y gd ga la ∨ i = .zextw y gd ga la
        ∨ i = .addi y gd ga la imm ∨ i = .andi y gd ga la imm ∨ i = .ori y gd ga la imm ∨ i = .xori y gd ga la imm
        ∨ i = .shli y gd ga la n ∨ i = .shri y gd ga la n ∨ i = .sari y gd ga la n ∨ i = .rori y gd ga la n
        ∨ i = .cmpeqi y gd ga la imm ∨ i = .cmplti y gd ga la imm ∨ i = .cmpltiUns y gd ga la imm)) →
    Issues s u → exec i s = .next t →
      OnlyFibre s t ∧ SameMemory s t ∧ SameRegs (atReads s y).fib t.fib gd (freeMask u)
      ∧ SameStatus (atReads s y).fib t.fib ∧ t.fib.flags = (atReads s y).fib.flags
      ∧ t.fib.pfx = false ∧ (t.fib.loops, t.fib.pc) = endTest s.fib.pc s.fib.loops)
  ∧ (∀ (s t : State) (i : Instr) (y : Bool) (gd ga gb : Reg) (la lb uns p : Bool),
    i = .mul y gd ga la gb lb ∨ i = .mulh y gd ga la gb lb uns ∨ i = .div y gd ga la gb lb uns ∨ i = .rem y gd ga la gb lb uns
      ∨ i = .hmix y gd ga la gb lb ∨ i = .fadd y gd ga la gb lb p ∨ i = .fsub y gd ga la gb lb p ∨ i = .fmul y gd ga la gb lb p
      ∨ i = .fdiv y gd ga la gb lb p ∨ i = .fmin y gd ga la gb lb p ∨ i = .fmax y gd ga la gb lb p
      ∨ i = .fcmpEq y gd ga la gb lb p ∨ i = .fcmpLt y gd ga la gb lb p ∨ i = .fcmpLe y gd ga la gb lb p →
    let u := plainUse i y [(ga, la), (gb, lb)] gd
    Issues s u → exec i s = .next t →
      OnlyFibre s t ∧ SameMemory s t ∧ SameStatus (atReads s y).fib t.fib ∧ t.fib.flags = (atReads s y).fib.flags
      ∧ (∀ r : Reg, r ≠ gd → t.fib.regs.get r.toFin = (atReads s y).fib.regs.get r.toFin
        ∧ t.fib.live.getLsbD r.toNat = ((atReads s y).fib.live.getLsbD r.toNat && !(freeMask u).getLsbD r.toNat))
      ∧ (t.fib.loops, t.fib.pc) = endTest s.fib.pc s.fib.loops)

/-- R9, R116, R205, R311, R331, R333, R347, R377: ERD reads an engine register as a long result; EWR writes one; FMT loads FPFX and leaves
a prefix pending, or raises FORMAT at a reserved code. What each engine register reads as, and what EWR changes in each, a read-only one
not at all. -/
def Obligations.EngineRegistersAndPrefix : Prop :=
  (∀ (s : State) (y : Bool) (gd : Reg) (eng : BitVec 4) (r : BitVec 10),
    let i := Instr.erd y gd eng r
    let u := { plainUse i y [] gd with ctx := eregCtx eng.toNat r.toNat false }
    Issues s u →
      (eregOther (begun s u) eng.toNat r.toNat = none →
        exec i s = .next (finished u (setLong (begun s u) gd (eregRead (begun s u) (begun s u).fib eng.toNat r.toNat) 0)))
      ∧ (∀ c v, eregOther (begun s u) eng.toNat r.toNat = some (c, v) → exec i s = .next (raise (found (atReads s y) c) c v)))
  ∧ (∀ (s : State) (y : Bool) (ga : Reg) (la : Bool) (eng : BitVec 4) (r : BitVec 10),
    let i := Instr.ewr y ga la eng r
    let u := { plainUse i y [(ga, la)] 0 with ctx := eregCtx eng.toNat r.toNat true }
    Issues s u →
      (eregCheck (begun s u) i eng.toNat r.toNat (operand s u 0) = none →
        exec i s = .next (finished u (eregWrite (begun s u) eng.toNat r.toNat (operand s u 0))))
      ∧ (∀ c v, eregCheck (begun s u) i eng.toNat r.toNat (operand s u 0) = some (c, v) →
        exec i s = .next (raise (found (atReads s y) c) c v)))
  ∧ (∀ (s : State) (y : Bool) (fa fb fd : BitVec 4) (smode : BitVec 2) (stile : BitVec 6) (fz sat : Bool),
    let i := Instr.fmt y fa fb fd smode stile fz sat
    let u := plainUse i y [] 0
    Issues s u →
      (fa ≠ 15 → fb ≠ 15 → fd ≠ 15 → exec i s = .next (finished u { begun s u with fib := { (begun s u).fib with
        fpfx := wordVal i &&& 0xFFFFFC
        pfx := true } }) ∧ (finished u { begun s u with fib := { (begun s u).fib with pfx := true } }).fib.pfx = true)
      ∧ (fa = 15 ∨ fb = 15 ∨ fd = 15 → exec i s = .next (raise (atReads s y) cFORMAT (wordVal i))))
  ∧ (∀ (s : State) (f : Fibre),
    let c := coreOf s f.core
    let a := arrayOf s (f.core / 16)
    let p := portOf s (ownPort s)
    let w := walkerOf s (f.core / 16)
    eregRead s f 0 0 = BitVec.ofNat 64 (c.done.toNat * 2 ^ 32 + (16 - (c.fifo.length + (c.kicks.filter fun k => k.started).length)))
    ∧ eregRead s f 0 1 = c.seq.setWidth 64
    ∧ ((∀ x ∈ c.fifo, x.kind ≠ 0 ∧ x.kind ≠ 2) → eregRead s f 0 2 = 0)
    ∧ (∀ x r, c.fifo = x :: r →
      (x.kind = 0 → eregRead s f 0 2 = BitVec.ofNat 64 (2 ^ 63 + x.tile * 2 ^ 55))
      ∧ (x.kind = 2 → eregRead s f 0 2 = BitVec.ofNat 64 (2 ^ 63 + 2 * 2 ^ 61 + x.pslot * 2 ^ 51 + x.poff % 2 ^ 14)))
    ∧ eregRead s f 0 3 = BitVec.ofNat 64 (c.kicks.filter fun k => !k.started).length
    ∧ eregRead s f 1 0 = a.src.setWidth 64
    ∧ (a.cmds = [] → eregRead s f 1 1 = 0)
    ∧ (∀ m r, a.cmds = m :: r → m.fn ≤ 1 → eregRead s f 1 1 = BitVec.ofNat 64 (teRows m.eb % 2 ^ 16))
    ∧ (a.lease = none → eregRead s f 1 2 = 0)
    ∧ (∀ l, a.lease = some l → eregRead s f 1 2 = BitVec.ofNat 64 (2 ^ 63 + l.core))
    ∧ eregRead s f 2 0 = BitVec.ofNat 64 ((s.indexes.filter fun x => x.ten == f.ident.tenant).map fun x => 2 ^ x.num).sum
    ∧ eregRead s f 2 1 = BitVec.ofNat 64 (s.idxCmds.filter fun x => x.core == f.core).length
    ∧ eregRead s f 3 0 = BitVec.ofNat 64 (msgOut s f.core)
    ∧ eregRead s f 3 1 = (recvOf s (f.core / 256)).rseq.setWidth 64
    ∧ eregRead s f 4 0 = BitVec.ofNat 64 ((tenantOf s f.ident.tenant.toNat).quota.toNat * 2 ^ 32 + usedBy s f.ident.tenant % 2 ^ 14)
    ∧ eregRead s f 4 1 = BitVec.ofNat 64 (freeCount s 0 + freeCount s 1 * 2 ^ 16)
    ∧ eregRead s f 5 0 = p.linkid.setWidth 64 ∧ eregRead s f 5 1 = BitVec.ofNat 64 p.count ∧ eregRead s f 5 2 = BitVec.ofNat 64 p.limit
    ∧ eregRead s f 5 3 = BitVec.ofNat 64 ((if p.turning then 1 else 0) + (if (rxIdle p).isSome then 2 else 0)
        + (if (txIdle p).isSome && !p.turning then 4 else 0) + (if p.rxs then 8 else 0) + (if p.txs then 16 else 0)
        + (if p.count = 2 ^ 32 then 32 else 0) + (if p.limit ≤ p.count then 64 else 0) + p.width.toNat * 128)
    ∧ eregRead s f 6 0 = BitVec.ofNat 64 ((if w.gang.isSome then 2 ^ 63 else 0) + (if w.gang.isSome && w.gang == gangKey f then 2 ^ 62 else 0)
        + w.tasks % 2 ^ 32)
    ∧ (∀ n, n < 256 → eregRead s f 6 (0x100 + n) = BitVec.ofNat 64 (histBin w n))
    ∧ (∀ n, n < 16 → let q := gwqOf s n
      eregRead s f 7 n = BitVec.ofNat 64 ((if q.armed then 2 ^ 63 else 0) + q.owner.toNat * 2 ^ 32 + q.limit.toNat)
      ∧ eregRead s f 7 (16 + n) = q.next.setWidth 64))
  ∧ (∀ (s : State) (v : Word),
    let cl := s.fib.core / 16
    let p := portOf s (ownPort s)
    eregWrite s 1 0 v = setArray s cl { arrayOf s cl with src := v.setWidth 8 }
    ∧ eregWrite s 5 0 v = setPort s (ownPort s) { p with linkid := v.setWidth 32 }
    ∧ eregWrite s 5 2 v = setPort s (ownPort s) { p with limit := v.toNat }
    ∧ (∀ n, n < 256 → let t := eregWrite s 6 (0x100 + n) v
      t = { s with walkers := t.walkers } ∧ histBin (walkerOf t cl) n = v.toNat % 2 ^ 32
      ∧ (∀ m, m ≠ n → histBin (walkerOf t cl) m = histBin (walkerOf s cl) m)
      ∧ walkerOf t cl = { walkerOf s cl with hist := (walkerOf t cl).hist } ∧ (∀ d, d ≠ cl → walkerOf t d = walkerOf s d))
    ∧ (∀ n, n < 16 → let t := eregWrite s 7 n v
      t = { s with gwqs := t.gwqs } ∧ (∀ m, m ≠ n → gwqOf t m = gwqOf s m)
      ∧ (v.getLsbD 63 = true → gwqOf t n = ⟨true, s.fib.ident.tenant, v.setWidth 32, 0⟩)
      ∧ (v.getLsbD 63 = false → gwqOf t n = { gwqOf s n with
        armed := false
        limit := v.setWidth 32 }))
    ∧ (∀ eng r, (eng = 0 ∧ r < 4) ∨ (eng = 1 ∧ (r = 1 ∨ r = 2)) ∨ (eng ∈ [2, 3, 4] ∧ r < 2) ∨ (eng = 5 ∧ (r = 1 ∨ r = 3))
      ∨ (eng = 6 ∧ r = 0) ∨ (eng = 7 ∧ 16 ≤ r ∧ r < 32) → eregWrite s eng r v = s))

/-- R316-R318, R329: TWAIT completes on a full tile and parks on any other; TDEF defines an entry; TSTATE reads an entry and may
set its STATE; CBLD replaces the codebook; with the cases in which each traps or waits: a tile outside the block, a definition that does
not fit, a misaligned image, a tile filling or draining, and matrix commands and copies that name or read it (R150, R340) or the table (R115). -/
def Obligations.TilesAndCodebook : Prop :=
  (∀ (s : State) (y : Bool) (ta : BitVec 6),
    let i := Instr.twait y ta
    let u := plainUse i y [] 0
    let t := begun s u
    Issues s u →
      (namedTile t t.fib t.fib.core ta.toNat = none →
        exec i s = .next (raise (found (atReads s y) (noTile t.fib ta.toNat)) (noTile t.fib ta.toNat) (zext ta)))
      ∧ (∀ k a, namedTile t t.fib t.fib.core ta.toNat = some (k, a) →
        (teState a.ent = 2 → exec i s = .next (finished u t))
        ∧ (teState a.ent ≠ 2 → exec i s = .next (parkOn (unread (atReads s y) t) (.tile t.fib.core k)))))
  ∧ (∀ (s : State) (y : Bool) (ga : Reg) (la : Bool) (n : BitVec 6),
    let i := Instr.tdef y ga la n
    let u := plainUse i y [(ga, la)] 0
    let t := begun s u
    let core := t.fib.core
    let w := operand s u 0
    Issues s u →
      (tileSlot t t.fib core n.toNat = none →
        exec i s = .next (raise (found (atReads s y) (noTile t.fib n.toNat)) (noTile t.fib n.toNat) (zext n)))
      ∧ (∀ k base len, tileSlot t t.fib core n.toNat = some (k, base, len) →
        let a : TileAt := ⟨core, base, tileEnt t core k⟩
        (∀ c, teDef w = true → tdefCheck w len = some c → exec i s = .next (raise (found (atReads s y) c) c (zext n)))
        ∧ ((teDef w = true → tdefCheck w len = none) →
          (tileMoving a.ent = false → matrixNames t core k = false → (teDef a.ent = true → copyReadsEnt t core a = false) →
            exec i s = .next (finished u (setTileEnt t core k (if teDef w then w else 0))))
          ∧ (tileMoving a.ent = true ∨ matrixNames t core k = true ∨ (teDef a.ent = true ∧ copyReadsEnt t core a = true) →
            exec i s = .next (waiting s u (.readers core k) (.define core k base w) t)))))
  ∧ (∀ (s : State) (y : Bool) (gd : Reg) (set : Bool) (st : BitVec 2) (n : BitVec 6),
    let i := Instr.tstate y gd set st n
    let u := plainUse i y [] gd
    let t := begun s u
    let core := t.fib.core
    Issues s u →
      (tileSlot t t.fib core n.toNat = none →
        exec i s = .next (raise (found (atReads s y) (noTile t.fib n.toNat)) (noTile t.fib n.toNat) (zext n)))
      ∧ (∀ k base len, tileSlot t t.fib core n.toNat = some (k, base, len) →
        let a : TileAt := ⟨core, base, tileEnt t core k⟩
        (set = true → teDef a.ent = false → exec i s = .next (raise (atReads s y) cTILEUNDEF (zext n)))
        ∧ (set = false → tileMoving a.ent = false → exec i s = .next (finished u (setLong t gd a.ent 0)))
        ∧ (set = true → teDef a.ent = true → tileMoving a.ent = false → matrixReads t core k = false → copyReadsEnt t core a = false →
          exec i s = .next (finished u (setTileState (setLong t gd a.ent 0) core k st.toNat)))
        ∧ ((set = true → teDef a.ent = true) → tileMoving a.ent = true ∨ (set = true ∧ (matrixReads t core k = true ∨
            copyReadsEnt t core a = true)) →
          exec i s = .next (waiting s u (.readers core k) (.state core k base set st gd) t))))
  ∧ (∀ (s : State) (y : Bool) (ga : Reg) (la : Bool) (ws : List Word) (t : State),
    let i := Instr.cbld y ga la
    let u := { plainUse i y [(ga, la)] 0 with ctx := noHandler i }
    Issues s u →
      ((operand s u 0).toNat % 64 ≠ 0 → exec i s = .next (raise (atReads s y) cALIGN (operand s u 0)))
      ∧ ((operand s u 0).toNat % 64 = 0 → BlockReads 128 (begun s u) (operand s u 0) ws t →
        (t.sched.defer = false → bookRead t t.fib.core = false →
          exec i s = .next (finished u (setBook t t.fib.core (bookOf ws))))
        ∧ (t.sched.defer = true ∨ bookRead t t.fib.core = true → exec i s = .next (holding s u (.codebook (bookOf ws)) t))))

/-- R149: defining an entry checks, in this order: FMT 15 raises FORMAT, SWZ 7 raises RESBITS; then a row longer than the pitch, an
extent (the ROWS field, one less than the rows, times the pitch, and a row) over 65,536 bytes or beyond the reservation's `len`
bytes, or a swizzle whose span does not divide the pitch raises TILESHAPE; and any other definition passes. -/
def Obligations.TileDefinitionsFit : Prop :=
  ∀ (e : BitVec 64) (len : Nat),
    let rb := rowBytes (teFmt e) (teCols e)
    let extent := (teRows e - 1) * tePitch e + rb
    let shape := tePitch e < rb ∨ 65536 < extent ∨ len < teBase e + extent ∨ (teSwz e ≠ 0 ∧ ¬8 * 2 ^ teSwz e ∣ tePitch e)
    (teFmt e = 15 → defineCheck e len = some 0x0E)
    ∧ (teFmt e ≠ 15 → teSwz e = 7 → defineCheck e len = some 0x02)
    ∧ (teFmt e ≠ 15 → teSwz e ≠ 7 → shape → defineCheck e len = some 0x0B)
    ∧ (teFmt e ≠ 15 → teSwz e ≠ 7 → ¬shape → defineCheck e len = none)

/-- R312, R313, R319-R330: every vector instruction and BARQ, where it issues and its tiles, formats, shapes and waits allow
it: it writes its results and flags and completes, traps at poison or at an index out of range, or is left to the vector unit
when the fibre's work is left to events. -/
def Obligations.VectorInstructions : Prop :=
  ∀ (i : Instr) (op : VOp) (s : State) (p : VPlan), vecOp i = some op →
    let u := { plainUse i (tileMarker i) [] 0 with pfxOk := true }
    let t := begun s u
    let c := coreOf t t.fib.core
    let o := vecOut t op p c.book
    Issues s u → VectorReady t op p →
      (t.sched.defer = false → vecTrap t t.fib op p = none → exec i s = .next (finished u
        { vecWrite t p o with fib := orFlags (vecWrite t p o).fib o.flags }))
      ∧ (∀ k v, t.sched.defer = false → vecTrap t t.fib op p = some (k, v) → exec i s = .next (raise (atReads s u.y) k v))
      ∧ (t.sched.defer = true → exec i s = .next (holding s u .vector (setCore t t.fib.core { c with
        vec := c.vec ++ [⟨t.fib.id, i, pendingPfx t.fib, p.d.tile.base,
          (planTiles p).foldl (fun e r => tset e r.num r.tile.ent) [], c.book⟩] })))

/-- R313: what a vector instruction that completes leaves unchanged: every general register with its state and mark, the pending
results, the rest of the fibre's status, every other part of the machine, and every byte of memory that is no byte of a row of
a tile it writes (the destination, its scales, the residual). -/
def Obligations.VectorFrame : Prop :=
  ∀ (i : Instr) (op : VOp) (s r : State) (p : VPlan), vecOp i = some op →
    let u := { plainUse i (tileMarker i) [] 0 with pfxOk := true }
    let t := begun s u
    Issues s u → VectorReady t op p → t.sched.defer = false → vecTrap t t.fib op p = none → exec i s = .next r →
      r.fib.regs = t.fib.regs ∧ r.fib.live = t.fib.live ∧ r.fib.marks = t.fib.marks ∧ r.fib.pend = t.fib.pend
      ∧ SameStatus t.fib r.fib
      ∧ r = { s with
        fib := r.fib
        sched := r.sched
        ms := { s.ms with
          mem := r.ms.mem
          poison := r.ms.poison } }
      ∧ ∀ b, (∀ q ∈ planWrites p, ∀ row off, b ≠ spadPa s q.tile.core (tileByte q.tile.base q.tile.ent row off)) →
          mget r.ms.mem b = mget s.ms.mem b

/-- R224-R232, R415: the belief instructions, where they issue and their descriptor, tiles and slots pass. GMSG checks the slot's
header, then the tiles for poison, then the pivots; it writes its slot, a release, and returns the residual, waits for the slot, or raises
SINGULAR or POISON, and a slot of another module is written there. GBEL reads and empties its slots in their order, one of another module
there, sums them into the belief and returns their count; a poisoned word found once a slot has been emptied marks the count. GMARG writes the
marginal and returns the least pivot, or raises SINGULAR. That each completes at issue, whatever the deferral flag and the vector unit hold, that a
slot of another module is read and emptied whole, and the place of POISON are the model's choices (log entries 33 and 37). -/
def Obligations.BeliefInstructions : Prop :=
  (∀ (s : State) (y : Bool) (gd ga : Reg) (la : Bool) (ws : List Word) (t : State) (x z : TileRef) (pas : List Nat)
      (hdr : Word),
    let i := Instr.gmsg y gd ga la
    let u := { plainUse i y [(ga, la)] gd with fail := true }
    let d := gDesc ws
    let di := if d.flags = 1 then d.dj else d.di
    let dj := if d.flags = 1 then d.di else d.dj
    Issues s u → (operand s u 0).toNat % 32 = 0 → BlockReads 4 (begun s u) (operand s u 0) ws t →
    s.fib.ident.kind ≠ .handler → gFieldsOk 0 d = true →
    gTiles t ⟨d.t0, d.di + d.dj⟩ ⟨d.t1, dj⟩ false = .ok (x, z) → slotAt t .store di d.slot = .ok pas → HeaderReads t pas hdr →
    (hdr.toNat % 16 ≠ di → exec i s = .next (raise (atReads s y) cTILESHAPE d.slot))
    ∧ (hdr.toNat % 16 = di → ∀ p, gPoison t t.fib x.tile (d.di + d.dj) = some p → exec i s = .next (raise (atReads s y) cPOISON p))
    ∧ (hdr.toNat % 16 = di → gPoison t t.fib x.tile (d.di + d.dj) = none → gPoison t t.fib z.tile dj = none →
      (∀ k, gMessage d (gBlock t x.tile (d.di + d.dj)) (gBlock t z.tile dj) = .error k →
        exec i s = .next (raise (atReads s y) cSINGULAR (BitVec.ofNat 64 k)))
      ∧ (∀ rows fl, gMessage d (gBlock t x.tile (d.di + d.dj)) (gBlock t z.tile dj) = .ok (rows, fl) →
        allPerformed t t.fib.id = true →
        let t1 := (freshId t).2
        let pa := pas.headD 0
        let j : SlotJob := ⟨(freshId t).1, d.slot, pas, di, d.damp,
          rows.flatMap fun r => r.map fun e => BitVec.ofNat 64 (roundFloat fp64 false e).1, fl⟩
        let t2 := releaseAt t1 t1.fib.ident.tenant t1.fib.core (feScope t1 t1.fib.core pa)
        let r := slotWrite t2 t1.fib.core j
        let far := relEffect { t1 with
          ms := { t1.ms with reqs := t1.ms.reqs ++ [slotReq t1 j] }
          sched := { t1.sched with nextId := t1.sched.nextId + 1 } } (slotReq t1 j)
        (isRemote t pa = false →
          (t2.sched.defer = false → slotFree t2 j = true →
            (slotPoison t2 d.slot pas di (d.damp != 0) = none → exec i s = .next (finished u (setLong r.1 gd r.2.1 r.2.2)))
            ∧ (∀ v, slotPoison t2 d.slot pas di (d.damp != 0) = some v → exec i s = .next (raise (atReads s y) cPOISON v)))
          ∧ (t2.sched.defer = true ∨ slotFree t2 j = false →
            (slotRoom t2 j = true → exec i s = .next (holding s u (.slot j) t2))
            ∧ (slotRoom t2 j = false →
              exec i s = .next (parkOn (unread (atReads s y) t2) (.refused (spadCore pa))))))
        ∧ (isRemote t pa = true →
          (∀ c, unreachable t1 (paMod pa) = some c → exec i s = .next (finished u (setFailed t1 gd c d.slot)))
          ∧ (unreachable t1 (paMod pa) = none → exec i s = .next (holding s u (.req t1.sched.nextId) (sendPacket far
            (mkPacket far s.fib.core (podIdent far (paMod pa) (remoteAgent pa)) 2 s.fib.ident.tenant t1.sched.nextId 5 true
              (reqArea (slotReq t1 j) false) (j.vals.flatMap fun v => leBytes 8 v.toNat)))))))))
  ∧ (∀ (s : State) (y : Bool) (gd ga : Reg) (la : Bool) (ws : List Word) (t : State) (x z : TileRef)
      (slots : List (Word × List Nat)),
    let i := Instr.gbel y gd ga la
    let u := { plainUse i y [(ga, la)] gd with fail := true }
    let d := gDesc ws
    let prior := gCodes t z.tile d.di
    let job := Job.belief d.di slots x.tile.core x.tile.base x.tile.ent prior
    Issues s u → (operand s u 0).toNat % 32 = 0 → BlockReads 4 (begun s u) (operand s u 0) ws t →
    s.fib.ident.kind ≠ .handler → gFieldsOk 1 d = true → gTiles t ⟨d.t0, d.di⟩ ⟨d.t1, d.di⟩ true = .ok (x, z) →
    slotArray t d.di (d.count + 1) d.slot [] = .ok slots → gPoison t t.fib z.tile d.di = none →
    (∀ q ∈ slots, SlotReady t d.di q) →
      (∀ t1, SlotsTaken d.di t slots t1 →
        let r := beliefOf d.di t1 slots prior
        let v := setLong (gWrite r.1 x.tile (mirror d.di (rowVals r.2.1))) gd (BitVec.ofNat 64 r.2.2.1.length) (rowFlags r.2.1)
        exec i s = .next (finished u v) ∧ ∀ m, jobEff m gd job t = .done v)
      ∧ (∀ a q b t1, slots = a ++ q :: b → SlotsTaken d.di t a t1 → slotFar t1 2 (q.2.headD 0) = none →
        isRemote t1 (q.2.headD 0) = true → unreachable t1 (paMod (q.2.headD 0)) = none →
          exec i s = .next (waiting s u .fetch job (askSlot t1 8 2 d.di q.2 q.2 q.1))))
  ∧ (∀ (t : State) (m : BitVec 16) (gd : Reg) (dim core base : Nat) (ent : BitVec 64) (prior : List (List Word))
      (slots : List (Word × List Nat)) a q b t1, slots = a ++ q :: b → SlotsTaken dim t a t1 →
    let r := jobEff m gd (.belief dim slots core base ent prior) t
    (∀ v, slotFar t1 2 (q.2.headD 0) = none → isRemote t1 (q.2.headD 0) = false → (∀ p ∈ q.2, owned t1 p 8 = false) →
      slotPoison t1 q.1 q.2 dim true = some v → r = .done (setFailed t1 gd cPOISON v))
    ∧ (∀ w, slotFar t1 2 (q.2.headD 0) = some w → w.here = true → w.cause ≠ 0 → r = .done (setFailed t1 gd w.cause q.1)))
  ∧ (∀ (s : State) (y : Bool) (gd ga : Reg) (la : Bool) (ws : List Word) (t : State) (x z : TileRef),
    let i := Instr.gmarg y gd ga la
    let u := plainUse i y [(ga, la)] gd
    let d := gDesc ws
    let b := gBlock t z.tile d.di
    let fact := chol d.di ((List.range d.di).map fun r => (List.range (r + 1)).map fun c => mAt b r (1 + c))
      (decFloat fp64 d.thresh)
    Issues s u → (operand s u 0).toNat % 32 = 0 → BlockReads 4 (begun s u) (operand s u 0) ws t →
    s.fib.ident.kind ≠ .handler → gFieldsOk 2 d = true → gTiles t ⟨d.t0, d.di⟩ ⟨d.t1, d.di⟩ true = .ok (x, z) →
    gPoison t t.fib z.tile d.di = none →
      (∀ k, fact = .error k → exec i s = .next (raise (atReads s y) cSINGULAR (BitVec.ofNat 64 k)))
      ∧ (∀ f, fact = .ok f →
        let mu := solve d.di f.l ((List.range d.di).map fun r => mAt b r 0)
        let cols := (List.range d.di).map fun l =>
          solve d.di f.l ((List.range d.di).map fun q => if q = l then exInt 1 else exZero)
        let low := (List.range d.di).map fun r =>
          vAt mu.1 r :: (List.range (r + 1)).map fun c => vAt (cols.getD c ([], 0)).1 r
        exec i s = .next (finished u (setLong (gWrite t x.tile (mirror d.di low)) gd
          (BitVec.ofNat 64 (roundFloat fp64 false (leastOf f.piv)).1)
          (f.flags ||| mu.2 ||| cols.foldl (fun a c => a ||| c.2) 0)))))

/-- R312, R332-R338: a matrix command of the holder of a lease with its bound not spent, where its tiles, formats and shapes
pass and it need not wait: it uses one of the bound, runs its steps at once on an idle array and leaves its flags, or is queued;
MST then holds its fibre. -/
def Obligations.MatrixCommands : Prop :=
  ∀ (i : Instr) (fn : Nat) (ta tb td : Option Nat) (s : State) (n : MNames), matrixOp i = some (fn, ta, tb, td) →
    let u := { plainUse i (tileMarker i) [] 0 with
      pfxOk := decide (fn ≠ 2)
      ctx := leaseHeld true }
    let t := begun s u
    let cl := clusterOf t.fib.core
    let c := mkCmd t fn (matrixCores t fn).1 (matrixCores t fn).2.1 (if fn = 2 then none else pendingPfx t.fib) n
    let w := useBound t cl
    Issues s u → MatrixReady t fn ta tb td n →
      ((arrayOf w cl).cmds = [] → w.sched.defer = false →
        exec i s = .next (finished u (cmdFlags (runSteps (cmdSteps c) w c).1 (runSteps (cmdSteps c) w c).2)))
      ∧ ((arrayOf w cl).cmds ≠ [] ∨ w.sched.defer = true →
        let q := setArray w cl { arrayOf w cl with cmds := (arrayOf w cl).cmds ++ [c] }
        (fn ≠ 4 → exec i s = .next (finished u q)) ∧ (fn = 4 → exec i s = .next (holding s u .store q)))

/-- R332, R338: MLEASE is granted at once on a free array and otherwise waits in arrival order, on a retired array too (log entry 38);
MREL releases; MSTEP reads the status word; and a matrix command, MREL, an EWR to MXA.SRC or MLEASE without its condition raises LEASE with
R332's reason, 1 to 4. -/
def Obligations.MatrixLease : Prop :=
  (∀ (s : State) (y : Bool) (bound : BitVec 8),
    let i := Instr.mlease y bound
    let u := { plainUse i y [] 0 with ctx := leaseAsk i }
    let t := begun s u
    let cl := clusterOf t.fib.core
    let a := arrayOf t cl
    Issues s u →
      (a.lease = none → a.wait = [] → a.retired = false → t.sched.defer = false →
        exec i s = .next (finished u (setArray t cl { a with
          lease := some ⟨t.fib.id, t.fib.core, bound.toNat, false⟩
          src := BitVec.ofNat 8 ((ownSlot t t.fib).getD 0 * 17) })))
      ∧ (a.lease ≠ none ∨ a.wait ≠ [] ∨ a.retired = true ∨ t.sched.defer = true →
        exec i s = .next (holding s u .lease (setArray t cl { a with
          wait := a.wait ++ [⟨t.fib.id, bound.toNat, false, false, []⟩] }))))
  ∧ (∀ (s : State) (y : Bool),
    let u := { plainUse (.mrel y) y [] 0 with ctx := leaseHeld false }
    let t := begun s u
    let cl := clusterOf t.fib.core
    let a := arrayOf t cl
    Issues s u →
      (a.cmds = [] → exec (.mrel y) s = .next (finished u (setArray t cl { a with lease := none })))
      ∧ (∀ l, a.cmds ≠ [] → a.lease = some l →
        exec (.mrel y) s = .next (finished u (setArray t cl { a with lease := some { l with rel := true } }))))
  ∧ (∀ (s : State) (y : Bool) (gd : Reg),
    let u := plainUse (.mstep y gd) y [] gd
    Issues s u → exec (.mstep y gd) s = .next
      (finished u (setLong (begun s u) gd (mstepWord (begun s u) (begun s u).fib) 0)))
  ∧ (∀ (s : State) (uses : Bool), let a := (arrayOf s (clusterOf s.fib.core)).lease
    (a = none → leaseHeld uses s = some (cLEASE, 1))
    ∧ (∀ l, a = some l → (l.fib ≠ s.fib.id ∨ l.rel = true → leaseHeld uses s = some (cLEASE, 1))
      ∧ (l.fib = s.fib.id → l.rel = false → l.left = 0 → leaseHeld true s = some (cLEASE, 2))
      ∧ (l.fib = s.fib.id → l.rel = false → l.left ≠ 0 ∨ uses = false → leaseHeld uses s = none)))
  ∧ (∀ (s : State) (y : Bool) (bound : BitVec 8), let i := Instr.mlease y bound
    gangOnly i s = none →
      (∀ l, (arrayOf s (clusterOf s.fib.core)).lease = some l → l.fib = s.fib.id → l.rel = false → leaseAsk i s = some (cLEASE, 3))
      ∧ (holdsLease s s.fib = false → hasBank s s.fib = false → leaseAsk i s = some (cLEASE, 4))
      ∧ (holdsLease s s.fib = false → hasBank s s.fib = true → leaseAsk i s = none))

/-- R214, R349, R351, R354-R356: CPYQ joins the core's FIFO, or with NB at a full FIFO writes QFULL into its stamp, once earlier
accesses are performed, and goes on without waiting for them; KICK sends its notice, or completes its word where the other module is
unreachable (R430); CPYWAIT completes when the fibre has no copy outstanding, raises the first failed one, which is then not reported
again, and waits otherwise; CPYSTAT reads the status word. -/
def Obligations.CopyAndKick : Prop :=
  (∀ (s : State) (y : Bool) (ga : Reg) (la : Bool) (gb : Reg) (lb nb : Bool) (stamp : Nat) (sd : CopySide)
      (ps : List (Nat × Acc × Nat)),
    let i := Instr.cpyq y ga la gb lb nb
    let u := { plainUse i y [(ga, la), (gb, lb)] 0 with fail := true }
    let t := begun s u
    let r := copyReq (operand s u 1)
    let wr := r.kind == 1 || r.kind == 3
    Issues s u → t.fib.ident.kind ≠ .handler → copyReserved r nb = false → copyStamp t r = .ok stamp →
    copySide t r (operand s u 0) = .ok sd → sideRows true t (if wr then .store else .load) sd.rows [] = .ok ps →
    (∀ p ∈ ps, sideRefused t t.fib.core wr p.2.1 = false) →
      let used := (coreOf t t.fib.core).fifo.length + ((coreOf t t.fib.core).kicks.filter fun k => k.started).length
      let w := withOrder t { mkReq t .feStore 7 8 ⟨stamp, 2, 0, 2, false, 0, 0, 0⟩ 0 with data := BitVec.ofNat 64 (cQFULL * 2 ^ 58) }
        none (some (BitVec.ofNat 4 r.scope)) false
      let c := copyOf t r stamp sd (sideRuns ps)
      (used < 16 → allPerformed s s.fib.id = true → exec i s = .next (finished u (queueCopy t c)))
      ∧ (used < 16 → allPerformed s s.fib.id = false → exec i s = .next (waiting s u .accesses (.copy c) t))
      ∧ (16 ≤ used → nb = true → allPerformed s s.fib.id = true → exec i s = .next (finished u
        (fullWord t t.fib.core t.fib.ident.tenant (t.fib.pl == 2) (BitVec.ofNat 4 r.scope) stamp (cQFULL * 2 ^ 58))))
      ∧ (16 ≤ used → nb = true → allPerformed s s.fib.id = false → exec i s = .next (finished u (queueReq t w false)))
      ∧ (16 ≤ used → nb = false → exec i s = .next (waiting s u .queue (.copy c) t)))
  ∧ (∀ (s : State) (y : Bool) (ga : Reg) (la : Bool) (gb : Reg) (lb : Bool) (ws : List Word) (t : State)
      (ps : List (Nat × Acc × Nat)) (cpl : Option Nat),
    let i := Instr.kick y ga la gb lb
    let u := { plainUse i y [(ga, la), (gb, lb)] 0 with fail := true }
    let b := (operand s u 1).toNat
    let w4 := (ws.getD 4 0).toNat
    Issues s u → b < 65536 → populatedMod s (b / 1024) = true → (operand s u 0).toNat % 8 = 0 →
    BlockReads 5 (begun s u) (operand s u 0) ws t → w4 % 2 ^ 32 % 8 = 0 → 8 ≤ w4 % 2 ^ 32 → w4 % 2 ^ 32 ≤ 2 ^ 24 →
    w4 / 2 ^ 32 = 0 → (ws.getD 0 0).toNat % 8 = 0 → (ws.getD 1 0).toNat % 8 = 0 →
    sideRows false t .load [((ws.getD 0 0).toNat, w4 % 2 ^ 32)] [] = .ok ps → CompletionWord t (ws.getD 3 0) cpl →
    msgOut t t.fib.core < 32 → allPerformed t t.fib.id = true →
      let dst := podIdent t (b / 1024) (b % 1024)
      let sk := scopeToIdent t t.fib.core dst
      let r := releaseAt t t.fib.ident.tenant t.fib.core sk
      let n := (freshId r).1
      let o := outstOf t 10 cpl dst (sideRuns ps) (ws.getD 0 0) (w4 % 2 ^ 32)
      let q := addOutst (freshId r).2 { o with id := n }
      (unreachableId r dst = none → exec i s = .next (finished u (sendPacket q (mkPacket q q.fib.core dst 10 t.fib.ident.tenant n sk true
        (ws.flatMap fun w => leBytes 8 w.toNat) []))))
      ∧ (∀ c, unreachableId r dst = some c → exec i s = .next (finished u (completeWord r o c))))
  ∧ (∀ (s : State) (y : Bool),
    let u := { plainUse (.cpywait y) y [] 0 with fail := true }
    let t := begun s u
    let c := coreOf t t.fib.core
    Issues s u →
      ((∃ x ∈ c.fifo, x.fib = t.fib.id) → exec (.cpywait y) s = .next (parkOn (unread (atReads s y) t) .copies))
      ∧ ((∀ x ∈ c.fifo, x.fib ≠ t.fib.id) → (∀ x ∈ c.failed, x.1 ≠ t.fib.id) →
        let r := (c.waited.filter fun x => x.1 == t.fib.id).foldl (fun r x => acquireAt r t.fib.ident.tenant t.fib.core x.2) t
        exec (.cpywait y) s = .next (finished u (setCore r t.fib.core { coreOf r t.fib.core with
          waited := (coreOf r t.fib.core).waited.filter fun x => x.1 != t.fib.id })))
      ∧ (∀ x, (∀ z ∈ c.fifo, z.fib ≠ t.fib.id) → (c.failed.find? fun z => z.1 == t.fib.id) = some x →
        (allReady t.fib = false → exec (.cpywait y) s = .next (parkOn (unread (atReads s y) t) .marker))
        ∧ (allReady t.fib = true → (drain t.fib).failure = none → exec (.cpywait y) s = .next
          (raise (setCore t t.fib.core { c with failed := c.failed.filter fun z => z != x }) x.2.2.toNat (x.2.1.setWidth 64)))))
  ∧ (∀ (s : State) (y : Bool) (gd : Reg),
    let u := { plainUse (.cpystat y gd) y [] gd with fail := true }
    let c := coreOf (begun s u) (begun s u).fib.core
    Issues s u → exec (.cpystat y gd) s = .next
      (finished u (setLong (begun s u) gd (BitVec.ofNat 64 (c.done.toNat * 2 ^ 32
        + (16 - (c.fifo.length + (c.kicks.filter fun k => k.started).length)))) 0)))

/-- R357-R360: the index instructions, where they issue and their checks pass: a command joins its index's commands; IXOPEN opens
or closes an index and returns its number, or waits until the index it closes has no command left; IXSTAT reads an index's state, 0 when
none is open. With W set and WBASE 0 IXOPEN opens no weight page (log entry 30) and raises INDEX. -/
def Obligations.IndexInstructions : Prop :=
  (∀ (s : State) (y : Bool) (ga : Reg) (la : Bool) (gb : Reg) (lb : Bool) (i : Instr) (op : Nat) (ix : Index)
      (ws : List Word) (t : State) (q : Option TileAt) (x : List (BitVec 32)) (k : Nat) (a : TileAt) (cpl : Option Nat),
    (i = .ldnn y ga la gb lb ∧ op = 0) ∨ (i = .stvec y ga la gb lb ∧ op = 1) ∨ (i = .dlvec y ga la gb lb ∧ op = 2) →
    let u := { plainUse i y [(ga, la), (gb, lb)] 0 with fail := true }
    let w0 := (ws.getD 0 0).toNat
    Issues s u → (s.fib.ident.kind = .handler → op = 2) → (operand s u 1).toNat ≤ 63 →
    indexOf s (operand s u 1).toNat = some ix → ix.ten = s.fib.ident.tenant → (operand s u 0).toNat % 32 = 0 →
    BlockReads 4 (begun s u) (operand s u 0) ws t → blockBad op ix ws = false →
    (∀ go, cmdTile t op (nf w0 0 8) ix.dim go = go q) → resultTile t op (nf w0 8 8) (nf w0 16 16) = .ok (k, a) →
    (∀ go, cmdVector t q ix.dim (operand s u 0) go = go x) → CompletionWord t (ws.getD 3 0) cpl →
    (t.idxCmds.filter fun c => c.core == t.fib.core).length < 16 → allPerformed t t.fib.id = true →
      ∃ (c : IdxCmd) (r : State), exec i s = .next (finished u { r with idxCmds := r.idxCmds ++ [c] })
        ∧ c.num = ix.num ∧ c.op = op ∧ c.fib = s.fib.id ∧ c.core = s.fib.core ∧ c.k = nf w0 16 16 ∧ c.l = nf w0 32 16
        ∧ c.mask = ws.getD 1 0 ∧ c.value = ws.getD 2 0 ∧ c.query = x ∧ c.stamp = cpl.getD 0 ∧ c.accepted = none
        ∧ r.idxCmds = t.idxCmds ∧ r.ms.mem = (releaseAt t t.fib.ident.tenant t.fib.core (BitVec.ofNat 4 (nf w0 48 8))).ms.mem)
  ∧ (∀ (s : State) (y : Bool) (gd ga : Reg) (la : Bool),
    let i := Instr.ixopen y gd ga la
    let u := { plainUse i y [(ga, la)] gd with fail := true }
    let t := begun s u
    let a := operand s u 0
    Issues s u → a.getLsbD 0 = true →
      (∀ ix, indexAt t t.fib.ident.tenant (a - 1) = some ix →
        ((∀ c ∈ t.idxCmds, c.num ≠ ix.num) → exec i s = .next (finished u
          (setLong { t with indexes := t.indexes.filter fun j => j.num != ix.num } gd (BitVec.ofNat 64 ix.num) 0)))
        ∧ ((∃ c ∈ t.idxCmds, c.num = ix.num) → exec i s = .next (waiting s u (.closing ix.num) (.close ix.num) t)))
      ∧ (indexAt t t.fib.ident.tenant (a - 1) = none → (∀ j ∈ t.indexes, j.icb ≠ a - 1) →
        exec i s = .next (raise (atReads s y) cINDEX (a - 1)))
      ∧ (indexAt t t.fib.ident.tenant (a - 1) = none → (∃ j ∈ t.indexes, j.icb = a - 1) →
        exec i s = .next (raise (found (atReads s y) cWINDOW) cWINDOW (a - 1))))
  ∧ (∀ (s : State) (y : Bool) (gd ga : Reg) (la b0 : Bool) (ws : List Word) (t t1 : State) (n : Nat) (weights : List (BitVec 32)),
    let i := Instr.ixopen y gd ga la
    let u := { plainUse i y [(ga, la)] gd with fail := true }
    let a := operand s u 0
    let w := fun k => (ws.getD k 0).toNat
    let dim := nf (w 7) 0 16
    let wt := (BitVec.ofNat 8 (nf (w 7) 24 8)).getLsbD 2
    Issues s u → a.getLsbD 0 = false → a.toNat % 128 = 0 → openPages 1 (begun s u) .atomic a.toNat false = .ok b0 →
    BlockReads 16 (begun s u) a ws t →
    openRegions t ([(.atomic, w 3, pageCount (w 3) (w 4))]
      ++ (if wt && w 5 != 0 then [(.load, w 5, pageCount (w 5) (4 * dim))] else [])
      ++ [(.atomic, w 0, 1), (.atomic, w 1, 1), (.atomic, w 2, 1)]) b0 = .ok false →
    icbBad ws = false → indexAt t t.fib.ident.tenant a = none → freeIndex t = some n →
    (∀ go, openWeights t (if wt then dim else 0) (w 5) go = go t1 weights) →
    (∀ c ∈ weights, notFinite c = false ∧ 0 ≤ fxUnits c) →
      ∃ ix, exec i s = .next (finished u (setLong { t1 with indexes := t1.indexes ++ [ix] } gd (BitVec.ofNat 64 n) 0))
        ∧ ix.num = n ∧ ix.ten = t1.fib.ident.tenant ∧ ix.icb = a ∧ ix.vbase = ws.getD 0 0 ∧ ix.gbase = ws.getD 1 0
        ∧ ix.idbase = ws.getD 2 0 ∧ ix.verbase = ws.getD 3 0 ∧ ix.dim = dim ∧ ix.weights = weights ∧ ix.nslot = w 11
        ∧ ix.liveN = w 12 ∧ ix.commit = w 10)
  ∧ (∀ (s : State) (y : Bool) (gd ga : Reg) (la : Bool),
    let i := Instr.ixstat y gd ga la
    let u := { plainUse i y [(ga, la)] gd with fail := true }
    let t := begun s u
    let a := operand s u 0
    Issues s u →
      (63 < a.toNat → exec i s = .next (raise (atReads s y) cBOUND a))
      ∧ (a.toNat ≤ 63 → indexOf t a.toNat = none → exec i s = .next (finished u (setLong t gd 0 0)))
      ∧ (∀ ix, a.toNat ≤ 63 → indexOf t a.toNat = some ix →
        (ix.ten ≠ t.fib.ident.tenant → exec i s = .next (raise (found (atReads s y) cWINDOW) cWINDOW a))
        ∧ (ix.ten = t.fib.ident.tenant → exec i s = .next (finished u
          (setLong t gd (BitVec.ofNat 64 (ix.commit % 2 ^ 48 * 2 ^ 16 + 128 + ix.die)) 0)))))

/-- R362-R366: the instructions on messages with tags, where they issue and their checks pass. -/
def Obligations.TaggedMessages : Prop :=
  (∀ (s : State) (y : Bool) (ga : Reg) (la : Bool) (scope : BitVec 4) (rel : Bool) (ws : List Word) (t : State)
      (ps : List (Nat × Acc × Nat)) (cpl : Option Nat),
    let i := Instr.send y ga la scope rel
    let u := { plainUse i y [(ga, la)] 0 with fail := true }
    let w1 := (ws.getD 1 0).toNat
    let dst := BitVec.ofNat 26 w1
    let len := w1 / 2 ^ 32
    Issues s u → (operand s u 0).toNat % 32 = 0 → BlockReads 4 (begun s u) (operand s u 0) ws t →
    nf w1 26 6 = 0 → 0x444 ≤ idAgent dst → idAgent dst ≤ 0x447 → len ≤ 2 ^ 24 →
    (if idPod dst = t.dev.pod.toNat then populatedMod t (idMod dst) = true else len ≤ 4096) →
    (ws.getD 2 0).toNat % 8 = 0 → sideRows false t .load [((ws.getD 2 0).toNat, len)] [] = .ok ps →
    CompletionWord t (ws.getD 3 0) cpl → msgOut t t.fib.core < 32 → allPerformed t t.fib.id = true →
      let g := if len ≤ 4096 then gather t (fibreAgent t) (runPieces (sideRuns ps)) else (t, true)
      let o := outstOf t (if len ≤ 4096 then 6 else 7) cpl dst (sideRuns ps) (ws.getD 2 0) len
      let r := releaseAt g.1 o.ten g.1.fib.core 4
      (g.2 = true → exec i s = .next (finished u
        (sendOut (if rel then releaseAt r o.ten r.fib.core scope else r) o (ws.getD 0 0) scope rel)))
      ∧ (g.2 = false → exec i s = .next (waiting s u .fetch (.send o (ws.getD 0 0) scope rel) g.1)))
  ∧ (∀ (s : State) (y : Bool) (ga : Reg) (la : Bool) (ws : List Word) (t : State) (a : Acc) (r : Recv),
    let i := Instr.rpost y ga la
    let u := { plainUse i y [(ga, la)] 0 with fail := true }
    Issues s u → (operand s u 0).toNat % 32 = 0 → BlockReads 12 (begun s u) (operand s u 0) ws t →
    (t.fib.ident.kind = .handler → nb (ws.getD 5 0).toNat 7 = false) → postReserved ws = false →
    nf (ws.getD 5 0).toNat 0 4 ≠ 15 → (ws.getD 3 0).toNat % 32 = 0 → checkWord t (ws.getD 3 0) = .ok a →
    postDest t (recvOfBlock 0 t.fib ws a.pa) = .ok r → allPerformed t t.fib.id = true →
      let q := freshId (releaseAt t r.ten t.fib.core 3)
      let z := q.2
      let d := dieOf z.fib.core
      let p := { r with id := q.1 }
      (z.sched.defer = false → (recvOf z d).posted.length < 4096 → exec i s = .next (finished u (postRecv z d p)))
      ∧ (z.sched.defer = false → 4096 ≤ (recvOf z d).posted.length →
        exec i s = .next (raise (atReads s y) cQFULL (operand s u 0)))
      ∧ (z.sched.defer = true → exec i s = .next (holding s u .post (setRecv z d { recvOf z d with
        posting := (recvOf z d).posting ++ [(z.fib.id, operand s u 0, p)] }))))
  ∧ (∀ (s : State) (y : Bool) (ga : Reg) (la : Bool),
    let i := Instr.rcancel y ga la
    let u := { plainUse i y [(ga, la)] 0 with fail := true }
    let t := begun s u
    Issues s u →
      ((operand s u 0).toNat % 32 ≠ 0 → exec i s = .next (raise (atReads s y) cALIGN (operand s u 0)))
      ∧ ((operand s u 0).toNat % 32 = 0 → t.sched.defer = false →
        exec i s = .next (finished u (cancelRecv t (dieOf t.fib.core) t.fib.ident.tenant (operand s u 0))))
      ∧ ((operand s u 0).toNat % 32 = 0 → t.sched.defer = true →
        exec i s = .next (holding s u (.cancel (operand s u 0)) t)))
  ∧ (∀ (s : State) (y : Bool) (gd ga : Reg) (la : Bool) (ws : List Word) (t : State),
    let i := Instr.rprobe y gd ga la
    let u := { plainUse i y [(ga, la)] gd with fail := true }
    let w2 := (ws.getD 2 0).toNat
    let hit := (recvOf t (dieOf t.fib.core)).unexp.find? fun p => p.ten == t.fib.ident.tenant
      && (p.src &&& BitVec.ofNat 26 (w2 / 2 ^ 32)) == (BitVec.ofNat 26 w2 &&& BitVec.ofNat 26 (w2 / 2 ^ 32))
      && (BitVec.ofNat 64 (msgTag p) &&& ws.getD 1 0) == (ws.getD 0 0 &&& ws.getD 1 0)
    Issues s u → (operand s u 0).toNat % 8 = 0 → BlockReads 3 (begun s u) (operand s u 0) ws t →
      (nf w2 26 6 ≠ 0 ∨ nf w2 58 6 ≠ 0 → exec i s = .next (raise (atReads s y) cRESBITS (operand s u 0)))
      ∧ (nf w2 26 6 = 0 → nf w2 58 6 = 0 →
        (hit = none → exec i s = .next (finished u (setLong t gd 0 0)))
        ∧ (∀ p, hit = some p → exec i s = .next (finished u
          (setLong t gd (BitVec.ofNat 64 (2 ^ 63 + p.src.toNat * 2 ^ 32 + msgLen p % 2 ^ 32)) 0)))))
  ∧ (∀ (s : State) (y : Bool) (gd ga : Reg) (la : Bool),
    let i := Instr.rstat y gd ga la
    let u := { plainUse i y [(ga, la)] gd with fail := true }
    let t := begun s u
    let e := recvOf t (dieOf t.fib.core)
    let mine := fun (x : BitVec 4) => operand s u 0 == 1 || x == t.fib.ident.tenant
    Issues s u →
      (2 ≤ (operand s u 0).toNat → exec i s = .next (raise (atReads s y) cRESBITS (operand s u 0)))
      ∧ ((operand s u 0).toNat < 2 → exec i s = .next (finished u (setLong t gd
        (BitVec.ofNat 64 ((e.posted.filter fun r => mine r.ten).length * 2 ^ 32
          + (e.unexp.filter fun p => mine p.ten).length)) 0))))

/-- R367, R368: AMSG with a completion word sends its message and goes on, without one it holds its fibre until the answer; HTSET
and HTCLR rewrite an entry of the handler table; with the cases in which each traps: a destination or a HANDLER outside the form, an
unpopulated module, a completion word that fails a store's checks, an unreachable module (R430), an entry that is none. -/
def Obligations.ActiveMessages : Prop :=
  (∀ (s : State) (y : Bool) (ga : Reg) (la : Bool) (gb : Reg) (lb : Bool) (scope : BitVec 4) (rel : Bool) (cpl : Option Nat),
    let i := Instr.amsg y ga la gb lb scope rel
    let u := { plainUse i y [(ga, la), (gb, lb), (1, false), (2, false), (3, false), (4, false), (5, false)] 0 with fail := true }
    let t := begun s u
    let f := t.fib
    let v := operand s u
    let dst := (v 0).setWidth 26
    Issues s u →
      (2 ^ 26 ≤ (v 0).toNat ∨ 1024 ≤ idAgent dst → exec i s = .next (raise (atReads s y) cRESBITS (v 0)))
      ∧ ((v 0).toNat < 2 ^ 26 → idAgent dst < 1024 → handlerAllowed (v 1).toNat = false →
        exec i s = .next (raise (atReads s y) cRESBITS (v 1)))
      ∧ ((v 0).toNat < 2 ^ 26 → idAgent dst < 1024 → handlerAllowed (v 1).toNat = true → idPod dst = t.dev.pod.toNat →
        populatedMod t (idMod dst) = false → exec i s = .next (raise (atReads s y) cBOUND (v 0)))
      ∧ ((v 0).toNat < 2 ^ 26 → idAgent dst < 1024 → handlerAllowed (v 1).toNat = true →
        (idPod dst = t.dev.pod.toNat → populatedMod t (idMod dst) = true) → v 6 ≠ 0 → ∀ c, WordFails t (v 6) c →
          exec i s = .next (raise (found (atReads s y) c) c (v 6)))
      ∧ ((v 0).toNat < 2 ^ 26 → idAgent dst < 1024 → handlerAllowed (v 1).toNat = true →
        (idPod dst = t.dev.pod.toNat → populatedMod t (idMod dst) = true) → CompletionWord t (v 6) cpl →
          let o := outstOf t 4 cpl dst [] 0 0
          let area := leBytes 8 (v 1).toNat ++ leBytes 8 (v 2).toNat ++ leBytes 8 (v 3).toNat ++ leBytes 8 (v 4).toNat
            ++ leBytes 8 (v 5).toNat
          let r := if rel then releaseAt t f.ident.tenant f.core scope else t
          let n := (freshId r).1
          let q := addOutst (freshId r).2 { o with id := n }
          let z := sendPacket q (mkPacket q f.core dst 4 f.ident.tenant n scope rel area [])
          (32 ≤ msgOut t f.core → exec i s = .next (waiting s u .outst (.amsg o area scope rel) t))
          ∧ (msgOut t f.core < 32 → (rel = true → allPerformed t f.id = true) →
            (unreachableId t dst = none →
              (v 6 ≠ 0 → exec i s = .next (finished u z)) ∧ (v 6 = 0 → exec i s = .next (holding s u (.amsg n) z)))
            ∧ (∀ c, unreachableId t dst = some c →
              (v 6 = 0 → exec i s = .next (raise (atReads s y) c (dst.setWidth 64)))
              ∧ (v 6 ≠ 0 → exec i s = .next (finished u (completeWord r o (causeStatus c))))))))
  ∧ (∀ (s : State) (y : Bool) (ga : Reg) (la : Bool) (gb : Reg) (lb : Bool) (i : Instr) (reads : List (Reg × Bool))
      (v : BitVec 65),
    (i = .htset y ga la gb lb ∧ reads = [(ga, la), (gb, lb)]) ∨ (i = .htclr y ga la ∧ reads = [(ga, la)]) →
    let u := { plainUse i y reads 0 with fail := true }
    let t := begun s u
    let e := (operand s u 0).toNat
    let ten := t.fib.ident.tenant
    let r := releaseAt t ten t.fib.core 4
    Issues s u →
      (255 < e → exec i s = .next (raise (atReads s y) cBOUND (operand s u 0)))
      ∧ (e ≤ 255 → i = .htset y ga la gb lb → (operand s u 1).toNat % 4 ≠ 0 →
        exec i s = .next (raise (atReads s y) cALIGN (operand s u 1)))
      ∧ (e ≤ 255 → (i = .htset y ga la gb lb → (operand s u 1).toNat % 4 = 0 ∧ v = BitVec.ofNat 65 (2 ^ 64 + (operand s u 1).toNat)) →
        (i = .htclr y ga la → v = 0) → allPerformed s s.fib.id = true →
          (r.sched.defer = false → ((tenantOf r ten.toNat).rewrites.find? fun p => p.1 == e) = none →
            exec i s = .next (finished u (putHandler r ten.toNat e v)))
          ∧ (r.sched.defer = true ∨ ((tenantOf r ten.toNat).rewrites.find? fun p => p.1 == e) ≠ none →
            exec i s = .next (holding s u (.rewrite (ten.toNat * 256 + e)) (startRewrite r ten.toNat e v)))))

/-- R370-R372: SMAL allocates, returns 0 when nothing fits, and traps at a reserved field or the quota; SMFR frees an allocation
of its tenant and traps on any other address; SMQUOTA reads quota and use. -/
def Obligations.SwitchMemoryInstructions : Prop :=
  (∀ (s : State) (y : Bool) (gd ga : Reg) (la mir : Bool),
    let i := Instr.smal y gd ga la mir
    let u := { plainUse i y [(ga, la)] gd with fail := true }
    let t := begun s u
    let a := (operand s u 0).toNat
    let n := nf a 0 14
    let ten := t.fib.ident.tenant
    let reserved := nf a 14 2 ≠ 0 ∨ a / 2 ^ 20 ≠ 0 ∨ nf a 16 2 = 3 ∨ nf a 18 2 = 3 ∨ n = 0 ∨ 15360 < n
    let beyond := (tenantOf t ten.toNat).quota.toNat < usedBy t ten + (if mir then 2 * n else n)
    Issues s u →
      (reserved → exec i s = .next (raise (atReads s y) cRESBITS (operand s u 0)))
      ∧ (¬reserved → beyond → exec i s = .next (raise (atReads s y) cBOUND (operand s u 0)))
      ∧ (¬reserved → ¬beyond → placeRun t n mir = none → exec i s = .next (finished u (setLong t gd 0 0)))
      ∧ (∀ d g, ¬reserved → ¬beyond → placeRun t n mir = some (d, g) → exec i s = .next (finished u (setLong { t with
          allocs := t.allocs ++ [⟨d, g, n, mir, ten, BitVec.ofNat 2 (nf a 16 2), BitVec.ofNat 2 (nf a 18 2), false, false⟩]
          ms := { t.ms with mem := mzero t.ms.mem (switchPa t d (g * 65536)) (n * 65536) } } gd
        (BitVec.ofNat 64 (0xFFFFFE0000000000 + (d * 2 ^ 29 + g * 65536))) 0))))
  ∧ (∀ (s : State) (y : Bool) (ga : Reg) (la : Bool),
    let i := Instr.smfr y ga la
    let u := { plainUse i y [(ga, la)] 0 with fail := true }
    let t := begun s u
    let r := releaseAt t t.fib.ident.tenant t.fib.core 4
    Issues s u →
      (allocBased t t.fib.ident.tenant (operand s u 0).toNat = none →
        exec i s = .next (raise (atReads s y) cXNP (operand s u 0)))
      ∧ (∀ a, allocBased t t.fib.ident.tenant (operand s u 0).toNat = some a → allPerformed s s.fib.id = true →
        (r.sched.defer = false → exec i s = .next (finished u (freeAlloc r a)))
        ∧ (r.sched.defer = true → exec i s = .next (holding s u (.free (operand s u 0).toNat) r))))
  ∧ (∀ (s : State) (y : Bool) (gd : Reg),
    let u := { plainUse (.smquota y gd) y [] gd with fail := true }
    let t := begun s u
    Issues s u → exec (.smquota y gd) s = .next (finished u (setLong t gd (BitVec.ofNat 64
      ((tenantOf t t.fib.ident.tenant.toNat).quota.toNat * 2 ^ 32 + usedBy t t.fib.ident.tenant % 2 ^ 14)) 0)))

/-- R373-R378: the key, walker, histogram and queue instructions, where they issue and their checks pass. -/
def Obligations.KeysWalksAndQueues : Prop :=
  (∀ (s : State) (y : Bool) (ga : Reg) (la rx : Bool) (ws : List Word) (t : State),
    let i := Instr.kload y ga la rx
    let u := { plainUse i y [(ga, la)] 0 with
      level := 2
      ctx := noHandler i
      fail := true }
    let p := portOf t (ownPort t)
    let key := some (ws.flatMap fun w => leBytes 8 w.toNat)
    Issues s u → (operand s u 0).toNat % 32 = 0 → BlockReads 4 (begun s u) (operand s u 0) ws t →
      (rx = true → exec i s = .next (finished u (setPort t (ownPort t) (setRxIdle p key))))
      ∧ (rx = false → p.turning = false → exec i s = .next (finished u (setPort t (ownPort t) (setTxIdle p key)))))
  ∧ (∀ (s : State) (y : Bool),
    let i := Instr.kturn y
    let u := { plainUse i y [] 0 with
      level := 2
      ctx := noHandler i
      fail := true }
    let t := begun s u
    let p := portOf t (ownPort t)
    Issues s u → p.turning = false →
      (txIdle p = none → exec i s = .next (raise (atReads s y) cILLEGAL (wordVal i)))
      ∧ (txIdle p ≠ none → p.replay.length < 64 → exec i s = .next (finished u (setPort t (ownPort t) (turnPort p)))))
  ∧ (∀ (s : State) (y : Bool) (ga : Reg) (la : Bool) (hs ns : List Word) (t r : State),
    let i := Instr.walk y ga la
    let u := { plainUse i y [(ga, la)] 0 with
      ctx := gangOnly i
      fail := true }
    let b := joinWalk (begun s u) (clusterOf s.fib.core) s.fib.id
    let cl := clusterOf s.fib.core
    let h0 := (hs.getD 0 0).toNat
    let n := nf h0 0 16
    let gs := groups4 n ns
    Issues s u → (operand s u 0).toNat % 32 = 0 → (walkerOf b cl).gang = none → walkTurn b cl s.fib.id = true →
    BlockReads 4 b (operand s u 0) hs t → n ≠ 0 → n ≤ 256 → nf h0 16 16 < n → h0 / 2 ^ 32 = 0 → hs.getD 2 0 = 0 →
    hs.getD 3 0 = 0 → BlockReads (4 * n) t (operand s u 0 + 32) ns r →
    firstBad n (fun k => match gs[k]? with
      | some x => (nodeOf x).kind == 0
      | none => false) 0 gs = none → allPerformed r s.fib.id = true →
      let z := leaveWalk (releaseAt r s.fib.ident.tenant s.fib.core 2) s.fib.id
      exec i s = .next (finished u (setWalker z cl
        { Walker.reset with
          gang := gangKey s.fib
          ten := s.fib.ident.tenant
          pl := s.fib.pl
          graph := gs.map nodeOf
          ready := [nf h0 16 16]
          done := hs.getD 1 0
          core := s.fib.core
          who := { s.fib.ident with lflags := launchFlags r (begun s u).fib } })))
  ∧ (∀ (s : State) (y : Bool) (ga : Reg) (la : Bool),
    let i := Instr.walk y ga la
    let u := { plainUse i y [(ga, la)] 0 with
      ctx := gangOnly i
      fail := true }
    let b := joinWalk (begun s u) (clusterOf s.fib.core) s.fib.id
    let w := walkerOf s (clusterOf s.fib.core)
    Issues s u → (operand s u 0).toNat % 32 = 0 →
      (w.gang ≠ none → w.gang = gangKey s.fib → exec i s = .next (raise (atReads s y) cLEASE 6))
      ∧ (w.gang ≠ none → w.gang ≠ gangKey s.fib → exec i s = .next (waiting s u .walker (.graph (operand s u 0)) b)))
  ∧ (∀ (s : State) (y : Bool) (ga : Reg) (la : Bool) (gb : Reg) (lb : Bool),
    let i := Instr.hist y ga la gb lb
    let u := { plainUse i y [(ga, la), (gb, lb)] 0 with
      ctx := gangOnly i
      fail := true }
    let t := begun s u
    let cl := clusterOf t.fib.core
    let w := walkerOf t cl
    let b := (operand s u 0).toNat
    Issues s u →
      (w.gang = none ∨ w.gang ≠ gangKey s.fib → exec i s = .next (raise (atReads s y) cLEASE 5))
      ∧ (w.gang ≠ none → w.gang = gangKey s.fib → 255 < b → exec i s = .next (raise (atReads s y) cBOUND (operand s u 0)))
      ∧ (w.gang ≠ none → w.gang = gangKey s.fib → b ≤ 255 → exec i s = .next (finished u (setWalker t cl
        { w with hist := tset w.hist b (BitVec.ofNat 32 (min (histBin w b + (operand s u 1).toNat) 4294967295)) }))))
  ∧ (∀ (s : State) (y : Bool) (gd ga : Reg) (la : Bool),
    let i := Instr.gwtake y gd ga la
    let u := { plainUse i y [(ga, la)] gd with fail := true }
    let t := begun s u
    let k := (operand s u 0).toNat
    let q := gwqOf t k
    Issues s u →
      (15 < k → exec i s = .next (raise (atReads s y) cBOUND (operand s u 0)))
      ∧ (k ≤ 15 → q.armed = true → q.owner ≠ t.fib.ident.tenant → exec i s = .next (raise (found (atReads s y) cWINDOW) cWINDOW (operand s u 0)))
      ∧ (k ≤ 15 → behindAcquire t = false → q.armed = false ∨ (q.owner = t.fib.ident.tenant ∧ q.next = q.limit.setWidth 33) →
        exec i s = .next (finished u (setLong t gd (BitVec.allOnes 64) 0)))
      ∧ (k ≤ 15 → behindAcquire t = false → q.armed = true → q.owner = t.fib.ident.tenant → q.next ≠ q.limit.setWidth 33 →
        exec i s = .next (finished u (setLong (setGwq t k { q with next := q.next + 1 }) gd (q.next.setWidth 64) 0))))

/-- R43, R44, R49, R53, R92, R130, R131, R139-R145, R167, R171, R286, R299, R301, R303, R308, R371, R424: the steps by which accesses and
waits of fibres go on, where each is due. A store's acknowledgement carries its WT and value in the model's response area (log entry 13), and a
page walk reads its entries and fills the TLBs when it ends (log entry 20). A fibre whose destination has been retired stays where it is. -/
def Obligations.AccessAndWaitEvents : Prop :=
  (∀ s f p x b rest, fibreOf s f = some x → farWaits s p = false →
    takeFirst (fun (e : Pend) => e.id == p && (e.val.isSome || e.fail.isSome)) x.pend = some (b, rest) →
      exec (.loadDataReturn f p) s = .next (modFibre s f fun y => { arrive y b with pend := rest }))
  ∧ (∀ s id wt cause r k q, reqOf s id = some r → respTo s id = some (k, q) → r.kind = .store → r.sent = true →
    areaNat q 8 8 = wt.toNat → respCause q = cause.toNat → farWaits s id = false →
      let t := raiseClock (dropArrival s k) r.core q.clock.toNat
      (cause ≠ 0 → exec (.storeAck id wt cause) s = .next (failReq t r.id cause.toNat))
      ∧ (cause = 0 → exec (.storeAck id wt cause) s = .next (deliverReq (keepLease (acqEffect
        (dropReq (raiseClock t r.core (areaNat q 8 8)) r.id) r) r q) r (BitVec.ofNat 64 (areaNat q 0 8))
          (BitVec.ofNat 5 (areaNat q 16 8)))))
  ∧ (∀ s w x, (s.ms.walks.find? fun y => y.id == w) = some x →
    let t := { s with ms := { s.ms with walks := s.ms.walks.filter fun y => y.id != w } }
    let on := fun (r : State) => modFibres r (waitsWalk w) fun f => { f with
      run := if f.run = .parked (.walk w) then .eligible else f.run
      walked := true }
    (walkFrom t 3 x.va.toNat (rootOf t x.space) = none → exec (.pageWalkComplete w) s = .next (on t))
    ∧ (∀ leaf lv, walkFrom t 3 x.va.toNat (rootOf t x.space) = some (leaf, lv) → exec (.pageWalkComplete w) s = .next
      (on ((x.who.filterMap (fibreOf t)).foldl (fun r f => noteTlb r f.core x.space
        ⟨0, 0, 0, 0, false, x.va.toNat / 2 ^ pageWidth lv, pageWidth lv, BitVec.ofNat 64 leaf⟩) t))))
  ∧ (∀ s id r, reqOf s id = some r → r.arrived = false → r.sent = false → r.refused = false → r.rem = none →
    mayPerform s r = true →
      let q := { r with clock := BitVec.ofNat 64 (clockOf s r.core) }
      (∀ hint, hint ≠ 0 → exec (.homeRequest id hint) s = .next (modReq s id fun x => { x with refused := true }))
      ∧ (isRemote s r.pa = true → exec (.homeRequest id 0) s = .next
        (sendReq (modReq (relEffect s q) id fun x => { x with sent := true }) q (mayLease q)))
      ∧ (isRemote s r.pa = false → r.kind = .feStore → r.op = 7 → spadHeld s r.ten r.mon r.pa = false →
        exec (.homeRequest id 0) s = .next (dropReq s id) ∧ exec (.ownershipGrant [id]) s = .next (dropReq s id))
      ∧ (isRemote s r.pa = false → ¬(r.kind = .feStore ∧ r.op = 7 ∧ spadHeld s r.ten r.mon r.pa = false) →
        (∀ t v, performHere s q = .done t v →
          exec (.homeRequest id 0) s = .next (deliverReq (dropReq t r.id) q v 0)
          ∧ exec (.ownershipGrant [id]) s = .next (deliverReq (dropReq t r.id) q v 0))
        ∧ (∀ t c, performHere s q = .fail t c →
          exec (.homeRequest id 0) s = .next (failReq t r.id c)
          ∧ exec (.ownershipGrant [id]) s = .next (failReq t r.id c))
        ∧ (∀ t, performHere s q = .wait t → exec (.homeRequest id 0) s = .next
          (modReq (freshId t).2 r.id fun x => { x with
            arrived := true
            place := (freshId t).1 }))
        ∧ (performHere s q = .refused → exec (.homeRequest id 0) s = .next (modReq s r.id fun x => { x with refused := true }))))
  ∧ (∀ s id, exec (.refusalRetry id) s = .next (modReq s id fun q => { q with refused := false }))
  ∧ (∀ s id ids, exec (.ownershipGrant []) s = .next s ∧ ∃ t u, exec (.homeRequest id 0) s = .next t
      ∧ exec (.ownershipGrant ids) t = .next u ∧ exec (.ownershipGrant (id :: ids)) s = .next u)
  ∧ (∀ s id r t v, reqOf s id = some r → (r.kind = .feLoad ∨ r.kind = .feStore) → r.arrived = true →
    feReady s r.op r.pa = true → feBehind s r.place r.op r.pa = false → r.op ≠ 7 → performHere s r = .done t v →
      (r.rem = none → exec (.feWaitServed id) s = .next (deliverReq (dropReq t r.id) r v 0)))
  ∧ (∀ s, exec .clockTick s = .next { s with sched := { s.sched with
      tick := s.sched.tick + 1
      turns := 0 } })
  ∧ (∀ s f w, (s.watches.find? fun x => x.fib == f && x.rem.isNone) = some w →
      exec (.spuriousWake f) s = .next (wakeWatch s w 3))
  ∧ (∀ s f x, fibreOf s f = some x →
    (x.run = .parked .align → exec (.alignTimeout f) s = .next (complete s f none))
    ∧ (∀ dest migr, x.run = .migrating dest migr → allPerformed s f = true →
      let sc := scopeOfCores x.core dest
      let ten := x.ident.tenant
      let t := acquireAt (exchange (releaseAt s ten x.core sc) x.core dest) ten dest sc
      let m := modFibre (leaveWalk (disown t x.core f) f) f fun y => { y with
        core := dest
        moves := y.moves + 1 }
      ((coreOf s dest).retired = false →
        exec (.migrationArrival f) s = .next (if migr then complete m f (some 0) else modFibre m f fun y => { y with
          run := .eligible
          noMig := true }))
      ∧ ((coreOf s dest).retired = true →
        exec (.migrationArrival f) s = .next (if migr then complete s f (some 2) else modFibre s f fun y => { y with
          run := .eligible
          noMig := true })))
    ∧ (∀ sc m all va, x.run = .parked (.tlb sc m all va) →
      exec (.tlbInvalidationDone f) s = .next (complete (tlbRemove s x sc m all va.toNat) f none))
    ∧ (∀ k v, x.run = .parked (.mask k v) → exec (.scopemaskPropagated f) s = .next (complete (setTenant s x.ident.tenant.toNat
      { tenantOf s x.ident.tenant.toNat with masks := tset (tenantOf s x.ident.tenant.toNat).masks k v }) f none))
    ∧ (∀ c, x.run = .parked (.callat c (some true)) → exec (.callatAnswer f) s = .next (complete s f none))
    ∧ (∀ c, x.run = .parked (.callat c (some false)) →
      exec (.callatAnswer f) s = .next (completeTrap s f cQFULL (BitVec.ofNat 64 c)))
    ∧ (∀ b a, x.run = .parked (.free b) → allocBased s x.ident.tenant b = some a →
      exec (.switchFreeDone f) s = .next (complete (freeAlloc s a) f none)))
  ∧ (∀ s b x, (s.dist.barriers.find? fun y => barrierId y.grid y.key == b) = some x →
    (allArrived s x = true → (∀ d ∈ barrierDies s x, d ∈ x.reports) →
      exec (.barrierEpisodeComplete b) s = .next (completeBarrier s x))
    ∧ (∀ d, d ∈ barrierDies s x → d ∉ x.reports → dieArrived s x d = true →
      exec (.dieBarrierReport b d) s = .next (setBarrier s { x with reports := x.reports ++ [d] })))

/-- R115, R120, R186-R193, R214, R229, R313, R332-R339, R350: the steps of the vector unit, the matrix array, the copy engine, the
kick transfers and the indexes, where each is due. -/
def Obligations.UnitEvents : Prop :=
  (∀ s f core j op x p, vecJobOf s f = some (core, j) → vecOp j.instr = some op → j.fib = f →
    let t := setCore s core { coreOf s core with vec := (coreOf s core).vec.filter fun y => y.fib != f }
    fibreOf t f = some x → vecNames j.pfx (jobLook core j) op = .ok p → vecTrap t x op p = none →
      let o := vecOut t op p j.book
      exec (.vectorInstructionComplete f) s = .next
        (complete (modFibre (vecWrite t p o) f fun y => orFlags y o.flags) f none))
  ∧ (∀ s f x, fibreOf s f = some x →
    (∀ b, x.run = .parked (.codebook b) → bookRead s x.core = false →
      exec (.codebookReplace f) s = .next (complete (setBook s x.core b) f none))
    ∧ (∀ j, x.run = .parked (.slot j) → slotFree s j = true →
      let r := slotWrite s x.core j
      (slotPoison s j.va j.pas j.dim (j.damp != 0) = none →
        exec (.gmsgSlotWrite f) s = .next (completeFl r.1 f (some r.2.1) r.2.2))
      ∧ (∀ v, slotPoison s j.va j.pas j.dim (j.damp != 0) = some v →
        exec (.gmsgSlotWrite f) s = .next (completeTrap s f cPOISON v))))
  ∧ (∀ s cl q rest x, (arrayOf s cl).wait = q :: rest → (arrayOf s cl).lease = none → (arrayOf s cl).cmds = [] →
    (arrayOf s cl).retired = false → fibreOf s q.fib = some x → q.again = false →
      exec (.matrixLeaseGrant cl) s = .next (complete (setArray s cl { arrayOf s cl with
        wait := rest
        lease := some ⟨x.id, x.core, q.bound, q.rel⟩
        src := BitVec.ofNat 8 ((ownSlot s x).getD 0 * 17)
        cmds := q.cmds }) q.fib none))
  ∧ (∀ s cl c rest, (arrayOf s cl).cmds = c :: rest →
    (c.step < cmdSteps c → fibImaging s c.fib = false → exec (.matrixStep cl) s = .next
      (setArray (stepCmd s c).1 cl { arrayOf (stepCmd s c).1 cl with cmds := (stepCmd s c).2 :: rest }))
    ∧ (cmdSteps c ≤ c.step → c.fn ≠ 4 → exec (.matrixCommandComplete cl) s = .next
      (giveArray (cmdFlags (setArray s cl { arrayOf s cl with cmds := rest }) c) cl)))
  ∧ (∀ s core, let c := coreOf s core
    (∀ x, (c.fifo.find? fun y => !y.started) = some x → x.tookTile = true →
      exec (.copyCommandStart core) s = .next (setCore s core { c with
        fifo := modWhere (fun z => z.id == x.id) (fun _ => { x with started := true }) c.fifo }))
    ∧ (∀ x rest, c.fifo = x :: rest → x.started = true → copyClear s x = true →
      (∀ k ∈ c.kicks, k.started = true → x.id ≤ k.id) →
      let g := gather s (copyAgent core x) (copySrc s x)
      exec (.copyCommandComplete core) s = .next (if g.2 then finishCopy g.1 core x else g.1))
    ∧ (∀ k, (c.kicks.find? fun y => !y.started) = some k → fifoUsed c < 16 →
      let d := noticeDest s core k
      let r := freshId (countWindow s k.ten d.2)
      let up := fun (y : Notice) => { y with
        id := r.1
        started := true
        runs := d.1
        cause := BitVec.ofNat 6 d.2 }
      exec (.kickTransferStart core) s = .next (setCore r.2 core { c with kicks := modWhere (fun y => y.id == k.id) up c.kicks }))
    ∧ (∀ k rest, c.kicks = k :: rest → k.started = true → kickClear s k = true → (∀ x ∈ c.fifo, k.id ≤ x.id) →
      k.rstamp = 0 → k.sstamp = 0 →
      let m := kickMove s core k
      let t := dropFar m.1 (.cmd k.id)
      let z := setCore t core { coreOf t core with kicks := (coreOf t core).kicks.filter fun y => y.id != k.id }
      (m.2.2.2 = false → exec (.kickTransferComplete core) s = .next m.1)
      ∧ (m.2.2.2 = true → isOwnIdent z k.src = false → exec (.kickTransferComplete core) s = .next z)))
  ∧ (∀ s k p, s.net.arrivals[k]? = some p → p.kind = 10 → inOrder s k p = true →
      exec (.kickNoticeArrival k) s = .next (noticeArrive (dropArrival s k) p))
  ∧ (∀ s n c ix, (s.idxCmds.find? fun x => x.id == n) = some c → indexOf s c.num = some ix →
    let v : IxView := ⟨s, ix, idxAgent ix c⟩
    (c.op = 1 → mutationNext s c = true → c.next = none → exec (.indexStvecPerform n) s = .next (stvec v c)
      ∧ exec (.versionAreaFreed n) s = .next (stvec v c))
    ∧ (c.op = 2 → mutationNext s c = true → c.next = none → exec (.indexDlvecPerform n) s = .next (dlvec v c))
    ∧ (∀ new, mutationNext s c = true → c.next = some new →
      (c.op = 1 → exec (.indexStvecPerform n) s = .next (resumeCommit s c ix new))
      ∧ (c.op = 2 → exec (.indexDlvecPerform n) s = .next (resumeCommit s c ix new)))
    ∧ (c.op = 0 → c.accepted = none → acceptNext s c = true → c.took = true →
      let taken := fun (x : IdxCmd) => { x with took := true, accepted := some ix.commit }
      exec (.indexLdnnAccept n) s = .next { s with idxCmds := modWhere (fun x => x.id == n) taken s.idxCmds })
    ∧ (∀ snap, c.accepted = some snap → searchClear s c = true → search v (distOf ix c.query) snap c.l = .error .mem →
      exec (.indexSearchComplete n) s = .next (stampError s c ix.ten))
    ∧ (∀ snap vis rs ws, c.accepted = some snap → searchClear s c = true →
      search v (distOf ix c.query) snap c.l = .ok vis → withRecs v (vis.map (·.2)) = .ok rs →
      withVecs v ((bestOf c snap (vis.zip rs)).map fun z => z.1.2) = .ok ws →
      spadHeld s ix.ten c.mon (spadPa s c.core (c.base + teBase c.ent)) = true →
        let rows := ((bestOf c snap (vis.zip rs)).zip ws).map fun z => (z.1.2.2.id, distOf ix c.query z.2.2)
        exec (.indexSearchComplete n) s = .next (stampCmd (writeResults s c c.k 0 rows) c ix.ten (stampVal snap 0
          (decide (vis.length ≤ c.l)) (decide (rows.length < c.k)) rows.length))))

/-- R170, R171, R210-R213, R216-R218, R363-R368, R437: the steps by which messages and requests of other agents are taken, where each is
due. A message for a handler entry in rewrite waits while fewer than 64 wait on its die, and a further one is returned with BUSY. What a
response carries beyond the header is the model's (log entry 13). -/
def Obligations.MessageEvents : Prop :=
  (∀ s f d x, d < 4 → (∀ e, e < d → ((recvOf s e).posting.find? fun y => y.1 == f) = none) →
    ((recvOf s d).posting.find? fun y => y.1 == f) = some x →
      let t := setRecv s d { recvOf s d with posting := (recvOf s d).posting.filter fun y => y.1 != f }
      ((recvOf s d).posted.length < 4096 → exec (.receivePostEvent f) s = .next (complete (postRecv t d x.2.2) f none))
      ∧ (4096 ≤ (recvOf s d).posted.length → exec (.receivePostEvent f) s = .next (completeTrap t f cQFULL x.2.1)))
  ∧ (∀ s f x va, fibreOf s f = some x → x.run = .parked (.cancel va) →
      exec (.receiveCancelEvent f) s = .next (complete (cancelRecv s (dieOf x.core) x.ident.tenant va) f none))
  ∧ (∀ s k p, s.net.arrivals[k]? = some p → inOrder s k p = true →
    (p.kind = 6 → p.second = false →
      (msgLen p + (if p.status = 7 then 8 else 0) ≤ 3804 → exec (.eagerSendArrival k) s = .next (sendArrive (dropArrival s k) p))
      ∧ (3804 < msgLen p + (if p.status = 7 then 8 else 0) → ∀ q rest,
        takeFirst (fun q => q.kind == 6 && q.second && q.src == p.src && q.dst == p.dst) (s.net.arrivals.drop (k + 1)) = some (q, rest) →
          let t := { s with net := { s.net with arrivals := s.net.arrivals.take k ++ rest } }
          exec (.eagerSendArrival k) s = .next
            (sendArrive (if isOwnIdent t q.src then t else answer t q 3 0 [] []) { p with data := p.data ++ q.data })))
    ∧ (p.kind = 7 → exec (.rendezvousRequestArrival k) s = .next (sendArrive (dropArrival s k) p)))
  ∧ (∀ s c d p, d < 4 → (∀ e, e < d → ((recvOf s e).pulls.find? fun x => x.id == c) = none) →
    ((recvOf s d).pulls.find? fun x => x.id == c) = some p → recvClear s p.recv = true →
      let out := fun (t : State) => setRecv t d { recvOf t d with pulls := (recvOf t d).pulls.filter fun x => x.id != c }
      (p.req.kind ≠ 7 → exec (.rendezvousPullComplete c) s = .next (landNow (out s) d p.recv p.req (eagerPayload s p.req)))
      ∧ (∀ t, p.req.kind = 7 → pulledPayload s p.id p.recv p.req = (t, none) → exec (.rendezvousPullComplete c) s = .next t)
      ∧ (∀ t pay, p.req.kind = 7 → pulledPayload s p.id p.recv p.req = (t, some pay) →
        exec (.rendezvousPullComplete c) s = .next (landNow (out t) d p.recv p.req pay)))
  ∧ (∀ s k p o, s.net.arrivals[k]? = some p →
    (s.net.outst.find? fun o => o.id == p.reqid.toNat && (o.kind == 6 || o.kind == 7)) = some o →
      let t := raiseClock (dropArrival s k) o.core p.clock.toNat
      (p.kind = 11 → exec (.sendCompletionArrival k) s = .next (dropOutst (completeWord t o
        (areaNat p 0 4 * 2 ^ 32 + areaNat p 4 1 % 64)) o.id))
      ∧ (p.kind = 5 → exec (.sendCompletionArrival k) s = .next (dropOutst (completeWord t o (statusCause p.status.toNat)) o.id))
      ∧ (p.kind = 3 → exec (.sendCompletionArrival k) s = .next (dropArrival s k)))
  ∧ (∀ s k p, s.net.arrivals[k]? = some p → p.kind = 4 → nb (areaNat p 0 8) 63 = false → pairFirst s k p = true →
    let t := dropArrival s k
    let e := areaNat p 0 8 % 256
    let ten := tenantOf t p.ten.toNat
    let core := idAgent p.dst
    let waits := (t.net.held.filter fun x => x.die == dieOf core).length
    let r := raiseClock t core p.clock.toNat
    ((∃ x ∈ ten.rewrites, x.1 = e) →
      (waits < 64 → exec (.activeMessageArrival k) s = .next { t with net := { t.net with held := t.net.held ++ [⟨dieOf core, p⟩] } })
      ∧ (64 ≤ waits → exec (.activeMessageArrival k) s = .next (answerMsg r p 2)))
    ∧ ((∀ x ∈ ten.rewrites, x.1 ≠ e) → (∀ x ∈ ten.handlers, x.1 ≠ e) →
      exec (.activeMessageArrival k) s = .next (answerMsg r p 1))
    ∧ (∀ x, (∀ y ∈ ten.rewrites, y.1 ≠ e) → (ten.handlers.find? fun y => y.1 == e) = some x →
      (64 ≤ (coreOf t core).hq.length → exec (.activeMessageArrival k) s = .next (answerMsg r p 3))
      ∧ ((coreOf t core).hq.length < 64 → exec (.activeMessageArrival k) s = .next
        (answerMsg (setCore r core { coreOf t core with
          hq := (coreOf t core).hq ++ [{ p with area := leBytes 8 x.2.toNat ++ p.area.drop 8 }] }) p 0))))
  ∧ (∀ s core p rest, (coreOf s core).hq = p :: rest →
    (∀ f ∈ allFibres s, f.ident.kind = .handler → f.core = core → f.run = .exited) →
      let t := setCore s core { coreOf s core with hq := rest }
      exec (.handlerStart core) s = .next (addFibre (if p.rel then acquireLv t core p.scope (levelIn p.mask core p.scope) else t)
        (handlerRegs { Fibre.blank with
          core := core
          run := .eligible
          pc := BitVec.ofNat 64 (areaNat p 0 8)
          ident := { Ident.none with
            kind := .handler
            tenant := p.ten
            budget := 15
            tscope := 4 } } p)))
  ∧ (∀ s k x, ((tenantOf s (k / 256)).rewrites.find? fun y => y.1 == k % 256) = some x →
      let t := putHandler s (k / 256) (k % 256) x.2
      let u := setTenant t (k / 256) { tenantOf t (k / 256) with rewrites := tdel (tenantOf t (k / 256)).rewrites (k % 256) }
      let mine := fun (h : Held) => h.pkt.ten.toNat == k / 256 && areaNat h.pkt 0 8 % 256 == k % 256
      let v := { u with net := { u.net with
        held := u.net.held.filter fun h => !mine h
        arrivals := (u.net.held.filter mine).map (·.pkt) ++ u.net.arrivals } }
      exec (.handlerRewriteEnd k) s = .next
        (((allFibres v).filter fun f => f.run == .parked (.rewrite k)).foldl (fun w f => complete w f.id none) v))
  ∧ (∀ s k h, s.net.held[k]? = some h → exec (.handlerRewriteTimeout k) s = .next
      (answerMsg { s with net := { s.net with held := dropAt s.net.held k } } h.pkt 2))
  ∧ (∀ s k p o, s.net.arrivals[k]? = some p →
    (s.net.outst.find? fun o => o.id == p.reqid.toNat && (o.kind == 4 || o.kind == 10)) = some o →
    (p.kind = 3 ∨ p.kind = 5) →
      let t := raiseClock (dropArrival s k) o.core p.clock.toNat
      (o.kind = 4 → exec (.amsgResponseArrival k) s = .next (amsgAnswered t o p.status.toNat p.src))
      ∧ (o.kind = 10 → exec (.amsgResponseArrival k) s = .next (noticeAnswered t o p.status.toNat)))
  ∧ (∀ s k p, s.net.arrivals[k]? = some p → requestFirst s k p = true → p.kind = 4 → nb (areaNat p 0 8) 63 = true →
    let c := areaNat p 0 1
    ((c < 4 ∨ 13 ≤ c) → exec (.builtinLoad k) s = .next (serveBuiltin s k p))
    ∧ (4 ≤ c → c < 8 → exec (.builtinStore k) s = .next (serveBuiltin s k p))
    ∧ (c = 8 → exec (.builtinLdf k) s = .next (serveBuiltin s k p))
    ∧ (c = 9 → exec (.builtinLdfe k) s = .next (serveBuiltin s k p))
    ∧ (c = 10 → exec (.builtinSte k) s = .next (serveBuiltin s k p))
    ∧ (c = 11 → exec (.builtinStf k) s = .next (serveBuiltin s k p)))
  ∧ (∀ s k p, s.net.arrivals[k]? = some p → requestFirst s k p = true → p.kind.toNat ≤ 2 →
    let c := nf (areaNat p 26 1) 3 3
    let r := areaReq s p
    (c = 2 ∨ 5 ≤ c → exec (.remoteAtomic k) s = .next (serve s k p r.1 r.2))
    ∧ (c = 0 → exec (.builtinLoad k) s = .next (serve s k p r.1 r.2))
    ∧ (c = 1 → exec (.builtinStore k) s = .next (serve s k p r.1 r.2)))
  ∧ (∀ s k p, s.net.arrivals[k]? = some p → requestFirst s k p = true → p.kind = 9 →
    let q := (areaReq s p).1
    isOwnMem s q.pa = true → homeAllows s q q.pa = true → owned s q.pa 8 = false → homeLost s q.pa = false →
      let t := dropArrival s k
      let r := homeReq s p.ten p.clock .load 0 8 q.pa 0 q.gr.toNat 0
      let wt := (tsOf t (lineKey q.gr q.pa)).wt
      let g := grantLease (raiseClock (noteOwner t r false) r.core p.clock.toNat) r p.clock.toNat
      (wt = areaNat p 8 8 → exec (.leaseRefresh k) s = .next (answer g.1 p 3 0 (respArea 0 wt g.2.1) []))
      ∧ (wt ≠ areaNat p 8 8 → exec (.leaseRefresh k) s = .next (answer g.1 p 3 0 (respArea 0 wt g.2.1 ++ lineMarks g.1 r) g.2.2)))

/-- R28, R29, R70-R77, R81, R86-R90, R377: the steps of the walker, the distributor, launches, tasks, the queues and the host, where
each is due: a task node that stopped at a full queue is taken up again, and a claim that completes images its gang where a sibling is
imaged (log entry 64 says in what order saved tasks come). -/
def Obligations.LaunchAndWalkEvents : Prop :=
  (∀ s cl node x, let w := walkerOf s cl
    w.graph[node]? = some x → w.gang ≠ none → w.ended = false → node ∈ w.ready →
      (x.kind = 0 → nodeRunning w node = false → nf x.s.toNat 0 32 = 0 → exec (.taskNodeRun cl node) s = .next
        (settleWalk (setWalker s cl (startNode (startNode (takeReady w node) x.next) x.alt)) cl))
      ∧ (x.kind = 0 → nodeRunning w node = false → nf x.s.toNat 0 32 ≠ 0 → exec (.taskNodeRun cl node) s = .next
        (settleWalk (placeTasks (nf x.s.toNat 0 32)
          (setWalker s cl { takeReady w node with placed := tset w.placed node 0 }) cl node x) cl))
      ∧ (∀ k, (k = 1 ∧ x.kind = 1) ∨ (k = 2 ∧ x.kind = 2) →
        let r := condWord s cl w x.p
        (r.2 = none → (k = 1 → exec (.conditionalNodeRun cl node) s = .next r.1) ∧ (k = 2 → exec (.whileNodeRun cl node) s = .next r.1))
        ∧ (∀ v, r.2 = some v →
          let t := settleWalk (setWalker r.1 cl (startNode (takeReady (walkerOf r.1 cl) node) (if v = 0 then x.next else x.alt))) cl
          (k = 1 → exec (.conditionalNodeRun cl node) s = .next t) ∧ (k = 2 → exec (.whileNodeRun cl node) s = .next t)))
      ∧ (x.kind = 3 →
        let v := takeReady w node
        let n := tget 0 v.arrivals node + 1
        (n < x.s.toNat → exec (.joinNodeRun cl node) s = .next
          (settleWalk (setWalker s cl { v with arrivals := tset v.arrivals node n }) cl))
        ∧ (x.s.toNat ≤ n → exec (.joinNodeRun cl node) s = .next
          (settleWalk (setWalker s cl (startNode { v with arrivals := tdel v.arrivals node } x.next)) cl)))
      ∧ (x.kind = 4 → exec (.latchNodeRun cl node) s = .next (settleWalk (setWalker s cl
        (startNode (latchTargets (nf x.p.toNat 16 9) (takeReady w node) x 0 0) x.next)) cl)))
  ∧ (∀ s cl node x, let w := walkerOf s cl
    w.graph[node]? = some x → x.kind = 0 → nodeRunning w node = true → tget 0 w.placed node = nf x.s.toNat 0 32 →
    tget 0 w.alive node = 0 → w.ended = false →
      exec (.walkerNodeComplete cl node) s = .next (settleWalk (setWalker
        ((List.range 16).foldl (fun t c => releaseAt t w.ten (cl * 16 + c) 2) s) cl (startNode (startNode { w with
          placed := tdel w.placed node
          alive := tdel w.alive node } x.next) x.alt)) cl))
  ∧ (∀ s cl node x, let w := walkerOf s cl
    w.graph[node]? = some x → x.kind = 0 → w.gang ≠ none → w.ended = false → nodeRunning w node = true →
      exec (.taskNodeRun cl node) s = .next
        (settleWalk (placeTasks (nf x.s.toNat 0 32 - tget 0 w.placed node) (setWalker s cl w) cl node x) cl))
  ∧ (∀ s core t rest, (coreOf s core).taskq = t :: rest → roomFor s core t.budget = true → otherTenant s core t.ten = false →
    (coreOf s core).retired = false →
    let r := acquireAt (setCore s core (refill { coreOf s core with taskq := rest })) t.ten core t.retScope
    (∀ g, t.guest = none → gangOf s t.gang = some g → g.st = .resident →
      exec (.taskStart core) s = .next (addFibre r (taskFibre core t g.launch)))
    ∧ (∀ m n, t.guest = some (m, n) → n ≠ 0 → exec (.taskStart core) s = .next (addFibre r (taskFibre core t 0))))
  ∧ (∀ s p l u t, (∀ g ∈ s.dist.gangs, g.st ≠ .placing) →
    ((List.range 8).find? fun p => !(readyAt s p).isEmpty) = some p → servedLaunch s (readyAt s p) p = some l →
    readyUnit s l = some u → claimUnit { s with dist := { s.dist with last := tset s.dist.last p l.ten.toNat } } l u = some t →
      exec .distributorTurn s = .next (unitPlaced t l u))
  ∧ (∀ s n g, gangOf s n = some g → g.st = .placing → g.image = none →
    (∀ l, launchOf s g.launch = some l → l.pred = none) →
      let t := modGang s n fun g => { g with
        st := .resident
        image := none }
      exec (.claimComplete n) s = .next (imageClaimed (settleLaunch
        (modFibres t (fun f => f.ident.gang == some n && f.run == .starting) fun f => { f with run := .eligible }) g.launch) n))
  ∧ (∀ s n g, gangOf s n = some g → g.st = .imaging →
    ((allFibres s).filter (inGang n)).all (fibreCloses s) = true → anyAway s n = false → enginesClose s g = true →
    (∀ f ∈ allFibres s, f.run ≠ .parked (.image n)) →
      ∃ t, exec (.imageClose n) s = .next t ∧ (∀ f ∈ allFibres t, inGang n f = false)
        ∧ ∃ h, gangOf t n = some h ∧ h.st = .imaged ∧ h.image = some (makeImage s g) ∧ h.last = some (makeImage s g))
  ∧ (∀ s n l, launchOf s n = some l → l.st = .done →
    let t := storeCompletion (flushAll s fun _ => true) l
    exec (.launchCompletion n) s = .next
      (forget (if nb l.flags.toNat 14 then raiseVector t l.ten (nf l.flags.toNat 15 11) else t) n))
  ∧ (∀ s (ten : BitVec 4) off bytes, (s.dev.go = false ∨ (tenantOf s ten.toNat).en = false →
      exec (.hostLaunchWrite ten off bytes) s = .next (countViolation s))
      ∧ ((tenantOf s ten.toNat).en = false → ∀ vec, exec (.hostMsixEntryWrite ten vec off bytes) s = .next (countViolation s)))
  ∧ (∀ s (ten : BitVec 4) bytes, s.dev.go = true → (tenantOf s ten.toNat).en = true → bytes.length = 64 →
    (tget Window.reset s.dist.windows ten.toNat).mask = 0 →
      ∃ t w, exec (.hostLaunchWrite ten 0 bytes) s = .next t ∧ tget Window.reset t.dist.windows ten.toNat = w ∧ w.mask = 0
        ∧ w.result = (submit s ten (windowWords w.bytes)).2 ∧ ∀ k, k < 64 → tget 0 w.bytes k = bytes.getD k 0)
  ∧ (∀ s (ten : BitVec 4) vec bytes, (tenantOf s ten.toNat).en = true → vec < 2048 → bytes.length = 16 →
    sHas s.host.pendingIrq (ten.toNat * 2048 + vec) = false →
      exec (.hostMsixEntryWrite ten vec 0 bytes) s = .next { s with host := { s.host with
        msix := tset s.host.msix (ten.toNat * 2048 + vec) (BitVec.ofNat 128 (leNat bytes)) } })
  ∧ (∀ s off n bytes, let pa := switchPa s 0 off
    (hostMay s off bytes.length = false → exec (.hostSwitchWindowAccess true off n bytes) s = .next (countViolation s))
    ∧ (hostMay s off bytes.length = true → exec (.hostSwitchWindowAccess true off n bytes) s = .next
      (hostBytes (flushAll s fun a => decide (pa / 512 * 512 ≤ a) && decide (a < (pa + bytes.length) / 512 * 512 + 512)) pa bytes))
    ∧ (hostMay s off n = false → exec (.hostSwitchWindowAccess false off n bytes) s = .next
      { countViolation s with host := { s.host with reads := s.host.reads ++ [List.replicate n 0xFF] } })
    ∧ (hostMay s off n = true →
      let t := flushAll s fun a => decide (pa / 512 * 512 ≤ a) && decide (a < (pa + n) / 512 * 512 + 512)
      exec (.hostSwitchWindowAccess false off n bytes) s = .next
        { t with host := { t.host with reads := t.host.reads ++ [rdBytes t pa n] } }))
  ∧ (∀ s q ten limit,
    ((gwqOf s q.toNat).armed = false ∨ (gwqOf s q.toNat).owner = ten →
      exec (.gwqArm q ten limit) s = .next (setGwq s q.toNat ⟨true, ten, limit, 0⟩))
    ∧ ((gwqOf s q.toNat).armed = true → (gwqOf s q.toNat).owner ≠ ten → exec (.gwqArm q ten limit) s = .next s)
    ∧ exec (.gwqDisarm q) s = .next (setGwq s q.toNat { gwqOf s q.toNat with armed := false }))

/-- R196-R209, R244, R429-R436: the steps of the links and the fabric, where each is due. What a control packet carries (log entry 13), the
choice of the frame's port number, and when a home's request to an agent counts as unanswered once more (log entry 48) are the model's. -/
def Obligations.LinkAndFabricEvents : Prop :=
  (∀ s p rest, s.net.router = p :: rest → idPod p.dst = s.dev.pod.toNat → isOwnIdent s p.dst = true →
      exec .packetForward s = .next { s with net := { s.net with
        router := rest
        ingress := s.net.ingress ++ [p] } })
  ∧ (∀ s p rest, s.net.router = p :: rest → idPod p.dst = s.dev.pod.toNat → isOwnIdent s p.dst = false →
    let t := { s with net := { s.net with router := rest } }
    let f := portTo (ownMod t) (nextHop t (ownMod t) p)
    (portUsable t f = true → exec .packetForward s = .next
      (queueOn t f p (b1 (isDetour t p || columnFirst t p)) (isDetour t p)))
    ∧ (∀ g more, portUsable t f = false → isDetour t p = false → detourPorts t f = g :: more →
      exec .packetForward s = .next (queueOn t g p 0 false))
    ∧ (portUsable t f = false → isDetour t p = true ∨ detourPorts t f = [] →
      exec .packetForward s = .next { t with net := { t.net with router := rest ++ [p] } }))
  ∧ (∀ s f e g rest, let q := portOf s f
    q.txq[if q.txMid then 1 else 0]? = some e → detourPorts s f = g :: rest → e.1.2 = false →
      let t := setPort s f { q with txq := dropAt q.txq (if q.txMid then 1 else 0) }
      exec (.detourTimeout f) s = .next (setPort t g { portOf t g with txq := (portOf t g).txq ++ [e] }))
  ∧ (∀ s p rest, s.net.ingress = p :: rest → isOwnIdent s p.dst = true →
    (idPod p.src = s.dev.pod.toNat → p.incarn = expOf s (idMod p.src)) →
    let t := { s with net := { s.net with
      ingress := rest
      heard := if idPod p.src = s.dev.pod.toNat then tset s.net.heard (idMod p.src) s.sched.tick else s.net.heard } }
    (13 ≤ p.kind.toNat ∨ p.rsv = true ∨ areaReserved p = true → exec .packetIngress s = .next (countDrop t))
    ∧ (p.kind.toNat < 13 → p.rsv = false → areaReserved p = false → (tenantOf s p.ten.toNat).en = false → routerOwn p = false →
      exec .packetIngress s = .next (answer (countDrop t) p 5 4 p.area p.data))
    ∧ (p.kind.toNat < 13 → p.rsv = false → areaReserved p = false → (tenantOf s p.ten.toNat).en = true → p.kind ≠ 12 →
      agentTakes (idAgent p.dst) p.kind.toNat = true →
      let u := { t with net := { t.net with
        dead := if idPod p.src = s.dev.pod.toNat then sDel s.net.dead (idMod p.src) else s.net.dead } }
      (p.kind = 3 ∨ p.kind = 5 → exec .packetIngress s = .next (arrived (pairAnswered u p) p))
      ∧ (p.kind ≠ 3 → p.kind ≠ 5 → exec .packetIngress s = .next (acceptRequest u p))))
  ∧ (∀ s f b rest, let p := portOf s f
    p.up = true →
      (p.resend = b :: rest → exec (.flitTransmit f) s = .next (setPort s f { p with
        resend := rest
        wire := some b }))
      ∧ (p.resend = [] → p.nakDue = true → exec (.flitTransmit f) s = .next (setPort s f { p with
        nakDue := false
        wire := some (clearFlit { p with nakDue := false } 5) }))
      ∧ (p.resend = [] → p.nakDue = false → p.txq = [] → exec (.flitTransmit f) s = .next (setPort s f { p with
        wire := some (clearFlit p 0) }))
      ∧ (∀ vc bytes more q, p.resend = [] → p.nakDue = false → txKey p ≠ none → p.count ≠ 2 ^ 32 → p.replay.length < 64 →
        p.txq = (vc, bytes :: more) :: q →
          let x := newFlit p (if p.txMid then 2 else 1) vc.1 (!p.txMid) more.isEmpty bytes
          exec (.flitTransmit f) s = .next (setPort s f { sendFlit p x with
            txq := if more.isEmpty then q else (vc, more) :: q
            txMid := !more.isEmpty }))
      ∧ (∀ vc q, p.resend = [] → p.nakDue = false → txKey p ≠ none → p.count ≠ 2 ^ 32 → p.replay.length < 64 →
        p.txq = (vc, []) :: q → p.txMid = true →
          exec (.flitTransmit f) s = .next (setPort s f (sendFlit { p with
            txq := q
            txMid := false } (newFlit p 3 vc.1 false true zeroPayload)))))
  ∧ (∀ s f (x : Flit), (portOf s f).up = true → x.rsv = false → flitCrc x = x.crc →
    (x.typ = 0 → exec (.flitReceiveIdle f x) s = .next (setPort s f (acknowledged (portOf s f) x.ack)))
    ∧ (x.typ = 5 → exec (.flitReceiveNak f x) s = .next (setPort s f
      { acknowledged (portOf s f) x.ack with resend := (acknowledged (portOf s f) x.ack).replay })))
  ∧ (∀ s f (x : Flit) k payload, let p := portOf s f
    p.up = true → x.rsv = false → flitCrc x = x.crc → x.seq = p.expect → rxKey p ≠ none →
    (if x.ks then p.rxKey1 else p.rxKey0) = some k → openFlit k (Config.partnerLinkid f) p.rxCount x = some payload →
      (x.typ = 1 → exec (.flitReceiveHead f x) s = .next (acceptFlit s f x payload))
      ∧ (x.typ = 2 → exec (.flitReceiveBody f x) s = .next (acceptFlit s f x payload))
      ∧ (x.typ = 3 → exec (.flitReceiveStomp f x) s = .next (acceptFlit s f x payload))
      ∧ (x.typ = 4 → exec (.flitReceiveKeyturn f x) s = .next (acceptFlit s f x payload)))
  ∧ (∀ s f, (portOf s f).up = true →
      exec (.replayTimeout f) s = .next (setPort s f { portOf s f with resend := (portOf s f).replay }))
  ∧ (∀ s f width (m : BitVec 6) pod (inc : BitVec 16), f < 14 → (portOf s f).role = 0 → (portOf s f).held = false → width ≠ 3 →
    (7 ≤ f → s.dev.dieBLost = false) →
      (pod ≠ s.dev.pod ∨ m.toNat ≠ partnerOf (ownMod s) f → exec (.linkTrained f width m pod inc) s = .next (countDrop s))
      ∧ (pod = s.dev.pod → m.toNat = partnerOf (ownMod s) f → exec (.linkTrained f width m pod inc) s = .next
        (setPort { s with net := { s.net with
          inc := if s.net.inc.toNat < inc.toNat then inc else s.net.inc
          exp := if s.net.inc.toNat < inc.toNat then tset s.net.exp (ownMod s) inc else s.net.exp
          dead := sDel s.net.dead m.toNat
          heard := tset s.net.heard m.toNat s.sched.tick } } f { portDown (portOf s f) with
            width := width
            up := true
            seq := 0
            ack := 0xFFFF
            expect := 0 })))
  ∧ (∀ s f, f < 14 → exec (.lossOfLinkTraining f) s = .next (setPort { s with net := { s.net with
      atomics := s.net.atomics.filter fun a => a.port != f } } f { portDown (portOf s f) with held := true }))
  ∧ (∀ s p rest, s.net.router = p :: rest → idPod p.dst ≠ s.dev.pod.toNat → crossesPods p.kind.toNat = true →
    let t := { s with net := { s.net with router := rest } }
    exec .packetForward s = .next { t with net := { t.net with frames := s.net.frames ++ [frameOf t p] } })
  ∧ (∀ s et p, (et = s.dev.etype → exec (.ethernetFrameReceive et p) s = .next
      { s with net := { s.net with ingress := s.net.ingress ++ [{ p with port := 14 }] } })
    ∧ (et ≠ s.dev.etype → exec (.ethernetFrameReceive et p) s = .next s))
  ∧ (∀ s, ∃ t, exec .heartbeat s = .next t ∧ ∀ f, f < 14 →
      (portUsable s f = true → (portOf t f).txq = (portOf s f).txq ++ [((BitVec.ofNat 3 (2 * classOf 12), false),
        payloads 17 (packetBytes (control s (partnerOf (ownMod s) f) 4 0 0)))])
      ∧ (portUsable s f = false → portOf t f = portOf s f))
  ∧ (∀ s (m : BitVec 6),
    (s.sched.tick < tget 0 s.net.heard m.toNat + 2 ^ 20 → exec (.moduleSilenceTimeout m) s = .next s)
    ∧ (sHas s.net.dead m.toNat = true → exec (.moduleSilenceTimeout m) s = .next s)
    ∧ (tget 0 s.net.heard m.toNat + 2 ^ 20 ≤ s.sched.tick → sHas s.net.dead m.toNat = false → m.toNat ≠ ownMod s →
      exec (.moduleSilenceTimeout m) s = .next (moduleDies { s with net := { s.net with
        router := s.net.router ++ (podOthers s).map fun x => control s x 5 m.toNat (expOf s m.toNat).toNat } } m.toNat)))
  ∧ (∀ s (m : BitVec 6) inc, (inc = expOf s m.toNat → exec (.deathNoticeReceive m inc) s = .next (moduleDies s m.toNat))
    ∧ (inc ≠ expOf s m.toNat → exec (.deathNoticeReceive m inc) s = .next s))
  ∧ (∀ s, exec .evictedReturnReceive s = .next (failTo { s with net := { s.net with
      evicted := true
      arrivals := s.net.arrivals.filter fun p => !(p.kind == 5 && p.status == 6) } } (fun i => idPod i == s.dev.pod.toNat && !isOwnIdent s i) cEVICTED))
  ∧ (∀ s src dst, let k := pairKey (BitVec.ofNat 26 src) (BitVec.ofNat 26 dst)
    (isOwnIdent s (BitVec.ofNat 26 src) && isOwnIdent s (BitVec.ofNat 26 dst)) = false →
    ((pairOf s k).unanswered = [] → exec (.e2eRetryTimeout src dst) s = .next s)
    ∧ ((pairOf s k).unanswered ≠ [] → (pairOf s k).retries < 4 →
      let t := setPair s k { pairOf s k with retries := (pairOf s k).retries + 1 }
      exec (.e2eRetryTimeout src dst) s = .next { t with net := { t.net with
        router := t.net.router ++ ((pairOf s k).unanswered.take 32).map fun p => { p with retry := true } } })
    ∧ ((pairOf s k).unanswered ≠ [] → 4 ≤ (pairOf s k).retries →
      let t := (pairOf s k).unanswered.foldl (fun t p => failPacket t cTIMEOUT p) (setPair s k { pairOf s k with
        unanswered := []
        retries := 0 })
      exec (.e2eRetryTimeout src dst) s = .next
        (if idPod (BitVec.ofNat 26 dst) = s.dev.pod.toNat then declareDead t (idMod (BitVec.ofNat 26 dst)) else t)))
  ∧ (∀ s (src dst : BitVec 26), let k := pairKey src dst
    isOwnIdent s src = true → isOwnIdent s dst = true → 0x400 ≤ idAgent src → idAgent src < 0x442 →
    (idAgent dst < 0x440 ∨ (0x444 ≤ idAgent dst ∧ idAgent dst < 0x448)) →
    s.dev.deadAgents.contains (idAgent dst) = false →
      let due := 0 < (pairOf s k).retries ∧ s.sched.tick = (pairOf s k).timed + 1024 * 2 ^ (pairOf s k).retries
      (¬ due → exec (.e2eRetryTimeout src.toNat dst.toNat) s = .next (setPair s k { pairOf s k with
          retries := 1
          timed := s.sched.tick }))
      ∧ (due → (pairOf s k).retries < 4 → exec (.e2eRetryTimeout src.toNat dst.toNat) s = .next
        (setPair s k { pairOf s k with
          retries := (pairOf s k).retries + 1
          timed := s.sched.tick }))
      ∧ (due → 4 ≤ (pairOf s k).retries → exec (.e2eRetryTimeout src.toNat dst.toNat) s = .next
        (declareAgent (setPair s k { pairOf s k with retries := 0 }) (idAgent dst))))

/-- R18, R233-R245, R421-R427, R438, R441: faults of units, losses, reset, throttling and the device registers. What a port that is down keeps
(log entry 46), what a module reset keeps (log entry 47) and what a fault event carries (log entry 65) are the model's. -/
def Obligations.DeviceEvents : Prop :=
  (∀ s u a, isRetired s u = true → exec (.faultCountEvent u a) s = .next s)
  ∧ (∀ s d k, isRetired s (.slice d k) = false → (countFault s (.slice d k) 1).2 = false →
      exec (.faultCountEvent (.slice d k) none) s = .next (countFault s (.slice d k) 1).1)
  ∧ (∀ s n a, isRetired s (.core n) = false →
      (a < 2 ^ 56 → let x := countFault { s with ms := { s.ms with poison := sAdd s.ms.poison (a / 8) } } (.core n) 8
        exec (.faultCountEvent (.core n) (some a)) s = .next (if x.2 then retireCore x.1 n else x.1))
      ∧ (2 ^ 56 ≤ a → a < 2 ^ 57 → exec (.faultCountEvent (.core n) (some a)) s = .next (retireCore s n))
      ∧ (2 ^ 57 ≤ a → let x := countFault (entryLost s (cacheOfUnit (.core n)) (a - 2 ^ 57)) (.core n) 8
        exec (.faultCountEvent (.core n) (some a)) s = .next (if x.2 then retireCore x.1 n else x.1)))
  ∧ (∀ s f a, (portOf s f).up = true → exec (.faultCountEvent (.link f) (some a)) s = .next (setPort s f (stompPort (portOf s f))))
  ∧ (∀ s, (s.dev.dieBLost = true → exec .routerDieBLoss s = .next s) ∧ ∃ t, exec .routerDieBLoss s = .next t
    ∧ t.dev.dieBLost = true ∧ ∀ f, 7 ≤ f → f < 14 → s.dev.dieBLost = false → (portOf t f).up = false ∧ (portOf t f).held = true)
  ∧ (∀ s, exec .routerDieALoss s = .next { s with dev := { s.dev with failed := true } })
  ∧ (∀ s i, i = .moduleReset ∨ i = .thermalShutdown → ∃ t, exec i s = .next t
      ∧ t.fib = Fibre.blank ∧ t.fibres = [] ∧ t.dev = { State.reset.dev with trainedCxl := s.dev.trainedCxl }
      ∧ t.cores = State.reset.cores ∧ t.arrays = State.reset.arrays ∧ t.walkers = State.reset.walkers
      ∧ t.allocs = State.reset.allocs ∧ t.indexes = State.reset.indexes ∧ t.recvs = State.reset.recvs
      ∧ t.dist = State.reset.dist ∧ t.net = State.reset.net
      ∧ (∀ a, a < 2 ^ 46 → mget t.ms.mem a = mget s.ms.mem a) ∧ (∀ a, 2 ^ 46 ≤ a → mget t.ms.mem a = 0))
  ∧ (∀ s, exec .throttle s = .next { s with dev := { s.dev with throttled := true } }
    ∧ exec .backWithinLimits s = .next { s with dev := { s.dev with throttled := false } })
  ∧ (∀ s, s.dev.go = false → 16 ≤ s.dev.lease.toNat → s.dev.lease.toNat ≤ 65536 →
      exec .mctlGo s = .next (addFibre { s with dev := { s.dev with
        go := true
        monRoot := mailWord s 8 } } { Fibre.blank with
          run := .eligible
          pc := mailWord s 0 &&& ~~~3
          pl := 2
          ident := { Ident.none with kind := .boot } }))
  ∧ (∀ s f, f < 14 →
    (s.dev.porten.getLsbD f = true → exec (.gwctlPortDisable f) s = .next (setPort
      { s with dev := { s.dev with porten := s.dev.porten &&& ~~~(BitVec.ofNat 14 (2 ^ f)) } } f
      { portDown (portOf s f) with role := if (portOf s f).role = 3 then 3 else 2 }))
    ∧ (s.dev.porten.getLsbD f = false → (portOf s f).role = 2 → exec (.gwctlPortEnable f) s = .next (setPort
      { s with dev := { s.dev with porten := s.dev.porten ||| BitVec.ofNat 14 (2 ^ f) } } f
      { portOf s f with
        role := 1
        held := false }))
    ∧ ((portOf s f).role ≠ 2 → (portOf s f).role ≠ 3 → (portOf s f).held = true → exec (.gwctlPortEnable f) s = .next
      (setPort s f { portOf s f with held := false }))
    ∧ ((portOf s f).role = 1 → (∀ x ∈ slotHolders s (coreOfPort f), x.ident.kind = .gateway) →
      (coreOf s (coreOfPort f)).taskq = [] → exec (.gatewayRoleTake f) s = .next (setPort s f { portOf s f with role := 0 }))
    ∧ (∀ v, v ≠ 0 → sHas s.dev.startPending f = false → (portOf s f).role < 2 → (mailWord s (0x100 + 32 * f + 16)).toNat < 16 →
      let t := setMail s (0x100 + 32 * f + 24) v
      exec (.gatewayStartWrite f v) s = .next { t with dev := { t.dev with startPending := sAdd t.dev.startPending f } })
    ∧ (sHas s.dev.startPending f = true → (portOf s f).role = 0 → roomFor s (coreOfPort f) 15 = true →
      let o := 0x100 + 32 * f
      exec (.gatewayFibreStart f) s = .next (addFibre
        (setMail { s with dev := { s.dev with startPending := sDel s.dev.startPending f } } (o + 24) 0)
        { writeShort Fibre.blank 1 (mailWord s (o + 8)) with
          core := coreOfPort f
          run := .eligible
          pc := mailWord s o &&& ~~~3
          pl := 2
          ident := { Ident.none with
            kind := .gateway
            tenant := BitVec.ofNat 4 (mailWord s (o + 16)).toNat
            tscope := 4 } })))
  ∧ (∀ s (ten : BitVec 4), exec (.tenantEnClear ten) s = .next (setTenant s ten.toNat { tenantOf s ten.toNat with en := false }))
  ∧ (∀ s host off n v, n = 0 ∨ 8 < off % 8 + n ∨ 2 ^ 24 ≤ off → exec (.deviceRegisterWrite host off n v) s = .next s)
  ∧ (∀ s host off n v, n ≠ 0 → off % 8 + n ≤ 8 → off < 2 ^ 24 →
      exec (.deviceRegisterWrite host off n v) s = .next (devWrite s (host || s.fib.pl == 2) off n v))

/-- R233-R243: the machine right after reset. A reset value that the model chose is no part of it (log entries 2 and 3). -/
def Obligations.ResetState : Prop :=
  let s := State.reset
  Safe s ∧ s.fib.run = .exited ∧ s.fibres = []
  ∧ (∀ c, (coreOf s c).taskq = [] ∧ (coreOf s c).fifo = [] ∧ (coreOf s c).bank = [] ∧ (coreOf s c).tiles = []
    ∧ (coreOf s c).book = [] ∧ (coreOf s c).kicks = [] ∧ (coreOf s c).hq = [])
  ∧ s.watches = [] ∧ (∀ a, 2 ^ 46 ≤ a → mget s.ms.mem a = 0) ∧ s.ms.full = [] ∧ s.ms.copies = []
  ∧ (∀ u, clockOf s u = 0) ∧ (∀ t k, (tenantOf s t).en = false ∧ tget 0 (tenantOf s t).masks k = 0)
  ∧ s.indexes = [] ∧ (∀ d, (recvOf s d).posted = [] ∧ (recvOf s d).unexp = []) ∧ s.dev.porten = 0x3FFF
  ∧ (∀ f, (portOf s f).role = 0 ∧ (portOf s f).txKey0 = none ∧ (portOf s f).txKey1 = none ∧ (portOf s f).rxKey0 = none
    ∧ (portOf s f).rxKey1 = none ∧ (portOf s f).limit = 0xFFF00000 ∧ lsecStat (portOf s f) = 0)
  ∧ s.dev.counters = [] ∧ s.dist.launches = [] ∧ s.dev.go = false

/-- Every step keeps the canonical form of memory: addresses strictly rising, no byte listed that reads as an unlisted one does. -/
def Obligations.StepKeepsMemoryCanonical : Prop := ∀ s t : State, Machine.step s = .next t → Canonical s → Canonical t

/-- R46, R93, R128, R253, R391, R405: a turn of a fibre fetches the word at its PC through its translation, as 4 bytes, the first the
least significant; a word that decodes to an instruction runs as exec of it in the state of the turn, one that does not raises its
cause, a fetch that fails raises its fault, and one whose word another module holds waits; a fibre whose trap was raised before its long
results were written takes it, and one whose instruction has been issued and waits goes on with it; an event that the agenda lays down runs; and what follows a step at once (R51, R364) is added. Where the agenda lays no turn down
the model chooses one (log entry 18): a fibre's, the state a unit's step gives, or a tick of the clock. -/
def Obligations.StepRunsInstruction : Prop :=
  (∀ (s : State) (n : Nat) (d : Bool) (rest : List Turn), s.dev.failed = false →
    s.sched.agenda = .issue n d :: rest → canIssue (beginTurn s) n = true →
      let t := takeTurn (beginTurn s) n d
      (∀ x, fibreOf s n = some x → Fetches x →
        (∀ i w r, fetchWord t = .word w r → decode (bytesOfWord w) = .ok (i, []) → Machine.step s = settled (exec i r))
        ∧ (∀ e w r, fetchWord t = .word w r → decodeWord w = .error e → Machine.step s = .next (settle (refuseWord r w e)))
        ∧ (∀ c, fetchWord t = .fault c → Machine.step s = .next (settle (raise (found t c) c t.fib.pc)))
        ∧ (∀ c, fetchWord t = .came c → Machine.step s = .next (settle (raise t c t.fib.pc)))
        ∧ (∀ r, fetchWord t = .later r → Machine.step s = .next (settle r)))
      ∧ (∀ x, fibreOf s n = some x → (∀ c v, x.run = .parked (.trap c v) → Machine.step s = .next (settle (raise t c v)))
        ∧ (x.run = .parked .doom → Machine.step s = .next (settle (endTrap t)))
        ∧ (∀ free dest fail w j, x.run = .parked (.job free dest fail w j) →
          Machine.step s = .next (settle (resumeWith t (jobUse free dest fail) (jobEff free dest j)))))
      ∧ (∀ a, translateFibre t t.fib .fetch t.fib.pc.toNat = .ok a → regionOf a.pa < 4 → isRemote t a.pa = false →
        outOfReach t t.fib a.pa = false → attrRefused t a = false → homeLost t a.pa = false →
        poisoned t a.pa 4 = false → t.ms.copies = [] → fetchWord t = .word (BitVec.ofNat 32 (mrd t.ms.mem a.pa 4)) t))
  ∧ (∀ (s : State) (e : Instr) (rest : List Turn), s.dev.failed = false → s.sched.agenda = .event e :: rest → isEvent e = true →
      Machine.step s = settled (exec e (beginTurn s)))
  ∧ (∀ (s : State), s.dev.failed = false → s.sched.agenda = [] →
    (∀ n x i w r, choose (beginTurn s) = .issue n → fibreOf s n = some x → Fetches x → fetchWord (takeTurn (beginTurn s) n false) = .word w r →
      decode (bytesOfWord w) = .ok (i, []) → Machine.step s = settled (exec i r))
    ∧ (∀ t, choose (beginTurn s) = .goto t → Machine.step s = .next (settle t))
    ∧ (choose (beginTurn s) = .tick → Machine.step s = settled (exec .clockTick (beginTurn s))))

end
end

