-- ==== Sys2Proof/Laws/Memory.lean ====
section
/-! SUPPORT. The laws of tables and of byte memory: a read after a write, writes elsewhere, and the canonical form that every
memory operation keeps. -/

namespace Sys2Proof.Laws

open Sys2Proof.Machine

/-- A table read after a write. -/
theorem tget_tset {α : Type} (d : α) (t : Tbl α) (k j : Nat) (v : α) :
    tget d (tset t k v) j = if k = j then v else tget d t j := by
  induction t with
  | nil => simp [tset, tget]
  | cons c r ih =>
    obtain ⟨a, b⟩ := c
    by_cases h1 : k < a
    · simp [tset, tget, h1]
    · by_cases h2 : k = a
      · subst h2
        by_cases h3 : k = j <;> simp [tset, tget, h3]
      · by_cases h3 : a = j
        · subst h3
          simp [tset, tget, h1, h2]
        · simp [tset, tget, h1, h2, h3, ih]

@[simp] theorem tget_tset_same {α : Type} (d : α) (t : Tbl α) (k : Nat) (v : α) : tget d (tset t k v) k = v := by
  simp [tget_tset]

/-- The canonical form from a bound implies it from a lower one. -/
theorem mwfFrom_mono {lo lo' : Nat} (m : List Host.Cell) (h : mwfFrom lo m = true) (hl : lo' ≤ lo) : mwfFrom lo' m = true := by
  cases m with
  | nil => rfl
  | cons c r =>
    obtain ⟨k, v⟩ := c
    simp only [mwfFrom, Bool.and_eq_true, decide_eq_true_eq] at h ⊢
    exact ⟨⟨by omega, h.1.2⟩, h.2⟩

/-- Below the bound of a canonical memory every byte reads 0. -/
theorem mget_below {lo a : Nat} (m : List Host.Cell) (h : mwfFrom lo m = true) (hl : a < lo) : mget m a = 0 := by
  induction m generalizing lo with
  | nil => rfl
  | cons c r ih =>
    obtain ⟨k, v⟩ := c
    simp only [mwfFrom, Bool.and_eq_true, decide_eq_true_eq] at h
    have hk : k ≠ a := by omega
    simp only [mget, hk, if_false]
    exact ih h.2 (by omega)

/-- A byte write keeps the canonical form. -/
theorem mwfFrom_mset {lo a : Nat} (m : List Host.Cell) (v : Byte) (h : mwfFrom lo m = true) (hl : lo ≤ a) :
    mwfFrom lo (mset m a v) = true := by
  induction m generalizing lo with
  | nil =>
    by_cases hv : v = 0#8 <;> simp [mset, mwfFrom, hv, hl]
  | cons c r ih =>
    obtain ⟨k, w⟩ := c
    simp only [mwfFrom, Bool.and_eq_true, decide_eq_true_eq] at h
    obtain ⟨⟨h1, h2⟩, h3⟩ := h
    by_cases hk : a < k
    · by_cases hv : v = 0#8
      · simpa [mset, hk, hv, mwfFrom, h1, h3] using h2
      · have hak : a + 1 ≤ k := hk
        simpa [mset, hk, hv, mwfFrom, hl, hak, h3] using h2
    · by_cases he : a = k
      · subst he
        by_cases hv : v = 0#8
        · have hs : mset ((a, w) :: r) a v = r := by simp [mset, hv]
          rw [hs]
          exact mwfFrom_mono r h3 (by omega)
        · simp [mset, hv, mwfFrom, hl, h3]
      · have : k + 1 ≤ a := by omega
        simp only [mset, hk, he, if_false, mwfFrom, h1, decide_true, h2, Bool.true_and]
        exact ih h3 this

/-- A byte write keeps a memory's canonical form. -/
@[simp] theorem memoryWf_mset (m : List Host.Cell) (a : Nat) (v : Byte) (h : memoryWf m = true) : memoryWf (mset m a v) = true :=
  mwfFrom_mset m v h (Nat.zero_le a)

/-- A wider write keeps the canonical form. -/
@[simp] theorem memoryWf_mwr (m : List Host.Cell) (a n v : Nat) (h : memoryWf m = true) : memoryWf (mwr m a n v) = true := by
  induction n generalizing m a v with
  | zero => exact h
  | succ k ih => exact ih _ _ _ (memoryWf_mset m a _ h)

/-- A memory from which bytes are removed keeps the canonical form. -/
theorem mwfFrom_filter {lo : Nat} (m : List Host.Cell) (p : Host.Cell → Bool) (h : mwfFrom lo m = true) :
    mwfFrom lo (m.filter p) = true := by
  induction m generalizing lo with
  | nil => rfl
  | cons c r ih =>
    obtain ⟨k, w⟩ := c
    simp only [mwfFrom, Bool.and_eq_true, decide_eq_true_eq] at h
    obtain ⟨⟨h1, h2⟩, h3⟩ := h
    by_cases hp : p (k, w) = true
    · simp only [List.filter_cons, hp, if_true, mwfFrom, Bool.and_eq_true, decide_eq_true_eq]
      exact ⟨⟨h1, h2⟩, ih h3⟩
    · simp only [List.filter_cons, hp, Bool.false_eq_true, if_false]
      exact mwfFrom_mono _ (ih h3) (by omega)

/-- Removing bytes keeps a memory's canonical form. -/
@[simp] theorem memoryWf_filter (m : List Host.Cell) (p : Host.Cell → Bool) (h : memoryWf m = true) : memoryWf (m.filter p) = true :=
  mwfFrom_filter m p h

/-- Zeroing a range keeps the canonical form. -/
@[simp] theorem memoryWf_mzero (m : List Host.Cell) (a n : Nat) (h : memoryWf m = true) : memoryWf (mzero m a n) = true :=
  memoryWf_filter m _ h

/-- Any succession of byte writes keeps the canonical form. -/
theorem memoryWf_foldl {α : Type} (l : List α) (f : List Host.Cell → α → List Host.Cell)
    (hf : ∀ m x, memoryWf m = true → memoryWf (f m x) = true) (m : List Host.Cell) (h : memoryWf m = true) :
    memoryWf (l.foldl f m) = true := by
  induction l generalizing m with
  | nil => exact h
  | cons x r ih => exact ih _ (hf m x h)

/-- A byte read after a byte write to a canonical memory. -/
theorem mget_mset_from {lo : Nat} (m : List Host.Cell) (a b : Nat) (v : Byte) (h : mwfFrom lo m = true) :
    mget (mset m a v) b = if a = b then v else mget m b := by
  induction m generalizing lo with
  | nil =>
    by_cases hv : v = 0#8
    · by_cases hb : a = b <;> simp [mset, mget, hv, hb]
    · by_cases hb : a = b <;> simp [mset, mget, hv, hb]
  | cons c r ih =>
    obtain ⟨k, w⟩ := c
    simp only [mwfFrom, Bool.and_eq_true, decide_eq_true_eq] at h
    obtain ⟨⟨h1, h2⟩, h3⟩ := h
    by_cases hk : a < k
    · by_cases hv : v = 0#8
      · by_cases hb : a = b
        · subst hb
          have hka : k ≠ a := by omega
          have hs : mset ((k, w) :: r) a v = (k, w) :: r := by simp [mset, hk, hv]
          rw [hs, if_pos rfl, hv]
          simp only [mget, hka, if_false]
          exact mget_below r h3 (by omega)
        · simp [mset, hk, hv, hb]
      · by_cases hb : a = b
        · subst hb
          simp [mset, mget, hk, hv]
        · simp [mset, mget, hk, hv, hb]
    · by_cases he : a = k
      · subst he
        by_cases hv : v = 0#8
        · by_cases hb : a = b
          · subst hb
            have hs : mset ((a, w) :: r) a v = r := by simp [mset, hv]
            rw [hs, if_pos rfl, hv]
            exact mget_below r h3 (by omega)
          · simp [mset, mget, hv, hb]
        · by_cases hb : a = b <;> simp [mset, mget, hv, hb]
      · simp only [mset, hk, he, if_false, mget]
        by_cases hb : k = b
        · have hab : a ≠ b := by omega
          simp [hb, hab]
        · simp only [hb, if_false]
          exact ih h3

/-- A byte read after a byte write. -/
theorem mget_mset (m : List Host.Cell) (a b : Nat) (v : Byte) (h : memoryWf m = true) :
    mget (mset m a v) b = if a = b then v else mget m b :=
  mget_mset_from m a b v h

/-- A write of `n` bytes leaves every other byte alone. -/
theorem mget_mwr_other (m : List Host.Cell) (a n v b : Nat) (h : memoryWf m = true) (hb : b < a ∨ a + n ≤ b) :
    mget (mwr m a n v) b = mget m b := by
  induction n generalizing m a v with
  | zero => rfl
  | succ k ih =>
    have hab : a ≠ b := by omega
    simp only [mwr]
    rw [ih _ _ _ (memoryWf_mset m a _ h) (by omega), mget_mset m a b _ h]
    simp [hab]

/-- A read of `n` bytes is fixed by those bytes. -/
theorem mrd_congr (m m' : List Host.Cell) (a n : Nat) (h : ∀ b, a ≤ b → b < a + n → mget m b = mget m' b) :
    mrd m a n = mrd m' a n := by
  induction n generalizing a with
  | zero => rfl
  | succ k ih =>
    simp only [mrd]
    rw [h a (by omega) (by omega), ih (a + 1) fun b h1 h2 => h b (by omega) (by omega)]

/-- A read of what a write has just written. -/
theorem mrd_mwr_same (m : List Host.Cell) (a n v : Nat) (h : memoryWf m = true) : mrd (mwr m a n v) a n = v % 256 ^ n := by
  induction n generalizing m a v with
  | zero => simp [mrd, Nat.mod_one]
  | succ k ih =>
    have hw := memoryWf_mset m a (BitVec.ofNat 8 v) h
    have hd : mrd (mwr m a (k + 1) v) (a + 1) k = v / 256 % 256 ^ k := by
      simp only [mwr]
      exact ih _ _ _ hw
    have hg : mget (mwr m a (k + 1) v) a = BitVec.ofNat 8 v := by
      simp only [mwr]
      rw [mget_mwr_other _ _ _ _ _ hw (by omega), mget_mset m a a _ h]
      simp
    simp only [mrd]
    rw [hd, hg, Nat.pow_succ, Nat.mul_comm (256 ^ k) 256, Nat.mod_mul]
    simp

/-- Two canonical memories that read alike are equal. -/
theorem mwf_ext {lo : Nat} (m m' : List Host.Cell) (h : mwfFrom lo m = true) (h' : mwfFrom lo m' = true)
    (he : ∀ a, mget m a = mget m' a) : m = m' := by
  induction m generalizing m' lo with
  | nil =>
    cases m' with
    | nil => rfl
    | cons c r =>
      obtain ⟨k, v⟩ := c
      simp only [mwfFrom, Bool.and_eq_true, decide_eq_true_eq, bne_iff_ne] at h'
      have := he k
      simp only [mget, if_true] at this
      exact absurd this.symm h'.1.2
  | cons c r ih =>
    obtain ⟨k, v⟩ := c
    cases m' with
    | nil =>
      simp only [mwfFrom, Bool.and_eq_true, decide_eq_true_eq, bne_iff_ne] at h
      have := he k
      simp only [mget, if_true] at this
      exact absurd this h.1.2
    | cons c' r' =>
      obtain ⟨k', v'⟩ := c'
      simp only [mwfFrom, Bool.and_eq_true, decide_eq_true_eq, bne_iff_ne] at h h'
      have hkk : k = k' := by
        rcases Nat.lt_trichotomy k k' with hlt | heq | hgt
        · have := he k
          have hne : k' ≠ k := by omega
          simp only [mget, if_true, hne, if_false] at this
          rw [mget_below r' h'.2 (by omega)] at this
          exact absurd this h.1.2
        · exact heq
        · have := he k'
          have hne : k ≠ k' := by omega
          simp only [mget, if_true, hne, if_false] at this
          rw [mget_below r h.2 (by omega)] at this
          exact absurd this.symm h'.1.2
      subst hkk
      have hv := he k
      simp only [mget, if_true] at hv
      have hr : r = r' := ih r' h.2 h'.2 fun a => by
        have ha := he a
        by_cases hka : k = a
        · subst hka
          rw [mget_below r h.2 (by omega), mget_below r' h'.2 (by omega)]
        · simpa only [mget, hka, if_false] using ha
      rw [hv, hr]

end Sys2Proof.Laws
end

