-- ==== Sys2Proof/Laws/Canonical.lean ====
section
/-! SUPPORT. Every operation that answers a state keeps the canonical form of memory: either it leaves memory as it was
(`mem_<operation>`) or, given that form before, memory has it afterwards (`wf_<operation>`). One lemma per operation, all
of them simp lemmas, so that a caller's proof cites them and opens no operation. -/

namespace Sys2Proof.Laws
open Sys2Proof.Machine
set_option Elab.async false

theorem foldl_mem {α : Type} (l : List α) (f : State → α → State) (s : State) (h : ∀ s x, (f s x).ms.mem = s.ms.mem) :
    (l.foldl f s).ms.mem = s.ms.mem := by
  induction l generalizing s with
  | nil => rfl
  | cons x t ih => rw [List.foldl_cons, ih, h]

theorem foldl_wf {α : Type} (l : List α) (f : State → α → State) (s : State) (hs : memoryWf s.ms.mem = true)
    (h : ∀ s x, memoryWf s.ms.mem = true → memoryWf (f s x).ms.mem = true) : memoryWf (l.foldl f s).ms.mem = true := by
  induction l generalizing s with
  | nil => exact hs
  | cons x t ih => exact ih _ (h s x hs)

@[simp] theorem mem_IxView_s (self : IxView) : (IxView.s self).ms.mem = self.s.ms.mem := by
  unfold IxView.s
  (try dsimp only)
  repeat' (first | rfl | assumption | (with_reducible refine (foldl_mem _ _ _ ?_).trans ?_; intro _ _) | split)
  all_goals (first | rfl | simp)

@[simp] theorem mem_setCore (s : State) (c : Nat) (x : Core) : (setCore s c x).ms.mem = s.ms.mem := by
  unfold setCore
  (try dsimp only)
  repeat' (first | rfl | assumption | (with_reducible refine (foldl_mem _ _ _ ?_).trans ?_; intro _ _) | split)
  all_goals (first | rfl | simp)

@[simp] theorem mem_nextTurn (s : State) (n : Nat) (core : Nat) : (nextTurn s n core).ms.mem = s.ms.mem := by
  unfold nextTurn
  (try dsimp only)
  repeat' (first | rfl | assumption | (with_reducible refine (foldl_mem _ _ _ ?_).trans ?_; intro _ _) | split)
  all_goals (first | rfl | simp)

@[simp] theorem wf_placeWord (s : State) (pa : Nat) (w : BitVec 32) (hw : memoryWf s.ms.mem = true) : memoryWf (placeWord s pa w).ms.mem = true := by
  unfold placeWord
  (try dsimp only)
  repeat' (first | assumption | (with_reducible refine foldl_wf _ _ _ ?_ ?_; rotate_left; intro _ _ _) | split)
  all_goals (simp (maxDischargeDepth := 9) [*])

@[simp] theorem wf_bootTables (s : State) (hw : memoryWf s.ms.mem = true) : memoryWf (bootTables s) = true := by
  simp [bootTables, hw]

@[simp] theorem mem_addFibre (s : State) (f : Fibre) : (addFibre s f).ms.mem = s.ms.mem := by
  unfold addFibre
  (try dsimp only)
  repeat' (first | rfl | assumption | (with_reducible refine (foldl_mem _ _ _ ?_).trans ?_; intro _ _) | split)
  all_goals (first | rfl | simp)

@[simp] theorem mem_startBoot (s : State) : (startBoot s).ms.mem = s.ms.mem := by
  unfold startBoot
  (try dsimp only)
  repeat' (first | rfl | assumption | (with_reducible refine (foldl_mem _ _ _ ?_).trans ?_; intro _ _) | split)
  all_goals (first | rfl | simp)

@[simp] theorem mem_setMail (s : State) (off : Nat) (v : Sys2Proof.Word) : (setMail s off v).ms.mem = s.ms.mem := by
  unfold setMail
  (try dsimp only)
  repeat' (first | rfl | assumption | (with_reducible refine (foldl_mem _ _ _ ?_).trans ?_; intro _ _) | split)
  all_goals (first | rfl | simp)

@[simp] theorem wf_bootWith (s : State) (w : BitVec 32) (hw : memoryWf s.ms.mem = true) : memoryWf (bootWith s w).ms.mem = true := by
  unfold bootWith
  (try dsimp only)
  repeat' (first | assumption | (with_reducible refine foldl_wf _ _ _ ?_ ?_; rotate_left; intro _ _ _) | split)
  all_goals (simp (maxDischargeDepth := 9) [*])

@[simp] theorem wf_placeInstr (s : State) (w : BitVec 32) (hw : memoryWf s.ms.mem = true) : memoryWf (placeInstr s w).ms.mem = true := by
  unfold placeInstr
  (try dsimp only)
  repeat' (first | assumption | (with_reducible refine foldl_wf _ _ _ ?_ ?_; rotate_left; intro _ _ _) | split)
  all_goals (simp (maxDischargeDepth := 9) [*])

@[simp] theorem wf_State_withFetchWord (s : State) (nbits : Nat) (w : Nat) (hw : memoryWf s.ms.mem = true) : memoryWf (State.withFetchWord s nbits w).ms.mem = true := by
  unfold State.withFetchWord
  (try dsimp only)
  repeat' (first | assumption | (with_reducible refine foldl_wf _ _ _ ?_ ?_; rotate_left; intro _ _ _) | split)
  all_goals (simp (maxDischargeDepth := 9) [*])

@[simp] theorem mem_raiseClock (s : State) (u : Nat) (c : Nat) : (raiseClock s u c).ms.mem = s.ms.mem := by
  unfold raiseClock
  (try dsimp only)
  repeat' (first | rfl | assumption | (with_reducible refine (foldl_mem _ _ _ ?_).trans ?_; intro _ _) | split)
  all_goals (first | rfl | simp)

@[simp] theorem mem_deliver (s : State) (f : Nat) (parts : List (List Sys2Proof.Byte)) : (deliver s f parts).ms.mem = s.ms.mem := by
  unfold deliver
  (try dsimp only)
  repeat' (first | rfl | assumption | (with_reducible refine (foldl_mem _ _ _ ?_).trans ?_; intro _ _) | split)
  all_goals (first | rfl | simp)

@[simp] theorem mem_setPort (s : State) (f : Nat) (p : Port) : (setPort s f p).ms.mem = s.ms.mem := by
  unfold setPort
  (try dsimp only)
  repeat' (first | rfl | assumption | (with_reducible refine (foldl_mem _ _ _ ?_).trans ?_; intro _ _) | split)
  all_goals (first | rfl | simp)

@[simp] theorem mem_acceptFlit (s : State) (f : Nat) (x : Sys2Proof.Flit) (payload : List Sys2Proof.Byte) : (acceptFlit s f x payload).ms.mem = s.ms.mem := by
  unfold acceptFlit
  (try dsimp only)
  repeat' (first | rfl | assumption | (with_reducible refine (foldl_mem _ _ _ ?_).trans ?_; intro _ _) | split)
  all_goals (first | rfl | simp)

@[simp] theorem mem_arrived (s : State) (p : Sys2Proof.Packet) : (arrived s p).ms.mem = s.ms.mem := by
  unfold arrived
  (try dsimp only)
  repeat' (first | rfl | assumption | (with_reducible refine (foldl_mem _ _ _ ?_).trans ?_; intro _ _) | split)
  all_goals (first | rfl | simp)

@[simp] theorem mem_setPair (s : State) (k : Nat) (p : Pair) : (setPair s k p).ms.mem = s.ms.mem := by
  unfold setPair
  (try dsimp only)
  repeat' (first | rfl | assumption | (with_reducible refine (foldl_mem _ _ _ ?_).trans ?_; intro _ _) | split)
  all_goals (first | rfl | simp)

@[simp] theorem mem_countDrop (s : State) : (countDrop s).ms.mem = s.ms.mem := by
  unfold countDrop
  (try dsimp only)
  repeat' (first | rfl | assumption | (with_reducible refine (foldl_mem _ _ _ ?_).trans ?_; intro _ _) | split)
  all_goals (first | rfl | simp)

@[simp] theorem mem_sendPacket (s : State) (p : Sys2Proof.Packet) : (sendPacket s p).ms.mem = s.ms.mem := by
  unfold sendPacket
  (try dsimp only)
  repeat' (first | rfl | assumption | (with_reducible refine (foldl_mem _ _ _ ?_).trans ?_; intro _ _) | split)
  all_goals (first | rfl | simp)

@[simp] theorem mem_countWindow (s : State) (ten : BitVec 4) (c : Nat) : (countWindow s ten c).ms.mem = s.ms.mem := by
  unfold countWindow
  (try dsimp only)
  repeat' (first | rfl | assumption | (with_reducible refine (foldl_mem _ _ _ ?_).trans ?_; intro _ _) | split)
  all_goals (first | rfl | simp)

@[simp] theorem mem_answer (s : State) (p : Sys2Proof.Packet) (kind : Nat) (status : Nat) (area : List Sys2Proof.Byte) (data : List Sys2Proof.Byte) : (answer s p kind status area data).ms.mem = s.ms.mem := by
  unfold answer
  (try dsimp only)
  repeat' (first | rfl | assumption | (with_reducible refine (foldl_mem _ _ _ ?_).trans ?_; intro _ _) | split)
  all_goals (first | rfl | simp)

@[simp] theorem mem_acceptRequest (s : State) (p : Sys2Proof.Packet) : (acceptRequest s p).ms.mem = s.ms.mem := by
  unfold acceptRequest
  (try dsimp only)
  repeat' (first | rfl | assumption | (with_reducible refine (foldl_mem _ _ _ ?_).trans ?_; intro _ _) | split)
  all_goals (first | rfl | simp)

@[simp] theorem mem_setTileEnt (s : State) (core : Nat) (k : Nat) (e : BitVec 64) : (setTileEnt s core k e).ms.mem = s.ms.mem := by
  unfold setTileEnt
  (try dsimp only)
  repeat' (first | rfl | assumption | (with_reducible refine (foldl_mem _ _ _ ?_).trans ?_; intro _ _) | split)
  all_goals (first | rfl | simp)

@[simp] theorem mem_setTileState (s : State) (core : Nat) (k : Nat) (st : Nat) : (setTileState s core k st).ms.mem = s.ms.mem := by
  unfold setTileState
  (try dsimp only)
  repeat' (first | rfl | assumption | (with_reducible refine (foldl_mem _ _ _ ?_).trans ?_; intro _ _) | split)
  all_goals (first | rfl | simp)

@[simp] theorem mem_acceptSearch (s : State) (n : Nat) : (acceptSearch s n).ms.mem = s.ms.mem := by
  unfold acceptSearch
  (try dsimp only)
  repeat' (first | rfl | assumption | (with_reducible refine (foldl_mem _ _ _ ?_).trans ?_; intro _ _) | split)
  all_goals (first | rfl | simp)

@[simp] theorem mem_freshId (s : State) : (freshId s).2.ms.mem = s.ms.mem := by
  unfold freshId
  (try dsimp only)
  repeat' (first | rfl | assumption | (with_reducible refine (foldl_mem _ _ _ ?_).trans ?_; intro _ _) | split)
  all_goals (first | rfl | simp)

@[simp] theorem mem_askWalk (s : State) (space : Nat) (va : Sys2Proof.Word) : (askWalk s space va).2.ms.mem = s.ms.mem := by
  unfold askWalk
  (try dsimp only)
  repeat' (first | rfl | assumption | (with_reducible refine (foldl_mem _ _ _ ?_).trans ?_; intro _ _) | split)
  all_goals (first | rfl | simp)

@[simp] theorem mem_tellModule (s : State) (f : Fibre) (m : Nat) (n : Nat) (code : Nat) (v : Sys2Proof.Word) (data : List Sys2Proof.Byte) : (tellModule s f m n code v data).ms.mem = s.ms.mem := by
  unfold tellModule
  (try dsimp only)
  repeat' (first | rfl | assumption | (with_reducible refine (foldl_mem _ _ _ ?_).trans ?_; intro _ _) | split)
  all_goals (first | rfl | simp)

@[simp] theorem mem_tellHome (s : State) (f : Fibre) (m : Nat) (n : Nat) (code : Nat) (v : Sys2Proof.Word) : (tellHome s f m n code v).ms.mem = s.ms.mem := by
  unfold tellHome
  (try dsimp only)
  repeat' (first | rfl | assumption | (with_reducible refine (foldl_mem _ _ _ ?_).trans ?_; intro _ _) | split)
  all_goals (first | rfl | simp)

@[simp] theorem mem_askHome (s : State) (va : Sys2Proof.Word) : (askHome s va).2.ms.mem = s.ms.mem := by
  unfold askHome
  (try dsimp only)
  repeat' (first | rfl | assumption | (with_reducible refine (foldl_mem _ _ _ ?_).trans ?_; intro _ _) | split)
  all_goals (first | rfl | simp)

@[simp] theorem mem_noteTlb (s : State) (core : Nat) (space : Nat) (a : Acc) : (noteTlb s core space a).ms.mem = s.ms.mem := by
  unfold noteTlb
  (try dsimp only)
  repeat' (first | rfl | assumption | (with_reducible refine (foldl_mem _ _ _ ?_).trans ?_; intro _ _) | split)
  all_goals (first | rfl | simp)

@[simp] theorem mem_acquireCopies (s : State) (core : Nat) (lv : Nat) : (acquireCopies s core lv).ms.mem = s.ms.mem := by
  unfold acquireCopies
  (try dsimp only)
  repeat' (first | rfl | assumption | (with_reducible refine (foldl_mem _ _ _ ?_).trans ?_; intro _ _) | split)
  all_goals (first | rfl | simp)

@[simp] theorem mem_endLeases (s : State) (core : Nat) : (endLeases s core).ms.mem = s.ms.mem := by
  unfold endLeases
  (try dsimp only)
  repeat' (first | rfl | assumption | (with_reducible refine (foldl_mem _ _ _ ?_).trans ?_; intro _ _) | split)
  all_goals (first | rfl | simp)

@[simp] theorem mem_acquireLv (s : State) (core : Nat) (sc : BitVec 4) (lv : Nat) : (acquireLv s core sc lv).ms.mem = s.ms.mem := by
  unfold acquireLv
  (try dsimp only)
  repeat' (first | rfl | assumption | (with_reducible refine (foldl_mem _ _ _ ?_).trans ?_; intro _ _) | split)
  all_goals (first | rfl | simp)

@[simp] theorem mem_acqEffect (s : State) (r : Req) : (acqEffect s r).ms.mem = s.ms.mem := by
  unfold acqEffect
  (try dsimp only)
  repeat' (first | rfl | assumption | (with_reducible refine (foldl_mem _ _ _ ?_).trans ?_; intro _ _) | split)
  all_goals (first | rfl | simp)

@[simp] theorem mem_acquireAt (s : State) (ten : BitVec 4) (core : Nat) (sc : BitVec 4) : (acquireAt s ten core sc).ms.mem = s.ms.mem := by
  unfold acquireAt
  (try dsimp only)
  repeat' (first | rfl | assumption | (with_reducible refine (foldl_mem _ _ _ ?_).trans ?_; intro _ _) | split)
  all_goals (first | rfl | simp)

@[simp] theorem wf_acquires (l : List Nat) (s : State) (t : BitVec 4) (sc : BitVec 4) (hw : memoryWf s.ms.mem = true) :
    memoryWf (l.foldl (fun s c => acquireAt s t c sc) s).ms.mem = true :=
  foldl_wf _ _ _ hw fun s k h => by simp [h]

@[simp] theorem mem_modFibre (s : State) (f : Nat) (g : Fibre → Fibre) : (modFibre s f g).ms.mem = s.ms.mem := by
  unfold modFibre
  (try dsimp only)
  repeat' (first | rfl | assumption | (with_reducible refine (foldl_mem _ _ _ ?_).trans ?_; intro _ _) | split)
  all_goals (first | rfl | simp)

@[simp] theorem mem_addFailure (s : State) (f : Nat) (e : Failure) : (addFailure s f e).ms.mem = s.ms.mem := by
  unfold addFailure
  (try dsimp only)
  repeat' (first | rfl | assumption | (with_reducible refine (foldl_mem _ _ _ ?_).trans ?_; intro _ _) | split)
  all_goals (first | rfl | simp)

@[simp] theorem mem_addOutst (s : State) (o : Outst) : (addOutst s o).ms.mem = s.ms.mem := by
  unfold addOutst
  (try dsimp only)
  repeat' (first | rfl | assumption | (with_reducible refine (foldl_mem _ _ _ ?_).trans ?_; intro _ _) | split)
  all_goals (first | rfl | simp)

@[simp] theorem mem_afterReads (s : State) (u : Use) : (afterReads s u).ms.mem = s.ms.mem := by
  unfold afterReads
  (try dsimp only)
  repeat' (first | rfl | assumption | (with_reducible refine (foldl_mem _ _ _ ?_).trans ?_; intro _ _) | split)
  all_goals (first | rfl | simp)

@[simp] theorem mem_completeFl (s : State) (n : Nat) (r : Option Sys2Proof.Word) (fl : BitVec 5) : (completeFl s n r fl).ms.mem = s.ms.mem := by
  unfold completeFl
  (try dsimp only)
  repeat' (first | rfl | assumption | (with_reducible refine (foldl_mem _ _ _ ?_).trans ?_; intro _ _) | split)
  all_goals (first | rfl | simp)

@[simp] theorem mem_complete (s : State) (n : Nat) (r : Option Sys2Proof.Word) : (complete s n r).ms.mem = s.ms.mem := by
  unfold complete
  (try dsimp only)
  repeat' (first | rfl | assumption | (with_reducible refine (foldl_mem _ _ _ ?_).trans ?_; intro _ _) | split)
  all_goals (first | rfl | simp)

@[simp] theorem mem_alignTimeout (s : State) (n : Nat) : (alignTimeout s n).ms.mem = s.ms.mem := by
  unfold alignTimeout
  (try dsimp only)
  repeat' (first | rfl | assumption | (with_reducible refine (foldl_mem _ _ _ ?_).trans ?_; intro _ _) | split)
  all_goals (first | rfl | simp)

@[simp] theorem mem_dropFar (s : State) (o : FarOwner) : (dropFar s o).ms.mem = s.ms.mem := by
  unfold dropFar
  (try dsimp only)
  repeat' (first | rfl | assumption | (with_reducible refine (foldl_mem _ _ _ ?_).trans ?_; intro _ _) | split)
  all_goals (first | rfl | simp)

@[simp] theorem mem_dropOutst (s : State) (id : Nat) : (dropOutst s id).ms.mem = s.ms.mem := by
  unfold dropOutst
  (try dsimp only)
  repeat' (first | rfl | assumption | (with_reducible refine (foldl_mem _ _ _ ?_).trans ?_; intro _ _) | split)
  all_goals (first | rfl | simp)

@[simp] theorem mem_sendFar (s : State) (o : FarOwner) (op : Nat) (r : Req) (src : BitVec 26) : (sendFar s o op r src).ms.mem = s.ms.mem := by
  unfold sendFar
  (try dsimp only)
  repeat' (first | rfl | assumption | (with_reducible refine (foldl_mem _ _ _ ?_).trans ?_; intro _ _) | split)
  all_goals (first | rfl | simp)

@[simp] theorem mem_sendWord (s : State) (o : FarOwner) (core : Nat) (ten : BitVec 4) (pa : Nat) (va : Sys2Proof.Word) (v : Sys2Proof.Word) (scope : BitVec 4) : (sendWord s o core ten pa va v scope).ms.mem = s.ms.mem := by
  unfold sendWord
  (try dsimp only)
  repeat' (first | rfl | assumption | (with_reducible refine (foldl_mem _ _ _ ?_).trans ?_; intro _ _) | split)
  all_goals (first | rfl | simp)

@[simp] theorem mem_setFull (s : State) (pa : Nat) (b : Bool) : (setFull s pa b).ms.mem = s.ms.mem := by
  unfold setFull
  (try dsimp only)
  repeat' (first | rfl | assumption | (with_reducible refine (foldl_mem _ _ _ ?_).trans ?_; intro _ _) | split)
  all_goals (first | rfl | simp)

@[simp] theorem mem_exchange (s : State) (a : Nat) (b : Nat) : (exchange s a b).ms.mem = s.ms.mem := by
  unfold exchange
  (try dsimp only)
  repeat' (first | rfl | assumption | (with_reducible refine (foldl_mem _ _ _ ?_).trans ?_; intro _ _) | split)
  all_goals (first | rfl | simp)

@[simp] theorem mem_setTs (s : State) (k : Nat) (t : LineTs) : (setTs s k t).ms.mem = s.ms.mem := by
  unfold setTs
  (try dsimp only)
  repeat' (first | rfl | assumption | (with_reducible refine (foldl_mem _ _ _ ?_).trans ?_; intro _ _) | split)
  all_goals (first | rfl | simp)

@[simp] theorem mem_scStoreTs (s : State) (k : Nat) (c : Nat) : (scStoreTs s k c).2.ms.mem = s.ms.mem := by
  unfold scStoreTs
  (try dsimp only)
  repeat' (first | rfl | assumption | (with_reducible refine (foldl_mem _ _ _ ?_).trans ?_; intro _ _) | split)
  all_goals (first | rfl | simp)

@[simp] theorem wf_wrHome (s : State) (pa : Nat) (n : Nat) (v : Nat) (hw : memoryWf s.ms.mem = true) : memoryWf (wrHome s pa n v).ms.mem = true := by
  unfold wrHome
  (try dsimp only)
  repeat' (first | assumption | (with_reducible refine foldl_wf _ _ _ ?_ ?_; rotate_left; intro _ _ _) | split)
  all_goals (simp (maxDischargeDepth := 9) [*])

@[simp] theorem wf_wrHomes (l : List Nat) (f n v : Nat → Nat) (s : State) (hw : memoryWf s.ms.mem = true) :
    memoryWf (l.foldl (fun s k => wrHome s (f k) (n k) (v k)) s).ms.mem = true :=
  foldl_wf _ _ _ hw fun s k h => by simp [h]

@[simp] theorem wf_putWord (s : State) (core : Nat) (pa : Nat) (v : Nat) (hw : memoryWf s.ms.mem = true) : memoryWf (putWord s core pa v).ms.mem = true := by
  unfold putWord
  (try dsimp only)
  repeat' (first | assumption | (with_reducible refine foldl_wf _ _ _ ?_ ?_; rotate_left; intro _ _ _) | split)
  all_goals (simp (maxDischargeDepth := 9) [*])

@[simp] theorem wf_putFull (s : State) (core : Nat) (ten : BitVec 4) (mon : Bool) (scope : BitVec 4) (pa : Nat) (v : Nat) (hw : memoryWf s.ms.mem = true) : memoryWf (putFull s core ten mon scope pa v).ms.mem = true := by
  unfold putFull
  (try dsimp only)
  repeat' (first | assumption | (with_reducible refine foldl_wf _ _ _ ?_ ?_; rotate_left; intro _ _ _) | split)
  all_goals (simp (maxDischargeDepth := 9) [*])

@[simp] theorem wf_homeBytes (s : State) (out : List CopyByte) (hw : memoryWf s.ms.mem = true) : memoryWf (homeBytes s out).ms.mem = true := by
  unfold homeBytes
  exact memoryWf_foldl _ _ (fun m x h => memoryWf_mset m _ _ h) _ hw

@[simp] theorem wf_storeBack (s : State) (clk : Nat → Nat) (out : List CopyByte) (hw : memoryWf s.ms.mem = true) : memoryWf (storeBack s clk out).ms.mem = true := by
  unfold storeBack
  exact wf_homeBytes _ _ (foldl_wf _ _ _ hw fun s k h => by simp [h])

@[simp] theorem wf_pushL1 (s : State) (core : Nat) (p : Nat → Bool) (hw : memoryWf s.ms.mem = true) : memoryWf (pushL1 s core p).ms.mem = true := by
  unfold pushL1
  exact wf_storeBack _ _ _ hw

@[simp] theorem wf_pushL2 (s : State) (die : Nat) (p : Nat → Bool) (hw : memoryWf s.ms.mem = true) : memoryWf (pushL2 s die p).ms.mem = true := by
  unfold pushL2
  exact wf_storeBack _ _ _ hw

@[simp] theorem wf_releaseCopies (s : State) (core : Nat) (level : Nat) (hw : memoryWf s.ms.mem = true) : memoryWf (releaseCopies s core level).ms.mem = true := by
  unfold releaseCopies
  (try dsimp only)
  repeat' (first | assumption | (with_reducible refine foldl_wf _ _ _ ?_ ?_; rotate_left; intro _ _ _) | split)
  all_goals (simp (maxDischargeDepth := 9) [*])

@[simp] theorem wf_stampWord (s : State) (core : Nat) (ten : BitVec 4) (mon : Bool) (scope : BitVec 4) (lv : Nat) (pa : Nat) (v : Nat) (hw : memoryWf s.ms.mem = true) : memoryWf (stampWord s core ten mon scope lv pa v).ms.mem = true := by
  unfold stampWord
  (try dsimp only)
  repeat' (first | assumption | (with_reducible refine foldl_wf _ _ _ ?_ ?_; rotate_left; intro _ _ _) | split)
  all_goals (simp (maxDischargeDepth := 9) [*])

@[simp] theorem wf_fullWord (s : State) (core : Nat) (ten : BitVec 4) (mon : Bool) (scope : BitVec 4) (pa : Nat) (v : Nat) (hw : memoryWf s.ms.mem = true) : memoryWf (fullWord s core ten mon scope pa v).ms.mem = true := by
  unfold fullWord
  (try dsimp only)
  repeat' (first | assumption | (with_reducible refine foldl_wf _ _ _ ?_ ?_; rotate_left; intro _ _ _) | split)
  all_goals (simp (maxDischargeDepth := 9) [*])

@[simp] theorem wf_completeWord (s : State) (o : Outst) (v : Nat) (hw : memoryWf s.ms.mem = true) : memoryWf (completeWord s o v).ms.mem = true := by
  unfold completeWord
  (try dsimp only)
  repeat' (first | assumption | (with_reducible refine foldl_wf _ _ _ ?_ ?_; rotate_left; intro _ _ _) | split)
  all_goals (simp (maxDischargeDepth := 9) [*])

@[simp] theorem mem_switchTo (s : State) (f : Nat) : (switchTo s f).ms.mem = s.ms.mem := by
  unfold switchTo
  (try dsimp only)
  repeat' (first | rfl | assumption | (with_reducible refine (foldl_mem _ _ _ ?_).trans ?_; intro _ _) | split)
  all_goals (first | rfl | simp)

@[simp] theorem wf_releaseAt (s : State) (ten : BitVec 4) (core : Nat) (sc : BitVec 4) (hw : memoryWf s.ms.mem = true) : memoryWf (releaseAt s ten core sc).ms.mem = true := by
  unfold releaseAt
  (try dsimp only)
  repeat' (first | assumption | (with_reducible refine foldl_wf _ _ _ ?_ ?_; rotate_left; intro _ _ _) | split)
  all_goals (simp (maxDischargeDepth := 9) [*])

@[simp] theorem wf_taskReturn (s : State) (f : Fibre) (v : Sys2Proof.Word) (hw : memoryWf s.ms.mem = true) : memoryWf (taskReturn s f v).ms.mem = true := by
  unfold taskReturn
  (try dsimp only)
  repeat' (first | assumption | (with_reducible refine foldl_wf _ _ _ ?_ ?_; rotate_left; intro _ _ _) | split)
  all_goals (simp (maxDischargeDepth := 9) [*])

@[simp] theorem wf_newsOfEnd (s : State) (f : Fibre) (v : Sys2Proof.Word) (hw : memoryWf s.ms.mem = true) : memoryWf (newsOfEnd s f v).ms.mem = true := by
  unfold newsOfEnd
  (try dsimp only)
  repeat' (first | assumption | (with_reducible refine foldl_wf _ _ _ ?_ ?_; rotate_left; intro _ _ _) | split)
  all_goals (simp (maxDischargeDepth := 9) [*])

@[simp] theorem mem_setArray (s : State) (cl : Nat) (a : MArray) : (setArray s cl a).ms.mem = s.ms.mem := by
  unfold setArray
  (try dsimp only)
  repeat' (first | rfl | assumption | (with_reducible refine (foldl_mem _ _ _ ?_).trans ?_; intro _ _) | split)
  all_goals (first | rfl | simp)

@[simp] theorem mem_giveBack (s : State) (f : Fibre) : (giveBack s f).ms.mem = s.ms.mem := by
  unfold giveBack
  (try dsimp only)
  repeat' (first | rfl | assumption | (with_reducible refine (foldl_mem _ _ _ ?_).trans ?_; intro _ _) | split)
  all_goals (first | rfl | simp)

@[simp] theorem mem_setWalker (s : State) (cl : Nat) (w : Walker) : (setWalker s cl w).ms.mem = s.ms.mem := by
  unfold setWalker
  (try dsimp only)
  repeat' (first | rfl | assumption | (with_reducible refine (foldl_mem _ _ _ ?_).trans ?_; intro _ _) | split)
  all_goals (first | rfl | simp)

@[simp] theorem mem_nodeExit (s : State) (f : Fibre) : (nodeExit s f).ms.mem = s.ms.mem := by
  unfold nodeExit
  (try dsimp only)
  repeat' (first | rfl | assumption | (with_reducible refine (foldl_mem _ _ _ ?_).trans ?_; intro _ _) | split)
  all_goals (first | rfl | simp)

@[simp] theorem mem_modGang (s : State) (g : Nat) (h : Gang → Gang) : (modGang s g h).ms.mem = s.ms.mem := by
  unfold modGang
  (try dsimp only)
  repeat' (first | rfl | assumption | (with_reducible refine (foldl_mem _ _ _ ?_).trans ?_; intro _ _) | split)
  all_goals (first | rfl | simp)

@[simp] theorem mem_freeRegion (s : State) (r : Option (Option Nat)) : (freeRegion s r).ms.mem = s.ms.mem := by
  unfold freeRegion
  (try dsimp only)
  repeat' (first | rfl | assumption | (with_reducible refine (foldl_mem _ _ _ ?_).trans ?_; intro _ _) | split)
  all_goals (first | rfl | simp)

@[simp] theorem mem_settleLaunch (s : State) (n : Nat) : (settleLaunch s n).ms.mem = s.ms.mem := by
  unfold settleLaunch
  (try dsimp only)
  repeat' (first | rfl | assumption | (with_reducible refine (foldl_mem _ _ _ ?_).trans ?_; intro _ _) | split)
  all_goals (first | rfl | simp)

@[simp] theorem mem_settleGang (s : State) (g : Nat) : (settleGang s g).ms.mem = s.ms.mem := by
  unfold settleGang
  (try dsimp only)
  repeat' (first | rfl | assumption | (with_reducible refine (foldl_mem _ _ _ ?_).trans ?_; intro _ _) | split)
  all_goals (first | rfl | simp)

@[simp] theorem wf_endFibre (s : State) (n : Nat) (v : Sys2Proof.Word) (hw : memoryWf s.ms.mem = true) : memoryWf (endFibre s n v).ms.mem = true := by
  unfold endFibre
  (try dsimp only)
  repeat' (first | assumption | (with_reducible refine foldl_wf _ _ _ ?_ ?_; rotate_left; intro _ _ _) | split)
  all_goals (simp (maxDischargeDepth := 9) [*])

@[simp] theorem mem_parkOn (s : State) (w : Wait) : (parkOn s w).ms.mem = s.ms.mem := by
  unfold parkOn
  (try dsimp only)
  repeat' (first | rfl | assumption | (with_reducible refine (foldl_mem _ _ _ ?_).trans ?_; intro _ _) | split)
  all_goals (first | rfl | simp)

@[simp] theorem wf_endTrap (s : State) (hw : memoryWf s.ms.mem = true) : memoryWf (endTrap s).ms.mem = true := by
  unfold endTrap
  (try dsimp only)
  repeat' (first | assumption | (with_reducible refine foldl_wf _ _ _ ?_ ?_; rotate_left; intro _ _ _) | split)
  all_goals (simp (maxDischargeDepth := 9) [*])

@[simp] theorem wf_takeTrap (s : State) (c : Nat) (v : Sys2Proof.Word) (epc : Sys2Proof.Word) (hcall : Bool) (hw : memoryWf s.ms.mem = true) : memoryWf (takeTrap s c v epc hcall).ms.mem = true := by
  unfold takeTrap
  (try dsimp only)
  repeat' (first | assumption | (with_reducible refine foldl_wf _ _ _ ?_ ?_; rotate_left; intro _ _ _) | split)
  all_goals (simp (maxDischargeDepth := 9) [*])

@[simp] theorem mem_found (s : State) (c : Nat) : (found s c).ms.mem = s.ms.mem := by
  unfold found
  (try dsimp only)
  repeat' (first | rfl | assumption | (with_reducible refine (foldl_mem _ _ _ ?_).trans ?_; intro _ _) | split)
  all_goals (first | rfl | simp)

@[simp] theorem wf_raise (s : State) (c : Nat) (v : Sys2Proof.Word) (hw : memoryWf s.ms.mem = true) : memoryWf (raise s c v).ms.mem = true := by
  unfold raise
  (try dsimp only)
  repeat' (first | assumption | (with_reducible refine foldl_wf _ _ _ ?_ ?_; rotate_left; intro _ _ _) | split)
  all_goals (simp (maxDischargeDepth := 9) [*])

@[simp] theorem wf_completeTrap (s : State) (n : Nat) (c : Nat) (v : Sys2Proof.Word) (hw : memoryWf s.ms.mem = true) : memoryWf (completeTrap s n c v).ms.mem = true := by
  unfold completeTrap
  (try dsimp only)
  repeat' (first | assumption | (with_reducible refine foldl_wf _ _ _ ?_ ?_; rotate_left; intro _ _ _) | split)
  all_goals (simp (maxDischargeDepth := 9) [*])

@[simp] theorem wf_amsgAnswered (s : State) (o : Outst) (status : Nat) (dst : BitVec 26) (hw : memoryWf s.ms.mem = true) : memoryWf (amsgAnswered s o status dst).ms.mem = true := by
  unfold amsgAnswered
  (try dsimp only)
  repeat' (first | assumption | (with_reducible refine foldl_wf _ _ _ ?_ ?_; rotate_left; intro _ _ _) | split)
  all_goals (simp (maxDischargeDepth := 9) [*])

@[simp] theorem wf_answerMsg (s : State) (p : Sys2Proof.Packet) (status : Nat) (hw : memoryWf s.ms.mem = true) : memoryWf (answerMsg s p status).ms.mem = true := by
  unfold answerMsg
  (try dsimp only)
  repeat' (first | assumption | (with_reducible refine foldl_wf _ _ _ ?_ ?_; rotate_left; intro _ _ _) | split)
  all_goals (simp (maxDischargeDepth := 9) [*])

@[simp] theorem wf_answerDone (s : State) (p : Sys2Proof.Packet) (r : Req) (v : Sys2Proof.Word) (x : Nat) (data : List Sys2Proof.Byte) (hw : memoryWf s.ms.mem = true) : memoryWf (answerDone s p r v x data).ms.mem = true := by
  unfold answerDone
  (try dsimp only)
  repeat' (first | assumption | (with_reducible refine foldl_wf _ _ _ ?_ ?_; rotate_left; intro _ _ _) | split)
  all_goals (simp (maxDischargeDepth := 9) [*])

@[simp] theorem wf_answerFail (s : State) (p : Sys2Proof.Packet) (r : Req) (c : Nat) (hw : memoryWf s.ms.mem = true) : memoryWf (answerFail s p r c).ms.mem = true := by
  unfold answerFail
  (try dsimp only)
  repeat' (first | assumption | (with_reducible refine foldl_wf _ _ _ ?_ ?_; rotate_left; intro _ _ _) | split)
  all_goals (simp (maxDischargeDepth := 9) [*])

@[simp] theorem mem_dropArrival (s : State) (k : Nat) : (dropArrival s k).ms.mem = s.ms.mem := by
  unfold dropArrival
  (try dsimp only)
  repeat' (first | rfl | assumption | (with_reducible refine (foldl_mem _ _ _ ?_).trans ?_; intro _ _) | split)
  all_goals (first | rfl | simp)

@[simp] theorem mem_modFibres (s : State) (p : Fibre → Bool) (g : Fibre → Fibre) : (modFibres s p g).ms.mem = s.ms.mem := by
  unfold modFibres
  (try dsimp only)
  repeat' (first | rfl | assumption | (with_reducible refine (foldl_mem _ _ _ ?_).trans ?_; intro _ _) | split)
  all_goals (first | rfl | simp)

@[simp] theorem mem_farCame (s : State) (p : FarWord → Bool) (c : Nat) (v : FarWord → Sys2Proof.Word) (bad : FarWord → Bool) : (farCame s p c v bad).ms.mem = s.ms.mem := by
  unfold farCame
  (try dsimp only)
  repeat' (first | rfl | assumption | (with_reducible refine (foldl_mem _ _ _ ?_).trans ?_; intro _ _) | split)
  all_goals (first | rfl | simp)

@[simp] theorem mem_farAnswer (s : State) (id : Nat) (k : Nat) (p : Sys2Proof.Packet) : (farAnswer s id k p).ms.mem = s.ms.mem := by
  unfold farAnswer
  (try dsimp only)
  repeat' (first | rfl | assumption | (with_reducible refine (foldl_mem _ _ _ ?_).trans ?_; intro _ _) | split)
  all_goals (first | rfl | simp)

@[simp] theorem mem_dropReq (s : State) (id : Nat) : (dropReq s id).ms.mem = s.ms.mem := by
  unfold dropReq
  (try dsimp only)
  repeat' (first | rfl | assumption | (with_reducible refine (foldl_mem _ _ _ ?_).trans ?_; intro _ _) | split)
  all_goals (first | rfl | simp)

@[simp] theorem mem_completeFailed (s : State) (n : Nat) (c : Nat) (va : Sys2Proof.Word) : (completeFailed s n c va).ms.mem = s.ms.mem := by
  unfold completeFailed
  (try dsimp only)
  repeat' (first | rfl | assumption | (with_reducible refine (foldl_mem _ _ _ ?_).trans ?_; intro _ _) | split)
  all_goals (first | rfl | simp)

@[simp] theorem mem_failReq (s : State) (id : Nat) (c : Nat) : (failReq s id c).ms.mem = s.ms.mem := by
  unfold failReq
  (try dsimp only)
  repeat' (first | rfl | assumption | (with_reducible refine (foldl_mem _ _ _ ?_).trans ?_; intro _ _) | split)
  all_goals (first | rfl | simp)

@[simp] theorem wf_failReqs (l : List Req) (c : Nat) (s : State) (hw : memoryWf s.ms.mem = true) :
    memoryWf (l.foldl (fun s r => failReq s r.id c) s).ms.mem = true :=
  foldl_wf _ _ _ hw fun s r h => by simp [h]

@[simp] theorem mem_waitGiven (s : State) (r : Req) : (waitGiven s r).ms.mem = s.ms.mem := by
  unfold waitGiven
  (try dsimp only)
  repeat' (first | rfl | assumption | (with_reducible refine (foldl_mem _ _ _ ?_).trans ?_; intro _ _) | split)
  all_goals (first | rfl | simp)

@[simp] theorem mem_deliverReq (s : State) (r : Req) (v : Sys2Proof.Word) (fl : BitVec 5) : (deliverReq s r v fl).ms.mem = s.ms.mem := by
  unfold deliverReq
  (try dsimp only)
  repeat' (first | rfl | assumption | (with_reducible refine (foldl_mem _ _ _ ?_).trans ?_; intro _ _) | split)
  all_goals (first | rfl | simp)

@[simp] theorem mem_keepLease (s : State) (r : Req) (p : Sys2Proof.Packet) : (keepLease s r p).ms.mem = s.ms.mem := by
  unfold keepLease
  (try dsimp only)
  repeat' (first | rfl | assumption | (with_reducible refine (foldl_mem _ _ _ ?_).trans ?_; intro _ _) | split)
  all_goals (first | rfl | simp)

@[simp] theorem mem_takeResponse (s : State) (r : Req) (k : Nat) (p : Sys2Proof.Packet) : (takeResponse s r k p).ms.mem = s.ms.mem := by
  unfold takeResponse
  (try dsimp only)
  repeat' (first | rfl | assumption | (with_reducible refine (foldl_mem _ _ _ ?_).trans ?_; intro _ _) | split)
  all_goals (first | rfl | simp)

@[simp] theorem mem_storeAck (s : State) (id : Nat) (wt : BitVec 64) (cause : BitVec 6) : (storeAck s id wt cause).ms.mem = s.ms.mem := by
  unfold storeAck
  (try dsimp only)
  repeat' (first | rfl | assumption | (with_reducible refine (foldl_mem _ _ _ ?_).trans ?_; intro _ _) | split)
  all_goals (first | rfl | simp)

@[simp] theorem mem_dataReturn (s : State) (n : Nat) (p : Nat) : (dataReturn s n p).ms.mem = s.ms.mem := by
  unfold dataReturn
  (try dsimp only)
  repeat' (first | rfl | assumption | (with_reducible refine (foldl_mem _ _ _ ?_).trans ?_; intro _ _) | split)
  all_goals (first | rfl | simp)

@[simp] theorem mem_leaveWalk (s : State) (f : Nat) : (leaveWalk s f).ms.mem = s.ms.mem := by
  unfold leaveWalk
  (try dsimp only)
  repeat' (first | rfl | assumption | (with_reducible refine (foldl_mem _ _ _ ?_).trans ?_; intro _ _) | split)
  all_goals (first | rfl | simp)

@[simp] theorem mem_disown (s : State) (core : Nat) (n : Nat) : (disown s core n).ms.mem = s.ms.mem := by
  unfold disown
  (try dsimp only)
  repeat' (first | rfl | assumption | (with_reducible refine (foldl_mem _ _ _ ?_).trans ?_; intro _ _) | split)
  all_goals (first | rfl | simp)

@[simp] theorem wf_moveFibre (s : State) (f : Fibre) (dest : Nat) (migr : Bool) (hw : memoryWf s.ms.mem = true) : memoryWf (moveFibre s f dest migr).ms.mem = true := by
  unfold moveFibre
  (try dsimp only)
  repeat' (first | assumption | (with_reducible refine foldl_wf _ _ _ ?_ ?_; rotate_left; intro _ _ _) | split)
  all_goals (simp (maxDischargeDepth := 9) [*])

@[simp] theorem mem_forgetFibre (s : State) (n : Nat) : (forgetFibre s n).ms.mem = s.ms.mem := by
  unfold forgetFibre
  (try dsimp only)
  repeat' (first | rfl | assumption | (with_reducible refine (foldl_mem _ _ _ ?_).trans ?_; intro _ _) | split)
  all_goals (first | rfl | simp)

@[simp] theorem wf_offerTaken (s : State) (f : Fibre) (m : Nat) (hw : memoryWf s.ms.mem = true) : memoryWf (offerTaken s f m).ms.mem = true := by
  unfold offerTaken
  (try dsimp only)
  repeat' (first | assumption | (with_reducible refine foldl_wf _ _ _ ?_ ?_; rotate_left; intro _ _ _) | split)
  all_goals (simp (maxDischargeDepth := 9) [*])

@[simp] theorem mem_migrationRefused (s : State) (n : Nat) : (migrationRefused s n).ms.mem = s.ms.mem := by
  unfold migrationRefused
  (try dsimp only)
  repeat' (first | rfl | assumption | (with_reducible refine (foldl_mem _ _ _ ?_).trans ?_; intro _ _) | split)
  all_goals (first | rfl | simp)

@[simp] theorem mem_settleArrival (s : State) (p : Sys2Proof.Packet) (f : Fibre) (bar : Nat) : (settleArrival s p f bar).1.ms.mem = s.ms.mem := by
  unfold settleArrival
  (try dsimp only)
  repeat' (first | rfl | assumption | (with_reducible refine (foldl_mem _ _ _ ?_).trans ?_; intro _ _) | split)
  all_goals (first | rfl | simp)

@[simp] theorem mem_fibreReturns (s : State) (p : Sys2Proof.Packet) (r : Fibre) : (fibreReturns s p r).ms.mem = s.ms.mem := by
  unfold fibreReturns
  (try dsimp only)
  repeat' (first | rfl | assumption | (with_reducible refine (foldl_mem _ _ _ ?_).trans ?_; intro _ _) | split)
  all_goals (first | rfl | simp)

@[simp] theorem mem_guestArrive (s : State) (k : Nat) (p : Sys2Proof.Packet) : (guestArrive s k p).ms.mem = s.ms.mem := by
  unfold guestArrive
  (try dsimp only)
  repeat' (first | rfl | assumption | (with_reducible refine (foldl_mem _ _ _ ?_).trans ?_; intro _ _) | split)
  all_goals (first | rfl | simp)

@[simp] theorem mem_moveRefused (s : State) (f : Fibre) (migr : Bool) : (moveRefused s f migr).ms.mem = s.ms.mem := by
  unfold moveRefused
  (try dsimp only)
  repeat' (first | rfl | assumption | (with_reducible refine (foldl_mem _ _ _ ?_).trans ?_; intro _ _) | split)
  all_goals (first | rfl | simp)

@[simp] theorem wf_migrationArrival (s : State) (n : Nat) (hw : memoryWf s.ms.mem = true) : memoryWf (migrationArrival s n).ms.mem = true := by
  unfold migrationArrival
  (try dsimp only)
  repeat' (first | assumption | (with_reducible refine foldl_wf _ _ _ ?_ ?_; rotate_left; intro _ _ _) | split)
  all_goals (simp (maxDischargeDepth := 9) [*])

@[simp] theorem wf_sendCompletion (s : State) (k : Nat) (hw : memoryWf s.ms.mem = true) : memoryWf (sendCompletion s k).ms.mem = true := by
  unfold sendCompletion
  (try dsimp only)
  repeat' (first | assumption | (with_reducible refine foldl_wf _ _ _ ?_ ?_; rotate_left; intro _ _ _) | split)
  all_goals (simp (maxDischargeDepth := 9) [*])

@[simp] theorem wf_noticeAnswered (s : State) (o : Outst) (status : Nat) (hw : memoryWf s.ms.mem = true) : memoryWf (noticeAnswered s o status).ms.mem = true := by
  unfold noticeAnswered
  (try dsimp only)
  repeat' (first | assumption | (with_reducible refine foldl_wf _ _ _ ?_ ?_; rotate_left; intro _ _ _) | split)
  all_goals (simp (maxDischargeDepth := 9) [*])

@[simp] theorem wf_responseArrive (s : State) (k : Nat) (hw : memoryWf s.ms.mem = true) : memoryWf (responseArrive s k).ms.mem = true := by
  unfold responseArrive
  (try dsimp only)
  repeat' (first | assumption | (with_reducible refine foldl_wf _ _ _ ?_ ?_; rotate_left; intro _ _ _) | split)
  all_goals (simp (maxDischargeDepth := 9) [*])

@[simp] theorem wf_relEffect (s : State) (r : Req) (hw : memoryWf s.ms.mem = true) : memoryWf (relEffect s r).ms.mem = true := by
  unfold relEffect
  (try dsimp only)
  repeat' (first | assumption | (with_reducible refine foldl_wf _ _ _ ?_ ?_; rotate_left; intro _ _ _) | split)
  all_goals (simp (maxDischargeDepth := 9) [*])

@[simp] theorem mem_cxlWrite (s : State) (off : Nat) (n : Nat) (v : Sys2Proof.Word) : (cxlWrite s off n v).ms.mem = s.ms.mem := by
  unfold cxlWrite
  extract_lets p
  clear_value p
  split
  · rfl
  · rfl

@[simp] theorem mem_countViolation (s : State) : (countViolation s).ms.mem = s.ms.mem := by
  unfold countViolation
  (try dsimp only)
  repeat' (first | rfl | assumption | (with_reducible refine (foldl_mem _ _ _ ?_).trans ?_; intro _ _) | split)
  all_goals (first | rfl | simp)

@[simp] theorem mem_enablePort (s : State) (f : Nat) : (enablePort s f).ms.mem = s.ms.mem := by
  unfold enablePort
  (try dsimp only)
  repeat' (first | rfl | assumption | (with_reducible refine (foldl_mem _ _ _ ?_).trans ?_; intro _ _) | split)
  all_goals (first | rfl | simp)

@[simp] theorem mem_disablePort (s : State) (f : Nat) : (disablePort s f).ms.mem = s.ms.mem := by
  unfold disablePort
  (try dsimp only)
  repeat' (first | rfl | assumption | (with_reducible refine (foldl_mem _ _ _ ?_).trans ?_; intro _ _) | split)
  all_goals (first | rfl | simp)

@[simp] theorem mem_writeGwctl (s : State) (v : BitVec 14) (ports : List Nat) : (writeGwctl s v ports).ms.mem = s.ms.mem := by
  induction ports generalizing s with
  | nil => rfl
  | cons f r ih =>
    unfold writeGwctl
    dsimp only
    rw [ih]
    repeat' split
    all_goals simp

@[simp] theorem mem_gatewayGo (s : State) (f : Nat) (v : Sys2Proof.Word) : (gatewayGo s f v).ms.mem = s.ms.mem := by
  unfold gatewayGo
  (try dsimp only)
  repeat' (first | rfl | assumption | (with_reducible refine (foldl_mem _ _ _ ?_).trans ?_; intro _ _) | split)
  all_goals (first | rfl | simp)

@[simp] theorem mem_setTenant (s : State) (t : Nat) (x : Tenant) : (setTenant s t x).ms.mem = s.ms.mem := by
  unfold setTenant
  (try dsimp only)
  repeat' (first | rfl | assumption | (with_reducible refine (foldl_mem _ _ _ ?_).trans ?_; intro _ _) | split)
  all_goals (first | rfl | simp)

@[simp] theorem mem_setEn (s : State) (n : Nat) : (setEn s n).ms.mem = s.ms.mem := by
  unfold setEn
  (try dsimp only)
  repeat' (first | rfl | assumption | (with_reducible refine (foldl_mem _ _ _ ?_).trans ?_; intro _ _) | split)
  all_goals (first | rfl | simp)

@[simp] theorem mem_clearEn (s : State) (n : Nat) : (clearEn s n).ms.mem = s.ms.mem := by
  unfold clearEn
  (try dsimp only)
  repeat' (first | rfl | assumption | (with_reducible refine (foldl_mem _ _ _ ?_).trans ?_; intro _ _) | split)
  all_goals (first | rfl | simp)

@[simp] theorem mem_devWriteReg (s : State) (mon : Bool) (off : Nat) (w : Sys2Proof.Word) (ones : Sys2Proof.Word) : (devWriteReg s mon off w ones).ms.mem = s.ms.mem := by
  simp [devWriteReg, apply_ite State.ms, apply_ite MemSys.mem]

@[simp] theorem mem_devWrite (s : State) (mon : Bool) (off : Nat) (n : Nat) (v : Sys2Proof.Word) : (devWrite s mon off n v).ms.mem = s.ms.mem := by
  unfold devWrite
  split
  · exact mem_cxlWrite _ _ _ _
  · exact mem_devWriteReg _ _ _ _ _

@[simp] theorem mem_takeFree (s : State) : (takeFree s).2.ms.mem = s.ms.mem := by
  unfold takeFree
  (try dsimp only)
  repeat' (first | rfl | assumption | (with_reducible refine (foldl_mem _ _ _ ?_).trans ?_; intro _ _) | split)
  all_goals (first | rfl | simp)

@[simp] theorem mem_scLoadTs (s : State) (k : Nat) (c : Nat) : (scLoadTs s k c).2.ms.mem = s.ms.mem := by
  unfold scLoadTs
  (try dsimp only)
  repeat' (first | rfl | assumption | (with_reducible refine (foldl_mem _ _ _ ?_).trans ?_; intro _ _) | split)
  all_goals (first | rfl | simp)

@[simp] theorem mem_noteOwner (s : State) (r : Req) (own : Bool) : (noteOwner s r own).ms.mem = s.ms.mem := by
  unfold noteOwner
  (try dsimp only)
  repeat' (first | rfl | assumption | (with_reducible refine (foldl_mem _ _ _ ?_).trans ?_; intro _ _) | split)
  all_goals (first | rfl | simp)

@[simp] theorem mem_noteAttrs (s : State) (cp : BitVec 2) (gr : BitVec 2) (pa : Nat) : (noteAttrs s cp gr pa).ms.mem = s.ms.mem := by
  unfold noteAttrs
  (try dsimp only)
  repeat' (first | rfl | assumption | (with_reducible refine (foldl_mem _ _ _ ?_).trans ?_; intro _ _) | split)
  all_goals (first | rfl | simp)

@[simp] theorem mem_dropCopies (s : State) (h : Nat → Bool) (p : Nat → Bool) : (dropCopies s h p).ms.mem = s.ms.mem := by
  unfold dropCopies
  (try dsimp only)
  repeat' (first | rfl | assumption | (with_reducible refine (foldl_mem _ _ _ ?_).trans ?_; intro _ _) | split)
  all_goals (first | rfl | simp)

@[simp] theorem wf_flushDie (s : State) (die : Nat) (p : Nat → Bool) (hw : memoryWf s.ms.mem = true) : memoryWf (flushDie s die p).ms.mem = true := by
  unfold flushDie
  split
  · exact hw
  · simp only [mem_dropCopies]
    apply wf_pushL2
    exact foldl_wf _ _ _ hw fun s k h => by simp [h]

@[simp] theorem mem_fillLine (s : State) (h : Nat) (core : Nat) (l1 : Bool) (gr : BitVec 2) (pa : Nat) : (fillLine s h core l1 gr pa).ms.mem = s.ms.mem := by
  unfold fillLine
  (try dsimp only)
  repeat' (first | rfl | assumption | (with_reducible refine (foldl_mem _ _ _ ?_).trans ?_; intro _ _) | split)
  all_goals (first | rfl | simp)

@[simp] theorem mem_fillDie (s : State) (core : Nat) (gr : BitVec 2) (pa : Nat) : (fillDie s core gr pa).ms.mem = s.ms.mem := by
  unfold fillDie
  (try dsimp only)
  repeat' (first | rfl | assumption | (with_reducible refine (foldl_mem _ _ _ ?_).trans ?_; intro _ _) | split)
  all_goals (first | rfl | simp)

@[simp] theorem wf_loadCp01 (s : State) (core : Nat) (pol : BitVec 2) (gr : BitVec 2) (pa : Nat) (n : Nat) (hw : memoryWf s.ms.mem = true) : memoryWf (loadCp01 s core pol gr pa n).1.ms.mem = true := by
  unfold loadCp01
  (try dsimp only)
  repeat' (first | assumption | (with_reducible refine foldl_wf _ _ _ ?_ ?_; rotate_left; intro _ _ _) | split)
  all_goals (simp (maxDischargeDepth := 9) [*])

@[simp] theorem mem_backTs (s : State) (r : Req) (ts : Nat) : (backTs s r ts).ms.mem = s.ms.mem := by
  unfold backTs
  (try dsimp only)
  repeat' (first | rfl | assumption | (with_reducible refine (foldl_mem _ _ _ ?_).trans ?_; intro _ _) | split)
  all_goals (first | rfl | simp)

@[simp] theorem wf_performLoad (s : State) (r : Req) (hw : memoryWf s.ms.mem = true) : memoryWf (performLoad s r).1.ms.mem = true := by
  unfold performLoad
  (try dsimp only)
  repeat' (first | assumption | (with_reducible refine foldl_wf _ _ _ ?_ ?_; rotate_left; intro _ _ _) | split)
  all_goals (simp (maxDischargeDepth := 9) [*])

@[simp] theorem mem_stampStore (s : State) (r : Req) : (stampStore s r).ms.mem = s.ms.mem := by
  unfold stampStore
  (try dsimp only)
  repeat' (first | rfl | assumption | (with_reducible refine (foldl_mem _ _ _ ?_).trans ?_; intro _ _) | split)
  all_goals (first | rfl | simp)

@[simp] theorem wf_flushAll (s : State) (p : Nat → Bool) (hw : memoryWf s.ms.mem = true) : memoryWf (flushAll s p).ms.mem = true := by
  unfold flushAll
  (try dsimp only)
  repeat' (first | assumption | (with_reducible refine foldl_wf _ _ _ ?_ ?_; rotate_left; intro _ _ _) | split)
  all_goals (simp (maxDischargeDepth := 9) [*])

@[simp] theorem mem_dirtyBytes (s : State) (h : Nat) (pa : Nat) (n : Nat) (v : Nat) (bad : Bool) : (dirtyBytes s h pa n v bad).ms.mem = s.ms.mem := by
  unfold dirtyBytes
  (try dsimp only)
  repeat' (first | rfl | assumption | (with_reducible refine (foldl_mem _ _ _ ?_).trans ?_; intro _ _) | split)
  all_goals (first | rfl | simp)

@[simp] theorem wf_storeDie (s : State) (core : Nat) (pa : Nat) (n : Nat) (v : Nat) (bad : Bool) (hw : memoryWf s.ms.mem = true) : memoryWf (storeDie s core pa n v bad).ms.mem = true := by
  unfold storeDie
  (try dsimp only)
  repeat' (first | assumption | (with_reducible refine foldl_wf _ _ _ ?_ ?_; rotate_left; intro _ _ _) | split)
  all_goals (simp (maxDischargeDepth := 9) [*])

@[simp] theorem wf_storeCp01 (s : State) (core : Nat) (pol : BitVec 2) (gr : BitVec 2) (pa : Nat) (n : Nat) (v : Nat) (hw : memoryWf s.ms.mem = true) : memoryWf (storeCp01 s core pol gr pa n v).ms.mem = true := by
  unfold storeCp01
  (try dsimp only)
  repeat' (first | assumption | (with_reducible refine foldl_wf _ _ _ ?_ ?_; rotate_left; intro _ _ _) | split)
  all_goals (simp (maxDischargeDepth := 9) [*])

@[simp] theorem wf_performStore (s : State) (r : Req) (hw : memoryWf s.ms.mem = true) : memoryWf (performStore s r).ms.mem = true := by
  unfold performStore
  (try dsimp only)
  repeat' (first | assumption | (with_reducible refine foldl_wf _ _ _ ?_ ?_; rotate_left; intro _ _ _) | split)
  all_goals (simp (maxDischargeDepth := 9) [*])

@[simp] theorem wf_performAtomic (s : State) (r : Req) (hw : memoryWf s.ms.mem = true) : memoryWf (performAtomic s r).1.ms.mem = true := by
  unfold performAtomic
  (try dsimp only)
  repeat' (first | assumption | (with_reducible refine foldl_wf _ _ _ ?_ ?_; rotate_left; intro _ _ _) | split)
  all_goals (simp (maxDischargeDepth := 9) [*])

@[simp] theorem wf_ownBytesHome (s : State) (r : Req) (hw : memoryWf s.ms.mem = true) : memoryWf (ownBytesHome s r).ms.mem = true := by
  unfold ownBytesHome
  (try dsimp only)
  repeat' (first | assumption | (with_reducible refine foldl_wf _ _ _ ?_ ?_; rotate_left; intro _ _ _) | split)
  all_goals (simp (maxDischargeDepth := 9) [*])

@[simp] theorem wf_performFe (s : State) (r : Req) (hw : memoryWf s.ms.mem = true) : memoryWf (performFe s r).1.ms.mem = true := by
  unfold performFe
  (try dsimp only)
  repeat' (first | assumption | (with_reducible refine foldl_wf _ _ _ ?_ ?_; rotate_left; intro _ _ _) | split)
  all_goals (simp (maxDischargeDepth := 9) [*])

/-- Whether what a request performed leaves keeps the canonical form. -/
def perfWf (p : Perf) : Prop :=
  match p with
  | .done t _ => memoryWf t.ms.mem = true
  | .fail t _ => memoryWf t.ms.mem = true
  | .wait t => memoryWf t.ms.mem = true
  | .refused => True

theorem wf_performHere (s : State) (r : Req) (hw : memoryWf s.ms.mem = true) : perfWf (performHere s r) := by
  unfold performHere
  have h1 : memoryWf (relEffect s r).ms.mem = true := by simp [hw]
  generalize relEffect s r = t at h1 ⊢
  dsimp only
  generalize (if r.fib = 0 then r else { r with clock := BitVec.ofNat 64 (clockOf t r.core) }) = q
  repeat' split
  all_goals simp (maxDischargeDepth := 9) [perfWf, h1]

theorem wf_perf_done {s t : State} {r : Req} {v : Word} (h : performHere s r = .done t v) (hw : memoryWf s.ms.mem = true) :
    memoryWf t.ms.mem = true := by
  have := wf_performHere s r hw
  rwa [h] at this

theorem wf_perf_fail {s t : State} {r : Req} {c : Nat} (h : performHere s r = .fail t c) (hw : memoryWf s.ms.mem = true) :
    memoryWf t.ms.mem = true := by
  have := wf_performHere s r hw
  rwa [h] at this

theorem wf_perf_wait {s t : State} {r : Req} (h : performHere s r = .wait t) (hw : memoryWf s.ms.mem = true) :
    memoryWf t.ms.mem = true := by
  have := wf_performHere s r hw
  rwa [h] at this

@[simp] theorem wf_slotWrite (s : State) (core : Nat) (j : SlotJob) (hw : memoryWf s.ms.mem = true) : memoryWf (slotWrite s core j).1.ms.mem = true := by
  unfold slotWrite
  extract_lets hdr n ps xs ds r codes fl res hdr' pa put s1 s2
  have hp : ∀ t a v, memoryWf t.ms.mem = true → memoryWf (put t a v).ms.mem = true := fun t a v h => by simp [put, h]
  have h1 : memoryWf s1.ms.mem = true := by simp [s1, hw]
  have h2 : memoryWf s2.ms.mem = true := foldl_wf _ _ _ h1 fun s k h => hp _ _ _ h
  simp [hp _ _ _ h2]

theorem wf_slotServe {s : State} {r : Req} {d : List Sys2Proof.Byte} {x : State × Sys2Proof.Word × Nat × List Sys2Proof.Byte}
    (h : slotServe s r d = .ok x) (hw : memoryWf s.ms.mem = true) : memoryWf x.1.ms.mem = true := by
  revert h
  unfold slotServe
  extract_lets pas bad vals y
  intro h
  by_cases h1 : (if r.op = 9 then poisoned s r.pa 8 else bad.isSome) = true
  · rw [if_pos h1] at h
    cases h
  rw [if_neg h1] at h
  by_cases h2 : r.op = 9
  · rw [if_pos h2] at h
    cases h
    exact hw
  rw [if_neg h2] at h
  by_cases h3 : r.kind = .feStore
  · rw [if_pos h3] at h
    cases h
    exact wf_slotWrite _ _ _ hw
  · rw [if_neg h3] at h
    cases h
    simp [hw]

theorem wf_performAt (s : State) (p : Packet) (r : Req) (hw : memoryWf s.ms.mem = true) : perfWf (performAt s p r).1 := by
  unfold performAt
  split
  · exact wf_performHere s r hw
  split
  · dsimp only
    split
    · exact hw
    · trivial
  split
  · exact hw
  · exact wf_slotServe ‹_› hw

theorem wf_at_done {s t : State} {p : Packet} {r : Req} {v : Sys2Proof.Word} {y : Nat × List Sys2Proof.Byte}
    (h : performAt s p r = (.done t v, y)) (hw : memoryWf s.ms.mem = true) : memoryWf t.ms.mem = true := by
  have := wf_performAt s p r hw
  rwa [h] at this

theorem wf_at_fail {s t : State} {p : Packet} {r : Req} {c : Nat} {y : Nat × List Sys2Proof.Byte}
    (h : performAt s p r = (.fail t c, y)) (hw : memoryWf s.ms.mem = true) : memoryWf t.ms.mem = true := by
  have := wf_performAt s p r hw
  rwa [h] at this

theorem wf_at_wait {s t : State} {p : Packet} {r : Req} {y : Nat × List Sys2Proof.Byte}
    (h : performAt s p r = (.wait t, y)) (hw : memoryWf s.ms.mem = true) : memoryWf t.ms.mem = true := by
  have := wf_performAt s p r hw
  rwa [h] at this

@[simp] theorem mem_noticeEnds (s : State) (p : Sys2Proof.Packet) (r : Req) : (noticeEnds s p r).ms.mem = s.ms.mem := by
  unfold noticeEnds
  (try dsimp only)
  repeat' (first | rfl | assumption | (with_reducible refine (foldl_mem _ _ _ ?_).trans ?_; intro _ _) | split)
  all_goals (first | rfl | simp)

@[simp] theorem wf_answerWait (s : State) (r : Req) (p : Sys2Proof.Packet) (hw : memoryWf s.ms.mem = true) : memoryWf (answerWait s r p).ms.mem = true := by
  unfold answerWait
  split
  · simp (maxDischargeDepth := 9) [wf_at_done ‹_› hw]
  · simp (maxDischargeDepth := 9) [wf_at_fail ‹_› hw]
  · exact hw

@[simp] theorem mem_stepMacc (s : State) (c : MCmd) : (stepMacc s c).1.ms.mem = s.ms.mem := by
  unfold stepMacc
  (try dsimp only)
  repeat' (first | rfl | assumption | (with_reducible refine (foldl_mem _ _ _ ?_).trans ?_; intro _ _) | split)
  all_goals (first | rfl | simp)

@[simp] theorem wf_tileWrRow (s : State) (a : TileAt) (i : Nat) (rb : Nat) (v : Nat) (hw : memoryWf s.ms.mem = true) : memoryWf (tileWrRow s a i rb v).ms.mem = true := by
  unfold tileWrRow
  dsimp only
  split <;> exact memoryWf_foldl _ _ (fun m x h => memoryWf_mset m _ _ h) _ hw

@[simp] theorem wf_tileWrRows (s : State) (a : TileAt) (w : Nat) (i : Nat) (rows : List (List Nat)) (hw : memoryWf s.ms.mem = true) : memoryWf (tileWrRows s a w i rows).ms.mem = true := by
  induction rows generalizing s i with
  | nil => simpa [tileWrRows] using hw
  | cons r t ih =>
    unfold tileWrRows
    exact ih _ _ (wf_tileWrRow s a i _ _ hw)

@[simp] theorem wf_stepMst (s : State) (c : MCmd) (hw : memoryWf s.ms.mem = true) : memoryWf (stepMst s c).1.ms.mem = true := by
  unfold stepMst
  (try dsimp only)
  repeat' (first | assumption | (with_reducible refine foldl_wf _ _ _ ?_ ?_; rotate_left; intro _ _ _) | split)
  all_goals (simp (maxDischargeDepth := 9) [*])

@[simp] theorem mem_stepMma (s : State) (c : MCmd) : (stepMma s c).1.ms.mem = s.ms.mem := by
  unfold stepMma
  (try dsimp only)
  repeat' (first | rfl | assumption | (with_reducible refine (foldl_mem _ _ _ ?_).trans ?_; intro _ _) | split)
  all_goals (first | rfl | simp)

@[simp] theorem wf_stepCmd (s : State) (c : MCmd) (hw : memoryWf s.ms.mem = true) : memoryWf (stepCmd s c).1.ms.mem = true := by
  unfold stepCmd
  (try dsimp only)
  repeat' (first | assumption | (with_reducible refine foldl_wf _ _ _ ?_ ?_; rotate_left; intro _ _ _) | split)
  all_goals (simp (maxDischargeDepth := 9) [*])

@[simp] theorem wf_matrixStep (s : State) (cl : Nat) (hw : memoryWf s.ms.mem = true) : memoryWf (matrixStep s cl).ms.mem = true := by
  unfold matrixStep
  (try dsimp only)
  repeat' (first | assumption | (with_reducible refine foldl_wf _ _ _ ?_ ?_; rotate_left; intro _ _ _) | split)
  all_goals (simp (maxDischargeDepth := 9) [*])

@[simp] theorem mem_cmdFlags (s : State) (c : MCmd) : (cmdFlags s c).ms.mem = s.ms.mem := by
  unfold cmdFlags
  (try dsimp only)
  repeat' (first | rfl | assumption | (with_reducible refine (foldl_mem _ _ _ ?_).trans ?_; intro _ _) | split)
  all_goals (first | rfl | simp)

@[simp] theorem mem_giveArray (s : State) (cl : Nat) : (giveArray s cl).ms.mem = s.ms.mem := by
  unfold giveArray
  (try dsimp only)
  repeat' (first | rfl | assumption | (with_reducible refine (foldl_mem _ _ _ ?_).trans ?_; intro _ _) | split)
  all_goals (first | rfl | simp)

@[simp] theorem mem_matrixDone (s : State) (cl : Nat) : (matrixDone s cl).ms.mem = s.ms.mem := by
  unfold matrixDone
  (try dsimp only)
  repeat' (first | rfl | assumption | (with_reducible refine (foldl_mem _ _ _ ?_).trans ?_; intro _ _) | split)
  all_goals (first | rfl | simp)

@[simp] theorem mem_grantReq (s : State) (cl : Nat) (q : LeaseReq) (rest : List LeaseReq) : (grantReq s cl q rest).ms.mem = s.ms.mem := by
  unfold grantReq
  (try dsimp only)
  repeat' (first | rfl | assumption | (with_reducible refine (foldl_mem _ _ _ ?_).trans ?_; intro _ _) | split)
  all_goals (first | rfl | simp)

@[simp] theorem mem_leaseGrant (s : State) (cl : Nat) : (leaseGrant s cl).ms.mem = s.ms.mem := by
  unfold leaseGrant
  (try dsimp only)
  repeat' (first | rfl | assumption | (with_reducible refine (foldl_mem _ _ _ ?_).trans ?_; intro _ _) | split)
  all_goals (first | rfl | simp)

@[simp] theorem wf_messageArrive (s : State) (k : Nat) (hw : memoryWf s.ms.mem = true) : memoryWf (messageArrive s k).ms.mem = true := by
  unfold messageArrive
  (try dsimp only)
  repeat' (first | assumption | (with_reducible refine foldl_wf _ _ _ ?_ ?_; rotate_left; intro _ _ _) | split)
  all_goals (simp (maxDischargeDepth := 9) [*])

@[simp] theorem mem_sendReq (s : State) (r : Req) (lease : Bool) : (sendReq s r lease).ms.mem = s.ms.mem := by
  unfold sendReq
  rw [mem_sendPacket]

@[simp] theorem mem_askFar (s : State) (pa : Nat) (va : Sys2Proof.Word) : (askFar s pa va).ms.mem = s.ms.mem := by
  unfold askFar
  (try dsimp only)
  repeat' (first | rfl | assumption | (with_reducible refine (foldl_mem _ _ _ ?_).trans ?_; intro _ _) | split)
  all_goals (first | rfl | simp)

@[simp] theorem mem_askPiece (s : State) (e : Agent) (p : Piece) : (askPiece s e p).ms.mem = s.ms.mem := by
  unfold askPiece
  (try dsimp only)
  repeat' (first | rfl | assumption | (with_reducible refine (foldl_mem _ _ _ ?_).trans ?_; intro _ _) | split)
  all_goals (first | rfl | simp)

@[simp] theorem mem_gather (s : State) (e : Agent) (ps : List Piece) : (gather s e ps).1.ms.mem = s.ms.mem := by
  unfold gather
  (try dsimp only)
  repeat' (first | rfl | assumption | (with_reducible refine (foldl_mem _ _ _ ?_).trans ?_; intro _ _) | split)
  all_goals (first | rfl | simp)

@[simp] theorem mem_engFound (s : State) (e : Agent) (p : Piece) (c : Nat) : (engFound s e p c).ms.mem = s.ms.mem := by
  unfold engFound
  (try dsimp only)
  repeat' (first | rfl | assumption | (with_reducible refine (foldl_mem _ _ _ ?_).trans ?_; intro _ _) | split)
  all_goals (first | rfl | simp)

theorem wf_engRead {s t : State} {e : Agent} {pol : BitVec 2} {p : Piece} {v : Nat} {b : Bool}
    (h : engRead s e pol p = .ok (t, v, b)) (hw : memoryWf s.ms.mem = true) : memoryWf t.ms.mem = true := by
  unfold engRead at h
  dsimp only at h
  repeat' split at h
  all_goals first
    | (cases h; done)
    | (simp only [Except.ok.injEq, Prod.mk.injEq] at h; obtain ⟨rfl, -, -⟩ := h; simp (maxDischargeDepth := 9) [hw])

@[simp] theorem wf_serveSource (s : State) (k : Nat) (p : Sys2Proof.Packet) (r : Req) (hw : memoryWf s.ms.mem = true) : memoryWf (serveSource s k p r).ms.mem = true := by
  unfold serveSource
  dsimp only
  repeat' split
  all_goals first
    | (simp (maxDischargeDepth := 9) [hw]; done)
    | (simp (maxDischargeDepth := 9) [wf_engRead ‹_› (show memoryWf (raiseClock (dropArrival (gather _ _ _).1 _) _ _).ms.mem = true by simp [hw])]; done)

@[simp] theorem mem_wakeWatch (s : State) (w : Watch) (status : Sys2Proof.Word) : (wakeWatch s w status).ms.mem = s.ms.mem := by
  unfold wakeWatch
  (try dsimp only)
  repeat' (first | rfl | assumption | (with_reducible refine (foldl_mem _ _ _ ?_).trans ?_; intro _ _) | split)
  all_goals (first | rfl | simp)

@[simp] theorem mem_notifyAt (s : State) (ten : BitVec 4) (pa : Nat) (all : Bool) : (notifyAt s ten pa all).1.ms.mem = s.ms.mem := by
  unfold notifyAt
  (try dsimp only)
  repeat' (first | rfl | assumption | (with_reducible refine (foldl_mem _ _ _ ?_).trans ?_; intro _ _) | split)
  all_goals (first | rfl | simp)

@[simp] theorem mem_portLine (s : State) (p : Sys2Proof.Packet) (r : Req) : (portLine s p r).ms.mem = s.ms.mem := by
  unfold portLine
  (try dsimp only)
  repeat' (first | rfl | assumption | (with_reducible refine (foldl_mem _ _ _ ?_).trans ?_; intro _ _) | split)
  all_goals (first | rfl | simp)

@[simp] theorem mem_grantLease (s : State) (r : Req) (c : Nat) : (grantLease s r c).1.ms.mem = s.ms.mem := by
  unfold grantLease
  (try dsimp only)
  repeat' (first | rfl | assumption | (with_reducible refine (foldl_mem _ _ _ ?_).trans ?_; intro _ _) | split)
  all_goals (first | rfl | simp)

@[simp] theorem mem_beginWait (s : State) (p : Sys2Proof.Packet) (r : Req) : (beginWait s p r).ms.mem = s.ms.mem := by
  unfold beginWait
  (try dsimp only)
  repeat' (first | rfl | assumption | (with_reducible refine (foldl_mem _ _ _ ?_).trans ?_; intro _ _) | split)
  all_goals (first | rfl | simp)

@[simp] theorem mem_laterArrival (s : State) (k : Nat) (p : Sys2Proof.Packet) : (laterArrival s k p).ms.mem = s.ms.mem := by
  unfold laterArrival
  (try dsimp only)
  repeat' (first | rfl | assumption | (with_reducible refine (foldl_mem _ _ _ ?_).trans ?_; intro _ _) | split)
  all_goals (first | rfl | simp)

@[simp] theorem wf_serveAt (s : State) (k : Nat) (p : Sys2Proof.Packet) (r : Req) (lease : Bool) (hw : memoryWf s.ms.mem = true) : memoryWf (serveAt s k p r lease).ms.mem = true := by
  unfold serveAt
  have h1 : memoryWf (raiseClock (dropArrival s k) r.core p.clock.toNat).ms.mem = true := by simp (maxDischargeDepth := 9) [hw]
  dsimp only
  split
  · have := wf_at_done ‹_› h1
    split <;> simp (maxDischargeDepth := 9) [this]
  · simp (maxDischargeDepth := 9) [wf_at_fail ‹_› h1]
  · simp (maxDischargeDepth := 9) [wf_at_wait ‹_› h1]
  · simp (maxDischargeDepth := 9) [hw]

@[simp] theorem wf_serve (s : State) (k : Nat) (p : Sys2Proof.Packet) (r : Req) (lease : Bool) (hw : memoryWf s.ms.mem = true) : memoryWf (serve s k p r lease).ms.mem = true := by
  unfold serve
  have h1 : memoryWf (raiseClock (dropArrival s k) r.core p.clock.toNat).ms.mem = true := by simp (maxDischargeDepth := 9) [hw]
  dsimp only
  repeat' split
  all_goals first
    | (simp (maxDischargeDepth := 9) [*]; done)
    | (simp [wf_perf_done ‹_› h1])
    | (simp [wf_perf_fail ‹_› h1])
    | (simp [wf_perf_wait ‹_› h1])

@[simp] theorem wf_serveBuiltin (s : State) (k : Nat) (p : Sys2Proof.Packet) (hw : memoryWf s.ms.mem = true) : memoryWf (serveBuiltin s k p).ms.mem = true := by
  unfold serveBuiltin
  have h1 : ∀ c, memoryWf (raiseClock (dropArrival s k) c p.clock.toNat).ms.mem = true := by simp (maxDischargeDepth := 9) [hw]
  dsimp only
  repeat' split
  all_goals first
    | (simp (maxDischargeDepth := 9) [*]; done)
    | (simp [wf_perf_done ‹_› (h1 _)])
    | (simp [wf_perf_fail ‹_› (h1 _)])
    | (simp [wf_perf_wait ‹_› (h1 _)])

@[simp] theorem wf_serveIf (s : State) (k : Nat) (rc : Nat → Nat → Bool) (bc : Nat → Bool) (hw : memoryWf s.ms.mem = true) : memoryWf (serveIf s k rc bc).ms.mem = true := by
  unfold serveIf
  repeat' split
  all_goals first | exact hw | simp (maxDischargeDepth := 9) [hw]

@[simp] theorem wf_failOutst (s : State) (o : Outst) (c : Nat) (hw : memoryWf s.ms.mem = true) : memoryWf (failOutst s o c).ms.mem = true := by
  unfold failOutst
  (try dsimp only)
  repeat' (first | assumption | (with_reducible refine foldl_wf _ _ _ ?_ ?_; rotate_left; intro _ _ _) | split)
  all_goals (simp (maxDischargeDepth := 9) [*])

@[simp] theorem mem_failFar (s : State) (p : FarWord → Bool) (c : Nat) : (failFar s p c).ms.mem = s.ms.mem := by
  unfold failFar
  (try dsimp only)
  repeat' (first | rfl | assumption | (with_reducible refine (foldl_mem _ _ _ ?_).trans ?_; intro _ _) | split)
  all_goals (first | rfl | simp)

@[simp] theorem wf_failPacket (s : State) (c : Nat) (p : Sys2Proof.Packet) (hw : memoryWf s.ms.mem = true) : memoryWf (failPacket s c p).ms.mem = true := by
  unfold failPacket
  (try dsimp only)
  repeat' (first | assumption | (with_reducible refine foldl_wf _ _ _ ?_ ?_; rotate_left; intro _ _ _) | split)
  all_goals (simp (maxDischargeDepth := 9) [*])

@[simp] theorem wf_failPairs (s : State) (t : BitVec 26 → Bool) (c : Nat) (hw : memoryWf s.ms.mem = true) : memoryWf (failPairs s t c).ms.mem = true := by
  unfold failPairs
  (try dsimp only)
  repeat' (first | assumption | (with_reducible refine foldl_wf _ _ _ ?_ ?_; rotate_left; intro _ _ _) | split)
  all_goals (simp (maxDischargeDepth := 9) [*])

@[simp] theorem wf_failTo (s : State) (t : BitVec 26 → Bool) (c : Nat) (hw : memoryWf s.ms.mem = true) : memoryWf (failTo s t c).ms.mem = true := by
  unfold failTo
  dsimp only
  exact foldl_wf _ _ _ (by simp (maxDischargeDepth := 9) [hw]) fun s o h => by simp [h]

@[simp] theorem wf_evictedReturn (s : State) (hw : memoryWf s.ms.mem = true) : memoryWf (evictedReturn s).ms.mem = true := by
  unfold evictedReturn
  (try dsimp only)
  repeat' (first | assumption | (with_reducible refine foldl_wf _ _ _ ?_ ?_; rotate_left; intro _ _ _) | split)
  all_goals (simp (maxDischargeDepth := 9) [*])

@[simp] theorem mem_markBad (s : State) (core : Nat) (w : Nat) : (markBad s core w).ms.mem = s.ms.mem := by
  unfold markBad
  (try dsimp only)
  repeat' (first | rfl | assumption | (with_reducible refine (foldl_mem _ _ _ ?_).trans ?_; intro _ _) | split)
  all_goals (first | rfl | simp)

theorem wf_engWrite {s t : State} {e : Agent} {pol : BitVec 2} {p : Piece} {v : Nat} {b : Bool}
    (h : engWrite s e pol p v b = .ok t) (hw : memoryWf s.ms.mem = true) : memoryWf t.ms.mem = true := by
  unfold engWrite at h
  dsimp only at h
  repeat' split at h
  all_goals first
    | (cases h; done)
    | (simp only [Except.ok.injEq] at h; subst h; simp (maxDischargeDepth := 9) [hw])

@[simp] theorem wf_writeSeg (s : State) (r : Recv) (p : Payload) (row : Bool) (o : Nat) (bitsLeft : Nat) (ps : List Piece) (hw : memoryWf s.ms.mem = true) : memoryWf (writeSeg s r p row o bitsLeft ps).1.ms.mem = true := by
  induction ps generalizing s o bitsLeft with
  | nil => exact hw
  | cons q t ih =>
    unfold writeSeg
    dsimp only
    repeat' split
    all_goals first
      | exact hw
      | (simp [hw]; done)
      | exact ih _ _ _ (wf_engWrite ‹_› hw)

@[simp] theorem wf_writeSegs (s : State) (r : Recv) (p : Payload) (w : Nat) (gs : List Seg) (landed : Nat) (hw : memoryWf s.ms.mem = true) : memoryWf (writeSegs s r p w gs landed).1.ms.mem = true := by
  induction gs generalizing s landed with
  | nil => exact hw
  | cons g t ih =>
    unfold writeSegs
    dsimp only
    repeat' split
    · exact hw
    · exact ih _ _ (wf_writeSeg _ _ _ _ _ _ _ hw)
    · exact wf_writeSeg _ _ _ _ _ _ _ hw

@[simp] theorem mem_setRecv (s : State) (d : Nat) (r : RecvEng) : (setRecv s d r).ms.mem = s.ms.mem := by
  unfold setRecv
  (try dsimp only)
  repeat' (first | rfl | assumption | (with_reducible refine (foldl_mem _ _ _ ?_).trans ?_; intro _ _) | split)
  all_goals (first | rfl | simp)

@[simp] theorem wf_recordWord (s : State) (r : Recv) (o : Nat) (v : Nat) (hw : memoryWf s.ms.mem = true) : memoryWf (recordWord s r o v).ms.mem = true := by
  unfold recordWord
  (try dsimp only)
  repeat' (first | assumption | (with_reducible refine foldl_wf _ _ _ ?_ ?_; rotate_left; intro _ _ _) | split)
  all_goals (simp (maxDischargeDepth := 9) [*])

@[simp] theorem wf_writeRecord (s : State) (die : Nat) (r : Recv) (tag : Nat) (src : Nat) (len : Nat) (mlen : Nat) (code : Nat) (hw : memoryWf s.ms.mem = true) : memoryWf (writeRecord s die r tag src len mlen code).ms.mem = true := by
  unfold writeRecord
  (try dsimp only)
  repeat' (first | assumption | (with_reducible refine foldl_wf _ _ _ ?_ ?_; rotate_left; intro _ _ _) | split)
  all_goals (simp (maxDischargeDepth := 9) [*])

@[simp] theorem wf_land (s : State) (die : Nat) (r : Recv) (p : Sys2Proof.Packet) (pay : Payload) (hw : memoryWf s.ms.mem = true) : memoryWf (land s die r p pay).1.ms.mem = true := by
  unfold land
  (try dsimp only)
  repeat' (first | assumption | (with_reducible refine foldl_wf _ _ _ ?_ ?_; rotate_left; intro _ _ _) | split)
  all_goals (simp (maxDischargeDepth := 9) [*])

@[simp] theorem wf_tellSender (s : State) (die : Nat) (r : Recv) (p : Sys2Proof.Packet) (len : Nat) (code : Nat) (hw : memoryWf s.ms.mem = true) : memoryWf (tellSender s die r p len code).ms.mem = true := by
  unfold tellSender
  (try dsimp only)
  repeat' (first | assumption | (with_reducible refine foldl_wf _ _ _ ?_ ?_; rotate_left; intro _ _ _) | split)
  all_goals (simp (maxDischargeDepth := 9) [*])

@[simp] theorem wf_landNow (s : State) (die : Nat) (r : Recv) (p : Sys2Proof.Packet) (pay : Payload) (hw : memoryWf s.ms.mem = true) : memoryWf (landNow s die r p pay).ms.mem = true := by
  simp (maxDischargeDepth := 9) [Machine.landNow, hw]

@[simp] theorem wf_matched (s : State) (die : Nat) (r : Recv) (p : Sys2Proof.Packet) (hw : memoryWf s.ms.mem = true) : memoryWf (matched s die r p).ms.mem = true := by
  unfold matched
  (try dsimp only)
  repeat' (first | assumption | (with_reducible refine foldl_wf _ _ _ ?_ ?_; rotate_left; intro _ _ _) | split)
  all_goals (simp (maxDischargeDepth := 9) [*])

@[simp] theorem wf_sendArrive (s : State) (p : Sys2Proof.Packet) (hw : memoryWf s.ms.mem = true) : memoryWf (sendArrive s p).ms.mem = true := by
  unfold sendArrive
  (try dsimp only)
  repeat' (first | assumption | (with_reducible refine foldl_wf _ _ _ ?_ ?_; rotate_left; intro _ _ _) | split)
  all_goals (simp (maxDischargeDepth := 9) [*])

@[simp] theorem wf_eagerArrive (s : State) (k : Nat) (hw : memoryWf s.ms.mem = true) : memoryWf (eagerArrive s k).ms.mem = true := by
  unfold eagerArrive
  (try dsimp only)
  repeat' (first | assumption | (with_reducible refine foldl_wf _ _ _ ?_ ?_; rotate_left; intro _ _ _) | split)
  all_goals (simp (maxDischargeDepth := 9) [*])

@[simp] theorem wf_rendezvousArrive (s : State) (k : Nat) (hw : memoryWf s.ms.mem = true) : memoryWf (rendezvousArrive s k).ms.mem = true := by
  unfold rendezvousArrive
  (try dsimp only)
  repeat' (first | assumption | (with_reducible refine foldl_wf _ _ _ ?_ ?_; rotate_left; intro _ _ _) | split)
  all_goals (simp (maxDischargeDepth := 9) [*])

@[simp] theorem wf_noticeArrive (s : State) (p : Sys2Proof.Packet) (hw : memoryWf s.ms.mem = true) : memoryWf (noticeArrive s p).ms.mem = true := by
  unfold noticeArrive
  (try dsimp only)
  repeat' (first | assumption | (with_reducible refine foldl_wf _ _ _ ?_ ?_; rotate_left; intro _ _ _) | split)
  all_goals (simp (maxDischargeDepth := 9) [*])

@[simp] theorem wf_kickArrive (s : State) (k : Nat) (hw : memoryWf s.ms.mem = true) : memoryWf (kickArrive s k).ms.mem = true := by
  unfold kickArrive
  (try dsimp only)
  repeat' (first | assumption | (with_reducible refine foldl_wf _ _ _ ?_ ?_; rotate_left; intro _ _ _) | split)
  all_goals (simp (maxDischargeDepth := 9) [*])

@[simp] theorem mem_unread (s t : State) : (unread s t).ms.mem = t.ms.mem := rfl

@[simp] theorem wf_offerRemote (s : State) (pa : Nat) (migr : Bool) (g : Fibre) (gd : Sys2Proof.Reg) (hw : memoryWf s.ms.mem = true) : memoryWf (offerRemote s pa migr g gd).2.ms.mem = true := by
  simp [offerRemote, hw]

@[simp] theorem wf_leaveFor (s : State) (pa : Nat) (hw : memoryWf s.ms.mem = true) : memoryWf (leaveFor s pa).ms.mem = true := by
  unfold leaveFor
  (try dsimp only)
  repeat' (first | assumption | (with_reducible refine foldl_wf _ _ _ ?_ ?_; rotate_left; intro _ _ _) | split)
  all_goals (simp (maxDischargeDepth := 9) [*])

@[simp] theorem wf_raiseAfter (s : State) (hcall : Bool) (c : Nat) (v : Sys2Proof.Word) (hw : memoryWf s.ms.mem = true) : memoryWf (raiseAfter s hcall c v).ms.mem = true := by
  unfold raiseAfter
  (try dsimp only)
  repeat' (first | assumption | (with_reducible refine foldl_wf _ _ _ ?_ ?_; rotate_left; intro _ _ _) | split)
  all_goals (simp (maxDischargeDepth := 9) [*])

/-- Whether the states of an effect keep the canonical form. -/
def effWf (e : Eff) : Prop :=
  match e with
  | .done t => memoryWf t.ms.mem = true
  | .jump t _ => memoryWf t.ms.mem = true
  | .park _ t => memoryWf t.ms.mem = true
  | .later _ _ t => memoryWf t.ms.mem = true
  | .hold _ t => memoryWf t.ms.mem = true
  | .travel _ t => memoryWf t.ms.mem = true
  | .raw t => memoryWf t.ms.mem = true
  | .leave _ t => memoryWf t.ms.mem = true
  | _ => True

/-- Whether the next state of an outcome keeps the canonical form. -/
def outWf (o : Out) : Prop :=
  match o with
  | .next t => memoryWf t.ms.mem = true
  | _ => True

@[simp] theorem outWf_next (t : State) : outWf (.next t) = (memoryWf t.ms.mem = true) := rfl

theorem wf_carry (s : State) (u : Use) (e : Eff) (hw : memoryWf s.ms.mem = true) (he : effWf e) :
    memoryWf (carry s u e).ms.mem = true := by
  cases e <;> simp_all [carry, effWf]

theorem wf_resumeWith (s : State) (u : Use) (e : State → Eff) (hw : memoryWf s.ms.mem = true)
    (he : ∀ t, memoryWf t.ms.mem = true → effWf (e t)) : memoryWf (resumeWith s u e).ms.mem = true := by
  unfold resumeWith
  split
  · simp [hw]
  · exact wf_carry _ _ _ hw (he _ (by simp [hw]))

/-- What an instruction that issues leaves keeps the canonical form, when its own effect does. -/
theorem wf_issue (s : State) (u : Use) (body : State → List Word → Eff) (hw : memoryWf s.ms.mem = true)
    (hb : ∀ t v, memoryWf t.ms.mem = true → effWf (body t v)) : outWf (issue s u body) := by
  unfold issue
  dsimp only
  repeat' split
  all_goals first
    | (simp (maxDischargeDepth := 9) [hw]; done)
    | exact wf_carry _ _ _ (by simp (maxDischargeDepth := 9) [hw]) (hb _ _ (by simp (maxDischargeDepth := 9) [hw]))

@[simp] theorem mem_setBarrier (s : State) (b : Barrier) : (setBarrier s b).ms.mem = s.ms.mem := by
  unfold setBarrier
  (try dsimp only)
  repeat' (first | rfl | assumption | (with_reducible refine (foldl_mem _ _ _ ?_).trans ?_; intro _ _) | split)
  all_goals (first | rfl | simp)

@[simp] theorem mem_modReq (s : State) (id : Nat) (g : Req → Req) : (modReq s id g).ms.mem = s.ms.mem := by
  unfold modReq
  (try dsimp only)
  repeat' (first | rfl | assumption | (with_reducible refine (foldl_mem _ _ _ ?_).trans ?_; intro _ _) | split)
  all_goals (first | rfl | simp)

@[simp] theorem mem_askWithdraw (s : State) (fs : List Fibre) : (askWithdraw s fs).ms.mem = s.ms.mem := by
  unfold askWithdraw
  (try dsimp only)
  repeat' (first | rfl | assumption | (with_reducible refine (foldl_mem _ _ _ ?_).trans ?_; intro _ _) | split)
  all_goals (first | rfl | simp)

@[simp] theorem mem_setFailed (s : State) (d : Sys2Proof.Reg) (c : Nat) (va : Sys2Proof.Word) : (setFailed s d c va).ms.mem = s.ms.mem := by
  unfold setFailed
  (try dsimp only)
  repeat' (first | rfl | assumption | (with_reducible refine (foldl_mem _ _ _ ?_).trans ?_; intro _ _) | split)
  all_goals (first | rfl | simp)

@[simp] theorem mem_setLong (s : State) (d : Sys2Proof.Reg) (v : Sys2Proof.Word) (fl : BitVec 5) : (setLong s d v fl).ms.mem = s.ms.mem := by
  unfold setLong
  (try dsimp only)
  repeat' (first | rfl | assumption | (with_reducible refine (foldl_mem _ _ _ ?_).trans ?_; intro _ _) | split)
  all_goals (first | rfl | simp)

@[simp] theorem mem_dropLease (s : State) (r : Req) : (dropLease s r).ms.mem = s.ms.mem := by
  unfold dropLease
  (try dsimp only)
  repeat' (first | rfl | assumption | (with_reducible refine (foldl_mem _ _ _ ?_).trans ?_; intro _ _) | split)
  all_goals (first | rfl | simp)

@[simp] theorem mem_setAwait (s : State) (n : Nat) (d : Sys2Proof.Reg) : (setAwait s n d).ms.mem = s.ms.mem := by
  unfold setAwait
  (try dsimp only)
  repeat' (first | rfl | assumption | (with_reducible refine (foldl_mem _ _ _ ?_).trans ?_; intro _ _) | split)
  all_goals (first | rfl | simp)

@[simp] theorem wf_queueReq (s : State) (r : Req) (lease : Bool) (hw : memoryWf s.ms.mem = true) : memoryWf (queueReq s r lease).ms.mem = true := by
  unfold queueReq
  (try dsimp only)
  repeat' (first | assumption | (with_reducible refine foldl_wf _ _ _ ?_ ?_; rotate_left; intro _ _ _) | split)
  all_goals (simp (maxDischargeDepth := 9) [*])

@[simp] theorem wf_queueReqs (l : List Nat) (g : State → Nat → Req) (s : State) (hw : memoryWf s.ms.mem = true) :
    memoryWf (l.foldl (fun s k => queueReq s (g s k) false) s).ms.mem = true :=
  foldl_wf _ _ _ hw fun s k h => by simp [h]

@[simp] theorem wf_doLoad (s : State) (r : Req) (d : Sys2Proof.Reg) (hw : memoryWf s.ms.mem = true) : memoryWf (doLoad s r d).ms.mem = true := by
  unfold doLoad
  have h1 : memoryWf (dropLease s r).ms.mem = true := by simp [hw]
  dsimp only
  generalize (if isRemote s r.pa then unreachable s (paMod r.pa) else none) = o
  generalize (if isRemote s r.pa && mayLease r && mayPerform s r then usableLease s r else none) = q
  generalize dropLease s r = t at *
  repeat' split
  all_goals first
    | (simp (maxDischargeDepth := 9) [hw, h1]; done)
    | (simp [wf_perf_done ‹_› h1])
    | (simp [wf_perf_fail ‹_› h1])

@[simp] theorem mem_countFault (s : State) (u : Sys2Proof.FaultUnit) (n : Nat) : (countFault s u n).1.ms.mem = s.ms.mem := by
  unfold countFault
  (try dsimp only)
  repeat' (first | rfl | assumption | (with_reducible refine (foldl_mem _ _ _ ?_).trans ?_; intro _ _) | split)
  all_goals (first | rfl | simp)

@[simp] theorem mem_retireLink (s : State) (f : Nat) : (retireLink s f).ms.mem = s.ms.mem := by
  unfold retireLink
  (try dsimp only)
  repeat' (first | rfl | assumption | (with_reducible refine (foldl_mem _ _ _ ?_).trans ?_; intro _ _) | split)
  all_goals (first | rfl | simp)

@[simp] theorem mem_authFailed (s : State) (f : Nat) : (authFailed s f).ms.mem = s.ms.mem := by
  unfold authFailed
  (try dsimp only)
  repeat' (first | rfl | assumption | (with_reducible refine (foldl_mem _ _ _ ?_).trans ?_; intro _ _) | split)
  all_goals (first | rfl | simp)

@[simp] theorem mem_beginTurn (s : State) : (beginTurn s).ms.mem = s.ms.mem := by
  unfold beginTurn
  (try dsimp only)
  repeat' (first | rfl | assumption | (with_reducible refine (foldl_mem _ _ _ ?_).trans ?_; intro _ _) | split)
  all_goals (first | rfl | simp)

@[simp] theorem mem_disownLine (s : State) (core : Nat) (a : Acc) : (disownLine s core a).ms.mem = s.ms.mem := by
  unfold disownLine
  (try dsimp only)
  repeat' (first | rfl | assumption | (with_reducible refine (foldl_mem _ _ _ ?_).trans ?_; intro _ _) | split)
  all_goals (first | rfl | simp)

@[simp] theorem wf_cacheOp (s : State) (core : Nat) (a : Acc) (op : Nat) (hw : memoryWf s.ms.mem = true) : memoryWf (cacheOp s core a op).ms.mem = true := by
  unfold cacheOp
  (try dsimp only)
  repeat' (first | assumption | (with_reducible refine foldl_wf _ _ _ ?_ ?_; rotate_left; intro _ _ _) | split)
  all_goals (simp (maxDischargeDepth := 9) [*])

@[simp] theorem mem_pushTask (s : State) (core : Nat) (t : Task) : (pushTask s core t).ms.mem = s.ms.mem := by
  unfold pushTask
  (try dsimp only)
  repeat' (first | rfl | assumption | (with_reducible refine (foldl_mem _ _ _ ?_).trans ?_; intro _ _) | split)
  all_goals (first | rfl | simp)

@[simp] theorem mem_callTo (s : State) (core : Nat) (v : List Sys2Proof.Word) (sc : BitVec 4) : (callTo s core v sc).ms.mem = s.ms.mem := by
  unfold callTo
  (try dsimp only)
  repeat' (first | rfl | assumption | (with_reducible refine (foldl_mem _ _ _ ?_).trans ?_; intro _ _) | split)
  all_goals (first | rfl | simp)

@[simp] theorem wf_callatAnswer (s : State) (n : Nat) (hw : memoryWf s.ms.mem = true) : memoryWf (callatAnswer s n).ms.mem = true := by
  unfold callatAnswer
  (try dsimp only)
  repeat' (first | assumption | (with_reducible refine foldl_wf _ _ _ ?_ ?_; rotate_left; intro _ _ _) | split)
  all_goals (simp (maxDischargeDepth := 9) [*])

@[simp] theorem wf_cancelRecv (s : State) (die : Nat) (ten : BitVec 4) (va : Sys2Proof.Word) (hw : memoryWf s.ms.mem = true) : memoryWf (cancelRecv s die ten va).ms.mem = true := by
  unfold cancelRecv
  (try dsimp only)
  repeat' (first | assumption | (with_reducible refine foldl_wf _ _ _ ?_ ?_; rotate_left; intro _ _ _) | split)
  all_goals (simp (maxDischargeDepth := 9) [*])

@[simp] theorem wf_cancelEvent (s : State) (f : Nat) (hw : memoryWf s.ms.mem = true) : memoryWf (cancelEvent s f).ms.mem = true := by
  unfold cancelEvent
  (try dsimp only)
  repeat' (first | assumption | (with_reducible refine foldl_wf _ _ _ ?_ ?_; rotate_left; intro _ _ _) | split)
  all_goals (simp (maxDischargeDepth := 9) [*])

@[simp] theorem mem_refusalRetry (s : State) (id : Nat) : (refusalRetry s id).ms.mem = s.ms.mem := by
  unfold refusalRetry
  (try dsimp only)
  repeat' (first | rfl | assumption | (with_reducible refine (foldl_mem _ _ _ ?_).trans ?_; intro _ _) | split)
  all_goals (first | rfl | simp)

@[simp] theorem mem_pairAnswered (s : State) (p : Sys2Proof.Packet) : (pairAnswered s p).ms.mem = s.ms.mem := by
  unfold pairAnswered
  (try dsimp only)
  repeat' (first | rfl | assumption | (with_reducible refine (foldl_mem _ _ _ ?_).trans ?_; intro _ _) | split)
  all_goals (first | rfl | simp)

@[simp] theorem mem_enterModule (s : State) (p : Sys2Proof.Packet) : (enterModule s p).ms.mem = s.ms.mem := by
  unfold enterModule
  (try dsimp only)
  repeat' (first | rfl | assumption | (with_reducible refine (foldl_mem _ _ _ ?_).trans ?_; intro _ _) | split)
  all_goals (first | rfl | simp)

@[simp] theorem mem_ingress (s : State) : (ingress s).ms.mem = s.ms.mem := by
  unfold ingress
  (try dsimp only)
  repeat' (first | rfl | assumption | (with_reducible refine (foldl_mem _ _ _ ?_).trans ?_; intro _ _) | split)
  all_goals (first | rfl | simp)

@[simp] theorem mem_queueOn (s : State) (f : Nat) (p : Sys2Proof.Packet) (d : Nat) (turned : Bool) : (queueOn s f p d turned).ms.mem = s.ms.mem := by
  unfold queueOn
  (try dsimp only)
  repeat' (first | rfl | assumption | (with_reducible refine (foldl_mem _ _ _ ?_).trans ?_; intro _ _) | split)
  all_goals (first | rfl | simp)

@[simp] theorem mem_forward (s : State) : (forward s).ms.mem = s.ms.mem := by
  unfold forward
  (try dsimp only)
  repeat' (first | rfl | assumption | (with_reducible refine (foldl_mem _ _ _ ?_).trans ?_; intro _ _) | split)
  all_goals (first | rfl | simp)

@[simp] theorem mem_detourTimeout (s : State) (f : Nat) : (detourTimeout s f).ms.mem = s.ms.mem := by
  unfold detourTimeout
  (try dsimp only)
  repeat' (first | rfl | assumption | (with_reducible refine (foldl_mem _ _ _ ?_).trans ?_; intro _ _) | split)
  all_goals (first | rfl | simp)

@[simp] theorem mem_transmit (s : State) (f : Nat) : (transmit s f).ms.mem = s.ms.mem := by
  unfold transmit
  (try dsimp only)
  repeat' (first | rfl | assumption | (with_reducible refine (foldl_mem _ _ _ ?_).trans ?_; intro _ _) | split)
  all_goals (first | rfl | simp)

@[simp] theorem wf_performReq (s : State) (r : Req) (hw : memoryWf s.ms.mem = true) : memoryWf (performReq s r).ms.mem = true := by
  unfold performReq
  split
  · simp [hw]
  split
  · simp [wf_perf_done ‹_› hw]
  · simp [wf_perf_fail ‹_› hw]
  · simp [wf_perf_wait ‹_› hw]
  · simp [hw]

@[simp] theorem wf_feServed (s : State) (id : Nat) (hw : memoryWf s.ms.mem = true) : memoryWf (feServed s id).ms.mem = true := by
  unfold feServed
  repeat' split
  all_goals first
    | (simp (maxDischargeDepth := 9) [*]; done)
    | (simp [wf_perf_done ‹_› hw])
    | (simp [wf_perf_fail ‹_› hw])
    | (simp [wf_perf_wait ‹_› hw])

@[simp] theorem wf_homeRequest (s : State) (id : Nat) (hint : BitVec 8) (hw : memoryWf s.ms.mem = true) : memoryWf (homeRequest s id hint).ms.mem = true := by
  unfold homeRequest
  (try dsimp only)
  repeat' (first | assumption | (with_reducible refine foldl_wf _ _ _ ?_ ?_; rotate_left; intro _ _ _) | split)
  all_goals (simp (maxDischargeDepth := 9) [*])

@[simp] theorem mem_walkComplete (s : State) (w : Nat) : (walkComplete s w).ms.mem = s.ms.mem := by
  unfold walkComplete
  dsimp only
  split
  · rfl
  · rw [mem_modFibres]
    split
    · rfl
    · exact foldl_mem _ _ _ (by intro _ _; simp)

@[simp] theorem wf_trapHeld (s : State) (n : Nat) (pfx : Option (BitVec 64)) (c : Nat) (v : Sys2Proof.Word) (hw : memoryWf s.ms.mem = true) : memoryWf (trapHeld s n pfx c v).ms.mem = true := by
  unfold trapHeld
  (try dsimp only)
  repeat' (first | assumption | (with_reducible refine foldl_wf _ _ _ ?_ ?_; rotate_left; intro _ _ _) | split)
  all_goals (simp (maxDischargeDepth := 9) [*])

@[simp] theorem wf_tileWrElem (s : State) (a : TileAt) (fmt : Nat) (i : Nat) (j : Nat) (code : Nat) (hw : memoryWf s.ms.mem = true) : memoryWf (tileWrElem s a fmt i j code).ms.mem = true := by
  unfold tileWrElem
  dsimp only
  split <;> exact memoryWf_foldl _ _ (fun m x h => memoryWf_mset m _ _ h) _ hw

@[simp] theorem wf_tileWrBytes (s : State) (a : TileAt) (n : Nat) (bs : List Nat) (hw : memoryWf s.ms.mem = true) : memoryWf (tileWrBytes s a n bs).ms.mem = true := by
  induction bs generalizing s n with
  | nil => simpa [tileWrBytes] using hw
  | cons b r ih =>
    unfold tileWrBytes
    exact ih _ _ (wf_tileWrElem s a 9 _ _ b hw)

@[simp] theorem wf_vecWrite (s : State) (p : VPlan) (o : VOut) (hw : memoryWf s.ms.mem = true) : memoryWf (vecWrite s p o).ms.mem = true := by
  unfold vecWrite
  have h1 := wf_tileWrRows s p.d.tile (fmtWidth p.f.fd) 0 o.rows hw
  have h2 := foldl_wf o.elems (fun s e => tileWrElem s p.d.tile p.f.fd e.1 e.2.1 e.2.2) _ h1 (fun s e h => wf_tileWrElem _ _ _ _ _ _ h)
  dsimp only
  repeat' split
  all_goals simp [h2]

@[simp] theorem wf_vecComplete (s : State) (j : VecJob) (core : Nat) (op : VOp) (hw : memoryWf s.ms.mem = true) : memoryWf (vecComplete s j core op).ms.mem = true := by
  unfold vecComplete
  (try dsimp only)
  repeat' (first | assumption | (with_reducible refine foldl_wf _ _ _ ?_ ?_; rotate_left; intro _ _ _) | split)
  all_goals (simp (maxDischargeDepth := 9) [*])

@[simp] theorem wf_vectorDone (s : State) (n : Nat) (hw : memoryWf s.ms.mem = true) : memoryWf (vectorDone s n).ms.mem = true := by
  unfold vectorDone
  (try dsimp only)
  repeat' (first | assumption | (with_reducible refine foldl_wf _ _ _ ?_ ?_; rotate_left; intro _ _ _) | split)
  all_goals (simp (maxDischargeDepth := 9) [*])

@[simp] theorem wf_gmsgWrite (s : State) (n : Nat) (hw : memoryWf s.ms.mem = true) : memoryWf (gmsgWrite s n).ms.mem = true := by
  unfold gmsgWrite
  (try dsimp only)
  repeat' (first | assumption | (with_reducible refine foldl_wf _ _ _ ?_ ?_; rotate_left; intro _ _ _) | split)
  all_goals (simp (maxDischargeDepth := 9) [*])

@[simp] theorem mem_setBook (s : State) (core : Nat) (b : Tbl (BitVec 32)) : (setBook s core b).ms.mem = s.ms.mem := by
  unfold setBook
  (try dsimp only)
  repeat' (first | rfl | assumption | (with_reducible refine (foldl_mem _ _ _ ?_).trans ?_; intro _ _) | split)
  all_goals (first | rfl | simp)

@[simp] theorem mem_codebookReplace (s : State) (n : Nat) : (codebookReplace s n).ms.mem = s.ms.mem := by
  unfold codebookReplace
  (try dsimp only)
  repeat' (first | rfl | assumption | (with_reducible refine (foldl_mem _ _ _ ?_).trans ?_; intro _ _) | split)
  all_goals (first | rfl | simp)

@[simp] theorem mem_tlbRemove (s : State) (f : Fibre) (sc : BitVec 4) (m : Sys2Proof.Word) (all : Bool) (va : Nat) : (tlbRemove s f sc m all va).ms.mem = s.ms.mem := by
  unfold tlbRemove
  (try dsimp only)
  repeat' (first | rfl | assumption | (with_reducible refine (foldl_mem _ _ _ ?_).trans ?_; intro _ _) | split)
  all_goals (first | rfl | simp)

@[simp] theorem mem_tlbDone (s : State) (n : Nat) : (tlbDone s n).ms.mem = s.ms.mem := by
  unfold tlbDone
  (try dsimp only)
  repeat' (first | rfl | assumption | (with_reducible refine (foldl_mem _ _ _ ?_).trans ?_; intro _ _) | split)
  all_goals (first | rfl | simp)

@[simp] theorem mem_maskDone (s : State) (n : Nat) : (maskDone s n).ms.mem = s.ms.mem := by
  unfold maskDone
  (try dsimp only)
  repeat' (first | rfl | assumption | (with_reducible refine (foldl_mem _ _ _ ?_).trans ?_; intro _ _) | split)
  all_goals (first | rfl | simp)

@[simp] theorem wf_freeAlloc (s : State) (a : Alloc) (hw : memoryWf s.ms.mem = true) : memoryWf (freeAlloc s a).ms.mem = true := by
  unfold freeAlloc
  (try dsimp only)
  repeat' (first | assumption | (with_reducible refine foldl_wf _ _ _ ?_ ?_; rotate_left; intro _ _ _) | split)
  all_goals (simp (maxDischargeDepth := 9) [*])

@[simp] theorem mem_emptyStat (s : State) (r : Recv) : (emptyStat s r).ms.mem = s.ms.mem := by
  unfold emptyStat
  (try dsimp only)
  repeat' (first | rfl | assumption | (with_reducible refine (foldl_mem _ _ _ ?_).trans ?_; intro _ _) | split)
  all_goals (first | rfl | simp)

@[simp] theorem mem_recvTake (s : State) (r : Recv) : (recvTake s r).1.ms.mem = s.ms.mem := by
  unfold recvTake
  (try dsimp only)
  repeat' (first | rfl | assumption | (with_reducible refine (foldl_mem _ _ _ ?_).trans ?_; intro _ _) | split)
  all_goals (first | rfl | simp)

@[simp] theorem wf_postRecv (s : State) (die : Nat) (r : Recv) (hw : memoryWf s.ms.mem = true) : memoryWf (postRecv s die r).ms.mem = true := by
  unfold postRecv
  (try dsimp only)
  repeat' (first | assumption | (with_reducible refine foldl_wf _ _ _ ?_ ?_; rotate_left; intro _ _ _) | split)
  all_goals (simp (maxDischargeDepth := 9) [*])

@[simp] theorem wf_postEvent (s : State) (f : Nat) (dies : List Nat) (hw : memoryWf s.ms.mem = true) : memoryWf (postEvent s f dies).ms.mem = true := by
  induction dies generalizing s with
  | nil => exact hw
  | cons d t ih =>
    unfold postEvent
    dsimp only
    repeat' split
    all_goals first | exact ih _ hw | simp (maxDischargeDepth := 9) [hw]

@[simp] theorem mem_putHandler (s : State) (ten : Nat) (e : Nat) (v : BitVec 65) : (putHandler s ten e v).ms.mem = s.ms.mem := by
  unfold putHandler
  (try dsimp only)
  repeat' (first | rfl | assumption | (with_reducible refine (foldl_mem _ _ _ ?_).trans ?_; intro _ _) | split)
  all_goals (first | rfl | simp)

@[simp] theorem mem_rewriteEnd (s : State) (k : Nat) : (rewriteEnd s k).ms.mem = s.ms.mem := by
  unfold rewriteEnd
  (try dsimp only)
  repeat' (first | rfl | assumption | (with_reducible refine (foldl_mem _ _ _ ?_).trans ?_; intro _ _) | split)
  all_goals (first | rfl | simp)

@[simp] theorem mem_takeTile (s : State) (c : Copy) : (takeTile s c).1.ms.mem = s.ms.mem := by
  unfold takeTile
  (try dsimp only)
  repeat' (first | rfl | assumption | (with_reducible refine (foldl_mem _ _ _ ?_).trans ?_; intro _ _) | split)
  all_goals (first | rfl | simp)

@[simp] theorem mem_copyStart (s : State) (core : Nat) : (copyStart s core).ms.mem = s.ms.mem := by
  unfold copyStart
  (try dsimp only)
  repeat' (first | rfl | assumption | (with_reducible refine (foldl_mem _ _ _ ?_).trans ?_; intro _ _) | split)
  all_goals (first | rfl | simp)

@[simp] theorem wf_moveWords (s : State) (e : Agent) (sp : BitVec 2) (dp : BitVec 2) (src : List Piece) (dst : List Piece) (moved : Nat) (hw : memoryWf s.ms.mem = true) : memoryWf (moveWords s e sp dp src dst moved).1.ms.mem = true := by
  induction src generalizing s dst moved with
  | nil => exact hw
  | cons a x ih =>
    cases dst with
    | nil => exact hw
    | cons b y =>
      unfold moveWords
      repeat' split
      all_goals first
        | exact hw
        | exact wf_engRead ‹_› hw
        | (simp [hw]; done)
        | (simp [wf_engRead ‹_› hw]; done)
        | exact ih _ _ _ (wf_engWrite ‹_› (wf_engRead ‹_› hw))

@[simp] theorem wf_finishCopy (s : State) (core : Nat) (x : Copy) (hw : memoryWf s.ms.mem = true) : memoryWf (finishCopy s core x).ms.mem = true := by
  unfold finishCopy
  (try dsimp only)
  repeat' (first | assumption | (with_reducible refine foldl_wf _ _ _ ?_ ?_; rotate_left; intro _ _ _) | split)
  all_goals (simp (maxDischargeDepth := 9) [*])

@[simp] theorem wf_copyComplete (s : State) (core : Nat) (hw : memoryWf s.ms.mem = true) : memoryWf (copyComplete s core).ms.mem = true := by
  unfold copyComplete
  (try dsimp only)
  repeat' (first | assumption | (with_reducible refine foldl_wf _ _ _ ?_ ?_; rotate_left; intro _ _ _) | split)
  all_goals (simp (maxDischargeDepth := 9) [*])

@[simp] theorem mem_kickStart (s : State) (core : Nat) : (kickStart s core).ms.mem = s.ms.mem := by
  unfold kickStart
  (try dsimp only)
  repeat' (first | rfl | assumption | (with_reducible refine (foldl_mem _ _ _ ?_).trans ?_; intro _ _) | split)
  all_goals (first | rfl | simp)

@[simp] theorem mem_pullSource (s : State) (e : Agent) (src : BitVec 26) (reqid : Nat) (va : Sys2Proof.Word) (len : Nat) : (pullSource s e src reqid va len).1.ms.mem = s.ms.mem := by
  unfold pullSource
  (try dsimp only)
  repeat' (first | rfl | assumption | (with_reducible refine (foldl_mem _ _ _ ?_).trans ?_; intro _ _) | split)
  all_goals (first | rfl | simp)

@[simp] theorem wf_kickMove (s : State) (core : Nat) (k : Notice) (hw : memoryWf s.ms.mem = true) : memoryWf (kickMove s core k).1.ms.mem = true := by
  unfold kickMove
  (try dsimp only)
  repeat' (first | assumption | (with_reducible refine foldl_wf _ _ _ ?_ ?_; rotate_left; intro _ _ _) | split)
  all_goals (simp (maxDischargeDepth := 9) [*])

@[simp] theorem wf_kickComplete (s : State) (core : Nat) (hw : memoryWf s.ms.mem = true) : memoryWf (kickComplete s core).ms.mem = true := by
  unfold kickComplete
  (try dsimp only)
  repeat' (first | assumption | (with_reducible refine foldl_wf _ _ _ ?_ ?_; rotate_left; intro _ _ _) | split)
  all_goals (simp (maxDischargeDepth := 9) [*])

@[simp] theorem mem_handlerStart (s : State) (core : Nat) : (handlerStart s core).ms.mem = s.ms.mem := by
  unfold handlerStart
  (try dsimp only)
  repeat' (first | rfl | assumption | (with_reducible refine (foldl_mem _ _ _ ?_).trans ?_; intro _ _) | split)
  all_goals (first | rfl | simp)

@[simp] theorem mem_taskStart (s : State) (core : Nat) : (taskStart s core).ms.mem = s.ms.mem := by
  unfold taskStart
  (try dsimp only)
  repeat' (first | rfl | assumption | (with_reducible refine (foldl_mem _ _ _ ?_).trans ?_; intro _ _) | split)
  all_goals (first | rfl | simp)

@[simp] theorem wf_settleWalk (s : State) (cl : Nat) (hw : memoryWf s.ms.mem = true) : memoryWf (settleWalk s cl).ms.mem = true := by
  unfold settleWalk
  (try dsimp only)
  repeat' (first | assumption | (with_reducible refine foldl_wf _ _ _ ?_ ?_; rotate_left; intro _ _ _) | split)
  all_goals (simp (maxDischargeDepth := 9) [*])

@[simp] theorem mem_nodeTask (s : State) (w : Walker) : (nodeTask s w).ms.mem = s.ms.mem := by
  unfold nodeTask
  (try dsimp only)
  repeat' (first | rfl | assumption | (with_reducible refine (foldl_mem _ _ _ ?_).trans ?_; intro _ _) | split)
  all_goals (first | rfl | simp)

@[simp] theorem mem_placeTasks (n : Nat) (s : State) (cl : Nat) (node : Nat) (x : Node) : (placeTasks n s cl node x).ms.mem = s.ms.mem := by
  induction n generalizing s with
  | zero => rfl
  | succ m ih =>
    unfold placeTasks
    dsimp only
    repeat' split
    all_goals simp [ih]

@[simp] theorem wf_taskNode (s : State) (cl : Nat) (node : Nat) (hw : memoryWf s.ms.mem = true) : memoryWf (taskNode s cl node).ms.mem = true := by
  unfold taskNode
  (try dsimp only)
  repeat' (first | assumption | (with_reducible refine foldl_wf _ _ _ ?_ ?_; rotate_left; intro _ _ _) | split)
  all_goals (simp (maxDischargeDepth := 9) [*])

@[simp] theorem wf_condWord (s : State) (cl : Nat) (w : Walker) (va : Sys2Proof.Word) (hw : memoryWf s.ms.mem = true) : memoryWf (condWord s cl w va).1.ms.mem = true := by
  unfold condWord
  dsimp only
  repeat' split
  all_goals first
    | (simp (maxDischargeDepth := 9) [hw]; done)
    | (simp (maxDischargeDepth := 9) [wf_engRead ‹_› hw]; done)
    | exact wf_perf_done ‹_› hw

@[simp] theorem wf_condNode (s : State) (cl : Nat) (node : Nat) (kind : Nat) (hw : memoryWf s.ms.mem = true) : memoryWf (condNode s cl node kind).ms.mem = true := by
  unfold condNode
  (try dsimp only)
  repeat' (first | assumption | (with_reducible refine foldl_wf _ _ _ ?_ ?_; rotate_left; intro _ _ _) | split)
  all_goals (simp (maxDischargeDepth := 9) [*])

@[simp] theorem wf_joinNode (s : State) (cl : Nat) (node : Nat) (hw : memoryWf s.ms.mem = true) : memoryWf (joinNode s cl node).ms.mem = true := by
  unfold joinNode
  (try dsimp only)
  repeat' (first | assumption | (with_reducible refine foldl_wf _ _ _ ?_ ?_; rotate_left; intro _ _ _) | split)
  all_goals (simp (maxDischargeDepth := 9) [*])

@[simp] theorem wf_latchNode (s : State) (cl : Nat) (node : Nat) (hw : memoryWf s.ms.mem = true) : memoryWf (latchNode s cl node).ms.mem = true := by
  unfold latchNode
  (try dsimp only)
  repeat' (first | assumption | (with_reducible refine foldl_wf _ _ _ ?_ ?_; rotate_left; intro _ _ _) | split)
  all_goals (simp (maxDischargeDepth := 9) [*])

@[simp] theorem wf_nodeComplete (s : State) (cl : Nat) (node : Nat) (hw : memoryWf s.ms.mem = true) : memoryWf (nodeComplete s cl node).ms.mem = true := by
  unfold nodeComplete
  dsimp only
  have h1 := foldl_wf (List.range 16) (fun s' c => releaseAt s' (walkerOf s cl).ten (cl * 16 + c) 2#4) s hw
    (fun s' c h => by simp (maxDischargeDepth := 9) [h])
  repeat' split
  all_goals simp (maxDischargeDepth := 9) [hw, h1]

@[simp] theorem mem_modIndex (s : State) (n : Nat) (g : Index → Index) : (modIndex s n g).ms.mem = s.ms.mem := by
  unfold modIndex
  (try dsimp only)
  repeat' (first | rfl | assumption | (with_reducible refine (foldl_mem _ _ _ ?_).trans ?_; intro _ _) | split)
  all_goals (first | rfl | simp)

@[simp] theorem mem_trimVersions (s : State) (num : Nat) : (trimVersions s num).ms.mem = s.ms.mem := by
  unfold trimVersions
  (try dsimp only)
  repeat' (first | rfl | assumption | (with_reducible refine (foldl_mem _ _ _ ?_).trans ?_; intro _ _) | split)
  all_goals (first | rfl | simp)

@[simp] theorem wf_stampCmd (s : State) (c : IdxCmd) (ten : BitVec 4) (v : Nat) (hw : memoryWf s.ms.mem = true) : memoryWf (stampCmd s c ten v).ms.mem = true := by
  unfold stampCmd
  (try dsimp only)
  repeat' (first | assumption | (with_reducible refine foldl_wf _ _ _ ?_ ?_; rotate_left; intro _ _ _) | split)
  all_goals (simp (maxDischargeDepth := 9) [*])

@[simp] theorem wf_stampError (s : State) (c : IdxCmd) (ten : BitVec 4) (hw : memoryWf s.ms.mem = true) : memoryWf (stampError s c ten).ms.mem = true := by
  unfold stampError
  (try dsimp only)
  repeat' (first | assumption | (with_reducible refine foldl_wf _ _ _ ?_ ?_; rotate_left; intro _ _ _) | split)
  all_goals (simp (maxDischargeDepth := 9) [*])

@[simp] theorem wf_ixStop (v : IxView) (c : IdxCmd) (e : IxErr) (hw : memoryWf v.s.ms.mem = true) : memoryWf (ixStop v c e).ms.mem = true := by
  unfold ixStop
  (try dsimp only)
  repeat' (first | assumption | (with_reducible refine foldl_wf _ _ _ ?_ ?_; rotate_left; intro _ _ _) | split)
  all_goals (simp (maxDischargeDepth := 9) [*])

@[simp] theorem wf_writeResult (s : State) (c : IdxCmd) (i : Nat) (id : Nat) (dist : BitVec 32) (hw : memoryWf s.ms.mem = true) : memoryWf (writeResult s c i id dist).ms.mem = true := by
  simp [writeResult, hw]

@[simp] theorem wf_writeResults (s : State) (c : IdxCmd) (n : Nat) (i : Nat) (rs : List (Nat × BitVec 32)) (hw : memoryWf s.ms.mem = true) : memoryWf (writeResults s c n i rs).ms.mem = true := by
  induction n generalizing s i rs with
  | zero => exact hw
  | succ m ih =>
    unfold writeResults
    split
    · exact ih _ _ _ (wf_writeResult _ _ _ _ _ hw)
    · exact ih _ _ _ (wf_writeResult _ _ _ _ _ hw)

@[simp] theorem wf_searchComplete (s : State) (n : Nat) (hw : memoryWf s.ms.mem = true) : memoryWf (searchComplete s n).ms.mem = true := by
  unfold searchComplete
  split
  · exact hw
  split
  · dsimp only
    split
    · exact hw
    split
    · simp (maxDischargeDepth := 9) [hw]
    · split <;> simp (maxDischargeDepth := 9) [hw]
  · exact hw

theorem wf_ixWrite {s : State} {ix : Index} {e : Agent} {va : Nat} {bs : List Sys2Proof.Byte} {t : State × Bool}
    (h : ixWrite s ix e va bs = some t) (hw : memoryWf s.ms.mem = true) : memoryWf t.1.ms.mem = true := by
  have key : ∀ (l : List Nat) (a : Option (State × Bool)), (∀ u, a = some u → memoryWf u.1.ms.mem = true) →
      ∀ (f : Option (State × Bool) → Nat → Option (State × Bool)),
      (∀ a k, (∀ u, a = some u → memoryWf u.1.ms.mem = true) → ∀ u, f a k = some u → memoryWf u.1.ms.mem = true) →
      ∀ u, l.foldl f a = some u → memoryWf u.1.ms.mem = true := by
    intro l
    induction l with
    | nil => intro a ha f _ u hu; exact ha u hu
    | cons x r ih => intro a ha f hf; exact ih _ (hf a x ha) f hf
  refine key _ _ (fun u hu => by cases hu; exact hw) _ ?_ t h
  intro a k ha u hu
  cases a with
  | none => cases hu
  | some v =>
    have hv := ha v rfl
    dsimp only at hu
    repeat' split at hu
    all_goals first
      | (cases hu; done)
      | (simp only [Option.some.injEq] at hu; subst hu; first
          | (simp (maxDischargeDepth := 9) [hv]; done)
          | exact wf_engWrite ‹_› hv)

theorem wf_ixWrites {s : State} {ix : Index} {e : Agent} {ws : List (Nat × List Sys2Proof.Byte)} {t : State × Bool}
    (h : ixWrites s ix e ws = some t) (hw : memoryWf s.ms.mem = true) : memoryWf t.1.ms.mem = true := by
  induction ws generalizing s t with
  | nil => cases h; exact hw
  | cons w r ih =>
    unfold ixWrites at h
    split at h
    · cases h
    · rename_i a ha
      obtain ⟨b, hb, hh⟩ := Option.map_eq_some_iff.1 h
      subst hh
      exact ih (t := b) hb (wf_ixWrite ha hw)

@[simp] theorem wf_pushGroups (gs : List (List (Nat × List Sys2Proof.Byte))) (s : State) (c : IdxCmd) (ix : Index) (new : Index) (hw : memoryWf s.ms.mem = true) : memoryWf (pushGroups gs s c ix new).ms.mem = true := by
  induction gs generalizing s with
  | nil => simp (maxDischargeDepth := 9) [pushGroups, hw]
  | cons g t ih =>
    unfold pushGroups
    split
    · simp (maxDischargeDepth := 9) [hw]
    · have := wf_ixWrites ‹_› hw
      split
      · simp [this]
      · exact ih _ this

@[simp] theorem wf_resumeCommit (s : State) (c : IdxCmd) (ix : Index) (new : Index) (hw : memoryWf s.ms.mem = true) : memoryWf (resumeCommit s c ix new).ms.mem = true := by
  unfold resumeCommit
  dsimp only
  split
  · exact hw
  split
  · simp (maxDischargeDepth := 9) [hw]
  · simp (maxDischargeDepth := 9) [hw]

@[simp] theorem wf_commitCmd (v : IxView) (c : IdxCmd) (new : Index) (old : List Version) (dead : Option Nat) (lists : List (Nat × List Sys2Proof.Byte)) (gens : List (Nat × List Sys2Proof.Byte)) (hw : memoryWf v.s.ms.mem = true) : memoryWf (commitCmd v c new old dead lists gens).ms.mem = true := by
  unfold commitCmd
  (try dsimp only)
  repeat' (first | assumption | (with_reducible refine foldl_wf _ _ _ ?_ ?_; rotate_left; intro _ _ _) | split)
  all_goals (simp (maxDischargeDepth := 9) [*])

@[simp] theorem wf_stvec (v : IxView) (c : IdxCmd) (hw : memoryWf v.s.ms.mem = true) : memoryWf (stvec v c).ms.mem = true := by
  unfold stvec
  (try dsimp only)
  repeat' (first | assumption | (with_reducible refine foldl_wf _ _ _ ?_ ?_; rotate_left; intro _ _ _) | split)
  all_goals (simp (maxDischargeDepth := 9) [*])

@[simp] theorem wf_dlvec (v : IxView) (c : IdxCmd) (hw : memoryWf v.s.ms.mem = true) : memoryWf (dlvec v c).ms.mem = true := by
  unfold dlvec
  (try dsimp only)
  repeat' (first | assumption | (with_reducible refine foldl_wf _ _ _ ?_ ?_; rotate_left; intro _ _ _) | split)
  all_goals (simp (maxDischargeDepth := 9) [*])

@[simp] theorem wf_mutate (s : State) (n : Nat) (op : Nat) (anyOp : Bool) (hw : memoryWf s.ms.mem = true) : memoryWf (mutate s n op anyOp).ms.mem = true := by
  unfold mutate
  repeat' split
  all_goals first
    | exact hw
    | simp (maxDischargeDepth := 9) [hw]

@[simp] theorem wf_readPieces (s : State) (e : Agent) (ps : List Piece) (sh : Nat) (acc : Payload) (hw : memoryWf s.ms.mem = true) : memoryWf (readPieces s e ps sh acc).1.ms.mem = true := by
  induction ps generalizing s sh acc with
  | nil => exact hw
  | cons p t ih =>
    unfold readPieces
    split
    · simp [hw]
    · exact ih _ _ _ (wf_engRead ‹_› hw)

@[simp] theorem wf_pulledPayload (s : State) (n : Nat) (r : Recv) (p : Sys2Proof.Packet) (hw : memoryWf s.ms.mem = true) : memoryWf (pulledPayload s n r p).1.ms.mem = true := by
  unfold pulledPayload
  (try dsimp only)
  repeat' (first | assumption | (with_reducible refine foldl_wf _ _ _ ?_ ?_; rotate_left; intro _ _ _) | split)
  all_goals (simp (maxDischargeDepth := 9) [*])

@[simp] theorem wf_pullNow (s : State) (die : Nat) (q : Pull) (hw : memoryWf s.ms.mem = true) : memoryWf (pullNow s die q).ms.mem = true := by
  unfold pullNow
  (try dsimp only)
  repeat' (first | assumption | (with_reducible refine foldl_wf _ _ _ ?_ ?_; rotate_left; intro _ _ _) | split)
  all_goals (simp (maxDischargeDepth := 9) [*])

@[simp] theorem wf_pullComplete (s : State) (c : Nat) (dies : List Nat) (hw : memoryWf s.ms.mem = true) : memoryWf (pullComplete s c dies).ms.mem = true := by
  induction dies generalizing s with
  | nil => exact hw
  | cons d t ih =>
    unfold pullComplete
    dsimp only
    repeat' split
    all_goals first | exact ih _ hw | exact hw | simp (maxDischargeDepth := 9) [hw]

@[simp] theorem mem_dieReport (s : State) (b : Nat) (die : Nat) : (dieReport s b die).ms.mem = s.ms.mem := by
  unfold dieReport
  (try dsimp only)
  repeat' (first | rfl | assumption | (with_reducible refine (foldl_mem _ _ _ ?_).trans ?_; intro _ _) | split)
  all_goals (first | rfl | simp)

@[simp] theorem wf_releaseArrival (s : State) (sc : BitVec 4) (n : Nat) (hw : memoryWf s.ms.mem = true) : memoryWf (releaseArrival s sc n).ms.mem = true := by
  unfold releaseArrival
  (try dsimp only)
  repeat' (first | assumption | (with_reducible refine foldl_wf _ _ _ ?_ ?_; rotate_left; intro _ _ _) | split)
  all_goals (simp (maxDischargeDepth := 9) [*])

@[simp] theorem mem_releaseImaged (s : State) (v : Sys2Proof.Word) (n : Nat) : (releaseImaged s v n).ms.mem = s.ms.mem := by
  unfold releaseImaged
  (try dsimp only)
  repeat' (first | rfl | assumption | (with_reducible refine (foldl_mem _ _ _ ?_).trans ?_; intro _ _) | split)
  all_goals (first | rfl | simp)

@[simp] theorem mem_release1 (s : State) (sc : BitVec 4) (v : Sys2Proof.Word) (n : Nat) : (release1 s sc v n).ms.mem = s.ms.mem := by
  unfold release1
  (try dsimp only)
  repeat' (first | rfl | assumption | (with_reducible refine (foldl_mem _ _ _ ?_).trans ?_; intro _ _) | split)
  all_goals (first | rfl | simp)

@[simp] theorem wf_completeBarrier (s : State) (b : Barrier) (hw : memoryWf s.ms.mem = true) : memoryWf (completeBarrier s b).ms.mem = true := by
  unfold completeBarrier
  (try dsimp only)
  repeat' (first | assumption | (with_reducible refine foldl_wf _ _ _ ?_ ?_; rotate_left; intro _ _ _) | split)
  all_goals (simp (maxDischargeDepth := 9) [*])

@[simp] theorem wf_episodeComplete (s : State) (b : Nat) (hw : memoryWf s.ms.mem = true) : memoryWf (episodeComplete s b).ms.mem = true := by
  unfold episodeComplete
  (try dsimp only)
  repeat' (first | assumption | (with_reducible refine foldl_wf _ _ _ ?_ ?_; rotate_left; intro _ _ _) | split)
  all_goals (simp (maxDischargeDepth := 9) [*])

@[simp] theorem mem_returnCore (s : State) (g : Gang) (i : Image) (k : Nat) : (returnCore s g i k).ms.mem = s.ms.mem := by
  unfold returnCore
  (try dsimp only)
  repeat' (first | rfl | assumption | (with_reducible refine (foldl_mem _ _ _ ?_).trans ?_; intro _ _) | split)
  all_goals (first | rfl | simp)

@[simp] theorem wf_returnCores (l : List Nat) (s : State) (g : Gang) (i : Image) (hw : memoryWf s.ms.mem = true) :
    memoryWf (l.foldl (fun s k => returnCore s g i k) s).ms.mem = true :=
  foldl_wf _ _ _ hw fun s k h => by simp [h]

@[simp] theorem mem_moveOwed (s : State) (n : Nat) (old : Nat) (new : Nat) : (moveOwed s n old new).ms.mem = s.ms.mem := by
  unfold moveOwed
  (try dsimp only)
  repeat' (first | rfl | assumption | (with_reducible refine (foldl_mem _ _ _ ?_).trans ?_; intro _ _) | split)
  all_goals (first | rfl | simp)

@[simp] theorem mem_returnFibre (s : State) (g : Gang) (i : Image) (f : Fibre) : (returnFibre s g i f).ms.mem = s.ms.mem := by
  unfold returnFibre
  (try dsimp only)
  repeat' (first | rfl | assumption | (with_reducible refine (foldl_mem _ _ _ ?_).trans ?_; intro _ _) | split)
  all_goals (first | rfl | simp)

@[simp] theorem wf_returnFibres (l : List Fibre) (s : State) (g : Gang) (i : Image) (hw : memoryWf s.ms.mem = true) :
    memoryWf (l.foldl (fun s f => returnFibre s g i f) s).ms.mem = true :=
  foldl_wf _ _ _ hw fun s k h => by simp [h]

@[simp] theorem wf_repost (s : State) (g : Gang) (i : Image) (x : Nat × Recv) (hw : memoryWf s.ms.mem = true) : memoryWf (repost s g i x).ms.mem = true := by
  unfold repost
  (try dsimp only)
  repeat' (first | assumption | (with_reducible refine foldl_wf _ _ _ ?_ ?_; rotate_left; intro _ _ _) | split)
  all_goals (simp (maxDischargeDepth := 9) [*])

@[simp] theorem wf_restore (s : State) (g : Gang) (i : Image) (hw : memoryWf s.ms.mem = true) : memoryWf (restore s g i).ms.mem = true := by
  unfold restore
  have h1 : memoryWf (i.spad.foldl (fun m b => mset m (imagePa s g b.1 b.2.1) b.2.2) s.ms.mem) = true :=
    memoryWf_foldl _ _ (fun m x h => memoryWf_mset m _ _ h) _ hw
  dsimp only
  repeat' (first
    | (with_reducible refine foldl_wf _ _ _ ?_ ?_; rotate_left; intro _ _ _)
    | split)
  all_goals (simp (maxDischargeDepth := 9) [*])

@[simp] theorem mem_recallGang (s : State) (g : Nat) : (recallGang s g).ms.mem = s.ms.mem := by
  unfold recallGang
  (try dsimp only)
  repeat' (first | rfl | assumption | (with_reducible refine (foldl_mem _ _ _ ?_).trans ?_; intro _ _) | split)
  all_goals (first | rfl | simp)

@[simp] theorem mem_startImaging (s : State) (ids : List Nat) : (startImaging s ids).ms.mem = s.ms.mem := by
  unfold startImaging
  (try dsimp only)
  repeat' (first | rfl | assumption | (with_reducible refine (foldl_mem _ _ _ ?_).trans ?_; intro _ _) | split)
  all_goals (first | rfl | simp)

@[simp] theorem mem_imageClaimed (s : State) (n : Nat) : (imageClaimed s n).ms.mem = s.ms.mem := by
  unfold imageClaimed
  (try dsimp only)
  repeat' (first | rfl | assumption | (with_reducible refine (foldl_mem _ _ _ ?_).trans ?_; intro _ _) | split)
  all_goals (first | rfl | simp)

@[simp] theorem wf_claimComplete (s : State) (n : Nat) (hw : memoryWf s.ms.mem = true) : memoryWf (claimComplete s n).ms.mem = true := by
  unfold claimComplete
  (try dsimp only)
  repeat' (first | assumption | (with_reducible refine foldl_wf _ _ _ ?_ ?_; rotate_left; intro _ _ _) | split)
  all_goals (simp (maxDischargeDepth := 9) [*])

@[simp] theorem mem_withdraw (s : State) (g : Gang) (mine : Nat → Bool) : (withdraw s g mine).ms.mem = s.ms.mem := by
  unfold withdraw
  (try dsimp only)
  repeat' (first | rfl | assumption | (with_reducible refine (foldl_mem _ _ _ ?_).trans ?_; intro _ _) | split)
  all_goals (first | rfl | simp)

theorem mem_takeRegion {s t : State} {g : Gang} {r : Option Nat} (h : takeRegion s g = some (r, t)) : t.ms.mem = s.ms.mem := by
  unfold takeRegion at h
  repeat' split at h
  all_goals first
    | (cases h; done)
    | (simp only [Option.some.injEq, Prod.mk.injEq] at h; obtain ⟨-, rfl⟩ := h; rfl)

@[simp] theorem wf_imageClose (s : State) (n : Nat) (hw : memoryWf s.ms.mem = true) : memoryWf (imageClose s n).ms.mem = true := by
  unfold imageClose
  split
  · exact hw
  · dsimp only
    split
    · exact hw
    split
    · simp [hw]
    · refine foldl_wf _ _ _ ?_ fun s f h => by simp [h]
      dsimp only
      rw [mem_modGang]
      have h1 := foldl_wf ((List.map (fun x => x.core) (List.filter (inGang n) (allFibres s)) ++ (‹Gang› : Gang).cores).eraseDups)
        (fun s c => releaseCopies s c 2) (withdraw s ‹Gang› fun i => (List.map (fun x => x.id)
          (List.filter (inGang n) (allFibres s))).contains i) (by simp [hw]) fun s c h => by simp [h]
      split
      · rw [mem_modGang, mem_takeRegion ‹_›]
        exact h1
      · exact h1

@[simp] theorem wf_storeCompletion (s : State) (l : Launch) (hw : memoryWf s.ms.mem = true) : memoryWf (storeCompletion s l).ms.mem = true := by
  unfold storeCompletion
  (try dsimp only)
  repeat' (first | assumption | (with_reducible refine foldl_wf _ _ _ ?_ ?_; rotate_left; intro _ _ _) | split)
  all_goals (simp (maxDischargeDepth := 9) [*])

@[simp] theorem mem_raiseVector (s : State) (ten : BitVec 4) (vec : Nat) : (raiseVector s ten vec).ms.mem = s.ms.mem := by
  unfold raiseVector
  (try dsimp only)
  repeat' (first | rfl | assumption | (with_reducible refine (foldl_mem _ _ _ ?_).trans ?_; intro _ _) | split)
  all_goals (first | rfl | simp)

@[simp] theorem mem_forget (s : State) (n : Nat) : (forget s n).ms.mem = s.ms.mem := by
  unfold forget
  (try dsimp only)
  repeat' (first | rfl | assumption | (with_reducible refine (foldl_mem _ _ _ ?_).trans ?_; intro _ _) | split)
  all_goals (first | rfl | simp)

@[simp] theorem wf_launchDoneSteps (s : State) (n : Nat) (hw : memoryWf s.ms.mem = true) : memoryWf (launchDoneSteps s n).ms.mem = true := by
  unfold launchDoneSteps
  (try dsimp only)
  repeat' (first | assumption | (with_reducible refine foldl_wf _ _ _ ?_ ?_; rotate_left; intro _ _ _) | split)
  all_goals (simp (maxDischargeDepth := 9) [*])

@[simp] theorem wf_claimCore (s : State) (g : Gang) (k : Nat) (book : Tbl (BitVec 32)) (hw : memoryWf s.ms.mem = true) : memoryWf (claimCore s g k book).ms.mem = true := by
  unfold claimCore
  (try dsimp only)
  repeat' (first | assumption | (with_reducible refine foldl_wf _ _ _ ?_ ?_; rotate_left; intro _ _ _) | split)
  all_goals (simp (maxDischargeDepth := 9) [*])

theorem wf_claimCores (l : List Nat) (f : Nat → Nat) (b : Nat → Tbl (BitVec 32)) (s : State) (g : Gang)
    (hw : memoryWf s.ms.mem = true) : memoryWf (l.foldl (fun s k => claimCore s g (f k) (b k)) s).ms.mem = true :=
  foldl_wf _ _ _ hw fun s k h => by simp [h]

@[simp] theorem mem_putFibre (s : State) (f : Fibre) : (putFibre s f).ms.mem = s.ms.mem := by
  unfold putFibre
  (try dsimp only)
  repeat' (first | rfl | assumption | (with_reducible refine (foldl_mem _ _ _ ?_).trans ?_; intro _ _) | split)
  all_goals (first | rfl | simp)

@[simp] theorem mem_claimWalkers (s : State) (g : Nat) (cl : Nat) (i : Image) : (claimWalkers s g cl i).ms.mem = s.ms.mem := by
  unfold claimWalkers
  (try dsimp only)
  repeat' (first | rfl | assumption | (with_reducible refine (foldl_mem _ _ _ ?_).trans ?_; intro _ _) | split)
  all_goals (first | rfl | simp)

theorem wf_claimGang {s t : State} {l : Launch} {st glin : Nat} {old : Option Gang} (h : claimGang s l st glin old = some t)
    (hw : memoryWf s.ms.mem = true) : memoryWf t.ms.mem = true := by
  unfold claimGang at h
  dsimp only at h
  split at h
  · cases h
  · simp only [Option.some.injEq] at h
    subst h
    split
    · refine foldl_wf _ _ _ ?_ fun s i hs => by simp [hs]
      exact wf_claimCores _ (fun k => k) _ _ _ (by simp [hw])
    · refine foldl_wf _ _ _ ?_ fun s i hs => by simp [hs]
      refine foldl_wf _ _ _ ?_ fun s i hs => by simp [hs]
      refine foldl_wf _ _ _ ?_ fun s i hs => by simp [hs]
      rw [mem_claimWalkers]
      exact wf_claimCores _ (fun k => k) _ _ _ (by simp [hw])

theorem wf_claimAll {s t : State} {l : Launch} {xs : List (Nat × Nat × Option Gang)} (h : claimAll s l xs = some t)
    (hw : memoryWf s.ms.mem = true) : memoryWf t.ms.mem = true := by
  induction xs generalizing s with
  | nil => cases h; exact hw
  | cons x r ih =>
    unfold claimAll at h
    split at h
    · cases h
    · exact ih h (wf_claimGang ‹_› hw)

theorem mem_claimGrid {s t : State} {l : Launch} {st : Nat} (h : claimGrid s l st = some t) : t.ms.mem = s.ms.mem := by
  unfold claimGrid at h
  dsimp only at h
  repeat' split at h
  all_goals first
    | (cases h; done)
    | (simp only [Option.some.injEq] at h; subst h; rfl)

theorem wf_claimUnit {s t : State} {l : Launch} {u : Machine.PUnit} (h : claimUnit s l u = some t)
    (hw : memoryWf s.ms.mem = true) : memoryWf t.ms.mem = true := by
  unfold claimUnit at h
  repeat' split at h
  · obtain ⟨v, h1, h2⟩ := Option.bind_eq_some_iff.1 h
    rw [mem_claimGrid h2]
    exact wf_claimAll h1 hw
  · exact wf_claimAll h hw
  · obtain ⟨v, h1, h2⟩ := Option.bind_eq_some_iff.1 h
    rw [mem_claimGrid h2]
    exact wf_claimAll h1 hw
  · obtain ⟨v, h1, h2⟩ := Option.bind_eq_some_iff.1 h
    cases h2
    exact wf_claimAll h1 hw

@[simp] theorem mem_modLaunch (s : State) (n : Nat) (f : Launch → Launch) : (modLaunch s n f).ms.mem = s.ms.mem := by
  unfold modLaunch
  (try dsimp only)
  repeat' (first | rfl | assumption | (with_reducible refine (foldl_mem _ _ _ ?_).trans ?_; intro _ _) | split)
  all_goals (first | rfl | simp)

@[simp] theorem mem_unitPlaced (s : State) (l : Launch) (u : Machine.PUnit) : (unitPlaced s l u).ms.mem = s.ms.mem := by
  simp [Machine.unitPlaced]

@[simp] theorem mem_freed (s : State) (ids : List Nat) : (freed s ids).ms.mem = s.ms.mem := by
  unfold freed
  (try dsimp only)
  repeat' (first | rfl | assumption | (with_reducible refine (foldl_mem _ _ _ ?_).trans ?_; intro _ _) | split)
  all_goals (first | rfl | simp)

@[simp] theorem mem_pledge (s : State) : (pledge s).ms.mem = s.ms.mem := by
  unfold pledge
  refine foldl_mem _ _ _ fun s g => ?_
  split
  · rename_i h
    simpa using mem_takeRegion h
  · rfl

@[simp] theorem wf_victims (s : State) (l : Launch) (u : Machine.PUnit) (p : Nat) (hw : memoryWf s.ms.mem = true) : memoryWf (victims s l u p).ms.mem = true := by
  unfold victims
  (try dsimp only)
  repeat' (first | assumption | (with_reducible refine foldl_wf _ _ _ ?_ ?_; rotate_left; intro _ _ _) | split)
  all_goals (simp (maxDischargeDepth := 9) [*])

@[simp] theorem wf_turn (s : State) (hw : memoryWf s.ms.mem = true) : memoryWf (turn s).ms.mem = true := by
  unfold Machine.turn
  dsimp only
  repeat' split
  all_goals first
    | exact hw
    | (rename_i h; rw [mem_unitPlaced]; exact wf_claimUnit h hw)
    | simp (maxDischargeDepth := 9) [hw]

@[simp] theorem mem_startGateway (s : State) (f : Nat) : (startGateway s f).ms.mem = s.ms.mem := by
  unfold startGateway
  (try dsimp only)
  repeat' (first | rfl | assumption | (with_reducible refine (foldl_mem _ _ _ ?_).trans ?_; intro _ _) | split)
  all_goals (first | rfl | simp)

@[simp] theorem mem_takeRole (s : State) (f : Nat) : (takeRole s f).ms.mem = s.ms.mem := by
  unfold takeRole
  (try dsimp only)
  repeat' (first | rfl | assumption | (with_reducible refine (foldl_mem _ _ _ ?_).trans ?_; intro _ _) | split)
  all_goals (first | rfl | simp)

@[simp] theorem mem_clearPorten (s : State) (f : Nat) : (clearPorten s f).ms.mem = s.ms.mem := by
  unfold clearPorten
  (try dsimp only)
  repeat' (first | rfl | assumption | (with_reducible refine (foldl_mem _ _ _ ?_).trans ?_; intro _ _) | split)
  all_goals (first | rfl | simp)

@[simp] theorem mem_clockTick (s : State) : (clockTick s).ms.mem = s.ms.mem := by
  unfold clockTick
  (try dsimp only)
  repeat' (first | rfl | assumption | (with_reducible refine (foldl_mem _ _ _ ?_).trans ?_; intro _ _) | split)
  all_goals (first | rfl | simp)

@[simp] theorem mem_poisonRun (s : State) (pa : Nat) (n : Nat) : (poisonRun s pa n).ms.mem = s.ms.mem := by
  unfold poisonRun
  (try dsimp only)
  repeat' (first | rfl | assumption | (with_reducible refine (foldl_mem _ _ _ ?_).trans ?_; intro _ _) | split)
  all_goals (first | rfl | simp)

@[simp] theorem mem_loseFibre (s : State) (f : Fibre) : (loseFibre s f).ms.mem = s.ms.mem := by
  unfold loseFibre
  (try dsimp only)
  repeat' (first | rfl | assumption | (with_reducible refine (foldl_mem _ _ _ ?_).trans ?_; intro _ _) | split)
  all_goals (first | rfl | simp)

@[simp] theorem mem_wakeLost (s : State) (p : Watch → Bool) : (wakeLost s p).ms.mem = s.ms.mem := by
  unfold wakeLost
  (try dsimp only)
  repeat' (first | rfl | assumption | (with_reducible refine (foldl_mem _ _ _ ?_).trans ?_; intro _ _) | split)
  all_goals (first | rfl | simp)

@[simp] theorem mem_dropCore (s : State) (n : Nat) : (dropCore s n).ms.mem = s.ms.mem := by
  unfold dropCore
  (try dsimp only)
  repeat' (first | rfl | assumption | (with_reducible refine (foldl_mem _ _ _ ?_).trans ?_; intro _ _) | split)
  all_goals (first | rfl | simp)

@[simp] theorem mem_tellHomes (s : State) (n : Nat) : (tellHomes s n).ms.mem = s.ms.mem := by
  unfold tellHomes
  (try dsimp only)
  repeat' (first | rfl | assumption | (with_reducible refine (foldl_mem _ _ _ ?_).trans ?_; intro _ _) | split)
  all_goals (first | rfl | simp)

@[simp] theorem mem_retireCore (s : State) (n : Nat) : (retireCore s n).ms.mem = s.ms.mem := by
  unfold retireCore
  (try dsimp only)
  repeat' (first | rfl | assumption | (with_reducible refine (foldl_mem _ _ _ ?_).trans ?_; intro _ _) | split)
  all_goals (first | rfl | simp)

@[simp] theorem mem_endGang (s : State) (g : Nat) : (endGang s g).ms.mem = s.ms.mem := by
  unfold endGang
  dsimp only
  rw [mem_settleGang, foldl_mem _ _ _ fun s f => by split <;> simp]
  simp

@[simp] theorem mem_coreDies (s : State) (n : Nat) : (coreDies s n).ms.mem = s.ms.mem := by
  unfold coreDies
  dsimp only
  rw [mem_dropCore, foldl_mem _ _ _ fun s g => mem_endGang s g, mem_setCore, foldl_mem _ _ _ fun s f => mem_loseFibre s f]
  dsimp only
  rw [foldl_mem _ _ _ fun s o => by dsimp only; split <;> simp]

@[simp] theorem mem_stepWidth (s : State) (f : Nat) : (stepWidth s f).ms.mem = s.ms.mem := by
  unfold stepWidth
  (try dsimp only)
  repeat' (first | rfl | assumption | (with_reducible refine (foldl_mem _ _ _ ?_).trans ?_; intro _ _) | split)
  all_goals (first | rfl | simp)

@[simp] theorem mem_laneEvents (s : State) (f : Nat) (n : Nat) : (laneEvents s f n).ms.mem = s.ms.mem := by
  unfold laneEvents
  (try dsimp only)
  repeat' (first | rfl | assumption | (with_reducible refine (foldl_mem _ _ _ ?_).trans ?_; intro _ _) | split)
  all_goals (first | rfl | simp)

@[simp] theorem mem_crcFailed (s : State) (f : Nat) : (crcFailed s f).ms.mem = s.ms.mem := by
  unfold crcFailed
  (try dsimp only)
  repeat' (first | rfl | assumption | (with_reducible refine (foldl_mem _ _ _ ?_).trans ?_; intro _ _) | split)
  all_goals (first | rfl | simp)

@[simp] theorem wf_moduleDies (s : State) (m : Nat) (hw : memoryWf s.ms.mem = true) : memoryWf (moduleDies s m).ms.mem = true := by
  unfold moduleDies
  dsimp only
  apply wf_failTo
  rw [foldl_mem _ _ _ fun s a => mem_poisonRun _ _ _]
  exact hw

@[simp] theorem wf_deathNotice (s : State) (m : Nat) (inc : BitVec 16) (hw : memoryWf s.ms.mem = true) : memoryWf (deathNotice s m inc).ms.mem = true := by
  unfold deathNotice
  (try dsimp only)
  repeat' (first | assumption | (with_reducible refine foldl_wf _ _ _ ?_ ?_; rotate_left; intro _ _ _) | split)
  all_goals (simp (maxDischargeDepth := 9) [*])

@[simp] theorem wf_retireSlice (s : State) (d : Nat) (k : Nat) (hw : memoryWf s.ms.mem = true) : memoryWf (retireSlice s d k).ms.mem = true := by
  unfold retireSlice
  (try dsimp only)
  repeat' (first | assumption | (with_reducible refine foldl_wf _ _ _ ?_ ?_; rotate_left; intro _ _ _) | split)
  all_goals (simp (maxDischargeDepth := 9) [*])

@[simp] theorem wf_sliceDies (s : State) (d : Nat) (k : Nat) (hw : memoryWf s.ms.mem = true) : memoryWf (sliceDies s d k).ms.mem = true := by
  unfold sliceDies
  dsimp only
  apply wf_retireSlice
  rw [foldl_mem _ _ _ fun s a => mem_poisonRun _ _ _]
  exact hw

@[simp] theorem wf_declareAgent (s : State) (a : Nat) (hw : memoryWf s.ms.mem = true) : memoryWf (declareAgent s a).ms.mem = true := by
  unfold declareAgent
  (try dsimp only)
  repeat' (first | assumption | (with_reducible refine foldl_wf _ _ _ ?_ ?_; rotate_left; intro _ _ _) | split)
  all_goals (simp (maxDischargeDepth := 9) [*])

@[simp] theorem wf_declareDead (s : State) (m : Nat) (hw : memoryWf s.ms.mem = true) : memoryWf (declareDead s m).ms.mem = true := by
  unfold declareDead
  (try dsimp only)
  repeat' (first | assumption | (with_reducible refine foldl_wf _ _ _ ?_ ?_; rotate_left; intro _ _ _) | split)
  all_goals (simp (maxDischargeDepth := 9) [*])

theorem mem_distRead {s t : State} {ten : BitVec 4} {va : Nat} {w : Word} (h : distRead s ten va = some (w, t)) : t.ms.mem = s.ms.mem := by
  unfold distRead at h
  repeat' split at h
  all_goals first
    | (cases h; done)
    | (simp only [Option.some.injEq, Prod.mk.injEq] at h; obtain ⟨-, rfl⟩ := h; simp)

@[simp] theorem wf_doStore (s : State) (r : Req) (hw : memoryWf s.ms.mem = true) : memoryWf (doStore s r).ms.mem = true := by
  unfold doStore
  have h1 : memoryWf (dropLease s r).ms.mem = true := by simp [hw]
  dsimp only
  generalize dropLease s r = t at *
  generalize (if isRemote s r.pa then unreachable s (paMod r.pa) else none) = o
  repeat' split
  all_goals first
    | (simp (maxDischargeDepth := 9) [hw, h1]; done)
    | (simp [wf_perf_done ‹_› h1])
    | (simp [wf_perf_fail ‹_› h1])

@[simp] theorem mem_dropStray (s : State) : (dropStray s).ms.mem = s.ms.mem := by
  unfold dropStray
  (try dsimp only)
  repeat' (first | rfl | assumption | (with_reducible refine (foldl_mem _ _ _ ?_).trans ?_; intro _ _) | split)
  all_goals (first | rfl | simp)

@[simp] theorem mem_setGwq (s : State) (q : Nat) (g : Gwq) : (setGwq s q g).ms.mem = s.ms.mem := by
  unfold setGwq
  (try dsimp only)
  repeat' (first | rfl | assumption | (with_reducible refine (foldl_mem _ _ _ ?_).trans ?_; intro _ _) | split)
  all_goals (first | rfl | simp)

@[simp] theorem mem_eregWrite (s : State) (eng : Nat) (r : Nat) (v : Sys2Proof.Word) : (eregWrite s eng r v).ms.mem = s.ms.mem := by
  unfold eregWrite
  (try dsimp only)
  repeat' (first | rfl | assumption | (with_reducible refine (foldl_mem _ _ _ ?_).trans ?_; intro _ _) | split)
  all_goals (first | rfl | simp)

@[simp] theorem mem_setShort (s : State) (d : Sys2Proof.Reg) (v : Sys2Proof.Word) : (setShort s d v).ms.mem = s.ms.mem := by
  unfold setShort
  (try dsimp only)
  repeat' (first | rfl | assumption | (with_reducible refine (foldl_mem _ _ _ ?_).trans ?_; intro _ _) | split)
  all_goals (first | rfl | simp)

@[simp] theorem mem_setFloat (t : State) (d : Sys2Proof.Reg) (r : Sys2Proof.Word × BitVec 5) : (setFloat t d r).ms.mem = t.ms.mem := by
  unfold setFloat
  (try dsimp only)
  repeat' (first | rfl | assumption | (with_reducible refine (foldl_mem _ _ _ ?_).trans ?_; intro _ _) | split)
  all_goals (first | rfl | simp)

theorem mem_readStages {n : Nat} {s t : State} {ten : BitVec 4} {va : Nat} {acc l : List StageEnt}
    (h : readStages n s ten va acc = some (l, t)) : t.ms.mem = s.ms.mem := by
  induction n generalizing s va acc with
  | zero => cases h; rfl
  | succ k ih =>
    unfold readStages at h
    split at h
    · cases h
    · split at h
      · cases h
      · rw [ih h, mem_distRead ‹_›, mem_distRead ‹_›]

@[simp] theorem mem_idle (s : State) : (idle s).ms.mem = s.ms.mem := by
  unfold idle
  (try dsimp only)
  repeat' (first | rfl | assumption | (with_reducible refine (foldl_mem _ _ _ ?_).trans ?_; intro _ _) | split)
  all_goals (first | rfl | simp)

@[simp] theorem wf_submit (s : State) (ten : BitVec 4) (ws : List Sys2Proof.Word) (hw : memoryWf s.ms.mem = true) : memoryWf (submit s ten ws).1.ms.mem = true := by
  unfold submit
  dsimp only
  repeat' split
  all_goals first
    | exact hw
    | (simp only; rw [mem_readStages ‹_›]; exact hw)

@[simp] theorem mem_reviveGang (s : State) (g : Gang) : (reviveGang s g).ms.mem = s.ms.mem := by
  unfold reviveGang
  (try dsimp only)
  repeat' (first | rfl | assumption | (with_reducible refine (foldl_mem _ _ _ ?_).trans ?_; intro _ _) | split)
  all_goals (first | rfl | simp)

@[simp] theorem mem_askSlot (s : State) (op : Nat) (fop : Nat) (d : Nat) (pas : List Nat) (ks : List Nat) (va : Sys2Proof.Word) : (askSlot s op fop d pas ks va).ms.mem = s.ms.mem := by
  unfold askSlot
  (try dsimp only)
  repeat' (first | rfl | assumption | (with_reducible refine (foldl_mem _ _ _ ?_).trans ?_; intro _ _) | split)
  all_goals (first | rfl | simp)

@[simp] theorem mem_takeHere (s : State) (pas : List Nat) : (takeHere s pas).ms.mem = s.ms.mem := by
  unfold takeHere
  (try dsimp only)
  repeat' (first | rfl | assumption | (with_reducible refine (foldl_mem _ _ _ ?_).trans ?_; intro _ _) | split)
  all_goals (first | rfl | simp)

@[simp] theorem wf_gWrite (s : State) (t : TileAt) (rows : List (List Ex)) (hw : memoryWf s.ms.mem = true) : memoryWf (gWrite s t rows).ms.mem = true := by
  unfold gWrite
  (try dsimp only)
  repeat' (first | assumption | (with_reducible refine foldl_wf _ _ _ ?_ ?_; rotate_left; intro _ _ _) | split)
  all_goals (simp (maxDischargeDepth := 9) [*])

@[simp] theorem mem_useBound (s : State) (cl : Nat) : (useBound s cl).ms.mem = s.ms.mem := by
  unfold useBound
  (try dsimp only)
  repeat' (first | rfl | assumption | (with_reducible refine (foldl_mem _ _ _ ?_).trans ?_; intro _ _) | split)
  all_goals (first | rfl | simp)

@[simp] theorem wf_runSteps (n : Nat) (s : State) (c : MCmd) (hw : memoryWf s.ms.mem = true) : memoryWf (runSteps n s c).1.ms.mem = true := by
  induction n generalizing s c with
  | zero => exact hw
  | succ k ih => exact ih _ _ (wf_stepCmd s c hw)

@[simp] theorem wf_stampNow (s : State) (sc : BitVec 4) (stamp : Nat) (v : Nat) (hw : memoryWf s.ms.mem = true) : memoryWf (stampNow s sc stamp v).ms.mem = true := by
  unfold stampNow
  (try dsimp only)
  repeat' (first | assumption | (with_reducible refine foldl_wf _ _ _ ?_ ?_; rotate_left; intro _ _ _) | split)
  all_goals (simp (maxDischargeDepth := 9) [*])

@[simp] theorem wf_queueCopy (s : State) (x : Copy) (hw : memoryWf s.ms.mem = true) : memoryWf (queueCopy s x).ms.mem = true := by
  unfold queueCopy
  (try dsimp only)
  repeat' (first | assumption | (with_reducible refine foldl_wf _ _ _ ?_ ?_; rotate_left; intro _ _ _) | split)
  all_goals (simp (maxDischargeDepth := 9) [*])

@[simp] theorem wf_sendOut (s : State) (o : Outst) (tag : Sys2Proof.Word) (scope : BitVec 4) (rel : Bool) (hw : memoryWf s.ms.mem = true) : memoryWf (sendOut s o tag scope rel).ms.mem = true := by
  unfold sendOut
  (try dsimp only)
  repeat' (first | assumption | (with_reducible refine foldl_wf _ _ _ ?_ ?_; rotate_left; intro _ _ _) | split)
  all_goals (simp (maxDischargeDepth := 9) [*])

@[simp] theorem mem_startRewrite (s : State) (ten : Nat) (e : Nat) (v : BitVec 65) : (startRewrite s ten e v).ms.mem = s.ms.mem := by
  unfold startRewrite
  (try dsimp only)
  repeat' (first | rfl | assumption | (with_reducible refine (foldl_mem _ _ _ ?_).trans ?_; intro _ _) | split)
  all_goals (first | rfl | simp)

@[simp] theorem mem_joinWalk (s : State) (cl : Nat) (f : Nat) : (joinWalk s cl f).ms.mem = s.ms.mem := by
  unfold joinWalk
  (try dsimp only)
  repeat' (first | rfl | assumption | (with_reducible refine (foldl_mem _ _ _ ?_).trans ?_; intro _ _) | split)
  all_goals (first | rfl | simp)

@[simp] theorem mem_spuriousWake (s : State) (n : Nat) : (spuriousWake s n).ms.mem = s.ms.mem := by
  unfold spuriousWake
  (try dsimp only)
  repeat' (first | rfl | assumption | (with_reducible refine (foldl_mem _ _ _ ?_).trans ?_; intro _ _) | split)
  all_goals (first | rfl | simp)

@[simp] theorem wf_rewriteTimeout (s : State) (k : Nat) (hw : memoryWf s.ms.mem = true) : memoryWf (rewriteTimeout s k).ms.mem = true := by
  unfold rewriteTimeout
  (try dsimp only)
  repeat' (first | assumption | (with_reducible refine foldl_wf _ _ _ ?_ ?_; rotate_left; intro _ _ _) | split)
  all_goals (simp (maxDischargeDepth := 9) [*])

@[simp] theorem wf_ownershipGrant (s : State) (ids : List Nat) (hw : memoryWf s.ms.mem = true) : memoryWf (ownershipGrant s ids).ms.mem = true := by
  unfold ownershipGrant
  (try dsimp only)
  repeat' (first | assumption | (with_reducible refine foldl_wf _ _ _ ?_ ?_; rotate_left; intro _ _ _) | split)
  all_goals (simp (maxDischargeDepth := 9) [*])

@[simp] theorem wf_hostLaunch (s : State) (ten : BitVec 4) (off : Nat) (bytes : List Sys2Proof.Byte) (hw : memoryWf s.ms.mem = true) : memoryWf (hostLaunch s ten off bytes).ms.mem = true := by
  unfold hostLaunch
  (try dsimp only)
  repeat' (first | assumption | (with_reducible refine foldl_wf _ _ _ ?_ ?_; rotate_left; intro _ _ _) | split)
  all_goals (simp (maxDischargeDepth := 9) [*])

@[simp] theorem mem_hostMsix (s : State) (ten : BitVec 4) (vec : Nat) (off : Nat) (bytes : List Sys2Proof.Byte) : (hostMsix s ten vec off bytes).ms.mem = s.ms.mem := by
  unfold hostMsix
  (try dsimp only)
  repeat' (first | rfl | assumption | (with_reducible refine (foldl_mem _ _ _ ?_).trans ?_; intro _ _) | split)
  all_goals (first | rfl | simp)

@[simp] theorem wf_wrBytes (s : State) (pa : Nat) (bs : List Sys2Proof.Byte) (hw : memoryWf s.ms.mem = true) : memoryWf (wrBytes s pa bs).ms.mem = true := by
  induction bs generalizing s pa with
  | nil => simpa [wrBytes] using hw
  | cons b t ih =>
    unfold wrBytes
    exact ih _ _ (memoryWf_mset _ _ _ hw)

@[simp] theorem wf_hostBytes (s : State) (pa : Nat) (bs : List Sys2Proof.Byte) (hw : memoryWf s.ms.mem = true) : memoryWf (hostBytes s pa bs).ms.mem = true := by
  unfold hostBytes
  (try dsimp only)
  repeat' (first | assumption | (with_reducible refine foldl_wf _ _ _ ?_ ?_; rotate_left; intro _ _ _) | split)
  all_goals (simp (maxDischargeDepth := 9) [*])

@[simp] theorem mem_nakPort (s : State) (f : Nat) : (nakPort s f).ms.mem = s.ms.mem := by
  unfold nakPort
  (try dsimp only)
  repeat' (first | rfl | assumption | (with_reducible refine (foldl_mem _ _ _ ?_).trans ?_; intro _ _) | split)
  all_goals (first | rfl | simp)

@[simp] theorem mem_receiveFlit (s : State) (f : Nat) (typ : BitVec 4) (x : Sys2Proof.Flit) : (receiveFlit s f typ x).ms.mem = s.ms.mem := by
  unfold receiveFlit
  extract_lets p
  clear_value p
  split; · rfl
  split; · rfl
  split; · rw [mem_nakPort, mem_crcFailed]
  split; · rw [mem_setPort]
  split; · rw [mem_setPort]
  split; · rw [mem_setPort]
  split
  · split
    · rw [mem_acceptFlit]
    · rw [mem_nakPort, mem_authFailed]
  · split
    · rw [mem_nakPort, mem_authFailed]
    · split
      · rw [mem_nakPort, mem_authFailed]
      · rw [mem_acceptFlit]

@[simp] theorem mem_replayAll (s : State) (f : Nat) : (replayAll s f).ms.mem = s.ms.mem := by
  unfold replayAll
  (try dsimp only)
  repeat' (first | rfl | assumption | (with_reducible refine (foldl_mem _ _ _ ?_).trans ?_; intro _ _) | split)
  all_goals (first | rfl | simp)

@[simp] theorem mem_linkTrained (s : State) (f : Nat) (width : BitVec 2) (m : BitVec 6) (pod : BitVec 8) (inc : BitVec 16) : (linkTrained s f width m pod inc).ms.mem = s.ms.mem := by
  unfold linkTrained
  (try dsimp only)
  repeat' (first | rfl | assumption | (with_reducible refine (foldl_mem _ _ _ ?_).trans ?_; intro _ _) | split)
  all_goals (first | rfl | simp)

@[simp] theorem mem_heartbeat (s : State) : (heartbeat s).ms.mem = s.ms.mem := by
  unfold heartbeat
  refine foldl_mem _ _ _ ?_
  intro s f
  split
  · simp
  · rfl

@[simp] theorem wf_retryOwn (s : State) (src : BitVec 26) (dst : BitVec 26) (hw : memoryWf s.ms.mem = true) : memoryWf (retryOwn s src dst).ms.mem = true := by
  unfold retryOwn
  (try dsimp only)
  repeat' (first | assumption | (with_reducible refine foldl_wf _ _ _ ?_ ?_; rotate_left; intro _ _ _) | split)
  all_goals (simp (maxDischargeDepth := 9) [*])

@[simp] theorem wf_retryTimeout (s : State) (src : Nat) (dst : Nat) (hw : memoryWf s.ms.mem = true) : memoryWf (retryTimeout s src dst).ms.mem = true := by
  unfold retryTimeout
  (try dsimp only)
  repeat' (first | assumption | (with_reducible refine foldl_wf _ _ _ ?_ ?_; rotate_left; intro _ _ _) | split)
  all_goals (simp (maxDischargeDepth := 9) [*])

@[simp] theorem wf_retryPair (s : State) (src : BitVec 26) (dst : BitVec 26) (hw : memoryWf s.ms.mem = true) : memoryWf (retryPair s src dst).ms.mem = true := by
  unfold retryPair
  (try dsimp only)
  repeat' (first | assumption | (with_reducible refine foldl_wf _ _ _ ?_ ?_; rotate_left; intro _ _ _) | split)
  all_goals (simp (maxDischargeDepth := 9) [*])

@[simp] theorem wf_retire (s : State) (u : Sys2Proof.FaultUnit) (hw : memoryWf s.ms.mem = true) : memoryWf (retire s u).ms.mem = true := by
  unfold retire
  (try dsimp only)
  repeat' (first | assumption | (with_reducible refine foldl_wf _ _ _ ?_ ?_; rotate_left; intro _ _ _) | split)
  all_goals (simp (maxDischargeDepth := 9) [*])

@[simp] theorem mem_entryLost (s : State) (h : Nat) (a : Nat) : (entryLost s h a).ms.mem = s.ms.mem := by
  unfold entryLost
  exact foldl_mem _ _ _ fun t x => mem_poisonRun t x 32

@[simp] theorem wf_faultEvent (s : State) (u : Sys2Proof.FaultUnit) (bad : Option Nat) (hw : memoryWf s.ms.mem = true) : memoryWf (faultEvent s u bad).ms.mem = true := by
  unfold faultEvent
  split
  · exact hw
  extract_lets ms0 t
  have ht : memoryWf t.ms.mem = true := by
    simp only [t, ms0]
    repeat' split
    all_goals first | exact hw | (rw [mem_entryLost]; exact hw)
  clear_value t
  dsimp only
  repeat' split
  all_goals (try dsimp only)
  repeat' split
  all_goals first
    | (simp (maxDischargeDepth := 9) [ht]; done)
    | exact (mem_countFault t u _).symm ▸ ht
    | exact wf_retire _ _ ((mem_countFault t u _).symm ▸ ht)

@[simp] theorem wf_lostUnexpected (s : State) (die : Nat) (hw : memoryWf s.ms.mem = true) : memoryWf (lostUnexpected s die).ms.mem = true := by
  unfold lostUnexpected
  (try dsimp only)
  repeat' (first | assumption | (with_reducible refine foldl_wf _ _ _ ?_ ?_; rotate_left; intro _ _ _) | split)
  all_goals (simp (maxDischargeDepth := 9) [*])

@[simp] theorem wf_loseDieB (s : State) (hw : memoryWf s.ms.mem = true) : memoryWf (loseDieB s).ms.mem = true := by
  unfold loseDieB
  (try dsimp only)
  repeat' (first | assumption | (with_reducible refine foldl_wf _ _ _ ?_ ?_; rotate_left; intro _ _ _) | split)
  all_goals (simp (maxDischargeDepth := 9) [*])

@[simp] theorem wf_resetModule (s : State) (hw : memoryWf s.ms.mem = true) : memoryWf (resetModule s).ms.mem = true := by
  unfold resetModule
  (try dsimp only)
  repeat' (first | assumption | (with_reducible refine foldl_wf _ _ _ ?_ ?_; rotate_left; intro _ _ _) | split)
  all_goals (simp (maxDischargeDepth := 9) [*])

@[simp] theorem mem_writeGo (s : State) : (writeGo s).ms.mem = s.ms.mem := by
  unfold writeGo
  (try dsimp only)
  repeat' (first | rfl | assumption | (with_reducible refine (foldl_mem _ _ _ ?_).trans ?_; intro _ _) | split)
  all_goals (first | rfl | simp)

@[simp] theorem mem_setPorten (s : State) (f : Nat) : (setPorten s f).ms.mem = s.ms.mem := by
  unfold setPorten
  (try dsimp only)
  repeat' (first | rfl | assumption | (with_reducible refine (foldl_mem _ _ _ ?_).trans ?_; intro _ _) | split)
  all_goals (first | rfl | simp)

@[simp] theorem mem_regWrite (s : State) (host : Bool) (off : Nat) (n : Nat) (v : Sys2Proof.Word) : (regWrite s host off n v).ms.mem = s.ms.mem := by
  unfold regWrite
  (try dsimp only)
  repeat' (first | rfl | assumption | (with_reducible refine (foldl_mem _ _ _ ?_).trans ?_; intro _ _) | split)
  all_goals (first | rfl | simp)

@[simp] theorem mem_farArrival (s : State) (f : Fibre) (w : Nat) (v : Nat) : (farArrival s f w v).ms.mem = s.ms.mem := by
  unfold farArrival
  (try dsimp only)
  repeat' (first | rfl | assumption | (with_reducible refine (foldl_mem _ _ _ ?_).trans ?_; intro _ _) | split)
  all_goals (first | rfl | simp)

@[simp] theorem mem_farLost (s : State) (f : Fibre) : (farLost s f).ms.mem = s.ms.mem := by
  unfold farLost
  (try dsimp only)
  repeat' (first | rfl | assumption | (with_reducible refine (foldl_mem _ _ _ ?_).trans ?_; intro _ _) | split)
  all_goals (first | rfl | simp)

@[simp] theorem mem_tellPlain (s : State) (ten : BitVec 4) (m : Nat) (n : Nat) (code : Nat) (v : Sys2Proof.Word) (data : List Sys2Proof.Byte) : (tellPlain s ten m n code v data).ms.mem = s.ms.mem := by
  unfold tellPlain
  (try dsimp only)
  repeat' (first | rfl | assumption | (with_reducible refine (foldl_mem _ _ _ ?_).trans ?_; intro _ _) | split)
  all_goals (first | rfl | simp)

@[simp] theorem mem_farResult (s : State) (ten : BitVec 4) (m : Nat) (n : Nat) (v : Nat) : (farResult s ten m n v).ms.mem = s.ms.mem := by
  unfold farResult
  (try dsimp only)
  repeat' (first | rfl | assumption | (with_reducible refine (foldl_mem _ _ _ ?_).trans ?_; intro _ _) | split)
  all_goals (first | rfl | simp)

@[simp] theorem mem_farTask (s : State) (f : Fibre) (m : Nat) (ret : Sys2Proof.Word) (sc : BitVec 4) : (farTask s f m ret sc).ms.mem = s.ms.mem := by
  unfold farTask
  (try dsimp only)
  repeat' (first | rfl | assumption | (with_reducible refine (foldl_mem _ _ _ ?_).trans ?_; intro _ _) | split)
  all_goals (first | rfl | simp)

@[simp] theorem wf_fetchFault (s : State) (c : Nat) (hw : memoryWf s.ms.mem = true) : memoryWf (fetchFault s c).ms.mem = true := by
  unfold fetchFault
  (try dsimp only)
  repeat' (first | assumption | (with_reducible refine foldl_wf _ _ _ ?_ ?_; rotate_left; intro _ _ _) | split)
  all_goals (simp (maxDischargeDepth := 9) [*])

@[simp] theorem wf_goHome (s : State) (f : Fibre) (m : Nat) (d : Sys2Proof.Reg) (bar : Bool) (hw : memoryWf s.ms.mem = true) : memoryWf (goHome s f m d bar).ms.mem = true := by
  unfold goHome
  (try dsimp only)
  repeat' (first | assumption | (with_reducible refine foldl_wf _ _ _ ?_ ?_; rotate_left; intro _ _ _) | split)
  all_goals (simp (maxDischargeDepth := 9) [*])

@[simp] theorem mem_hearPlace (s : State) (m : Nat) (n : Nat) (va : Sys2Proof.Word) (data : List Sys2Proof.Byte) : (hearPlace s m n va data).ms.mem = s.ms.mem := by
  unfold hearPlace
  (try dsimp only)
  repeat' (first | rfl | assumption | (with_reducible refine (foldl_mem _ _ _ ?_).trans ?_; intro _ _) | split)
  all_goals (first | rfl | simp)

@[simp] theorem wf_homeNews (s : State) (p : Sys2Proof.Packet) (m : Nat) (code : Nat) (n : Nat) (v : Nat) (hw : memoryWf s.ms.mem = true) : memoryWf (homeNews s p m code n v).ms.mem = true := by
  unfold homeNews
  (try dsimp only)
  repeat' (first | assumption | (with_reducible refine foldl_wf _ _ _ ?_ ?_; rotate_left; intro _ _ _) | split)
  all_goals (simp (maxDischargeDepth := 9) [*])

@[simp] theorem mem_modTask (s : State) (p : Task → Bool) (h : Task → List Task) : (modTask s p h).ms.mem = s.ms.mem := by
  unfold modTask
  (try dsimp only)
  repeat' (first | rfl | assumption | (with_reducible refine (foldl_mem _ _ _ ?_).trans ?_; intro _ _) | split)
  all_goals (first | rfl | simp)

@[simp] theorem wf_recallGuest (s : State) (taskFib : Task → Fibre) (m : Nat) (n : Nat) (hw : memoryWf s.ms.mem = true) : memoryWf (recallGuest s taskFib m n).ms.mem = true := by
  unfold recallGuest
  (try dsimp only)
  repeat' (first | assumption | (with_reducible refine foldl_wf _ _ _ ?_ ?_; rotate_left; intro _ _ _) | split)
  all_goals (simp (maxDischargeDepth := 9) [*])

@[simp] theorem wf_refuseWord (s : State) (w : BitVec 32) (r : Sys2Proof.Reject) (hw : memoryWf s.ms.mem = true) : memoryWf (refuseWord s w r).ms.mem = true := by
  unfold refuseWord
  (try dsimp only)
  repeat' (first | assumption | (with_reducible refine foldl_wf _ _ _ ?_ ?_; rotate_left; intro _ _ _) | split)
  all_goals (simp (maxDischargeDepth := 9) [*])

@[simp] theorem mem_wake (s : State) (p : Fibre → Wait → Bool) : (wake s p).ms.mem = s.ms.mem := by
  unfold wake
  (try dsimp only)
  repeat' (first | rfl | assumption | (with_reducible refine (foldl_mem _ _ _ ?_).trans ?_; intro _ _) | split)
  all_goals (first | rfl | simp)

@[simp] theorem mem_reissue (s : State) (p : Wait → Bool) : (reissue s p).ms.mem = s.ms.mem := by
  unfold reissue
  (try dsimp only)
  repeat' (first | rfl | assumption | (with_reducible refine (foldl_mem _ _ _ ?_).trans ?_; intro _ _) | split)
  all_goals (first | rfl | simp)

@[simp] theorem mem_resultAgain (s : State) (n : Nat) (v : Sys2Proof.Word) : (resultAgain s n v).ms.mem = s.ms.mem := by
  unfold resultAgain
  (try dsimp only)
  repeat' (first | rfl | assumption | (with_reducible refine (foldl_mem _ _ _ ?_).trans ?_; intro _ _) | split)
  all_goals (first | rfl | simp)

@[simp] theorem mem_takeTurn (s : State) (n : Nat) (d : Bool) : (takeTurn s n d).ms.mem = s.ms.mem := by
  unfold takeTurn
  (try dsimp only)
  repeat' (first | rfl | assumption | (with_reducible refine (foldl_mem _ _ _ ?_).trans ?_; intro _ _) | split)
  all_goals (first | rfl | simp)

@[simp] theorem wf_sendRecalled (s : State) (hw : memoryWf s.ms.mem = true) : memoryWf (sendRecalled s).ms.mem = true := by
  unfold sendRecalled
  (try dsimp only)
  repeat' (first | assumption | (with_reducible refine foldl_wf _ _ _ ?_ ?_; rotate_left; intro _ _ _) | split)
  all_goals (simp (maxDischargeDepth := 9) [*])

@[simp] theorem mem_takePulls (s : State) (ps : List Pull) : (takePulls s ps).1.ms.mem = s.ms.mem := by
  induction ps generalizing s with
  | nil => rfl
  | cons p t ih => simp [takePulls, ih]

@[simp] theorem mem_takeList (s : State) (rs : List Recv) : (takeList s rs).1.ms.mem = s.ms.mem := by
  induction rs generalizing s with
  | nil => rfl
  | cons p t ih => simp [takeList, ih]

@[simp] theorem mem_takeDie (s : State) (die : Nat) : (takeDie s die).ms.mem = s.ms.mem := by
  unfold takeDie
  (try dsimp only)
  repeat' (first | rfl | assumption | (with_reducible refine (foldl_mem _ _ _ ?_).trans ?_; intro _ _) | split)
  all_goals (first | rfl | simp)

@[simp] theorem mem_takePosted (s : State) : (takePosted s).ms.mem = s.ms.mem := by
  unfold takePosted
  (try dsimp only)
  repeat' (first | rfl | assumption | (with_reducible refine (foldl_mem _ _ _ ?_).trans ?_; intro _ _) | split)
  all_goals (first | rfl | simp)

@[simp] theorem mem_taskNumber (s : State) (m : Nat) (n : Nat) (num : Option (Nat × Sys2Proof.Word)) : (taskNumber s m n num).ms.mem = s.ms.mem := by
  unfold taskNumber
  (try dsimp only)
  repeat' (first | rfl | assumption | (with_reducible refine (foldl_mem _ _ _ ?_).trans ?_; intro _ _) | split)
  all_goals (first | rfl | simp)

@[simp] theorem mem_withdrawFar (s : State) (ten : BitVec 4) (m : Nat) (n : Nat) : (withdrawFar s ten m n).ms.mem = s.ms.mem := by
  unfold withdrawFar
  (try dsimp only)
  repeat' (first | rfl | assumption | (with_reducible refine (foldl_mem _ _ _ ?_).trans ?_; intro _ _) | split)
  all_goals (first | rfl | simp)

theorem wf_tellPlace {s t : State} {m n : Nat} {va : Sys2Proof.Word} (h : tellPlace s m n va = some t) (hw : memoryWf s.ms.mem = true) :
    memoryWf t.ms.mem = true := by
  unfold tellPlace at h
  repeat' split at h
  · cases h
    exact hw
  · cases h
    exact hw
  · obtain ⟨d, -, rfl⟩ := Option.map_eq_some_iff.1 h
    simp [hw]

theorem wf_takeControl {s t : State} {p : Packet} (h : takeControl s p = some t) (hw : memoryWf s.ms.mem = true) :
    memoryWf t.ms.mem = true := by
  unfold takeControl at h
  dsimp only at h
  split at h
  all_goals first
    | (simp only [Option.some.injEq] at h; subst h; simp (maxDischargeDepth := 9) [hw]; done)
    | (simp only [Option.some.injEq] at h; subst h; rw [foldl_mem _ _ _ fun s f => by simp]; exact hw)
    | exact wf_tellPlace h hw

@[simp] theorem wf_takeControls (s : State) (hw : memoryWf s.ms.mem = true) : memoryWf (takeControls s).ms.mem = true := by
  unfold takeControls
  dsimp only
  split
  · exact hw
  · refine foldl_wf _ _ _ hw fun s p h => ?_
    cases hc : takeControl s p with
    | none => exact h
    | some t => exact wf_takeControl hc h

@[simp] theorem wf_settle (s : State) (hw : memoryWf s.ms.mem = true) : memoryWf (settle s).ms.mem = true := by
  unfold settle
  (try dsimp only)
  repeat' (first | assumption | (with_reducible refine foldl_wf _ _ _ ?_ ?_; rotate_left; intro _ _ _) | split)
  all_goals (simp (maxDischargeDepth := 9) [*])

end Sys2Proof.Laws
end

