-- ==== Sys2Proof/Laws/Issue.lean ====
section
/-! SUPPORT. What the shared operations of issue, completion and trap entry do, each said once. -/

namespace Sys2Proof.Laws

open Sys2Proof.Machine Sys2Proof.Safety

/-- The checks of the registers read from the i-th on pass when each passes. -/
theorem readChecksFrom_none (f : Fibre) (y : Bool) (k : Nat) (all : List (Reg × Bool)) (i : Nat) (rs : List (Reg × Bool))
    (h : ∀ j r, rs[j]? = some r → readCheck f y (k + readNo all (i + j) r.1) r.1 = none) : readChecksFrom f y k all i rs = none := by
  induction rs generalizing i with
  | nil => rfl
  | cons r t ih =>
    have h0 := h 0 r (by simp)
    simp only [readChecksFrom, Nat.add_zero] at h0 ⊢
    rw [h0]
    exact ih (i + 1) fun j q hq => by
      have := h (j + 1) q (by simpa using hq)
      rwa [Nat.add_assoc, Nat.add_comm 1 j]

/-- The checks of the registers read pass when each passes. -/
theorem readChecks_none (f : Fibre) (y : Bool) (k : Nat) (rs : List (Reg × Bool))
    (h : ∀ j r, rs[j]? = some r → readCheck f y (k + readNo rs j r.1) r.1 = none) : readChecks f y k rs = none :=
  readChecksFrom_none f y k rs 0 rs fun j r hj => by rw [Nat.zero_add]; exact h j r hj

@[simp] theorem atReads_false (s : State) : atReads s false = s := rfl

@[simp] theorem atReads_true (s : State) : atReads s true = { s with fib := drain s.fib } := rfl

/-- Arrivals change a fibre's registers, marks and flags only. -/
theorem arrive_keeps (f : Fibre) (p : Pend) : (arrive f p).failure = f.failure ∧ (arrive f p).resumed = f.resumed
    ∧ (arrive f p).core = f.core ∧ (arrive f p).pfx = f.pfx ∧ (arrive f p).pl = f.pl ∧ (arrive f p).ident = f.ident
    ∧ (arrive f p).id = f.id ∧ (arrive f p).pc = f.pc ∧ (arrive f p).loops = f.loops := by
  unfold arrive putReg orFlags
  repeat' split
  all_goals simp

/-- What every arrival of a list keeps. -/
theorem arrives_keep (ps : List Pend) (f : Fibre) : (ps.foldl arrive f).failure = f.failure
    ∧ (ps.foldl arrive f).resumed = f.resumed ∧ (ps.foldl arrive f).core = f.core ∧ (ps.foldl arrive f).pfx = f.pfx
    ∧ (ps.foldl arrive f).pl = f.pl ∧ (ps.foldl arrive f).ident = f.ident ∧ (ps.foldl arrive f).id = f.id
    ∧ (ps.foldl arrive f).pc = f.pc ∧ (ps.foldl arrive f).loops = f.loops := by
  induction ps generalizing f with
  | nil => simp
  | cons p r ih =>
    obtain ⟨a1, a2, a3, a4, a5, a6, a7, a8, a9⟩ := arrive_keeps f p
    obtain ⟨b1, b2, b3, b4, b5, b6, b7, b8, b9⟩ := ih (arrive f p)
    exact ⟨b1.trans a1, b2.trans a2, b3.trans a3, b4.trans a4, b5.trans a5, b6.trans a6, b7.trans a7, b8.trans a8, b9.trans a9⟩

@[simp] theorem drain_failure (f : Fibre) : (drain f).failure = f.failure := (arrives_keep f.pend f).1
@[simp] theorem drain_resumed (f : Fibre) : (drain f).resumed = f.resumed := (arrives_keep f.pend f).2.1
@[simp] theorem drain_core (f : Fibre) : (drain f).core = f.core := (arrives_keep f.pend f).2.2.1
@[simp] theorem drain_pfx (f : Fibre) : (drain f).pfx = f.pfx := (arrives_keep f.pend f).2.2.2.1
@[simp] theorem drain_pl (f : Fibre) : (drain f).pl = f.pl := (arrives_keep f.pend f).2.2.2.2.1
@[simp] theorem drain_ident (f : Fibre) : (drain f).ident = f.ident := (arrives_keep f.pend f).2.2.2.2.2.1
@[simp] theorem drain_id (f : Fibre) : (drain f).id = f.id := (arrives_keep f.pend f).2.2.2.2.2.2.1
@[simp] theorem drain_pc (f : Fibre) : (drain f).pc = f.pc := (arrives_keep f.pend f).2.2.2.2.2.2.2.1
@[simp] theorem drain_loops (f : Fibre) : (drain f).loops = f.loops := (arrives_keep f.pend f).2.2.2.2.2.2.2.2
@[simp] theorem drain_pend (f : Fibre) : (drain f).pend = [] := rfl

/-- An instruction whose conditions hold performs its own effect. -/
theorem issue_of (s : State) (u : Use) (body : State → List Word → Eff) (h : Issues s u) :
    issue s u body = .next (carry (atReads s u.y) u (body (begun s u) (operands s u))) := by
  obtain ⟨h1, h2, h3, h4, h5, h6, h7, h8, h9⟩ := h
  have hr := readChecks_none (atReads s u.y).fib u.y s.sched.free u.reads h8
  have hsf : (atReads s u.y).sched = s.sched := by unfold atReads; split <;> rfl
  have hpl : (atReads s u.y).fib.pl = s.fib.pl := by unfold atReads; split <;> simp
  have hpx : (atReads s u.y).fib.pfx = s.fib.pfx := by unfold atReads; split <;> simp
  have hsg : servesGateway (atReads s u.y) (atReads s u.y).fib.core = servesGateway s s.fib.core := by
    unfold atReads
    split
    · simp only [drain_core]; rfl
    · rfl
  have hchk : issueChecks (atReads s u.y) u = none := by
    have c1 : ¬((isEngine5 u.instr && !servesGateway s s.fib.core) = true) := by
      intro hc
      simp only [Bool.and_eq_true, Bool.not_eq_true'] at hc
      rw [h3 hc.1] at hc
      exact Bool.noConfusion hc.2
    have c3 : ¬((s.fib.pfx && !u.pfxOk) = true) := by
      intro hc
      simp only [Bool.and_eq_true, Bool.not_eq_true'] at hc
      rw [h5 hc.1] at hc
      exact Bool.noConfusion hc.2
    have c4 : ¬(s.fib.pl.toNat < u.level) := Nat.not_lt.mpr h6
    simp only [issueChecks, hsg, hpl, hpx, hsf, hr, h7, h9, if_neg c1, if_neg c3, if_neg c4, h4, Bool.not_true, Bool.false_eq_true,
      if_false]
  unfold issue
  have hb : (u.y && !allReady s.fib) = false := by
    cases hy : u.y
    · rfl
    · simp [h1 hy]
  rw [hb]
  have hs : (if u.y = true then { s with fib := drain s.fib } else s) = atReads s u.y := rfl
  simp only [Bool.false_eq_true, if_false]
  rw [hs]
  have hf : ((atReads s u.y).fib.failure.isSome && (u.fail || u.y || (atReads s u.y).fib.resumed)) = false := by
    cases hy : u.y <;> simp only [atReads_false, atReads_true] <;> rcases h2 with h2 | ⟨a, b, c⟩ <;> simp_all
  rw [hf, hchk]
  simp only [Bool.false_eq_true, if_false, begun, operands, hsf]

/-- An instruction whose effect completes. -/
theorem issue_done {s : State} {u : Use} {body : State → List Word → Eff} {t : State} (h : Issues s u)
    (hb : body (begun s u) (operands s u) = .done t) : issue s u body = .next (finished u t) := by
  rw [issue_of s u body h, hb]
  rfl

/-- An instruction whose effect goes to an address. -/
theorem issue_jump {s : State} {u : Use} {body : State → List Word → Eff} {t : State} {pc : Word} (h : Issues s u)
    (hb : body (begun s u) (operands s u) = .jump t pc) : issue s u body = .next (wentTo u t pc) := by
  rw [issue_of s u body h, hb]
  rfl

/-- An instruction whose own check traps. -/
theorem issue_trap {s : State} {u : Use} {body : State → List Word → Eff} {c : Nat} {v : Word} (h : Issues s u)
    (hb : body (begun s u) (operands s u) = .trap c v) : issue s u body = .next (raise (found (atReads s u.y) c) c v) := by
  rw [issue_of s u body h, hb]
  rfl

/-- A trap that is no WINDOW is not counted (R439). -/
theorem found_of {s : State} {c : Nat} (h : c ≠ cWINDOW) : found s c = s := by simp [found, countWindow, h]

/-- An instruction that waits within itself (R407). -/
theorem issue_later {s : State} {u : Use} {body : State → List Word → Eff} {w : Wait} {j : Job} {t : State} (h : Issues s u)
    (hb : body (begun s u) (operands s u) = .later w j t) :
    issue s u body = .next (parkOn (unread (atReads s u.y) t) (.job (freeMask u) u.dest (u.fail || u.y) w j)) := by
  rw [issue_of s u body h, hb]
  rfl

/-- An instruction that holds its fibre until an event. -/
theorem issue_hold {s : State} {u : Use} {body : State → List Word → Eff} {w : Wait} {t : State} (h : Issues s u)
    (hb : body (begun s u) (operands s u) = .hold w t) : issue s u body = .next (holding s u w t) := by
  rw [issue_of s u body h, hb]
  rfl

/-- An instruction that must wait and issues again. -/
theorem issue_park {s : State} {u : Use} {body : State → List Word → Eff} {w : Wait} {t : State} (h : Issues s u)
    (hb : body (begun s u) (operands s u) = .park w t) :
    issue s u body = .next (parkOn (unread (atReads s u.y) t) w) := by
  rw [issue_of s u body h, hb]
  rfl

/-- An instruction that gives its state itself. -/
theorem issue_raw {s : State} {u : Use} {body : State → List Word → Eff} {t : State} (h : Issues s u)
    (hb : body (begun s u) (operands s u) = .raw t) : issue s u body = .next t := by
  rw [issue_of s u body h, hb]
  rfl

/-- An instruction that completes and then traps. -/
theorem issue_trapAfter {s : State} {u : Use} {body : State → List Word → Eff} {k : Bool} {c : Nat} {v : Word} (h : Issues s u)
    (hb : body (begun s u) (operands s u) = .trapAfter k c v) :
    issue s u body = .next (raiseAfter (atReads s u.y) k c v) := by
  rw [issue_of s u body h, hb]
  rfl

/-- What arrivals further keep. -/
theorem arrive_keeps_status (f : Fibre) (p : Pend) : (arrive f p).run = f.run ∧ (arrive f p).dchk = f.dchk ∧ (arrive f p).hzchk = f.hzchk ∧ (arrive f p).fpfx = f.fpfx
    ∧ (arrive f p).sup = f.sup ∧ (arrive f p).mon = f.mon ∧ (arrive f p).triggered = f.triggered ∧ (arrive f p).heldFree = f.heldFree ∧ (arrive f p).heldDest = f.heldDest
    ∧ (arrive f p).noMig = f.noMig ∧ (arrive f p).walked = f.walked := by
  unfold arrive putReg orFlags
  repeat' split
  all_goals simp

theorem arrives_run (ps : List Pend) (f : Fibre) : (ps.foldl arrive f).run = f.run := by
  induction ps generalizing f with
  | nil => rfl
  | cons p r ih => exact (ih _).trans (arrive_keeps_status f p).1

@[simp] theorem drain_run (f : Fibre) : (drain f).run = f.run := arrives_run f.pend f

theorem arrives_dchk (ps : List Pend) (f : Fibre) : (ps.foldl arrive f).dchk = f.dchk := by
  induction ps generalizing f with
  | nil => rfl
  | cons p r ih => exact (ih _).trans (arrive_keeps_status f p).2.1

@[simp] theorem drain_dchk (f : Fibre) : (drain f).dchk = f.dchk := arrives_dchk f.pend f

theorem arrives_hzchk (ps : List Pend) (f : Fibre) : (ps.foldl arrive f).hzchk = f.hzchk := by
  induction ps generalizing f with
  | nil => rfl
  | cons p r ih => exact (ih _).trans (arrive_keeps_status f p).2.2.1

@[simp] theorem drain_hzchk (f : Fibre) : (drain f).hzchk = f.hzchk := arrives_hzchk f.pend f

theorem arrives_fpfx (ps : List Pend) (f : Fibre) : (ps.foldl arrive f).fpfx = f.fpfx := by
  induction ps generalizing f with
  | nil => rfl
  | cons p r ih => exact (ih _).trans (arrive_keeps_status f p).2.2.2.1

@[simp] theorem drain_fpfx (f : Fibre) : (drain f).fpfx = f.fpfx := arrives_fpfx f.pend f

theorem arrives_sup (ps : List Pend) (f : Fibre) : (ps.foldl arrive f).sup = f.sup := by
  induction ps generalizing f with
  | nil => rfl
  | cons p r ih => exact (ih _).trans (arrive_keeps_status f p).2.2.2.2.1

@[simp] theorem drain_sup (f : Fibre) : (drain f).sup = f.sup := arrives_sup f.pend f

theorem arrives_mon (ps : List Pend) (f : Fibre) : (ps.foldl arrive f).mon = f.mon := by
  induction ps generalizing f with
  | nil => rfl
  | cons p r ih => exact (ih _).trans (arrive_keeps_status f p).2.2.2.2.2.1

@[simp] theorem drain_mon (f : Fibre) : (drain f).mon = f.mon := arrives_mon f.pend f

theorem arrives_triggered (ps : List Pend) (f : Fibre) : (ps.foldl arrive f).triggered = f.triggered := by
  induction ps generalizing f with
  | nil => rfl
  | cons p r ih => exact (ih _).trans (arrive_keeps_status f p).2.2.2.2.2.2.1

@[simp] theorem drain_triggered (f : Fibre) : (drain f).triggered = f.triggered := arrives_triggered f.pend f

theorem arrives_heldFree (ps : List Pend) (f : Fibre) : (ps.foldl arrive f).heldFree = f.heldFree := by
  induction ps generalizing f with
  | nil => rfl
  | cons p r ih => exact (ih _).trans (arrive_keeps_status f p).2.2.2.2.2.2.2.1

@[simp] theorem drain_heldFree (f : Fibre) : (drain f).heldFree = f.heldFree := arrives_heldFree f.pend f

theorem arrives_heldDest (ps : List Pend) (f : Fibre) : (ps.foldl arrive f).heldDest = f.heldDest := by
  induction ps generalizing f with
  | nil => rfl
  | cons p r ih => exact (ih _).trans (arrive_keeps_status f p).2.2.2.2.2.2.2.2.1

@[simp] theorem drain_heldDest (f : Fibre) : (drain f).heldDest = f.heldDest := arrives_heldDest f.pend f

theorem arrives_noMig (ps : List Pend) (f : Fibre) : (ps.foldl arrive f).noMig = f.noMig := by
  induction ps generalizing f with
  | nil => rfl
  | cons p r ih => exact (ih _).trans (arrive_keeps_status f p).2.2.2.2.2.2.2.2.2.1

@[simp] theorem drain_noMig (f : Fibre) : (drain f).noMig = f.noMig := arrives_noMig f.pend f

theorem arrives_walked (ps : List Pend) (f : Fibre) : (ps.foldl arrive f).walked = f.walked := by
  induction ps generalizing f with
  | nil => rfl
  | cons p r ih => exact (ih _).trans (arrive_keeps_status f p).2.2.2.2.2.2.2.2.2.2

@[simp] theorem drain_walked (f : Fibre) : (drain f).walked = f.walked := arrives_walked f.pend f

theorem freeRegs_keeps (f : Fibre) (m : BitVec 16) : freeRegs f m = { f with
    live := (freeRegs f m).live
    pend := (freeRegs f m).pend } := by
  unfold freeRegs
  split <;> rfl

@[simp] theorem freeRegs_id (f : Fibre) (m : BitVec 16) : (freeRegs f m).id = f.id := by rw [freeRegs_keeps]

@[simp] theorem freeRegs_core (f : Fibre) (m : BitVec 16) : (freeRegs f m).core = f.core := by rw [freeRegs_keeps]

@[simp] theorem freeRegs_run (f : Fibre) (m : BitVec 16) : (freeRegs f m).run = f.run := by rw [freeRegs_keeps]

@[simp] theorem freeRegs_regs (f : Fibre) (m : BitVec 16) : (freeRegs f m).regs = f.regs := by rw [freeRegs_keeps]

@[simp] theorem freeRegs_marks (f : Fibre) (m : BitVec 16) : (freeRegs f m).marks = f.marks := by rw [freeRegs_keeps]

@[simp] theorem freeRegs_pc (f : Fibre) (m : BitVec 16) : (freeRegs f m).pc = f.pc := by rw [freeRegs_keeps]

@[simp] theorem freeRegs_pfx (f : Fibre) (m : BitVec 16) : (freeRegs f m).pfx = f.pfx := by rw [freeRegs_keeps]

@[simp] theorem freeRegs_dchk (f : Fibre) (m : BitVec 16) : (freeRegs f m).dchk = f.dchk := by rw [freeRegs_keeps]

@[simp] theorem freeRegs_hzchk (f : Fibre) (m : BitVec 16) : (freeRegs f m).hzchk = f.hzchk := by rw [freeRegs_keeps]

@[simp] theorem freeRegs_pl (f : Fibre) (m : BitVec 16) : (freeRegs f m).pl = f.pl := by rw [freeRegs_keeps]

@[simp] theorem freeRegs_flags (f : Fibre) (m : BitVec 16) : (freeRegs f m).flags = f.flags := by rw [freeRegs_keeps]

@[simp] theorem freeRegs_fpfx (f : Fibre) (m : BitVec 16) : (freeRegs f m).fpfx = f.fpfx := by rw [freeRegs_keeps]

@[simp] theorem freeRegs_loops (f : Fibre) (m : BitVec 16) : (freeRegs f m).loops = f.loops := by rw [freeRegs_keeps]

@[simp] theorem freeRegs_sup (f : Fibre) (m : BitVec 16) : (freeRegs f m).sup = f.sup := by rw [freeRegs_keeps]

@[simp] theorem freeRegs_mon (f : Fibre) (m : BitVec 16) : (freeRegs f m).mon = f.mon := by rw [freeRegs_keeps]

@[simp] theorem freeRegs_failure (f : Fibre) (m : BitVec 16) : (freeRegs f m).failure = f.failure := by rw [freeRegs_keeps]

@[simp] theorem freeRegs_ident (f : Fibre) (m : BitVec 16) : (freeRegs f m).ident = f.ident := by rw [freeRegs_keeps]

@[simp] theorem freeRegs_triggered (f : Fibre) (m : BitVec 16) : (freeRegs f m).triggered = f.triggered := by rw [freeRegs_keeps]

@[simp] theorem freeRegs_heldFree (f : Fibre) (m : BitVec 16) : (freeRegs f m).heldFree = f.heldFree := by rw [freeRegs_keeps]

@[simp] theorem freeRegs_heldDest (f : Fibre) (m : BitVec 16) : (freeRegs f m).heldDest = f.heldDest := by rw [freeRegs_keeps]

@[simp] theorem freeRegs_noMig (f : Fibre) (m : BitVec 16) : (freeRegs f m).noMig = f.noMig := by rw [freeRegs_keeps]

@[simp] theorem freeRegs_resumed (f : Fibre) (m : BitVec 16) : (freeRegs f m).resumed = f.resumed := by rw [freeRegs_keeps]

@[simp] theorem freeRegs_walked (f : Fibre) (m : BitVec 16) : (freeRegs f m).walked = f.walked := by rw [freeRegs_keeps]

@[simp] theorem begun_fibres (s : State) (u : Use) : (begun s u).fibres = s.fibres := by unfold begun afterReads atReads; split <;> rfl

@[simp] theorem begun_ms (s : State) (u : Use) : (begun s u).ms = s.ms := by unfold begun afterReads atReads; split <;> rfl

@[simp] theorem begun_cores (s : State) (u : Use) : (begun s u).cores = s.cores := by unfold begun afterReads atReads; split <;> rfl

@[simp] theorem begun_arrays (s : State) (u : Use) : (begun s u).arrays = s.arrays := by unfold begun afterReads atReads; split <;> rfl

@[simp] theorem begun_walkers (s : State) (u : Use) : (begun s u).walkers = s.walkers := by unfold begun afterReads atReads; split <;> rfl

@[simp] theorem begun_walkWait (s : State) (u : Use) : (begun s u).walkWait = s.walkWait := by unfold begun afterReads atReads; split <;> rfl

@[simp] theorem begun_indexes (s : State) (u : Use) : (begun s u).indexes = s.indexes := by unfold begun afterReads atReads; split <;> rfl

@[simp] theorem begun_idxCmds (s : State) (u : Use) : (begun s u).idxCmds = s.idxCmds := by unfold begun afterReads atReads; split <;> rfl

@[simp] theorem begun_recvs (s : State) (u : Use) : (begun s u).recvs = s.recvs := by unfold begun afterReads atReads; split <;> rfl

@[simp] theorem begun_watches (s : State) (u : Use) : (begun s u).watches = s.watches := by unfold begun afterReads atReads; split <;> rfl

@[simp] theorem begun_allocs (s : State) (u : Use) : (begun s u).allocs = s.allocs := by unfold begun afterReads atReads; split <;> rfl

@[simp] theorem begun_gwqs (s : State) (u : Use) : (begun s u).gwqs = s.gwqs := by unfold begun afterReads atReads; split <;> rfl

@[simp] theorem begun_dist (s : State) (u : Use) : (begun s u).dist = s.dist := by unfold begun afterReads atReads; split <;> rfl

@[simp] theorem begun_dev (s : State) (u : Use) : (begun s u).dev = s.dev := by unfold begun afterReads atReads; split <;> rfl

@[simp] theorem begun_ports (s : State) (u : Use) : (begun s u).ports = s.ports := by unfold begun afterReads atReads; split <;> rfl

@[simp] theorem begun_net (s : State) (u : Use) : (begun s u).net = s.net := by unfold begun afterReads atReads; split <;> rfl

@[simp] theorem begun_host (s : State) (u : Use) : (begun s u).host = s.host := by unfold begun afterReads atReads; split <;> rfl

@[simp] theorem begun_fib_id (s : State) (u : Use) : (begun s u).fib.id = s.fib.id := by
  unfold begun afterReads atReads; split <;> simp

@[simp] theorem begun_fib_core (s : State) (u : Use) : (begun s u).fib.core = s.fib.core := by
  unfold begun afterReads atReads; split <;> simp

@[simp] theorem begun_fib_run (s : State) (u : Use) : (begun s u).fib.run = s.fib.run := by
  unfold begun afterReads atReads; split <;> simp

@[simp] theorem begun_fib_pc (s : State) (u : Use) : (begun s u).fib.pc = s.fib.pc := by
  unfold begun afterReads atReads; split <;> simp

@[simp] theorem begun_fib_pfx (s : State) (u : Use) : (begun s u).fib.pfx = s.fib.pfx := by
  unfold begun afterReads atReads; split <;> simp

@[simp] theorem begun_fib_dchk (s : State) (u : Use) : (begun s u).fib.dchk = s.fib.dchk := by
  unfold begun afterReads atReads; split <;> simp

@[simp] theorem begun_fib_hzchk (s : State) (u : Use) : (begun s u).fib.hzchk = s.fib.hzchk := by
  unfold begun afterReads atReads; split <;> simp

@[simp] theorem begun_fib_pl (s : State) (u : Use) : (begun s u).fib.pl = s.fib.pl := by
  unfold begun afterReads atReads; split <;> simp

@[simp] theorem begun_fib_fpfx (s : State) (u : Use) : (begun s u).fib.fpfx = s.fib.fpfx := by
  unfold begun afterReads atReads; split <;> simp

@[simp] theorem begun_fib_loops (s : State) (u : Use) : (begun s u).fib.loops = s.fib.loops := by
  unfold begun afterReads atReads; split <;> simp

@[simp] theorem begun_fib_sup (s : State) (u : Use) : (begun s u).fib.sup = s.fib.sup := by
  unfold begun afterReads atReads; split <;> simp

@[simp] theorem begun_fib_mon (s : State) (u : Use) : (begun s u).fib.mon = s.fib.mon := by
  unfold begun afterReads atReads; split <;> simp

@[simp] theorem begun_fib_failure (s : State) (u : Use) : (begun s u).fib.failure = s.fib.failure := by
  unfold begun afterReads atReads; split <;> simp

@[simp] theorem begun_fib_ident (s : State) (u : Use) : (begun s u).fib.ident = s.fib.ident := by
  unfold begun afterReads atReads; split <;> simp

@[simp] theorem begun_fib_triggered (s : State) (u : Use) : (begun s u).fib.triggered = s.fib.triggered := by
  unfold begun afterReads atReads; split <;> simp

@[simp] theorem begun_fib_heldFree (s : State) (u : Use) : (begun s u).fib.heldFree = s.fib.heldFree := by
  unfold begun afterReads atReads; split <;> simp

@[simp] theorem begun_fib_heldDest (s : State) (u : Use) : (begun s u).fib.heldDest = s.fib.heldDest := by
  unfold begun afterReads atReads; split <;> simp

@[simp] theorem begun_fib_noMig (s : State) (u : Use) : (begun s u).fib.noMig = s.fib.noMig := by
  unfold begun afterReads atReads; split <;> simp

@[simp] theorem begun_fib_resumed (s : State) (u : Use) : (begun s u).fib.resumed = s.fib.resumed := by
  unfold begun afterReads atReads; split <;> simp

@[simp] theorem begun_fib_walked (s : State) (u : Use) : (begun s u).fib.walked = s.fib.walked := by
  unfold begun afterReads atReads; split <;> simp

/-- TLB entries do not bear on who owns bytes. -/
theorem touched_keeps (s : State) (a : Acc) : touched s a = { s with ms := { s.ms with tlb := (touched s a).ms.tlb } } := by
  unfold touched noteTlb
  repeat' split
  all_goals rfl

@[simp] theorem touched_fib (s : State) (a : Acc) : (touched s a).fib = s.fib := by rw [touched_keeps]
@[simp] theorem touched_fibres (s : State) (a : Acc) : (touched s a).fibres = s.fibres := by rw [touched_keeps]
@[simp] theorem touched_sched (s : State) (a : Acc) : (touched s a).sched = s.sched := by rw [touched_keeps]
@[simp] theorem touched_dev (s : State) (a : Acc) : (touched s a).dev = s.dev := by rw [touched_keeps]
@[simp] theorem touched_dist (s : State) (a : Acc) : (touched s a).dist = s.dist := by rw [touched_keeps]
@[simp] theorem touched_mem (s : State) (a : Acc) : (touched s a).ms.mem = s.ms.mem := by rw [touched_keeps]
@[simp] theorem touched_full (s : State) (a : Acc) : (touched s a).ms.full = s.ms.full := by rw [touched_keeps]
@[simp] theorem touched_poison (s : State) (a : Acc) : (touched s a).ms.poison = s.ms.poison := by rw [touched_keeps]
@[simp] theorem touched_reqs (s : State) (a : Acc) : (touched s a).ms.reqs = s.ms.reqs := by rw [touched_keeps]
@[simp] theorem touched_copies (s : State) (a : Acc) : (touched s a).ms.copies = s.ms.copies := by rw [touched_keeps]

/-- Whether an engine owns bytes does not depend on the TLBs. -/
theorem owned_touched (s : State) (a : Acc) (pa n : Nat) : owned (touched s a) pa n = owned s pa n := by
  rw [touched_keeps]
  rfl

/-- An access whose checks pass goes on with its address where it does not migrate the fibre. -/
theorem accessIf_of {s : State} {k : AccKind} {n : Nat} {ea : Word} {own : Acc → Option Nat} {a : Acc} (mig : Bool)
    (go : State → Acc → Eff) (h : Reachable s k n ea own a)
    (hm : (mig && (a.mig && a.loc == 2 && (isRemote s a.pa || spadCore a.pa != s.fib.core)) && mayMigrate s s.fib) = false) :
    accessIf mig s k n ea own go = go (touched s a) a := by
  obtain ⟨h1, h2, h3, h4, h5, h6, _⟩ := h
  have hal : ¬((!aligned ea n) = true) := by simp [aligned, h1]
  have hmm : mayMigrate (touched s a) (touched s a).fib = mayMigrate s s.fib := by
    rw [touched_keeps]
    rfl
  have hir : isRemote (touched s a) a.pa = isRemote s a.pa := by
    rw [touched_keeps]
    rfl
  have hfar : ¬((mig && (a.mig && a.loc == 2 && (isRemote (touched s a) a.pa || spadCore a.pa != (touched s a).fib.core))
      && mayMigrate (touched s a) (touched s a).fib) = true) := by
    rw [hmm, hir, touched_fib, hm]
    exact Bool.false_ne_true
  simp only [accessIf, if_neg hal, h2, Bool.false_eq_true, if_false, h3, h4, h5, h6]
  erw [if_neg hfar]
  rfl

/-- A load, store or atomic whose conditions hold goes on with its address. -/
theorem access_of {s : State} {k : AccKind} {n : Nat} {ea : Word} {own : Acc → Option Nat} {a : Acc} (go : State → Acc → Eff)
    (h : Accessible s k n ea own a) : access s k n ea own go = go (touched s a) a :=
  accessIf_of true go h.toReachable (by simpa [Bool.and_assoc] using h.stays)

/-- A full/empty operation, WAITA or NOTIFY whose conditions hold goes on with its address. -/
theorem accessStay_of {s : State} {k : AccKind} {n : Nat} {ea : Word} {own : Acc → Option Nat} {a : Acc} (go : State → Acc → Eff)
    (h : Reachable s k n ea own a) : accessStay s k n ea own go = go (touched s a) a := accessIf_of false go h (by simp)

/-- A word of a block that can be read goes on with its value. -/
theorem word_of {s : State} {a : Acc} {va w : Word} {r : State} (go : State → Word → Eff) (h : WordReads s a va w r) :
    (if isRemote s a.pa then fetchFar s a.pa va go
      else match loadNow s a va with
        | .error c => .trap c va
        | .ok x => go x.2 x.1) = go r w := by
  rcases h with ⟨h1, h2⟩ | ⟨h1, rfl, x, h2, h3, h4, rfl⟩
  · simp [h1, h2]
  · simp [h1, fetchFar, h2, h3, h4]

/-- A block that reads goes on with its words. -/
theorem readBlock_of {n : Nat} {s : State} {va : Word} {ws : List Word} {t : State} (acc : List Word)
    (go : State → List Word → Eff) (h : BlockReads n s va ws t) : readBlock n s va acc go = go t (acc ++ ws) := by
  induction n generalizing s va ws acc with
  | zero =>
    obtain ⟨h1, h2⟩ := h
    simp [readBlock, h1, h2]
  | succ k ih =>
    obtain ⟨a, w, r, tl, h1, h2, h3, h4, h5⟩ := h
    simp only [readBlock]
    rw [access_of _ h1, owned_touched, h1.free]
    simp only [h2, Bool.not_true, Bool.false_eq_true, if_false]
    refine (word_of (fun s v => readBlock k s (va + 8) (acc ++ [v]) go) h3).trans ?_
    rw [ih _ h5, h4]
    simp

end Sys2Proof.Laws
end

