-- ==== Sys2Proof/Laws/Meanings.lean ====
section
/-! SUPPORT. Every meaning keeps the canonical form of memory: one lemma per instruction (`wf_exec<Name>`), their sum over
`exec`, and the shared effects (`eff_<effect>`) that they go through. -/

namespace Sys2Proof.Laws
open Sys2Proof.Machine
set_option Elab.async false

theorem eff_accessIf {m : Bool} {s : State} {k : AccKind} {n : Nat} {ea : Word} {own : Acc → Option Nat} {go : State → Acc → Eff}
    (hw : memoryWf s.ms.mem = true) (hg : ∀ t a, memoryWf t.ms.mem = true → effWf (go t a)) : effWf (accessIf m s k n ea own go) := by
  unfold accessIf
  split
  · trivial
  split
  · simp [effWf, hw]
  split
  · trivial
  · exact hw
  · simp [effWf, hw]
  split
  · trivial
  split
  · trivial
  split
  · trivial
  extract_lets s1 far
  have h1 : memoryWf s1.ms.mem = true := by simp [s1, hw]
  split
  · exact h1
  · exact hg _ _ h1

theorem eff_access {s : State} {k : AccKind} {n : Nat} {ea : Word} {own : Acc → Option Nat} {go : State → Acc → Eff}
    (hw : memoryWf s.ms.mem = true) (hg : ∀ t a, memoryWf t.ms.mem = true → effWf (go t a)) : effWf (access s k n ea own go) :=
  eff_accessIf hw hg

theorem eff_accessStay {s : State} {k : AccKind} {n : Nat} {ea : Word} {own : Acc → Option Nat} {go : State → Acc → Eff}
    (hw : memoryWf s.ms.mem = true) (hg : ∀ t a, memoryWf t.ms.mem = true → effWf (go t a)) : effWf (accessStay s k n ea own go) :=
  eff_accessIf hw hg

theorem wf_checkAt {s t : State} {k : AccKind} {n : Nat} {va : Word} {own : Acc → Option Nat} {w : Wait}
    (h : checkAt s k n va own = .wait w t) (hw : memoryWf s.ms.mem = true) : memoryWf t.ms.mem = true := by
  unfold checkAt at h
  dsimp only at h
  repeat' split at h
  all_goals first
    | (cases h; done)
    | (cases h; exact hw)
    | (cases h; simp [hw])

theorem wf_chkIf {c : Prop} [Decidable c] {s t : State} {x : Acc} {va : Word} {w : Wait}
    (h : (if c then Chk.ok x else checkWord s va) = .wait w t) (hw : memoryWf s.ms.mem = true) : memoryWf t.ms.mem = true := by
  split at h
  · cases h
  · exact wf_checkAt h hw

theorem wf_checkWord {s t : State} {va : Word} {w : Wait} (h : checkWord s va = .wait w t) (hw : memoryWf s.ms.mem = true) :
    memoryWf t.ms.mem = true := wf_checkAt h hw

theorem eff_fetchFar {s : State} {pa : Nat} {va : Word} {go : State → Word → Eff} (hw : memoryWf s.ms.mem = true)
    (hg : ∀ t v, memoryWf t.ms.mem = true → effWf (go t v)) : effWf (fetchFar s pa va go) := by
  unfold fetchFar
  repeat' split
  all_goals first
    | trivial
    | exact hw
    | exact hg _ _ hw
    | simp [effWf, hw]

theorem eff_goTo {t : State} {a : Word} {f : State → State} (hf : memoryWf (f t).ms.mem = true) : effWf (goTo t a f) := by
  unfold goTo
  split
  · trivial
  · exact hf

theorem wf_loadNow {s t : State} {a : Acc} {va v : Word} (h : loadNow s a va = .ok (v, t)) (hw : memoryWf s.ms.mem = true) :
    memoryWf t.ms.mem = true := by
  unfold loadNow at h
  repeat' split at h
  all_goals first
    | (cases h; done)
    | (simp only [Except.ok.injEq] at h; rw [← show (takeFree s).2 = t from (Prod.ext_iff.1 h).2]; rw [mem_takeFree]; exact hw)
    | (simp only [Except.ok.injEq, Prod.mk.injEq] at h; obtain ⟨-, rfl⟩ := h; exact wf_perf_done ‹_› hw)

theorem eff_readBlock {n : Nat} {s : State} {va : Word} {acc : List Word} {go : State → List Word → Eff}
    (hw : memoryWf s.ms.mem = true) (hg : ∀ t ws, memoryWf t.ms.mem = true → effWf (go t ws)) : effWf (readBlock n s va acc go) := by
  induction n generalizing s va acc with
  | zero => exact hg s acc hw
  | succ k ih =>
    unfold readBlock
    refine eff_access hw ?_
    intro t a ht
    split
    · exact ht
    split
    · exact ht
    split
    · exact eff_fetchFar ht fun u v hu => ih hu
    · split
      · trivial
      · rename_i r hr
        exact ih (wf_loadNow (v := r.1) (t := r.2) hr ht)

theorem eff_doWait {s : State} {r : Req} {d : Reg} {res : Bool} (hw : memoryWf s.ms.mem = true) : effWf (doWait s r d res) := by
  unfold doWait
  repeat' split
  all_goals first
    | (simp (maxDischargeDepth := 9) [effWf, hw]; done)
    | (simp (maxDischargeDepth := 9) [effWf, wf_perf_done ‹_› hw]; done)
    | (simp (maxDischargeDepth := 9) [effWf, wf_perf_fail ‹_› hw]; done)
    | (simp (maxDischargeDepth := 9) [effWf, wf_perf_wait ‹_› hw]; done)

theorem eff_goOn {j : Job} {e : Eff} (h : effWf e) : effWf (goOn j e) := by
  cases e <;> exact h

@[simp] theorem eff_copyEff (t : State) (c : Copy) (hw : memoryWf t.ms.mem = true) : effWf (copyEff t c) := by
  unfold copyEff
  (try dsimp only)
  repeat' split
  all_goals first | trivial | exact hw | simp (maxDischargeDepth := 9) [effWf, hw]

@[simp] theorem eff_kickEff (t : State) (o : Outst) (a : List Byte) (hw : memoryWf t.ms.mem = true) : effWf (kickEff t o a) := by
  unfold kickEff
  (try dsimp only)
  repeat' split
  all_goals first | trivial | exact hw | simp (maxDischargeDepth := 9) [effWf, hw]

@[simp] theorem eff_sendEff (t : State) (o : Outst) (g : Word) (k : BitVec 4) (r : Bool) (hw : memoryWf t.ms.mem = true) : effWf (sendEff t o g k r) := by
  unfold sendEff
  (try dsimp only)
  repeat' split
  all_goals first | trivial | exact hw | simp (maxDischargeDepth := 9) [effWf, hw]

@[simp] theorem eff_amsgEff (t : State) (o : Outst) (a : List Byte) (k : BitVec 4) (r : Bool) (hw : memoryWf t.ms.mem = true) : effWf (amsgEff t o a k r) := by
  unfold amsgEff
  (try dsimp only)
  repeat' split
  all_goals first | trivial | exact hw | simp (maxDischargeDepth := 9) [effWf, hw]

@[simp] theorem eff_indexEff (t : State) (c : IdxCmd) (hw : memoryWf t.ms.mem = true) : effWf (indexEff t c) := by
  unfold indexEff
  (try dsimp only)
  repeat' split
  all_goals first | trivial | exact hw | simp (maxDischargeDepth := 9) [effWf, hw]

@[simp] theorem eff_postEff (t : State) (r : Recv) (d : Word) (hw : memoryWf t.ms.mem = true) : effWf (postEff t r d) := by
  unfold postEff
  (try dsimp only)
  repeat' split
  all_goals first | trivial | exact hw | simp (maxDischargeDepth := 9) [effWf, hw]

@[simp] theorem eff_callatEff (t : State) (c : Nat) (v : List Word) (hw : memoryWf t.ms.mem = true) : effWf (callatEff t c v) := by
  unfold callatEff
  (try dsimp only)
  repeat' split
  all_goals first | trivial | exact hw | simp (maxDischargeDepth := 9) [effWf, hw]

@[simp] theorem eff_notifyEff (t : State) (r : Req) (d : Reg) (hw : memoryWf t.ms.mem = true) : effWf (notifyEff t r d) := by
  unfold notifyEff
  (try dsimp only)
  repeat' split
  all_goals first | trivial | exact hw | simp (maxDischargeDepth := 9) [effWf, hw]

@[simp] theorem eff_cacheEff (t : State) (r : Req) (l : BitVec 2) (o : Nat) (hw : memoryWf t.ms.mem = true) : effWf (cacheEff t r l o) := by
  unfold cacheEff
  (try dsimp only)
  repeat' split
  all_goals first | trivial | exact hw | simp (maxDischargeDepth := 9) [effWf, hw]

@[simp] theorem eff_fenceEff (t : State) (k : BitVec 4) (hw : memoryWf t.ms.mem = true) : effWf (fenceEff t k) := by
  unfold fenceEff
  (try dsimp only)
  repeat' split
  all_goals first | trivial | exact hw | simp (maxDischargeDepth := 9) [effWf, hw]

@[simp] theorem eff_exitEff (t : State) (v : Word) (hw : memoryWf t.ms.mem = true) : effWf (exitEff t v) := by
  unfold exitEff
  (try dsimp only)
  repeat' split
  all_goals first | trivial | exact hw | simp (maxDischargeDepth := 9) [effWf, hw]

@[simp] theorem eff_trigEff (t : State) (hw : memoryWf t.ms.mem = true) : effWf (trigEff t) := by
  unfold trigEff
  (try dsimp only)
  repeat' split
  all_goals first | trivial | exact hw | simp (maxDischargeDepth := 9) [effWf, hw]

@[simp] theorem eff_arriveEff (t : State) (g : Bool) (c : BitVec 2) (v : Word) (hw : memoryWf t.ms.mem = true) : effWf (arriveEff t g c v) := by
  unfold arriveEff
  (try dsimp only)
  repeat' split
  all_goals first | trivial | exact hw | simp (maxDischargeDepth := 9) [effWf, hw]

@[simp] theorem eff_tlbinvEff (t : State) (k : BitVec 4) (m : Word) (a : Bool) (v : Word) (hw : memoryWf t.ms.mem = true) : effWf (tlbinvEff t k m a v) := by
  unfold tlbinvEff
  (try dsimp only)
  repeat' split
  all_goals first | trivial | exact hw | simp (maxDischargeDepth := 9) [effWf, hw]

@[simp] theorem eff_freeEff (t : State) (b : Word) (hw : memoryWf t.ms.mem = true) : effWf (freeEff t b) := by
  unfold freeEff
  (try dsimp only)
  repeat' split
  all_goals first | trivial | exact hw | simp (maxDischargeDepth := 9) [effWf, hw]

@[simp] theorem eff_closeEff (t : State) (d : Reg) (n : Nat) (hw : memoryWf t.ms.mem = true) : effWf (closeEff t d n) := by
  unfold closeEff
  (try dsimp only)
  repeat' split
  all_goals first | trivial | exact hw | simp (maxDischargeDepth := 9) [effWf, hw]

@[simp] theorem eff_keyEff (t : State) (k : List Byte) (hw : memoryWf t.ms.mem = true) : effWf (keyEff t k) := by
  unfold keyEff
  (try dsimp only)
  repeat' split
  all_goals first | trivial | exact hw | simp (maxDischargeDepth := 9) [effWf, hw]

@[simp] theorem eff_turnEff (t : State) (hw : memoryWf t.ms.mem = true) : effWf (turnEff t) := by
  unfold turnEff
  (try dsimp only)
  repeat' split
  all_goals first | trivial | exact hw | simp (maxDischargeDepth := 9) [effWf, hw]

@[simp] theorem eff_defineEff (t : State) (c k b : Nat) (v : Word) (hw : memoryWf t.ms.mem = true) : effWf (defineEff t c k b v) := by
  unfold defineEff
  (try dsimp only)
  repeat' split
  all_goals first | trivial | exact hw | simp (maxDischargeDepth := 9) [effWf, hw]

@[simp] theorem eff_stateEff (t : State) (c k b : Nat) (g : Bool) (x : BitVec 2) (d : Reg) (hw : memoryWf t.ms.mem = true) : effWf (stateEff t c k b g x d) := by
  unfold stateEff
  (try dsimp only)
  repeat' split
  all_goals first | trivial | exact hw | simp (maxDischargeDepth := 9) [effWf, hw]

@[simp] theorem eff_walkEff (t : State) (w : Walker) (hw : memoryWf t.ms.mem = true) : effWf (walkEff t w) := by
  unfold walkEff
  (try dsimp only)
  repeat' split
  all_goals first | trivial | exact hw | simp (maxDischargeDepth := 9) [effWf, hw]

@[simp] theorem eff_migrEff (t : State) (m : BitVec 16) (d : Reg) (p : Nat) (hw : memoryWf t.ms.mem = true) : effWf (migrEff t m d p) := by
  unfold migrEff
  (try dsimp only)
  repeat' split
  all_goals first | trivial | exact hw | simp (maxDischargeDepth := 9) [effWf, hw]

@[simp] theorem eff_accessEff (t : State) (k : Nat) (r : Req) (d : Reg) (hw : memoryWf t.ms.mem = true) : effWf (accessEff t k r d) := by
  unfold accessEff
  dsimp only
  repeat' split
  all_goals first | exact hw | exact eff_doWait hw | simp (maxDischargeDepth := 9) [effWf, hw]

@[simp] theorem eff_launchEff (t : State) (v : Word) (d : Reg) (hw : memoryWf t.ms.mem = true) : effWf (launchEff t v d) := by
  unfold launchEff
  split
  · exact hw
  · refine eff_goOn (eff_readBlock (by simp [hw]) fun u ws hu => ?_)
    simp (maxDischargeDepth := 9) [effWf, hu]

@[simp] theorem eff_graphEff (t : State) (a : Word) (hw : memoryWf t.ms.mem = true) : effWf (graphEff t a) := by
  unfold graphEff
  dsimp only
  split
  · simp [effWf, hw]
  · refine eff_goOn (eff_readBlock (by simp [hw]) fun u ws hu => ?_)
    split
    · trivial
    · refine eff_readBlock hu fun x ns hx => ?_
      split
      · trivial
      · simp [hx]

theorem eff_startLoop {t : State} {n : BitVec 32} {d : Nat} (hw : memoryWf t.ms.mem = true) : effWf (startLoop t n d) := by
  unfold startLoop
  dsimp only
  repeat' split
  all_goals first | trivial | exact hw

@[simp] theorem eff_setMask {t : State} {n : Nat} {v : Word} (hw : memoryWf t.ms.mem = true) : effWf (setMask t n v) := by
  unfold setMask
  split <;> simp (maxDischargeDepth := 9) [effWf, hw]

theorem eff_hand {s : State} {c : MCmd} {p : Bool} (hw : memoryWf s.ms.mem = true) : effWf (hand s c p) := by
  unfold hand
  dsimp only
  repeat' split
  all_goals simp (maxDischargeDepth := 9) [effWf, hw]

@[simp] theorem eff_rewriteEntry {t : State} {e : Nat} {v : BitVec 65} (hw : memoryWf t.ms.mem = true) : effWf (rewriteEntry t e v) := by
  unfold rewriteEntry
  dsimp only
  repeat' split
  all_goals simp (maxDischargeDepth := 9) [effWf, hw]

theorem eff_cmdTile {t : State} {op tile dim : Nat} {go : Option TileAt → Eff} (hw : memoryWf t.ms.mem = true)
    (hg : ∀ x, effWf (go x)) : effWf (cmdTile t op tile dim go) := by
  unfold cmdTile
  repeat' split
  all_goals first | trivial | exact hw | exact hg _

theorem eff_cmdVector {t : State} {q : Option TileAt} {dim : Nat} {a : Word} {go : List (BitVec 32) → Eff}
    (hg : ∀ x, effWf (go x)) : effWf (cmdVector t q dim a go) := by
  unfold cmdVector
  dsimp only
  repeat' split
  all_goals first | trivial | exact hg _

theorem eff_openPages {n : Nat} {s : State} {k : AccKind} {va : Nat} {b : Bool} {e : Eff} (h : openPages n s k va b = .error e)
    (hw : memoryWf s.ms.mem = true) : effWf e := by
  induction n generalizing va b with
  | zero => cases h
  | succ m ih =>
    unfold openPages at h
    dsimp only at h
    repeat' split at h
    all_goals first
      | (cases h; trivial)
      | (cases h; exact hw)
      | (cases h; simp [effWf, hw]; done)
      | exact ih h

theorem eff_openRegions {s : State} {rs : List (AccKind × Nat × Nat)} {b : Bool} {e : Eff} (h : openRegions s rs b = .error e)
    (hw : memoryWf s.ms.mem = true) : effWf e := by
  induction rs generalizing b with
  | nil => cases h
  | cons r t ih =>
    unfold openRegions at h
    split at h
    · cases h
      exact eff_openPages ‹_› hw
    · exact ih h

theorem eff_openWeights {t : State} {n va : Nat} {go : State → List (BitVec 32) → Eff} (hw : memoryWf t.ms.mem = true)
    (hg : ∀ u x, memoryWf u.ms.mem = true → effWf (go u x)) : effWf (openWeights t n va go) := by
  unfold openWeights
  dsimp only
  repeat' split
  all_goals first
    | trivial
    | (simp [effWf, hw]; done)
    | exact hg _ _ (by simp [hw])

theorem eff_openIndex {t : State} {a : Word} {gd : Reg} (hw : memoryWf t.ms.mem = true) : effWf (openIndex t a gd) := by
  unfold openIndex
  dsimp only
  split
  · exact eff_openPages ‹_› hw
  · refine eff_readBlock hw ?_
    intro u ws hu
    split
    · exact eff_openRegions ‹_› hu
    split
    · trivial
    split
    · trivial
    refine eff_openWeights hu fun r x hr => ?_
    split
    · trivial
    · simp [effWf, hr]

/-- Whether what a fetch comes to keeps the canonical form. -/
def fetchedWf (f : Fetched) : Prop :=
  match f with
  | .word _ t => memoryWf t.ms.mem = true
  | .later t => memoryWf t.ms.mem = true
  | .fault _ => True
  | .came _ => True

theorem wf_wordAt (s : State) (a : Acc) (hw : memoryWf s.ms.mem = true) : fetchedWf (wordAt s a) := by
  unfold wordAt
  dsimp only
  repeat' split
  all_goals first
    | trivial
    | exact hw
    | simp [fetchedWf, hw]

theorem wf_fetchWord (s : State) (hw : memoryWf s.ms.mem = true) : fetchedWf (fetchWord s) := by
  unfold fetchWord
  split
  · trivial
  · exact wf_wordAt s _ hw
  · simp [fetchedWf, hw]
  · trivial

theorem mem_gSlot (d : Nat) (a : State × List (List (Ex × BitVec 5)) × List Nat × List Nat) (x : Word × List Nat) : (gSlot d a x).1.ms.mem = a.1.ms.mem := by
  unfold gSlot
  dsimp only
  repeat' split
  all_goals simp

theorem eff_withHeader {s : State} {pas : List Nat} {va : Word} {go : State → Word → Eff} (hw : memoryWf s.ms.mem = true)
    (hg : ∀ t v, memoryWf t.ms.mem = true → effWf (go t v)) : effWf (withHeader s pas va go) := by
  unfold withHeader
  dsimp only
  split
  · exact eff_fetchFar hw hg
  split
  · trivial
  · exact hg _ _ hw

theorem eff_lookSlot {s : State} {d : Nat} {x : Word × List Nat} {go : State → Word → Option Word → Eff} (hw : memoryWf s.ms.mem = true)
    (hg : ∀ t v b, memoryWf t.ms.mem = true → effWf (go t v b)) : effWf (lookSlot s d x go) := by
  unfold lookSlot
  dsimp only
  split
  · exact eff_withHeader hw fun t v ht => hg _ _ _ ht
  repeat' split
  all_goals first
    | trivial
    | exact hw
    | exact hg _ _ _ hw
    | simp [effWf, hw]

theorem eff_slotHeaders {s : State} {d : Nat} {xs : List (Word × List Nat)} {bad : Option Word} {go : State → Option Word → Eff}
    (hw : memoryWf s.ms.mem = true) (hg : ∀ t b, memoryWf t.ms.mem = true → effWf (go t b)) : effWf (slotHeaders s d xs bad go) := by
  induction xs generalizing s bad with
  | nil => exact hg s _ hw
  | cons x r ih =>
    unfold slotHeaders
    refine eff_lookSlot hw fun t v b ht => ?_
    split
    · trivial
    · exact ih ht

theorem wf_gSlots (d : Nat) (l : List (Word × List Nat)) (a : State × List (List (Ex × BitVec 5)) × List Nat × List Nat) :
    (l.foldl (gSlot d) a).1.ms.mem = a.1.ms.mem := by
  induction l generalizing a with
  | nil => rfl
  | cons x t ih => rw [List.foldl_cons, ih, mem_gSlot]

@[simp] theorem eff_beliefEff (s : State) (gd : Reg) (d : Nat) (slots : List (Word × List Nat)) (t : TileAt) (prior : List (List Word))
    (todo : List (Word × List Nat)) (hw : memoryWf s.ms.mem = true) : effWf (beliefEff s gd d slots t prior todo) := by
  induction todo generalizing s with
  | nil =>
    unfold beliefEff
    simp (maxDischargeDepth := 9) [effWf, wf_gSlots, hw]
  | cons x r ih =>
    unfold beliefEff
    dsimp only
    repeat' split
    all_goals first
      | exact ih _ hw
      | exact hw
      | (simp [effWf, hw]; done)
      | exact ih _ (by simp [hw])

theorem eff_sendSlot {s : State} {gd : Reg} {j : SlotJob} (hw : memoryWf s.ms.mem = true) : effWf (sendSlot s gd j) := by
  unfold sendSlot
  dsimp only
  repeat' split
  all_goals simp (maxDischargeDepth := 9) [effWf, hw]

theorem eff_handlerTile {s : State} {da : Word} (hw : memoryWf s.ms.mem = true) : effWf (handlerTile s da) := by
  unfold handlerTile
  dsimp only
  repeat' split
  all_goals first | trivial | exact hw | simp [effWf, hw]

theorem eff_gTiles {s : State} {a b : GTile} {wr : Bool} {e : Eff} (h : gTiles s a b wr = .error e) (hw : memoryWf s.ms.mem = true) :
    effWf e := by
  unfold gTiles at h
  dsimp only at h
  repeat' split at h
  all_goals first
    | (cases h; done)
    | (cases h; trivial)
    | (cases h; exact hw)

theorem eff_slotWords {n k d : Nat} {s : State} {kind : AccKind} {va : Word} {e : Eff} (h : slotWords n k s kind va = .error e)
    (hw : memoryWf s.ms.mem = true) : effWf e := by
  induction n generalizing k with
  | zero => cases h
  | succ m ih =>
    unfold slotWords at h
    split at h
    · cases h
      trivial
    · cases h
      exact wf_checkAt ‹_› hw
    · split at h
      · cases h
        exact ih ‹_›
      · cases h

theorem eff_slotAt {s : State} {k : AccKind} {d : Nat} {va : Word} {e : Eff} (h : slotAt s k d va = .error e)
    (hw : memoryWf s.ms.mem = true) : effWf e := by
  unfold slotAt at h
  dsimp only at h
  split at h
  · cases h
    exact eff_slotWords (d := d) ‹_› hw
  · repeat' split at h
    all_goals first
      | (cases h; done)
      | (cases h; trivial)
      | (cases h; exact hw)

theorem eff_slotArray {s : State} {d n : Nat} {va : Word} {acc : List (Word × List Nat)} {e : Eff} (h : slotArray s d n va acc = .error e)
    (hw : memoryWf s.ms.mem = true) : effWf e := by
  induction n generalizing va acc with
  | zero => cases h
  | succ k ih =>
    unfold slotArray at h
    split at h
    · cases h
      exact eff_slotAt ‹_› hw
    · exact ih h

theorem eff_sidePages {pg : Bool} {m : Nat} {s : State} {k : AccKind} {va n : Nat} {acc : List (Nat × Acc × Nat)} {e : Eff}
    (h : sidePages pg m s k va n acc = .error e) (hw : memoryWf s.ms.mem = true) : effWf e := by
  induction m generalizing va n acc with
  | zero => cases h
  | succ m ih =>
    unfold sidePages at h
    dsimp only at h
    repeat' split at h
    all_goals first
      | (cases h; done)
      | (cases h; trivial)
      | (cases h; exact hw)
      | (cases h; simp [effWf, hw]; done)
      | exact ih h

theorem eff_sideRows {pg : Bool} {s : State} {k : AccKind} {rows : List (Nat × Nat)} {acc : List (Nat × Acc × Nat)} {e : Eff}
    (h : sideRows pg s k rows acc = .error e) (hw : memoryWf s.ms.mem = true) : effWf e := by
  induction rows generalizing acc with
  | nil => cases h
  | cons r t ih =>
    unfold sideRows at h
    split at h
    · cases h
      exact eff_sidePages ‹_› hw
    · exact ih h

theorem eff_postRows {n : Nat} {s : State} {b s1 s2 s3 e1 e2 rb k : Nat} {acc : List (Nat × Acc × Nat)} {e : Eff}
    (h : postRows n s b s1 s2 s3 e1 e2 rb k acc = .error e) (hw : memoryWf s.ms.mem = true) : effWf e := by
  induction n generalizing k acc with
  | zero => cases h
  | succ m ih =>
    unfold postRows at h
    dsimp only at h
    repeat' split at h
    all_goals first
      | (cases h; done)
      | (cases h; exact eff_sidePages ‹_› hw)
      | (cases h; trivial)
      | exact ih h

theorem eff_postDest {s : State} {r : Recv} {e : Eff} (h : postDest s r = .error e)
    (hw : memoryWf s.ms.mem = true) : effWf e := by
  unfold postDest at h
  dsimp only at h
  repeat' split at h
  all_goals first
    | (cases h; done)
    | (cases h; exact eff_postRows ‹_› hw)
    | (cases h; trivial)
    | (cases h; exact hw)

theorem eff_vecReady {s : State} {op : VOp} {e : Eff} (h : vecReady s op = .error e) (hw : memoryWf s.ms.mem = true) : effWf e := by
  unfold vecReady at h
  dsimp only at h
  repeat' split at h
  all_goals first
    | (cases h; done)
    | (cases h; trivial)
    | (cases h; exact hw)

@[simp] theorem wf_execStoreAck (r : Nat) (wt : BitVec 64) (cause : BitVec 6) (s : State) (hw : memoryWf s.ms.mem = true) : outWf (execStoreAck r wt cause s) := by
  simp (maxDischargeDepth := 9) [execStoreAck, hw]

@[simp] theorem wf_execLoadDataReturn (f : Nat) (p : Nat) (s : State) (hw : memoryWf s.ms.mem = true) : outWf (execLoadDataReturn f p s) := by
  simp (maxDischargeDepth := 9) [execLoadDataReturn, hw]

@[simp] theorem wf_execMigrationArrival (f : Nat) (s : State) (hw : memoryWf s.ms.mem = true) : outWf (execMigrationArrival f s) := by
  simp (maxDischargeDepth := 9) [execMigrationArrival, hw]

@[simp] theorem wf_execSendCompletionArrival (k : Nat) (s : State) (hw : memoryWf s.ms.mem = true) : outWf (execSendCompletionArrival k s) := by
  simp (maxDischargeDepth := 9) [execSendCompletionArrival, hw]

@[simp] theorem wf_execAmsgResponseArrival (k : Nat) (s : State) (hw : memoryWf s.ms.mem = true) : outWf (execAmsgResponseArrival k s) := by
  simp (maxDischargeDepth := 9) [execAmsgResponseArrival, hw]

@[simp] theorem wf_execMatrixStep (cl : Nat) (s : State) (hw : memoryWf s.ms.mem = true) : outWf (execMatrixStep cl s) := by
  simp (maxDischargeDepth := 9) [execMatrixStep, hw]

@[simp] theorem wf_execMatrixCommandComplete (cl : Nat) (s : State) (hw : memoryWf s.ms.mem = true) : outWf (execMatrixCommandComplete cl s) := by
  simp (maxDischargeDepth := 9) [execMatrixCommandComplete, hw]

@[simp] theorem wf_execMatrixLeaseGrant (cl : Nat) (s : State) (hw : memoryWf s.ms.mem = true) : outWf (execMatrixLeaseGrant cl s) := by
  simp (maxDischargeDepth := 9) [execMatrixLeaseGrant, hw]

@[simp] theorem wf_execActiveMessageArrival (k : Nat) (s : State) (hw : memoryWf s.ms.mem = true) : outWf (execActiveMessageArrival k s) := by
  simp (maxDischargeDepth := 9) [execActiveMessageArrival, hw]

@[simp] theorem wf_execBuiltinLoad (k : Nat) (s : State) (hw : memoryWf s.ms.mem = true) : outWf (execBuiltinLoad k s) := by
  simp (maxDischargeDepth := 9) [execBuiltinLoad, hw]

@[simp] theorem wf_execBuiltinStore (k : Nat) (s : State) (hw : memoryWf s.ms.mem = true) : outWf (execBuiltinStore k s) := by
  simp (maxDischargeDepth := 9) [execBuiltinStore, hw]

@[simp] theorem wf_execBuiltinLdf (k : Nat) (s : State) (hw : memoryWf s.ms.mem = true) : outWf (execBuiltinLdf k s) := by
  simp (maxDischargeDepth := 9) [execBuiltinLdf, hw]

@[simp] theorem wf_execBuiltinLdfe (k : Nat) (s : State) (hw : memoryWf s.ms.mem = true) : outWf (execBuiltinLdfe k s) := by
  simp (maxDischargeDepth := 9) [execBuiltinLdfe, hw]

@[simp] theorem wf_execBuiltinSte (k : Nat) (s : State) (hw : memoryWf s.ms.mem = true) : outWf (execBuiltinSte k s) := by
  simp (maxDischargeDepth := 9) [execBuiltinSte, hw]

@[simp] theorem wf_execBuiltinStf (k : Nat) (s : State) (hw : memoryWf s.ms.mem = true) : outWf (execBuiltinStf k s) := by
  simp (maxDischargeDepth := 9) [execBuiltinStf, hw]

@[simp] theorem wf_execRemoteAtomic (k : Nat) (s : State) (hw : memoryWf s.ms.mem = true) : outWf (execRemoteAtomic k s) := by
  simp (maxDischargeDepth := 9) [execRemoteAtomic, hw]

@[simp] theorem wf_execLeaseRefresh (k : Nat) (s : State) (hw : memoryWf s.ms.mem = true) : outWf (execLeaseRefresh k s) := by
  unfold execLeaseRefresh
  rw [outWf_next]
  (try dsimp only)
  repeat' split
  all_goals first | exact hw | simp (maxDischargeDepth := 9) [*]

@[simp] theorem wf_execEvictedReturnReceive (s : State) (hw : memoryWf s.ms.mem = true) : outWf (execEvictedReturnReceive s) := by
  simp (maxDischargeDepth := 9) [execEvictedReturnReceive, hw]

@[simp] theorem wf_execEagerSendArrival (k : Nat) (s : State) (hw : memoryWf s.ms.mem = true) : outWf (execEagerSendArrival k s) := by
  simp (maxDischargeDepth := 9) [execEagerSendArrival, hw]

@[simp] theorem wf_execRendezvousRequestArrival (k : Nat) (s : State) (hw : memoryWf s.ms.mem = true) : outWf (execRendezvousRequestArrival k s) := by
  simp (maxDischargeDepth := 9) [execRendezvousRequestArrival, hw]

@[simp] theorem wf_execKickNoticeArrival (k : Nat) (s : State) (hw : memoryWf s.ms.mem = true) : outWf (execKickNoticeArrival k s) := by
  simp (maxDischargeDepth := 9) [execKickNoticeArrival, hw]

@[simp] theorem wf_arriveAt (i : Sys2Proof.Instr) (grid : Bool) (y : Bool) (gd : Sys2Proof.Reg) (ga : Sys2Proof.Reg) (la : Bool) (comb : BitVec 2) (s : State) (hw : memoryWf s.ms.mem = true) : outWf (arriveAt i grid y gd ga la comb s) := by
  unfold arriveAt
  (try dsimp only)
  refine wf_issue _ _ _ hw ?_
  intro t v ht
  (try dsimp only)
  repeat' (first
    | trivial
    | assumption
    | (with_reducible refine eff_access (by assumption) ?_; intro _ _ _; (try dsimp only))
    | (with_reducible refine eff_readBlock (by first | assumption | (simp (maxDischargeDepth := 9) [*]; done)) ?_; intro _ _ _; (try dsimp only))
    | (with_reducible refine eff_accessStay (by assumption) ?_; intro _ _ _; (try dsimp only))
    | (with_reducible refine eff_cmdTile (by assumption) ?_; intro _; (try dsimp only))
    | (with_reducible refine eff_cmdVector ?_; intro _; (try dsimp only))
    | (with_reducible exact eff_handlerTile (by assumption))
    | (with_reducible refine eff_goTo ?_)
    | (with_reducible exact eff_doWait (by assumption))
    | (with_reducible exact eff_startLoop (by assumption))
    | (with_reducible exact eff_setMask (by assumption))
    | (with_reducible exact eff_hand (by assumption))
    | (with_reducible exact eff_openIndex (by assumption))
    | (exact eff_rewriteEntry (by simp (maxDischargeDepth := 9) [*]))
    | split)
  all_goals first
    | (simp (maxDischargeDepth := 9) [effWf, *]; done)
    | (simp (maxDischargeDepth := 9) [*]; done)
    | exact wf_chkIf ‹_› (by assumption)
    | exact wf_checkWord ‹_› (by assumption)
    | exact eff_gTiles ‹_› (by simp [*])
    | exact eff_slotAt ‹_› (by simp [*])
    | exact eff_slotArray ‹_› (by simp [*])
    | exact eff_sideRows ‹_› (by simp [*])
    | exact eff_postDest ‹_› (by simp [*])
    | exact eff_vecReady ‹_› (by simp [*])

@[simp] theorem wf_atomic (i : Sys2Proof.Instr) (op : Nat) (uns : Bool) (sz : Bool) (y : Bool) (gd : Sys2Proof.Reg) (reads : List (Sys2Proof.Reg × Bool)) (kb : Nat) (ke : Nat) (place : BitVec 2) (ord : BitVec 2) (scope : BitVec 4) (s : State) (hw : memoryWf s.ms.mem = true) : outWf (atomic i op uns sz y gd reads kb ke place ord scope s) := by
  unfold atomic
  (try dsimp only)
  refine wf_issue _ _ _ hw ?_
  intro t v ht
  (try dsimp only)
  repeat' (first
    | trivial
    | assumption
    | (with_reducible refine eff_access (by assumption) ?_; intro _ _ _; (try dsimp only))
    | (with_reducible refine eff_readBlock (by first | assumption | (simp (maxDischargeDepth := 9) [*]; done)) ?_; intro _ _ _; (try dsimp only))
    | (with_reducible refine eff_accessStay (by assumption) ?_; intro _ _ _; (try dsimp only))
    | (with_reducible refine eff_cmdTile (by assumption) ?_; intro _; (try dsimp only))
    | (with_reducible refine eff_cmdVector ?_; intro _; (try dsimp only))
    | (with_reducible exact eff_handlerTile (by assumption))
    | (with_reducible refine eff_goTo ?_)
    | (with_reducible exact eff_doWait (by assumption))
    | (with_reducible exact eff_startLoop (by assumption))
    | (with_reducible exact eff_setMask (by assumption))
    | (with_reducible exact eff_hand (by assumption))
    | (with_reducible exact eff_openIndex (by assumption))
    | (exact eff_rewriteEntry (by simp (maxDischargeDepth := 9) [*]))
    | split)
  all_goals first
    | (simp (maxDischargeDepth := 9) [effWf, *]; done)
    | (simp (maxDischargeDepth := 9) [*]; done)
    | exact wf_chkIf ‹_› (by assumption)
    | exact wf_checkWord ‹_› (by assumption)
    | exact eff_gTiles ‹_› (by simp [*])
    | exact eff_slotAt ‹_› (by simp [*])
    | exact eff_slotArray ‹_› (by simp [*])
    | exact eff_sideRows ‹_› (by simp [*])
    | exact eff_postDest ‹_› (by simp [*])
    | exact eff_vecReady ‹_› (by simp [*])

@[simp] theorem wf_branch (i : Sys2Proof.Instr) (y : Bool) (ga : Sys2Proof.Reg) (la : Bool) (gb : Sys2Proof.Reg) (lb : Bool) (off : BitVec 14) (cond : Sys2Proof.Word → Sys2Proof.Word → Bool) (s : State) (hw : memoryWf s.ms.mem = true) : outWf (branch i y ga la gb lb off cond s) := by
  unfold branch
  (try dsimp only)
  refine wf_issue _ _ _ hw ?_
  intro t v ht
  (try dsimp only)
  repeat' (first
    | trivial
    | assumption
    | (with_reducible refine eff_access (by assumption) ?_; intro _ _ _; (try dsimp only))
    | (with_reducible refine eff_readBlock (by first | assumption | (simp (maxDischargeDepth := 9) [*]; done)) ?_; intro _ _ _; (try dsimp only))
    | (with_reducible refine eff_accessStay (by assumption) ?_; intro _ _ _; (try dsimp only))
    | (with_reducible refine eff_cmdTile (by assumption) ?_; intro _; (try dsimp only))
    | (with_reducible refine eff_cmdVector ?_; intro _; (try dsimp only))
    | (with_reducible exact eff_handlerTile (by assumption))
    | (with_reducible refine eff_goTo ?_)
    | (with_reducible exact eff_doWait (by assumption))
    | (with_reducible exact eff_startLoop (by assumption))
    | (with_reducible exact eff_setMask (by assumption))
    | (with_reducible exact eff_hand (by assumption))
    | (with_reducible exact eff_openIndex (by assumption))
    | (exact eff_rewriteEntry (by simp (maxDischargeDepth := 9) [*]))
    | split)
  all_goals first
    | (simp (maxDischargeDepth := 9) [effWf, *]; done)
    | (simp (maxDischargeDepth := 9) [*]; done)
    | exact wf_chkIf ‹_› (by assumption)
    | exact wf_checkWord ‹_› (by assumption)
    | exact eff_gTiles ‹_› (by simp [*])
    | exact eff_slotAt ‹_› (by simp [*])
    | exact eff_slotArray ‹_› (by simp [*])
    | exact eff_sideRows ‹_› (by simp [*])
    | exact eff_postDest ‹_› (by simp [*])
    | exact eff_vecReady ‹_› (by simp [*])

@[simp] theorem wf_execRefusalRetry (r : Nat) (s : State) (hw : memoryWf s.ms.mem = true) : outWf (execRefusalRetry r s) := by
  simp (maxDischargeDepth := 9) [execRefusalRetry, hw]

@[simp] theorem wf_execAlignTimeout (f : Nat) (s : State) (hw : memoryWf s.ms.mem = true) : outWf (execAlignTimeout f s) := by
  simp (maxDischargeDepth := 9) [execAlignTimeout, hw]

@[simp] theorem wf_execPacketIngress (s : State) (hw : memoryWf s.ms.mem = true) : outWf (execPacketIngress s) := by
  simp (maxDischargeDepth := 9) [execPacketIngress, hw]

@[simp] theorem wf_execPacketForward (s : State) (hw : memoryWf s.ms.mem = true) : outWf (execPacketForward s) := by
  simp (maxDischargeDepth := 9) [execPacketForward, hw]

@[simp] theorem wf_execDetourTimeout (port : Nat) (s : State) (hw : memoryWf s.ms.mem = true) : outWf (execDetourTimeout port s) := by
  simp (maxDischargeDepth := 9) [execDetourTimeout, hw]

@[simp] theorem wf_execFlitTransmit (port : Nat) (s : State) (hw : memoryWf s.ms.mem = true) : outWf (execFlitTransmit port s) := by
  simp (maxDischargeDepth := 9) [execFlitTransmit, hw]

@[simp] theorem wf_execFeWaitServed (r : Nat) (s : State) (hw : memoryWf s.ms.mem = true) : outWf (execFeWaitServed r s) := by
  simp (maxDischargeDepth := 9) [execFeWaitServed, hw]

@[simp] theorem wf_execHomeRequest (r : Nat) (hint : BitVec 8) (s : State) (hw : memoryWf s.ms.mem = true) : outWf (execHomeRequest r hint s) := by
  simp (maxDischargeDepth := 9) [execHomeRequest, hw]

@[simp] theorem wf_execPageWalkComplete (w : Nat) (s : State) (hw : memoryWf s.ms.mem = true) : outWf (execPageWalkComplete w s) := by
  simp (maxDischargeDepth := 9) [execPageWalkComplete, hw]

@[simp] theorem wf_execCallatAnswer (f : Nat) (s : State) (hw : memoryWf s.ms.mem = true) : outWf (execCallatAnswer f s) := by
  simp (maxDischargeDepth := 9) [execCallatAnswer, hw]

@[simp] theorem wf_execVectorInstructionComplete (f : Nat) (s : State) (hw : memoryWf s.ms.mem = true) : outWf (execVectorInstructionComplete f s) := by
  simp (maxDischargeDepth := 9) [execVectorInstructionComplete, hw]

@[simp] theorem wf_execGmsgSlotWrite (f : Nat) (s : State) (hw : memoryWf s.ms.mem = true) : outWf (execGmsgSlotWrite f s) := by
  simp (maxDischargeDepth := 9) [execGmsgSlotWrite, hw]

@[simp] theorem wf_execCodebookReplace (f : Nat) (s : State) (hw : memoryWf s.ms.mem = true) : outWf (execCodebookReplace f s) := by
  simp (maxDischargeDepth := 9) [execCodebookReplace, hw]

@[simp] theorem wf_execTlbInvalidationDone (f : Nat) (s : State) (hw : memoryWf s.ms.mem = true) : outWf (execTlbInvalidationDone f s) := by
  simp (maxDischargeDepth := 9) [execTlbInvalidationDone, hw]

@[simp] theorem wf_execScopemaskPropagated (f : Nat) (s : State) (hw : memoryWf s.ms.mem = true) : outWf (execScopemaskPropagated f s) := by
  simp (maxDischargeDepth := 9) [execScopemaskPropagated, hw]

@[simp] theorem wf_execSwitchFreeDone (f : Nat) (s : State) (hw : memoryWf s.ms.mem = true) : outWf (execSwitchFreeDone f s) := by
  unfold execSwitchFreeDone
  rw [outWf_next]
  (try dsimp only)
  repeat' split
  all_goals first | exact hw | simp (maxDischargeDepth := 9) [*]

@[simp] theorem wf_execReceivePostEvent (f : Nat) (s : State) (hw : memoryWf s.ms.mem = true) : outWf (execReceivePostEvent f s) := by
  simp (maxDischargeDepth := 9) [execReceivePostEvent, hw]

@[simp] theorem wf_execReceiveCancelEvent (f : Nat) (s : State) (hw : memoryWf s.ms.mem = true) : outWf (execReceiveCancelEvent f s) := by
  simp (maxDischargeDepth := 9) [execReceiveCancelEvent, hw]

@[simp] theorem wf_execHandlerRewriteEnd (k : Nat) (s : State) (hw : memoryWf s.ms.mem = true) : outWf (execHandlerRewriteEnd k s) := by
  simp (maxDischargeDepth := 9) [execHandlerRewriteEnd, hw]

@[simp] theorem wf_execCopyCommandStart (core : Nat) (s : State) (hw : memoryWf s.ms.mem = true) : outWf (execCopyCommandStart core s) := by
  simp (maxDischargeDepth := 9) [execCopyCommandStart, hw]

@[simp] theorem wf_execCopyCommandComplete (core : Nat) (s : State) (hw : memoryWf s.ms.mem = true) : outWf (execCopyCommandComplete core s) := by
  simp (maxDischargeDepth := 9) [execCopyCommandComplete, hw]

@[simp] theorem wf_execKickTransferStart (core : Nat) (s : State) (hw : memoryWf s.ms.mem = true) : outWf (execKickTransferStart core s) := by
  simp (maxDischargeDepth := 9) [execKickTransferStart, hw]

@[simp] theorem wf_execKickTransferComplete (core : Nat) (s : State) (hw : memoryWf s.ms.mem = true) : outWf (execKickTransferComplete core s) := by
  simp (maxDischargeDepth := 9) [execKickTransferComplete, hw]

@[simp] theorem wf_execHandlerStart (core : Nat) (s : State) (hw : memoryWf s.ms.mem = true) : outWf (execHandlerStart core s) := by
  simp (maxDischargeDepth := 9) [execHandlerStart, hw]

@[simp] theorem wf_execTaskStart (core : Nat) (s : State) (hw : memoryWf s.ms.mem = true) : outWf (execTaskStart core s) := by
  simp (maxDischargeDepth := 9) [execTaskStart, hw]

@[simp] theorem wf_execTaskNodeRun (cl : Nat) (node : Nat) (s : State) (hw : memoryWf s.ms.mem = true) : outWf (execTaskNodeRun cl node s) := by
  simp (maxDischargeDepth := 9) [execTaskNodeRun, hw]

@[simp] theorem wf_execConditionalNodeRun (cl : Nat) (node : Nat) (s : State) (hw : memoryWf s.ms.mem = true) : outWf (execConditionalNodeRun cl node s) := by
  simp (maxDischargeDepth := 9) [execConditionalNodeRun, hw]

@[simp] theorem wf_execWhileNodeRun (cl : Nat) (node : Nat) (s : State) (hw : memoryWf s.ms.mem = true) : outWf (execWhileNodeRun cl node s) := by
  simp (maxDischargeDepth := 9) [execWhileNodeRun, hw]

@[simp] theorem wf_execJoinNodeRun (cl : Nat) (node : Nat) (s : State) (hw : memoryWf s.ms.mem = true) : outWf (execJoinNodeRun cl node s) := by
  simp (maxDischargeDepth := 9) [execJoinNodeRun, hw]

@[simp] theorem wf_execLatchNodeRun (cl : Nat) (node : Nat) (s : State) (hw : memoryWf s.ms.mem = true) : outWf (execLatchNodeRun cl node s) := by
  simp (maxDischargeDepth := 9) [execLatchNodeRun, hw]

@[simp] theorem wf_execWalkerNodeComplete (cl : Nat) (node : Nat) (s : State) (hw : memoryWf s.ms.mem = true) : outWf (execWalkerNodeComplete cl node s) := by
  simp (maxDischargeDepth := 9) [execWalkerNodeComplete, hw]

@[simp] theorem wf_execIndexLdnnAccept (c : Nat) (s : State) (hw : memoryWf s.ms.mem = true) : outWf (execIndexLdnnAccept c s) := by
  simp (maxDischargeDepth := 9) [execIndexLdnnAccept, hw]

@[simp] theorem wf_execIndexSearchComplete (c : Nat) (s : State) (hw : memoryWf s.ms.mem = true) : outWf (execIndexSearchComplete c s) := by
  simp (maxDischargeDepth := 9) [execIndexSearchComplete, hw]

@[simp] theorem wf_execIndexStvecPerform (c : Nat) (s : State) (hw : memoryWf s.ms.mem = true) : outWf (execIndexStvecPerform c s) := by
  simp (maxDischargeDepth := 9) [execIndexStvecPerform, hw]

@[simp] theorem wf_execVersionAreaFreed (c : Nat) (s : State) (hw : memoryWf s.ms.mem = true) : outWf (execVersionAreaFreed c s) := by
  simp (maxDischargeDepth := 9) [execVersionAreaFreed, hw]

@[simp] theorem wf_execIndexDlvecPerform (c : Nat) (s : State) (hw : memoryWf s.ms.mem = true) : outWf (execIndexDlvecPerform c s) := by
  simp (maxDischargeDepth := 9) [execIndexDlvecPerform, hw]

@[simp] theorem wf_execRendezvousPullComplete (c : Nat) (s : State) (hw : memoryWf s.ms.mem = true) : outWf (execRendezvousPullComplete c s) := by
  simp (maxDischargeDepth := 9) [execRendezvousPullComplete, hw]

@[simp] theorem wf_execDieBarrierReport (b : Nat) (die : Nat) (s : State) (hw : memoryWf s.ms.mem = true) : outWf (execDieBarrierReport b die s) := by
  simp (maxDischargeDepth := 9) [execDieBarrierReport, hw]

@[simp] theorem wf_execBarrierEpisodeComplete (b : Nat) (s : State) (hw : memoryWf s.ms.mem = true) : outWf (execBarrierEpisodeComplete b s) := by
  simp (maxDischargeDepth := 9) [execBarrierEpisodeComplete, hw]

@[simp] theorem wf_execClaimComplete (g : Nat) (s : State) (hw : memoryWf s.ms.mem = true) : outWf (execClaimComplete g s) := by
  simp (maxDischargeDepth := 9) [execClaimComplete, hw]

@[simp] theorem wf_execImageClose (g : Nat) (s : State) (hw : memoryWf s.ms.mem = true) : outWf (execImageClose g s) := by
  simp (maxDischargeDepth := 9) [execImageClose, hw]

@[simp] theorem wf_execLaunchCompletion (l : Nat) (s : State) (hw : memoryWf s.ms.mem = true) : outWf (execLaunchCompletion l s) := by
  simp (maxDischargeDepth := 9) [execLaunchCompletion, hw]

@[simp] theorem wf_execDistributorTurn (s : State) (hw : memoryWf s.ms.mem = true) : outWf (execDistributorTurn s) := by
  simp (maxDischargeDepth := 9) [execDistributorTurn, hw]

@[simp] theorem wf_execGatewayFibreStart (f : Nat) (s : State) (hw : memoryWf s.ms.mem = true) : outWf (execGatewayFibreStart f s) := by
  simp (maxDischargeDepth := 9) [execGatewayFibreStart, hw]

@[simp] theorem wf_execGatewayRoleTake (f : Nat) (s : State) (hw : memoryWf s.ms.mem = true) : outWf (execGatewayRoleTake f s) := by
  simp (maxDischargeDepth := 9) [execGatewayRoleTake, hw]

@[simp] theorem wf_shortRR (i : Sys2Proof.Instr) (y : Bool) (gd : Sys2Proof.Reg) (ga : Sys2Proof.Reg) (la : Bool) (gb : Sys2Proof.Reg) (lb : Bool) (g : Sys2Proof.Word → Sys2Proof.Word → Sys2Proof.Word) (s : State) (hw : memoryWf s.ms.mem = true) : outWf (shortRR i y gd ga la gb lb g s) := by
  unfold shortRR
  (try dsimp only)
  refine wf_issue _ _ _ hw ?_
  intro t v ht
  (try dsimp only)
  repeat' (first
    | trivial
    | assumption
    | (with_reducible refine eff_access (by assumption) ?_; intro _ _ _; (try dsimp only))
    | (with_reducible refine eff_readBlock (by first | assumption | (simp (maxDischargeDepth := 9) [*]; done)) ?_; intro _ _ _; (try dsimp only))
    | (with_reducible refine eff_accessStay (by assumption) ?_; intro _ _ _; (try dsimp only))
    | (with_reducible refine eff_cmdTile (by assumption) ?_; intro _; (try dsimp only))
    | (with_reducible refine eff_cmdVector ?_; intro _; (try dsimp only))
    | (with_reducible exact eff_handlerTile (by assumption))
    | (with_reducible refine eff_goTo ?_)
    | (with_reducible exact eff_doWait (by assumption))
    | (with_reducible exact eff_startLoop (by assumption))
    | (with_reducible exact eff_setMask (by assumption))
    | (with_reducible exact eff_hand (by assumption))
    | (with_reducible exact eff_openIndex (by assumption))
    | (exact eff_rewriteEntry (by simp (maxDischargeDepth := 9) [*]))
    | split)
  all_goals first
    | (simp (maxDischargeDepth := 9) [effWf, *]; done)
    | (simp (maxDischargeDepth := 9) [*]; done)
    | exact wf_chkIf ‹_› (by assumption)
    | exact wf_checkWord ‹_› (by assumption)
    | exact eff_gTiles ‹_› (by simp [*])
    | exact eff_slotAt ‹_› (by simp [*])
    | exact eff_slotArray ‹_› (by simp [*])
    | exact eff_sideRows ‹_› (by simp [*])
    | exact eff_postDest ‹_› (by simp [*])
    | exact eff_vecReady ‹_› (by simp [*])

@[simp] theorem wf_execAdd (y : Bool) (gd : BitVec 4) (ga : BitVec 4) (la : Bool) (gb : BitVec 4) (lb : Bool) (sat : Bool) (uns : Bool) (s : State) (hw : memoryWf s.ms.mem = true) : outWf (execAdd y gd ga la gb lb sat uns s) := by
  simp (maxDischargeDepth := 9) [execAdd, hw]

@[simp] theorem wf_execSub (y : Bool) (gd : BitVec 4) (ga : BitVec 4) (la : Bool) (gb : BitVec 4) (lb : Bool) (sat : Bool) (uns : Bool) (s : State) (hw : memoryWf s.ms.mem = true) : outWf (execSub y gd ga la gb lb sat uns s) := by
  simp (maxDischargeDepth := 9) [execSub, hw]

@[simp] theorem wf_execAnd (y : Bool) (gd : BitVec 4) (ga : BitVec 4) (la : Bool) (gb : BitVec 4) (lb : Bool) (s : State) (hw : memoryWf s.ms.mem = true) : outWf (execAnd y gd ga la gb lb s) := by
  simp (maxDischargeDepth := 9) [execAnd, hw]

@[simp] theorem wf_execOr (y : Bool) (gd : BitVec 4) (ga : BitVec 4) (la : Bool) (gb : BitVec 4) (lb : Bool) (s : State) (hw : memoryWf s.ms.mem = true) : outWf (execOr y gd ga la gb lb s) := by
  simp (maxDischargeDepth := 9) [execOr, hw]

@[simp] theorem wf_execXor (y : Bool) (gd : BitVec 4) (ga : BitVec 4) (la : Bool) (gb : BitVec 4) (lb : Bool) (s : State) (hw : memoryWf s.ms.mem = true) : outWf (execXor y gd ga la gb lb s) := by
  simp (maxDischargeDepth := 9) [execXor, hw]

@[simp] theorem wf_execAndn (y : Bool) (gd : BitVec 4) (ga : BitVec 4) (la : Bool) (gb : BitVec 4) (lb : Bool) (s : State) (hw : memoryWf s.ms.mem = true) : outWf (execAndn y gd ga la gb lb s) := by
  simp (maxDischargeDepth := 9) [execAndn, hw]

@[simp] theorem wf_execShl (y : Bool) (gd : BitVec 4) (ga : BitVec 4) (la : Bool) (gb : BitVec 4) (lb : Bool) (s : State) (hw : memoryWf s.ms.mem = true) : outWf (execShl y gd ga la gb lb s) := by
  simp (maxDischargeDepth := 9) [execShl, hw]

@[simp] theorem wf_execShr (y : Bool) (gd : BitVec 4) (ga : BitVec 4) (la : Bool) (gb : BitVec 4) (lb : Bool) (s : State) (hw : memoryWf s.ms.mem = true) : outWf (execShr y gd ga la gb lb s) := by
  simp (maxDischargeDepth := 9) [execShr, hw]

@[simp] theorem wf_execSar (y : Bool) (gd : BitVec 4) (ga : BitVec 4) (la : Bool) (gb : BitVec 4) (lb : Bool) (s : State) (hw : memoryWf s.ms.mem = true) : outWf (execSar y gd ga la gb lb s) := by
  simp (maxDischargeDepth := 9) [execSar, hw]

@[simp] theorem wf_execRor (y : Bool) (gd : BitVec 4) (ga : BitVec 4) (la : Bool) (gb : BitVec 4) (lb : Bool) (s : State) (hw : memoryWf s.ms.mem = true) : outWf (execRor y gd ga la gb lb s) := by
  simp (maxDischargeDepth := 9) [execRor, hw]

@[simp] theorem wf_execMin (y : Bool) (gd : BitVec 4) (ga : BitVec 4) (la : Bool) (gb : BitVec 4) (lb : Bool) (uns : Bool) (s : State) (hw : memoryWf s.ms.mem = true) : outWf (execMin y gd ga la gb lb uns s) := by
  simp (maxDischargeDepth := 9) [execMin, hw]

@[simp] theorem wf_execMax (y : Bool) (gd : BitVec 4) (ga : BitVec 4) (la : Bool) (gb : BitVec 4) (lb : Bool) (uns : Bool) (s : State) (hw : memoryWf s.ms.mem = true) : outWf (execMax y gd ga la gb lb uns s) := by
  simp (maxDischargeDepth := 9) [execMax, hw]

@[simp] theorem wf_execCmpeq (y : Bool) (gd : BitVec 4) (ga : BitVec 4) (la : Bool) (gb : BitVec 4) (lb : Bool) (s : State) (hw : memoryWf s.ms.mem = true) : outWf (execCmpeq y gd ga la gb lb s) := by
  simp (maxDischargeDepth := 9) [execCmpeq, hw]

@[simp] theorem wf_execCmpne (y : Bool) (gd : BitVec 4) (ga : BitVec 4) (la : Bool) (gb : BitVec 4) (lb : Bool) (s : State) (hw : memoryWf s.ms.mem = true) : outWf (execCmpne y gd ga la gb lb s) := by
  simp (maxDischargeDepth := 9) [execCmpne, hw]

@[simp] theorem wf_execCmplt (y : Bool) (gd : BitVec 4) (ga : BitVec 4) (la : Bool) (gb : BitVec 4) (lb : Bool) (uns : Bool) (s : State) (hw : memoryWf s.ms.mem = true) : outWf (execCmplt y gd ga la gb lb uns s) := by
  simp (maxDischargeDepth := 9) [execCmplt, hw]

@[simp] theorem wf_execCmple (y : Bool) (gd : BitVec 4) (ga : BitVec 4) (la : Bool) (gb : BitVec 4) (lb : Bool) (uns : Bool) (s : State) (hw : memoryWf s.ms.mem = true) : outWf (execCmple y gd ga la gb lb uns s) := by
  simp (maxDischargeDepth := 9) [execCmple, hw]

@[simp] theorem wf_shortR (i : Sys2Proof.Instr) (y : Bool) (gd : Sys2Proof.Reg) (ga : Sys2Proof.Reg) (la : Bool) (g : Sys2Proof.Word → Sys2Proof.Word) (s : State) (hw : memoryWf s.ms.mem = true) : outWf (shortR i y gd ga la g s) := by
  unfold shortR
  (try dsimp only)
  refine wf_issue _ _ _ hw ?_
  intro t v ht
  (try dsimp only)
  repeat' (first
    | trivial
    | assumption
    | (with_reducible refine eff_access (by assumption) ?_; intro _ _ _; (try dsimp only))
    | (with_reducible refine eff_readBlock (by first | assumption | (simp (maxDischargeDepth := 9) [*]; done)) ?_; intro _ _ _; (try dsimp only))
    | (with_reducible refine eff_accessStay (by assumption) ?_; intro _ _ _; (try dsimp only))
    | (with_reducible refine eff_cmdTile (by assumption) ?_; intro _; (try dsimp only))
    | (with_reducible refine eff_cmdVector ?_; intro _; (try dsimp only))
    | (with_reducible exact eff_handlerTile (by assumption))
    | (with_reducible refine eff_goTo ?_)
    | (with_reducible exact eff_doWait (by assumption))
    | (with_reducible exact eff_startLoop (by assumption))
    | (with_reducible exact eff_setMask (by assumption))
    | (with_reducible exact eff_hand (by assumption))
    | (with_reducible exact eff_openIndex (by assumption))
    | (exact eff_rewriteEntry (by simp (maxDischargeDepth := 9) [*]))
    | split)
  all_goals first
    | (simp (maxDischargeDepth := 9) [effWf, *]; done)
    | (simp (maxDischargeDepth := 9) [*]; done)
    | exact wf_chkIf ‹_› (by assumption)
    | exact wf_checkWord ‹_› (by assumption)
    | exact eff_gTiles ‹_› (by simp [*])
    | exact eff_slotAt ‹_› (by simp [*])
    | exact eff_slotArray ‹_› (by simp [*])
    | exact eff_sideRows ‹_› (by simp [*])
    | exact eff_postDest ‹_› (by simp [*])
    | exact eff_vecReady ‹_› (by simp [*])

@[simp] theorem wf_execClz (y : Bool) (gd : BitVec 4) (ga : BitVec 4) (la : Bool) (s : State) (hw : memoryWf s.ms.mem = true) : outWf (execClz y gd ga la s) := by
  simp (maxDischargeDepth := 9) [execClz, hw]

@[simp] theorem wf_execPopc (y : Bool) (gd : BitVec 4) (ga : BitVec 4) (la : Bool) (s : State) (hw : memoryWf s.ms.mem = true) : outWf (execPopc y gd ga la s) := by
  simp (maxDischargeDepth := 9) [execPopc, hw]

@[simp] theorem wf_execSextb (y : Bool) (gd : BitVec 4) (ga : BitVec 4) (la : Bool) (s : State) (hw : memoryWf s.ms.mem = true) : outWf (execSextb y gd ga la s) := by
  simp (maxDischargeDepth := 9) [execSextb, hw]

@[simp] theorem wf_execSexth (y : Bool) (gd : BitVec 4) (ga : BitVec 4) (la : Bool) (s : State) (hw : memoryWf s.ms.mem = true) : outWf (execSexth y gd ga la s) := by
  simp (maxDischargeDepth := 9) [execSexth, hw]

@[simp] theorem wf_execSextw (y : Bool) (gd : BitVec 4) (ga : BitVec 4) (la : Bool) (s : State) (hw : memoryWf s.ms.mem = true) : outWf (execSextw y gd ga la s) := by
  simp (maxDischargeDepth := 9) [execSextw, hw]

@[simp] theorem wf_execZextb (y : Bool) (gd : BitVec 4) (ga : BitVec 4) (la : Bool) (s : State) (hw : memoryWf s.ms.mem = true) : outWf (execZextb y gd ga la s) := by
  simp (maxDischargeDepth := 9) [execZextb, hw]

@[simp] theorem wf_execZexth (y : Bool) (gd : BitVec 4) (ga : BitVec 4) (la : Bool) (s : State) (hw : memoryWf s.ms.mem = true) : outWf (execZexth y gd ga la s) := by
  simp (maxDischargeDepth := 9) [execZexth, hw]

@[simp] theorem wf_execZextw (y : Bool) (gd : BitVec 4) (ga : BitVec 4) (la : Bool) (s : State) (hw : memoryWf s.ms.mem = true) : outWf (execZextw y gd ga la s) := by
  simp (maxDischargeDepth := 9) [execZextw, hw]

@[simp] theorem wf_execSel (y : Bool) (gd : BitVec 4) (ga : BitVec 4) (la : Bool) (gb : BitVec 4) (lb : Bool) (s : State) (hw : memoryWf s.ms.mem = true) : outWf (execSel y gd ga la gb lb s) := by
  unfold execSel
  (try dsimp only)
  refine wf_issue _ _ _ hw ?_
  intro t v ht
  (try dsimp only)
  repeat' (first
    | trivial
    | assumption
    | (with_reducible refine eff_access (by assumption) ?_; intro _ _ _; (try dsimp only))
    | (with_reducible refine eff_readBlock (by first | assumption | (simp (maxDischargeDepth := 9) [*]; done)) ?_; intro _ _ _; (try dsimp only))
    | (with_reducible refine eff_accessStay (by assumption) ?_; intro _ _ _; (try dsimp only))
    | (with_reducible refine eff_cmdTile (by assumption) ?_; intro _; (try dsimp only))
    | (with_reducible refine eff_cmdVector ?_; intro _; (try dsimp only))
    | (with_reducible exact eff_handlerTile (by assumption))
    | (with_reducible refine eff_goTo ?_)
    | (with_reducible exact eff_doWait (by assumption))
    | (with_reducible exact eff_startLoop (by assumption))
    | (with_reducible exact eff_setMask (by assumption))
    | (with_reducible exact eff_hand (by assumption))
    | (with_reducible exact eff_openIndex (by assumption))
    | (exact eff_rewriteEntry (by simp (maxDischargeDepth := 9) [*]))
    | split)
  all_goals first
    | (simp (maxDischargeDepth := 9) [effWf, *]; done)
    | (simp (maxDischargeDepth := 9) [*]; done)
    | exact wf_chkIf ‹_› (by assumption)
    | exact wf_checkWord ‹_› (by assumption)
    | exact eff_gTiles ‹_› (by simp [*])
    | exact eff_slotAt ‹_› (by simp [*])
    | exact eff_slotArray ‹_› (by simp [*])
    | exact eff_sideRows ‹_› (by simp [*])
    | exact eff_postDest ‹_› (by simp [*])
    | exact eff_vecReady ‹_› (by simp [*])

@[simp] theorem wf_longRR (i : Sys2Proof.Instr) (y : Bool) (gd : Sys2Proof.Reg) (ga : Sys2Proof.Reg) (la : Bool) (gb : Sys2Proof.Reg) (lb : Bool) (g : Sys2Proof.Word → Sys2Proof.Word → Sys2Proof.Word) (s : State) (hw : memoryWf s.ms.mem = true) : outWf (longRR i y gd ga la gb lb g s) := by
  unfold longRR
  (try dsimp only)
  refine wf_issue _ _ _ hw ?_
  intro t v ht
  (try dsimp only)
  repeat' (first
    | trivial
    | assumption
    | (with_reducible refine eff_access (by assumption) ?_; intro _ _ _; (try dsimp only))
    | (with_reducible refine eff_readBlock (by first | assumption | (simp (maxDischargeDepth := 9) [*]; done)) ?_; intro _ _ _; (try dsimp only))
    | (with_reducible refine eff_accessStay (by assumption) ?_; intro _ _ _; (try dsimp only))
    | (with_reducible refine eff_cmdTile (by assumption) ?_; intro _; (try dsimp only))
    | (with_reducible refine eff_cmdVector ?_; intro _; (try dsimp only))
    | (with_reducible exact eff_handlerTile (by assumption))
    | (with_reducible refine eff_goTo ?_)
    | (with_reducible exact eff_doWait (by assumption))
    | (with_reducible exact eff_startLoop (by assumption))
    | (with_reducible exact eff_setMask (by assumption))
    | (with_reducible exact eff_hand (by assumption))
    | (with_reducible exact eff_openIndex (by assumption))
    | (exact eff_rewriteEntry (by simp (maxDischargeDepth := 9) [*]))
    | split)
  all_goals first
    | (simp (maxDischargeDepth := 9) [effWf, *]; done)
    | (simp (maxDischargeDepth := 9) [*]; done)
    | exact wf_chkIf ‹_› (by assumption)
    | exact wf_checkWord ‹_› (by assumption)
    | exact eff_gTiles ‹_› (by simp [*])
    | exact eff_slotAt ‹_› (by simp [*])
    | exact eff_slotArray ‹_› (by simp [*])
    | exact eff_sideRows ‹_› (by simp [*])
    | exact eff_postDest ‹_› (by simp [*])
    | exact eff_vecReady ‹_› (by simp [*])

@[simp] theorem wf_execMul (y : Bool) (gd : BitVec 4) (ga : BitVec 4) (la : Bool) (gb : BitVec 4) (lb : Bool) (s : State) (hw : memoryWf s.ms.mem = true) : outWf (execMul y gd ga la gb lb s) := by
  simp (maxDischargeDepth := 9) [execMul, hw]

@[simp] theorem wf_execMulh (y : Bool) (gd : BitVec 4) (ga : BitVec 4) (la : Bool) (gb : BitVec 4) (lb : Bool) (uns : Bool) (s : State) (hw : memoryWf s.ms.mem = true) : outWf (execMulh y gd ga la gb lb uns s) := by
  simp (maxDischargeDepth := 9) [execMulh, hw]

@[simp] theorem wf_execDiv (y : Bool) (gd : BitVec 4) (ga : BitVec 4) (la : Bool) (gb : BitVec 4) (lb : Bool) (uns : Bool) (s : State) (hw : memoryWf s.ms.mem = true) : outWf (execDiv y gd ga la gb lb uns s) := by
  simp (maxDischargeDepth := 9) [execDiv, hw]

@[simp] theorem wf_execRem (y : Bool) (gd : BitVec 4) (ga : BitVec 4) (la : Bool) (gb : BitVec 4) (lb : Bool) (uns : Bool) (s : State) (hw : memoryWf s.ms.mem = true) : outWf (execRem y gd ga la gb lb uns s) := by
  simp (maxDischargeDepth := 9) [execRem, hw]

@[simp] theorem wf_execHmix (y : Bool) (gd : BitVec 4) (ga : BitVec 4) (la : Bool) (gb : BitVec 4) (lb : Bool) (s : State) (hw : memoryWf s.ms.mem = true) : outWf (execHmix y gd ga la gb lb s) := by
  simp (maxDischargeDepth := 9) [execHmix, hw]

@[simp] theorem wf_execAddi (y : Bool) (gd : BitVec 4) (ga : BitVec 4) (la : Bool) (imm : BitVec 15) (s : State) (hw : memoryWf s.ms.mem = true) : outWf (execAddi y gd ga la imm s) := by
  simp (maxDischargeDepth := 9) [execAddi, hw]

@[simp] theorem wf_execAndi (y : Bool) (gd : BitVec 4) (ga : BitVec 4) (la : Bool) (imm : BitVec 15) (s : State) (hw : memoryWf s.ms.mem = true) : outWf (execAndi y gd ga la imm s) := by
  simp (maxDischargeDepth := 9) [execAndi, hw]

@[simp] theorem wf_execOri (y : Bool) (gd : BitVec 4) (ga : BitVec 4) (la : Bool) (imm : BitVec 15) (s : State) (hw : memoryWf s.ms.mem = true) : outWf (execOri y gd ga la imm s) := by
  simp (maxDischargeDepth := 9) [execOri, hw]

@[simp] theorem wf_execXori (y : Bool) (gd : BitVec 4) (ga : BitVec 4) (la : Bool) (imm : BitVec 15) (s : State) (hw : memoryWf s.ms.mem = true) : outWf (execXori y gd ga la imm s) := by
  simp (maxDischargeDepth := 9) [execXori, hw]

@[simp] theorem wf_execShli (y : Bool) (gd : BitVec 4) (ga : BitVec 4) (la : Bool) (n : BitVec 6) (s : State) (hw : memoryWf s.ms.mem = true) : outWf (execShli y gd ga la n s) := by
  simp (maxDischargeDepth := 9) [execShli, hw]

@[simp] theorem wf_execShri (y : Bool) (gd : BitVec 4) (ga : BitVec 4) (la : Bool) (n : BitVec 6) (s : State) (hw : memoryWf s.ms.mem = true) : outWf (execShri y gd ga la n s) := by
  simp (maxDischargeDepth := 9) [execShri, hw]

@[simp] theorem wf_execSari (y : Bool) (gd : BitVec 4) (ga : BitVec 4) (la : Bool) (n : BitVec 6) (s : State) (hw : memoryWf s.ms.mem = true) : outWf (execSari y gd ga la n s) := by
  simp (maxDischargeDepth := 9) [execSari, hw]

@[simp] theorem wf_execRori (y : Bool) (gd : BitVec 4) (ga : BitVec 4) (la : Bool) (n : BitVec 6) (s : State) (hw : memoryWf s.ms.mem = true) : outWf (execRori y gd ga la n s) := by
  simp (maxDischargeDepth := 9) [execRori, hw]

@[simp] theorem wf_execCmpeqi (y : Bool) (gd : BitVec 4) (ga : BitVec 4) (la : Bool) (imm : BitVec 15) (s : State) (hw : memoryWf s.ms.mem = true) : outWf (execCmpeqi y gd ga la imm s) := by
  simp (maxDischargeDepth := 9) [execCmpeqi, hw]

@[simp] theorem wf_execCmplti (y : Bool) (gd : BitVec 4) (ga : BitVec 4) (la : Bool) (imm : BitVec 15) (s : State) (hw : memoryWf s.ms.mem = true) : outWf (execCmplti y gd ga la imm s) := by
  simp (maxDischargeDepth := 9) [execCmplti, hw]

@[simp] theorem wf_execCmpltiUns (y : Bool) (gd : BitVec 4) (ga : BitVec 4) (la : Bool) (imm : BitVec 15) (s : State) (hw : memoryWf s.ms.mem = true) : outWf (execCmpltiUns y gd ga la imm s) := by
  simp (maxDischargeDepth := 9) [execCmpltiUns, hw]

@[simp] theorem wf_execExtr (y : Bool) (gd : BitVec 4) (ga : BitVec 4) (la : Bool) (pos : BitVec 6) (len : BitVec 6) (s : State) (hw : memoryWf s.ms.mem = true) : outWf (execExtr y gd ga la pos len s) := by
  simp (maxDischargeDepth := 9) [execExtr, hw]

@[simp] theorem wf_execInsr (y : Bool) (gd : BitVec 4) (ga : BitVec 4) (la : Bool) (pos : BitVec 6) (len : BitVec 6) (s : State) (hw : memoryWf s.ms.mem = true) : outWf (execInsr y gd ga la pos len s) := by
  unfold execInsr
  (try dsimp only)
  refine wf_issue _ _ _ hw ?_
  intro t v ht
  (try dsimp only)
  repeat' (first
    | trivial
    | assumption
    | (with_reducible refine eff_access (by assumption) ?_; intro _ _ _; (try dsimp only))
    | (with_reducible refine eff_readBlock (by first | assumption | (simp (maxDischargeDepth := 9) [*]; done)) ?_; intro _ _ _; (try dsimp only))
    | (with_reducible refine eff_accessStay (by assumption) ?_; intro _ _ _; (try dsimp only))
    | (with_reducible refine eff_cmdTile (by assumption) ?_; intro _; (try dsimp only))
    | (with_reducible refine eff_cmdVector ?_; intro _; (try dsimp only))
    | (with_reducible exact eff_handlerTile (by assumption))
    | (with_reducible refine eff_goTo ?_)
    | (with_reducible exact eff_doWait (by assumption))
    | (with_reducible exact eff_startLoop (by assumption))
    | (with_reducible exact eff_setMask (by assumption))
    | (with_reducible exact eff_hand (by assumption))
    | (with_reducible exact eff_openIndex (by assumption))
    | (exact eff_rewriteEntry (by simp (maxDischargeDepth := 9) [*]))
    | split)
  all_goals first
    | (simp (maxDischargeDepth := 9) [effWf, *]; done)
    | (simp (maxDischargeDepth := 9) [*]; done)
    | exact wf_chkIf ‹_› (by assumption)
    | exact wf_checkWord ‹_› (by assumption)
    | exact eff_gTiles ‹_› (by simp [*])
    | exact eff_slotAt ‹_› (by simp [*])
    | exact eff_slotArray ‹_› (by simp [*])
    | exact eff_sideRows ‹_› (by simp [*])
    | exact eff_postDest ‹_› (by simp [*])
    | exact eff_vecReady ‹_› (by simp [*])

@[simp] theorem wf_execLui (y : Bool) (gd : BitVec 4) (imm : BitVec 20) (s : State) (hw : memoryWf s.ms.mem = true) : outWf (execLui y gd imm s) := by
  unfold execLui
  (try dsimp only)
  refine wf_issue _ _ _ hw ?_
  intro t v ht
  (try dsimp only)
  repeat' (first
    | trivial
    | assumption
    | (with_reducible refine eff_access (by assumption) ?_; intro _ _ _; (try dsimp only))
    | (with_reducible refine eff_readBlock (by first | assumption | (simp (maxDischargeDepth := 9) [*]; done)) ?_; intro _ _ _; (try dsimp only))
    | (with_reducible refine eff_accessStay (by assumption) ?_; intro _ _ _; (try dsimp only))
    | (with_reducible refine eff_cmdTile (by assumption) ?_; intro _; (try dsimp only))
    | (with_reducible refine eff_cmdVector ?_; intro _; (try dsimp only))
    | (with_reducible exact eff_handlerTile (by assumption))
    | (with_reducible refine eff_goTo ?_)
    | (with_reducible exact eff_doWait (by assumption))
    | (with_reducible exact eff_startLoop (by assumption))
    | (with_reducible exact eff_setMask (by assumption))
    | (with_reducible exact eff_hand (by assumption))
    | (with_reducible exact eff_openIndex (by assumption))
    | (exact eff_rewriteEntry (by simp (maxDischargeDepth := 9) [*]))
    | split)
  all_goals first
    | (simp (maxDischargeDepth := 9) [effWf, *]; done)
    | (simp (maxDischargeDepth := 9) [*]; done)
    | exact wf_chkIf ‹_› (by assumption)
    | exact wf_checkWord ‹_› (by assumption)
    | exact eff_gTiles ‹_› (by simp [*])
    | exact eff_slotAt ‹_› (by simp [*])
    | exact eff_slotArray ‹_› (by simp [*])
    | exact eff_sideRows ‹_› (by simp [*])
    | exact eff_postDest ‹_› (by simp [*])
    | exact eff_vecReady ‹_› (by simp [*])

@[simp] theorem wf_floatRR (i : Sys2Proof.Instr) (y : Bool) (gd : Sys2Proof.Reg) (ga : Sys2Proof.Reg) (la : Bool) (gb : Sys2Proof.Reg) (lb : Bool) (p : Bool) (g : Ex → Ex → Sys2Proof.Word × BitVec 5) (s : State) (hw : memoryWf s.ms.mem = true) : outWf (floatRR i y gd ga la gb lb p g s) := by
  unfold floatRR
  (try dsimp only)
  refine wf_issue _ _ _ hw ?_
  intro t v ht
  (try dsimp only)
  repeat' (first
    | trivial
    | assumption
    | (with_reducible refine eff_access (by assumption) ?_; intro _ _ _; (try dsimp only))
    | (with_reducible refine eff_readBlock (by first | assumption | (simp (maxDischargeDepth := 9) [*]; done)) ?_; intro _ _ _; (try dsimp only))
    | (with_reducible refine eff_accessStay (by assumption) ?_; intro _ _ _; (try dsimp only))
    | (with_reducible refine eff_cmdTile (by assumption) ?_; intro _; (try dsimp only))
    | (with_reducible refine eff_cmdVector ?_; intro _; (try dsimp only))
    | (with_reducible exact eff_handlerTile (by assumption))
    | (with_reducible refine eff_goTo ?_)
    | (with_reducible exact eff_doWait (by assumption))
    | (with_reducible exact eff_startLoop (by assumption))
    | (with_reducible exact eff_setMask (by assumption))
    | (with_reducible exact eff_hand (by assumption))
    | (with_reducible exact eff_openIndex (by assumption))
    | (exact eff_rewriteEntry (by simp (maxDischargeDepth := 9) [*]))
    | split)
  all_goals first
    | (simp (maxDischargeDepth := 9) [effWf, *]; done)
    | (simp (maxDischargeDepth := 9) [*]; done)
    | exact wf_chkIf ‹_› (by assumption)
    | exact wf_checkWord ‹_› (by assumption)
    | exact eff_gTiles ‹_› (by simp [*])
    | exact eff_slotAt ‹_› (by simp [*])
    | exact eff_slotArray ‹_› (by simp [*])
    | exact eff_sideRows ‹_› (by simp [*])
    | exact eff_postDest ‹_› (by simp [*])
    | exact eff_vecReady ‹_› (by simp [*])

@[simp] theorem wf_execFadd (y : Bool) (gd : BitVec 4) (ga : BitVec 4) (la : Bool) (gb : BitVec 4) (lb : Bool) (p : Bool) (s : State) (hw : memoryWf s.ms.mem = true) : outWf (execFadd y gd ga la gb lb p s) := by
  simp (maxDischargeDepth := 9) [execFadd, hw]

@[simp] theorem wf_execFsub (y : Bool) (gd : BitVec 4) (ga : BitVec 4) (la : Bool) (gb : BitVec 4) (lb : Bool) (p : Bool) (s : State) (hw : memoryWf s.ms.mem = true) : outWf (execFsub y gd ga la gb lb p s) := by
  simp (maxDischargeDepth := 9) [execFsub, hw]

@[simp] theorem wf_execFmul (y : Bool) (gd : BitVec 4) (ga : BitVec 4) (la : Bool) (gb : BitVec 4) (lb : Bool) (p : Bool) (s : State) (hw : memoryWf s.ms.mem = true) : outWf (execFmul y gd ga la gb lb p s) := by
  simp (maxDischargeDepth := 9) [execFmul, hw]

@[simp] theorem wf_execFdiv (y : Bool) (gd : BitVec 4) (ga : BitVec 4) (la : Bool) (gb : BitVec 4) (lb : Bool) (p : Bool) (s : State) (hw : memoryWf s.ms.mem = true) : outWf (execFdiv y gd ga la gb lb p s) := by
  simp (maxDischargeDepth := 9) [execFdiv, hw]

@[simp] theorem wf_execFsqrt (y : Bool) (gd : BitVec 4) (ga : BitVec 4) (la : Bool) (p : Bool) (s : State) (hw : memoryWf s.ms.mem = true) : outWf (execFsqrt y gd ga la p s) := by
  unfold execFsqrt
  (try dsimp only)
  refine wf_issue _ _ _ hw ?_
  intro t v ht
  (try dsimp only)
  repeat' (first
    | trivial
    | assumption
    | (with_reducible refine eff_access (by assumption) ?_; intro _ _ _; (try dsimp only))
    | (with_reducible refine eff_readBlock (by first | assumption | (simp (maxDischargeDepth := 9) [*]; done)) ?_; intro _ _ _; (try dsimp only))
    | (with_reducible refine eff_accessStay (by assumption) ?_; intro _ _ _; (try dsimp only))
    | (with_reducible refine eff_cmdTile (by assumption) ?_; intro _; (try dsimp only))
    | (with_reducible refine eff_cmdVector ?_; intro _; (try dsimp only))
    | (with_reducible exact eff_handlerTile (by assumption))
    | (with_reducible refine eff_goTo ?_)
    | (with_reducible exact eff_doWait (by assumption))
    | (with_reducible exact eff_startLoop (by assumption))
    | (with_reducible exact eff_setMask (by assumption))
    | (with_reducible exact eff_hand (by assumption))
    | (with_reducible exact eff_openIndex (by assumption))
    | (exact eff_rewriteEntry (by simp (maxDischargeDepth := 9) [*]))
    | split)
  all_goals first
    | (simp (maxDischargeDepth := 9) [effWf, *]; done)
    | (simp (maxDischargeDepth := 9) [*]; done)
    | exact wf_chkIf ‹_› (by assumption)
    | exact wf_checkWord ‹_› (by assumption)
    | exact eff_gTiles ‹_› (by simp [*])
    | exact eff_slotAt ‹_› (by simp [*])
    | exact eff_slotArray ‹_› (by simp [*])
    | exact eff_sideRows ‹_› (by simp [*])
    | exact eff_postDest ‹_› (by simp [*])
    | exact eff_vecReady ‹_› (by simp [*])

@[simp] theorem wf_execFma (y : Bool) (gd : BitVec 4) (ga : BitVec 4) (la : Bool) (gb : BitVec 4) (lb : Bool) (p : Bool) (s : State) (hw : memoryWf s.ms.mem = true) : outWf (execFma y gd ga la gb lb p s) := by
  unfold execFma
  (try dsimp only)
  refine wf_issue _ _ _ hw ?_
  intro t v ht
  (try dsimp only)
  repeat' (first
    | trivial
    | assumption
    | (with_reducible refine eff_access (by assumption) ?_; intro _ _ _; (try dsimp only))
    | (with_reducible refine eff_readBlock (by first | assumption | (simp (maxDischargeDepth := 9) [*]; done)) ?_; intro _ _ _; (try dsimp only))
    | (with_reducible refine eff_accessStay (by assumption) ?_; intro _ _ _; (try dsimp only))
    | (with_reducible refine eff_cmdTile (by assumption) ?_; intro _; (try dsimp only))
    | (with_reducible refine eff_cmdVector ?_; intro _; (try dsimp only))
    | (with_reducible exact eff_handlerTile (by assumption))
    | (with_reducible refine eff_goTo ?_)
    | (with_reducible exact eff_doWait (by assumption))
    | (with_reducible exact eff_startLoop (by assumption))
    | (with_reducible exact eff_setMask (by assumption))
    | (with_reducible exact eff_hand (by assumption))
    | (with_reducible exact eff_openIndex (by assumption))
    | (exact eff_rewriteEntry (by simp (maxDischargeDepth := 9) [*]))
    | split)
  all_goals first
    | (simp (maxDischargeDepth := 9) [effWf, *]; done)
    | (simp (maxDischargeDepth := 9) [*]; done)
    | exact wf_chkIf ‹_› (by assumption)
    | exact wf_checkWord ‹_› (by assumption)
    | exact eff_gTiles ‹_› (by simp [*])
    | exact eff_slotAt ‹_› (by simp [*])
    | exact eff_slotArray ‹_› (by simp [*])
    | exact eff_sideRows ‹_› (by simp [*])
    | exact eff_postDest ‹_› (by simp [*])
    | exact eff_vecReady ‹_› (by simp [*])

@[simp] theorem wf_execFmin (y : Bool) (gd : BitVec 4) (ga : BitVec 4) (la : Bool) (gb : BitVec 4) (lb : Bool) (p : Bool) (s : State) (hw : memoryWf s.ms.mem = true) : outWf (execFmin y gd ga la gb lb p s) := by
  simp (maxDischargeDepth := 9) [execFmin, hw]

@[simp] theorem wf_execFmax (y : Bool) (gd : BitVec 4) (ga : BitVec 4) (la : Bool) (gb : BitVec 4) (lb : Bool) (p : Bool) (s : State) (hw : memoryWf s.ms.mem = true) : outWf (execFmax y gd ga la gb lb p s) := by
  simp (maxDischargeDepth := 9) [execFmax, hw]

@[simp] theorem wf_execFcmpEq (y : Bool) (gd : BitVec 4) (ga : BitVec 4) (la : Bool) (gb : BitVec 4) (lb : Bool) (p : Bool) (s : State) (hw : memoryWf s.ms.mem = true) : outWf (execFcmpEq y gd ga la gb lb p s) := by
  simp (maxDischargeDepth := 9) [execFcmpEq, hw]

@[simp] theorem wf_execFcmpLt (y : Bool) (gd : BitVec 4) (ga : BitVec 4) (la : Bool) (gb : BitVec 4) (lb : Bool) (p : Bool) (s : State) (hw : memoryWf s.ms.mem = true) : outWf (execFcmpLt y gd ga la gb lb p s) := by
  simp (maxDischargeDepth := 9) [execFcmpLt, hw]

@[simp] theorem wf_execFcmpLe (y : Bool) (gd : BitVec 4) (ga : BitVec 4) (la : Bool) (gb : BitVec 4) (lb : Bool) (p : Bool) (s : State) (hw : memoryWf s.ms.mem = true) : outWf (execFcmpLe y gd ga la gb lb p s) := by
  simp (maxDischargeDepth := 9) [execFcmpLe, hw]

@[simp] theorem wf_execFcvt (y : Bool) (gd : BitVec 4) (ga : BitVec 4) (la : Bool) (p : Bool) (s : State) (hw : memoryWf s.ms.mem = true) : outWf (execFcvt y gd ga la p s) := by
  unfold execFcvt
  (try dsimp only)
  refine wf_issue _ _ _ hw ?_
  intro t v ht
  (try dsimp only)
  repeat' (first
    | trivial
    | assumption
    | (with_reducible refine eff_access (by assumption) ?_; intro _ _ _; (try dsimp only))
    | (with_reducible refine eff_readBlock (by first | assumption | (simp (maxDischargeDepth := 9) [*]; done)) ?_; intro _ _ _; (try dsimp only))
    | (with_reducible refine eff_accessStay (by assumption) ?_; intro _ _ _; (try dsimp only))
    | (with_reducible refine eff_cmdTile (by assumption) ?_; intro _; (try dsimp only))
    | (with_reducible refine eff_cmdVector ?_; intro _; (try dsimp only))
    | (with_reducible exact eff_handlerTile (by assumption))
    | (with_reducible refine eff_goTo ?_)
    | (with_reducible exact eff_doWait (by assumption))
    | (with_reducible exact eff_startLoop (by assumption))
    | (with_reducible exact eff_setMask (by assumption))
    | (with_reducible exact eff_hand (by assumption))
    | (with_reducible exact eff_openIndex (by assumption))
    | (exact eff_rewriteEntry (by simp (maxDischargeDepth := 9) [*]))
    | split)
  all_goals first
    | (simp (maxDischargeDepth := 9) [effWf, *]; done)
    | (simp (maxDischargeDepth := 9) [*]; done)
    | exact wf_chkIf ‹_› (by assumption)
    | exact wf_checkWord ‹_› (by assumption)
    | exact eff_gTiles ‹_› (by simp [*])
    | exact eff_slotAt ‹_› (by simp [*])
    | exact eff_slotArray ‹_› (by simp [*])
    | exact eff_sideRows ‹_› (by simp [*])
    | exact eff_postDest ‹_› (by simp [*])
    | exact eff_vecReady ‹_› (by simp [*])

@[simp] theorem wf_execFcvti (y : Bool) (gd : BitVec 4) (ga : BitVec 4) (la : Bool) (p : Bool) (s : State) (hw : memoryWf s.ms.mem = true) : outWf (execFcvti y gd ga la p s) := by
  unfold execFcvti
  (try dsimp only)
  refine wf_issue _ _ _ hw ?_
  intro t v ht
  (try dsimp only)
  repeat' (first
    | trivial
    | assumption
    | (with_reducible refine eff_access (by assumption) ?_; intro _ _ _; (try dsimp only))
    | (with_reducible refine eff_readBlock (by first | assumption | (simp (maxDischargeDepth := 9) [*]; done)) ?_; intro _ _ _; (try dsimp only))
    | (with_reducible refine eff_accessStay (by assumption) ?_; intro _ _ _; (try dsimp only))
    | (with_reducible refine eff_cmdTile (by assumption) ?_; intro _; (try dsimp only))
    | (with_reducible refine eff_cmdVector ?_; intro _; (try dsimp only))
    | (with_reducible exact eff_handlerTile (by assumption))
    | (with_reducible refine eff_goTo ?_)
    | (with_reducible exact eff_doWait (by assumption))
    | (with_reducible exact eff_startLoop (by assumption))
    | (with_reducible exact eff_setMask (by assumption))
    | (with_reducible exact eff_hand (by assumption))
    | (with_reducible exact eff_openIndex (by assumption))
    | (exact eff_rewriteEntry (by simp (maxDischargeDepth := 9) [*]))
    | split)
  all_goals first
    | (simp (maxDischargeDepth := 9) [effWf, *]; done)
    | (simp (maxDischargeDepth := 9) [*]; done)
    | exact wf_chkIf ‹_› (by assumption)
    | exact wf_checkWord ‹_› (by assumption)
    | exact eff_gTiles ‹_› (by simp [*])
    | exact eff_slotAt ‹_› (by simp [*])
    | exact eff_slotArray ‹_› (by simp [*])
    | exact eff_sideRows ‹_› (by simp [*])
    | exact eff_postDest ‹_› (by simp [*])
    | exact eff_vecReady ‹_› (by simp [*])

@[simp] theorem wf_execFcvtf (y : Bool) (gd : BitVec 4) (ga : BitVec 4) (la : Bool) (p : Bool) (s : State) (hw : memoryWf s.ms.mem = true) : outWf (execFcvtf y gd ga la p s) := by
  unfold execFcvtf
  (try dsimp only)
  refine wf_issue _ _ _ hw ?_
  intro t v ht
  (try dsimp only)
  repeat' (first
    | trivial
    | assumption
    | (with_reducible refine eff_access (by assumption) ?_; intro _ _ _; (try dsimp only))
    | (with_reducible refine eff_readBlock (by first | assumption | (simp (maxDischargeDepth := 9) [*]; done)) ?_; intro _ _ _; (try dsimp only))
    | (with_reducible refine eff_accessStay (by assumption) ?_; intro _ _ _; (try dsimp only))
    | (with_reducible refine eff_cmdTile (by assumption) ?_; intro _; (try dsimp only))
    | (with_reducible refine eff_cmdVector ?_; intro _; (try dsimp only))
    | (with_reducible exact eff_handlerTile (by assumption))
    | (with_reducible refine eff_goTo ?_)
    | (with_reducible exact eff_doWait (by assumption))
    | (with_reducible exact eff_startLoop (by assumption))
    | (with_reducible exact eff_setMask (by assumption))
    | (with_reducible exact eff_hand (by assumption))
    | (with_reducible exact eff_openIndex (by assumption))
    | (exact eff_rewriteEntry (by simp (maxDischargeDepth := 9) [*]))
    | split)
  all_goals first
    | (simp (maxDischargeDepth := 9) [effWf, *]; done)
    | (simp (maxDischargeDepth := 9) [*]; done)
    | exact wf_chkIf ‹_› (by assumption)
    | exact wf_checkWord ‹_› (by assumption)
    | exact eff_gTiles ‹_› (by simp [*])
    | exact eff_slotAt ‹_› (by simp [*])
    | exact eff_slotArray ‹_› (by simp [*])
    | exact eff_sideRows ‹_› (by simp [*])
    | exact eff_postDest ‹_› (by simp [*])
    | exact eff_vecReady ‹_› (by simp [*])

@[simp] theorem wf_execBeq (y : Bool) (ga : BitVec 4) (la : Bool) (gb : BitVec 4) (lb : Bool) (off : BitVec 14) (s : State) (hw : memoryWf s.ms.mem = true) : outWf (execBeq y ga la gb lb off s) := by
  simp (maxDischargeDepth := 9) [execBeq, hw]

@[simp] theorem wf_execBne (y : Bool) (ga : BitVec 4) (la : Bool) (gb : BitVec 4) (lb : Bool) (off : BitVec 14) (s : State) (hw : memoryWf s.ms.mem = true) : outWf (execBne y ga la gb lb off s) := by
  simp (maxDischargeDepth := 9) [execBne, hw]

@[simp] theorem wf_execBlt (y : Bool) (ga : BitVec 4) (la : Bool) (gb : BitVec 4) (lb : Bool) (off : BitVec 14) (s : State) (hw : memoryWf s.ms.mem = true) : outWf (execBlt y ga la gb lb off s) := by
  simp (maxDischargeDepth := 9) [execBlt, hw]

@[simp] theorem wf_execBge (y : Bool) (ga : BitVec 4) (la : Bool) (gb : BitVec 4) (lb : Bool) (off : BitVec 14) (s : State) (hw : memoryWf s.ms.mem = true) : outWf (execBge y ga la gb lb off s) := by
  simp (maxDischargeDepth := 9) [execBge, hw]

@[simp] theorem wf_execLoopReg (y : Bool) (ga : BitVec 4) (la : Bool) (dist : BitVec 14) (s : State) (hw : memoryWf s.ms.mem = true) : outWf (execLoopReg y ga la dist s) := by
  unfold execLoopReg
  (try dsimp only)
  refine wf_issue _ _ _ hw ?_
  intro t v ht
  (try dsimp only)
  repeat' (first
    | trivial
    | assumption
    | (with_reducible refine eff_access (by assumption) ?_; intro _ _ _; (try dsimp only))
    | (with_reducible refine eff_readBlock (by first | assumption | (simp (maxDischargeDepth := 9) [*]; done)) ?_; intro _ _ _; (try dsimp only))
    | (with_reducible refine eff_accessStay (by assumption) ?_; intro _ _ _; (try dsimp only))
    | (with_reducible refine eff_cmdTile (by assumption) ?_; intro _; (try dsimp only))
    | (with_reducible refine eff_cmdVector ?_; intro _; (try dsimp only))
    | (with_reducible exact eff_handlerTile (by assumption))
    | (with_reducible refine eff_goTo ?_)
    | (with_reducible exact eff_doWait (by assumption))
    | (with_reducible exact eff_startLoop (by assumption))
    | (with_reducible exact eff_setMask (by assumption))
    | (with_reducible exact eff_hand (by assumption))
    | (with_reducible exact eff_openIndex (by assumption))
    | (exact eff_rewriteEntry (by simp (maxDischargeDepth := 9) [*]))
    | split)
  all_goals first
    | (simp (maxDischargeDepth := 9) [effWf, *]; done)
    | (simp (maxDischargeDepth := 9) [*]; done)
    | exact wf_chkIf ‹_› (by assumption)
    | exact wf_checkWord ‹_› (by assumption)
    | exact eff_gTiles ‹_› (by simp [*])
    | exact eff_slotAt ‹_› (by simp [*])
    | exact eff_slotArray ‹_› (by simp [*])
    | exact eff_sideRows ‹_› (by simp [*])
    | exact eff_postDest ‹_› (by simp [*])
    | exact eff_vecReady ‹_› (by simp [*])

@[simp] theorem wf_execLoopImm (y : Bool) (count : BitVec 16) (dist : BitVec 8) (s : State) (hw : memoryWf s.ms.mem = true) : outWf (execLoopImm y count dist s) := by
  unfold execLoopImm
  (try dsimp only)
  refine wf_issue _ _ _ hw ?_
  intro t v ht
  (try dsimp only)
  repeat' (first
    | trivial
    | assumption
    | (with_reducible refine eff_access (by assumption) ?_; intro _ _ _; (try dsimp only))
    | (with_reducible refine eff_readBlock (by first | assumption | (simp (maxDischargeDepth := 9) [*]; done)) ?_; intro _ _ _; (try dsimp only))
    | (with_reducible refine eff_accessStay (by assumption) ?_; intro _ _ _; (try dsimp only))
    | (with_reducible refine eff_cmdTile (by assumption) ?_; intro _; (try dsimp only))
    | (with_reducible refine eff_cmdVector ?_; intro _; (try dsimp only))
    | (with_reducible exact eff_handlerTile (by assumption))
    | (with_reducible refine eff_goTo ?_)
    | (with_reducible exact eff_doWait (by assumption))
    | (with_reducible exact eff_startLoop (by assumption))
    | (with_reducible exact eff_setMask (by assumption))
    | (with_reducible exact eff_hand (by assumption))
    | (with_reducible exact eff_openIndex (by assumption))
    | (exact eff_rewriteEntry (by simp (maxDischargeDepth := 9) [*]))
    | split)
  all_goals first
    | (simp (maxDischargeDepth := 9) [effWf, *]; done)
    | (simp (maxDischargeDepth := 9) [*]; done)
    | exact wf_chkIf ‹_› (by assumption)
    | exact wf_checkWord ‹_› (by assumption)
    | exact eff_gTiles ‹_› (by simp [*])
    | exact eff_slotAt ‹_› (by simp [*])
    | exact eff_slotArray ‹_› (by simp [*])
    | exact eff_sideRows ‹_› (by simp [*])
    | exact eff_postDest ‹_› (by simp [*])
    | exact eff_vecReady ‹_› (by simp [*])

@[simp] theorem wf_execJal (y : Bool) (gd : BitVec 4) (imm : BitVec 20) (s : State) (hw : memoryWf s.ms.mem = true) : outWf (execJal y gd imm s) := by
  unfold execJal
  (try dsimp only)
  refine wf_issue _ _ _ hw ?_
  intro t v ht
  (try dsimp only)
  repeat' (first
    | trivial
    | assumption
    | (with_reducible refine eff_access (by assumption) ?_; intro _ _ _; (try dsimp only))
    | (with_reducible refine eff_readBlock (by first | assumption | (simp (maxDischargeDepth := 9) [*]; done)) ?_; intro _ _ _; (try dsimp only))
    | (with_reducible refine eff_accessStay (by assumption) ?_; intro _ _ _; (try dsimp only))
    | (with_reducible refine eff_cmdTile (by assumption) ?_; intro _; (try dsimp only))
    | (with_reducible refine eff_cmdVector ?_; intro _; (try dsimp only))
    | (with_reducible exact eff_handlerTile (by assumption))
    | (with_reducible refine eff_goTo ?_)
    | (with_reducible exact eff_doWait (by assumption))
    | (with_reducible exact eff_startLoop (by assumption))
    | (with_reducible exact eff_setMask (by assumption))
    | (with_reducible exact eff_hand (by assumption))
    | (with_reducible exact eff_openIndex (by assumption))
    | (exact eff_rewriteEntry (by simp (maxDischargeDepth := 9) [*]))
    | split)
  all_goals first
    | (simp (maxDischargeDepth := 9) [effWf, *]; done)
    | (simp (maxDischargeDepth := 9) [*]; done)
    | exact wf_chkIf ‹_› (by assumption)
    | exact wf_checkWord ‹_› (by assumption)
    | exact eff_gTiles ‹_› (by simp [*])
    | exact eff_slotAt ‹_› (by simp [*])
    | exact eff_slotArray ‹_› (by simp [*])
    | exact eff_sideRows ‹_› (by simp [*])
    | exact eff_postDest ‹_› (by simp [*])
    | exact eff_vecReady ‹_› (by simp [*])

@[simp] theorem wf_execJr (y : Bool) (gd : BitVec 4) (ga : BitVec 4) (la : Bool) (s : State) (hw : memoryWf s.ms.mem = true) : outWf (execJr y gd ga la s) := by
  unfold execJr
  (try dsimp only)
  refine wf_issue _ _ _ hw ?_
  intro t v ht
  (try dsimp only)
  repeat' (first
    | trivial
    | assumption
    | (with_reducible refine eff_access (by assumption) ?_; intro _ _ _; (try dsimp only))
    | (with_reducible refine eff_readBlock (by first | assumption | (simp (maxDischargeDepth := 9) [*]; done)) ?_; intro _ _ _; (try dsimp only))
    | (with_reducible refine eff_accessStay (by assumption) ?_; intro _ _ _; (try dsimp only))
    | (with_reducible refine eff_cmdTile (by assumption) ?_; intro _; (try dsimp only))
    | (with_reducible refine eff_cmdVector ?_; intro _; (try dsimp only))
    | (with_reducible exact eff_handlerTile (by assumption))
    | (with_reducible refine eff_goTo ?_)
    | (with_reducible exact eff_doWait (by assumption))
    | (with_reducible exact eff_startLoop (by assumption))
    | (with_reducible exact eff_setMask (by assumption))
    | (with_reducible exact eff_hand (by assumption))
    | (with_reducible exact eff_openIndex (by assumption))
    | (exact eff_rewriteEntry (by simp (maxDischargeDepth := 9) [*]))
    | split)
  all_goals first
    | (simp (maxDischargeDepth := 9) [effWf, *]; done)
    | (simp (maxDischargeDepth := 9) [*]; done)
    | exact wf_chkIf ‹_› (by assumption)
    | exact wf_checkWord ‹_› (by assumption)
    | exact eff_gTiles ‹_› (by simp [*])
    | exact eff_slotAt ‹_› (by simp [*])
    | exact eff_slotArray ‹_› (by simp [*])
    | exact eff_sideRows ‹_› (by simp [*])
    | exact eff_postDest ‹_› (by simp [*])
    | exact eff_vecReady ‹_› (by simp [*])

@[simp] theorem wf_execEndloop (y : Bool) (s : State) (hw : memoryWf s.ms.mem = true) : outWf (execEndloop y s) := by
  unfold execEndloop
  (try dsimp only)
  refine wf_issue _ _ _ hw ?_
  intro t v ht
  (try dsimp only)
  repeat' (first
    | trivial
    | assumption
    | (with_reducible refine eff_access (by assumption) ?_; intro _ _ _; (try dsimp only))
    | (with_reducible refine eff_readBlock (by first | assumption | (simp (maxDischargeDepth := 9) [*]; done)) ?_; intro _ _ _; (try dsimp only))
    | (with_reducible refine eff_accessStay (by assumption) ?_; intro _ _ _; (try dsimp only))
    | (with_reducible refine eff_cmdTile (by assumption) ?_; intro _; (try dsimp only))
    | (with_reducible refine eff_cmdVector ?_; intro _; (try dsimp only))
    | (with_reducible exact eff_handlerTile (by assumption))
    | (with_reducible refine eff_goTo ?_)
    | (with_reducible exact eff_doWait (by assumption))
    | (with_reducible exact eff_startLoop (by assumption))
    | (with_reducible exact eff_setMask (by assumption))
    | (with_reducible exact eff_hand (by assumption))
    | (with_reducible exact eff_openIndex (by assumption))
    | (exact eff_rewriteEntry (by simp (maxDischargeDepth := 9) [*]))
    | split)
  all_goals first
    | (simp (maxDischargeDepth := 9) [effWf, *]; done)
    | (simp (maxDischargeDepth := 9) [*]; done)
    | exact wf_chkIf ‹_› (by assumption)
    | exact wf_checkWord ‹_› (by assumption)
    | exact eff_gTiles ‹_› (by simp [*])
    | exact eff_slotAt ‹_› (by simp [*])
    | exact eff_slotArray ‹_› (by simp [*])
    | exact eff_sideRows ‹_› (by simp [*])
    | exact eff_postDest ‹_› (by simp [*])
    | exact eff_vecReady ‹_› (by simp [*])

@[simp] theorem wf_execCallat (y : Bool) (ga : BitVec 4) (la : Bool) (gb : BitVec 4) (lb : Bool) (s : State) (hw : memoryWf s.ms.mem = true) : outWf (execCallat y ga la gb lb s) := by
  unfold execCallat
  (try dsimp only)
  refine wf_issue _ _ _ hw ?_
  intro t v ht
  (try dsimp only)
  repeat' (first
    | trivial
    | assumption
    | (with_reducible refine eff_access (by assumption) ?_; intro _ _ _; (try dsimp only))
    | (with_reducible refine eff_readBlock (by first | assumption | (simp (maxDischargeDepth := 9) [*]; done)) ?_; intro _ _ _; (try dsimp only))
    | (with_reducible refine eff_accessStay (by assumption) ?_; intro _ _ _; (try dsimp only))
    | (with_reducible refine eff_cmdTile (by assumption) ?_; intro _; (try dsimp only))
    | (with_reducible refine eff_cmdVector ?_; intro _; (try dsimp only))
    | (with_reducible exact eff_handlerTile (by assumption))
    | (with_reducible refine eff_goTo ?_)
    | (with_reducible exact eff_doWait (by assumption))
    | (with_reducible exact eff_startLoop (by assumption))
    | (with_reducible exact eff_setMask (by assumption))
    | (with_reducible exact eff_hand (by assumption))
    | (with_reducible exact eff_openIndex (by assumption))
    | (exact eff_rewriteEntry (by simp (maxDischargeDepth := 9) [*]))
    | split)
  all_goals first
    | (simp (maxDischargeDepth := 9) [effWf, *]; done)
    | (simp (maxDischargeDepth := 9) [*]; done)
    | exact wf_chkIf ‹_› (by assumption)
    | exact wf_checkWord ‹_› (by assumption)
    | exact eff_gTiles ‹_› (by simp [*])
    | exact eff_slotAt ‹_› (by simp [*])
    | exact eff_slotArray ‹_› (by simp [*])
    | exact eff_sideRows ‹_› (by simp [*])
    | exact eff_postDest ‹_› (by simp [*])
    | exact eff_vecReady ‹_› (by simp [*])

@[simp] theorem wf_execExit (y : Bool) (s : State) (hw : memoryWf s.ms.mem = true) : outWf (execExit y s) := by
  unfold execExit
  (try dsimp only)
  refine wf_issue _ _ _ hw ?_
  intro t v ht
  (try dsimp only)
  repeat' (first
    | trivial
    | assumption
    | (with_reducible refine eff_access (by assumption) ?_; intro _ _ _; (try dsimp only))
    | (with_reducible refine eff_readBlock (by first | assumption | (simp (maxDischargeDepth := 9) [*]; done)) ?_; intro _ _ _; (try dsimp only))
    | (with_reducible refine eff_accessStay (by assumption) ?_; intro _ _ _; (try dsimp only))
    | (with_reducible refine eff_cmdTile (by assumption) ?_; intro _; (try dsimp only))
    | (with_reducible refine eff_cmdVector ?_; intro _; (try dsimp only))
    | (with_reducible exact eff_handlerTile (by assumption))
    | (with_reducible refine eff_goTo ?_)
    | (with_reducible exact eff_doWait (by assumption))
    | (with_reducible exact eff_startLoop (by assumption))
    | (with_reducible exact eff_setMask (by assumption))
    | (with_reducible exact eff_hand (by assumption))
    | (with_reducible exact eff_openIndex (by assumption))
    | (exact eff_rewriteEntry (by simp (maxDischargeDepth := 9) [*]))
    | split)
  all_goals first
    | (simp (maxDischargeDepth := 9) [effWf, *]; done)
    | (simp (maxDischargeDepth := 9) [*]; done)
    | exact wf_chkIf ‹_› (by assumption)
    | exact wf_checkWord ‹_› (by assumption)
    | exact eff_gTiles ‹_› (by simp [*])
    | exact eff_slotAt ‹_› (by simp [*])
    | exact eff_slotArray ‹_› (by simp [*])
    | exact eff_sideRows ‹_› (by simp [*])
    | exact eff_postDest ‹_› (by simp [*])
    | exact eff_vecReady ‹_› (by simp [*])

@[simp] theorem wf_execTrig (y : Bool) (s : State) (hw : memoryWf s.ms.mem = true) : outWf (execTrig y s) := by
  unfold execTrig
  (try dsimp only)
  refine wf_issue _ _ _ hw ?_
  intro t v ht
  (try dsimp only)
  repeat' (first
    | trivial
    | assumption
    | (with_reducible refine eff_access (by assumption) ?_; intro _ _ _; (try dsimp only))
    | (with_reducible refine eff_readBlock (by first | assumption | (simp (maxDischargeDepth := 9) [*]; done)) ?_; intro _ _ _; (try dsimp only))
    | (with_reducible refine eff_accessStay (by assumption) ?_; intro _ _ _; (try dsimp only))
    | (with_reducible refine eff_cmdTile (by assumption) ?_; intro _; (try dsimp only))
    | (with_reducible refine eff_cmdVector ?_; intro _; (try dsimp only))
    | (with_reducible exact eff_handlerTile (by assumption))
    | (with_reducible refine eff_goTo ?_)
    | (with_reducible exact eff_doWait (by assumption))
    | (with_reducible exact eff_startLoop (by assumption))
    | (with_reducible exact eff_setMask (by assumption))
    | (with_reducible exact eff_hand (by assumption))
    | (with_reducible exact eff_openIndex (by assumption))
    | (exact eff_rewriteEntry (by simp (maxDischargeDepth := 9) [*]))
    | split)
  all_goals first
    | (simp (maxDischargeDepth := 9) [effWf, *]; done)
    | (simp (maxDischargeDepth := 9) [*]; done)
    | exact wf_chkIf ‹_› (by assumption)
    | exact wf_checkWord ‹_› (by assumption)
    | exact eff_gTiles ‹_› (by simp [*])
    | exact eff_slotAt ‹_› (by simp [*])
    | exact eff_slotArray ‹_› (by simp [*])
    | exact eff_sideRows ‹_› (by simp [*])
    | exact eff_postDest ‹_› (by simp [*])
    | exact eff_vecReady ‹_› (by simp [*])

@[simp] theorem wf_execYield (y : Bool) (s : State) (hw : memoryWf s.ms.mem = true) : outWf (execYield y s) := by
  unfold execYield
  (try dsimp only)
  refine wf_issue _ _ _ hw ?_
  intro t v ht
  (try dsimp only)
  repeat' (first
    | trivial
    | assumption
    | (with_reducible refine eff_access (by assumption) ?_; intro _ _ _; (try dsimp only))
    | (with_reducible refine eff_readBlock (by first | assumption | (simp (maxDischargeDepth := 9) [*]; done)) ?_; intro _ _ _; (try dsimp only))
    | (with_reducible refine eff_accessStay (by assumption) ?_; intro _ _ _; (try dsimp only))
    | (with_reducible refine eff_cmdTile (by assumption) ?_; intro _; (try dsimp only))
    | (with_reducible refine eff_cmdVector ?_; intro _; (try dsimp only))
    | (with_reducible exact eff_handlerTile (by assumption))
    | (with_reducible refine eff_goTo ?_)
    | (with_reducible exact eff_doWait (by assumption))
    | (with_reducible exact eff_startLoop (by assumption))
    | (with_reducible exact eff_setMask (by assumption))
    | (with_reducible exact eff_hand (by assumption))
    | (with_reducible exact eff_openIndex (by assumption))
    | (exact eff_rewriteEntry (by simp (maxDischargeDepth := 9) [*]))
    | split)
  all_goals first
    | (simp (maxDischargeDepth := 9) [effWf, *]; done)
    | (simp (maxDischargeDepth := 9) [*]; done)
    | exact wf_chkIf ‹_› (by assumption)
    | exact wf_checkWord ‹_› (by assumption)
    | exact eff_gTiles ‹_› (by simp [*])
    | exact eff_slotAt ‹_› (by simp [*])
    | exact eff_slotArray ‹_› (by simp [*])
    | exact eff_sideRows ‹_› (by simp [*])
    | exact eff_postDest ‹_› (by simp [*])
    | exact eff_vecReady ‹_› (by simp [*])

theorem mem_completeAll (l : List Fibre) (s : State) : (l.foldl (fun t x => complete t x.id none) s).ms.mem = s.ms.mem := by
  induction l generalizing s with
  | nil => rfl
  | cons x l ih => rw [List.foldl_cons, ih, mem_complete]

@[simp] theorem wf_execAlign (y : Bool) (n : BitVec 6) (s : State) (hw : memoryWf s.ms.mem = true) : outWf (execAlign y n s) := by
  unfold execAlign
  refine wf_issue _ _ _ hw fun t v ht => ?_
  repeat' split
  all_goals simp (maxDischargeDepth := 9) [effWf, mem_completeAll, ht]

@[simp] theorem wf_execMigr (y : Bool) (gd : BitVec 4) (ga : BitVec 4) (la : Bool) (s : State) (hw : memoryWf s.ms.mem = true) : outWf (execMigr y gd ga la s) := by
  unfold execMigr
  refine wf_issue _ _ _ hw ?_
  intro t v ht
  dsimp only
  split
  · trivial
  split
  · trivial
  split
  · trivial
  · exact ht
  · simp [effWf, ht]
  repeat' split
  all_goals first | trivial | exact eff_migrEff _ _ _ _ ht | simp [effWf, ht]

@[simp] theorem wf_loadN (i : Sys2Proof.Instr) (n : Nat) (y : Bool) (gd : Sys2Proof.Reg) (ga : Sys2Proof.Reg) (la : Bool) (pol : BitVec 2) (ord : BitVec 2) (scope : BitVec 4) (off : BitVec 7) (s : State) (hw : memoryWf s.ms.mem = true) : outWf (loadN i n y gd ga la pol ord scope off s) := by
  unfold loadN
  (try dsimp only)
  refine wf_issue _ _ _ hw ?_
  intro t v ht
  (try dsimp only)
  repeat' (first
    | trivial
    | assumption
    | (with_reducible refine eff_access (by assumption) ?_; intro _ _ _; (try dsimp only))
    | (with_reducible refine eff_readBlock (by first | assumption | (simp (maxDischargeDepth := 9) [*]; done)) ?_; intro _ _ _; (try dsimp only))
    | (with_reducible refine eff_accessStay (by assumption) ?_; intro _ _ _; (try dsimp only))
    | (with_reducible refine eff_cmdTile (by assumption) ?_; intro _; (try dsimp only))
    | (with_reducible refine eff_cmdVector ?_; intro _; (try dsimp only))
    | (with_reducible exact eff_handlerTile (by assumption))
    | (with_reducible refine eff_goTo ?_)
    | (with_reducible exact eff_doWait (by assumption))
    | (with_reducible exact eff_startLoop (by assumption))
    | (with_reducible exact eff_setMask (by assumption))
    | (with_reducible exact eff_hand (by assumption))
    | (with_reducible exact eff_openIndex (by assumption))
    | (exact eff_rewriteEntry (by simp (maxDischargeDepth := 9) [*]))
    | split)
  all_goals first
    | (simp (maxDischargeDepth := 9) [effWf, *]; done)
    | (simp (maxDischargeDepth := 9) [*]; done)
    | exact wf_chkIf ‹_› (by assumption)
    | exact wf_checkWord ‹_› (by assumption)
    | exact eff_gTiles ‹_› (by simp [*])
    | exact eff_slotAt ‹_› (by simp [*])
    | exact eff_slotArray ‹_› (by simp [*])
    | exact eff_sideRows ‹_› (by simp [*])
    | exact eff_postDest ‹_› (by simp [*])
    | exact eff_vecReady ‹_› (by simp [*])

@[simp] theorem wf_execLdb (y : Bool) (gd : BitVec 4) (ga : BitVec 4) (la : Bool) (pol : BitVec 2) (ord : BitVec 2) (scope : BitVec 4) (off : BitVec 7) (s : State) (hw : memoryWf s.ms.mem = true) : outWf (execLdb y gd ga la pol ord scope off s) := by
  simp (maxDischargeDepth := 9) [execLdb, hw]

@[simp] theorem wf_execLdh (y : Bool) (gd : BitVec 4) (ga : BitVec 4) (la : Bool) (pol : BitVec 2) (ord : BitVec 2) (scope : BitVec 4) (off : BitVec 7) (s : State) (hw : memoryWf s.ms.mem = true) : outWf (execLdh y gd ga la pol ord scope off s) := by
  simp (maxDischargeDepth := 9) [execLdh, hw]

@[simp] theorem wf_execLdw (y : Bool) (gd : BitVec 4) (ga : BitVec 4) (la : Bool) (pol : BitVec 2) (ord : BitVec 2) (scope : BitVec 4) (off : BitVec 7) (s : State) (hw : memoryWf s.ms.mem = true) : outWf (execLdw y gd ga la pol ord scope off s) := by
  simp (maxDischargeDepth := 9) [execLdw, hw]

@[simp] theorem wf_execLdd (y : Bool) (gd : BitVec 4) (ga : BitVec 4) (la : Bool) (pol : BitVec 2) (ord : BitVec 2) (scope : BitVec 4) (off : BitVec 7) (s : State) (hw : memoryWf s.ms.mem = true) : outWf (execLdd y gd ga la pol ord scope off s) := by
  simp (maxDischargeDepth := 9) [execLdd, hw]

@[simp] theorem wf_storeN (i : Sys2Proof.Instr) (n : Nat) (y : Bool) (gd : Sys2Proof.Reg) (ga : Sys2Proof.Reg) (la : Bool) (pol : BitVec 2) (ord : BitVec 2) (scope : BitVec 4) (off : BitVec 7) (s : State) (hw : memoryWf s.ms.mem = true) : outWf (storeN i n y gd ga la pol ord scope off s) := by
  unfold storeN
  (try dsimp only)
  refine wf_issue _ _ _ hw ?_
  intro t v ht
  (try dsimp only)
  repeat' (first
    | trivial
    | assumption
    | (with_reducible refine eff_access (by assumption) ?_; intro _ _ _; (try dsimp only))
    | (with_reducible refine eff_readBlock (by first | assumption | (simp (maxDischargeDepth := 9) [*]; done)) ?_; intro _ _ _; (try dsimp only))
    | (with_reducible refine eff_accessStay (by assumption) ?_; intro _ _ _; (try dsimp only))
    | (with_reducible refine eff_cmdTile (by assumption) ?_; intro _; (try dsimp only))
    | (with_reducible refine eff_cmdVector ?_; intro _; (try dsimp only))
    | (with_reducible exact eff_handlerTile (by assumption))
    | (with_reducible refine eff_goTo ?_)
    | (with_reducible exact eff_doWait (by assumption))
    | (with_reducible exact eff_startLoop (by assumption))
    | (with_reducible exact eff_setMask (by assumption))
    | (with_reducible exact eff_hand (by assumption))
    | (with_reducible exact eff_openIndex (by assumption))
    | (exact eff_rewriteEntry (by simp (maxDischargeDepth := 9) [*]))
    | split)
  all_goals first
    | (simp (maxDischargeDepth := 9) [effWf, *]; done)
    | (simp (maxDischargeDepth := 9) [*]; done)
    | exact wf_chkIf ‹_› (by assumption)
    | exact wf_checkWord ‹_› (by assumption)
    | exact eff_gTiles ‹_› (by simp [*])
    | exact eff_slotAt ‹_› (by simp [*])
    | exact eff_slotArray ‹_› (by simp [*])
    | exact eff_sideRows ‹_› (by simp [*])
    | exact eff_postDest ‹_› (by simp [*])
    | exact eff_vecReady ‹_› (by simp [*])

@[simp] theorem wf_execStb (y : Bool) (gd : BitVec 4) (ga : BitVec 4) (la : Bool) (pol : BitVec 2) (ord : BitVec 2) (scope : BitVec 4) (off : BitVec 7) (s : State) (hw : memoryWf s.ms.mem = true) : outWf (execStb y gd ga la pol ord scope off s) := by
  simp (maxDischargeDepth := 9) [execStb, hw]

@[simp] theorem wf_execSth (y : Bool) (gd : BitVec 4) (ga : BitVec 4) (la : Bool) (pol : BitVec 2) (ord : BitVec 2) (scope : BitVec 4) (off : BitVec 7) (s : State) (hw : memoryWf s.ms.mem = true) : outWf (execSth y gd ga la pol ord scope off s) := by
  simp (maxDischargeDepth := 9) [execSth, hw]

@[simp] theorem wf_execStw (y : Bool) (gd : BitVec 4) (ga : BitVec 4) (la : Bool) (pol : BitVec 2) (ord : BitVec 2) (scope : BitVec 4) (off : BitVec 7) (s : State) (hw : memoryWf s.ms.mem = true) : outWf (execStw y gd ga la pol ord scope off s) := by
  simp (maxDischargeDepth := 9) [execStw, hw]

@[simp] theorem wf_execStd (y : Bool) (gd : BitVec 4) (ga : BitVec 4) (la : Bool) (pol : BitVec 2) (ord : BitVec 2) (scope : BitVec 4) (off : BitVec 7) (s : State) (hw : memoryWf s.ms.mem = true) : outWf (execStd y gd ga la pol ord scope off s) := by
  simp (maxDischargeDepth := 9) [execStd, hw]

@[simp] theorem wf_feLoad (i : Sys2Proof.Instr) (op : Nat) (k : AccKind) (acq : Bool) (y : Bool) (gd : Sys2Proof.Reg) (ga : Sys2Proof.Reg) (la : Bool) (off : BitVec 7) (s : State) (hw : memoryWf s.ms.mem = true) : outWf (feLoad i op k acq y gd ga la off s) := by
  unfold feLoad
  (try dsimp only)
  refine wf_issue _ _ _ hw ?_
  intro t v ht
  (try dsimp only)
  repeat' (first
    | trivial
    | assumption
    | (with_reducible refine eff_access (by assumption) ?_; intro _ _ _; (try dsimp only))
    | (with_reducible refine eff_readBlock (by first | assumption | (simp (maxDischargeDepth := 9) [*]; done)) ?_; intro _ _ _; (try dsimp only))
    | (with_reducible refine eff_accessStay (by assumption) ?_; intro _ _ _; (try dsimp only))
    | (with_reducible refine eff_cmdTile (by assumption) ?_; intro _; (try dsimp only))
    | (with_reducible refine eff_cmdVector ?_; intro _; (try dsimp only))
    | (with_reducible exact eff_handlerTile (by assumption))
    | (with_reducible refine eff_goTo ?_)
    | (with_reducible exact eff_doWait (by assumption))
    | (with_reducible exact eff_startLoop (by assumption))
    | (with_reducible exact eff_setMask (by assumption))
    | (with_reducible exact eff_hand (by assumption))
    | (with_reducible exact eff_openIndex (by assumption))
    | (exact eff_rewriteEntry (by simp (maxDischargeDepth := 9) [*]))
    | split)
  all_goals first
    | (simp (maxDischargeDepth := 9) [effWf, *]; done)
    | (simp (maxDischargeDepth := 9) [*]; done)
    | exact wf_chkIf ‹_› (by assumption)
    | exact wf_checkWord ‹_› (by assumption)
    | exact eff_gTiles ‹_› (by simp [*])
    | exact eff_slotAt ‹_› (by simp [*])
    | exact eff_slotArray ‹_› (by simp [*])
    | exact eff_sideRows ‹_› (by simp [*])
    | exact eff_postDest ‹_› (by simp [*])
    | exact eff_vecReady ‹_› (by simp [*])

@[simp] theorem wf_execLdf (y : Bool) (gd : BitVec 4) (ga : BitVec 4) (la : Bool) (off : BitVec 7) (s : State) (hw : memoryWf s.ms.mem = true) : outWf (execLdf y gd ga la off s) := by
  simp (maxDischargeDepth := 9) [execLdf, hw]

@[simp] theorem wf_execLdfe (y : Bool) (gd : BitVec 4) (ga : BitVec 4) (la : Bool) (off : BitVec 7) (s : State) (hw : memoryWf s.ms.mem = true) : outWf (execLdfe y gd ga la off s) := by
  simp (maxDischargeDepth := 9) [execLdfe, hw]

@[simp] theorem wf_feStore (i : Sys2Proof.Instr) (op : Nat) (rel : Bool) (y : Bool) (reads : List (Sys2Proof.Reg × Bool)) (off : BitVec 7) (data : List Sys2Proof.Word → Sys2Proof.Word) (s : State) (hw : memoryWf s.ms.mem = true) : outWf (feStore i op rel y reads off data s) := by
  unfold feStore
  (try dsimp only)
  refine wf_issue _ _ _ hw ?_
  intro t v ht
  (try dsimp only)
  repeat' (first
    | trivial
    | assumption
    | (with_reducible refine eff_access (by assumption) ?_; intro _ _ _; (try dsimp only))
    | (with_reducible refine eff_readBlock (by first | assumption | (simp (maxDischargeDepth := 9) [*]; done)) ?_; intro _ _ _; (try dsimp only))
    | (with_reducible refine eff_accessStay (by assumption) ?_; intro _ _ _; (try dsimp only))
    | (with_reducible refine eff_cmdTile (by assumption) ?_; intro _; (try dsimp only))
    | (with_reducible refine eff_cmdVector ?_; intro _; (try dsimp only))
    | (with_reducible exact eff_handlerTile (by assumption))
    | (with_reducible refine eff_goTo ?_)
    | (with_reducible exact eff_doWait (by assumption))
    | (with_reducible exact eff_startLoop (by assumption))
    | (with_reducible exact eff_setMask (by assumption))
    | (with_reducible exact eff_hand (by assumption))
    | (with_reducible exact eff_openIndex (by assumption))
    | (exact eff_rewriteEntry (by simp (maxDischargeDepth := 9) [*]))
    | split)
  all_goals first
    | (simp (maxDischargeDepth := 9) [effWf, *]; done)
    | (simp (maxDischargeDepth := 9) [*]; done)
    | exact wf_chkIf ‹_› (by assumption)
    | exact wf_checkWord ‹_› (by assumption)
    | exact eff_gTiles ‹_› (by simp [*])
    | exact eff_slotAt ‹_› (by simp [*])
    | exact eff_slotArray ‹_› (by simp [*])
    | exact eff_sideRows ‹_› (by simp [*])
    | exact eff_postDest ‹_› (by simp [*])
    | exact eff_vecReady ‹_› (by simp [*])

@[simp] theorem wf_execSte (y : Bool) (gd : BitVec 4) (ga : BitVec 4) (la : Bool) (off : BitVec 7) (s : State) (hw : memoryWf s.ms.mem = true) : outWf (execSte y gd ga la off s) := by
  simp (maxDischargeDepth := 9) [execSte, hw]

@[simp] theorem wf_execStf (y : Bool) (gd : BitVec 4) (ga : BitVec 4) (la : Bool) (off : BitVec 7) (s : State) (hw : memoryWf s.ms.mem = true) : outWf (execStf y gd ga la off s) := by
  simp (maxDischargeDepth := 9) [execStf, hw]

@[simp] theorem wf_execFeq (y : Bool) (gd : BitVec 4) (ga : BitVec 4) (la : Bool) (off : BitVec 7) (s : State) (hw : memoryWf s.ms.mem = true) : outWf (execFeq y gd ga la off s) := by
  simp (maxDischargeDepth := 9) [execFeq, hw]

@[simp] theorem wf_execFeset (y : Bool) (ga : BitVec 4) (la : Bool) (full : Bool) (off : BitVec 7) (s : State) (hw : memoryWf s.ms.mem = true) : outWf (execFeset y ga la full off s) := by
  simp (maxDischargeDepth := 9) [execFeset, hw]

@[simp] theorem wf_execPref (y : Bool) (ga : BitVec 4) (la : Bool) (pol : BitVec 2) (off : BitVec 7) (s : State) (hw : memoryWf s.ms.mem = true) : outWf (execPref y ga la pol off s) := by
  unfold execPref
  (try dsimp only)
  refine wf_issue _ _ _ hw ?_
  intro t v ht
  (try dsimp only)
  repeat' (first
    | trivial
    | assumption
    | (with_reducible refine eff_access (by assumption) ?_; intro _ _ _; (try dsimp only))
    | (with_reducible refine eff_readBlock (by first | assumption | (simp (maxDischargeDepth := 9) [*]; done)) ?_; intro _ _ _; (try dsimp only))
    | (with_reducible refine eff_accessStay (by assumption) ?_; intro _ _ _; (try dsimp only))
    | (with_reducible refine eff_cmdTile (by assumption) ?_; intro _; (try dsimp only))
    | (with_reducible refine eff_cmdVector ?_; intro _; (try dsimp only))
    | (with_reducible exact eff_handlerTile (by assumption))
    | (with_reducible refine eff_goTo ?_)
    | (with_reducible exact eff_doWait (by assumption))
    | (with_reducible exact eff_startLoop (by assumption))
    | (with_reducible exact eff_setMask (by assumption))
    | (with_reducible exact eff_hand (by assumption))
    | (with_reducible exact eff_openIndex (by assumption))
    | (exact eff_rewriteEntry (by simp (maxDischargeDepth := 9) [*]))
    | split)
  all_goals first
    | (simp (maxDischargeDepth := 9) [effWf, *]; done)
    | (simp (maxDischargeDepth := 9) [*]; done)
    | exact wf_chkIf ‹_› (by assumption)
    | exact wf_checkWord ‹_› (by assumption)
    | exact eff_gTiles ‹_› (by simp [*])
    | exact eff_slotAt ‹_› (by simp [*])
    | exact eff_slotArray ‹_› (by simp [*])
    | exact eff_sideRows ‹_› (by simp [*])
    | exact eff_postDest ‹_› (by simp [*])
    | exact eff_vecReady ‹_› (by simp [*])

@[simp] theorem wf_execAadd (y : Bool) (gd : BitVec 4) (ga : BitVec 4) (la : Bool) (gb : BitVec 4) (lb : Bool) (place : BitVec 2) (ord : BitVec 2) (scope : BitVec 4) (sz : Bool) (s : State) (hw : memoryWf s.ms.mem = true) : outWf (execAadd y gd ga la gb lb place ord scope sz s) := by
  simp (maxDischargeDepth := 9) [execAadd, hw]

@[simp] theorem wf_execAmin (y : Bool) (gd : BitVec 4) (ga : BitVec 4) (la : Bool) (gb : BitVec 4) (lb : Bool) (place : BitVec 2) (ord : BitVec 2) (scope : BitVec 4) (uns : Bool) (sz : Bool) (s : State) (hw : memoryWf s.ms.mem = true) : outWf (execAmin y gd ga la gb lb place ord scope uns sz s) := by
  simp (maxDischargeDepth := 9) [execAmin, hw]

@[simp] theorem wf_execAmax (y : Bool) (gd : BitVec 4) (ga : BitVec 4) (la : Bool) (gb : BitVec 4) (lb : Bool) (place : BitVec 2) (ord : BitVec 2) (scope : BitVec 4) (uns : Bool) (sz : Bool) (s : State) (hw : memoryWf s.ms.mem = true) : outWf (execAmax y gd ga la gb lb place ord scope uns sz s) := by
  simp (maxDischargeDepth := 9) [execAmax, hw]

@[simp] theorem wf_execAand (y : Bool) (gd : BitVec 4) (ga : BitVec 4) (la : Bool) (gb : BitVec 4) (lb : Bool) (place : BitVec 2) (ord : BitVec 2) (scope : BitVec 4) (sz : Bool) (s : State) (hw : memoryWf s.ms.mem = true) : outWf (execAand y gd ga la gb lb place ord scope sz s) := by
  simp (maxDischargeDepth := 9) [execAand, hw]

@[simp] theorem wf_execAor (y : Bool) (gd : BitVec 4) (ga : BitVec 4) (la : Bool) (gb : BitVec 4) (lb : Bool) (place : BitVec 2) (ord : BitVec 2) (scope : BitVec 4) (sz : Bool) (s : State) (hw : memoryWf s.ms.mem = true) : outWf (execAor y gd ga la gb lb place ord scope sz s) := by
  simp (maxDischargeDepth := 9) [execAor, hw]

@[simp] theorem wf_execAxch (y : Bool) (gd : BitVec 4) (ga : BitVec 4) (la : Bool) (gb : BitVec 4) (lb : Bool) (place : BitVec 2) (ord : BitVec 2) (scope : BitVec 4) (sz : Bool) (s : State) (hw : memoryWf s.ms.mem = true) : outWf (execAxch y gd ga la gb lb place ord scope sz s) := by
  simp (maxDischargeDepth := 9) [execAxch, hw]

@[simp] theorem wf_execAcas (y : Bool) (gd : BitVec 4) (ga : BitVec 4) (la : Bool) (gb : BitVec 4) (lb : Bool) (place : BitVec 2) (ord : BitVec 2) (scope : BitVec 4) (sz : Bool) (s : State) (hw : memoryWf s.ms.mem = true) : outWf (execAcas y gd ga la gb lb place ord scope sz s) := by
  simp (maxDischargeDepth := 9) [execAcas, hw]

@[simp] theorem wf_execAdecp (y : Bool) (gd : BitVec 4) (ga : BitVec 4) (la : Bool) (place : BitVec 2) (ord : BitVec 2) (scope : BitVec 4) (sz : Bool) (s : State) (hw : memoryWf s.ms.mem = true) : outWf (execAdecp y gd ga la place ord scope sz s) := by
  simp (maxDischargeDepth := 9) [execAdecp, hw]

@[simp] theorem wf_execAincb (y : Bool) (gd : BitVec 4) (ga : BitVec 4) (la : Bool) (gb : BitVec 4) (lb : Bool) (place : BitVec 2) (ord : BitVec 2) (scope : BitVec 4) (sz : Bool) (s : State) (hw : memoryWf s.ms.mem = true) : outWf (execAincb y gd ga la gb lb place ord scope sz s) := by
  simp (maxDischargeDepth := 9) [execAincb, hw]

@[simp] theorem wf_execFence (y : Bool) (scope : BitVec 4) (s : State) (hw : memoryWf s.ms.mem = true) : outWf (execFence y scope s) := by
  unfold execFence
  (try dsimp only)
  refine wf_issue _ _ _ hw ?_
  intro t v ht
  (try dsimp only)
  repeat' (first
    | trivial
    | assumption
    | (with_reducible refine eff_access (by assumption) ?_; intro _ _ _; (try dsimp only))
    | (with_reducible refine eff_readBlock (by first | assumption | (simp (maxDischargeDepth := 9) [*]; done)) ?_; intro _ _ _; (try dsimp only))
    | (with_reducible refine eff_accessStay (by assumption) ?_; intro _ _ _; (try dsimp only))
    | (with_reducible refine eff_cmdTile (by assumption) ?_; intro _; (try dsimp only))
    | (with_reducible refine eff_cmdVector ?_; intro _; (try dsimp only))
    | (with_reducible exact eff_handlerTile (by assumption))
    | (with_reducible refine eff_goTo ?_)
    | (with_reducible exact eff_doWait (by assumption))
    | (with_reducible exact eff_startLoop (by assumption))
    | (with_reducible exact eff_setMask (by assumption))
    | (with_reducible exact eff_hand (by assumption))
    | (with_reducible exact eff_openIndex (by assumption))
    | (exact eff_rewriteEntry (by simp (maxDischargeDepth := 9) [*]))
    | split)
  all_goals first
    | (simp (maxDischargeDepth := 9) [effWf, *]; done)
    | (simp (maxDischargeDepth := 9) [*]; done)
    | exact wf_chkIf ‹_› (by assumption)
    | exact wf_checkWord ‹_› (by assumption)
    | exact eff_gTiles ‹_› (by simp [*])
    | exact eff_slotAt ‹_› (by simp [*])
    | exact eff_slotArray ‹_› (by simp [*])
    | exact eff_sideRows ‹_› (by simp [*])
    | exact eff_postDest ‹_› (by simp [*])
    | exact eff_vecReady ‹_› (by simp [*])

@[simp] theorem wf_execWaita (y : Bool) (gd : BitVec 4) (ga : BitVec 4) (la : Bool) (gb : BitVec 4) (lb : Bool) (word4 : Bool) (s : State) (hw : memoryWf s.ms.mem = true) : outWf (execWaita y gd ga la gb lb word4 s) := by
  unfold execWaita
  (try dsimp only)
  refine wf_issue _ _ _ hw ?_
  intro t v ht
  (try dsimp only)
  repeat' (first
    | trivial
    | assumption
    | (with_reducible refine eff_access (by assumption) ?_; intro _ _ _; (try dsimp only))
    | (with_reducible refine eff_readBlock (by first | assumption | (simp (maxDischargeDepth := 9) [*]; done)) ?_; intro _ _ _; (try dsimp only))
    | (with_reducible refine eff_accessStay (by assumption) ?_; intro _ _ _; (try dsimp only))
    | (with_reducible refine eff_cmdTile (by assumption) ?_; intro _; (try dsimp only))
    | (with_reducible refine eff_cmdVector ?_; intro _; (try dsimp only))
    | (with_reducible exact eff_handlerTile (by assumption))
    | (with_reducible refine eff_goTo ?_)
    | (with_reducible exact eff_doWait (by assumption))
    | (with_reducible exact eff_startLoop (by assumption))
    | (with_reducible exact eff_setMask (by assumption))
    | (with_reducible exact eff_hand (by assumption))
    | (with_reducible exact eff_openIndex (by assumption))
    | (exact eff_rewriteEntry (by simp (maxDischargeDepth := 9) [*]))
    | split)
  all_goals first
    | (simp (maxDischargeDepth := 9) [effWf, *]; done)
    | (simp (maxDischargeDepth := 9) [*]; done)
    | exact wf_chkIf ‹_› (by assumption)
    | exact wf_checkWord ‹_› (by assumption)
    | exact eff_gTiles ‹_› (by simp [*])
    | exact eff_slotAt ‹_› (by simp [*])
    | exact eff_slotArray ‹_› (by simp [*])
    | exact eff_sideRows ‹_› (by simp [*])
    | exact eff_postDest ‹_› (by simp [*])
    | exact eff_vecReady ‹_› (by simp [*])

@[simp] theorem wf_execNotify (y : Bool) (gd : BitVec 4) (ga : BitVec 4) (la : Bool) (all : Bool) (s : State) (hw : memoryWf s.ms.mem = true) : outWf (execNotify y gd ga la all s) := by
  unfold execNotify
  (try dsimp only)
  refine wf_issue _ _ _ hw ?_
  intro t v ht
  (try dsimp only)
  repeat' (first
    | trivial
    | assumption
    | (with_reducible refine eff_access (by assumption) ?_; intro _ _ _; (try dsimp only))
    | (with_reducible refine eff_readBlock (by first | assumption | (simp (maxDischargeDepth := 9) [*]; done)) ?_; intro _ _ _; (try dsimp only))
    | (with_reducible refine eff_accessStay (by assumption) ?_; intro _ _ _; (try dsimp only))
    | (with_reducible refine eff_cmdTile (by assumption) ?_; intro _; (try dsimp only))
    | (with_reducible refine eff_cmdVector ?_; intro _; (try dsimp only))
    | (with_reducible exact eff_handlerTile (by assumption))
    | (with_reducible refine eff_goTo ?_)
    | (with_reducible exact eff_doWait (by assumption))
    | (with_reducible exact eff_startLoop (by assumption))
    | (with_reducible exact eff_setMask (by assumption))
    | (with_reducible exact eff_hand (by assumption))
    | (with_reducible exact eff_openIndex (by assumption))
    | (exact eff_rewriteEntry (by simp (maxDischargeDepth := 9) [*]))
    | split)
  all_goals first
    | (simp (maxDischargeDepth := 9) [effWf, *]; done)
    | (simp (maxDischargeDepth := 9) [*]; done)
    | exact wf_chkIf ‹_› (by assumption)
    | exact wf_checkWord ‹_› (by assumption)
    | exact eff_gTiles ‹_› (by simp [*])
    | exact eff_slotAt ‹_› (by simp [*])
    | exact eff_slotArray ‹_› (by simp [*])
    | exact eff_sideRows ‹_› (by simp [*])
    | exact eff_postDest ‹_› (by simp [*])
    | exact eff_vecReady ‹_› (by simp [*])

@[simp] theorem wf_execBarr (y : Bool) (gd : BitVec 4) (ga : BitVec 4) (la : Bool) (comb : BitVec 2) (s : State) (hw : memoryWf s.ms.mem = true) : outWf (execBarr y gd ga la comb s) := by
  simp (maxDischargeDepth := 9) [execBarr, hw]

@[simp] theorem wf_execBarj (y : Bool) (gd : BitVec 4) (ga : BitVec 4) (la : Bool) (comb : BitVec 2) (s : State) (hw : memoryWf s.ms.mem = true) : outWf (execBarj y gd ga la comb s) := by
  simp (maxDischargeDepth := 9) [execBarj, hw]

@[simp] theorem wf_execScopeset (y : Bool) (ga : BitVec 4) (la : Bool) (n : BitVec 3) (s : State) (hw : memoryWf s.ms.mem = true) : outWf (execScopeset y ga la n s) := by
  unfold execScopeset
  (try dsimp only)
  refine wf_issue _ _ _ hw ?_
  intro t v ht
  (try dsimp only)
  repeat' (first
    | trivial
    | assumption
    | (with_reducible refine eff_access (by assumption) ?_; intro _ _ _; (try dsimp only))
    | (with_reducible refine eff_readBlock (by first | assumption | (simp (maxDischargeDepth := 9) [*]; done)) ?_; intro _ _ _; (try dsimp only))
    | (with_reducible refine eff_accessStay (by assumption) ?_; intro _ _ _; (try dsimp only))
    | (with_reducible refine eff_cmdTile (by assumption) ?_; intro _; (try dsimp only))
    | (with_reducible refine eff_cmdVector ?_; intro _; (try dsimp only))
    | (with_reducible exact eff_handlerTile (by assumption))
    | (with_reducible refine eff_goTo ?_)
    | (with_reducible exact eff_doWait (by assumption))
    | (with_reducible exact eff_startLoop (by assumption))
    | (with_reducible exact eff_setMask (by assumption))
    | (with_reducible exact eff_hand (by assumption))
    | (with_reducible exact eff_openIndex (by assumption))
    | (exact eff_rewriteEntry (by simp (maxDischargeDepth := 9) [*]))
    | split)
  all_goals first
    | (simp (maxDischargeDepth := 9) [effWf, *]; done)
    | (simp (maxDischargeDepth := 9) [*]; done)
    | exact wf_chkIf ‹_› (by assumption)
    | exact wf_checkWord ‹_› (by assumption)
    | exact eff_gTiles ‹_› (by simp [*])
    | exact eff_slotAt ‹_› (by simp [*])
    | exact eff_slotArray ‹_› (by simp [*])
    | exact eff_sideRows ‹_› (by simp [*])
    | exact eff_postDest ‹_› (by simp [*])
    | exact eff_vecReady ‹_› (by simp [*])

@[simp] theorem wf_execLaunch (y : Bool) (gd : BitVec 4) (ga : BitVec 4) (la : Bool) (s : State) (hw : memoryWf s.ms.mem = true) : outWf (execLaunch y gd ga la s) := by
  unfold execLaunch
  (try dsimp only)
  refine wf_issue _ _ _ hw ?_
  intro t v ht
  (try dsimp only)
  repeat' (first
    | trivial
    | assumption
    | (with_reducible refine eff_access (by assumption) ?_; intro _ _ _; (try dsimp only))
    | (with_reducible refine eff_readBlock (by first | assumption | (simp (maxDischargeDepth := 9) [*]; done)) ?_; intro _ _ _; (try dsimp only))
    | (with_reducible refine eff_accessStay (by assumption) ?_; intro _ _ _; (try dsimp only))
    | (with_reducible refine eff_cmdTile (by assumption) ?_; intro _; (try dsimp only))
    | (with_reducible refine eff_cmdVector ?_; intro _; (try dsimp only))
    | (with_reducible exact eff_handlerTile (by assumption))
    | (with_reducible refine eff_goTo ?_)
    | (with_reducible exact eff_doWait (by assumption))
    | (with_reducible exact eff_startLoop (by assumption))
    | (with_reducible exact eff_setMask (by assumption))
    | (with_reducible exact eff_hand (by assumption))
    | (with_reducible exact eff_openIndex (by assumption))
    | (exact eff_rewriteEntry (by simp (maxDischargeDepth := 9) [*]))
    | split)
  all_goals first
    | (simp (maxDischargeDepth := 9) [effWf, *]; done)
    | (simp (maxDischargeDepth := 9) [*]; done)
    | exact wf_chkIf ‹_› (by assumption)
    | exact wf_checkWord ‹_› (by assumption)
    | exact eff_gTiles ‹_› (by simp [*])
    | exact eff_slotAt ‹_› (by simp [*])
    | exact eff_slotArray ‹_› (by simp [*])
    | exact eff_sideRows ‹_› (by simp [*])
    | exact eff_postDest ‹_› (by simp [*])
    | exact eff_vecReady ‹_› (by simp [*])

@[simp] theorem wf_execNop (y : Bool) (s : State) (hw : memoryWf s.ms.mem = true) : outWf (execNop y s) := by
  unfold execNop
  (try dsimp only)
  refine wf_issue _ _ _ hw ?_
  intro t v ht
  (try dsimp only)
  repeat' (first
    | trivial
    | assumption
    | (with_reducible refine eff_access (by assumption) ?_; intro _ _ _; (try dsimp only))
    | (with_reducible refine eff_readBlock (by first | assumption | (simp (maxDischargeDepth := 9) [*]; done)) ?_; intro _ _ _; (try dsimp only))
    | (with_reducible refine eff_accessStay (by assumption) ?_; intro _ _ _; (try dsimp only))
    | (with_reducible refine eff_cmdTile (by assumption) ?_; intro _; (try dsimp only))
    | (with_reducible refine eff_cmdVector ?_; intro _; (try dsimp only))
    | (with_reducible exact eff_handlerTile (by assumption))
    | (with_reducible refine eff_goTo ?_)
    | (with_reducible exact eff_doWait (by assumption))
    | (with_reducible exact eff_startLoop (by assumption))
    | (with_reducible exact eff_setMask (by assumption))
    | (with_reducible exact eff_hand (by assumption))
    | (with_reducible exact eff_openIndex (by assumption))
    | (exact eff_rewriteEntry (by simp (maxDischargeDepth := 9) [*]))
    | split)
  all_goals first
    | (simp (maxDischargeDepth := 9) [effWf, *]; done)
    | (simp (maxDischargeDepth := 9) [*]; done)
    | exact wf_chkIf ‹_› (by assumption)
    | exact wf_checkWord ‹_› (by assumption)
    | exact eff_gTiles ‹_› (by simp [*])
    | exact eff_slotAt ‹_› (by simp [*])
    | exact eff_slotArray ‹_› (by simp [*])
    | exact eff_sideRows ‹_› (by simp [*])
    | exact eff_postDest ‹_› (by simp [*])
    | exact eff_vecReady ‹_› (by simp [*])

@[simp] theorem wf_execTrap (y : Bool) (n : BitVec 6) (s : State) (hw : memoryWf s.ms.mem = true) : outWf (execTrap y n s) := by
  unfold execTrap
  (try dsimp only)
  refine wf_issue _ _ _ hw ?_
  intro t v ht
  (try dsimp only)
  repeat' (first
    | trivial
    | assumption
    | (with_reducible refine eff_access (by assumption) ?_; intro _ _ _; (try dsimp only))
    | (with_reducible refine eff_readBlock (by first | assumption | (simp (maxDischargeDepth := 9) [*]; done)) ?_; intro _ _ _; (try dsimp only))
    | (with_reducible refine eff_accessStay (by assumption) ?_; intro _ _ _; (try dsimp only))
    | (with_reducible refine eff_cmdTile (by assumption) ?_; intro _; (try dsimp only))
    | (with_reducible refine eff_cmdVector ?_; intro _; (try dsimp only))
    | (with_reducible exact eff_handlerTile (by assumption))
    | (with_reducible refine eff_goTo ?_)
    | (with_reducible exact eff_doWait (by assumption))
    | (with_reducible exact eff_startLoop (by assumption))
    | (with_reducible exact eff_setMask (by assumption))
    | (with_reducible exact eff_hand (by assumption))
    | (with_reducible exact eff_openIndex (by assumption))
    | (exact eff_rewriteEntry (by simp (maxDischargeDepth := 9) [*]))
    | split)
  all_goals first
    | (simp (maxDischargeDepth := 9) [effWf, *]; done)
    | (simp (maxDischargeDepth := 9) [*]; done)
    | exact wf_chkIf ‹_› (by assumption)
    | exact wf_checkWord ‹_› (by assumption)
    | exact eff_gTiles ‹_› (by simp [*])
    | exact eff_slotAt ‹_› (by simp [*])
    | exact eff_slotArray ‹_› (by simp [*])
    | exact eff_sideRows ‹_› (by simp [*])
    | exact eff_postDest ‹_› (by simp [*])
    | exact eff_vecReady ‹_› (by simp [*])

@[simp] theorem wf_execEret (y : Bool) (s : State) (hw : memoryWf s.ms.mem = true) : outWf (execEret y s) := by
  unfold execEret
  (try dsimp only)
  refine wf_issue _ _ _ hw ?_
  intro t v ht
  (try dsimp only)
  repeat' (first
    | trivial
    | assumption
    | (with_reducible refine eff_access (by assumption) ?_; intro _ _ _; (try dsimp only))
    | (with_reducible refine eff_readBlock (by first | assumption | (simp (maxDischargeDepth := 9) [*]; done)) ?_; intro _ _ _; (try dsimp only))
    | (with_reducible refine eff_accessStay (by assumption) ?_; intro _ _ _; (try dsimp only))
    | (with_reducible refine eff_cmdTile (by assumption) ?_; intro _; (try dsimp only))
    | (with_reducible refine eff_cmdVector ?_; intro _; (try dsimp only))
    | (with_reducible exact eff_handlerTile (by assumption))
    | (with_reducible refine eff_goTo ?_)
    | (with_reducible exact eff_doWait (by assumption))
    | (with_reducible exact eff_startLoop (by assumption))
    | (with_reducible exact eff_setMask (by assumption))
    | (with_reducible exact eff_hand (by assumption))
    | (with_reducible exact eff_openIndex (by assumption))
    | (exact eff_rewriteEntry (by simp (maxDischargeDepth := 9) [*]))
    | split)
  all_goals first
    | (simp (maxDischargeDepth := 9) [effWf, *]; done)
    | (simp (maxDischargeDepth := 9) [*]; done)
    | exact wf_chkIf ‹_› (by assumption)
    | exact wf_checkWord ‹_› (by assumption)
    | exact eff_gTiles ‹_› (by simp [*])
    | exact eff_slotAt ‹_› (by simp [*])
    | exact eff_slotArray ‹_› (by simp [*])
    | exact eff_sideRows ‹_› (by simp [*])
    | exact eff_postDest ‹_› (by simp [*])
    | exact eff_vecReady ‹_› (by simp [*])

@[simp] theorem wf_execHcall (y : Bool) (n : BitVec 6) (s : State) (hw : memoryWf s.ms.mem = true) : outWf (execHcall y n s) := by
  unfold execHcall
  (try dsimp only)
  refine wf_issue _ _ _ hw ?_
  intro t v ht
  (try dsimp only)
  repeat' (first
    | trivial
    | assumption
    | (with_reducible refine eff_access (by assumption) ?_; intro _ _ _; (try dsimp only))
    | (with_reducible refine eff_readBlock (by first | assumption | (simp (maxDischargeDepth := 9) [*]; done)) ?_; intro _ _ _; (try dsimp only))
    | (with_reducible refine eff_accessStay (by assumption) ?_; intro _ _ _; (try dsimp only))
    | (with_reducible refine eff_cmdTile (by assumption) ?_; intro _; (try dsimp only))
    | (with_reducible refine eff_cmdVector ?_; intro _; (try dsimp only))
    | (with_reducible exact eff_handlerTile (by assumption))
    | (with_reducible refine eff_goTo ?_)
    | (with_reducible exact eff_doWait (by assumption))
    | (with_reducible exact eff_startLoop (by assumption))
    | (with_reducible exact eff_setMask (by assumption))
    | (with_reducible exact eff_hand (by assumption))
    | (with_reducible exact eff_openIndex (by assumption))
    | (exact eff_rewriteEntry (by simp (maxDischargeDepth := 9) [*]))
    | split)
  all_goals first
    | (simp (maxDischargeDepth := 9) [effWf, *]; done)
    | (simp (maxDischargeDepth := 9) [*]; done)
    | exact wf_chkIf ‹_› (by assumption)
    | exact wf_checkWord ‹_› (by assumption)
    | exact eff_gTiles ‹_› (by simp [*])
    | exact eff_slotAt ‹_› (by simp [*])
    | exact eff_slotArray ‹_› (by simp [*])
    | exact eff_sideRows ‹_› (by simp [*])
    | exact eff_postDest ‹_› (by simp [*])
    | exact eff_vecReady ‹_› (by simp [*])

@[simp] theorem wf_execTlbinv (y : Bool) (ga : BitVec 4) (la : Bool) (mode : BitVec 2) (scope : BitVec 4) (s : State) (hw : memoryWf s.ms.mem = true) : outWf (execTlbinv y ga la mode scope s) := by
  unfold execTlbinv
  (try dsimp only)
  refine wf_issue _ _ _ hw ?_
  intro t v ht
  (try dsimp only)
  repeat' (first
    | trivial
    | assumption
    | (with_reducible refine eff_access (by assumption) ?_; intro _ _ _; (try dsimp only))
    | (with_reducible refine eff_readBlock (by first | assumption | (simp (maxDischargeDepth := 9) [*]; done)) ?_; intro _ _ _; (try dsimp only))
    | (with_reducible refine eff_accessStay (by assumption) ?_; intro _ _ _; (try dsimp only))
    | (with_reducible refine eff_cmdTile (by assumption) ?_; intro _; (try dsimp only))
    | (with_reducible refine eff_cmdVector ?_; intro _; (try dsimp only))
    | (with_reducible exact eff_handlerTile (by assumption))
    | (with_reducible refine eff_goTo ?_)
    | (with_reducible exact eff_doWait (by assumption))
    | (with_reducible exact eff_startLoop (by assumption))
    | (with_reducible exact eff_setMask (by assumption))
    | (with_reducible exact eff_hand (by assumption))
    | (with_reducible exact eff_openIndex (by assumption))
    | (exact eff_rewriteEntry (by simp (maxDischargeDepth := 9) [*]))
    | split)
  all_goals first
    | (simp (maxDischargeDepth := 9) [effWf, *]; done)
    | (simp (maxDischargeDepth := 9) [*]; done)
    | exact wf_chkIf ‹_› (by assumption)
    | exact wf_checkWord ‹_› (by assumption)
    | exact eff_gTiles ‹_› (by simp [*])
    | exact eff_slotAt ‹_› (by simp [*])
    | exact eff_slotArray ‹_› (by simp [*])
    | exact eff_sideRows ‹_› (by simp [*])
    | exact eff_postDest ‹_› (by simp [*])
    | exact eff_vecReady ‹_› (by simp [*])

@[simp] theorem wf_execCacheop (y : Bool) (ga : BitVec 4) (la : Bool) (op : BitVec 6) (s : State) (hw : memoryWf s.ms.mem = true) : outWf (execCacheop y ga la op s) := by
  unfold execCacheop
  (try dsimp only)
  refine wf_issue _ _ _ hw ?_
  intro t v ht
  (try dsimp only)
  repeat' (first
    | trivial
    | assumption
    | (with_reducible refine eff_access (by assumption) ?_; intro _ _ _; (try dsimp only))
    | (with_reducible refine eff_readBlock (by first | assumption | (simp (maxDischargeDepth := 9) [*]; done)) ?_; intro _ _ _; (try dsimp only))
    | (with_reducible refine eff_accessStay (by assumption) ?_; intro _ _ _; (try dsimp only))
    | (with_reducible refine eff_cmdTile (by assumption) ?_; intro _; (try dsimp only))
    | (with_reducible refine eff_cmdVector ?_; intro _; (try dsimp only))
    | (with_reducible exact eff_handlerTile (by assumption))
    | (with_reducible refine eff_goTo ?_)
    | (with_reducible exact eff_doWait (by assumption))
    | (with_reducible exact eff_startLoop (by assumption))
    | (with_reducible exact eff_setMask (by assumption))
    | (with_reducible exact eff_hand (by assumption))
    | (with_reducible exact eff_openIndex (by assumption))
    | (exact eff_rewriteEntry (by simp (maxDischargeDepth := 9) [*]))
    | split)
  all_goals first
    | (simp (maxDischargeDepth := 9) [effWf, *]; done)
    | (simp (maxDischargeDepth := 9) [*]; done)
    | exact wf_chkIf ‹_› (by assumption)
    | exact wf_checkWord ‹_› (by assumption)
    | exact eff_gTiles ‹_› (by simp [*])
    | exact eff_slotAt ‹_› (by simp [*])
    | exact eff_slotArray ‹_› (by simp [*])
    | exact eff_sideRows ‹_› (by simp [*])
    | exact eff_postDest ‹_› (by simp [*])
    | exact eff_vecReady ‹_› (by simp [*])

@[simp] theorem wf_execImgsave (y : Bool) (ga : BitVec 4) (la : Bool) (s : State) (hw : memoryWf s.ms.mem = true) : outWf (execImgsave y ga la s) := by
  unfold execImgsave
  (try dsimp only)
  refine wf_issue _ _ _ hw ?_
  intro t v ht
  (try dsimp only)
  repeat' (first
    | trivial
    | assumption
    | (with_reducible refine eff_access (by assumption) ?_; intro _ _ _; (try dsimp only))
    | (with_reducible refine eff_readBlock (by first | assumption | (simp (maxDischargeDepth := 9) [*]; done)) ?_; intro _ _ _; (try dsimp only))
    | (with_reducible refine eff_accessStay (by assumption) ?_; intro _ _ _; (try dsimp only))
    | (with_reducible refine eff_cmdTile (by assumption) ?_; intro _; (try dsimp only))
    | (with_reducible refine eff_cmdVector ?_; intro _; (try dsimp only))
    | (with_reducible exact eff_handlerTile (by assumption))
    | (with_reducible refine eff_goTo ?_)
    | (with_reducible exact eff_doWait (by assumption))
    | (with_reducible exact eff_startLoop (by assumption))
    | (with_reducible exact eff_setMask (by assumption))
    | (with_reducible exact eff_hand (by assumption))
    | (with_reducible exact eff_openIndex (by assumption))
    | (exact eff_rewriteEntry (by simp (maxDischargeDepth := 9) [*]))
    | split)
  all_goals first
    | (simp (maxDischargeDepth := 9) [effWf, *]; done)
    | (simp (maxDischargeDepth := 9) [*]; done)
    | exact wf_chkIf ‹_› (by assumption)
    | exact wf_checkWord ‹_› (by assumption)
    | exact eff_gTiles ‹_› (by simp [*])
    | exact eff_slotAt ‹_› (by simp [*])
    | exact eff_slotArray ‹_› (by simp [*])
    | exact eff_sideRows ‹_› (by simp [*])
    | exact eff_postDest ‹_› (by simp [*])
    | exact eff_vecReady ‹_› (by simp [*])

@[simp] theorem wf_execImgload (y : Bool) (ga : BitVec 4) (la : Bool) (s : State) (hw : memoryWf s.ms.mem = true) : outWf (execImgload y ga la s) := by
  unfold execImgload
  (try dsimp only)
  refine wf_issue _ _ _ hw ?_
  intro t v ht
  (try dsimp only)
  repeat' (first
    | trivial
    | assumption
    | (with_reducible refine eff_access (by assumption) ?_; intro _ _ _; (try dsimp only))
    | (with_reducible refine eff_readBlock (by first | assumption | (simp (maxDischargeDepth := 9) [*]; done)) ?_; intro _ _ _; (try dsimp only))
    | (with_reducible refine eff_accessStay (by assumption) ?_; intro _ _ _; (try dsimp only))
    | (with_reducible refine eff_cmdTile (by assumption) ?_; intro _; (try dsimp only))
    | (with_reducible refine eff_cmdVector ?_; intro _; (try dsimp only))
    | (with_reducible exact eff_handlerTile (by assumption))
    | (with_reducible refine eff_goTo ?_)
    | (with_reducible exact eff_doWait (by assumption))
    | (with_reducible exact eff_startLoop (by assumption))
    | (with_reducible exact eff_setMask (by assumption))
    | (with_reducible exact eff_hand (by assumption))
    | (with_reducible exact eff_openIndex (by assumption))
    | (exact eff_rewriteEntry (by simp (maxDischargeDepth := 9) [*]))
    | split)
  all_goals first
    | (simp (maxDischargeDepth := 9) [effWf, *]; done)
    | (simp (maxDischargeDepth := 9) [*]; done)
    | exact wf_chkIf ‹_› (by assumption)
    | exact wf_checkWord ‹_› (by assumption)
    | exact eff_gTiles ‹_› (by simp [*])
    | exact eff_slotAt ‹_› (by simp [*])
    | exact eff_slotArray ‹_› (by simp [*])
    | exact eff_sideRows ‹_› (by simp [*])
    | exact eff_postDest ‹_› (by simp [*])
    | exact eff_vecReady ‹_› (by simp [*])

@[simp] theorem wf_execMfs (y : Bool) (gd : BitVec 4) (r : BitVec 6) (s : State) (hw : memoryWf s.ms.mem = true) : outWf (execMfs y gd r s) := by
  unfold execMfs
  (try dsimp only)
  refine wf_issue _ _ _ hw ?_
  intro t v ht
  (try dsimp only)
  repeat' (first
    | trivial
    | assumption
    | (with_reducible refine eff_access (by assumption) ?_; intro _ _ _; (try dsimp only))
    | (with_reducible refine eff_readBlock (by first | assumption | (simp (maxDischargeDepth := 9) [*]; done)) ?_; intro _ _ _; (try dsimp only))
    | (with_reducible refine eff_accessStay (by assumption) ?_; intro _ _ _; (try dsimp only))
    | (with_reducible refine eff_cmdTile (by assumption) ?_; intro _; (try dsimp only))
    | (with_reducible refine eff_cmdVector ?_; intro _; (try dsimp only))
    | (with_reducible exact eff_handlerTile (by assumption))
    | (with_reducible refine eff_goTo ?_)
    | (with_reducible exact eff_doWait (by assumption))
    | (with_reducible exact eff_startLoop (by assumption))
    | (with_reducible exact eff_setMask (by assumption))
    | (with_reducible exact eff_hand (by assumption))
    | (with_reducible exact eff_openIndex (by assumption))
    | (exact eff_rewriteEntry (by simp (maxDischargeDepth := 9) [*]))
    | split)
  all_goals first
    | (simp (maxDischargeDepth := 9) [effWf, *]; done)
    | (simp (maxDischargeDepth := 9) [*]; done)
    | exact wf_chkIf ‹_› (by assumption)
    | exact wf_checkWord ‹_› (by assumption)
    | exact eff_gTiles ‹_› (by simp [*])
    | exact eff_slotAt ‹_› (by simp [*])
    | exact eff_slotArray ‹_› (by simp [*])
    | exact eff_sideRows ‹_› (by simp [*])
    | exact eff_postDest ‹_› (by simp [*])
    | exact eff_vecReady ‹_› (by simp [*])

@[simp] theorem wf_execMts (y : Bool) (ga : BitVec 4) (la : Bool) (r : BitVec 6) (s : State) (hw : memoryWf s.ms.mem = true) : outWf (execMts y ga la r s) := by
  unfold execMts
  (try dsimp only)
  refine wf_issue _ _ _ hw ?_
  intro t v ht
  (try dsimp only)
  repeat' (first
    | trivial
    | assumption
    | (with_reducible refine eff_access (by assumption) ?_; intro _ _ _; (try dsimp only))
    | (with_reducible refine eff_readBlock (by first | assumption | (simp (maxDischargeDepth := 9) [*]; done)) ?_; intro _ _ _; (try dsimp only))
    | (with_reducible refine eff_accessStay (by assumption) ?_; intro _ _ _; (try dsimp only))
    | (with_reducible refine eff_cmdTile (by assumption) ?_; intro _; (try dsimp only))
    | (with_reducible refine eff_cmdVector ?_; intro _; (try dsimp only))
    | (with_reducible exact eff_handlerTile (by assumption))
    | (with_reducible refine eff_goTo ?_)
    | (with_reducible exact eff_doWait (by assumption))
    | (with_reducible exact eff_startLoop (by assumption))
    | (with_reducible exact eff_setMask (by assumption))
    | (with_reducible exact eff_hand (by assumption))
    | (with_reducible exact eff_openIndex (by assumption))
    | (exact eff_rewriteEntry (by simp (maxDischargeDepth := 9) [*]))
    | split)
  all_goals first
    | (simp (maxDischargeDepth := 9) [effWf, *]; done)
    | (simp (maxDischargeDepth := 9) [*]; done)
    | exact wf_chkIf ‹_› (by assumption)
    | exact wf_checkWord ‹_› (by assumption)
    | exact eff_gTiles ‹_› (by simp [*])
    | exact eff_slotAt ‹_› (by simp [*])
    | exact eff_slotArray ‹_› (by simp [*])
    | exact eff_sideRows ‹_› (by simp [*])
    | exact eff_postDest ‹_› (by simp [*])
    | exact eff_vecReady ‹_› (by simp [*])

@[simp] theorem wf_execErd (y : Bool) (gd : BitVec 4) (eng : BitVec 4) (r : BitVec 10) (s : State) (hw : memoryWf s.ms.mem = true) : outWf (execErd y gd eng r s) := by
  unfold execErd
  (try dsimp only)
  refine wf_issue _ _ _ hw ?_
  intro t v ht
  (try dsimp only)
  repeat' (first
    | trivial
    | assumption
    | (with_reducible refine eff_access (by assumption) ?_; intro _ _ _; (try dsimp only))
    | (with_reducible refine eff_readBlock (by first | assumption | (simp (maxDischargeDepth := 9) [*]; done)) ?_; intro _ _ _; (try dsimp only))
    | (with_reducible refine eff_accessStay (by assumption) ?_; intro _ _ _; (try dsimp only))
    | (with_reducible refine eff_cmdTile (by assumption) ?_; intro _; (try dsimp only))
    | (with_reducible refine eff_cmdVector ?_; intro _; (try dsimp only))
    | (with_reducible exact eff_handlerTile (by assumption))
    | (with_reducible refine eff_goTo ?_)
    | (with_reducible exact eff_doWait (by assumption))
    | (with_reducible exact eff_startLoop (by assumption))
    | (with_reducible exact eff_setMask (by assumption))
    | (with_reducible exact eff_hand (by assumption))
    | (with_reducible exact eff_openIndex (by assumption))
    | (exact eff_rewriteEntry (by simp (maxDischargeDepth := 9) [*]))
    | split)
  all_goals first
    | (simp (maxDischargeDepth := 9) [effWf, *]; done)
    | (simp (maxDischargeDepth := 9) [*]; done)
    | exact wf_chkIf ‹_› (by assumption)
    | exact wf_checkWord ‹_› (by assumption)
    | exact eff_gTiles ‹_› (by simp [*])
    | exact eff_slotAt ‹_› (by simp [*])
    | exact eff_slotArray ‹_› (by simp [*])
    | exact eff_sideRows ‹_› (by simp [*])
    | exact eff_postDest ‹_› (by simp [*])
    | exact eff_vecReady ‹_› (by simp [*])

@[simp] theorem wf_execEwr (y : Bool) (ga : BitVec 4) (la : Bool) (eng : BitVec 4) (r : BitVec 10) (s : State) (hw : memoryWf s.ms.mem = true) : outWf (execEwr y ga la eng r s) := by
  unfold execEwr
  (try dsimp only)
  refine wf_issue _ _ _ hw ?_
  intro t v ht
  (try dsimp only)
  repeat' (first
    | trivial
    | assumption
    | (with_reducible refine eff_access (by assumption) ?_; intro _ _ _; (try dsimp only))
    | (with_reducible refine eff_readBlock (by first | assumption | (simp (maxDischargeDepth := 9) [*]; done)) ?_; intro _ _ _; (try dsimp only))
    | (with_reducible refine eff_accessStay (by assumption) ?_; intro _ _ _; (try dsimp only))
    | (with_reducible refine eff_cmdTile (by assumption) ?_; intro _; (try dsimp only))
    | (with_reducible refine eff_cmdVector ?_; intro _; (try dsimp only))
    | (with_reducible exact eff_handlerTile (by assumption))
    | (with_reducible refine eff_goTo ?_)
    | (with_reducible exact eff_doWait (by assumption))
    | (with_reducible exact eff_startLoop (by assumption))
    | (with_reducible exact eff_setMask (by assumption))
    | (with_reducible exact eff_hand (by assumption))
    | (with_reducible exact eff_openIndex (by assumption))
    | (exact eff_rewriteEntry (by simp (maxDischargeDepth := 9) [*]))
    | split)
  all_goals first
    | (simp (maxDischargeDepth := 9) [effWf, *]; done)
    | (simp (maxDischargeDepth := 9) [*]; done)
    | exact wf_chkIf ‹_› (by assumption)
    | exact wf_checkWord ‹_› (by assumption)
    | exact eff_gTiles ‹_› (by simp [*])
    | exact eff_slotAt ‹_› (by simp [*])
    | exact eff_slotArray ‹_› (by simp [*])
    | exact eff_sideRows ‹_› (by simp [*])
    | exact eff_postDest ‹_› (by simp [*])
    | exact eff_vecReady ‹_› (by simp [*])

@[simp] theorem wf_execFmt (y : Bool) (fa : BitVec 4) (fb : BitVec 4) (fd : BitVec 4) (smode : BitVec 2) (stile : BitVec 6) (fz : Bool) (sat : Bool) (s : State) (hw : memoryWf s.ms.mem = true) : outWf (execFmt y fa fb fd smode stile fz sat s) := by
  unfold execFmt
  (try dsimp only)
  refine wf_issue _ _ _ hw ?_
  intro t v ht
  (try dsimp only)
  repeat' (first
    | trivial
    | assumption
    | (with_reducible refine eff_access (by assumption) ?_; intro _ _ _; (try dsimp only))
    | (with_reducible refine eff_readBlock (by first | assumption | (simp (maxDischargeDepth := 9) [*]; done)) ?_; intro _ _ _; (try dsimp only))
    | (with_reducible refine eff_accessStay (by assumption) ?_; intro _ _ _; (try dsimp only))
    | (with_reducible refine eff_cmdTile (by assumption) ?_; intro _; (try dsimp only))
    | (with_reducible refine eff_cmdVector ?_; intro _; (try dsimp only))
    | (with_reducible exact eff_handlerTile (by assumption))
    | (with_reducible refine eff_goTo ?_)
    | (with_reducible exact eff_doWait (by assumption))
    | (with_reducible exact eff_startLoop (by assumption))
    | (with_reducible exact eff_setMask (by assumption))
    | (with_reducible exact eff_hand (by assumption))
    | (with_reducible exact eff_openIndex (by assumption))
    | (exact eff_rewriteEntry (by simp (maxDischargeDepth := 9) [*]))
    | split)
  all_goals first
    | (simp (maxDischargeDepth := 9) [effWf, *]; done)
    | (simp (maxDischargeDepth := 9) [*]; done)
    | exact wf_chkIf ‹_› (by assumption)
    | exact wf_checkWord ‹_› (by assumption)
    | exact eff_gTiles ‹_› (by simp [*])
    | exact eff_slotAt ‹_› (by simp [*])
    | exact eff_slotArray ‹_› (by simp [*])
    | exact eff_sideRows ‹_› (by simp [*])
    | exact eff_postDest ‹_› (by simp [*])
    | exact eff_vecReady ‹_› (by simp [*])

@[simp] theorem wf_vecExec (i : Sys2Proof.Instr) (y : Bool) (op : VOp) (s : State) (hw : memoryWf s.ms.mem = true) : outWf (vecExec i y op s) := by
  unfold vecExec
  (try dsimp only)
  refine wf_issue _ _ _ hw ?_
  intro t v ht
  (try dsimp only)
  repeat' (first
    | trivial
    | assumption
    | (with_reducible refine eff_access (by assumption) ?_; intro _ _ _; (try dsimp only))
    | (with_reducible refine eff_readBlock (by first | assumption | (simp (maxDischargeDepth := 9) [*]; done)) ?_; intro _ _ _; (try dsimp only))
    | (with_reducible refine eff_accessStay (by assumption) ?_; intro _ _ _; (try dsimp only))
    | (with_reducible refine eff_cmdTile (by assumption) ?_; intro _; (try dsimp only))
    | (with_reducible refine eff_cmdVector ?_; intro _; (try dsimp only))
    | (with_reducible exact eff_handlerTile (by assumption))
    | (with_reducible refine eff_goTo ?_)
    | (with_reducible exact eff_doWait (by assumption))
    | (with_reducible exact eff_startLoop (by assumption))
    | (with_reducible exact eff_setMask (by assumption))
    | (with_reducible exact eff_hand (by assumption))
    | (with_reducible exact eff_openIndex (by assumption))
    | (exact eff_rewriteEntry (by simp (maxDischargeDepth := 9) [*]))
    | split)
  all_goals first
    | (simp (maxDischargeDepth := 9) [effWf, *]; done)
    | (simp (maxDischargeDepth := 9) [*]; done)
    | exact wf_chkIf ‹_› (by assumption)
    | exact wf_checkWord ‹_› (by assumption)
    | exact eff_gTiles ‹_› (by simp [*])
    | exact eff_slotAt ‹_› (by simp [*])
    | exact eff_slotArray ‹_› (by simp [*])
    | exact eff_sideRows ‹_› (by simp [*])
    | exact eff_postDest ‹_› (by simp [*])
    | exact eff_vecReady ‹_› (by simp [*])

@[simp] theorem wf_execVadd (y : Bool) (td : BitVec 6) (ta : BitVec 6) (tb : BitVec 6) (s : State) (hw : memoryWf s.ms.mem = true) : outWf (execVadd y td ta tb s) := by
  simp (maxDischargeDepth := 9) [execVadd, hw]

@[simp] theorem wf_execVsub (y : Bool) (td : BitVec 6) (ta : BitVec 6) (tb : BitVec 6) (s : State) (hw : memoryWf s.ms.mem = true) : outWf (execVsub y td ta tb s) := by
  simp (maxDischargeDepth := 9) [execVsub, hw]

@[simp] theorem wf_execVmul (y : Bool) (td : BitVec 6) (ta : BitVec 6) (tb : BitVec 6) (s : State) (hw : memoryWf s.ms.mem = true) : outWf (execVmul y td ta tb s) := by
  simp (maxDischargeDepth := 9) [execVmul, hw]

@[simp] theorem wf_execVdiv (y : Bool) (td : BitVec 6) (ta : BitVec 6) (tb : BitVec 6) (s : State) (hw : memoryWf s.ms.mem = true) : outWf (execVdiv y td ta tb s) := by
  simp (maxDischargeDepth := 9) [execVdiv, hw]

@[simp] theorem wf_execVfma (y : Bool) (td : BitVec 6) (ta : BitVec 6) (tb : BitVec 6) (s : State) (hw : memoryWf s.ms.mem = true) : outWf (execVfma y td ta tb s) := by
  simp (maxDischargeDepth := 9) [execVfma, hw]

@[simp] theorem wf_execVmin (y : Bool) (td : BitVec 6) (ta : BitVec 6) (tb : BitVec 6) (s : State) (hw : memoryWf s.ms.mem = true) : outWf (execVmin y td ta tb s) := by
  simp (maxDischargeDepth := 9) [execVmin, hw]

@[simp] theorem wf_execVmax (y : Bool) (td : BitVec 6) (ta : BitVec 6) (tb : BitVec 6) (s : State) (hw : memoryWf s.ms.mem = true) : outWf (execVmax y td ta tb s) := by
  simp (maxDischargeDepth := 9) [execVmax, hw]

@[simp] theorem wf_execVabs (y : Bool) (td : BitVec 6) (ta : BitVec 6) (s : State) (hw : memoryWf s.ms.mem = true) : outWf (execVabs y td ta s) := by
  simp (maxDischargeDepth := 9) [execVabs, hw]

@[simp] theorem wf_execVexp (y : Bool) (td : BitVec 6) (ta : BitVec 6) (s : State) (hw : memoryWf s.ms.mem = true) : outWf (execVexp y td ta s) := by
  simp (maxDischargeDepth := 9) [execVexp, hw]

@[simp] theorem wf_execVlog (y : Bool) (td : BitVec 6) (ta : BitVec 6) (s : State) (hw : memoryWf s.ms.mem = true) : outWf (execVlog y td ta s) := by
  simp (maxDischargeDepth := 9) [execVlog, hw]

@[simp] theorem wf_execVsqrt (y : Bool) (td : BitVec 6) (ta : BitVec 6) (s : State) (hw : memoryWf s.ms.mem = true) : outWf (execVsqrt y td ta s) := by
  simp (maxDischargeDepth := 9) [execVsqrt, hw]

@[simp] theorem wf_execVrsqrt (y : Bool) (td : BitVec 6) (ta : BitVec 6) (s : State) (hw : memoryWf s.ms.mem = true) : outWf (execVrsqrt y td ta s) := by
  simp (maxDischargeDepth := 9) [execVrsqrt, hw]

@[simp] theorem wf_execVrcp (y : Bool) (td : BitVec 6) (ta : BitVec 6) (s : State) (hw : memoryWf s.ms.mem = true) : outWf (execVrcp y td ta s) := by
  simp (maxDischargeDepth := 9) [execVrcp, hw]

@[simp] theorem wf_execVtanh (y : Bool) (td : BitVec 6) (ta : BitVec 6) (s : State) (hw : memoryWf s.ms.mem = true) : outWf (execVtanh y td ta s) := by
  simp (maxDischargeDepth := 9) [execVtanh, hw]

@[simp] theorem wf_execVsigm (y : Bool) (td : BitVec 6) (ta : BitVec 6) (s : State) (hw : memoryWf s.ms.mem = true) : outWf (execVsigm y td ta s) := by
  simp (maxDischargeDepth := 9) [execVsigm, hw]

@[simp] theorem wf_execVredAdd (y : Bool) (td : BitVec 6) (ta : BitVec 6) (s : State) (hw : memoryWf s.ms.mem = true) : outWf (execVredAdd y td ta s) := by
  simp (maxDischargeDepth := 9) [execVredAdd, hw]

@[simp] theorem wf_execVredMin (y : Bool) (td : BitVec 6) (ta : BitVec 6) (s : State) (hw : memoryWf s.ms.mem = true) : outWf (execVredMin y td ta s) := by
  simp (maxDischargeDepth := 9) [execVredMin, hw]

@[simp] theorem wf_execVredMax (y : Bool) (td : BitVec 6) (ta : BitVec 6) (s : State) (hw : memoryWf s.ms.mem = true) : outWf (execVredMax y td ta s) := by
  simp (maxDischargeDepth := 9) [execVredMax, hw]

@[simp] theorem wf_execVscanAdd (y : Bool) (td : BitVec 6) (ta : BitVec 6) (s : State) (hw : memoryWf s.ms.mem = true) : outWf (execVscanAdd y td ta s) := by
  simp (maxDischargeDepth := 9) [execVscanAdd, hw]

@[simp] theorem wf_execVscanMax (y : Bool) (td : BitVec 6) (ta : BitVec 6) (s : State) (hw : memoryWf s.ms.mem = true) : outWf (execVscanMax y td ta s) := by
  simp (maxDischargeDepth := 9) [execVscanMax, hw]

@[simp] theorem wf_execVcmpEq (y : Bool) (td : BitVec 6) (ta : BitVec 6) (tb : BitVec 6) (s : State) (hw : memoryWf s.ms.mem = true) : outWf (execVcmpEq y td ta tb s) := by
  simp (maxDischargeDepth := 9) [execVcmpEq, hw]

@[simp] theorem wf_execVcmpLt (y : Bool) (td : BitVec 6) (ta : BitVec 6) (tb : BitVec 6) (s : State) (hw : memoryWf s.ms.mem = true) : outWf (execVcmpLt y td ta tb s) := by
  simp (maxDischargeDepth := 9) [execVcmpLt, hw]

@[simp] theorem wf_execVcmpLe (y : Bool) (td : BitVec 6) (ta : BitVec 6) (tb : BitVec 6) (s : State) (hw : memoryWf s.ms.mem = true) : outWf (execVcmpLe y td ta tb s) := by
  simp (maxDischargeDepth := 9) [execVcmpLe, hw]

@[simp] theorem wf_execVsel (y : Bool) (td : BitVec 6) (ta : BitVec 6) (tb : BitVec 6) (s : State) (hw : memoryWf s.ms.mem = true) : outWf (execVsel y td ta tb s) := by
  simp (maxDischargeDepth := 9) [execVsel, hw]

@[simp] theorem wf_execVbcast (y : Bool) (td : BitVec 6) (ta : BitVec 6) (s : State) (hw : memoryWf s.ms.mem = true) : outWf (execVbcast y td ta s) := by
  simp (maxDischargeDepth := 9) [execVbcast, hw]

@[simp] theorem wf_execVgather (y : Bool) (td : BitVec 6) (ta : BitVec 6) (tb : BitVec 6) (s : State) (hw : memoryWf s.ms.mem = true) : outWf (execVgather y td ta tb s) := by
  simp (maxDischargeDepth := 9) [execVgather, hw]

@[simp] theorem wf_execVscat (y : Bool) (td : BitVec 6) (ta : BitVec 6) (tb : BitVec 6) (s : State) (hw : memoryWf s.ms.mem = true) : outWf (execVscat y td ta tb s) := by
  simp (maxDischargeDepth := 9) [execVscat, hw]

@[simp] theorem wf_execVtrans (y : Bool) (td : BitVec 6) (ta : BitVec 6) (s : State) (hw : memoryWf s.ms.mem = true) : outWf (execVtrans y td ta s) := by
  simp (maxDischargeDepth := 9) [execVtrans, hw]

@[simp] theorem wf_execVcvt (y : Bool) (td : BitVec 6) (ta : BitVec 6) (s : State) (hw : memoryWf s.ms.mem = true) : outWf (execVcvt y td ta s) := by
  simp (maxDischargeDepth := 9) [execVcvt, hw]

@[simp] theorem wf_execVqscale (y : Bool) (td : BitVec 6) (ta : BitVec 6) (s : State) (hw : memoryWf s.ms.mem = true) : outWf (execVqscale y td ta s) := by
  simp (maxDischargeDepth := 9) [execVqscale, hw]

@[simp] theorem wf_execVcbk (y : Bool) (td : BitVec 6) (ta : BitVec 6) (s : State) (hw : memoryWf s.ms.mem = true) : outWf (execVcbk y td ta s) := by
  simp (maxDischargeDepth := 9) [execVcbk, hw]

@[simp] theorem wf_execBarq (y : Bool) (td : BitVec 6) (ta : BitVec 6) (tb : BitVec 6) (s : State) (hw : memoryWf s.ms.mem = true) : outWf (execBarq y td ta tb s) := by
  simp (maxDischargeDepth := 9) [execBarq, hw]

@[simp] theorem wf_execBarqRes (y : Bool) (td : BitVec 6) (ta : BitVec 6) (tb : BitVec 6) (s : State) (hw : memoryWf s.ms.mem = true) : outWf (execBarqRes y td ta tb s) := by
  simp (maxDischargeDepth := 9) [execBarqRes, hw]

@[simp] theorem wf_execTwait (y : Bool) (ta : BitVec 6) (s : State) (hw : memoryWf s.ms.mem = true) : outWf (execTwait y ta s) := by
  unfold execTwait
  (try dsimp only)
  refine wf_issue _ _ _ hw ?_
  intro t v ht
  (try dsimp only)
  repeat' (first
    | trivial
    | assumption
    | (with_reducible refine eff_access (by assumption) ?_; intro _ _ _; (try dsimp only))
    | (with_reducible refine eff_readBlock (by first | assumption | (simp (maxDischargeDepth := 9) [*]; done)) ?_; intro _ _ _; (try dsimp only))
    | (with_reducible refine eff_accessStay (by assumption) ?_; intro _ _ _; (try dsimp only))
    | (with_reducible refine eff_cmdTile (by assumption) ?_; intro _; (try dsimp only))
    | (with_reducible refine eff_cmdVector ?_; intro _; (try dsimp only))
    | (with_reducible exact eff_handlerTile (by assumption))
    | (with_reducible refine eff_goTo ?_)
    | (with_reducible exact eff_doWait (by assumption))
    | (with_reducible exact eff_startLoop (by assumption))
    | (with_reducible exact eff_setMask (by assumption))
    | (with_reducible exact eff_hand (by assumption))
    | (with_reducible exact eff_openIndex (by assumption))
    | (exact eff_rewriteEntry (by simp (maxDischargeDepth := 9) [*]))
    | split)
  all_goals first
    | (simp (maxDischargeDepth := 9) [effWf, *]; done)
    | (simp (maxDischargeDepth := 9) [*]; done)
    | exact wf_chkIf ‹_› (by assumption)
    | exact wf_checkWord ‹_› (by assumption)
    | exact eff_gTiles ‹_› (by simp [*])
    | exact eff_slotAt ‹_› (by simp [*])
    | exact eff_slotArray ‹_› (by simp [*])
    | exact eff_sideRows ‹_› (by simp [*])
    | exact eff_postDest ‹_› (by simp [*])
    | exact eff_vecReady ‹_› (by simp [*])

@[simp] theorem wf_execTdef (y : Bool) (ga : BitVec 4) (la : Bool) (t : BitVec 6) (s : State) (hw : memoryWf s.ms.mem = true) : outWf (execTdef y ga la t s) := by
  unfold execTdef
  (try dsimp only)
  refine wf_issue _ _ _ hw ?_
  intro t v ht
  (try dsimp only)
  repeat' (first
    | trivial
    | assumption
    | (with_reducible refine eff_access (by assumption) ?_; intro _ _ _; (try dsimp only))
    | (with_reducible refine eff_readBlock (by first | assumption | (simp (maxDischargeDepth := 9) [*]; done)) ?_; intro _ _ _; (try dsimp only))
    | (with_reducible refine eff_accessStay (by assumption) ?_; intro _ _ _; (try dsimp only))
    | (with_reducible refine eff_cmdTile (by assumption) ?_; intro _; (try dsimp only))
    | (with_reducible refine eff_cmdVector ?_; intro _; (try dsimp only))
    | (with_reducible exact eff_handlerTile (by assumption))
    | (with_reducible refine eff_goTo ?_)
    | (with_reducible exact eff_doWait (by assumption))
    | (with_reducible exact eff_startLoop (by assumption))
    | (with_reducible exact eff_setMask (by assumption))
    | (with_reducible exact eff_hand (by assumption))
    | (with_reducible exact eff_openIndex (by assumption))
    | (exact eff_rewriteEntry (by simp (maxDischargeDepth := 9) [*]))
    | split)
  all_goals first
    | (simp (maxDischargeDepth := 9) [effWf, *]; done)
    | (simp (maxDischargeDepth := 9) [*]; done)
    | exact wf_chkIf ‹_› (by assumption)
    | exact wf_checkWord ‹_› (by assumption)
    | exact eff_gTiles ‹_› (by simp [*])
    | exact eff_slotAt ‹_› (by simp [*])
    | exact eff_slotArray ‹_› (by simp [*])
    | exact eff_sideRows ‹_› (by simp [*])
    | exact eff_postDest ‹_› (by simp [*])
    | exact eff_vecReady ‹_› (by simp [*])

@[simp] theorem wf_execTstate (y : Bool) (gd : BitVec 4) (set : Bool) (st : BitVec 2) (t : BitVec 6) (s : State) (hw : memoryWf s.ms.mem = true) : outWf (execTstate y gd set st t s) := by
  unfold execTstate
  (try dsimp only)
  refine wf_issue _ _ _ hw ?_
  intro t v ht
  (try dsimp only)
  repeat' (first
    | trivial
    | assumption
    | (with_reducible refine eff_access (by assumption) ?_; intro _ _ _; (try dsimp only))
    | (with_reducible refine eff_readBlock (by first | assumption | (simp (maxDischargeDepth := 9) [*]; done)) ?_; intro _ _ _; (try dsimp only))
    | (with_reducible refine eff_accessStay (by assumption) ?_; intro _ _ _; (try dsimp only))
    | (with_reducible refine eff_cmdTile (by assumption) ?_; intro _; (try dsimp only))
    | (with_reducible refine eff_cmdVector ?_; intro _; (try dsimp only))
    | (with_reducible exact eff_handlerTile (by assumption))
    | (with_reducible refine eff_goTo ?_)
    | (with_reducible exact eff_doWait (by assumption))
    | (with_reducible exact eff_startLoop (by assumption))
    | (with_reducible exact eff_setMask (by assumption))
    | (with_reducible exact eff_hand (by assumption))
    | (with_reducible exact eff_openIndex (by assumption))
    | (exact eff_rewriteEntry (by simp (maxDischargeDepth := 9) [*]))
    | split)
  all_goals first
    | (simp (maxDischargeDepth := 9) [effWf, *]; done)
    | (simp (maxDischargeDepth := 9) [*]; done)
    | exact wf_chkIf ‹_› (by assumption)
    | exact wf_checkWord ‹_› (by assumption)
    | exact eff_gTiles ‹_› (by simp [*])
    | exact eff_slotAt ‹_› (by simp [*])
    | exact eff_slotArray ‹_› (by simp [*])
    | exact eff_sideRows ‹_› (by simp [*])
    | exact eff_postDest ‹_› (by simp [*])
    | exact eff_vecReady ‹_› (by simp [*])

@[simp] theorem wf_execCbld (y : Bool) (ga : BitVec 4) (la : Bool) (s : State) (hw : memoryWf s.ms.mem = true) : outWf (execCbld y ga la s) := by
  unfold execCbld
  (try dsimp only)
  refine wf_issue _ _ _ hw ?_
  intro t v ht
  (try dsimp only)
  repeat' (first
    | trivial
    | assumption
    | (with_reducible refine eff_access (by assumption) ?_; intro _ _ _; (try dsimp only))
    | (with_reducible refine eff_readBlock (by first | assumption | (simp (maxDischargeDepth := 9) [*]; done)) ?_; intro _ _ _; (try dsimp only))
    | (with_reducible refine eff_accessStay (by assumption) ?_; intro _ _ _; (try dsimp only))
    | (with_reducible refine eff_cmdTile (by assumption) ?_; intro _; (try dsimp only))
    | (with_reducible refine eff_cmdVector ?_; intro _; (try dsimp only))
    | (with_reducible exact eff_handlerTile (by assumption))
    | (with_reducible refine eff_goTo ?_)
    | (with_reducible exact eff_doWait (by assumption))
    | (with_reducible exact eff_startLoop (by assumption))
    | (with_reducible exact eff_setMask (by assumption))
    | (with_reducible exact eff_hand (by assumption))
    | (with_reducible exact eff_openIndex (by assumption))
    | (exact eff_rewriteEntry (by simp (maxDischargeDepth := 9) [*]))
    | split)
  all_goals first
    | (simp (maxDischargeDepth := 9) [effWf, *]; done)
    | (simp (maxDischargeDepth := 9) [*]; done)
    | exact wf_chkIf ‹_› (by assumption)
    | exact wf_checkWord ‹_› (by assumption)
    | exact eff_gTiles ‹_› (by simp [*])
    | exact eff_slotAt ‹_› (by simp [*])
    | exact eff_slotArray ‹_› (by simp [*])
    | exact eff_sideRows ‹_› (by simp [*])
    | exact eff_postDest ‹_› (by simp [*])
    | exact eff_vecReady ‹_› (by simp [*])

@[simp] theorem wf_execGmsg (y : Bool) (gd : BitVec 4) (ga : BitVec 4) (la : Bool) (s : State) (hw : memoryWf s.ms.mem = true) : outWf (execGmsg y gd ga la s) := by
  unfold execGmsg
  refine wf_issue _ _ _ hw ?_
  intro t v ht
  dsimp only
  split
  · exact eff_handlerTile ht
  split
  · trivial
  refine eff_readBlock ht ?_
  intro t ws ht
  split
  · trivial
  generalize (if (gDesc ws).flags = 1 then (gDesc ws).dj else (gDesc ws).di) = di
  generalize (if (gDesc ws).flags = 1 then (gDesc ws).di else (gDesc ws).dj) = dj
  split
  · exact eff_gTiles ‹_› ht
  rename_i x z hx
  split
  · exact eff_slotAt ‹_› ht
  rename_i pas hp
  refine eff_withHeader ht fun u hdr hu => ?_
  split
  · trivial
  split
  · trivial
  · trivial
  split
  · trivial
  split
  · exact hu
  · exact eff_sendSlot (by rw [mem_freshId]; exact hu)

@[simp] theorem wf_execGbel (y : Bool) (gd : BitVec 4) (ga : BitVec 4) (la : Bool) (s : State) (hw : memoryWf s.ms.mem = true) : outWf (execGbel y gd ga la s) := by
  unfold execGbel
  refine wf_issue _ _ _ hw ?_
  intro t v ht
  dsimp only
  split
  · exact eff_handlerTile ht
  split
  · trivial
  refine eff_readBlock ht ?_
  intro t ws ht
  split
  · trivial
  split
  · exact eff_gTiles ‹_› ht
  split
  · exact eff_slotArray ‹_› ht
  refine eff_slotHeaders ht fun u b hu => ?_
  split
  · trivial
  · exact eff_beliefEff _ _ _ _ _ _ _ hu

@[simp] theorem wf_execGmarg (y : Bool) (gd : BitVec 4) (ga : BitVec 4) (la : Bool) (s : State) (hw : memoryWf s.ms.mem = true) : outWf (execGmarg y gd ga la s) := by
  unfold execGmarg
  (try dsimp only)
  refine wf_issue _ _ _ hw ?_
  intro t v ht
  (try dsimp only)
  repeat' (first
    | trivial
    | assumption
    | (with_reducible refine eff_access (by assumption) ?_; intro _ _ _; (try dsimp only))
    | (with_reducible refine eff_readBlock (by first | assumption | (simp (maxDischargeDepth := 9) [*]; done)) ?_; intro _ _ _; (try dsimp only))
    | (with_reducible refine eff_accessStay (by assumption) ?_; intro _ _ _; (try dsimp only))
    | (with_reducible refine eff_cmdTile (by assumption) ?_; intro _; (try dsimp only))
    | (with_reducible refine eff_cmdVector ?_; intro _; (try dsimp only))
    | (with_reducible exact eff_handlerTile (by assumption))
    | (with_reducible refine eff_goTo ?_)
    | (with_reducible exact eff_doWait (by assumption))
    | (with_reducible exact eff_startLoop (by assumption))
    | (with_reducible exact eff_setMask (by assumption))
    | (with_reducible exact eff_hand (by assumption))
    | (with_reducible exact eff_openIndex (by assumption))
    | (exact eff_rewriteEntry (by simp (maxDischargeDepth := 9) [*]))
    | split)
  all_goals first
    | (simp (maxDischargeDepth := 9) [effWf, *]; done)
    | (simp (maxDischargeDepth := 9) [*]; done)
    | exact wf_chkIf ‹_› (by assumption)
    | exact wf_checkWord ‹_› (by assumption)
    | exact eff_gTiles ‹_› (by simp [*])
    | exact eff_slotAt ‹_› (by simp [*])
    | exact eff_slotArray ‹_› (by simp [*])
    | exact eff_sideRows ‹_› (by simp [*])
    | exact eff_postDest ‹_› (by simp [*])
    | exact eff_vecReady ‹_› (by simp [*])

@[simp] theorem wf_matrixExec (i : Sys2Proof.Instr) (y : Bool) (fn : Nat) (ta : Option Nat) (tb : Option Nat) (td : Option Nat) (s : State) (hw : memoryWf s.ms.mem = true) : outWf (matrixExec i y fn ta tb td s) := by
  unfold matrixExec
  refine wf_issue _ _ _ hw ?_
  intro t v ht
  dsimp only
  generalize (matrixNamesOf t _ fn ta tb td _ _ _) = x
  split
  · trivial
  · split
    · exact ht
    · split
      · trivial
      · split
        · exact ht
        · exact eff_hand ht

@[simp] theorem wf_execMma (y : Bool) (ta : BitVec 6) (tb : BitVec 6) (s : State) (hw : memoryWf s.ms.mem = true) : outWf (execMma y ta tb s) := by
  simp (maxDischargeDepth := 9) [execMma, hw]

@[simp] theorem wf_execMmas (y : Bool) (td : BitVec 6) (ta : BitVec 6) (tb : BitVec 6) (s : State) (hw : memoryWf s.ms.mem = true) : outWf (execMmas y td ta tb s) := by
  simp (maxDischargeDepth := 9) [execMmas, hw]

@[simp] theorem wf_execMzero (y : Bool) (s : State) (hw : memoryWf s.ms.mem = true) : outWf (execMzero y s) := by
  simp (maxDischargeDepth := 9) [execMzero, hw]

@[simp] theorem wf_execMacc (y : Bool) (ta : BitVec 6) (s : State) (hw : memoryWf s.ms.mem = true) : outWf (execMacc y ta s) := by
  simp (maxDischargeDepth := 9) [execMacc, hw]

@[simp] theorem wf_execMst (y : Bool) (td : BitVec 6) (s : State) (hw : memoryWf s.ms.mem = true) : outWf (execMst y td s) := by
  simp (maxDischargeDepth := 9) [execMst, hw]

@[simp] theorem wf_execMlease (y : Bool) (bound : BitVec 8) (s : State) (hw : memoryWf s.ms.mem = true) : outWf (execMlease y bound s) := by
  unfold execMlease
  (try dsimp only)
  refine wf_issue _ _ _ hw ?_
  intro t v ht
  (try dsimp only)
  repeat' (first
    | trivial
    | assumption
    | (with_reducible refine eff_access (by assumption) ?_; intro _ _ _; (try dsimp only))
    | (with_reducible refine eff_readBlock (by first | assumption | (simp (maxDischargeDepth := 9) [*]; done)) ?_; intro _ _ _; (try dsimp only))
    | (with_reducible refine eff_accessStay (by assumption) ?_; intro _ _ _; (try dsimp only))
    | (with_reducible refine eff_cmdTile (by assumption) ?_; intro _; (try dsimp only))
    | (with_reducible refine eff_cmdVector ?_; intro _; (try dsimp only))
    | (with_reducible exact eff_handlerTile (by assumption))
    | (with_reducible refine eff_goTo ?_)
    | (with_reducible exact eff_doWait (by assumption))
    | (with_reducible exact eff_startLoop (by assumption))
    | (with_reducible exact eff_setMask (by assumption))
    | (with_reducible exact eff_hand (by assumption))
    | (with_reducible exact eff_openIndex (by assumption))
    | (exact eff_rewriteEntry (by simp (maxDischargeDepth := 9) [*]))
    | split)
  all_goals first
    | (simp (maxDischargeDepth := 9) [effWf, *]; done)
    | (simp (maxDischargeDepth := 9) [*]; done)
    | exact wf_chkIf ‹_› (by assumption)
    | exact wf_checkWord ‹_› (by assumption)
    | exact eff_gTiles ‹_› (by simp [*])
    | exact eff_slotAt ‹_› (by simp [*])
    | exact eff_slotArray ‹_› (by simp [*])
    | exact eff_sideRows ‹_› (by simp [*])
    | exact eff_postDest ‹_› (by simp [*])
    | exact eff_vecReady ‹_› (by simp [*])

@[simp] theorem wf_execMrel (y : Bool) (s : State) (hw : memoryWf s.ms.mem = true) : outWf (execMrel y s) := by
  unfold execMrel
  (try dsimp only)
  refine wf_issue _ _ _ hw ?_
  intro t v ht
  (try dsimp only)
  repeat' (first
    | trivial
    | assumption
    | (with_reducible refine eff_access (by assumption) ?_; intro _ _ _; (try dsimp only))
    | (with_reducible refine eff_readBlock (by first | assumption | (simp (maxDischargeDepth := 9) [*]; done)) ?_; intro _ _ _; (try dsimp only))
    | (with_reducible refine eff_accessStay (by assumption) ?_; intro _ _ _; (try dsimp only))
    | (with_reducible refine eff_cmdTile (by assumption) ?_; intro _; (try dsimp only))
    | (with_reducible refine eff_cmdVector ?_; intro _; (try dsimp only))
    | (with_reducible exact eff_handlerTile (by assumption))
    | (with_reducible refine eff_goTo ?_)
    | (with_reducible exact eff_doWait (by assumption))
    | (with_reducible exact eff_startLoop (by assumption))
    | (with_reducible exact eff_setMask (by assumption))
    | (with_reducible exact eff_hand (by assumption))
    | (with_reducible exact eff_openIndex (by assumption))
    | (exact eff_rewriteEntry (by simp (maxDischargeDepth := 9) [*]))
    | split)
  all_goals first
    | (simp (maxDischargeDepth := 9) [effWf, *]; done)
    | (simp (maxDischargeDepth := 9) [*]; done)
    | exact wf_chkIf ‹_› (by assumption)
    | exact wf_checkWord ‹_› (by assumption)
    | exact eff_gTiles ‹_› (by simp [*])
    | exact eff_slotAt ‹_› (by simp [*])
    | exact eff_slotArray ‹_› (by simp [*])
    | exact eff_sideRows ‹_› (by simp [*])
    | exact eff_postDest ‹_› (by simp [*])
    | exact eff_vecReady ‹_› (by simp [*])

@[simp] theorem wf_execMstep (y : Bool) (gd : BitVec 4) (s : State) (hw : memoryWf s.ms.mem = true) : outWf (execMstep y gd s) := by
  unfold execMstep
  (try dsimp only)
  refine wf_issue _ _ _ hw ?_
  intro t v ht
  (try dsimp only)
  repeat' (first
    | trivial
    | assumption
    | (with_reducible refine eff_access (by assumption) ?_; intro _ _ _; (try dsimp only))
    | (with_reducible refine eff_readBlock (by first | assumption | (simp (maxDischargeDepth := 9) [*]; done)) ?_; intro _ _ _; (try dsimp only))
    | (with_reducible refine eff_accessStay (by assumption) ?_; intro _ _ _; (try dsimp only))
    | (with_reducible refine eff_cmdTile (by assumption) ?_; intro _; (try dsimp only))
    | (with_reducible refine eff_cmdVector ?_; intro _; (try dsimp only))
    | (with_reducible exact eff_handlerTile (by assumption))
    | (with_reducible refine eff_goTo ?_)
    | (with_reducible exact eff_doWait (by assumption))
    | (with_reducible exact eff_startLoop (by assumption))
    | (with_reducible exact eff_setMask (by assumption))
    | (with_reducible exact eff_hand (by assumption))
    | (with_reducible exact eff_openIndex (by assumption))
    | (exact eff_rewriteEntry (by simp (maxDischargeDepth := 9) [*]))
    | split)
  all_goals first
    | (simp (maxDischargeDepth := 9) [effWf, *]; done)
    | (simp (maxDischargeDepth := 9) [*]; done)
    | exact wf_chkIf ‹_› (by assumption)
    | exact wf_checkWord ‹_› (by assumption)
    | exact eff_gTiles ‹_› (by simp [*])
    | exact eff_slotAt ‹_› (by simp [*])
    | exact eff_slotArray ‹_› (by simp [*])
    | exact eff_sideRows ‹_› (by simp [*])
    | exact eff_postDest ‹_› (by simp [*])
    | exact eff_vecReady ‹_› (by simp [*])

@[simp] theorem wf_execCpyq (y : Bool) (ga : BitVec 4) (la : Bool) (gb : BitVec 4) (lb : Bool) (nb : Bool) (s : State) (hw : memoryWf s.ms.mem = true) : outWf (execCpyq y ga la gb lb nb s) := by
  unfold execCpyq
  (try dsimp only)
  refine wf_issue _ _ _ hw ?_
  intro t v ht
  (try dsimp only)
  repeat' (first
    | trivial
    | assumption
    | (with_reducible refine eff_access (by assumption) ?_; intro _ _ _; (try dsimp only))
    | (with_reducible refine eff_readBlock (by first | assumption | (simp (maxDischargeDepth := 9) [*]; done)) ?_; intro _ _ _; (try dsimp only))
    | (with_reducible refine eff_accessStay (by assumption) ?_; intro _ _ _; (try dsimp only))
    | (with_reducible refine eff_cmdTile (by assumption) ?_; intro _; (try dsimp only))
    | (with_reducible refine eff_cmdVector ?_; intro _; (try dsimp only))
    | (with_reducible exact eff_handlerTile (by assumption))
    | (with_reducible refine eff_goTo ?_)
    | (with_reducible exact eff_doWait (by assumption))
    | (with_reducible exact eff_startLoop (by assumption))
    | (with_reducible exact eff_setMask (by assumption))
    | (with_reducible exact eff_hand (by assumption))
    | (with_reducible exact eff_openIndex (by assumption))
    | (exact eff_rewriteEntry (by simp (maxDischargeDepth := 9) [*]))
    | split)
  all_goals first
    | (simp (maxDischargeDepth := 9) [effWf, *]; done)
    | (simp (maxDischargeDepth := 9) [*]; done)
    | exact wf_chkIf ‹_› (by assumption)
    | exact wf_checkWord ‹_› (by assumption)
    | exact eff_gTiles ‹_› (by simp [*])
    | exact eff_slotAt ‹_› (by simp [*])
    | exact eff_slotArray ‹_› (by simp [*])
    | exact eff_sideRows ‹_› (by simp [*])
    | exact eff_postDest ‹_› (by simp [*])
    | exact eff_vecReady ‹_› (by simp [*])

@[simp] theorem wf_execKick (y : Bool) (ga : BitVec 4) (la : Bool) (gb : BitVec 4) (lb : Bool) (s : State) (hw : memoryWf s.ms.mem = true) : outWf (execKick y ga la gb lb s) := by
  unfold execKick
  (try dsimp only)
  refine wf_issue _ _ _ hw ?_
  intro t v ht
  (try dsimp only)
  repeat' (first
    | trivial
    | assumption
    | (with_reducible refine eff_access (by assumption) ?_; intro _ _ _; (try dsimp only))
    | (with_reducible refine eff_readBlock (by first | assumption | (simp (maxDischargeDepth := 9) [*]; done)) ?_; intro _ _ _; (try dsimp only))
    | (with_reducible refine eff_accessStay (by assumption) ?_; intro _ _ _; (try dsimp only))
    | (with_reducible refine eff_cmdTile (by assumption) ?_; intro _; (try dsimp only))
    | (with_reducible refine eff_cmdVector ?_; intro _; (try dsimp only))
    | (with_reducible exact eff_handlerTile (by assumption))
    | (with_reducible refine eff_goTo ?_)
    | (with_reducible exact eff_doWait (by assumption))
    | (with_reducible exact eff_startLoop (by assumption))
    | (with_reducible exact eff_setMask (by assumption))
    | (with_reducible exact eff_hand (by assumption))
    | (with_reducible exact eff_openIndex (by assumption))
    | (exact eff_rewriteEntry (by simp (maxDischargeDepth := 9) [*]))
    | split)
  all_goals first
    | (simp (maxDischargeDepth := 9) [effWf, *]; done)
    | (simp (maxDischargeDepth := 9) [*]; done)
    | exact wf_chkIf ‹_› (by assumption)
    | exact wf_checkWord ‹_› (by assumption)
    | exact eff_gTiles ‹_› (by simp [*])
    | exact eff_slotAt ‹_› (by simp [*])
    | exact eff_slotArray ‹_› (by simp [*])
    | exact eff_sideRows ‹_› (by simp [*])
    | exact eff_postDest ‹_› (by simp [*])
    | exact eff_vecReady ‹_› (by simp [*])

@[simp] theorem wf_execCpywait (y : Bool) (s : State) (hw : memoryWf s.ms.mem = true) : outWf (execCpywait y s) := by
  unfold execCpywait
  refine wf_issue _ _ _ hw ?_
  intro t v ht
  dsimp only
  split
  · exact ht
  split
  · split
    · exact ht
    · split <;> simp (maxDischargeDepth := 9) [effWf, ht]
  · simp only [effWf, mem_setCore]
    exact foldl_wf _ _ _ ht fun t x h => by simp [h]

@[simp] theorem wf_execCpystat (y : Bool) (gd : BitVec 4) (s : State) (hw : memoryWf s.ms.mem = true) : outWf (execCpystat y gd s) := by
  unfold execCpystat
  (try dsimp only)
  refine wf_issue _ _ _ hw ?_
  intro t v ht
  (try dsimp only)
  repeat' (first
    | trivial
    | assumption
    | (with_reducible refine eff_access (by assumption) ?_; intro _ _ _; (try dsimp only))
    | (with_reducible refine eff_readBlock (by first | assumption | (simp (maxDischargeDepth := 9) [*]; done)) ?_; intro _ _ _; (try dsimp only))
    | (with_reducible refine eff_accessStay (by assumption) ?_; intro _ _ _; (try dsimp only))
    | (with_reducible refine eff_cmdTile (by assumption) ?_; intro _; (try dsimp only))
    | (with_reducible refine eff_cmdVector ?_; intro _; (try dsimp only))
    | (with_reducible exact eff_handlerTile (by assumption))
    | (with_reducible refine eff_goTo ?_)
    | (with_reducible exact eff_doWait (by assumption))
    | (with_reducible exact eff_startLoop (by assumption))
    | (with_reducible exact eff_setMask (by assumption))
    | (with_reducible exact eff_hand (by assumption))
    | (with_reducible exact eff_openIndex (by assumption))
    | (exact eff_rewriteEntry (by simp (maxDischargeDepth := 9) [*]))
    | split)
  all_goals first
    | (simp (maxDischargeDepth := 9) [effWf, *]; done)
    | (simp (maxDischargeDepth := 9) [*]; done)
    | exact wf_chkIf ‹_› (by assumption)
    | exact wf_checkWord ‹_› (by assumption)
    | exact eff_gTiles ‹_› (by simp [*])
    | exact eff_slotAt ‹_› (by simp [*])
    | exact eff_slotArray ‹_› (by simp [*])
    | exact eff_sideRows ‹_› (by simp [*])
    | exact eff_postDest ‹_› (by simp [*])
    | exact eff_vecReady ‹_› (by simp [*])

@[simp] theorem wf_indexCmd (i : Sys2Proof.Instr) (op : Nat) (y : Bool) (ga : Sys2Proof.Reg) (la : Bool) (gb : Sys2Proof.Reg) (lb : Bool) (s : State) (hw : memoryWf s.ms.mem = true) : outWf (indexCmd i op y ga la gb lb s) := by
  unfold indexCmd
  (try dsimp only)
  refine wf_issue _ _ _ hw ?_
  intro t v ht
  (try dsimp only)
  repeat' (first
    | trivial
    | assumption
    | (with_reducible refine eff_access (by assumption) ?_; intro _ _ _; (try dsimp only))
    | (with_reducible refine eff_readBlock (by first | assumption | (simp (maxDischargeDepth := 9) [*]; done)) ?_; intro _ _ _; (try dsimp only))
    | (with_reducible refine eff_accessStay (by assumption) ?_; intro _ _ _; (try dsimp only))
    | (with_reducible refine eff_cmdTile (by assumption) ?_; intro _; (try dsimp only))
    | (with_reducible refine eff_cmdVector ?_; intro _; (try dsimp only))
    | (with_reducible exact eff_handlerTile (by assumption))
    | (with_reducible refine eff_goTo ?_)
    | (with_reducible exact eff_doWait (by assumption))
    | (with_reducible exact eff_startLoop (by assumption))
    | (with_reducible exact eff_setMask (by assumption))
    | (with_reducible exact eff_hand (by assumption))
    | (with_reducible exact eff_openIndex (by assumption))
    | (exact eff_rewriteEntry (by simp (maxDischargeDepth := 9) [*]))
    | split)
  all_goals first
    | (simp (maxDischargeDepth := 9) [effWf, *]; done)
    | (simp (maxDischargeDepth := 9) [*]; done)
    | exact wf_chkIf ‹_› (by assumption)
    | exact wf_checkWord ‹_› (by assumption)
    | exact eff_gTiles ‹_› (by simp [*])
    | exact eff_slotAt ‹_› (by simp [*])
    | exact eff_slotArray ‹_› (by simp [*])
    | exact eff_sideRows ‹_› (by simp [*])
    | exact eff_postDest ‹_› (by simp [*])
    | exact eff_vecReady ‹_› (by simp [*])

@[simp] theorem wf_execLdnn (y : Bool) (ga : BitVec 4) (la : Bool) (gb : BitVec 4) (lb : Bool) (s : State) (hw : memoryWf s.ms.mem = true) : outWf (execLdnn y ga la gb lb s) := by
  simp (maxDischargeDepth := 9) [execLdnn, hw]

@[simp] theorem wf_execStvec (y : Bool) (ga : BitVec 4) (la : Bool) (gb : BitVec 4) (lb : Bool) (s : State) (hw : memoryWf s.ms.mem = true) : outWf (execStvec y ga la gb lb s) := by
  simp (maxDischargeDepth := 9) [execStvec, hw]

@[simp] theorem wf_execDlvec (y : Bool) (ga : BitVec 4) (la : Bool) (gb : BitVec 4) (lb : Bool) (s : State) (hw : memoryWf s.ms.mem = true) : outWf (execDlvec y ga la gb lb s) := by
  simp (maxDischargeDepth := 9) [execDlvec, hw]

@[simp] theorem wf_execIxopen (y : Bool) (gd : BitVec 4) (ga : BitVec 4) (la : Bool) (s : State) (hw : memoryWf s.ms.mem = true) : outWf (execIxopen y gd ga la s) := by
  unfold execIxopen
  (try dsimp only)
  refine wf_issue _ _ _ hw ?_
  intro t v ht
  (try dsimp only)
  repeat' (first
    | trivial
    | assumption
    | (with_reducible refine eff_access (by assumption) ?_; intro _ _ _; (try dsimp only))
    | (with_reducible refine eff_readBlock (by first | assumption | (simp (maxDischargeDepth := 9) [*]; done)) ?_; intro _ _ _; (try dsimp only))
    | (with_reducible refine eff_accessStay (by assumption) ?_; intro _ _ _; (try dsimp only))
    | (with_reducible refine eff_cmdTile (by assumption) ?_; intro _; (try dsimp only))
    | (with_reducible refine eff_cmdVector ?_; intro _; (try dsimp only))
    | (with_reducible exact eff_handlerTile (by assumption))
    | (with_reducible refine eff_goTo ?_)
    | (with_reducible exact eff_doWait (by assumption))
    | (with_reducible exact eff_startLoop (by assumption))
    | (with_reducible exact eff_setMask (by assumption))
    | (with_reducible exact eff_hand (by assumption))
    | (with_reducible exact eff_openIndex (by assumption))
    | (exact eff_rewriteEntry (by simp (maxDischargeDepth := 9) [*]))
    | split)
  all_goals first
    | (simp (maxDischargeDepth := 9) [effWf, *]; done)
    | (simp (maxDischargeDepth := 9) [*]; done)
    | exact wf_chkIf ‹_› (by assumption)
    | exact wf_checkWord ‹_› (by assumption)
    | exact eff_gTiles ‹_› (by simp [*])
    | exact eff_slotAt ‹_› (by simp [*])
    | exact eff_slotArray ‹_› (by simp [*])
    | exact eff_sideRows ‹_› (by simp [*])
    | exact eff_postDest ‹_› (by simp [*])
    | exact eff_vecReady ‹_› (by simp [*])

@[simp] theorem wf_execIxstat (y : Bool) (gd : BitVec 4) (ga : BitVec 4) (la : Bool) (s : State) (hw : memoryWf s.ms.mem = true) : outWf (execIxstat y gd ga la s) := by
  unfold execIxstat
  (try dsimp only)
  refine wf_issue _ _ _ hw ?_
  intro t v ht
  (try dsimp only)
  repeat' (first
    | trivial
    | assumption
    | (with_reducible refine eff_access (by assumption) ?_; intro _ _ _; (try dsimp only))
    | (with_reducible refine eff_readBlock (by first | assumption | (simp (maxDischargeDepth := 9) [*]; done)) ?_; intro _ _ _; (try dsimp only))
    | (with_reducible refine eff_accessStay (by assumption) ?_; intro _ _ _; (try dsimp only))
    | (with_reducible refine eff_cmdTile (by assumption) ?_; intro _; (try dsimp only))
    | (with_reducible refine eff_cmdVector ?_; intro _; (try dsimp only))
    | (with_reducible exact eff_handlerTile (by assumption))
    | (with_reducible refine eff_goTo ?_)
    | (with_reducible exact eff_doWait (by assumption))
    | (with_reducible exact eff_startLoop (by assumption))
    | (with_reducible exact eff_setMask (by assumption))
    | (with_reducible exact eff_hand (by assumption))
    | (with_reducible exact eff_openIndex (by assumption))
    | (exact eff_rewriteEntry (by simp (maxDischargeDepth := 9) [*]))
    | split)
  all_goals first
    | (simp (maxDischargeDepth := 9) [effWf, *]; done)
    | (simp (maxDischargeDepth := 9) [*]; done)
    | exact wf_chkIf ‹_› (by assumption)
    | exact wf_checkWord ‹_› (by assumption)
    | exact eff_gTiles ‹_› (by simp [*])
    | exact eff_slotAt ‹_› (by simp [*])
    | exact eff_slotArray ‹_› (by simp [*])
    | exact eff_sideRows ‹_› (by simp [*])
    | exact eff_postDest ‹_› (by simp [*])
    | exact eff_vecReady ‹_› (by simp [*])

@[simp] theorem wf_execSend (y : Bool) (ga : BitVec 4) (la : Bool) (scope : BitVec 4) (rel : Bool) (s : State) (hw : memoryWf s.ms.mem = true) : outWf (execSend y ga la scope rel s) := by
  unfold execSend
  refine wf_issue _ _ _ hw ?_
  intro t v ht
  dsimp only
  split
  · trivial
  refine eff_readBlock ht ?_
  intro t ws ht
  split
  · trivial
  split
  · trivial
  split
  · trivial
  split
  · trivial
  split
  · exact eff_sideRows ‹_› ht
  split
  · trivial
  · exact wf_chkIf ‹_› ht
  exact eff_sendEff _ _ _ _ _ ht

@[simp] theorem wf_execRpost (y : Bool) (ga : BitVec 4) (la : Bool) (s : State) (hw : memoryWf s.ms.mem = true) : outWf (execRpost y ga la s) := by
  unfold execRpost
  (try dsimp only)
  refine wf_issue _ _ _ hw ?_
  intro t v ht
  (try dsimp only)
  repeat' (first
    | trivial
    | assumption
    | (with_reducible refine eff_access (by assumption) ?_; intro _ _ _; (try dsimp only))
    | (with_reducible refine eff_readBlock (by first | assumption | (simp (maxDischargeDepth := 9) [*]; done)) ?_; intro _ _ _; (try dsimp only))
    | (with_reducible refine eff_accessStay (by assumption) ?_; intro _ _ _; (try dsimp only))
    | (with_reducible refine eff_cmdTile (by assumption) ?_; intro _; (try dsimp only))
    | (with_reducible refine eff_cmdVector ?_; intro _; (try dsimp only))
    | (with_reducible exact eff_handlerTile (by assumption))
    | (with_reducible refine eff_goTo ?_)
    | (with_reducible exact eff_doWait (by assumption))
    | (with_reducible exact eff_startLoop (by assumption))
    | (with_reducible exact eff_setMask (by assumption))
    | (with_reducible exact eff_hand (by assumption))
    | (with_reducible exact eff_openIndex (by assumption))
    | (exact eff_rewriteEntry (by simp (maxDischargeDepth := 9) [*]))
    | split)
  all_goals first
    | (simp (maxDischargeDepth := 9) [effWf, *]; done)
    | (simp (maxDischargeDepth := 9) [*]; done)
    | exact wf_chkIf ‹_› (by assumption)
    | exact wf_checkWord ‹_› (by assumption)
    | exact eff_gTiles ‹_› (by simp [*])
    | exact eff_slotAt ‹_› (by simp [*])
    | exact eff_slotArray ‹_› (by simp [*])
    | exact eff_sideRows ‹_› (by simp [*])
    | exact eff_postDest ‹_› (by simp [*])
    | exact eff_vecReady ‹_› (by simp [*])

@[simp] theorem wf_execRcancel (y : Bool) (ga : BitVec 4) (la : Bool) (s : State) (hw : memoryWf s.ms.mem = true) : outWf (execRcancel y ga la s) := by
  unfold execRcancel
  (try dsimp only)
  refine wf_issue _ _ _ hw ?_
  intro t v ht
  (try dsimp only)
  repeat' (first
    | trivial
    | assumption
    | (with_reducible refine eff_access (by assumption) ?_; intro _ _ _; (try dsimp only))
    | (with_reducible refine eff_readBlock (by first | assumption | (simp (maxDischargeDepth := 9) [*]; done)) ?_; intro _ _ _; (try dsimp only))
    | (with_reducible refine eff_accessStay (by assumption) ?_; intro _ _ _; (try dsimp only))
    | (with_reducible refine eff_cmdTile (by assumption) ?_; intro _; (try dsimp only))
    | (with_reducible refine eff_cmdVector ?_; intro _; (try dsimp only))
    | (with_reducible exact eff_handlerTile (by assumption))
    | (with_reducible refine eff_goTo ?_)
    | (with_reducible exact eff_doWait (by assumption))
    | (with_reducible exact eff_startLoop (by assumption))
    | (with_reducible exact eff_setMask (by assumption))
    | (with_reducible exact eff_hand (by assumption))
    | (with_reducible exact eff_openIndex (by assumption))
    | (exact eff_rewriteEntry (by simp (maxDischargeDepth := 9) [*]))
    | split)
  all_goals first
    | (simp (maxDischargeDepth := 9) [effWf, *]; done)
    | (simp (maxDischargeDepth := 9) [*]; done)
    | exact wf_chkIf ‹_› (by assumption)
    | exact wf_checkWord ‹_› (by assumption)
    | exact eff_gTiles ‹_› (by simp [*])
    | exact eff_slotAt ‹_› (by simp [*])
    | exact eff_slotArray ‹_› (by simp [*])
    | exact eff_sideRows ‹_› (by simp [*])
    | exact eff_postDest ‹_› (by simp [*])
    | exact eff_vecReady ‹_› (by simp [*])

@[simp] theorem wf_execRprobe (y : Bool) (gd : BitVec 4) (ga : BitVec 4) (la : Bool) (s : State) (hw : memoryWf s.ms.mem = true) : outWf (execRprobe y gd ga la s) := by
  unfold execRprobe
  (try dsimp only)
  refine wf_issue _ _ _ hw ?_
  intro t v ht
  (try dsimp only)
  repeat' (first
    | trivial
    | assumption
    | (with_reducible refine eff_access (by assumption) ?_; intro _ _ _; (try dsimp only))
    | (with_reducible refine eff_readBlock (by first | assumption | (simp (maxDischargeDepth := 9) [*]; done)) ?_; intro _ _ _; (try dsimp only))
    | (with_reducible refine eff_accessStay (by assumption) ?_; intro _ _ _; (try dsimp only))
    | (with_reducible refine eff_cmdTile (by assumption) ?_; intro _; (try dsimp only))
    | (with_reducible refine eff_cmdVector ?_; intro _; (try dsimp only))
    | (with_reducible exact eff_handlerTile (by assumption))
    | (with_reducible refine eff_goTo ?_)
    | (with_reducible exact eff_doWait (by assumption))
    | (with_reducible exact eff_startLoop (by assumption))
    | (with_reducible exact eff_setMask (by assumption))
    | (with_reducible exact eff_hand (by assumption))
    | (with_reducible exact eff_openIndex (by assumption))
    | (exact eff_rewriteEntry (by simp (maxDischargeDepth := 9) [*]))
    | split)
  all_goals first
    | (simp (maxDischargeDepth := 9) [effWf, *]; done)
    | (simp (maxDischargeDepth := 9) [*]; done)
    | exact wf_chkIf ‹_› (by assumption)
    | exact wf_checkWord ‹_› (by assumption)
    | exact eff_gTiles ‹_› (by simp [*])
    | exact eff_slotAt ‹_› (by simp [*])
    | exact eff_slotArray ‹_› (by simp [*])
    | exact eff_sideRows ‹_› (by simp [*])
    | exact eff_postDest ‹_› (by simp [*])
    | exact eff_vecReady ‹_› (by simp [*])

@[simp] theorem wf_execRstat (y : Bool) (gd : BitVec 4) (ga : BitVec 4) (la : Bool) (s : State) (hw : memoryWf s.ms.mem = true) : outWf (execRstat y gd ga la s) := by
  unfold execRstat
  (try dsimp only)
  refine wf_issue _ _ _ hw ?_
  intro t v ht
  (try dsimp only)
  repeat' (first
    | trivial
    | assumption
    | (with_reducible refine eff_access (by assumption) ?_; intro _ _ _; (try dsimp only))
    | (with_reducible refine eff_readBlock (by first | assumption | (simp (maxDischargeDepth := 9) [*]; done)) ?_; intro _ _ _; (try dsimp only))
    | (with_reducible refine eff_accessStay (by assumption) ?_; intro _ _ _; (try dsimp only))
    | (with_reducible refine eff_cmdTile (by assumption) ?_; intro _; (try dsimp only))
    | (with_reducible refine eff_cmdVector ?_; intro _; (try dsimp only))
    | (with_reducible exact eff_handlerTile (by assumption))
    | (with_reducible refine eff_goTo ?_)
    | (with_reducible exact eff_doWait (by assumption))
    | (with_reducible exact eff_startLoop (by assumption))
    | (with_reducible exact eff_setMask (by assumption))
    | (with_reducible exact eff_hand (by assumption))
    | (with_reducible exact eff_openIndex (by assumption))
    | (exact eff_rewriteEntry (by simp (maxDischargeDepth := 9) [*]))
    | split)
  all_goals first
    | (simp (maxDischargeDepth := 9) [effWf, *]; done)
    | (simp (maxDischargeDepth := 9) [*]; done)
    | exact wf_chkIf ‹_› (by assumption)
    | exact wf_checkWord ‹_› (by assumption)
    | exact eff_gTiles ‹_› (by simp [*])
    | exact eff_slotAt ‹_› (by simp [*])
    | exact eff_slotArray ‹_› (by simp [*])
    | exact eff_sideRows ‹_› (by simp [*])
    | exact eff_postDest ‹_› (by simp [*])
    | exact eff_vecReady ‹_› (by simp [*])

@[simp] theorem wf_execAmsg (y : Bool) (ga : BitVec 4) (la : Bool) (gb : BitVec 4) (lb : Bool) (scope : BitVec 4) (rel : Bool) (s : State) (hw : memoryWf s.ms.mem = true) : outWf (execAmsg y ga la gb lb scope rel s) := by
  unfold execAmsg
  (try dsimp only)
  refine wf_issue _ _ _ hw ?_
  intro t v ht
  (try dsimp only)
  repeat' (first
    | trivial
    | assumption
    | (with_reducible refine eff_access (by assumption) ?_; intro _ _ _; (try dsimp only))
    | (with_reducible refine eff_readBlock (by first | assumption | (simp (maxDischargeDepth := 9) [*]; done)) ?_; intro _ _ _; (try dsimp only))
    | (with_reducible refine eff_accessStay (by assumption) ?_; intro _ _ _; (try dsimp only))
    | (with_reducible refine eff_cmdTile (by assumption) ?_; intro _; (try dsimp only))
    | (with_reducible refine eff_cmdVector ?_; intro _; (try dsimp only))
    | (with_reducible exact eff_handlerTile (by assumption))
    | (with_reducible refine eff_goTo ?_)
    | (with_reducible exact eff_doWait (by assumption))
    | (with_reducible exact eff_startLoop (by assumption))
    | (with_reducible exact eff_setMask (by assumption))
    | (with_reducible exact eff_hand (by assumption))
    | (with_reducible exact eff_openIndex (by assumption))
    | (exact eff_rewriteEntry (by simp (maxDischargeDepth := 9) [*]))
    | split)
  all_goals first
    | (simp (maxDischargeDepth := 9) [effWf, *]; done)
    | (simp (maxDischargeDepth := 9) [*]; done)
    | exact wf_chkIf ‹_› (by assumption)
    | exact wf_checkWord ‹_› (by assumption)
    | exact eff_gTiles ‹_› (by simp [*])
    | exact eff_slotAt ‹_› (by simp [*])
    | exact eff_slotArray ‹_› (by simp [*])
    | exact eff_sideRows ‹_› (by simp [*])
    | exact eff_postDest ‹_› (by simp [*])
    | exact eff_vecReady ‹_› (by simp [*])

@[simp] theorem wf_execHtset (y : Bool) (ga : BitVec 4) (la : Bool) (gb : BitVec 4) (lb : Bool) (s : State) (hw : memoryWf s.ms.mem = true) : outWf (execHtset y ga la gb lb s) := by
  unfold execHtset
  (try dsimp only)
  refine wf_issue _ _ _ hw ?_
  intro t v ht
  (try dsimp only)
  repeat' (first
    | trivial
    | assumption
    | (with_reducible refine eff_access (by assumption) ?_; intro _ _ _; (try dsimp only))
    | (with_reducible refine eff_readBlock (by first | assumption | (simp (maxDischargeDepth := 9) [*]; done)) ?_; intro _ _ _; (try dsimp only))
    | (with_reducible refine eff_accessStay (by assumption) ?_; intro _ _ _; (try dsimp only))
    | (with_reducible refine eff_cmdTile (by assumption) ?_; intro _; (try dsimp only))
    | (with_reducible refine eff_cmdVector ?_; intro _; (try dsimp only))
    | (with_reducible exact eff_handlerTile (by assumption))
    | (with_reducible refine eff_goTo ?_)
    | (with_reducible exact eff_doWait (by assumption))
    | (with_reducible exact eff_startLoop (by assumption))
    | (with_reducible exact eff_setMask (by assumption))
    | (with_reducible exact eff_hand (by assumption))
    | (with_reducible exact eff_openIndex (by assumption))
    | (exact eff_rewriteEntry (by simp (maxDischargeDepth := 9) [*]))
    | split)
  all_goals first
    | (simp (maxDischargeDepth := 9) [effWf, *]; done)
    | (simp (maxDischargeDepth := 9) [*]; done)
    | exact wf_chkIf ‹_› (by assumption)
    | exact wf_checkWord ‹_› (by assumption)
    | exact eff_gTiles ‹_› (by simp [*])
    | exact eff_slotAt ‹_› (by simp [*])
    | exact eff_slotArray ‹_› (by simp [*])
    | exact eff_sideRows ‹_› (by simp [*])
    | exact eff_postDest ‹_› (by simp [*])
    | exact eff_vecReady ‹_› (by simp [*])

@[simp] theorem wf_execHtclr (y : Bool) (ga : BitVec 4) (la : Bool) (s : State) (hw : memoryWf s.ms.mem = true) : outWf (execHtclr y ga la s) := by
  unfold execHtclr
  (try dsimp only)
  refine wf_issue _ _ _ hw ?_
  intro t v ht
  (try dsimp only)
  repeat' (first
    | trivial
    | assumption
    | (with_reducible refine eff_access (by assumption) ?_; intro _ _ _; (try dsimp only))
    | (with_reducible refine eff_readBlock (by first | assumption | (simp (maxDischargeDepth := 9) [*]; done)) ?_; intro _ _ _; (try dsimp only))
    | (with_reducible refine eff_accessStay (by assumption) ?_; intro _ _ _; (try dsimp only))
    | (with_reducible refine eff_cmdTile (by assumption) ?_; intro _; (try dsimp only))
    | (with_reducible refine eff_cmdVector ?_; intro _; (try dsimp only))
    | (with_reducible exact eff_handlerTile (by assumption))
    | (with_reducible refine eff_goTo ?_)
    | (with_reducible exact eff_doWait (by assumption))
    | (with_reducible exact eff_startLoop (by assumption))
    | (with_reducible exact eff_setMask (by assumption))
    | (with_reducible exact eff_hand (by assumption))
    | (with_reducible exact eff_openIndex (by assumption))
    | (exact eff_rewriteEntry (by simp (maxDischargeDepth := 9) [*]))
    | split)
  all_goals first
    | (simp (maxDischargeDepth := 9) [effWf, *]; done)
    | (simp (maxDischargeDepth := 9) [*]; done)
    | exact wf_chkIf ‹_› (by assumption)
    | exact wf_checkWord ‹_› (by assumption)
    | exact eff_gTiles ‹_› (by simp [*])
    | exact eff_slotAt ‹_› (by simp [*])
    | exact eff_slotArray ‹_› (by simp [*])
    | exact eff_sideRows ‹_› (by simp [*])
    | exact eff_postDest ‹_› (by simp [*])
    | exact eff_vecReady ‹_› (by simp [*])

@[simp] theorem wf_execSmfr (y : Bool) (ga : BitVec 4) (la : Bool) (s : State) (hw : memoryWf s.ms.mem = true) : outWf (execSmfr y ga la s) := by
  unfold execSmfr
  (try dsimp only)
  refine wf_issue _ _ _ hw ?_
  intro t v ht
  (try dsimp only)
  repeat' (first
    | trivial
    | assumption
    | (with_reducible refine eff_access (by assumption) ?_; intro _ _ _; (try dsimp only))
    | (with_reducible refine eff_readBlock (by first | assumption | (simp (maxDischargeDepth := 9) [*]; done)) ?_; intro _ _ _; (try dsimp only))
    | (with_reducible refine eff_accessStay (by assumption) ?_; intro _ _ _; (try dsimp only))
    | (with_reducible refine eff_cmdTile (by assumption) ?_; intro _; (try dsimp only))
    | (with_reducible refine eff_cmdVector ?_; intro _; (try dsimp only))
    | (with_reducible exact eff_handlerTile (by assumption))
    | (with_reducible refine eff_goTo ?_)
    | (with_reducible exact eff_doWait (by assumption))
    | (with_reducible exact eff_startLoop (by assumption))
    | (with_reducible exact eff_setMask (by assumption))
    | (with_reducible exact eff_hand (by assumption))
    | (with_reducible exact eff_openIndex (by assumption))
    | (exact eff_rewriteEntry (by simp (maxDischargeDepth := 9) [*]))
    | split)
  all_goals first
    | (simp (maxDischargeDepth := 9) [effWf, *]; done)
    | (simp (maxDischargeDepth := 9) [*]; done)
    | exact wf_chkIf ‹_› (by assumption)
    | exact wf_checkWord ‹_› (by assumption)
    | exact eff_gTiles ‹_› (by simp [*])
    | exact eff_slotAt ‹_› (by simp [*])
    | exact eff_slotArray ‹_› (by simp [*])
    | exact eff_sideRows ‹_› (by simp [*])
    | exact eff_postDest ‹_› (by simp [*])
    | exact eff_vecReady ‹_› (by simp [*])

@[simp] theorem wf_execSmal (y : Bool) (gd : BitVec 4) (ga : BitVec 4) (la : Bool) (mir : Bool) (s : State) (hw : memoryWf s.ms.mem = true) : outWf (execSmal y gd ga la mir s) := by
  unfold execSmal
  (try dsimp only)
  refine wf_issue _ _ _ hw ?_
  intro t v ht
  (try dsimp only)
  repeat' (first
    | trivial
    | assumption
    | (with_reducible refine eff_access (by assumption) ?_; intro _ _ _; (try dsimp only))
    | (with_reducible refine eff_readBlock (by first | assumption | (simp (maxDischargeDepth := 9) [*]; done)) ?_; intro _ _ _; (try dsimp only))
    | (with_reducible refine eff_accessStay (by assumption) ?_; intro _ _ _; (try dsimp only))
    | (with_reducible refine eff_cmdTile (by assumption) ?_; intro _; (try dsimp only))
    | (with_reducible refine eff_cmdVector ?_; intro _; (try dsimp only))
    | (with_reducible exact eff_handlerTile (by assumption))
    | (with_reducible refine eff_goTo ?_)
    | (with_reducible exact eff_doWait (by assumption))
    | (with_reducible exact eff_startLoop (by assumption))
    | (with_reducible exact eff_setMask (by assumption))
    | (with_reducible exact eff_hand (by assumption))
    | (with_reducible exact eff_openIndex (by assumption))
    | (exact eff_rewriteEntry (by simp (maxDischargeDepth := 9) [*]))
    | split)
  all_goals first
    | (simp (maxDischargeDepth := 9) [effWf, *]; done)
    | (simp (maxDischargeDepth := 9) [*]; done)
    | exact wf_chkIf ‹_› (by assumption)
    | exact wf_checkWord ‹_› (by assumption)
    | exact eff_gTiles ‹_› (by simp [*])
    | exact eff_slotAt ‹_› (by simp [*])
    | exact eff_slotArray ‹_› (by simp [*])
    | exact eff_sideRows ‹_› (by simp [*])
    | exact eff_postDest ‹_› (by simp [*])
    | exact eff_vecReady ‹_› (by simp [*])

@[simp] theorem wf_execSmquota (y : Bool) (gd : BitVec 4) (s : State) (hw : memoryWf s.ms.mem = true) : outWf (execSmquota y gd s) := by
  unfold execSmquota
  (try dsimp only)
  refine wf_issue _ _ _ hw ?_
  intro t v ht
  (try dsimp only)
  repeat' (first
    | trivial
    | assumption
    | (with_reducible refine eff_access (by assumption) ?_; intro _ _ _; (try dsimp only))
    | (with_reducible refine eff_readBlock (by first | assumption | (simp (maxDischargeDepth := 9) [*]; done)) ?_; intro _ _ _; (try dsimp only))
    | (with_reducible refine eff_accessStay (by assumption) ?_; intro _ _ _; (try dsimp only))
    | (with_reducible refine eff_cmdTile (by assumption) ?_; intro _; (try dsimp only))
    | (with_reducible refine eff_cmdVector ?_; intro _; (try dsimp only))
    | (with_reducible exact eff_handlerTile (by assumption))
    | (with_reducible refine eff_goTo ?_)
    | (with_reducible exact eff_doWait (by assumption))
    | (with_reducible exact eff_startLoop (by assumption))
    | (with_reducible exact eff_setMask (by assumption))
    | (with_reducible exact eff_hand (by assumption))
    | (with_reducible exact eff_openIndex (by assumption))
    | (exact eff_rewriteEntry (by simp (maxDischargeDepth := 9) [*]))
    | split)
  all_goals first
    | (simp (maxDischargeDepth := 9) [effWf, *]; done)
    | (simp (maxDischargeDepth := 9) [*]; done)
    | exact wf_chkIf ‹_› (by assumption)
    | exact wf_checkWord ‹_› (by assumption)
    | exact eff_gTiles ‹_› (by simp [*])
    | exact eff_slotAt ‹_› (by simp [*])
    | exact eff_slotArray ‹_› (by simp [*])
    | exact eff_sideRows ‹_› (by simp [*])
    | exact eff_postDest ‹_› (by simp [*])
    | exact eff_vecReady ‹_› (by simp [*])

@[simp] theorem wf_execKload (y : Bool) (ga : BitVec 4) (la : Bool) (rx : Bool) (s : State) (hw : memoryWf s.ms.mem = true) : outWf (execKload y ga la rx s) := by
  unfold execKload
  (try dsimp only)
  refine wf_issue _ _ _ hw ?_
  intro t v ht
  (try dsimp only)
  repeat' (first
    | trivial
    | assumption
    | (with_reducible refine eff_access (by assumption) ?_; intro _ _ _; (try dsimp only))
    | (with_reducible refine eff_readBlock (by first | assumption | (simp (maxDischargeDepth := 9) [*]; done)) ?_; intro _ _ _; (try dsimp only))
    | (with_reducible refine eff_accessStay (by assumption) ?_; intro _ _ _; (try dsimp only))
    | (with_reducible refine eff_cmdTile (by assumption) ?_; intro _; (try dsimp only))
    | (with_reducible refine eff_cmdVector ?_; intro _; (try dsimp only))
    | (with_reducible exact eff_handlerTile (by assumption))
    | (with_reducible refine eff_goTo ?_)
    | (with_reducible exact eff_doWait (by assumption))
    | (with_reducible exact eff_startLoop (by assumption))
    | (with_reducible exact eff_setMask (by assumption))
    | (with_reducible exact eff_hand (by assumption))
    | (with_reducible exact eff_openIndex (by assumption))
    | (exact eff_rewriteEntry (by simp (maxDischargeDepth := 9) [*]))
    | split)
  all_goals first
    | (simp (maxDischargeDepth := 9) [effWf, *]; done)
    | (simp (maxDischargeDepth := 9) [*]; done)
    | exact wf_chkIf ‹_› (by assumption)
    | exact wf_checkWord ‹_› (by assumption)
    | exact eff_gTiles ‹_› (by simp [*])
    | exact eff_slotAt ‹_› (by simp [*])
    | exact eff_slotArray ‹_› (by simp [*])
    | exact eff_sideRows ‹_› (by simp [*])
    | exact eff_postDest ‹_› (by simp [*])
    | exact eff_vecReady ‹_› (by simp [*])

@[simp] theorem wf_execKturn (y : Bool) (s : State) (hw : memoryWf s.ms.mem = true) : outWf (execKturn y s) := by
  unfold execKturn
  (try dsimp only)
  refine wf_issue _ _ _ hw ?_
  intro t v ht
  (try dsimp only)
  repeat' (first
    | trivial
    | assumption
    | (with_reducible refine eff_access (by assumption) ?_; intro _ _ _; (try dsimp only))
    | (with_reducible refine eff_readBlock (by first | assumption | (simp (maxDischargeDepth := 9) [*]; done)) ?_; intro _ _ _; (try dsimp only))
    | (with_reducible refine eff_accessStay (by assumption) ?_; intro _ _ _; (try dsimp only))
    | (with_reducible refine eff_cmdTile (by assumption) ?_; intro _; (try dsimp only))
    | (with_reducible refine eff_cmdVector ?_; intro _; (try dsimp only))
    | (with_reducible exact eff_handlerTile (by assumption))
    | (with_reducible refine eff_goTo ?_)
    | (with_reducible exact eff_doWait (by assumption))
    | (with_reducible exact eff_startLoop (by assumption))
    | (with_reducible exact eff_setMask (by assumption))
    | (with_reducible exact eff_hand (by assumption))
    | (with_reducible exact eff_openIndex (by assumption))
    | (exact eff_rewriteEntry (by simp (maxDischargeDepth := 9) [*]))
    | split)
  all_goals first
    | (simp (maxDischargeDepth := 9) [effWf, *]; done)
    | (simp (maxDischargeDepth := 9) [*]; done)
    | exact wf_chkIf ‹_› (by assumption)
    | exact wf_checkWord ‹_› (by assumption)
    | exact eff_gTiles ‹_› (by simp [*])
    | exact eff_slotAt ‹_› (by simp [*])
    | exact eff_slotArray ‹_› (by simp [*])
    | exact eff_sideRows ‹_› (by simp [*])
    | exact eff_postDest ‹_› (by simp [*])
    | exact eff_vecReady ‹_› (by simp [*])

@[simp] theorem wf_execHist (y : Bool) (ga : BitVec 4) (la : Bool) (gb : BitVec 4) (lb : Bool) (s : State) (hw : memoryWf s.ms.mem = true) : outWf (execHist y ga la gb lb s) := by
  unfold execHist
  (try dsimp only)
  refine wf_issue _ _ _ hw ?_
  intro t v ht
  (try dsimp only)
  repeat' (first
    | trivial
    | assumption
    | (with_reducible refine eff_access (by assumption) ?_; intro _ _ _; (try dsimp only))
    | (with_reducible refine eff_readBlock (by first | assumption | (simp (maxDischargeDepth := 9) [*]; done)) ?_; intro _ _ _; (try dsimp only))
    | (with_reducible refine eff_accessStay (by assumption) ?_; intro _ _ _; (try dsimp only))
    | (with_reducible refine eff_cmdTile (by assumption) ?_; intro _; (try dsimp only))
    | (with_reducible refine eff_cmdVector ?_; intro _; (try dsimp only))
    | (with_reducible exact eff_handlerTile (by assumption))
    | (with_reducible refine eff_goTo ?_)
    | (with_reducible exact eff_doWait (by assumption))
    | (with_reducible exact eff_startLoop (by assumption))
    | (with_reducible exact eff_setMask (by assumption))
    | (with_reducible exact eff_hand (by assumption))
    | (with_reducible exact eff_openIndex (by assumption))
    | (exact eff_rewriteEntry (by simp (maxDischargeDepth := 9) [*]))
    | split)
  all_goals first
    | (simp (maxDischargeDepth := 9) [effWf, *]; done)
    | (simp (maxDischargeDepth := 9) [*]; done)
    | exact wf_chkIf ‹_› (by assumption)
    | exact wf_checkWord ‹_› (by assumption)
    | exact eff_gTiles ‹_› (by simp [*])
    | exact eff_slotAt ‹_› (by simp [*])
    | exact eff_slotArray ‹_› (by simp [*])
    | exact eff_sideRows ‹_› (by simp [*])
    | exact eff_postDest ‹_› (by simp [*])
    | exact eff_vecReady ‹_› (by simp [*])

@[simp] theorem wf_execWalk (y : Bool) (ga : BitVec 4) (la : Bool) (s : State) (hw : memoryWf s.ms.mem = true) : outWf (execWalk y ga la s) := by
  unfold execWalk
  (try dsimp only)
  refine wf_issue _ _ _ hw ?_
  intro t v ht
  (try dsimp only)
  repeat' (first
    | trivial
    | assumption
    | (with_reducible refine eff_access (by assumption) ?_; intro _ _ _; (try dsimp only))
    | (with_reducible refine eff_readBlock (by first | assumption | (simp (maxDischargeDepth := 9) [*]; done)) ?_; intro _ _ _; (try dsimp only))
    | (with_reducible refine eff_accessStay (by assumption) ?_; intro _ _ _; (try dsimp only))
    | (with_reducible refine eff_cmdTile (by assumption) ?_; intro _; (try dsimp only))
    | (with_reducible refine eff_cmdVector ?_; intro _; (try dsimp only))
    | (with_reducible exact eff_handlerTile (by assumption))
    | (with_reducible refine eff_goTo ?_)
    | (with_reducible exact eff_doWait (by assumption))
    | (with_reducible exact eff_startLoop (by assumption))
    | (with_reducible exact eff_setMask (by assumption))
    | (with_reducible exact eff_hand (by assumption))
    | (with_reducible exact eff_openIndex (by assumption))
    | (exact eff_rewriteEntry (by simp (maxDischargeDepth := 9) [*]))
    | split)
  all_goals first
    | (simp (maxDischargeDepth := 9) [effWf, *]; done)
    | (simp (maxDischargeDepth := 9) [*]; done)
    | exact wf_chkIf ‹_› (by assumption)
    | exact wf_checkWord ‹_› (by assumption)
    | exact eff_gTiles ‹_› (by simp [*])
    | exact eff_slotAt ‹_› (by simp [*])
    | exact eff_slotArray ‹_› (by simp [*])
    | exact eff_sideRows ‹_› (by simp [*])
    | exact eff_postDest ‹_› (by simp [*])
    | exact eff_vecReady ‹_› (by simp [*])

@[simp] theorem wf_execGwtake (y : Bool) (gd : BitVec 4) (ga : BitVec 4) (la : Bool) (s : State) (hw : memoryWf s.ms.mem = true) : outWf (execGwtake y gd ga la s) := by
  unfold execGwtake
  (try dsimp only)
  refine wf_issue _ _ _ hw ?_
  intro t v ht
  (try dsimp only)
  repeat' (first
    | trivial
    | assumption
    | (with_reducible refine eff_access (by assumption) ?_; intro _ _ _; (try dsimp only))
    | (with_reducible refine eff_readBlock (by first | assumption | (simp (maxDischargeDepth := 9) [*]; done)) ?_; intro _ _ _; (try dsimp only))
    | (with_reducible refine eff_accessStay (by assumption) ?_; intro _ _ _; (try dsimp only))
    | (with_reducible refine eff_cmdTile (by assumption) ?_; intro _; (try dsimp only))
    | (with_reducible refine eff_cmdVector ?_; intro _; (try dsimp only))
    | (with_reducible exact eff_handlerTile (by assumption))
    | (with_reducible refine eff_goTo ?_)
    | (with_reducible exact eff_doWait (by assumption))
    | (with_reducible exact eff_startLoop (by assumption))
    | (with_reducible exact eff_setMask (by assumption))
    | (with_reducible exact eff_hand (by assumption))
    | (with_reducible exact eff_openIndex (by assumption))
    | (exact eff_rewriteEntry (by simp (maxDischargeDepth := 9) [*]))
    | split)
  all_goals first
    | (simp (maxDischargeDepth := 9) [effWf, *]; done)
    | (simp (maxDischargeDepth := 9) [*]; done)
    | exact wf_chkIf ‹_› (by assumption)
    | exact wf_checkWord ‹_› (by assumption)
    | exact eff_gTiles ‹_› (by simp [*])
    | exact eff_slotAt ‹_› (by simp [*])
    | exact eff_slotArray ‹_› (by simp [*])
    | exact eff_sideRows ‹_› (by simp [*])
    | exact eff_postDest ‹_› (by simp [*])
    | exact eff_vecReady ‹_› (by simp [*])

@[simp] theorem wf_execSpuriousWake (f : Nat) (s : State) (hw : memoryWf s.ms.mem = true) : outWf (execSpuriousWake f s) := by
  simp (maxDischargeDepth := 9) [execSpuriousWake, hw]

@[simp] theorem wf_execGwqArm (q : BitVec 4) (ten : BitVec 4) (limit : BitVec 32) (s : State) (hw : memoryWf s.ms.mem = true) : outWf (execGwqArm q ten limit s) := by
  unfold execGwqArm
  rw [outWf_next]
  (try dsimp only)
  repeat' split
  all_goals first | exact hw | simp (maxDischargeDepth := 9) [*]

@[simp] theorem wf_execGwqDisarm (q : BitVec 4) (s : State) (hw : memoryWf s.ms.mem = true) : outWf (execGwqDisarm q s) := by
  simp (maxDischargeDepth := 9) [execGwqDisarm, hw]

@[simp] theorem wf_execHandlerRewriteTimeout (k : Nat) (s : State) (hw : memoryWf s.ms.mem = true) : outWf (execHandlerRewriteTimeout k s) := by
  simp (maxDischargeDepth := 9) [execHandlerRewriteTimeout, hw]

@[simp] theorem wf_execOwnershipGrant (rs : List Nat) (s : State) (hw : memoryWf s.ms.mem = true) : outWf (execOwnershipGrant rs s) := by
  simp (maxDischargeDepth := 9) [execOwnershipGrant, hw]

@[simp] theorem wf_execClockTick (s : State) (hw : memoryWf s.ms.mem = true) : outWf (execClockTick s) := by
  simp (maxDischargeDepth := 9) [execClockTick, hw]

@[simp] theorem wf_execHostLaunchWrite (ten : BitVec 4) (off : Nat) (bytes : List (BitVec 8)) (s : State) (hw : memoryWf s.ms.mem = true) : outWf (execHostLaunchWrite ten off bytes s) := by
  simp (maxDischargeDepth := 9) [execHostLaunchWrite, hw]

@[simp] theorem wf_execHostMsixEntryWrite (ten : BitVec 4) (vec : Nat) (off : Nat) (bytes : List (BitVec 8)) (s : State) (hw : memoryWf s.ms.mem = true) : outWf (execHostMsixEntryWrite ten vec off bytes s) := by
  simp (maxDischargeDepth := 9) [execHostMsixEntryWrite, hw]

@[simp] theorem wf_execHostSwitchWindowAccess (write : Bool) (off : Nat) (n : Nat) (bytes : List (BitVec 8)) (s : State) (hw : memoryWf s.ms.mem = true) : outWf (execHostSwitchWindowAccess write off n bytes s) := by
  unfold execHostSwitchWindowAccess
  rw [outWf_next]
  (try dsimp only)
  repeat' split
  all_goals first | exact hw | simp (maxDischargeDepth := 9) [*]

@[simp] theorem wf_execFlitReceiveIdle (port : Nat) (f : Sys2Proof.Flit) (s : State) (hw : memoryWf s.ms.mem = true) : outWf (execFlitReceiveIdle port f s) := by
  simp (maxDischargeDepth := 9) [execFlitReceiveIdle, hw]

@[simp] theorem wf_execFlitReceiveHead (port : Nat) (f : Sys2Proof.Flit) (s : State) (hw : memoryWf s.ms.mem = true) : outWf (execFlitReceiveHead port f s) := by
  simp (maxDischargeDepth := 9) [execFlitReceiveHead, hw]

@[simp] theorem wf_execFlitReceiveBody (port : Nat) (f : Sys2Proof.Flit) (s : State) (hw : memoryWf s.ms.mem = true) : outWf (execFlitReceiveBody port f s) := by
  simp (maxDischargeDepth := 9) [execFlitReceiveBody, hw]

@[simp] theorem wf_execFlitReceiveStomp (port : Nat) (f : Sys2Proof.Flit) (s : State) (hw : memoryWf s.ms.mem = true) : outWf (execFlitReceiveStomp port f s) := by
  simp (maxDischargeDepth := 9) [execFlitReceiveStomp, hw]

@[simp] theorem wf_execFlitReceiveKeyturn (port : Nat) (f : Sys2Proof.Flit) (s : State) (hw : memoryWf s.ms.mem = true) : outWf (execFlitReceiveKeyturn port f s) := by
  simp (maxDischargeDepth := 9) [execFlitReceiveKeyturn, hw]

@[simp] theorem wf_execFlitReceiveNak (port : Nat) (f : Sys2Proof.Flit) (s : State) (hw : memoryWf s.ms.mem = true) : outWf (execFlitReceiveNak port f s) := by
  simp (maxDischargeDepth := 9) [execFlitReceiveNak, hw]

@[simp] theorem wf_execReplayTimeout (port : Nat) (s : State) (hw : memoryWf s.ms.mem = true) : outWf (execReplayTimeout port s) := by
  simp (maxDischargeDepth := 9) [execReplayTimeout, hw]

@[simp] theorem wf_execLinkTrained (port : Nat) (width : BitVec 2) (m : BitVec 6) (pod : BitVec 8) (inc : BitVec 16) (s : State) (hw : memoryWf s.ms.mem = true) : outWf (execLinkTrained port width m pod inc s) := by
  simp (maxDischargeDepth := 9) [execLinkTrained, hw]

@[simp] theorem wf_execEthernetFrameReceive (etype : BitVec 16) (p : Sys2Proof.Packet) (s : State) (hw : memoryWf s.ms.mem = true) : outWf (execEthernetFrameReceive etype p s) := by
  unfold execEthernetFrameReceive
  rw [outWf_next]
  (try dsimp only)
  repeat' split
  all_goals first | exact hw | simp (maxDischargeDepth := 9) [*]

@[simp] theorem wf_execHeartbeat (s : State) (hw : memoryWf s.ms.mem = true) : outWf (execHeartbeat s) := by
  simp (maxDischargeDepth := 9) [execHeartbeat, hw]

@[simp] theorem wf_execModuleSilenceTimeout (m : BitVec 6) (s : State) (hw : memoryWf s.ms.mem = true) : outWf (execModuleSilenceTimeout m s) := by
  unfold execModuleSilenceTimeout
  rw [outWf_next]
  split <;> simp [hw]

@[simp] theorem wf_execDeathNoticeReceive (m : BitVec 6) (inc : BitVec 16) (s : State) (hw : memoryWf s.ms.mem = true) : outWf (execDeathNoticeReceive m inc s) := by
  simp (maxDischargeDepth := 9) [execDeathNoticeReceive, hw]

@[simp] theorem wf_execE2eRetryTimeout (src : Nat) (dst : Nat) (s : State) (hw : memoryWf s.ms.mem = true) : outWf (execE2eRetryTimeout src dst s) := by
  unfold execE2eRetryTimeout
  rw [outWf_next]
  (try dsimp only)
  repeat' split
  all_goals first | exact hw | simp (maxDischargeDepth := 9) [*]

@[simp] theorem wf_execFaultCountEvent (u : Sys2Proof.FaultUnit) (bad : Option Nat) (s : State) (hw : memoryWf s.ms.mem = true) : outWf (execFaultCountEvent u bad s) := by
  simp (maxDischargeDepth := 9) [execFaultCountEvent, hw]

@[simp] theorem wf_execRouterDieBLoss (s : State) (hw : memoryWf s.ms.mem = true) : outWf (execRouterDieBLoss s) := by
  simp (maxDischargeDepth := 9) [execRouterDieBLoss, hw]

@[simp] theorem wf_execRouterDieALoss (s : State) (hw : memoryWf s.ms.mem = true) : outWf (execRouterDieALoss s) := by
  simp (maxDischargeDepth := 9) [execRouterDieALoss, hw]

@[simp] theorem wf_execModuleReset (s : State) (hw : memoryWf s.ms.mem = true) : outWf (execModuleReset s) := by
  simp (maxDischargeDepth := 9) [execModuleReset, hw]

@[simp] theorem wf_execThrottle (s : State) (hw : memoryWf s.ms.mem = true) : outWf (execThrottle s) := by
  simp (maxDischargeDepth := 9) [execThrottle, hw]

@[simp] theorem wf_execThermalShutdown (s : State) (hw : memoryWf s.ms.mem = true) : outWf (execThermalShutdown s) := by
  simp (maxDischargeDepth := 9) [execThermalShutdown, hw]

@[simp] theorem wf_execMctlGo (s : State) (hw : memoryWf s.ms.mem = true) : outWf (execMctlGo s) := by
  simp (maxDischargeDepth := 9) [execMctlGo, hw]

@[simp] theorem wf_execGwctlPortDisable (f : Nat) (s : State) (hw : memoryWf s.ms.mem = true) : outWf (execGwctlPortDisable f s) := by
  simp (maxDischargeDepth := 9) [execGwctlPortDisable, hw]

@[simp] theorem wf_execGwctlPortEnable (f : Nat) (s : State) (hw : memoryWf s.ms.mem = true) : outWf (execGwctlPortEnable f s) := by
  simp (maxDischargeDepth := 9) [execGwctlPortEnable, hw]

@[simp] theorem wf_execTenantEnClear (t : BitVec 4) (s : State) (hw : memoryWf s.ms.mem = true) : outWf (execTenantEnClear t s) := by
  simp (maxDischargeDepth := 9) [execTenantEnClear, hw]

@[simp] theorem wf_execGatewayStartWrite (f : Nat) (v : BitVec 64) (s : State) (hw : memoryWf s.ms.mem = true) : outWf (execGatewayStartWrite f v s) := by
  unfold execGatewayStartWrite
  rw [outWf_next]
  (try dsimp only)
  repeat' split
  all_goals first | exact hw | simp (maxDischargeDepth := 9) [*]

@[simp] theorem wf_execDeviceRegisterWrite (host : Bool) (off : Nat) (n : Nat) (v : BitVec 64) (s : State) (hw : memoryWf s.ms.mem = true) : outWf (execDeviceRegisterWrite host off n v s) := by
  simp (maxDischargeDepth := 9) [execDeviceRegisterWrite, hw]

@[simp] theorem wf_execLossOfLinkTraining (port : Nat) (s : State) (hw : memoryWf s.ms.mem = true) : outWf (execLossOfLinkTraining port s) := by
  unfold execLossOfLinkTraining
  rw [outWf_next]
  (try dsimp only)
  repeat' split
  all_goals first | exact hw | simp (maxDischargeDepth := 9) [*]

@[simp] theorem wf_execBackWithinLimits (s : State) (hw : memoryWf s.ms.mem = true) : outWf (execBackWithinLimits s) := by
  simp (maxDischargeDepth := 9) [execBackWithinLimits, hw]

theorem wf_exec (i : Instr) (s : State) (hw : memoryWf s.ms.mem = true) : outWf (exec i s) :=
  match i with
  | .add y gd ga la gb lb sat uns => wf_execAdd y gd ga la gb lb sat uns s hw
  | .sub y gd ga la gb lb sat uns => wf_execSub y gd ga la gb lb sat uns s hw
  | .and y gd ga la gb lb => wf_execAnd y gd ga la gb lb s hw
  | .or y gd ga la gb lb => wf_execOr y gd ga la gb lb s hw
  | .xor y gd ga la gb lb => wf_execXor y gd ga la gb lb s hw
  | .andn y gd ga la gb lb => wf_execAndn y gd ga la gb lb s hw
  | .shl y gd ga la gb lb => wf_execShl y gd ga la gb lb s hw
  | .shr y gd ga la gb lb => wf_execShr y gd ga la gb lb s hw
  | .sar y gd ga la gb lb => wf_execSar y gd ga la gb lb s hw
  | .ror y gd ga la gb lb => wf_execRor y gd ga la gb lb s hw
  | .min y gd ga la gb lb uns => wf_execMin y gd ga la gb lb uns s hw
  | .max y gd ga la gb lb uns => wf_execMax y gd ga la gb lb uns s hw
  | .cmpeq y gd ga la gb lb => wf_execCmpeq y gd ga la gb lb s hw
  | .cmpne y gd ga la gb lb => wf_execCmpne y gd ga la gb lb s hw
  | .cmplt y gd ga la gb lb uns => wf_execCmplt y gd ga la gb lb uns s hw
  | .cmple y gd ga la gb lb uns => wf_execCmple y gd ga la gb lb uns s hw
  | .clz y gd ga la => wf_execClz y gd ga la s hw
  | .popc y gd ga la => wf_execPopc y gd ga la s hw
  | .sextb y gd ga la => wf_execSextb y gd ga la s hw
  | .sexth y gd ga la => wf_execSexth y gd ga la s hw
  | .sextw y gd ga la => wf_execSextw y gd ga la s hw
  | .zextb y gd ga la => wf_execZextb y gd ga la s hw
  | .zexth y gd ga la => wf_execZexth y gd ga la s hw
  | .zextw y gd ga la => wf_execZextw y gd ga la s hw
  | .sel y gd ga la gb lb => wf_execSel y gd ga la gb lb s hw
  | .mul y gd ga la gb lb => wf_execMul y gd ga la gb lb s hw
  | .mulh y gd ga la gb lb uns => wf_execMulh y gd ga la gb lb uns s hw
  | .div y gd ga la gb lb uns => wf_execDiv y gd ga la gb lb uns s hw
  | .rem y gd ga la gb lb uns => wf_execRem y gd ga la gb lb uns s hw
  | .hmix y gd ga la gb lb => wf_execHmix y gd ga la gb lb s hw
  | .addi y gd ga la imm => wf_execAddi y gd ga la imm s hw
  | .andi y gd ga la imm => wf_execAndi y gd ga la imm s hw
  | .ori y gd ga la imm => wf_execOri y gd ga la imm s hw
  | .xori y gd ga la imm => wf_execXori y gd ga la imm s hw
  | .shli y gd ga la n => wf_execShli y gd ga la n s hw
  | .shri y gd ga la n => wf_execShri y gd ga la n s hw
  | .sari y gd ga la n => wf_execSari y gd ga la n s hw
  | .rori y gd ga la n => wf_execRori y gd ga la n s hw
  | .cmpeqi y gd ga la imm => wf_execCmpeqi y gd ga la imm s hw
  | .cmplti y gd ga la imm => wf_execCmplti y gd ga la imm s hw
  | .cmpltiUns y gd ga la imm => wf_execCmpltiUns y gd ga la imm s hw
  | .extr y gd ga la pos len => wf_execExtr y gd ga la pos len s hw
  | .insr y gd ga la pos len => wf_execInsr y gd ga la pos len s hw
  | .lui y gd imm => wf_execLui y gd imm s hw
  | .fadd y gd ga la gb lb p => wf_execFadd y gd ga la gb lb p s hw
  | .fsub y gd ga la gb lb p => wf_execFsub y gd ga la gb lb p s hw
  | .fmul y gd ga la gb lb p => wf_execFmul y gd ga la gb lb p s hw
  | .fdiv y gd ga la gb lb p => wf_execFdiv y gd ga la gb lb p s hw
  | .fsqrt y gd ga la p => wf_execFsqrt y gd ga la p s hw
  | .fma y gd ga la gb lb p => wf_execFma y gd ga la gb lb p s hw
  | .fmin y gd ga la gb lb p => wf_execFmin y gd ga la gb lb p s hw
  | .fmax y gd ga la gb lb p => wf_execFmax y gd ga la gb lb p s hw
  | .fcmpEq y gd ga la gb lb p => wf_execFcmpEq y gd ga la gb lb p s hw
  | .fcmpLt y gd ga la gb lb p => wf_execFcmpLt y gd ga la gb lb p s hw
  | .fcmpLe y gd ga la gb lb p => wf_execFcmpLe y gd ga la gb lb p s hw
  | .fcvt y gd ga la p => wf_execFcvt y gd ga la p s hw
  | .fcvti y gd ga la p => wf_execFcvti y gd ga la p s hw
  | .fcvtf y gd ga la p => wf_execFcvtf y gd ga la p s hw
  | .beq y ga la gb lb off => wf_execBeq y ga la gb lb off s hw
  | .bne y ga la gb lb off => wf_execBne y ga la gb lb off s hw
  | .blt y ga la gb lb off => wf_execBlt y ga la gb lb off s hw
  | .bge y ga la gb lb off => wf_execBge y ga la gb lb off s hw
  | .loopReg y ga la dist => wf_execLoopReg y ga la dist s hw
  | .loopImm y count dist => wf_execLoopImm y count dist s hw
  | .jal y gd imm => wf_execJal y gd imm s hw
  | .jr y gd ga la => wf_execJr y gd ga la s hw
  | .endloop y => wf_execEndloop y s hw
  | .callat y ga la gb lb => wf_execCallat y ga la gb lb s hw
  | .exit y => wf_execExit y s hw
  | .trig y => wf_execTrig y s hw
  | .yield y => wf_execYield y s hw
  | .align y n => wf_execAlign y n s hw
  | .migr y gd ga la => wf_execMigr y gd ga la s hw
  | .ldb y gd ga la pol ord scope off => wf_execLdb y gd ga la pol ord scope off s hw
  | .ldh y gd ga la pol ord scope off => wf_execLdh y gd ga la pol ord scope off s hw
  | .ldw y gd ga la pol ord scope off => wf_execLdw y gd ga la pol ord scope off s hw
  | .ldd y gd ga la pol ord scope off => wf_execLdd y gd ga la pol ord scope off s hw
  | .stb y gd ga la pol ord scope off => wf_execStb y gd ga la pol ord scope off s hw
  | .sth y gd ga la pol ord scope off => wf_execSth y gd ga la pol ord scope off s hw
  | .stw y gd ga la pol ord scope off => wf_execStw y gd ga la pol ord scope off s hw
  | .std y gd ga la pol ord scope off => wf_execStd y gd ga la pol ord scope off s hw
  | .ldf y gd ga la off => wf_execLdf y gd ga la off s hw
  | .ldfe y gd ga la off => wf_execLdfe y gd ga la off s hw
  | .ste y gd ga la off => wf_execSte y gd ga la off s hw
  | .stf y gd ga la off => wf_execStf y gd ga la off s hw
  | .feq y gd ga la off => wf_execFeq y gd ga la off s hw
  | .feset y ga la full off => wf_execFeset y ga la full off s hw
  | .pref y ga la pol off => wf_execPref y ga la pol off s hw
  | .aadd y gd ga la gb lb place ord scope sz => wf_execAadd y gd ga la gb lb place ord scope sz s hw
  | .amin y gd ga la gb lb place ord scope uns sz => wf_execAmin y gd ga la gb lb place ord scope uns sz s hw
  | .amax y gd ga la gb lb place ord scope uns sz => wf_execAmax y gd ga la gb lb place ord scope uns sz s hw
  | .aand y gd ga la gb lb place ord scope sz => wf_execAand y gd ga la gb lb place ord scope sz s hw
  | .aor y gd ga la gb lb place ord scope sz => wf_execAor y gd ga la gb lb place ord scope sz s hw
  | .axch y gd ga la gb lb place ord scope sz => wf_execAxch y gd ga la gb lb place ord scope sz s hw
  | .acas y gd ga la gb lb place ord scope sz => wf_execAcas y gd ga la gb lb place ord scope sz s hw
  | .adecp y gd ga la place ord scope sz => wf_execAdecp y gd ga la place ord scope sz s hw
  | .aincb y gd ga la gb lb place ord scope sz => wf_execAincb y gd ga la gb lb place ord scope sz s hw
  | .fence y scope => wf_execFence y scope s hw
  | .waita y gd ga la gb lb word4 => wf_execWaita y gd ga la gb lb word4 s hw
  | .notify y gd ga la all => wf_execNotify y gd ga la all s hw
  | .barr y gd ga la comb => wf_execBarr y gd ga la comb s hw
  | .barj y gd ga la comb => wf_execBarj y gd ga la comb s hw
  | .scopeset y ga la n => wf_execScopeset y ga la n s hw
  | .launch y gd ga la => wf_execLaunch y gd ga la s hw
  | .nop y => wf_execNop y s hw
  | .trap y n => wf_execTrap y n s hw
  | .eret y => wf_execEret y s hw
  | .hcall y n => wf_execHcall y n s hw
  | .tlbinv y ga la mode scope => wf_execTlbinv y ga la mode scope s hw
  | .cacheop y ga la op => wf_execCacheop y ga la op s hw
  | .imgsave y ga la => wf_execImgsave y ga la s hw
  | .imgload y ga la => wf_execImgload y ga la s hw
  | .mfs y gd r => wf_execMfs y gd r s hw
  | .mts y ga la r => wf_execMts y ga la r s hw
  | .erd y gd eng r => wf_execErd y gd eng r s hw
  | .ewr y ga la eng r => wf_execEwr y ga la eng r s hw
  | .fmt y fa fb fd smode stile fz sat => wf_execFmt y fa fb fd smode stile fz sat s hw
  | .vadd y td ta tb => wf_execVadd y td ta tb s hw
  | .vsub y td ta tb => wf_execVsub y td ta tb s hw
  | .vmul y td ta tb => wf_execVmul y td ta tb s hw
  | .vdiv y td ta tb => wf_execVdiv y td ta tb s hw
  | .vfma y td ta tb => wf_execVfma y td ta tb s hw
  | .vmin y td ta tb => wf_execVmin y td ta tb s hw
  | .vmax y td ta tb => wf_execVmax y td ta tb s hw
  | .vabs y td ta => wf_execVabs y td ta s hw
  | .vexp y td ta => wf_execVexp y td ta s hw
  | .vlog y td ta => wf_execVlog y td ta s hw
  | .vsqrt y td ta => wf_execVsqrt y td ta s hw
  | .vrsqrt y td ta => wf_execVrsqrt y td ta s hw
  | .vrcp y td ta => wf_execVrcp y td ta s hw
  | .vtanh y td ta => wf_execVtanh y td ta s hw
  | .vsigm y td ta => wf_execVsigm y td ta s hw
  | .vredAdd y td ta => wf_execVredAdd y td ta s hw
  | .vredMin y td ta => wf_execVredMin y td ta s hw
  | .vredMax y td ta => wf_execVredMax y td ta s hw
  | .vscanAdd y td ta => wf_execVscanAdd y td ta s hw
  | .vscanMax y td ta => wf_execVscanMax y td ta s hw
  | .vcmpEq y td ta tb => wf_execVcmpEq y td ta tb s hw
  | .vcmpLt y td ta tb => wf_execVcmpLt y td ta tb s hw
  | .vcmpLe y td ta tb => wf_execVcmpLe y td ta tb s hw
  | .vsel y td ta tb => wf_execVsel y td ta tb s hw
  | .vbcast y td ta => wf_execVbcast y td ta s hw
  | .vgather y td ta tb => wf_execVgather y td ta tb s hw
  | .vscat y td ta tb => wf_execVscat y td ta tb s hw
  | .vtrans y td ta => wf_execVtrans y td ta s hw
  | .vcvt y td ta => wf_execVcvt y td ta s hw
  | .vqscale y td ta => wf_execVqscale y td ta s hw
  | .vcbk y td ta => wf_execVcbk y td ta s hw
  | .barq y td ta tb => wf_execBarq y td ta tb s hw
  | .barqRes y td ta tb => wf_execBarqRes y td ta tb s hw
  | .twait y ta => wf_execTwait y ta s hw
  | .tdef y ga la t => wf_execTdef y ga la t s hw
  | .tstate y gd set st t => wf_execTstate y gd set st t s hw
  | .cbld y ga la => wf_execCbld y ga la s hw
  | .gmsg y gd ga la => wf_execGmsg y gd ga la s hw
  | .gbel y gd ga la => wf_execGbel y gd ga la s hw
  | .gmarg y gd ga la => wf_execGmarg y gd ga la s hw
  | .mma y ta tb => wf_execMma y ta tb s hw
  | .mmas y td ta tb => wf_execMmas y td ta tb s hw
  | .mzero y => wf_execMzero y s hw
  | .macc y ta => wf_execMacc y ta s hw
  | .mst y td => wf_execMst y td s hw
  | .mlease y bound => wf_execMlease y bound s hw
  | .mrel y => wf_execMrel y s hw
  | .mstep y gd => wf_execMstep y gd s hw
  | .cpyq y ga la gb lb nb => wf_execCpyq y ga la gb lb nb s hw
  | .kick y ga la gb lb => wf_execKick y ga la gb lb s hw
  | .cpywait y => wf_execCpywait y s hw
  | .cpystat y gd => wf_execCpystat y gd s hw
  | .ldnn y ga la gb lb => wf_execLdnn y ga la gb lb s hw
  | .stvec y ga la gb lb => wf_execStvec y ga la gb lb s hw
  | .dlvec y ga la gb lb => wf_execDlvec y ga la gb lb s hw
  | .ixopen y gd ga la => wf_execIxopen y gd ga la s hw
  | .ixstat y gd ga la => wf_execIxstat y gd ga la s hw
  | .send y ga la scope rel => wf_execSend y ga la scope rel s hw
  | .rpost y ga la => wf_execRpost y ga la s hw
  | .rcancel y ga la => wf_execRcancel y ga la s hw
  | .rprobe y gd ga la => wf_execRprobe y gd ga la s hw
  | .rstat y gd ga la => wf_execRstat y gd ga la s hw
  | .amsg y ga la gb lb scope rel => wf_execAmsg y ga la gb lb scope rel s hw
  | .htset y ga la gb lb => wf_execHtset y ga la gb lb s hw
  | .htclr y ga la => wf_execHtclr y ga la s hw
  | .smfr y ga la => wf_execSmfr y ga la s hw
  | .smal y gd ga la mir => wf_execSmal y gd ga la mir s hw
  | .smquota y gd => wf_execSmquota y gd s hw
  | .kload y ga la rx => wf_execKload y ga la rx s hw
  | .kturn y => wf_execKturn y s hw
  | .hist y ga la gb lb => wf_execHist y ga la gb lb s hw
  | .walk y ga la => wf_execWalk y ga la s hw
  | .gwtake y gd ga la => wf_execGwtake y gd ga la s hw
  | .alignTimeout f => wf_execAlignTimeout f s hw
  | .migrationArrival f => wf_execMigrationArrival f s hw
  | .feWaitServed r => wf_execFeWaitServed r s hw
  | .spuriousWake f => wf_execSpuriousWake f s hw
  | .barrierEpisodeComplete b => wf_execBarrierEpisodeComplete b s hw
  | .dieBarrierReport b die => wf_execDieBarrierReport b die s hw
  | .gwqArm q ten limit => wf_execGwqArm q ten limit s hw
  | .gwqDisarm q => wf_execGwqDisarm q s hw
  | .vectorInstructionComplete f => wf_execVectorInstructionComplete f s hw
  | .codebookReplace f => wf_execCodebookReplace f s hw
  | .gmsgSlotWrite f => wf_execGmsgSlotWrite f s hw
  | .matrixLeaseGrant cl => wf_execMatrixLeaseGrant cl s hw
  | .matrixStep cl => wf_execMatrixStep cl s hw
  | .matrixCommandComplete cl => wf_execMatrixCommandComplete cl s hw
  | .copyCommandStart core => wf_execCopyCommandStart core s hw
  | .copyCommandComplete core => wf_execCopyCommandComplete core s hw
  | .kickNoticeArrival k => wf_execKickNoticeArrival k s hw
  | .kickTransferStart core => wf_execKickTransferStart core s hw
  | .kickTransferComplete core => wf_execKickTransferComplete core s hw
  | .indexStvecPerform c => wf_execIndexStvecPerform c s hw
  | .indexDlvecPerform c => wf_execIndexDlvecPerform c s hw
  | .versionAreaFreed c => wf_execVersionAreaFreed c s hw
  | .indexLdnnAccept c => wf_execIndexLdnnAccept c s hw
  | .indexSearchComplete c => wf_execIndexSearchComplete c s hw
  | .receivePostEvent f => wf_execReceivePostEvent f s hw
  | .receiveCancelEvent f => wf_execReceiveCancelEvent f s hw
  | .eagerSendArrival k => wf_execEagerSendArrival k s hw
  | .rendezvousRequestArrival k => wf_execRendezvousRequestArrival k s hw
  | .rendezvousPullComplete c => wf_execRendezvousPullComplete c s hw
  | .sendCompletionArrival k => wf_execSendCompletionArrival k s hw
  | .activeMessageArrival k => wf_execActiveMessageArrival k s hw
  | .handlerStart core => wf_execHandlerStart core s hw
  | .handlerRewriteEnd k => wf_execHandlerRewriteEnd k s hw
  | .handlerRewriteTimeout k => wf_execHandlerRewriteTimeout k s hw
  | .amsgResponseArrival k => wf_execAmsgResponseArrival k s hw
  | .builtinLoad k => wf_execBuiltinLoad k s hw
  | .builtinStore k => wf_execBuiltinStore k s hw
  | .builtinLdf k => wf_execBuiltinLdf k s hw
  | .builtinLdfe k => wf_execBuiltinLdfe k s hw
  | .builtinSte k => wf_execBuiltinSte k s hw
  | .builtinStf k => wf_execBuiltinStf k s hw
  | .leaseRefresh k => wf_execLeaseRefresh k s hw
  | .remoteAtomic k => wf_execRemoteAtomic k s hw
  | .taskNodeRun cl node => wf_execTaskNodeRun cl node s hw
  | .conditionalNodeRun cl node => wf_execConditionalNodeRun cl node s hw
  | .whileNodeRun cl node => wf_execWhileNodeRun cl node s hw
  | .joinNodeRun cl node => wf_execJoinNodeRun cl node s hw
  | .latchNodeRun cl node => wf_execLatchNodeRun cl node s hw
  | .walkerNodeComplete cl node => wf_execWalkerNodeComplete cl node s hw
  | .callatAnswer f => wf_execCallatAnswer f s hw
  | .taskStart core => wf_execTaskStart core s hw
  | .loadDataReturn f p => wf_execLoadDataReturn f p s hw
  | .storeAck r wt cause => wf_execStoreAck r wt cause s hw
  | .pageWalkComplete w => wf_execPageWalkComplete w s hw
  | .homeRequest r hint => wf_execHomeRequest r hint s hw
  | .refusalRetry r => wf_execRefusalRetry r s hw
  | .ownershipGrant rs => wf_execOwnershipGrant rs s hw
  | .clockTick => wf_execClockTick s hw
  | .hostLaunchWrite ten off bytes => wf_execHostLaunchWrite ten off bytes s hw
  | .hostMsixEntryWrite ten vec off bytes => wf_execHostMsixEntryWrite ten vec off bytes s hw
  | .hostSwitchWindowAccess write off n bytes => wf_execHostSwitchWindowAccess write off n bytes s hw
  | .distributorTurn => wf_execDistributorTurn s hw
  | .claimComplete g => wf_execClaimComplete g s hw
  | .imageClose g => wf_execImageClose g s hw
  | .launchCompletion l => wf_execLaunchCompletion l s hw
  | .packetForward => wf_execPacketForward s hw
  | .detourTimeout port => wf_execDetourTimeout port s hw
  | .packetIngress => wf_execPacketIngress s hw
  | .flitTransmit port => wf_execFlitTransmit port s hw
  | .flitReceiveIdle port f => wf_execFlitReceiveIdle port f s hw
  | .flitReceiveHead port f => wf_execFlitReceiveHead port f s hw
  | .flitReceiveBody port f => wf_execFlitReceiveBody port f s hw
  | .flitReceiveStomp port f => wf_execFlitReceiveStomp port f s hw
  | .flitReceiveKeyturn port f => wf_execFlitReceiveKeyturn port f s hw
  | .flitReceiveNak port f => wf_execFlitReceiveNak port f s hw
  | .replayTimeout port => wf_execReplayTimeout port s hw
  | .linkTrained port width mod pod inc => wf_execLinkTrained port width mod pod inc s hw
  | .ethernetFrameReceive etype p => wf_execEthernetFrameReceive etype p s hw
  | .heartbeat => wf_execHeartbeat s hw
  | .moduleSilenceTimeout m => wf_execModuleSilenceTimeout m s hw
  | .deathNoticeReceive m inc => wf_execDeathNoticeReceive m inc s hw
  | .evictedReturnReceive => wf_execEvictedReturnReceive s hw
  | .e2eRetryTimeout src dst => wf_execE2eRetryTimeout src dst s hw
  | .faultCountEvent u bad => wf_execFaultCountEvent u bad s hw
  | .routerDieBLoss => wf_execRouterDieBLoss s hw
  | .routerDieALoss => wf_execRouterDieALoss s hw
  | .moduleReset => wf_execModuleReset s hw
  | .throttle => wf_execThrottle s hw
  | .thermalShutdown => wf_execThermalShutdown s hw
  | .mctlGo => wf_execMctlGo s hw
  | .gwctlPortDisable port => wf_execGwctlPortDisable port s hw
  | .gwctlPortEnable port => wf_execGwctlPortEnable port s hw
  | .gatewayRoleTake port => wf_execGatewayRoleTake port s hw
  | .tenantEnClear ten => wf_execTenantEnClear ten s hw
  | .gatewayStartWrite port v => wf_execGatewayStartWrite port v s hw
  | .gatewayFibreStart port => wf_execGatewayFibreStart port s hw
  | .deviceRegisterWrite host off n v => wf_execDeviceRegisterWrite host off n v s hw
  | .lossOfLinkTraining port => wf_execLossOfLinkTraining port s hw
  | .backWithinLimits => wf_execBackWithinLimits s hw
  | .tlbInvalidationDone f => wf_execTlbInvalidationDone f s hw
  | .scopemaskPropagated f => wf_execScopemaskPropagated f s hw
  | .switchFreeDone f => wf_execSwitchFreeDone f s hw

/-- Whether every step of a list keeps the canonical form. -/
def stepsWf (l : List UnitStep) : Prop := ∀ g ∈ l, ∀ u, memoryWf u.ms.mem = true → outWf (g u)

theorem stepsWf_nil : stepsWf [] := fun g h => by cases h

theorem stepsWf_cons {g : UnitStep} {l : List UnitStep} (hg : ∀ u, memoryWf u.ms.mem = true → outWf (g u)) (hl : stepsWf l) :
    stepsWf (g :: l) := by
  intro x hx u hu
  rcases List.mem_cons.1 hx with rfl | h
  · exact hg u hu
  · exact hl x h u hu

theorem stepsWf_append {l r : List UnitStep} (hl : stepsWf l) (hr : stepsWf r) : stepsWf (l ++ r) := by
  intro x hx u hu
  rcases List.mem_append.1 hx with h | h
  · exact hl x h u hu
  · exact hr x h u hu

theorem stepsWf_map {α : Type} {l : List α} {f : α → UnitStep} (hf : ∀ a u, memoryWf u.ms.mem = true → outWf (f a u)) :
    stepsWf (l.map f) := by
  intro x hx u hu
  obtain ⟨a, -, rfl⟩ := List.mem_map.1 hx
  exact hf a u hu

theorem stepsWf_flatMap {α : Type} {l : List α} {f : α → List UnitStep} (hf : ∀ a, stepsWf (f a)) : stepsWf (l.flatMap f) := by
  intro x hx u hu
  obtain ⟨a, -, h⟩ := List.mem_flatMap.1 hx
  exact hf a x h u hu

theorem stepsWf_filterMap {α : Type} {l : List α} {f : α → Option UnitStep} (hf : ∀ a g, f a = some g → ∀ u, memoryWf u.ms.mem = true → outWf (g u)) :
    stepsWf (l.filterMap f) := by
  intro x hx u hu
  obtain ⟨a, -, h⟩ := List.mem_filterMap.1 hx
  exact hf a x h u hu

theorem steps_builtinSteps (k : Nat) : stepsWf (builtinSteps k) := by
  unfold builtinSteps
  repeat' (first
    | exact stepsWf_nil
    | with_reducible refine stepsWf_append ?_ ?_
    | with_reducible refine stepsWf_cons ?_ ?_
    | (with_reducible refine stepsWf_map ?_; intro _)
    | (with_reducible refine stepsWf_flatMap ?_; intro _)
    | split
    | (intro u hu; simp (maxDischargeDepth := 9) [hu]; done)
    | (intro u hu; (try dsimp only); split <;> simp [hu]))

theorem steps_answerSteps (s : State) (k : Nat) (p : Packet) : stepsWf (answerSteps s k p) := by
  unfold answerSteps
  refine stepsWf_append (stepsWf_append (stepsWf_append ?_ ?_) ?_) ?_
  · refine stepsWf_map ?_
    intro r u hu
    split <;> simp [hu]
  · refine stepsWf_map ?_
    intro r u hu
    split <;> simp [hu]
  · refine stepsWf_filterMap ?_
    intro f g hg u hu
    split at hg
    · split at hg
      · cases hg
        simp [hu]
      · cases hg
    · cases hg
  · exact stepsWf_cons (fun u hu => by simp [hu]) (stepsWf_cons (fun u hu => by simp [hu]) stepsWf_nil)

theorem steps_arrivalSteps (s : State) (k : Nat) (p : Packet) : stepsWf (arrivalSteps s k p) := by
  unfold arrivalSteps
  repeat' (first
    | exact stepsWf_nil
    | with_reducible refine stepsWf_append ?_ ?_
    | with_reducible refine stepsWf_cons ?_ ?_
    | (with_reducible refine stepsWf_map ?_; intro _)
    | (with_reducible refine stepsWf_flatMap ?_; intro _)
    | exact steps_builtinSteps _
    | exact steps_answerSteps _ _ _
    | split
    | (intro u hu; simp (maxDischargeDepth := 9) [hu]; done)
    | (intro u hu; (try dsimp only); split <;> simp [hu]))

theorem steps_netSteps (s : State) : stepsWf (netSteps s) := by
  unfold netSteps
  repeat' (first
    | exact stepsWf_nil
    | with_reducible refine stepsWf_append ?_ ?_
    | with_reducible refine stepsWf_cons ?_ ?_
    | (with_reducible refine stepsWf_map ?_; intro _)
    | (with_reducible refine stepsWf_flatMap ?_; intro _)
    | exact steps_builtinSteps _
    | exact steps_answerSteps _ _ _
    | exact steps_arrivalSteps _ _ _
    | split
    | (intro u hu; simp (maxDischargeDepth := 9) [hu]; done)
    | (intro u hu; (try dsimp only); split <;> simp [hu]))

theorem steps_requestSteps (s : State) : stepsWf (requestSteps s) := by
  unfold requestSteps
  repeat' (first
    | exact stepsWf_nil
    | with_reducible refine stepsWf_append ?_ ?_
    | with_reducible refine stepsWf_cons ?_ ?_
    | (with_reducible refine stepsWf_map ?_; intro _)
    | (with_reducible refine stepsWf_flatMap ?_; intro _)
    | exact steps_builtinSteps _
    | exact steps_answerSteps _ _ _
    | exact steps_arrivalSteps _ _ _
    | exact steps_netSteps _
    | split
    | (intro u hu; simp (maxDischargeDepth := 9) [hu]; done)
    | (intro u hu; (try dsimp only); split <;> simp [hu]))

theorem steps_fibreSteps (f : Fibre) : stepsWf (fibreSteps f) := by
  unfold fibreSteps
  generalize f.run = r
  rcases r with _ | _ | w | _ | _ | _ | _
  all_goals first
    | exact stepsWf_nil
    | exact stepsWf_cons (fun u hu => by simp [hu]) stepsWf_nil
    | (cases w <;> first
      | exact stepsWf_nil
      | exact stepsWf_cons (fun u hu => by simp [hu]) stepsWf_nil)

theorem steps_coreSteps (n : Nat) (c : Core) : stepsWf (coreSteps n c) := by
  unfold coreSteps
  repeat' (first
    | exact stepsWf_nil
    | with_reducible refine stepsWf_append ?_ ?_
    | with_reducible refine stepsWf_cons ?_ ?_
    | (with_reducible refine stepsWf_map ?_; intro _)
    | (with_reducible refine stepsWf_flatMap ?_; intro _)
    | exact steps_builtinSteps _
    | exact steps_answerSteps _ _ _
    | exact steps_arrivalSteps _ _ _
    | exact steps_fibreSteps _
    | exact steps_netSteps _
    | exact steps_requestSteps _
    | split
    | (intro u hu; simp (maxDischargeDepth := 9) [hu]; done)
    | (intro u hu; (try dsimp only); split <;> simp [hu]))

theorem steps_arraySteps (cl : Nat) (a : MArray) : stepsWf (arraySteps cl a) := by
  unfold arraySteps
  repeat' (first
    | exact stepsWf_nil
    | with_reducible refine stepsWf_append ?_ ?_
    | with_reducible refine stepsWf_cons ?_ ?_
    | (with_reducible refine stepsWf_map ?_; intro _)
    | (with_reducible refine stepsWf_flatMap ?_; intro _)
    | exact steps_builtinSteps _
    | exact steps_answerSteps _ _ _
    | exact steps_arrivalSteps _ _ _
    | exact steps_fibreSteps _
    | exact steps_coreSteps _ _
    | exact steps_netSteps _
    | exact steps_requestSteps _
    | split
    | (intro u hu; simp (maxDischargeDepth := 9) [hu]; done)
    | (intro u hu; (try dsimp only); split <;> simp [hu]))

theorem steps_walkerSteps (cl : Nat) (w : Walker) : stepsWf (walkerSteps cl w) := by
  unfold walkerSteps
  repeat' (first
    | exact stepsWf_nil
    | with_reducible refine stepsWf_append ?_ ?_
    | with_reducible refine stepsWf_cons ?_ ?_
    | (with_reducible refine stepsWf_map ?_; intro _)
    | (with_reducible refine stepsWf_flatMap ?_; intro _)
    | exact steps_builtinSteps _
    | exact steps_answerSteps _ _ _
    | exact steps_arrivalSteps _ _ _
    | exact steps_fibreSteps _
    | exact steps_coreSteps _ _
    | exact steps_arraySteps _ _
    | exact steps_netSteps _
    | exact steps_requestSteps _
    | split
    | (intro u hu; simp (maxDischargeDepth := 9) [hu]; done)
    | (intro u hu; (try dsimp only); split <;> simp [hu]))

theorem steps_engineSteps (s : State) : stepsWf (engineSteps s) := by
  unfold engineSteps
  repeat' (first
    | exact stepsWf_nil
    | with_reducible refine stepsWf_append ?_ ?_
    | with_reducible refine stepsWf_cons ?_ ?_
    | (with_reducible refine stepsWf_map ?_; intro _)
    | (with_reducible refine stepsWf_flatMap ?_; intro _)
    | exact steps_builtinSteps _
    | exact steps_answerSteps _ _ _
    | exact steps_arrivalSteps _ _ _
    | exact steps_fibreSteps _
    | exact steps_coreSteps _ _
    | exact steps_arraySteps _ _
    | exact steps_walkerSteps _ _
    | exact steps_netSteps _
    | exact steps_requestSteps _
    | split
    | (intro u hu; simp (maxDischargeDepth := 9) [hu]; done)
    | (intro u hu; (try dsimp only); split <;> simp [hu]))

theorem steps_distSteps (s : State) : stepsWf (distSteps s) := by
  unfold distSteps
  repeat' (first
    | exact stepsWf_nil
    | with_reducible refine stepsWf_append ?_ ?_
    | with_reducible refine stepsWf_cons ?_ ?_
    | (with_reducible refine stepsWf_map ?_; intro _)
    | (with_reducible refine stepsWf_flatMap ?_; intro _)
    | exact steps_builtinSteps _
    | exact steps_answerSteps _ _ _
    | exact steps_arrivalSteps _ _ _
    | exact steps_fibreSteps _
    | exact steps_coreSteps _ _
    | exact steps_arraySteps _ _
    | exact steps_walkerSteps _ _
    | exact steps_netSteps _
    | exact steps_requestSteps _
    | exact steps_engineSteps _
    | split
    | (intro u hu; simp (maxDischargeDepth := 9) [hu]; done)
    | (intro u hu; (try dsimp only); split <;> simp [hu]))

theorem steps_gatewaySteps (s : State) : stepsWf (gatewaySteps s) := by
  unfold gatewaySteps
  repeat' (first
    | exact stepsWf_nil
    | with_reducible refine stepsWf_append ?_ ?_
    | with_reducible refine stepsWf_cons ?_ ?_
    | (with_reducible refine stepsWf_map ?_; intro _)
    | (with_reducible refine stepsWf_flatMap ?_; intro _)
    | exact steps_builtinSteps _
    | exact steps_answerSteps _ _ _
    | exact steps_arrivalSteps _ _ _
    | exact steps_fibreSteps _
    | exact steps_coreSteps _ _
    | exact steps_arraySteps _ _
    | exact steps_walkerSteps _ _
    | exact steps_netSteps _
    | exact steps_requestSteps _
    | exact steps_engineSteps _
    | exact steps_distSteps _
    | split
    | (intro u hu; simp (maxDischargeDepth := 9) [hu]; done)
    | (intro u hu; (try dsimp only); split <;> simp [hu]))

theorem steps_unitSteps (s : State) : stepsWf (unitSteps s) := by
  unfold unitSteps
  repeat' (first
    | exact stepsWf_nil
    | with_reducible refine stepsWf_append ?_ ?_
    | with_reducible refine stepsWf_cons ?_ ?_
    | (with_reducible refine stepsWf_map ?_; intro _)
    | (with_reducible refine stepsWf_flatMap ?_; intro _)
    | exact steps_builtinSteps _
    | exact steps_answerSteps _ _ _
    | exact steps_arrivalSteps _ _ _
    | exact steps_fibreSteps _
    | exact steps_coreSteps _ _
    | exact steps_arraySteps _ _
    | exact steps_walkerSteps _ _
    | exact steps_netSteps _
    | exact steps_requestSteps _
    | exact steps_engineSteps _
    | exact steps_distSteps _
    | exact steps_gatewaySteps _
    | split
    | (intro u hu; simp (maxDischargeDepth := 9) [hu]; done)
    | (intro u hu; (try dsimp only); split <;> simp [hu]))

theorem steps_lateSteps (s : State) : stepsWf (lateSteps s) := by
  unfold lateSteps
  repeat' (first
    | exact stepsWf_nil
    | with_reducible refine stepsWf_append ?_ ?_
    | with_reducible refine stepsWf_cons ?_ ?_
    | (with_reducible refine stepsWf_map ?_; intro _)
    | (with_reducible refine stepsWf_flatMap ?_; intro _)
    | exact steps_builtinSteps _
    | exact steps_answerSteps _ _ _
    | exact steps_arrivalSteps _ _ _
    | exact steps_fibreSteps _
    | exact steps_coreSteps _ _
    | exact steps_arraySteps _ _
    | exact steps_walkerSteps _ _
    | exact steps_netSteps _
    | exact steps_requestSteps _
    | exact steps_engineSteps _
    | exact steps_distSteps _
    | exact steps_gatewaySteps _
    | split
    | (intro u hu; simp (maxDischargeDepth := 9) [hu]; done)
    | (intro u hu; (try dsimp only); split <;> simp [hu]))

theorem wf_firstChange {s t : State} {l : List UnitStep} (hw : memoryWf s.ms.mem = true) (hl : stepsWf l)
    (h : firstChange s l = some t) : memoryWf t.ms.mem = true := by
  induction l with
  | nil => cases h
  | cons g r ih =>
    have hr : stepsWf r := fun x hx => hl x (List.mem_cons_of_mem _ hx)
    have hg := hl g (List.mem_cons_self ..) s hw
    unfold firstChange at h
    split at h
    · rename_i u hu
      split at h
      · exact ih hr h
      · cases h
        rw [hu] at hg
        exact hg
    · exact ih hr h

theorem wf_choose {s t : State} (hw : memoryWf s.ms.mem = true) (h : choose s = .goto t) : memoryWf t.ms.mem = true := by
  unfold choose at h
  split at h
  · cases h
  · split at h
    · cases h
      rename_i hc
      split at hc
      · exact wf_firstChange hw (steps_lateSteps s) hc
      · cases hc
    · split at h
      · cases h
        exact wf_firstChange hw (steps_unitSteps s) ‹_›
      · split at h
        · cases h
        · split at h
          · cases h
            exact wf_firstChange hw (steps_lateSteps s) ‹_›
          · cases h

@[simp] theorem wf_runFibre (s : State) (hw : memoryWf s.ms.mem = true) : outWf (runFibre s) := by
  unfold runFibre
  have h := wf_fetchWord s hw
  split
  · simp [hw]
  · simp [hw]
  · rename_i t ht
    rw [ht] at h
    exact h
  · rename_i w t ht
    rw [ht] at h
    have h1 : memoryWf t.ms.mem = true := h
    split
    · exact wf_exec _ _ h1
    · simp [h1]

theorem eff_jobEff (free : BitVec 16) (d : Reg) (j : Job) (t : State) (hw : memoryWf t.ms.mem = true) : effWf (jobEff free d j t) := by
  cases j <;> simp [jobEff, hw]

@[simp] theorem wf_runNext (s : State) (n : Nat) (d : Bool) (hw : memoryWf s.ms.mem = true) : outWf (runNext s n d) := by
  unfold runNext
  repeat' split
  all_goals first
    | exact hw
    | (simp [hw]; done)
    | exact wf_runFibre _ (by simp [hw])
    | exact wf_resumeWith _ _ _ (by simp [hw]) fun t ht => eff_jobEff _ _ _ t ht

@[simp] theorem wf_runTurn (s : State) (t : Turn) (hw : memoryWf s.ms.mem = true) : outWf (runTurn s t) := by
  unfold runTurn
  split
  · split
    · exact wf_runNext _ _ _ hw
    · exact hw
  · split
    · exact wf_exec _ _ hw
    · exact hw

end Sys2Proof.Laws
end

