-- ==== Sys2Proof/Laws/State.lean ====
section
/-! SUPPORT. What each update of the state leaves and changes, field by field. -/

namespace Sys2Proof.Laws

open Sys2Proof.Machine

@[simp] theorem setCore_fib (s : State) (c : Nat) (x : Core) : (setCore s c x).fib = s.fib := rfl

@[simp] theorem setCore_fibres (s : State) (c : Nat) (x : Core) : (setCore s c x).fibres = s.fibres := rfl

@[simp] theorem setCore_ms (s : State) (c : Nat) (x : Core) : (setCore s c x).ms = s.ms := rfl

@[simp] theorem setCore_cores (s : State) (c : Nat) (x : Core) : (setCore s c x).cores = tset s.cores c x := rfl

@[simp] theorem setCore_arrays (s : State) (c : Nat) (x : Core) : (setCore s c x).arrays = s.arrays := rfl

@[simp] theorem setCore_walkers (s : State) (c : Nat) (x : Core) : (setCore s c x).walkers = s.walkers := rfl

@[simp] theorem setCore_walkWait (s : State) (c : Nat) (x : Core) : (setCore s c x).walkWait = s.walkWait := rfl

@[simp] theorem setCore_indexes (s : State) (c : Nat) (x : Core) : (setCore s c x).indexes = s.indexes := rfl

@[simp] theorem setCore_idxCmds (s : State) (c : Nat) (x : Core) : (setCore s c x).idxCmds = s.idxCmds := rfl

@[simp] theorem setCore_recvs (s : State) (c : Nat) (x : Core) : (setCore s c x).recvs = s.recvs := rfl

@[simp] theorem setCore_watches (s : State) (c : Nat) (x : Core) : (setCore s c x).watches = s.watches := rfl

@[simp] theorem setCore_allocs (s : State) (c : Nat) (x : Core) : (setCore s c x).allocs = s.allocs := rfl

@[simp] theorem setCore_gwqs (s : State) (c : Nat) (x : Core) : (setCore s c x).gwqs = s.gwqs := rfl

@[simp] theorem setCore_dist (s : State) (c : Nat) (x : Core) : (setCore s c x).dist = s.dist := rfl

@[simp] theorem setCore_dev (s : State) (c : Nat) (x : Core) : (setCore s c x).dev = s.dev := rfl

@[simp] theorem setCore_ports (s : State) (c : Nat) (x : Core) : (setCore s c x).ports = s.ports := rfl

@[simp] theorem setCore_net (s : State) (c : Nat) (x : Core) : (setCore s c x).net = s.net := rfl

@[simp] theorem setCore_host (s : State) (c : Nat) (x : Core) : (setCore s c x).host = s.host := rfl

@[simp] theorem setCore_sched (s : State) (c : Nat) (x : Core) : (setCore s c x).sched = s.sched := rfl

@[simp] theorem setArray_fib (s : State) (cl : Nat) (x : MArray) : (setArray s cl x).fib = s.fib := rfl

@[simp] theorem setArray_fibres (s : State) (cl : Nat) (x : MArray) : (setArray s cl x).fibres = s.fibres := rfl

@[simp] theorem setArray_ms (s : State) (cl : Nat) (x : MArray) : (setArray s cl x).ms = s.ms := rfl

@[simp] theorem setArray_cores (s : State) (cl : Nat) (x : MArray) : (setArray s cl x).cores = s.cores := rfl

@[simp] theorem setArray_arrays (s : State) (cl : Nat) (x : MArray) : (setArray s cl x).arrays = tset s.arrays cl x := rfl

@[simp] theorem setArray_walkers (s : State) (cl : Nat) (x : MArray) : (setArray s cl x).walkers = s.walkers := rfl

@[simp] theorem setArray_walkWait (s : State) (cl : Nat) (x : MArray) : (setArray s cl x).walkWait = s.walkWait := rfl

@[simp] theorem setArray_indexes (s : State) (cl : Nat) (x : MArray) : (setArray s cl x).indexes = s.indexes := rfl

@[simp] theorem setArray_idxCmds (s : State) (cl : Nat) (x : MArray) : (setArray s cl x).idxCmds = s.idxCmds := rfl

@[simp] theorem setArray_recvs (s : State) (cl : Nat) (x : MArray) : (setArray s cl x).recvs = s.recvs := rfl

@[simp] theorem setArray_watches (s : State) (cl : Nat) (x : MArray) : (setArray s cl x).watches = s.watches := rfl

@[simp] theorem setArray_allocs (s : State) (cl : Nat) (x : MArray) : (setArray s cl x).allocs = s.allocs := rfl

@[simp] theorem setArray_gwqs (s : State) (cl : Nat) (x : MArray) : (setArray s cl x).gwqs = s.gwqs := rfl

@[simp] theorem setArray_dist (s : State) (cl : Nat) (x : MArray) : (setArray s cl x).dist = s.dist := rfl

@[simp] theorem setArray_dev (s : State) (cl : Nat) (x : MArray) : (setArray s cl x).dev = s.dev := rfl

@[simp] theorem setArray_ports (s : State) (cl : Nat) (x : MArray) : (setArray s cl x).ports = s.ports := rfl

@[simp] theorem setArray_net (s : State) (cl : Nat) (x : MArray) : (setArray s cl x).net = s.net := rfl

@[simp] theorem setArray_host (s : State) (cl : Nat) (x : MArray) : (setArray s cl x).host = s.host := rfl

@[simp] theorem setArray_sched (s : State) (cl : Nat) (x : MArray) : (setArray s cl x).sched = s.sched := rfl

@[simp] theorem setWalker_fib (s : State) (cl : Nat) (x : Walker) : (setWalker s cl x).fib = s.fib := rfl

@[simp] theorem setWalker_fibres (s : State) (cl : Nat) (x : Walker) : (setWalker s cl x).fibres = s.fibres := rfl

@[simp] theorem setWalker_ms (s : State) (cl : Nat) (x : Walker) : (setWalker s cl x).ms = s.ms := rfl

@[simp] theorem setWalker_cores (s : State) (cl : Nat) (x : Walker) : (setWalker s cl x).cores = s.cores := rfl

@[simp] theorem setWalker_arrays (s : State) (cl : Nat) (x : Walker) : (setWalker s cl x).arrays = s.arrays := rfl

@[simp] theorem setWalker_walkers (s : State) (cl : Nat) (x : Walker) : (setWalker s cl x).walkers = tset s.walkers cl x := rfl

@[simp] theorem setWalker_walkWait (s : State) (cl : Nat) (x : Walker) : (setWalker s cl x).walkWait = s.walkWait := rfl

@[simp] theorem setWalker_indexes (s : State) (cl : Nat) (x : Walker) : (setWalker s cl x).indexes = s.indexes := rfl

@[simp] theorem setWalker_idxCmds (s : State) (cl : Nat) (x : Walker) : (setWalker s cl x).idxCmds = s.idxCmds := rfl

@[simp] theorem setWalker_recvs (s : State) (cl : Nat) (x : Walker) : (setWalker s cl x).recvs = s.recvs := rfl

@[simp] theorem setWalker_watches (s : State) (cl : Nat) (x : Walker) : (setWalker s cl x).watches = s.watches := rfl

@[simp] theorem setWalker_allocs (s : State) (cl : Nat) (x : Walker) : (setWalker s cl x).allocs = s.allocs := rfl

@[simp] theorem setWalker_gwqs (s : State) (cl : Nat) (x : Walker) : (setWalker s cl x).gwqs = s.gwqs := rfl

@[simp] theorem setWalker_dist (s : State) (cl : Nat) (x : Walker) : (setWalker s cl x).dist = s.dist := rfl

@[simp] theorem setWalker_dev (s : State) (cl : Nat) (x : Walker) : (setWalker s cl x).dev = s.dev := rfl

@[simp] theorem setWalker_ports (s : State) (cl : Nat) (x : Walker) : (setWalker s cl x).ports = s.ports := rfl

@[simp] theorem setWalker_net (s : State) (cl : Nat) (x : Walker) : (setWalker s cl x).net = s.net := rfl

@[simp] theorem setWalker_host (s : State) (cl : Nat) (x : Walker) : (setWalker s cl x).host = s.host := rfl

@[simp] theorem setWalker_sched (s : State) (cl : Nat) (x : Walker) : (setWalker s cl x).sched = s.sched := rfl

@[simp] theorem setRecv_fib (s : State) (d : Nat) (x : RecvEng) : (setRecv s d x).fib = s.fib := rfl

@[simp] theorem setRecv_fibres (s : State) (d : Nat) (x : RecvEng) : (setRecv s d x).fibres = s.fibres := rfl

@[simp] theorem setRecv_ms (s : State) (d : Nat) (x : RecvEng) : (setRecv s d x).ms = s.ms := rfl

@[simp] theorem setRecv_cores (s : State) (d : Nat) (x : RecvEng) : (setRecv s d x).cores = s.cores := rfl

@[simp] theorem setRecv_arrays (s : State) (d : Nat) (x : RecvEng) : (setRecv s d x).arrays = s.arrays := rfl

@[simp] theorem setRecv_walkers (s : State) (d : Nat) (x : RecvEng) : (setRecv s d x).walkers = s.walkers := rfl

@[simp] theorem setRecv_walkWait (s : State) (d : Nat) (x : RecvEng) : (setRecv s d x).walkWait = s.walkWait := rfl

@[simp] theorem setRecv_indexes (s : State) (d : Nat) (x : RecvEng) : (setRecv s d x).indexes = s.indexes := rfl

@[simp] theorem setRecv_idxCmds (s : State) (d : Nat) (x : RecvEng) : (setRecv s d x).idxCmds = s.idxCmds := rfl

@[simp] theorem setRecv_recvs (s : State) (d : Nat) (x : RecvEng) : (setRecv s d x).recvs = tset s.recvs d x := rfl

@[simp] theorem setRecv_watches (s : State) (d : Nat) (x : RecvEng) : (setRecv s d x).watches = s.watches := rfl

@[simp] theorem setRecv_allocs (s : State) (d : Nat) (x : RecvEng) : (setRecv s d x).allocs = s.allocs := rfl

@[simp] theorem setRecv_gwqs (s : State) (d : Nat) (x : RecvEng) : (setRecv s d x).gwqs = s.gwqs := rfl

@[simp] theorem setRecv_dist (s : State) (d : Nat) (x : RecvEng) : (setRecv s d x).dist = s.dist := rfl

@[simp] theorem setRecv_dev (s : State) (d : Nat) (x : RecvEng) : (setRecv s d x).dev = s.dev := rfl

@[simp] theorem setRecv_ports (s : State) (d : Nat) (x : RecvEng) : (setRecv s d x).ports = s.ports := rfl

@[simp] theorem setRecv_net (s : State) (d : Nat) (x : RecvEng) : (setRecv s d x).net = s.net := rfl

@[simp] theorem setRecv_host (s : State) (d : Nat) (x : RecvEng) : (setRecv s d x).host = s.host := rfl

@[simp] theorem setRecv_sched (s : State) (d : Nat) (x : RecvEng) : (setRecv s d x).sched = s.sched := rfl

@[simp] theorem setGwq_fib (s : State) (q : Nat) (x : Gwq) : (setGwq s q x).fib = s.fib := rfl

@[simp] theorem setGwq_fibres (s : State) (q : Nat) (x : Gwq) : (setGwq s q x).fibres = s.fibres := rfl

@[simp] theorem setGwq_ms (s : State) (q : Nat) (x : Gwq) : (setGwq s q x).ms = s.ms := rfl

@[simp] theorem setGwq_cores (s : State) (q : Nat) (x : Gwq) : (setGwq s q x).cores = s.cores := rfl

@[simp] theorem setGwq_arrays (s : State) (q : Nat) (x : Gwq) : (setGwq s q x).arrays = s.arrays := rfl

@[simp] theorem setGwq_walkers (s : State) (q : Nat) (x : Gwq) : (setGwq s q x).walkers = s.walkers := rfl

@[simp] theorem setGwq_walkWait (s : State) (q : Nat) (x : Gwq) : (setGwq s q x).walkWait = s.walkWait := rfl

@[simp] theorem setGwq_indexes (s : State) (q : Nat) (x : Gwq) : (setGwq s q x).indexes = s.indexes := rfl

@[simp] theorem setGwq_idxCmds (s : State) (q : Nat) (x : Gwq) : (setGwq s q x).idxCmds = s.idxCmds := rfl

@[simp] theorem setGwq_recvs (s : State) (q : Nat) (x : Gwq) : (setGwq s q x).recvs = s.recvs := rfl

@[simp] theorem setGwq_watches (s : State) (q : Nat) (x : Gwq) : (setGwq s q x).watches = s.watches := rfl

@[simp] theorem setGwq_allocs (s : State) (q : Nat) (x : Gwq) : (setGwq s q x).allocs = s.allocs := rfl

@[simp] theorem setGwq_gwqs (s : State) (q : Nat) (x : Gwq) : (setGwq s q x).gwqs = tset s.gwqs q x := rfl

@[simp] theorem setGwq_dist (s : State) (q : Nat) (x : Gwq) : (setGwq s q x).dist = s.dist := rfl

@[simp] theorem setGwq_dev (s : State) (q : Nat) (x : Gwq) : (setGwq s q x).dev = s.dev := rfl

@[simp] theorem setGwq_ports (s : State) (q : Nat) (x : Gwq) : (setGwq s q x).ports = s.ports := rfl

@[simp] theorem setGwq_net (s : State) (q : Nat) (x : Gwq) : (setGwq s q x).net = s.net := rfl

@[simp] theorem setGwq_host (s : State) (q : Nat) (x : Gwq) : (setGwq s q x).host = s.host := rfl

@[simp] theorem setGwq_sched (s : State) (q : Nat) (x : Gwq) : (setGwq s q x).sched = s.sched := rfl

@[simp] theorem setPort_fib (s : State) (f : Nat) (x : Port) : (setPort s f x).fib = s.fib := rfl

@[simp] theorem setPort_fibres (s : State) (f : Nat) (x : Port) : (setPort s f x).fibres = s.fibres := rfl

@[simp] theorem setPort_ms (s : State) (f : Nat) (x : Port) : (setPort s f x).ms = s.ms := rfl

@[simp] theorem setPort_cores (s : State) (f : Nat) (x : Port) : (setPort s f x).cores = s.cores := rfl

@[simp] theorem setPort_arrays (s : State) (f : Nat) (x : Port) : (setPort s f x).arrays = s.arrays := rfl

@[simp] theorem setPort_walkers (s : State) (f : Nat) (x : Port) : (setPort s f x).walkers = s.walkers := rfl

@[simp] theorem setPort_walkWait (s : State) (f : Nat) (x : Port) : (setPort s f x).walkWait = s.walkWait := rfl

@[simp] theorem setPort_indexes (s : State) (f : Nat) (x : Port) : (setPort s f x).indexes = s.indexes := rfl

@[simp] theorem setPort_idxCmds (s : State) (f : Nat) (x : Port) : (setPort s f x).idxCmds = s.idxCmds := rfl

@[simp] theorem setPort_recvs (s : State) (f : Nat) (x : Port) : (setPort s f x).recvs = s.recvs := rfl

@[simp] theorem setPort_watches (s : State) (f : Nat) (x : Port) : (setPort s f x).watches = s.watches := rfl

@[simp] theorem setPort_allocs (s : State) (f : Nat) (x : Port) : (setPort s f x).allocs = s.allocs := rfl

@[simp] theorem setPort_gwqs (s : State) (f : Nat) (x : Port) : (setPort s f x).gwqs = s.gwqs := rfl

@[simp] theorem setPort_dist (s : State) (f : Nat) (x : Port) : (setPort s f x).dist = s.dist := rfl

@[simp] theorem setPort_dev (s : State) (f : Nat) (x : Port) : (setPort s f x).dev = s.dev := rfl

@[simp] theorem setPort_ports (s : State) (f : Nat) (x : Port) : (setPort s f x).ports = tset s.ports f x := rfl

@[simp] theorem setPort_net (s : State) (f : Nat) (x : Port) : (setPort s f x).net = s.net := rfl

@[simp] theorem setPort_host (s : State) (f : Nat) (x : Port) : (setPort s f x).host = s.host := rfl

@[simp] theorem setPort_sched (s : State) (f : Nat) (x : Port) : (setPort s f x).sched = s.sched := rfl

@[simp] theorem setTenant_fib (s : State) (t : Nat) (x : Tenant) : (setTenant s t x).fib = s.fib := rfl

@[simp] theorem setTenant_fibres (s : State) (t : Nat) (x : Tenant) : (setTenant s t x).fibres = s.fibres := rfl

@[simp] theorem setTenant_ms (s : State) (t : Nat) (x : Tenant) : (setTenant s t x).ms = s.ms := rfl

@[simp] theorem setTenant_cores (s : State) (t : Nat) (x : Tenant) : (setTenant s t x).cores = s.cores := rfl

@[simp] theorem setTenant_arrays (s : State) (t : Nat) (x : Tenant) : (setTenant s t x).arrays = s.arrays := rfl

@[simp] theorem setTenant_walkers (s : State) (t : Nat) (x : Tenant) : (setTenant s t x).walkers = s.walkers := rfl

@[simp] theorem setTenant_walkWait (s : State) (t : Nat) (x : Tenant) : (setTenant s t x).walkWait = s.walkWait := rfl

@[simp] theorem setTenant_indexes (s : State) (t : Nat) (x : Tenant) : (setTenant s t x).indexes = s.indexes := rfl

@[simp] theorem setTenant_idxCmds (s : State) (t : Nat) (x : Tenant) : (setTenant s t x).idxCmds = s.idxCmds := rfl

@[simp] theorem setTenant_recvs (s : State) (t : Nat) (x : Tenant) : (setTenant s t x).recvs = s.recvs := rfl

@[simp] theorem setTenant_watches (s : State) (t : Nat) (x : Tenant) : (setTenant s t x).watches = s.watches := rfl

@[simp] theorem setTenant_allocs (s : State) (t : Nat) (x : Tenant) : (setTenant s t x).allocs = s.allocs := rfl

@[simp] theorem setTenant_gwqs (s : State) (t : Nat) (x : Tenant) : (setTenant s t x).gwqs = s.gwqs := rfl

@[simp] theorem setTenant_dist (s : State) (t : Nat) (x : Tenant) : (setTenant s t x).dist = s.dist := rfl

@[simp] theorem setTenant_ports (s : State) (t : Nat) (x : Tenant) : (setTenant s t x).ports = s.ports := rfl

@[simp] theorem setTenant_net (s : State) (t : Nat) (x : Tenant) : (setTenant s t x).net = s.net := rfl

@[simp] theorem setTenant_host (s : State) (t : Nat) (x : Tenant) : (setTenant s t x).host = s.host := rfl

@[simp] theorem setTenant_sched (s : State) (t : Nat) (x : Tenant) : (setTenant s t x).sched = s.sched := rfl

@[simp] theorem setMail_fib (s : State) (o : Nat) (v : Word) : (setMail s o v).fib = s.fib := rfl

@[simp] theorem setMail_fibres (s : State) (o : Nat) (v : Word) : (setMail s o v).fibres = s.fibres := rfl

@[simp] theorem setMail_ms (s : State) (o : Nat) (v : Word) : (setMail s o v).ms = s.ms := rfl

@[simp] theorem setMail_cores (s : State) (o : Nat) (v : Word) : (setMail s o v).cores = s.cores := rfl

@[simp] theorem setMail_arrays (s : State) (o : Nat) (v : Word) : (setMail s o v).arrays = s.arrays := rfl

@[simp] theorem setMail_walkers (s : State) (o : Nat) (v : Word) : (setMail s o v).walkers = s.walkers := rfl

@[simp] theorem setMail_walkWait (s : State) (o : Nat) (v : Word) : (setMail s o v).walkWait = s.walkWait := rfl

@[simp] theorem setMail_indexes (s : State) (o : Nat) (v : Word) : (setMail s o v).indexes = s.indexes := rfl

@[simp] theorem setMail_idxCmds (s : State) (o : Nat) (v : Word) : (setMail s o v).idxCmds = s.idxCmds := rfl

@[simp] theorem setMail_recvs (s : State) (o : Nat) (v : Word) : (setMail s o v).recvs = s.recvs := rfl

@[simp] theorem setMail_watches (s : State) (o : Nat) (v : Word) : (setMail s o v).watches = s.watches := rfl

@[simp] theorem setMail_allocs (s : State) (o : Nat) (v : Word) : (setMail s o v).allocs = s.allocs := rfl

@[simp] theorem setMail_gwqs (s : State) (o : Nat) (v : Word) : (setMail s o v).gwqs = s.gwqs := rfl

@[simp] theorem setMail_dist (s : State) (o : Nat) (v : Word) : (setMail s o v).dist = s.dist := rfl

@[simp] theorem setMail_ports (s : State) (o : Nat) (v : Word) : (setMail s o v).ports = s.ports := rfl

@[simp] theorem setMail_net (s : State) (o : Nat) (v : Word) : (setMail s o v).net = s.net := rfl

@[simp] theorem setMail_host (s : State) (o : Nat) (v : Word) : (setMail s o v).host = s.host := rfl

@[simp] theorem setMail_sched (s : State) (o : Nat) (v : Word) : (setMail s o v).sched = s.sched := rfl

@[simp] theorem countViolation_fib (s : State) : (countViolation s).fib = s.fib := rfl

@[simp] theorem countViolation_fibres (s : State) : (countViolation s).fibres = s.fibres := rfl

@[simp] theorem countViolation_ms (s : State) : (countViolation s).ms = s.ms := rfl

@[simp] theorem countViolation_cores (s : State) : (countViolation s).cores = s.cores := rfl

@[simp] theorem countViolation_arrays (s : State) : (countViolation s).arrays = s.arrays := rfl

@[simp] theorem countViolation_walkers (s : State) : (countViolation s).walkers = s.walkers := rfl

@[simp] theorem countViolation_walkWait (s : State) : (countViolation s).walkWait = s.walkWait := rfl

@[simp] theorem countViolation_indexes (s : State) : (countViolation s).indexes = s.indexes := rfl

@[simp] theorem countViolation_idxCmds (s : State) : (countViolation s).idxCmds = s.idxCmds := rfl

@[simp] theorem countViolation_recvs (s : State) : (countViolation s).recvs = s.recvs := rfl

@[simp] theorem countViolation_watches (s : State) : (countViolation s).watches = s.watches := rfl

@[simp] theorem countViolation_allocs (s : State) : (countViolation s).allocs = s.allocs := rfl

@[simp] theorem countViolation_gwqs (s : State) : (countViolation s).gwqs = s.gwqs := rfl

@[simp] theorem countViolation_dist (s : State) : (countViolation s).dist = s.dist := rfl

@[simp] theorem countViolation_ports (s : State) : (countViolation s).ports = s.ports := rfl

@[simp] theorem countViolation_net (s : State) : (countViolation s).net = s.net := rfl

@[simp] theorem countViolation_host (s : State) : (countViolation s).host = s.host := rfl

@[simp] theorem countViolation_sched (s : State) : (countViolation s).sched = s.sched := rfl

@[simp] theorem modGang_fib (s : State) (g : Nat) (h : Gang → Gang) : (modGang s g h).fib = s.fib := rfl

@[simp] theorem modGang_fibres (s : State) (g : Nat) (h : Gang → Gang) : (modGang s g h).fibres = s.fibres := rfl

@[simp] theorem modGang_ms (s : State) (g : Nat) (h : Gang → Gang) : (modGang s g h).ms = s.ms := rfl

@[simp] theorem modGang_cores (s : State) (g : Nat) (h : Gang → Gang) : (modGang s g h).cores = s.cores := rfl

@[simp] theorem modGang_arrays (s : State) (g : Nat) (h : Gang → Gang) : (modGang s g h).arrays = s.arrays := rfl

@[simp] theorem modGang_walkers (s : State) (g : Nat) (h : Gang → Gang) : (modGang s g h).walkers = s.walkers := rfl

@[simp] theorem modGang_walkWait (s : State) (g : Nat) (h : Gang → Gang) : (modGang s g h).walkWait = s.walkWait := rfl

@[simp] theorem modGang_indexes (s : State) (g : Nat) (h : Gang → Gang) : (modGang s g h).indexes = s.indexes := rfl

@[simp] theorem modGang_idxCmds (s : State) (g : Nat) (h : Gang → Gang) : (modGang s g h).idxCmds = s.idxCmds := rfl

@[simp] theorem modGang_recvs (s : State) (g : Nat) (h : Gang → Gang) : (modGang s g h).recvs = s.recvs := rfl

@[simp] theorem modGang_watches (s : State) (g : Nat) (h : Gang → Gang) : (modGang s g h).watches = s.watches := rfl

@[simp] theorem modGang_allocs (s : State) (g : Nat) (h : Gang → Gang) : (modGang s g h).allocs = s.allocs := rfl

@[simp] theorem modGang_gwqs (s : State) (g : Nat) (h : Gang → Gang) : (modGang s g h).gwqs = s.gwqs := rfl

@[simp] theorem modGang_dev (s : State) (g : Nat) (h : Gang → Gang) : (modGang s g h).dev = s.dev := rfl

@[simp] theorem modGang_ports (s : State) (g : Nat) (h : Gang → Gang) : (modGang s g h).ports = s.ports := rfl

@[simp] theorem modGang_net (s : State) (g : Nat) (h : Gang → Gang) : (modGang s g h).net = s.net := rfl

@[simp] theorem modGang_host (s : State) (g : Nat) (h : Gang → Gang) : (modGang s g h).host = s.host := rfl

@[simp] theorem modGang_sched (s : State) (g : Nat) (h : Gang → Gang) : (modGang s g h).sched = s.sched := rfl

@[simp] theorem modLaunch_fib (s : State) (n : Nat) (h : Launch → Launch) : (modLaunch s n h).fib = s.fib := rfl

@[simp] theorem modLaunch_fibres (s : State) (n : Nat) (h : Launch → Launch) : (modLaunch s n h).fibres = s.fibres := rfl

@[simp] theorem modLaunch_ms (s : State) (n : Nat) (h : Launch → Launch) : (modLaunch s n h).ms = s.ms := rfl

@[simp] theorem modLaunch_cores (s : State) (n : Nat) (h : Launch → Launch) : (modLaunch s n h).cores = s.cores := rfl

@[simp] theorem modLaunch_arrays (s : State) (n : Nat) (h : Launch → Launch) : (modLaunch s n h).arrays = s.arrays := rfl

@[simp] theorem modLaunch_walkers (s : State) (n : Nat) (h : Launch → Launch) : (modLaunch s n h).walkers = s.walkers := rfl

@[simp] theorem modLaunch_walkWait (s : State) (n : Nat) (h : Launch → Launch) : (modLaunch s n h).walkWait = s.walkWait := rfl

@[simp] theorem modLaunch_indexes (s : State) (n : Nat) (h : Launch → Launch) : (modLaunch s n h).indexes = s.indexes := rfl

@[simp] theorem modLaunch_idxCmds (s : State) (n : Nat) (h : Launch → Launch) : (modLaunch s n h).idxCmds = s.idxCmds := rfl

@[simp] theorem modLaunch_recvs (s : State) (n : Nat) (h : Launch → Launch) : (modLaunch s n h).recvs = s.recvs := rfl

@[simp] theorem modLaunch_watches (s : State) (n : Nat) (h : Launch → Launch) : (modLaunch s n h).watches = s.watches := rfl

@[simp] theorem modLaunch_allocs (s : State) (n : Nat) (h : Launch → Launch) : (modLaunch s n h).allocs = s.allocs := rfl

@[simp] theorem modLaunch_gwqs (s : State) (n : Nat) (h : Launch → Launch) : (modLaunch s n h).gwqs = s.gwqs := rfl

@[simp] theorem modLaunch_dev (s : State) (n : Nat) (h : Launch → Launch) : (modLaunch s n h).dev = s.dev := rfl

@[simp] theorem modLaunch_ports (s : State) (n : Nat) (h : Launch → Launch) : (modLaunch s n h).ports = s.ports := rfl

@[simp] theorem modLaunch_net (s : State) (n : Nat) (h : Launch → Launch) : (modLaunch s n h).net = s.net := rfl

@[simp] theorem modLaunch_host (s : State) (n : Nat) (h : Launch → Launch) : (modLaunch s n h).host = s.host := rfl

@[simp] theorem modLaunch_sched (s : State) (n : Nat) (h : Launch → Launch) : (modLaunch s n h).sched = s.sched := rfl

@[simp] theorem setTs_fib (s : State) (k : Nat) (t : LineTs) : (setTs s k t).fib = s.fib := rfl

@[simp] theorem setTs_fibres (s : State) (k : Nat) (t : LineTs) : (setTs s k t).fibres = s.fibres := rfl

@[simp] theorem setTs_cores (s : State) (k : Nat) (t : LineTs) : (setTs s k t).cores = s.cores := rfl

@[simp] theorem setTs_arrays (s : State) (k : Nat) (t : LineTs) : (setTs s k t).arrays = s.arrays := rfl

@[simp] theorem setTs_walkers (s : State) (k : Nat) (t : LineTs) : (setTs s k t).walkers = s.walkers := rfl

@[simp] theorem setTs_walkWait (s : State) (k : Nat) (t : LineTs) : (setTs s k t).walkWait = s.walkWait := rfl

@[simp] theorem setTs_indexes (s : State) (k : Nat) (t : LineTs) : (setTs s k t).indexes = s.indexes := rfl

@[simp] theorem setTs_idxCmds (s : State) (k : Nat) (t : LineTs) : (setTs s k t).idxCmds = s.idxCmds := rfl

@[simp] theorem setTs_recvs (s : State) (k : Nat) (t : LineTs) : (setTs s k t).recvs = s.recvs := rfl

@[simp] theorem setTs_watches (s : State) (k : Nat) (t : LineTs) : (setTs s k t).watches = s.watches := rfl

@[simp] theorem setTs_allocs (s : State) (k : Nat) (t : LineTs) : (setTs s k t).allocs = s.allocs := rfl

@[simp] theorem setTs_gwqs (s : State) (k : Nat) (t : LineTs) : (setTs s k t).gwqs = s.gwqs := rfl

@[simp] theorem setTs_dist (s : State) (k : Nat) (t : LineTs) : (setTs s k t).dist = s.dist := rfl

@[simp] theorem setTs_dev (s : State) (k : Nat) (t : LineTs) : (setTs s k t).dev = s.dev := rfl

@[simp] theorem setTs_ports (s : State) (k : Nat) (t : LineTs) : (setTs s k t).ports = s.ports := rfl

@[simp] theorem setTs_net (s : State) (k : Nat) (t : LineTs) : (setTs s k t).net = s.net := rfl

@[simp] theorem setTs_host (s : State) (k : Nat) (t : LineTs) : (setTs s k t).host = s.host := rfl

@[simp] theorem setTs_sched (s : State) (k : Nat) (t : LineTs) : (setTs s k t).sched = s.sched := rfl

@[simp] theorem dropReq_fib (s : State) (n : Nat) : (dropReq s n).fib = s.fib := rfl

@[simp] theorem dropReq_fibres (s : State) (n : Nat) : (dropReq s n).fibres = s.fibres := rfl

@[simp] theorem dropReq_cores (s : State) (n : Nat) : (dropReq s n).cores = s.cores := rfl

@[simp] theorem dropReq_arrays (s : State) (n : Nat) : (dropReq s n).arrays = s.arrays := rfl

@[simp] theorem dropReq_walkers (s : State) (n : Nat) : (dropReq s n).walkers = s.walkers := rfl

@[simp] theorem dropReq_walkWait (s : State) (n : Nat) : (dropReq s n).walkWait = s.walkWait := rfl

@[simp] theorem dropReq_indexes (s : State) (n : Nat) : (dropReq s n).indexes = s.indexes := rfl

@[simp] theorem dropReq_idxCmds (s : State) (n : Nat) : (dropReq s n).idxCmds = s.idxCmds := rfl

@[simp] theorem dropReq_recvs (s : State) (n : Nat) : (dropReq s n).recvs = s.recvs := rfl

@[simp] theorem dropReq_watches (s : State) (n : Nat) : (dropReq s n).watches = s.watches := rfl

@[simp] theorem dropReq_allocs (s : State) (n : Nat) : (dropReq s n).allocs = s.allocs := rfl

@[simp] theorem dropReq_gwqs (s : State) (n : Nat) : (dropReq s n).gwqs = s.gwqs := rfl

@[simp] theorem dropReq_dist (s : State) (n : Nat) : (dropReq s n).dist = s.dist := rfl

@[simp] theorem dropReq_dev (s : State) (n : Nat) : (dropReq s n).dev = s.dev := rfl

@[simp] theorem dropReq_ports (s : State) (n : Nat) : (dropReq s n).ports = s.ports := rfl

@[simp] theorem dropReq_net (s : State) (n : Nat) : (dropReq s n).net = s.net := rfl

@[simp] theorem dropReq_host (s : State) (n : Nat) : (dropReq s n).host = s.host := rfl

@[simp] theorem dropReq_sched (s : State) (n : Nat) : (dropReq s n).sched = s.sched := rfl

@[simp] theorem modReq_fib (s : State) (n : Nat) (g : Req → Req) : (modReq s n g).fib = s.fib := rfl

@[simp] theorem modReq_fibres (s : State) (n : Nat) (g : Req → Req) : (modReq s n g).fibres = s.fibres := rfl

@[simp] theorem modReq_cores (s : State) (n : Nat) (g : Req → Req) : (modReq s n g).cores = s.cores := rfl

@[simp] theorem modReq_arrays (s : State) (n : Nat) (g : Req → Req) : (modReq s n g).arrays = s.arrays := rfl

@[simp] theorem modReq_walkers (s : State) (n : Nat) (g : Req → Req) : (modReq s n g).walkers = s.walkers := rfl

@[simp] theorem modReq_walkWait (s : State) (n : Nat) (g : Req → Req) : (modReq s n g).walkWait = s.walkWait := rfl

@[simp] theorem modReq_indexes (s : State) (n : Nat) (g : Req → Req) : (modReq s n g).indexes = s.indexes := rfl

@[simp] theorem modReq_idxCmds (s : State) (n : Nat) (g : Req → Req) : (modReq s n g).idxCmds = s.idxCmds := rfl

@[simp] theorem modReq_recvs (s : State) (n : Nat) (g : Req → Req) : (modReq s n g).recvs = s.recvs := rfl

@[simp] theorem modReq_watches (s : State) (n : Nat) (g : Req → Req) : (modReq s n g).watches = s.watches := rfl

@[simp] theorem modReq_allocs (s : State) (n : Nat) (g : Req → Req) : (modReq s n g).allocs = s.allocs := rfl

@[simp] theorem modReq_gwqs (s : State) (n : Nat) (g : Req → Req) : (modReq s n g).gwqs = s.gwqs := rfl

@[simp] theorem modReq_dist (s : State) (n : Nat) (g : Req → Req) : (modReq s n g).dist = s.dist := rfl

@[simp] theorem modReq_dev (s : State) (n : Nat) (g : Req → Req) : (modReq s n g).dev = s.dev := rfl

@[simp] theorem modReq_ports (s : State) (n : Nat) (g : Req → Req) : (modReq s n g).ports = s.ports := rfl

@[simp] theorem modReq_net (s : State) (n : Nat) (g : Req → Req) : (modReq s n g).net = s.net := rfl

@[simp] theorem modReq_host (s : State) (n : Nat) (g : Req → Req) : (modReq s n g).host = s.host := rfl

@[simp] theorem modReq_sched (s : State) (n : Nat) (g : Req → Req) : (modReq s n g).sched = s.sched := rfl

@[simp] theorem setFull_fib (s : State) (a : Nat) (b : Bool) : (setFull s a b).fib = s.fib := rfl

@[simp] theorem setFull_fibres (s : State) (a : Nat) (b : Bool) : (setFull s a b).fibres = s.fibres := rfl

@[simp] theorem setFull_cores (s : State) (a : Nat) (b : Bool) : (setFull s a b).cores = s.cores := rfl

@[simp] theorem setFull_arrays (s : State) (a : Nat) (b : Bool) : (setFull s a b).arrays = s.arrays := rfl

@[simp] theorem setFull_walkers (s : State) (a : Nat) (b : Bool) : (setFull s a b).walkers = s.walkers := rfl

@[simp] theorem setFull_walkWait (s : State) (a : Nat) (b : Bool) : (setFull s a b).walkWait = s.walkWait := rfl

@[simp] theorem setFull_indexes (s : State) (a : Nat) (b : Bool) : (setFull s a b).indexes = s.indexes := rfl

@[simp] theorem setFull_idxCmds (s : State) (a : Nat) (b : Bool) : (setFull s a b).idxCmds = s.idxCmds := rfl

@[simp] theorem setFull_recvs (s : State) (a : Nat) (b : Bool) : (setFull s a b).recvs = s.recvs := rfl

@[simp] theorem setFull_watches (s : State) (a : Nat) (b : Bool) : (setFull s a b).watches = s.watches := rfl

@[simp] theorem setFull_allocs (s : State) (a : Nat) (b : Bool) : (setFull s a b).allocs = s.allocs := rfl

@[simp] theorem setFull_gwqs (s : State) (a : Nat) (b : Bool) : (setFull s a b).gwqs = s.gwqs := rfl

@[simp] theorem setFull_dist (s : State) (a : Nat) (b : Bool) : (setFull s a b).dist = s.dist := rfl

@[simp] theorem setFull_dev (s : State) (a : Nat) (b : Bool) : (setFull s a b).dev = s.dev := rfl

@[simp] theorem setFull_ports (s : State) (a : Nat) (b : Bool) : (setFull s a b).ports = s.ports := rfl

@[simp] theorem setFull_net (s : State) (a : Nat) (b : Bool) : (setFull s a b).net = s.net := rfl

@[simp] theorem setFull_host (s : State) (a : Nat) (b : Bool) : (setFull s a b).host = s.host := rfl

@[simp] theorem setFull_sched (s : State) (a : Nat) (b : Bool) : (setFull s a b).sched = s.sched := rfl

@[simp] theorem raiseClock_fib (s : State) (u c : Nat) : (raiseClock s u c).fib = s.fib := by
  unfold raiseClock
  repeat' split
  all_goals rfl

@[simp] theorem raiseClock_fibres (s : State) (u c : Nat) : (raiseClock s u c).fibres = s.fibres := by
  unfold raiseClock
  repeat' split
  all_goals rfl

@[simp] theorem raiseClock_ms (s : State) (u c : Nat) : (raiseClock s u c).ms = s.ms := by
  unfold raiseClock
  repeat' split
  all_goals rfl

@[simp] theorem raiseClock_cores (s : State) (u c : Nat) : (raiseClock s u c).cores = s.cores := by
  unfold raiseClock
  repeat' split
  all_goals rfl

@[simp] theorem raiseClock_arrays (s : State) (u c : Nat) : (raiseClock s u c).arrays = s.arrays := by
  unfold raiseClock
  repeat' split
  all_goals rfl

@[simp] theorem raiseClock_walkers (s : State) (u c : Nat) : (raiseClock s u c).walkers = s.walkers := by
  unfold raiseClock
  repeat' split
  all_goals rfl

@[simp] theorem raiseClock_walkWait (s : State) (u c : Nat) : (raiseClock s u c).walkWait = s.walkWait := by
  unfold raiseClock
  repeat' split
  all_goals rfl

@[simp] theorem raiseClock_indexes (s : State) (u c : Nat) : (raiseClock s u c).indexes = s.indexes := by
  unfold raiseClock
  repeat' split
  all_goals rfl

@[simp] theorem raiseClock_idxCmds (s : State) (u c : Nat) : (raiseClock s u c).idxCmds = s.idxCmds := by
  unfold raiseClock
  repeat' split
  all_goals rfl

@[simp] theorem raiseClock_recvs (s : State) (u c : Nat) : (raiseClock s u c).recvs = s.recvs := by
  unfold raiseClock
  repeat' split
  all_goals rfl

@[simp] theorem raiseClock_watches (s : State) (u c : Nat) : (raiseClock s u c).watches = s.watches := by
  unfold raiseClock
  repeat' split
  all_goals rfl

@[simp] theorem raiseClock_allocs (s : State) (u c : Nat) : (raiseClock s u c).allocs = s.allocs := by
  unfold raiseClock
  repeat' split
  all_goals rfl

@[simp] theorem raiseClock_gwqs (s : State) (u c : Nat) : (raiseClock s u c).gwqs = s.gwqs := by
  unfold raiseClock
  repeat' split
  all_goals rfl

@[simp] theorem raiseClock_dist (s : State) (u c : Nat) : (raiseClock s u c).dist = s.dist := by
  unfold raiseClock
  repeat' split
  all_goals rfl

@[simp] theorem raiseClock_dev (s : State) (u c : Nat) : (raiseClock s u c).dev = s.dev := by
  unfold raiseClock
  repeat' split
  all_goals rfl

@[simp] theorem raiseClock_ports (s : State) (u c : Nat) : (raiseClock s u c).ports = s.ports := by
  unfold raiseClock
  repeat' split
  all_goals rfl

@[simp] theorem raiseClock_net (s : State) (u c : Nat) : (raiseClock s u c).net = s.net := by
  unfold raiseClock
  repeat' split
  all_goals rfl

@[simp] theorem raiseClock_host (s : State) (u c : Nat) : (raiseClock s u c).host = s.host := by
  unfold raiseClock
  repeat' split
  all_goals rfl

@[simp] theorem parkOn_fib (s : State) (w : Wait) : (parkOn s w).fib = { s.fib with run := .parked w } := rfl

@[simp] theorem parkOn_fibres (s : State) (w : Wait) : (parkOn s w).fibres = s.fibres := rfl

@[simp] theorem parkOn_ms (s : State) (w : Wait) : (parkOn s w).ms = s.ms := rfl

@[simp] theorem parkOn_cores (s : State) (w : Wait) : (parkOn s w).cores = s.cores := rfl

@[simp] theorem parkOn_arrays (s : State) (w : Wait) : (parkOn s w).arrays = s.arrays := rfl

@[simp] theorem parkOn_walkers (s : State) (w : Wait) : (parkOn s w).walkers = s.walkers := rfl

@[simp] theorem parkOn_walkWait (s : State) (w : Wait) : (parkOn s w).walkWait = s.walkWait := rfl

@[simp] theorem parkOn_indexes (s : State) (w : Wait) : (parkOn s w).indexes = s.indexes := rfl

@[simp] theorem parkOn_idxCmds (s : State) (w : Wait) : (parkOn s w).idxCmds = s.idxCmds := rfl

@[simp] theorem parkOn_recvs (s : State) (w : Wait) : (parkOn s w).recvs = s.recvs := rfl

@[simp] theorem parkOn_watches (s : State) (w : Wait) : (parkOn s w).watches = s.watches := rfl

@[simp] theorem parkOn_allocs (s : State) (w : Wait) : (parkOn s w).allocs = s.allocs := rfl

@[simp] theorem parkOn_gwqs (s : State) (w : Wait) : (parkOn s w).gwqs = s.gwqs := rfl

@[simp] theorem parkOn_dist (s : State) (w : Wait) : (parkOn s w).dist = s.dist := rfl

@[simp] theorem parkOn_dev (s : State) (w : Wait) : (parkOn s w).dev = s.dev := rfl

@[simp] theorem parkOn_ports (s : State) (w : Wait) : (parkOn s w).ports = s.ports := rfl

@[simp] theorem parkOn_net (s : State) (w : Wait) : (parkOn s w).net = s.net := rfl

@[simp] theorem parkOn_host (s : State) (w : Wait) : (parkOn s w).host = s.host := rfl

@[simp] theorem parkOn_sched (s : State) (w : Wait) : (parkOn s w).sched = s.sched := rfl

@[simp] theorem setShort_fib (s : State) (d : Reg) (v : Word) : (setShort s d v).fib = writeShort s.fib d v := rfl

@[simp] theorem setShort_fibres (s : State) (d : Reg) (v : Word) : (setShort s d v).fibres = s.fibres := rfl

@[simp] theorem setShort_ms (s : State) (d : Reg) (v : Word) : (setShort s d v).ms = s.ms := rfl

@[simp] theorem setShort_cores (s : State) (d : Reg) (v : Word) : (setShort s d v).cores = s.cores := rfl

@[simp] theorem setShort_arrays (s : State) (d : Reg) (v : Word) : (setShort s d v).arrays = s.arrays := rfl

@[simp] theorem setShort_walkers (s : State) (d : Reg) (v : Word) : (setShort s d v).walkers = s.walkers := rfl

@[simp] theorem setShort_walkWait (s : State) (d : Reg) (v : Word) : (setShort s d v).walkWait = s.walkWait := rfl

@[simp] theorem setShort_indexes (s : State) (d : Reg) (v : Word) : (setShort s d v).indexes = s.indexes := rfl

@[simp] theorem setShort_idxCmds (s : State) (d : Reg) (v : Word) : (setShort s d v).idxCmds = s.idxCmds := rfl

@[simp] theorem setShort_recvs (s : State) (d : Reg) (v : Word) : (setShort s d v).recvs = s.recvs := rfl

@[simp] theorem setShort_watches (s : State) (d : Reg) (v : Word) : (setShort s d v).watches = s.watches := rfl

@[simp] theorem setShort_allocs (s : State) (d : Reg) (v : Word) : (setShort s d v).allocs = s.allocs := rfl

@[simp] theorem setShort_gwqs (s : State) (d : Reg) (v : Word) : (setShort s d v).gwqs = s.gwqs := rfl

@[simp] theorem setShort_dist (s : State) (d : Reg) (v : Word) : (setShort s d v).dist = s.dist := rfl

@[simp] theorem setShort_dev (s : State) (d : Reg) (v : Word) : (setShort s d v).dev = s.dev := rfl

@[simp] theorem setShort_ports (s : State) (d : Reg) (v : Word) : (setShort s d v).ports = s.ports := rfl

@[simp] theorem setShort_net (s : State) (d : Reg) (v : Word) : (setShort s d v).net = s.net := rfl

@[simp] theorem setShort_host (s : State) (d : Reg) (v : Word) : (setShort s d v).host = s.host := rfl

@[simp] theorem setShort_sched (s : State) (d : Reg) (v : Word) : (setShort s d v).sched = s.sched := rfl

@[simp] theorem setLong_fib (s : State) (d : Reg) (v : Word) (fl : BitVec 5) : (setLong s d v fl).fib = writeLong s.fib s.sched.nextId d v fl := rfl

@[simp] theorem setLong_fibres (s : State) (d : Reg) (v : Word) (fl : BitVec 5) : (setLong s d v fl).fibres = s.fibres := rfl

@[simp] theorem setLong_ms (s : State) (d : Reg) (v : Word) (fl : BitVec 5) : (setLong s d v fl).ms = s.ms := rfl

@[simp] theorem setLong_cores (s : State) (d : Reg) (v : Word) (fl : BitVec 5) : (setLong s d v fl).cores = s.cores := rfl

@[simp] theorem setLong_arrays (s : State) (d : Reg) (v : Word) (fl : BitVec 5) : (setLong s d v fl).arrays = s.arrays := rfl

@[simp] theorem setLong_walkers (s : State) (d : Reg) (v : Word) (fl : BitVec 5) : (setLong s d v fl).walkers = s.walkers := rfl

@[simp] theorem setLong_walkWait (s : State) (d : Reg) (v : Word) (fl : BitVec 5) : (setLong s d v fl).walkWait = s.walkWait := rfl

@[simp] theorem setLong_indexes (s : State) (d : Reg) (v : Word) (fl : BitVec 5) : (setLong s d v fl).indexes = s.indexes := rfl

@[simp] theorem setLong_idxCmds (s : State) (d : Reg) (v : Word) (fl : BitVec 5) : (setLong s d v fl).idxCmds = s.idxCmds := rfl

@[simp] theorem setLong_recvs (s : State) (d : Reg) (v : Word) (fl : BitVec 5) : (setLong s d v fl).recvs = s.recvs := rfl

@[simp] theorem setLong_watches (s : State) (d : Reg) (v : Word) (fl : BitVec 5) : (setLong s d v fl).watches = s.watches := rfl

@[simp] theorem setLong_allocs (s : State) (d : Reg) (v : Word) (fl : BitVec 5) : (setLong s d v fl).allocs = s.allocs := rfl

@[simp] theorem setLong_gwqs (s : State) (d : Reg) (v : Word) (fl : BitVec 5) : (setLong s d v fl).gwqs = s.gwqs := rfl

@[simp] theorem setLong_dist (s : State) (d : Reg) (v : Word) (fl : BitVec 5) : (setLong s d v fl).dist = s.dist := rfl

@[simp] theorem setLong_dev (s : State) (d : Reg) (v : Word) (fl : BitVec 5) : (setLong s d v fl).dev = s.dev := rfl

@[simp] theorem setLong_ports (s : State) (d : Reg) (v : Word) (fl : BitVec 5) : (setLong s d v fl).ports = s.ports := rfl

@[simp] theorem setLong_net (s : State) (d : Reg) (v : Word) (fl : BitVec 5) : (setLong s d v fl).net = s.net := rfl

@[simp] theorem setLong_host (s : State) (d : Reg) (v : Word) (fl : BitVec 5) : (setLong s d v fl).host = s.host := rfl

@[simp] theorem setAwait_fibres (s : State) (n : Nat) (d : Reg) : (setAwait s n d).fibres = s.fibres := by
  unfold setAwait
  split <;> rfl

@[simp] theorem setAwait_ms (s : State) (n : Nat) (d : Reg) : (setAwait s n d).ms = s.ms := by
  unfold setAwait
  split <;> rfl

@[simp] theorem setAwait_cores (s : State) (n : Nat) (d : Reg) : (setAwait s n d).cores = s.cores := by
  unfold setAwait
  split <;> rfl

@[simp] theorem setAwait_arrays (s : State) (n : Nat) (d : Reg) : (setAwait s n d).arrays = s.arrays := by
  unfold setAwait
  split <;> rfl

@[simp] theorem setAwait_walkers (s : State) (n : Nat) (d : Reg) : (setAwait s n d).walkers = s.walkers := by
  unfold setAwait
  split <;> rfl

@[simp] theorem setAwait_walkWait (s : State) (n : Nat) (d : Reg) : (setAwait s n d).walkWait = s.walkWait := by
  unfold setAwait
  split <;> rfl

@[simp] theorem setAwait_indexes (s : State) (n : Nat) (d : Reg) : (setAwait s n d).indexes = s.indexes := by
  unfold setAwait
  split <;> rfl

@[simp] theorem setAwait_idxCmds (s : State) (n : Nat) (d : Reg) : (setAwait s n d).idxCmds = s.idxCmds := by
  unfold setAwait
  split <;> rfl

@[simp] theorem setAwait_recvs (s : State) (n : Nat) (d : Reg) : (setAwait s n d).recvs = s.recvs := by
  unfold setAwait
  split <;> rfl

@[simp] theorem setAwait_watches (s : State) (n : Nat) (d : Reg) : (setAwait s n d).watches = s.watches := by
  unfold setAwait
  split <;> rfl

@[simp] theorem setAwait_allocs (s : State) (n : Nat) (d : Reg) : (setAwait s n d).allocs = s.allocs := by
  unfold setAwait
  split <;> rfl

@[simp] theorem setAwait_gwqs (s : State) (n : Nat) (d : Reg) : (setAwait s n d).gwqs = s.gwqs := by
  unfold setAwait
  split <;> rfl

@[simp] theorem setAwait_dist (s : State) (n : Nat) (d : Reg) : (setAwait s n d).dist = s.dist := by
  unfold setAwait
  split <;> rfl

@[simp] theorem setAwait_dev (s : State) (n : Nat) (d : Reg) : (setAwait s n d).dev = s.dev := by
  unfold setAwait
  split <;> rfl

@[simp] theorem setAwait_ports (s : State) (n : Nat) (d : Reg) : (setAwait s n d).ports = s.ports := by
  unfold setAwait
  split <;> rfl

@[simp] theorem setAwait_net (s : State) (n : Nat) (d : Reg) : (setAwait s n d).net = s.net := by
  unfold setAwait
  split <;> rfl

@[simp] theorem setAwait_host (s : State) (n : Nat) (d : Reg) : (setAwait s n d).host = s.host := by
  unfold setAwait
  split <;> rfl

@[simp] theorem setAwait_sched (s : State) (n : Nat) (d : Reg) : (setAwait s n d).sched = s.sched := by
  unfold setAwait
  split <;> rfl

@[simp] theorem modFibre_ms (s : State) (n : Nat) (g : Fibre → Fibre) : (modFibre s n g).ms = s.ms := by
  unfold modFibre
  repeat' split
  all_goals rfl

@[simp] theorem modFibre_cores (s : State) (n : Nat) (g : Fibre → Fibre) : (modFibre s n g).cores = s.cores := by
  unfold modFibre
  repeat' split
  all_goals rfl

@[simp] theorem modFibre_arrays (s : State) (n : Nat) (g : Fibre → Fibre) : (modFibre s n g).arrays = s.arrays := by
  unfold modFibre
  repeat' split
  all_goals rfl

@[simp] theorem modFibre_walkers (s : State) (n : Nat) (g : Fibre → Fibre) : (modFibre s n g).walkers = s.walkers := by
  unfold modFibre
  repeat' split
  all_goals rfl

@[simp] theorem modFibre_walkWait (s : State) (n : Nat) (g : Fibre → Fibre) : (modFibre s n g).walkWait = s.walkWait := by
  unfold modFibre
  repeat' split
  all_goals rfl

@[simp] theorem modFibre_indexes (s : State) (n : Nat) (g : Fibre → Fibre) : (modFibre s n g).indexes = s.indexes := by
  unfold modFibre
  repeat' split
  all_goals rfl

@[simp] theorem modFibre_idxCmds (s : State) (n : Nat) (g : Fibre → Fibre) : (modFibre s n g).idxCmds = s.idxCmds := by
  unfold modFibre
  repeat' split
  all_goals rfl

@[simp] theorem modFibre_recvs (s : State) (n : Nat) (g : Fibre → Fibre) : (modFibre s n g).recvs = s.recvs := by
  unfold modFibre
  repeat' split
  all_goals rfl

@[simp] theorem modFibre_watches (s : State) (n : Nat) (g : Fibre → Fibre) : (modFibre s n g).watches = s.watches := by
  unfold modFibre
  repeat' split
  all_goals rfl

@[simp] theorem modFibre_allocs (s : State) (n : Nat) (g : Fibre → Fibre) : (modFibre s n g).allocs = s.allocs := by
  unfold modFibre
  repeat' split
  all_goals rfl

@[simp] theorem modFibre_gwqs (s : State) (n : Nat) (g : Fibre → Fibre) : (modFibre s n g).gwqs = s.gwqs := by
  unfold modFibre
  repeat' split
  all_goals rfl

@[simp] theorem modFibre_dist (s : State) (n : Nat) (g : Fibre → Fibre) : (modFibre s n g).dist = s.dist := by
  unfold modFibre
  repeat' split
  all_goals rfl

@[simp] theorem modFibre_dev (s : State) (n : Nat) (g : Fibre → Fibre) : (modFibre s n g).dev = s.dev := by
  unfold modFibre
  repeat' split
  all_goals rfl

@[simp] theorem modFibre_ports (s : State) (n : Nat) (g : Fibre → Fibre) : (modFibre s n g).ports = s.ports := by
  unfold modFibre
  repeat' split
  all_goals rfl

@[simp] theorem modFibre_net (s : State) (n : Nat) (g : Fibre → Fibre) : (modFibre s n g).net = s.net := by
  unfold modFibre
  repeat' split
  all_goals rfl

@[simp] theorem modFibre_host (s : State) (n : Nat) (g : Fibre → Fibre) : (modFibre s n g).host = s.host := by
  unfold modFibre
  repeat' split
  all_goals rfl

@[simp] theorem modFibre_sched (s : State) (n : Nat) (g : Fibre → Fibre) : (modFibre s n g).sched = s.sched := by
  unfold modFibre
  repeat' split
  all_goals rfl

@[simp] theorem modFibres_ms (s : State) (p : Fibre → Bool) (g : Fibre → Fibre) : (modFibres s p g).ms = s.ms := rfl

@[simp] theorem modFibres_cores (s : State) (p : Fibre → Bool) (g : Fibre → Fibre) : (modFibres s p g).cores = s.cores := rfl

@[simp] theorem modFibres_arrays (s : State) (p : Fibre → Bool) (g : Fibre → Fibre) : (modFibres s p g).arrays = s.arrays := rfl

@[simp] theorem modFibres_walkers (s : State) (p : Fibre → Bool) (g : Fibre → Fibre) : (modFibres s p g).walkers = s.walkers := rfl

@[simp] theorem modFibres_walkWait (s : State) (p : Fibre → Bool) (g : Fibre → Fibre) : (modFibres s p g).walkWait = s.walkWait := rfl

@[simp] theorem modFibres_indexes (s : State) (p : Fibre → Bool) (g : Fibre → Fibre) : (modFibres s p g).indexes = s.indexes := rfl

@[simp] theorem modFibres_idxCmds (s : State) (p : Fibre → Bool) (g : Fibre → Fibre) : (modFibres s p g).idxCmds = s.idxCmds := rfl

@[simp] theorem modFibres_recvs (s : State) (p : Fibre → Bool) (g : Fibre → Fibre) : (modFibres s p g).recvs = s.recvs := rfl

@[simp] theorem modFibres_watches (s : State) (p : Fibre → Bool) (g : Fibre → Fibre) : (modFibres s p g).watches = s.watches := rfl

@[simp] theorem modFibres_allocs (s : State) (p : Fibre → Bool) (g : Fibre → Fibre) : (modFibres s p g).allocs = s.allocs := rfl

@[simp] theorem modFibres_gwqs (s : State) (p : Fibre → Bool) (g : Fibre → Fibre) : (modFibres s p g).gwqs = s.gwqs := rfl

@[simp] theorem modFibres_dist (s : State) (p : Fibre → Bool) (g : Fibre → Fibre) : (modFibres s p g).dist = s.dist := rfl

@[simp] theorem modFibres_dev (s : State) (p : Fibre → Bool) (g : Fibre → Fibre) : (modFibres s p g).dev = s.dev := rfl

@[simp] theorem modFibres_ports (s : State) (p : Fibre → Bool) (g : Fibre → Fibre) : (modFibres s p g).ports = s.ports := rfl

@[simp] theorem modFibres_net (s : State) (p : Fibre → Bool) (g : Fibre → Fibre) : (modFibres s p g).net = s.net := rfl

@[simp] theorem modFibres_host (s : State) (p : Fibre → Bool) (g : Fibre → Fibre) : (modFibres s p g).host = s.host := rfl

@[simp] theorem modFibres_sched (s : State) (p : Fibre → Bool) (g : Fibre → Fibre) : (modFibres s p g).sched = s.sched := rfl

@[simp] theorem wake_ms (s : State) (p : Fibre → Wait → Bool) : (wake s p).ms = s.ms := rfl

@[simp] theorem wake_cores (s : State) (p : Fibre → Wait → Bool) : (wake s p).cores = s.cores := rfl

@[simp] theorem wake_arrays (s : State) (p : Fibre → Wait → Bool) : (wake s p).arrays = s.arrays := rfl

@[simp] theorem wake_walkers (s : State) (p : Fibre → Wait → Bool) : (wake s p).walkers = s.walkers := rfl

@[simp] theorem wake_walkWait (s : State) (p : Fibre → Wait → Bool) : (wake s p).walkWait = s.walkWait := rfl

@[simp] theorem wake_indexes (s : State) (p : Fibre → Wait → Bool) : (wake s p).indexes = s.indexes := rfl

@[simp] theorem wake_idxCmds (s : State) (p : Fibre → Wait → Bool) : (wake s p).idxCmds = s.idxCmds := rfl

@[simp] theorem wake_recvs (s : State) (p : Fibre → Wait → Bool) : (wake s p).recvs = s.recvs := rfl

@[simp] theorem wake_watches (s : State) (p : Fibre → Wait → Bool) : (wake s p).watches = s.watches := rfl

@[simp] theorem wake_allocs (s : State) (p : Fibre → Wait → Bool) : (wake s p).allocs = s.allocs := rfl

@[simp] theorem wake_gwqs (s : State) (p : Fibre → Wait → Bool) : (wake s p).gwqs = s.gwqs := rfl

@[simp] theorem wake_dist (s : State) (p : Fibre → Wait → Bool) : (wake s p).dist = s.dist := rfl

@[simp] theorem wake_dev (s : State) (p : Fibre → Wait → Bool) : (wake s p).dev = s.dev := rfl

@[simp] theorem wake_ports (s : State) (p : Fibre → Wait → Bool) : (wake s p).ports = s.ports := rfl

@[simp] theorem wake_net (s : State) (p : Fibre → Wait → Bool) : (wake s p).net = s.net := rfl

@[simp] theorem wake_host (s : State) (p : Fibre → Wait → Bool) : (wake s p).host = s.host := rfl

@[simp] theorem wake_sched (s : State) (p : Fibre → Wait → Bool) : (wake s p).sched = s.sched := rfl

@[simp] theorem reissue_ms (s : State) (p : Wait → Bool) : (reissue s p).ms = s.ms := rfl

@[simp] theorem reissue_cores (s : State) (p : Wait → Bool) : (reissue s p).cores = s.cores := rfl

@[simp] theorem reissue_arrays (s : State) (p : Wait → Bool) : (reissue s p).arrays = s.arrays := rfl

@[simp] theorem reissue_walkers (s : State) (p : Wait → Bool) : (reissue s p).walkers = s.walkers := rfl

@[simp] theorem reissue_walkWait (s : State) (p : Wait → Bool) : (reissue s p).walkWait = s.walkWait := rfl

@[simp] theorem reissue_indexes (s : State) (p : Wait → Bool) : (reissue s p).indexes = s.indexes := rfl

@[simp] theorem reissue_idxCmds (s : State) (p : Wait → Bool) : (reissue s p).idxCmds = s.idxCmds := rfl

@[simp] theorem reissue_recvs (s : State) (p : Wait → Bool) : (reissue s p).recvs = s.recvs := rfl

@[simp] theorem reissue_watches (s : State) (p : Wait → Bool) : (reissue s p).watches = s.watches := rfl

@[simp] theorem reissue_allocs (s : State) (p : Wait → Bool) : (reissue s p).allocs = s.allocs := rfl

@[simp] theorem reissue_gwqs (s : State) (p : Wait → Bool) : (reissue s p).gwqs = s.gwqs := rfl

@[simp] theorem reissue_dist (s : State) (p : Wait → Bool) : (reissue s p).dist = s.dist := rfl

@[simp] theorem reissue_dev (s : State) (p : Wait → Bool) : (reissue s p).dev = s.dev := rfl

@[simp] theorem reissue_ports (s : State) (p : Wait → Bool) : (reissue s p).ports = s.ports := rfl

@[simp] theorem reissue_net (s : State) (p : Wait → Bool) : (reissue s p).net = s.net := rfl

@[simp] theorem reissue_host (s : State) (p : Wait → Bool) : (reissue s p).host = s.host := rfl

@[simp] theorem reissue_sched (s : State) (p : Wait → Bool) : (reissue s p).sched = s.sched := rfl

@[simp] theorem addFailure_ms (s : State) (n : Nat) (e : Failure) : (addFailure s n e).ms = s.ms := by
  unfold addFailure modFibre
  repeat' split
  all_goals rfl

@[simp] theorem addFailure_cores (s : State) (n : Nat) (e : Failure) : (addFailure s n e).cores = s.cores := by
  unfold addFailure modFibre
  repeat' split
  all_goals rfl

@[simp] theorem addFailure_arrays (s : State) (n : Nat) (e : Failure) : (addFailure s n e).arrays = s.arrays := by
  unfold addFailure modFibre
  repeat' split
  all_goals rfl

@[simp] theorem addFailure_walkers (s : State) (n : Nat) (e : Failure) : (addFailure s n e).walkers = s.walkers := by
  unfold addFailure modFibre
  repeat' split
  all_goals rfl

@[simp] theorem addFailure_walkWait (s : State) (n : Nat) (e : Failure) : (addFailure s n e).walkWait = s.walkWait := by
  unfold addFailure modFibre
  repeat' split
  all_goals rfl

@[simp] theorem addFailure_indexes (s : State) (n : Nat) (e : Failure) : (addFailure s n e).indexes = s.indexes := by
  unfold addFailure modFibre
  repeat' split
  all_goals rfl

@[simp] theorem addFailure_idxCmds (s : State) (n : Nat) (e : Failure) : (addFailure s n e).idxCmds = s.idxCmds := by
  unfold addFailure modFibre
  repeat' split
  all_goals rfl

@[simp] theorem addFailure_recvs (s : State) (n : Nat) (e : Failure) : (addFailure s n e).recvs = s.recvs := by
  unfold addFailure modFibre
  repeat' split
  all_goals rfl

@[simp] theorem addFailure_watches (s : State) (n : Nat) (e : Failure) : (addFailure s n e).watches = s.watches := by
  unfold addFailure modFibre
  repeat' split
  all_goals rfl

@[simp] theorem addFailure_allocs (s : State) (n : Nat) (e : Failure) : (addFailure s n e).allocs = s.allocs := by
  unfold addFailure modFibre
  repeat' split
  all_goals rfl

@[simp] theorem addFailure_gwqs (s : State) (n : Nat) (e : Failure) : (addFailure s n e).gwqs = s.gwqs := by
  unfold addFailure modFibre
  repeat' split
  all_goals rfl

@[simp] theorem addFailure_dist (s : State) (n : Nat) (e : Failure) : (addFailure s n e).dist = s.dist := by
  unfold addFailure modFibre
  repeat' split
  all_goals rfl

@[simp] theorem addFailure_ports (s : State) (n : Nat) (e : Failure) : (addFailure s n e).ports = s.ports := by
  unfold addFailure modFibre
  repeat' split
  all_goals rfl

@[simp] theorem addFailure_net (s : State) (n : Nat) (e : Failure) : (addFailure s n e).net = s.net := by
  unfold addFailure modFibre
  repeat' split
  all_goals rfl

@[simp] theorem addFailure_host (s : State) (n : Nat) (e : Failure) : (addFailure s n e).host = s.host := by
  unfold addFailure modFibre
  repeat' split
  all_goals rfl

@[simp] theorem addFailure_sched (s : State) (n : Nat) (e : Failure) : (addFailure s n e).sched = s.sched := by
  unfold addFailure modFibre
  repeat' split
  all_goals rfl

@[simp] theorem addFibre_ms (s : State) (f : Fibre) : (addFibre s f).ms = s.ms := by
  simp only [addFibre]
  split <;> rfl

@[simp] theorem addFibre_cores (s : State) (f : Fibre) : (addFibre s f).cores = s.cores := by
  simp only [addFibre]
  split <;> rfl

@[simp] theorem addFibre_arrays (s : State) (f : Fibre) : (addFibre s f).arrays = s.arrays := by
  simp only [addFibre]
  split <;> rfl

@[simp] theorem addFibre_walkers (s : State) (f : Fibre) : (addFibre s f).walkers = s.walkers := by
  simp only [addFibre]
  split <;> rfl

@[simp] theorem addFibre_walkWait (s : State) (f : Fibre) : (addFibre s f).walkWait = s.walkWait := by
  simp only [addFibre]
  split <;> rfl

@[simp] theorem addFibre_indexes (s : State) (f : Fibre) : (addFibre s f).indexes = s.indexes := by
  simp only [addFibre]
  split <;> rfl

@[simp] theorem addFibre_idxCmds (s : State) (f : Fibre) : (addFibre s f).idxCmds = s.idxCmds := by
  simp only [addFibre]
  split <;> rfl

@[simp] theorem addFibre_recvs (s : State) (f : Fibre) : (addFibre s f).recvs = s.recvs := by
  simp only [addFibre]
  split <;> rfl

@[simp] theorem addFibre_watches (s : State) (f : Fibre) : (addFibre s f).watches = s.watches := by
  simp only [addFibre]
  split <;> rfl

@[simp] theorem addFibre_allocs (s : State) (f : Fibre) : (addFibre s f).allocs = s.allocs := by
  simp only [addFibre]
  split <;> rfl

@[simp] theorem addFibre_gwqs (s : State) (f : Fibre) : (addFibre s f).gwqs = s.gwqs := by
  simp only [addFibre]
  split <;> rfl

@[simp] theorem addFibre_dist (s : State) (f : Fibre) : (addFibre s f).dist = s.dist := by
  simp only [addFibre]
  split <;> rfl

@[simp] theorem addFibre_dev (s : State) (f : Fibre) : (addFibre s f).dev = s.dev := by
  simp only [addFibre]
  split <;> rfl

@[simp] theorem addFibre_ports (s : State) (f : Fibre) : (addFibre s f).ports = s.ports := by
  simp only [addFibre]
  split <;> rfl

@[simp] theorem addFibre_net (s : State) (f : Fibre) : (addFibre s f).net = s.net := by
  simp only [addFibre]
  split <;> rfl

@[simp] theorem addFibre_host (s : State) (f : Fibre) : (addFibre s f).host = s.host := by
  simp only [addFibre]
  split <;> rfl

@[simp] theorem switchTo_ms (s : State) (n : Nat) : (switchTo s n).ms = s.ms := by
  unfold switchTo
  repeat' split
  all_goals rfl

@[simp] theorem switchTo_cores (s : State) (n : Nat) : (switchTo s n).cores = s.cores := by
  unfold switchTo
  repeat' split
  all_goals rfl

@[simp] theorem switchTo_arrays (s : State) (n : Nat) : (switchTo s n).arrays = s.arrays := by
  unfold switchTo
  repeat' split
  all_goals rfl

@[simp] theorem switchTo_walkers (s : State) (n : Nat) : (switchTo s n).walkers = s.walkers := by
  unfold switchTo
  repeat' split
  all_goals rfl

@[simp] theorem switchTo_walkWait (s : State) (n : Nat) : (switchTo s n).walkWait = s.walkWait := by
  unfold switchTo
  repeat' split
  all_goals rfl

@[simp] theorem switchTo_indexes (s : State) (n : Nat) : (switchTo s n).indexes = s.indexes := by
  unfold switchTo
  repeat' split
  all_goals rfl

@[simp] theorem switchTo_idxCmds (s : State) (n : Nat) : (switchTo s n).idxCmds = s.idxCmds := by
  unfold switchTo
  repeat' split
  all_goals rfl

@[simp] theorem switchTo_recvs (s : State) (n : Nat) : (switchTo s n).recvs = s.recvs := by
  unfold switchTo
  repeat' split
  all_goals rfl

@[simp] theorem switchTo_watches (s : State) (n : Nat) : (switchTo s n).watches = s.watches := by
  unfold switchTo
  repeat' split
  all_goals rfl

@[simp] theorem switchTo_allocs (s : State) (n : Nat) : (switchTo s n).allocs = s.allocs := by
  unfold switchTo
  repeat' split
  all_goals rfl

@[simp] theorem switchTo_gwqs (s : State) (n : Nat) : (switchTo s n).gwqs = s.gwqs := by
  unfold switchTo
  repeat' split
  all_goals rfl

@[simp] theorem switchTo_dist (s : State) (n : Nat) : (switchTo s n).dist = s.dist := by
  unfold switchTo
  repeat' split
  all_goals rfl

@[simp] theorem switchTo_dev (s : State) (n : Nat) : (switchTo s n).dev = s.dev := by
  unfold switchTo
  repeat' split
  all_goals rfl

@[simp] theorem switchTo_ports (s : State) (n : Nat) : (switchTo s n).ports = s.ports := by
  unfold switchTo
  repeat' split
  all_goals rfl

@[simp] theorem switchTo_net (s : State) (n : Nat) : (switchTo s n).net = s.net := by
  unfold switchTo
  repeat' split
  all_goals rfl

@[simp] theorem switchTo_host (s : State) (n : Nat) : (switchTo s n).host = s.host := by
  unfold switchTo
  repeat' split
  all_goals rfl

@[simp] theorem switchTo_sched (s : State) (n : Nat) : (switchTo s n).sched = s.sched := by
  unfold switchTo
  repeat' split
  all_goals rfl

@[simp] theorem askWalk_fib (s : State) (sp : Nat) (va : Word) : (askWalk s sp va).2.fib = s.fib := by
  simp only [askWalk]
  repeat' split
  all_goals rfl

@[simp] theorem askWalk_fibres (s : State) (sp : Nat) (va : Word) : (askWalk s sp va).2.fibres = s.fibres := by
  simp only [askWalk]
  repeat' split
  all_goals rfl

@[simp] theorem askWalk_cores (s : State) (sp : Nat) (va : Word) : (askWalk s sp va).2.cores = s.cores := by
  simp only [askWalk]
  repeat' split
  all_goals rfl

@[simp] theorem askWalk_arrays (s : State) (sp : Nat) (va : Word) : (askWalk s sp va).2.arrays = s.arrays := by
  simp only [askWalk]
  repeat' split
  all_goals rfl

@[simp] theorem askWalk_walkers (s : State) (sp : Nat) (va : Word) : (askWalk s sp va).2.walkers = s.walkers := by
  simp only [askWalk]
  repeat' split
  all_goals rfl

@[simp] theorem askWalk_walkWait (s : State) (sp : Nat) (va : Word) : (askWalk s sp va).2.walkWait = s.walkWait := by
  simp only [askWalk]
  repeat' split
  all_goals rfl

@[simp] theorem askWalk_indexes (s : State) (sp : Nat) (va : Word) : (askWalk s sp va).2.indexes = s.indexes := by
  simp only [askWalk]
  repeat' split
  all_goals rfl

@[simp] theorem askWalk_idxCmds (s : State) (sp : Nat) (va : Word) : (askWalk s sp va).2.idxCmds = s.idxCmds := by
  simp only [askWalk]
  repeat' split
  all_goals rfl

@[simp] theorem askWalk_recvs (s : State) (sp : Nat) (va : Word) : (askWalk s sp va).2.recvs = s.recvs := by
  simp only [askWalk]
  repeat' split
  all_goals rfl

@[simp] theorem askWalk_watches (s : State) (sp : Nat) (va : Word) : (askWalk s sp va).2.watches = s.watches := by
  simp only [askWalk]
  repeat' split
  all_goals rfl

@[simp] theorem askWalk_allocs (s : State) (sp : Nat) (va : Word) : (askWalk s sp va).2.allocs = s.allocs := by
  simp only [askWalk]
  repeat' split
  all_goals rfl

@[simp] theorem askWalk_gwqs (s : State) (sp : Nat) (va : Word) : (askWalk s sp va).2.gwqs = s.gwqs := by
  simp only [askWalk]
  repeat' split
  all_goals rfl

@[simp] theorem askWalk_dist (s : State) (sp : Nat) (va : Word) : (askWalk s sp va).2.dist = s.dist := by
  simp only [askWalk]
  repeat' split
  all_goals rfl

@[simp] theorem askWalk_dev (s : State) (sp : Nat) (va : Word) : (askWalk s sp va).2.dev = s.dev := by
  simp only [askWalk]
  repeat' split
  all_goals rfl

@[simp] theorem askWalk_ports (s : State) (sp : Nat) (va : Word) : (askWalk s sp va).2.ports = s.ports := by
  simp only [askWalk]
  repeat' split
  all_goals rfl

@[simp] theorem askWalk_net (s : State) (sp : Nat) (va : Word) : (askWalk s sp va).2.net = s.net := by
  simp only [askWalk]
  repeat' split
  all_goals rfl

@[simp] theorem askWalk_host (s : State) (sp : Nat) (va : Word) : (askWalk s sp va).2.host = s.host := by
  simp only [askWalk]
  repeat' split
  all_goals rfl

@[simp] theorem freshId_fib (s : State) : (freshId s).2.fib = s.fib := rfl

@[simp] theorem freshId_fibres (s : State) : (freshId s).2.fibres = s.fibres := rfl

@[simp] theorem freshId_ms (s : State) : (freshId s).2.ms = s.ms := rfl

@[simp] theorem freshId_cores (s : State) : (freshId s).2.cores = s.cores := rfl

@[simp] theorem freshId_arrays (s : State) : (freshId s).2.arrays = s.arrays := rfl

@[simp] theorem freshId_walkers (s : State) : (freshId s).2.walkers = s.walkers := rfl

@[simp] theorem freshId_walkWait (s : State) : (freshId s).2.walkWait = s.walkWait := rfl

@[simp] theorem freshId_indexes (s : State) : (freshId s).2.indexes = s.indexes := rfl

@[simp] theorem freshId_idxCmds (s : State) : (freshId s).2.idxCmds = s.idxCmds := rfl

@[simp] theorem freshId_recvs (s : State) : (freshId s).2.recvs = s.recvs := rfl

@[simp] theorem freshId_watches (s : State) : (freshId s).2.watches = s.watches := rfl

@[simp] theorem freshId_allocs (s : State) : (freshId s).2.allocs = s.allocs := rfl

@[simp] theorem freshId_gwqs (s : State) : (freshId s).2.gwqs = s.gwqs := rfl

@[simp] theorem freshId_dist (s : State) : (freshId s).2.dist = s.dist := rfl

@[simp] theorem freshId_dev (s : State) : (freshId s).2.dev = s.dev := rfl

@[simp] theorem freshId_ports (s : State) : (freshId s).2.ports = s.ports := rfl

@[simp] theorem freshId_net (s : State) : (freshId s).2.net = s.net := rfl

@[simp] theorem freshId_host (s : State) : (freshId s).2.host = s.host := rfl

@[simp] theorem takeFree_fib (s : State) : (takeFree s).2.fib = s.fib := rfl

@[simp] theorem takeFree_fibres (s : State) : (takeFree s).2.fibres = s.fibres := rfl

@[simp] theorem takeFree_ms (s : State) : (takeFree s).2.ms = s.ms := rfl

@[simp] theorem takeFree_cores (s : State) : (takeFree s).2.cores = s.cores := rfl

@[simp] theorem takeFree_arrays (s : State) : (takeFree s).2.arrays = s.arrays := rfl

@[simp] theorem takeFree_walkers (s : State) : (takeFree s).2.walkers = s.walkers := rfl

@[simp] theorem takeFree_walkWait (s : State) : (takeFree s).2.walkWait = s.walkWait := rfl

@[simp] theorem takeFree_indexes (s : State) : (takeFree s).2.indexes = s.indexes := rfl

@[simp] theorem takeFree_idxCmds (s : State) : (takeFree s).2.idxCmds = s.idxCmds := rfl

@[simp] theorem takeFree_recvs (s : State) : (takeFree s).2.recvs = s.recvs := rfl

@[simp] theorem takeFree_watches (s : State) : (takeFree s).2.watches = s.watches := rfl

@[simp] theorem takeFree_allocs (s : State) : (takeFree s).2.allocs = s.allocs := rfl

@[simp] theorem takeFree_gwqs (s : State) : (takeFree s).2.gwqs = s.gwqs := rfl

@[simp] theorem takeFree_dist (s : State) : (takeFree s).2.dist = s.dist := rfl

@[simp] theorem takeFree_dev (s : State) : (takeFree s).2.dev = s.dev := rfl

@[simp] theorem takeFree_ports (s : State) : (takeFree s).2.ports = s.ports := rfl

@[simp] theorem takeFree_net (s : State) : (takeFree s).2.net = s.net := rfl

@[simp] theorem takeFree_host (s : State) : (takeFree s).2.host = s.host := rfl

@[simp] theorem afterReads_fib (s : State) (u : Use) : (afterReads s u).fib = freeRegs s.fib (freeMask u) := rfl

@[simp] theorem afterReads_fibres (s : State) (u : Use) : (afterReads s u).fibres = s.fibres := rfl

@[simp] theorem afterReads_ms (s : State) (u : Use) : (afterReads s u).ms = s.ms := rfl

@[simp] theorem afterReads_cores (s : State) (u : Use) : (afterReads s u).cores = s.cores := rfl

@[simp] theorem afterReads_arrays (s : State) (u : Use) : (afterReads s u).arrays = s.arrays := rfl

@[simp] theorem afterReads_walkers (s : State) (u : Use) : (afterReads s u).walkers = s.walkers := rfl

@[simp] theorem afterReads_walkWait (s : State) (u : Use) : (afterReads s u).walkWait = s.walkWait := rfl

@[simp] theorem afterReads_indexes (s : State) (u : Use) : (afterReads s u).indexes = s.indexes := rfl

@[simp] theorem afterReads_idxCmds (s : State) (u : Use) : (afterReads s u).idxCmds = s.idxCmds := rfl

@[simp] theorem afterReads_recvs (s : State) (u : Use) : (afterReads s u).recvs = s.recvs := rfl

@[simp] theorem afterReads_watches (s : State) (u : Use) : (afterReads s u).watches = s.watches := rfl

@[simp] theorem afterReads_allocs (s : State) (u : Use) : (afterReads s u).allocs = s.allocs := rfl

@[simp] theorem afterReads_gwqs (s : State) (u : Use) : (afterReads s u).gwqs = s.gwqs := rfl

@[simp] theorem afterReads_dist (s : State) (u : Use) : (afterReads s u).dist = s.dist := rfl

@[simp] theorem afterReads_dev (s : State) (u : Use) : (afterReads s u).dev = s.dev := rfl

@[simp] theorem afterReads_ports (s : State) (u : Use) : (afterReads s u).ports = s.ports := rfl

@[simp] theorem afterReads_net (s : State) (u : Use) : (afterReads s u).net = s.net := rfl

@[simp] theorem afterReads_host (s : State) (u : Use) : (afterReads s u).host = s.host := rfl

@[simp] theorem clockTick_fib (s : State) : (clockTick s).fib = s.fib := rfl

@[simp] theorem clockTick_fibres (s : State) : (clockTick s).fibres = s.fibres := rfl

@[simp] theorem clockTick_ms (s : State) : (clockTick s).ms = s.ms := rfl

@[simp] theorem clockTick_cores (s : State) : (clockTick s).cores = s.cores := rfl

@[simp] theorem clockTick_arrays (s : State) : (clockTick s).arrays = s.arrays := rfl

@[simp] theorem clockTick_walkers (s : State) : (clockTick s).walkers = s.walkers := rfl

@[simp] theorem clockTick_walkWait (s : State) : (clockTick s).walkWait = s.walkWait := rfl

@[simp] theorem clockTick_indexes (s : State) : (clockTick s).indexes = s.indexes := rfl

@[simp] theorem clockTick_idxCmds (s : State) : (clockTick s).idxCmds = s.idxCmds := rfl

@[simp] theorem clockTick_recvs (s : State) : (clockTick s).recvs = s.recvs := rfl

@[simp] theorem clockTick_watches (s : State) : (clockTick s).watches = s.watches := rfl

@[simp] theorem clockTick_allocs (s : State) : (clockTick s).allocs = s.allocs := rfl

@[simp] theorem clockTick_gwqs (s : State) : (clockTick s).gwqs = s.gwqs := rfl

@[simp] theorem clockTick_dist (s : State) : (clockTick s).dist = s.dist := rfl

@[simp] theorem clockTick_dev (s : State) : (clockTick s).dev = s.dev := rfl

@[simp] theorem clockTick_ports (s : State) : (clockTick s).ports = s.ports := rfl

@[simp] theorem clockTick_net (s : State) : (clockTick s).net = s.net := rfl

@[simp] theorem clockTick_host (s : State) : (clockTick s).host = s.host := rfl

end Sys2Proof.Laws
end

