-- ==== Sys2Proof/Machine/Windows.lean ====
section
/-! DEFINITION. What a host read of the tenant windows and of the configuration window returns (R27-R29, R235-R237), and what the
management controller reads (R246). Such a read changes no state, and the opcode table gives it no row: it is a function of the
state (log entry 27). -/

namespace Sys2Proof.Machine

/-- The queue record of a tenant's priority: DEPTH, LIVE and ACCEPTED (R28). -/
def queueRecord (s : State) (ten p : Nat) : Nat :=
  let mine := s.dist.launches.filter fun l => l.ten.toNat == ten && prioOf l == p
  let depth := (mine.filter fun l => l.st == .queued).length
  let live := (mine.filter fun l => l.st != .done).length
  depth + live * 2 ^ 32 + (tget 0 s.dist.accepted (ten * 8 + p)).toNat * 2 ^ 64

/-- Byte `i` of a value. -/
def byteAt (v i : Nat) : Byte := BitVec.ofNat 8 (v / 2 ^ (8 * i))

/-- A byte of the pending bit array: bits `8 i` to `8 i + 7` (R28). -/
def pendingByte (s : State) (ten i : Nat) : Byte :=
  BitVec.ofNat 8 ((List.range 8).foldl (fun a j => a + b1 (sHas s.host.pendingIrq (ten * 2048 + 8 * i + j)) * 2 ^ j) 0)

/-- A byte of a tenant window as the host reads it (R28, R29). The launch record is the host's to write only:
what a read of it returns is a free value (log entry 27). -/
def tenantWindowByte (s : State) (ten off : Nat) : Byte :=
  if (tenantOf s ten).en = false then 0xFF
  else if off < 0x40 then Config.launchRecordByte ten off s.sched.tick
  else if off < 0x48 then byteAt (tget Window.reset s.dist.windows ten).result.toNat (off - 0x40)
  else if 0x1000 ≤ off ∧ off < 0x1080 then byteAt (queueRecord s ten ((off - 0x1000) / 16)) (off % 16)
  else if 0x80000 ≤ off ∧ off < 0x88000 then byteAt (msixEntry s (ten * 2048 + (off - 0x80000) / 16)).toNat (off % 16)
  else if 0x88000 ≤ off ∧ off < 0x88100 then pendingByte s ten (off - 0x88000)
  else 0xFF

/-- `n` bytes of a tenant window as the host reads them (R28, R29). -/
def hostTenantRead (s : State) (ten off n : Nat) : List Byte := (List.range n).map fun i => tenantWindowByte s ten (off + i)

/-- `n` bytes of the configuration window as the host reads them (R27, R237). -/
def hostConfigRead (s : State) (off n : Nat) : List Byte := (List.range n).map fun i => BitVec.ofNat 8 (devRead s (off + i) 1)

/-- What the management controller reads (R246): a unit's fault counter, its count and its window's start (R423), the drops and double traps counted, the violation counts of
the module and of a tenant, and the sensors. -/
inductive MgmtItem where
  | fault (u : FaultUnit)
  | faultStart (u : FaultUnit)
  | drops
  | doubleTraps
  | violations
  | tenantViolations (ten : BitVec 4)
  /-- a die's temperature: core dies 0 to 3, router dies 4 and 5 -/
  | temperature (die : Nat)
  | power
  deriving DecidableEq, Repr

/-- The management controller's read of an item (R246); temperatures and power are what the sensors give (log entry 62). -/
def managementRead (s : State) (i : MgmtItem) : Nat :=
  match i with
  | .fault u => (tget (0, 0) s.dev.counters (faultKey u)).1
  | .faultStart u => (tget (0, 0) s.dev.counters (faultKey u)).2
  | .drops => s.dev.drops
  | .doubleTraps => s.dev.double
  | .violations => s.dev.violations.toNat
  | .tenantViolations t => (tenantOf s t.toNat).violations
  | .temperature d => (Config.sensor d s.sched.tick).toNat
  | .power => (Config.sensor 6 s.sched.tick).toNat

/-- The trap contexts, of level 1 and of level 2, that the device monitor reads of a fibre through its gang's image, before it lets the gang
resume (R83, R404). The spec lays out no byte of an image: it is read by name (log entry 16). -/
def imageTraps (s : State) (gang fibre : Nat) : Option (TrapCtx × TrapCtx) :=
  (s.dist.gangs.find? fun g => g.id == gang).bind fun g => g.image.bind fun i =>
    (i.fibres.find? fun f => f.id == fibre).map fun f => (f.sup, f.mon)

end Sys2Proof.Machine
end

