-- ==== Sys2Proof/Tests/Slice0.lean ====
section
/-! SUPPORT. The model's own tests: ill-formed terms that the check refuses, words written out from the encoding tables, single steps
on small states with results worked out from the spec, and for every statement a state and operands that meet its hypotheses. -/

namespace Sys2Proof.Tests

open Sys2Proof.Machine Sys2Proof.Safety

set_option Elab.async false

/-! Ill-formed terms. -/

theorem test_wf_saturation : (Instr.add false 1 2 false 3 false false true).wf = false
    ∧ (Instr.sub false 1 2 false 3 false false true).wf = false := by decide
theorem test_wf_bit_field : (Instr.extr false 1 2 false 63 1).wf = false ∧ (Instr.insr false 1 2 false 1 63).wf = false := by decide
theorem test_wf_loop_distance : (Instr.loopReg false 1 false 0).wf = false ∧ (Instr.loopImm false 5 0).wf = false := by decide
theorem test_wf_access_order : (Instr.ldd false 1 2 false 0 2 0 0).wf = false ∧ (Instr.std false 1 2 false 0 1 0 0).wf = false := by
  decide
theorem test_wf_access_scope : (Instr.ldw false 1 2 false 0 1 7 0).wf = false ∧ (Instr.stw false 1 2 false 0 0 1 0).wf = false := by
  decide
theorem test_wf_access_policy : (Instr.ldb false 1 2 false 1 3 0 0).wf = false := by decide
theorem test_wf_atomic_order : (Instr.aadd false 1 2 false 3 false 0 0 1 false).wf = false
    ∧ (Instr.aadd false 1 2 false 3 false 3 1 0 false).wf = false ∧ (Instr.aadd false 1 2 false 3 false 0 1 7 false).wf = false := by
  decide
theorem test_wf_fence_scope : (Instr.fence false 7).wf = false := by decide
theorem test_wf_barrier_value : (Instr.barr false 1 2 false 0).wf = false ∧ (Instr.barj false 1 0 true 0).wf = false := by decide
theorem test_wf_tlbinv_mode : (Instr.tlbinv false 1 false 2 0).wf = false ∧ (Instr.tlbinv false 1 false 1 0).wf = false
    ∧ (Instr.tlbinv false 0 false 1 7).wf = false := by decide
theorem test_wf_cacheop_code : (Instr.cacheop false 1 false 3).wf = false := by decide
theorem test_wf_special_register : (Instr.mfs false 1 0x16).wf = false ∧ (Instr.mts false 1 false 0x20).wf = false := by decide
theorem test_wf_engine_register : (Instr.erd false 1 0 4).wf = false ∧ (Instr.ewr false 1 false 8 0).wf = false := by decide
theorem test_wf_tile_state : (Instr.tstate false 1 true 1 0).wf = false ∧ (Instr.tstate false 1 false 2 0).wf = false := by decide
theorem test_wf_lease_bound : (Instr.mlease false 0).wf = false := by decide
theorem test_wf_message_scope : (Instr.send false 1 false 1 false).wf = false ∧ (Instr.amsg false 1 false 2 false 7 true).wf = false := by
  decide

/-! Words written out from the encoding tables of 12_encoding.md. -/

theorem test_decode_integer_registers : [0x8034AB00, 0x0034AA01, 0x8034A802, 0x8034A803, 0x8034A804, 0x8034A805, 0x8034A806, 0x8034A807,
  0x0034A808, 0x8034A809, 0x0034A90A, 0x0034A90B, 0x0034A80C, 0x8034A80D, 0x0034A90E, 0x8034A90F, 0x80348010, 0x00348011, 0x00348012,
  0x00348013, 0x80348014, 0x80348015, 0x80348016, 0x00348017, 0x0034A818].map (decodeTableWord 32) = [
    some (.add true 3 4 true 5 false true true), some (.sub false 3 4 true 5 false true false), some (.and true 3 4 true 5 false),
    some (.or true 3 4 true 5 false), some (.xor true 3 4 true 5 false), some (.andn true 3 4 true 5 false),
    some (.shl true 3 4 true 5 false), some (.shr true 3 4 true 5 false), some (.sar false 3 4 true 5 false),
    some (.ror true 3 4 true 5 false), some (.min false 3 4 true 5 false true), some (.max false 3 4 true 5 false true),
    some (.cmpeq false 3 4 true 5 false), some (.cmpne true 3 4 true 5 false), some (.cmplt false 3 4 true 5 false true),
    some (.cmple true 3 4 true 5 false true), some (.clz true 3 4 true), some (.popc false 3 4 true), some (.sextb false 3 4 true),
    some (.sexth false 3 4 true), some (.sextw true 3 4 true), some (.zextb true 3 4 true), some (.zexth true 3 4 true),
    some (.zextw false 3 4 true), some (.sel false 3 4 true 5 false)] := by decide

theorem test_decode_multiply : [0x0134A800, 0x0134A901, 0x8134A902, 0x0134A903, 0x0134A804].map (decodeTableWord 32) = [
    some (.mul false 3 4 true 5 false), some (.mulh false 3 4 true 5 false true), some (.div true 3 4 true 5 false true),
    some (.rem false 3 4 true 5 false true), some (.hmix false 3 4 true 5 false)] := by decide

theorem test_decode_immediates : [0x1034DA5A, 0x1134DA5A, 0x1234DA5A, 0x1334DA5A, 0x14348021, 0x15348021, 0x96348021, 0x17348021,
  0x9834DA5A, 0x9934DA5A, 0x1A34DA5A, 0x9B348F03, 0x1C348207, 0x1D3ABCDE].map (decodeTableWord 32) = [
    some (.addi false 3 4 true 0x5a5a), some (.andi false 3 4 true 0x5a5a), some (.ori false 3 4 true 0x5a5a),
    some (.xori false 3 4 true 0x5a5a), some (.shli false 3 4 true 0x21), some (.shri false 3 4 true 0x21),
    some (.sari true 3 4 true 0x21), some (.rori false 3 4 true 0x21), some (.cmpeqi true 3 4 true 0x5a5a),
    some (.cmplti true 3 4 true 0x5a5a), some (.cmpltiUns false 3 4 true 0x5a5a), some (.extr true 3 4 true 0x3c 3),
    some (.insr false 3 4 true 8 7), some (.lui false 3 0xabcde)] := by decide

theorem test_decode_scalar_float : [0xA034A810, 0x2034A811, 0x2034A812, 0xA034A813, 0x20348004, 0x2034A815, 0x2034A816, 0x2034A817,
  0xA034A818, 0xA034A819, 0x2034A81A, 0xA034800B, 0x2034800C, 0xA034800D].map (decodeTableWord 32) = [
    some (.fadd true 3 4 true 5 false true), some (.fsub false 3 4 true 5 false true), some (.fmul false 3 4 true 5 false true),
    some (.fdiv true 3 4 true 5 false true), some (.fsqrt false 3 4 true false), some (.fma false 3 4 true 5 false true),
    some (.fmin false 3 4 true 5 false true), some (.fmax false 3 4 true 5 false true), some (.fcmpEq true 3 4 true 5 false true),
    some (.fcmpLt true 3 4 true 5 false true), some (.fcmpLe false 3 4 true 5 false true), some (.fcvt true 3 4 true false),
    some (.fcvti false 3 4 true false), some (.fcvtf true 3 4 true false)] := by decide

theorem test_decode_branches : [0x283A2ABC, 0xA93A2ABC, 0x2A3A2ABC, 0x2B3A2ABC, 0xAC382ABC, 0x2DBEEFA5, 0xAE3ABCDE, 0x2F348000].map (decodeTableWord 32) = [
    some (.beq false 3 true 4 false 0x2abc), some (.bne true 3 true 4 false 0x2abc), some (.blt false 3 true 4 false 0x2abc),
    some (.bge false 3 true 4 false 0x2abc), some (.loopReg true 3 true 0x2abc), some (.loopImm false 0xbeef 0xa5),
    some (.jal true 3 0xabcde), some (.jr false 3 4 true)] := by decide

theorem test_decode_fibre_control : [0xAF000001, 0xAF03A002, 0x2F000003, 0x2F000004, 0xAF000005, 0xAF000216, 0xAF348007].map (decodeTableWord 32) = [
    some (.endloop true), some (.callat true 3 true 4 false), some (.exit false), some (.trig false), some (.yield true),
    some (.align true 0x21), some (.migr true 3 4 true)] := by decide

theorem test_decode_loads_stores : [0x3034A97F, 0x3134C001, 0xB2349840, 0x3334EF82, 0xB434B17F, 0xB534C001, 0x36349840, 0xB734F202].map (decodeTableWord 32) = [
    some (.ldb false 3 4 true 1 1 2 0x7f), some (.ldh false 3 4 true 2 0 0 1), some (.ldw true 3 4 true 0 3 0 0x40),
    some (.ldd false 3 4 true 3 1 0xf 2), some (.stb true 3 4 true 1 2 2 0x7f), some (.sth true 3 4 true 2 0 0 1),
    some (.stw false 3 4 true 0 3 0 0x40), some (.std true 3 4 true 3 2 4 2)] := by decide

theorem test_decode_full_empty : [0x38348055, 0xB9348055, 0x3A348055, 0xBB348055, 0x3C348055, 0xBD038055, 0xBE03C055].map (decodeTableWord 32) = [
    some (.ldf false 3 4 true 0x55), some (.ldfe true 3 4 true 0x55), some (.ste false 3 4 true 0x55), some (.stf true 3 4 true 0x55),
    some (.feq false 3 4 true 0x55), some (.feset true 3 true false 0x55), some (.pref true 3 true 2 0x55)] := by decide

theorem test_decode_atomics : [0x4034A849, 0xC134A98E, 0xC234AAD1, 0x4334AB01, 0x4434A800, 0x4534A97D, 0x4634AA85, 0xC73480C1, 0xC734A956].map (decodeTableWord 32) = [
    some (.aadd false 3 4 true 5 false 0 1 2 true), some (.amin true 3 4 true 5 false 1 2 3 true false),
    some (.amax true 3 4 true 5 false 2 3 4 false true), some (.aand false 3 4 true 5 false 3 0 0 true),
    some (.aor false 3 4 true 5 false 0 0 0 false), some (.axch false 3 4 true 5 false 1 1 0xf true),
    some (.acas false 3 4 true 5 false 2 2 1 true), some (.adecp true 3 4 true 0 3 0 true),
    some (.aincb true 3 4 true 5 false 1 1 5 false)] := by decide

theorem test_decode_synchronisation : [0xC8000004, 0x4934A801, 0xCA348000, 0xCB348002, 0xCC348003, 0x4D038005, 0xCE348000].map (decodeTableWord 32) = [
    some (.fence true 4), some (.waita false 3 4 true 5 false true), some (.notify true 3 4 true false), some (.barr true 3 4 true 2),
    some (.barj true 3 4 true 3), some (.scopeset false 3 true 5), some (.launch true 3 4 true)] := by decide

theorem test_decode_system : [0xD0000000, 0xD0000211, 0x50000002, 0x50000213, 0xD0058044, 0xD0038025, 0x50038006, 0xD0038007].map (decodeTableWord 32) = [
    some (.nop true), some (.trap true 0x21), some (.eret false), some (.hcall false 0x21), some (.tlbinv true 5 true 0 4),
    some (.cacheop true 3 true 2), some (.imgsave false 3 true), some (.imgload true 3 true)] := by decide

theorem test_decode_registers_and_format : [0x5130001F, 0x52038018, 0xD3301C1F, 0x543819FF, 0xD8123688].map (decodeTableWord 32) = [
    some (.mfs false 3 0x1f), some (.mts false 3 true 0x18), some (.erd true 3 7 0x1f), some (.ewr false 3 true 6 0x1ff),
    some (.fmt true 1 2 3 1 0x28 true false)] := by decide

theorem test_decode_vector_elements : [0xE0852BC0, 0x60852BC1, 0x60852BC2, 0xE0852BC3, 0x60852BC4, 0x60852BC5, 0x60852BC6, 0x60852007,
  0xE0852008, 0x60852009, 0x6085200A, 0x6085200B, 0xE085200C, 0xE085200D, 0x6085200E].map (decodeTableWord 32) = [
    some (.vadd true 0x21 0x12 0x2f), some (.vsub false 0x21 0x12 0x2f), some (.vmul false 0x21 0x12 0x2f),
    some (.vdiv true 0x21 0x12 0x2f), some (.vfma false 0x21 0x12 0x2f), some (.vmin false 0x21 0x12 0x2f),
    some (.vmax false 0x21 0x12 0x2f), some (.vabs false 0x21 0x12), some (.vexp true 0x21 0x12), some (.vlog false 0x21 0x12),
    some (.vsqrt false 0x21 0x12), some (.vrsqrt false 0x21 0x12), some (.vrcp true 0x21 0x12), some (.vtanh true 0x21 0x12),
    some (.vsigm false 0x21 0x12)] := by decide

theorem test_decode_vector_rows : [0xE1852000, 0x61852001, 0x61852002, 0xE1852003, 0x61852004, 0xE1852BC5, 0xE1852BC6, 0x61852BC7,
  0x61852BC8].map (decodeTableWord 32) = [
    some (.vredAdd true 0x21 0x12), some (.vredMin false 0x21 0x12), some (.vredMax false 0x21 0x12), some (.vscanAdd true 0x21 0x12),
    some (.vscanMax false 0x21 0x12), some (.vcmpEq true 0x21 0x12 0x2f), some (.vcmpLt true 0x21 0x12 0x2f),
    some (.vcmpLe false 0x21 0x12 0x2f), some (.vsel false 0x21 0x12 0x2f)] := by decide

theorem test_decode_vector_moves : [0xE1852009, 0xE1852BCA, 0xE1852BCB, 0x6185200C, 0xE185200D, 0xE185200E, 0x6185200F, 0x61852BD0,
  0xE1852BD1, 0xE1021012].map (decodeTableWord 32) = [
    some (.vbcast true 0x21 0x12), some (.vgather true 0x21 0x12 0x2f), some (.vscat true 0x21 0x12 0x2f),
    some (.vtrans false 0x21 0x12), some (.vcvt true 0x21 0x12), some (.vqscale true 0x21 0x12), some (.vcbk false 0x21 0x12),
    some (.barq false 0x21 0x12 0x2f), some (.barqRes true 0x21 0x12 0x2f), some (.twait true 0x21)] := by decide

theorem test_decode_tiles_and_beliefs : [0xE2038021, 0xE3306021, 0xE4038000, 0x65348000, 0x65348001, 0x65348002].map (decodeTableWord 32) = [
    some (.tdef true 3 true 0x21), some (.tstate true 3 true 2 0x21), some (.cbld true 3 true), some (.gmsg false 3 4 true),
    some (.gbel false 3 4 true), some (.gmarg false 3 4 true)] := by decide

theorem test_decode_matrix : [0xE6021480, 0x66852BC1, 0xE6000002, 0x66021003, 0x66840004, 0xE70000A5, 0x68000000, 0xE8300001].map (decodeTableWord 32) = [
    some (.mma true 0x21 0x12), some (.mmas false 0x21 0x12 0x2f), some (.mzero true), some (.macc false 0x21), some (.mst false 0x21),
    some (.mlease true 0xa5), some (.mrel false), some (.mstep true 3)] := by decide

theorem test_decode_copies : [0xF03A0020, 0x703A0001, 0xF0000002, 0x71300000].map (decodeTableWord 32) = [
    some (.cpyq true 3 true 4 false true), some (.kick false 3 true 4 false), some (.cpywait true), some (.cpystat false 3)] := by decide

theorem test_decode_indexes : [0x703A0800, 0xF03A0801, 0x703A0802, 0xF1348800, 0xF1348801].map (decodeTableWord 32) = [
    some (.ldnn false 3 true 4 false), some (.stvec true 3 true 4 false), some (.dlvec false 3 true 4 false),
    some (.ixopen true 3 4 true), some (.ixstat true 3 4 true)] := by decide

theorem test_decode_messages : [0x70380D20, 0x70380C01, 0x70380C02, 0x71348C00, 0x71348C01, 0x703A0CE3, 0x703A0C04, 0xF0380C05].map (decodeTableWord 32) = [
    some (.send false 3 true 4 true), some (.rpost false 3 true), some (.rcancel false 3 true), some (.rprobe false 3 4 true),
    some (.rstat false 3 4 true), some (.amsg false 3 true 4 false 3 true), some (.htset false 3 true 4 false), some (.htclr true 3 true)] := by decide

theorem test_decode_engines : [0x70381000, 0xF1349000, 0x71301001, 0xF0381400, 0x70001401, 0x703A1800, 0xF0381801, 0xF1349C00].map (decodeTableWord 32) = [
    some (.smfr false 3 true), some (.smal true 3 4 true false), some (.smquota false 3), some (.kload true 3 true false),
    some (.kturn false), some (.hist false 3 true 4 false), some (.walk true 3 true), some (.gwtake true 3 4 true)] := by decide

/-! Small states. -/

/-- A module whose boot fibre runs at monitor level on core 0: virtual address x is byte x of switch memory, 2^44 + x byte x of core
0's scratchpad, the registers g1 to g14 are live, and MVEC is 0x60000. -/
def boot : State :=
  let s := setMail (State.reset.withFetchWord 32 0x50000000) 16 0x60000
  { s with
    fib := { s.fib with
      live := 0x7FFE
      regs := ⟨#[0, 0x50000, 5, 7, 0x100000000008, 3, 0, 0, 0, 0, 0, 0, 0, 0, 9, 0], rfl⟩ }
    ms := { s.ms with mem := mwr s.ms.mem (switchPa s 0 0x20008) 8 (spadPa s 0 0 + 0x1E8B) } }

/-- The running fibre placed by a launch in a gang on cores 0 and 1, with 64 KiB of each scratchpad and 16 tiles. -/
def placed : State :=
  { boot with
    fib := { boot.fib with ident := { boot.fib.ident with
      kind := .placed
      gang := some 1
      launch := 1
      tenant := 2 } }
    dev := { boot.dev with tenants := [(2, { Tenant.reset with en := true, quota := 100 }), (3, { Tenant.reset with en := true })] }
    dist := { boot.dist with
      launches := [⟨1, 2, 0, 0, 0, 0, 0, 0, none, 6, [⟨0, 0x10⟩], .running, 1⟩]
      gangs := [⟨1, 1, 2, 0, 0, .resident, [0, 1], [0, 0], 65536, 0, [0, 0], 16, true, none, false, none, none, none, false⟩] } }

/-- A register's value. -/
def setReg (s : State) (r : Reg) (v : Nat) : State := { s with fib := { s.fib with regs := s.fib.regs.set r.toFin (BitVec.ofNat 64 v) } }

/-- Words stored at an address of switch memory. -/
def setWords (s : State) (a : Nat) (ws : List Nat) : State :=
  { s with ms := { s.ms with mem := mwr s.ms.mem (switchPa s 0 a) (8 * ws.length) (leNat (ws.flatMap fun w => leBytes 8 w)) } }

/-- The state after an instruction. -/
def after (i : Instr) (s : State) : State :=
  match exec i s with
  | .next t => t
  | _ => s

/-- Whether an instruction answers a next state. -/
def completes (i : Instr) (s : State) : Bool :=
  match exec i s with
  | .next _ => true
  | _ => false

/-- A register after an instruction and the long results it started. -/
def result (i : Instr) (s : State) (r : Reg) : Word := regVal (drain (after i s).fib) r

/-- The PC after an instruction; the demonstration's is 0x40000. -/
def goes (i : Instr) : Word := (after i boot).fib.pc

/-- g1 and g2 given, g3 what the instruction writes there. -/
def alu (i : Instr) (a b : Nat) : Word := result i (setReg (setReg boot 1 a) 2 b) 3

/-- The cause and value in the monitor's trap context after an instruction that traps. -/
def trapped (i : Instr) (s : State) : Nat × Word := ((after i s).fib.mon.cause.toNat, (after i s).fib.mon.val)

/-- The conditions of `Issues`, computed. -/
def issuesB (s : State) (u : Use) : Bool :=
  (!u.y || allReady s.fib) && (s.fib.failure.isNone || (!u.fail && !u.y && !s.fib.resumed))
    && (!isEngine5 u.instr || servesGateway s s.fib.core) && u.instr.wf && (!s.fib.pfx || u.pfxOk) && decide (u.level ≤ s.fib.pl.toNat)
    && (u.ctx (atReads s u.y)).isNone && (readChecks (atReads s u.y).fib u.y s.sched.free u.reads).isNone
    && (destCheck (atReads s u.y).fib u.y (freeMask u) u.dest).isNone

theorem readCheck_of_checks (f : Fibre) (y : Bool) (n : Nat) (all l : List (Reg × Bool)) (i : Nat)
    (h : readChecksFrom f y n all i l = none) (k : Nat) (r : Reg × Bool) (hr : l[k]? = some r) :
    readCheck f y (n + readNo all (i + k) r.1) r.1 = none := by
  induction l generalizing i k with
  | nil => simp at hr
  | cons x t ih =>
    simp only [readChecksFrom] at h
    split at h
    · cases h
    · rename_i hx
      cases k with
      | zero =>
        obtain rfl : x = r := by simpa using hr
        simpa using hx
      | succ k =>
        have := ih (i + 1) h k (by simpa using hr)
        rwa [Nat.add_assoc, Nat.add_comm 1 k] at this

theorem issues_of_bool {s : State} {u : Use} (h : issuesB s u = true) : Issues s u := by
  simp only [issuesB, Bool.and_eq_true, Bool.or_eq_true, Bool.not_eq_true', decide_eq_true_eq, Option.isNone_iff_eq_none] at h
  obtain ⟨⟨⟨⟨⟨⟨⟨⟨h1, h2⟩, h3⟩, h4⟩, h5⟩, h6⟩, h7⟩, h8⟩, h9⟩ := h
  exact
    { results := fun hy => h1.resolve_left (by simp [hy])
      noFailure := h2.imp id fun ⟨⟨a, b⟩, c⟩ => ⟨a, b, c⟩
      engine := fun he => h3.resolve_left (by simp [he])
      admitted := h4
      takesPrefix := fun hp => h5.resolve_left (by simp [hp])
      level := h6
      context := h7
      reads := fun k r hr => by simpa using readCheck_of_checks _ _ _ _ _ 0 h8 k r hr
      dest := h9 }

/-- Every use of a list issues. -/
theorem issue_all {s : State} {us : List Use} (h : us.all (issuesB s) = true) : ∀ u ∈ us, Issues s u :=
  fun u hu => issues_of_bool (List.all_eq_true.mp h u hu)

/-- The conditions of `Reachable`, computed. -/
def reachB (s : State) (k : AccKind) (n : Nat) (ea : Word) (own : Acc → Option Nat) (a : Acc) : Bool :=
  ea.toNat % n == 0 && !mustWalk s ea.toNat && decide (translateFibre s s.fib k ea.toNat = .ok a) && (own a).isNone
    && !outOfReach s s.fib a.pa && !attrRefused s a && !owned s a.pa n

theorem reach_of_bool {s : State} {k : AccKind} {n : Nat} {ea : Word} {own : Acc → Option Nat} {a : Acc}
    (h : reachB s k n ea own a = true) : Reachable s k n ea own a := by
  simp only [reachB, Bool.and_eq_true, Bool.not_eq_true', decide_eq_true_eq, Option.isNone_iff_eq_none, beq_iff_eq] at h
  obtain ⟨⟨⟨⟨⟨⟨h1, h2⟩, h3⟩, h4⟩, h5⟩, h6⟩, h7⟩ := h
  exact ⟨h1, h2, h3, h4, h5, h6, h7⟩

/-- The conditions of `Accessible`, computed. -/
def accessB (s : State) (k : AccKind) (n : Nat) (ea : Word) (own : Acc → Option Nat) (a : Acc) : Bool :=
  reachB s k n ea own a
    && !(a.mig && a.loc == 2 && (isRemote s a.pa || spadCore a.pa != s.fib.core) && mayMigrate s s.fib)

theorem access_of_bool {s : State} {k : AccKind} {n : Nat} {ea : Word} {own : Acc → Option Nat} {a : Acc}
    (h : accessB s k n ea own a = true) : Accessible s k n ea own a := by
  have h2 := (Bool.and_eq_true _ _).mp h
  exact { reach_of_bool h2.1 with stays := (Bool.not_eq_true' _).mp h2.2 }

/-- The access that translation gives; a failed one gives a blank. -/
def accOf (s : State) (k : AccKind) (ea : Word) : Acc :=
  match translateFibre s s.fib k ea.toNat with
  | .ok a => a
  | _ => ⟨0, 0, 0, 0, false, 0, 0, 0⟩

/-- The words of a block read at issue and the state after it. -/
def blockOf (n : Nat) (s : State) (va : Word) : Option (List Word × State) :=
  match n with
  | 0 => some ([], s)
  | k + 1 =>
    let a := accOf s .load va
    if accessB s .load 8 va noOwn a && mayPerform (touched s a) (mkReq (touched s a) .load 0 8 a va)
        && !isRemote (touched s a) a.pa then
      match loadNow (touched s a) a va with
      | .ok (w, r) => (blockOf k r (va + 8)).map fun x => (w :: x.1, x.2)
      | .error _ => none
    else none

theorem block_reads {n : Nat} {s : State} {va : Word} {ws : List Word} {t : State} (h : blockOf n s va = some (ws, t)) :
    BlockReads n s va ws t := by
  induction n generalizing s va ws with
  | zero =>
    simp only [blockOf, Option.some.injEq, Prod.mk.injEq] at h
    exact ⟨h.1.symm, h.2.symm⟩
  | succ k ih =>
    simp only [blockOf] at h
    split at h
    · rename_i hc
      simp only [Bool.and_eq_true] at hc
      split at h
      · rename_i w r hl
        simp only [Option.map_eq_some_iff, Prod.mk.injEq] at h
        obtain ⟨x, hx, h1, h2⟩ := h
        obtain rfl : t = x.2 := h2.symm
        exact ⟨_, w, r, x.1, access_of_bool hc.1.1, hc.1.2, .inl ⟨by simpa using hc.2, hl⟩, h1.symm, ih hx⟩
      · cases h
    · cases h

/-- The words and the state of a block that can be read. -/
def blockW (n : Nat) (s : State) (va : Word) : List Word := ((blockOf n s va).getD ([], s)).1
/-- The state after a block that can be read. -/
def blockS (n : Nat) (s : State) (va : Word) : State := ((blockOf n s va).getD ([], s)).2

theorem block_of_some {n : Nat} {s : State} {va : Word} (h : (blockOf n s va).isSome = true) :
    BlockReads n s va (blockW n s va) (blockS n s va) := by
  obtain ⟨x, hx⟩ := Option.isSome_iff_exists.mp h
  apply block_reads
  simp [blockW, blockS, hx]

/-- The plan of a vector instruction that names tiles that exist. -/
def planOf (s : State) (op : VOp) : VPlan :=
  match vecNames (pendingPfx s.fib) (namedTile s s.fib s.fib.core) op with
  | .ok p => p
  | .error _ => ⟨fmtsInForce none ⟨0, 0, ⟨0, 0, 0⟩⟩ none ⟨0, 0, ⟨0, 0, 0⟩⟩, ⟨0, 0, ⟨0, 0, 0⟩⟩, ⟨0, 0, ⟨0, 0, 0⟩⟩, none, none, none, none, none⟩

/-- The conditions of `VectorReady`, computed. -/
def vectorB (s : State) (op : VOp) (p : VPlan) : Bool :=
  (match vecNames (pendingPfx s.fib) (namedTile s s.fib s.fib.core) op with
    | .ok q => decide (q = p)
    | .error _ => false)
  && (planTiles p).all (fun r => teState r.tile.ent == 2)
  && (vecFormats op p ++ vecShapes op p).all (fun x => x.1)
  && (planWrites p).all (fun r => !matrixReads s s.fib.core r.idx && !copyReads s s.fib.core r.tile (rowLen p r))
  && (planTiles p).all (fun r => !tileOwned s r.tile (rowLen p r))
  && !mustPerform s s.fib && (coreOf s s.fib.core).vec.isEmpty

theorem vector_of_bool {s : State} {op : VOp} {p : VPlan} (h : vectorB s op p = true) : VectorReady s op p := by
  simp only [vectorB, Bool.and_eq_true, Bool.not_eq_true', List.all_eq_true, beq_iff_eq, List.isEmpty_iff] at h
  obtain ⟨⟨⟨⟨⟨⟨h1, h2⟩, h3⟩, h4⟩, h5⟩, h6⟩, h7⟩ := h
  refine ⟨?_, h2, h3, h4, h5, h6, h7⟩
  split at h1
  · rename_i q hq
    rw [hq, of_decide_eq_true h1]
  · cases h1

/-- The names of a matrix command whose tiles exist. -/
def namesOf (s : State) (fn : Nat) (ta tb td : Option Nat) : MNames :=
  match matrixNamesOf s (if fn = 2 then none else pendingPfx s.fib) fn ta tb td (matrixCores s fn).1 (matrixCores s fn).2.1
    (matrixCores s fn).2.2 with
  | .ok n => n
  | .error _ => ⟨none, none, none, none, none⟩

/-- The conditions of `MatrixReady`, computed. -/
def matrixB (s : State) (fn : Nat) (ta tb td : Option Nat) (n : MNames) : Bool :=
  (match matrixNamesOf s (if fn = 2 then none else pendingPfx s.fib) fn ta tb td (matrixCores s fn).1 (matrixCores s fn).2.1
      (matrixCores s fn).2.2 with
    | .ok m => decide (m = n)
    | .error _ => false)
  && (mTiles n).all (fun r => teState r.tile.ent == 2)
  && (matrixChecks fn (matrixFmts (if fn = 2 then none else pendingPfx s.fib) (entOf n.a) (entOf n.b) (entOf n.d) fn) n).isNone
  && (matrixWait s fn n).isNone

theorem matrix_of_bool {s : State} {fn : Nat} {ta tb td : Option Nat} {n : MNames} (h : matrixB s fn ta tb td n = true) :
    MatrixReady s fn ta tb td n := by
  simp only [matrixB, Bool.and_eq_true, List.all_eq_true, beq_iff_eq, Option.isNone_iff_eq_none] at h
  obtain ⟨⟨⟨h1, h2⟩, h3⟩, h4⟩ := h
  refine ⟨?_, h2, h3, h4⟩
  split at h1
  · rename_i m hm
    rw [hm, of_decide_eq_true h1]
  · cases h1

/-! Single steps, their results worked out from the rules. -/

theorem test_add_wraps : alu (.add false 3 1 false 2 false false false) 0xFFFFFFFFFFFFFFFF 2 = 1 := by decide +kernel
theorem test_add_saturates : alu (.add false 3 1 false 2 false true true) 0xFFFFFFFFFFFFFFFF 2 = 0xFFFFFFFFFFFFFFFF
    ∧ alu (.add false 3 1 false 2 false true false) 0x7FFFFFFFFFFFFFFF 2 = 0x7FFFFFFFFFFFFFFF := by decide +kernel
theorem test_sub : alu (.sub false 3 1 false 2 false false false) 3 5 = 0xFFFFFFFFFFFFFFFE
    ∧ alu (.sub false 3 1 false 2 false true true) 3 5 = 0 := by decide +kernel
theorem test_sub_saturates : alu (.sub false 3 1 false 2 false true false) 0x8000000000000000 1 = 0x8000000000000000 := by
  decide +kernel
theorem test_logic : alu (.and false 3 1 false 2 false) 12 10 = 8 ∧ alu (.or false 3 1 false 2 false) 12 10 = 14
    ∧ alu (.xor false 3 1 false 2 false) 12 10 = 6 ∧ alu (.andn false 3 1 false 2 false) 12 10 = 4 := by decide +kernel
theorem test_shift_counts : alu (.shl false 3 1 false 2 false) 3 65 = 6 ∧ alu (.shr false 3 1 false 2 false) 0x8000000000000000 63 = 1
    ∧ alu (.sar false 3 1 false 2 false) 0x8000000000000000 63 = 0xFFFFFFFFFFFFFFFF
    ∧ alu (.ror false 3 1 false 2 false) 1 1 = 0x8000000000000000 := by decide +kernel
theorem test_min_max : alu (.min false 3 1 false 2 false false) 0xFFFFFFFFFFFFFFFF 2 = 0xFFFFFFFFFFFFFFFF
    ∧ alu (.min false 3 1 false 2 false true) 0xFFFFFFFFFFFFFFFF 2 = 2 ∧ alu (.max false 3 1 false 2 false false) 0xFFFFFFFFFFFFFFFF 2 = 2
    ∧ alu (.max false 3 1 false 2 false true) 0xFFFFFFFFFFFFFFFF 2 = 0xFFFFFFFFFFFFFFFF := by decide +kernel
theorem test_compares : alu (.cmpeq false 3 1 false 2 false) 4 4 = 1 ∧ alu (.cmpne false 3 1 false 2 false) 4 4 = 0
    ∧ alu (.cmplt false 3 1 false 2 false false) 0x8000000000000000 0 = 1 ∧ alu (.cmplt false 3 1 false 2 false true) 0x8000000000000000 0 = 0
    ∧ alu (.cmple false 3 1 false 2 false false) 4 4 = 1 := by decide +kernel
theorem test_counts : alu (.clz false 3 1 false) 0 0 = 64 ∧ alu (.clz false 3 1 false) 1 0 = 63 ∧ alu (.popc false 3 1 false) 0xF0F 0 = 8 := by
  decide +kernel
theorem test_extensions : alu (.sextb false 3 1 false) 0x80 0 = 0xFFFFFFFFFFFFFF80 ∧ alu (.sexth false 3 1 false) 0x17FFF 0 = 0x7FFF
    ∧ alu (.sextw false 3 1 false) 0x80000000 0 = 0xFFFFFFFF80000000 ∧ alu (.zextb false 3 1 false) 0x1FF 0 = 0xFF
    ∧ alu (.zexth false 3 1 false) 0x1FFFF 0 = 0xFFFF ∧ alu (.zextw false 3 1 false) 0x1FFFFFFFF 0 = 0xFFFFFFFF := by decide +kernel
/-- R277: SEL keeps G[d] and takes G[b] when it is 0 (G[3] is 7 here). -/
theorem test_sel : alu (.sel false 3 1 false 2 false) 11 22 = 11 ∧ result (.sel false 3 1 false 2 false) (setReg boot 3 0) 3 = 5 := by
  decide +kernel
theorem test_multiply : alu (.mul false 3 1 false 2 false) 0xFFFFFFFFFFFFFFFF 3 = 0xFFFFFFFFFFFFFFFD
    ∧ alu (.mulh false 3 1 false 2 false false) 0xFFFFFFFFFFFFFFFF 3 = 0xFFFFFFFFFFFFFFFF
    ∧ alu (.mulh false 3 1 false 2 false true) 0xFFFFFFFFFFFFFFFF 3 = 2 := by decide +kernel
theorem test_divide : alu (.div false 3 1 false 2 false false) 0xFFFFFFFFFFFFFFF9 2 = 0xFFFFFFFFFFFFFFFD
    ∧ alu (.rem false 3 1 false 2 false false) 0xFFFFFFFFFFFFFFF9 2 = 0xFFFFFFFFFFFFFFFF
    ∧ alu (.div false 3 1 false 2 false false) 0x8000000000000000 0xFFFFFFFFFFFFFFFF = 0x8000000000000000 := by decide +kernel
theorem test_divide_by_zero : alu (.div false 3 1 false 2 false true) 9 0 = 0xFFFFFFFFFFFFFFFF
    ∧ alu (.rem false 3 1 false 2 false true) 9 0 = 9 := by decide +kernel
/-- R279 with both operands 0: zero at every stage. -/
theorem test_hmix : alu (.hmix false 3 1 false 2 false) 0 0 = 0 := by decide +kernel
theorem test_immediates : alu (.addi false 3 1 false 0x7FFF) 5 0 = 4 ∧ alu (.andi false 3 1 false 0x7FFF) 0xFFFFF 0 = 0x7FFF
    ∧ alu (.ori false 3 1 false 0x4000) 1 0 = 0x4001 ∧ alu (.xori false 3 1 false 3) 1 0 = 2 := by decide +kernel
theorem test_immediate_shifts : alu (.shli false 3 1 false 4) 1 0 = 16 ∧ alu (.shri false 3 1 false 4) 0x8000000000000000 0 = 0x800000000000000
    ∧ alu (.sari false 3 1 false 4) 0x8000000000000000 0 = 0xF800000000000000 ∧ alu (.rori false 3 1 false 4) 0x1F 0 = 0xF000000000000001 := by
  decide +kernel
theorem test_immediate_compares : alu (.cmpeqi false 3 1 false 0x7FFF) 0xFFFFFFFFFFFFFFFF 0 = 1
    ∧ alu (.cmplti false 3 1 false 0x7FFF) 0xFFFFFFFFFFFFFFFE 0 = 1 ∧ alu (.cmpltiUns false 3 1 false 0x7FFF) 5 0 = 1 := by decide +kernel
/-- EXTR of bits 15:8, and INSR of the low byte there (G[3] is 7). -/
theorem test_bit_fields : alu (.extr false 3 1 false 8 7) 0xABCD 0 = 0xAB ∧ alu (.insr false 3 1 false 8 7) 0xABCD 0 = 0xCD07 := by
  decide +kernel
theorem test_lui : alu (.lui false 3 0x80000) 0 0 = 0xFFFFFFFC00000000 := by decide +kernel

/-- 1.5 + 2.25 = 3.75, 1.5 × 2.25 = 3.375 in FP64. -/
theorem test_fadd_fmul : alu (.fadd false 3 1 false 2 false false) 0x3FF8000000000000 0x4002000000000000 = 0x400E000000000000
    ∧ alu (.fmul false 3 1 false 2 false false) 0x3FF8000000000000 0x4002000000000000 = 0x400B000000000000
    ∧ alu (.fsub false 3 1 false 2 false false) 0x3FF8000000000000 0x4002000000000000 = 0xBFE8000000000000 := by decide +kernel
/-- R282: 1 / 0 sets DZ (bit 0) and gives +infinity. -/
theorem test_fdiv_by_zero : alu (.fdiv false 3 1 false 2 false true) 0x3F800000 0 = 0x7F800000
    ∧ (drain (after (.fdiv false 3 1 false 2 false true) (setReg (setReg boot 1 0x3F800000) 2 0)).fib).flags = 1 := by decide +kernel
theorem test_fsqrt : alu (.fsqrt false 3 1 false true) 0x40800000 0 = 0x40000000 := by decide +kernel
/-- 1 × 5 (both the bits of FP64 1 and 5) + 7 = 12. -/
theorem test_fma : result (.fma false 3 1 false 2 false false)
    (setReg (setReg (setReg boot 1 0x3FF0000000000000) 2 0x4014000000000000) 3 0x401C000000000000) 3 = 0x4028000000000000 := by decide +kernel
/-- R106: the minimum of the zeros is −0, the maximum +0. -/
theorem test_fmin_fmax : alu (.fmin false 3 1 false 2 false true) 0 0x80000000 = 0x80000000
    ∧ alu (.fmax false 3 1 false 2 false true) 0 0x80000000 = 0 := by decide +kernel
theorem test_fcmp_nan : alu (.fcmpEq false 3 1 false 2 false true) 0x7FC00000 0x7FC00000 = 0
    ∧ alu (.fcmpLt false 3 1 false 2 false true) 0x7FC00000 0 = 0 ∧ alu (.fcmpLe false 3 1 false 2 false true) 0x80000000 0 = 1 := by
  decide +kernel
theorem test_fcvt : alu (.fcvt false 3 1 false false) 0x3F800000 0 = 0x3FF0000000000000
    ∧ alu (.fcvt false 3 1 false true) 0xC000000000000000 0 = 0xC0000000 := by decide +kernel
/-- −1.5 to an integer rounds to even, −2; −2 to FP32. -/
theorem test_fcvti_fcvtf : alu (.fcvti false 3 1 false true) 0xBFC00000 0 = 0xFFFFFFFFFFFFFFFE
    ∧ alu (.fcvtf false 3 1 false true) 0xFFFFFFFFFFFFFFFE 0 = 0xC0000000 := by decide +kernel

theorem test_branches : goes (.beq false 2 false 2 false 0x3FFF) = 0x3FFFC ∧ goes (.bne false 2 false 2 false 9) = 0x40004
    ∧ goes (.blt false 2 false 3 false 3) = 0x4000C ∧ goes (.bge false 2 false 3 false 3) = 0x40004 := by decide +kernel
theorem test_jal_jr : goes (.jal false 3 0xFFFFE) = 0x3FFF8 ∧ result (.jal false 3 2) boot 3 = 0x40004
    ∧ goes (.jr false 3 1 false) = 0x50000 ∧ trapped (.jr false 3 2 false) boot = (0x06, 5) := by decide +kernel
theorem test_loop_count_zero_skips : goes (.loopImm false 0 3) = 0x40010 ∧ (after (.loopImm false 0 3) boot).fib.loops = []
    ∧ (after (.loopReg false 2 false 3) boot).fib.loops = [⟨5, 1, 3⟩] := by decide +kernel
theorem test_endloop : (after (.endloop false) { boot with fib := { boot.fib with loops := [⟨5, 0, 2⟩] } }).fib.pc = 0x4000C := by
  decide +kernel

/-- R42: a load is a long result; the register keeps its value until it arrives. -/
theorem test_load_is_long : let t := after (.ldd false 5 1 false 0 0 0 1) (setWords boot 0x50000 [1, 0x1234567890])
    regVal t.fib 5 = 3 ∧ regVal (drain t.fib) 5 = 0x1234567890 := by decide +kernel
theorem test_loads_zero_extend : let s := setWords boot 0x50000 [0xFFFEFDFCFBFAF9F8]
    result (.ldb false 5 1 false 0 0 0 1) s 5 = 0xF9 ∧ result (.ldh false 5 1 false 0 0 0 1) s 5 = 0xFBFA
    ∧ result (.ldw false 5 1 false 0 0 0 1) s 5 = 0xFFFEFDFC := by decide +kernel
theorem test_stores_little_endian : let m := fun i => (after i (setReg boot 3 0x1122334455667788)).ms.mem
    mrd (m (.stb false 3 1 false 0 0 0 0)) (switchPa boot 0 0x50000) 8 = 0x88 ∧ mrd (m (.sth false 3 1 false 0 0 0 1)) (switchPa boot 0 0x50000) 8 = 0x77880000
    ∧ mrd (m (.stw false 3 1 false 0 0 0 1)) (switchPa boot 0 0x50000) 8 = 0x5566778800000000
    ∧ mget (m (.std false 3 1 false 0 0 0 0)) (switchPa boot 0 0x50007) = 0x11 := by decide +kernel
/-- R410: a misaligned effective address raises ALIGN with that address. -/
theorem test_misaligned_access : trapped (.std false 3 2 false 0 0 0 0) boot = (0x06, 5)
    ∧ trapped (.ldh false 3 2 false 0 0 0 0) boot = (0x06, 5) := by decide +kernel

/-! Address 2^44 of the demonstration is the first scratchpad word of core 0. -/

/-- g1 names that word. -/
def spad : State := setReg boot 1 0x100000000000

/-- R293: STF fills, LDFE reads and empties, FEQ reads the bit. -/
theorem test_full_empty : result (.feq false 5 1 false 0) (after (.stf false 3 1 false 0) spad) 5 = 1
    ∧ result (.ldfe false 5 1 false 0) (after (.stf false 3 1 false 0) spad) 5 = 7
    ∧ result (.feq false 5 1 false 0) (after (.ldfe false 5 1 false 0) (after (.stf false 3 1 false 0) spad)) 5 = 0 := by decide +kernel
theorem test_ldf_waits : (after (.ldf false 5 1 false 0) spad).fib.run = .parked (.req 2)
    ∧ result (.ldf false 5 1 false 0) (after (.feset false 1 false true 0) spad) 5 = 0
    ∧ mrd (after (.ste false 3 1 false 0) spad).ms.mem (spadPa boot 0 0) 8 = 7 := by decide +kernel
/-- R296: each atomic on the word 0x50000, which holds 10; G[2] is 5, G[3] 7. -/
def atomic (i : Instr) (old : Nat) : Word × Nat :=
  (result i (setWords boot 0x50000 [old]) 5, mrd (after i (setWords boot 0x50000 [old])).ms.mem (switchPa boot 0 0x50000) 8)
theorem test_atomic_add_min_max : atomic (.aadd false 5 1 false 2 false 0 0 0 true) 10 = (10, 15)
    ∧ atomic (.amin false 5 1 false 2 false 0 0 0 false true) 10 = (10, 5) ∧ atomic (.amax false 5 1 false 2 false 0 0 0 false true) 10 = (10, 10) := by
  decide +kernel
theorem test_atomic_logic_exchange : atomic (.aand false 5 1 false 2 false 0 0 0 true) 6 = (6, 4)
    ∧ atomic (.aor false 5 1 false 2 false 0 0 0 true) 2 = (2, 7) ∧ atomic (.axch false 5 1 false 2 false 0 0 0 true) 10 = (10, 5) := by
  decide +kernel
/-- ACAS compares with G[d] (3 here); ADECP stops at 0, AINCB at the bound. -/
theorem test_atomic_conditional : atomic (.acas false 5 1 false 2 false 0 0 0 true) 3 = (3, 5)
    ∧ atomic (.acas false 5 1 false 2 false 0 0 0 true) 4 = (4, 4) ∧ atomic (.adecp false 5 1 false 0 0 0 true) 0 = (0, 0)
    ∧ atomic (.adecp false 5 1 false 0 0 0 true) 2 = (2, 1) ∧ atomic (.aincb false 5 1 false 2 false 0 0 0 true) 5 = (5, 5)
    ∧ atomic (.aincb false 5 1 false 2 false 0 0 0 true) 4 = (4, 5) := by decide +kernel
theorem test_pref_fence : (after (.pref false 1 false 0 0) boot).fib.pc = 0x40004 ∧ (after (.fence false 6) boot).fib.pc = 0x40004 := by
  decide +kernel
/-- R299: WAITA completes at once with 1 on a value that differs from the expected one (5), and otherwise waits. -/
theorem test_waita : result (.waita false 5 1 false 2 false false) (setWords placed 0x50000 [6]) 5 = 1
    ∧ (after (.waita false 5 1 false 2 false false) (setWords placed 0x50000 [5])).fib.run = .parked (.req 2) := by decide +kernel
theorem test_notify_none : result (.notify false 5 1 false true) boot 5 = 0 := by decide +kernel

theorem test_nop_yield_align : goes (.nop false) = 0x40004 ∧ goes (.yield false) = 0x40004 ∧ goes (.align false 0) = 0x40004
    ∧ (after (.align false 3) boot).fib.run = .parked .align := by decide +kernel
/-- R391, R393: TRAP 9 raises TRAPI with EVAL 9 and EPC the next address; TRAP 63 is BREAK. -/
theorem test_trap : trapped (.trap false 9) boot = (0x16, 9) ∧ (after (.trap false 9) boot).fib.mon.epc = 0x40004
    ∧ goes (.trap false 9) = 0x60000 ∧ (trapped (.trap false 63) boot).1 = 0x17 := by decide +kernel
theorem test_hcall : trapped (.hcall false 9) boot = (0x16, 0x8000000000000009) := by decide +kernel
/-- R392: ERET goes back to EPC; without a frame it raises ILLEGAL. -/
theorem test_eret : (after (.eret false) (after (.trap false 9) boot)).fib.pc = 0x40004
    ∧ (after (.eret false) (after (.trap false 9) boot)).fib.mon.frame = false
    ∧ (trapped (.eret false) boot).1 = 0x01 := by decide +kernel
/-- R305, R394: a user-level fibre may not run HCALL: PRIV, with the instruction's word; TVEC is unusable here. -/
theorem test_privilege : let f := (after (.hcall false 1) { boot with fib := { boot.fib with pl := 0 } }).fib
    (f.pl, f.mon.cause, f.mon.val, f.mon.rdir) = (2, 0x05, 0x50000013, true) := by decide +kernel
theorem test_mfs : result (.mfs false 5 0x0D) { boot with fib := { boot.fib with core := 300 } } 5 = 300
    ∧ result (.mfs false 5 0) boot 5 = 0x1000 := by decide +kernel
/-- R34: writing FSTAT sets DCHK (bit 14) and clears the flags written as 1. -/
theorem test_mts_fstat : let f := (after (.mts false 1 false 0) (setReg { boot with fib := { boot.fib with flags := 0x1F } } 1 0x4003)).fib
    (f.dchk, f.hzchk, f.flags) = (true, false, 0x1C) := by decide +kernel
theorem test_dead_register : trapped (.add false 3 15 false 1 false false false) { boot with fib := { boot.fib with dchk := true } } = (0x04, 15) := by
  decide +kernel
theorem test_last_use_frees : (after (.add false 3 1 true 2 true false false) boot).fib.live = 0x7FF8 := by decide +kernel
theorem test_g0_reads_zero : alu (.add false 0 1 false 2 false false false) 1 2 = 7 ∧ result (.add false 0 1 false 2 false false false) boot 0 = 0 := by
  decide +kernel
/-- R9: a prefix is consumed by the next instruction that takes one; ADD takes none and raises PREFIX. -/
theorem test_prefix : (after (.fmt false 1 2 3 0 0 false false) boot).fib.pfx = true
    ∧ (trapped (.add false 3 1 false 2 false false false) (after (.fmt false 1 2 3 0 0 false false) boot)).1 = 0x03 := by decide +kernel
theorem test_cacheop_tlbinv : goes (.cacheop false 1 false 2) = 0x40004
    ∧ (after (.tlbinv false 0 false 1 4) boot).fib.run = .parked (.tlb 4 0 true 0) := by decide +kernel
theorem test_callat : (after (.callat false 1 false 2 false) (setReg placed 5 0)).fib.run = .parked (.callat 5 (some true))
    ∧ (after (.callat false 1 false 0 false) (setReg placed 5 0)).fib.run = .parked (.callat 0 (some true))
    ∧ (trapped (.callat false 1 false 1 false) placed).1 = 0x19 := by decide +kernel

/-! Tiles. -/

/-- The entry of a ready tile (R147). -/
def tileWord (base rows cols pitch fmt : Nat) : Nat :=
  2 * 2 ^ 62 + fmt * 2 ^ 55 + (pitch / 8 - 1) * 2 ^ 42 + (cols - 1) * 2 ^ 34 + (rows - 1) * 2 ^ 26 + 2 ^ 25 + base

/-- `placed` with tiles: t0 holds 1, 2 / 3, 4 and t1 5, 6 / 7, 8 in FP32; t2 and t12, t13 are as large, t3 has one column; t4 holds the
indexes 3, 2 / 1, 0; t5 is in BF16; t6 is one element, 9; t7 is of LC2 and t8 takes its weights; t9 is a row of 32, t10 takes it
as INT8 with its scale in t11; t14 and t15 are 16 × 16 and FP16. -/
def tiles : State :=
  let ents := [tileWord 0 2 2 8 0, tileWord 0x100 2 2 8 0, tileWord 0x200 2 2 8 0, tileWord 0x300 2 1 8 0, tileWord 0x400 2 2 8 12,
    tileWord 0x500 2 2 8 1, tileWord 0x600 1 1 8 0, tileWord 0x700 1 8 8 11, tileWord 0x800 1 8 32 0, tileWord 0x900 1 32 128 0,
    tileWord 0xA00 1 32 32 8, tileWord 0xB00 1 1 8 9, tileWord 0xC00 2 2 8 0, tileWord 0xD00 2 2 8 0, tileWord 0x1000 16 16 32 2,
    tileWord 0x2000 16 16 32 2]
  let word := fun (m : List Host.Cell) (x : Nat × Nat) => mwr m (spadPa placed 0 x.1) 8 x.2
  { placed with
    cores := [(0, { Core.reset with tiles := (List.range 16).map fun k => (k, BitVec.ofNat 64 (ents.getD k 0)) })]
    ms := { placed.ms with mem := [(0, 0x400000003F800000), (8, 0x4080000040400000), (0x100, 0x40C0000040A00000), (0x108, 0x4100000040E00000),
      (0x400, 0x0000000200000003), (0x408, 0x1), (0x600, 0x41100000)].foldl word placed.ms.mem } }

/-- The codes of a tile of core 0, row by row. -/
def codes (s : State) (t : Nat) : List Nat :=
  let e := tileEnt s 0 t
  let w := fmtWidth (teFmt e)
  (tileRows s ⟨0, 0, e⟩ (teFmt e)).flatMap fun r => (List.range (teCols e)).map fun j => rowElem r w j

/-- The codes of a tile after an instruction. -/
def tile (i : Instr) (t : Nat) : List Nat := codes (after i tiles) t

theorem test_vector_arithmetic : tile (.vadd false 2 0 1) 2 = [0x40C00000, 0x41000000, 0x41200000, 0x41400000]
    ∧ tile (.vsub false 2 1 0) 2 = [0x40800000, 0x40800000, 0x40800000, 0x40800000]
    ∧ tile (.vmul false 2 0 1) 2 = [0x40A00000, 0x41400000, 0x41A80000, 0x42000000] := by decide +kernel
/-- 8 / 4 = 2 last; VFMA adds to the old destination, zero here. -/
theorem test_vector_divide_fma : (tile (.vdiv false 2 1 0) 2).getD 3 0 = 0x40000000
    ∧ tile (.vfma false 2 0 1) 2 = [0x40A00000, 0x41400000, 0x41A80000, 0x42000000]
    ∧ tile (.vfma false 0 0 1) 0 = [0x40C00000, 0x41600000, 0x41C00000, 0x42100000] := by decide +kernel
theorem test_vector_min_max_abs : tile (.vmin false 2 0 1) 2 = codes tiles 0 ∧ tile (.vmax false 2 0 1) 2 = codes tiles 1
    ∧ tile (.vabs false 2 0) 2 = codes tiles 0 := by decide +kernel
/-- R321: row sums, least and greatest of a row, running sums and maxima along a row. -/
theorem test_vector_reductions : tile (.vredAdd false 3 0) 3 = [0x40400000, 0x40E00000] ∧ tile (.vredMin false 3 0) 3 = [0x3F800000, 0x40400000]
    ∧ tile (.vredMax false 3 0) 3 = [0x40000000, 0x40800000] ∧ tile (.vscanAdd false 2 0) 2 = [0x3F800000, 0x40400000, 0x40400000, 0x40E00000]
    ∧ tile (.vscanMax false 2 0) 2 = codes tiles 0 := by decide +kernel
theorem test_vector_compares : tile (.vcmpEq false 2 0 0) 2 = [0x3F800000, 0x3F800000, 0x3F800000, 0x3F800000]
    ∧ tile (.vcmpLt false 2 1 0) 2 = [0, 0, 0, 0] ∧ tile (.vcmpLe false 2 0 1) 2 = [0x3F800000, 0x3F800000, 0x3F800000, 0x3F800000] := by
  decide +kernel
/-- VSEL takes B where the destination is 0; VBCAST repeats the one element 9. -/
theorem test_vector_select_broadcast : tile (.vsel false 2 0 1) 2 = codes tiles 1 ∧ tile (.vsel false 0 0 1) 0 = codes tiles 0
    ∧ tile (.vbcast false 2 6) 2 = [0x41100000, 0x41100000, 0x41100000, 0x41100000] := by decide +kernel
/-- The indexes 3, 2, 1, 0 reverse the elements. -/
theorem test_vector_permutations : tile (.vgather false 2 0 4) 2 = [0x40800000, 0x40400000, 0x40000000, 0x3F800000]
    ∧ tile (.vscat false 2 0 4) 2 = [0x40800000, 0x40400000, 0x40000000, 0x3F800000]
    ∧ tile (.vtrans false 2 0) 2 = [0x3F800000, 0x40400000, 0x40000000, 0x40800000] := by decide +kernel
theorem test_vector_convert : tile (.vcvt false 5 0) 5 = [0x3F80, 0x4000, 0x4040, 0x4080] := by decide +kernel
theorem test_vector_square_root : (tile (.vsqrt false 2 0) 2).getD 3 0 = 0x40000000 := by decide +kernel
/-- R330 without scaling: BARQ adds, and its residual is 0 where the sum is exact. -/
theorem test_barq : tile (.barq false 2 0 1) 2 = [0x40C00000, 0x41000000, 0x41200000, 0x41400000]
    ∧ tile (.barqRes false 12 0 1) 13 = [0, 0, 0, 0] := by decide +kernel
theorem test_tile_undefined : trapped (.vadd false 16 0 1) tiles = (0x0A, 16) := by decide +kernel
/-- R317: a definition of format 15 is refused; TDEF with DEF = 0 undefines. -/
theorem test_tdef : trapped (.tdef false 1 false 3) (setReg tiles 1 (tileWord 0 2 2 8 15)) = (0x0E, 3)
    ∧ tileEnt (after (.tdef false 1 false 3) (setReg tiles 1 0)) 0 3 = 0 := by decide +kernel
theorem test_tstate : teState (tileEnt (after (.tstate false 5 true 0 1) tiles) 0 1) = 0 ∧ result (.tstate false 5 false 0 1) tiles 5 =
    BitVec.ofNat 64 (tileWord 0x100 2 2 8 0) := by decide +kernel
theorem test_twait : goes (.twait false 0) = 0x60000 ∧ (after (.twait false 1) tiles).fib.pc = 0x40004
    ∧ (after (.twait false 1) (after (.tstate false 5 true 0 1) tiles)).fib.run = .parked (.tile 0 1) := by decide +kernel

/-- FP64 tiles of Gaussian blocks (R222): t0 holds η = (1, 2) and Λ = [2, 1 / 1, 4], t1 the block (0, 0), t2 room for one variable, t3
the block (1, 4), t4 the pivot 0; an empty slot of dimension 1 lies at offset 0x3000. g1 names a descriptor at 0x50000. -/
def gauss (ws : List Nat) : State :=
  let ents := [tileWord 0 2 3 24 13, tileWord 0x100 1 2 16 13, tileWord 0x200 1 2 16 13, tileWord 0x300 1 2 16 13, tileWord 0x400 2 3 24 13]
  let word := fun (m : List Host.Cell) (x : Nat × Nat) => mwr m (spadPa placed 0 x.1) 8 x.2
  let s := setWords placed 0x50000 ws
  { s with
    cores := [(0, { Core.reset with tiles := (List.range 5).map fun k => (k, BitVec.ofNat 64 (ents.getD k 0)) })]
    ms := { s.ms with mem := [(0, 0x3FF0000000000000), (8, 0x4000000000000000), (16, 0x3FF0000000000000), (24, 0x4000000000000000),
      (32, 0x3FF0000000000000), (40, 0x4010000000000000), (0x300, 0x3FF0000000000000), (0x308, 0x4010000000000000),
      (0x3000, 1)].foldl word s.ms.mem } }

/-- GMSG's descriptor: the factor in t0, the variable's block in t1, dimensions 1 and 1, the slot at offset 0x3000. -/
def gmsgWords : List Nat := [0x01010100, 0, 2 ^ 44 + 0x3000, 0]
/-- GBEL's: the belief into t2, the prior in t1, one slot. -/
def gbelWords : List Nat := [0x00010102, 0, 2 ^ 44 + 0x3000, 0]
/-- GMARG's: from the block in t3 into t2. -/
def gmargWords : List Nat := [0x00010302, 0, 0, 0]

/-- R228: e = 1 − 1 × 2/4 = 0.5 and M = 2 − 1 × 1/4 = 1.75; R229: the residual 0.25, and the header counts one message. -/
theorem test_gmsg : let t := after (.gmsg false 3 1 false) (gauss gmsgWords)
    regVal (drain t.fib) 3 = 0x3FD0000000000000
      ∧ [0x3000, 0x3008, 0x3010].map (fun o => mrd t.ms.mem (spadPa t 0 o) 8) = [0x100000001, 0x3FE0000000000000, 0x3FFC000000000000]
      ∧ isFull t (spadPa t 0 0x3000) = true := by decide +kernel
/-- R231: the belief is the prior plus the slot's message, and the count of messages taken is 1. -/
theorem test_gbel : let s := setWords (after (.gmsg false 5 1 false) (gauss gmsgWords)) 0x50000 gbelWords
    let t := after (.gbel false 3 1 false) s
    regVal (drain t.fib) 3 = 1 ∧ codes t 2 = [0x3FE0000000000000, 0x3FFC000000000000] ∧ isFull t (spadPa t 0 0x3000) = false := by
  decide +kernel
/-- R232: the mean 1/4, the variance 1/4, and the pivot 4. -/
theorem test_gmarg : let t := after (.gmarg false 3 1 false) (gauss gmargWords)
    regVal (drain t.fib) 3 = 0x4010000000000000 ∧ codes t 2 = [0x3FD0000000000000, 0x3FD0000000000000] := by decide +kernel
/-- R227: a pivot not above the threshold raises SINGULAR with its index. -/
theorem test_singular : trapped (.gmarg false 3 1 false) (gauss [0x00010102, 0, 0, 0]) = (0x0D, 0) := by decide +kernel

/-- GMSG's and GBEL's use of their fibre. -/
def gmsgUse : Use := { plainUse (.gmsg false 3 1 false) false [(1, false)] 3 with fail := true }
/-- GBEL's. -/
def gbelUse : Use := { plainUse (.gbel false 3 1 false) false [(1, false)] 3 with fail := true }

/-- A state that maps core 0's scratchpad of module 1 at 2 × 2^44. -/
def afar (s : State) : State :=
  { s with ms := { s.ms with mem := mwr s.ms.mem (switchPa s 0 0x20010) 8 (2 ^ 46 + spadPa s 0 0 + 0x1E8B) } }
/-- A word of module 1's core 0 that the fibre has fetched, or a slot's word taken there. -/
def farWord (off op val : Nat) : FarWord := ⟨.fibre 1, 2 ^ 46 + spadPa placed 0 0 + off, op, 9, true, 0, BitVec.ofNat 64 val, op == 2⟩
/-- GMSG and GBEL with their slot in module 1, its header here. -/
def farSlot (t0 : Nat) (ws : List FarWord) : State :=
  let s := afar (gauss [t0, 0, 2 ^ 45 + 0x3000, 0])
  { s with fib := { s.fib with words := ws } }

/-! For every statement, states and operands that meet its hypotheses; where a clause has more than its instruction's issue, its own. -/

/-- A use of two registers and of one. -/
def rr (i : Instr) : Use := plainUse i false [(1, false), (2, false)] 3
/-- A use of one register. -/
def r1 (i : Instr) : Use := plainUse i false [(1, false)] 3

theorem witness_IntegerShortResults : ∀ u ∈ [rr (.add false 3 1 false 2 false true true), rr (.sub false 3 1 false 2 false false false),
    rr (.and false 3 1 false 2 false), rr (.or false 3 1 false 2 false), rr (.xor false 3 1 false 2 false), rr (.andn false 3 1 false 2 false),
    rr (.shl false 3 1 false 2 false), rr (.shr false 3 1 false 2 false), rr (.sar false 3 1 false 2 false), rr (.ror false 3 1 false 2 false),
    rr (.min false 3 1 false 2 false true), rr (.max false 3 1 false 2 false false), rr (.cmpeq false 3 1 false 2 false),
    rr (.cmpne false 3 1 false 2 false), rr (.cmplt false 3 1 false 2 false true), rr (.cmple false 3 1 false 2 false false),
    r1 (.clz false 3 1 false), r1 (.popc false 3 1 false), r1 (.sextb false 3 1 false), r1 (.sexth false 3 1 false),
    r1 (.sextw false 3 1 false), r1 (.zextb false 3 1 false), r1 (.zexth false 3 1 false), r1 (.zextw false 3 1 false),
    plainUse (.sel false 3 1 false 2 false) false [(1, false), (2, false), (3, false)] 3], Issues boot u := issue_all (by decide +kernel)

/-- The destination may be g0, which discards the result, and both operands last uses. -/
theorem witness_discarded_result : ∀ u ∈ [plainUse (.add true 0 1 true 2 true false false) true [(1, true), (2, true)] 0,
    plainUse (.mul true 0 1 true 2 true) true [(1, true), (2, true)] 0], Issues boot u := issue_all (by decide +kernel)

theorem witness_IntegerLongResults : ∀ u ∈ [rr (.mul false 3 1 false 2 false), rr (.mulh false 3 1 false 2 false true),
    rr (.div false 3 1 false 2 false false), rr (.rem false 3 1 false 2 false true), rr (.hmix false 3 1 false 2 false)], Issues boot u :=
  issue_all (by decide +kernel)

theorem witness_IntegerImmediates : ∀ u ∈ [r1 (.addi false 3 1 false 0x7FFF), r1 (.andi false 3 1 false 1), r1 (.ori false 3 1 false 1),
    r1 (.xori false 3 1 false 1), r1 (.shli false 3 1 false 63), r1 (.shri false 3 1 false 63), r1 (.sari false 3 1 false 0),
    r1 (.rori false 3 1 false 1), r1 (.cmpeqi false 3 1 false 1), r1 (.cmplti false 3 1 false 0x4000), r1 (.cmpltiUns false 3 1 false 0),
    r1 (.extr false 3 1 false 63 0), plainUse (.insr false 3 1 false 0 63) false [(1, false), (3, false)] 3,
    plainUse (.lui false 3 0xFFFFF) false [] 3], Issues boot u := issue_all (by decide +kernel)

theorem witness_ScalarFloatResults : ∀ u ∈ [rr (.fadd false 3 1 false 2 false true), rr (.fsub false 3 1 false 2 false false),
    rr (.fmul false 3 1 false 2 false true), rr (.fdiv false 3 1 false 2 false false), r1 (.fsqrt false 3 1 false true),
    rr (.fmin false 3 1 false 2 false true), rr (.fmax false 3 1 false 2 false false), rr (.fcmpEq false 3 1 false 2 false true),
    rr (.fcmpLt false 3 1 false 2 false true), rr (.fcmpLe false 3 1 false 2 false false), r1 (.fcvt false 3 1 false false),
    r1 (.fcvt false 3 1 false true), r1 (.fcvti false 3 1 false true), r1 (.fcvtf false 3 1 false false),
    plainUse (.fma false 3 1 false 2 false true) false [(1, false), (2, false), (3, false)] 3], Issues boot u :=
  issue_all (by decide +kernel)

/-- The demonstration inside a loop of its first 256 KiB block. -/
def looping : State := { boot with fib := { boot.fib with loops := [⟨5, 0, 2⟩] } }

/-- Taken, not taken, and taken to another block than the loop's. -/
theorem witness_ConditionalBranches :
    (∀ u ∈ [plainUse (.beq false 2 false 2 false 9) false [(2, false), (2, false)] 0, plainUse (.bne false 2 false 3 false 9) false [(2, false), (3, false)] 0,
      plainUse (.blt false 2 false 3 false 9) false [(2, false), (3, false)] 0, plainUse (.bge false 3 false 2 false 9) false [(3, false), (2, false)] 0],
      Issues boot u ∧ Issues looping u)
    ∧ operand boot (plainUse (.beq false 2 false 2 false 9) false [(2, false), (2, false)] 0) 0 = 5
    ∧ operand boot (plainUse (.beq false 2 false 3 false 9) false [(2, false), (3, false)] 0) 1 = 7
    ∧ leavesBlock boot.fib (0x40000 + 4 * (9 : BitVec 14).signExtend 64) = false
    ∧ leavesBlock looping.fib (0x40000 + 4 * (0x3FFF : BitVec 14).signExtend 64) = true :=
  ⟨fun u hu => ⟨issue_all (by decide +kernel) u hu, issue_all (by decide +kernel) u hu⟩, by decide +kernel⟩

/-- An aligned target, a misaligned one, and one outside the loop's block. -/
theorem witness_Jumps : (∀ u ∈ [plainUse (.jal false 3 0xFFFFF) false [] 3, plainUse (.jr false 3 1 false) false [(1, false)] 3,
      plainUse (.jr false 3 2 false) false [(2, false)] 3], Issues boot u ∧ Issues looping u)
    ∧ operand boot (plainUse (.jr false 3 1 false) false [(1, false)] 3) 0 = 0x50000
    ∧ operand boot (plainUse (.jr false 3 2 false) false [(2, false)] 3) 0 = 5
    ∧ leavesBlock looping.fib (looping.fib.pc + 4 * (0xFFFFF : BitVec 20).signExtend 64) = true :=
  ⟨fun u hu => ⟨issue_all (by decide +kernel) u hu, issue_all (by decide +kernel) u hu⟩, by decide +kernel⟩

/-- LOOP with a count and with none, refused with four levels active, in another block, and beyond the enclosing level; ENDLOOP with
and without a level. -/
theorem witness_HardwareLoops : (∀ u ∈ [plainUse (.loopReg false 2 false 3) false [(2, false)] 0, plainUse (.loopImm false 0 1) false [] 0,
      plainUse (.loopReg false 2 false 0x3FFF) false [(2, false)] 0, plainUse (.endloop false) false [] 0], Issues boot u ∧ Issues looping u)
    ∧ boot.fib.loops = [] ∧ looping.fib.loops = [⟨5, 0, 2⟩]
    ∧ (looping.fib.pc + BitVec.ofNat 64 (4 * 3)).toNat / 2 ^ 18 = looping.fib.pc.toNat / 2 ^ 18
    ∧ 2 < (wordIndex (looping.fib.pc + BitVec.ofNat 64 (4 * 3))).toNat ∧ ((5 : BitVec 16) ≠ wordIndex boot.fib.pc)
    ∧ endTest 0x40000 [⟨5, 0, 0⟩] = ([⟨4, 0, 0⟩], 0x40000) ∧ endTest 0x40000 [⟨1, 0, 0⟩] = ([], 0x40004) :=
  ⟨fun u hu => ⟨issue_all (by decide +kernel) u hu, issue_all (by decide +kernel) u hu⟩, by decide +kernel⟩

/-- `placed` with the fibre a task of the gang. -/
def tasked : State := { placed with fib := { placed.fib with ident := { placed.fib.ident with kind := .task } } }

/-- Another fibre of the gang on core 1, parked at ALIGN under the running one's identity. -/
def mate : Fibre := { placed.fib with id := 9, core := 1, run := .parked .align }

theorem witness_FibreControl :
    Issues boot ⟨.exit false, true, false, 0, fun _ => none,
      if boot.fib.ident.kind = .task ∧ boot.fib.ident.ret ≠ 0 then [(1, false)] else [], 0, true⟩
    ∧ allPerformed boot boot.fib.id = true
    ∧ Issues tasked ⟨.trig false, false, false, 0, gangOnly (.trig false), [], 0, true⟩ ∧ tasked.fib.ident.kind = .task
    ∧ Issues placed ⟨.trig false, false, false, 0, gangOnly (.trig false), [], 0, true⟩ ∧ placed.fib.ident.kind ≠ .task
    ∧ placed.fib.ident.guest = none ∧ allPerformed placed placed.fib.id = true
    ∧ Issues boot (plainUse (.yield true) true [] 0)
    ∧ Issues boot (plainUse (.align false 0) false [] 0) ∧ Issues boot (plainUse (.align false 63) false [] 0)
    ∧ (∀ x ∈ boot.fibres, alignMate (begun boot (plainUse (.align false 63) false [] 0)).fib x = false)
    ∧ (let s := { placed with fibres := [mate] }
      let u := plainUse (.align false 1) false [] 0
      Issues s u ∧ s.fibres.find? (alignMate (begun s u).fib) = some mate) :=
  ⟨issues_of_bool (by decide +kernel), by decide +kernel, issues_of_bool (by decide +kernel), by decide +kernel,
    issues_of_bool (by decide +kernel), by decide +kernel, by decide +kernel, by decide +kernel, issues_of_bool (by decide +kernel),
    issues_of_bool (by decide +kernel), issues_of_bool (by decide +kernel), by decide +kernel, issues_of_bool (by decide +kernel),
    by decide +kernel⟩

/-- MIGR to the own scratchpad, and to core 1's inside a trap handler. -/
theorem witness_migr : let u : Use := ⟨.migr false 3 1 false, false, false, 0, gangOnly (.migr false 3 1 false), [(1, false)], 3, true⟩
    let s := setReg placed 1 0x100000000000
    let q := setReg { placed with fib := { placed.fib with mon := { placed.fib.mon with frame := true } } } 1 0x100000100000
    (Issues s u ∧ firstMark (begun s u).fib = none ∧ (operand s u 0).toNat % 8 = 0
      ∧ (let a := accOf (begun s u) .load (operand s u 0)
        translateFibre (begun s u) (begun s u).fib .load (operand s u 0).toNat = .ok a ∧ a.loc = 2 ∧ isRemote s a.pa = false
          ∧ spadCore a.pa = s.fib.core) ∧ holdsLease (begun s u) (begun s u).fib = false)
    ∧ Issues q u ∧ firstMark (begun q u).fib = none ∧ (operand q u 0).toNat % 8 = 0
      ∧ (let a := accOf (begun q u) .load (operand q u 0)
        translateFibre (begun q u) (begun q u).fib .load (operand q u 0).toNat = .ok a ∧ a.loc = 2 ∧ isRemote q a.pa = false
          ∧ spadCore a.pa ≠ q.fib.core) ∧ holdsLease (begun q u) (begun q u).fib = false ∧ q.fib.mon.frame = true :=
  ⟨⟨issues_of_bool (by decide +kernel), by decide +kernel⟩, issues_of_bool (by decide +kernel), by decide +kernel⟩

/-- MIGR's use of its fibre. -/
def migrUse : Use := ⟨.migr false 3 1 false, false, false, 0, gangOnly (.migr false 3 1 false), [(1, false)], 3, true⟩
/-- `placed` with g1 a word of core 1's scratchpad. -/
def moving : State := setReg placed 1 0x100000100000
/-- A fibre of module 1's launch at work here, with g1 a word of its gang's scratchpad at home. -/
def abroad : State :=
  setReg { placed with fib := { placed.fib with
    ident := { placed.fib.ident with
      gang := none
      guest := some (1, 5) }
    homeMap := [(gangWindow, .at (2 ^ 46 + spadPa placed 0 0) true)] } } 1 gangWindow

/-- MIGR travels to core 1, which accepts its fibre, is refused there when it is retired, and is offered to another module. -/
theorem witness_migr_travel :
    (∀ s ∈ [moving, { moving with cores := [(1, { Core.reset with retired := true })] }, abroad],
      let b := begun s migrUse
      let a := accOf b .load (operand s migrUse 0)
      issuesB s migrUse = true ∧ firstMark b.fib = none ∧ (operand s migrUse 0).toNat % 8 = 0
        ∧ translateFibre b b.fib .load (operand s migrUse 0).toNat = .ok a ∧ a.loc = 2 ∧ holdsLease b b.fib = false
        ∧ s.fib.sup.frame = false ∧ s.fib.mon.frame = false ∧ allReady b.fib = true ∧ allPerformed s s.fib.id = true
        ∧ (drain b.fib).failure = none ∧ firstMark (drain b.fib) = none)
    ∧ (let a := accOf (begun moving migrUse) .load (operand moving migrUse 0)
      isRemote moving a.pa = false ∧ spadCore a.pa = 1 ∧ moving.fib.core = 0 ∧ acceptsFibre moving (drain moving.fib) 1 = true
        ∧ acceptsFibre { moving with cores := [(1, { Core.reset with retired := true })] } (drain moving.fib) 1 = false)
    ∧ isRemote abroad (accOf (begun abroad migrUse) .load (operand abroad migrUse 0)).pa = true := by decide +kernel

/-- MIGR answers 1 on its own core, travels to an accepting one, and its packet for another module waits at the routers. -/
theorem test_migr : result (.migr false 3 1 false) (setReg placed 1 0x100000000000) 3 = 1
    ∧ (after (.migr false 3 1 false) moving).fib.run = .migrating 1 true
    ∧ ((after (.migr false 3 1 false) abroad).net.router.map fun p => p.kind) = [8] := by decide +kernel

/-- CALLAT beyond the module, to a misaligned entry, and to core 5 without a return word. -/
theorem witness_CallAt : let u : Use := ⟨.callat false 1 false 2 false, false, false, 0, gangOnly (.callat false 1 false 2 false),
      [(1, false), (2, false), (1, false), (2, false), (3, false), (4, false), (5, false)], 0, true⟩
    (Issues (setReg placed 2 1024) u ∧ 1024 ≤ (operand (setReg placed 2 1024) u 1).toNat)
    ∧ (Issues (setReg placed 1 2) u ∧ (operand (setReg placed 1 2) u 1).toNat < 1024 ∧ (operand (setReg placed 1 2) u 0).toNat % 4 ≠ 0)
    ∧ Issues (setReg placed 5 0) u ∧ (operand (setReg placed 5 0) u 1).toNat < 1024 ∧ (operand (setReg placed 5 0) u 0).toNat % 4 = 0
      ∧ operand (setReg placed 5 0) u 6 = 0 ∧ allPerformed (setReg placed 5 0) (setReg placed 5 0).fib.id = true :=
  ⟨⟨issues_of_bool (by decide +kernel), by decide +kernel⟩, ⟨issues_of_bool (by decide +kernel), by decide +kernel⟩,
    issues_of_bool (by decide +kernel), by decide +kernel⟩

/-- The hypotheses of an access of g1's address, computed. -/
def reaches (s : State) (k : AccKind) (n : Nat) (own : Acc → Option Nat) (u : Use) : Bool :=
  issuesB s u && accessB (begun s u) k n (operand s u 0) own (accOf (begun s u) k (operand s u 0)) && allPerformed s s.fib.id

/-- An instruction that issues and makes an access that passes. -/
theorem reaches_ok {s : State} {k : AccKind} {n : Nat} {own : Acc → Option Nat} {u : Use} (h : reaches s k n own u = true) :
    Issues s u ∧ Accessible (begun s u) k n (operand s u 0) own (accOf (begun s u) k (operand s u 0))
      ∧ allPerformed s s.fib.id = true := by
  simp only [reaches, Bool.and_eq_true] at h
  exact ⟨issues_of_bool h.1.1, access_of_bool h.1.2, h.2⟩

/-- Every size, plain and with the strongest order, at offset 0 (the address is g1's). -/
theorem witness_LoadsAndStoresComplete :
    [(1, plainUse (.ldb false 5 1 false 0 0 0 0) false [(1, false)] 5), (2, plainUse (.ldh false 5 1 false 3 0 0 0) false [(1, false)] 5),
      (4, plainUse (.ldw false 5 1 false 0 0 0 0) false [(1, false)] 5), (8, plainUse (.ldd false 5 1 false 0 0 0 0) false [(1, false)] 5),
      (8, { plainUse (.ldd false 5 1 false 0 1 6 0) false [(1, false)] 5 with fail := true }),
      (8, { plainUse (.ldd false 5 1 false 0 3 0 0) false [(1, false)] 5 with fail := true })].all
        (fun x => reaches boot .load x.1 (scOwn 0) x.2 && reaches boot .load x.1 (scOwn 3) x.2) = true
    ∧ [(1, plainUse (.stb false 5 1 false 0 0 0 0) false [(1, false), (5, false)] 0),
      (2, plainUse (.sth false 5 1 false 3 0 0 0) false [(1, false), (5, false)] 0),
      (4, plainUse (.stw false 5 1 false 0 0 0 0) false [(1, false), (5, false)] 0),
      (8, plainUse (.std false 5 1 false 0 0 0 0) false [(1, false), (5, false)] 0),
      (8, { plainUse (.std false 5 1 false 0 2 6 0) false [(1, false), (5, false)] 0 with fail := true }),
      (8, { plainUse (.std false 5 1 false 0 3 0 0) false [(1, false), (5, false)] 0 with fail := true })].all
        (fun x => reaches boot .store x.1 (scOwn 0) x.2 && reaches boot .store x.1 (scOwn 3) x.2) = true := by decide +kernel

/-- The request of an 8-byte load and store of g1's address, on this module and plain. -/
def req (k : ReqKind) : Req := mkReq boot k 0 8 (accOf boot .load 0x50000) 0x50000

theorem witness_HomeAccessEffects : AtHome boot (req .load) ∧ (req .load).n ≤ 8 ∧ poisoned boot (req .load).pa 8 = false
    ∧ Canonical boot ∧ AtHome boot (req .store) := by
  refine ⟨⟨?_, ?_, ?_, ?_, ?_, ?_, ?_, ?_⟩, ?_, ?_, by unfold Canonical; decide +kernel, ⟨?_, ?_, ?_, ?_, ?_, ?_, ?_, ?_⟩⟩ <;> decide +kernel

/-- A store and a load of g1's address on this module that complete. -/
theorem witness_LoadAndStoreFrames : Canonical boot
    ∧ reaches boot .store 8 (scOwn 0) (plainUse (.std false 5 1 false 0 0 0 0) false [(1, false), (5, false)] 0) = true
    ∧ reaches boot .store 8 (scOwn 2) { plainUse (.std false 5 1 false 0 2 6 0) false [(1, false), (5, false)] 0 with fail := true } = true
    ∧ reaches boot .load 4 noOwn (plainUse (.ldw false 5 1 false 0 0 0 0) false [(1, false)] 5) = true
    ∧ isOwnMem boot (accOf boot .store 0x50000).pa = true
    ∧ completes (.std false 5 1 false 0 0 0 0) boot = true ∧ completes (.ldw false 5 1 false 0 0 0 0) boot = true := by
  unfold Canonical; decide +kernel

theorem witness_MisalignedAccess : (∀ u ∈ [plainUse (.ldh false 3 2 false 0 0 0 0) false [(2, false)] 3,
      { plainUse (.ldd false 3 2 false 0 1 6 0) false [(2, false)] 3 with fail := true },
      plainUse (.stw false 3 2 false 0 0 0 0) false [(2, false), (3, false)] 0], Issues boot u)
    ∧ (operand boot (plainUse (.ldh false 3 2 false 0 0 0 0) false [(2, false)] 3) 0).toNat % 2 ≠ 0 :=
  ⟨issue_all (by decide +kernel), by decide +kernel⟩

/-- A full/empty operation of the first scratchpad word that passes, its request made and performed as given. -/
def feCase (s : State) (k : AccKind) (rk : ReqKind) (op : Nat) (sc : Bool) (u : Use) : Bool × Bool × Bool :=
  let t := touched (begun s u) (accOf (begun s u) k (operand s u 0))
  let r0 := mkReq t rk op 8 (accOf (begun s u) k (operand s u 0)) (operand s u 0)
  let r := { r0 with
    acq := if sc && k != .store then some (feScope t t.fib.core r0.pa) else none
    rel := if sc && k == .store then some (feScope t t.fib.core r0.pa) else none }
  (reaches s k 8 onlySpad u && !isRemote s r.pa, atIssue t r, match performHere t r with
    | .done _ _ => true
    | _ => false)

/-- g1 names the first scratchpad word, which is full. -/
def filled : State := after (.feset false 1 false true 0) spad

/-- Performed at issue, waiting for a bit, and left to events. -/
theorem witness_FullEmptyOperations :
    feCase filled .load .feLoad 0 true { plainUse (.ldf false 5 1 false 0) false [(1, false)] 5 with fail := true } = (true, true, true)
    ∧ feCase spad .load .feLoad 0 true { plainUse (.ldf false 5 1 false 0) false [(1, false)] 5 with fail := true } = (true, true, false)
    ∧ feCase { filled with sched := { filled.sched with defer := true } } .load .feLoad 0 true
      { plainUse (.ldf false 5 1 false 0) false [(1, false)] 5 with fail := true } = (true, false, true)
    ∧ feCase filled .atomic .feLoad 1 true { plainUse (.ldfe false 5 1 false 0) false [(1, false)] 5 with fail := true } = (true, true, true)
    ∧ feCase spad .load .feLoad 4 false (plainUse (.feq false 5 1 false 0) false [(1, false)] 5) = (true, true, true)
    ∧ feCase spad .store .feStore 2 false (plainUse (.ste false 3 1 false 0) false [(1, false), (3, false)] 0) = (true, true, true)
    ∧ feCase spad .store .feStore 3 true { plainUse (.stf false 3 1 false 0) false [(1, false), (3, false)] 0 with fail := true } = (true, true, true)
    ∧ feCase spad .store .feStore 5 true { plainUse (.feset false 1 false true 0) false [(1, false)] 0 with fail := true } = (true, true, true)
    ∧ feCase spad .store .feStore 5 false (plainUse (.feset false 1 false false 0) false [(1, false)] 0) = (true, true, true) := by
  decide +kernel

/-- PREF, and what a full/empty operation at its home needs, at the last word of the space too. -/
theorem witness_FullEmptyEffects : Issues boot (plainUse (.pref false 1 false 0 0) false [(1, false)] 0) ∧ Canonical spad
    ∧ regionOf (spadPa spad 0 0) = 3 ∧ spadPa spad 0 0 < 2 ^ 56 ∧ spadPa spad 0 0 % 8 = 0 ∧ regionOf (2 ^ 55 - 8) = 3
    ∧ (2 ^ 55 - 8) % 8 = 0 :=
  ⟨issues_of_bool (by decide +kernel), by unfold Canonical; decide +kernel⟩

theorem witness_AtomicsComplete :
    ([(4, { rr (.aadd false 5 1 false 2 false 0 0 0 false) with dest := 5 }), (8, { rr (.amin false 5 1 false 2 false 0 0 0 true true) with dest := 5 }),
      (8, { rr (.amax false 5 1 false 2 false 0 0 0 false true) with dest := 5 }), (8, { rr (.aand false 5 1 false 2 false 0 0 0 true) with dest := 5 }),
      (8, { rr (.aor false 5 1 false 2 false 0 0 0 true) with dest := 5 }), (8, { rr (.axch false 5 1 false 2 false 0 0 0 true) with dest := 5 }),
      (8, plainUse (.acas false 5 1 false 2 false 0 0 0 true) false [(1, false), (2, false), (5, false)] 5),
      (8, plainUse (.adecp false 5 1 false 0 0 0 true) false [(1, false)] 5),
      (8, { rr (.aincb false 5 1 false 2 false 0 0 0 true) with dest := 5 }),
      (8, { rr (.aadd false 5 1 false 2 false 0 3 6 true) with dest := 5, fail := true }),
      (8, { rr (.aadd false 5 1 false 2 false 3 0 0 true) with dest := 5, fail := true })] : List (Nat × Use)).all
        (fun x => reaches boot .atomic x.1 notTarget x.2) = true := by decide +kernel

/-- The hypotheses on the numbers at the ends of the range, and those of AtomicAtHome. -/
theorem witness_AtomicNewValues : (0 : Nat) < 2 ^ (8 * 4) ∧ 2 ^ 64 - 1 < 2 ^ (8 * 8) ∧ Canonical spad ∧ regionOf (spadPa spad 0 0) = 3 := by
  unfold Canonical; decide +kernel

/-- FENCE; WAITA on a word that differs, on one that does not, and left to events; NOTIFY at a word and at a half-aligned one. -/
theorem witness_FencesAndWaits :
    Issues boot { plainUse (.fence false 6) false [] 0 with fail := true } ∧ allPerformed boot boot.fib.id = true
    ∧ (let u : Use := ⟨.waita false 5 1 false 2 false false, false, false, 0, noHandler (.waita false 5 1 false 2 false false),
        [(1, false), (2, false)], 5, true⟩
      reaches (setWords placed 0x50000 [6]) .load 8 notTarget u = true ∧ reaches (setWords placed 0x50000 [5]) .load 8 notTarget u = true
      ∧ (let t := touched (begun placed u) (accOf (begun placed u) .load (operand placed u 0))
        atIssue t { mkReq t .waita 0 8 (accOf (begun placed u) .load (operand placed u 0)) (operand placed u 0) with
          expect := operand placed u 1 } = true))
    ∧ reaches boot .atomic 8 notTarget { plainUse (.notify false 5 1 false true) false [(1, false)] 5 with fail := true } = true
    ∧ reaches (setReg boot 1 0x50004) .atomic 4 notTarget { plainUse (.notify false 5 1 false true) false [(1, false)] 5 with fail := true } = true
    ∧ homeLost boot (accOf boot .atomic 0x50000).pa = false ∧ isRemote boot (accOf boot .atomic 0x50000).pa = false :=
  ⟨issues_of_bool (by decide +kernel), by decide +kernel, by decide +kernel⟩

/-- `placed` with the barrier tags of its gang and stage. -/
def tagged : State :=
  { placed with dist := { placed.dist with
    launches := [⟨1, 2, 0, 0, 0, 0, 0, 0, none, 6, [⟨0, 2 ^ 37⟩], .running, 1⟩]
    grids := [⟨1, 0, [0], none⟩] } }

/-- A gang's barrier and its stage's; SCOPESET; LAUNCH of a record of zeros at 0x50000; arrivals with one code and with two. -/
theorem witness_BarriersAndLaunch :
    (Issues tagged ⟨.barr false 3 1 false 1, false, false, 0, barrierCtx (.barr false 3 1 false 1) false, [(1, false)], 3, true⟩
      ∧ Issues tagged ⟨.barj false 3 1 false 3, false, false, 0, barrierCtx (.barj false 3 1 false 3) true, [(1, false)], 3, true⟩
      ∧ allPerformed tagged tagged.fib.id = true ∧ tagged.fib.ident.guest = none ∧ (gangOfFibre tagged tagged.fib).isSome = true)
    ∧ Issues placed { plainUse (.scopeset false 1 false 7) false [(1, false)] 0 with fail := true }
    ∧ (let u : Use := ⟨.launch false 3 1 false, false, false, 0, noHandler (.launch false 3 1 false), [(1, false)], 3, true⟩
      let t := releaseAt (begun placed u) placed.fib.ident.tenant placed.fib.core 4
      Issues placed u ∧ (operand placed u 0).toNat % 64 = 0 ∧ BlockReads 8 t (operand placed u 0) (blockW 8 t 0x50000) (blockS 8 t 0x50000))
    ∧ (∃ b ∈ [((2 : Nat), (1 : BitVec 2), (7 : Word))], b.2.1 ≠ (3 : BitVec 2))
    ∧ (∀ b ∈ [((2 : Nat), (1 : BitVec 2), (7 : Word))], b.2.1 = (1 : BitVec 2)) :=
  ⟨⟨issues_of_bool (by decide +kernel), issues_of_bool (by decide +kernel), by decide +kernel⟩, issues_of_bool (by decide +kernel),
    ⟨issues_of_bool (by decide +kernel), by decide +kernel, block_of_some (by decide +kernel)⟩, by decide +kernel⟩

/-- A handle to the gang from a fibre outside it; the gang resident, imaged and done; and a handle to none. -/
def handled (st : GangState) : State :=
  { setReg boot 1 (2 ^ 40) with dist := { placed.dist with gangs := placed.dist.gangs.map fun g => { g with st := st } } }

theorem witness_SystemInstructions :
    Issues boot (plainUse (.nop true) true [] 0) ∧ Issues boot (plainUse (.trap false 63) false [] 0)
    ∧ Issues boot { plainUse (.hcall false 0) false [] 0 with level := 1 }
    ∧ Issues boot { plainUse (.tlbinv false 0 false 1 4) false [(0, false)] 0 with level := 1, fail := true }
    ∧ allPerformed boot boot.fib.id = true
    ∧ (let u := plainUse (.cacheop false 1 false 2) false [(1, false)] 0
      Issues boot u ∧ translateFibre (begun boot u) (begun boot u).fib .load (operand boot u 0).toNat
        = .ok (accOf (begun boot u) .load 0x50000))
    ∧ (∀ s ∈ [handled .resident, handled .imaged, handled .done, boot],
      ∀ u ∈ [{ plainUse (.imgsave false 1 false) false [(1, false)] 0 with level := 1 },
        { plainUse (.imgload false 1 false) false [(1, false)] 0 with level := 1 }],
      issuesB s u = true ∧ handleCheck u.instr (begun s u) (operand s u 0) = none)
    ∧ (∀ st ∈ [GangState.resident, .imaged, .done], ((handleGang (handled st) (2 ^ 40)).map fun g => g.st) = some st)
    ∧ handleGang boot 0x50000 = none :=
  ⟨issues_of_bool (by decide +kernel), issues_of_bool (by decide +kernel), issues_of_bool (by decide +kernel),
    issues_of_bool (by decide +kernel), by decide +kernel, ⟨issues_of_bool (by decide +kernel), by decide +kernel⟩, by decide +kernel⟩

/-- MTS refused, to a fibre's own register, and to a scope mask. -/
theorem witness_SpecialRegisterMoves : Issues boot (plainUse (.mfs false 3 0x1F) false [] 3)
    ∧ (let u := { plainUse (.mts false 2 false 0x09) false [(2, false)] 0 with fail := decide (0x18 ≤ (0x09 : BitVec 6).toNat) }
      Issues boot u ∧ mtsCheck (.mts false 2 false 0x09) (begun boot u).fib 0x09 4 = none ∧ (0x09 : BitVec 6).toNat < 0x18)
    ∧ (let u := { plainUse (.mts false 1 false 0x18) false [(1, false)] 0 with fail := decide (0x18 ≤ (0x18 : BitVec 6).toNat) }
      Issues boot u ∧ mtsCheck (.mts false 1 false 0x18) (begun boot u).fib 0x18 (operand boot u 0) = none
        ∧ 0x18 ≤ (0x18 : BitVec 6).toNat ∧ allPerformed boot boot.fib.id = true)
    ∧ (let s := { boot with fib := { boot.fib with pl := 0 } }
      let u := { plainUse (.mts false 2 false 0x09) false [(2, false)] 0 with fail := decide (0x18 ≤ (0x09 : BitVec 6).toNat) }
      Issues s u ∧ (mtsCheck (.mts false 2 false 0x09) (begun s u).fib 0x09 (operand s u 0)).isSome = true) :=
  ⟨issues_of_bool (by decide +kernel), ⟨issues_of_bool (by decide +kernel), by decide +kernel⟩,
    ⟨issues_of_bool (by decide +kernel), by decide +kernel⟩, issues_of_bool (by decide +kernel), by decide +kernel⟩

/-- No loop, and one; the last scope mask. -/
theorem witness_SpecialRegisterValues : boot.fib.loops = [] ∧ looping.fib.loops = ⟨5, 0, 2⟩ :: [] ∧ (7 : Nat) < 8 := by decide +kernel

/-- A user fibre whose tenant's TVEC is 0x70000. -/
def user : State :=
  { boot with
    fib := { boot.fib with pl := 0 }
    dev := { boot.dev with tenants := [(0, { Tenant.reset with tvec := 0x70000 })] } }

/-- A user fibre in a supervisor's frame. -/
def nested : State := { user with fib := { user.fib with sup := { user.fib.sup with frame := true } } }

/-- A trap to the supervisor, to the monitor for want of a TVEC, and a cause of the monitor's own. -/
theorem witness_TrapEntry : (∀ s ∈ [boot, user], allReady s.fib = true ∧ s.fib.failure = none)
    ∧ ¬(cALIGN = cPOISON ∨ cALIGN = cEVICTED ∨ user.fib.pl = 2)
    ∧ usableVec (tenantOf user user.fib.ident.tenant.toNat).tvec = true ∧ user.fib.sup.frame = false
    ∧ (let s := { boot with fib := { boot.fib with pl := 0 } }
      usableVec (tenantOf s s.fib.ident.tenant.toNat).tvec = false ∧ usableVec (mailWord s 16) = true ∧ s.fib.mon.frame = false)
    ∧ boot.fib.pl = 2 ∧ usableVec (mailWord boot 16) = true ∧ boot.fib.mon.frame = false := by decide +kernel

/-- Its trap taken by the monitor, and with both contexts in use. -/
theorem witness_DoubleTrap : (allReady nested.fib = true ∧ nested.fib.failure = none ∧ cALIGN ≠ cPOISON ∧ cALIGN ≠ cEVICTED ∧ nested.fib.pl ≠ 2
      ∧ usableVec (tenantOf nested nested.fib.ident.tenant.toNat).tvec = true ∧ nested.fib.sup.frame = true)
    ∧ (usableVec (mailWord nested 16) = true ∧ nested.fib.mon.frame = false)
    ∧ (let s := { nested with fib := { nested.fib with mon := { nested.fib.mon with frame := true } } }
      s.fib.mon.frame = true ∧ s.fib.sup.frame = true ∧ allPerformed s s.fib.id = true) := by decide +kernel

/-- A long result still to come, and a failure pending. -/
theorem witness_TrapWaitsAndFailures :
    allReady { boot.fib with pend := [⟨5, 3, none, none, 0, true⟩] } = false
    ∧ allReady { boot.fib with failure := some ⟨0x10, 0x1234⟩ } = true := by decide +kernel

/-- In a frame of the monitor at level 2. -/
def framed : State := after (.trap false 9) boot

/-- Without a frame, in one, and in one with levels of another block. -/
theorem witness_TrapReturn : let u := { plainUse (.eret false) false [] 0 with level := 1, fail := true }
    let far := { framed with fib := { framed.fib with mon := { framed.fib.mon with loops := [⟨1, 0, 0⟩], block := 0 } } }
    (Issues boot u ∧ boot.fib.mon.frame = false) ∧ (Issues framed u ∧ framed.fib.mon.frame = true ∧ framed.fib.mon.loops = [])
      ∧ Issues far u ∧ far.fib.mon.frame = true ∧ far.fib.mon.loops ≠ [] ∧ far.fib.mon.epc.toNat / 2 ^ 18 * 2 ^ 18 ≠ far.fib.mon.block :=
  ⟨⟨issues_of_bool (by decide +kernel), by decide +kernel⟩, ⟨issues_of_bool (by decide +kernel), by decide +kernel⟩,
    issues_of_bool (by decide +kernel), by decide +kernel⟩

theorem witness_TrapInstructions : allReady user.fib = true ∧ user.fib.failure = none ∧ usableVec (mailWord user 16) = true
    ∧ user.fib.mon.frame = false := by decide +kernel

theorem witness_PrivilegeChecks : user.fib.pl = 0 ∧ user.fib.failure = none ∧ user.fib.pfx = false ∧ allReady user.fib = true
    ∧ (Instr.eret false).wf = true ∧ (Instr.hcall true 63).wf = true ∧ (Instr.tlbinv false 0 false 1 4).wf = true
    ∧ (Instr.imgsave false 1 false).wf = true ∧ (Instr.imgload false 1 false).wf = true := by decide +kernel

/-- A fibre that checks dead and pending registers: g5 waits for a result, g15 is dead, g2 carries a mark. -/
def checked : State :=
  { boot with fib := { boot.fib with
    dchk := true
    hzchk := true
    pend := [⟨5, 5, none, none, 0, true⟩]
    marks := [(2, ⟨0x10, 0x1234⟩)] } }

/-- An encoding not admitted, a prefix in force, each kind of refusal of a register, and none. -/
theorem witness_IssueCheckOrder : isEngine5 (.add false 3 1 false 2 false false true) = false ∧ checked.fib.failure = none
    ∧ (Instr.add false 3 1 false 2 false false true).wf = false ∧ (Instr.add false 3 1 false 2 false false false).wf = true
    ∧ (after (.fmt false 0 0 0 0 0 false false) boot).fib.pfx = true ∧ checked.fib.pfx = false
    ∧ readCheck checked.fib false 0 2 = some (0x10, 0x1234) ∧ readCheck checked.fib false 0 5 = some (cHAZARD, 5)
    ∧ readCheck checked.fib false 0 15 = some (cDEADREG, 15) ∧ readCheck checked.fib false 0 1 = none
    ∧ destCheck checked.fib false 0 5 = some (cHAZARD, 5) := by decide +kernel

/-- The conditions of each clause; a budget of 3 with 14 registers live refuses a write to g15. -/
theorem witness_RegisterChecks : readMark 0 checked.fib 2 = some ⟨0x10, 0x1234⟩
    ∧ (readMark 0 checked.fib 5 = none ∧ checked.fib.hzchk = true ∧ (pendOf checked.fib 5).isSome = true)
    ∧ (readMark 0 checked.fib 15 = none ∧ pendOf checked.fib 15 = none ∧ checked.fib.dchk = true ∧ checked.fib.live.getLsbD 15 = false)
    ∧ (readMark 0 checked.fib 1 = none ∧ pendOf checked.fib 1 = none ∧ checked.fib.live.getLsbD 1 = true)
    ∧ (let f := { boot.fib with ident := { boot.fib.ident with budget := 3 } }
      pendOf f 15 = none ∧ (f.live &&& ~~~(0 : BitVec 16)).getLsbD 15 = false ∧ f.ident.budget ≤ liveCount (f.live &&& ~~~(0 : BitVec 16)))
    ∧ liveCount (boot.fib.live &&& ~~~(0 : BitVec 16)) < boot.fib.ident.budget := by decide +kernel

theorem witness_ResultRegisters : (3 : Reg) ≠ 0 ∧ (1 : Reg) ≠ 3 ∧ boot.fib.pend = [] ∧ isLive boot.fib 3 = true := by decide +kernel

/-- Short and long results that complete. -/
theorem witness_RegisterInstructionFrames : Issues boot (rr (.add false 3 1 false 2 false true true)) ∧ Issues boot (r1 (.clz false 3 1 false))
    ∧ Issues boot (rr (.mul false 3 1 false 2 false)) ∧ completes (.add false 3 1 false 2 false true true) boot = true
    ∧ completes (.clz false 3 1 false) boot = true ∧ completes (.mul false 3 1 false 2 false) boot = true :=
  ⟨issues_of_bool (by decide +kernel), issues_of_bool (by decide +kernel), issues_of_bool (by decide +kernel), by decide +kernel⟩

/-- `placed` with the lease of its cluster's array, three uses left. -/
def leased : State := { placed with arrays := [(0, { MArray.reset with lease := some ⟨1, 0, 3, false⟩ })] }

/-- An engine register read, written and refused, a queue of another tenant, and prefixes with assigned and reserved codes. -/
theorem witness_EngineRegistersAndPrefix :
    (let other := { placed with gwqs := [(0, ⟨true, 3, 10, 0⟩)] }
    let u := { plainUse (.erd false 3 7 0) false [] 3 with ctx := eregCtx 7 0 false }
    Issues placed u ∧ eregOther (begun placed u) 7 0 = none ∧ Issues other u ∧ (eregOther (begun other u) 7 0).isSome = true)
    ∧ (let u := { plainUse (.ewr false 0 false 1 0) false [(0, false)] 0 with ctx := eregCtx 1 0 true }
      Issues leased u ∧ eregCheck (begun leased u) (.ewr false 0 false 1 0) 1 0 (operand leased u 0) = none)
    ∧ (let u := { plainUse (.ewr false 1 false 1 0) false [(1, false)] 0 with ctx := eregCtx 1 0 true }
      Issues leased u ∧ (eregCheck (begun leased u) (.ewr false 1 false 1 0) 1 0 (operand leased u 0)).isSome = true)
    ∧ Issues boot (plainUse (.fmt false 1 2 14 0 0 false false) false [] 0) ∧ Issues boot (plainUse (.fmt false 15 0 0 0 0 false false) false [] 0) :=
  ⟨⟨issues_of_bool (by decide +kernel), by decide +kernel, issues_of_bool (by decide +kernel), by decide +kernel⟩,
    ⟨issues_of_bool (by decide +kernel), by decide +kernel⟩, ⟨issues_of_bool (by decide +kernel), by decide +kernel⟩,
    issues_of_bool (by decide +kernel), issues_of_bool (by decide +kernel)⟩

/-- TWAIT on a ready tile, a filling one and none; TDEF with a definition that fits, one that does not, and none; TSTATE that reads
and that sets; CBLD at a misaligned address, at once and left to an event. -/
theorem witness_TilesAndCodebook :
    (∀ u ∈ [plainUse (.twait false 1) false [] 0, plainUse (.twait false 16) false [] 0], Issues tiles u)
    ∧ (∃ k a, namedTile tiles tiles.fib 0 1 = some (k, a) ∧ teState a.ent = 2) ∧ namedTile tiles tiles.fib 0 16 = none
    ∧ teState (tileEnt (after (.tstate false 5 true 0 1) tiles) 0 1) ≠ 2
    ∧ (let u := plainUse (.tdef false 1 false 3) false [(1, false)] 0
      ∀ w ∈ [tileWord 0 2 2 8 0, tileWord 0 2 2 8 15, 0], issuesB (setReg tiles 1 w) u = true)
    ∧ tdefCheck (BitVec.ofNat 64 (tileWord 0 2 2 8 0)) 65536 = none ∧ (tdefCheck (BitVec.ofNat 64 (tileWord 0 2 2 8 15)) 65536).isSome = true
    ∧ tileSlot tiles tiles.fib 0 3 = some (3, 0, 65536) ∧ tileSlot tiles tiles.fib 0 63 = none ∧ tileMoving (tileEnt tiles 0 3) = false
    ∧ matrixNames tiles 0 3 = false ∧ copyReadsEnt tiles 0 ⟨0, 0, tileEnt tiles 0 3⟩ = false ∧ matrixReads tiles 0 3 = false
    ∧ (∀ u ∈ [plainUse (.tstate false 5 false 0 3) false [] 5, plainUse (.tstate false 5 true 2 3) false [] 5], issuesB tiles u = true)
    ∧ teDef (tileEnt tiles 0 3) = true ∧ teDef (tileEnt placed 0 3) = false :=
  ⟨issue_all (by decide +kernel), ⟨1, ⟨0, 0, tileEnt tiles 0 1⟩, by decide +kernel⟩, by decide +kernel⟩

theorem witness_cbld : let u := { plainUse (.cbld false 1 false) false [(1, false)] 0 with ctx := noHandler (.cbld false 1 false) }
    (Issues (setReg placed 1 0x50008) u ∧ (operand (setReg placed 1 0x50008) u 0).toNat % 64 ≠ 0)
    ∧ Issues placed u ∧ (operand placed u 0).toNat % 64 = 0
      ∧ BlockReads 128 (begun placed u) (operand placed u 0) (blockW 128 (begun placed u) 0x50000) (blockS 128 (begun placed u) 0x50000)
      ∧ (blockS 128 (begun placed u) 0x50000).sched.defer = false ∧ bookRead (blockS 128 (begun placed u) 0x50000) 0 = false :=
  ⟨⟨issues_of_bool (by decide +kernel), by decide +kernel⟩, issues_of_bool (by decide +kernel), by decide +kernel,
    block_of_some (by decide +kernel), by decide +kernel⟩

/-- Each kind of definition that R149 refuses, and the largest tile of a reservation. -/
theorem witness_TileDefinitionsFit : [defineCheck (BitVec.ofNat 64 (tileWord 0 2 2 8 15)) 65536,
    defineCheck (BitVec.ofNat 64 (tileWord 0 2 2 8 0 + 7 * 2 ^ 59)) 65536, defineCheck (BitVec.ofNat 64 (tileWord 0 1 3 8 0)) 65536,
    defineCheck (BitVec.ofNat 64 (tileWord 0 65 256 1032 0)) 131072, defineCheck (BitVec.ofNat 64 (tileWord 8 64 256 1024 0)) 65536,
    defineCheck (BitVec.ofNat 64 (tileWord 0 2 2 8 0 + 2 ^ 59)) 65536, defineCheck (BitVec.ofNat 64 (tileWord 0 64 256 1024 0)) 65536] =
    [some 0x0E, some 0x02, some 0x0B, some 0x0B, some 0x0B, some 0x0B, none] := by decide +kernel

/-- The prefix of a quantizing instruction to INT8 with its scales in t11. -/
def quantizing : State := after (.fmt false 0 0 8 1 11 false false) tiles

/-- Every vector instruction, where it issues and its tiles, formats, shapes and waits allow it. -/
def vectorCases : List (State × Instr) :=
  ([.vadd false 2 0 1, .vsub false 2 0 1, .vmul false 2 0 1, .vdiv false 2 0 1, .vfma false 2 0 1, .vmin false 2 0 1, .vmax false 2 0 1,
    .vabs false 2 0, .vexp false 2 0, .vlog false 2 0, .vsqrt false 2 0, .vrsqrt false 2 0, .vrcp false 2 0, .vtanh false 2 0,
    .vsigm false 2 0, .vredAdd false 3 0, .vredMin false 3 0, .vredMax false 3 0, .vscanAdd false 2 0, .vscanMax false 2 0,
    .vcmpEq false 2 0 1, .vcmpLt false 2 0 1, .vcmpLe false 2 0 1, .vsel false 2 0 1, .vbcast false 2 6, .vgather false 2 0 4,
    .vscat false 2 0 4, .vtrans false 2 0, .vcvt false 5 0, .vcbk false 8 7, .barq false 2 0 1, .barqRes false 12 0 1].map fun i => (tiles, i))
  ++ [(quantizing, .vqscale false 10 9)]

theorem witness_VectorInstructions : ∀ c ∈ vectorCases, ∃ op p, vecOp c.2 = some op
    ∧ Issues c.1 { plainUse c.2 false [] 0 with pfxOk := true }
    ∧ VectorReady (begun c.1 { plainUse c.2 false [] 0 with pfxOk := true }) op p := by
  have h : vectorCases.all (fun c => match vecOp c.2 with
      | some op => issuesB c.1 { plainUse c.2 false [] 0 with pfxOk := true }
        && vectorB (begun c.1 { plainUse c.2 false [] 0 with pfxOk := true }) op
          (planOf (begun c.1 { plainUse c.2 false [] 0 with pfxOk := true }) op)
      | none => false) = true := by decide +kernel
  intro c hc
  have hx := List.all_eq_true.mp h c hc
  simp only at hx
  split at hx
  · rename_i op ho
    rw [Bool.and_eq_true] at hx
    exact ⟨op, _, ho, issues_of_bool hx.1, vector_of_bool hx.2⟩
  · cases hx

/-- No element traps, or one of an index out of range does; the unit's work is done at once, or left to an event. -/
theorem witness_VectorFrame : tiles.sched.defer = false
    ∧ vecTrap tiles tiles.fib ⟨.el 0, 2, 0, some 1⟩ (planOf tiles ⟨.el 0, 2, 0, some 1⟩) = none
    ∧ (vecTrap tiles tiles.fib ⟨.gather, 2, 3, some 4⟩ (planOf tiles ⟨.gather, 2, 3, some 4⟩)).isSome = true
    ∧ completes (.vadd false 2 0 1) tiles = true := by decide +kernel

/-- What the belief instructions need, computed: the descriptor readable, its fields, its tiles, no poison. -/
def gaussB (k : Nat) (u : Use) (s : State) (a b : GDesc → GTile) (wr : Bool) : Bool :=
  let t := blockS 4 (begun s u) 0x50000
  let d := gDesc (blockW 4 (begun s u) 0x50000)
  issuesB s u && operand s u 0 == 0x50000 && (blockOf 4 (begun s u) 0x50000).isSome && s.fib.ident.kind != .handler && gFieldsOk k d
    && match gTiles t (a d) (b d) wr with
      | .ok (x, z) => (gPoison t t.fib x.tile (a d).dim).isNone && (gPoison t t.fib z.tile (b d).dim).isNone
      | .error _ => false

/-- A message can be made from GMSG's tiles, the factor in entry `e`. -/
def messageB (e : Nat) : Bool :=
  let s := gauss gmsgWords
  match gMessage (gDesc (gmsgWords.map (BitVec.ofNat 64))) (gBlock s ⟨0, 0, tileEnt s 0 e⟩ 2) (gBlock s ⟨0, 0, tileEnt s 0 1⟩ 1) with
  | .ok _ => true
  | .error _ => false

/-- GMSG's slot on this module: of its dimension, accessible, without poison; whether it is free and whether another may wait for it. -/
def slotB (s : State) : Option (Bool × Bool) :=
  match slotAt s .store 1 (2 ^ 44 + 0x3000) with
  | .ok pas =>
    let j : SlotJob := ⟨9, 2 ^ 44 + 0x3000, pas, 1, 0, [0, 0], 0⟩
    if !isRemote s (pas.headD 0) && (slotPoison s (2 ^ 44 + 0x3000) pas 1 false).isNone && (slotWord s pas 0).toNat % 16 == 1 then
      some (slotFree s j, slotRoom s j)
    else none
  | .error _ => none

/-- GMSG: a message and a singular factor; its slot free, full with room to wait and full without. GBEL's slot, and GMARG's two ends. -/
theorem witness_BeliefInstructions :
    gaussB 0 gmsgUse (gauss gmsgWords) (fun d => ⟨d.t0, d.di + d.dj⟩) (fun d => ⟨d.t1, d.dj⟩) false = true
    ∧ gaussB 0 gmsgUse (gauss [0x01010104, 0, 2 ^ 44 + 0x3000, 0]) (fun d => ⟨d.t0, d.di + d.dj⟩) (fun d => ⟨d.t1, d.dj⟩) false = true
    ∧ messageB 0 = true ∧ messageB 4 = false ∧ allPerformed (gauss gmsgWords) 1 = true
    ∧ slotB (gauss gmsgWords) = some (true, true)
    ∧ slotB (setFull (gauss gmsgWords) (spadPa placed 0 0x3000) true) = some (false, true)
    ∧ (let s := setFull (gauss gmsgWords) (spadPa placed 0 0x3000) true
      let r : Req := { mkReq s .feStore 2 8 ⟨spadPa s 0 0x3000, 2, 0, 2, false, 0, 0, 0⟩ 0 with arrived := true }
      slotB { s with ms := { s.ms with reqs := List.replicate 64 { r with fib := 2 } } } = some (false, false))
    ∧ gaussB 1 gbelUse (gauss gbelWords) (fun d => ⟨d.t0, d.di⟩) (fun d => ⟨d.t1, d.di⟩) true = true
    ∧ (match slotArray (gauss gbelWords) 1 1 (2 ^ 44 + 0x3000) [] with
      | .ok l => l.all fun q => !isRemote (gauss gbelWords) (q.2.headD 0) && (slotPoison (gauss gbelWords) q.1 q.2 1 true).isNone
        && (slotWord (gauss gbelWords) q.2 0).toNat % 16 == 1
      | .error _ => false) = true
    ∧ gaussB 2 (plainUse (.gmarg false 3 1 false) false [(1, false)] 3) (gauss gmargWords) (fun d => ⟨d.t0, d.di⟩) (fun d => ⟨d.t1, d.di⟩)
      true = true := by decide +kernel

/-- A leaf that maps a scratchpad of another module, which is populated, translates for a fibre. -/
theorem far_ok {s : State} {f : Fibre} {va leaf lv : Nat} {k : AccKind} (hp : Config.populated 1 = true) (h1 : inPlacement va = false)
    (h2 : inSwitchWindow va = false) (hl : (f.pl == 2 || nf leaf 56 4 == f.ident.tenant.toNat) = true)
    (h3 : tlbFind s f.core (spaceOf f.ident.tenant f.pl) va = none)
    (h4 : walkFrom s 3 va (rootOf s (spaceOf f.ident.tenant f.pl)) = some (leaf, lv)) (h5 : permits f.pl k leaf = true)
    (h6 : nf leaf 6 2 = 2)
    (pa : Nat) (hpa : nf leaf 16 40 * 2 ^ 16 / 2 ^ pageWidth lv * 2 ^ pageWidth lv + va % 2 ^ pageWidth lv = pa)
    (h7 : regionOf pa = 3 ∧ paMod pa = 1 ∧ nb pa 52 = false ∧ nf pa 30 16 = 0 ∧ canonPa s pa = pa ∧ isRemote s pa = true) :
    ∃ a : Acc, translateFibre s f k va = .ok a ∧ a.pa = pa ∧ a.loc = 2 ∧ outOfReach s f a.pa = false := by
  obtain ⟨r1, r2, r3, r4, r5, r6⟩ := h7
  have hr : regionOk s pa = true := by simp [regionOk, r1, r2, r3, r4, hp]
  have hlo : locOk 2 pa = true := by simp [locOk, r1]
  have hn : ¬(f.pl ≠ 2 ∧ nf leaf 56 4 ≠ f.ident.tenant.toNat) := by
    simp only [Bool.or_eq_true, beq_iff_eq] at hl
    exact fun x => hl.elim x.1 x.2
  have hc : checkLeaf s f.ident.tenant f.pl k va leaf (pageWidth lv) = .ok ⟨pa, BitVec.ofNat 2 (nf leaf 2 2),
      BitVec.ofNat 2 (nf leaf 4 2), 2, nb leaf 8, va / 2 ^ pageWidth lv, pageWidth lv, BitVec.ofNat 64 leaf⟩ := by
    simp only [checkLeaf, hpa, if_neg hn, h5, h6, hlo, hr, r5]
    simp
  exact ⟨⟨pa, BitVec.ofNat 2 (nf leaf 2 2), BitVec.ofNat 2 (nf leaf 4 2), 2, nb leaf 8, va / 2 ^ pageWidth lv, pageWidth lv,
      BitVec.ofNat 64 leaf⟩, by
    simp only [translateFibre, h1, translateAgent, h2, translateIn, h3, h4, hc, Bool.false_eq_true, if_false], rfl, rfl,
    by simp [outOfReach, switchOther, r1, fibreReach, r6]⟩

/-- The word of module 1 that an address of its window names. -/
def farPa (off : Nat) : Nat := 2 ^ 46 + spadPa placed 0 0 + off

/-- What `far_ok` asks of a state, a fibre and an address, computed. -/
def farB (s : State) (f : Fibre) (k : AccKind) (off : Nat) : Bool :=
  let va := 2 ^ 45 + off
  let pa := farPa off
  !inPlacement va && !inSwitchWindow va && decide (tlbFind s f.core (spaceOf f.ident.tenant f.pl) va = none)
    && (match walkFrom s 3 va (rootOf s (spaceOf f.ident.tenant f.pl)) with
      | some (leaf, lv) => (f.pl == 2 || nf leaf 56 4 == f.ident.tenant.toNat) && permits f.pl k leaf && nf leaf 6 2 == 2
        && nf leaf 16 40 * 2 ^ 16 / 2 ^ pageWidth lv * 2 ^ pageWidth lv + va % 2 ^ pageWidth lv == pa
      | none => false)
    && regionOf pa == 3 && paMod pa == 1 && !nb pa 52 && nf pa 30 16 == 0 && canonPa s pa == pa && isRemote s pa

/-- An address of module 1's window translates. -/
theorem far_at {s : State} {f : Fibre} {k : AccKind} {off : Nat} (hp : Config.populated 1 = true) (h : farB s f k off = true) :
    ∃ a : Acc, translateFibre s f k (2 ^ 45 + off) = .ok a ∧ a.pa = farPa off ∧ a.loc = 2 ∧ outOfReach s f a.pa = false := by
  simp only [farB, Bool.and_eq_true, Bool.not_eq_true', beq_iff_eq, decide_eq_true_eq] at h
  obtain ⟨⟨⟨⟨⟨⟨⟨⟨⟨h1, h2⟩, h4⟩, h5⟩, h6⟩, h7⟩, h8⟩, h9⟩, h10⟩, h11⟩ := h
  split at h5
  · rename_i leaf lv hw
    simp only [Bool.and_eq_true, beq_iff_eq] at h5
    exact far_ok hp h1 h2 h5.1.1.1 h4 hw h5.1.1.2 h5.1.2 _ h5.2 ⟨h6, h7, h8, h9, h10, h11⟩
  · cases h5

/-- It passes the checks of a scratchpad word (R146). -/
theorem far_check {s : State} {k : AccKind} {off : Nat} (hp : Config.populated 1 = true) (h : farB s s.fib k off = true)
    (ha : (BitVec.ofNat 64 (2 ^ 45 + off)).toNat = 2 ^ 45 + off ∧ (2 ^ 45 + off) % 8 = 0) :
    ∃ a : Acc, checkAt s k 8 (BitVec.ofNat 64 (2 ^ 45 + off)) onlySpad = .ok a ∧ a.pa = farPa off := by
  obtain ⟨a, e1, e2, e3, e4⟩ := far_at hp h
  refine ⟨a, ?_, e2⟩
  simp only [checkAt, aligned, ha.1, ha.2, e1, onlySpad, e3, e4]
  simp

/-- A slot of one dimension in module 1's window. -/
theorem far_slot {s : State} {k : AccKind} (hp : Config.populated 1 = true)
    (h : (farB s s.fib k 0x3000 && farB s s.fib k 0x3008 && farB s s.fib k 0x3010) = true)
    (ho : [farPa 0x3000, farPa 0x3008, farPa 0x3010].any (fun x => owned s x 8) = false)
    (hi : [farPa 0x3000, farPa 0x3008, farPa 0x3010].any (isRemote s) = true ∧ isRemote s (farPa 0x3000) = true) :
    slotAt s k 1 0x200000003000 = .ok [farPa 0x3000, farPa 0x3008, farPa 0x3010] := by
  simp only [Bool.and_eq_true] at h
  obtain ⟨a, ha, pa⟩ := far_check hp h.1.1 (by decide)
  obtain ⟨b, hb, pb⟩ := far_check hp h.1.2 (by decide)
  obtain ⟨c, hc, pc⟩ := far_check hp h.2 (by decide)
  have w : slotWords 3 0 s k 0x200000003000 = .ok [farPa 0x3000, farPa 0x3008, farPa 0x3010] := by
    have x : (0x200000003000 : Word) + BitVec.ofNat 64 (8 * 0) = BitVec.ofNat 64 (2 ^ 45 + 0x3000) := by decide
    have y : (0x200000003000 : Word) + BitVec.ofNat 64 (8 * (0 + 1)) = BitVec.ofNat 64 (2 ^ 45 + 0x3008) := by decide
    have z : (0x200000003000 : Word) + BitVec.ofNat 64 (8 * (0 + 1 + 1)) = BitVec.ofNat 64 (2 ^ 45 + 0x3010) := by decide
    rw [slotWords, x, ha, slotWords, y, hb, slotWords, z, hc, slotWords]
    simp [pa, pb, pc]
  have e : slotBytes 1 / 8 = 3 := rfl
  have f : ([farPa 0x3000, farPa 0x3008, farPa 0x3010] == (List.range 3).map fun k => farPa 0x3000 + 8 * k) = true := by decide +kernel
  simp only [slotAt, e, w, ho]
  simp [hi.2, f]

/-- GMSG and GBEL with a slot in module 1, where that module is populated (R21, a value of Config): its header fetched, its words
taken; the module reachable and dead. -/
theorem witness_far_slots (hp : Config.populated 1 = true) :
    (let s := farSlot 0x01010100 [farWord 0x3000 0 1]
    let t := blockS 4 (begun s gmsgUse) 0x50000
    gaussB 0 gmsgUse s (fun d => ⟨d.t0, d.di + d.dj⟩) (fun d => ⟨d.t1, d.dj⟩) false = true
      ∧ slotAt t .store 1 0x200000003000 = .ok [farPa 0x3000, farPa 0x3008, farPa 0x3010] ∧ isRemote t (farPa 0x3000) = true
      ∧ ((t.fib.words.find? fun w => w.pa == farPa 0x3000 && w.op == 0).map fun x => (x.here, x.cause, x.val)) = some (true, 0, 1)
      ∧ unreachable t (paMod (farPa 0x3000)) = none
      ∧ (unreachable { t with net := { t.net with dead := [1] } } (paMod (farPa 0x3000))).isSome = true)
    ∧ (let s := farSlot 0x00010102 [farWord 0x3000 0 1, farWord 0x3000 2 1, farWord 0x3008 2 0, farWord 0x3010 2 0]
      let t := blockS 4 (begun s gbelUse) 0x50000
      gaussB 1 gbelUse s (fun d => ⟨d.t0, d.di⟩) (fun d => ⟨d.t1, d.di⟩) true = true
        ∧ slotAt t .atomic 1 0x200000003000 = .ok [farPa 0x3000, farPa 0x3008, farPa 0x3010] ∧ isRemote t (farPa 0x3000) = true
        ∧ ((slotFar t 2 (farPa 0x3000)).map fun w => (w.here, w.cause)) = some (true, 0)) :=
  ⟨⟨by decide +kernel, far_slot hp (by decide +kernel) (by decide +kernel) (by decide +kernel), by decide +kernel⟩,
    by decide +kernel, far_slot hp (by decide +kernel) (by decide +kernel) (by decide +kernel), by decide +kernel⟩

/-- `tiles` with the lease of the array, its operands from slot 0, and a lease whose array runs a command. -/
def matrixed : State := { tiles with arrays := leased.arrays }

/-- A command of another. -/
def someCmd : MCmd := mkCmd matrixed 2 0 0 none ⟨none, none, none, none, none⟩
/-- `matrixed` while it runs. -/
def matrixBusy : State := { matrixed with arrays := [(0, { MArray.reset with lease := some ⟨1, 0, 3, false⟩, cmds := [someCmd] })] }

/-- MMAS takes A of half as many columns as B has rows, with its metadata in UINT8: t14 as FP16 16 × 8 and t11 as 16 × 4. -/
def sparse : State :=
  setTileEnt (setTileEnt matrixed 0 14 (BitVec.ofNat 64 (tileWord 0x1000 16 8 16 2))) 0 11 (BitVec.ofNat 64 (tileWord 0xB00 16 4 8 9))

/-- Every matrix command, on an idle array and behind another. -/
theorem witness_MatrixCommands :
    [((matrixed, Instr.mma false 14 15)), (sparse, .mmas false 11 14 15), (matrixed, .mzero false), (matrixed, .macc false 14),
      (matrixed, .mst false 14), (matrixBusy, .mma false 14 15), (matrixBusy, .mst false 14)].all (fun c => match matrixOp c.2 with
        | some (fn, ta, tb, td) =>
          let u := { plainUse c.2 false [] 0 with
            pfxOk := decide (fn ≠ 2)
            ctx := leaseHeld true }
          issuesB c.1 u && matrixB (begun c.1 u) fn ta tb td (namesOf (begun c.1 u) fn ta tb td)
        | none => false) = true
    ∧ (arrayOf (useBound matrixed 0) 0).cmds = [] ∧ (useBound matrixed 0).sched.defer = false
    ∧ (arrayOf (useBound matrixBusy 0) 0).cmds ≠ [] := by decide +kernel

/-- The array free and taken; released idle and busy; and each reason of LEASE. -/
theorem witness_MatrixLease :
    (let u := { plainUse (.mlease false 255) false [] 0 with ctx := leaseAsk (.mlease false 255) }
    Issues tiles u ∧ (arrayOf (begun tiles u) 0).lease = none ∧ (arrayOf (begun tiles u) 0).wait = []
      ∧ (arrayOf (begun tiles u) 0).retired = false ∧ (begun tiles u).sched.defer = false
      ∧ issuesB { tiles with arrays := [(0, { MArray.reset with retired := true })] } u = true)
    ∧ (let u := { plainUse (.mrel false) false [] 0 with ctx := leaseHeld false }
      Issues matrixed u ∧ Issues matrixBusy u ∧ (arrayOf matrixed 0).cmds = [] ∧ (arrayOf matrixBusy 0).cmds ≠ []
        ∧ (arrayOf matrixBusy 0).lease = some ⟨1, 0, 3, false⟩)
    ∧ Issues placed (plainUse (.mstep false 3) false [] 3)
    ∧ (arrayOf placed 0).lease = none ∧ (arrayOf leased 0).lease = some ⟨1, 0, 3, false⟩ ∧ leased.fib.id = 1 :=
  ⟨⟨issues_of_bool (by decide +kernel), by decide +kernel⟩,
    ⟨issues_of_bool (by decide +kernel), issues_of_bool (by decide +kernel), by decide +kernel⟩, issues_of_bool (by decide +kernel),
    by decide +kernel⟩

/-- R336 on a 2 × 2 block: MACC of t0, MMA of t0 and t1, and MST give 1 + 1 × 5 + 2 × 7 = 20 in the first place. -/
theorem test_matrix : (codes (after (.mst false 2) (after (.mma false 0 1) (after (.macc false 0) (after (.mzero false) { matrixed with
      arrays := [(0, { MArray.reset with lease := some ⟨1, 0, 9, false⟩ })] })))) 2).getD 0 0 = 0x41A00000 := by decide +kernel

/-- A copy of 0x50000 into t2, and the same with a stamp at word 0x400 of slot 0. -/
def copyWord (nb : Bool) : Nat := 2 * 2 ^ 26 + (if nb then (2 ^ 28 + 6 * 2 ^ 24 + 0x400) * 2 ^ 32 else 0)

/-- `tiles` with G[2] a copy's request. -/
def copying (nb : Bool) : State := setReg tiles 2 (copyWord nb)

/-- The command that a copy puts into its core's FIFO. -/
def someCopy : Copy := ((coreOf (after (.cpyq false 1 false 2 false false) (copying false)) 0).fifo).getD 0
  ⟨0, 0, 0, 0, 0, false, false, 0, 0, 0, 0, 0, 0, 0, 0, 0, 0, 0, [], 0, false, false, none, false⟩

/-- `copying` with a full FIFO. -/
def fullFifo (nb : Bool) : State :=
  { copying nb with cores := modWhere (fun c => c.1 == 0) (fun c => (0, { c.2 with fifo := List.replicate 16 someCopy })) tiles.cores }

/-- What CPYQ needs, computed. -/
def copyB (s : State) (nb : Bool) : Bool :=
  let u := { plainUse (.cpyq false 1 false 2 false nb) false [(1, false), (2, false)] 0 with fail := true }
  let t := begun s u
  let r := copyReq (operand s u 1)
  issuesB s u && t.fib.ident.kind != .handler && !copyReserved r nb
    && (match copyStamp t r, copySide t r (operand s u 0) with
      | .ok _, .ok sd => match sideRows true t (if r.kind == 1 || r.kind == 3 then .store else .load) sd.rows [] with
        | .ok ps => ps.all fun p => !sideRefused t t.fib.core (r.kind == 1 || r.kind == 3) p.2.1
        | .error _ => false
      | _, _ => false)

/-- CPYQ with room, at a full FIFO with and without NB; CPYWAIT with a copy outstanding and with none; CPYSTAT. -/
theorem witness_CopyAndKick : copyB (copying false) false = true ∧ fifoUsed (coreOf (copying false) 0) < 16
    ∧ copyB (fullFifo true) true = true ∧ copyB (fullFifo false) false = true ∧ 16 ≤ (coreOf (fullFifo true) 0).fifo.length
    ∧ allPerformed (copying false) 1 = true ∧ allPerformed (fullFifo true) 1 = true
    ∧ (let s := fullFifo true
      let q := { s with ms := { s.ms with reqs := [mkReq s .load 0 8 (accOf s .load 0x50000) 0x50000] } }
      copyB q true = true ∧ allPerformed q q.fib.id = false)
    ∧ issuesB (fullFifo false) { plainUse (.cpywait false) false [] 0 with fail := true } = true
    ∧ someCopy.fib = 1 ∧ (∀ x ∈ (coreOf tiles 0).fifo, x.fib ≠ 1) ∧ (∀ x ∈ (coreOf tiles 0).failed, x.1 ≠ 1)
    ∧ issuesB tiles { plainUse (.cpywait false) false [] 0 with fail := true } = true
    ∧ issuesB tiles { plainUse (.cpystat false 3) false [] 3 with fail := true } = true := by decide +kernel

/-- KICK of 64 bytes to core 5, from 0x58000 to 0x59000. -/
def kicking : State := setReg (setWords placed 0x50000 [0x58000, 0x59000, 0, 0, 64]) 2 5

theorem witness_kick : let u := { plainUse (.kick false 1 false 2 false) false [(1, false), (2, false)] 0 with fail := true }
    let t := blockS 5 (begun kicking u) 0x50000
    let ws := blockW 5 (begun kicking u) 0x50000
    issuesB kicking u = true ∧ (operand kicking u 1).toNat < 65536 ∧ populatedMod kicking ((operand kicking u 1).toNat / 1024) = true
      ∧ (operand kicking u 0).toNat % 8 = 0 ∧ (blockOf 5 (begun kicking u) (operand kicking u 0)).isSome = true
      ∧ (ws.getD 4 0).toNat = 64 ∧ (ws.getD 0 0).toNat % 8 = 0 ∧ (ws.getD 1 0).toNat % 8 = 0
      ∧ (match sideRows false t .load [(0x58000, 64)] [] with
        | .ok _ => true
        | .error _ => false) = true
      ∧ ws.getD 3 0 = 0 ∧ msgOut t t.fib.core < 32 ∧ allPerformed t t.fib.id = true := by decide +kernel

/-- A copy joins the FIFO, and CPYSTAT counts the free places; KICK's notice waits at the routers. -/
theorem test_copies : (coreOf (after (.cpyq false 1 false 2 false false) (copying false)) 0).fifo.length = 1
    ∧ result (.cpystat false 3) (fullFifo false) 3 = 0 ∧ result (.cpystat false 3) tiles 3 = 16
    ∧ (after (.cpywait false) tiles).fib.pc = 0x40004 ∧ (after (.cpywait false) (fullFifo false)).fib.run = .parked .copies
    ∧ (after (.kick false 1 false 2 false) kicking).net.outst.length = 1 := by decide +kernel

/-- `tiles` with pooled memory enabled and mapped at 2 × 2^44 under the directory's coherence. -/
def pooled : State :=
  { tiles with
    dev := { tiles.dev with cxlen := 0xFFF }
    ms := { tiles.ms with mem := mwr tiles.ms.mem (switchPa tiles 0 0x20010) 8 0x1E03 } }

/-- An ICB at the start of that window: one dimension, at most four slots, no attributes, an empty index. -/
def icbWords : List Nat :=
  let v := 2 * 2 ^ 44
  [v + 0x1000, v + 0x2000, v + 0x3000, v + 0x10000, 0x10000, 0, 2, 1 + 2 * 2 ^ 16 + 256 * 2 ^ 32 + 2 ^ 48, 0, 2 ^ 64 - 1, 0, 0, 0, 0, 0, 0]
/-- `pooled` with that ICB, named by g1. -/
def icb : State :=
  let p := canonPa pooled (accOf pooled .load 0x200000000000).pa
  setReg { pooled with ms := { pooled.ms with mem := (List.range 16).foldl (fun m k => mwr m (p + 8 * k) 8 (icbWords.getD k 0)) pooled.ms.mem } }
    1 0x200000000000
/-- `icb` with the index open and its results for t14, g1 a parameter block and g2 the index. -/
def opened (ws : List Nat) : State :=
  let s := setTileEnt (after (.ixopen false 3 1 false) icb) 0 14 (BitVec.ofNat 64 (tileWord 0x1000 1 4 16 12))
  setReg (setReg (setWords { s with fib := { drain s.fib with live := 0x7FFE } } 0x50000 ws) 1 0x50000) 2 0

/-- LDNN's block: the query in t6, the result in t14, one neighbour of a beam of one; STVEC's, of t6 as identifier 77; DLVEC's. -/
def ldnnWords : List Nat := [6 + 14 * 2 ^ 8 + 2 ^ 16 + 2 ^ 32 + 6 * 2 ^ 48, 0, 0, 0]
/-- STVEC's block. -/
def stvecWords : List Nat := [6 + 6 * 2 ^ 48, 77, 0, 0]
/-- DLVEC's block. -/
def dlvecWords : List Nat := [6 * 2 ^ 48, 77, 0, 0]

/-- What an index command needs, computed. -/
def indexB (s : State) (i : Instr) (op : Nat) : Bool :=
  let u := { plainUse i false [(1, false), (2, false)] 0 with fail := true }
  let ws := blockW 4 (begun s u) 0x50000
  let t := blockS 4 (begun s u) 0x50000
  let w0 := (ws.getD 0 0).toNat
  issuesB s u && operand s u 0 == 0x50000 && (blockOf 4 (begun s u) 0x50000).isSome && decide ((operand s u 1).toNat ≤ 63)
    && s.fib.ident.kind != .handler && allPerformed t t.fib.id
    && (match indexOf s 0 with
      | some ix => ix.ten == s.fib.ident.tenant && !blockBad op ix ws
      | none => false)
    && (match resultTile t op (nf w0 8 8) (nf w0 16 16) with
      | .ok _ => true
      | .error _ => false)
    && ws.getD 3 0 == 0 && decide ((t.idxCmds.filter fun c => c.core == t.fib.core).length < 16)

/-- A tile that serves as a query or vector. -/
theorem cmdTile_of {t : State} {op tile dim : Nat} {k : Nat} {q : TileAt} (hn : namedTile t t.fib t.fib.core tile = some (k, q))
    (h2 : teState q.ent = 2) (hf : ¬2 < teFmt q.ent) (hs : ¬teRows q.ent * teCols q.ent < dim) (h0 : op ≠ 2) :
    ∀ go, cmdTile t op tile dim go = go (some q) := by
  intro go
  simp [cmdTile, h0, hn, h2, hf, hs]

/-- A vector tile that gives its elements. -/
theorem cmdVector_of {t : State} {dim : Nat} {a : Word} {q : TileAt} (hp : vectorPoison t q dim = none)
    (hx : (tileVector t q dim).any notFinite = false) : ∀ go, cmdVector t (some q) dim a go = go (tileVector t q dim) := by
  intro go
  simp [cmdVector, hp, hx]

/-- No weights are read where none are named. -/
theorem openWeights_none (t : State) (va : Nat) : ∀ go, openWeights t 0 va go = go t [] := by
  intro go
  rfl

theorem witness_IndexInstructions : indexB (opened ldnnWords) (.ldnn false 1 false 2 false) 0 = true
    ∧ indexB (opened stvecWords) (.stvec false 1 false 2 false) 1 = true ∧ indexB (opened dlvecWords) (.dlvec false 1 false 2 false) 2 = true
    ∧ (∀ op ∈ [0, 1], ∀ go, cmdTile (opened ldnnWords) op 6 1 go = go (some ⟨0, 0, tileEnt (opened ldnnWords) 0 6⟩))
    ∧ (∀ go, cmdTile (opened dlvecWords) 2 6 1 go = go none)
    ∧ (∀ go, cmdVector (opened ldnnWords) (some ⟨0, 0, tileEnt (opened ldnnWords) 0 6⟩) 1 0x50000 go
      = go (tileVector (opened ldnnWords) ⟨0, 0, tileEnt (opened ldnnWords) 0 6⟩ 1))
    ∧ ∀ go, cmdVector (opened dlvecWords) none 1 0x50000 go = go [] := by
  refine ⟨by decide +kernel, by decide +kernel, by decide +kernel, fun op ho go => ?_, fun _ => rfl, fun go => ?_, fun _ => rfl⟩
  · exact cmdTile_of (k := 6) (by decide +kernel) (by decide +kernel) (by decide +kernel) (by decide +kernel)
      (by rcases List.mem_cons.mp ho with rfl | h
          · decide
          · rcases List.mem_singleton.mp h with rfl; decide) go
  · exact cmdVector_of (by decide +kernel) (by decide +kernel) go

/-- Closing an open index, with a command outstanding and without, one that is not open and another tenant's; opening one. -/
theorem witness_ixopen :
    (let u := { plainUse (.ixopen false 3 1 false) false [(1, false)] 3 with fail := true }
    let closing := setReg (opened []) 1 0x200000000001
    Issues closing u ∧ (operand closing u 0).getLsbD 0 = true ∧ (indexAt (begun closing u) 2 (0x200000000001 - 1)).isSome = true
      ∧ (∀ c ∈ closing.idxCmds, c.num ≠ 0)
      ∧ (∃ c ∈ (after (.stvec false 1 false 2 false) (opened stvecWords)).idxCmds, c.num = 0)
      ∧ indexAt closing 2 (0x50001 - 1) = none ∧ (∀ j ∈ closing.indexes, j.icb ≠ 0x50001 - 1)
      ∧ indexAt closing 3 (0x200000000001 - 1) = none ∧ (∃ j ∈ closing.indexes, j.icb = 0x200000000001 - 1))
    ∧ (let u := { plainUse (.ixopen false 3 1 false) false [(1, false)] 3 with fail := true }
      let t := blockS 16 (begun icb u) 0x200000000000
      let ws := blockW 16 (begun icb u) 0x200000000000
      let w := fun k => (ws.getD k 0).toNat
      Issues icb u ∧ (operand icb u 0).getLsbD 0 = false ∧ (operand icb u 0).toNat % 128 = 0
        ∧ BlockReads 16 (begun icb u) (operand icb u 0) ws t
        ∧ (match openPages 1 (begun icb u) .atomic 0x200000000000 false with
          | .ok b0 => match openRegions t [(.atomic, w 3, pageCount (w 3) (w 4)), (.atomic, w 0, 1), (.atomic, w 1, 1), (.atomic, w 2, 1)] b0 with
            | .ok b => !b
            | .error _ => false
          | .error _ => false) = true
        ∧ (BitVec.ofNat 8 (nf (w 7) 24 8)).getLsbD 2 = false ∧ icbBad ws = false ∧ indexAt t t.fib.ident.tenant 0x200000000000 = none
        ∧ freeIndex t = some 0) :=
  ⟨⟨issues_of_bool (by decide +kernel), by decide +kernel⟩, issues_of_bool (by decide +kernel), by decide +kernel, by decide +kernel,
    block_of_some (by decide +kernel), by decide +kernel⟩

/-- IXSTAT of no index, beyond 63, of one's own and of another tenant's. -/
theorem witness_ixstat : let u := { plainUse (.ixstat false 3 2 false) false [(2, false)] 3 with fail := true }
    let other := { opened [] with indexes := (opened []).indexes.map fun i => { i with ten := 3 } }
    (∀ s ∈ [placed, setReg placed 2 64, opened [], other], issuesB s u = true) ∧ 63 < (operand (setReg placed 2 64) u 0).toNat
      ∧ indexOf placed 5 = none ∧ (indexOf (opened []) 0).isSome = true ∧ (operand (opened []) u 0).toNat = 0 := by decide +kernel

/-- The first index opened is number 0; IXSTAT then gives 128 + the die, and 0 for an index that is not open; STVEC and LDNN wait. -/
theorem test_index : result (.ixopen false 3 1 false) icb 3 = 0 ∧ result (.ixstat false 3 2 false) (opened []) 3 = 128
    ∧ result (.ixstat false 3 2 false) placed 3 = 0 ∧ (after (.stvec false 1 false 2 false) (opened stvecWords)).idxCmds.length = 1
    ∧ (after (.ldnn false 1 false 2 false) (opened ldnnWords)).idxCmds.length = 1
    ∧ (after (.dlvec false 1 false 2 false) (opened dlvecWords)).idxCmds.length = 1 := by decide +kernel

/-- A SEND of 64 bytes at 0x58000 with tag 7 to the receive engine of die 0. -/
def sendWords : List Nat := [7, 0x444 + 64 * 2 ^ 32, 0x58000, 0]
/-- A receive of tag 7 from anyone into memory at 0x59000: 16 FP32 elements, its status in the scratchpad. -/
def postWords : List Nat := [7, 2 ^ 64 - 1, 0, 2 ^ 44 + 0x4000, 0x59000, 0, 16 + 2 ^ 32, 1 + 2 ^ 32, 0, 0, 0, 0]
/-- A probe for tag 7 from anyone. -/
def probeWords : List Nat := [7, 2 ^ 64 - 1, 0]

/-- A state whose work is left to events and whose page walk is done. -/
def deferred (s : State) : State := { s with fib := { s.fib with walked := true }, sched := { s.sched with defer := true } }

/-- `tiles` with words at 0x50000, which g1 names. -/
def at50000 (ws : List Nat) : State := setWords tiles 0x50000 ws

/-- The descriptor of `n` words that g1 names can be read by an instruction that issues. -/
def blockB (n : Nat) (s : State) (u : Use) : Bool :=
  issuesB s u && operand s u 0 == 0x50000 && (blockOf n (begun s u) 0x50000).isSome

/-- What SEND needs, computed. -/
theorem witness_send : let u := { plainUse (.send false 1 false 0 false) false [(1, false)] 0 with fail := true }
    let s := at50000 sendWords
    let t := blockS 4 (begun s u) 0x50000
    let ws := blockW 4 (begun s u) 0x50000
    blockB 4 s u = true ∧ nf (ws.getD 1 0).toNat 26 6 = 0 ∧ idAgent (BitVec.ofNat 26 (ws.getD 1 0).toNat) = 0x444
      ∧ (ws.getD 1 0).toNat / 2 ^ 32 = 64 ∧ idPod (BitVec.ofNat 26 (ws.getD 1 0).toNat) = t.dev.pod.toNat
      ∧ populatedMod t (idMod (BitVec.ofNat 26 (ws.getD 1 0).toNat)) = true ∧ (ws.getD 2 0).toNat % 8 = 0 ∧ ws.getD 3 0 = 0
      ∧ (match sideRows false t .load [(0x58000, 64)] [] with
        | .ok ps => (gather t (fibreAgent t) (runPieces (sideRuns ps))).2
        | .error _ => false) = true
      ∧ msgOut t t.fib.core < 32 ∧ allPerformed t t.fib.id = true := by decide +kernel

/-- RPOST with room and left to its event, and with 4,096 receives posted. -/
theorem witness_rpost : let u := { plainUse (.rpost false 1 false) false [(1, false)] 0 with fail := true }
    let s := at50000 postWords
    let t := blockS 12 (begun s u) 0x50000
    let ws := blockW 12 (begun s u) 0x50000
    let q := (freshId t).2
    blockB 12 s u = true ∧ blockB 12 (deferred s) u = true
      ∧ t.fib.ident.kind ≠ .handler ∧ postReserved ws = false ∧ nf (ws.getD 5 0).toNat 0 4 ≠ 15 ∧ (ws.getD 3 0).toNat % 32 = 0
      ∧ (match checkWord t (ws.getD 3 0) with
        | .ok a => match postDest q (recvOfBlock (freshId t).1 q.fib ws a.pa) with
          | .ok _ => true
          | .error _ => false
        | _ => false) = true
      ∧ allPerformed q q.fib.id = true ∧ t.sched.defer = false ∧ (recvOf t 0).posted.length < 4096 := by decide +kernel

/-- The receive that RPOST posts there. -/
def someRecv : Recv := ((recvOf (after (.rpost false 1 false) (at50000 postWords)) 0).posted).getD 0
  ⟨0, 0, 0, none, 0, 0, 0, 0, 0, 0, 0, 0, 0, 0, none, 0, 0, [], [], [], 0, false⟩

/-- A message of tag 7 that no receive has matched. -/
def someMsg : Packet := { mkPacket tiles 0 0x444 6 2 1 0 false (leBytes 8 7 ++ leBytes 8 64) [] with ten := 2 }

theorem witness_TaggedMessages :
    (let full := { at50000 postWords with recvs := [(0, { RecvEng.reset with posted := List.replicate 4096 someRecv })] }
    4096 ≤ (recvOf full 0).posted.length ∧ blockB 12 full { plainUse (.rpost false 1 false) false [(1, false)] 0 with fail := true } = true)
    ∧ (let u := { plainUse (.rcancel false 1 false) false [(1, false)] 0 with fail := true }
      issuesB tiles u = true ∧ (operand tiles u 0).toNat % 32 = 0 ∧ issuesB (setReg tiles 1 8) u = true
        ∧ (operand (setReg tiles 1 8) u 0).toNat % 32 ≠ 0 ∧ tiles.sched.defer = false
        ∧ issuesB { tiles with sched := { tiles.sched with defer := true } } u = true)
    ∧ (let u := { plainUse (.rprobe false 3 1 false) false [(1, false)] 3 with fail := true }
      blockB 3 (at50000 probeWords) u = true ∧ blockB 3 (at50000 [7, 0, 2 ^ 26]) u = true
        ∧ blockB 3 { at50000 probeWords with recvs := [(0, { RecvEng.reset with unexp := [someMsg] })] } u = true
        ∧ someMsg.ten = tiles.fib.ident.tenant ∧ msgTag someMsg = 7)
    ∧ (let u := { plainUse (.rstat false 3 0 false) false [(0, false)] 3 with fail := true }
      issuesB tiles u = true ∧ (operand tiles u 0).toNat = 0
        ∧ issuesB tiles { plainUse (.rstat false 3 2 false) false [(2, false)] 3 with fail := true } = true
        ∧ 2 ≤ (operand tiles { plainUse (.rstat false 3 2 false) false [(2, false)] 3 with fail := true } 0).toNat) := by decide +kernel

/-- A SEND leaves one outstanding; a posted receive is counted by RSTAT; RPROBE finds a message of 64 bytes from identity 0. -/
theorem test_messages : (after (.send false 1 false 0 false) (at50000 sendWords)).net.outst.length = 1
    ∧ result (.rstat false 3 0 false) (after (.rpost false 1 false) (at50000 postWords)) 3 = 0x100000000
    ∧ result (.rprobe false 3 1 false) { at50000 probeWords with recvs := [(0, { RecvEng.reset with unexp := [someMsg] })] } 3
      = 0x8000000000000000 + BitVec.ofNat 64 (msgLen someMsg)
    ∧ (recvOf (after (.rcancel false 1 false) (setReg (after (.rpost false 1 false) (at50000 postWords)) 1 (2 ^ 44 + 0x4000))) 0).posted = [] := by decide +kernel

/-- AMSG to core 5 and handler 3: without a completion word, to a reserved identity, and with a reserved handler. -/
def calling (dst h cpl : Nat) : State := setReg (setReg (setReg placed 1 dst) 2 h) 5 cpl

theorem witness_ActiveMessages :
    (let i := Instr.amsg false 1 false 2 false 0 false
    let u := { plainUse i false [(1, false), (2, false), (1, false), (2, false), (3, false), (4, false), (5, false)] 0 with fail := true }
    (∀ s ∈ [calling 5 3 0, calling (2 ^ 26) 3 0, calling 0x444 3 0, calling 5 256 0], issuesB s u = true)
      ∧ (let s := calling 5 3 0
        idAgent ((operand s u 0).setWidth 26) = 5 ∧ idPod ((operand s u 0).setWidth 26) = s.dev.pod.toNat
          ∧ populatedMod s (idMod ((operand s u 0).setWidth 26)) = true ∧ handlerAllowed (operand s u 1).toNat = true
          ∧ operand s u 6 = 0 ∧ msgOut (begun s u) 0 < 32 ∧ isOwnIdent s ((operand s u 0).setWidth 26) = true)
      ∧ handlerAllowed 256 = false ∧ handlerAllowed 255 = true ∧ 1024 ≤ idAgent (0x444 : BitVec 26))
    ∧ (let u := { plainUse (.htset false 2 false 1 false) false [(2, false), (1, false)] 0 with fail := true }
      (∀ s ∈ [placed, setReg placed 2 256, setReg placed 2 255, setReg placed 1 2,
        { placed with sched := { placed.sched with defer := true } }], issuesB s u = true)
        ∧ (operand (setReg placed 2 256) u 0).toNat = 256 ∧ (operand (setReg placed 2 255) u 0).toNat = 255
        ∧ (operand (setReg placed 1 2) u 1).toNat % 4 ≠ 0 ∧ (operand placed u 1).toNat % 4 = 0 ∧ allPerformed placed placed.fib.id = true
        ∧ ((tenantOf placed 2).rewrites.find? fun p => p.1 == 5) = none ∧ placed.sched.defer = false)
    ∧ (∀ s ∈ [placed, setReg placed 2 256], issuesB s { plainUse (.htclr false 2 false) false [(2, false)] 0 with fail := true } = true) := by
  decide +kernel

/-- A handler set is in the table, and cleared is not; a message without a completion word holds its fibre. -/
theorem test_handlers : (tenantOf (after (.htset false 2 false 1 false) placed) 2).handlers = [(5, 0x50000)]
    ∧ (tenantOf (after (.htclr false 2 false) (after (.htset false 2 false 1 false) placed)) 2).handlers = []
    ∧ (after (.amsg false 1 false 2 false 0 false) (calling 5 3 0)).fib.run = .parked (.amsg 2) := by decide +kernel

/-- SMAL of a granule, reserved, over the quota of 100, and with router die B lost and mirrored; SMFR of an allocation and of none. -/
def allocated : State := after (.smal false 3 1 false false) (setReg placed 1 1)

theorem witness_SwitchMemoryInstructions :
    (let u := { plainUse (.smal false 3 1 false false) false [(1, false)] 3 with fail := true }
    (∀ s ∈ [setReg placed 1 1, setReg placed 1 0, setReg placed 1 101], issuesB s u = true) ∧ nf 1 0 14 = 1
      ∧ (tenantOf placed 2).quota.toNat = 100 ∧ usedBy placed 2 = 0 ∧ placeRun placed 1 false = some (0, 0)
      ∧ placeRun { placed with dev := { placed.dev with dieBLost := true } } 1 true = none)
    ∧ (let u := { plainUse (.smfr false 3 false) false [(3, false)] 0 with fail := true }
      let s := { allocated with fib := { drain allocated.fib with live := 0x7FFE } }
      (∀ t ∈ [s, placed, { s with sched := { s.sched with defer := true } }], issuesB t u = true)
        ∧ (allocBased s 2 (operand s u 0).toNat).isSome = true ∧ allocBased placed 2 (operand placed u 0).toNat = none
        ∧ allPerformed s s.fib.id = true)
    ∧ issuesB placed { plainUse (.smquota false 3) false [] 3 with fail := true } = true := by decide +kernel

/-- R369: the first granule of die 0 is at the window's start; SMQUOTA gives the quota of 100 and the use. -/
theorem test_switch_memory : regVal (drain allocated.fib) 3 = 0xFFFFFE0000000000 ∧ result (.smquota false 3) allocated 3 = 0x6400000001
    ∧ (after (.smfr false 3 false) { allocated with fib := drain allocated.fib }).allocs = [] := by decide +kernel

/-- The monitor's fibre on port 0's gateway core, with a key in the idle sending slot. -/
def gateway : State :=
  { setPort (setPort boot 0 { Port.reset with txKey1 := some (List.replicate 32 7) }) 1 Port.reset with
    fib := { boot.fib with core := coreOfPort 0 } }

/-- A graph of one task node at 0x50000: its header, then the node without successors. -/
def graphWords : List Nat := [1, 0, 0, 0, 0xFFFFFFFF0000, 0x60000, 0, 1]

/-- `placed` with the walker its gang's. -/
def walking : State := { placed with walkers := [(0, { Walker.reset with gang := some 1 })] }

theorem witness_KeysWalksAndQueues :
    (∀ rx ∈ [true, false], blockB 4 gateway { plainUse (.kload false 1 false rx) false [(1, false)] 0 with
      level := 2
      ctx := noHandler (.kload false 1 false rx)
      fail := true } = true)
    ∧ (portOf gateway (ownPort gateway)).turning = false
    ∧ (∀ s ∈ [gateway, { gateway with ports := [] }], issuesB s { plainUse (.kturn false) false [] 0 with
      level := 2
      ctx := noHandler (.kturn false)
      fail := true } = true)
    ∧ txIdle (portOf gateway (ownPort gateway)) ≠ none ∧ txIdle Port.reset = none ∧ (portOf gateway (ownPort gateway)).replay.length < 64
    ∧ (let s := setWords placed 0x50000 graphWords
      let u := { plainUse (.walk false 1 false) false [(1, false)] 0 with
        ctx := gangOnly (.walk false 1 false)
        fail := true }
      let hs := blockW 4 (begun s u) 0x50000
      let t := blockS 4 (begun s u) 0x50000
      let ns := blockW 4 t 0x50020
      blockB 4 s u = true ∧ (walkerOf (begun s u) 0).gang = none ∧ walkTurn (begun s u) 0 1 = true ∧ hs.map BitVec.toNat = [1, 0, 0, 0]
        ∧ (blockOf 4 t 0x50020).isSome = true ∧ firstBad 1 (fun k => match (groups4 1 ns)[k]? with
          | some x => (nodeOf x).kind == 0
          | none => false) 0 (groups4 1 ns) = none
        ∧ allPerformed (blockS 4 t 0x50020) 1 = true)
    ∧ (let u := { plainUse (.hist false 2 false 3 false) false [(2, false), (3, false)] 0 with
        ctx := gangOnly (.hist false 2 false 3 false)
        fail := true }
      (∀ s ∈ [placed, walking, setReg walking 2 256], issuesB s u = true) ∧ (walkerOf walking 0).gang = walking.fib.ident.gang)
    ∧ (let u := { plainUse (.gwtake false 3 2 false) false [(2, false)] 3 with fail := true }
      (∀ s ∈ [placed, setReg placed 2 16, { placed with gwqs := [(5, ⟨true, 3, 10, 0⟩)] }, { placed with gwqs := [(5, ⟨true, 2, 10, 9⟩)] },
        { placed with gwqs := [(5, ⟨true, 2, 10, 10⟩)] }], issuesB s u = true)
        ∧ (10 : BitVec 33) = (10 : BitVec 32).setWidth 33 ∧ (9 : BitVec 33) ≠ (10 : BitVec 32).setWidth 33) := by decide +kernel

/-- A key loaded, a turn made; a walk started; a bin counted; GWTAKE of the last number and of none. -/
theorem test_keys_walks_queues :
    (portOf (after (.kload false 1 false true) (setWords gateway 0x50000 [1, 2, 3, 4])) 0).rxKey1.isSome = true
    ∧ ((portOf (after (.kturn false) gateway) 0).txs, (portOf (after (.kturn false) gateway) 0).turning) = (true, true)
    ∧ (walkerOf (after (.walk false 1 false) (setWords placed 0x50000 graphWords)) 0).graph.length = 1
    ∧ (walkerOf (after (.hist false 2 false 3 false) walking) 0).hist = [(5, 7)]
    ∧ result (.gwtake false 3 2 false) { placed with gwqs := [(5, ⟨true, 2, 10, 9⟩)] } 3 = 9
    ∧ result (.gwtake false 3 2 false) { placed with gwqs := [(5, ⟨true, 2, 10, 10⟩)] } 3 = 0xFFFFFFFFFFFFFFFF := by decide +kernel

/-- The demonstration's fibre parked at a wait. -/
def parked (w : Wait) : State := { placed with fib := { placed.fib with run := .parked w } }

/-- A load and a store of g1's address left to events; a store to another module already sent, with its answer come. -/
def loadQueued : State := after (.ldd false 5 1 false 0 0 0 0) (deferred boot)
/-- A store left to events. -/
def storeQueued : State := after (.std false 5 1 false 0 0 0 0) (deferred boot)
/-- An answer to request `id` with a status, for a core of this module. -/
def answerOf (s : State) (id status : Nat) : Packet :=
  { mkPacket s 5 (podIdent s 0 0) 3 0 id 0 false (respArea 7 3 0) [] with status := BitVec.ofNat 8 status }
/-- The store sent, and answered with a status. -/
def storeSent (status : Nat) : State :=
  { modReq storeQueued 2 (fun r => { r with sent := true }) with net := { storeQueued.net with arrivals := [answerOf storeQueued 2 status] } }

theorem witness_AccessAndWaitEvents :
    (let s := { boot with fib := { boot.fib with pend := [⟨5, 3, some 7, none, 0, true⟩] } }
    fibreOf s 1 = some s.fib ∧ takeFirst (fun (e : Pend) => e.id == 5 && (e.val.isSome || e.fail.isSome)) s.fib.pend
      = some (⟨5, 3, some 7, none, 0, true⟩, []))
    ∧ (let s := { boot with ms := { boot.ms with walks := [⟨7, 0, 16, 0x50000, [1]⟩, ⟨8, 0, 16, 0xF0000000000000, [1]⟩] } }
      ((s.ms.walks.find? fun y => y.id == 7).map fun x => (walkFrom s 3 x.va.toNat (rootOf s x.space)).isSome) = some true
        ∧ ((s.ms.walks.find? fun y => y.id == 8).map fun x => (walkFrom s 3 x.va.toNat (rootOf s x.space)).isSome) = some false) := by
  decide +kernel

/-- The answer to the store, and the load at its home. -/
theorem witness_store_answers :
    (∀ st ∈ [0, 1], ((reqOf (storeSent st) 2).map fun r => (r.kind, r.sent)) = some (.store, true)
      ∧ respTo (storeSent st) 2 = some (0, answerOf storeQueued 2 st) ∧ areaNat (answerOf storeQueued 2 st) 8 8 = 3)
    ∧ respCause (answerOf storeQueued 2 0) = 0 ∧ respCause (answerOf storeQueued 2 1) ≠ 0
    ∧ ((reqOf loadQueued 2).map fun r => (r.arrived || r.sent || r.refused || r.rem.isSome || isRemote loadQueued r.pa, mayPerform loadQueued r))
      = some (false, true)
    ∧ ((reqOf loadQueued 2).map fun r => match performHere loadQueued r with
        | .done _ _ => true
        | _ => false) = some true := by decide +kernel

/-- A request to another module, one to a lost line, and a full/empty request whose bit has come. -/
theorem witness_home_requests :
    (let s := modReq loadQueued 2 fun r => { r with pa := r.pa + 2 ^ 46 }
    ((reqOf s 2).map fun r => isRemote s r.pa) = some true)
    ∧ (let s := modReq { loadQueued with dev := { loadQueued.dev with dieBLost := true } } 2 fun r => { r with pa := r.pa + 2 ^ 29 }
      ((reqOf s 2).map fun r => match performHere s r with
        | .fail _ _ => true
        | _ => false) = some true)
    ∧ (let s := setFull (after (.ldf false 5 1 false 0) spad) (spadPa spad 0 0) true
      ((reqOf s 2).map fun r => (r.kind, r.arrived && feReady s r.op r.pa, feBehind s r.id r.op r.pa || r.rem.isSome)) = some (.feLoad, true, false)
        ∧ ((reqOf s 2).map fun r => match performHere s r with
          | .done _ _ => true
          | _ => false) = some true) := by decide +kernel

/-- A watch, and each wait of a fibre that its event ends. -/
theorem witness_waits :
    (let s := after (.waita false 5 1 false 2 false false) (setWords placed 0x50000 [5])
    (s.watches.find? fun x => x.fib == 1 && x.rem.isNone).isSome = true)
    ∧ (∀ w ∈ [Wait.align, .tlb 4 0 true 0, .mask 1 9, .callat 5 (some true), .callat 5 (some false)], fibreOf (parked w) 1 = some (parked w).fib)
    ∧ (∀ b ∈ [true, false], let s := { placed with fib := { placed.fib with run := .migrating 1 b } }
      fibreOf s 1 = some s.fib)
    ∧ (let s := { allocated with fib := { allocated.fib with run := .parked (.free 0xFFFFFE0000000000) } }
      fibreOf s 1 = some s.fib ∧ (allocBased s s.fib.ident.tenant 0xFFFFFE0000000000).isSome = true)
    ∧ (((after (.barr false 3 0 false 0) tagged).dist.barriers.find? fun y => barrierId y.grid y.key == 2).isSome = true
      ∧ allArrived (after (.barr false 3 0 false 0) tagged) (barrierOf (after (.barr false 3 0 false 0) tagged) false 1) = true
      ∧ barrierDies tagged (barrierOf tagged false 1) = [])
    ∧ (let s := { tagged with dist := { tagged.dist with
        grids := [⟨1, 0, [0], some 0⟩]
        barriers := [⟨true, 8, [(1, 0, 0)], []⟩] } }
      (s.dist.barriers.find? fun y => barrierId y.grid y.key == 17) = some ⟨true, 8, [(1, 0, 0)], []⟩
        ∧ 0 ∈ barrierDies s ⟨true, 8, [(1, 0, 0)], []⟩ ∧ dieArrived s ⟨true, 8, [(1, 0, 0)], []⟩ 0 = true) := by decide +kernel

/-- Events by their effects: a result written, a tick, a wait ended and a wait of ALIGN over. -/
theorem test_access_events : regVal (after (.loadDataReturn 1 5) { boot with fib := { boot.fib with pend := [⟨5, 3, some 9, none, 0, true⟩] } }).fib 3 = 9
    ∧ (after .clockTick boot).sched.tick = boot.sched.tick + 1
    ∧ (after (.alignTimeout 1) (parked .align)).fib.pc = 0x40004
    ∧ (after (.homeRequest 2 0) loadQueued).ms.reqs = [] ∧ (after (.homeRequest 2 1) loadQueued).ms.reqs.length = 1 := by decide +kernel

/-- A VADD left to the vector unit. -/
def vecQueued : State := after (.vadd false 2 0 1) { tiles with sched := { tiles.sched with defer := true } }
/-- A GMSG left to its slot. -/
def slotQueued : State := after (.gmsg false 3 1 false) (deferred (gauss gmsgWords))
/-- A request for the array, and a command with steps to run, with none left. -/
def leaseQueued : State := after (.mlease false 3) { tiles with sched := { tiles.sched with defer := true } }
/-- A multiplication in the array of `matrixed`. -/
def mmaQueued : State := after (.mma false 14 15) { matrixed with sched := { matrixed.sched with defer := true } }
/-- The same after its last step. -/
def mmaDone : State := { mmaQueued with arrays := mmaQueued.arrays.map fun a =>
  (a.1, { a.2 with cmds := a.2.cmds.map fun c => { c with step := cmdSteps c } }) }

theorem witness_UnitEvents :
    ((vecJobOf vecQueued 1).map fun x => (x.1, x.2.fib, (vecOp x.2.instr).isSome)) = some (0, 1, true)
    ∧ ((vecJobOf vecQueued 1).map fun x => match vecOp x.2.instr with
        | some op => match vecNames x.2.pfx (jobLook 0 x.2) op with
          | .ok p => (vecTrap vecQueued vecQueued.fib op p).isNone
          | .error _ => false
        | none => false) = some true
    ∧ bookRead placed 0 = false
    ∧ (match slotQueued.fib.run with
      | .parked (.slot j) => slotFree slotQueued j
      | _ => false) = true
    ∧ (arrayOf leaseQueued 0).wait.length = 1 ∧ (arrayOf leaseQueued 0).lease = none ∧ (arrayOf leaseQueued 0).cmds = []
    ∧ (arrayOf leaseQueued 0).retired = false ∧ ((arrayOf leaseQueued 0).wait.map fun q => (q.fib, q.again)) = [(1, false)]
    ∧ ((arrayOf mmaQueued 0).cmds.map fun c => decide (c.step < cmdSteps c) && !fibImaging mmaQueued c.fib) = [true]
    ∧ ((arrayOf mmaDone 0).cmds.map fun c => decide (cmdSteps c ≤ c.step) && c.fn != 4) = [true] := by decide +kernel

/-- A copy waiting, started and with its work done; a kick notice waiting and started. -/
def copyQueued : State := settle (after (.cpyq false 1 false 2 false false) (copying false))
/-- The notice that a kick to this core brings. -/
def someNotice (rstamp : BitVec 64) : Notice := ⟨podIdent tiles 1 5, 0, 0x58000, 0x59000, rstamp, 0, 64, 1, false, 40, [], 0⟩
/-- `tiles` with that notice at core 0, for tenant 0, whose tables are the monitor's. -/
def noticed (k : Notice) : State :=
  { tiles with
    cores := modWhere (fun c => c.1 == 0) (fun c => (0, { c.2 with kicks := [k] })) tiles.cores
    dev := { tiles.dev with tenants := [(0, { Tenant.reset with en := true, troot := BitVec.ofNat 64 (switchPa tiles 0 0) })] } }

theorem witness_copy_events :
    (((coreOf copyQueued 0).fifo.find? fun y => !y.started).map fun x => x.tookTile) = some true
    ∧ ((coreOf (after (.copyCommandStart 0) copyQueued) 0).fifo.map fun x => (x.started, copyClear (after (.copyCommandStart 0) copyQueued) x))
      = [(true, true)]
    ∧ (noticeDest (noticed (someNotice 0)) 0 (someNotice 0)).2 = 0 ∧ fifoUsed (coreOf (noticed (someNotice 0)) 0) < 16
    ∧ (coreOf (noticed (someNotice 0)) 0).fifo = []
    ∧ (let k := { someNotice 0 with started := true }
      (kickMove (noticed k) 0 k).2.2.2 = false ∧ (kickMove (noticed { k with cause := 4 }) 0 { k with cause := 4 }).2.2.2 = true
      ∧ kickClear (noticed k) k = true ∧ k.rstamp = 0 ∧ k.sstamp = 0 ∧ k.cause = 0 ∧ isOwnIdent (noticed k) k.src = false)
    ∧ (let p := mkPacket tiles 5 (podIdent tiles 0 0) 10 2 7 6 true (leBytes 8 0x58000 ++ leBytes 8 0x59000 ++ leBytes 8 0 ++ leBytes 8 0 ++ leBytes 8 64) []
      let s := { tiles with net := { tiles.net with arrivals := [p] } }
      s.net.arrivals[0]? = some p ∧ p.kind = 10 ∧ inOrder s 0 p = true) := by decide +kernel

/-- The index with a search, a vector and a deletion waiting; the search accepted of an index without entries, and of one with one. -/
def indexQueued (i : Instr) (ws : List Nat) : State := after i (opened ws)
/-- The first index command waiting. -/
def cmdOf (s : State) : Option IdxCmd := s.idxCmds.head?
/-- The search accepted. -/
def searching : State :=
  let s := indexQueued (.ldnn false 1 false 2 false) ldnnWords
  { s with idxCmds := s.idxCmds.map fun c => { c with took := true, accepted := some 0 } }

theorem witness_index_events :
    ((cmdOf (indexQueued (.stvec false 1 false 2 false) stvecWords)).map fun c =>
      (c.op, mutationNext (indexQueued (.stvec false 1 false 2 false) stvecWords) c)) = some (1, true)
    ∧ ((cmdOf (indexQueued (.dlvec false 1 false 2 false) dlvecWords)).map fun c =>
      (c.op, mutationNext (indexQueued (.dlvec false 1 false 2 false) dlvecWords) c)) = some (2, true)
    ∧ ((cmdOf (indexQueued (.ldnn false 1 false 2 false) ldnnWords)).map fun c =>
      (c.op, c.accepted.isSome, acceptNext (indexQueued (.ldnn false 1 false 2 false) ldnnWords) c)) = some (0, false, true)
    ∧ (indexOf (opened []) 0).isSome = true
    ∧ ((cmdOf searching).map fun c => (c.accepted, searchClear searching c, spadHeld searching 2 c.mon (spadPa searching c.core (c.base + teBase c.ent))))
      = some (some 0, true, true)
    ∧ ((indexOf searching 0).map fun ix => (cmdOf searching).map fun c => match search ⟨searching, ix, idxAgent ix c⟩ (distOf ix [0]) 0 1 with
      | .ok vis => vis == []
      | .error _ => false) = some (some true) := by decide +kernel

/-- Each unit's step by an effect: the vector sum written, the array leased, a copy done, a vector inserted and a search's stamp. -/
theorem test_unit_events : codes (after (.vectorInstructionComplete 1) vecQueued) 2 = [0x40C00000, 0x41000000, 0x41200000, 0x41400000]
    ∧ (arrayOf (after (.matrixLeaseGrant 0) leaseQueued) 0).lease = some ⟨1, 0, 3, false⟩
    ∧ (coreOf (after (.copyCommandComplete 0) (after (.copyCommandStart 0) copyQueued)) 0).done = 1 := by decide +kernel
/-- A vector inserted is the index's one live entry, and the search of it is stamped with one result. -/
theorem test_index_events : let s := indexQueued (.stvec false 1 false 2 false) stvecWords
    ((cmdOf s).map fun c => (after (.indexStvecPerform c.id) s).indexes.map fun x => (x.nslot, x.liveN, x.commit)) = some [(1, 1, 1)]
      ∧ ((cmdOf searching).map fun c => (after (.indexSearchComplete c.id) searching).idxCmds.length) = some 0 := by decide +kernel

/-- A packet come for a unit of the module. -/
def arriving (p : Packet) : State := { tiles with net := { tiles.net with arrivals := [p] } }
/-- A packet of tenant 2 from core 5 of module 1. -/
def packet (dst kind req : Nat) (area : List (BitVec 8)) : Packet :=
  { mkPacket tiles 5 (podIdent tiles 0 dst) kind 2 req 0 false area [] with src := podIdent tiles 1 5 }
/-- `tiles` with a send and an active message of core 0 outstanding. -/
def sent (p : Packet) : State :=
  { arriving p with net := { (arriving p).net with
    outst := [⟨7, 0, 1, 2, 6, none, 0, [], [], podIdent tiles 1 0x444, none, 0, 0, 0⟩,
      ⟨8, 0, 1, 2, 4, none, 0, [], [], podIdent tiles 1 5, none, 0, 0, 0⟩] } }
/-- A post left to its event, with room and without. -/
def posting (n : Nat) : State := { tiles with recvs := [(0, { RecvEng.reset with posting := [(1, 0x50000, someRecv)], posted := List.replicate n someRecv })] }
/-- A message that asks for its payload, matched by a receive. -/
def pulling : State := { tiles with recvs := [(0, { RecvEng.reset with pulls := [⟨9, { someRecv with took := true }, packet 0x444 7 7 (leBytes 8 7 ++ leBytes 8 64)⟩] })] }

theorem witness_MessageEvents :
    (∀ n ∈ [0, 4096], ((recvOf (posting n) 0).posting.find? fun y => y.1 == 1).isSome = true ∧ (recvOf (posting n) 0).posted.length = n)
    ∧ fibreOf (parked (.cancel 0x50000)) 1 = some (parked (.cancel 0x50000)).fib
    ∧ (let p := packet 0x444 6 7 (leBytes 8 7 ++ leBytes 8 64)
      (arriving p).net.arrivals[0]? = some p ∧ inOrder (arriving p) 0 p = true ∧ p.kind = 6 ∧ p.second = false ∧ msgLen p = 64)
    ∧ (let p := packet 0x444 7 7 (leBytes 8 7 ++ leBytes 8 64)
      p.kind = 7 ∧ inOrder (arriving p) 0 p = true)
    ∧ ((recvOf pulling 0).pulls.map fun p => (p.id, recvClear pulling p.recv)) = [(9, true)]
    ∧ (∀ k ∈ [11, 5], let p := packet 0 k 7 (leBytes 8 0)
      ((sent p).net.outst.find? fun o => o.id == p.reqid.toNat && (o.kind == 6 || o.kind == 7)).isSome = true)
    ∧ (∀ k ∈ [3, 5], let p := packet 0 k 8 (leBytes 8 0)
      ((sent p).net.outst.find? fun o => o.id == p.reqid.toNat && (o.kind == 4 || o.kind == 10)).map (fun o => o.kind) = some 4) := by
  decide +kernel

/-- An active message for entry 5 that is being rewritten, invalid, valid with room, and valid at a full queue; a queued message. -/
def message : Packet := packet 0 4 7 (leBytes 8 5 ++ leBytes 8 1 ++ leBytes 8 2 ++ leBytes 8 3 ++ leBytes 8 4)
/-- The tenant's entry 5, and its rewrite. -/
def entries (h : Tbl (BitVec 64)) (r : Tbl (BitVec 65)) (q : Nat) : State :=
  { arriving message with
    dev := { tiles.dev with tenants := [(2, { Tenant.reset with en := true, handlers := h, rewrites := r })] }
    cores := modWhere (fun c => c.1 == 0) (fun c => (0, { c.2 with hq := List.replicate q message })) tiles.cores }

theorem witness_active_messages :
    (∀ s ∈ [entries [] [(5, 0)] 0, entries [] [] 0, entries [(5, 0x60000)] [] 0, entries [(5, 0x60000)] [] 64],
      s.net.arrivals[0]? = some message ∧ pairFirst s 0 message = true)
    ∧ message.kind = 4 ∧ nb (areaNat message 0 8) 63 = false ∧ areaNat message 0 8 % 256 = 5 ∧ idAgent message.dst = 0
    ∧ ((tenantOf (entries [(5, 0x60000)] [] 64) 2).handlers.find? fun y => y.1 == 5) = some (5, 0x60000)
    ∧ (coreOf (entries [(5, 0x60000)] [] 64) 0).hq.length = 64
    ∧ (∀ f ∈ allFibres (entries [(5, 0x60000)] [] 1), f.ident.kind = .handler → f.core = 0 → f.run = .exited)
    ∧ ((tenantOf (entries [] [(5, 0)] 0) 2).rewrites.find? fun y => y.1 == 5) = some (5, 0) ∧ tiles.net.held = []
    ∧ (∀ f ∈ allFibres (entries [] [(5, 0)] 0), f.run ≠ .parked (.rewrite 517))
    ∧ ({ tiles.net with held := [⟨0, message⟩] } : Net).held[0]? = some ⟨0, message⟩ := by decide +kernel

/-- A built-in of each code, a request of each kind, and a lease renewed: the first of their pair. -/
theorem witness_requests :
    (∀ c ∈ [0, 3, 4, 7, 8, 9, 10, 11, 13], let p := packet 0 4 7 (leBytes 8 (2 ^ 63 + c))
      (arriving p).net.arrivals[0]? = some p ∧ requestFirst (arriving p) 0 p = true ∧ p.kind = 4 ∧ nb (areaNat p 0 8) 63 = true
        ∧ areaNat p 0 1 = c)
    ∧ (∀ c ∈ [0, 1, 2, 7], let p := packet 0 (min c 2) 7 (leBytes 24 0 ++ leBytes 2 8 ++ leBytes 1 (8 * c) ++ leBytes 9 0)
      requestFirst (arriving p) 0 p = true ∧ p.kind.toNat ≤ 2 ∧ nf (areaNat p 26 1) 3 3 = c)
    ∧ (let p := packet 0x440 9 7 (leBytes 8 (switchPa tiles 0 0) ++ leBytes 28 0)
      let s := { arriving p with allocs := allocated.allocs }
      p.kind = 9 ∧ requestFirst s 0 p = true ∧ isOwnMem s (areaReq s p).1.pa = true ∧ homeAllows s (areaReq s p).1 (areaReq s p).1.pa = true
        ∧ homeLost s (areaReq s p).1.pa = false ∧ owned s (areaReq s p).1.pa 8 = false
        ∧ poisoned s (lineBase (areaReq s p).1.gr (areaReq s p).1.pa) (grainBytes (areaReq s p).1.gr) = false) := by decide +kernel

/-- A post and a cancel complete; a valid message waits at its core, with the entry's PC, and its handler starts there. -/
theorem test_message_events : (recvOf (after (.receivePostEvent 1) (posting 0)) 0).posted.length = 1
    ∧ (coreOf (after (.activeMessageArrival 0) (entries [(5, 0x60000)] [] 0)) 0).hq.length = 1
    ∧ ((after (.handlerStart 0) { after (.activeMessageArrival 0) (entries [(5, 0x60000)] [] 0) with fib := Fibre.blank }).fib.pc,
      (after (.handlerStart 0) { after (.activeMessageArrival 0) (entries [(5, 0x60000)] [] 0) with fib := Fibre.blank }).fib.ident.kind)
      = (0x60000, .handler)
    ∧ (tenantOf (after (.handlerRewriteEnd 517) (entries [] [(5, 2 ^ 64 + 0x60000)] 0)) 2).handlers = [(5, 0x60000)] := by decide +kernel

/-- `walking` with one node and what activates it. -/
def nodes (x : Node) : State := { walking with walkers := [(0, { (walkerOf walking 0) with graph := [x], ready := [0] })] }
/-- A task node that places `n` instances. -/
def taskNode (n : Nat) : Node := ⟨0, 0xFFFF, 0xFFFF, 0x60000, 0, BitVec.ofNat 64 n⟩
/-- Its instances all placed and ended. -/
def nodeEnding : State := { walking with walkers := [(0, { (walkerOf walking 0) with graph := [taskNode 2], placed := [(0, 2)], alive := [] })] }
/-- `placed` with a task queued on core 0. -/
def taskQueued : State := after (.callat false 1 false 0 false) (setReg placed 5 0)
/-- A tenant's launch of one fibre, queued. -/
def launchQueued : State :=
  { boot with
    dev := placed.dev
    dist := { boot.dist with launches := [⟨1, 2, 0, 0, 0, 0, 0, 0, none, 6, [⟨0x60000, BitVec.ofNat 64 (3 * 2 ^ 10 + 2 ^ 20)⟩], .queued, 0⟩] } }
/-- The gang in another state. -/
def gangIn (st : GangState) : State := { placed with dist := { placed.dist with gangs := placed.dist.gangs.map fun g => { g with st := st } } }

theorem witness_walker_events :
    (∀ x ∈ [taskNode 0, taskNode 3, ⟨1, 0, 0, 0x50000, 0, 0⟩, ⟨2, 0, 0, 0x50000, 0, 0⟩, ⟨3, 0, 0xFFFF, 0, 0, 1⟩, ⟨3, 0, 0xFFFF, 0, 0, 2⟩,
      ⟨4, 0, 0xFFFF, 2 ^ 16, 0, 0⟩], let w := walkerOf (nodes x) 0
      w.graph[0]? = some x ∧ w.gang ≠ none ∧ w.ended = false ∧ 0 ∈ w.ready ∧ nodeRunning w 0 = false)
    ∧ nf (taskNode 0).s.toNat 0 32 = 0 ∧ nf (taskNode 3).s.toNat 0 32 ≠ 0
    ∧ (let w := walkerOf nodeEnding 0
      w.graph[0]? = some (taskNode 2) ∧ nodeRunning w 0 = true ∧ tget 0 w.placed 0 = nf (taskNode 2).s.toNat 0 32 ∧ tget 0 w.alive 0 = 0
        ∧ w.ended = false) := by decide +kernel

theorem witness_LaunchAndWalkEvents :
    (let s := taskQueued
    (coreOf s 0).taskq.length = 1 ∧ ((coreOf s 0).taskq.map fun t => t.gang) = [1] ∧ (gangOf s 1).isSome = true
      ∧ ((gangOf s 1).map fun g => (g.st, g.launch, otherTenant s 0 g.ten)) = some (.resident, 1, false) ∧ (launchOf s 1).isSome = true
      ∧ ((launchOf s 1).map fun l => roomFor s 0 (stBudget (stageOf l 0))) = some true)
    ∧ (let s := launchQueued
      (∀ g ∈ s.dist.gangs, g.st ≠ .placing) ∧ ((List.range 8).find? fun p => !(readyAt s p).isEmpty) = some 0
        ∧ ((servedLaunch s (readyAt s 0) 0).map fun l => l.num) = some 1
        ∧ ((launchOf s 1).map fun l => (readyUnit s l).isSome) = some true)
    ∧ ((launchOf launchQueued 1).map fun l => (readyUnit launchQueued l).map fun u =>
      (claimUnit { launchQueued with dist := { launchQueued.dist with last := tset launchQueued.dist.last 0 2 } } l u).isSome) = some (some true)
    ∧ ((gangOf (gangIn .placing) 1).map fun g => (g.st, g.image.isNone, g.suspended, g.cores.all fun c => !(coreOf (gangIn .placing) c).retired))
      = some (.placing, true, false, true)
    ∧ (∀ l, launchOf (gangIn .placing) 1 = some l → l.pred = none) := by
  refine ⟨by decide +kernel, by decide +kernel, by decide +kernel, by decide +kernel, ?_⟩
  intro l hl
  have h : ((launchOf (gangIn .placing) 1).map fun l => l.pred) = some none := by decide +kernel
  rw [hl] at h
  simpa using h

/-- A gang whose image can close; a launch done; the host's writes to a tenant without EN and with; its switch window; the queues. -/
theorem witness_host_events :
    (let s := gangIn .imaging
    (gangOf s 1).isSome = true ∧ ((gangOf s 1).map fun g => (g.st, enginesClose s g)) = some (.imaging, true)
      ∧ ((allFibres s).filter (inGang 1)).all (fibreCloses s) = true ∧ (∀ f ∈ allFibres s, f.run ≠ .parked (.image 1)))
    ∧ (let s := { placed with dist := { placed.dist with launches := placed.dist.launches.map fun l => { l with st := .done } } }
      ((launchOf s 1).map fun l => l.st) = some .done)
    ∧ (tenantOf placed 5).en = false ∧ (tenantOf placed 2).en = true ∧ (List.replicate 64 (0 : BitVec 8)).length = 64
    ∧ (tget Window.reset placed.dist.windows 2).mask = 0 ∧ sHas placed.host.pendingIrq (2 * 2048 + 2047) = false
    ∧ hostMay placed 0 8 = false
    ∧ (let s := { allocated with dev := { allocated.dev with tenants := [(2, { Tenant.reset with en := true, hostsm := true })] } }
      hostMay s 0 8 = true)
    ∧ (gwqOf placed 15).armed = false
    ∧ (let s := { placed with gwqs := [(5, ⟨true, 3, 10, 0⟩)] }
      (gwqOf s 5).armed = true ∧ (gwqOf s 5).owner = 3) := by decide +kernel

/-- The launch's gang is placed at a turn, resident once its claim completes, and its fibre runs from the entry point; the task starts;
a task node of no instances ends the walk; a queue is armed. -/
theorem test_launch_events : (after .distributorTurn launchQueued).dist.gangs.length = 1
    ∧ ((after (.claimComplete 1) (gangIn .placing)).dist.gangs.map fun g => g.st) = [.resident]
    ∧ (coreOf (after (.taskStart 0) taskQueued) 0).taskq = [] ∧ (walkerOf (after (.taskNodeRun 0 0) (nodes (taskNode 0))) 0).ready = []
    ∧ (gwqOf (after (.gwqArm 5 2 10) placed) 5).armed = true := by decide +kernel

/-- Port 2 up with a key, nothing else. -/
def upPort : Port := { Port.reset with up := true, txKey0 := some (List.replicate 32 1), rxKey0 := some (List.replicate 32 2) }
/-- `placed` with some of its ports up. -/
def linked (fs : List Nat) : State := fs.foldl (fun s f => setPort s f upPort) placed
/-- A packet of tenant 2 from core 5 of module `m` to core 0 of module `d`. -/
def hop (m d kind : Nat) : Packet := { mkPacket placed 5 (podIdent placed d 0) kind 2 7 0 false [] [] with src := podIdent placed m 5 }
/-- A packet at the routers. -/
def routed (p : Packet) (fs : List Nat) : State := { linked fs with net := { placed.net with router := [p] } }
/-- A packet come from the links. -/
def entering (p : Packet) : State := { placed with net := { placed.net with ingress := [p] } }

theorem witness_LinkAndFabricEvents :
    idPod (hop 1 0 4).dst = placed.dev.pod.toNat ∧ isOwnIdent placed (hop 1 0 4).dst = true ∧ isOwnIdent placed (hop 0 3 4).dst = false
    ∧ portTo 0 (nextHop placed 0 (hop 0 3 4)) = 2 ∧ portUsable (linked [2]) 2 = true ∧ portUsable placed 2 = false ∧ detourPorts placed 2 = []
    ∧ (let s := setPort (linked [2, 4]) 2 { upPort with txq := [((0, false), [[1, 2], [3]])] }
      (portOf s 2).txq[if (portOf s 2).txMid then 1 else 0]? = some ((0, false), [[1, 2], [3]]) ∧ detourPorts s 2 = [4])
    ∧ (∀ k ∈ [3, 4, 13], (entering (hop 1 0 k)).net.ingress = [hop 1 0 k] ∧ isOwnIdent (entering (hop 1 0 k)) (hop 1 0 k).dst = true
      ∧ (hop 1 0 k).incarn = expOf placed (idMod (hop 1 0 k).src))
    ∧ (tenantOf placed (hop 1 0 3).ten.toNat).en = true ∧ agentTakes 0 3 = true ∧ agentTakes 0 4 = true := by decide +kernel

/-- A port that resends, that owes a NAK, that sends the first flit of two and the last. -/
def sending (q : List ((BitVec 3 × Bool) × List (List (BitVec 8)))) : Port := { upPort with txq := q }

theorem witness_flits :
    ({ upPort with resend := [newFlit upPort 1 0 true true zeroPayload] } : Port).resend ≠ []
    ∧ (sending [((1, false), [[1], [2]])]).resend = [] ∧ (sending [((1, false), [[1], [2]])]).nakDue = false ∧ txKey (sending []) ≠ none
    ∧ (sending []).count ≠ 2 ^ 32 ∧ (sending []).replay.length < 64 ∧ (sending [((1, false), [[1], [2]])]).txq = ((1, false), [1] :: [[2]]) :: []
    ∧ (portOf (linked [13]) 13).role < 2 ∧ (portOf (linked [13]) 13).held = false ∧ placed.dev.dieBLost = false ∧ partnerOf (ownMod placed) 13 = 56 ∧ placed.dev.etype = 0x88B5
    ∧ portUsable (linked [2]) 2 = true ∧ portUsable (linked [2]) 3 = false
    ∧ sHas placed.net.dead 5 = false ∧ sHas ({ placed.net with dead := [5] } : Net).dead 5 = true
    ∧ expOf placed 5 = 0 ∧ ownMod placed ≠ 5
    ∧ (let k := pairKey (podIdent placed 0 5) (podIdent placed 1 5)
      (pairOf placed k).unanswered = [] ∧ (pairOf (setPair placed k { Pair.reset with unanswered := [hop 0 1 4] }) k).unanswered ≠ []
        ∧ (pairOf (setPair placed k { Pair.reset with unanswered := [hop 0 1 4] }) k).retries < 4) := by decide +kernel

/-- A flit with its check as it must be. -/
def withCrc (y : Flit) : Flit := { y with crc := flitCrc y }
theorem withCrc_crc (y : Flit) : flitCrc (withCrc y) = (withCrc y).crc := by simp only [withCrc, flitCrc, flitHeader]
theorem withCrc_rest (y : Flit) : (withCrc y).rsv = y.rsv ∧ (withCrc y).typ = y.typ ∧ (withCrc y).seq = y.seq ∧ (withCrc y).ks = y.ks
    ∧ (withCrc y).tag = y.tag ∧ (withCrc y).payload = y.payload ∧ flitHeader (withCrc y) = flitHeader y :=
  ⟨rfl, rfl, rfl, rfl, rfl, rfl, rfl⟩
/-- The tag of such a flit. -/
def partnerTag (typ : BitVec 4) : BitVec 96 :=
  gcmTag (List.replicate 32 2) (flitNonce (Config.partnerLinkid 2) 0) (leBytes 8 (flitHeader (newFlit upPort typ 0 true true zeroPayload)))
    zeroPayload
/-- A flit of a type as the partner of port 2 sends it first, with its tag. -/
def withTag (typ : BitVec 4) : Flit := { newFlit upPort typ 0 true true zeroPayload with tag := partnerTag typ }

theorem withTag_opens (typ : BitVec 4) :
    (openFlit (List.replicate 32 2) (Config.partnerLinkid 2) 0 (withCrc (withTag typ))).isSome = true := by
  obtain ⟨-, -, -, -, ht, hp, hh⟩ := withCrc_rest (withTag typ)
  have h : (withTag typ).tag = partnerTag typ := rfl
  have h2 : flitHeader (withTag typ) = flitHeader (newFlit upPort typ 0 true true zeroPayload) := by simp only [flitHeader, withTag]
  have h3 : (withTag typ).payload = zeroPayload := rfl
  unfold openFlit
  rw [ht, hp, hh, h, h2, h3, if_pos (by rw [partnerTag])]
  rfl

/-- Idle, NAK and each authenticated type pass the checks at port 2. -/
theorem witness_good_flits : ∀ typ ∈ ([0, 5, 1, 2, 3, 4] : List (BitVec 4)), (portOf (linked [2]) 2).up = true ∧ (withCrc (withTag typ)).rsv = false
    ∧ flitCrc (withCrc (withTag typ)) = (withCrc (withTag typ)).crc ∧ (withCrc (withTag typ)).typ = typ
    ∧ (withCrc (withTag typ)).seq = (portOf (linked [2]) 2).expect ∧ rxKey (portOf (linked [2]) 2) ≠ none
    ∧ (if (withCrc (withTag typ)).ks then (portOf (linked [2]) 2).rxKey1 else (portOf (linked [2]) 2).rxKey0) = some (List.replicate 32 2)
    ∧ (openFlit (List.replicate 32 2) (Config.partnerLinkid 2) (portOf (linked [2]) 2).rxCount (withCrc (withTag typ))).isSome = true := by
  intro typ _
  have hp : portOf (linked [2]) 2 = upPort := by decide +kernel
  have hc : upPort.rxCount = 0 := rfl
  obtain ⟨hr, ht, hs, hk, -, -, -⟩ := withCrc_rest (withTag typ)
  rw [hp, hc, hr, ht, hs, hk]
  exact ⟨rfl, rfl, withCrc_crc _, rfl, rfl, by decide, rfl, withTag_opens typ⟩

/-- A packet to this module goes to its ingress; one to another waits at its port; a dead module's silence is known; EVICTED is noted. -/
theorem test_fabric_events : (after .packetForward (routed (hop 1 0 4) [])).net.ingress.length = 1
    ∧ (portOf (after .packetForward (routed (hop 0 3 4) [2])) 2).txq.length = 1
    ∧ (after (.moduleSilenceTimeout 5) { placed with sched := { placed.sched with tick := 2 ^ 20 } }).net.dead = [5]
    ∧ (after (.moduleSilenceTimeout 5) placed).net.dead = [] ∧ (after .evictedReturnReceive placed).net.evicted = true
    ∧ (portOf (after (.lossOfLinkTraining 2) (linked [2])) 2).up = false := by decide +kernel

theorem witness_DeviceEvents :
    isRetired placed (.slice 0 3) = false ∧ (countFault placed (.slice 0 3) 1).2 = false
    ∧ isRetired { placed with dev := { placed.dev with retiredSlices := [3] } } (.slice 0 3) = true
    ∧ isRetired placed (.core 5) = false ∧ 2 ^ 56 ≤ (2 ^ 56 : Nat)
    ∧ ({ placed.dev with dieBLost := true } : Dev).dieBLost = true
    ∧ State.reset.dev.go = false ∧ 16 ≤ State.reset.dev.lease.toNat ∧ State.reset.dev.lease.toNat ≤ 65536
    ∧ placed.dev.porten.getLsbD 13 = true
    ∧ (let s := setPort { placed with dev := { placed.dev with porten := 0 } } 3 { Port.reset with role := 2 }
      s.dev.porten.getLsbD 3 = false ∧ (portOf s 3).role = 2)
    ∧ (let s := setPort placed 3 { Port.reset with role := 1 }
      (portOf s 3).role = 1 ∧ ∀ x ∈ onCore s (coreOfPort 3), x.ident.kind = .gateway)
    ∧ sHas placed.dev.startPending 3 = false ∧ (portOf placed 3).role < 2 ∧ (mailWord placed (0x100 + 32 * 3 + 16)).toNat < 16
    ∧ (let s := { placed with dev := { placed.dev with startPending := [3] } }
      sHas s.dev.startPending 3 = true ∧ (portOf s 3).role = 0 ∧ roomFor s (coreOfPort 3) 15 = true) := by decide +kernel

/-- R238: the boot fibre after MCTL.GO runs at monitor level; R440: a gateway's fibre starts on its core; a port is disabled. -/
theorem test_device_events : ((after .mctlGo State.reset).fib.pl, (after .mctlGo State.reset).fib.run, (after .mctlGo State.reset).dev.go)
    = (2, .eligible, true)
    ∧ (after (.gatewayFibreStart 3) { placed with dev := { placed.dev with startPending := [3] } }).fibres.length = 1
    ∧ (after (.gwctlPortDisable 13) placed).dev.porten = 0x1FFF ∧ (after .routerDieALoss placed).dev.failed = true
    ∧ (after .throttle placed).dev.throttled = true ∧ (after .moduleReset placed).fib.run = .exited := by decide +kernel

/-- The second AES-256 case of the GCM specification: sixteen zero bytes under the zero key and IV. -/
theorem test_gcm : let z := List.replicate 32 (0 : BitVec 8)
    (beNat (gcmStream z (z.take 12) 16), gcmTag z (z.take 12) [] (beBytes 16 0xcea7403d4d606b6e074ec5d3baf39d18))
      = (0xcea7403d4d606b6e074ec5d3baf39d18, BitVec.ofNat 96 (leNat [0xd0, 0xd1, 0xc8, 0xa7, 0x99, 0x99, 0x6b, 0xf0, 0x26, 0x5b, 0x98, 0xb5])) := by decide +kernel

/-- R233: the machine after reset is safe, and keeps to that. -/
theorem reset_safe : Safe State.reset := ⟨rfl, by
  have h : memoryWf State.reset.ms.mem = true := by decide +kernel
  exact h⟩

/-- A state with the canonical form of memory takes a step to a next state (an addition that the next turn fetches). -/
theorem witness_StepKeepsMemoryCanonical : memoryWf (boot.withFetchWord 32 0x50000000).ms.mem = true
    ∧ (match Machine.step (boot.withFetchWord 32 0x50000000) with | .next t => memoryWf t.ms.mem | _ => false) = true := by
  decide +kernel

/-- The state of the turn that the next step of `boot` takes. -/
def turned (w : Nat) : State :=
  let s := boot.withFetchWord 32 w
  takeTurn (beginTurn s) s.fib.id false

/-- `boot` with nothing on the agenda. -/
def free : State := { boot with sched := { boot.sched with agenda := [] } }

/-- What a turn's fetch comes to: 0 a word that decodes, 1 one that does not, 2 a failure. -/
def fetches (t : State) : Nat :=
  match fetchWord t with
  | .fault _ => 2
  | .came _ => 2
  | .later _ => 3
  | .word w _ =>
    match decode (bytesOfWord w) with
    | .ok (_, r) => r.length
    | .error _ => 1

/-- Whether the PC translates to a byte of memory that the fetch can read. -/
def readable (t : State) : Bool :=
  match translateFibre t t.fib .fetch t.fib.pc.toNat with
  | .ok a => decide (regionOf a.pa < 3) && !isRemote t a.pa && !attrRefused t a && !homeLost t a.pa && !poisoned t a.pa 4
  | _ => false

/-- The choice of a step: 0 a fibre's turn whose word decodes, 1 another, 2 a unit's step, 3 a tick. -/
def chosen (s : State) : Nat :=
  match choose (beginTurn s) with
  | .issue n => if fetches (takeTurn (beginTurn s) n false) = 0 then 0 else 1
  | .goto _ => 2
  | .tick => 3

/-- Clause by clause: a word that decodes, one that does not, a fetch that fails, and the word in memory. -/
theorem witness_StepRunsInstruction :
    ((boot.withFetchWord 32 0x50000000).dev.failed = false ∧ canIssue (boot.withFetchWord 32 0x50000000) boot.fib.id = true
      ∧ (boot.withFetchWord 32 0x50000000).sched.agenda = [.issue boot.fib.id false])
    ∧ fetches (turned 0x50000000) = 0 ∧ fetches (turned 0xFFFFFFFF) = 1
    ∧ (let t := turned 0
      fetches { t with fib := { t.fib with pc := 0x7000000000000 } } = 2)
    ∧ readable (turned 0x50000000) = true ∧ (turned 0x50000000).ms.copies = [] := by decide +kernel

/-- The model's choices: a fibre's turn, a unit's step, a tick. -/
theorem witness_choices : free.dev.failed = false ∧ free.sched.agenda = [] ∧ chosen free = 0
    ∧ chosen { free with net := { free.net with ingress := [hop 1 0 4] } } = 2
    ∧ chosen { free with sched := { free.sched with turns := 16 } } = 3 := by decide +kernel

/-- Two registers that differ above bit 31 only; a special register that is neither FSTAT nor of a trap context. -/
theorem witness_ScalarFloatCorners_and_FstatWrite :
    (0x13F800000 : Word).setWidth 32 = (0x3F800000 : Word).setWidth 32 ∧ (0x1F : BitVec 5) ≠ 0 ∧ (0x08 : Nat) < 0x09 := by
  decide +kernel

/-- R29: a read from the window of a tenant that is not enabled returns all ones. -/
theorem test_windowClosed : hostTenantRead State.reset 2 0x40 8 = List.replicate 8 0xFF := by decide

/-- R28: after one launch was accepted at priority 3 for tenant 2, the bytes 8 to 15 of the queue record hold 1, the reserved bytes
after the records read as ones, and an entry never written has its vector masked in byte 12. -/
theorem test_windowRead :
    let s := { placed with dist := { placed.dist with accepted := [(19, 1)] } }
    hostTenantRead s 2 0x1038 8 = [1, 0, 0, 0, 0, 0, 0, 0] ∧ hostTenantRead s 2 0x1080 1 = [0xFF] ∧
      hostTenantRead s 2 0x8000C 2 = [1, 0] := by decide

/-! States for the clauses that the witnesses above leave. -/

/-- A fibre whose trap waits, or that a double trap ends, with its turn laid down. -/
def due (w : Wait) : State :=
  let s := boot.withFetchWord 32 0x50000000
  { s with fib := { s.fib with run := .parked w } }
/-- A guest whose PC lies in a placement that its home has not told. -/
def farPc : State := { abroad with fib := { abroad.fib with homeMap := [], pc := gangWindow } }

theorem witness_turns :
    (∀ w ∈ [Wait.trap 5 9, .doom], canIssue (beginTurn (due w)) 1 = true ∧ ((fibreOf (due w) 1).map fun f => f.run) = some (.parked w)
      ∧ (due w).sched.agenda = [.issue 1 false] ∧ (due w).dev.failed = false)
    ∧ fetches farPc = 3 ∧ isEvent .clockTick = true ∧ isEvent (.nop false) = false := by decide +kernel

/-- A CPYQ.nb at a full FIFO with an access of its fibre not yet performed: its stamp is a request. -/
def stampQueued (tiled : Bool) : State :=
  let s := after (.cpyq false 1 false 2 false true) { fullFifo true with ms := { (fullFifo true).ms with
    reqs := [mkReq tiles .store 0 8 (accOf tiles .store 0x50000) 0x50000] } }
  if tiled then s else { s with dist := { s.dist with gangs := [] } }
/-- A full/empty load waiting for its bit, and one that finds no room to wait. -/
def feQueued (n : Nat) : State :=
  let s := after (.ldf false 5 1 false 0) (deferred spad)
  let r : Req := { mkReq s .feStore 2 8 ⟨spadPa s 0 0, 2, 0, 2, false, 0, 0, 0⟩ 0 with arrived := true, fib := 2 }
  { s with ms := { s.ms with reqs := s.ms.reqs ++ List.replicate n r } }

theorem witness_more_requests :
    (∀ b ∈ [true, false], ((stampQueued b).ms.reqs.map fun r => (r.kind, r.op, r.arrived || r.sent || r.refused || r.rem.isSome,
      mayPerform (stampQueued b) r, isRemote (stampQueued b) r.pa, spadHeld (stampQueued b) r.ten r.mon r.pa)).drop 1
        = [(.feStore, 7, false, true, false, b)])
    ∧ (∀ n ∈ [0, 64], ((feQueued n).ms.reqs.take 1).map (fun r => (mayPerform (feQueued n) r, match performHere (feQueued n) r with
        | .wait _ => 1
        | .refused => 2
        | _ => 0)) = [(true, if n = 0 then 1 else 2)])
    ∧ (∀ b ∈ [true, false], allPerformed { placed with fib := { placed.fib with run := .migrating 1 b } } 1 = true) := by
  decide +kernel

/-- The search of an index with one entry, and of one whose records cannot be read. -/
def entered : State :=
  let s := indexQueued (.stvec false 1 false 2 false) stvecWords
  let s := match cmdOf s with
    | some c => after (.indexStvecPerform c.id) s
    | none => s
  let s := after (.ldnn false 1 false 2 false) (setWords { s with fib := { s.fib with pc := 0x40000 } } 0x50000 ldnnWords)
  { s with idxCmds := s.idxCmds.map fun c => { c with took := true, accepted := some 1 } }
/-- The same with its records out of reach. -/
def torn : State := { entered with indexes := entered.indexes.map fun x => { x with gbase := 0xF0000000000000 } }
/-- What a search comes to: 0 memory that fails, 3 its entries read, with how many it met and gave. -/
def searched (s : State) : Option (Nat × Nat × Nat) := do
  let c ← cmdOf s
  let ix ← indexOf s 0
  let v : IxView := ⟨s, ix, idxAgent ix c⟩
  match search v (distOf ix c.query) 1 c.l with
  | .error .mem => some (0, 0, 0)
  | .error _ => none
  | .ok vis => match withRecs v (vis.map (·.2)) with
    | .error _ => none
    | .ok rs => match withVecs v ((bestOf c 1 (vis.zip rs)).map fun z => z.1.2) with
      | .error _ => none
      | .ok ws => some (3, vis.length, ws.length)

theorem witness_searches : searched entered = some (3, 1, 1) ∧ searched torn = some (0, 0, 0)
    ∧ (∀ s ∈ [entered, torn], (cmdOf s).map (fun c => (c.accepted, searchClear s c, spadHeld s 2 c.mon (spadPa s c.core (c.base + teBase c.ent))))
      = some (some 1, true, true))
    ∧ (let s := indexQueued (.ldnn false 1 false 2 false) ldnnWords
      let t := { s with idxCmds := s.idxCmds.map fun c => { c with took := true } }
      (cmdOf t).map (fun c => (c.op, c.accepted.isSome, acceptNext t c, c.took)) = some (0, false, true, true))
    ∧ (∀ i ∈ [(Instr.stvec false 1 false 2 false, 1), (.dlvec false 1 false 2 false, 2)],
      let s := indexQueued i.1 (if i.2 = 1 then stvecWords else dlvecWords)
      let t := { s with idxCmds := s.idxCmds.map fun c => { c with next := s.indexes.head? } }
      (cmdOf t).map (fun c => (c.op, mutationNext t c, c.next.isSome)) = some (i.2, true, true)
        ∧ (cmdOf s).map (fun c => c.next.isSome) = some false) := by decide +kernel

/-- The search of the one entry writes its ID. -/
theorem test_search : (cmdOf entered).map (fun c => (codes (after (.indexSearchComplete c.id) entered) c.rt).head?) = some (some 77) := by
  decide +kernel

/-- A receive's payload: eager and waiting for its turn, from a sender of this module, and from one of another. -/
theorem witness_pulls :
    (packet 0x444 6 7 (leBytes 8 7 ++ leBytes 8 64)).kind ≠ 7
    ∧ ([podIdent tiles 0 5, podIdent tiles 1 5].map fun x =>
      (pulledPayload pulling 9 { someRecv with took := true } { packet 0x444 7 7 (leBytes 8 7 ++ leBytes 8 64) with src := x }).2.isSome)
        = [true, false]
    ∧ (let p := packet 0 3 7 (leBytes 8 0)
      ((sent p).net.outst.find? fun o => o.id == p.reqid.toNat && (o.kind == 6 || o.kind == 7)).isSome = true) := by decide +kernel

/-- A walk of tenant 0 whose node's word lies at an address, which the monitor's tables map. -/
def walkOf (va : Word) : State :=
  let s := nodes ⟨1, 0, 0, va, 0, 0⟩
  { s with
    walkers := s.walkers.map fun w => (w.1, { w.2 with ten := 0 })
    dev := { s.dev with tenants := [(0, { Tenant.reset with en := true, troot := BitVec.ofNat 64 (switchPa s 0 0) })] } }
/-- The same with the word in module 1. -/
def farWalk : State := afar (walkOf 0x200000000000)

/-- A condition's word of another module that has not come is asked for. -/
theorem cond_far {s : State} {cl : Nat} {w : Walker} {va : Word} {a : Acc} {pa : Nat} (h1 : aligned va 8 = true)
    (h2 : translateFibre s (walkFibre w) .load va.toNat = .ok a) (h3 : a.pa = pa)
    (h4 : outOfReach s (walkFibre w) pa = false) (h5 : isRemote s pa = true) (h6 : farOf s (.walker cl) 0 pa = none)
    (h7 : unreachable s (paMod pa) = none) : (condWord s cl w va).2 = none := by
  simp [condWord, h1, h2, h3, h4, h5, gather, h6, h7]

/-- A condition's word here is read; one of module 1, where that is populated, is asked for. -/
theorem witness_conditions :
    (condWord (walkOf 0x50000) 0 (walkerOf (walkOf 0x50000) 0) 0x50000).2 = some 0
    ∧ (Config.populated 1 = true → (condWord farWalk 0 (walkerOf farWalk 0) 0x200000000000).2 = none) := by
  refine ⟨by decide +kernel, fun hp => ?_⟩
  obtain ⟨a, h1, h2, -, h4⟩ := far_at (s := farWalk) (f := walkFibre (walkerOf farWalk 0)) (k := .load) (off := 0) hp (by decide +kernel)
  exact cond_far (by decide) h1 h2 (h2 ▸ h4) (by decide +kernel) (by decide +kernel) (by decide +kernel)

theorem witness_launch_clauses :
    (let up := fun (t : Task) => { t with guest := some (1, 5) }
    let s := { taskQueued with cores := taskQueued.cores.map fun c => (c.1, { c.2 with taskq := c.2.taskq.map up }) }
    (coreOf s 0).taskq.map (fun t => (t.guest, roomFor s 0 t.budget, otherTenant s 0 t.ten)) = [(some (1, 5), true, false)])
    ∧ (coreOf taskQueued 0).taskq.map (fun t => (t.guest, roomFor taskQueued 0 t.budget, otherTenant taskQueued 0 t.ten)) = [(none, true, false)]
    ∧ anyAway (gangIn .imaging) 1 = false ∧ State.reset.dev.go = false ∧ placed.dev.go = true
    ∧ (gangOf (gangIn .placing) 1).map (fun g => (gridOf (gangIn .placing) g).map fun x => x.id) = some [1] := by decide +kernel

theorem witness_fabric_clauses :
    (let p := { hop 0 3 4 with dst := (hop 0 3 4).dst + BitVec.ofNat 26 (2 ^ 18) }
    idPod p.dst ≠ placed.dev.pod.toNat ∧ crossesPods p.kind.toNat = true)
    ∧ isDetour placed (hop 0 3 4) = false ∧ isDetour placed { hop 1 3 4 with port := 3 } = true ∧ detourPorts placed 2 = []
    ∧ (let s := setPort (linked [2, 4]) 2 { upPort with txq := [((0, false), payloads 17 (packetBytes (hop 0 3 4)))] }
      ((portOf s 2).txq[if (portOf s 2).txMid then 1 else 0]?).isSome = true ∧ detourPorts s 2 = [4]
        ∧ ((portOf s 2).txq.map fun e => e.1.2) = [false])
    ∧ ({ upPort with nakDue := true } : Port).nakDue = true ∧ upPort.nakDue = false ∧ upPort.resend = [] ∧ upPort.txq = []
    ∧ (portOf placed 13).role = 0 ∧ placed.dev.pod ≠ placed.dev.pod + 1
    ∧ (let src := podIdent placed 0 0x400
      let k := pairKey src (podIdent placed 0 0x43F)
      isOwnIdent placed src = true ∧ isOwnIdent placed (podIdent placed 0 0x43F) = true ∧ idAgent src = 0x400
        ∧ idAgent (podIdent placed 0 0x43F) = 0x43F ∧ placed.dev.deadAgents.contains 0x43F = false ∧ (pairOf placed k).retries < 4
        ∧ 4 ≤ (pairOf (setPair placed k { Pair.reset with retries := 4 }) k).retries)
    ∧ (let s := setPort placed 3 { Port.reset with role := 1 }
      (∀ x ∈ slotHolders s (coreOfPort 3), x.ident.kind = .gateway) ∧ (coreOf s (coreOfPort 3)).taskq = []) := by decide +kernel

/-- A gang ended that IMGLOAD brings back, and a double trap that waits for an access. -/
theorem witness_system_clauses :
    (let s := handled .resident
    let t := { s with dist := { s.dist with gangs := s.dist.gangs.map fun g => { g with
      ended := true
      last := some (makeImage placed g) } } }
    (handleGang t (2 ^ 40)).map (fun g => (g.ended, g.last.isSome, g.st)) = some (true, true, .resident)
      ∧ handleCheck (.imgload false 1 false) (begun t { plainUse (.imgload false 1 false) false [(1, false)] 0 with level := 1 }) (2 ^ 40) = none)
    ∧ (handleGang (handled .resident) (2 ^ 40)).map (fun g => g.ended) = some false
    ∧ (let s := { nested with
        fib := { nested.fib with mon := { nested.fib.mon with frame := true } }
        ms := { nested.ms with reqs := [req .store] } }
      allReady s.fib = true ∧ s.fib.sup.frame = true ∧ allPerformed s s.fib.id = false)
    ∧ (let u := plainUse (.cacheop false 1 false 2) false [(1, false)] 0
      lineBusy (begun boot u) (accOf (begun boot u) .load 0x50000) = false) := by decide +kernel

/-- A port between two flits of a packet, and one whose packet is to end with a STOMP. -/
theorem witness_errors :
    isRetired placed (.core 3) = false ∧ (portOf (linked [2]) 2).up = true
    ∧ (let p := { sending [((1, false), [])] with txMid := true }
      p.up = true ∧ p.resend = [] ∧ p.nakDue = false ∧ txKey p ≠ none ∧ p.count ≠ 2 ^ 32 ∧ p.replay.length < 64 ∧ p.txq = ((1, false), []) :: []
        ∧ p.txMid = true) := by decide +kernel

/-- A bad header ends the packet being sent; a WINDOW is counted for its tenant where it is found; a tag entry covers the sectors its cache holds,
and a double-bit error in data poisons its word (R433, R439, R421). -/
theorem test_errors :
    (portOf (after (.faultCountEvent (.link 2) (some 0)) (setPort placed 2 { sending [((1, false), [[1], [2]])] with txMid := true })) 2).txq = [((1, false), [])]
    ∧ (tenantOf (found placed cWINDOW) 2).violations = 1 ∧ (tenantOf (found placed cXNP) 2).violations = 0
    ∧ (let t := { placed with ms := { placed.ms with copies := [⟨3, 0x244, 7, true, false⟩, ⟨4, 0x264, 7, true, false⟩] } }
      coversSector t 3 0x240 = true ∧ coversSector t 3 0x260 = false
        ∧ (after (.faultCountEvent (.core 3) (some 0x240)) placed).ms.poison = [0x48]) := by decide +kernel

/-- A state with an access of its fibre not yet performed. -/
def owing (s : State) : State := { s with ms := { s.ms with reqs := [mkReq s .store 0 8 (accOf s .store 0x50000) 0x50000] } }
/-- A fibre with a long result not yet there. -/
def lacking (s : State) : State := { s with fib := { s.fib with pend := [⟨5, 6, none, none, 0, true⟩] } }

/-- EXIT, TRIG, MIGR and CALLAT behind an access; MIGR before a result; ALIGN with two mates; a guest's TRIG. -/
theorem witness_control_waits :
    (let u : Use := ⟨.exit false, true, false, 0, fun _ => none, [], 0, true⟩
    issuesB (owing boot) u = true ∧ allPerformed (owing boot) boot.fib.id = false)
    ∧ (let u : Use := ⟨.trig false, false, false, 0, gangOnly (.trig false), [], 0, true⟩
      (∀ s ∈ [owing placed, abroad], issuesB s u = true ∧ s.fib.ident.kind ≠ .task)
        ∧ allPerformed (owing placed) 1 = false ∧ allPerformed abroad 1 = true ∧ abroad.fib.ident.guest = some (1, 5))
    ∧ (let s := { placed with fibres := [mate, { mate with id := 10 }] }
      let u := plainUse (.align false 1) false [] 0
      issuesB s u = true ∧ (s.fibres.filter (alignMate (begun s u).fib)).length = 2)
    ∧ (∀ s ∈ [owing moving, lacking moving],
      let b := begun s migrUse
      let a := accOf b .load (operand s migrUse 0)
      issuesB s migrUse = true ∧ firstMark b.fib = none ∧ (operand s migrUse 0).toNat % 8 = 0
        ∧ translateFibre b b.fib .load (operand s migrUse 0).toNat = .ok a ∧ a.loc = 2 ∧ holdsLease b b.fib = false
        ∧ spadCore a.pa ≠ s.fib.core ∧ s.fib.sup.frame = false ∧ s.fib.mon.frame = false)
    ∧ allReady (begun (lacking moving) migrUse).fib = false ∧ allReady (begun (owing moving) migrUse).fib = true
    ∧ allPerformed (owing moving) 1 = false := by decide +kernel

/-- CALLAT with a return word in the scratchpad, a misaligned one, one outside the window, and behind an access. -/
theorem witness_callat_word : let u : Use := ⟨.callat false 1 false 2 false, false, false, 0, gangOnly (.callat false 1 false 2 false),
      [(1, false), (2, false), (1, false), (2, false), (3, false), (4, false), (5, false)], 0, true⟩
    (∀ v ∈ [2 ^ 44 + 0x4000, 2 ^ 44 + 4, 0x50000], let s := setReg placed 5 v
      issuesB s u = true ∧ (operand s u 1).toNat < 1024 ∧ (operand s u 0).toNat % 4 = 0 ∧ operand s u 6 = BitVec.ofNat 64 v)
    ∧ (match checkWord (begun (setReg placed 5 (2 ^ 44 + 0x4000)) u) (2 ^ 44 + 0x4000) with
      | .ok _ => true
      | _ => false) = true
    ∧ (2 ^ 44 + 4) % 8 ≠ 0 ∧ (accOf (begun (setReg placed 5 0x50000) u) .store 0x50000).loc ≠ 2 ∧ 0x50000 % 8 = 0
    ∧ translateFibre (begun (setReg placed 5 0x50000) u) (begun (setReg placed 5 0x50000) u).fib .store 0x50000
      = .ok (accOf (begun (setReg placed 5 0x50000) u) .store 0x50000)
    ∧ (∀ v ∈ [0, 2 ^ 44 + 0x4000], issuesB (owing (setReg placed 5 v)) u = true) ∧ allPerformed (owing placed) 1 = false := by decide +kernel

/-- Every full/empty operation, atomic and WAITA at a misaligned address. -/
theorem witness_misaligned_words : let s := setReg boot 1 0x100000000001
    ([{ plainUse (.ldf false 5 1 false 0) false [(1, false)] 5 with fail := true },
      { plainUse (.ldfe false 5 1 false 0) false [(1, false)] 5 with fail := true }, plainUse (.feq false 5 1 false 0) false [(1, false)] 5,
      plainUse (.ste false 3 1 false 0) false [(1, false), (3, false)] 0,
      { plainUse (.stf false 3 1 false 0) false [(1, false), (3, false)] 0 with fail := true },
      plainUse (.feset false 1 false false 0) false [(1, false)] 0,
      { plainUse (.feset false 1 false true 0) false [(1, false)] 0 with fail := true },
      { rr (.aadd false 5 1 false 2 false 0 0 0 false) with dest := 5 }, { rr (.amin false 5 1 false 2 false 0 0 0 true true) with dest := 5 },
      { rr (.amax false 5 1 false 2 false 0 0 0 false true) with dest := 5 }, { rr (.aand false 5 1 false 2 false 0 0 0 true) with dest := 5 },
      { rr (.aor false 5 1 false 2 false 0 0 0 true) with dest := 5 }, { rr (.axch false 5 1 false 2 false 0 0 0 true) with dest := 5 },
      plainUse (.acas false 5 1 false 2 false 0 0 0 true) false [(1, false), (2, false), (5, false)] 5,
      plainUse (.adecp false 5 1 false 0 0 0 true) false [(1, false)] 5, { rr (.aincb false 5 1 false 2 false 0 0 0 true) with dest := 5 },
      ⟨.waita false 5 1 false 2 false false, false, false, 0, noHandler (.waita false 5 1 false 2 false false),
        [(1, false), (2, false)], 5, true⟩] : List Use).all
      (fun u => issuesB s u && (operand s u 0).toNat % 4 == 1) = true := by decide +kernel

/-- CACHEOP on a word beyond the fibre's reach; KLOAD and KTURN at a gateway below device monitor level; a register written under
HZCHK that is pending. -/
theorem witness_levels :
    (let s := { spad with
      fib := { spad.fib with pl := 1 }
      dev := { spad.dev with tenants := [(0, { Tenant.reset with en := true, troot := spad.dev.monRoot })] } }
    let u := plainUse (.cacheop false 1 false 2) false [(1, false)] 0
    let a := accOf (begun s u) .load (operand s u 0)
    issuesB s u = true ∧ translateFibre (begun s u) (begun s u).fib .load (operand s u 0).toNat = .ok a
      ∧ outOfReach (begun s u) (begun s u).fib a.pa = true)
    ∧ (let g := { gateway with fib := { gateway.fib with pl := 1 } }
      servesGateway g g.fib.core = true ∧ g.fib.pl.toNat < 2 ∧ g.fib.failure = none ∧ g.fib.pfx = false
        ∧ (Instr.kload false 1 false true).wf = true ∧ (Instr.kturn false).wf = true)
    ∧ (let f := { (lacking boot).fib with hzchk := true }
      (6 : Reg) ≠ 0 ∧ f.hzchk = true ∧ (pendOf f 6).isSome = true) := by decide +kernel

/-- TDEF and TSTATE on a filling tile, on one that a matrix command names or reads and on one that a copy reads; TSTATE outside the block
and of no tile; CBLD behind a VCBK. -/
theorem witness_tile_waits :
    (let s := setTileState tiles 0 3 1
    tileMoving (tileEnt s 0 3) = true ∧ issuesB s (plainUse (.tstate false 5 true 2 3) false [] 5) = true
      ∧ issuesB (setReg s 1 0) (plainUse (.tdef false 1 false 3) false [(1, false)] 0) = true)
    ∧ (let s := { matrixed with arrays := [(0, { MArray.reset with lease := some ⟨1, 0, 3, false⟩, cmds := [{ someCmd with
        names := [(0, 14)]
        reads := [(0, 14)] }] })] }
      matrixNames s 0 14 = true ∧ matrixReads s 0 14 = true ∧ tileSlot s s.fib 0 14 = some (14, 0, 65536)
        ∧ issuesB s (plainUse (.tdef false 1 false 14) false [(1, false)] 0) = true ∧ issuesB s (plainUse (.tstate false 5 true 2 14) false [] 5) = true)
    ∧ (let u := plainUse (.tstate false 5 true 2 63) false [] 5
      issuesB tiles u = true ∧ tileSlot tiles tiles.fib 0 63 = none ∧ issuesB placed (plainUse (.tstate false 5 true 2 3) false [] 5) = true
        ∧ tileSlot placed placed.fib 0 3 = some (3, 0, 65536) ∧ teDef (tileEnt placed 0 3) = false)
    ∧ (let s := after (.vcbk false 8 7) { tiles with sched := { tiles.sched with defer := true } }
      bookRead s 0 = true ∧ (coreOf s 0).vec.length = 1) := by decide +kernel

/-- The slot of `gauss` with a word of its data poisoned and one message counted. -/
def poisonSlot (ws : List Nat) : State :=
  let s := gauss ws
  { s with ms := { s.ms with
    mem := mwr s.ms.mem (spadPa placed 0 0x3000) 8 (2 ^ 32 + 1)
    poison := [spadPa placed 0 0x3008 / 8] } }

/-- GMSG: a slot of another dimension, a poisoned tile, and a damped slot whose data is poisoned. GBEL: a slot found poisoned once its fibre
goes on, and a slot taken elsewhere whose answer failed. -/
theorem witness_belief_traps :
    (let s := gauss gmsgWords
    let t := { s with ms := { s.ms with mem := mwr s.ms.mem (spadPa placed 0 0x3000) 8 2 } }
    gaussB 0 gmsgUse t (fun d => ⟨d.t0, d.di + d.dj⟩) (fun d => ⟨d.t1, d.dj⟩) false = true
      ∧ (slotWord t [spadPa placed 0 0x3000] 0).toNat % 16 ≠ 1 ∧ (slotWord s [spadPa placed 0 0x3000] 0).toNat % 16 = 1
      ∧ poisoned t (spadPa placed 0 0x3000) 8 = false ∧ isRemote t (spadPa placed 0 0x3000) = false)
    ∧ (let s := gauss gmsgWords
      let t := { s with ms := { s.ms with poison := [spadPa placed 0 0 / 8] } }
      (gPoison t t.fib ⟨0, 0, tileEnt t 0 0⟩ 2).isSome = true)
    ∧ (let t := poisonSlot [0x8001010100, 0, 2 ^ 44 + 0x3000, 0]
      gaussB 0 gmsgUse t (fun d => ⟨d.t0, d.di + d.dj⟩) (fun d => ⟨d.t1, d.dj⟩) false = true
        ∧ (gDesc (blockW 4 (begun t gmsgUse) 0x50000)).damp ≠ 0
        ∧ (slotPoison t (2 ^ 44 + 0x3000) ((List.range 3).map fun k => spadPa placed 0 (0x3000 + 8 * k)) 1 true).isSome = true)
    ∧ (let t := poisonSlot gbelWords
      let pas := (List.range 3).map fun k => spadPa placed 0 (0x3000 + 8 * k)
      slotFar t 2 (pas.headD 0) = none ∧ isRemote t (pas.headD 0) = false ∧ (∀ p ∈ pas, owned t p 8 = false)
        ∧ (slotPoison t (2 ^ 44 + 0x3000) pas 1 true).isSome = true)
    ∧ (let t := farSlot 0x00010102 [{ farWord 0x3000 2 0 with cause := 0x1B }]
      (slotFar t 2 (farPa 0x3000)).map (fun w => (w.here, w.cause)) = some (true, 0x1B)) := by decide +kernel

/-- A gang's fibre with the lease, without a bank, and with one free. -/
theorem witness_lease_reasons :
    gangOnly (.mlease false 255) leased = none ∧ (arrayOf leased 0).lease = some ⟨1, 0, 3, false⟩ ∧ leased.fib.id = 1
    ∧ holdsLease placed placed.fib = false ∧ hasBank placed placed.fib = true ∧ gangOnly (.mlease false 255) placed = none
    ∧ (let s := { placed with dist := { placed.dist with gangs := placed.dist.gangs.map fun g => { g with acc := false } } }
      hasBank s s.fib = false ∧ holdsLease s s.fib = false ∧ gangOnly (.mlease false 255) s = none) := by decide +kernel

/-- CPYQ behind an access and at a full FIFO; CPYWAIT of a failed copy, with a result to come and without; KICK to a module that is dead. -/
theorem witness_copy_waits :
    copyB (owing (copying false)) false = true ∧ allPerformed (owing (copying false)) 1 = false
    ∧ (let f := fun (s : State) => { s with cores := modWhere (fun c => c.1 == 0) (fun c => (0, { c.2 with failed := [(1, 7, 0x18)] })) s.cores }
      let u := { plainUse (.cpywait false) false [] 0 with fail := true }
      (∀ s ∈ [f tiles, f (lacking tiles)], issuesB s u = true ∧ (∀ z ∈ (coreOf (begun s u) 0).fifo, z.fib ≠ 1)
        ∧ ((coreOf (begun s u) 0).failed.find? fun z => z.1 == 1) = some (1, 7, 0x18))
        ∧ allReady (begun (f tiles) u).fib = true ∧ (drain (begun (f tiles) u).fib).failure = none
        ∧ allReady (begun (f (lacking tiles)) u).fib = false)
    ∧ (let s := { placed with net := { placed.net with dead := [3] } }
      (unreachableId s (podIdent s 3 0x400)).isSome = true ∧ unreachableId s (podIdent s 2 0x400) = none) := by decide +kernel

/-- An index being closed with a command outstanding; a SEND whose payload another module holds; AMSG with a misaligned completion word, at
32 outstanding and to a dead module; WALK of one's own gang's walker and of another's; GWTAKE behind an acquire. -/
theorem witness_more_waits :
    (let s := setReg (after (.stvec false 1 false 2 false) (opened stvecWords)) 1 0x200000000001
    (∃ c ∈ s.idxCmds, c.num = 0) ∧ (indexAt s 2 0x200000000000).isSome = true)
    ∧ (let i := Instr.amsg false 1 false 2 false 0 false
      let u := { plainUse i false [(1, false), (2, false), (1, false), (2, false), (3, false), (4, false), (5, false)] 0 with fail := true }
      issuesB (calling 5 3 (2 ^ 44 + 4)) u = true ∧ operand (calling 5 3 (2 ^ 44 + 4)) u 6 = 2 ^ 44 + 4 ∧ (2 ^ 44 + 4) % 8 ≠ 0
        ∧ (let s := { calling 5 3 0 with net := { placed.net with outst := List.replicate 32 ⟨8, 0, 1, 2, 4, none, 0, [], [], 5, none, 0, 0, 0⟩ } }
          issuesB s u = true ∧ msgOut (begun s u) 0 = 32))
    ∧ (let u := { plainUse (.walk false 1 false) false [(1, false)] 0 with
        ctx := gangOnly (.walk false 1 false)
        fail := true }
      let other := { placed with walkers := [(0, { Walker.reset with gang := some 2 })] }
      (∀ s ∈ [walking, other], issuesB s u = true ∧ (operand s u 0).toNat % 32 = 0)
        ∧ (walkerOf walking 0).gang = gangKey walking.fib ∧ (walkerOf other 0).gang ≠ gangKey other.fib ∧ (walkerOf other 0).gang ≠ none)
    ∧ behindAcquire placed = false := by decide +kernel

/-- An arrival at a retired core; a long eager message in two packets; an active message with 64 held on its die, and its answer. -/
theorem witness_message_clauses :
    (let s := { placed with
      fib := { placed.fib with run := .migrating 1 true }
      cores := [(1, { Core.reset with retired := true })] }
    (coreOf s 1).retired = true ∧ (fibreOf s 1).map (fun f => f.run) = some (.migrating 1 true))
    ∧ (let p := { packet 0x444 6 7 (leBytes 8 7 ++ leBytes 8 4000) with src := podIdent tiles 1 5 }
      let q := { p with second := true }
      let s := { tiles with net := { tiles.net with arrivals := [p, q] } }
      s.net.arrivals[0]? = some p ∧ inOrder s 0 p = true ∧ p.kind = 6 ∧ p.second = false ∧ 3804 < msgLen p
        ∧ takeFirst (fun q => q.kind == 6 && q.second && q.src == p.src && q.dst == p.dst) (s.net.arrivals.drop 1) = some (q, []))
    ∧ (let s := { entries [] [(5, 0)] 0 with net := { (entries [] [(5, 0)] 0).net with held := List.replicate 64 ⟨0, { message with src := podIdent tiles 1 6 }⟩ } }
      (s.net.held.filter fun x => x.die == dieOf 0).length = 64 ∧ s.net.arrivals[0]? = some message ∧ pairFirst s 0 message = true) := by
  decide +kernel

/-- A task node that stopped at a full queue; a task on a core in service; a packet that a detour takes; a refused tenant's packet and one with
a reserved field; a module heard a million ticks ago; a home's request unanswered once and five times. -/
theorem witness_third_events :
    (let s := { walking with walkers := [(0, { (walkerOf walking 0) with graph := [taskNode 2], placed := [(0, 1)], alive := [(0, 1)] })] }
    let w := walkerOf s 0
    w.graph[0]? = some (taskNode 2) ∧ (taskNode 2).kind = 0 ∧ w.gang ≠ none ∧ w.ended = false ∧ nodeRunning w 0 = true
      ∧ (walkerOf (after (.taskNodeRun 0 0) s) 0).placed = [(0, 2)])
    ∧ (coreOf taskQueued 0).retired = false
    ∧ (let s := routed (hop 0 3 4) [4]
      let t := { s with net := { s.net with router := [] } }
      let f := portTo (ownMod t) (nextHop t (ownMod t) (hop 0 3 4))
      portUsable t f = false ∧ isDetour t (hop 0 3 4) = false ∧ detourPorts t f = [4])
    ∧ (let p := { hop 1 0 4 with ten := 9 }
      p.kind.toNat < 13 ∧ p.rsv = false ∧ areaReserved p = false ∧ (tenantOf placed 9).en = false ∧ routerOwn p = false)
    ∧ areaReserved { hop 1 0 10 with area := List.replicate 40 1 } = true
    ∧ (let s := { placed with sched := { placed.sched with tick := 2 ^ 20 } }
      tget 0 s.net.heard 5 + 2 ^ 20 ≤ s.sched.tick ∧ sHas s.net.dead 5 = false ∧ (5 : BitVec 6).toNat ≠ ownMod s
        ∧ placed.sched.tick < tget 0 placed.net.heard 5 + 2 ^ 20)
    ∧ (let k := pairKey (podIdent placed 0 5) (podIdent placed 1 5)
      let s := setPair placed k { Pair.reset with unanswered := [hop 0 1 4], retries := 4 }
      (pairOf s k).unanswered ≠ [] ∧ 4 ≤ (pairOf s k).retries)
    ∧ (let k := pairKey (podIdent placed 0 0x400) (podIdent placed 0 0x444)
      let s := fun n => setPair { placed with sched := { placed.sched with tick := 1024 * 2 ^ n } } k { Pair.reset with retries := n }
      idAgent (podIdent placed 0 0x444) = 0x444 ∧ placed.dev.deadAgents.contains 0x444 = false
        ∧ (∀ n ∈ [1, 4], 0 < (pairOf (s n) k).retries ∧ (s n).sched.tick = (pairOf (s n) k).timed + 1024 * 2 ^ (pairOf (s n) k).retries)
        ∧ (pairOf (s 0) k).retries = 0)
    ∧ (let s := setPort placed 3 { Port.reset with held := true }
      (portOf s 3).role ≠ 2 ∧ (portOf s 3).role ≠ 3 ∧ (portOf s 3).held = true) := by decide +kernel

/-- A word of another module that came with a failure, and an instruction that waits and is taken up again. -/
theorem witness_resumed_turns :
    (let s := due (.job 0 3 false .accesses .trig)
    canIssue (beginTurn s) 1 = true ∧ s.sched.agenda = [.issue 1 false] ∧ (fibreOf s 1).map (fun f => f.run) = some (.parked (.job 0 3 false .accesses .trig)))
    ∧ (∀ x ∈ [boot.fib], (∀ c v, x.run ≠ .parked (.trap c v)) ∧ x.run ≠ .parked .doom) := by
  refine ⟨by decide +kernel, ?_⟩
  intro x hx
  obtain rfl : x = boot.fib := List.mem_singleton.mp hx
  have h : boot.fib.run = .eligible := by decide +kernel
  simp [h]

/-- By their effects: a task started leaves room for a late one; a read through the host's window; a heartbeat waits at each usable port; a
packet from a frame has come by no port. -/
theorem test_third_events :
    (after (.hostSwitchWindowAccess false 0 8 []) placed).host.reads = [List.replicate 8 0xFF]
    ∧ (after .heartbeat (linked [2, 4])).ports.map (fun p => (p.1, p.2.txq.length)) = [(2, 1), (4, 1)]
    ∧ ((after (.ethernetFrameReceive 0x88B5 (hop 1 0 4)) placed).net.ingress.map (·.port)) = [14]
    ∧ (portOf (after (.gwctlPortEnable 3) (setPort placed 3 { Port.reset with held := true })) 3).held = false := by decide +kernel

/-- R389: voxel 1's first channel is 2 + 2 × 3 + 4 × 1, exact and without a flag; its second -2; a channel of zeros is +0. -/
theorem test_sparse_conv : chunkRound false false (exInt 2) [(exInt 6, 0), (exInt 4, 0)] = (0x41400000, 0)
    ∧ chunkRound false false exZero [(exInt (-2), 0), (exZero, 0)] = (0xC0000000, 0)
    ∧ chunkRound false false exZero [(exZero, 0), (exZero, 0)] = (0, 0) := by decide +kernel

end Sys2Proof.Tests
end

/-! What tables and registers give after a write, and what a short and a long result do to a fibre's registers (R33, R40-R45, R108). -/

namespace Sys2Proof.Proofs

open Sys2Proof.Machine Sys2Proof.Safety Sys2Proof.Laws

/-! Tables. -/

/-- A table read after a removal. -/
theorem tget_tdel {α : Type} (d : α) (t : Tbl α) (k j : Nat) : tget d (tdel t k) j = if k = j then d else tget d t j := by
  induction t with
  | nil => simp [tdel, tget]
  | cons c r ih =>
    obtain ⟨a, b⟩ := c
    by_cases hak : a = k
    · have hs : tdel ((a, b) :: r) k = tdel r k := by simp [tdel, hak]
      rw [hs, ih]
      by_cases hkj : k = j
      · simp [hkj]
      · simp [tget, hkj, hak]
    · have hs : tdel ((a, b) :: r) k = (a, b) :: tdel r k := by simp [tdel, hak]
      rw [hs, tget, ih, tget]
      by_cases hkj : k = j
      · have haj : a ≠ j := fun h => hak (h.trans hkj.symm)
        simp [hkj, haj]
      · simp [hkj]

/-- A removed entry is not found. -/
theorem find_tdel_same {α : Type} (t : Tbl α) (k : Nat) : (tdel t k).find? (fun m => m.1 == k) = none := by
  simp [tdel, List.find?_eq_none]

/-- A removal hides no other entry. -/
theorem find_tdel_other {α : Type} (t : Tbl α) {k j : Nat} (h : j ≠ k) :
    (tdel t k).find? (fun m => m.1 == j) = t.find? (fun m => m.1 == j) := by
  rw [tdel, List.find?_filter]
  congr 1
  funext m
  by_cases hm : m.1 = j
  · simp [hm, h]
  · simp [hm]

/-! Pending results. -/

/-- After a register's earlier results are discarded (R44), none is pending for it. -/
theorem find_unkeep_same (f : Fibre) (d : Reg) : (unkeep f d).find? (fun p => p.keep && p.reg == d) = none := by
  rw [List.find?_eq_none]
  intro p hp
  obtain ⟨q, -, rfl⟩ := List.mem_map.mp hp
  by_cases hq : q.reg = d
  · simp [hq]
  · simp [hq]

/-- Discarding a register's earlier results leaves those pending for the others. -/
theorem find_unkeep_other (f : Fibre) {d r : Reg} (h : r ≠ d) :
    (unkeep f d).find? (fun p => p.keep && p.reg == r) = pendOf f r := by
  unfold unkeep modWhere pendOf
  induction f.pend with
  | nil => rfl
  | cons p ps ih =>
    rw [List.map_cons, List.find?_cons, List.find?_cons, ih]
    by_cases hp : p.reg = d
    · have hr : (d == r) = false := beq_eq_false_iff_ne.mpr h.symm
      simp [hp, hr]
    · simp [hp]

/-! Writing a register. -/

theorem getLsbD_regBit (d r : Reg) : (regBit d).getLsbD r.toNat = decide (d = r) := by
  have hr : r.toNat < 16 := r.isLt
  rw [regBit, BitVec.getLsbD_ofNat, Nat.testBit_two_pow]
  simp [hr, BitVec.toNat_inj]

@[simp] theorem isLive_zero (f : Fibre) : isLive f 0 = false := rfl

@[simp] theorem regVal_zero (f : Fibre) : regVal f 0 = 0 := rfl

/-- What a register write keeps of the fibre. -/
theorem putReg_keeps (f : Fibre) (d : Reg) (v : Word) : putReg f d v = { f with
    regs := (putReg f d v).regs
    live := (putReg f d v).live
    marks := (putReg f d v).marks } := by
  unfold putReg
  split <;> rfl

theorem putReg_of_ne_zero (f : Fibre) {d : Reg} (v : Word) (hd : d ≠ 0) : putReg f d v = { f with
    regs := f.regs.set d.toFin v d.toFin.isLt
    live := f.live ||| regBit d
    marks := tdel f.marks d.toNat } := if_neg hd

/-- A written register is live (R40). -/
theorem isLive_putReg_same (f : Fibre) {d : Reg} (v : Word) (hd : d ≠ 0) : isLive (putReg f d v) d = true := by
  have hk : (d != 0) = true := bne_iff_ne.mpr hd
  rw [isLive, hk, Bool.true_and, putReg_of_ne_zero f v hd, BitVec.getLsbD_or, getLsbD_regBit, decide_eq_true rfl, Bool.or_true]

theorem isLive_putReg_other (f : Fibre) {d r : Reg} (v : Word) (hr : r ≠ d) : isLive (putReg f d v) r = isLive f r := by
  by_cases hd : d = 0
  · rw [putReg, if_pos hd]
  · simp [putReg_of_ne_zero f v hd, isLive, getLsbD_regBit, hr.symm]

theorem regVal_putReg_same (f : Fibre) {d : Reg} (v : Word) (hd : d ≠ 0) : regVal (putReg f d v) d = v := by
  rw [regVal, isLive_putReg_same f v hd, if_pos rfl, putReg_of_ne_zero f v hd]
  exact Vector.getElem_set_self d.toFin.isLt

theorem regVal_putReg_other (f : Fibre) {d r : Reg} (v : Word) (hr : r ≠ d) : regVal (putReg f d v) r = regVal f r := by
  by_cases hd : d = 0
  · rw [putReg, if_pos hd]
  · have hne : d.toFin.val ≠ r.toFin.val := fun e => hr (BitVec.eq_of_toNat_eq e.symm)
    rw [regVal, isLive_putReg_other f v hr, regVal, putReg_of_ne_zero f v hd]
    congr 1
    exact Vector.getElem_set_ne d.toFin.isLt r.toFin.isLt hne

/-! Short results (R42). -/

@[simp] theorem writeShort_zero (f : Fibre) (v : Word) : writeShort f 0 v = f := rfl

theorem writeShort_of_ne_zero (f : Fibre) {d : Reg} (v : Word) (hd : d ≠ 0) :
    writeShort f d v = putReg { f with pend := unkeep f d } d v := if_neg hd

/-- What a short result keeps of the fibre (R42). -/
theorem writeShort_keeps (f : Fibre) (d : Reg) (v : Word) : writeShort f d v = { f with
    regs := (writeShort f d v).regs
    live := (writeShort f d v).live
    marks := (writeShort f d v).marks
    pend := (writeShort f d v).pend } := by
  unfold writeShort putReg
  split <;> rfl

theorem writeShort_pend (f : Fibre) {d : Reg} (v : Word) (hd : d ≠ 0) : (writeShort f d v).pend = unkeep f d := by
  rw [writeShort_of_ne_zero f v hd, putReg_keeps]

theorem writeShort_marks (f : Fibre) {d : Reg} (v : Word) (hd : d ≠ 0) : (writeShort f d v).marks = tdel f.marks d.toNat := by
  rw [writeShort_of_ne_zero f v hd, putReg_of_ne_zero _ v hd]

/-- A short result discards the result that was pending for its register (R44). -/
theorem pendOf_writeShort_same (f : Fibre) {d : Reg} (v : Word) (hd : d ≠ 0) : pendOf (writeShort f d v) d = none := by
  rw [pendOf, writeShort_pend f v hd, find_unkeep_same]

theorem pendOf_writeShort_other (f : Fibre) {d r : Reg} (v : Word) (hd : d ≠ 0) (hr : r ≠ d) :
    pendOf (writeShort f d v) r = pendOf f r := by
  rw [pendOf, writeShort_pend f v hd, find_unkeep_other f hr]

theorem regVal_writeShort_same (f : Fibre) {d : Reg} (v : Word) (hd : d ≠ 0) : regVal (writeShort f d v) d = v := by
  rw [writeShort_of_ne_zero f v hd, regVal_putReg_same _ v hd]

theorem regVal_writeShort_other (f : Fibre) {d r : Reg} (v : Word) (hd : d ≠ 0) (hr : r ≠ d) :
    regVal (writeShort f d v) r = regVal f r := by
  rw [writeShort_of_ne_zero f v hd, regVal_putReg_other _ v hr]
  rfl

theorem isLive_writeShort_same (f : Fibre) {d : Reg} (v : Word) (hd : d ≠ 0) : isLive (writeShort f d v) d = true := by
  rw [writeShort_of_ne_zero f v hd, isLive_putReg_same _ v hd]

theorem isLive_writeShort_other (f : Fibre) {d r : Reg} (v : Word) (hd : d ≠ 0) (hr : r ≠ d) :
    isLive (writeShort f d v) r = isLive f r := by
  rw [writeShort_of_ne_zero f v hd, isLive_putReg_other _ v hr]
  rfl

/-- With nothing pending for a register, a read gives its written value, whatever the free choice (R41). -/
theorem readReg_of_no_pend (k : Nat) {f : Fibre} {r : Reg} (h : pendOf f r = none) : readReg k f r = regVal f r := by
  rw [readReg, h]

/-! Long results (R42, R43, R108). -/

/-- A long result for a live register waits behind those discarded (R44). -/
theorem writeLong_of_live (f : Fibre) (n : Nat) {d : Reg} (v : Word) (fl : BitVec 5) (hd : d ≠ 0) (hl : isLive f d = true) :
    writeLong f n d v fl = { f with pend := unkeep f d ++ [⟨n, d, some v, none, fl, true⟩] } := by
  have hk : (d != 0) = true := bne_iff_ne.mpr hd
  have hm : makeLive f d = f := by rw [makeLive, if_neg hd, if_pos hl]
  rw [writeLong, if_neg fun e => hd e.1, addPend, hm, hk]

/-- A kept result that holds a value arrives: its flags and its value are written (R44, R108). -/
theorem arrive_value (f : Fibre) (n : Nat) {d : Reg} (v : Word) (fl : BitVec 5) (hd : d ≠ 0) :
    arrive f ⟨n, d, some v, none, fl, true⟩ = putReg (orFlags f fl) d v := by
  have hk : (d != 0) = true := bne_iff_ne.mpr hd
  simp only [arrive, hk, Bool.and_self, if_true, Option.getD_some]

theorem unkeep_of_no_pend {f : Fibre} (d : Reg) (h : f.pend = []) : unkeep f d = [] := by
  rw [unkeep, h]
  rfl

/-- The only pending result of a fibre, once it arrives: its value and its flags are written together. -/
theorem drain_writeLong {f : Fibre} (n : Nat) {d : Reg} (v : Word) (fl : BitVec 5) (hp : f.pend = []) (hd : d ≠ 0)
    (hl : isLive f d = true) : drain (writeLong f n d v fl) = putReg (orFlags f fl) d v := by
  rw [writeLong_of_live f n v fl hd hl, unkeep_of_no_pend d hp, drain, List.nil_append, List.foldl_cons, List.foldl_nil,
    arrive_value _ n v fl hd, putReg_of_ne_zero _ v hd, putReg_of_ne_zero _ v hd]
  simp [orFlags, hp]

/-- Settles O36, from what a register write, a discarded and a pending result do to each register. -/
theorem resultRegisters : Obligations.ResultRegisters := by
  unfold Obligations.ResultRegisters
  constructor
  · intro f d r v k
    refine ⟨writeShort_zero f v, regVal_zero f, fun hd => ?_⟩
    have hread : readReg k (writeShort f d v) d = v :=
      (readReg_of_no_pend k (pendOf_writeShort_same f v hd)).trans (regVal_writeShort_same f v hd)
    have hmark : (writeShort f d v).marks.find? (fun m => m.1 == d.toNat) = none := by
      rw [writeShort_marks f v hd, find_tdel_same]
    refine ⟨regVal_writeShort_same f v hd, hread, isLive_writeShort_same f v hd, hmark, fun hr => ?_, ?_⟩
    · have hn : r.toNat ≠ d.toNat := fun e => hr (BitVec.eq_of_toNat_eq e)
      refine ⟨regVal_writeShort_other f v hd hr, pendOf_writeShort_other f v hd hr, isLive_writeShort_other f v hd hr, ?_⟩
      rw [writeShort_marks f v hd, find_tdel_other f.marks hn]
    · rw [writeShort_keeps f d v]
      exact ⟨rfl, rfl, rfl, rfl, rfl, rfl⟩
  · intro f d v fl n hp hd hl
    have hw := writeLong_of_live f n v fl hd hl
    rw [unkeep_of_no_pend d hp, List.nil_append] at hw
    have hpend : (pendOf (writeLong f n d v fl) d).isSome = true := by simp [hw, pendOf]
    refine ⟨by rw [hw]; rfl, by rw [hw], hpend, ?_⟩
    rw [drain_writeLong n v fl hp hd hl]
    refine ⟨regVal_putReg_same _ v hd, ?_, ?_, fun r hr => regVal_putReg_other (orFlags f fl) v hr, ?_⟩
    · rw [putReg_keeps]
      rfl
    · rw [putReg_keeps]
      exact hp
    · rw [putReg_keeps]
      exact ⟨rfl, rfl⟩

end Sys2Proof.Proofs

/-! The engine registers (R205, R333, R347) and the instructions that read and write them, and FMT (R116, R311, R331). -/

namespace Sys2Proof.Proofs

open Sys2Proof Sys2Proof.Machine Sys2Proof.Safety Sys2Proof.Laws

/-! The instructions. -/

/-- How ERD uses its fibre. -/
def erdUse (y : Bool) (gd : Reg) (eng : BitVec 4) (r : BitVec 10) : Use :=
  { plainUse (.erd y gd eng r) y [] gd with ctx := eregCtx eng.toNat r.toNat false }

/-- What ERD does once it has issued. -/
def erdEff (gd : Reg) (eng : BitVec 4) (r : BitVec 10) (t : State) : Eff :=
  match eregOther t eng.toNat r.toNat with
  | some (c, x) => .trap c x
  | none => .done (setLong t gd (eregRead t t.fib eng.toNat r.toNat) 0)

/-- How EWR uses its fibre. -/
def ewrUse (y : Bool) (ga : Reg) (la : Bool) (eng : BitVec 4) (r : BitVec 10) : Use :=
  { plainUse (.ewr y ga la eng r) y [(ga, la)] 0 with ctx := eregCtx eng.toNat r.toNat true }

/-- What EWR of a value does once it has issued. -/
def ewrEff (i : Instr) (eng : BitVec 4) (r : BitVec 10) (t : State) (v : Word) : Eff :=
  match eregCheck t i eng.toNat r.toNat v with
  | some (c, x) => .trap c x
  | none => .done (eregWrite t eng.toNat r.toNat v)

theorem exec_erd (y : Bool) (gd : Reg) (eng : BitVec 4) (r : BitVec 10) (s : State) :
    exec (.erd y gd eng r) s = issue s (erdUse y gd eng r) fun t _ => erdEff gd eng r t := rfl

theorem exec_ewr (y : Bool) (ga : Reg) (la : Bool) (eng : BitVec 4) (r : BitVec 10) (s : State) :
    exec (.ewr y ga la eng r) s = issue s (ewrUse y ga la eng r) fun t v => ewrEff (.ewr y ga la eng r) eng r t (arg v 0) := rfl

theorem exec_fmt (y : Bool) (fa fb fd : BitVec 4) (smode : BitVec 2) (stile : BitVec 6) (fz sat : Bool) (s : State) :
    exec (.fmt y fa fb fd smode stile fz sat) s = execFmt y fa fb fd smode stile fz sat s := rfl

section
variable {s : State} {y : Bool} {gd ga : Reg} {la : Bool} {eng : BitVec 4} {r : BitVec 10} {c : Nat} {v : Word}

/-- ERD of a register that its fibre may read: a long result. -/
theorem exec_erd_of_allowed : let u := erdUse y gd eng r
    Issues s u → eregOther (begun s u) eng.toNat r.toNat = none → exec (.erd y gd eng r) s
      = .next (finished u (setLong (begun s u) gd (eregRead (begun s u) (begun s u).fib eng.toNat r.toNat) 0)) := by
  intro u h hc
  rw [exec_erd]
  refine issue_done h ?_
  rw [erdEff, hc]

theorem exec_erd_of_refused : let u := erdUse y gd eng r
    Issues s u → eregOther (begun s u) eng.toNat r.toNat = some (c, v) →
      exec (.erd y gd eng r) s = .next (raise (found (atReads s y) c) c v) := by
  intro u h hc
  rw [exec_erd]
  refine issue_trap (u := u) h ?_
  rw [erdEff, hc]

/-- EWR whose checks pass: the write. -/
theorem exec_ewr_of_allowed : let u := ewrUse y ga la eng r
    Issues s u → eregCheck (begun s u) (.ewr y ga la eng r) eng.toNat r.toNat (operand s u 0) = none →
      exec (.ewr y ga la eng r) s = .next (finished u (eregWrite (begun s u) eng.toNat r.toNat (operand s u 0))) := by
  intro u h hc
  rw [exec_ewr]
  refine issue_done h ?_
  change ewrEff _ eng r (begun s u) (operand s u 0) = _
  rw [ewrEff, hc]

theorem exec_ewr_of_refused : let u := ewrUse y ga la eng r
    Issues s u → eregCheck (begun s u) (.ewr y ga la eng r) eng.toNat r.toNat (operand s u 0) = some (c, v) →
      exec (.ewr y ga la eng r) s = .next (raise (found (atReads s y) c) c v) := by
  intro u h hc
  rw [exec_ewr]
  refine issue_trap (u := u) h ?_
  change ewrEff _ eng r (begun s u) (operand s u 0) = _
  rw [ewrEff, hc]

end

section
variable {s : State} {y : Bool} {fa fb fd : BitVec 4} {smode : BitVec 2} {stile : BitVec 6} {fz sat : Bool}

/-- FMT of codes that are not reserved loads FPFX, which is then pending (R116, R331). -/
theorem exec_fmt_of_formats (h : Issues s (plainUse (.fmt y fa fb fd smode stile fz sat) y [] 0)) (ha : fa ≠ 15) (hb : fb ≠ 15)
    (hd : fd ≠ 15) : let u := plainUse (.fmt y fa fb fd smode stile fz sat) y [] 0
    exec (.fmt y fa fb fd smode stile fz sat) s = .next (finished u { begun s u with fib := { (begun s u).fib with
      fpfx := wordVal (.fmt y fa fb fd smode stile fz sat) &&& 0xFFFFFC
      pfx := true } }) := by
  rw [exec_fmt, execFmt]
  exact issue_done h (if_neg (not_or.mpr ⟨ha, not_or.mpr ⟨hb, hd⟩⟩))

/-- FMT of a reserved code raises FORMAT (R331). -/
theorem exec_fmt_of_reserved (h : Issues s (plainUse (.fmt y fa fb fd smode stile fz sat) y [] 0)) (hr : fa = 15 ∨ fb = 15 ∨ fd = 15) :
    exec (.fmt y fa fb fd smode stile fz sat) s
      = .next (raise (atReads s y) cFORMAT (wordVal (.fmt y fa fb fd smode stile fz sat))) := by
  have hf : found (atReads s y) cFORMAT = atReads s y := found_of (by decide)
  rw [exec_fmt, execFmt, issue_trap h (if_pos hr)]
  exact congrArg (fun t => Host.Outcome.next (raise t cFORMAT _)) hf

end

/-- An instruction that takes no FPFX leaves pending the one that it has set (R117). -/
theorem finished_pfx_of_not_pfxOk {u : Use} {t : State} (hu : u.pfxOk = false) (ht : t.fib.pfx = true) : (finished u t).fib.pfx = true := by
  simp [finished, stepPc, issued, hu, ht]

/-! Reads. Each register's number is compared as a natural number, before it becomes a word: the kernel would compute with the
widths of words otherwise. -/

theorem b1_mul (b : Bool) (n : Nat) : b1 b * n = if b then n else 0 := by
  cases b
  · exact Nat.zero_mul n
  · exact Nat.one_mul n

/-- A sum made over a list from the left. -/
theorem foldl_add_eq_sum {α : Type} (g : α → Nat) (l : List α) : l.foldl (fun n x => n + g x) 0 = (l.map g).sum := by
  rw [List.sum_eq_foldl, List.foldl_map]

/-- A word's number, as a word. -/
theorem ofNat_toNat_word (w : Word) : BitVec.ofNat 64 w.toNat = w := by rw [BitVec.ofNat_toNat, BitVec.setWidth_eq]

section
variable (s : State) (f : Fibre)

theorem eregRead_cpyStat : eregRead s f 0 0 = cpyStat (coreOf s f.core) := by
  refine Eq.trans ?_ (ofNat_toNat_word _)
  unfold eregRead
  refine congrArg (BitVec.ofNat 64) ?_
  simp only

theorem eregRead_cpySeq : eregRead s f 0 1 = (coreOf s f.core).seq.setWidth 64 := BitVec.ofNat_toNat 64 _

theorem eregRead_cpyDst : eregRead s f 0 2 = BitVec.ofNat 64 (cpyDst (coreOf s f.core)) := by
  unfold eregRead
  refine congrArg (BitVec.ofNat 64) ?_
  simp only

theorem eregRead_mxaSrc : eregRead s f 1 0 = (arrayOf s (clusterOf f.core)).src.setWidth 64 := BitVec.ofNat_toNat 64 _

theorem eregRead_mxaK_idle (h : (arrayOf s (clusterOf f.core)).cmds = []) : eregRead s f 1 1 = 0 := by
  unfold eregRead
  refine congrArg (BitVec.ofNat 64) ?_
  simp only [h]

/-- MXA.K of an array whose oldest command is MMA or MMAS: the rows of its operand B. -/
theorem eregRead_mxaK_mma {m : MCmd} {r : List MCmd} (h : (arrayOf s (clusterOf f.core)).cmds = m :: r) (hm : m.fn ≤ 1) :
    eregRead s f 1 1 = BitVec.ofNat 64 (teRows m.eb % 2 ^ 16) := by
  unfold eregRead
  refine congrArg (BitVec.ofNat 64) ?_
  simp only [h, cmdK, if_pos hm]

theorem eregRead_mxaHold : eregRead s f 1 2 = BitVec.ofNat 64 (mxaHold (arrayOf s (clusterOf f.core))) := by
  unfold eregRead
  refine congrArg (BitVec.ofNat 64) ?_
  simp only

theorem eregRead_idxOpen : eregRead s f 2 0
    = BitVec.ofNat 64 ((s.indexes.filter fun x => x.ten == f.ident.tenant).map fun x => 2 ^ x.num).sum := by
  unfold eregRead
  refine congrArg (BitVec.ofNat 64) ?_
  exact foldl_add_eq_sum _ _

theorem eregRead_msgRseq : eregRead s f 3 1 = (recvOf s (dieOf f.core)).rseq.setWidth 64 := BitVec.ofNat_toNat 64 _

theorem eregRead_smaUse : eregRead s f 4 0 = smaUse s f.ident.tenant := by
  refine Eq.trans ?_ (ofNat_toNat_word _)
  unfold eregRead
  refine congrArg (BitVec.ofNat 64) ?_
  simp only

theorem eregRead_lsecLinkid : eregRead s f 5 0 = (portOf s (ownPort s)).linkid.setWidth 64 := BitVec.ofNat_toNat 64 _

theorem eregRead_lsecStat : eregRead s f 5 3 = lsecStat (portOf s (ownPort s)) := by
  refine Eq.trans ?_ (ofNat_toNat_word _)
  unfold eregRead
  refine congrArg (BitVec.ofNat 64) ?_
  simp only

/-- WLK.STAT: held by a gang, held by the fibre's own, tasks. -/
theorem eregRead_wlkStat : let w := walkerOf s (clusterOf f.core)
    eregRead s f 6 0 = BitVec.ofNat 64 ((if w.gang.isSome then 2 ^ 63 else 0) + (if w.gang.isSome && w.gang == gangKey f then 2 ^ 62 else 0)
      + w.tasks % 2 ^ 32) := by
  unfold eregRead
  refine congrArg (BitVec.ofNat 64) ?_
  simp only [b1_mul]

/-- The engine 6 registers but for its first are bins. -/
theorem eregRead_wlkBin (k : Nat) : eregRead s f 6 (k + 1) = BitVec.ofNat 64 (histBin (walkerOf s (clusterOf f.core)) (k + 1 - 0x100)) := by
  unfold eregRead
  refine congrArg (BitVec.ofNat 64) ?_
  simp only

theorem eregRead_wlkHist (n : Nat) : eregRead s f 6 (0x100 + n) = BitVec.ofNat 64 (histBin (walkerOf s (clusterOf f.core)) n) := by
  have hk : 0xFF + n + 1 = 0x100 + n := by omega
  rw [← hk, eregRead_wlkBin, hk, Nat.add_sub_cancel_left]

theorem eregRead_gwq {n : Nat} (h : n < 16) : eregRead s f 7 n = BitVec.ofNat 64 ((if (gwqOf s n).armed then 2 ^ 63 else 0)
    + (gwqOf s n).owner.toNat * 2 ^ 32 + (gwqOf s n).limit.toNat) := by
  unfold eregRead
  refine congrArg (BitVec.ofNat 64) ?_
  simp only [Nat.mod_eq_of_lt h, if_pos h, b1_mul]

theorem eregRead_gwqNext {n : Nat} (h : n < 16) : eregRead s f 7 (16 + n) = (gwqOf s n).next.setWidth 64 := by
  have hm : (16 + n) % 16 = n := by omega
  have hk : ¬ 16 + n < 16 := by omega
  rw [← BitVec.ofNat_toNat]
  unfold eregRead
  refine congrArg (BitVec.ofNat 64) ?_
  simp only [hm, if_neg hk]

end

/-! Writes. -/

theorem walkerOf_setWalker (s : State) (cl d : Nat) (w : Walker) :
    walkerOf (setWalker s cl w) d = if cl = d then w else walkerOf s d := tget_tset Walker.reset s.walkers cl d w

theorem gwqOf_setGwq (s : State) (q m : Nat) (g : Gwq) : gwqOf (setGwq s q g) m = if q = m then g else gwqOf s m :=
  tget_tset Gwq.reset s.gwqs q m g

/-- A walker with a histogram bin written (R90); a bin of 0 is not listed. -/
def writeBin (w : Walker) (n : Nat) (v : Word) : Walker :=
  { w with hist := if v = 0 then tdel w.hist n else tset w.hist n (v.setWidth 32) }

theorem histBin_writeBin (w : Walker) (n m : Nat) (v : Word) :
    histBin (writeBin w n v) m = if n = m then v.toNat % 2 ^ 32 else histBin w m := by
  unfold histBin writeBin
  by_cases hv : v = 0
  · rw [if_pos hv, tget_tdel]
    split
    · simp [hv]
    · rfl
  · rw [if_neg hv, tget_tset]
    split
    · exact BitVec.toNat_setWidth 32 v
    · rfl

section
variable (s : State) (v : Word)

/-- The engine 6 registers but for its first are bins. -/
theorem eregWrite_wlkBin (k : Nat) : eregWrite s 6 (k + 1) v
    = setWalker s (clusterOf s.fib.core) (writeBin (walkerOf s (clusterOf s.fib.core)) (k + 1 - 0x100) v) := rfl

theorem eregWrite_wlkHist (n : Nat) : eregWrite s 6 (0x100 + n) v
    = setWalker s (clusterOf s.fib.core) (writeBin (walkerOf s (clusterOf s.fib.core)) n v) := by
  have hk : 0xFF + n + 1 = 0x100 + n := by omega
  rw [← hk, eregWrite_wlkBin, hk, Nat.add_sub_cancel_left]

theorem eregWrite_gwq {n : Nat} (h : n < 16) : eregWrite s 7 n v = setGwq s n (if v.getLsbD 63 then
    ⟨true, s.fib.ident.tenant, v.setWidth 32, 0⟩ else { gwqOf s n with
      armed := false
      limit := v.setWidth 32 }) := by
  have hn : ¬ 16 ≤ n := by omega
  simp only [eregWrite, if_neg hn]
  split <;> rfl

/-- The engine registers that no EWR changes (R9, R347): those without a writable field, and the NEXT of each gateway queue. -/
theorem eregWrite_readOnly {eng r : Nat} (h : (eng = 0 ∧ r < 4) ∨ (eng = 1 ∧ (r = 1 ∨ r = 2)) ∨ (eng ∈ [2, 3, 4] ∧ r < 2)
    ∨ (eng = 5 ∧ (r = 1 ∨ r = 3)) ∨ (eng = 6 ∧ r = 0) ∨ (eng = 7 ∧ 16 ≤ r ∧ r < 32)) : eregWrite s eng r v = s := by
  rcases h with ⟨rfl, -⟩ | ⟨rfl, rfl | rfl⟩ | ⟨he, -⟩ | ⟨rfl, rfl | rfl⟩ | ⟨rfl, rfl⟩ | ⟨rfl, hr, -⟩
  · rfl
  · rfl
  · rfl
  · simp only [List.mem_cons, List.not_mem_nil, or_false] at he
    rcases he with rfl | rfl | rfl <;> rfl
  · rfl
  · rfl
  · rfl
  · simp only [eregWrite, if_pos hr]

end

/-! What the registers that are put together of fields show. -/

/-- CPY.DST where the head of the FIFO writes scratchpad: the oldest incomplete such command (R347, log entry 51). -/
theorem cpyDst_head {c : Core} {x : Copy} {r : List Copy} (h : c.fifo = x :: r) (hk : (x.kind == 0 || x.kind == 2) = true) :
    cpyDst c = 2 ^ 63 + x.kind.toNat * 2 ^ 61 + (if x.kind = 0 then x.tile * 2 ^ 55 else x.pslot * 2 ^ 51 + x.poff % 2 ^ 14) := by
  have hf : c.fifo.find? (fun x => x.kind == 0 || x.kind == 2) = some x := by rw [h, List.find?_cons, hk]
  rw [cpyDst, hf]

/-- At a TLOAD (KIND 0) it shows the tile. -/
theorem cpyDst_head_tile {c : Core} {x : Copy} {r : List Copy} (h : c.fifo = x :: r) (hk : x.kind = 0) :
    cpyDst c = 2 ^ 63 + x.tile * 2 ^ 55 := by
  have hn : (0 : BitVec 2).toNat = 0 := rfl
  rw [cpyDst_head h (by rw [hk]; rfl), if_pos hk, hk, hn, Nat.zero_mul, Nat.add_zero]

/-- At a LOAD (KIND 2) it shows the slot and the offset. -/
theorem cpyDst_head_slot {c : Core} {x : Copy} {r : List Copy} (h : c.fifo = x :: r) (hk : x.kind = 2) :
    cpyDst c = 2 ^ 63 + 2 * 2 ^ 61 + x.pslot * 2 ^ 51 + x.poff % 2 ^ 14 := by
  have hn : (2 : BitVec 2).toNat = 2 := rfl
  have hz : ¬ x.kind = 0 := by simp [hk]
  rw [cpyDst_head h (by rw [hk]; rfl), if_neg hz, hk, hn, ← Nat.add_assoc]

theorem cpyDst_none {c : Core} (h : ∀ x ∈ c.fifo, x.kind ≠ 0 ∧ x.kind ≠ 2) : cpyDst c = 0 := by
  have hf : c.fifo.find? (fun x => x.kind == 0 || x.kind == 2) = none := by
    rw [List.find?_eq_none]
    intro x hx
    obtain ⟨h0, h2⟩ := h x hx
    rw [beq_eq_false_iff_ne.mpr h0, beq_eq_false_iff_ne.mpr h2]
    exact Bool.false_ne_true
  rw [cpyDst, hf]

/-- LSEC.STAT, bit by bit (R205). -/
theorem lsecStat_eq (p : Port) : lsecStat p = BitVec.ofNat 64 ((if p.turning then 1 else 0) + (if (rxIdle p).isSome then 2 else 0)
    + (if (txIdle p).isSome && !p.turning then 4 else 0) + (if p.rxs then 8 else 0) + (if p.txs then 16 else 0)
    + (if p.count = 2 ^ 32 then 32 else 0) + (if p.limit ≤ p.count then 64 else 0) + p.width.toNat * 128) := by
  simp only [lsecStat, b1_mul, beq_iff_eq, decide_eq_true_eq]
  rfl

theorem mxaHold_none {a : MArray} (h : a.lease = none) : mxaHold a = 0 := by
  rw [mxaHold, h]

theorem mxaHold_some {a : MArray} {l : Lease} (h : a.lease = some l) : mxaHold a = 2 ^ 63 + l.core := by
  rw [mxaHold, h]

/-- Settles O38 by its parts: how ERD, EWR and FMT end, what each engine register reads as, and what a write changes in each. -/
theorem engineRegistersAndPrefix : Obligations.EngineRegistersAndPrefix := by
  unfold Obligations.EngineRegistersAndPrefix
  refine ⟨?erd, ?ewr, ?fmt, ?reads, ?writes⟩
  case erd =>
    intro s y gd eng r i u h
    exact ⟨exec_erd_of_allowed h, fun c v => exec_erd_of_refused h⟩
  case ewr =>
    intro s y ga la eng r i u h
    exact ⟨exec_ewr_of_allowed h, fun c v => exec_ewr_of_refused h⟩
  case fmt =>
    intro s y fa fb fd smode stile fz sat i u h
    exact ⟨fun ha hb hd => ⟨exec_fmt_of_formats h ha hb hd, finished_pfx_of_not_pfxOk rfl rfl⟩, exec_fmt_of_reserved h⟩
  case reads =>
    intro s f c a p w
    refine ⟨eregRead_cpyStat s f, eregRead_cpySeq s f, ?_, ?_, rfl, eregRead_mxaSrc s f, eregRead_mxaK_idle s f,
      fun m r => eregRead_mxaK_mma s f, ?_, ?_, eregRead_idxOpen s f, rfl, rfl, eregRead_msgRseq s f, eregRead_smaUse s f, rfl,
      eregRead_lsecLinkid s f, rfl, rfl, ?_, eregRead_wlkStat s f, fun n _ => eregRead_wlkHist s f n,
      fun n hn => ⟨eregRead_gwq s f hn, eregRead_gwqNext s f hn⟩⟩
    · intro h
      exact (eregRead_cpyDst s f).trans (congrArg (BitVec.ofNat 64) (cpyDst_none h))
    · intro x r h
      exact ⟨fun hk => congrArg (BitVec.ofNat 64) (cpyDst_head_tile h hk),
        fun hk => congrArg (BitVec.ofNat 64) (cpyDst_head_slot h hk)⟩
    · intro h
      exact (eregRead_mxaHold s f).trans (congrArg (BitVec.ofNat 64) (mxaHold_none h))
    · intro l h
      exact (eregRead_mxaHold s f).trans (congrArg (BitVec.ofNat 64) (mxaHold_some h))
    · rw [eregRead_lsecStat, lsecStat_eq]
  case writes =>
    intro s v cl p
    refine ⟨rfl, rfl, rfl, fun n _ => ?hist, fun n hn => ?gwq, fun eng r => eregWrite_readOnly s v⟩
    case hist =>
      have hw : ∀ d, walkerOf (eregWrite s 6 (0x100 + n) v) d
          = if cl = d then writeBin (walkerOf s cl) n v else walkerOf s d := fun d => by
        rw [eregWrite_wlkHist]
        exact walkerOf_setWalker s cl d _
      have hcl := (hw cl).trans (if_pos rfl)
      refine ⟨by rw [eregWrite_wlkHist]; rfl, ?_, fun m hm => ?_, ?_, fun d hd => (hw d).trans (if_neg hd.symm)⟩
      · rw [hcl, histBin_writeBin, if_pos rfl]
      · rw [hcl, histBin_writeBin, if_neg hm.symm]
      · rw [hcl]
        rfl
    case gwq =>
      have hq := gwqOf_setGwq s n
      rw [eregWrite_gwq s v hn]
      refine ⟨rfl, fun m hm => (hq m _).trans (if_neg hm.symm), fun hv => ?_, fun hv => ?_⟩
      · rw [hq, if_pos rfl, if_pos hv]
      · rw [hq, if_pos rfl, hv]
        rfl

end Sys2Proof.Proofs

/-! What the completions, answers and packets of a loss leave alone: the ports, and whether router die B is lost (R299, R438). -/

namespace Sys2Proof.Proofs

open Sys2Proof Sys2Proof.Machine Sys2Proof.Safety Sys2Proof.Laws

/-- Events that answer the same next state. -/
theorem next_eq {s t : State} (h : s = t) : (Host.Outcome.next s : Out) = .next t := congrArg _ h

/-- Only what the memory system holds differs. -/
def MemOnly (s t : State) : Prop := t = { s with ms := t.ms }

theorem MemOnly.refl (s : State) : MemOnly s s := rfl

theorem MemOnly.trans {s t u : State} (h : MemOnly s t) (k : MemOnly t u) : MemOnly s u := by
  unfold MemOnly at h k ⊢
  rw [k, h]

theorem MemOnly.foldl {α : Type} {f : State → α → State} (hf : ∀ s x, MemOnly s (f s x)) (l : List α) (s : State) :
    MemOnly s (l.foldl f s) := by
  induction l generalizing s with
  | nil => exact .refl s
  | cons x l ih => exact (hf s x).trans (ih _)

theorem memOnly_setMs (s : State) (m : MemSys) : MemOnly s { s with ms := m } := rfl

theorem memOnly_scStoreTs (s : State) (k c : Nat) : MemOnly s (scStoreTs s k c).2 := rfl

theorem memOnly_storeBack (s : State) (clk : Nat → Nat) (out : List CopyByte) : MemOnly s (storeBack s clk out) :=
  (MemOnly.foldl (f := fun t (k : Nat × Nat) => (scStoreTs t k.1 k.2).2) (fun t k => memOnly_scStoreTs t k.1 k.2) _ s).trans
    (memOnly_setMs _ _)

theorem memOnly_pushL1 (s : State) (core : Nat) (p : Nat → Bool) : MemOnly s (pushL1 s core p) := by
  unfold pushL1
  exact (memOnly_setMs s _).trans (memOnly_storeBack _ _ _)

theorem memOnly_pushL2 (s : State) (die : Nat) (p : Nat → Bool) : MemOnly s (pushL2 s die p) := by
  unfold pushL2
  exact (memOnly_setMs s _).trans (memOnly_storeBack _ _ _)

/-- A release writes copies back and does nothing else (R134). -/
theorem memOnly_releaseCopies (s : State) (core level : Nat) : MemOnly s (releaseCopies s core level) := by
  unfold releaseCopies
  split
  · exact .refl s
  · dsimp only
    split
    · exact (memOnly_pushL1 s core _).trans (memOnly_pushL2 _ _ _)
    · exact memOnly_pushL1 s core _

/-- The ports, and whether router die B is lost, are the same in both. -/
structure SameLinks (s t : State) : Prop where
  ports : t.ports = s.ports
  dieB : t.dev.dieBLost = s.dev.dieBLost

namespace SameLinks

theorem refl (s : State) : SameLinks s s := ⟨rfl, rfl⟩

theorem trans {s t u : State} (h : SameLinks s t) (k : SameLinks t u) : SameLinks s u :=
  ⟨k.ports.trans h.ports, k.dieB.trans h.dieB⟩

theorem foldl {α : Type} {f : State → α → State} (hf : ∀ s x, SameLinks s (f s x)) (l : List α) (s : State) :
    SameLinks s (l.foldl f s) := by
  induction l generalizing s with
  | nil => exact refl s
  | cons x l ih => exact (hf s x).trans (ih _)

end SameLinks

theorem MemOnly.sameLinks {s t : State} (h : MemOnly s t) : SameLinks s t := by
  rw [h]
  exact ⟨rfl, rfl⟩

theorem portOf_of_sameLinks {s t : State} (h : SameLinks s t) (f : Nat) : portOf t f = portOf s f := by
  rw [portOf, h.ports, portOf]

theorem sameLinks_setPair (s : State) (k : Nat) (p : Pair) : SameLinks s (setPair s k p) := ⟨rfl, rfl⟩

theorem sameLinks_countDrop (s : State) : SameLinks s (countDrop s) := ⟨rfl, rfl⟩

theorem sameLinks_raiseClock (s : State) (u c : Nat) : SameLinks s (raiseClock s u c) := by
  unfold raiseClock
  split
  · exact ⟨rfl, rfl⟩
  · exact .refl s

theorem sameLinks_exchange (s : State) (a b : Nat) : SameLinks s (exchange s a b) := by
  unfold exchange
  split
  · exact .refl s
  · exact (sameLinks_raiseClock s _ _).trans (sameLinks_raiseClock _ _ _)

theorem sameLinks_modFibre (s : State) (n : Nat) (g : Fibre → Fibre) : SameLinks s (modFibre s n g) :=
  ⟨by unfold modFibre; split <;> rfl, by unfold modFibre; split <;> rfl⟩

theorem sameLinks_complete (s : State) (n : Nat) (r : Option Word) : SameLinks s (complete s n r) :=
  SameLinks.trans (t := (freshId s).2) ⟨rfl, rfl⟩ (sameLinks_modFibre _ _ _)

theorem sameLinks_sendPacket (s : State) (p : Packet) : SameLinks s (sendPacket s p) := by
  unfold sendPacket
  split
  · split
    · exact sameLinks_countDrop s
    · exact ⟨rfl, rfl⟩
  · dsimp only
    split
    · exact ⟨rfl, rfl⟩
    · split
      · exact ⟨rfl, rfl⟩
      · exact sameLinks_setPair s _ _

theorem sameLinks_countWindow (s : State) (ten : BitVec 4) (c : Nat) : SameLinks s (countWindow s ten c) := by
  unfold countWindow
  split
  · exact ⟨rfl, rfl⟩
  · exact .refl s

theorem sameLinks_answer (s : State) (p : Packet) (kind status : Nat) (area data : List Byte) :
    SameLinks s (answer s p kind status area data) := by
  refine (sameLinks_countWindow s p.ten (if status = 4 then cWINDOW else 0)).trans ?_
  unfold answer
  dsimp only
  generalize countWindow s p.ten _ = t
  split
  · exact sameLinks_countDrop _
  · exact (sameLinks_setPair _ _ _).trans (sameLinks_sendPacket _ _)

theorem sameLinks_endLeases (s : State) (core : Nat) : SameLinks s (endLeases s core) := by
  unfold endLeases
  dsimp only
  split
  · exact .refl s
  · exact sameLinks_raiseClock _ _ _

theorem sameLinks_acquireAt (s : State) (ten : BitVec 4) (core : Nat) (sc : BitVec 4) : SameLinks s (acquireAt s ten core sc) := by
  have hc : SameLinks s (acquireCopies s core (scopeLevel s ten core sc)) := by
    unfold acquireCopies
    split
    · exact .refl s
    · exact ⟨rfl, rfl⟩
  unfold acquireAt acquireLv
  dsimp only
  split
  · exact hc.trans (sameLinks_endLeases _ _)
  · exact hc

theorem sameLinks_wakeWatch (s : State) (w : Watch) (status : Word) : SameLinks s (wakeWatch s w status) := by
  let t := dropReq { s with watches := s.watches.filter fun x => x.req != w.req } w.req
  have ha : SameLinks s (if status = 0 then acquireAt t w.ten w.core (waitScope t w.core w.pa) else t) := by
    split
    · exact SameLinks.trans (t := t) ⟨rfl, rfl⟩ (sameLinks_acquireAt _ _ _ _)
    · exact ⟨rfl, rfl⟩
  unfold wakeWatch
  cases w.rem with
  | some p => exact ha.trans (sameLinks_answer _ _ _ _ _ _)
  | none => exact ha.trans (sameLinks_complete _ _ _)

theorem sameLinks_wakeLost (s : State) (p : Watch → Bool) : SameLinks s (wakeLost s p) :=
  .foldl (fun s w => sameLinks_wakeWatch s w 3) _ s

theorem sameLinks_sendWord (s : State) (o : FarOwner) (core : Nat) (ten : BitVec 4) (pa : Nat) (va v : Word) (scope : BitVec 4) :
    SameLinks s (sendWord s o core ten pa va v scope) := by
  unfold sendWord
  split
  · exact sameLinks_countDrop s
  · refine SameLinks.trans ?_ (sameLinks_sendPacket _ _)
    exact ⟨rfl, rfl⟩

theorem sameLinks_putFull (s : State) (core : Nat) (ten : BitVec 4) (mon : Bool) (scope : BitVec 4) (pa v : Nat) :
    SameLinks s (putFull s core ten mon scope pa v) := by
  unfold putFull
  split
  · exact .refl s
  · split
    · exact sameLinks_sendWord _ _ _ _ _ _ _ _
    · split
      · exact (sameLinks_exchange s core (spadCore pa)).trans ⟨rfl, rfl⟩
      · exact .refl s

theorem sameLinks_completeWord (s : State) (o : Outst) (v : Nat) : SameLinks s (completeWord s o v) := by
  unfold completeWord
  split
  · exact (memOnly_releaseCopies s _ _).sameLinks.trans (sameLinks_putFull _ _ _ _ _ _ _)
  · exact .refl s

/-- The completions of lost messages reach no port (R438). -/
theorem sameLinks_lostUnexpected (s : State) (die : Nat) : SameLinks s (lostUnexpected s die) := by
  refine SameLinks.trans (t := setRecv s die { recvOf s die with unexp := [] }) ⟨rfl, rfl⟩ (.foldl (fun t p => ?_) _ _)
  dsimp only
  split
  · split
    · exact (sameLinks_completeWord t _ _).trans ⟨rfl, rfl⟩
    · exact .refl t
  · exact sameLinks_sendPacket t _

/-! Links taken down (R436). -/

/-- A port that is down and whose link is held (R436). -/
def linkOut (s : State) (f : Nat) : Prop := (portOf s f).up = false ∧ (portOf s f).held = true

theorem linkOut_of_sameLinks {s t : State} (h : SameLinks s t) {f : Nat} (hf : linkOut s f) : linkOut t f := by
  rw [linkOut, portOf_of_sameLinks h]
  exact hf

theorem portOf_retireLink (s : State) (g f : Nat) :
    portOf (retireLink s g) f = if g = f then { portDown (portOf s g) with held := true } else portOf s f :=
  tget_tset _ _ _ _ _

theorem linkOut_retireLink_same (s : State) (f : Nat) : linkOut (retireLink s f) f := by
  rw [linkOut, portOf_retireLink, if_pos rfl]
  exact ⟨rfl, rfl⟩

theorem linkOut_retireLink_of_linkOut {s : State} {f : Nat} (g : Nat) (h : linkOut s f) : linkOut (retireLink s g) f := by
  by_cases hg : g = f
  · rw [hg]
    exact linkOut_retireLink_same s f
  · rw [linkOut, portOf_retireLink, if_neg hg]
    exact h

theorem linkOut_foldl_retireLink {f : Nat} (fs : List Nat) (s : State) (h : f ∈ fs ∨ linkOut s f) : linkOut (fs.foldl retireLink s) f := by
  induction fs generalizing s with
  | nil => exact h.resolve_left List.not_mem_nil
  | cons g fs ih =>
    refine ih (retireLink s g) ?_
    rcases h with h | h
    · rcases List.mem_cons.mp h with rfl | h
      · exact .inr (linkOut_retireLink_same s f)
      · exact .inl h
    · exact .inr (linkOut_retireLink_of_linkOut g h)

theorem dieBLost_foldl_retireLink (fs : List Nat) (s : State) : (fs.foldl retireLink s).dev.dieBLost = s.dev.dieBLost := by
  induction fs generalizing s with
  | nil => rfl
  | cons g fs ih => exact ih (retireLink s g)

theorem loseDieB_of_lost {s : State} (h : s.dev.dieBLost = true) : loseDieB s = s := if_pos h

/-- After the loss of router die B it stays lost, and its seven ports are down (R438). -/
theorem loseDieB_of_present {s : State} (h : s.dev.dieBLost = false) :
    (loseDieB s).dev.dieBLost = true ∧ ∀ f, 7 ≤ f → f < 14 → linkOut (loseDieB s) f := by
  let ports := [7, 8, 9, 10, 11, 12, 13]
  let lost : State := { s with
    dev := { s.dev with dieBLost := true }
    allocs := s.allocs.map fun a => if a.die == 1 && !a.mir then { a with lost := true } else a }
  let woken := wakeLost lost fun w => regionOf w.pa == 2 && nf w.pa 29 1 == 1
  have hb : loseDieB s = lostUnexpected (lostUnexpected (ports.foldl retireLink woken) 2) 3 := if_neg (by simp [h])
  have hs : SameLinks (ports.foldl retireLink woken) (loseDieB s) := by
    rw [hb]
    exact (sameLinks_lostUnexpected _ 2).trans (sameLinks_lostUnexpected _ 3)
  have hw : woken.dev.dieBLost = true := (sameLinks_wakeLost lost _).dieB
  refine ⟨hs.dieB.trans ((dieBLost_foldl_retireLink ports woken).trans hw), fun f h7 h14 => linkOut_of_sameLinks hs ?_⟩
  have hf : f ∈ ports := by
    simp only [ports, List.mem_cons, List.not_mem_nil, or_false]
    omega
  exact linkOut_foldl_retireLink ports woken (.inl hf)

/-! Faults (R421-R423). -/

theorem faultEvent_of_retired {s : State} {u : FaultUnit} (a : Option Nat) (h : isRetired s u = true) : faultEvent s u a = s := if_pos h

/-- A corrected error of a slice is counted (R423). -/
theorem faultEvent_slice_corrected {s : State} {d k : Nat} (h : isRetired s (.slice d k) = false)
    (hc : (countFault s (.slice d k) 1).2 = false) : faultEvent s (.slice d k) none = (countFault s (.slice d k) 1).1 := by
  have hn : ¬ isRetired s (.slice d k) = true := by simp [h]
  refine (if_neg hn).trans ?_
  exact if_neg (by simp [hc])

/-- An uncorrectable error at a link that is up stomps the packet being sent (R433). -/
theorem faultEvent_link_uncorrected {s : State} {f : Nat} (a : Nat) (h : (portOf s f).up = true) :
    faultEvent s (.link f) (some a) = setPort s f (stompPort (portOf s f)) := by
  have hn : ¬ isRetired s (.link f) = true := by simp [isRetired, h]
  exact if_neg hn

section
variable {s : State} {n a : Nat}

/-- An uncorrectable error of a core counts as eight, and retires it at its limit (R423, R425). -/
def countedAtCore (s : State) (n : Nat) : State :=
  let x := countFault s (.core n) 8
  if x.2 then retireCore x.1 n else x.1

/-- What an uncorrectable error leaves in the memory system: a poisoned word, or the lines of a lost entry (R421, R133). -/
def errorAtCore (s : State) (n a : Nat) : State :=
  if a < 2 ^ 56 then { s with ms := { s.ms with poison := sAdd s.ms.poison (a / 8) } }
  else if 2 ^ 57 ≤ a then entryLost s (cacheOfUnit (.core n)) (a - 2 ^ 57) else s

theorem faultEvent_core_uncorrected (h : isRetired s (.core n) = false) : faultEvent s (.core n) (some a)
    = if 2 ^ 56 ≤ a ∧ a < 2 ^ 57 then retireCore (errorAtCore s n a) n else countedAtCore (errorAtCore s n a) n := by
  have hn : ¬ isRetired s (.core n) = true := by simp [h]
  exact if_neg hn

/-- A poisoned word of a core is counted. -/
theorem faultEvent_core_word (h : isRetired s (.core n) = false) (ha : a < 2 ^ 56) :
    faultEvent s (.core n) (some a) = countedAtCore { s with ms := { s.ms with poison := sAdd s.ms.poison (a / 8) } } n := by
  rw [faultEvent_core_uncorrected h, if_neg (by omega), errorAtCore, if_pos ha]

/-- An error in a register, TLB or tile table entry is a lasting fault at once (R421). -/
theorem faultEvent_core_lasting (h : isRetired s (.core n) = false) (hl : 2 ^ 56 ≤ a) (hu : a < 2 ^ 57) :
    faultEvent s (.core n) (some a) = retireCore s n := by
  rw [faultEvent_core_uncorrected h, if_pos ⟨hl, hu⟩, errorAtCore, if_neg (by omega), if_neg (by omega)]

/-- An error in a tag or directory entry: the lines that it covers are lost, and it is counted (R421, R133). -/
theorem faultEvent_core_entry (h : isRetired s (.core n) = false) (ha : 2 ^ 57 ≤ a) :
    faultEvent s (.core n) (some a) = countedAtCore (entryLost s (cacheOfUnit (.core n)) (a - 2 ^ 57)) n := by
  rw [faultEvent_core_uncorrected h, if_neg (by omega), errorAtCore, if_neg (by omega), if_pos ha]

end

/-! Reset (R233). -/

/-- A byte of a memory from which the bytes outside a range have been removed. -/
theorem mget_filter (m : List Host.Cell) (p : Nat → Bool) (a : Nat) : mget (m.filter fun c => p c.1) a = if p a then mget m a else 0 := by
  induction m with
  | nil => simp [mget]
  | cons c m ih =>
    obtain ⟨k, v⟩ := c
    by_cases hk : k = a
    · by_cases hp : p a = true
      · simp [mget, hk, hp]
      · rw [List.filter_cons, if_neg (by rwa [hk]), ih, if_neg hp, if_neg hp]
    · by_cases hp : p k = true
      · rw [List.filter_cons, if_pos hp, mget, if_neg hk, ih, mget, if_neg hk]
      · rw [List.filter_cons, if_neg hp, ih, mget, if_neg hk]

/-- A reset keeps pooled memory and clears the rest (R233). -/
theorem mget_resetModule (s : State) (a : Nat) : mget (resetModule s).ms.mem a = if a < 2 ^ 46 then mget s.ms.mem a else 0 := by
  refine (mget_filter s.ms.mem isPooled a).trans ?_
  simp [isPooled]

/-! The device registers (R234-R243, R440, R441). -/

theorem or_two_pow_17 (e : Nat) {l : Nat} (h : l < 2 ^ 17) : (l + e * 2 ^ 32) ||| 2 ^ 17 = l + 2 ^ 17 + e * 2 ^ 32 := by
  have hlow : l ||| 2 ^ 17 = 2 ^ 17 * 1 + l := by rw [Nat.two_pow_add_eq_or_of_lt h, Nat.or_comm, Nat.mul_one]
  calc (l + e * 2 ^ 32) ||| 2 ^ 17
    _ = (2 ^ 32 * e ||| l) ||| 2 ^ 17 := by rw [← Nat.two_pow_add_eq_or_of_lt (by omega), Nat.add_comm, Nat.mul_comm]
    _ = 2 ^ 32 * e ||| (2 ^ 17 * 1 + l) := by rw [Nat.or_assoc, hlow]
    _ = l + 2 ^ 17 + e * 2 ^ 32 := by
      rw [← Nat.two_pow_add_eq_or_of_lt (by omega)]
      omega

/-- MCTL before GO, with a 1 written to GO (R238). -/
theorem mctl_or_go {d : Dev} (hg : d.go = false) (hu : d.lease.toNat ≤ 65536) :
    (BitVec.ofNat 64 (mctlWord d) ||| 0x20000).toNat = d.lease.toNat + 2 ^ 17 + d.etype.toNat * 2 ^ 32 := by
  have he : d.etype.toNat < 2 ^ 16 := d.etype.isLt
  have hm : mctlWord d = d.lease.toNat + d.etype.toNat * 2 ^ 32 := by
    rw [mctlWord, hg, b1, if_neg (by decide)]
    omega
  have hone : (0x20000 : Word).toNat = 2 ^ 17 := by decide
  rw [BitVec.toNat_or, hm, hone, BitVec.toNat_ofNat, Nat.mod_eq_of_lt (by omega)]
  exact or_two_pow_17 _ (by omega)

/-- MCTL with its etype and lease fields as a word has them (R238). -/
def mctlFields (s : State) (v : Nat) : State :=
  { s with dev := { s.dev with etype := BitVec.ofNat 16 (nf v 32 16), lease := BitVec.ofNat 17 v } }

/-- A write to MCTL with device monitor rights, its fields in range (R238). -/
theorem devWriteReg_mctl (s : State) {w : Word} (ones : Word)
    (h : ¬ (nf w.toNat 48 16 ≠ 0 ∨ nf w.toNat 18 14 ≠ 0 ∨ w.toNat % 2 ^ 17 < 16 ∨ w.toNat % 2 ^ 17 > 65536)) :
    devWriteReg s true 0 w ones = if nb w.toNat 17 then startBoot (mctlFields s w.toNat) else mctlFields s w.toNat := by
  have hd : ¬ denied true (devReg s 0) w = true := Bool.false_ne_true
  rw [devWriteReg, if_pos rfl, if_neg h, if_neg hd]
  rfl

/-- MCTL.GO starts the boot fibre, when the fields written back with it are in range (R234, R238). -/
theorem writeGo_of_lease {s : State} (hg : s.dev.go = false) (hl : 16 ≤ s.dev.lease.toNat) (hu : s.dev.lease.toNat ≤ 65536) :
    writeGo s = startBoot s := by
  have he : s.dev.etype.toNat < 2 ^ 16 := s.dev.etype.isLt
  have hv := mctl_or_go hg hu
  rw [writeGo, devWriteReg_mctl s _ (by rw [hv, nf, nf]; omega), hv]
  have hgo : nb (s.dev.lease.toNat + 2 ^ 17 + s.dev.etype.toNat * 2 ^ 32) 17 = true := by
    rw [nb, beq_iff_eq]
    omega
  have het : BitVec.ofNat 16 (nf (s.dev.lease.toNat + 2 ^ 17 + s.dev.etype.toNat * 2 ^ 32) 32 16) = s.dev.etype := by
    apply BitVec.eq_of_toNat_eq
    rw [BitVec.toNat_ofNat, nf]
    omega
  have hle : BitVec.ofNat 17 (s.dev.lease.toNat + 2 ^ 17 + s.dev.etype.toNat * 2 ^ 32) = s.dev.lease := by
    apply BitVec.eq_of_toNat_eq
    rw [BitVec.toNat_ofNat]
    omega
  rw [if_pos hgo, mctlFields, het, hle]

theorem clearPorten_of_set {s : State} {f : Nat} (hf : f < 14) (h : s.dev.porten.getLsbD f = true) :
    clearPorten s f = disablePort s f := if_pos ⟨hf, h⟩

theorem setPorten_of_lt {s : State} {f : Nat} (hf : f < 14) : setPorten s f = enablePort s f := if_pos hf

theorem enablePort_of_disabled {s : State} {f : Nat} (h : (portOf s f).role = 2) : enablePort s f = setPort
    { s with dev := { s.dev with porten := s.dev.porten ||| BitVec.ofNat 14 (2 ^ f) } } f { portOf s f with
      role := 1
      held := false } := if_pos h

/-- A port whose link is retired is brought up (R436). -/
theorem enablePort_of_held {s : State} {f : Nat} (h2 : (portOf s f).role ≠ 2) (h3 : (portOf s f).role ≠ 3)
    (hh : (portOf s f).held = true) : enablePort s f = setPort s f { portOf s f with held := false } := by
  have hc : ((portOf s f).held && (portOf s f).role != 3) = true := by simp [hh, h3]
  exact (if_neg h2).trans (if_pos hc)

theorem takeRole_of_waiting {s : State} {f : Nat} (hr : (portOf s f).role = 1)
    (hg : ∀ x ∈ slotHolders s (coreOfPort f), x.ident.kind = .gateway) (ht : (coreOf s (coreOfPort f)).taskq = []) :
    takeRole s f = setPort s f { portOf s f with role := 0 } := by
  refine if_pos ⟨hr, ?_, ?_⟩
  · simpa using hg
  · rw [ht]
    rfl

theorem gatewayGo_of_valid {s : State} {f : Nat} {v : Word} (hv : v ≠ 0) (hp : sHas s.dev.startPending f = false)
    (hr : (portOf s f).role < 2) (hm : (mailWord s (0x100 + 32 * f + 16)).toNat < 16) :
    let t := setMail s (0x100 + 32 * f + 24) v
    gatewayGo s f v = { t with dev := { t.dev with startPending := sAdd t.dev.startPending f } } := by
  have h1 : ¬ (v = 0 ∨ sHas s.dev.startPending f = true) := not_or.mpr ⟨hv, by simp [hp]⟩
  have h2 : ¬ ((portOf s f).role ≥ 2 ∨ ¬ (mailWord s (0x100 + 32 * f + 16)).toNat < 16) := by omega
  exact (if_neg h1).trans (if_neg h2)

/-- Settles O57, event by event. -/
theorem deviceEvents : Obligations.DeviceEvents := by
  unfold Obligations.DeviceEvents
  refine ⟨?retired, ?slice, ?core, ?link, ?dieB, fun s => rfl, ?reset, fun s => ⟨rfl, rfl⟩, ?go, ?ports, fun s ten => rfl, ?refused, ?write⟩
  case retired =>
    intro s u a h
    exact next_eq (faultEvent_of_retired a h)
  case slice =>
    intro s d k h hc
    exact next_eq (faultEvent_slice_corrected h hc)
  case core =>
    intro s n a h
    exact ⟨fun ha => next_eq (faultEvent_core_word h ha),
      fun hl hu => next_eq (faultEvent_core_lasting h hl hu),
      fun ha => next_eq (faultEvent_core_entry h ha)⟩
  case link =>
    intro s f a h
    exact next_eq (faultEvent_link_uncorrected a h)
  case dieB =>
    intro s
    refine ⟨fun h => next_eq (loseDieB_of_lost h), loseDieB s, rfl, ?_, ?_⟩
    · by_cases h : s.dev.dieBLost = true
      · rwa [loseDieB_of_lost h]
      · exact (loseDieB_of_present (eq_false_of_ne_true h)).1
    · exact fun f h7 h14 h => (loseDieB_of_present h).2 f h7 h14
  case reset =>
    intro s i hi
    have he : exec i s = .next (resetModule s) := by
      rcases hi with rfl | rfl
      · rfl
      · rfl
    refine ⟨resetModule s, he, rfl, rfl, rfl, rfl, rfl, rfl, rfl, rfl, rfl, rfl, rfl, fun a ha => ?_, fun a ha => ?_⟩
    · rw [mget_resetModule, if_pos ha]
    · rw [mget_resetModule, if_neg (by omega)]
  case go =>
    intro s hg hl hu
    refine next_eq ((writeGo_of_lease hg hl hu).trans ?_)
    exact if_neg (by simp [hg])
  case ports =>
    intro s f hf
    refine ⟨fun h => ?_, fun _ h => ?_, fun h2 h3 hh => ?_, fun hr hg ht => ?_, fun v hv hp hr hm => ?_, fun hp hr hm => ?_⟩
    · exact next_eq (clearPorten_of_set hf h)
    · exact next_eq ((setPorten_of_lt hf).trans (enablePort_of_disabled h))
    · exact next_eq ((setPorten_of_lt hf).trans (enablePort_of_held h2 h3 hh))
    · exact next_eq (takeRole_of_waiting hr hg ht)
    · exact next_eq ((if_pos hf).trans (gatewayGo_of_valid hv hp hr hm))
    · exact next_eq (if_pos ⟨hp, hr, hm⟩)
  case refused =>
    intro s host off n v h
    exact next_eq (if_pos h)
  case write =>
    intro s host off n v hn hw ho
    exact next_eq (if_neg (by omega))

end Sys2Proof.Proofs

/-! The nodes of a walk (R88-R90). -/

namespace Sys2Proof.Proofs

open Sys2Proof Sys2Proof.Machine Sys2Proof.Safety Sys2Proof.Laws

section
variable {s : State} {cl node : Nat} {x : Node}

/-- A node of a walk that goes on, with an activation that waits. -/
structure NodeReady (s : State) (cl node : Nat) (x : Node) : Prop where
  graph : (walkerOf s cl).graph[node]? = some x
  gang : (walkerOf s cl).gang ≠ none
  ended : (walkerOf s cl).ended = false
  ready : node ∈ (walkerOf s cl).ready

/-- The guard of a node's run, false where the node is ready. -/
theorem NodeReady.not_refused {k : Nat} (h : NodeReady s cl node x) (hk : x.kind = k) :
    ¬ (x.kind ≠ k ∨ (walkerOf s cl).gang = none ∨ (walkerOf s cl).ended = true
      ∨ ((walkerOf s cl).ready.any fun j => j == node) = false) := by
  have hr : ((walkerOf s cl).ready.any fun j => j == node) = true := List.any_eq_true.mpr ⟨node, h.ready, beq_self_eq_true node⟩
  simp [hk, h.gang, h.ended, hr]

theorem nodeRunning_tset (w : Walker) (node n : Nat) : nodeRunning { w with placed := tset w.placed node n } node = true := by
  refine List.any_eq_true.mpr ⟨(node, n), ?_, beq_self_eq_true node⟩
  change (node, n) ∈ tset w.placed node n
  induction w.placed with
  | nil => exact List.mem_singleton.mpr rfl
  | cons c t ih =>
    unfold tset
    split
    · exact List.mem_cons_self
    · split
      · exact List.mem_cons_self
      · exact List.mem_cons_of_mem _ ih

theorem NodeReady.not_taskRefused (h : NodeReady s cl node x) (hk : x.kind = 0) :
    ¬ (x.kind ≠ 0 ∨ (walkerOf s cl).gang = none ∨ (walkerOf s cl).ended = true) := by
  simp [hk, h.gang, h.ended]

theorem NodeReady.starts (h : NodeReady s cl node x) (hr : nodeRunning (walkerOf s cl) node = false) :
    ((walkerOf s cl).ready.any (fun k => k == node) && !nodeRunning (walkerOf s cl) node) = true := by
  have ha : ((walkerOf s cl).ready.any fun k => k == node) = true := List.any_eq_true.mpr ⟨node, h.ready, beq_self_eq_true node⟩
  rw [hr, ha]
  rfl

/-- A task node whose count is 0 completes at once (R88). -/
theorem taskNode_of_count_zero (h : NodeReady s cl node x) (hk : x.kind = 0) (hr : nodeRunning (walkerOf s cl) node = false)
    (hn : nf x.s.toNat 0 32 = 0) : taskNode s cl node
      = settleWalk (setWalker s cl (startNode (startNode (takeReady (walkerOf s cl) node) x.next) x.alt)) cl := by
  simp only [taskNode, h.graph, if_neg (h.not_taskRefused hk), h.starts hr, hn, beq_self_eq_true, Bool.and_self, if_true]

/-- A task node begins to place its tasks (R88). -/
theorem taskNode_of_start (h : NodeReady s cl node x) (hk : x.kind = 0) (hr : nodeRunning (walkerOf s cl) node = false)
    (hn : nf x.s.toNat 0 32 ≠ 0) : let w := walkerOf s cl
    taskNode s cl node = settleWalk (placeTasks (nf x.s.toNat 0 32)
      (setWalker s cl { takeReady w node with placed := tset w.placed node 0 }) cl node x) cl := by
  have hz : (nf x.s.toNat 0 32 == 0) = false := beq_eq_false_iff_ne.mpr hn
  have hp : nodeRunning { takeReady (walkerOf s cl) node with placed := tset (walkerOf s cl).placed node 0 } node = true :=
    nodeRunning_tset { takeReady (walkerOf s cl) node with placed := (walkerOf s cl).placed } node 0
  simp only [taskNode, h.graph, if_neg (h.not_taskRefused hk), h.starts hr, hz, Bool.and_false, Bool.false_eq_true, if_false, if_true,
    hp, tget_tset_same, Nat.sub_zero]

/-- A task node that stopped at a full queue goes on (R88). -/
theorem taskNode_of_running (hx : (walkerOf s cl).graph[node]? = some x) (hk : x.kind = 0) (hg : (walkerOf s cl).gang ≠ none)
    (he : (walkerOf s cl).ended = false) (hr : nodeRunning (walkerOf s cl) node = true) : let w := walkerOf s cl
    taskNode s cl node = settleWalk (placeTasks (nf x.s.toNat 0 32 - tget 0 w.placed node) (setWalker s cl w) cl node x) cl := by
  have hn : ¬ (x.kind ≠ 0 ∨ (walkerOf s cl).gang = none ∨ (walkerOf s cl).ended = true) := by simp [hk, hg, he]
  simp only [taskNode, hx, if_neg hn, hr, Bool.not_true, Bool.and_false, Bool.false_and, Bool.false_eq_true, if_false, if_true]

/-- A node whose condition word has not come waits for it (R89). -/
theorem condNode_of_unanswered {k : Nat} (h : NodeReady s cl node x) (hk : x.kind = k)
    (hr : (condWord s cl (walkerOf s cl) x.p).2 = none) : condNode s cl node k = (condWord s cl (walkerOf s cl) x.p).1 := by
  simp only [condNode, h.graph, if_neg (h.not_refused hk), hr]

/-- A conditional or while node takes ALT where its word is not 0 (R89). -/
theorem condNode_of_word {k : Nat} {v : Word} (h : NodeReady s cl node x) (hk : x.kind = k)
    (hr : (condWord s cl (walkerOf s cl) x.p).2 = some v) : let t := (condWord s cl (walkerOf s cl) x.p).1
    condNode s cl node k
      = settleWalk (setWalker t cl (startNode (takeReady (walkerOf t cl) node) (if v = 0 then x.next else x.alt))) cl := by
  simp only [condNode, h.graph, if_neg (h.not_refused hk), hr]

/-- A join counts the arrival, and goes on with the last (R89). -/
theorem joinNode_of_ready (h : NodeReady s cl node x) (hk : x.kind = 3) : let v := takeReady (walkerOf s cl) node
    let n := tget 0 v.arrivals node + 1
    joinNode s cl node = settleWalk (setWalker s cl (if n < x.s.toNat then { v with arrivals := tset v.arrivals node n }
      else startNode { v with arrivals := tdel v.arrivals node } x.next)) cl := by
  simp only [joinNode, h.graph, if_neg (h.not_refused hk)]

theorem latchNode_of_ready (h : NodeReady s cl node x) (hk : x.kind = 4) : latchNode s cl node
    = settleWalk (setWalker s cl (startNode (latchTargets (nf x.p.toNat 16 9) (takeReady (walkerOf s cl) node) x 0 0) x.next)) cl := by
  simp only [latchNode, h.graph, if_neg (h.not_refused hk)]

/-- A task node whose fibres have all exited starts its successors, as a release at cluster scope (R88, R89). -/
theorem nodeComplete_of_exited (hx : (walkerOf s cl).graph[node]? = some x) (hk : x.kind = 0)
    (hr : nodeRunning (walkerOf s cl) node = true) (hp : tget 0 (walkerOf s cl).placed node = nf x.s.toNat 0 32)
    (ha : tget 0 (walkerOf s cl).alive node = 0) (he : (walkerOf s cl).ended = false) : let w := walkerOf s cl
    nodeComplete s cl node = settleWalk (setWalker ((List.range 16).foldl (fun t c => releaseAt t w.ten (cl * 16 + c) 2) s) cl
      (startNode (startNode { w with
        placed := tdel w.placed node
        alive := tdel w.alive node } x.next) x.alt)) cl := by
  simp only [nodeComplete, hx, if_pos (And.intro hk (And.intro hr (And.intro hp ha))), he, Bool.false_eq_true, if_false]

end

/-! Tasks, placement and claims (R75-R77, R86, R287). -/

/-- The head task of a core's queue starts where the core has the room (R86, R424). -/
theorem taskStart_of_room {s : State} {core l : Nat} {t : Task} {rest : List Task} (hq : (coreOf s core).taskq = t :: rest)
    (hl : taskLaunch s t = some l) (hr : roomFor s core t.budget = true) (ho : otherTenant s core t.ten = false)
    (hc : (coreOf s core).retired = false) : taskStart s core
      = addFibre (acquireAt (setCore s core (refill { coreOf s core with taskq := rest })) t.ten core t.retScope) (taskFibre core t l) := by
  simp only [taskStart, hq, hl, if_pos (And.intro hr (And.intro ho hc))]

theorem taskLaunch_of_resident {s : State} {t : Task} {g : Gang} (ht : t.guest = none) (hg : gangOf s t.gang = some g)
    (hr : g.st = .resident) : taskLaunch s t = some g.launch := by
  simp only [taskLaunch, ht, hg, Option.bind_some, if_pos hr]

theorem taskLaunch_of_guest {s : State} {t : Task} {m n : Nat} (ht : t.guest = some (m, n)) (hn : n ≠ 0) : taskLaunch s t = some 0 := by
  simp only [taskLaunch, ht, if_neg hn]

/-- A turn in which the unit of the launch served fits (R75, R76). -/
theorem turn_of_claim {s t : State} {p : Nat} {l : Launch} {u : Machine.PUnit} (hg : ∀ g ∈ s.dist.gangs, g.st ≠ .placing)
    (hp : ((List.range 8).find? fun p => !(readyAt s p).isEmpty) = some p) (hl : servedLaunch s (readyAt s p) p = some l)
    (hu : readyUnit s l = some u)
    (hc : claimUnit { s with dist := { s.dist with last := tset s.dist.last p l.ten.toNat } } l u = some t) :
    turn s = unitPlaced t l u := by
  have hn : ¬ (s.dist.gangs.any fun g => g.st == .placing) = true := by simpa using hg
  simp only [turn, if_neg hn, hp, hl, hu, hc]

/-- The claim of a gang that starts completes: its fibres may run (R76, R77). -/
theorem claimComplete_of_start {s : State} {n : Nat} {g : Gang} (hg : gangOf s n = some g) (hp : g.st = .placing) (hi : g.image = none)
    (hl : ∀ l, launchOf s g.launch = some l → l.pred = none) : let t := modGang s n fun g => { g with
      st := .resident
      image := none }
    claimComplete s n = imageClaimed (settleLaunch
      (modFibres t (fun f => f.ident.gang == some n && f.run == .starting) fun f => { f with run := .eligible }) g.launch) n := by
  have hn : ¬ g.st ≠ .placing := not_not_intro hp
  simp only [claimComplete, hg, if_neg hn, hi]
  refine congrArg (fun t => imageClaimed (settleLaunch t g.launch) n) ?_
  split
  next l h => exact if_neg (by simp [hl l h])
  next => rfl

/-! Images (R81-R84). -/

/-- The fibres and the distributor are the same in both. -/
structure SamePlaces (s t : State) : Prop where
  fib : t.fib = s.fib
  fibres : t.fibres = s.fibres
  dist : t.dist = s.dist

theorem SamePlaces.trans {s t u : State} (h : SamePlaces s t) (k : SamePlaces t u) : SamePlaces s u :=
  ⟨k.fib.trans h.fib, k.fibres.trans h.fibres, k.dist.trans h.dist⟩

theorem MemOnly.samePlaces {s t : State} (h : MemOnly s t) : SamePlaces s t := by
  rw [h]
  exact ⟨rfl, rfl, rfl⟩

/-- A gang found by its number, changed. -/
theorem gangOf_modGang {s : State} {n : Nat} {g : Gang} {h : Gang → Gang} (hid : ∀ x, (h x).id = x.id) (hg : gangOf s n = some g) :
    gangOf (modGang s n h) n = some (h g) := by
  have hn : (g.id == n) = true := List.find?_some (p := fun x : Gang => x.id == n) hg
  have hp : (fun x : Gang => x.id == n) ∘ (fun x => if x.id == n then h x else x) = fun x => x.id == n := by
    funext x
    rw [Function.comp_apply, apply_ite Gang.id, hid, ite_self]
  have hf : gangOf (modGang s n h) n = (gangOf s n).map fun x => if x.id == n then h x else x := by
    change (s.dist.gangs.map fun x => if x.id == n then h x else x).find? (fun x => x.id == n) = _
    rw [List.find?_map, hp]
    rfl
  rw [hf, hg, Option.map_some, if_pos hn]

theorem takeRegion_samePlaces {s t : State} {g : Gang} {r : Option Nat} (h : takeRegion s g = some (r, t)) : SamePlaces s t := by
  unfold takeRegion at h
  cases hr : g.region with
  | some k =>
    rw [hr] at h
    cases h
    exact ⟨rfl, rfl, rfl⟩
  | none =>
    rw [hr] at h
    cases hm : switchRoom s g with
    | some p =>
      rw [hm] at h
      cases h
      exact ⟨rfl, rfl, rfl⟩
    | none =>
      rw [hm] at h
      by_cases hc : s.dev.cxlen = 0
      · rw [if_pos hc] at h
        cases h
      · rw [if_neg hc] at h
        cases h
        exact ⟨rfl, rfl, rfl⟩

/-- What an image's close does before its gang is changed: the engines give up what they hold of the gang, and its cores' copies are
written back (R82, R84). -/
def imageDrained (s : State) (g : Gang) (fs : List Fibre) : State :=
  (fs.map (·.core) ++ g.cores).eraseDups.foldl (fun t c => releaseCopies t c 2) (withdraw s g fun i => (fs.map (·.id)).contains i)

theorem imageDrained_samePlaces (s : State) (g : Gang) (fs : List Fibre) : SamePlaces s (imageDrained s g fs) :=
  SamePlaces.trans (t := withdraw s g fun i => (fs.map (·.id)).contains i) ⟨rfl, rfl, rfl⟩
    (MemOnly.foldl (fun t c => memOnly_releaseCopies t c 2) _ _).samePlaces

/-- The image's region is taken, where there is room (R80). -/
def regionTaken (s : State) (g : Gang) (n : Nat) : State :=
  match takeRegion s g with
  | some (r, t) => modGang t n fun g => { g with region := some r }
  | none => s

theorem regionTaken_fibres (s : State) (g : Gang) (n : Nat) : allFibres (regionTaken s g n) = allFibres s := by
  unfold regionTaken
  split
  next r t h =>
    obtain ⟨hf, hs, -⟩ := takeRegion_samePlaces h
    change t.fib :: t.fibres = allFibres s
    rw [hf, hs]
    rfl
  next => rfl

theorem gangOf_regionTaken {s : State} {g : Gang} {n : Nat} (h : gangOf s n = some g) : ∃ x, gangOf (regionTaken s g n) n = some x := by
  unfold regionTaken
  split
  next r t ht =>
    have hg : gangOf t n = some g := by rwa [gangOf, (takeRegion_samePlaces ht).dist]
    exact ⟨_, gangOf_modGang (fun _ => rfl) hg⟩
  next => exact ⟨g, h⟩

/-- A gang that its image now stands for (R83). -/
def toImaged (img : Image) (g : Gang) : Gang := { g with
  st := .imaged
  dieTag := none
  image := some img
  last := some img }

/-- Fibres that have gone into an image leave the module (R84). -/
def removeFibres (s : State) (ids : List Nat) : State := { s with
  fib := if ids.contains s.fib.id then Fibre.blank else s.fib
  fibres := s.fibres.filter fun f => !ids.contains f.id }

theorem mem_allFibres_removeFibres {s : State} {ids : List Nat} {f : Fibre} (h : f ∈ allFibres (removeFibres s ids)) :
    f = Fibre.blank ∨ (f ∈ allFibres s ∧ f.id ∉ ids) := by
  rcases List.mem_cons.mp h with rfl | h
  · by_cases hc : ids.contains s.fib.id = true
    · exact .inl (if_pos hc)
    · have hf : (removeFibres s ids).fib = s.fib := if_neg hc
      rw [hf]
      exact .inr ⟨List.mem_cons_self, by simpa using hc⟩
  · obtain ⟨hm, hc⟩ := List.mem_filter.mp h
    exact .inr ⟨List.mem_cons_of_mem _ hm, by simpa using hc⟩

/-- The state in which a gang that has drained is imaged (R81-R84). -/
def imagedState (s : State) (g : Gang) (n : Nat) : State :=
  let fs := (allFibres s).filter (inGang n)
  removeFibres (modGang (regionTaken (imageDrained s g fs) g n) n (toImaged (makeImage s g))) (fs.map (·.id))

theorem mem_allFibres_imagedState {s : State} {g : Gang} {n : Nat} {f : Fibre} (h : f ∈ allFibres (imagedState s g n)) :
    f = Fibre.blank ∨ (f ∈ allFibres s ∧ inGang n f = false) := by
  let fs := (allFibres s).filter (inGang n)
  have hs : allFibres (modGang (regionTaken (imageDrained s g fs) g n) n (toImaged (makeImage s g))) = allFibres s := by
    obtain ⟨hf, hr, -⟩ := imageDrained_samePlaces s g fs
    refine (regionTaken_fibres (imageDrained s g fs) g n).trans ?_
    rw [allFibres, hf, hr]
    rfl
  rcases mem_allFibres_removeFibres h with h | ⟨hm, hid⟩
  · exact .inl h
  · rw [hs] at hm
    refine .inr ⟨hm, eq_false_of_ne_true fun hg => hid ?_⟩
    exact List.mem_map_of_mem (List.mem_filter.mpr ⟨hm, hg⟩)

theorem gangOf_imagedState {s : State} {g : Gang} {n : Nat} (h : gangOf s n = some g) :
    ∃ x, gangOf (imagedState s g n) n = some (toImaged (makeImage s g) x) := by
  let fs := (allFibres s).filter (inGang n)
  have hd : gangOf (imageDrained s g fs) n = some g := by rwa [gangOf, (imageDrained_samePlaces s g fs).dist]
  obtain ⟨x, hx⟩ := gangOf_regionTaken hd
  exact ⟨x, gangOf_modGang (h := toImaged (makeImage s g)) (fun _ => rfl) hx⟩

/-- An image closes once its gang has drained (R81); no IMGSAVE waits for it. -/
theorem imageClose_of_drained {s : State} {n : Nat} {g : Gang} (hg : gangOf s n = some g) (hs : g.st = .imaging)
    (hc : ((allFibres s).filter (inGang n)).all (fibreCloses s) = true) (ha : anyAway s n = false) (he : enginesClose s g = true)
    (hw : ∀ f ∈ allFibres s, f.run ≠ .parked (.image n)) : imageClose s n = imagedState s g n := by
  have hn : ¬ g.st ≠ .imaging := not_not_intro hs
  have hd : ¬ (((allFibres s).filter (inGang n)).all (fibreCloses s) = false ∨ anyAway s n = true ∨ enginesClose s g = false) := by
    rw [hc, ha, he]
    decide
  have hnone : (allFibres (imagedState s g n)).filter (fun f => f.run == .parked (.image n)) = [] := by
    refine List.filter_eq_nil_iff.mpr fun f hf h => ?_
    have hr : f.run = .parked (.image n) := eq_of_beq h
    rcases mem_allFibres_imagedState hf with rfl | ⟨hm, -⟩
    · cases hr
    · exact hw f hm hr
  have hwait : imageClose s n
      = ((allFibres (imagedState s g n)).filter fun f => f.run == .parked (.image n)).foldl (fun t f => complete t f.id none)
        (imagedState s g n) := by
    simp only [imageClose, hg, if_neg hn, if_neg hd]
    rfl
  rw [hwait, hnone, List.foldl_nil]

end Sys2Proof.Proofs

/-! The host's windows and the queues (R28, R29, R70, R73, R377). -/

namespace Sys2Proof.Proofs

open Sys2Proof Sys2Proof.Machine Sys2Proof.Safety Sys2Proof.Laws

/-- One byte of a write to a launch window from `off` on (R70), as `hostLaunch` puts it. -/
def windowPut (off : Nat) (bytes : List Byte) (w : Window) (i : Nat) : Window :=
  if off + i < 64 then { w with
    bytes := tset w.bytes (off + i) (bytes.getD i 0)
    mask := if 56 ≤ off + i then w.mask ||| BitVec.ofNat 8 (2 ^ (off + i - 56)) else w.mask }
  else w

/-- A launch window after the first `n` bytes of a write from its start on. -/
def windowAfter (bytes : List Byte) (w : Window) (n : Nat) : Window := (List.range n).foldl (windowPut 0 bytes) w

theorem windowAfter_succ (bytes : List Byte) (w : Window) {n : Nat} (h : n < 64) :
    let v := windowAfter bytes w n
    windowAfter bytes w (n + 1) = { v with
      bytes := tset v.bytes n (bytes.getD n 0)
      mask := if 56 ≤ n then v.mask ||| BitVec.ofNat 8 (2 ^ (n - 56)) else v.mask } := by
  have hput : windowAfter bytes w (n + 1) = windowPut 0 bytes (windowAfter bytes w n) n := by
    rw [windowAfter, List.range_succ, List.foldl_append]
    rfl
  rw [hput, windowPut, Nat.zero_add, if_pos h]

theorem windowAfter_byte (bytes : List Byte) (w : Window) {n k : Nat} (hn : n ≤ 64) (hk : k < n) :
    tget 0 (windowAfter bytes w n).bytes k = bytes.getD k 0 := by
  induction n with
  | zero => omega
  | succ n ih =>
    rw [windowAfter_succ bytes w hn, tget_tset]
    by_cases he : n = k
    · rw [if_pos he, he]
    · rw [if_neg he, ih (by omega) (by omega)]

/-- Each of the last eight bytes of a window has its bit of the mask (R70). -/
theorem windowAfter_mask (bytes : List Byte) {w : Window} (hw : w.mask = 0) {n : Nat} (hn : n ≤ 64) (j : Nat) (hj : j < 8) :
    (windowAfter bytes w n).mask.getLsbD j = decide (56 + j < n) := by
  induction n with
  | zero =>
    change w.mask.getLsbD j = false
    rw [hw]
    exact BitVec.getLsbD_zero
  | succ n ih =>
    rw [windowAfter_succ bytes w hn]
    by_cases h : 56 ≤ n
    · rw [if_pos h, BitVec.getLsbD_or, ih (by omega), BitVec.getLsbD_ofNat, Nat.testBit_two_pow, decide_eq_true hj, Bool.true_and,
        ← Bool.decide_or, decide_eq_decide]
      omega
    · rw [if_neg h, ih (by omega), decide_eq_decide]
      omega

/-- A whole record has every bit of the mask. -/
theorem windowAfter_mask_whole (bytes : List Byte) {w : Window} (hw : w.mask = 0) : (windowAfter bytes w 64).mask = 0xFF := by
  have hall : (0xFF : BitVec 8) = BitVec.allOnes 8 := by decide
  refine BitVec.eq_of_getLsbD_eq fun j hj => ?_
  rw [windowAfter_mask bytes hw (Nat.le_refl 64) j hj, hall, BitVec.getLsbD_allOnes, decide_eq_decide]
  omega

theorem hostLaunch_of_closed {s : State} {ten : BitVec 4} (off : Nat) (bytes : List Byte)
    (h : s.dev.go = false ∨ (tenantOf s ten.toNat).en = false) : hostLaunch s ten off bytes = countViolation s := if_pos h

/-- What a whole record leaves of its window: the mask clear, and the result of the submission (R70). -/
def windowDone (s : State) (ten : BitVec 4) (w : Window) : Window := { w with
  mask := 0
  result := (submit s ten (windowWords w.bytes)).2 }

/-- The machine after the submission of the record in a window (R70). -/
def recordTaken (s : State) (ten : BitVec 4) (w : Window) : State :=
  let t := (submit s ten (windowWords w.bytes)).1
  { t with dist := { t.dist with windows := tset t.dist.windows ten.toNat (windowDone s ten w) } }

theorem window_recordTaken (s : State) (ten : BitVec 4) (w : Window) :
    tget Window.reset (recordTaken s ten w).dist.windows ten.toNat = windowDone s ten w := by
  unfold recordTaken
  exact tget_tset_same _ _ _ _

theorem windowDone_result (s : State) (ten : BitVec 4) (w : Window) :
    (windowDone s ten w).result = (submit s ten (windowWords (windowDone s ten w).bytes)).2 := rfl

/-- A whole record written at once is submitted (R70). -/
theorem hostLaunch_of_record {s : State} {ten : BitVec 4} {bytes : List Byte} (hg : s.dev.go = true)
    (he : (tenantOf s ten.toNat).en = true) (hb : bytes.length = 64) (hm : (tget Window.reset s.dist.windows ten.toNat).mask = 0) :
    hostLaunch s ten 0 bytes = recordTaken s ten (windowAfter bytes (tget Window.reset s.dist.windows ten.toNat) 64) := by
  have hopen : ¬ (s.dev.go = false ∨ (tenantOf s ten.toNat).en = false) := by simp [hg, he]
  have hw : (List.range bytes.length).foldl (windowPut 0 bytes) (tget Window.reset s.dist.windows ten.toNat)
      = windowAfter bytes (tget Window.reset s.dist.windows ten.toNat) 64 := by rw [hb, windowAfter]
  have hmask : ((List.range bytes.length).foldl (windowPut 0 bytes) (tget Window.reset s.dist.windows ten.toNat)).mask = 0xFF := by
    rw [hw, windowAfter_mask_whole bytes hm]
  rw [hostLaunch, if_neg hopen]
  refine (if_pos hmask).trans ?_
  rw [recordTaken, windowDone, ← hw]
  rfl

theorem hostMsix_of_closed {s : State} {ten : BitVec 4} (vec off : Nat) (bytes : List Byte) (h : (tenantOf s ten.toNat).en = false) :
    hostMsix s ten vec off bytes = countViolation s := if_pos h

/-- A whole entry written while its vector is not pending (R28). -/
theorem hostMsix_of_entry {s : State} {ten : BitVec 4} {vec : Nat} {bytes : List Byte} (he : (tenantOf s ten.toNat).en = true)
    (hv : vec < 2048) (hb : bytes.length = 16) (hp : sHas s.host.pendingIrq (ten.toNat * 2048 + vec) = false) :
    hostMsix s ten vec 0 bytes = { s with host := { s.host with
      msix := tset s.host.msix (ten.toNat * 2048 + vec) (BitVec.ofNat 128 (leNat bytes)) } } := by
  have hopen : ¬ (tenantOf s ten.toNat).en = false := by simp [he]
  have hin : ¬ (2048 ≤ vec ∨ 16 < 0 + bytes.length) := by omega
  let e := (msixEntry s (ten.toNat * 2048 + vec)).toNat
  have hold : e - nf e (8 * 0) (8 * bytes.length) * 2 ^ (8 * 0) + leNat bytes * 2 ^ (8 * 0) = leNat bytes := by
    have hlt : e < 2 ^ 128 := (msixEntry s (ten.toNat * 2048 + vec)).isLt
    rw [hb, nf, Nat.mul_zero, Nat.pow_zero, Nat.div_one, Nat.mod_eq_of_lt hlt]
    omega
  simp only [hostMsix, if_neg hopen, if_neg hin, hp, Bool.false_and, Bool.false_eq_true, if_false]
  rw [hold]

theorem launchDoneSteps_of_done {s : State} {n : Nat} {l : Launch} (hl : launchOf s n = some l) (hd : l.st = .done) :
    let t := storeCompletion (flushAll s fun _ => true) l
    launchDoneSteps s n = forget (if nb l.flags.toNat 14 then raiseVector t l.ten (nf l.flags.toNat 15 11) else t) n := by
  simp only [launchDoneSteps, hl, if_neg (not_not_intro hd)]

section
variable {s : State} {off n : Nat} {bytes : List Byte}

/-- A write to the switch window of bytes that the host may reach (R29). -/
theorem exec_hostSwitchWindowAccess_write_of_may (h : hostMay s off bytes.length = true) : let pa := switchPa s 0 off
    exec (.hostSwitchWindowAccess true off n bytes) s = .next
      (hostBytes (flushAll s fun a => decide (pa / 512 * 512 ≤ a) && decide (a < (pa + bytes.length) / 512 * 512 + 512)) pa bytes) :=
  next_eq (if_pos h)

theorem exec_hostSwitchWindowAccess_write_of_not (h : hostMay s off bytes.length = false) :
    exec (.hostSwitchWindowAccess true off n bytes) s = .next (countViolation s) :=
  next_eq (if_neg (by simp [h]))

theorem exec_hostSwitchWindowAccess_read_of_may (h : hostMay s off n = true) : let pa := switchPa s 0 off
    let t := flushAll s fun a => decide (pa / 512 * 512 ≤ a) && decide (a < (pa + n) / 512 * 512 + 512)
    exec (.hostSwitchWindowAccess false off n bytes) s = .next
      { t with host := { t.host with reads := t.host.reads ++ [rdBytes t pa n] } } :=
  next_eq (if_pos h)

theorem exec_hostSwitchWindowAccess_read_of_not (h : hostMay s off n = false) :
    exec (.hostSwitchWindowAccess false off n bytes) s = .next
      { countViolation s with host := { s.host with reads := s.host.reads ++ [List.replicate n 0xFF] } } :=
  next_eq (if_neg (by simp [h]))

end

section
variable {s : State} {q ten : BitVec 4}

theorem exec_gwqArm_of_free (limit : BitVec 32) (h : (gwqOf s q.toNat).armed = false ∨ (gwqOf s q.toNat).owner = ten) :
    exec (.gwqArm q ten limit) s = .next (setGwq s q.toNat ⟨true, ten, limit, 0⟩) := by
  refine next_eq (if_neg ?_)
  rcases h with h | h
  · simp [h]
  · simp [h]

theorem exec_gwqArm_of_taken (limit : BitVec 32) (h : (gwqOf s q.toNat).armed = true) (ho : (gwqOf s q.toNat).owner ≠ ten) :
    exec (.gwqArm q ten limit) s = .next s :=
  next_eq (if_pos (by simp [h, ho]))

end

/-- Settles O55, event by event. -/
theorem launchAndWalkEvents : Obligations.LaunchAndWalkEvents := by
  unfold Obligations.LaunchAndWalkEvents
  refine ⟨?ready, ?complete, ?resumed, ?task, ?turn, ?claim, ?image, ?done, ?closed, ?record, ?msix, ?switch, ?queues⟩
  case ready =>
    intro s cl node x w hx hg he hr
    have h : NodeReady s cl node x := ⟨hx, hg, he, hr⟩
    refine ⟨fun hk hn hz => next_eq (taskNode_of_count_zero h hk hn hz),
      fun hk hn hz => next_eq (taskNode_of_start h hk hn hz), fun k hk => ?_, fun hk => ?_,
      fun hk => next_eq (latchNode_of_ready h hk)⟩
    · have hkind : x.kind = k := by omega
      refine ⟨fun hc => ?_, fun v hc => ?_⟩
      · have hrun := next_eq (condNode_of_unanswered h hkind hc)
        exact ⟨fun e => by subst e; exact hrun, fun e => by subst e; exact hrun⟩
      · have hrun := next_eq (condNode_of_word h hkind hc)
        exact ⟨fun e => by subst e; exact hrun, fun e => by subst e; exact hrun⟩
    · have hj := joinNode_of_ready h hk
      refine ⟨fun hn => next_eq (hj.trans ?_), fun hn => next_eq (hj.trans ?_)⟩
      · rw [if_pos hn]
      · rw [if_neg (Nat.not_lt.mpr hn)]
  case complete =>
    intro s cl node x w hx hk hr hp ha he
    exact next_eq (nodeComplete_of_exited hx hk hr hp ha he)
  case resumed =>
    intro s cl node x w hx hk hg he hr
    exact next_eq (taskNode_of_running hx hk hg he hr)
  case task =>
    intro s core t rest hq hr ho hc
    exact ⟨fun g ht hg hres => next_eq (taskStart_of_room hq (taskLaunch_of_resident ht hg hres) hr ho hc),
      fun m n ht hn => next_eq (taskStart_of_room hq (taskLaunch_of_guest ht hn) hr ho hc)⟩
  case turn =>
    intro s p l u t hg hp hl hu hc
    exact next_eq (turn_of_claim hg hp hl hu hc)
  case claim =>
    intro s n g hg hp hi hl
    exact next_eq (claimComplete_of_start hg hp hi hl)
  case image =>
    intro s n g hg hs hc ha he hw
    refine ⟨imagedState s g n, next_eq (imageClose_of_drained hg hs hc ha he hw), fun f hf => ?_, ?_⟩
    · rcases mem_allFibres_imagedState hf with rfl | ⟨-, h⟩
      · rfl
      · exact h
    · obtain ⟨x, hx⟩ := gangOf_imagedState hg
      exact ⟨_, hx, rfl, rfl, rfl⟩
  case done =>
    intro s n l hl hd
    exact next_eq (launchDoneSteps_of_done hl hd)
  case closed =>
    intro s ten off bytes
    exact ⟨fun h => next_eq (hostLaunch_of_closed off bytes h),
      fun h vec => next_eq (hostMsix_of_closed vec off bytes h)⟩
  case record =>
    intro s ten bytes hg he hb hm
    have hbyte : ∀ k, k < 64 → tget 0 (windowAfter bytes (tget Window.reset s.dist.windows ten.toNat) 64).bytes k = bytes.getD k 0 :=
      fun k hk => windowAfter_byte bytes _ (Nat.le_refl 64) hk
    have hrun := hostLaunch_of_record hg he hb hm
    generalize windowAfter bytes (tget Window.reset s.dist.windows ten.toNat) 64 = w at hbyte hrun
    exact ⟨recordTaken s ten w, windowDone s ten w, next_eq hrun, window_recordTaken s ten w, rfl,
      windowDone_result s ten w, hbyte⟩
  case msix =>
    intro s ten vec bytes he hv hb hp
    exact next_eq (hostMsix_of_entry he hv hb hp)
  case switch =>
    intro s off n bytes pa
    exact ⟨exec_hostSwitchWindowAccess_write_of_not, exec_hostSwitchWindowAccess_write_of_may,
      exec_hostSwitchWindowAccess_read_of_not, exec_hostSwitchWindowAccess_read_of_may⟩
  case queues =>
    intro s q ten limit
    exact ⟨exec_gwqArm_of_free limit, exec_gwqArm_of_taken limit, rfl⟩

end Sys2Proof.Proofs

/-! Barriers, SCOPESET and LAUNCH (R301, R303, R304), and the value of a barrier episode (R301). -/

namespace Sys2Proof.Proofs

open Sys2Proof Sys2Proof.Machine Sys2Proof.Safety Sys2Proof.Laws

/-! What the state in which an instruction's effect acts keeps of its fibre. -/

theorem releaseAt_fib (s : State) (ten : BitVec 4) (core : Nat) (sc : BitVec 4) : (releaseAt s ten core sc).fib = s.fib :=
  (congrArg State.fib (memOnly_releaseCopies s core (scopeLevel s ten core sc)) :)

/-- The accesses of the issuing fibre stand as they stood at issue (R162). -/
theorem allPerformed_begun (s : State) (u : Use) : allPerformed (begun s u) (begun s u).fib.id = allPerformed s s.fib.id := by
  simp only [allPerformed, begun_ms, begun_arrays, begun_fib_id]

theorem gangOfFibre_begun (s : State) (u : Use) : gangOfFibre (begun s u) (begun s u).fib = gangOfFibre s s.fib := by
  simp only [gangOfFibre, gangOf, begun_dist, begun_fib_ident]

/-! The instructions. -/

/-- The barrier of a gang, or of its stage (R91, R301). -/
def barrierKey (grid : Bool) (g : Gang) : Nat := if grid then g.launch * 8 + g.stage else g.id

/-- How BARR and BARJ use their fibre. -/
def barrierUse (i : Instr) (grid y : Bool) (gd ga : Reg) (la : Bool) : Use :=
  ⟨i, y, false, 0, barrierCtx i grid, [(ga, la)], gd, true⟩

/-- How SCOPESET uses its fibre. -/
def scopesetUse (y : Bool) (ga : Reg) (la : Bool) (n : BitVec 3) : Use :=
  { plainUse (.scopeset y ga la n) y [(ga, la)] 0 with fail := true }

/-- How LAUNCH uses its fibre. -/
def launchUse (y : Bool) (gd ga : Reg) (la : Bool) : Use :=
  ⟨.launch y gd ga la, y, false, 0, noHandler (.launch y gd ga la), [(ga, la)], gd, true⟩

theorem exec_scopeset (y : Bool) (ga : Reg) (la : Bool) (n : BitVec 3) (s : State) :
    exec (.scopeset y ga la n) s = issue s (scopesetUse y ga la n) fun t v => setMask t n.toNat (arg v 0) := rfl

theorem exec_launch (y : Bool) (gd ga : Reg) (la : Bool) (s : State) :
    exec (.launch y gd ga la) s = issue s (launchUse y gd ga la) fun t v =>
      if !aligned (arg v 0) 64 then .trap cALIGN (arg v 0) else launchEff t (arg v 0) gd := rfl

theorem exec_barrier {i : Instr} {grid y : Bool} {gd ga : Reg} {la : Bool} {comb : BitVec 2}
    (hi : (i = .barr y gd ga la comb ∧ grid = false) ∨ (i = .barj y gd ga la comb ∧ grid = true)) (s : State) :
    exec i s = issue s (barrierUse i grid y gd ga la) fun t v => arriveEff t grid comb (arg v 0) := by
  obtain ⟨rfl, rfl⟩ | ⟨rfl, rfl⟩ := hi <;> rfl

/-- An arrival on the fibre's own module is a release, is recorded, and holds the fibre (R301). -/
theorem arriveEff_of_gang {t : State} {g : Gang} (grid : Bool) (comb : BitVec 2) (v : Word)
    (hp : allPerformed t t.fib.id = true) (hn : t.fib.ident.guest = none) (hg : gangOfFibre t t.fib = some g) :
    let key := barrierKey grid g
    let r := releaseAt t t.fib.ident.tenant t.fib.core (barrierScope t grid key)
    arriveEff t grid comb v = .hold (.barrier (barrierId grid key)) (setBarrier r { barrierOf r grid key with
      arrivals := (barrierOf r grid key).arrivals ++ [(t.fib.id, comb, v)] }) := by
  simp only [arriveEff, hp, hn, hg, Bool.not_true, Bool.false_eq_true, if_false, releaseAt_fib, barrierKey]

theorem exec_barrier_of_gang {s : State} {i : Instr} {grid y : Bool} {gd ga : Reg} {la : Bool} {comb : BitVec 2} {g : Gang}
    (hi : (i = .barr y gd ga la comb ∧ grid = false) ∨ (i = .barj y gd ga la comb ∧ grid = true))
    (h : Issues s (barrierUse i grid y gd ga la)) (hp : allPerformed s s.fib.id = true) (hn : s.fib.ident.guest = none)
    (hg : gangOfFibre s s.fib = some g) :
    let u := barrierUse i grid y gd ga la
    let key := barrierKey grid g
    let t := releaseAt (begun s u) s.fib.ident.tenant s.fib.core (barrierScope (begun s u) grid key)
    exec i s = .next (holding s u (.barrier (barrierId grid key)) (setBarrier t { barrierOf t grid key with
      arrivals := (barrierOf t grid key).arrivals ++ [(s.fib.id, comb, operand s u 0)] })) := by
  intro u key t
  have he := arriveEff_of_gang grid comb (operand s u 0) ((allPerformed_begun s u).trans hp)
    ((congrArg Ident.guest (begun_fib_ident s u)).trans hn) ((gangOfFibre_begun s u).trans hg)
  rw [begun_fib_ident, begun_fib_core, begun_fib_id] at he
  rw [exec_barrier hi]
  exact issue_hold h he

/-- SCOPESET is a release at module scope, and holds its fibre (R303). -/
theorem exec_scopeset_of_performed {s : State} {y : Bool} {ga : Reg} {la : Bool} {n : BitVec 3}
    (h : Issues s (scopesetUse y ga la n)) (hp : allPerformed s s.fib.id = true) :
    let u := scopesetUse y ga la n
    exec (.scopeset y ga la n) s = .next
      (holding s u (.mask n.toNat (operand s u 0)) (releaseAt (begun s u) s.fib.ident.tenant s.fib.core 4)) := by
  intro u
  have he : setMask (begun s u) n.toNat (operand s u 0)
      = .hold (.mask n.toNat (operand s u 0)) (releaseAt (begun s u) s.fib.ident.tenant s.fib.core 4) := by
    simp only [setMask, allPerformed_begun, hp, Bool.not_true, Bool.false_eq_true, if_false, begun_fib_ident, begun_fib_core]
  rw [exec_scopeset]
  exact issue_hold h he

/-- A launch whose record reads: the submission, its result word a long result (R304). -/
theorem launchEff_of_block {t r : State} {va : Word} {ws : List Word} (d : Reg) (hp : allPerformed t t.fib.id = true)
    (hb : BlockReads 8 (releaseAt t t.fib.ident.tenant t.fib.core 4) va ws r) :
    let r1 := raiseClock r 1088 (clockOf r r.fib.core)
    let q := submit r1 r1.fib.ident.tenant ws
    launchEff t va d = .done (setLong q.1 d q.2 0) := by
  simp only [launchEff, hp, Bool.not_true, Bool.false_eq_true, if_false, readBlock_of [] _ hb, List.nil_append, goOn]

theorem exec_launch_of_block {s r : State} {y : Bool} {gd ga : Reg} {la : Bool} {ws : List Word}
    (h : Issues s (launchUse y gd ga la)) (ha : (operand s (launchUse y gd ga la) 0).toNat % 64 = 0)
    (hp : allPerformed s s.fib.id = true)
    (hb : BlockReads 8 (releaseAt (begun s (launchUse y gd ga la)) s.fib.ident.tenant s.fib.core 4)
      (operand s (launchUse y gd ga la) 0) ws r) :
    let r1 := raiseClock r 1088 (clockOf r r.fib.core)
    let q := submit r1 r1.fib.ident.tenant ws
    exec (.launch y gd ga la) s = .next (finished (launchUse y gd ga la) (setLong q.1 gd q.2 0)) := by
  rw [← begun_fib_ident s (launchUse y gd ga la), ← begun_fib_core s (launchUse y gd ga la)] at hb
  rw [exec_launch]
  refine issue_done h ((if_neg ?_).trans (launchEff_of_block gd ((allPerformed_begun s _).trans hp) hb))
  change ¬(!aligned (operand s (launchUse y gd ga la) 0) 64) = true
  simp only [aligned, ha, beq_self_eq_true, Bool.not_true, Bool.false_eq_true, not_false_eq_true]

/-! The value of an episode (R301). -/

section
variable {α β : Type} {f : β → α → β} {g : α → β}

/-- A fold each of whose steps is related to both of what it is made of is related to all of the list. -/
theorem foldl_related {R : β → β → Prop} (hr : ∀ a, R a a) (ht : ∀ {a b c}, R a b → R b c → R a c)
    (hf : ∀ a b, R (f a b) a ∧ R (f a b) (g b)) (l : List α) (v : β) : R (l.foldl f v) v ∧ ∀ b ∈ l, R (l.foldl f v) (g b) := by
  induction l generalizing v with
  | nil => exact ⟨hr v, fun _ hb => absurd hb List.not_mem_nil⟩
  | cons x l ih =>
    obtain ⟨hv, hl⟩ := ih (f v x)
    refine ⟨ht hv (hf v x).1, fun b hb => ?_⟩
    obtain rfl | hb := List.mem_cons.mp hb
    · exact ht hv (hf v b).2
    · exact hl b hb

/-- A fold each of whose steps keeps its value or takes that of the element gives a value that it met. -/
theorem foldl_chosen (hf : ∀ a b, f a b = a ∨ f a b = g b) (l : List α) (v : β) :
    l.foldl f v = v ∨ ∃ b ∈ l, l.foldl f v = g b := by
  induction l generalizing v with
  | nil => exact .inl rfl
  | cons x l ih =>
    obtain h | ⟨b, hb, h⟩ := ih (f v x)
    · obtain hx | hx := hf v x
      · exact .inl (h.trans hx)
      · exact .inr ⟨x, List.mem_cons_self, h.trans hx⟩
    · exact .inr ⟨b, List.mem_cons_of_mem x hb, h⟩

end

/-- An arrival at a barrier: its fibre, its combine code and its value (R301). -/
abbrev Arrival := Nat × BitVec 2 × Word

/-- The lesser of a value and an arrival's. -/
def lesser (v : Word) (b : Arrival) : Word := if b.2.2.ult v then b.2.2 else v

/-- The greater of a value and an arrival's. -/
def greater (v : Word) (b : Arrival) : Word := if v.ult b.2.2 then b.2.2 else v

theorem lesser_chosen (v : Word) (b : Arrival) : lesser v b = v ∨ lesser v b = b.2.2 := by
  unfold lesser
  split
  · exact .inr rfl
  · exact .inl rfl

theorem greater_chosen (v : Word) (b : Arrival) : greater v b = v ∨ greater v b = b.2.2 := by
  unfold greater
  split
  · exact .inr rfl
  · exact .inl rfl

theorem lesser_le (v : Word) (b : Arrival) : (lesser v b).toNat ≤ v.toNat ∧ (lesser v b).toNat ≤ b.2.2.toNat := by
  unfold lesser
  split
  case isTrue h => exact ⟨Nat.le_of_lt (BitVec.ult_iff_lt.mp h), Nat.le_refl _⟩
  case isFalse h => exact ⟨Nat.le_refl _, Nat.not_lt.mp fun hlt => h (BitVec.ult_iff_lt.mpr hlt)⟩

theorem le_greater (v : Word) (b : Arrival) : v.toNat ≤ (greater v b).toNat ∧ b.2.2.toNat ≤ (greater v b).toNat := by
  unfold greater
  split
  case isTrue h => exact ⟨Nat.le_of_lt (BitVec.ult_iff_lt.mp h), Nat.le_refl _⟩
  case isFalse h => exact ⟨Nat.le_refl _, Nat.not_lt.mp fun hlt => h (BitVec.ult_iff_lt.mpr hlt)⟩

theorem combine_of_differ {a : Arrival} {r : List Arrival} (h : ∃ b ∈ r, b.2.1 ≠ a.2.1) :
    combine (a :: r) = 0xFFFFFFFFFFFFFFFF := by
  have hd : r.all (fun b => b.2.1 == a.2.1) = false := List.all_eq_false.mpr (h.imp fun _ ⟨hb, hne⟩ => ⟨hb, mt beq_iff_eq.mp hne⟩)
  simp only [combine, hd, if_true]
  rfl

/-- The value of an episode by its one code (R301). -/
theorem combine_of_agree {a : Arrival} {r : List Arrival} (h : ∀ b ∈ r, b.2.1 = a.2.1) : combine (a :: r)
    = if a.2.1 = 0 then 0
      else if a.2.1 = 1 then r.foldl lesser a.2.2
      else if a.2.1 = 2 then r.foldl greater a.2.2
      else r.foldl (fun v b => v + b.2.2) a.2.2 := by
  obtain ⟨n, c, v⟩ := a
  have ha : r.all (fun b => b.2.1 == c) = true := List.all_eq_true.mpr fun b hb => beq_iff_eq.mpr (h b hb)
  simp only [combine, ha, Bool.true_eq_false, if_false]
  split
  · rfl
  · rfl
  · rfl
  next h0 h1 h2 =>
    exact ((if_neg h0).trans ((if_neg h1).trans (if_neg h2))).symm

/-- A value met after the first arrival's own is an arrival's. -/
theorem exists_arrival {a : Arrival} {r : List Arrival} {w : Word} (h : w = a.2.2 ∨ ∃ b ∈ r, w = b.2.2) :
    ∃ b ∈ a :: r, w = b.2.2 := by
  obtain h | ⟨b, hb, h⟩ := h
  · exact ⟨a, List.mem_cons_self, h⟩
  · exact ⟨b, List.mem_cons_of_mem a hb, h⟩

theorem foldl_lesser_least (a : Arrival) (r : List Arrival) :
    (∀ b ∈ a :: r, (r.foldl lesser a.2.2).toNat ≤ b.2.2.toNat) ∧ ∃ b ∈ a :: r, r.foldl lesser a.2.2 = b.2.2 :=
  ⟨List.forall_mem_cons.mpr (foldl_related (R := fun x y : Word => x.toNat ≤ y.toNat) (g := fun b => b.2.2)
    (fun _ => Nat.le_refl _) Nat.le_trans lesser_le r a.2.2), exists_arrival (foldl_chosen lesser_chosen r a.2.2)⟩

theorem foldl_greater_greatest (a : Arrival) (r : List Arrival) :
    (∀ b ∈ a :: r, b.2.2.toNat ≤ (r.foldl greater a.2.2).toNat) ∧ ∃ b ∈ a :: r, r.foldl greater a.2.2 = b.2.2 :=
  ⟨List.forall_mem_cons.mpr (foldl_related (R := fun x y : Word => y.toNat ≤ x.toNat) (g := fun b => b.2.2)
    (fun _ => Nat.le_refl _) (fun h k => Nat.le_trans k h) le_greater r a.2.2), exists_arrival (foldl_chosen greater_chosen r a.2.2)⟩

theorem foldl_add_values (a : Arrival) (r : List Arrival) :
    r.foldl (fun v b => v + b.2.2) a.2.2 = ((a :: r).map fun b => b.2.2).foldl (· + ·) 0 := by
  rw [List.map_cons, List.foldl_cons, List.foldl_map]
  exact congrArg (r.foldl fun v b => v + b.2.2) (BitVec.zero_add a.2.2).symm

/-- Settles O23: each instruction once its checks have passed, and the value of an episode by its code. -/
theorem barriersAndLaunch : Obligations.BarriersAndLaunch := by
  refine ⟨⟨?barrier, ?scopeset, ?launch⟩, ?value⟩
  case barrier =>
    intro s i grid y gd ga la comb g hi u key t h hp hn hg
    exact exec_barrier_of_gang hi h hp hn hg
  case scopeset =>
    intro s y ga la n u h hp
    exact exec_scopeset_of_performed h hp
  case launch =>
    intro s y gd ga la ws t i u h ha hp hb
    exact exec_launch_of_block h ha hp hb
  case value =>
    refine fun a r => ⟨combine_of_differ, fun h => ?_⟩
    rw [combine_of_agree h]
    refine ⟨fun hc => if_pos hc, fun hc => ?_, fun hc => ?_, fun hc => ?_⟩
    · rw [hc]
      exact foldl_lesser_least a r
    · rw [hc]
      exact foldl_greater_greatest a r
    · rw [hc]
      exact foldl_add_values a r

end Sys2Proof.Proofs

/-! Tiles and the codebook: TWAIT, TDEF, TSTATE and CBLD (R316-R318, R329). -/

namespace Sys2Proof.Proofs

open Sys2Proof Sys2Proof.Machine Sys2Proof.Safety Sys2Proof.Laws

/-- A trap that is no WINDOW is raised as it is (R439). -/
theorem issue_trap_uncounted {s : State} {u : Use} {body : State → List Word → Eff} {c : Nat} {v : Word} (h : Issues s u)
    (hb : body (begun s u) (operands s u) = .trap c v) (hc : c ≠ cWINDOW) :
    issue s u body = .next (raise (atReads s u.y) c v) :=
  (issue_trap h hb).trans (congrArg (fun t => Host.Outcome.next (raise t c v)) (found_of hc))

/-! How each instruction uses its fibre, and its effect. -/

/-- How TWAIT uses its fibre. -/
def twaitUse (y : Bool) (ta : BitVec 6) : Use := plainUse (.twait y ta) y [] 0

/-- What TWAIT does once it has issued (R318). -/
def twaitEff (ta : BitVec 6) (t : State) : Eff :=
  match namedTile t t.fib t.fib.core ta.toNat with
  | none => .trap (noTile t.fib ta.toNat) (zext ta)
  | some (k, a) => if teState a.ent = 2 then .done t else .park (.tile t.fib.core k) t

/-- How TDEF uses its fibre. -/
def tdefUse (y : Bool) (ga : Reg) (la : Bool) (n : BitVec 6) : Use := plainUse (.tdef y ga la n) y [(ga, la)] 0

/-- What TDEF of a value does once it has issued (R316). -/
def tdefEff (n : BitVec 6) (t : State) (w : Word) : Eff :=
  match tileSlot t t.fib t.fib.core n.toNat with
  | none => .trap (noTile t.fib n.toNat) (zext n)
  | some (k, base, len) =>
    match if teDef w then tdefCheck w len else none with
    | some c => .trap c (zext n)
    | none => defineEff t t.fib.core k base w

/-- How TSTATE uses its fibre. -/
def tstateUse (y : Bool) (gd : Reg) (set : Bool) (st : BitVec 2) (n : BitVec 6) : Use := plainUse (.tstate y gd set st n) y [] gd

/-- What TSTATE does once it has issued (R317). -/
def tstateEff (gd : Reg) (set : Bool) (st : BitVec 2) (n : BitVec 6) (t : State) : Eff :=
  match tileSlot t t.fib t.fib.core n.toNat with
  | none => .trap (noTile t.fib n.toNat) (zext n)
  | some (k, base, _) =>
    if set && !teDef (tileEnt t t.fib.core k) then .trap cTILEUNDEF (zext n)
    else stateEff t t.fib.core k base set st gd

/-- How CBLD uses its fibre. -/
def cbldUse (y : Bool) (ga : Reg) (la : Bool) : Use := { plainUse (.cbld y ga la) y [(ga, la)] 0 with ctx := noHandler (.cbld y ga la) }

/-- What CBLD does with its image, once that is read (R115, R329). -/
def bookEff (t : State) (ws : List Word) : Eff :=
  if !t.sched.defer && !bookRead t t.fib.core then .done (setBook t t.fib.core (bookOf ws)) else .hold (.codebook (bookOf ws)) t

/-- What CBLD of an address does once it has issued (R329). -/
def cbldEff (t : State) (va : Word) : Eff := if !aligned va 64 then .trap cALIGN va else readBlock 128 t va [] bookEff

theorem exec_twait (y : Bool) (ta : BitVec 6) (s : State) :
    exec (.twait y ta) s = issue s (twaitUse y ta) fun t _ => twaitEff ta t := rfl

theorem exec_tdef (y : Bool) (ga : Reg) (la : Bool) (n : BitVec 6) (s : State) :
    exec (.tdef y ga la n) s = issue s (tdefUse y ga la n) fun t v => tdefEff n t (arg v 0) := rfl

theorem exec_tstate (y : Bool) (gd : Reg) (set : Bool) (st : BitVec 2) (n : BitVec 6) (s : State) :
    exec (.tstate y gd set st n) s = issue s (tstateUse y gd set st n) fun t _ => tstateEff gd set st n t := rfl

theorem exec_cbld (y : Bool) (ga : Reg) (la : Bool) (s : State) :
    exec (.cbld y ga la) s = issue s (cbldUse y ga la) fun t v => cbldEff t (arg v 0) := rfl

section
variable {t : State} {n : BitVec 6} {k base len : Nat} {w va : Word} {gd : Reg} {set : Bool} {st : BitVec 2}

/-! TWAIT (R318). -/

theorem twaitEff_of_none (h : namedTile t t.fib t.fib.core n.toNat = none) :
    twaitEff n t = .trap (noTile t.fib n.toNat) (zext n) := by
  rw [twaitEff, h]

theorem twaitEff_of_some {a : TileAt} (h : namedTile t t.fib t.fib.core n.toNat = some (k, a)) :
    twaitEff n t = if teState a.ent = 2 then .done t else .park (.tile t.fib.core k) t := by
  rw [twaitEff, h]

/-! TDEF (R316). -/

theorem tdefEff_of_none (h : tileSlot t t.fib t.fib.core n.toNat = none) :
    tdefEff n t w = .trap (noTile t.fib n.toNat) (zext n) := by
  rw [tdefEff, h]

theorem tdefEff_of_refused {c : Nat} (h : tileSlot t t.fib t.fib.core n.toNat = some (k, base, len)) (hw : teDef w = true)
    (hc : tdefCheck w len = some c) : tdefEff n t w = .trap c (zext n) := by
  simp only [tdefEff, h, hw, hc, if_true]

/-- An entry that is cleared has no definition to check. -/
theorem tdefEff_of_fits (h : tileSlot t t.fib t.fib.core n.toNat = some (k, base, len)) (hc : teDef w = true → tdefCheck w len = none) :
    tdefEff n t w = defineEff t t.fib.core k base w := by
  have hnone : (if teDef w then tdefCheck w len else none) = none := ite_eq_right_iff.mpr hc
  simp only [tdefEff, h, hnone]

/-- What an entry waits for before it is rewritten (R316, R340, R352). -/
theorem entryBusy_iff (t : State) (core k base : Nat) : entryBusy t core k base = true ↔ tileMoving (tileEnt t core k) = true
    ∨ matrixNames t core k = true ∨ (teDef (tileEnt t core k) = true ∧ copyReadsEnt t core ⟨core, base, tileEnt t core k⟩ = true) := by
  simp only [entryBusy, Bool.or_eq_true, Bool.and_eq_true, or_assoc]

theorem entryBusy_false {core : Nat} (hm : tileMoving (tileEnt t core k) = false) (hn : matrixNames t core k = false)
    (hc : teDef (tileEnt t core k) = true → copyReadsEnt t core ⟨core, base, tileEnt t core k⟩ = false) :
    entryBusy t core k base = false := by
  rw [← Bool.not_eq_true, entryBusy_iff, hm, hn]
  rintro (h | h | ⟨hd, h⟩)
  · exact Bool.false_ne_true h
  · exact Bool.false_ne_true h
  · exact Bool.false_ne_true ((hc hd).symm.trans h)

theorem defineEff_of_free {core : Nat} (h : entryBusy t core k base = false) :
    defineEff t core k base w = .done (setTileEnt t core k (if teDef w then w else 0)) := if_neg (by simp [h])

theorem defineEff_of_busy {core : Nat} (h : entryBusy t core k base = true) :
    defineEff t core k base w = .later (.readers core k) (.define core k base w) t := if_pos h

/-! TSTATE (R317). -/

theorem tstateEff_of_none (h : tileSlot t t.fib t.fib.core n.toNat = none) :
    tstateEff gd set st n t = .trap (noTile t.fib n.toNat) (zext n) := by
  rw [tstateEff, h]

theorem tstateEff_of_undefined (h : tileSlot t t.fib t.fib.core n.toNat = some (k, base, len)) (hs : set = true)
    (hd : teDef (tileEnt t t.fib.core k) = false) : tstateEff gd set st n t = .trap cTILEUNDEF (zext n) := by
  simp only [tstateEff, h, hs, hd, Bool.not_false, Bool.and_self, if_true]

/-- An undefined entry may be read. -/
theorem tstateEff_of_slot (h : tileSlot t t.fib t.fib.core n.toNat = some (k, base, len))
    (hd : set = true → teDef (tileEnt t t.fib.core k) = true) :
    tstateEff gd set st n t = stateEff t t.fib.core k base set st gd := by
  have hn : ¬ (set && !teDef (tileEnt t t.fib.core k)) = true := by
    rw [Bool.and_eq_true, Bool.not_eq_true']
    exact fun ⟨hs, hf⟩ => Bool.false_ne_true (hf.symm.trans (hd hs))
  simp only [tstateEff, h, if_neg hn]

/-- What TSTATE waits for (R317, R340, R352). -/
theorem stateBusy_iff (t : State) (core k base : Nat) (set : Bool) : stateBusy t core k base set = true
    ↔ tileMoving (tileEnt t core k) = true
      ∨ (set = true ∧ (matrixReads t core k = true ∨ copyReadsEnt t core ⟨core, base, tileEnt t core k⟩ = true)) := by
  simp only [stateBusy, Bool.or_eq_true, Bool.and_eq_true]

theorem stateEff_of_read {core : Nat} (h : tileMoving (tileEnt t core k) = false) :
    stateEff t core k base false st gd = .done (setLong t gd (tileEnt t core k) 0) := by
  refine if_neg ?_
  rw [stateBusy_iff, h]
  simp

theorem stateEff_of_set {core : Nat} (hm : tileMoving (tileEnt t core k) = false) (hr : matrixReads t core k = false)
    (hc : copyReadsEnt t core ⟨core, base, tileEnt t core k⟩ = false) :
    stateEff t core k base true st gd = .done (setTileState (setLong t gd (tileEnt t core k) 0) core k st.toNat) := by
  refine if_neg ?_
  rw [stateBusy_iff, hm, hr, hc]
  simp

theorem stateEff_of_busy {core : Nat} (h : stateBusy t core k base set = true) :
    stateEff t core k base set st gd = .later (.readers core k) (.state core k base set st gd) t := if_pos h

/-! CBLD (R115, R329). -/

theorem cbldEff_of_misaligned (h : va.toNat % 64 ≠ 0) : cbldEff t va = .trap cALIGN va := if_pos (by simp [aligned, h])

theorem cbldEff_of_block {ws : List Word} {r : State} (h : va.toNat % 64 = 0) (hb : BlockReads 128 t va ws r) :
    cbldEff t va = bookEff r ws := by
  have ha : ¬ (!aligned va 64) = true := by simp [aligned, h]
  rw [cbldEff, if_neg ha, readBlock_of [] bookEff hb, List.nil_append]

theorem bookEff_of_free (ws : List Word) (hd : t.sched.defer = false) (hr : bookRead t t.fib.core = false) :
    bookEff t ws = .done (setBook t t.fib.core (bookOf ws)) := if_pos (by simp [hd, hr])

/-- The codebook is replaced later where an instruction issued earlier still reads it. -/
theorem bookEff_of_read (ws : List Word) (h : t.sched.defer = true ∨ bookRead t t.fib.core = true) :
    bookEff t ws = .hold (.codebook (bookOf ws)) t := by
  refine if_neg ?_
  rcases h with h | h
  · simp [h]
  · simp [h]

end

/-- Settles O39, instruction by instruction: each case of its effect is one way in which an issue ends. -/
theorem tilesAndCodebook : Obligations.TilesAndCodebook := by
  unfold Obligations.TilesAndCodebook
  refine ⟨?twait, ?tdef, ?tstate, ?cbld⟩
  case twait =>
    intro s y ta i u t h
    rw [exec_twait]
    refine ⟨fun hn => issue_trap h (twaitEff_of_none hn), fun k a ha => ⟨fun h2 => ?_, fun h2 => ?_⟩⟩
    · exact issue_done h ((twaitEff_of_some ha).trans (if_pos h2))
    · exact issue_park h ((twaitEff_of_some ha).trans (if_neg h2))
  case tdef =>
    intro s y ga la n i u t core w h
    rw [exec_tdef]
    refine ⟨fun hn => issue_trap h (tdefEff_of_none hn), ?_⟩
    intro k base len hk a
    refine ⟨fun c hw hc => issue_trap h (tdefEff_of_refused hk hw hc), fun hfits => ⟨fun hm hn hc => ?_, fun hb => ?_⟩⟩
    · exact issue_done h ((tdefEff_of_fits hk hfits).trans (defineEff_of_free (entryBusy_false hm hn hc)))
    · exact issue_later h ((tdefEff_of_fits hk hfits).trans (defineEff_of_busy ((entryBusy_iff t core k base).mpr hb)))
  case tstate =>
    intro s y gd set st n i u t core h
    rw [exec_tstate]
    refine ⟨fun hn => issue_trap h (tstateEff_of_none hn), ?_⟩
    intro k base len hk a
    refine ⟨fun hs hd => ?_, fun hs hm => ?_, fun hs hd hm hr hc => ?_, fun hd hb => ?_⟩
    · exact issue_trap_uncounted h (tstateEff_of_undefined hk hs hd) (by decide)
    · subst hs
      exact issue_done h ((tstateEff_of_slot hk fun hs => absurd hs Bool.false_ne_true).trans (stateEff_of_read hm))
    · subst hs
      exact issue_done h ((tstateEff_of_slot hk fun _ => hd).trans (stateEff_of_set hm hr hc))
    · exact issue_later h ((tstateEff_of_slot hk hd).trans (stateEff_of_busy ((stateBusy_iff t core k base set).mpr hb)))
  case cbld =>
    intro s y ga la ws t i u h
    rw [exec_cbld]
    refine ⟨fun ha => issue_trap_uncounted h (cbldEff_of_misaligned ha) (by decide), fun ha hb => ⟨fun hd hr => ?_, fun hr => ?_⟩⟩
    · exact issue_done h ((cbldEff_of_block ha hb).trans (bookEff_of_free ws hd hr))
    · exact issue_hold h ((cbldEff_of_block ha hb).trans (bookEff_of_read ws hr))

end Sys2Proof.Proofs

/-! The steps of the vector unit, the matrix array, the copy engine, the kick transfers and the indexes (R115, R120, R186-R193, R214, R229,
R313, R332-R339, R350). -/

namespace Sys2Proof.Proofs

open Sys2Proof Sys2Proof.Machine Sys2Proof.Safety Sys2Proof.Laws

/-! The vector unit, the codebook and GMSG's slot. -/

section
variable {s : State} {n : Nat} {f : Fibre}

/-- The state once a fibre's instruction has left its core's vector unit. -/
def vecTaken (s : State) (core n : Nat) : State :=
  setCore s core { coreOf s core with vec := (coreOf s core).vec.filter fun y => y.fib != n }

theorem vectorDone_of_job {core : Nat} {j : VecJob} {op : VOp} (hj : vecJobOf s n = some (core, j)) (ho : vecOp j.instr = some op) :
    vectorDone s n = vecComplete (vecTaken s core n) j core op := by
  simp only [vectorDone, hj, ho, vecTaken]

/-- An instruction of the unit whose operands raise nothing writes its results, and its flags with its end (R313, R108). -/
theorem vecComplete_of_no_trap {core : Nat} {j : VecJob} {op : VOp} {p : VPlan} (hf : fibreOf s j.fib = some f)
    (hp : vecNames j.pfx (jobLook core j) op = .ok p) (ht : vecTrap s f op p = none) :
    let o := vecOut s op p j.book
    vecComplete s j core op = complete (modFibre (vecWrite s p o) j.fib fun y => orFlags y o.flags) j.fib none := by
  simp only [vecComplete, hf, hp, ht]

theorem codebookReplace_of_unread {b : Tbl (BitVec 32)} (hf : fibreOf s n = some f) (hw : f.run = .parked (.codebook b))
    (hr : bookRead s f.core = false) : codebookReplace s n = complete (setBook s f.core b) n none := by
  simp only [codebookReplace, hf, hw, hr, Bool.false_eq_true, if_false]

theorem gmsgWrite_of_clean {j : SlotJob} (hf : fibreOf s n = some f) (hw : f.run = .parked (.slot j)) (hs : slotFree s j = true)
    (hp : slotPoison s j.va j.pas j.dim (j.damp != 0) = none) : let r := slotWrite s f.core j
    gmsgWrite s n = completeFl r.1 n (some r.2.1) r.2.2 := by
  simp only [gmsgWrite, hf, hw, hs, hp, if_true]

theorem gmsgWrite_of_poisoned {j : SlotJob} {v : Word} (hf : fibreOf s n = some f) (hw : f.run = .parked (.slot j))
    (hs : slotFree s j = true) (hp : slotPoison s j.va j.pas j.dim (j.damp != 0) = some v) :
    gmsgWrite s n = completeTrap s n cPOISON v := by
  simp only [gmsgWrite, hf, hw, hs, hp, if_true]

end

/-! The matrix array. -/

section
variable {s : State} {cl : Nat} {f : Fibre} {q : LeaseReq} {wait : List LeaseReq} {c : MCmd} {cmds : List MCmd}

/-- An idle array in service is given to the first that waits (R332). -/
theorem leaseGrant_of_free (hw : (arrayOf s cl).wait = q :: wait) (hl : (arrayOf s cl).lease = none) (hc : (arrayOf s cl).cmds = [])
    (hr : (arrayOf s cl).retired = false) : leaseGrant s cl = grantReq s cl q wait := by
  simp only [leaseGrant, hw, hl, hc, hr, Option.isSome_none, List.isEmpty_nil, Bool.not_true, Bool.or_self, Bool.false_eq_true, if_false]

/-- A grant to a fibre that waits in MLEASE: the lease with its bound, and MXA.SRC naming its own slot (R332, R333). -/
theorem grantReq_of_mlease (hf : fibreOf s q.fib = some f) (ha : q.again = false) :
    grantReq s cl q wait = complete (setArray s cl { arrayOf s cl with
      wait := wait
      lease := some ⟨f.id, f.core, q.bound, q.rel⟩
      src := BitVec.ofNat 8 ((ownSlot s f).getD 0 * 17)
      cmds := q.cmds }) q.fib none := by
  simp only [grantReq, hf, ha, grantTo, Option.map_some, Bool.false_eq_true, if_false]

theorem matrixStep_of_running (hc : (arrayOf s cl).cmds = c :: cmds) (hs : c.step < cmdSteps c) (hi : fibImaging s c.fib = false) :
    matrixStep s cl = setArray (stepCmd s c).1 cl { arrayOf (stepCmd s c).1 cl with cmds := (stepCmd s c).2 :: cmds } := by
  have hn : ¬ (cmdSteps c ≤ c.step ∨ fibImaging s c.fib = true) := by simp [hs, hi]
  simp only [matrixStep, hc, if_neg hn]

/-- A command but MST holds no fibre: its end leaves its flags (R108), and gives back an array that was to be released (R339). -/
theorem matrixDone_of_last_step (hc : (arrayOf s cl).cmds = c :: cmds) (hs : cmdSteps c ≤ c.step) (hf : c.fn ≠ 4) :
    matrixDone s cl = giveArray (cmdFlags (setArray s cl { arrayOf s cl with cmds := cmds }) c) cl := by
  have hn : ¬ c.step < cmdSteps c := Nat.not_lt.mpr hs
  simp only [matrixDone, hc, if_neg hn, hf, and_false, if_false]
  split <;> rfl

end

/-! The copy engine and its kick transfers. -/

section
variable {s : State} {core : Nat}

theorem copyStart_of_took {x : Copy} (hx : ((coreOf s core).fifo.find? fun y => !y.started) = some x) (ht : x.tookTile = true) :
    copyStart s core = setCore s core { coreOf s core with
      fifo := modWhere (fun z => z.id == x.id) (fun _ => { x with started := true }) (coreOf s core).fifo } := by
  simp only [copyStart, hx, ht, Bool.true_or, if_true]

/-- A started command at the head of its FIFO, with nothing earlier in its way (R350, R352, R175). -/
structure CopyDue (s : State) (core : Nat) (x : Copy) (rest : List Copy) : Prop where
  fifo : (coreOf s core).fifo = x :: rest
  started : x.started = true
  clear : copyClear s x = true
  first : ∀ k ∈ (coreOf s core).kicks, k.started = true → x.id ≤ k.id

theorem copyComplete_of_due {x : Copy} {rest : List Copy} (h : CopyDue s core x rest) :
    let g := gather s (copyAgent core x) (copySrc s x)
    copyComplete s core = if g.2 then finishCopy g.1 core x else g.1 := by
  have hk : ((coreOf s core).kicks.any fun k => k.started && decide (k.id < x.id)) = false := by
    refine List.any_eq_false.mpr fun k hk hlt => ?_
    obtain ⟨hs, hid⟩ := (Bool.and_eq_true _ _).mp hlt
    exact Nat.not_lt.mpr (h.first k hk hs) (of_decide_eq_true hid)
  simp only [copyComplete, h.fifo, h.started, h.clear, hk, Bool.not_true, Bool.or_self, Bool.false_eq_true, if_false]

/-- A notice as the engine takes it: its place in the FIFO, and its destination as it is translated now (R214, R356). -/
def noticeTaken (id : Nat) (dest : List Run × Nat) (k : Notice) : Notice := { k with
  id := id
  started := true
  runs := dest.1
  cause := BitVec.ofNat 6 dest.2 }

theorem kickStart_of_room {k : Notice} (hk : ((coreOf s core).kicks.find? fun y => !y.started) = some k)
    (hf : fifoUsed (coreOf s core) < 16) :
    let d := noticeDest s core k
    let r := freshId (countWindow s k.ten d.2)
    kickStart s core = setCore r.2 core { coreOf s core with
      kicks := modWhere (fun y => y.id == k.id) (noticeTaken r.1 d) (coreOf s core).kicks } := by
  have hn : ¬ 16 ≤ fifoUsed (coreOf s core) := Nat.not_le.mpr hf
  simp only [kickStart, hk, if_neg hn]
  rfl

/-- A taken notice with nothing earlier in its way (R214, R350, R175). -/
structure KickDue (s : State) (core : Nat) (k : Notice) (rest : List Notice) : Prop where
  kicks : (coreOf s core).kicks = k :: rest
  started : k.started = true
  clear : kickClear s k = true
  first : ∀ x ∈ (coreOf s core).fifo, k.id ≤ x.id

theorem KickDue.not_blocked {k : Notice} {rest : List Notice} (h : KickDue s core k rest) :
    ¬ (!k.started || !kickClear s k || (coreOf s core).fifo.any fun x => decide (x.id < k.id)) = true := by
  have hf : ((coreOf s core).fifo.any fun x => decide (x.id < k.id)) = false :=
    List.any_eq_false.mpr fun x hx hlt => Nat.not_lt.mpr (h.first x hx) (of_decide_eq_true hlt)
  simp [h.started, h.clear, hf]

/-- A transfer whose source has still to come from another module. -/
theorem kickComplete_of_waiting {k : Notice} {rest : List Notice} (h : KickDue s core k rest)
    (hm : (kickMove s core k).2.2.2 = false) : kickComplete s core = (kickMove s core k).1 := by
  simp only [kickComplete, h.kicks, if_neg h.not_blocked, hm, Bool.not_false, if_true]

/-- The state once a notice's words are moved and it has left its core. -/
def kickLeft (s : State) (core : Nat) (k : Notice) : State :=
  let t := dropFar (kickMove s core k).1 (.cmd k.id)
  setCore t core { coreOf t core with kicks := (coreOf t core).kicks.filter fun y => y.id != k.id }

/-- Address 0 names no stamp (R356). -/
theorem noticeStamp_zero (s : State) (core : Nat) (ten : BitVec 4) : noticeStamp s core ten 0 = none := if_pos (.inl rfl)

/-- A transfer for a sender on another module, without stamps, is over once its words are moved. -/
theorem kickComplete_of_no_stamps {k : Notice} {rest : List Notice} (h : KickDue s core k rest) (hr : k.rstamp = 0) (hs : k.sstamp = 0)
    (hm : (kickMove s core k).2.2.2 = true) (hown : isOwnIdent (kickLeft s core k) k.src = false) :
    kickComplete s core = kickLeft s core k := by
  unfold kickLeft at hown
  simp only [kickComplete, h.kicks, if_neg h.not_blocked, hm, hr, hs, noticeStamp_zero, hown, Bool.not_true, Bool.false_eq_true, if_false,
    if_true]
  rfl

theorem kickArrive_of_notice {k : Nat} {p : Packet} (ha : s.net.arrivals[k]? = some p) (hk : p.kind = 10) (ho : inOrder s k p = true) :
    kickArrive s k = noticeArrive (dropArrival s k) p := by
  simp only [kickArrive, ha, if_pos (And.intro hk ho)]

end

/-! The indexes. -/

section
variable {s : State} {n op : Nat} {anyOp : Bool} {c : IdxCmd} {ix : Index}

/-- A command of an open index. -/
structure OnIndex (s : State) (n : Nat) (c : IdxCmd) (ix : Index) : Prop where
  found : (s.idxCmds.find? fun x => x.id == n) = some c
  index : indexOf s c.num = some ix

/-- A mutation whose turn has come (R188, R360), at an event for its kind, or for any. -/
structure MutationDue (s : State) (n op : Nat) (anyOp : Bool) (c : IdxCmd) (ix : Index) : Prop extends OnIndex s n c ix where
  mutates : c.op ≠ 0
  asked : c.op = op ∨ anyOp = true
  next : mutationNext s c = true

theorem MutationDue.not_refused (h : MutationDue s n op anyOp c ix) :
    ¬ (c.op = 0 ∨ (c.op ≠ op ∧ anyOp = false) ∨ mutationNext s c = false) := by
  rintro (h0 | ⟨hop, hany⟩ | hm)
  · exact h.mutates h0
  · exact h.asked.elim hop fun ha => Bool.false_ne_true (hany.symm.trans ha)
  · exact Bool.false_ne_true (hm.symm.trans h.next)

/-- A mutation that has written nothing yet is performed (R189, R190). -/
theorem mutate_of_fresh (h : MutationDue s n op anyOp c ix) (hc : c.next = none) : let v : IxView := ⟨s, ix, idxAgent ix c⟩
    mutate s n op anyOp = if c.op = 1 then stvec v c else dlvec v c := by
  simp only [mutate, h.found, h.index, if_neg h.not_refused, hc]

/-- One whose words are on their way to other modules goes on with its commit (R188). -/
theorem mutate_of_committing {new : Index} (h : MutationDue s n op anyOp c ix) (hc : c.next = some new) :
    mutate s n op anyOp = resumeCommit s c ix new := by
  simp only [mutate, h.found, h.index, if_neg h.not_refused, hc]

/-- A search whose tile is taken is accepted: its snapshot is COMMIT (R191). -/
theorem acceptSearch_of_took (h : OnIndex s n c ix) (ho : c.op = 0) (ha : c.accepted = none) (hn : acceptNext s c = true)
    (ht : c.took = true) : acceptSearch s n = { s with
      idxCmds := modWhere (fun x => x.id == n) (fun x => { x with
        took := true
        accepted := some ix.commit }) s.idxCmds } := by
  have hr : ¬ (c.op ≠ 0 ∨ c.accepted.isSome = true ∨ acceptNext s c = false) := by simp [ho, ha, hn]
  simp only [acceptSearch, h.found, h.index, if_neg hr, ht, Bool.not_true, Bool.false_and, Bool.false_eq_true, if_false, if_true]

/-- A search that meets a memory error ends with it (R361). -/
theorem searchComplete_of_memory_error {snap : Nat} (h : OnIndex s n c ix) (ha : c.accepted = some snap)
    (hc : searchClear s c = true) (he : search ⟨s, ix, idxAgent ix c⟩ (distOf ix c.query) snap c.l = .error .mem) :
    searchComplete s n = stampError s c ix.ten := by
  have hr : searchRows ⟨s, ix, idxAgent ix c⟩ c snap = .error .mem := by
    simp only [searchRows, he]
    rfl
  simp only [searchComplete, h.found, h.index, ha, hc, hr, Bool.not_true, Bool.false_eq_true, if_false, ixStop]

/-- A search's result rows (R191): each of the best with its number and its distance. -/
def resultRows (ix : Index) (c : IdxCmd) (best : List ((Int × Nat) × (Nat × Rec))) (ws : List (Nat × List (BitVec 32))) :
    List (Nat × BitVec 32) := (best.zip ws).map fun z => (z.1.2.2.id, distOf ix c.query z.2.2)

theorem searchRows_of_reads {v : IxView} {snap : Nat} {vis : List (Int × Nat)} {rs : List (Nat × Rec)} {ws : List (Nat × List (BitVec 32))}
    (hv : search v (distOf v.ix c.query) snap c.l = .ok vis) (hr : withRecs v (vis.map (·.2)) = .ok rs)
    (hw : withVecs v ((bestOf c snap (vis.zip rs)).map fun z => z.1.2) = .ok ws) :
    searchRows v c snap = .ok (resultRows v.ix c (bestOf c snap (vis.zip rs)) ws, decide (vis.length ≤ c.l)) := by
  unfold bestOf at hw
  simp only [searchRows, hv, hr, hw, bind, Except.bind]
  rfl

/-- A search that reads all of its index writes its rows and its stamp (R191-R193). -/
theorem searchComplete_of_rows {snap : Nat} {rows : List (Nat × BitVec 32)} {exact : Bool} (h : OnIndex s n c ix)
    (ha : c.accepted = some snap) (hc : searchClear s c = true)
    (hr : searchRows ⟨s, ix, idxAgent ix c⟩ c snap = .ok (rows, exact))
    (hs : spadHeld s ix.ten c.mon (spadPa s c.core (c.base + teBase c.ent)) = true) :
    searchComplete s n = stampCmd (writeResults s c c.k 0 rows) c ix.ten
      (stampVal snap 0 exact (decide (rows.length < c.k)) rows.length) := by
  simp only [searchComplete, h.found, h.index, ha, hc, hr, hs, Bool.not_true, Bool.false_eq_true, if_false, if_true]

end

/-- Settles O53, event by event. -/
theorem unitEvents : Obligations.UnitEvents := by
  unfold Obligations.UnitEvents
  refine ⟨?vector, ?parked, ?lease, ?matrix, ?engine, ?notice, ?index⟩
  case vector =>
    intro s f core j op x p hj ho hfib t hf hp ht o
    subst hfib
    exact next_eq ((vectorDone_of_job hj ho).trans (vecComplete_of_no_trap hf hp ht))
  case parked =>
    intro s f x hf
    refine ⟨fun b hw hr => next_eq (codebookReplace_of_unread hf hw hr), fun j hw hs => ?_⟩
    exact ⟨fun hp => next_eq (gmsgWrite_of_clean hf hw hs hp), fun v hp => next_eq (gmsgWrite_of_poisoned hf hw hs hp)⟩
  case lease =>
    intro s cl q rest x hw hl hc hr hf ha
    exact next_eq ((leaseGrant_of_free hw hl hc hr).trans (grantReq_of_mlease hf ha))
  case matrix =>
    intro s cl c rest hc
    exact ⟨fun hs hi => next_eq (matrixStep_of_running hc hs hi), fun hs hf => next_eq (matrixDone_of_last_step hc hs hf)⟩
  case engine =>
    intro s core c
    refine ⟨fun x hx ht => next_eq (copyStart_of_took hx ht), fun x rest hq hs hc hk => ?_,
      fun k hk hf => next_eq (kickStart_of_room hk hf), fun k rest hq hs hc hx hr hst => ?_⟩
    · exact next_eq (copyComplete_of_due ⟨hq, hs, hc, hk⟩)
    · have h : KickDue s core k rest := ⟨hq, hs, hc, hx⟩
      exact ⟨fun hm => next_eq (kickComplete_of_waiting h hm), fun hm ho => next_eq (kickComplete_of_no_stamps h hr hst hm ho)⟩
  case notice =>
    intro s k p ha hk ho
    exact next_eq (kickArrive_of_notice ha hk ho)
  case index =>
    intro s n c ix hc hx v
    have h : OnIndex s n c ix := ⟨hc, hx⟩
    refine ⟨fun ho hm hn => ?_, fun ho hm hn => ?_, fun new hm hn => ⟨fun ho => ?_, fun ho => ?_⟩, fun ho ha hn ht => ?_,
      fun snap ha hs he => ?_, fun snap vis rs ws ha hs hv hr hw hheld => ?_⟩
    · exact ⟨next_eq ((mutate_of_fresh ⟨h, by omega, .inl ho, hm⟩ hn).trans (if_pos ho)),
        next_eq ((mutate_of_fresh ⟨h, by omega, .inr rfl, hm⟩ hn).trans (if_pos ho))⟩
    · exact next_eq ((mutate_of_fresh ⟨h, by omega, .inl ho, hm⟩ hn).trans (if_neg (by omega)))
    · exact next_eq (mutate_of_committing ⟨h, by omega, .inl ho, hm⟩ hn)
    · exact next_eq (mutate_of_committing ⟨h, by omega, .inl ho, hm⟩ hn)
    · exact next_eq (acceptSearch_of_took h ho ha hn ht)
    · exact next_eq (searchComplete_of_memory_error h ha hs he)
    · exact next_eq (searchComplete_of_rows h ha hs (searchRows_of_reads hv hr hw) hheld)

end Sys2Proof.Proofs

/-! What a tile definition must fit (R149), and what the six full/empty operations do to their word and its bit (R144, R293). -/

namespace Sys2Proof.Proofs

open Sys2Proof.Machine Sys2Proof.Safety Sys2Proof.Laws

/-! Tile definitions (R149), with the causes by their numbers. -/

section
variable {e : BitVec 64} {len : Nat}

theorem defineCheck_of_reserved_format (hf : teFmt e = 15) : defineCheck e len = some 0x0E := if_pos hf

theorem defineCheck_of_reserved_span (hf : teFmt e ≠ 15) (hz : teSwz e = 7) : defineCheck e len = some 0x02 :=
  (if_neg hf).trans (if_pos hz)

/-- R149's second item: a shape that its pitch, 65,536 bytes or a reservation of `len` bytes does not allow. -/
def ShapeRefused (e : BitVec 64) (len : Nat) : Prop :=
  let rb := rowBytes (teFmt e) (teCols e)
  tePitch e < rb ∨ 65536 < teExtent e rb ∨ len < teBase e + teExtent e rb ∨ (teSwz e ≠ 0 ∧ ¬8 * 2 ^ teSwz e ∣ tePitch e)

/-- Past its codes, a definition is refused for its shape alone. -/
theorem defineCheck_of_codes [Decidable (ShapeRefused e len)] (hf : teFmt e ≠ 15) (hz : teSwz e ≠ 7) :
    defineCheck e len = if ShapeRefused e len then some 0x0B else none := by
  simp only [defineCheck, if_neg hf, if_neg hz, ShapeRefused, Nat.dvd_iff_mod_eq_zero, ne_eq, gt_iff_lt, cTILESHAPE]

end

/-- Settles O40, check by check in the order of R149. -/
theorem tileDefinitionsFit : Obligations.TileDefinitionsFit := by
  unfold Obligations.TileDefinitionsFit
  intro e len
  classical
  exact ⟨defineCheck_of_reserved_format, defineCheck_of_reserved_span,
    fun hf hz (hs : ShapeRefused e len) => (defineCheck_of_codes hf hz).trans (if_pos hs),
    fun hf hz (hs : ¬ShapeRefused e len) => (defineCheck_of_codes hf hz).trans (if_neg hs)⟩

/-! Sets of numbers. -/

theorem sHas_cons (k : Nat) (l : List Nat) (x : Nat) : sHas (k :: l) x = (k == x || sHas l x) := rfl

theorem sHas_sAdd (l : List Nat) (a x : Nat) : sHas (sAdd l a) x = (a == x || sHas l x) := by
  induction l with
  | nil => rfl
  | cons k r ih =>
    unfold sAdd
    split
    · rfl
    · split
      next hk => simp [sHas_cons, hk]
      next => rw [sHas_cons, ih, sHas_cons, Bool.or_left_comm]

theorem sHas_sDel (l : List Nat) (a x : Nat) : sHas (sDel l a) x = (a != x && sHas l x) := by
  rw [Bool.eq_iff_iff]
  simp only [sHas, sDel, List.any_filter, List.any_eq_true, Bool.and_eq_true, bne_iff_ne, beq_iff_eq]
  constructor
  · rintro ⟨y, hy, hya, rfl⟩
    exact ⟨hya.symm, y, hy, rfl⟩
  · rintro ⟨hax, y, hy, rfl⟩
    exact ⟨y, hy, hax.symm, rfl⟩

/-! The full/empty bits (R144). -/

theorem isFull_of_full_eq {s t : State} (h : t.ms.full = s.ms.full) (x : Nat) : isFull t x = isFull s x := by
  rw [isFull, h, isFull]

/-- Setting a word's bit sets it at every byte of that word and nowhere else. -/
theorem isFull_setFull (s : State) (pa : Nat) (b : Bool) (x : Nat) :
    isFull (setFull s pa b) x = if x / 8 = pa / 8 then b else isFull s x := by
  by_cases hx : x / 8 = pa / 8
  · cases b <;> simp [isFull, setFull, sHas_sAdd, sHas_sDel, hx]
  · cases b <;> simp [isFull, setFull, sHas_sAdd, sHas_sDel, hx, Ne.symm hx]

@[simp] theorem isFull_setFull_same (s : State) (pa : Nat) (b : Bool) : isFull (setFull s pa b) pa = b :=
  (isFull_setFull s pa b pa).trans (if_pos rfl)

theorem isFull_setFull_other (s : State) {pa x : Nat} (b : Bool) (h : x / 8 ≠ pa / 8) : isFull (setFull s pa b) x = isFull s x :=
  (isFull_setFull s pa b x).trans (if_neg h)

/-! What performing a full/empty operation is made of: the clocks of both ends (R167), and the store of its word (R169). -/

@[simp] theorem exchange_ms (s : State) (a b : Nat) : (exchange s a b).ms = s.ms := by
  unfold exchange
  split
  · rfl
  · exact (raiseClock_ms _ _ _).trans (raiseClock_ms _ _ _)

@[simp] theorem stampStore_full (s : State) (r : Req) : (stampStore s r).ms.full = s.ms.full := by
  unfold stampStore backTs
  dsimp only
  split
  · rw [raiseClock_ms]
    rfl
  · rfl

/-- The state once a request has come to its scratchpad, with the clocks of both ends. -/
def atSpad (s : State) (r : Req) : State := exchange s r.core (spadCore r.pa)

theorem atSpad_ms (s : State) (r : Req) : (atSpad s r).ms = s.ms := exchange_ms s _ _

@[simp] theorem atSpad_mem (s : State) (r : Req) : (atSpad s r).ms.mem = s.ms.mem := congrArg MemSys.mem (atSpad_ms s r)

@[simp] theorem atSpad_full (s : State) (r : Req) : (atSpad s r).ms.full = s.ms.full := congrArg MemSys.full (atSpad_ms s r)

/-- The state once a request has stored its eight bytes at its scratchpad. -/
def wordStored (s : State) (r : Req) : State := stampStore (wrHome (atSpad s r) r.pa 8 r.data.toNat) r

@[simp] theorem wordStored_full (s : State) (r : Req) : (wordStored s r).ms.full = s.ms.full := by
  rw [wordStored, stampStore_full, wrHome, atSpad_full]

theorem wordStored_mem (s : State) (r : Req) : (wordStored s r).ms.mem = mwr s.ms.mem r.pa 8 r.data.toNat := by
  rw [wordStored, mem_stampStore, wrHome, atSpad_mem]

/-- The stored word reads as the request's data. -/
theorem mrd_wordStored {s : State} (r : Req) (h : Canonical s) : mrd (wordStored s r).ms.mem r.pa 8 = r.data.toNat := by
  rw [wordStored_mem, mrd_mwr_same _ _ _ _ h]
  exact Nat.mod_eq_of_lt r.data.isLt

theorem sameMemoryBut_wordStored {s : State} (r : Req) (h : Canonical s) : SameMemoryBut s (wordStored s r) r.pa 8 := by
  intro b hb
  rw [wordStored_mem, mget_mwr_other _ _ _ _ _ h hb]

/-! The six operations by their numbers, and what any of them may do to the bits. -/

section
variable {s : State} {r : Req}

theorem performFe_ldf (h : r.op = 0) : performFe s r = (atSpad s r, mrd s.ms.mem r.pa 8) := by
  simp only [performFe, h, exchange_ms, atSpad]

theorem performFe_ldfe (h : r.op = 1) : performFe s r = (setFull (atSpad s r) r.pa false, mrd s.ms.mem r.pa 8) := by
  simp only [performFe, h, exchange_ms, atSpad]

theorem performFe_ste (h : r.op = 2) : performFe s r = (wordStored s r, 0) := by
  simp only [performFe, h, wordStored, atSpad]

theorem performFe_stf (h : r.op = 3) : performFe s r = (setFull (wordStored s r) r.pa true, 0) := by
  simp only [performFe, h, wordStored, atSpad]

theorem performFe_feq (h : r.op = 4) : performFe s r = (atSpad s r, if isFull s r.pa then 1 else 0) := by
  rw [← isFull_of_full_eq (atSpad_full s r), atSpad]
  simp only [performFe, h]

theorem performFe_feset (h : r.op = 5) : performFe s r = (setFull (atSpad s r) r.pa (r.data != 0), 0) := by
  simp only [performFe, h, atSpad]

end

/-- Whatever the operation, it leaves the bits as they are or sets its own word's. -/
theorem performFe_bits (s : State) (r : Req) : ∃ t : State, t.ms.full = s.ms.full
    ∧ ((performFe s r).1 = t ∨ ∃ b, (performFe s r).1 = setFull t r.pa b) := by
  have hs := atSpad_full s r
  have hw := wordStored_full s r
  unfold performFe
  dsimp only
  split
  · exact ⟨atSpad s r, hs, .inl rfl⟩
  · exact ⟨atSpad s r, hs, .inr ⟨false, rfl⟩⟩
  · exact ⟨wordStored s r, hw, .inl rfl⟩
  · exact ⟨wordStored s r, hw, .inr ⟨true, rfl⟩⟩
  · exact ⟨wordStored s r, hw, .inr ⟨true, rfl⟩⟩
  · exact ⟨atSpad s r, hs, .inl rfl⟩
  · exact ⟨atSpad s r, hs, .inr ⟨r.data != 0, rfl⟩⟩

/-- The bits of all other words stay. -/
theorem isFull_performFe_other (s : State) (r : Req) {x : Nat} (h : x / 8 ≠ r.pa / 8) :
    isFull (performFe s r).1 x = isFull s x := by
  obtain ⟨t, ht, he | ⟨b, he⟩⟩ := performFe_bits s r
  · rw [he, isFull_of_full_eq ht]
  · rw [he, isFull_setFull_other t b h, isFull_of_full_eq ht]

/-- Settles O18, operation by operation. -/
theorem fullEmptyEffects : Obligations.FullEmptyEffects := by
  unfold Obligations.FullEmptyEffects
  intro s r hc _ _ _
  have hmem := atSpad_mem s r
  have hfull := atSpad_full s r
  have hword := mrd_wordStored r hc
  have hrest := sameMemoryBut_wordStored r hc
  refine ⟨fun h => ?ldf, fun h => ?ldfe, fun h => ?ste, fun h => ?stf, fun h => ?feq, fun h => ?feset,
    fun x => isFull_performFe_other s r⟩
  case ldf =>
    rw [performFe_ldf h]
    exact ⟨rfl, hmem, hfull⟩
  case ldfe =>
    rw [performFe_ldfe h]
    exact ⟨rfl, (mem_setFull _ _ _).trans hmem, isFull_setFull_same _ _ _⟩
  case ste =>
    rw [performFe_ste h]
    exact ⟨hword, hrest, wordStored_full s r⟩
  case stf =>
    rw [performFe_stf h]
    exact ⟨hword, hrest, isFull_setFull_same _ _ _⟩
  case feq =>
    rw [performFe_feq h]
    exact ⟨rfl, hmem, hfull⟩
  case feset =>
    rw [performFe_feset h]
    exact ⟨isFull_setFull_same _ _ _, (mem_setFull _ _ _).trans hmem⟩

end Sys2Proof.Proofs

/-! FENCE, WAITA and NOTIFY (R164, R299, R300, R302). -/

namespace Sys2Proof.Proofs

open Sys2Proof Sys2Proof.Machine Sys2Proof.Safety Sys2Proof.Laws

/-! What neither the issue of an instruction nor a change of the memory system alone bears on: which addresses lie on other modules, the
scope of a wait, and which lines are lost. -/

theorem memOnly_touched (s : State) (a : Acc) : MemOnly s (touched s a) := by
  unfold MemOnly
  rw [touched_keeps]

theorem memOnly_releaseAt (s : State) (ten : BitVec 4) (core : Nat) (sc : BitVec 4) : MemOnly s (releaseAt s ten core sc) :=
  memOnly_releaseCopies s core (scopeLevel s ten core sc)

section
variable {s t : State}

theorem MemOnly.isRemote_eq (h : MemOnly s t) (pa : Nat) : isRemote t pa = isRemote s pa := by
  rw [h]
  rfl

theorem MemOnly.waitScope_eq (h : MemOnly s t) (core pa : Nat) : waitScope t core pa = waitScope s core pa := by
  rw [h]
  rfl

theorem MemOnly.homeLost_eq (h : MemOnly s t) (pa : Nat) : homeLost t pa = homeLost s pa := by
  rw [h]
  rfl

end

/-- What an instruction's issue changes: its fibre, and the model's own bookkeeping. -/
theorem onlyFibre_begun (s : State) (u : Use) : OnlyFibre s (begun s u) := by
  unfold OnlyFibre begun afterReads atReads
  split <;> rfl

theorem isRemote_begun (s : State) (u : Use) (pa : Nat) : isRemote (begun s u) pa = isRemote s pa := by
  rw [onlyFibre_begun s u]
  rfl

theorem homeLost_begun (s : State) (u : Use) (pa : Nat) : homeLost (begun s u) pa = homeLost s pa := by
  rw [onlyFibre_begun s u]
  rfl

/-- An address of this module is one in the state in which its access is made. -/
theorem isRemote_touched_begun {s : State} {u : Use} {a : Acc} {pa : Nat} (h : isRemote s pa = false) :
    isRemote (touched (begun s u) a) pa = false :=
  ((memOnly_touched _ a).isRemote_eq pa).trans ((isRemote_begun s u pa).trans h)

theorem allPerformed_touched (s : State) (a : Acc) (f : Nat) : allPerformed (touched s a) f = allPerformed s f := by
  rw [touched_keeps]
  rfl

theorem aligned_iff (va : Word) (n : Nat) : aligned va n = true ↔ va.toNat % n = 0 := beq_iff_eq

/-! How the three use their fibre, and their effects. -/

/-- How FENCE uses its fibre. -/
def fenceUse (y : Bool) (scope : BitVec 4) : Use := { plainUse (.fence y scope) y [] 0 with fail := true }

/-- How WAITA uses its fibre. -/
def waitaUse (y : Bool) (gd ga : Reg) (la : Bool) (gb : Reg) (lb word4 : Bool) : Use :=
  let i := Instr.waita y gd ga la gb lb word4
  ⟨i, y, false, 0, noHandler i, [(ga, la), (gb, lb)], gd, true⟩

/-- How NOTIFY uses its fibre. -/
def notifyUse (y : Bool) (gd ga : Reg) (la all : Bool) : Use :=
  { plainUse (.notify y gd ga la all) y [(ga, la)] gd with fail := true }

/-- WAITA once its address is checked (R299); operation 1 is one that its core has no monitor left for. -/
def waitaAt (n : Nat) (va expect : Word) (d : Reg) (t : State) (a : Acc) : Eff :=
  let full := b1 (isRemote t a.pa && monitorsFull t t.fib.core)
  accessEff t 2 (withOrder t { mkReq t .waita full n a va with expect := expect } (some (waitScope t t.fib.core a.pa)) none false) d

/-- WAITA's access at a word of this module: an acquire at its scope, carrying the expected value (R299). -/
def waitaReq (t : State) (n : Nat) (a : Acc) (va expect : Word) : Req :=
  withOrder t { mkReq t .waita 0 n a va with expect := expect } (some (waitScope t t.fib.core a.pa)) none false

/-- What NOTIFY does at a word's home, after its release (R300). -/
def notified (t : State) (pa : Nat) (all : Bool) : State × Nat :=
  let r := releaseAt t t.fib.ident.tenant t.fib.core (waitScope t t.fib.core pa)
  notifyAt (exchange r t.fib.core (homeUnit r pa)) t.fib.ident.tenant pa all

theorem exec_fence (y : Bool) (scope : BitVec 4) (s : State) :
    exec (.fence y scope) s = issue s (fenceUse y scope) fun t _ => fenceEff t scope := rfl

theorem exec_waita (y : Bool) (gd ga : Reg) (la : Bool) (gb : Reg) (lb word4 : Bool) (s : State) :
    exec (.waita y gd ga la gb lb word4) s = issue s (waitaUse y gd ga la gb lb word4) fun t v =>
      let n := if word4 then 4 else 8
      accessStay t .load n (arg v 0) notTarget (waitaAt n (arg v 0) (arg v 1) gd) := rfl

theorem exec_notify (y : Bool) (gd ga : Reg) (la all : Bool) (s : State) :
    exec (.notify y gd ga la all) s = issue s (notifyUse y gd ga la all) fun t v =>
      if !aligned (arg v 0) 4 then .trap cALIGN (arg v 0)
      else accessStay t .atomic (if aligned (arg v 0) 8 then 8 else 4) (arg v 0) notTarget fun t a =>
        notifyEff t { mkReq t .notify (b1 all) 4 a (arg v 0) with uns := all } gd := rfl

/-- With every earlier access performed, FENCE is a release and an acquire (R164). -/
theorem fenceEff_of_performed {t : State} (scope : BitVec 4) (hp : allPerformed t t.fib.id = true) :
    fenceEff t scope = .done (acquireAt (releaseAt t t.fib.ident.tenant t.fib.core scope) t.fib.ident.tenant t.fib.core scope) := by
  simp only [fenceEff, hp, releaseAt_fib, Bool.not_true, Bool.false_eq_true, if_false]

theorem exec_fence_of_performed {s : State} {y : Bool} {scope : BitVec 4} (h : Issues s (fenceUse y scope))
    (hp : allPerformed s s.fib.id = true) : exec (.fence y scope) s = .next (finished (fenceUse y scope)
      (acquireAt (releaseAt (begun s (fenceUse y scope)) s.fib.ident.tenant s.fib.core scope) s.fib.ident.tenant s.fib.core scope)) := by
  have he := fenceEff_of_performed scope ((allPerformed_begun s (fenceUse y scope)).trans hp)
  rw [begun_fib_ident, begun_fib_core] at he
  rw [exec_fence]
  exact issue_done h he

/-! An access that may wait at its home, on this module (R145, R299): its outcomes at issue, and its queueing behind earlier ones. -/

section
variable {t : State} {r : Req} (d : Reg)

/-- A request that no engine's ownership and no earlier access holds back goes to its home (R162, R175). -/
theorem accessEff_of_free (hid : r.id = t.sched.nextId) (ho : owned t r.pa r.n = false) (hf : mustFollow t r = false) :
    accessEff t 2 r d = doWait t r d true := by
  have hr : { r with id := t.sched.nextId } = r := hid ▸ rfl
  simp only [accessEff, hr, ho, hf, Bool.false_eq_true, if_false]

theorem doWait_of_done {w : State} {v : Word} (hr : isRemote t r.pa = false) (ha : atIssue t r = true)
    (hp : performHere t r = .done w v) : doWait t r d true = .done (setLong w d v 0) := by
  simp only [doWait, hr, ha, hp, Bool.false_eq_true, if_false, if_true]

theorem doWait_of_fail {w : State} {c : Nat} (hr : isRemote t r.pa = false) (ha : atIssue t r = true)
    (hp : performHere t r = .fail w c) : doWait t r d true = .done (setFailed w d c r.va) := by
  simp only [doWait, hr, ha, hp, Bool.false_eq_true, if_false, if_true]

theorem doWait_of_wait {w : State} (hr : isRemote t r.pa = false) (ha : atIssue t r = true) (hp : performHere t r = .wait w) :
    doWait t r d true = .hold (.req r.id) (queueReq w { r with arrived := true, place := r.id } false) := by
  simp only [doWait, hr, ha, hp, Bool.false_eq_true, if_false, if_true]

theorem doWait_of_queued (hr : isRemote t r.pa = false) (ha : atIssue t r = false) :
    doWait t r d true = .hold (.req r.id) (queueReq t r false) := by
  simp only [doWait, hr, ha, Bool.false_eq_true, if_false]

end

/-- An acquire without .sc need not follow the fibre's earlier accesses (R162, R168). -/
theorem mustFollow_waitaReq (t : State) (n : Nat) (a : Acc) (va expect : Word) : mustFollow t (waitaReq t n a va expect) = false := rfl

/-- WAITA whose checks pass on a word of this module goes to its home. -/
theorem waita_of_reachable {s : State} {n : Nat} {a : Acc} {va expect : Word} (d : Reg) (hr : Reachable s .load n va notTarget a)
    (hh : isRemote (touched s a) a.pa = false) :
    accessStay s .load n va notTarget (waitaAt n va expect d) = doWait (touched s a) (waitaReq (touched s a) n a va expect) d true := by
  rw [accessStay_of _ hr, waitaAt, hh]
  exact accessEff_of_free d rfl ((owned_touched s a a.pa n).trans hr.free) (mustFollow_waitaReq _ n a va expect)

/-- WAITA on a word of this module does what its access at the word's home does (R299). -/
theorem exec_waita_of_reachable {s : State} {y : Bool} {gd ga : Reg} {la : Bool} {gb : Reg} {lb word4 : Bool} {a : Acc}
    (h : Issues s (waitaUse y gd ga la gb lb word4))
    (hr : Reachable (begun s (waitaUse y gd ga la gb lb word4)) .load (if word4 then 4 else 8)
      (operand s (waitaUse y gd ga la gb lb word4) 0) notTarget a) (hh : isRemote s a.pa = false) :
    let u := waitaUse y gd ga la gb lb word4
    let t := touched (begun s u) a
    exec (.waita y gd ga la gb lb word4) s = .next (carry (atReads s y) u
      (doWait t (waitaReq t (if word4 then 4 else 8) a (operand s u 0) (operand s u 1)) gd true)) := by
  intro u t
  rw [exec_waita, issue_of s u _ h]
  exact next_eq (congrArg (carry (atReads s y) u) (waita_of_reachable gd hr (isRemote_touched_begun hh)))

/-- NOTIFY with every earlier access performed, at a word of this module that is not lost (R300). -/
theorem notifyEff_of_home {t : State} {r : Req} (d : Reg) (hp : allPerformed t t.fib.id = true) (hr : isRemote t r.pa = false)
    (hl : homeLost t r.pa = false) :
    notifyEff t r d = .done (setLong (notified t r.pa r.uns).1 d (BitVec.ofNat 64 (notified t r.pa r.uns).2) 0) := by
  have hm := memOnly_releaseAt t t.fib.ident.tenant t.fib.core (waitScope t t.fib.core r.pa)
  simp only [notifyEff, hp, hm.isRemote_eq, hr, hm.homeLost_eq, hl, releaseAt_fib, Bool.not_true, Bool.false_eq_true, if_false, notified]

theorem exec_notify_of_home {s : State} {y : Bool} {gd ga : Reg} {la all : Bool} {a : Acc} (h : Issues s (notifyUse y gd ga la all))
    (ha : (operand s (notifyUse y gd ga la all) 0).toNat % 4 = 0)
    (hr : Reachable (begun s (notifyUse y gd ga la all)) .atomic
      (if (operand s (notifyUse y gd ga la all) 0).toNat % 8 = 0 then 8 else 4) (operand s (notifyUse y gd ga la all) 0) notTarget a)
    (hp : allPerformed s s.fib.id = true) (hh : isRemote s a.pa = false) (hl : homeLost s a.pa = false) :
    let r := notified (touched (begun s (notifyUse y gd ga la all)) a) a.pa all
    exec (.notify y gd ga la all) s = .next (finished (notifyUse y gd ga la all) (setLong r.1 gd (BitVec.ofNat 64 r.2) 0)) := by
  intro r
  have hpt : allPerformed (touched (begun s (notifyUse y gd ga la all)) a) (touched (begun s (notifyUse y gd ga la all)) a).fib.id = true := by
    rw [touched_fib, allPerformed_touched, allPerformed_begun, hp]
  have hlt : homeLost (touched (begun s (notifyUse y gd ga la all)) a) a.pa = false :=
    ((memOnly_touched _ a).homeLost_eq a.pa).trans ((homeLost_begun s _ a.pa).trans hl)
  have h4 : ¬(!aligned (operand s (notifyUse y gd ga la all) 0) 4) = true := by
    rw [(aligned_iff _ 4).mpr ha]
    exact Bool.false_ne_true
  simp only [← aligned_iff _ 8] at hr
  rw [exec_notify]
  exact issue_done h ((if_neg h4).trans ((accessStay_of _ hr).trans (notifyEff_of_home gd hpt (isRemote_touched_begun hh) hlt)))

/-- The release and the step at the home as the fibre's state before issue gives them. -/
theorem notified_touched_begun (s : State) (u : Use) (a : Acc) (all : Bool) :
    let t := releaseAt (touched (begun s u) a) s.fib.ident.tenant s.fib.core (waitScope (begun s u) s.fib.core a.pa)
    notified (touched (begun s u) a) a.pa all = notifyAt (exchange t s.fib.core (homeUnit t a.pa)) s.fib.ident.tenant a.pa all := by
  simp only [notified, touched_fib, begun_fib_ident, begun_fib_core, (memOnly_touched _ a).waitScope_eq]

/-- Settles O22: each of the three goes through its effect, WAITA through the outcome of its access at the home. -/
theorem fencesAndWaits : Obligations.FencesAndWaits := by
  unfold Obligations.FencesAndWaits
  refine ⟨?fence, ?waita, ?notify⟩
  case fence =>
    intro s y scope u h hp
    exact exec_fence_of_performed h hp
  case waita =>
    intro s y gd ga la gb lb word4 a i u n t r h hr hh
    have hrt : isRemote t a.pa = false := isRemote_touched_begun hh
    have he : exec i s = .next (carry (atReads s y) u (doWait t r gd true)) := exec_waita_of_reachable h hr hh
    refine ⟨fun w v ha hd => ?done, fun w c ha hf => ?fail, fun w ha hw => ?wait, fun ha => ?queued⟩
    case done =>
      rw [he, doWait_of_done gd hrt ha hd]
      rfl
    case fail =>
      rw [he, doWait_of_fail gd hrt ha hf]
      rfl
    case wait =>
      rw [he, doWait_of_wait gd hrt ha hw]
      rfl
    case queued =>
      rw [he, doWait_of_queued gd hrt ha]
      rfl
  case notify =>
    intro s y gd ga la all a u ea t r h h4 hr hp hh hl
    have he := exec_notify_of_home h h4 hr hp hh hl
    rw [notified_touched_begun] at he
    exact he

end Sys2Proof.Proofs

/-! The steps by which messages and requests of other agents are taken (R170, R171, R210-R213, R216-R218, R363-R368, R437). -/

namespace Sys2Proof.Proofs

open Sys2Proof Sys2Proof.Machine Sys2Proof.Safety Sys2Proof.Laws

/-! The receive engines: posts, cancels, pulls, and the arrival of sends. -/

/-- In the order of the dies, those before a given one are the lower ones. -/
theorem dies_split {d : Nat} (h : d < 4) : ∃ pre post, [0, 1, 2, 3] = pre ++ d :: post ∧ ∀ e ∈ pre, e < d := by
  match d, h with
  | 0, _ => exact ⟨[], [1, 2, 3], rfl, by decide⟩
  | 1, _ => exact ⟨[0], [2, 3], rfl, by decide⟩
  | 2, _ => exact ⟨[0, 1], [3], rfl, by decide⟩
  | 3, _ => exact ⟨[0, 1, 2], [], rfl, by decide⟩

section
variable {s : State} {d f c : Nat} {pre post : List Nat}

/-- The engine of a die once a fibre's post has left those that wait. -/
def postingTaken (s : State) (d f : Nat) : State :=
  setRecv s d { recvOf s d with posting := (recvOf s d).posting.filter fun y => y.1 != f }

/-- The engine of a die once a pull has left it. -/
def pullTaken (s : State) (d c : Nat) : State :=
  setRecv s d { recvOf s d with pulls := (recvOf s d).pulls.filter fun x => x.id != c }

/-- A fibre's post waits at an engine, and at none before it. -/
theorem postEvent_of_first {x : Nat × Word × Recv} (hn : ∀ e ∈ pre, ((recvOf s e).posting.find? fun y => y.1 == f) = none)
    (hx : ((recvOf s d).posting.find? fun y => y.1 == f) = some x) :
    postEvent s f (pre ++ d :: post) = if 4096 ≤ (recvOf s d).posted.length then completeTrap (postingTaken s d f) f cQFULL x.2.1
      else complete (postRecv (postingTaken s d f) d x.2.2) f none := by
  induction pre with
  | nil => simp only [List.nil_append, postEvent, hx, postingTaken]
  | cons e pre ih =>
    have he := hn e List.mem_cons_self
    simp only [List.cons_append, postEvent, he]
    exact ih fun k hk => hn k (List.mem_cons_of_mem e hk)

theorem cancelEvent_of_parked {x : Fibre} {va : Word} (hx : fibreOf s f = some x) (hr : x.run = .parked (.cancel va)) :
    cancelEvent s f = complete (cancelRecv s (dieOf x.core) x.ident.tenant va) f none := by
  simp only [cancelEvent, hx, hr]

/-- A pull is in progress at an engine, and at none before it. -/
theorem pullComplete_of_first {p : Pull} (hn : ∀ e ∈ pre, ((recvOf s e).pulls.find? fun x => x.id == c) = none)
    (hp : ((recvOf s d).pulls.find? fun x => x.id == c) = some p) (hc : recvClear s p.recv = true) :
    pullComplete s c (pre ++ d :: post) = pullNow s d p := by
  induction pre with
  | nil => simp only [List.nil_append, pullComplete, hp, hc, if_true]
  | cons e pre ih =>
    have he := hn e List.mem_cons_self
    simp only [List.cons_append, pullComplete, he]
    exact ih fun k hk => hn k (List.mem_cons_of_mem e hk)

/-- An eager message's payload came with it (R218). -/
theorem pullNow_of_eager {p : Pull} (hk : p.req.kind ≠ 7) :
    pullNow s d p = landNow (pullTaken s d p.id) d p.recv p.req (eagerPayload s p.req) := by
  simp only [pullNow, if_neg hk, pullTaken]

/-- A rendezvous message's payload has still to come from another module. -/
theorem pullNow_of_waiting {p : Pull} {t : State} (hk : p.req.kind = 7) (hp : pulledPayload s p.id p.recv p.req = (t, none)) :
    pullNow s d p = t := by
  simp only [pullNow, if_pos hk, hp]

theorem pullNow_of_pulled {p : Pull} {t : State} {pay : Payload} (hk : p.req.kind = 7)
    (hp : pulledPayload s p.id p.recv p.req = (t, some pay)) : pullNow s d p = landNow (pullTaken t d p.id) d p.recv p.req pay := by
  simp only [pullNow, if_pos hk, hp, pullTaken]

end

section
variable {s : State} {k : Nat} {p : Packet}

/-- How many bytes the eager packets of a message carry: its own, and the value for poisoned words where it has some (R218, R422). -/
def eagerLen (p : Packet) : Nat := msgLen p + (if p.status = 7 then 8 else 0)

/-- The first packet of an eager message, in its pair's order (R178, R218). -/
structure EagerFirst (s : State) (k : Nat) (p : Packet) : Prop where
  arrival : s.net.arrivals[k]? = some p
  kind : p.kind = 6
  first : p.second = false
  order : inOrder s k p = true

theorem EagerFirst.not_refused (h : EagerFirst s k p) : ¬ (p.kind ≠ 6 ∨ p.second = true ∨ inOrder s k p = false) := by
  simp [h.kind, h.first, h.order]

theorem eagerArrive_of_one (h : EagerFirst s k p) (hl : eagerLen p ≤ 3804) : eagerArrive s k = sendArrive (dropArrival s k) p := by
  unfold eagerLen at hl
  simp only [eagerArrive, h.arrival, if_neg h.not_refused, if_pos hl]

/-- The arrivals without a message's first packet, and with those after it. -/
def arrivalsLeft (s : State) (k : Nat) (rest : List Packet) : State :=
  { s with net := { s.net with arrivals := s.net.arrivals.take k ++ rest } }

/-- The second packet of a message of two (R218). -/
def secondOf (p q : Packet) : Bool := q.kind == 6 && q.second && q.src == p.src && q.dst == p.dst

theorem eagerArrive_of_two {q : Packet} {rest : List Packet} (h : EagerFirst s k p) (hl : 3804 < eagerLen p)
    (hq : takeFirst (secondOf p) (s.net.arrivals.drop (k + 1)) = some (q, rest)) :
    let t := arrivalsLeft s k rest
    eagerArrive s k = sendArrive (if isOwnIdent t q.src then t else answer t q 3 0 [] []) { p with data := p.data ++ q.data } := by
  unfold eagerLen at hl
  unfold secondOf at hq
  simp only [eagerArrive, h.arrival, if_neg h.not_refused, if_neg (Nat.not_le.mpr hl), hq]
  rfl

theorem rendezvousArrive_of_first (ha : s.net.arrivals[k]? = some p) (hk : p.kind = 7) (ho : inOrder s k p = true) :
    rendezvousArrive s k = sendArrive (dropArrival s k) p := by
  simp only [rendezvousArrive, ha, if_pos (And.intro hk ho)]

/-- A packet that answers an outstanding send. -/
structure SendAnswer (s : State) (k : Nat) (p : Packet) (o : Outst) : Prop where
  arrival : s.net.arrivals[k]? = some p
  outst : (s.net.outst.find? fun o => o.id == p.reqid.toNat && (o.kind == 6 || o.kind == 7)) = some o

/-- A completion brings the bytes landed and the code (R363). -/
theorem sendCompletion_of_completion {o : Outst} (h : SendAnswer s k p o) (hk : p.kind = 11) :
    sendCompletion s k = dropOutst (completeWord (raiseClock (dropArrival s k) o.core p.clock.toNat) o
      (areaNat p 0 4 * 2 ^ 32 + areaNat p 4 1 % 64)) o.id := by
  simp only [sendCompletion, h.arrival, h.outst, if_pos hk]

/-- A returned packet brings the cause of its STATUS (R363). -/
theorem sendCompletion_of_return {o : Outst} (h : SendAnswer s k p o) (hk : p.kind = 5) :
    sendCompletion s k = dropOutst (completeWord (raiseClock (dropArrival s k) o.core p.clock.toNat) o (statusCause p.status.toNat)) o.id := by
  have h11 : p.kind ≠ 11 := by simp [hk]
  simp only [sendCompletion, h.arrival, h.outst, if_neg h11, if_pos hk]

/-- An acknowledgement leaves the send outstanding. -/
theorem sendCompletion_of_ack {o : Outst} (h : SendAnswer s k p o) (hk : p.kind = 3) : sendCompletion s k = dropArrival s k := by
  have h11 : p.kind ≠ 11 := by simp [hk]
  have h5 : p.kind ≠ 5 := by simp [hk]
  simp only [sendCompletion, h.arrival, h.outst, if_neg h11, if_neg h5, if_pos hk]

/-! Active messages (R210-R212, R367, R368, R437). -/

/-- The handler entry that a message names. -/
def messageEntry (p : Packet) : Nat := areaNat p 0 8 % 256

/-- How many messages a core's die holds for entries in rewrite (R437). -/
def heldAt (s : State) (core : Nat) : Nat := (s.net.held.filter fun x => x.die == dieOf core).length

/-- A message that is no built-in, the first of its pair (R178). -/
structure MessageFirst (s : State) (k : Nat) (p : Packet) : Prop where
  arrival : s.net.arrivals[k]? = some p
  kind : p.kind = 4
  handler : nb (areaNat p 0 8) 63 = false
  order : pairFirst s k p = true

theorem MessageFirst.not_refused (h : MessageFirst s k p) :
    ¬ (p.kind ≠ 4 ∨ nb (areaNat p 0 8) 63 = true ∨ pairFirst s k p = false) := by
  simp [h.kind, h.handler, h.order]

/-- Whether an entry of a tenant is in rewrite (R211). -/
def inRewrite (t : Tenant) (e : Nat) : Bool := t.rewrites.any fun x => x.1 == e

theorem inRewrite_iff {t : Tenant} {e : Nat} : inRewrite t e = true ↔ ∃ x ∈ t.rewrites, x.1 = e := by
  simp only [inRewrite, List.any_eq_true, beq_iff_eq]

theorem not_inRewrite {t : Tenant} {e : Nat} (h : ∀ x ∈ t.rewrites, x.1 ≠ e) : inRewrite t e = false := by
  simpa [inRewrite] using h

/-- A message taken from the arrivals and not held: it is returned with BUSY, returned as naming no handler, returned where its core's queue
is full, or queued with its entry's PC (R211, R367). -/
def messageTaken (t : State) (p : Packet) : State :=
  let core := idAgent p.dst
  let ten := tenantOf t p.ten.toNat
  let r := raiseClock t core p.clock.toNat
  if inRewrite ten (messageEntry p) then answerMsg r p 2
  else match ten.handlers.find? fun x => x.1 == messageEntry p with
    | none => answerMsg r p 1
    | some x =>
      if 64 ≤ (coreOf t core).hq.length then answerMsg r p 3
      else answerMsg (setCore r core { coreOf t core with
        hq := (coreOf t core).hq ++ [{ p with area := leBytes 8 x.2.toNat ++ p.area.drop 8 }] }) p 0

/-- A message for an entry in rewrite is held while fewer than 64 are on its die (R211, R437). -/
theorem messageArrive_of_held (h : MessageFirst s k p)
    (hb : inRewrite (tenantOf (dropArrival s k) p.ten.toNat) (messageEntry p) = true)
    (hw : heldAt (dropArrival s k) (idAgent p.dst) < 64) : messageArrive s k =
      { dropArrival s k with net := { (dropArrival s k).net with
        held := (dropArrival s k).net.held ++ [⟨dieOf (idAgent p.dst), p⟩] } } := by
  unfold inRewrite messageEntry at hb
  unfold heldAt at hw
  simp only [messageArrive, h.arrival, if_neg h.not_refused, hb, hw, decide_true, Bool.and_self, if_true]

theorem messageArrive_of_not_held (h : MessageFirst s k p)
    (hw : inRewrite (tenantOf (dropArrival s k) p.ten.toNat) (messageEntry p) = true → 64 ≤ heldAt (dropArrival s k) (idAgent p.dst)) :
    messageArrive s k = messageTaken (dropArrival s k) p := by
  have hn : ¬ (inRewrite (tenantOf (dropArrival s k) p.ten.toNat) (messageEntry p)
      && decide (heldAt (dropArrival s k) (idAgent p.dst) < 64)) = true := by
    intro hc
    obtain ⟨hb, hl⟩ := (Bool.and_eq_true _ _).mp hc
    exact Nat.not_lt.mpr (hw hb) (of_decide_eq_true hl)
  unfold inRewrite messageEntry heldAt at hn
  simp only [messageArrive, h.arrival, if_neg h.not_refused, if_neg hn, coreOf, raiseClock_cores]
  rfl

section
variable {t : State} {x : Nat × BitVec 64}

theorem messageTaken_of_rewrite (hb : inRewrite (tenantOf t p.ten.toNat) (messageEntry p) = true) :
    messageTaken t p = answerMsg (raiseClock t (idAgent p.dst) p.clock.toNat) p 2 := by
  simp only [messageTaken, hb, if_true]

theorem messageTaken_of_invalid (hb : inRewrite (tenantOf t p.ten.toNat) (messageEntry p) = false)
    (hh : ((tenantOf t p.ten.toNat).handlers.find? fun y => y.1 == messageEntry p) = none) :
    messageTaken t p = answerMsg (raiseClock t (idAgent p.dst) p.clock.toNat) p 1 := by
  simp only [messageTaken, hb, hh, Bool.false_eq_true, if_false]

theorem messageTaken_of_full (hb : inRewrite (tenantOf t p.ten.toNat) (messageEntry p) = false)
    (hh : ((tenantOf t p.ten.toNat).handlers.find? fun y => y.1 == messageEntry p) = some x)
    (hq : 64 ≤ (coreOf t (idAgent p.dst)).hq.length) :
    messageTaken t p = answerMsg (raiseClock t (idAgent p.dst) p.clock.toNat) p 3 := by
  simp only [messageTaken, hb, hh, hq, Bool.false_eq_true, if_false, if_true]

theorem messageTaken_of_room (hb : inRewrite (tenantOf t p.ten.toNat) (messageEntry p) = false)
    (hh : ((tenantOf t p.ten.toNat).handlers.find? fun y => y.1 == messageEntry p) = some x)
    (hq : (coreOf t (idAgent p.dst)).hq.length < 64) :
    messageTaken t p = answerMsg (setCore (raiseClock t (idAgent p.dst) p.clock.toNat) (idAgent p.dst)
      { coreOf t (idAgent p.dst) with
        hq := (coreOf t (idAgent p.dst)).hq ++ [{ p with area := leBytes 8 x.2.toNat ++ p.area.drop 8 }] }) p 0 := by
  simp only [messageTaken, hb, hh, if_neg (Nat.not_le.mpr hq), Bool.false_eq_true, if_false]

end

/-- A handler as its message starts it (R212). -/
def handlerOf (core : Nat) (p : Packet) : Fibre :=
  handlerRegs { Fibre.blank with
    core := core
    run := .eligible
    pc := BitVec.ofNat 64 (areaNat p 0 8)
    ident := { Ident.none with
      kind := .handler
      tenant := p.ten
      budget := 15
      tscope := 4 } } p

/-- The next message's handler starts once no other runs on its core (R179, R212). -/
theorem handlerStart_of_idle {core : Nat} {rest : List Packet} (hq : (coreOf s core).hq = p :: rest)
    (hi : ∀ f ∈ allFibres s, f.ident.kind = .handler → f.core = core → f.run = .exited) :
    let t := setCore s core { coreOf s core with hq := rest }
    handlerStart s core = addFibre (if p.rel then acquireLv t core p.scope (levelIn p.mask core p.scope) else t) (handlerOf core p) := by
  have hn : ((allFibres s).any fun f => f.ident.kind == .handler && f.core == core && decide (f.run ≠ .exited)) = false := by
    refine List.any_eq_false.mpr fun f hf h => ?_
    simp only [Bool.and_eq_true, beq_iff_eq, decide_eq_true_eq] at h
    obtain ⟨⟨hk, hc⟩, hr⟩ := h
    exact hr (hi f hf hk hc)
  simp only [handlerStart, hq, hn, Bool.false_eq_true, if_false]
  rfl

/-- Whether a held message is for an entry (R211). -/
def heldFor (k : Nat) (h : Held) : Bool := h.pkt.ten.toNat == k / 256 && areaNat h.pkt 0 8 % 256 == k % 256

/-- An entry has taken its new value, and the messages held for it arrive again (R211). -/
def entryWritten (s : State) (k : Nat) (v : BitVec 65) : State :=
  let t := putHandler s (k / 256) (k % 256) v
  let u := setTenant t (k / 256) { tenantOf t (k / 256) with rewrites := tdel (tenantOf t (k / 256)).rewrites (k % 256) }
  { u with net := { u.net with
    held := u.net.held.filter fun h => !heldFor k h
    arrivals := (u.net.held.filter (heldFor k)).map (·.pkt) ++ u.net.arrivals } }

theorem rewriteEnd_of_rewrite {x : Nat × BitVec 65}
    (hx : ((tenantOf s (k / 256)).rewrites.find? fun y => y.1 == k % 256) = some x) :
    rewriteEnd s k = ((allFibres (entryWritten s k x.2)).filter fun f => f.run == .parked (.rewrite k)).foldl
      (fun w f => complete w f.id none) (entryWritten s k x.2) := by
  simp only [rewriteEnd, hx]
  rfl

theorem rewriteTimeout_of_held {h : Held} (hh : s.net.held[k]? = some h) :
    rewriteTimeout s k = answerMsg { s with net := { s.net with held := dropAt s.net.held k } } h.pkt 2 := by
  simp only [rewriteTimeout, hh]

/-- A response or return for an outstanding message or notice. -/
structure MessageAnswer (s : State) (k : Nat) (p : Packet) (o : Outst) : Prop where
  arrival : s.net.arrivals[k]? = some p
  outst : (s.net.outst.find? fun o => o.id == p.reqid.toNat && (o.kind == 4 || o.kind == 10)) = some o
  answers : p.kind = 3 ∨ p.kind = 5

theorem MessageAnswer.not_other {o : Outst} (h : MessageAnswer s k p o) : ¬ (p.kind ≠ 3 ∧ p.kind ≠ 5) :=
  fun hn => h.answers.elim hn.1 hn.2

theorem responseArrive_of_message {o : Outst} (h : MessageAnswer s k p o) (ho : o.kind = 4) :
    responseArrive s k = amsgAnswered (raiseClock (dropArrival s k) o.core p.clock.toNat) o p.status.toNat p.src := by
  simp only [responseArrive, h.arrival, h.outst, if_neg h.not_other, if_pos ho]

theorem responseArrive_of_notice {o : Outst} (h : MessageAnswer s k p o) (ho : o.kind = 10) :
    responseArrive s k = noticeAnswered (raiseClock (dropArrival s k) o.core p.clock.toNat) o p.status.toNat := by
  have h4 : o.kind ≠ 4 := by simp [ho]
  simp only [responseArrive, h.arrival, h.outst, if_neg h.not_other, if_neg h4]

/-! Requests that arrive for a home (R170, R171, R213). -/

variable {rc : Nat → Nat → Bool} {bc : Nat → Bool}

/-- The first request or built-in of its pair (R178). -/
structure RequestDue (s : State) (k : Nat) (p : Packet) : Prop where
  arrival : s.net.arrivals[k]? = some p
  first : requestFirst s k p = true

/-- A built-in is served at the event of its code. -/
theorem serveIf_of_builtin (h : RequestDue s k p) (hk : p.kind = 4) (hm : nb (areaNat p 0 8) 63 = true) (hc : bc (areaNat p 0 1) = true) :
    serveIf s k rc bc = serveBuiltin s k p := by
  have h2 : ¬ p.kind.toNat ≤ 2 := by simp [hk]
  simp only [serveIf, h.arrival, h.first, if_neg h2, if_pos (And.intro hk (And.intro hm hc)), Bool.true_eq_false, if_false]

/-- A request of another module is served at the event of its code. -/
theorem serveIf_of_request (h : RequestDue s k p) (hk : p.kind.toNat ≤ 2) (hc : rc (nf (areaNat p 26 1) 3 3) (areaNat p 25 1) = true) :
    serveIf s k rc bc = serve s k p (areaReq s p).1 (areaReq s p).2 := by
  simp only [serveIf, h.arrival, h.first, if_pos hk, hc, Bool.true_eq_false, if_false, if_true]

/-- A lease refresh at a home of this module that answers it: the address is allowed, no engine owns it, and its line is not lost. -/
structure RefreshDue (s : State) (k : Nat) (p : Packet) : Prop extends RequestDue s k p where
  kind : p.kind = 9
  own : isOwnMem s (areaReq s p).1.pa = true
  allowed : homeAllows s (areaReq s p).1 (areaReq s p).1.pa = true
  free : owned s (areaReq s p).1.pa 8 = false
  kept : homeLost s (areaReq s p).1.pa = false

/-- The load in whose name a lease is refreshed. -/
def refreshReq (s : State) (p : Packet) : Req :=
  homeReq s p.ten p.clock .load 0 8 (areaReq s p).1.pa 0 (areaReq s p).1.gr.toNat 0

/-- The refreshed lease (R170). -/
def refreshed (s : State) (k : Nat) (p : Packet) : State × Nat × List Byte :=
  grantLease (raiseClock (noteOwner (dropArrival s k) (refreshReq s p) false) (refreshReq s p).core p.clock.toNat) (refreshReq s p)
    p.clock.toNat

/-- The line's WT (R170). -/
def refreshWt (s : State) (k : Nat) (p : Packet) : Nat := (tsOf (dropArrival s k) (lineKey (areaReq s p).1.gr (areaReq s p).1.pa)).wt

/-- The line goes with the refreshed lease only where its WT is not the recorded one (R170, R213). -/
theorem exec_leaseRefresh_of_due (h : RefreshDue s k p) : exec (.leaseRefresh k) s = .next (answer (refreshed s k p).1 p 3 0
    (respArea 0 (refreshWt s k p) (refreshed s k p).2.1
      ++ if refreshWt s k p = areaNat p 8 8 then [] else lineMarks (refreshed s k p).1 (refreshReq s p))
    (if refreshWt s k p = areaNat p 8 8 then [] else (refreshed s k p).2.2)) := by
  refine next_eq ?_
  have h9 : ¬ p.kind ≠ 9 := fun hn => hn h.kind
  simp only [h.arrival, h.first, if_pos h.kind, h9, h.own, h.allowed, h.free, h.kept, false_and, or_self, Bool.true_eq_false, Bool.false_eq_true,
    if_false]
  rfl

end

/-- Settles O54, event by event. -/
theorem messageEvents : Obligations.MessageEvents := by
  unfold Obligations.MessageEvents
  refine ⟨?post, ?cancel, ?send, ?pull, ?completion, ?message, ?handler, ?rewrite, ?timeout, ?response, ?builtin, ?request, ?refresh⟩
  case post =>
    intro s f d x hd hn hx t
    obtain ⟨pre, post, hs, hlt⟩ := dies_split hd
    have he : postEvent s f [0, 1, 2, 3] = _ := hs ▸ postEvent_of_first (post := post) (fun e h => hn e (hlt e h)) hx
    exact ⟨fun hl => next_eq (he.trans (if_neg (Nat.not_le.mpr hl))), fun hl => next_eq (he.trans (if_pos hl))⟩
  case cancel =>
    intro s f x va hx hr
    exact next_eq (cancelEvent_of_parked hx hr)
  case send =>
    intro s k p ha ho
    refine ⟨fun hk hs => ?_, fun hk => next_eq (rendezvousArrive_of_first ha hk ho)⟩
    have h : EagerFirst s k p := ⟨ha, hk, hs, ho⟩
    exact ⟨fun hl => next_eq (eagerArrive_of_one h hl), fun hl q rest hq => next_eq (eagerArrive_of_two h hl hq)⟩
  case pull =>
    intro s c d p hd hn hp hc out
    obtain ⟨pre, post, hs, hlt⟩ := dies_split hd
    have he : pullComplete s c [0, 1, 2, 3] = pullNow s d p :=
      hs ▸ pullComplete_of_first (post := post) (fun e h => hn e (hlt e h)) hp hc
    obtain rfl : p.id = c := by simpa using List.find?_some hp
    exact ⟨fun hk => next_eq (he.trans (pullNow_of_eager hk)), fun t hk hw => next_eq (he.trans (pullNow_of_waiting hk hw)),
      fun t pay hk hw => next_eq (he.trans (pullNow_of_pulled hk hw))⟩
  case completion =>
    intro s k p o ha ho t
    have h : SendAnswer s k p o := ⟨ha, ho⟩
    exact ⟨fun hk => next_eq (sendCompletion_of_completion h hk), fun hk => next_eq (sendCompletion_of_return h hk),
      fun hk => next_eq (sendCompletion_of_ack h hk)⟩
  case message =>
    intro s k p ha hk hh ho t e ten core waits r
    have h : MessageFirst s k p := ⟨ha, hk, hh, ho⟩
    refine ⟨fun hb => ⟨fun hw => ?held, fun hw => ?busy⟩, fun hb hn => ?invalid, fun x hb hx => ⟨fun hq => ?full, fun hq => ?room⟩⟩
    case held => exact next_eq (messageArrive_of_held h (inRewrite_iff.mpr hb) hw)
    case busy => exact next_eq ((messageArrive_of_not_held h fun _ => hw).trans (messageTaken_of_rewrite (inRewrite_iff.mpr hb)))
    all_goals
      have hnb : inRewrite ten (messageEntry p) = false := not_inRewrite hb
      have he : messageArrive s k = messageTaken t p := messageArrive_of_not_held h fun hc => absurd (hnb.symm.trans hc) Bool.false_ne_true
    case invalid =>
      have hnone : (ten.handlers.find? fun y => y.1 == messageEntry p) = none :=
        List.find?_eq_none.mpr fun y hy hye => hn y hy (beq_iff_eq.mp hye)
      exact next_eq (he.trans (messageTaken_of_invalid hnb hnone))
    case full => exact next_eq (he.trans (messageTaken_of_full hnb hx hq))
    case room => exact next_eq (he.trans (messageTaken_of_room hnb hx hq))
  case handler =>
    intro s core p rest hq hi t
    exact next_eq (handlerStart_of_idle hq hi)
  case rewrite =>
    intro s k x hx t u mine v
    exact next_eq (rewriteEnd_of_rewrite hx)
  case timeout =>
    intro s k h hh
    exact next_eq (rewriteTimeout_of_held hh)
  case response =>
    intro s k p o ha ho hk t
    have h : MessageAnswer s k p o := ⟨ha, ho, hk⟩
    exact ⟨fun hm => next_eq (responseArrive_of_message h hm), fun hm => next_eq (responseArrive_of_notice h hm)⟩
  case builtin =>
    intro s k p ha hf hk hm c
    have hs {rc : Nat → Nat → Bool} {bc : Nat → Bool} (hc : bc c = true) : serveIf s k rc bc = serveBuiltin s k p :=
      serveIf_of_builtin ⟨ha, hf⟩ hk hm hc
    refine ⟨fun hc => next_eq (hs ?load), fun hl hu => next_eq (hs ?store), fun hc => next_eq (hs (beq_iff_eq.mpr hc)),
      fun hc => next_eq (hs (beq_iff_eq.mpr hc)), fun hc => next_eq (hs (beq_iff_eq.mpr hc)), fun hc => next_eq (hs (beq_iff_eq.mpr hc))⟩
    case load => simpa using hc
    case store => simpa using And.intro hl hu
  case request =>
    intro s k p ha hf hk c r
    have hs {rc : Nat → Nat → Bool} {bc : Nat → Bool} (hc : rc c (areaNat p 25 1) = true) : serveIf s k rc bc = serve s k p r.1 r.2 :=
      serveIf_of_request ⟨ha, hf⟩ hk hc
    refine ⟨fun hc => next_eq (hs ?atomic), fun hc => next_eq (hs (beq_iff_eq.mpr hc)), fun hc => next_eq (hs (beq_iff_eq.mpr hc))⟩
    case atomic => simpa using hc
  case refresh =>
    intro s k p ha hf hk q hown hallow hfree hlost t r wt g
    have he := exec_leaseRefresh_of_due ⟨⟨ha, hf⟩, hk, hown, hallow, hfree, hlost⟩
    refine ⟨fun hw => ?same, fun hw => ?changed⟩
    case same =>
      have hwt : refreshWt s k p = areaNat p 8 8 := hw
      rw [he, if_pos hwt, if_pos hwt, List.append_nil]
      rfl
    case changed =>
      have hwt : refreshWt s k p ≠ areaNat p 8 8 := hw
      rw [he, if_neg hwt, if_neg hwt]
      rfl

end Sys2Proof.Proofs

/-! The index instructions (R185, R357-R360). -/

namespace Sys2Proof.Proofs

open Sys2Proof Sys2Proof.Machine Sys2Proof.Safety Sys2Proof.Laws

/-! A load on this module bears on the memory system, the clocks and the atomic caches of the ports: the fibre that makes it stays as it
is, and so it does while a block is read at issue (R343). -/

theorem memOnly_dropCopies (s : State) (h p : Nat → Bool) : MemOnly s (dropCopies s h p) := by
  unfold dropCopies
  split
  · exact .refl s
  · exact memOnly_setMs s _

theorem memOnly_flushDie (s : State) (die : Nat) (p : Nat → Bool) : MemOnly s (flushDie s die p) := by
  unfold flushDie
  split
  · exact .refl s
  · exact ((MemOnly.foldl (fun t c => memOnly_pushL1 t c p) _ s).trans (memOnly_pushL2 _ _ _)).trans (memOnly_dropCopies _ _ _)

theorem memOnly_fillLine (s : State) (h core : Nat) (l1 : Bool) (gr : BitVec 2) (pa : Nat) : MemOnly s (fillLine s h core l1 gr pa) := by
  refine .foldl (fun t i => ?_) _ s
  dsimp only
  split
  · exact .refl t
  · exact memOnly_setMs t _

theorem memOnly_fillDie (s : State) (core : Nat) (gr : BitVec 2) (pa : Nat) : MemOnly s (fillDie s core gr pa) := by
  unfold fillDie
  split
  · exact .refl s
  · exact memOnly_fillLine s _ _ _ _ _

theorem memOnly_loadCp01 (s : State) (core : Nat) (pol gr : BitVec 2) (pa n : Nat) : MemOnly s (loadCp01 s core pol gr pa n).1 := by
  unfold loadCp01
  dsimp only
  split
  · exact memOnly_flushDie s _ _
  · split
    · exact ((memOnly_pushL1 s _ _).trans (memOnly_dropCopies _ _ _)).trans (memOnly_fillDie _ _ _ _)
    · dsimp only
      split
      · exact memOnly_fillDie s _ _ _
      · exact (memOnly_fillDie s _ _ _).trans (memOnly_fillLine _ _ _ _ _ _)

theorem memOnly_noteAttrs (s : State) (cp gr : BitVec 2) (pa : Nat) : MemOnly s (noteAttrs s cp gr pa) := by
  unfold noteAttrs
  split
  · exact .refl s
  · dsimp only
    split <;> exact memOnly_setMs s _

theorem MemOnly.fib_eq {s t : State} (h : MemOnly s t) : t.fib = s.fib := h.samePlaces.fib

@[simp] theorem exchange_fib (s : State) (a b : Nat) : (exchange s a b).fib = s.fib := by
  unfold exchange
  split
  · rfl
  · exact (raiseClock_fib _ _ _).trans (raiseClock_fib _ _ _)

theorem backTs_fib (s : State) (r : Req) (ts : Nat) : (backTs s r ts).fib = s.fib := by
  unfold backTs
  split
  · exact raiseClock_fib _ _ _
  · rfl

theorem performLoad_fib (s : State) (r : Req) : (performLoad s r).1.fib = s.fib := by
  have hsc (t : State) : (backTs (scLoadTs t (lineKey r.gr r.pa) r.clock.toNat).2 r (scLoadTs t (lineKey r.gr r.pa) r.clock.toNat).1).fib
      = t.fib := backTs_fib _ _ _
  have hhome : (exchange (noteOwner (noteAttrs s r.cp r.gr r.pa) r false) r.core (homeUnit s r.pa)).fib = s.fib :=
    (exchange_fib _ _ _).trans (memOnly_noteAttrs s r.cp r.gr r.pa).fib_eq
  unfold performLoad
  dsimp only
  split
  · rfl
  · split
    · split
      · exact (hsc _).trans (exchange_fib _ _ _)
      · exact exchange_fib _ _ _
    · split
      · exact (hsc _).trans ((memOnly_flushDie _ _ _).fib_eq.trans hhome)
      · split
        · exact (memOnly_loadCp01 _ _ _ _ _ _).fib_eq.trans hhome
        · exact hhome

/-- A plain load, with no ordering suffix, that is performed on this module or at a target keeps the fibre. -/
theorem performHere_load_fib {s t : State} {r : Req} {v : Word} (hk : r.kind = .load) (hacq : r.acq = none) (hrel : r.rel = none)
    (hsc : r.sc = false) (h : performHere s r = .done t v) : t.fib = s.fib := by
  have hs : relEffect s r = s := by
    unfold relEffect
    simp only [hrel, hsc, Bool.false_and, Bool.false_eq_true, if_false]
  unfold performHere at h
  rw [hs] at h
  dsimp only at h
  generalize hq : (if r.fib = 0 then r else { r with clock := BitVec.ofNat 64 (clockOf s r.core) }) = q at h
  have hkq : q.kind = .load := by rw [← hq]; split <;> exact hk
  have hacqq (u : State) : acqEffect u q = u := by
    have ha : q.acq = none := by rw [← hq]; split <;> exact hacq
    rw [acqEffect, ha]
  simp only [hkq, hacqq] at h
  split at h
  · cases h
    rfl
  · split at h
    · cases h
      rfl
    · split at h
      · cases h
      · split at h
        · cases h
        · split at h
          · cases h
          · cases h
            exact performLoad_fib s q

theorem loadNow_fib {s t : State} {a : Acc} {va v : Word} (h : loadNow s a va = .ok (v, t)) : t.fib = s.fib := by
  unfold loadNow at h
  split at h
  next u w hp =>
    cases h
    exact performHere_load_fib (r := mkReq s .load 0 8 a va) rfl rfl rfl rfl hp
  next => cases h
  next => cases h

theorem wordReads_fib {s t : State} {a : Acc} {va w : Word} (h : WordReads s a va w t) : t.fib = s.fib := by
  obtain ⟨-, h⟩ | ⟨-, h, -⟩ := h
  · exact loadNow_fib h
  · rw [h]

/-- An instruction that reads a block at issue goes on in the fibre that it began in. -/
theorem blockReads_fib {n : Nat} {s t : State} {va : Word} {ws : List Word} (h : BlockReads n s va ws t) : t.fib = s.fib := by
  induction n generalizing s va ws with
  | zero =>
    obtain ⟨-, h⟩ := h
    rw [h]
  | succ k ih =>
    obtain ⟨a, w, r, tl, -, -, hw, -, hb⟩ := h
    exact (ih hb).trans ((wordReads_fib hw).trans (touched_fib s a))

/-! LDNN, STVEC and DLVEC (R359, R360). -/

/-- How the index commands use their fibre. -/
def indexUse (i : Instr) (y : Bool) (ga : Reg) (la : Bool) (gb : Reg) (lb : Bool) : Use :=
  { plainUse i y [(ga, la), (gb, lb)] 0 with fail := true }

/-- What goes on with the address that a completion word is stamped at, 0 where the command names none (R343). -/
def stampEff (t : State) (va : Word) (go : Nat → Eff) : Eff :=
  match if va = 0 then Chk.ok ⟨0, 0, 0, 0, false, 0, 0, 0⟩ else checkWord t va with
  | .bad c x => .trap c x
  | .wait w t => .park w t
  | .ok a => go (if va = 0 then 0 else a.pa)

/-- The command that a block's words give. -/
def blockCmd (t : State) (op : Nat) (ix : Index) (ws : List Word) (r : Nat × TileAt) (x : List (BitVec 32)) (stamp : Nat) : IdxCmd :=
  let w0 := (ws.getD 0 0).toNat
  let sc := BitVec.ofNat 4 (nf w0 48 8)
  { id := 0, num := ix.num, op := op, fib := t.fib.id, core := t.fib.core, mon := t.fib.pl == 2, k := nf w0 16 16, l := nf w0 32 16,
    mask := ws.getD 1 0, value := ws.getD 2 0, query := x, rt := nf w0 8 8, ent := r.2.ent, base := r.2.base, scope := sc,
    lv := scopeLevel t t.fib.ident.tenant t.fib.core sc, stamp := stamp, accepted := none, idx := r.1, took := false,
    gang := t.fib.ident.gang, next := none, todo := [] }

/-- What an index command at `a` does with its block, once that is read (R360). -/
def blockEff (op : Nat) (ix : Index) (a : Word) (t : State) (ws : List Word) : Eff :=
  if blockBad op ix ws then .trap cINDEX a
  else cmdTile t op (nf (ws.getD 0 0).toNat 0 8) ix.dim fun q =>
    match resultTile t op (nf (ws.getD 0 0).toNat 8 8) (nf (ws.getD 0 0).toNat 16 16) with
    | .error e => .trap e.1 e.2
    | .ok r => cmdVector t q ix.dim a fun x => stampEff t (ws.getD 3 0) fun n => indexEff t (blockCmd t op ix ws r x n)

/-- What an index command at `a` on index `b` does once it has issued (R359). -/
def indexCmdEff (op : Nat) (t : State) (a b : Word) : Eff :=
  if t.fib.ident.kind = .handler ∧ op ≠ 2 then .trap cTILEUNDEF 64
  else if 63 < b.toNat then .trap cBOUND b
  else match indexOf t b.toNat with
    | none => .trap cINDEX b
    | some ix =>
      if ix.ten ≠ t.fib.ident.tenant then .trap cWINDOW b
      else if !aligned a 32 then .trap cALIGN a
      else readBlock 4 t a [] (blockEff op ix a)

theorem exec_index_command {i : Instr} {op : Nat} {y : Bool} {ga : Reg} {la : Bool} {gb : Reg} {lb : Bool}
    (hi : (i = .ldnn y ga la gb lb ∧ op = 0) ∨ (i = .stvec y ga la gb lb ∧ op = 1) ∨ (i = .dlvec y ga la gb lb ∧ op = 2)) (s : State) :
    exec i s = issue s (indexUse i y ga la gb lb) fun t v => indexCmdEff op t (arg v 0) (arg v 1) := by
  obtain ⟨rfl, rfl⟩ | ⟨rfl, rfl⟩ | ⟨rfl, rfl⟩ := hi <;> rfl

/-- A command as it joins those of its index: with its number, and with its result tile where it takes it at once. -/
def joined (t : State) (c : IdxCmd) : IdxCmd :=
  let u := freshId (releaseCopies t t.fib.core c.lv)
  { c with
    id := u.1
    took := c.op == 0 && canTake u.2 u.1 c.core c.idx true }

/-- The state that a command joins: after its release, and with its result tile filling where it is taken (R344). -/
def beforeJoin (t : State) (c : IdxCmd) : State :=
  let u := (freshId (releaseCopies t t.fib.core c.lv)).2
  if (joined t c).took then setTileState u c.core c.idx 1 else u

section
variable {t r : State} {op : Nat} {ix : Index} {a b : Word} {ws : List Word} {c : IdxCmd}

theorem stampEff_of_completionWord {va : Word} {cpl : Option Nat} (go : Nat → Eff) (h : CompletionWord t va cpl) :
    stampEff t va go = go (cpl.getD 0) := by
  obtain ⟨hva, rfl⟩ | ⟨hva, x, hx, rfl⟩ := h
  · simp only [stampEff, hva, if_true, Option.getD_none]
  · simp only [stampEff, if_neg hva, hx, Option.getD_some]

/-- A block whose checks pass gives its command to the engine. -/
theorem blockEff_of_checked {q : Option TileAt} {x : List (BitVec 32)} {p : Nat × TileAt} {cpl : Option Nat}
    (hb : blockBad op ix ws = false) (hq : ∀ go, cmdTile t op (nf (ws.getD 0 0).toNat 0 8) ix.dim go = go q)
    (hp : resultTile t op (nf (ws.getD 0 0).toNat 8 8) (nf (ws.getD 0 0).toNat 16 16) = .ok p)
    (hx : ∀ go, cmdVector t q ix.dim a go = go x) (hc : CompletionWord t (ws.getD 3 0) cpl) :
    blockEff op ix a t ws = indexEff t (blockCmd t op ix ws p x (cpl.getD 0)) := by
  simp only [blockEff, hb, Bool.false_eq_true, if_false, hq, hp, hx, stampEff_of_completionWord _ hc]

/-- A command on an open index of its fibre's tenant goes on with its block (R359). -/
theorem indexCmdEff_of_block (hk : t.fib.ident.kind = .handler → op = 2) (hb : b.toNat ≤ 63) (hx : indexOf t b.toNat = some ix)
    (ht : ix.ten = t.fib.ident.tenant) (ha : a.toNat % 32 = 0) (hr : BlockReads 4 t a ws r) :
    indexCmdEff op t a b = blockEff op ix a r ws := by
  have hkind : ¬(t.fib.ident.kind = .handler ∧ op ≠ 2) := fun h => h.2 (hk h.1)
  simp only [indexCmdEff, if_neg hkind, if_neg (Nat.not_lt.mpr hb), hx, ht, ne_eq, not_true_eq_false, if_false,
    (aligned_iff a 32).mpr ha, Bool.not_true, Bool.false_eq_true, readBlock_of [] _ hr, List.nil_append]

/-- With room for it and the fibre's earlier accesses performed, a command joins the others at once (R174, R360). -/
theorem indexEff_of_room (hn : (t.idxCmds.filter fun x => x.core == t.fib.core).length < 16) (hp : allPerformed t t.fib.id = true) :
    indexEff t c = .done { beforeJoin t c with idxCmds := (beforeJoin t c).idxCmds ++ [joined t c] } := by
  simp only [indexEff, if_neg (Nat.not_le.mpr hn), hp, Bool.not_true, Bool.false_eq_true, if_false]
  rfl

theorem beforeJoin_idxCmds : (beforeJoin t c).idxCmds = t.idxCmds := by
  have hr : (freshId (releaseCopies t t.fib.core c.lv)).2.idxCmds = t.idxCmds := by
    rw [memOnly_releaseCopies t t.fib.core c.lv]
    rfl
  unfold beforeJoin
  dsimp only
  split
  · exact hr
  · exact hr

/-- What joins writes no memory beyond the release. -/
theorem beforeJoin_mem : (beforeJoin t c).ms.mem = (releaseCopies t t.fib.core c.lv).ms.mem := by
  unfold beforeJoin
  dsimp only
  split
  · exact mem_setTileState _ _ _ _
  · rfl

end

/-! IXOPEN (R185, R357). -/

/-- How IXOPEN uses its fibre. -/
def ixopenUse (y : Bool) (gd ga : Reg) (la : Bool) : Use := { plainUse (.ixopen y gd ga la) y [(ga, la)] gd with fail := true }

/-- What IXOPEN of an address does once it has issued. -/
def ixopenEff (gd : Reg) (t : State) (a : Word) : Eff :=
  if a.getLsbD 0 then
    match indexAt t t.fib.ident.tenant (a - 1) with
    | some ix => closeEff t gd ix.num
    | none => .trap (if t.indexes.any fun i => i.icb == a - 1 then cWINDOW else cINDEX) (a - 1)
  else if !aligned a 128 then .trap cALIGN a
  else openIndex t a gd

theorem exec_ixopen (y : Bool) (gd ga : Reg) (la : Bool) (s : State) :
    exec (.ixopen y gd ga la) s = issue s (ixopenUse y gd ga la) fun t v => ixopenEff gd t (arg v 0) := rfl

/-- DPROG's weights bit of an ICB (R184). -/
def icbWeighted (ws : List Word) : Bool := (BitVec.ofNat 8 (nf (ws.getD 7 0).toNat 24 8)).getLsbD 2

/-- The number of weights that an ICB names. -/
def icbWeights (ws : List Word) : Nat := if icbWeighted ws then nf (ws.getD 7 0).toNat 0 16 else 0

/-- The regions whose pages IXOPEN translates (R185); WBASE 0 names none (log entry 30). -/
def icbRegions (ws : List Word) : List (AccKind × Nat × Nat) :=
  let w := fun k => (ws.getD k 0).toNat
  [(.atomic, w 3, pageCount (w 3) (w 4))]
    ++ (if icbWeighted ws && w 5 != 0 then [(.load, w 5, pageCount (w 5) (4 * nf (w 7) 0 16))] else [])
    ++ [(.atomic, w 0, 1), (.atomic, w 1, 1), (.atomic, w 2, 1)]

/-- The index that an ICB's words give (R183, R185). -/
def icbIndex (t : State) (a : Word) (ten : BitVec 4) (n : Nat) (ws : List Word) (weights : List (BitVec 32)) : Index :=
  let w := fun k => (ws.getD k 0).toNat
  { num := n, ten := ten, pl := t.fib.pl, die := dieOf t.fib.core, icb := a, vbase := ws.getD 0 0, gbase := ws.getD 1 0,
    idbase := ws.getD 2 0, verbase := ws.getD 3 0, versize := w 4, cap := w 6, dim := nf (w 7) 0 16, deg := nf (w 7) 16 8,
    dprog := BitVec.ofNat 8 (nf (w 7) 24 8), alpha := nf (w 7) 32 16, ibeam := nf (w 7) 48 16, awidth := nf (w 8) 0 8,
    weights := weights, entry := if w 9 = ones64 then none else some (w 9), commit := w 10, nslot := w 11, liveN := w 12,
    versions := [], alive := [] }

/-- What IXOPEN does with the weights, once they are read. -/
def weightsEff (a : Word) (gd : Reg) (ten : BitVec 4) (n : Nat) (ws : List Word) (t : State) (weights : List (BitVec 32)) : Eff :=
  if weights.any fun c => notFinite c || decide (fxUnits c < 0) then .trap cINDEX a
  else .done (setLong { t with indexes := t.indexes ++ [icbIndex t a ten n ws weights] } gd (BitVec.ofNat 64 n) 0)

/-- What IXOPEN does with an ICB, once it is read. -/
def icbEff (a : Word) (gd : Reg) (ten : BitVec 4) (b0 : Bool) (t : State) (ws : List Word) : Eff :=
  match openRegions t (icbRegions ws) b0 with
  | .error e => e
  | .ok bad =>
    if bad || icbBad ws || (indexAt t ten a).isSome then .trap cINDEX a
    else match freeIndex t with
      | none => .trap cINDEX a
      | some n => openWeights t (icbWeights ws) (ws.getD 5 0).toNat (weightsEff a gd ten n ws)

theorem openIndex_eq (t : State) (a : Word) (gd : Reg) : openIndex t a gd =
    match openPages 1 t .atomic a.toNat false with
    | .error e => e
    | .ok b0 => readBlock 16 t a [] (icbEff a gd t.fib.ident.tenant b0) := rfl

section
variable {t t1 r : State} {a : Word} {gd : Reg} {ix : Index} {n : Nat} {ws : List Word} {weights : List (BitVec 32)} {b0 : Bool}

theorem ixopenEff_of_closing (h0 : a.getLsbD 0 = true) (hx : indexAt t t.fib.ident.tenant (a - 1) = some ix) :
    ixopenEff gd t a = closeEff t gd ix.num := by
  rw [ixopenEff, if_pos h0, hx]

theorem ixopenEff_of_no_index (h0 : a.getLsbD 0 = true) (hx : indexAt t t.fib.ident.tenant (a - 1) = none) :
    ixopenEff gd t a = .trap (if t.indexes.any fun i => i.icb == a - 1 then cWINDOW else cINDEX) (a - 1) := by
  rw [ixopenEff, if_pos h0, hx]

theorem ixopenEff_of_opening (h0 : a.getLsbD 0 = false) (ha : a.toNat % 128 = 0) : ixopenEff gd t a = openIndex t a gd := by
  simp only [ixopenEff, h0, (aligned_iff a 128).mpr ha, Bool.not_true, Bool.false_eq_true, if_false]

theorem closeEff_of_idle (h : ∀ c ∈ t.idxCmds, c.num ≠ n) : closeEff t gd n
    = .done (setLong { t with indexes := t.indexes.filter fun i => i.num != n } gd (BitVec.ofNat 64 n) 0) := if_neg (by simpa using h)

theorem closeEff_of_busy (h : ∃ c ∈ t.idxCmds, c.num = n) : closeEff t gd n = .later (.closing n) (.close n) t :=
  if_pos (by simpa using h)

/-- The cause that refuses the close of an index the tenant has not opened: whether another has. -/
theorem closeCause_of_absent (h : ∀ j ∈ t.indexes, j.icb ≠ a) :
    (if t.indexes.any fun i => i.icb == a then cWINDOW else cINDEX) = cINDEX := if_neg (by simpa using h)

theorem closeCause_of_other (h : ∃ j ∈ t.indexes, j.icb = a) :
    (if t.indexes.any fun i => i.icb == a then cWINDOW else cINDEX) = cWINDOW := if_pos (by simpa using h)

/-- Pieces that have all come were asked for before: nothing changes. -/
theorem gather_of_all_here {s : State} {e : Agent} {ps : List Piece} (h : (gather s e ps).2 = true) : (gather s e ps).1 = s := by
  unfold gather at h ⊢
  dsimp only at h ⊢
  split
  next => rfl
  next hm =>
    rw [if_neg hm] at h
    cases h

/-- Where the weights are read, they are read in the state that asks for them. -/
theorem openWeights_state {va : Nat} (h : ∀ go, openWeights t n va go = go t1 weights) : t1 = t := by
  have hdone := h fun s _ => .done s
  unfold openWeights at hdone
  dsimp only at hdone
  split at hdone
  next => cases hdone
  next =>
    split at hdone
    next => cases hdone
    next hg =>
      split at hdone
      next => cases hdone
      next =>
        cases hdone
        exact gather_of_all_here (by simpa using hg)

/-- An ICB that passes every check, with finite weights that are not negative, opens its index (R185). -/
theorem icbEff_of_checked {ten : BitVec 4} (hr : openRegions t (icbRegions ws) b0 = .ok false) (hb : icbBad ws = false)
    (hx : indexAt t ten a = none) (hn : freeIndex t = some n)
    (hw : ∀ go, openWeights t (icbWeights ws) (ws.getD 5 0).toNat go = go t1 weights)
    (hf : ∀ c ∈ weights, notFinite c = false ∧ 0 ≤ fxUnits c) : icbEff a gd ten b0 t ws
      = .done (setLong { t1 with indexes := t1.indexes ++ [icbIndex t1 a ten n ws weights] } gd (BitVec.ofNat 64 n) 0) := by
  have hgood : (weights.any fun c => notFinite c || decide (fxUnits c < 0)) = false :=
    List.any_eq_false.mpr fun c hc => by simp [hf c hc]
  simp only [icbEff, hr, hb, hx, hn, hw, weightsEff, hgood, Option.isSome_none, Bool.or_self, Bool.false_eq_true, if_false]

theorem openIndex_of_block (hp : openPages 1 t .atomic a.toNat false = .ok b0) (hb : BlockReads 16 t a ws r) :
    openIndex t a gd = icbEff a gd t.fib.ident.tenant b0 r ws := by
  simp only [openIndex_eq, hp, readBlock_of [] _ hb, List.nil_append]

end

/-! IXSTAT (R358). -/

/-- How IXSTAT uses its fibre. -/
def ixstatUse (y : Bool) (gd ga : Reg) (la : Bool) : Use := { plainUse (.ixstat y gd ga la) y [(ga, la)] gd with fail := true }

/-- What IXSTAT of an index number does once it has issued. -/
def ixstatEff (gd : Reg) (t : State) (a : Word) : Eff :=
  if 63 < a.toNat then .trap cBOUND a
  else match indexOf t a.toNat with
    | none => .done (setLong t gd 0 0)
    | some ix =>
      if ix.ten ≠ t.fib.ident.tenant then .trap cWINDOW a
      else .done (setLong t gd (BitVec.ofNat 64 (ix.commit % 2 ^ 48 * 2 ^ 16 + 128 + ix.die)) 0)

theorem exec_ixstat (y : Bool) (gd ga : Reg) (la : Bool) (s : State) :
    exec (.ixstat y gd ga la) s = issue s (ixstatUse y gd ga la) fun t v => ixstatEff gd t (arg v 0) := rfl

section
variable {t : State} {a : Word} {gd : Reg} {ix : Index}

theorem ixstatEff_of_bound (h : 63 < a.toNat) : ixstatEff gd t a = .trap cBOUND a := if_pos h

theorem ixstatEff_of_none (h : a.toNat ≤ 63) (hx : indexOf t a.toNat = none) : ixstatEff gd t a = .done (setLong t gd 0 0) := by
  rw [ixstatEff, if_neg (Nat.not_lt.mpr h), hx]

theorem ixstatEff_of_some (h : a.toNat ≤ 63) (hx : indexOf t a.toNat = some ix) : ixstatEff gd t a
    = if ix.ten ≠ t.fib.ident.tenant then .trap cWINDOW a
      else .done (setLong t gd (BitVec.ofNat 64 (ix.commit % 2 ^ 48 * 2 ^ 16 + 128 + ix.die)) 0) := by
  rw [ixstatEff, if_neg (Nat.not_lt.mpr h), hx]

end

/-- Settles O47: each way in which an index instruction's effect ends is one way in which its issue ends. -/
theorem indexInstructions : Obligations.IndexInstructions := by
  unfold Obligations.IndexInstructions
  refine ⟨?command, ?closing, ?opening, ?stat⟩
  case command =>
    intro s y ga la gb lb i op ix ws t q x k a cpl hi u w0 h hk hb hx ht ha hr hbad hq hres hv hc hroom hperf
    have hfib : t.fib = (begun s u).fib := blockReads_fib hr
    have hxb : indexOf (begun s u) (operand s u 1).toNat = some ix := by
      rw [indexOf, begun_indexes]
      exact hx
    rw [← begun_fib_ident s u] at hk ht
    have he : indexCmdEff op (begun s u) (operand s u 0) (operand s u 1)
        = .done { beforeJoin t (blockCmd t op ix ws (k, a) x (cpl.getD 0)) with
          idxCmds := (beforeJoin t (blockCmd t op ix ws (k, a) x (cpl.getD 0))).idxCmds
            ++ [joined t (blockCmd t op ix ws (k, a) x (cpl.getD 0))] } :=
      (indexCmdEff_of_block hk hb hxb ht ha hr).trans ((blockEff_of_checked hbad hq hres hv hc).trans (indexEff_of_room hroom hperf))
    refine ⟨_, _, (exec_index_command hi s).trans (issue_done h he), rfl, rfl, ?fibre, ?core, rfl, rfl, rfl, rfl, rfl, rfl, rfl,
      beforeJoin_idxCmds, beforeJoin_mem⟩
    case fibre => exact (congrArg Fibre.id hfib).trans (begun_fib_id s u)
    case core => exact (congrArg Fibre.core hfib).trans (begun_fib_core s u)
  case closing =>
    intro s y gd ga la i u t a h h0
    rw [exec_ixopen]
    refine ⟨fun ix hx => ⟨fun hidle => ?idle, fun hbusy => ?busy⟩, fun hx hj => ?absent, fun hx hj => ?other⟩
    case idle => exact issue_done h ((ixopenEff_of_closing h0 hx).trans (closeEff_of_idle hidle))
    case busy => exact issue_later h ((ixopenEff_of_closing h0 hx).trans (closeEff_of_busy hbusy))
    all_goals have hno := ixopenEff_of_no_index (gd := gd) h0 hx
    case absent =>
      rw [closeCause_of_absent hj] at hno
      exact issue_trap_uncounted h hno (by decide)
    case other =>
      rw [closeCause_of_other hj] at hno
      exact issue_trap h hno
  case opening =>
    intro s y gd ga la b0 ws t t1 n weights i u a w dim wt h h0 ha hp hr hreg hbad hx hn hw hf
    have hten : t.fib.ident.tenant = (begun s u).fib.ident.tenant := congrArg (fun f => f.ident.tenant) (blockReads_fib hr)
    have ht1 : t1 = t := openWeights_state hw
    have he : ixopenEff gd (begun s u) a = .done (setLong { t1 with
        indexes := t1.indexes ++ [icbIndex t1 a (begun s u).fib.ident.tenant n ws weights] } gd (BitVec.ofNat 64 n) 0) :=
      (ixopenEff_of_opening h0 ha).trans ((openIndex_of_block hp hr).trans (icbEff_of_checked hreg hbad (hten ▸ hx) hn hw hf))
    refine ⟨_, (exec_ixopen y gd ga la s).trans (issue_done h he), rfl, ?tenant, rfl, rfl, rfl, rfl, rfl, rfl, rfl, rfl, rfl, rfl⟩
    case tenant => exact hten.symm.trans (congrArg (fun r : State => r.fib.ident.tenant) ht1.symm)
  case stat =>
    intro s y gd ga la i u t a h
    rw [exec_ixstat]
    refine ⟨fun hb => ?bound, fun hb hx => ?none, fun ix hb hx => ⟨fun ht => ?other, fun ht => ?own⟩⟩
    case bound => exact issue_trap_uncounted h (ixstatEff_of_bound hb) (by decide)
    case none => exact issue_done h (ixstatEff_of_none hb hx)
    case other => exact issue_trap h ((ixstatEff_of_some hb hx).trans (if_pos ht))
    case own => exact issue_done h ((ixstatEff_of_some hb hx).trans (if_neg (not_not_intro ht)))

end Sys2Proof.Proofs

/-! What a packet's failure brings about leaves the number of the pod alone (R399, R402, R434). -/

namespace Sys2Proof.Proofs

open Sys2Proof Sys2Proof.Machine Sys2Proof.Safety Sys2Proof.Laws

theorem MemOnly.dev_eq {s t : State} (h : MemOnly s t) : t.dev = s.dev := by
  rw [h]

/-- The number of the pod is the same in both. -/
def SamePod (s t : State) : Prop := t.dev.pod = s.dev.pod

namespace SamePod

theorem refl (s : State) : SamePod s s := rfl

theorem trans {s t u : State} (h : SamePod s t) (k : SamePod t u) : SamePod s u := Eq.trans k h

theorem of_dev {s t : State} (h : t.dev = s.dev) : SamePod s t := congrArg Dev.pod h

theorem foldl {α : Type} {f : State → α → State} (hf : ∀ s x, SamePod s (f s x)) (l : List α) (s : State) :
    SamePod s (l.foldl f s) := by
  induction l generalizing s with
  | nil => exact refl s
  | cons x l ih => exact (hf s x).trans (ih _)

end SamePod

/-! Packets and words that leave. -/

theorem samePod_releaseAt (s : State) (ten : BitVec 4) (core : Nat) (sc : BitVec 4) : SamePod s (releaseAt s ten core sc) :=
  .of_dev (memOnly_releaseAt s ten core sc).dev_eq

theorem samePod_exchange (s : State) (a b : Nat) : SamePod s (exchange s a b) := by
  unfold exchange
  split
  · exact .refl s
  · exact .of_dev ((raiseClock_dev _ _ _).trans (raiseClock_dev _ _ _))

theorem samePod_sendPacket (s : State) (p : Packet) : SamePod s (sendPacket s p) := by
  unfold sendPacket
  split
  · split <;> rfl
  · dsimp only
    split
    · rfl
    · split <;> rfl

theorem samePod_sendWord (s : State) (o : FarOwner) (core : Nat) (ten : BitVec 4) (pa : Nat) (va v : Word) (scope : BitVec 4) :
    SamePod s (sendWord s o core ten pa va v scope) := by
  unfold sendWord
  split
  · rfl
  · exact samePod_sendPacket _ _

theorem samePod_putFull (s : State) (core : Nat) (ten : BitVec 4) (mon : Bool) (scope : BitVec 4) (pa v : Nat) :
    SamePod s (putFull s core ten mon scope pa v) := by
  unfold putFull
  split
  · exact .refl s
  · split
    · exact samePod_sendWord _ _ _ _ _ _ _ _
    · split
      · exact samePod_exchange s core (spadCore pa)
      · exact .refl s

theorem samePod_completeWord (s : State) (o : Outst) (v : Nat) : SamePod s (completeWord s o v) := by
  unfold completeWord
  split
  · exact (SamePod.of_dev (memOnly_releaseCopies s _ _).dev_eq).trans (samePod_putFull _ _ _ _ _ _ _)
  · exact .refl s

/-! The end of a fibre (R62, R63, R287). -/

theorem samePod_taskReturn (s : State) (f : Fibre) (v : Word) : SamePod s (taskReturn s f v) := by
  unfold taskReturn
  split
  · split
    next a _ =>
      split
      · exact .refl s
      · split
        · exact (samePod_releaseAt s _ _ _).trans (samePod_sendWord _ _ _ _ _ _ _ _)
        · split
          · exact (samePod_releaseAt s _ _ _).trans (samePod_exchange _ _ _)
          · exact .refl s
    next => exact .refl s
  · exact .refl s

theorem samePod_newsOfEnd (s : State) (f : Fibre) (v : Word) : SamePod s (newsOfEnd s f v) := by
  unfold newsOfEnd
  split
  · exact samePod_releaseAt s _ _ _
  · exact samePod_taskReturn s f v

theorem samePod_nodeExit (s : State) (f : Fibre) : SamePod s (nodeExit s f) := by
  unfold nodeExit
  split <;> rfl

theorem samePod_giveBack (s : State) (f : Fibre) : SamePod s (giveBack s f) := by
  unfold giveBack
  dsimp only
  split
  · rfl
  · split
    · rfl
    · split <;> rfl

theorem samePod_settleLaunch (s : State) (n : Nat) : SamePod s (settleLaunch s n) := by
  unfold settleLaunch
  split <;> rfl

theorem samePod_freeRegion (s : State) (r : Option (Option Nat)) : SamePod s (freeRegion s r) := by
  unfold freeRegion
  split <;> rfl

theorem samePod_settleGang (s : State) (g : Nat) : SamePod s (settleGang s g) := by
  unfold settleGang
  split
  · exact .refl s
  · split
    · exact (samePod_freeRegion s _).trans (samePod_settleLaunch _ _)
    · exact samePod_settleLaunch s _

theorem samePod_modFibre (s : State) (n : Nat) (g : Fibre → Fibre) : SamePod s (modFibre s n g) := .of_dev (modFibre_dev s n g)

theorem samePod_endFibre (s : State) (n : Nat) (v : Word) : SamePod s (endFibre s n v) := by
  unfold endFibre
  split
  · exact .refl s
  next f _ =>
    have hnews : SamePod s (newsOfEnd (releaseAt s f.ident.tenant f.core f.ident.tscope) f v) :=
      (samePod_releaseAt s _ _ _).trans (samePod_newsOfEnd _ f v)
    have hend := (hnews.trans ((samePod_nodeExit _ f).trans (samePod_giveBack _ f))).trans (samePod_modFibre _ n fun f => { f with
      run := .exited
      triggered := true
      pend := []
      heldFree := 0 })
    dsimp only
    split
    · exact hend.trans (samePod_settleGang _ _)
    · exact hend

/-! Traps (R391, R402), and how a held instruction ends. -/

theorem samePod_endTrap (s : State) : SamePod s (endTrap s) := by
  unfold endTrap
  split
  · exact samePod_endFibre _ _ _
  · rfl

theorem samePod_takeTrap (s : State) (c : Nat) (v epc : Word) (hcall : Bool) : SamePod s (takeTrap s c v epc hcall) := by
  unfold takeTrap
  dsimp only
  split
  · split
    · rfl
    · exact samePod_endTrap _
  · split
    · split
      · rfl
      · exact samePod_endTrap _
    · rfl

theorem samePod_raise (s : State) (c : Nat) (v : Word) : SamePod s (raise s c v) := by
  unfold raise
  split
  · dsimp only
    split <;> exact samePod_takeTrap _ _ _ _ _
  · rfl

theorem samePod_completeTrap (s : State) (n c : Nat) (v : Word) : SamePod s (completeTrap s n c v) := by
  unfold completeTrap
  split
  · exact .refl s
  · exact (SamePod.of_dev (switchTo_dev s n)).trans (samePod_raise _ _ _)

theorem samePod_complete (s : State) (n : Nat) (r : Option Word) : SamePod s (complete s n r) :=
  samePod_modFibre (freshId s).2 n _

theorem samePod_addFailure (s : State) (n : Nat) (e : Failure) : SamePod s (addFailure s n e) := by
  unfold addFailure
  split
  · exact .refl s
  · split
    · rfl
    · exact samePod_modFibre s n _

theorem samePod_completeFailed (s : State) (n c : Nat) (va : Word) : SamePod s (completeFailed s n c va) := by
  unfold completeFailed
  dsimp only
  split
  · rfl
  · split
    · exact (samePod_modFibre (freshId s).2 n _).trans (samePod_addFailure _ _ _)
    · exact samePod_modFibre (freshId s).2 n _

/-! What stands on a packet (R363, R367, R399, R434). -/

theorem samePod_failFar (s : State) (p : FarWord → Bool) (c : Nat) : SamePod s (failFar s p c) := rfl

theorem samePod_failReq (s : State) (id c : Nat) : SamePod s (failReq s id c) := by
  unfold failReq
  split
  · exact .refl s
  · dsimp only
    split
    · rfl
    · split
      · rfl
      · split
        · exact samePod_completeFailed (dropReq s id) _ _ _
        · split
          · exact samePod_modFibre (dropReq s id) _ _
          · exact samePod_addFailure (dropReq s id) _ _

theorem samePod_dropOutst (s : State) (id : Nat) : SamePod s (dropOutst s id) := rfl

theorem samePod_failOutst (s : State) (o : Outst) (c : Nat) : SamePod s (failOutst s o c) := by
  unfold failOutst
  split
  · split
    · exact (samePod_completeWord s o _).trans (samePod_dropOutst _ _)
    · exact (samePod_dropOutst s o.id).trans (samePod_completeTrap _ _ _ _)
  · exact (samePod_completeWord s o c).trans (samePod_dropOutst _ _)

theorem samePod_migrationRefused (s : State) (n : Nat) : SamePod s (migrationRefused s n) := by
  unfold migrationRefused
  split
  · exact .refl s
  · split
    · exact samePod_complete s _ _
    · exact samePod_modFibre s _ _

theorem samePod_failPacket (s : State) (c : Nat) (p : Packet) : SamePod s (failPacket s c p) := by
  unfold failPacket
  split
  · exact samePod_migrationRefused s _
  · split
    · exact .refl s
    · split
      · exact samePod_failOutst s _ c
      · exact (samePod_failFar s _ c).trans (samePod_failReq _ _ c)

end Sys2Proof.Proofs

/-! The steps of the links and the fabric (R196-R209, R244, R428-R436). -/

namespace Sys2Proof.Proofs

open Sys2Proof Sys2Proof.Machine Sys2Proof.Safety Sys2Proof.Laws

/-! The routers (R197, R209). -/

section
variable {s : State} {p : Packet} {rest : List Packet}

/-- The routers once their first packet has left them. -/
def routerTaken (s : State) (rest : List Packet) : State := { s with net := { s.net with router := rest } }

/-- The port of a packet's next hop (R197). -/
def hopPort (s : State) (p : Packet) : Nat := portTo (ownMod s) (nextHop s (ownMod s) p)

theorem forward_of_own (hr : s.net.router = p :: rest) (hp : idPod p.dst = s.dev.pod.toNat) (ho : isOwnIdent s p.dst = true) :
    forward s = { s with net := { s.net with
      router := rest
      ingress := s.net.ingress ++ [p] } } := by
  unfold forward
  rw [hr]
  exact (if_neg (not_not_intro hp)).trans (if_pos ho)

/-- A packet for another pod of a kind that crosses leaves as an Ethernet frame (R209). -/
theorem forward_of_frame (hr : s.net.router = p :: rest) (hp : idPod p.dst ≠ s.dev.pod.toNat) (hk : crossesPods p.kind.toNat = true) :
    let t := routerTaken s rest
    forward s = { t with net := { t.net with frames := s.net.frames ++ [frameOf t p] } } := by
  unfold forward
  rw [hr]
  exact (if_pos hp).trans (if_pos hk)

/-- The packet at the head of the routers is for another module of the pod. -/
structure Passing (s : State) (p : Packet) (rest : List Packet) : Prop where
  router : s.net.router = p :: rest
  pod : idPod p.dst = s.dev.pod.toNat
  other : isOwnIdent s p.dst = false

/-- Where a packet goes whose next hop's port cannot be used (R197): on a detour, or to the back of the routers. -/
def detoured (t : State) (p : Packet) (rest : List Packet) (ports : List Nat) : State :=
  match ports with
  | g :: _ => queueOn t g p 0 false
  | [] => { t with net := { t.net with router := rest ++ [p] } }

theorem forward_of_passing (h : Passing s p rest) : let t := routerTaken s rest
    forward s = if portUsable t (hopPort t p) = true then
        queueOn t (hopPort t p) p (b1 (isDetour t p || columnFirst t p)) (isDetour t p)
      else detoured t p rest (if isDetour t p then [] else detourPorts t (hopPort t p)) := by
  have ho : ¬ isOwnIdent s p.dst = true := by simp [h.other]
  unfold forward
  rw [h.router]
  exact (if_neg (not_not_intro h.pod)).trans (if_neg ho)

theorem forward_of_usable (h : Passing s p rest) : let t := routerTaken s rest
    portUsable t (hopPort t p) = true →
      forward s = queueOn t (hopPort t p) p (b1 (isDetour t p || columnFirst t p)) (isDetour t p) :=
  fun hu => (forward_of_passing h).trans (if_pos hu)

theorem forward_of_unusable (h : Passing s p rest) : let t := routerTaken s rest
    portUsable t (hopPort t p) = false →
      forward s = detoured t p rest (if isDetour t p then [] else detourPorts t (hopPort t p)) :=
  fun hu => (forward_of_passing h).trans (if_neg (by simp [hu]))

/-- The first packet on a port that has not begun, where it has taken no detour, takes the first that is open (R197). -/
theorem detourTimeout_of_due {f g : Nat} {more : List Nat} {e : (BitVec 3 × Bool) × List (List Byte)} (hd : detourPorts s f = g :: more)
    (hw : (portOf s f).txq[if (portOf s f).txMid then 1 else 0]? = some e) (hf : e.1.2 = false) :
    let t := setPort s f { portOf s f with txq := dropAt (portOf s f).txq (if (portOf s f).txMid then 1 else 0) }
    detourTimeout s f = setPort t g { portOf t g with txq := (portOf t g).txq ++ [e] } := by
  simp only [detourTimeout, hw, hd, hf, Bool.false_eq_true, if_false]

/-! The ingress (R208, R434, R435). -/

/-- The state once the first packet of the ingress has left it, with its sender heard (R429). -/
def ingressTaken (s : State) (p : Packet) (rest : List Packet) : State := { s with net := { s.net with
  ingress := rest
  heard := if idPod p.src = s.dev.pod.toNat then tset s.net.heard (idMod p.src) s.sched.tick else s.net.heard } }

/-- A packet that has passed its checks makes its sender's module reachable (R430). -/
def reachable (t : State) (p : Packet) : State := { t with net := { t.net with
  dead := if idPod p.src = t.dev.pod.toNat then sDel t.net.dead (idMod p.src) else t.net.dead } }

/-- The first packet of the ingress is for this module and not of an earlier incarnation of its sender. -/
structure Entering (s : State) (p : Packet) (rest : List Packet) : Prop where
  ingress : s.net.ingress = p :: rest
  own : isOwnIdent s p.dst = true
  incarn : idPod p.src = s.dev.pod.toNat → p.incarn = expOf s (idMod p.src)

theorem ingress_of_entering (h : Entering s p rest) : let t := ingressTaken s p rest
    ingress s = if 13 ≤ p.kind.toNat ∨ p.rsv = true ∨ areaReserved p = true then countDrop t
      else if (tenantOf s p.ten.toNat).en = false ∧ routerOwn p = false then answer (countDrop t) p 5 4 p.area p.data
      else if agentTakes (idAgent p.dst) p.kind.toNat = false then countDrop t
      else enterModule t p := by
  have ho : (!isOwnIdent s p.dst) ≠ true := by simp [h.own]
  unfold ingress ingressTaken
  rw [h.ingress]
  by_cases hp : idPod p.src = s.dev.pod.toNat
  · have hb : (idPod p.src == s.dev.pod.toNat) = true := beq_iff_eq.mpr hp
    have hi : (p.incarn != expOf s (idMod p.src)) = false := by simp [h.incarn hp]
    simp only [if_pos hp, hb, if_true, Bool.true_and]
    refine (if_neg ho).trans ?_
    simp only [expOf] at hi
    simp only [expOf, hi, Bool.false_eq_true, if_false]
    rfl
  · have hb : (idPod p.src == s.dev.pod.toNat) = false := by simpa using hp
    simp only [if_neg hp, hb, Bool.false_eq_true, if_false, Bool.false_and]
    exact if_neg ho

theorem enterModule_eq (t : State) (p : Packet) : enterModule t p = if p.kind.toNat = 3 ∨ p.kind.toNat = 5 then
      arrived (pairAnswered (reachable t p) p) p
    else if p.kind.toNat = 12 then arrived (reachable t p) p else acceptRequest (reachable t p) p := by
  unfold enterModule reachable
  by_cases hp : idPod p.src = t.dev.pod.toNat
  · rw [if_pos (beq_iff_eq.mpr hp), if_pos hp]
  · rw [if_neg (mt beq_iff_eq.mp hp), if_neg hp]

theorem enterModule_of_reply {t : State} (hk : p.kind = 3 ∨ p.kind = 5) :
    enterModule t p = arrived (pairAnswered (reachable t p) p) p :=
  (enterModule_eq t p).trans (if_pos (hk.imp (congrArg BitVec.toNat) (congrArg BitVec.toNat)))

theorem enterModule_of_request {t : State} (h3 : p.kind ≠ 3) (h5 : p.kind ≠ 5) (h12 : p.kind ≠ 12) :
    enterModule t p = acceptRequest (reachable t p) p := by
  have ne {n : BitVec 8} (h : p.kind ≠ n) : p.kind.toNat ≠ n.toNat := mt BitVec.eq_of_toNat_eq h
  have hr : ¬ (p.kind.toNat = 3 ∨ p.kind.toNat = 5) := not_or.mpr ⟨ne h3, ne h5⟩
  have hc : ¬ p.kind.toNat = 12 := ne h12
  rw [enterModule_eq, if_neg hr, if_neg hc]

/-- A packet of a type, field or area that is reserved is discarded and counted (R208). -/
theorem ingress_of_reserved (h : Entering s p rest) (hr : 13 ≤ p.kind.toNat ∨ p.rsv = true ∨ areaReserved p = true) :
    ingress s = countDrop (ingressTaken s p rest) :=
  (ingress_of_entering h).trans (if_pos hr)

/-- A packet whose kind, fields and area are as they may be (R208). -/
def NothingReserved (p : Packet) : Prop := p.kind.toNat < 13 ∧ p.rsv = false ∧ areaReserved p = false

theorem NothingReserved.not_reserved (h : NothingReserved p) : ¬ (13 ≤ p.kind.toNat ∨ p.rsv = true ∨ areaReserved p = true) := by
  obtain ⟨hk, hr, ha⟩ := h
  simp [hr, ha, hk]

/-- A packet of a tenant that is disabled is counted and returned with WINDOW (R208). -/
theorem ingress_of_disabled (h : Entering s p rest) (hw : NothingReserved p) (he : (tenantOf s p.ten.toNat).en = false) (ho : routerOwn p = false) :
    ingress s = answer (countDrop (ingressTaken s p rest)) p 5 4 p.area p.data := by
  rw [ingress_of_entering h, if_neg hw.not_reserved, if_pos ⟨he, ho⟩]

theorem ingress_of_taken (h : Entering s p rest) (hw : NothingReserved p) (he : (tenantOf s p.ten.toNat).en = true)
    (ha : agentTakes (idAgent p.dst) p.kind.toNat = true) : ingress s = enterModule (ingressTaken s p rest) p := by
  rw [ingress_of_entering h, if_neg hw.not_reserved, if_neg (by simp [he]), if_neg (by simp [ha])]

end

/-! Flits sent (R198-R203, R244, R433). -/

section
variable {s : State} {f : Nat}

theorem transmit_of_resend {x : Flit} {rest : List Flit} (hu : (portOf s f).up = true) (hr : (portOf s f).resend = x :: rest) :
    transmit s f = setPort s f { portOf s f with
      resend := rest
      wire := some x } := by
  simp only [transmit, hu, hr, putWire, Bool.not_true, Bool.false_eq_true, if_false]

theorem transmit_of_nak (hu : (portOf s f).up = true) (hr : (portOf s f).resend = []) (hn : (portOf s f).nakDue = true) :
    transmit s f = setPort s f { portOf s f with
      nakDue := false
      wire := some (clearFlit { portOf s f with nakDue := false } 5) } := by
  simp only [transmit, hu, hr, hn, putWire, clearFlit, Bool.not_true, Bool.false_eq_true, if_false, if_true]

/-- With no packet to send the link carries an IDLE (R201). -/
theorem transmit_of_idle (hu : (portOf s f).up = true) (hr : (portOf s f).resend = []) (hn : (portOf s f).nakDue = false)
    (hq : (portOf s f).txq = []) : transmit s f = setPort s f { portOf s f with wire := some (clearFlit (portOf s f) 0) } := by
  simp only [transmit, hu, hr, hn, hq, putWire, Bool.not_true, Bool.false_eq_true, if_false, ite_self]

/-- A port that is up, has nothing to say before a packet's next flit, and may send one: keyed, its count not spent, and room in its replay
buffer (R201-R203). -/
structure MaySend (p : Port) : Prop where
  up : p.up = true
  resend : p.resend = []
  nak : p.nakDue = false
  key : txKey p ≠ none
  count : p.count ≠ 2 ^ 32
  replay : p.replay.length < 64

theorem MaySend.not_idle {p : Port} (h : MaySend p) : ¬ ((txKey p).isNone ∨ p.count = 2 ^ 32 ∨ 64 ≤ p.replay.length) := by
  rintro (hk | hc | hr)
  · exact h.key (Option.isNone_iff_eq_none.mp hk)
  · exact h.count hc
  · exact Nat.not_le.mpr h.replay hr

theorem transmit_of_flit {vc : BitVec 3 × Bool} {b : List Byte} {more : List (List Byte)} {q : List ((BitVec 3 × Bool) × List (List Byte))}
    (h : MaySend (portOf s f)) (hq : (portOf s f).txq = (vc, b :: more) :: q) :
    transmit s f = setPort s f { sendFlit (portOf s f) (newFlit (portOf s f) (if (portOf s f).txMid then 2 else 1) vc.1
        (!(portOf s f).txMid) more.isEmpty b) with
      txq := if more.isEmpty then q else (vc, more) :: q
      txMid := !more.isEmpty } := by
  simp only [transmit, h.up, h.resend, h.nak, if_neg h.not_idle, hq, Bool.not_true, Bool.false_eq_true, if_false]

/-- A packet cut off after its first flit ends with a STOMP (R433). -/
theorem transmit_of_stomp {vc : BitVec 3 × Bool} {q : List ((BitVec 3 × Bool) × List (List Byte))} (h : MaySend (portOf s f))
    (hq : (portOf s f).txq = (vc, []) :: q) (hm : (portOf s f).txMid = true) :
    transmit s f = setPort s f (sendFlit { portOf s f with
      txq := q
      txMid := false } (newFlit (portOf s f) 3 vc.1 false true zeroPayload)) := by
  simp only [transmit, h.up, h.resend, h.nak, if_neg h.not_idle, hq, hm, newFlit, Bool.not_true, Bool.false_eq_true, if_false, if_true]

/-! Flits received (R199-R203). -/

/-- A flit of a type that arrives on a link that is up, with its CRC right and nothing reserved in it (R203). -/
structure Sound (s : State) (f : Nat) (typ : BitVec 4) (x : Flit) : Prop where
  up : (portOf s f).up = true
  known : typ.toNat < 6
  typ : x.typ = typ
  rsv : x.rsv = false
  crc : flitCrc x = x.crc

section
variable {typ : BitVec 4} {x : Flit} {payload : List Byte}

theorem Sound.not_down (h : Sound s f typ x) : ¬ (!(portOf s f).up) = true := by simp [h.up]

theorem Sound.not_other (h : Sound s f typ x) : ¬ (x.typ ≠ typ ∧ x.typ.toNat < 6) := fun hn => hn.1 h.typ

theorem Sound.not_bad (h : Sound s f typ x) : ¬ (6 ≤ x.typ.toNat ∨ x.rsv = true ∨ flitCrc x ≠ x.crc) := by
  simp [h.rsv, h.crc, h.typ, h.known]

theorem receiveFlit_of_idle (h : Sound s f 0 x) : receiveFlit s f 0 x = setPort s f (acknowledged (portOf s f) x.ack) := by
  simp only [receiveFlit, if_neg h.not_down, if_neg h.not_other, if_neg h.not_bad, if_true]

/-- A NAK is answered with all that it does not acknowledge (R203). -/
theorem receiveFlit_of_nak (h : Sound s f 5 x) : receiveFlit s f 5 x
    = setPort s f { acknowledged (portOf s f) x.ack with resend := (acknowledged (portOf s f) x.ack).replay } := by
  have h0 : ¬ (5 : BitVec 4) = 0 := by decide
  simp only [receiveFlit, if_neg h.not_down, if_neg h.not_other, if_neg h.not_bad, if_neg h0, if_true]

/-- A flit in order that its receiving key opens (R200, R203). -/
structure Opened (s : State) (f : Nat) (x : Flit) (payload : List Byte) : Prop where
  seq : x.seq = (portOf s f).expect
  keyed : rxKey (portOf s f) ≠ none
  opens : ∃ k, (if x.ks then (portOf s f).rxKey1 else (portOf s f).rxKey0) = some k
    ∧ openFlit k (Config.partnerLinkid f) (portOf s f).rxCount x = some payload

theorem receiveFlit_of_opened (h : Sound s f typ x) (h0 : typ ≠ 0) (h5 : typ ≠ 5) (ho : Opened s f x payload) :
    receiveFlit s f typ x = acceptFlit s f x payload := by
  obtain ⟨key, hkey⟩ := Option.ne_none_iff_exists'.mp ho.keyed
  obtain ⟨k, hk, hp⟩ := ho.opens
  simp only [receiveFlit, if_neg h.not_down, if_neg h.not_other, if_neg h.not_bad, if_neg h0, if_neg h5, if_neg (not_not_intro ho.seq), hkey,
    hk, hp]

end

/-! Training (R244, R436). -/

section
variable {width : BitVec 2} {m : BitVec 6} {pod : BitVec 8} {inc : BitVec 16}

/-- A port whose link may train, with a width that a link can have. -/
structure MayTrain (s : State) (f : Nat) (width : BitVec 2) : Prop where
  port : f < 14
  role : (portOf s f).role = 0
  held : (portOf s f).held = false
  width : width ≠ 3
  dieB : 7 ≤ f → s.dev.dieBLost = false

theorem MayTrain.not_refused (h : MayTrain s f width) :
    ¬ (14 ≤ f ∨ 1 ≤ (portOf s f).role ∨ (portOf s f).held = true ∨ width = 3 ∨ (7 ≤ f ∧ s.dev.dieBLost = true)) := by
  rintro (hp | hr | hh | hw | ⟨h7, hb⟩)
  · exact Nat.not_le.mpr h.port hp
  · rw [h.role] at hr
    exact Nat.not_succ_le_zero 0 hr
  · exact Bool.false_ne_true (h.held.symm.trans hh)
  · exact h.width hw
  · exact Bool.false_ne_true ((h.dieB h7).symm.trans hb)

/-- A partner whose numbers are not those of R196 is counted, and the link stays down. -/
theorem linkTrained_of_stranger (h : MayTrain s f width)
    (hm : pod ≠ s.dev.pod ∨ m.toNat ≠ partnerOf (ownMod s) f) : linkTrained s f width m pod inc = countDrop s :=
  (if_neg h.not_refused).trans (if_pos hm)

theorem linkTrained_of_partner (h : MayTrain s f width)
    (hp : pod = s.dev.pod) (hm : m.toNat = partnerOf (ownMod s) f) : linkTrained s f width m pod inc
      = setPort { s with net := { s.net with
          inc := if s.net.inc.toNat < inc.toNat then inc else s.net.inc
          exp := if s.net.inc.toNat < inc.toNat then tset s.net.exp (ownMod s) inc else s.net.exp
          dead := sDel s.net.dead m.toNat
          heard := tset s.net.heard m.toNat s.sched.tick } } f { portDown (portOf s f) with
            width := width
            up := true
            seq := 0
            ack := 0xFFFF
            expect := 0 } :=
  (if_neg h.not_refused).trans (if_neg (not_or.mpr ⟨not_not_intro hp, not_not_intro hm⟩))

end

end

/-! Heartbeats (R429). -/

section
variable {s : State}

/-- A port's heartbeat, where routing may use the port. -/
def beatOn (s : State) (f : Nat) : State :=
  if portUsable s f then queueOn s f (control s (partnerOf (ownMod s) f) 4 0 0) 0 false else s

/-- The port once its heartbeat is queued. -/
def beaten (s : State) (f : Nat) : Port :=
  if portUsable s f then { portOf s f with txq := (portOf s f).txq ++ [((BitVec.ofNat 3 (2 * classOf 12), false),
    payloads 17 (packetBytes (control s (partnerOf (ownMod s) f) 4 0 0)))] }
  else portOf s f

theorem heartbeat_eq (s : State) : heartbeat s = (List.range 14).foldl beatOn s := rfl

theorem portOf_beatOn (s : State) (g f : Nat) : portOf (beatOn s g) f = if g = f then beaten s g else portOf s f := by
  unfold beatOn beaten
  split
  · exact tget_tset _ _ _ _ _
  · split
    next h => rw [h]
    next => rfl

/-- A heartbeat on another port changes nothing that this port's depends on. -/
theorem beaten_beatOn (s : State) {g f : Nat} (h : g ≠ f) : beaten (beatOn s g) f = beaten s f := by
  have hp : portOf (beatOn s g) f = portOf s f := (portOf_beatOn s g f).trans (if_neg h)
  have hd : (beatOn s g).dev = s.dev := by
    unfold beatOn
    split <;> rfl
  have hc : control (beatOn s g) (partnerOf (ownMod (beatOn s g)) f) 4 0 0 = control s (partnerOf (ownMod s) f) 4 0 0 := by
    unfold beatOn
    split <;> rfl
  have hu : portUsable (beatOn s g) f = portUsable s f := by
    simp only [portUsable, hp, hd]
  rw [beaten, hu, hp, hc, beaten]

/-- Of ports that beat in turn, each once, those named are beaten and the others as they were. -/
theorem portOf_foldl_beatOn (f : Nat) {fs : List Nat} (hn : fs.Nodup) (s : State) :
    portOf (fs.foldl beatOn s) f = if f ∈ fs then beaten s f else portOf s f := by
  induction fs generalizing s with
  | nil => exact (if_neg List.not_mem_nil).symm
  | cons g fs ih =>
    obtain ⟨hg, hfs⟩ := List.nodup_cons.mp hn
    refine (ih hfs (beatOn s g)).trans ?_
    rw [portOf_beatOn]
    by_cases h : g = f
    · subst h
      rw [if_neg hg, if_pos rfl, if_pos List.mem_cons_self]
    · rw [beaten_beatOn s h, if_neg h]
      simp only [List.mem_cons, Ne.symm h, false_or]

theorem portOf_heartbeat (s : State) {f : Nat} (hf : f < 14) : portOf (heartbeat s) f = beaten s f :=
  (portOf_foldl_beatOn f List.nodup_range s).trans (if_pos (List.mem_range.mpr hf))

end

/-! Silence and death of modules (R429, R430). -/

section
variable {s : State} {m : Nat}

theorem declareDead_of_dead (h : sHas s.net.dead m = true) : declareDead s m = s := if_pos (.inl h)

theorem declareDead_of_alive (h : sHas s.net.dead m = false) (hm : m ≠ ownMod s) :
    declareDead s m = moduleDies { s with net := { s.net with
      router := s.net.router ++ (podOthers s).map fun x => control s x 5 m (expOf s m).toNat } } m :=
  if_neg (not_or.mpr ⟨by simp [h], hm⟩)

end

/-! Requests without an answer (R428, R434). -/

section
variable {s : State} {src dst : BitVec 26}

/-- The unanswered packets of a pair whose retries are spent have failed. -/
def retriesSpent (s : State) (k : Nat) : State :=
  (pairOf s k).unanswered.foldl (fun t p => failPacket t cTIMEOUT p) (setPair s k { pairOf s k with
    unanswered := []
    retries := 0 })

/-- The unanswered packets of a pair go to the routers once more. -/
def retried (s : State) (k : Nat) : State :=
  let t := setPair s k { pairOf s k with retries := (pairOf s k).retries + 1 }
  { t with net := { t.net with router := t.net.router ++ ((pairOf s k).unanswered.take 32).map fun p => { p with retry := true } } }

theorem retryTimeout_eq (s : State) (src dst : BitVec 26) : retryTimeout s src.toNat dst.toNat
    = if (pairOf s (pairKey src dst)).unanswered.isEmpty then s
      else if (pairOf s (pairKey src dst)).retries < 4 then retried s (pairKey src dst) else retriesSpent s (pairKey src dst) := by
  simp only [retryTimeout, BitVec.ofNat_toNat, BitVec.setWidth_eq]
  rfl

/-- A packet's failure changes no pod's number, so the module at the pair's end is of this pod as it was. -/
theorem samePod_retriesSpent (s : State) (k : Nat) : SamePod s (retriesSpent s k) :=
  SamePod.trans (t := setPair s k { pairOf s k with
    unanswered := []
    retries := 0 }) rfl (.foldl (fun t p => samePod_failPacket t cTIMEOUT p) _ _)

/-- Whether a pair's packets have been retried for the last time (R434). -/
def retriesOver (s : State) (k : Nat) : Bool := !(pairOf s k).unanswered.isEmpty && decide (4 ≤ (pairOf s k).retries)

theorem retryPair_of_other (ho : (isOwnIdent s src && isOwnIdent s dst) = false) : let t := retryTimeout s src.toNat dst.toNat
    retryPair s src dst = if (retriesOver s (pairKey src dst) && idPod dst == t.dev.pod.toNat) = true then declareDead t (idMod dst) else t :=
  if_neg (by simp [ho])

theorem retryPair_of_answered (ho : (isOwnIdent s src && isOwnIdent s dst) = false) (hu : (pairOf s (pairKey src dst)).unanswered = []) :
    retryPair s src dst = s := by
  rw [retryPair_of_other ho, retryTimeout_eq, retriesOver, hu]
  rfl

theorem retryPair_of_retry (ho : (isOwnIdent s src && isOwnIdent s dst) = false) (hu : (pairOf s (pairKey src dst)).unanswered ≠ [])
    (hr : (pairOf s (pairKey src dst)).retries < 4) : retryPair s src dst = retried s (pairKey src dst) := by
  have ht : retryTimeout s src.toNat dst.toNat = retried s (pairKey src dst) := by
    rw [retryTimeout_eq, if_neg (mt List.isEmpty_iff.mp hu), if_pos hr]
  have hl : retriesOver s (pairKey src dst) = false := by simp [retriesOver, hr]
  rw [retryPair_of_other ho, ht, hl, Bool.false_and, if_neg Bool.false_ne_true]

/-- With its retries spent a pair's packets fail, and a module of the pod that did not answer is declared dead (R429, R434). -/
theorem retryPair_of_spent (ho : (isOwnIdent s src && isOwnIdent s dst) = false) (hu : (pairOf s (pairKey src dst)).unanswered ≠ [])
    (hr : 4 ≤ (pairOf s (pairKey src dst)).retries) : let t := retriesSpent s (pairKey src dst)
    retryPair s src dst = if idPod dst = s.dev.pod.toNat then declareDead t (idMod dst) else t := by
  have ht : retryTimeout s src.toNat dst.toNat = retriesSpent s (pairKey src dst) := by
    rw [retryTimeout_eq, if_neg (mt List.isEmpty_iff.mp hu), if_neg (Nat.not_lt.mpr hr)]
  have hl : retriesOver s (pairKey src dst) = true := by simp [retriesOver, hu, hr]
  have hpod : (retriesSpent s (pairKey src dst)).dev.pod = s.dev.pod := samePod_retriesSpent s _
  simp only [retryPair_of_other ho, ht, hl, hpod, Bool.true_and, beq_iff_eq]

/-- A directory request of a home of this module to an agent of it that is not dead (R428). -/
structure OwnRequest (s : State) (src dst : BitVec 26) : Prop where
  own_src : isOwnIdent s src = true
  own_dst : isOwnIdent s dst = true
  home : 0x400 ≤ idAgent src ∧ idAgent src < 0x442
  agent : idAgent dst < 0x440 ∨ (0x444 ≤ idAgent dst ∧ idAgent dst < 0x448)
  alive : s.dev.deadAgents.contains (idAgent dst) = false

theorem OwnRequest.not_refused (h : OwnRequest s src dst) : ¬ (idAgent src < 0x400 ∨ 0x442 ≤ idAgent src
    ∨ s.dev.deadAgents.contains (idAgent dst) = true ∨ (0x440 ≤ idAgent dst ∧ (idAgent dst < 0x444 ∨ 0x448 ≤ idAgent dst))) := by
  rw [h.alive]
  obtain ⟨-, -, ⟨h1, h2⟩, h3, -⟩ := h
  simp only [Bool.false_eq_true, false_or]
  omega

/-- Whether a timeout falls when the last request's next one would (log entry 48). -/
def RetryDue (s : State) (k : Nat) : Prop :=
  0 < (pairOf s k).retries ∧ s.sched.tick = (pairOf s k).timed + 1024 * 2 ^ (pairOf s k).retries

/-- The retries of a home's request, counted anew where the timeout is another request's. -/
def ownRetries (s : State) (k : Nat) : Nat :=
  if (decide (0 < (pairOf s k).retries) && s.sched.tick == (pairOf s k).timed + 1024 * 2 ^ (pairOf s k).retries) = true then
    (pairOf s k).retries else 0

theorem ownRetries_of_due {k : Nat} (h : RetryDue s k) : ownRetries s k = (pairOf s k).retries :=
  if_pos (by simpa [RetryDue] using h)

theorem ownRetries_of_not_due {k : Nat} (h : ¬ RetryDue s k) : ownRetries s k = 0 :=
  if_neg (by simpa [RetryDue] using h)

theorem retryPair_of_own (h : OwnRequest s src dst) : let k := pairKey src dst
    retryPair s src dst = if ownRetries s k < 4 then setPair s k { pairOf s k with
        retries := ownRetries s k + 1
        timed := s.sched.tick }
      else declareAgent (setPair s k { pairOf s k with retries := 0 }) (idAgent dst) :=
  (if_pos (by simp [h.own_src, h.own_dst])).trans (if_neg h.not_refused)

end

/-- Settles O56, event by event. -/
theorem linkAndFabricEvents : Obligations.LinkAndFabricEvents := by
  unfold Obligations.LinkAndFabricEvents
  refine ⟨?own, ?passing, ?detour, ?ingress, ?transmit, ?clear, ?encrypted, ?replay, ?trained, ?loss, ?frame, ?ethernet, ?heartbeat, ?silence,
    ?notice, fun s => rfl, ?retry, ?ownRetry⟩
  case own =>
    intro s p rest hr hp ho
    exact next_eq (forward_of_own hr hp ho)
  case passing =>
    intro s p rest hr hp ho t f
    have h : Passing s p rest := ⟨hr, hp, ho⟩
    refine ⟨fun hu => next_eq (forward_of_usable h hu), fun g more hu hd hg => ?turned, fun hu hd => ?blocked⟩
    all_goals refine next_eq ((forward_of_unusable h hu).trans ?_)
    case turned =>
      have hports : (if isDetour t p then [] else detourPorts t f) = g :: more := by simp [hd, hg]
      exact congrArg (detoured t p rest) hports
    case blocked =>
      have hports : (if isDetour t p then [] else detourPorts t f) = [] := by
        rcases hd with hd | hd <;> simp [hd]
      exact congrArg (detoured t p rest) hports
  case detour =>
    intro s f e g rest q hw hd hf
    exact next_eq (detourTimeout_of_due hd hw hf)
  case ingress =>
    intro s p rest hi ho hinc t
    have h : Entering s p rest := ⟨hi, ho, hinc⟩
    refine ⟨fun hr => next_eq (ingress_of_reserved h hr), fun hk hr ha he hown => ?disabled, fun hk hr ha he h12 hag => ?_⟩
    case disabled => exact next_eq (ingress_of_disabled h ⟨hk, hr, ha⟩ he hown)
    have ht := ingress_of_taken h ⟨hk, hr, ha⟩ he hag
    exact ⟨fun hrep => next_eq (ht.trans (enterModule_of_reply hrep)),
      fun h3 h5 => next_eq (ht.trans (enterModule_of_request h3 h5 h12))⟩
  case transmit =>
    intro s f b rest p hu
    refine ⟨fun hr => next_eq (transmit_of_resend hu hr), fun hr hn => next_eq (transmit_of_nak hu hr hn),
      fun hr hn hq => next_eq (transmit_of_idle hu hr hn hq), fun vc bytes more q hr hn hk hc hl hq => ?flit,
      fun vc q hr hn hk hc hl hq hm => ?stomp⟩
    case flit => exact next_eq (transmit_of_flit ⟨hu, hr, hn, hk, hc, hl⟩ hq)
    case stomp => exact next_eq (transmit_of_stomp ⟨hu, hr, hn, hk, hc, hl⟩ hq hm)
  case clear =>
    intro s f x hu hr hc
    exact ⟨fun ht => next_eq (receiveFlit_of_idle ⟨hu, by decide, ht, hr, hc⟩),
      fun ht => next_eq (receiveFlit_of_nak ⟨hu, by decide, ht, hr, hc⟩)⟩
  case encrypted =>
    intro s f x k payload p hu hr hc hs hkey hk ho
    have h {typ : BitVec 4} (he : typ.toNat < 6 ∧ typ ≠ 0 ∧ typ ≠ 5) (ht : x.typ = typ) :
        receiveFlit s f typ x = acceptFlit s f x payload :=
      receiveFlit_of_opened ⟨hu, he.1, ht, hr, hc⟩ he.2.1 he.2.2 ⟨hs, hkey, k, hk, ho⟩
    exact ⟨fun ht => next_eq (h (by decide) ht), fun ht => next_eq (h (by decide) ht), fun ht => next_eq (h (by decide) ht),
      fun ht => next_eq (h (by decide) ht)⟩
  case replay =>
    intro s f hu
    exact next_eq (if_pos hu)
  case trained =>
    intro s f width m pod inc hf hr hh hw hb
    have h : MayTrain s f width := ⟨hf, hr, hh, hw, hb⟩
    exact ⟨fun hm => next_eq (linkTrained_of_stranger h hm), fun hp hm => next_eq (linkTrained_of_partner h hp hm)⟩
  case loss =>
    intro s f hf
    exact next_eq (if_pos hf)
  case frame =>
    intro s p rest hr hp hk t
    exact next_eq (forward_of_frame hr hp hk)
  case ethernet =>
    intro s et p
    exact ⟨fun he => next_eq (if_pos he), fun he => next_eq (if_neg he)⟩
  case heartbeat =>
    intro s
    refine ⟨heartbeat s, rfl, fun f hf => ⟨fun hu => ?_, fun hu => ?_⟩⟩
    · rw [portOf_heartbeat s hf, beaten, if_pos hu]
    · rw [portOf_heartbeat s hf, beaten, if_neg (by simp [hu])]
  case silence =>
    intro s m
    refine ⟨fun hl => next_eq (if_neg (Nat.not_le.mpr hl)), fun hd => ?dead, fun hl hd hm => ?silent⟩
    case dead => exact next_eq (by rw [declareDead_of_dead hd, ite_self])
    case silent => exact next_eq ((if_pos hl).trans (declareDead_of_alive hd hm))
  case notice =>
    intro s m inc
    exact ⟨fun hi => next_eq (if_pos hi), fun hi => next_eq (if_neg hi)⟩
  case retry =>
    intro s src dst k ho
    exact ⟨fun hu => next_eq (retryPair_of_answered ho hu), fun hu hr => next_eq (retryPair_of_retry ho hu hr),
      fun hu hr => next_eq (retryPair_of_spent ho hu hr)⟩
  case ownRetry =>
    intro s src dst k hs hd h1 h2 ha hal due
    have h : OwnRequest s src dst := ⟨hs, hd, ⟨h1, h2⟩, ha, hal⟩
    have he : exec (.e2eRetryTimeout src.toNat dst.toNat) s = .next (retryPair s src dst) := by
      change Host.Outcome.next (retryPair s (BitVec.ofNat 26 src.toNat) (BitVec.ofNat 26 dst.toNat)) = _
      simp only [BitVec.ofNat_toNat, BitVec.setWidth_eq]
    rw [he, retryPair_of_own h]
    refine ⟨fun hn => ?restarted, fun hy hr => ?retried, fun hy hr => ?exhausted⟩
    case restarted =>
      rw [ownRetries_of_not_due hn]
      rfl
    all_goals rw [ownRetries_of_due hy]
    case retried => exact next_eq (if_pos hr)
    case exhausted => exact next_eq (if_neg (Nat.not_lt.mpr hr))

end Sys2Proof.Proofs

/-! The belief instructions (R222-R232, R341, R415): what the three have in common, then GMSG and its slot, GBEL and its slots, GMARG. -/

namespace Sys2Proof.Proofs

open Sys2Proof Sys2Proof.Machine Sys2Proof.Safety Sys2Proof.Laws

/-! How the three use their fibre, and the descriptor that each reads first (R224, R226). -/

/-- How GMSG uses its fibre. -/
def gmsgUse (y : Bool) (gd ga : Reg) (la : Bool) : Use := { plainUse (.gmsg y gd ga la) y [(ga, la)] gd with fail := true }

/-- How GBEL uses its fibre. -/
def gbelUse (y : Bool) (gd ga : Reg) (la : Bool) : Use := { plainUse (.gbel y gd ga la) y [(ga, la)] gd with fail := true }

/-- How GMARG uses its fibre. -/
def gmargUse (y : Bool) (gd ga : Reg) (la : Bool) : Use := plainUse (.gmarg y gd ga la) y [(ga, la)] gd

/-- What the belief instruction of kind `k` with a descriptor at `a` does once it has issued; `go` is what it does with the descriptor. -/
def beliefWith (k : Nat) (t : State) (a : Word) (go : GDesc → State → Eff) : Eff :=
  if t.fib.ident.kind = .handler then handlerTile t a
  else if !aligned a 32 then .trap cALIGN a
  else readBlock 4 t a [] fun t ws => if !gFieldsOk k (gDesc ws) then .trap cRESBITS a else go (gDesc ws) t

/-- Outside a handler, a descriptor that reads and whose fields pass is acted on (R226). -/
theorem beliefWith_of_block {k : Nat} {t r : State} {a : Word} {ws : List Word} (go : GDesc → State → Eff)
    (hk : t.fib.ident.kind ≠ .handler) (ha : a.toNat % 32 = 0) (hb : BlockReads 4 t a ws r) (hf : gFieldsOk k (gDesc ws) = true) :
    beliefWith k t a go = go (gDesc ws) r := by
  simp only [beliefWith, if_neg hk, (aligned_iff a 32).mpr ha, readBlock_of [] _ hb, List.nil_append, hf, Bool.not_true,
    Bool.false_eq_true, if_false]

/-- The same where the instruction has begun in a fibre that is no handler. -/
theorem beliefWith_begun {k : Nat} {s r : State} {u : Use} {ws : List Word} (go : GDesc → State → Eff)
    (ha : (operand s u 0).toNat % 32 = 0) (hb : BlockReads 4 (begun s u) (operand s u 0) ws r) (hk : s.fib.ident.kind ≠ .handler)
    (hf : gFieldsOk k (gDesc ws) = true) : beliefWith k (begun s u) (operand s u 0) go = go (gDesc ws) r :=
  beliefWith_of_block go (begun_fib_ident s u ▸ hk) ha hb hf

/-! GMSG (R228-R230). -/

/-- The dimension of the variable that a message goes to (R228). -/
def msgDim (d : GDesc) : Nat := if d.flags = 1 then d.dj else d.di

/-- The dimension of the variable that a message leaves out (R228). -/
def msgFrom (d : GDesc) : Nat := if d.flags = 1 then d.di else d.dj

/-- A message computed, on its way to its slot. -/
def msgJob (t : State) (d : GDesc) (pas : List Nat) (rows : List (List Ex)) (fl : BitVec 5) : SlotJob :=
  ⟨(freshId t).1, d.slot, pas, msgDim d, d.damp,
    rows.flatMap fun r => r.map fun e => BitVec.ofNat 64 (roundFloat fp64 false e).1, fl⟩

/-- What GMSG does with its slot's header: the dimension, the tiles' poison, then the pivots. -/
def gmsgHeader (gd : Reg) (d : GDesc) (x z : TileRef) (pas : List Nat) (t : State) (hdr : Word) : Eff :=
  if hdr.toNat % 16 ≠ msgDim d then .trap cTILESHAPE d.slot
  else match gPoison t t.fib x.tile (d.di + d.dj), gPoison t t.fib z.tile (msgFrom d) with
    | some p, _ => .trap cPOISON p
    | _, some p => .trap cPOISON p
    | none, none =>
      match gMessage d (gBlock t x.tile (d.di + d.dj)) (gBlock t z.tile (msgFrom d)) with
      | .error p => .trap cSINGULAR (BitVec.ofNat 64 p)
      | .ok (rows, fl) =>
        if !allPerformed t t.fib.id then .park .accesses t else sendSlot (freshId t).2 gd (msgJob t d pas rows fl)

/-- What GMSG does with its descriptor. -/
def gmsgEff (gd : Reg) (d : GDesc) (t : State) : Eff :=
  match gTiles t ⟨d.t0, d.di + d.dj⟩ ⟨d.t1, msgFrom d⟩ false with
  | .error e => e
  | .ok (x, z) =>
    match slotAt t .store (msgDim d) d.slot with
    | .error e => e
    | .ok pas => withHeader t pas d.slot (gmsgHeader gd d x z pas)

theorem exec_gmsg (y : Bool) (gd ga : Reg) (la : Bool) (s : State) :
    exec (.gmsg y gd ga la) s = issue s (gmsgUse y gd ga la) fun t v => beliefWith 0 t (arg v 0) (gmsgEff gd) := rfl

/-- A header that reads is acted on (R226, R343). -/
theorem withHeader_of {s : State} {pas : List Nat} {hdr : Word} (va : Word) (go : State → Word → Eff) (h : HeaderReads s pas hdr) :
    withHeader s pas va go = go s hdr := by
  obtain ⟨hr, hp, rfl⟩ | ⟨hr, w, hw, hh, hc, rfl⟩ := h
  · simp only [withHeader, hr, hp, Bool.false_eq_true, if_false]
  · simp only [withHeader, hr, fetchFar, hw, hh, hc, if_true, Bool.not_true, Bool.false_eq_true, if_false, ne_eq, not_true_eq_false]

section
variable {t : State} {gd : Reg} {d : GDesc} {x z : TileRef} {pas : List Nat} {hdr : Word}

theorem gmsgEff_of_header (ht : gTiles t ⟨d.t0, d.di + d.dj⟩ ⟨d.t1, msgFrom d⟩ false = .ok (x, z))
    (hs : slotAt t .store (msgDim d) d.slot = .ok pas) (hh : HeaderReads t pas hdr) :
    gmsgEff gd d t = gmsgHeader gd d x z pas t hdr := by
  simp only [gmsgEff, ht, hs, withHeader_of _ _ hh]

theorem gmsgHeader_of_other_dim (h : hdr.toNat % 16 ≠ msgDim d) : gmsgHeader gd d x z pas t hdr = .trap cTILESHAPE d.slot := if_pos h

variable (h : hdr.toNat % 16 = msgDim d)
include h

theorem gmsgHeader_of_poisoned {p : Word} (hx : gPoison t t.fib x.tile (d.di + d.dj) = some p) :
    gmsgHeader gd d x z pas t hdr = .trap cPOISON p := by
  simp only [gmsgHeader, h, hx, ne_eq, not_true_eq_false, if_false]

variable (hx : gPoison t t.fib x.tile (d.di + d.dj) = none) (hz : gPoison t t.fib z.tile (msgFrom d) = none)
include hx hz

theorem gmsgHeader_of_singular {k : Nat}
    (hm : gMessage d (gBlock t x.tile (d.di + d.dj)) (gBlock t z.tile (msgFrom d)) = .error k) :
    gmsgHeader gd d x z pas t hdr = .trap cSINGULAR (BitVec.ofNat 64 k) := by
  simp only [gmsgHeader, h, hx, hz, hm, ne_eq, not_true_eq_false, if_false]

theorem gmsgHeader_of_message {rows : List (List Ex)} {fl : BitVec 5}
    (hm : gMessage d (gBlock t x.tile (d.di + d.dj)) (gBlock t z.tile (msgFrom d)) = .ok (rows, fl))
    (hp : allPerformed t t.fib.id = true) :
    gmsgHeader gd d x z pas t hdr = sendSlot (freshId t).2 gd (msgJob t d pas rows fl) := by
  simp only [gmsgHeader, h, hx, hz, hm, hp, ne_eq, not_true_eq_false, Bool.not_true, Bool.false_eq_true, if_false]

end

/-! A message at its slot (R229, R230). -/

/-- The release that a message's header is written with, at a slot of this module (R166, R229). -/
def slotReleased (t : State) (j : SlotJob) : State :=
  releaseAt t t.fib.ident.tenant t.fib.core (feScope t t.fib.core (j.pas.headD 0))

/-- The release that a message leaves with, for a slot of another module. -/
def slotAsked (t : State) (j : SlotJob) : State :=
  relEffect { t with
    ms := { t.ms with reqs := t.ms.reqs ++ [slotReq t j] }
    sched := { t.sched with nextId := t.sched.nextId + 1 } } (slotReq t j)

section
variable {t : State} {gd : Reg} (j : SlotJob)

section
variable (hr : isRemote t (j.pas.headD 0) = false) (hf : slotFree (slotReleased t j) j = true)
  (hd : (slotReleased t j).sched.defer = false)
include hr hf hd

theorem sendSlot_of_clean (hp : slotPoison (slotReleased t j) j.va j.pas j.dim (j.damp != 0) = none) :
    let r := slotWrite (slotReleased t j) t.fib.core j
    sendSlot t gd j = .done (setLong r.1 gd r.2.1 r.2.2) := by
  unfold slotReleased at *
  simp only [sendSlot, hr, hf, hd, hp, Bool.not_false, Bool.and_self, Bool.false_eq_true, if_true, if_false]

theorem sendSlot_of_poisoned {v : Word} (hp : slotPoison (slotReleased t j) j.va j.pas j.dim (j.damp != 0) = some v) :
    sendSlot t gd j = .trap cPOISON v := by
  unfold slotReleased at *
  simp only [sendSlot, hr, hf, hd, hp, Bool.not_false, Bool.and_self, Bool.false_eq_true, if_true, if_false]

end

section
variable (hr : isRemote t (j.pas.headD 0) = false)
  (hb : (slotReleased t j).sched.defer = true ∨ slotFree (slotReleased t j) j = false)
include hr hb

/-- A slot that is not free, or work left to events: the message waits where its scratchpad has room (R145). -/
theorem sendSlot_of_busy : sendSlot t gd j =
    if slotRoom (slotReleased t j) j then .hold (.slot j) (slotReleased t j)
    else .park (.refused (spadCore (j.pas.headD 0))) (slotReleased t j) := by
  have hn : (slotFree (slotReleased t j) j && !(slotReleased t j).sched.defer) = false := by
    obtain h | h := hb <;> simp [h]
  unfold slotReleased at *
  simp only [sendSlot, hr, hn, Bool.false_eq_true, if_false]

theorem sendSlot_of_room (hm : slotRoom (slotReleased t j) j = true) : sendSlot t gd j = .hold (.slot j) (slotReleased t j) :=
  (sendSlot_of_busy j hr hb).trans (if_pos hm)

theorem sendSlot_of_no_room (hm : slotRoom (slotReleased t j) j = false) :
    sendSlot t gd j = .park (.refused (spadCore (j.pas.headD 0))) (slotReleased t j) :=
  (sendSlot_of_busy j hr hb).trans (if_neg (Bool.not_eq_true _ ▸ hm))

end

section
variable (hr : isRemote t (j.pas.headD 0) = true)
include hr

theorem sendSlot_of_unreachable {c : Nat} (hu : unreachable t (paMod (j.pas.headD 0)) = some c) :
    sendSlot t gd j = .done (setFailed t gd c j.va) := by
  simp only [sendSlot, hr, hu, if_true]

/-- A slot of another module is written there: the message goes with its request (R229). -/
theorem sendSlot_of_far {core : Nat} {ten : BitVec 4} (hc : t.fib.core = core) (ht : t.fib.ident.tenant = ten)
    (hu : unreachable t (paMod (j.pas.headD 0)) = none) : sendSlot t gd j = .hold (.req t.sched.nextId) (sendPacket (slotAsked t j)
      (mkPacket (slotAsked t j) core (podIdent (slotAsked t j) (paMod (j.pas.headD 0)) (remoteAgent (j.pas.headD 0))) 2 ten
        t.sched.nextId 5 true (reqArea (slotReq t j) false) (j.vals.flatMap fun v => leBytes 8 v.toNat))) := by
  subst hc ht
  simp only [sendSlot, hr, hu, if_true]
  rfl

end

end

/-! GBEL (R231). -/

/-- What GBEL does with its descriptor. -/
def gbelEff (gd : Reg) (d : GDesc) (t : State) : Eff :=
  match gTiles t ⟨d.t0, d.di⟩ ⟨d.t1, d.di⟩ true with
  | .error e => e
  | .ok (x, z) =>
    match slotArray t d.di (d.count + 1) d.slot [] with
    | .error e => e
    | .ok slots => slotHeaders t d.di slots none fun t bad =>
      match gPoison t t.fib z.tile d.di <|> bad with
      | some p => .trap cPOISON p
      | none => beliefEff t gd d.di slots x.tile (gCodes t z.tile d.di) slots

theorem exec_gbel (y : Bool) (gd ga : Reg) (la : Bool) (s : State) :
    exec (.gbel y gd ga la) s = issue s (gbelUse y gd ga la) fun t v => beliefWith 1 t (arg v 0) (gbelEff gd) := rfl

/-- A slot that is ready shows a header of the dimension expected, and no poison (R226, R415). -/
theorem lookSlot_of_ready {s : State} {dim : Nat} {q : Word × List Nat} (go : State → Word → Option Word → Eff)
    (h : SlotReady s dim q) : ∃ hdr : Word, hdr.toNat % 16 = dim ∧ lookSlot s dim q go = go s hdr none := by
  obtain ⟨hr, hp, hd, hn⟩ | ⟨hr, w, hw, hh, hc, hb, hd⟩ := h
  · refine ⟨_, hd, ?_⟩
    simp only [lookSlot, hr, Bool.not_false, if_true, withHeader_of _ _ (.inl ⟨hr, hp, rfl⟩), hn]
  · refine ⟨_, hd, ?_⟩
    simp only [lookSlot, hr, hw, hh, hc, hb, Bool.not_true, Bool.false_eq_true, if_false, ne_eq, not_true_eq_false]

theorem slotHeaders_of_ready {s : State} {dim : Nat} {slots : List (Word × List Nat)} (go : State → Option Word → Eff)
    (h : ∀ q ∈ slots, SlotReady s dim q) : slotHeaders s dim slots none go = go s none := by
  induction slots with
  | nil => rfl
  | cons q r ih =>
    obtain ⟨hq, hr⟩ := List.forall_mem_cons.mp h
    obtain ⟨hdr, hd, hl⟩ := lookSlot_of_ready (fun s hdr b =>
      if hdr.toNat % 16 ≠ dim then .trap cTILESHAPE q.1 else slotHeaders s dim r (none <|> b) go) hq
    exact hl.trans ((if_neg (not_not_intro hd)).trans (ih hr))

theorem gbelEff_of_ready {t : State} {gd : Reg} {d : GDesc} {x z : TileRef} {slots : List (Word × List Nat)}
    (ht : gTiles t ⟨d.t0, d.di⟩ ⟨d.t1, d.di⟩ true = .ok (x, z)) (hs : slotArray t d.di (d.count + 1) d.slot [] = .ok slots)
    (hp : gPoison t t.fib z.tile d.di = none) (hr : ∀ q ∈ slots, SlotReady t d.di q) :
    gbelEff gd d t = beliefEff t gd d.di slots x.tile (gCodes t z.tile d.di) slots := by
  have hclean : (gPoison t t.fib z.tile d.di <|> none) = none := by rw [hp]; rfl
  simp only [gbelEff, ht, hs, slotHeaders_of_ready _ hr, hclean]

/-! A belief's slots, one by one. -/

theorem any_owned_of {t : State} {pas : List Nat} (h : ∀ p ∈ pas, owned t p 8 = false) : (pas.any fun p => owned t p 8) = false :=
  List.any_eq_false.mpr fun p hp => Bool.not_eq_true _ ▸ h p hp

section
variable {s t : State} {gd : Reg} {dim : Nat} {slots r : List (Word × List Nat)} {tl : TileAt} {prior : List (List Word)}
  {q : Word × List Nat}

/-- With every slot taken, the belief is written and its count is returned (R231). -/
theorem beliefEff_nil : let b := beliefOf dim t slots prior
    beliefEff t gd dim slots tl prior []
      = .done (setLong (gWrite b.1 tl (mirror dim (rowVals b.2.1))) gd (BitVec.ofNat 64 b.2.2.1.length) (rowFlags b.2.1)) := rfl

section
variable {w : FarWord} (hw : slotFar t 2 (q.2.headD 0) = some w) (hh : w.here = true)
include hw hh

/-- A slot that has come from another module, or has been emptied before a wait, is passed. -/
theorem beliefEff_of_come (hc : w.cause = 0) :
    beliefEff t gd dim slots tl prior (q :: r) = beliefEff t gd dim slots tl prior r := by
  simp only [beliefEff, hw, hh, hc, Bool.not_true, Bool.false_eq_true, if_false, ne_eq, not_true_eq_false]

theorem beliefEff_of_failed (hc : w.cause ≠ 0) :
    beliefEff t gd dim slots tl prior (q :: r) = .done (setFailed t gd w.cause q.1) := by
  simp only [beliefEff, hw, hh, hc, Bool.not_true, Bool.false_eq_true, if_false, ne_eq, not_false_eq_true, if_true]

end

section
variable (hw : slotFar t 2 (q.2.headD 0) = none)
include hw

/-- A slot of another module is asked for. -/
theorem beliefEff_of_far (hr : isRemote t (q.2.headD 0) = true) (hu : unreachable t (paMod (q.2.headD 0)) = none) :
    beliefEff t gd dim slots tl prior (q :: r)
      = .later .fetch (.belief dim slots tl.core tl.base tl.ent prior) (askSlot t 8 2 dim q.2 q.2 q.1) := by
  simp only [beliefEff, hw, hr, hu, if_true]

variable (hr : isRemote t (q.2.headD 0) = false) (ho : ∀ p ∈ q.2, owned t p 8 = false)
include hr ho

/-- A slot of this module whose words no engine owns is taken, where no word that is read is poisoned. -/
theorem beliefEff_of_clean (hp : slotPoison t q.1 q.2 dim true = none) :
    beliefEff t gd dim slots tl prior (q :: r) = beliefEff (takeHere t q.2) gd dim slots tl prior r := by
  simp only [beliefEff, hw, hr, any_owned_of ho, hp, Bool.false_eq_true, if_false]

theorem beliefEff_of_poisoned {v : Word} (hp : slotPoison t q.1 q.2 dim true = some v) :
    beliefEff t gd dim slots tl prior (q :: r) = .done (setFailed t gd cPOISON v) := by
  simp only [beliefEff, hw, hr, any_owned_of ho, hp, Bool.false_eq_true, if_false]

end

/-- Slots that can be taken are taken, in their order (R231). -/
theorem beliefEff_of_taken {a : List (Word × List Nat)} (h : SlotsTaken dim s a t) :
    beliefEff s gd dim slots tl prior (a ++ r) = beliefEff t gd dim slots tl prior r := by
  induction a generalizing s with
  | nil => exact congrArg (fun x => beliefEff x gd dim slots tl prior r) (h : t = s).symm
  | cons x l ih =>
    obtain ⟨hw, hr, ho, hp, hl⟩ | ⟨w, hw, hh, hc, hl⟩ := h
    · exact (beliefEff_of_clean hw hr ho hp).trans (ih hl)
    · exact (beliefEff_of_come hw hh hc).trans (ih hl)

theorem beliefEff_of_all_taken (h : SlotsTaken dim s slots t) : let b := beliefOf dim t slots prior
    beliefEff s gd dim slots tl prior slots
      = .done (setLong (gWrite b.1 tl (mirror dim (rowVals b.2.1))) gd (BitVec.ofNat 64 b.2.2.1.length) (rowFlags b.2.1)) := by
  have hb := beliefEff_of_taken (gd := gd) (slots := slots) (r := []) (tl := tl) (prior := prior) h
  rw [List.append_nil] at hb
  exact hb.trans beliefEff_nil

end

/-! GMARG (R232). -/

/-- The precision of a block below the diagonal, factorised (R227, R232). -/
def margFact (d : GDesc) (b : List (List Ex)) : Except Nat Fact :=
  chol d.di ((List.range d.di).map fun r => (List.range (r + 1)).map fun c => mAt b r (1 + c)) (decFloat fp64 d.thresh)

/-- What GMARG writes and returns once its block is factorised: the mean, the covariance by columns, and the least pivot. -/
def margDone (gd : Reg) (d : GDesc) (x : TileRef) (b : List (List Ex)) (f : Fact) (t : State) : State :=
  let mu := solve d.di f.l ((List.range d.di).map fun r => mAt b r 0)
  let cols := (List.range d.di).map fun l => solve d.di f.l ((List.range d.di).map fun q => if q = l then exInt 1 else exZero)
  let low := (List.range d.di).map fun r => vAt mu.1 r :: (List.range (r + 1)).map fun c => vAt (cols.getD c ([], 0)).1 r
  setLong (gWrite t x.tile (mirror d.di low)) gd (BitVec.ofNat 64 (roundFloat fp64 false (leastOf f.piv)).1)
    (f.flags ||| mu.2 ||| cols.foldl (fun a c => a ||| c.2) 0)

/-- What GMARG does with its descriptor. -/
def gmargEff (gd : Reg) (d : GDesc) (t : State) : Eff :=
  match gTiles t ⟨d.t0, d.di⟩ ⟨d.t1, d.di⟩ true with
  | .error e => e
  | .ok (x, z) =>
    match gPoison t t.fib z.tile d.di with
    | some p => .trap cPOISON p
    | none =>
      match margFact d (gBlock t z.tile d.di) with
      | .error p => .trap cSINGULAR (BitVec.ofNat 64 p)
      | .ok f => .done (margDone gd d x (gBlock t z.tile d.di) f t)

theorem exec_gmarg (y : Bool) (gd ga : Reg) (la : Bool) (s : State) :
    exec (.gmarg y gd ga la) s = issue s (gmargUse y gd ga la) fun t v => beliefWith 2 t (arg v 0) (gmargEff gd) := rfl

section
variable {t : State} {gd : Reg} {d : GDesc} {x z : TileRef} (ht : gTiles t ⟨d.t0, d.di⟩ ⟨d.t1, d.di⟩ true = .ok (x, z))
  (hp : gPoison t t.fib z.tile d.di = none)
include ht hp

theorem gmargEff_of_singular {k : Nat} (hf : margFact d (gBlock t z.tile d.di) = .error k) :
    gmargEff gd d t = .trap cSINGULAR (BitVec.ofNat 64 k) := by
  simp only [gmargEff, ht, hp, hf]

theorem gmargEff_of_fact {f : Fact} (hf : margFact d (gBlock t z.tile d.di) = .ok f) :
    gmargEff gd d t = .done (margDone gd d x (gBlock t z.tile d.di) f t) := by
  simp only [gmargEff, ht, hp, hf]

end

/-- Settles O43: each way in which a belief instruction's effect ends is one way in which its issue ends. -/
theorem beliefInstructions : Obligations.BeliefInstructions := by
  unfold Obligations.BeliefInstructions
  refine ⟨?gmsg, ?gbel, ?job, ?gmarg⟩
  case gmsg =>
    intro s y gd ga la ws t x z pas hdr i u d di dj h ha hb hk hf ht hs hh
    have he : beliefWith 0 (begun s u) (operand s u 0) (gmsgEff gd) = gmsgHeader gd d x z pas t hdr :=
      (beliefWith_begun _ ha hb hk hf).trans (gmsgEff_of_header ht hs hh)
    have hfib : t.fib = (begun s u).fib := blockReads_fib hb
    rw [exec_gmsg]
    refine ⟨fun hd => ?shape, fun hd p hp => ?poison, fun hd hx hz => ⟨fun k hm => ?singular, ?message⟩⟩
    case shape => exact issue_trap_uncounted h (he.trans (gmsgHeader_of_other_dim hd)) (by decide)
    case poison => exact issue_trap_uncounted h (he.trans (gmsgHeader_of_poisoned hd hp)) (by decide)
    case singular => exact issue_trap_uncounted h (he.trans (gmsgHeader_of_singular hd hx hz hm)) (by decide)
    case message =>
      intro rows fl hm hp t1 pa j t2 r far
      have hsend : beliefWith 0 (begun s u) (operand s u 0) (gmsgEff gd) = sendSlot t1 gd j :=
        he.trans (gmsgHeader_of_message hd hx hz hm hp)
      have hremote : isRemote t1 pa = isRemote t pa := rfl
      rw [← hremote]
      refine ⟨fun hr => ⟨fun hdf hfr => ⟨fun hc => ?clean, fun v hv => ?bad⟩, fun hw => ⟨fun hm => ?room, fun hm => ?full⟩⟩,
        fun hr => ⟨fun c hu => ?unreachable, fun hu => ?far⟩⟩
      case clean => exact issue_done h (hsend.trans (sendSlot_of_clean j hr hfr hdf hc))
      case bad => exact issue_trap_uncounted h (hsend.trans (sendSlot_of_poisoned j hr hfr hdf hv)) (by decide)
      case room => exact issue_hold h (hsend.trans (sendSlot_of_room j hr hw hm))
      case full => exact issue_park h (hsend.trans (sendSlot_of_no_room j hr hw hm))
      case unreachable => exact issue_done h (hsend.trans (sendSlot_of_unreachable j hr hu))
      case far =>
        have hcore : t1.fib.core = s.fib.core := (congrArg Fibre.core hfib).trans (begun_fib_core s u)
        have hten : t1.fib.ident.tenant = s.fib.ident.tenant :=
          (congrArg (fun f => f.ident.tenant) hfib).trans (congrArg Ident.tenant (begun_fib_ident s u))
        exact issue_hold h (hsend.trans (sendSlot_of_far j hr hcore hten hu))
  case gbel =>
    intro s y gd ga la ws t x z slots i u d prior job h ha hb hk hf ht hs hp hr
    have he : beliefWith 1 (begun s u) (operand s u 0) (gbelEff gd) = beliefEff t gd d.di slots x.tile prior slots :=
      (beliefWith_begun _ ha hb hk hf).trans (gbelEff_of_ready ht hs hp hr)
    rw [exec_gbel]
    refine ⟨fun t1 hall => ⟨?sum, fun m => ?resumed⟩, ?ask⟩
    case sum => exact issue_done h (he.trans (beliefEff_of_all_taken hall))
    case resumed => exact beliefEff_of_all_taken hall
    case ask =>
      rintro a q b t1 rfl htaken hw hrem hu
      exact issue_later h (he.trans ((beliefEff_of_taken htaken).trans (beliefEff_of_far hw hrem hu)))
  case job =>
    rintro t m gd dim core base ent prior _ a q b t1 rfl htaken r
    have he : r = _ := beliefEff_of_taken htaken
    exact ⟨fun v hw hr ho hp => he.trans (beliefEff_of_poisoned hw hr ho hp),
      fun w hw hh hc => he.trans (beliefEff_of_failed hw hh hc)⟩
  case gmarg =>
    intro s y gd ga la ws t x z i u d b fact h ha hb hk hf ht hp
    have he : beliefWith 2 (begun s u) (operand s u 0) (gmargEff gd) = gmargEff gd d t := beliefWith_begun _ ha hb hk hf
    rw [exec_gmarg]
    refine ⟨fun k hfact => ?singular, fun f hfact => ?marginal⟩
    case singular => exact issue_trap_uncounted h (he.trans (gmargEff_of_singular ht hp hfact)) (by decide)
    case marginal => exact issue_done h (he.trans (gmargEff_of_fact ht hp hfact))

end Sys2Proof.Proofs

/-! The state after reset (R18, R114, R157, R167, R205, R233, R244): a unit that no table lists is in its own reset state. -/

namespace Sys2Proof.Proofs

open Sys2Proof.Machine Sys2Proof.Safety

@[simp] theorem coreOf_reset (c : Nat) : coreOf State.reset c = Core.reset := rfl

@[simp] theorem tenantOf_reset (k : Nat) : tenantOf State.reset k = Tenant.reset := rfl

@[simp] theorem recvOf_reset (d : Nat) : recvOf State.reset d = RecvEng.reset := rfl

@[simp] theorem portOf_reset (f : Nat) : portOf State.reset f = Port.reset := rfl

/-- Every logical clock starts at zero (R167). -/
@[simp] theorem clockOf_reset (u : Nat) : clockOf State.reset u = 0 := rfl

/-- Every byte of memory starts at zero; for pooled memory that is the model's choice (log entry 2). -/
@[simp] theorem mget_reset (a : Nat) : mget State.reset.ms.mem a = 0 := rfl

/-- The module starts with router die A in service, and its empty memory is canonical. -/
theorem safe_reset : Safe State.reset := ⟨rfl, rfl⟩

/-- No turn runs, slot 0 is active both ways, the idle slots hold no key, the count lies below its limit, and the link has not trained:
no bit of LSEC.STAT is one (R205, R244). -/
theorem lsecStat_reset : lsecStat Port.reset = 0 := by
  have htx : txIdle Port.reset = none := rfl
  have hrx : rxIdle Port.reset = none := rfl
  have hcount : ¬ Port.reset.limit ≤ Port.reset.count := by decide
  rw [lsecStat_eq, htx, hrx, if_neg hcount]
  rfl

/-- Settles O58: unit by unit, the registers of its reset state. -/
theorem resetState : Obligations.ResetState := by
  unfold Obligations.ResetState
  refine ⟨safe_reset, rfl, rfl, fun c => ?core, rfl, fun a _ => mget_reset a, rfl, rfl, clockOf_reset, fun t k => ?tenant, rfl,
    fun d => ?recv, rfl, fun f => ?port, rfl, rfl, rfl⟩
  case core =>
    rw [coreOf_reset]
    exact ⟨rfl, rfl, rfl, rfl, rfl, rfl, rfl⟩
  case tenant =>
    rw [tenantOf_reset]
    exact ⟨rfl, rfl⟩
  case recv =>
    rw [recvOf_reset]
    exact ⟨rfl, rfl⟩
  case port =>
    rw [portOf_reset]
    exact ⟨rfl, rfl, rfl, rfl, rfl, rfl, lsecStat_reset⟩

end Sys2Proof.Proofs

/-! The two headline statements: decoding is the inverse of encoding (R251-R265, R270), and every step keeps memory canonical. -/

namespace Sys2Proof.Proofs

open Sys2Proof Sys2Proof.Machine Sys2Proof.Safety Sys2Proof.Laws

/-- Each instruction that has a word is decoded from it, and each event has none: the laws of the constructors put together. -/
theorem decode_encode_statement (i : Instr) : RoundTrip.Statement i :=
  match i with
  | .add y gd ga la gb lb sat uns => RoundTrip.add y gd ga la gb lb sat uns
  | .sub y gd ga la gb lb sat uns => RoundTrip.sub y gd ga la gb lb sat uns
  | .and y gd ga la gb lb => RoundTrip.and y gd ga la gb lb
  | .or y gd ga la gb lb => RoundTrip.or y gd ga la gb lb
  | .xor y gd ga la gb lb => RoundTrip.xor y gd ga la gb lb
  | .andn y gd ga la gb lb => RoundTrip.andn y gd ga la gb lb
  | .shl y gd ga la gb lb => RoundTrip.shl y gd ga la gb lb
  | .shr y gd ga la gb lb => RoundTrip.shr y gd ga la gb lb
  | .sar y gd ga la gb lb => RoundTrip.sar y gd ga la gb lb
  | .ror y gd ga la gb lb => RoundTrip.ror y gd ga la gb lb
  | .min y gd ga la gb lb uns => RoundTrip.min y gd ga la gb lb uns
  | .max y gd ga la gb lb uns => RoundTrip.max y gd ga la gb lb uns
  | .cmpeq y gd ga la gb lb => RoundTrip.cmpeq y gd ga la gb lb
  | .cmpne y gd ga la gb lb => RoundTrip.cmpne y gd ga la gb lb
  | .cmplt y gd ga la gb lb uns => RoundTrip.cmplt y gd ga la gb lb uns
  | .cmple y gd ga la gb lb uns => RoundTrip.cmple y gd ga la gb lb uns
  | .clz y gd ga la => RoundTrip.clz y gd ga la
  | .popc y gd ga la => RoundTrip.popc y gd ga la
  | .sextb y gd ga la => RoundTrip.sextb y gd ga la
  | .sexth y gd ga la => RoundTrip.sexth y gd ga la
  | .sextw y gd ga la => RoundTrip.sextw y gd ga la
  | .zextb y gd ga la => RoundTrip.zextb y gd ga la
  | .zexth y gd ga la => RoundTrip.zexth y gd ga la
  | .zextw y gd ga la => RoundTrip.zextw y gd ga la
  | .sel y gd ga la gb lb => RoundTrip.sel y gd ga la gb lb
  | .mul y gd ga la gb lb => RoundTrip.mul y gd ga la gb lb
  | .mulh y gd ga la gb lb uns => RoundTrip.mulh y gd ga la gb lb uns
  | .div y gd ga la gb lb uns => RoundTrip.div y gd ga la gb lb uns
  | .rem y gd ga la gb lb uns => RoundTrip.rem y gd ga la gb lb uns
  | .hmix y gd ga la gb lb => RoundTrip.hmix y gd ga la gb lb
  | .addi y gd ga la imm => RoundTrip.addi y gd ga la imm
  | .andi y gd ga la imm => RoundTrip.andi y gd ga la imm
  | .ori y gd ga la imm => RoundTrip.ori y gd ga la imm
  | .xori y gd ga la imm => RoundTrip.xori y gd ga la imm
  | .shli y gd ga la n => RoundTrip.shli y gd ga la n
  | .shri y gd ga la n => RoundTrip.shri y gd ga la n
  | .sari y gd ga la n => RoundTrip.sari y gd ga la n
  | .rori y gd ga la n => RoundTrip.rori y gd ga la n
  | .cmpeqi y gd ga la imm => RoundTrip.cmpeqi y gd ga la imm
  | .cmplti y gd ga la imm => RoundTrip.cmplti y gd ga la imm
  | .cmpltiUns y gd ga la imm => RoundTrip.cmpltiUns y gd ga la imm
  | .extr y gd ga la pos len => RoundTrip.extr y gd ga la pos len
  | .insr y gd ga la pos len => RoundTrip.insr y gd ga la pos len
  | .lui y gd imm => RoundTrip.lui y gd imm
  | .fadd y gd ga la gb lb p => RoundTrip.fadd y gd ga la gb lb p
  | .fsub y gd ga la gb lb p => RoundTrip.fsub y gd ga la gb lb p
  | .fmul y gd ga la gb lb p => RoundTrip.fmul y gd ga la gb lb p
  | .fdiv y gd ga la gb lb p => RoundTrip.fdiv y gd ga la gb lb p
  | .fsqrt y gd ga la p => RoundTrip.fsqrt y gd ga la p
  | .fma y gd ga la gb lb p => RoundTrip.fma y gd ga la gb lb p
  | .fmin y gd ga la gb lb p => RoundTrip.fmin y gd ga la gb lb p
  | .fmax y gd ga la gb lb p => RoundTrip.fmax y gd ga la gb lb p
  | .fcmpEq y gd ga la gb lb p => RoundTrip.fcmpEq y gd ga la gb lb p
  | .fcmpLt y gd ga la gb lb p => RoundTrip.fcmpLt y gd ga la gb lb p
  | .fcmpLe y gd ga la gb lb p => RoundTrip.fcmpLe y gd ga la gb lb p
  | .fcvt y gd ga la p => RoundTrip.fcvt y gd ga la p
  | .fcvti y gd ga la p => RoundTrip.fcvti y gd ga la p
  | .fcvtf y gd ga la p => RoundTrip.fcvtf y gd ga la p
  | .beq y ga la gb lb off => RoundTrip.beq y ga la gb lb off
  | .bne y ga la gb lb off => RoundTrip.bne y ga la gb lb off
  | .blt y ga la gb lb off => RoundTrip.blt y ga la gb lb off
  | .bge y ga la gb lb off => RoundTrip.bge y ga la gb lb off
  | .loopReg y ga la dist => RoundTrip.loopReg y ga la dist
  | .loopImm y count dist => RoundTrip.loopImm y count dist
  | .jal y gd imm => RoundTrip.jal y gd imm
  | .jr y gd ga la => RoundTrip.jr y gd ga la
  | .endloop y => RoundTrip.endloop y
  | .callat y ga la gb lb => RoundTrip.callat y ga la gb lb
  | .exit y => RoundTrip.exit y
  | .trig y => RoundTrip.trig y
  | .yield y => RoundTrip.yield y
  | .align y n => RoundTrip.align y n
  | .migr y gd ga la => RoundTrip.migr y gd ga la
  | .ldb y gd ga la pol ord scope off => RoundTrip.ldb y gd ga la pol ord scope off
  | .ldh y gd ga la pol ord scope off => RoundTrip.ldh y gd ga la pol ord scope off
  | .ldw y gd ga la pol ord scope off => RoundTrip.ldw y gd ga la pol ord scope off
  | .ldd y gd ga la pol ord scope off => RoundTrip.ldd y gd ga la pol ord scope off
  | .stb y gd ga la pol ord scope off => RoundTrip.stb y gd ga la pol ord scope off
  | .sth y gd ga la pol ord scope off => RoundTrip.sth y gd ga la pol ord scope off
  | .stw y gd ga la pol ord scope off => RoundTrip.stw y gd ga la pol ord scope off
  | .std y gd ga la pol ord scope off => RoundTrip.std y gd ga la pol ord scope off
  | .ldf y gd ga la off => RoundTrip.ldf y gd ga la off
  | .ldfe y gd ga la off => RoundTrip.ldfe y gd ga la off
  | .ste y gd ga la off => RoundTrip.ste y gd ga la off
  | .stf y gd ga la off => RoundTrip.stf y gd ga la off
  | .feq y gd ga la off => RoundTrip.feq y gd ga la off
  | .feset y ga la full off => RoundTrip.feset y ga la full off
  | .pref y ga la pol off => RoundTrip.pref y ga la pol off
  | .aadd y gd ga la gb lb place ord scope sz => RoundTrip.aadd y gd ga la gb lb place ord scope sz
  | .amin y gd ga la gb lb place ord scope uns sz => RoundTrip.amin y gd ga la gb lb place ord scope uns sz
  | .amax y gd ga la gb lb place ord scope uns sz => RoundTrip.amax y gd ga la gb lb place ord scope uns sz
  | .aand y gd ga la gb lb place ord scope sz => RoundTrip.aand y gd ga la gb lb place ord scope sz
  | .aor y gd ga la gb lb place ord scope sz => RoundTrip.aor y gd ga la gb lb place ord scope sz
  | .axch y gd ga la gb lb place ord scope sz => RoundTrip.axch y gd ga la gb lb place ord scope sz
  | .acas y gd ga la gb lb place ord scope sz => RoundTrip.acas y gd ga la gb lb place ord scope sz
  | .adecp y gd ga la place ord scope sz => RoundTrip.adecp y gd ga la place ord scope sz
  | .aincb y gd ga la gb lb place ord scope sz => RoundTrip.aincb y gd ga la gb lb place ord scope sz
  | .fence y scope => RoundTrip.fence y scope
  | .waita y gd ga la gb lb word4 => RoundTrip.waita y gd ga la gb lb word4
  | .notify y gd ga la all => RoundTrip.notify y gd ga la all
  | .barr y gd ga la comb => RoundTrip.barr y gd ga la comb
  | .barj y gd ga la comb => RoundTrip.barj y gd ga la comb
  | .scopeset y ga la n => RoundTrip.scopeset y ga la n
  | .launch y gd ga la => RoundTrip.launch y gd ga la
  | .nop y => RoundTrip.nop y
  | .trap y n => RoundTrip.trap y n
  | .eret y => RoundTrip.eret y
  | .hcall y n => RoundTrip.hcall y n
  | .tlbinv y ga la mode scope => RoundTrip.tlbinv y ga la mode scope
  | .cacheop y ga la op => RoundTrip.cacheop y ga la op
  | .imgsave y ga la => RoundTrip.imgsave y ga la
  | .imgload y ga la => RoundTrip.imgload y ga la
  | .mfs y gd r => RoundTrip.mfs y gd r
  | .mts y ga la r => RoundTrip.mts y ga la r
  | .erd y gd eng r => RoundTrip.erd y gd eng r
  | .ewr y ga la eng r => RoundTrip.ewr y ga la eng r
  | .fmt y fa fb fd smode stile fz sat => RoundTrip.fmt y fa fb fd smode stile fz sat
  | .vadd y td ta tb => RoundTrip.vadd y td ta tb
  | .vsub y td ta tb => RoundTrip.vsub y td ta tb
  | .vmul y td ta tb => RoundTrip.vmul y td ta tb
  | .vdiv y td ta tb => RoundTrip.vdiv y td ta tb
  | .vfma y td ta tb => RoundTrip.vfma y td ta tb
  | .vmin y td ta tb => RoundTrip.vmin y td ta tb
  | .vmax y td ta tb => RoundTrip.vmax y td ta tb
  | .vabs y td ta => RoundTrip.vabs y td ta
  | .vexp y td ta => RoundTrip.vexp y td ta
  | .vlog y td ta => RoundTrip.vlog y td ta
  | .vsqrt y td ta => RoundTrip.vsqrt y td ta
  | .vrsqrt y td ta => RoundTrip.vrsqrt y td ta
  | .vrcp y td ta => RoundTrip.vrcp y td ta
  | .vtanh y td ta => RoundTrip.vtanh y td ta
  | .vsigm y td ta => RoundTrip.vsigm y td ta
  | .vredAdd y td ta => RoundTrip.vredAdd y td ta
  | .vredMin y td ta => RoundTrip.vredMin y td ta
  | .vredMax y td ta => RoundTrip.vredMax y td ta
  | .vscanAdd y td ta => RoundTrip.vscanAdd y td ta
  | .vscanMax y td ta => RoundTrip.vscanMax y td ta
  | .vcmpEq y td ta tb => RoundTrip.vcmpEq y td ta tb
  | .vcmpLt y td ta tb => RoundTrip.vcmpLt y td ta tb
  | .vcmpLe y td ta tb => RoundTrip.vcmpLe y td ta tb
  | .vsel y td ta tb => RoundTrip.vsel y td ta tb
  | .vbcast y td ta => RoundTrip.vbcast y td ta
  | .vgather y td ta tb => RoundTrip.vgather y td ta tb
  | .vscat y td ta tb => RoundTrip.vscat y td ta tb
  | .vtrans y td ta => RoundTrip.vtrans y td ta
  | .vcvt y td ta => RoundTrip.vcvt y td ta
  | .vqscale y td ta => RoundTrip.vqscale y td ta
  | .vcbk y td ta => RoundTrip.vcbk y td ta
  | .barq y td ta tb => RoundTrip.barq y td ta tb
  | .barqRes y td ta tb => RoundTrip.barqRes y td ta tb
  | .twait y ta => RoundTrip.twait y ta
  | .tdef y ga la t => RoundTrip.tdef y ga la t
  | .tstate y gd set st t => RoundTrip.tstate y gd set st t
  | .cbld y ga la => RoundTrip.cbld y ga la
  | .gmsg y gd ga la => RoundTrip.gmsg y gd ga la
  | .gbel y gd ga la => RoundTrip.gbel y gd ga la
  | .gmarg y gd ga la => RoundTrip.gmarg y gd ga la
  | .mma y ta tb => RoundTrip.mma y ta tb
  | .mmas y td ta tb => RoundTrip.mmas y td ta tb
  | .mzero y => RoundTrip.mzero y
  | .macc y ta => RoundTrip.macc y ta
  | .mst y td => RoundTrip.mst y td
  | .mlease y bound => RoundTrip.mlease y bound
  | .mrel y => RoundTrip.mrel y
  | .mstep y gd => RoundTrip.mstep y gd
  | .cpyq y ga la gb lb nb => RoundTrip.cpyq y ga la gb lb nb
  | .kick y ga la gb lb => RoundTrip.kick y ga la gb lb
  | .cpywait y => RoundTrip.cpywait y
  | .cpystat y gd => RoundTrip.cpystat y gd
  | .ldnn y ga la gb lb => RoundTrip.ldnn y ga la gb lb
  | .stvec y ga la gb lb => RoundTrip.stvec y ga la gb lb
  | .dlvec y ga la gb lb => RoundTrip.dlvec y ga la gb lb
  | .ixopen y gd ga la => RoundTrip.ixopen y gd ga la
  | .ixstat y gd ga la => RoundTrip.ixstat y gd ga la
  | .send y ga la scope rel => RoundTrip.send y ga la scope rel
  | .rpost y ga la => RoundTrip.rpost y ga la
  | .rcancel y ga la => RoundTrip.rcancel y ga la
  | .rprobe y gd ga la => RoundTrip.rprobe y gd ga la
  | .rstat y gd ga la => RoundTrip.rstat y gd ga la
  | .amsg y ga la gb lb scope rel => RoundTrip.amsg y ga la gb lb scope rel
  | .htset y ga la gb lb => RoundTrip.htset y ga la gb lb
  | .htclr y ga la => RoundTrip.htclr y ga la
  | .smfr y ga la => RoundTrip.smfr y ga la
  | .smal y gd ga la mir => RoundTrip.smal y gd ga la mir
  | .smquota y gd => RoundTrip.smquota y gd
  | .kload y ga la rx => RoundTrip.kload y ga la rx
  | .kturn y => RoundTrip.kturn y
  | .hist y ga la gb lb => RoundTrip.hist y ga la gb lb
  | .walk y ga la => RoundTrip.walk y ga la
  | .gwtake y gd ga la => RoundTrip.gwtake y gd ga la
  | .alignTimeout f => RoundTrip.alignTimeout f
  | .migrationArrival f => RoundTrip.migrationArrival f
  | .feWaitServed r => RoundTrip.feWaitServed r
  | .spuriousWake f => RoundTrip.spuriousWake f
  | .barrierEpisodeComplete b => RoundTrip.barrierEpisodeComplete b
  | .dieBarrierReport b die => RoundTrip.dieBarrierReport b die
  | .gwqArm q ten limit => RoundTrip.gwqArm q ten limit
  | .gwqDisarm q => RoundTrip.gwqDisarm q
  | .vectorInstructionComplete f => RoundTrip.vectorInstructionComplete f
  | .codebookReplace f => RoundTrip.codebookReplace f
  | .gmsgSlotWrite f => RoundTrip.gmsgSlotWrite f
  | .matrixLeaseGrant cl => RoundTrip.matrixLeaseGrant cl
  | .matrixStep cl => RoundTrip.matrixStep cl
  | .matrixCommandComplete cl => RoundTrip.matrixCommandComplete cl
  | .copyCommandStart core => RoundTrip.copyCommandStart core
  | .copyCommandComplete core => RoundTrip.copyCommandComplete core
  | .kickNoticeArrival k => RoundTrip.kickNoticeArrival k
  | .kickTransferStart core => RoundTrip.kickTransferStart core
  | .kickTransferComplete core => RoundTrip.kickTransferComplete core
  | .indexStvecPerform c => RoundTrip.indexStvecPerform c
  | .indexDlvecPerform c => RoundTrip.indexDlvecPerform c
  | .versionAreaFreed c => RoundTrip.versionAreaFreed c
  | .indexLdnnAccept c => RoundTrip.indexLdnnAccept c
  | .indexSearchComplete c => RoundTrip.indexSearchComplete c
  | .receivePostEvent f => RoundTrip.receivePostEvent f
  | .receiveCancelEvent f => RoundTrip.receiveCancelEvent f
  | .eagerSendArrival k => RoundTrip.eagerSendArrival k
  | .rendezvousRequestArrival k => RoundTrip.rendezvousRequestArrival k
  | .rendezvousPullComplete c => RoundTrip.rendezvousPullComplete c
  | .sendCompletionArrival k => RoundTrip.sendCompletionArrival k
  | .activeMessageArrival k => RoundTrip.activeMessageArrival k
  | .handlerStart core => RoundTrip.handlerStart core
  | .handlerRewriteEnd k => RoundTrip.handlerRewriteEnd k
  | .handlerRewriteTimeout k => RoundTrip.handlerRewriteTimeout k
  | .amsgResponseArrival k => RoundTrip.amsgResponseArrival k
  | .builtinLoad k => RoundTrip.builtinLoad k
  | .builtinStore k => RoundTrip.builtinStore k
  | .builtinLdf k => RoundTrip.builtinLdf k
  | .builtinLdfe k => RoundTrip.builtinLdfe k
  | .builtinSte k => RoundTrip.builtinSte k
  | .builtinStf k => RoundTrip.builtinStf k
  | .leaseRefresh k => RoundTrip.leaseRefresh k
  | .remoteAtomic k => RoundTrip.remoteAtomic k
  | .taskNodeRun cl node => RoundTrip.taskNodeRun cl node
  | .conditionalNodeRun cl node => RoundTrip.conditionalNodeRun cl node
  | .whileNodeRun cl node => RoundTrip.whileNodeRun cl node
  | .joinNodeRun cl node => RoundTrip.joinNodeRun cl node
  | .latchNodeRun cl node => RoundTrip.latchNodeRun cl node
  | .walkerNodeComplete cl node => RoundTrip.walkerNodeComplete cl node
  | .callatAnswer f => RoundTrip.callatAnswer f
  | .taskStart core => RoundTrip.taskStart core
  | .loadDataReturn f p => RoundTrip.loadDataReturn f p
  | .storeAck r wt cause => RoundTrip.storeAck r wt cause
  | .pageWalkComplete w => RoundTrip.pageWalkComplete w
  | .homeRequest r hint => RoundTrip.homeRequest r hint
  | .refusalRetry r => RoundTrip.refusalRetry r
  | .ownershipGrant rs => RoundTrip.ownershipGrant rs
  | .clockTick => RoundTrip.clockTick
  | .hostLaunchWrite ten off bytes => RoundTrip.hostLaunchWrite ten off bytes
  | .hostMsixEntryWrite ten vec off bytes => RoundTrip.hostMsixEntryWrite ten vec off bytes
  | .hostSwitchWindowAccess write off n bytes => RoundTrip.hostSwitchWindowAccess write off n bytes
  | .distributorTurn => RoundTrip.distributorTurn
  | .claimComplete g => RoundTrip.claimComplete g
  | .imageClose g => RoundTrip.imageClose g
  | .launchCompletion l => RoundTrip.launchCompletion l
  | .packetForward => RoundTrip.packetForward
  | .detourTimeout port => RoundTrip.detourTimeout port
  | .packetIngress => RoundTrip.packetIngress
  | .flitTransmit port => RoundTrip.flitTransmit port
  | .flitReceiveIdle port f => RoundTrip.flitReceiveIdle port f
  | .flitReceiveHead port f => RoundTrip.flitReceiveHead port f
  | .flitReceiveBody port f => RoundTrip.flitReceiveBody port f
  | .flitReceiveStomp port f => RoundTrip.flitReceiveStomp port f
  | .flitReceiveKeyturn port f => RoundTrip.flitReceiveKeyturn port f
  | .flitReceiveNak port f => RoundTrip.flitReceiveNak port f
  | .replayTimeout port => RoundTrip.replayTimeout port
  | .linkTrained port width mod pod inc => RoundTrip.linkTrained port width mod pod inc
  | .ethernetFrameReceive etype p => RoundTrip.ethernetFrameReceive etype p
  | .heartbeat => RoundTrip.heartbeat
  | .moduleSilenceTimeout m => RoundTrip.moduleSilenceTimeout m
  | .deathNoticeReceive m inc => RoundTrip.deathNoticeReceive m inc
  | .evictedReturnReceive => RoundTrip.evictedReturnReceive
  | .e2eRetryTimeout src dst => RoundTrip.e2eRetryTimeout src dst
  | .faultCountEvent u bad => RoundTrip.faultCountEvent u bad
  | .routerDieBLoss => RoundTrip.routerDieBLoss
  | .routerDieALoss => RoundTrip.routerDieALoss
  | .moduleReset => RoundTrip.moduleReset
  | .throttle => RoundTrip.throttle
  | .thermalShutdown => RoundTrip.thermalShutdown
  | .mctlGo => RoundTrip.mctlGo
  | .gwctlPortDisable port => RoundTrip.gwctlPortDisable port
  | .gwctlPortEnable port => RoundTrip.gwctlPortEnable port
  | .gatewayRoleTake port => RoundTrip.gatewayRoleTake port
  | .tenantEnClear ten => RoundTrip.tenantEnClear ten
  | .gatewayStartWrite port v => RoundTrip.gatewayStartWrite port v
  | .gatewayFibreStart port => RoundTrip.gatewayFibreStart port
  | .deviceRegisterWrite host off n v => RoundTrip.deviceRegisterWrite host off n v
  | .lossOfLinkTraining port => RoundTrip.lossOfLinkTraining port
  | .backWithinLimits => RoundTrip.backWithinLimits
  | .tlbInvalidationDone f => RoundTrip.tlbInvalidationDone f
  | .scopemaskPropagated f => RoundTrip.scopemaskPropagated f
  | .switchFreeDone f => RoundTrip.switchFreeDone f

/-- Settles O1, constructor by constructor. -/
theorem roundTrip : Obligations.RoundTrip := by
  unfold Obligations.RoundTrip
  exact decode_encode_statement

/-! Every step keeps memory canonical. -/

theorem outWf_settled {o : Out} (h : outWf o) : outWf (settled o) := by
  cases o with
  | next s => exact wf_settle s h
  | fault r => trivial
  | refused r => trivial

/-- The turn that the model chooses keeps memory canonical. -/
theorem outWf_runChoice {s : State} (hw : memoryWf s.ms.mem = true) : outWf (runChoice s (choose s)) := by
  cases hc : choose s with
  | issue n => exact wf_runNext s n false hw
  | goto t => exact wf_choose hw hc
  | tick => exact (congrArg (fun m => memoryWf m = true) (mem_clockTick s)).mpr hw

theorem outWf_takeOne {s : State} (hw : memoryWf s.ms.mem = true) : outWf (takeOne s) := by
  have hb : memoryWf (beginTurn s).ms.mem = true := by rw [mem_beginTurn, hw]
  unfold takeOne
  refine outWf_settled ?_
  split
  case h_1 t _ _ => exact wf_runTurn _ t hb
  case h_2 => exact outWf_runChoice hb

theorem outWf_failedTurn {s : State} (hw : memoryWf s.ms.mem = true) : outWf (failedTurn s) := by
  have hb : memoryWf (beginTurn s).ms.mem = true := by rw [mem_beginTurn, hw]
  unfold failedTurn
  split
  case h_1 => exact wf_exec .moduleReset _ hb
  case h_2 => trivial

theorem outWf_step {s : State} (hw : memoryWf s.ms.mem = true) : outWf (step s) := by
  unfold step
  split
  · exact outWf_failedTurn hw
  · exact outWf_takeOne hw

/-- Settles O59: a failed module resets or stops, and any other turn, of a fibre or of a unit, keeps the canonical form. -/
theorem stepKeepsMemoryCanonical : Obligations.StepKeepsMemoryCanonical := by
  unfold Obligations.StepKeepsMemoryCanonical
  intro s t hstep hs
  have h : outWf (step s) := outWf_step hs
  rw [hstep] at h
  exact h

end Sys2Proof.Proofs

/-! The integer instructions (R276-R280): what each writes, and that it completes. -/

namespace Sys2Proof.Proofs

open Sys2Proof Sys2Proof.Machine Sys2Proof.Safety Sys2Proof.Laws

/-! Instructions that write one result of the registers they read. -/

section
variable {mk : Bool → Reg → Reg → Bool → Reg → Bool → Instr} {mk1 : Bool → Reg → Reg → Bool → Instr}

theorem shortTwo_of (f : Word → Word → Word) {g : Word → Word → Word}
    (hx : ∀ y gd ga la gb lb s, exec (mk y gd ga la gb lb) s = shortRR (mk y gd ga la gb lb) y gd ga la gb lb f s)
    (hg : ∀ a b, f a b = g a b) : ShortTwo mk g := by
  intro s y gd ga la gb lb h
  rw [hx, shortRR]
  exact issue_done h (congrArg (fun w => Eff.done (setShort _ gd w)) (hg _ _))

theorem shortOne_of (f : Word → Word) {g : Word → Word}
    (hx : ∀ y gd ga la s, exec (mk1 y gd ga la) s = shortR (mk1 y gd ga la) y gd ga la f s)
    (hg : ∀ a, f a = g a) : ShortOne mk1 g := by
  intro s y gd ga la h
  rw [hx, shortR]
  exact issue_done h (congrArg (fun w => Eff.done (setShort _ gd w)) (hg _))

theorem longTwo_of (f : Word → Word → Word) {g : Word → Word → Word × BitVec 5}
    (hx : ∀ y gd ga la gb lb s, exec (mk y gd ga la gb lb) s = longRR (mk y gd ga la gb lb) y gd ga la gb lb f s)
    (hg : ∀ a b, (f a b, 0) = g a b) : LongTwo mk g := by
  intro s y gd ga la gb lb h
  rw [hx, longRR]
  exact issue_done h (congrArg (fun r => Eff.done (setLong _ gd r.1 r.2)) (hg _ _))

end

/-! Saturation (R277). -/

theorem satWord_unsigned (i : Int) : satWord true i = BitVec.ofInt 64 (max 0 (min (2 ^ 64 - 1) i)) := rfl

theorem satWord_natCast (n : Nat) : satWord true (n : Int) = BitVec.ofNat 64 (min n (2 ^ 64 - 1)) := by
  have h : max 0 (min (2 ^ 64 - 1) (n : Int)) = ((min n (2 ^ 64 - 1) : Nat) : Int) := by omega
  rw [satWord_unsigned, h, BitVec.ofInt_natCast]

/-- An unsigned difference below 0 becomes 0, and no difference of words lies above the range. -/
theorem satWord_sub (a b : Word) : satWord true ((a.toNat : Int) - b.toNat) = BitVec.ofNat 64 (a.toNat - b.toNat) := by
  have ha := a.isLt
  have h : max 0 (min (2 ^ 64 - 1) ((a.toNat : Int) - b.toNat)) = ((a.toNat - b.toNat : Nat) : Int) := by omega
  rw [satWord_unsigned, h, BitVec.ofInt_natCast]

theorem satWord_signed (i : Int) : satWord false i = BitVec.ofInt 64 (max (-(2 ^ 63)) (min i (2 ^ 63 - 1))) := by
  have hs : satWord false i = BitVec.ofInt 64 (max (-(2 ^ 63)) (min (2 ^ 63 - 1) i)) := rfl
  rw [hs, Int.min_comm]

theorem addWord_eq (sat uns : Bool) (a b : Word) : addWord sat uns a b
    = if sat then (if uns then BitVec.ofNat 64 (min (a.toNat + b.toNat) (2 ^ 64 - 1))
        else BitVec.ofInt 64 (max (-(2 ^ 63)) (min (a.toInt + b.toInt) (2 ^ 63 - 1)))) else a + b := by
  rw [addWord, satWord_signed, ← satWord_natCast, Int.natCast_add]

theorem subWord_eq (sat uns : Bool) (a b : Word) : subWord sat uns a b
    = if sat then (if uns then BitVec.ofNat 64 (a.toNat - b.toNat)
        else BitVec.ofInt 64 (max (-(2 ^ 63)) (min (a.toInt - b.toInt) (2 ^ 63 - 1)))) else a - b := by
  rw [subWord, satWord_signed, satWord_sub]

/-! Comparisons (R276). -/

theorem ltWord_iff (uns : Bool) (a b : Word) : ltWord uns a b = true ↔ if uns then a.toNat < b.toNat else a.toInt < b.toInt := by
  cases uns
  · exact BitVec.slt_iff_toInt_lt
  · exact BitVec.ult_iff_lt

/-- A choice by a comparison of words is a choice by the numbers that they stand for. -/
theorem ite_ltWord (uns : Bool) (a b : Word) {α : Type} (x y : α) : (if ltWord uns a b then x else y)
    = if uns then (if a.toNat < b.toNat then x else y) else if a.toInt < b.toInt then x else y := by
  have h := ltWord_iff uns a b
  cases uns <;> simp only [Bool.false_eq_true, if_false, if_true] at h ⊢ <;> exact ite_congr (propext h) (fun _ => rfl) fun _ => rfl

theorem boolWord_beq (a b : Word) : boolWord (a == b) = if a = b then 1 else 0 :=
  ite_congr (propext beq_iff_eq) (fun _ => rfl) fun _ => rfl

theorem boolWord_bne (a b : Word) : boolWord (a != b) = if a = b then 0 else 1 :=
  (ite_congr (propext bne_iff_ne) (fun _ => rfl) fun _ => rfl).trans (ite_not _ _ _)

theorem boolWord_not_ltWord (uns : Bool) (a b : Word) : boolWord (!ltWord uns b a)
    = if uns then (if a.toNat ≤ b.toNat then 1 else 0) else if a.toInt ≤ b.toInt then 1 else 0 := by
  have h : (!ltWord uns b a) = true ↔ if uns then a.toNat ≤ b.toNat else a.toInt ≤ b.toInt := by
    rw [Bool.not_eq_true', Bool.eq_false_iff, ne_eq, ltWord_iff]
    cases uns
    · exact Int.not_lt
    · exact Nat.not_lt
  cases uns <;> simp only [Bool.false_eq_true, if_false, if_true] at h ⊢ <;> exact ite_congr (propext h) (fun _ => rfl) fun _ => rfl

/-! Bits (R276, R280). -/

theorem clzWord_eq (a : Word) : clzWord a = BitVec.ofNat 64 (if a = 0 then 64 else 63 - a.toNat.log2) := by
  unfold clzWord bitLen
  by_cases h : a = 0
  · rw [if_pos h, h]
    rfl
  · have hn : a.toNat ≠ 0 := fun e => h (BitVec.eq_of_toNat_eq e)
    rw [if_neg h, if_neg hn]
    congr 1
    omega

/-- The low bits of a word, kept by a mask. -/
theorem zext_setWidth (n : Nat) (hn : n ≤ 64) (a : Word) : zext (a.setWidth n) = a &&& BitVec.ofNat 64 (2 ^ n - 1) := by
  have hp : 2 ^ n ≤ 2 ^ 64 := Nat.pow_le_pow_right (by decide) hn
  have hm : 2 ^ n - 1 < 2 ^ 64 := by omega
  have hlt : a.toNat % 2 ^ n < 2 ^ 64 := Nat.lt_of_lt_of_le (Nat.mod_lt _ (Nat.two_pow_pos n)) hp
  apply BitVec.eq_of_toNat_eq
  rw [zext, BitVec.toNat_setWidth, BitVec.toNat_setWidth, Nat.mod_eq_of_lt hlt, BitVec.toNat_and, BitVec.toNat_ofNat,
    Nat.mod_eq_of_lt hm, Nat.and_two_pow_sub_one_eq_mod]

theorem extrWord_eq (a : Word) (pos len : BitVec 6) :
    extrWord a pos len = BitVec.ofNat 64 (a.toNat / 2 ^ pos.toNat % 2 ^ (len.toNat + 1)) := by
  have hl := len.isLt
  have hp : 2 ^ (len.toNat + 1) ≤ 2 ^ 64 := Nat.pow_le_pow_right (by decide) (by omega)
  have hm : 2 ^ (len.toNat + 1) - 1 < 2 ^ 64 := by omega
  have hlt : a.toNat / 2 ^ pos.toNat % 2 ^ (len.toNat + 1) < 2 ^ 64 :=
    Nat.lt_of_lt_of_le (Nat.mod_lt _ (Nat.two_pow_pos _)) hp
  apply BitVec.eq_of_toNat_eq
  rw [extrWord, BitVec.toNat_and, BitVec.toNat_ushiftRight, BitVec.toNat_ofNat, Nat.mod_eq_of_lt hm,
    Nat.and_two_pow_sub_one_eq_mod, Nat.shiftRight_eq_div_pow, BitVec.toNat_ofNat, Nat.mod_eq_of_lt hlt]

/-- A mask of the low bits, bit by bit. -/
theorem getLsbD_lowMask (n j : Nat) : (BitVec.ofNat 64 (2 ^ n - 1)).getLsbD j = (decide (j < 64) && decide (j < n)) := by
  rw [BitVec.getLsbD_ofNat, Nat.testBit_two_pow_sub_one]

/-- The inserted field is the new value's; every other bit is the old one's. -/
theorem getLsbD_insrWord (old a : Word) (pos len : BitVec 6) {i : Nat} (hi : i < 64) : (insrWord old a pos len).getLsbD i
    = if pos.toNat ≤ i ∧ i ≤ pos.toNat + len.toNat then a.getLsbD (i - pos.toNat) else old.getLsbD i := by
  have hd : i - pos.toNat < 64 := by omega
  simp only [insrWord, BitVec.getLsbD_or, BitVec.getLsbD_and, BitVec.getLsbD_not, BitVec.getLsbD_shiftLeft, getLsbD_lowMask,
    decide_eq_true hi, decide_eq_true hd, Bool.true_and]
  by_cases hlo : pos.toNat ≤ i
  · by_cases hhi : i ≤ pos.toNat + len.toNat
    · have hm : i - pos.toNat < len.toNat + 1 := by omega
      simp [hlo, hhi, hm, Nat.not_lt.mpr hlo]
    · have hm : ¬ i - pos.toNat < len.toNat + 1 := by omega
      simp [hhi, hm]
  · simp [hlo, Nat.not_le.mp hlo]

/-- Settles O3, from the value that each instruction's operation gives. -/
theorem integerShortResults : Obligations.IntegerShortResults := by
  unfold Obligations.IntegerShortResults
  refine ⟨⟨fun sat uns => ?add, fun sat uns => ?sub, ?and, ?or, ?xor, ?andn, ?shl, ?shr, ?sar, ?ror, fun uns => ?min, fun uns => ?max,
    ?cmpeq, ?cmpne, fun uns => ?cmplt, fun uns => ?cmple⟩,
    ?clz, ?popc, ?sextb, ?sexth, ?sextw, ?zextb, ?zexth, ?zextw, ?sel⟩
  case add => exact shortTwo_of (addWord sat uns) (fun _ _ _ _ _ _ _ => rfl) (addWord_eq sat uns)
  case sub => exact shortTwo_of (subWord sat uns) (fun _ _ _ _ _ _ _ => rfl) (subWord_eq sat uns)
  case and => exact shortTwo_of (fun a b => a &&& b) (fun _ _ _ _ _ _ _ => rfl) fun _ _ => rfl
  case or => exact shortTwo_of (fun a b => a ||| b) (fun _ _ _ _ _ _ _ => rfl) fun _ _ => rfl
  case xor => exact shortTwo_of (fun a b => a ^^^ b) (fun _ _ _ _ _ _ _ => rfl) fun _ _ => rfl
  case andn => exact shortTwo_of (fun a b => a &&& ~~~b) (fun _ _ _ _ _ _ _ => rfl) fun _ _ => rfl
  case shl => exact shortTwo_of (fun a b => a <<< amount b) (fun _ _ _ _ _ _ _ => rfl) fun _ _ => rfl
  case shr => exact shortTwo_of (fun a b => a >>> amount b) (fun _ _ _ _ _ _ _ => rfl) fun _ _ => rfl
  case sar => exact shortTwo_of (fun a b => a.sshiftRight (amount b)) (fun _ _ _ _ _ _ _ => rfl) fun _ _ => rfl
  case ror => exact shortTwo_of (fun a b => a.rotateRight (amount b)) (fun _ _ _ _ _ _ _ => rfl) fun _ _ => rfl
  case min => exact shortTwo_of (fun a b => if ltWord uns b a then b else a) (fun _ _ _ _ _ _ _ => rfl) fun a b => ite_ltWord uns b a b a
  case max => exact shortTwo_of (fun a b => if ltWord uns a b then b else a) (fun _ _ _ _ _ _ _ => rfl) fun a b => ite_ltWord uns a b b a
  case cmpeq => exact shortTwo_of (fun a b => boolWord (a == b)) (fun _ _ _ _ _ _ _ => rfl) boolWord_beq
  case cmpne => exact shortTwo_of (fun a b => boolWord (a != b)) (fun _ _ _ _ _ _ _ => rfl) boolWord_bne
  case cmplt => exact shortTwo_of (fun a b => boolWord (ltWord uns a b)) (fun _ _ _ _ _ _ _ => rfl) fun a b => ite_ltWord uns a b 1 0
  case cmple => exact shortTwo_of (fun a b => boolWord (!ltWord uns b a)) (fun _ _ _ _ _ _ _ => rfl) (boolWord_not_ltWord uns)
  case clz => exact shortOne_of (clzWord) (fun _ _ _ _ _ => rfl) clzWord_eq
  case popc => exact shortOne_of (popcWord) (fun _ _ _ _ _ => rfl) fun _ => rfl
  case sextb => exact shortOne_of (fun a => sext (a.setWidth 8)) (fun _ _ _ _ _ => rfl) fun _ => rfl
  case sexth => exact shortOne_of (fun a => sext (a.setWidth 16)) (fun _ _ _ _ _ => rfl) fun _ => rfl
  case sextw => exact shortOne_of (fun a => sext (a.setWidth 32)) (fun _ _ _ _ _ => rfl) fun _ => rfl
  case zextb => exact shortOne_of (fun a => zext (a.setWidth 8)) (fun _ _ _ _ _ => rfl) (zext_setWidth 8 (by decide))
  case zexth => exact shortOne_of (fun a => zext (a.setWidth 16)) (fun _ _ _ _ _ => rfl) (zext_setWidth 16 (by decide))
  case zextw => exact shortOne_of (fun a => zext (a.setWidth 32)) (fun _ _ _ _ _ => rfl) (zext_setWidth 32 (by decide))
  case sel =>
    intro s y gd ga la gb lb u h
    have hx : exec (.sel y gd ga la gb lb) s = execSel y gd ga la gb lb s := rfl
    rw [hx, execSel]
    exact issue_done h (congrArg (fun w => Eff.done (setShort _ gd w)) (ite_not _ _ _))

/-! Long results (R278, R279). -/

theorem divWord_eq (uns : Bool) (a b : Word) : divWord uns a b
    = if b = 0 then 0xFFFFFFFFFFFFFFFF else if uns then BitVec.ofNat 64 (a.toNat / b.toNat)
      else BitVec.ofInt 64 (a.toInt.tdiv b.toInt) := by
  have hu : a / b = BitVec.ofNat 64 (a.toNat / b.toNat) := by
    rw [← BitVec.toNat_udiv, BitVec.ofNat_toNat, BitVec.setWidth_eq]
  have hs : a.sdiv b = BitVec.ofInt 64 (a.toInt.tdiv b.toInt) := by
    apply BitVec.eq_of_toInt_eq
    rw [BitVec.toInt_sdiv, BitVec.toInt_ofInt]
  rw [divWord, hu, hs]
  rfl

theorem remWord_eq (uns : Bool) (a b : Word) : remWord uns a b
    = if b = 0 then a else if uns then BitVec.ofNat 64 (a.toNat % b.toNat) else BitVec.ofInt 64 (a.toInt.tmod b.toInt) := by
  have hu : a % b = BitVec.ofNat 64 (a.toNat % b.toNat) := by
    rw [← BitVec.toNat_umod, BitVec.ofNat_toNat, BitVec.setWidth_eq]
  have hs : a.srem b = BitVec.ofInt 64 (a.toInt.tmod b.toInt) := by rw [← BitVec.toInt_srem, BitVec.ofInt_toInt]
  rw [remWord, hu, hs]

/-- Settles O4, from the quotient and the remainder that the words of the operation give. -/
theorem integerLongResults : Obligations.IntegerLongResults := by
  unfold Obligations.IntegerLongResults
  refine ⟨?mul, fun uns => ?mulh, fun uns => ?div, fun uns => ?rem, ?hmix⟩
  case mul => exact longTwo_of (· * ·) (fun _ _ _ _ _ _ _ => rfl) fun _ _ => rfl
  case mulh => exact longTwo_of (mulhWord uns) (fun _ _ _ _ _ _ _ => rfl) fun _ _ => rfl
  case div => exact longTwo_of (divWord uns) (fun _ _ _ _ _ _ _ => rfl) fun a b => congrArg (·, 0) (divWord_eq uns a b)
  case rem => exact longTwo_of (remWord uns) (fun _ _ _ _ _ _ _ => rfl) fun a b => congrArg (·, 0) (remWord_eq uns a b)
  case hmix => exact longTwo_of hmixWord (fun _ _ _ _ _ _ _ => rfl) fun _ _ => rfl

/-! Immediate forms (R280). -/

theorem ltWord_sext_signed (a : Word) (imm : BitVec 15) :
    boolWord (ltWord false a (sext imm)) = if a.toInt < imm.toInt then 1 else 0 := by
  have h : (sext imm).toInt = imm.toInt := BitVec.toInt_signExtend_of_le (by decide)
  exact (ite_ltWord false a (sext imm) 1 0).trans (by rw [h]; rfl)

/-- Settles O5, the fields of EXTR and INSR bit by bit. -/
theorem integerImmediates : Obligations.IntegerImmediates := by
  unfold Obligations.IntegerImmediates
  refine ⟨fun imm => ?addi, fun imm => ?andi, fun imm => ?ori, fun imm => ?xori, fun n => ?shli, fun n => ?shri, fun n => ?sari,
    fun n => ?rori, fun imm => ?cmpeqi, fun imm => ?cmplti, fun imm => ?cmpltiUns, fun pos len => ?extr, ?insr, ?lui⟩
  case addi => exact shortOne_of (fun a => a + sext imm) (fun _ _ _ _ _ => rfl) fun _ => rfl
  case andi => exact shortOne_of (fun a => a &&& zext imm) (fun _ _ _ _ _ => rfl) fun _ => rfl
  case ori => exact shortOne_of (fun a => a ||| zext imm) (fun _ _ _ _ _ => rfl) fun _ => rfl
  case xori => exact shortOne_of (fun a => a ^^^ zext imm) (fun _ _ _ _ _ => rfl) fun _ => rfl
  case shli => exact shortOne_of (fun a => a <<< n.toNat) (fun _ _ _ _ _ => rfl) fun _ => rfl
  case shri => exact shortOne_of (fun a => a >>> n.toNat) (fun _ _ _ _ _ => rfl) fun _ => rfl
  case sari => exact shortOne_of (fun a => a.sshiftRight n.toNat) (fun _ _ _ _ _ => rfl) fun _ => rfl
  case rori => exact shortOne_of (fun a => a.rotateRight n.toNat) (fun _ _ _ _ _ => rfl) fun _ => rfl
  case cmpeqi => exact shortOne_of (fun a => boolWord (a == sext imm)) (fun _ _ _ _ _ => rfl) fun a => boolWord_beq a (sext imm)
  case cmplti => exact shortOne_of (fun a => boolWord (ltWord false a (sext imm))) (fun _ _ _ _ _ => rfl) fun a => ltWord_sext_signed a imm
  case cmpltiUns => exact shortOne_of (fun a => boolWord (ltWord true a (sext imm))) (fun _ _ _ _ _ => rfl) fun a => ite_ltWord true a (sext imm) 1 0
  case extr => exact shortOne_of (fun a => extrWord a pos len) (fun _ _ _ _ _ => rfl) fun a => extrWord_eq a pos len
  case insr =>
    intro s y gd ga la pos len u h
    have hx : exec (.insr y gd ga la pos len) s = execInsr y gd ga la pos len s := rfl
    refine ⟨insrWord (operand s u 1) (operand s u 0) pos len, ?_, fun i hi => getLsbD_insrWord _ _ pos len hi⟩
    rw [hx, execInsr]
    exact issue_done h rfl
  case lui =>
    intro s y gd imm h
    have hx : exec (.lui y gd imm) s = execLui y gd imm s := rfl
    rw [hx, execLui]
    exact issue_done h rfl

end Sys2Proof.Proofs

/-! The scalar float instructions (R281, R282): what each gives of its operands, and its corners (R95-R107). -/

namespace Sys2Proof.Proofs

open Sys2Proof Sys2Proof.Machine Sys2Proof.Safety Sys2Proof.Laws

section
variable {mk : Bool → Reg → Reg → Bool → Reg → Bool → Instr} {mk1 : Bool → Reg → Reg → Bool → Instr}

/-- A float instruction of two registers writes what it computes of their values, with its flags. -/
theorem longTwo_of_float (p : Bool) (f : Ex → Ex → Word × BitVec 5)
    (hx : ∀ y gd ga la gb lb s, exec (mk y gd ga la gb lb) s = floatRR (mk y gd ga la gb lb) y gd ga la gb lb p f s) :
    LongTwo mk fun a b => f (floatArg p a) (floatArg p b) := by
  intro s y gd ga la gb lb h
  rw [hx, floatRR]
  exact issue_done h rfl

theorem longOne_of_float (f : Word → Word × BitVec 5)
    (hx : ∀ y gd ga la s, exec (mk1 y gd ga la) s
      = issue s (plainUse (mk1 y gd ga la) y [(ga, la)] gd) fun t v => .done (setFloat t gd (f (arg v 0)))) : LongOne mk1 f := by
  intro s y gd ga la h
  rw [hx]
  exact issue_done h rfl

end

/-- Settles O6, instruction by instruction: the exact value that each rounds. -/
theorem scalarFloatResults : Obligations.ScalarFloatResults := by
  unfold Obligations.ScalarFloatResults
  refine ⟨fun p => ?fadd, fun p => ?fsub, fun p => ?fmul, fun p => ?fdiv, fun p => ?fsqrt, fun p => ?fmin, fun p => ?fmax,
    fun p => ?fcmpEq, fun p => ?fcmpLt, fun p => ?fcmpLe, ?widen, ?narrow, fun p => ?fcvti, fun p => ?fcvtf, ?fma⟩
  case fadd => exact longTwo_of_float p (fun a b => floatRes p (exAdd a b)) fun _ _ _ _ _ _ _ => rfl
  case fsub => exact longTwo_of_float p (fun a b => floatRes p (exAdd a (exNeg b))) fun _ _ _ _ _ _ _ => rfl
  case fmul => exact longTwo_of_float p (fun a b => floatRes p (exMul a b)) fun _ _ _ _ _ _ _ => rfl
  case fdiv => exact longTwo_of_float p (fun a b => floatRes p (exDiv a b)) fun _ _ _ _ _ _ _ => rfl
  case fsqrt => exact longOne_of_float (fun a => floatRes p (exSqrt (floatArg p a))) fun _ _ _ _ _ => rfl
  case fmin => exact longTwo_of_float p (fun a b => floatCode p (exMin a b)) fun _ _ _ _ _ _ _ => rfl
  case fmax => exact longTwo_of_float p (fun a b => floatCode p (exMax a b)) fun _ _ _ _ _ _ _ => rfl
  case fcmpEq => exact longTwo_of_float p (fun a b => (boolWord (exEq a b), 0)) fun _ _ _ _ _ _ _ => rfl
  case fcmpLt => exact longTwo_of_float p (fun a b => (boolWord (exLt false a b), 0)) fun _ _ _ _ _ _ _ => rfl
  case fcmpLe => exact longTwo_of_float p (fun a b => (boolWord (exLt false a b || exEq a b), 0)) fun _ _ _ _ _ _ _ => rfl
  case widen => exact longOne_of_float (fun a => floatRes false (floatArg true a, 0)) fun _ _ _ _ _ => rfl
  case narrow => exact longOne_of_float (fun a => floatRes true (floatArg false a, 0)) fun _ _ _ _ _ => rfl
  case fcvti => exact longOne_of_float (fun a => floatToInt64 (floatArg p a)) fun _ _ _ _ _ => rfl
  case fcvtf => exact longOne_of_float (fun a => floatRes p (exInt a.toInt, 0)) fun _ _ _ _ _ => rfl
  case fma =>
    intro s y gd ga la gb lb p u m r v h
    have hx : exec (.fma y gd ga la gb lb p) s = execFma y gd ga la gb lb p s := rfl
    rw [hx, execFma]
    exact issue_done h rfl

/-- An FP32 operand is read from the low half of its register (R281). -/
theorem floatArg_true_congr {a b : Word} (h : a.setWidth 32 = b.setWidth 32) : floatArg true a = floatArg true b := by
  have hn : a.toNat % 2 ^ 32 = b.toNat % 2 ^ 32 := by
    rw [← BitVec.toNat_setWidth, ← BitVec.toNat_setWidth, h]
  exact congrArg (decFloat fp32) hn

theorem floatRes_nan (p : Bool) :
    floatRes p (exAdd .nan .nan) = if p then (0x7FC00000, 0) else (0x7FF8000000000000, 0) := by
  cases p <;> decide +kernel

/-- Settles O7: FP32 operands by their low half, the other corners by computing them. -/
theorem scalarFloatCorners : Obligations.ScalarFloatCorners := by
  unfold Obligations.ScalarFloatCorners
  refine ⟨fun a b => floatArg_true_congr, floatRes_nan, ?_, ?_, ?_, ?_⟩ <;> decide +kernel

end Sys2Proof.Proofs

/-! Branches, jumps and CALLAT (R283, R284, R286, R56). -/

namespace Sys2Proof.Proofs

open Sys2Proof Sys2Proof.Machine Sys2Proof.Safety Sys2Proof.Laws

theorem leavesBlock_begun (s : State) (u : Use) (target : Word) :
    leavesBlock (begun s u).fib target = leavesBlock s.fib target := by
  simp only [leavesBlock, begun_fib_loops, begun_fib_pc]

theorem goTo_of_leaves {t : State} {target : Word} (f : State → State) (h : leavesBlock t.fib target = true) :
    goTo t target f = .trap cLOOPNEST target := if_pos h

theorem goTo_of_stays {t : State} {target : Word} (f : State → State) (h : leavesBlock t.fib target = false) :
    goTo t target f = .jump (f t) target := if_neg (Bool.eq_false_iff.mp h)

/-- A transfer that an instruction makes: it goes to the target, or raises LOOPNEST beyond the block of the active loops (R56). -/
theorem issue_goTo {s : State} {u : Use} {body : State → List Word → Eff} {target : Word} {f : State → State} (h : Issues s u)
    (hb : body (begun s u) (operands s u) = goTo (begun s u) target f) : issue s u body
      = .next (if leavesBlock s.fib target then raise (atReads s u.y) cLOOPNEST target else wentTo u (f (begun s u)) target) := by
  cases hl : leavesBlock s.fib target
  · rw [if_neg Bool.false_ne_true]
    exact issue_jump h (hb.trans (goTo_of_stays f ((leavesBlock_begun s u target).trans hl)))
  · rw [if_pos rfl]
    exact issue_trap_uncounted h (hb.trans (goTo_of_leaves f ((leavesBlock_begun s u target).trans hl))) (by decide)

theorem branches_of {mk : Bool → Reg → Bool → Reg → Bool → BitVec 14 → Instr} (cond : Word → Word → Bool)
    {rel : Word → Word → Bool}
    (hx : ∀ y ga la gb lb off s, exec (mk y ga la gb lb off) s = branch (mk y ga la gb lb off) y ga la gb lb off cond s)
    (hr : ∀ a b, cond a b = rel a b) : Branches mk rel := by
  intro s y ga la gb lb off u target h
  have htarget : relTarget (begun s u).fib.pc (sext off) = target := by rw [begun_fib_pc]; rfl
  rw [hx, branch, ← hr]
  refine ⟨fun hn => issue_done h (if_neg (Bool.eq_false_iff.mp hn)), fun ht hs => ?_, fun ht hl => ?_⟩
  · refine (issue_goTo (target := target) (f := id) h ?_).trans (by rw [hs]; rfl)
    rw [← htarget]
    exact if_pos ht
  · refine (issue_goTo (target := target) (f := id) h ?_).trans (by rw [hl]; rfl)
    rw [← htarget]
    exact if_pos ht

/-- Settles O8, from what a branch does by its relation. -/
theorem conditionalBranches : Obligations.ConditionalBranches := by
  unfold Obligations.ConditionalBranches
  refine ⟨?beq, ?bne, ?blt, ?bge⟩
  case beq => exact branches_of (fun a b => a == b) (fun _ _ _ _ _ _ _ => rfl) fun _ _ => rfl
  case bne => exact branches_of (fun a b => a != b) (fun _ _ _ _ _ _ _ => rfl) fun _ _ => rfl
  case blt => exact branches_of (fun a b => a.slt b) (fun _ _ _ _ _ _ _ => rfl) fun _ _ => BitVec.slt_eq_decide
  case bge =>
    refine branches_of (fun a b => !a.slt b) (fun _ _ _ _ _ _ _ => rfl) fun a b => ?_
    rw [BitVec.slt_eq_decide, ← decide_not]
    exact decide_eq_decide.mpr Int.not_lt

theorem exec_jal (y : Bool) (gd : Reg) (imm : BitVec 20) (s : State) : exec (.jal y gd imm) s = execJal y gd imm s := rfl

theorem exec_jr (y : Bool) (gd ga : Reg) (la : Bool) (s : State) : exec (.jr y gd ga la) s = execJr y gd ga la s := rfl

/-- Settles O9: the alignment of a register target first (R409), then the block of the active loops. -/
theorem jumps : Obligations.Jumps := by
  unfold Obligations.Jumps
  refine ⟨?jal, ?jr⟩
  case jal =>
    intro s y gd imm u target h
    have htarget : relTarget (begun s u).fib.pc (sext imm) = target := by rw [begun_fib_pc]; rfl
    rw [exec_jal, execJal]
    refine (issue_goTo (f := fun t => setLong t gd (t.fib.pc + 4) 0) h (by rw [htarget])).trans ?_
    rw [begun_fib_pc]
    rfl
  case jr =>
    intro s y gd ga la u target h
    rw [exec_jr, execJr]
    by_cases ha : target.toNat % 4 = 0
    · have hal : ¬(!aligned target 4) = true := by simp [aligned, ha]
      rw [if_neg (not_not_intro ha)]
      refine (issue_goTo (target := target) (f := fun t => setLong t gd (t.fib.pc + 4) 0) h (if_neg hal)).trans ?_
      rw [begun_fib_pc]
      rfl
    · have hal : (!aligned target 4) = true := by simp [aligned, ha]
      rw [if_pos ha]
      exact issue_trap_uncounted h (if_pos hal) (by decide)

/-! CALLAT (R286). -/

/-- A word that fails the checks of a store to the scratchpad window is refused with its cause (R146, R410). -/
theorem checkWord_of_fails {s : State} {va : Word} {c : Nat} (h : WordFails s va c) : checkWord s va = .bad c va := by
  unfold checkWord checkAt
  obtain ⟨hm, rfl⟩ | ⟨ha, ht⟩ | ⟨ha, a, ht, h⟩ := h
  · rw [if_pos (by simp [aligned, hm])]
  · rw [if_neg (by simp [aligned, ha]), ht]
  · rw [if_neg (by simp [aligned, ha]), ht]
    obtain ⟨hl, rfl⟩ | ⟨hl, hr, rfl⟩ := h
    · simp only [onlySpad, ne_eq, hl, not_false_eq_true, if_true]
    · simp only [onlySpad, hl, ne_eq, not_true_eq_false, if_false, hr, if_true]

/-- How CALLAT uses its fibre. -/
def callatUse (y : Bool) (ga : Reg) (la : Bool) (gb : Reg) (lb : Bool) : Use :=
  let i := Instr.callat y ga la gb lb
  ⟨i, y, false, 0, gangOnly i, [(ga, la), (gb, lb), (1, false), (2, false), (3, false), (4, false), (5, false)], 0, true⟩

/-- What CALLAT does with the values that it reads: the core number, the entry and the return word are checked in that order. -/
def callatChecked (t : State) (v : List Word) : Eff :=
  if 1023 < (arg v 1).toNat then .trap cBOUND (arg v 1)
  else if !aligned (arg v 0) 4 then .trap cALIGN (arg v 0)
  else stampEff t (arg v 6) fun _ => callatEff t (arg v 1).toNat v

theorem exec_callat (y : Bool) (ga : Reg) (la : Bool) (gb : Reg) (lb : Bool) (s : State) :
    exec (.callat y ga la gb lb) s = issue s (callatUse y ga la gb lb) callatChecked := rfl

section
variable {t : State} {v : List Word}

theorem callatChecked_of_bound (h : 1024 ≤ (arg v 1).toNat) : callatChecked t v = .trap cBOUND (arg v 1) := if_pos h

theorem callatChecked_of_misaligned (hc : (arg v 1).toNat < 1024) (ha : (arg v 0).toNat % 4 ≠ 0) :
    callatChecked t v = .trap cALIGN (arg v 0) :=
  (if_neg (Nat.not_lt.mpr (Nat.le_of_lt_succ hc))).trans (if_pos (by simp [aligned, ha]))

/-- Past the core number and the entry, the return word is checked. -/
theorem callatChecked_of_entry (hc : (arg v 1).toNat < 1024) (ha : (arg v 0).toNat % 4 = 0) :
    callatChecked t v = stampEff t (arg v 6) fun _ => callatEff t (arg v 1).toNat v :=
  (if_neg (Nat.not_lt.mpr (Nat.le_of_lt_succ hc))).trans (if_neg (by simp [aligned, ha]))

theorem stampEff_of_fails {va : Word} {c : Nat} (go : Nat → Eff) (hva : va ≠ 0) (h : WordFails t va c) :
    stampEff t va go = .trap c va := by
  simp only [stampEff, if_neg hva, checkWord_of_fails h]

/-- With its accesses performed, the caller sends its task, or has it refused, and waits (R286). -/
theorem callatEff_of_performed {core : Nat} (hp : allPerformed t t.fib.id = true) :
    let sc := scopeOfCores t.fib.core core
    let r := exchange (releaseAt t t.fib.ident.tenant t.fib.core sc) t.fib.core core
    callatEff t core v = .hold (.callat core (some (acceptsTask r core))) (if acceptsTask r core then callTo r core v sc else r) := by
  simp only [callatEff, hp, Bool.not_true, Bool.false_eq_true, if_false]

theorem callatEff_of_outstanding {core : Nat} (hp : allPerformed t t.fib.id = false) :
    callatEff t core v = .later .accesses (.call core v) t := by
  simp only [callatEff, hp, Bool.not_false, if_true]

end

/-- Settles O12, check by check. -/
theorem callAt : Obligations.CallAt := by
  unfold Obligations.CallAt
  intro s y ga la gb lb i u core sc t ok h
  have hx : exec i s = issue s u callatChecked := exec_callat y ga la gb lb s
  rw [hx]
  refine ⟨fun hb => ?bound, fun hc ha => ?align, fun hc ha hr c hw => ?word, fun hc ha cpl hw => ⟨fun hp => ?sent, fun hp => ?waits⟩⟩
  case bound => exact issue_trap_uncounted h (callatChecked_of_bound hb) (by decide)
  case align => exact issue_trap_uncounted h (callatChecked_of_misaligned hc ha) (by decide)
  case word => exact issue_trap h ((callatChecked_of_entry hc ha).trans (stampEff_of_fails _ hr hw))
  case sent =>
    have he := callatEff_of_performed (v := operands s u) (core := core) ((allPerformed_begun s u).trans hp)
    simp only [begun_fib_core, begun_fib_ident] at he
    exact issue_hold h ((callatChecked_of_entry hc ha).trans ((stampEff_of_completionWord _ hw).trans he))
  case waits =>
    have he := callatEff_of_outstanding (v := operands s u) (core := core) ((allPerformed_begun s u).trans hp)
    exact issue_later h ((callatChecked_of_entry hc ha).trans ((stampEff_of_completionWord _ hw).trans he))

end Sys2Proof.Proofs

/-! Traps and the return from them (R391-R394, R396, R399, R402). -/

namespace Sys2Proof.Proofs

open Sys2Proof Sys2Proof.Machine Sys2Proof.Safety Sys2Proof.Laws

/-! Where a trap goes (R394). -/

/-- The traps that go to the device monitor whatever TVEC holds (R306, R394). -/
def ToMonitor (f : Fibre) (c : Nat) (hcall : Bool) : Prop := hcall = true ∨ c = cPOISON ∨ c = cEVICTED ∨ f.pl = 2

/-- TVEC of a fibre's tenant. -/
def tvecOf (s : State) (f : Fibre) : Word := (tenantOf s f.ident.tenant.toNat).tvec

section
variable {s : State} {f : Fibre} {c : Nat} {hcall : Bool}

theorem toMonitor_iff : ToMonitor f c hcall ↔ (hcall || c == cPOISON || c == cEVICTED || f.pl == 2) = true := by
  simp only [ToMonitor, Bool.or_eq_true, beq_iff_eq, or_assoc]

theorem trapTarget_of_monitor (h : ToMonitor f c hcall) : trapTarget s f c hcall = (true, false, mailWord s 16) :=
  if_pos (toMonitor_iff.mp h)

theorem trapTarget_of_supervisor (h : ¬ToMonitor f c hcall) (hu : usableVec (tvecOf s f) = true) :
    trapTarget s f c hcall = (false, false, tvecOf s f) :=
  (if_neg (mt toMonitor_iff.mpr h)).trans (if_pos hu)

/-- A trap whose TVEC is unusable goes to the device monitor, with RDIR (R394). -/
theorem trapTarget_of_redirect (h : ¬ToMonitor f c hcall) (hu : usableVec (tvecOf s f) = false) :
    trapTarget s f c hcall = (true, true, mailWord s 16) :=
  (if_neg (mt toMonitor_iff.mpr h)).trans (if_neg (by rw [tvecOf] at hu; rw [hu]; exact Bool.false_ne_true))

end

/-! Entry (R391, R402). -/

/-- What a trap does beyond its fibre: the fibre waits for no walker (R375), and the model's counter advances. -/
def trapped (s : State) : State := { s with
  walkWait := s.walkWait.filter fun w => w.2 != s.fib.id
  sched := { s.sched with free := s.sched.free + 1 } }

section
variable {s : State} {c : Nat} {v epc vec : Word} {hcall rdir : Bool}

theorem takeTrap_of_monitor (ht : trapTarget s s.fib c hcall = (true, rdir, vec)) (hu : usableVec vec = true)
    (hf : s.fib.mon.frame = false) :
    takeTrap s c v epc hcall = { trapped s with fib := enterTrap s.fib true c v epc vec rdir false } := by
  have ht' : trapTarget (trapped s) s.fib c hcall = (true, rdir, vec) := ht
  unfold trapped at ht'
  simp only [takeTrap, ht', hu, hf, if_true, Bool.not_false, Bool.and_self, trapped]

theorem takeTrap_of_supervisor (ht : trapTarget s s.fib c hcall = (false, rdir, vec)) (hf : s.fib.sup.frame = false) :
    takeTrap s c v epc hcall = { trapped s with fib := enterTrap s.fib false c v epc vec rdir false } := by
  have ht' : trapTarget (trapped s) s.fib c hcall = (false, rdir, vec) := ht
  unfold trapped at ht'
  simp only [takeTrap, ht', hf, Bool.false_eq_true, if_false, trapped]

/-- A double trap goes to the device monitor with DBL, where its context is free and MVEC usable (R402). -/
theorem takeTrap_of_double (ht : trapTarget s s.fib c hcall = (false, rdir, vec)) (hs : s.fib.sup.frame = true)
    (hu : usableVec (mailWord s 16) = true) (hf : s.fib.mon.frame = false) : takeTrap s c v epc hcall
      = { trapped s with fib := enterTrap s.fib true c v epc (mailWord s 16) false true } := by
  have ht' : trapTarget (trapped s) s.fib c hcall = (false, rdir, vec) := ht
  have hu' : usableVec (mailWord (trapped s) 16) = true := hu
  unfold trapped at ht' hu'
  simp only [takeTrap, ht', hs, hu', hf, Bool.false_eq_true, if_false, if_true, Bool.not_false, Bool.and_self, trapped]
  rfl

theorem takeTrap_of_doom (ht : trapTarget s s.fib c hcall = (false, rdir, vec)) (hs : s.fib.sup.frame = true)
    (h : usableVec (mailWord s 16) = false ∨ s.fib.mon.frame = true) : takeTrap s c v epc hcall = endTrap (trapped s) := by
  have ht' : trapTarget (trapped s) s.fib c hcall = (false, rdir, vec) := ht
  have hno : (usableVec (mailWord (trapped s) 16) && !s.fib.mon.frame) = false := by
    obtain hu | hm := h
    · exact (congrArg (· && _) hu).trans (Bool.false_and _)
    · rw [hm]
      exact Bool.and_false _
  unfold trapped at ht' hno
  simp only [takeTrap, ht', hs, hno, Bool.false_eq_true, if_false, if_true, trapped]

/-- A trap of an instruction with its long results there and no failure pending (R391). -/
theorem raise_of_ready (hr : allReady s.fib = true) (hf : s.fib.failure = none) :
    raise s c v = takeTrap { s with fib := drain s.fib } c v (drain s.fib).pc false := by
  simp only [raise, hr, if_true, drain_failure, hf]

theorem raise_of_unready (hr : allReady s.fib = false) : raise s c v = parkOn s (.trap c v) := by
  simp only [raise, hr, Bool.false_eq_true, if_false]

/-- A pending failure is taken in place of the cause (R399). -/
theorem raise_of_failure {e : Failure} (hr : allReady s.fib = true) (hf : s.fib.failure = some e) : raise s c v
    = takeTrap { s with fib := { drain s.fib with failure := none } } e.cause.toNat e.addr s.fib.pc false := by
  simp only [raise, hr, if_true, drain_failure, hf, drain_pc]

/-- TRAP and HCALL with their long results there and no failure pending complete, with the end test, before they trap (R393). -/
theorem raiseAfter_of_ready (hr : allReady s.fib = true) (hf : s.fib.failure = none) : raiseAfter s hcall c v
    = takeTrap { s with fib := stepPc (drain s.fib) } c v (stepPc (drain s.fib)).pc hcall := by
  simp only [raiseAfter, hr, if_true, drain_failure, hf]

end

/-- Only the fibre that traps changes, and its place among those that wait for a walker (R375). -/
theorem trapFrame_trapped (s : State) {f : Fibre} (g : Fibre) (hf : f.id = s.fib.id) :
    TrapFrame s { trapped { s with fib := f } with fib := g } := by
  unfold TrapFrame trapped
  simp only [hf]

/-- Settles O28, target by target. -/
theorem trapEntry : Obligations.TrapEntry := by
  unfold Obligations.TrapEntry
  intro s c v hr hf f t tvec mvec ctx kept toMonitor
  have ht : t = takeTrap { s with fib := f } c v f.pc false := raise_of_ready hr hf
  have hto : ToMonitor f c false ↔ toMonitor := by
    have hpl : f.pl = s.fib.pl := drain_pl _
    simp only [ToMonitor, hpl, Bool.false_eq_true, false_or, toMonitor]
  have htvec : tvecOf s f = tvec := by rw [tvecOf, drain_ident]
  have hmon : f.mon = s.fib.mon := drain_mon _
  have hsup : f.sup = s.fib.sup := drain_sup _
  have hkept : ∀ mon vec rdir, t = { trapped { s with fib := f } with fib := enterTrap f mon c v f.pc vec rdir false } → kept :=
    fun mon vec rdir he => by
      simp only [kept, he]
      exact ⟨trapFrame_trapped s _ (drain_id _), rfl, rfl, rfl, rfl, rfl, rfl, rfl, rfl, rfl, (drain_failure _).trans hf⟩
  refine ⟨fun hn hu hs => ?supervisor, fun hn hu hm hs => ?redirect, fun hn hu hs => ?monitor⟩
  case supervisor =>
    have he := ht.trans (takeTrap_of_supervisor (s := { s with fib := f })
      (trapTarget_of_supervisor (mt hto.mp hn) ((congrArg usableVec htvec).trans hu)) ((congrArg TrapCtx.frame hsup).trans hs))
    exact ⟨by rw [he]; rfl, by rw [he]; rfl, by rw [he]; rfl, by rw [he]; exact htvec, hkept _ _ _ he⟩
  case redirect =>
    have he := ht.trans (takeTrap_of_monitor (s := { s with fib := f })
      (trapTarget_of_redirect (mt hto.mp hn) ((congrArg usableVec htvec).trans hu)) hm ((congrArg TrapCtx.frame hmon).trans hs))
    exact ⟨by rw [he]; rfl, by rw [he]; rfl, by rw [he]; rfl, by rw [he]; rfl, hkept _ _ _ he⟩
  case monitor =>
    have he := ht.trans (takeTrap_of_monitor (s := { s with fib := f }) (trapTarget_of_monitor (hto.mpr hn)) hu
      ((congrArg TrapCtx.frame hmon).trans hs))
    exact ⟨by rw [he]; rfl, by rw [he]; rfl, by rw [he]; rfl, by rw [he]; rfl, hkept _ _ _ he⟩

/-! Double traps (R402). -/

theorem endTrap_of_performed {s : State} (h : allPerformed s s.fib.id = true) :
    endTrap s = endFibre { s with dev := { s.dev with double := s.dev.double + 1 } } s.fib.id (BitVec.allOnes 64) := if_pos h

theorem endTrap_of_outstanding {s : State} (h : allPerformed s s.fib.id = false) : endTrap s = parkOn s .doom :=
  if_neg (by rw [h]; exact Bool.false_ne_true)

/-- Settles O29: the second trap of a supervisor context goes to the device monitor, or ends its fibre. -/
theorem doubleTrap : Obligations.DoubleTrap := by
  unfold Obligations.DoubleTrap
  intro s c v hr hf hc1 hc2 hpl hu hs f t
  have ht : t = takeTrap { s with fib := f } c v f.pc false := raise_of_ready hr hf
  have hno : ¬ToMonitor f c false := by
    rintro (h | h | h | h)
    · exact Bool.false_ne_true h
    · exact hc1 h
    · exact hc2 h
    · exact hpl ((drain_pl _).symm.trans h)
  have htvec : tvecOf s f = (tenantOf s s.fib.ident.tenant.toNat).tvec := by rw [tvecOf, drain_ident]
  have htgt := trapTarget_of_supervisor (s := { s with fib := f }) hno ((congrArg usableVec htvec).trans hu)
  have hsup : f.sup.frame = true := (congrArg TrapCtx.frame (drain_sup _)).trans hs
  have hmon : f.mon = s.fib.mon := drain_mon _
  refine ⟨fun hm hfr => ?monitor, fun hno => ?doom⟩
  case monitor =>
    have he := ht.trans (takeTrap_of_double htgt hsup hm ((congrArg TrapCtx.frame hmon).trans hfr))
    rw [he]
    exact ⟨rfl, rfl, rfl, rfl, rfl, trapFrame_trapped s _ (drain_id _)⟩
  case doom =>
    have he := ht.trans (takeTrap_of_doom htgt hsup (hno.imp_right (congrArg TrapCtx.frame hmon).trans))
    have hid : f.id = s.fib.id := drain_id _
    have hbase : trapped { s with fib := f } = { s with
        fib := f
        walkWait := s.walkWait.filter fun w => w.2 != s.fib.id
        sched := { s.sched with free := s.sched.free + 1 } } := by
      simp only [trapped, hid]
    rw [he, hbase]
    refine ⟨_, rfl, fun hp => ?_, fun hp => ?_⟩
    · have hpf : allPerformed s f.id = true := by rw [hid, hp]
      refine (endTrap_of_performed hpf).trans ?_
      simp only [hp, if_true, hid]
      rfl
    · have hpf : allPerformed s f.id = false := by rw [hid, hp]
      refine (endTrap_of_outstanding hpf).trans ?_
      simp only [hp, Bool.false_eq_true, if_false]

/-- Settles O30, by whether the long results are there. -/
theorem trapWaitsAndFailures : Obligations.TrapWaitsAndFailures := by
  unfold Obligations.TrapWaitsAndFailures
  exact fun s c v => ⟨raise_of_unready, fun hr e => raise_of_failure hr⟩

/-- Settles O32: the instruction completes, and HCALL goes to the device monitor from the PC that follows. -/
theorem trapInstructions : Obligations.TrapInstructions := by
  unfold Obligations.TrapInstructions
  intro s hcall c v hr hf g
  refine ⟨raiseAfter_of_ready hr hf, fun hh hu hm => ⟨_, rfl, ?_⟩⟩
  have hmon : g.mon.frame = false := (congrArg TrapCtx.frame (drain_mon _)).trans hm
  have he := (raiseAfter_of_ready (c := c) (v := v) (hcall := hcall) hr hf).trans
    (takeTrap_of_monitor (s := { s with fib := g }) (trapTarget_of_monitor (.inl hh)) hu hmon)
  rw [he]
  exact ⟨rfl, rfl, rfl, rfl, drain_pl _, rfl, drain_sup _, rfl, trapFrame_trapped s _ (drain_id _)⟩

/-! ERET (R392). -/

/-- How ERET uses its fibre. -/
def eretUse (y : Bool) : Use := { plainUse (.eret y) y [] 0 with
  level := 1
  fail := true }

/-- What ERET does once it has issued. -/
def eretEff (y : Bool) (t : State) : Eff :=
  if !(eretCtx t.fib).frame then .trap cILLEGAL 0x50000002
  else if (eretCtx t.fib).loops != [] && pcBlock (eretCtx t.fib).epc != (eretCtx t.fib).block then
    .trap cLOOPNEST (eretCtx t.fib).epc
  else .raw { t with fib := issued (leaveTrap t.fib) ⟨.eret y, y, false, 0, fun _ => none, [], 0, true⟩ }

theorem exec_eret (y : Bool) (s : State) : exec (.eret y) s = issue s (eretUse y) fun t _ => eretEff y t := rfl

section
variable {t : State} (y : Bool)

theorem eretEff_of_no_frame (h : (eretCtx t.fib).frame = false) : eretEff y t = .trap cILLEGAL 0x50000002 := by
  rw [eretEff, h]
  rfl

theorem eretEff_of_other_block (h : (eretCtx t.fib).frame = true) (hl : (eretCtx t.fib).loops ≠ [])
    (hb : pcBlock (eretCtx t.fib).epc ≠ (eretCtx t.fib).block) : eretEff y t = .trap cLOOPNEST (eretCtx t.fib).epc := by
  rw [eretEff, h, if_neg (by decide), if_pos (by simp [hl, hb])]

theorem eretEff_of_return (h : (eretCtx t.fib).frame = true)
    (hb : (eretCtx t.fib).loops = [] ∨ pcBlock (eretCtx t.fib).epc = (eretCtx t.fib).block) : eretEff y t
      = .raw { t with fib := issued (leaveTrap t.fib) ⟨.eret y, y, false, 0, fun _ => none, [], 0, true⟩ } := by
  rw [eretEff, h, if_neg (by decide), if_neg]
  obtain hl | hb := hb
  · simp [hl]
  · simp [hb]

end

theorem eretCtx_begun (s : State) (u : Use) : eretCtx (begun s u).fib = eretCtx s.fib := by
  simp only [eretCtx, begun_fib_pl, begun_fib_mon, begun_fib_sup]

/-- An instruction that reads no register for the last time frees none. -/
theorem begun_fib_of_no_reads (s : State) {u : Use} (h : u.reads = []) : (begun s u).fib = (atReads s u.y).fib := by
  have hm : freeMask u = 0 := by rw [freeMask, h]; rfl
  have hb : (begun s u).fib = freeRegs (atReads s u.y).fib (freeMask u) := rfl
  rw [hb, hm]
  rfl

/-- What ERET restores of its fibre, and what it leaves (R392). -/
theorem leaveTrap_keeps (f : Fibre) : let g := leaveTrap f
    let x := eretCtx f
    (if f.pl = 2 then g.mon else g.sup) = { x with
      frame := false
      dbl := false
      rdir := false
      loops := [] }
    ∧ (if f.pl = 2 then g.sup = f.sup else g.mon = f.mon) := by
  intro g x
  by_cases h : f.pl = 2
  · simp only [g, x, leaveTrap, h, if_true, eretCtx, and_self]
  · simp only [g, x, leaveTrap, h, if_false, eretCtx, and_self]

/-- Settles O31: the two checks, and what a return leaves. -/
theorem trapReturn : Obligations.TrapReturn := by
  unfold Obligations.TrapReturn
  intro s y u x h
  have hx : exec (.eret y) s = issue s u fun t _ => eretEff y t := exec_eret y s
  have hctx : eretCtx (begun s u).fib = x := eretCtx_begun s u
  rw [hx]
  refine ⟨fun hf => ?noFrame, fun hf hl hb => ?otherBlock, fun hf hb => ?returns⟩
  case noFrame => exact issue_trap_uncounted h (eretEff_of_no_frame y (by rw [hctx, hf])) (by decide)
  case otherBlock =>
    rw [← hctx] at hf hl hb ⊢
    exact issue_trap_uncounted h (eretEff_of_other_block y hf hl hb) (by decide)
  case returns =>
    rw [← hctx] at hf hb
    refine ⟨_, issue_raw h (eretEff_of_return y hf hb), ?_⟩
    obtain ⟨hleft, hother⟩ := leaveTrap_keeps (begun s u).fib
    have hfib : (begun s u).fib = (atReads s y).fib := begun_fib_of_no_reads s rfl
    rw [hctx, begun_fib_pl] at hleft
    rw [begun_fib_pl, begun_fib_sup, begun_fib_mon] at hother
    refine ⟨?only, (congrArg TrapCtx.ppl hctx :), (Bool.and_true _).trans (congrArg TrapCtx.ppfx hctx :),
      (congrArg TrapCtx.loops hctx :), (congrArg (fun c => c.epc &&& ~~~3) hctx :), (congrArg TrapCtx.frame hleft :),
      (congrArg TrapCtx.dbl hleft :), (congrArg TrapCtx.rdir hleft :), (congrArg TrapCtx.epc hleft :), hother,
      (congrArg Fibre.regs hfib :), (congrArg Fibre.live hfib :), (congrArg Fibre.flags hfib :), begun_fib_fpfx s u⟩
    case only =>
      have hb := onlyFibre_begun s u
      unfold OnlyFibre at hb ⊢
      rw [hb]

end Sys2Proof.Proofs

/-! The system instructions (R258, R303, R305-R310, R346, R428). -/

namespace Sys2Proof.Proofs

open Sys2Proof Sys2Proof.Machine Sys2Proof.Safety Sys2Proof.Laws

/-! The privilege check (R305), which comes after those of the encoding and of PFX (R405). -/

/-- An instruction at a level too low raises PRIV with its word, whatever its operands. -/
theorem issue_of_privilege {s : State} {u : Use} (body : State → List Word → Eff) (hy : u.y = true → allReady s.fib = true)
    (hf : s.fib.failure = none) (hg : isEngine5 u.instr = true → servesGateway s s.fib.core = true) (hw : u.instr.wf = true)
    (hp : s.fib.pfx = false) (hl : s.fib.pl.toNat < u.level) :
    issue s u body = .next (raise (atReads s u.y) cPRIV (wordVal u.instr)) := by
  have hready : (u.y && !allReady s.fib) = false := by
    cases h : u.y
    · rfl
    · rw [hy h]
      rfl
  have hfail : (atReads s u.y).fib.failure = none := by
    cases u.y
    · exact hf
    · exact (drain_failure _).trans hf
  have hserves : (isEngine5 u.instr && !servesGateway (atReads s u.y) (atReads s u.y).fib.core) = false := by
    have hs : servesGateway (atReads s u.y) (atReads s u.y).fib.core = servesGateway s s.fib.core := by
      cases u.y
      · rfl
      · rw [atReads_true, drain_core]
        rfl
    cases h : isEngine5 u.instr
    · rfl
    · rw [hs, hg h]
      rfl
  have hpfx : (atReads s u.y).fib.pfx = false := by
    cases u.y
    · exact hp
    · exact (drain_pfx _).trans hp
  have hpl : (atReads s u.y).fib.pl = s.fib.pl := by
    cases u.y
    · rfl
    · exact drain_pl _
  have hchk : issueChecks (atReads s u.y) u = some (cPRIV, wordVal u.instr) := by
    simp only [issueChecks, hserves, hw, hpfx, hpl, hl, Bool.not_true, Bool.false_and, Bool.false_eq_true, if_false, if_true]
  have hs : (if u.y = true then { s with fib := drain s.fib } else s) = atReads s u.y := rfl
  simp only [issue, hready, hs, hfail, hchk, Option.isSome_none, Bool.false_and, Bool.false_eq_true, if_false]

/-! The instructions at a level that may run them. -/

/-- How TLBINV uses its fibre. -/
def tlbinvUse (y : Bool) (ga : Reg) (la : Bool) (mode : BitVec 2) (scope : BitVec 4) : Use :=
  { plainUse (.tlbinv y ga la mode scope) y [(ga, la)] 0 with
    level := 1
    fail := true }

/-- How IMGSAVE and IMGLOAD use their fibre. -/
def imageUse (i : Instr) (y : Bool) (ga : Reg) (la : Bool) : Use := { plainUse i y [(ga, la)] 0 with level := 1 }

/-- What CACHEOP at an address does once it has issued. -/
def cacheopEff (op : BitVec 6) (t : State) (va : Word) : Eff :=
  match translateFibre t t.fib .load va.toNat with
  | .bad c => .trap c va
  | .ok a =>
    if outOfReach t t.fib a.pa then .trap cWINDOW va
    else cacheEff t (mkReq t .load 0 8 a va) a.loc op.toNat
  | _ => .done t

/-- A gang that is held back from resuming (R310). -/
def suspend (g : Gang) : Gang := { g with suspended := true }

/-- What IMGSAVE does with the gang that its handle names (R310). -/
def saveGang (t : State) (g : Gang) : Eff :=
  match g.st with
  | .done => .done t
  | .imaged => .done (modGang t g.id suspend)
  | _ => .hold (.image g.id) (startImaging (modGang t g.id suspend) [g.id])

/-- What IMGSAVE of a handle does once it has issued. -/
def imgsaveEff (i : Instr) (t : State) (h : Word) : Eff :=
  match handleCheck i t h with
  | some (c, x) => .trap c x
  | none =>
    match handleGang t h with
    | none => .done t
    | some g => saveGang t g

/-- What IMGLOAD of a handle does once it has issued. -/
def imgloadEff (i : Instr) (t : State) (h : Word) : Eff :=
  match handleCheck i t h with
  | some (c, x) => .trap c x
  | none =>
    match handleGang t h with
    | none => .done t
    | some g => .done (reviveGang t g)

theorem exec_nop (y : Bool) (s : State) : exec (.nop y) s = execNop y s := rfl

theorem exec_trap (y : Bool) (n : BitVec 6) (s : State) : exec (.trap y n) s = execTrap y n s := rfl

theorem exec_hcall (y : Bool) (n : BitVec 6) (s : State) : exec (.hcall y n) s = execHcall y n s := rfl

theorem exec_tlbinv (y : Bool) (ga : Reg) (la : Bool) (mode : BitVec 2) (scope : BitVec 4) (s : State) :
    exec (.tlbinv y ga la mode scope) s = issue s (tlbinvUse y ga la mode scope) fun t v =>
      tlbinvEff t scope (maskOf t t.fib.ident.tenant scope) (mode == 1) (arg v 0) := rfl

theorem exec_cacheop (y : Bool) (ga : Reg) (la : Bool) (op : BitVec 6) (s : State) :
    exec (.cacheop y ga la op) s = issue s (plainUse (.cacheop y ga la op) y [(ga, la)] 0) fun t v =>
      cacheopEff op t (arg v 0) := rfl

theorem exec_imgsave (y : Bool) (ga : Reg) (la : Bool) (s : State) : exec (.imgsave y ga la) s
    = issue s (imageUse (.imgsave y ga la) y ga la) fun t v => imgsaveEff (.imgsave y ga la) t (arg v 0) := rfl

theorem exec_imgload (y : Bool) (ga : Reg) (la : Bool) (s : State) : exec (.imgload y ga la) s
    = issue s (imageUse (.imgload y ga la) y ga la) fun t v => imgloadEff (.imgload y ga la) t (arg v 0) := rfl

section
variable {t : State} {op : BitVec 6} {va h : Word} {a : Acc} {i : Instr} {g : Gang}

theorem tlbinvEff_of_performed {scope : BitVec 4} {m : Word} {all : Bool} (hp : allPerformed t t.fib.id = true) :
    tlbinvEff t scope m all va = .hold (.tlb scope m all va) (releaseAt t t.fib.ident.tenant t.fib.core 4) := by
  simp only [tlbinvEff, hp, Bool.not_true, Bool.false_eq_true, if_false]

theorem cacheopEff_of_outOfReach (ht : translateFibre t t.fib .load va.toNat = .ok a) (ho : outOfReach t t.fib a.pa = true) :
    cacheopEff op t va = .trap cWINDOW va := by
  simp only [cacheopEff, ht, ho, if_true]

/-- A line that no earlier access of the fibre waits for is worked on at once (R160, R309). -/
theorem cacheopEff_of_idle (ht : translateFibre t t.fib .load va.toNat = .ok a) (ho : outOfReach t t.fib a.pa = false)
    (hb : lineBusy t ⟨a.pa, a.cp, a.gr, a.loc, false, 0, 0, 0⟩ = false) :
    cacheopEff op t va = .done (cacheOp t t.fib.core ⟨a.pa, a.cp, a.gr, a.loc, false, 0, 0, 0⟩ op.toNat) := by
  simp only [cacheopEff, ht, ho, Bool.false_eq_true, if_false, cacheEff]
  exact if_neg (Bool.eq_false_iff.mp hb)

theorem imgsaveEff_of_queued (hc : handleCheck i t h = none) (hg : handleGang t h = none) : imgsaveEff i t h = .done t := by
  simp only [imgsaveEff, hc, hg]

theorem imgsaveEff_of_gang (hc : handleCheck i t h = none) (hg : handleGang t h = some g) : imgsaveEff i t h = saveGang t g := by
  simp only [imgsaveEff, hc, hg]

theorem imgloadEff_of_queued (hc : handleCheck i t h = none) (hg : handleGang t h = none) : imgloadEff i t h = .done t := by
  simp only [imgloadEff, hc, hg]

theorem imgloadEff_of_gang (hc : handleCheck i t h = none) (hg : handleGang t h = some g) :
    imgloadEff i t h = .done (reviveGang t g) := by
  simp only [imgloadEff, hc, hg]

theorem saveGang_of_done (hs : g.st = .done) : saveGang t g = .done t := by simp only [saveGang, hs]

theorem saveGang_of_imaged (hs : g.st = .imaged) : saveGang t g = .done (modGang t g.id suspend) := by
  simp only [saveGang, hs]

/-- A gang that still has fibres here is imaged, and IMGSAVE waits until its image closes (R310). -/
theorem saveGang_of_live (hd : g.st ≠ .done) (hi : g.st ≠ .imaged) :
    saveGang t g = .hold (.image g.id) (startImaging (modGang t g.id suspend) [g.id]) := by
  unfold saveGang
  split
  next h => exact absurd h hd
  next h => exact absurd h hi
  next => rfl

/-- A gang that no agent's death has ended, or that has no image to go back to, is only set free (R310, R428). -/
theorem reviveGang_of_alive (h : g.ended = false ∨ g.st = .done ∨ g.last = none) :
    reviveGang t g = modGang t g.id fun g => { g with suspended := false } := by
  unfold reviveGang
  split
  next m he hl =>
    rw [Bool.and_eq_true, bne_iff_ne] at he
    obtain h | h | h := h
    · exact absurd he.1 (by rw [h]; exact Bool.false_ne_true)
    · exact absurd h he.2
    · rw [h] at hl
      exact nomatch hl
  next => rfl

/-- A gang that an agent's death has ended goes back to its last image (R428). -/
theorem reviveGang_of_ended {m : Image} (he : g.ended = true) (hd : g.st ≠ .done) (hl : g.last = some m) :
    reviveGang t g = { modGang t g.id (fun g => { g with
        st := .imaged
        image := some m
        ended := false
        suspended := false }) with
      fibres := t.fibres.filter fun f => f.ident.gang != some g.id } := by
  have hst : (g.ended && g.st != .done) = true := by rw [he, Bool.true_and, bne_iff_ne]; exact hd
  simp only [reviveGang, hst, hl]
  rfl

end

theorem handleGang_begun (s : State) (u : Use) (h : Word) : handleGang (begun s u) h = handleGang s h := by
  rw [handleGang, begun_dist, handleGang]

/-- Settles O24, instruction by instruction. -/
theorem systemInstructions : Obligations.SystemInstructions := by
  unfold Obligations.SystemInstructions
  refine ⟨?nop, ?trap, ?hcall, ?tlbinv, ?cacheop, ?imgsave, ?imgload⟩
  case nop =>
    intro s y h
    rw [exec_nop]
    exact issue_done h rfl
  case trap =>
    intro s y n h
    rw [exec_trap]
    exact issue_trapAfter h rfl
  case hcall =>
    intro s y n h
    rw [exec_hcall]
    exact issue_trapAfter h rfl
  case tlbinv =>
    intro s y ga la mode scope u h hp
    have hm : maskOf (begun s u) (begun s u).fib.ident.tenant scope = maskOf s s.fib.ident.tenant scope := by
      rw [begun_fib_ident, onlyFibre_begun s u]
      rfl
    have he := tlbinvEff_of_performed (scope := scope) (m := maskOf s s.fib.ident.tenant scope) (all := mode == 1)
      (va := operand s u 0) ((allPerformed_begun s u).trans hp)
    rw [begun_fib_ident, begun_fib_core, ← hm] at he
    rw [exec_tlbinv, ← hm]
    exact issue_hold h he
  case cacheop =>
    intro s y ga la op a u b h ht
    rw [exec_cacheop]
    refine ⟨fun ho => issue_trap h (cacheopEff_of_outOfReach ht ho), fun ho hb => ?_⟩
    have he := cacheopEff_of_idle (op := op) ht ho hb
    rw [begun_fib_core] at he
    exact issue_done h he
  case imgsave =>
    intro s y ga la i u _ h hc
    have hx : exec i s = issue s u fun t v => imgsaveEff i t (arg v 0) := exec_imgsave y ga la s
    rw [hx]
    refine ⟨fun hg => ?_, fun g hg => ?_⟩
    · exact issue_done h (imgsaveEff_of_queued hc ((handleGang_begun s u _).trans hg))
    · have he := imgsaveEff_of_gang hc ((handleGang_begun s u _).trans hg)
      exact ⟨fun hs => issue_done h (he.trans (saveGang_of_done hs)), fun hs => issue_done h (he.trans (saveGang_of_imaged hs)),
        fun hd hi => issue_hold h (he.trans (saveGang_of_live hd hi))⟩
  case imgload =>
    intro s y ga la i u _ h hc
    have hx : exec i s = issue s u fun t v => imgloadEff i t (arg v 0) := exec_imgload y ga la s
    rw [hx]
    refine ⟨fun hg => ?_, fun g hg => ?_⟩
    · exact issue_done h (imgloadEff_of_queued hc ((handleGang_begun s u _).trans hg))
    · have he := imgloadEff_of_gang hc ((handleGang_begun s u _).trans hg)
      refine ⟨fun ha => issue_done h (he.trans (congrArg Eff.done (reviveGang_of_alive ha))), fun hd hs m hm => ?_⟩
      have hr := reviveGang_of_ended (t := begun s u) hd hs hm
      rw [begun_fibres] at hr
      exact issue_done h (he.trans (congrArg Eff.done hr))

/-- How KLOAD and KTURN use their fibre. -/
def keyUse (i : Instr) (y : Bool) (ops : List (Reg × Bool)) : Use :=
  { plainUse i y ops 0 with
    level := 2
    ctx := noHandler i
    fail := true }

/-- What KLOAD does once it has issued. -/
def kloadEff (rx : Bool) (t : State) (a : Word) : Eff :=
  if !aligned a 32 then .trap cALIGN a
  else readBlock 4 t a [] fun t ws =>
    let key := ws.flatMap fun w => leBytes 8 w.toNat
    if rx then .done (setPort t (ownPort t) (setRxIdle (portOf t (ownPort t)) (some key))) else keyEff t key

/-- What KTURN does once it has issued. -/
def kturnEff (i : Instr) (t : State) : Eff :=
  if (portOf t (ownPort t)).turning then .park (.turning true) t
  else if (txIdle (portOf t (ownPort t))).isNone then .trap cILLEGAL (wordVal i)
  else turnEff t

theorem exec_kload (y : Bool) (ga : Reg) (la rx : Bool) (s : State) : exec (.kload y ga la rx) s
    = issue s (keyUse (.kload y ga la rx) y [(ga, la)]) fun t v => kloadEff rx t (arg v 0) := rfl

theorem exec_kturn (y : Bool) (s : State) :
    exec (.kturn y) s = issue s (keyUse (.kturn y) y []) fun t _ => kturnEff (.kturn y) t := rfl

/-- Settles O33: each privileged instruction by the level that its use of the fibre names. -/
theorem privilegeChecks : Obligations.PrivilegeChecks := by
  unfold Obligations.PrivilegeChecks
  constructor
  · intro s i y ga la mode scope n hi hpl hf hp hw hy
    have hl : s.fib.pl.toNat < 1 := by rw [hpl]; decide
    obtain rfl | rfl | rfl | rfl | rfl := hi
    case inl => exact (exec_eret y s).trans (issue_of_privilege _ hy hf (fun h => nomatch h) hw hp hl)
    case inr.inl => exact (exec_hcall y n s).trans (issue_of_privilege _ hy hf (fun h => nomatch h) hw hp hl)
    case inr.inr.inl =>
      exact (exec_tlbinv y ga la mode scope s).trans (issue_of_privilege _ hy hf (fun h => nomatch h) hw hp hl)
    case inr.inr.inr.inl =>
      exact (exec_imgsave y ga la s).trans (issue_of_privilege _ hy hf (fun h => nomatch h) hw hp hl)
    case inr.inr.inr.inr =>
      exact (exec_imgload y ga la s).trans (issue_of_privilege _ hy hf (fun h => nomatch h) hw hp hl)
  · intro s i y ga la rx hi hg hl hf hp hw hy
    obtain rfl | rfl := hi
    case inl => exact (exec_kload y ga la rx s).trans (issue_of_privilege _ hy hf (fun _ => hg) hw hp hl)
    case inr => exact (exec_kturn y s).trans (issue_of_privilege _ hy hf (fun _ => hg) hw hp hl)

/-! MFS and MTS (R307, R303). -/

/-- How MTS uses its fibre. -/
def mtsUse (y : Bool) (ga : Reg) (la : Bool) (r : BitVec 6) : Use :=
  { plainUse (.mts y ga la r) y [(ga, la)] 0 with fail := decide (0x18 ≤ r.toNat) }

/-- What MTS of a value does once it has issued. -/
def mtsEff (i : Instr) (r : Nat) (t : State) (v : Word) : Eff :=
  match mtsCheck i t.fib r v with
  | some (c, x) => .trap c x
  | none =>
    if 0x18 ≤ r then setMask t (r - 0x18) v
    else .done { t with fib := sregWrite t.fib r v }

theorem exec_mfs (y : Bool) (gd : Reg) (r : BitVec 6) (s : State) : exec (.mfs y gd r) s = execMfs y gd r s := rfl

theorem exec_mts (y : Bool) (ga : Reg) (la : Bool) (r : BitVec 6) (s : State) : exec (.mts y ga la r) s
    = issue s (mtsUse y ga la r) fun t v => mtsEff (.mts y ga la r) r.toNat t (arg v 0) := rfl

section
variable {t : State} {i : Instr} {r n : Nat} {v : Word}

theorem mtsEff_of_refused {c : Nat} {x : Word} (hc : mtsCheck i t.fib r v = some (c, x)) : mtsEff i r t v = .trap c x := by
  simp only [mtsEff, hc]

theorem mtsEff_of_own (hc : mtsCheck i t.fib r v = none) (hr : r < 0x18) :
    mtsEff i r t v = .done { t with fib := sregWrite t.fib r v } := by
  simp only [mtsEff, hc, if_neg (Nat.not_le.mpr hr)]

theorem mtsEff_of_mask (hc : mtsCheck i t.fib r v = none) (hr : 0x18 ≤ r) : mtsEff i r t v = setMask t (r - 0x18) v := by
  simp only [mtsEff, hc, if_pos hr]

theorem setMask_of_performed (hp : allPerformed t t.fib.id = true) :
    setMask t n v = .hold (.mask n v) (releaseAt t t.fib.ident.tenant t.fib.core 4) := by
  simp only [setMask, hp, Bool.not_true, Bool.false_eq_true, if_false]

end

/-- Settles O25: a read, a refused write, a write of a fibre's own register, and that of a scope mask. -/
theorem specialRegisterMoves : Obligations.SpecialRegisterMoves := by
  unfold Obligations.SpecialRegisterMoves
  refine ⟨?mfs, ?mts⟩
  case mfs =>
    intro s y gd r u h
    rw [exec_mfs]
    exact issue_done h rfl
  case mts =>
    intro s y ga la r i u v h
    have hx : exec i s = issue s u fun t v => mtsEff i r.toNat t (arg v 0) := exec_mts y ga la r s
    rw [hx]
    refine ⟨fun c x hc => issue_trap h (mtsEff_of_refused hc), fun hc hr => issue_done h (mtsEff_of_own hc hr),
      fun hc hr hp => ?_⟩
    have he := setMask_of_performed (n := r.toNat - 0x18) (v := v) ((allPerformed_begun s u).trans hp)
    rw [begun_fib_ident, begun_fib_core] at he
    exact issue_hold h ((mtsEff_of_mask hc hr).trans he)

end Sys2Proof.Proofs

/-! Loads, stores, full/empty operations and atomics from their issue on (R291-R297, R410). -/

namespace Sys2Proof.Proofs

open Sys2Proof Sys2Proof.Machine Sys2Proof.Safety Sys2Proof.Laws

/-! An access that no earlier one holds back, by what it is. -/

section
variable {t : State} {r : Req} (d : Reg)

/-- A load or an atomic that nothing holds back makes its request (R162, R175). -/
theorem accessEff_load_of_free (hid : r.id = t.sched.nextId) (ho : owned t r.pa r.n = false) (hf : mustFollow t r = false) :
    accessEff t 0 r d = .done (doLoad t r d) := by
  have hr : { r with id := t.sched.nextId } = r := hid ▸ rfl
  simp only [accessEff, hr, ho, hf, Bool.false_eq_true, if_false]

theorem accessEff_store_of_free (hid : r.id = t.sched.nextId) (ho : owned t r.pa r.n = false) (hf : mustFollow t r = false) :
    accessEff t 1 r d = .done (doStore t r) := by
  have hr : { r with id := t.sched.nextId } = r := hid ▸ rfl
  simp only [accessEff, hr, ho, hf, Bool.false_eq_true, if_false]

/-- The same for one that may wait and has no result. -/
theorem accessEff_quiet_of_free (hid : r.id = t.sched.nextId) (ho : owned t r.pa r.n = false) (hf : mustFollow t r = false) :
    accessEff t 3 r d = doWait t r d false := by
  have hr : { r with id := t.sched.nextId } = r := hid ▸ rfl
  simp only [accessEff, hr, ho, hf, Bool.false_eq_true, if_false]

theorem doWait_of_refused {res : Bool} (hr : isRemote t r.pa = false) (ha : atIssue t r = true) (hp : performHere t r = .refused) :
    doWait t r d res = .hold (.req r.id) (queueReq t { r with refused := true } false) := by
  simp only [doWait, hr, ha, hp, Bool.false_eq_true, if_false, if_true]

theorem doWait_quiet_of_done {w : State} {v : Word} (hr : isRemote t r.pa = false) (ha : atIssue t r = true)
    (hp : performHere t r = .done w v) : doWait t r d false = .done w := by
  simp only [doWait, hr, ha, hp, Bool.false_eq_true, if_false, if_true]

theorem doWait_quiet_of_fail {w : State} {c : Nat} (hr : isRemote t r.pa = false) (ha : atIssue t r = true)
    (hp : performHere t r = .fail w c) : doWait t r d false = .done (setFailed w 0 c r.va) := by
  simp only [doWait, hr, ha, hp, Bool.false_eq_true, if_false, if_true]

theorem doWait_quiet_of_wait {w : State} (hr : isRemote t r.pa = false) (ha : atIssue t r = true) (hp : performHere t r = .wait w) :
    doWait t r d false = .hold (.req r.id) (queueReq w { r with arrived := true, place := r.id } false) := by
  simp only [doWait, hr, ha, hp, Bool.false_eq_true, if_false, if_true]

theorem doWait_quiet_of_queued (hr : isRemote t r.pa = false) (ha : atIssue t r = false) :
    doWait t r d false = .hold (.req r.id) (queueReq t r false) := by
  simp only [doWait, hr, ha, Bool.false_eq_true, if_false]

end

/-! The requests of loads, stores and atomics keep the address, the length and the number under every ORD and SCOPE (R158, R292). -/

section
variable (s : State) (r : Req) (pol ord place : BitVec 2) (scope : BitVec 4)

theorem loadOrd_keeps : (loadOrd s r pol ord scope).id = r.id ∧ (loadOrd s r pol ord scope).pa = r.pa
    ∧ (loadOrd s r pol ord scope).n = r.n := by
  unfold loadOrd
  split <;> exact ⟨rfl, rfl, rfl⟩

theorem storeOrd_keeps : (storeOrd s r pol ord scope).id = r.id ∧ (storeOrd s r pol ord scope).pa = r.pa
    ∧ (storeOrd s r pol ord scope).n = r.n := by
  unfold storeOrd
  split <;> exact ⟨rfl, rfl, rfl⟩

theorem atomicOrd_keeps : (atomicOrd s r place ord scope).id = r.id ∧ (atomicOrd s r place ord scope).pa = r.pa
    ∧ (atomicOrd s r place ord scope).n = r.n := by
  unfold atomicOrd
  split <;> exact ⟨rfl, rfl, rfl⟩

end

/-! Loads and stores that complete (R291, R292). -/

/-- How a load uses its fibre. -/
def loadUse (i : Instr) (y : Bool) (gd ga : Reg) (la : Bool) (ord : BitVec 2) : Use :=
  { plainUse i y [(ga, la)] gd with fail := ord != 0 }

/-- How a store uses its fibre. -/
def storeUse (i : Instr) (y : Bool) (gd ga : Reg) (la : Bool) (ord : BitVec 2) : Use :=
  { plainUse i y [(ga, la), (gd, false)] 0 with fail := ord != 0 }

section
variable {s : State} {i : Instr} {n : Nat} {y : Bool} {gd ga : Reg} {la : Bool} {pol ord : BitVec 2} {scope : BitVec 4}
  {off : BitVec 7} {a : Acc}

theorem loadN_of_accessible (h : Issues s (loadUse i y gd ga la ord))
    (ha : Accessible (begun s (loadUse i y gd ga la ord)) .load n (effAddr (operand s (loadUse i y gd ga la ord) 0) n off) (scOwn ord) a) :
    let t := touched (begun s (loadUse i y gd ga la ord)) a
    let r := loadOrd t (mkReq t .load 0 n a (effAddr (operand s (loadUse i y gd ga la ord) 0) n off)) pol ord scope
    mustFollow t r = false → loadN i n y gd ga la pol ord scope off s = .next (finished (loadUse i y gd ga la ord) (doLoad t r gd)) := by
  intro t r hf
  obtain ⟨hid, hpa, hn⟩ := loadOrd_keeps t (mkReq t .load 0 n a (effAddr (operand s (loadUse i y gd ga la ord) 0) n off)) pol ord scope
  have ho : owned t r.pa r.n = false := by
    rw [hpa, hn]
    exact (owned_touched _ a a.pa n).trans ha.free
  exact issue_done h ((access_of _ ha).trans (accessEff_load_of_free gd hid ho hf))

theorem storeN_of_accessible (h : Issues s (storeUse i y gd ga la ord))
    (ha : Accessible (begun s (storeUse i y gd ga la ord)) .store n (effAddr (operand s (storeUse i y gd ga la ord) 0) n off)
      (scOwn ord) a) :
    let t := touched (begun s (storeUse i y gd ga la ord)) a
    let r := storeOrd t { mkReq t .store 0 n a (effAddr (operand s (storeUse i y gd ga la ord) 0) n off) with
      data := operand s (storeUse i y gd ga la ord) 1 } pol ord scope
    mustFollow t r = false → storeN i n y gd ga la pol ord scope off s = .next (finished (storeUse i y gd ga la ord) (doStore t r)) := by
  intro t r hf
  obtain ⟨hid, hpa, hn⟩ := storeOrd_keeps t { mkReq t .store 0 n a (effAddr (operand s (storeUse i y gd ga la ord) 0) n off) with
    data := operand s (storeUse i y gd ga la ord) 1 } pol ord scope
  have ho : owned t r.pa r.n = false := by
    rw [hpa, hn]
    exact (owned_touched _ a a.pa n).trans ha.free
  exact issue_done h ((access_of _ ha).trans (accessEff_store_of_free 0 hid ho hf))

end

/-- Settles O13: every load and store goes through the one access of its length. -/
theorem loadsAndStoresComplete : Obligations.LoadsAndStoresComplete := by
  unfold Obligations.LoadsAndStoresComplete
  refine ⟨?ldb, ?ldh, ?ldw, ?ldd, ?stb, ?sth, ?stw, ?std⟩
  case ldb | ldh | ldw | ldd =>
    intro s y gd ga la pol ord scope off a i u ea t r h ha hf
    exact loadN_of_accessible h ha hf
  case stb | sth | stw | std =>
    intro s y gd ga la pol ord scope off a i u ea t r h ha hf
    exact storeN_of_accessible h ha hf

/-! The atomics (R295-R297). -/

/-- How an atomic uses its fibre. -/
def atomicUse (i : Instr) (y : Bool) (gd : Reg) (reads : List (Reg × Bool)) (place ord : BitVec 2) : Use :=
  { plainUse i y reads gd with fail := place == 3 || ord != 0 }

/-- An atomic goes through the access of its size, whatever its operation. -/
theorem atomics_of_exec {i : Instr} {op : Nat} {uns sz y : Bool} {gd : Reg} {reads : List (Reg × Bool)} {k m : Nat}
    {place ord : BitVec 2} {scope : BitVec 4} (hx : ∀ s, exec i s = atomic i op uns sz y gd reads k m place ord scope s) :
    Atomics i op uns sz y gd reads k m place ord scope := by
  intro s a n u ea t r h ha hf
  have hid : r.id = t.sched.nextId := (atomicOrd_keeps t _ ord place scope).1
  have hpa : r.pa = a.pa := (atomicOrd_keeps t _ ord place scope).2.1
  have hn : r.n = n := (atomicOrd_keeps t _ ord place scope).2.2
  have ho : owned t r.pa r.n = false := by
    rw [hpa, hn]
    exact (owned_touched _ a a.pa n).trans ha.free
  rw [hx]
  exact issue_done h ((access_of _ ha).trans (accessEff_load_of_free gd hid ho hf))

/-- Settles O19: each of the nine is an atomic with its operation. -/
theorem atomicsComplete : Obligations.AtomicsComplete := by
  intro y gd ga la gb lb place ord scope uns sz
  refine ⟨?_, ?_, ?_, ?_, ?_, ?_, ?_, ?_, ?_⟩ <;> exact atomics_of_exec fun _ => rfl

/-! The full/empty operations (R293) by the one operation with a result and the one without. -/

section
variable (y : Bool) (gd ga : Reg) (la full : Bool) (off : BitVec 7) (s : State)

theorem exec_ldf : exec (.ldf y gd ga la off) s = feLoad (.ldf y gd ga la off) 0 .load true y gd ga la off s := rfl

theorem exec_ldfe : exec (.ldfe y gd ga la off) s = feLoad (.ldfe y gd ga la off) 1 .atomic true y gd ga la off s := rfl

theorem exec_feq : exec (.feq y gd ga la off) s = feLoad (.feq y gd ga la off) 4 .load false y gd ga la off s := rfl

theorem exec_ste : exec (.ste y gd ga la off) s
    = feStore (.ste y gd ga la off) 2 false y [(ga, la), (gd, false)] off (fun v => arg v 1) s := rfl

theorem exec_stf : exec (.stf y gd ga la off) s
    = feStore (.stf y gd ga la off) 3 true y [(ga, la), (gd, false)] off (fun v => arg v 1) s := rfl

theorem exec_feset : exec (.feset y ga la full off) s
    = feStore (.feset y ga la full off) 5 full y [(ga, la)] off (fun _ => boolWord full) s := rfl

end

/-! A misaligned access (R410). -/

section
variable {s : State} {k : AccKind} {n : Nat} {ea : Word} (mig : Bool) (own : Acc → Option Nat) (go : State → Acc → Eff)

/-- Alignment is the first check of an access. -/
theorem accessIf_of_misaligned (h : ea.toNat % n ≠ 0) : accessIf mig s k n ea own go = .trap cALIGN ea := by
  have ha : aligned ea n = false := by
    rw [← Bool.not_eq_true, aligned_iff]
    exact h
  simp only [accessIf, ha, Bool.not_false, if_true]

end

section
variable {s : State} {i : Instr} {n op : Nat} {y : Bool} {gd ga : Reg} {la : Bool} {pol ord place : BitVec 2} {scope : BitVec 4}
  {off : BitVec 7}

theorem loadN_of_misaligned (h : Issues s (loadUse i y gd ga la ord))
    (hm : (effAddr (operand s (loadUse i y gd ga la ord) 0) n off).toNat % n ≠ 0) : loadN i n y gd ga la pol ord scope off s
      = .next (raise (atReads s y) cALIGN (effAddr (operand s (loadUse i y gd ga la ord) 0) n off)) :=
  issue_trap_uncounted h (accessIf_of_misaligned true _ _ hm) (by decide)

theorem storeN_of_misaligned (h : Issues s (storeUse i y gd ga la ord))
    (hm : (effAddr (operand s (storeUse i y gd ga la ord) 0) n off).toNat % n ≠ 0) : storeN i n y gd ga la pol ord scope off s
      = .next (raise (atReads s y) cALIGN (effAddr (operand s (storeUse i y gd ga la ord) 0) n off)) :=
  issue_trap_uncounted h (accessIf_of_misaligned true _ _ hm) (by decide)

theorem feLoad_of_misaligned {k : AccKind} {f : Bool} (h : Issues s { plainUse i y [(ga, la)] gd with fail := f })
    (hm : (effAddr (operand s { plainUse i y [(ga, la)] gd with fail := f } 0) 8 off).toNat % 8 ≠ 0) :
    feLoad i op k f y gd ga la off s
      = .next (raise (atReads s y) cALIGN (effAddr (operand s { plainUse i y [(ga, la)] gd with fail := f } 0) 8 off)) :=
  issue_trap_uncounted h (accessIf_of_misaligned false _ _ hm) (by decide)

theorem feStore_of_misaligned {reads : List (Reg × Bool)} {data : List Word → Word} {f : Bool}
    (h : Issues s { plainUse i y reads 0 with fail := f })
    (hm : (effAddr (operand s { plainUse i y reads 0 with fail := f } 0) 8 off).toNat % 8 ≠ 0) :
    feStore i op f y reads off data s
      = .next (raise (atReads s y) cALIGN (effAddr (operand s { plainUse i y reads 0 with fail := f } 0) 8 off)) :=
  issue_trap_uncounted h (accessIf_of_misaligned false _ _ hm) (by decide)

theorem atomic_of_misaligned {uns sz : Bool} {reads : List (Reg × Bool)} {k m : Nat} (h : Issues s (atomicUse i y gd reads place ord))
    (hm : (operand s (atomicUse i y gd reads place ord) 0).toNat % (if sz then 8 else 4) ≠ 0) :
    atomic i op uns sz y gd reads k m place ord scope s
      = .next (raise (atReads s y) cALIGN (operand s (atomicUse i y gd reads place ord) 0)) :=
  issue_trap_uncounted h (accessIf_of_misaligned true _ _ hm) (by decide)

end

/-- Settles O16: alignment is the first check of every access. -/
theorem misalignedAccess : Obligations.MisalignedAccess := by
  unfold Obligations.MisalignedAccess
  refine ⟨?plain, ?fullEmpty, ?atomics, ?waita⟩
  case plain =>
    intro s n i k reads y gd ga la pol ord scope off d hi
    obtain ⟨_, rfl, rfl, hi⟩ | ⟨_, rfl, rfl, hi⟩ := hi
    all_goals intro u ea h hm
    case inl =>
      obtain ⟨rfl, rfl⟩ | ⟨rfl, rfl⟩ | ⟨rfl, rfl⟩ := hi <;> exact loadN_of_misaligned h hm
    case inr =>
      obtain ⟨rfl, rfl⟩ | ⟨rfl, rfl⟩ | ⟨rfl, rfl⟩ := hi <;> exact storeN_of_misaligned h hm
  case fullEmpty =>
    intro s i reads d f y gd ga la off hi
    obtain ⟨rfl, rfl, ⟨rfl, rfl | rfl⟩ | ⟨rfl, rfl⟩⟩ | ⟨rfl, rfl, ⟨rfl, rfl⟩ | ⟨rfl, rfl⟩⟩ | ⟨rfl, rfl, rfl⟩ := hi
    all_goals intro u ea h hm
    case inl.inl.inl => exact (exec_ldf y d ga la off s).trans (feLoad_of_misaligned h hm)
    case inl.inl.inr => exact (exec_ldfe y d ga la off s).trans (feLoad_of_misaligned h hm)
    case inl.inr => exact (exec_feq y d ga la off s).trans (feLoad_of_misaligned h hm)
    case inr.inl.inl => exact (exec_ste y gd ga la off s).trans (feStore_of_misaligned h hm)
    case inr.inl.inr => exact (exec_stf y gd ga la off s).trans (feStore_of_misaligned h hm)
    case inr.inr => exact (exec_feset y ga la f off s).trans (feStore_of_misaligned h hm)
  case atomics =>
    intro s i reads y gd ga la gb lb place ord scope uns sz hi
    obtain ⟨rfl, rfl | rfl | rfl | rfl | rfl | rfl | rfl⟩ | ⟨rfl, rfl⟩ | ⟨rfl, rfl⟩ := hi
    all_goals
      intro u h hm
      exact atomic_of_misaligned h hm
  case waita =>
    intro s y gd ga la gb lb word4 i u h hm
    exact (exec_waita y gd ga la gb lb word4 s).trans
      (issue_trap_uncounted (u := u) (c := cALIGN) h (accessIf_of_misaligned false _ _ hm) (by decide))

/-! The full/empty operations at a word of this module (R144, R145, R293). -/

/-- The request of a full/empty operation with a result: an acquire at S where `acq` says so (R166). -/
def feLoadReq (t : State) (op : Nat) (a : Acc) (ea : Word) (acq : Bool) : Req :=
  withOrder t (mkReq t .feLoad op 8 a ea) (if acq then some (feScope t t.fib.core a.pa) else none) none false

/-- The request of one without a result: a release at S where `rel` says so. -/
def feStoreReq (t : State) (op : Nat) (a : Acc) (ea data : Word) (rel : Bool) : Req :=
  withOrder t { mkReq t .feStore op 8 a ea with data := data } none (if rel then some (feScope t t.fib.core a.pa) else none) false

/-- A release must follow the fibre's earlier accesses, another full/empty operation need not (R162). -/
theorem mustFollow_feStoreReq {t : State} {op : Nat} {a : Acc} {ea data : Word} {rel : Bool}
    (h : rel = true → allPerformed t t.fib.id = true) : mustFollow t (feStoreReq t op a ea data rel) = false := by
  cases rel
  case false => rfl
  case true =>
    have hs : mustFollow t (feStoreReq t op a ea data true) = (!allPerformed t t.fib.id || false) := rfl
    rw [hs, h rfl]
    rfl

section
variable {s : State} {i : Instr} {op : Nat} {y : Bool} {ga : Reg} {la : Bool} {off : BitVec 7} {a : Acc}

/-- A full/empty operation with a result goes to its word's home. -/
theorem feLoad_of_reachable {k : AccKind} {acq : Bool} {gd : Reg} (h : Issues s { plainUse i y [(ga, la)] gd with fail := acq })
    (hr : Reachable (begun s { plainUse i y [(ga, la)] gd with fail := acq }) k 8
      (effAddr (operand s { plainUse i y [(ga, la)] gd with fail := acq } 0) 8 off) onlySpad a) :
    let u := { plainUse i y [(ga, la)] gd with fail := acq }
    let t := touched (begun s u) a
    feLoad i op k acq y gd ga la off s = .next (carry (atReads s y) u
      (doWait t (feLoadReq t op a (effAddr (operand s u 0) 8 off) acq) gd true)) := by
  intro u t
  have ho : owned t a.pa 8 = false := (owned_touched _ a a.pa 8).trans hr.free
  rw [feLoad, issue_of s u _ h]
  exact next_eq (congrArg (carry (atReads s y) u) ((accessStay_of _ hr).trans
    (accessEff_of_free (r := feLoadReq t op a (effAddr (operand s u 0) 8 off) acq) gd rfl ho rfl)))

/-- One without a result goes there too, a release once the fibre's earlier accesses are performed. -/
theorem feStore_of_reachable {rel : Bool} {reads : List (Reg × Bool)} {data : List Word → Word}
    (h : Issues s { plainUse i y reads 0 with fail := rel })
    (hr : Reachable (begun s { plainUse i y reads 0 with fail := rel }) .store 8
      (effAddr (operand s { plainUse i y reads 0 with fail := rel } 0) 8 off) onlySpad a)
    (hp : rel = true → allPerformed s s.fib.id = true) :
    let u := { plainUse i y reads 0 with fail := rel }
    let t := touched (begun s u) a
    feStore i op rel y reads off data s = .next (carry (atReads s y) u
      (doWait t (feStoreReq t op a (effAddr (operand s u 0) 8 off) (data (operands s u)) rel) 0 false)) := by
  intro u t
  have ho : owned t a.pa 8 = false := (owned_touched _ a a.pa 8).trans hr.free
  have hpt : rel = true → allPerformed t t.fib.id = true := fun hrel => by
    rw [touched_fib, allPerformed_touched, allPerformed_begun, hp hrel]
  rw [feStore, issue_of s u _ h]
  exact next_eq (congrArg (carry (atReads s y) u) ((accessStay_of _ hr).trans
    (accessEff_quiet_of_free (r := feStoreReq t op a (effAddr (operand s u 0) 8 off) (data (operands s u)) rel) 0 rfl ho
      (mustFollow_feStoreReq hpt))))

end

/-- Settles O17: each operation goes to its word's home and has one of the outcomes there. -/
theorem fullEmptyOperations : Obligations.FullEmptyOperations := by
  unfold Obligations.FullEmptyOperations
  refine ⟨?loads, ?stores, ?pref⟩
  case loads =>
    intro s i op k acq y gd ga la off a hi u ea t r h hr hh
    have hrt : isRemote t r.pa = false := isRemote_touched_begun hh
    have he : exec i s = .next (carry (atReads s y) u (doWait t r gd true)) := by
      obtain ⟨rfl, rfl, rfl, rfl⟩ | ⟨rfl, rfl, rfl, rfl⟩ | ⟨rfl, rfl, rfl, rfl⟩ := hi
      · exact (exec_ldf y gd ga la off s).trans (feLoad_of_reachable h hr)
      · exact (exec_ldfe y gd ga la off s).trans (feLoad_of_reachable h hr)
      · exact (exec_feq y gd ga la off s).trans (feLoad_of_reachable h hr)
    refine ⟨fun w v ha hd => ?done, fun w c ha hf => ?fail, fun w ha hw => ?wait, fun ha hf => ?refused, fun ha => ?queued⟩
    case done =>
      rw [he, doWait_of_done gd hrt ha hd]
      rfl
    case fail =>
      rw [he, doWait_of_fail gd hrt ha hf]
      rfl
    case wait =>
      rw [he, doWait_of_wait gd hrt ha hw]
      rfl
    case refused =>
      rw [he, doWait_of_refused gd hrt ha hf]
      rfl
    case queued =>
      rw [he, doWait_of_queued gd hrt ha]
      rfl
  case stores =>
    intro s i op rel y reads data off a gd ga la u hi ea t r h hr hh hp
    have hrt : isRemote t r.pa = false := isRemote_touched_begun hh
    have he : exec i s = .next (carry (atReads s y) u (doWait t r 0 false)) := by
      obtain ⟨rfl, rfl, rfl, rfl, rfl⟩ | ⟨rfl, rfl, rfl, rfl, rfl⟩ | ⟨rfl, rfl, rfl, rfl⟩ := hi
      · exact (exec_ste y gd ga la off s).trans (feStore_of_reachable h hr hp)
      · exact (exec_stf y gd ga la off s).trans (feStore_of_reachable h hr hp)
      · exact (exec_feset y ga la rel off s).trans (feStore_of_reachable h hr hp)
    refine ⟨fun w v ha hd => ?done, fun w c ha hf => ?fail, fun w ha hw => ?wait, fun ha hf => ?refused, fun ha => ?queued⟩
    case done =>
      rw [he, doWait_quiet_of_done 0 hrt ha hd]
      rfl
    case fail =>
      rw [he, doWait_quiet_of_fail 0 hrt ha hf]
      rfl
    case wait =>
      rw [he, doWait_quiet_of_wait 0 hrt ha hw]
      rfl
    case refused =>
      rw [he, doWait_of_refused 0 hrt ha hf]
      rfl
    case queued =>
      rw [he, doWait_quiet_of_queued 0 hrt ha]
      rfl
  case pref =>
    intro s y ga la pol off u h
    have hx : exec (.pref y ga la pol off) s = issue s u fun t _ => .done t := rfl
    rw [hx]
    exact issue_done h rfl

end Sys2Proof.Proofs

/-! The frame of a load under a policy that writes its line back (R134, R138, R422). -/

namespace Sys2Proof.Proofs

open Sys2Proof Sys2Proof.Machine Sys2Proof.Safety Sys2Proof.Laws

/-! A load of one word of a self-invalidating line while another of its words stands in the core's L1, dirty and poisoned. -/

/-- The switch memory byte that virtual address 0x50000 names. -/
def cachedPa : Nat := 2 * 2 ^ 53 + 0x50000

/-- A core at monitor level whose TLB holds a page of self-invalidating switch memory, with a dirty byte in its L1 whose word is
poisoned and home storage that is not. -/
def cachedState : State :=
  { State.reset with
    fib := { State.reset.fib with
      pl := 2
      live := 2
      regs := State.reset.fib.regs.set 1 0x50000 }
    ms := { State.reset.ms with
      tlb := [⟨0, 16, 5, 16, BitVec.ofNat 64 (cachedPa + 2 ^ 9 + 2 ^ 6 + 2 ^ 2 + 2)⟩]
      copies := [⟨0, cachedPa + 8, 7, true, true⟩] } }

/-- A load of the word before it, which leaves no copy of its line. -/
def cachedLoad : Instr := .ldd false 5 1 false 3 0 0 0

def cachedUse : Use := plainUse cachedLoad false [(1, false)] 5

/-- The address as that page gives it. -/
def cachedAcc : Acc := ⟨cachedPa, 1, 0, 1, false, 5, 16, BitVec.ofNat 64 (cachedPa + 2 ^ 9 + 2 ^ 6 + 2 ^ 2 + 2)⟩

/-- The poison marks of home storage after an instruction that completes. -/
def marksAfter (i : Instr) (s : State) : List Nat :=
  match exec i s with
  | .next t => t.ms.poison
  | _ => []

theorem next_of_marksAfter {i : Instr} {s : State} {w : Nat} (h : marksAfter i s = [w]) :
    ∃ t, exec i s = .next t ∧ t.ms.poison = [w] := by
  unfold marksAfter at h
  split at h
  next t ht => exact ⟨t, ht, h⟩
  next => cases h

theorem issues_cachedUse : Issues cachedState cachedUse where
  results := fun h => nomatch h
  noFailure := .inl rfl
  engine := fun h => nomatch h
  admitted := by decide +kernel
  takesPrefix := fun h => nomatch h
  level := by decide +kernel
  context := by decide +kernel
  reads := by
    intro k r h
    match k, h with
    | 0, h =>
      obtain rfl : (1, false) = r := Option.some.inj h
      decide +kernel
  dest := by decide +kernel

theorem accessible_cachedAcc : Accessible (begun cachedState cachedUse) .load 8
    (operand cachedState cachedUse 0 + BitVec.ofNat 64 8 * (0 : BitVec 7).signExtend 64) noOwn cachedAcc where
  inPlace := by decide +kernel
  noWalk := by decide +kernel
  translated := by decide +kernel
  owns := rfl
  reach := by decide +kernel
  attrs := by decide +kernel
  free := by decide +kernel
  stays := by decide +kernel

/-- The load writes the line back, and the mark of the other word goes home with its byte. -/
theorem marksAfter_cachedLoad : marksAfter cachedLoad cachedState = [cachedPa / 8 + 1] := by decide +kernel

/-- Refutes O15: a plain load with POL 3 first writes its line's dirty copies back, and a poisoned one marks its word at home (R422),
so home storage's poison marks change. -/
theorem not_loadAndStoreFrames : ¬ Obligations.LoadAndStoreFrames := by
  unfold Obligations.LoadAndStoreFrames
  rintro ⟨-, hload⟩
  obtain ⟨t, ht, hmark⟩ := next_of_marksAfter marksAfter_cachedLoad
  have hcanon : Canonical cachedState := by unfold Canonical; decide +kernel
  obtain ⟨-, -, hpoison, -⟩ := hload cachedState t 8 cachedLoad false 5 1 false 3 0 cachedAcc (.inr (.inr (.inr ⟨rfl, rfl⟩))) hcanon
    issues_cachedUse accessible_cachedAcc (by decide +kernel) ht
  have hclean : cachedState.ms.poison = [] := rfl
  rw [hmark, hclean] at hpoison
  cases hpoison

end Sys2Proof.Proofs

/-! What loads, stores and atomics do at their homes (R291, R295-R297). -/

namespace Sys2Proof.Proofs

open Sys2Proof Sys2Proof.Machine Sys2Proof.Safety Sys2Proof.Laws

/-! The new value of an atomic (R296). -/

/-- An operand as two's complement: the upper half of its values is negative. -/
theorem signedN_eq {n v : Nat} (hn : n = 4 ∨ n = 8) (hv : v < 2 ^ (8 * n)) :
    signedN n v = if v < 2 ^ (8 * n - 1) then (v : Int) else (v : Int) - 2 ^ (8 * n) := by
  have hneg : signedN n v = if nb v (8 * n - 1) then (v : Int) - (2 ^ (8 * n) : Nat) else v := by
    simp only [signedN, decInt, Nat.mod_eq_of_lt hv, Bool.true_and]
  have htop : nb v (8 * n - 1) = true ↔ ¬v < 2 ^ (8 * n - 1) := by
    obtain rfl | rfl := hn <;> rw [nb, beq_iff_eq] <;> omega
  rw [hneg]
  by_cases h : v < 2 ^ (8 * n - 1)
  · rw [if_pos h, if_neg (fun k => htop.mp k h)]
  · rw [if_neg h, if_pos (htop.mpr h)]
    push_cast
    rfl

/-- Settles O20: the operations by their numbers, signed comparisons by `signedN_eq`. -/
theorem atomicNewValues : Obligations.AtomicNewValues := by
  intro n old b e uns hn hold hb sg less
  have hsg : ∀ v, v < 2 ^ (8 * n) → signedN n v = sg v := fun v hv => signedN_eq hn hv
  have hless : (if uns then decide (old < b) else decide (signedN n old < signedN n b)) = decide less := by
    rw [hsg old hold, hsg b hb]
    cases uns <;> rfl
  refine ⟨rfl, fun h => ⟨?min, ?max⟩, fun h => ⟨?minNot, ?maxNot⟩, rfl, rfl, rfl, rfl, ?adecp, rfl⟩
  case min | max =>
    simp only [atomicNew, hless, decide_eq_true h, if_true]
  case minNot | maxNot =>
    simp only [atomicNew, hless, decide_eq_false h, Bool.false_eq_true, if_false]
  case adecp =>
    simp only [atomicNew, hsg old hold, gt_iff_lt]

/-! The parts of the state that clocks, timestamps and records of lines leave alone. -/

/-- Everything that a program can see but the timestamps is the same: the fibres, the devices, memory with its bits and marks, the copies
and the requests. -/
structure SameStore (s t : State) : Prop where
  fib : t.fib = s.fib
  fibres : t.fibres = s.fibres
  dev : t.dev = s.dev
  mem : t.ms.mem = s.ms.mem
  full : t.ms.full = s.ms.full
  poison : t.ms.poison = s.ms.poison
  copies : t.ms.copies = s.ms.copies
  reqs : t.ms.reqs = s.ms.reqs

namespace SameStore

theorem refl (s : State) : SameStore s s := ⟨rfl, rfl, rfl, rfl, rfl, rfl, rfl, rfl⟩

theorem trans {s t u : State} (h : SameStore s t) (k : SameStore t u) : SameStore s u :=
  ⟨k.fib.trans h.fib, k.fibres.trans h.fibres, k.dev.trans h.dev, k.mem.trans h.mem, k.full.trans h.full, k.poison.trans h.poison,
    k.copies.trans h.copies, k.reqs.trans h.reqs⟩

end SameStore

theorem sameStore_raiseClock (s : State) (u c : Nat) : SameStore s (raiseClock s u c) := by
  unfold raiseClock
  split <;> exact ⟨rfl, rfl, rfl, rfl, rfl, rfl, rfl, rfl⟩

theorem sameStore_exchange (s : State) (a b : Nat) : SameStore s (exchange s a b) := by
  unfold exchange
  split
  · exact .refl s
  · exact (sameStore_raiseClock s _ _).trans (sameStore_raiseClock _ _ _)

theorem sameStore_setTs (s : State) (k : Nat) (t : LineTs) : SameStore s (setTs s k t) := ⟨rfl, rfl, rfl, rfl, rfl, rfl, rfl, rfl⟩

theorem sameStore_backTs (s : State) (r : Req) (ts : Nat) : SameStore s (backTs s r ts) := by
  unfold backTs
  split
  · exact sameStore_raiseClock s _ _
  · exact .refl s

theorem sameStore_stampStore (s : State) (r : Req) : SameStore s (stampStore s r) :=
  (sameStore_setTs s _ _).trans (sameStore_backTs _ _ _)

theorem sameStore_noteOwner (s : State) (r : Req) (own : Bool) : SameStore s (noteOwner s r own) :=
  ⟨rfl, rfl, rfl, rfl, rfl, rfl, rfl, rfl⟩

theorem sameStore_noteAttrs (s : State) (cp gr : BitVec 2) (pa : Nat) : SameStore s (noteAttrs s cp gr pa) := by
  unfold noteAttrs
  split
  · exact .refl s
  · dsimp only
    split <;> exact ⟨rfl, rfl, rfl, rfl, rfl, rfl, rfl, rfl⟩

/-- A request that comes to its home there, with the home's record of its line. -/
theorem sameStore_arrive (s : State) (r : Req) (own : Bool) (h : Nat) :
    SameStore s (exchange (noteOwner (noteAttrs s r.cp r.gr r.pa) r own) r.core h) :=
  ((sameStore_noteAttrs s _ _ _).trans (sameStore_noteOwner _ r own)).trans (sameStore_exchange _ _ _)

/-- What a store leaves beside the bytes stored, and what it leaves of them. -/
theorem SameStore.wrote {s t u : State} {pa n v : Nat} (h : SameStore s t) (k : SameStore (wrHome t pa n v) u) :
    u.ms.mem = mwr s.ms.mem pa n v ∧ u.fib = s.fib ∧ u.fibres = s.fibres ∧ u.dev = s.dev ∧ u.ms.full = s.ms.full
      ∧ u.ms.reqs = s.ms.reqs := by
  refine ⟨?_, k.fib.trans h.fib, k.fibres.trans h.fibres, k.dev.trans h.dev, k.full.trans h.full, k.reqs.trans h.reqs⟩
  rw [k.mem, wrHome, h.mem]

/-! A request at home storage of this module (R137, R154). -/

section
variable {s : State} {r : Req}

theorem atHome_near (h : AtHome s r) : isRemote s r.pa = false := by
  obtain ⟨ha, -⟩ := h
  simp only [atIssue, Bool.and_eq_true, Bool.not_eq_true'] at ha
  exact ha.2

theorem atHome_own (h : AtHome s r) : isOwnMem s r.pa = true := by
  obtain ⟨-, -, hown, -⟩ := h
  exact hown

theorem atHome_issues (h : AtHome s r) : atIssue s r = true := by
  obtain ⟨ha, -⟩ := h
  exact ha

/-- Home storage is no target: pooled memory, switch memory or a scratchpad. -/
theorem regionOf_of_own (h : isOwnMem s r.pa = true) : regionOf r.pa ≠ 5 ∧ regionOf r.pa ≠ 4 := by
  simp only [isOwnMem, Bool.or_eq_true, beq_iff_eq, Bool.and_eq_true] at h
  omega

/-- The request as its home sees it, with its core's clock (R167). -/
def clocked (s : State) (r : Req) : Req := if r.fib = 0 then r else { r with clock := BitVec.ofNat 64 (clockOf s r.core) }

theorem clocked_eq (s : State) (r : Req) : ∃ c, clocked s r = { r with clock := c } := by
  unfold clocked
  split
  · exact ⟨r.clock, rfl⟩
  · exact ⟨_, rfl⟩

/-- A plain request does nothing before it leaves its core. -/
theorem atHome_relEffect_eq (h : AtHome s r) : relEffect s r = s := by
  obtain ⟨-, -, -, -, -, -, hsc, -, hrel⟩ := h
  simp only [relEffect, hsc, hrel, Bool.false_and, Bool.false_eq_true, if_false]

theorem atHome_acqEffect_eq (h : AtHome s r) (t : State) (c : Word) : acqEffect t { r with clock := c } = t := by
  obtain ⟨-, -, -, -, -, -, -, hacq, -⟩ := h
  simp only [acqEffect, hacq]

/-- A request at home storage that is not lost is performed there, as its kind says. -/
theorem atHome_performHere (h : AtHome s r) : performHere s r = match r.kind with
    | .load => if readsPoison s (clocked s r) then .fail s cPOISON
      else .done (performLoad s (clocked s r)).1 (wordN r.n (performLoad s (clocked s r)).2)
    | .store => .done (performStore s (clocked s r)) 0
    | _ => performHere s r := by
  obtain ⟨hr5, hr4⟩ := regionOf_of_own (atHome_own h)
  have hrel := atHome_relEffect_eq h
  have hacq := atHome_acqEffect_eq h
  obtain ⟨-, -, -, hlost, hgone, -⟩ := h
  obtain ⟨c, hc⟩ := clocked_eq s r
  have hpa : (clocked s r).pa = r.pa := by rw [hc]
  have hn : (clocked s r).n = r.n := by rw [hc]
  have hkind : (clocked s r).kind = r.kind := by rw [hc]
  have hgone' : windowGone s (clocked s r) = false := by
    rw [hc]
    exact hgone
  have hacq' (t : State) : acqEffect t (clocked s r) = t := by rw [hc, hacq]
  have hperf : performHere s r = _ := rfl
  conv at hperf =>
    rhs
    unfold performHere
    rw [hrel]
  dsimp only at hperf
  rw [show (if r.fib = 0 then r else { r with clock := BitVec.ofNat 64 (clockOf s r.core) }) = clocked s r from rfl] at hperf
  simp only [hpa, hn, hkind, hr5, hr4, hgone', hlost, hacq', and_false, if_false, Bool.false_eq_true] at hperf
  split
  next hk => rw [hperf, hk]
  next hk => rw [hperf, hk]
  next => rfl

/-- A load at its home that meets no poison gives its value. -/
theorem atHome_performHere_load (h : AtHome s r) (hk : r.kind = .load) (hp : poisoned s r.pa r.n = false) :
    performHere s r = .done (performLoad s (clocked s r)).1 (wordN r.n (performLoad s (clocked s r)).2) := by
  have hread : readsPoison s (clocked s r) = false := by
    obtain ⟨-, -, -, -, -, hcp, -⟩ := h
    obtain ⟨c, hc⟩ := clocked_eq s r
    have hcp' : s.ms.copies.isEmpty = true ∨ r.cp ≠ 1 ∨ regionOf r.pa = 3 := hcp.elim (fun k => .inr (.inr k)) (fun k => .inr (.inl k))
    rw [hc]
    simp only [readsPoison, meetsPoison, if_pos hcp', hp, Bool.and_false]
  simp only [atHome_performHere h, hk, hread, Bool.false_eq_true, if_false]

theorem atHome_performHere_store (h : AtHome s r) (hk : r.kind = .store) :
    performHere s r = .done (performStore s (clocked s r)) 0 := by
  rw [atHome_performHere h, hk]

/-- A load on the module uses no lease, and is performed at issue. -/
theorem doLoad_of_done {d : Reg} {t : State} {v : Word} (hr : isRemote s r.pa = false) (ha : atIssue s r = true)
    (hp : performHere s r = .done t v) : doLoad s r d = setLong t d v 0 := by
  have hd : dropLease s r = s := by simp only [dropLease, hr, Bool.false_eq_true, false_and, if_false]
  simp only [doLoad, hr, hd, ha, hp, Bool.false_and, Bool.false_eq_true, if_false, if_true]

theorem doStore_of_done {t : State} {v : Word} (hr : isRemote s r.pa = false) (ha : atIssue s r = true)
    (hp : performHere s r = .done t v) : doStore s r = t := by
  have hd : dropLease s r = s := by simp only [dropLease, hr, Bool.false_eq_true, false_and, if_false]
  simp only [doStore, hr, hd, ha, hp, Bool.false_eq_true, if_false, if_true]

/-- A plain load at its home, where no copies of its line are kept, reads home storage. -/
theorem performLoad_of_plain (hpa : r.pa < 2 ^ 56) (hcp : regionOf r.pa = 3 ∨ r.cp ≠ 1) (hsc : r.sc = false) :
    SameStore s (performLoad s r).1 ∧ (performLoad s r).2 = mrd s.ms.mem r.pa r.n := by
  have hlow : ¬2 ^ 56 ≤ r.pa := by omega
  unfold performLoad
  by_cases h3 : regionOf r.pa = 3
  · simp only [if_neg hlow, if_pos h3, hsc, Bool.false_eq_true, if_false]
    have he := sameStore_exchange s r.core (spadCore r.pa)
    exact ⟨he, by rw [he.mem]⟩
  · simp only [if_neg hlow, if_neg h3, hsc, Bool.false_eq_true, if_false, if_neg (hcp.resolve_left h3)]
    have he := sameStore_arrive s r false (homeUnit s r.pa)
    exact ⟨he, by rw [he.mem]⟩

/-- A plain store at its home, where no copies of its line are kept, writes home storage. -/
theorem performStore_of_plain (hcp : regionOf r.pa = 3 ∨ r.cp ≠ 1) (hsc : r.sc = false) :
    ∃ t, SameStore s t ∧ SameStore (wrHome t r.pa r.n r.data.toNat) (performStore s r) := by
  unfold performStore
  by_cases h3 : regionOf r.pa = 3
  · rw [if_pos h3]
    exact ⟨_, sameStore_exchange s r.core (spadCore r.pa), sameStore_stampStore _ r⟩
  · simp only [if_neg h3, hsc, Bool.false_eq_true, if_false, if_neg (hcp.resolve_left h3)]
    refine ⟨_, sameStore_arrive s r true (homeUnit s r.pa), ?_⟩
    split
    · exact sameStore_stampStore _ r
    · exact .refl _

/-- An atomic at its home in a scratchpad gives the old value. -/
theorem performAtomic_value (h3 : regionOf r.pa = 3) : (performAtomic s r).2 = mrd s.ms.mem r.pa r.n := by
  simp only [performAtomic, if_pos h3, (sameStore_exchange s r.core (spadCore r.pa)).mem]

/-- The state once an atomic has come to its scratchpad and, an .sc one, read there (R168). -/
def atomicRead (s : State) (r : Req) : State :=
  let t := exchange s r.core (spadCore r.pa)
  if r.sc then (scLoadTs t (lineKey r.gr r.pa) r.clock.toNat).2 else t

theorem sameStore_atomicRead (s : State) (r : Req) : SameStore s (atomicRead s r) := by
  have he := sameStore_exchange s r.core (spadCore r.pa)
  unfold atomicRead
  dsimp only
  split
  · exact he.trans (sameStore_setTs _ _ _)
  · exact he

/-- What an atomic writes at its home in a scratchpad. -/
def atomicValue (s : State) (r : Req) : Option Nat :=
  atomicNew r.op r.uns r.n (mrd s.ms.mem r.pa r.n) (r.data.toNat % 2 ^ (8 * r.n)) (r.expect.toNat % 2 ^ (8 * r.n))

theorem performAtomic_of_new {v : Nat} (h3 : regionOf r.pa = 3) (hv : atomicValue s r = some v) :
    (performAtomic s r).1 = stampStore { atomicRead s r with ms := { (atomicRead s r).ms with
      mem := mwr (atomicRead s r).ms.mem r.pa r.n v } } r := by
  unfold atomicValue at hv
  simp only [performAtomic, h3, if_true, true_or, or_true, (sameStore_exchange s r.core (spadCore r.pa)).mem, hv]
  rfl

theorem performAtomic_of_none (h3 : regionOf r.pa = 3) (hv : atomicValue s r = none) :
    SameStore s (performAtomic s r).1 := by
  have hr := sameStore_atomicRead s r
  unfold atomicRead at hr
  unfold atomicValue at hv
  simp only [performAtomic, h3, if_true, (sameStore_exchange s r.core (spadCore r.pa)).mem, hv]
  split
  · exact hr.trans (sameStore_stampStore _ r)
  · exact hr

end

/-- Bytes written read as written, and the others as before. -/
theorem SameMemoryBut_of_mwr {s t : State} {a n v : Nat} (h : Canonical s) (ht : t.ms.mem = mwr s.ms.mem a n v) :
    SameMemoryBut s t a n := by
  intro b hb
  rw [ht, mget_mwr_other _ _ _ _ _ h hb]

/-- Settles O21: an atomic with a new value writes it, and one without leaves memory alone. -/
theorem atomicAtHome : Obligations.AtomicAtHome := by
  intro s r hc h3 old q
  have hval : q.2 = old := performAtomic_value h3
  cases hv : atomicValue s r with
  | some v =>
    have hr := sameStore_atomicRead s r
    have hw := sameStore_stampStore { atomicRead s r with ms := { (atomicRead s r).ms with
      mem := mwr (atomicRead s r).ms.mem r.pa r.n v } } r
    rw [← performAtomic_of_new h3 hv] at hw
    have hm : q.1.ms.mem = mwr s.ms.mem r.pa r.n v := hw.mem.trans (congrArg (fun m => mwr m r.pa r.n v) hr.mem)
    refine ⟨hval, SameMemoryBut_of_mwr hc hm, hw.full.trans hr.full, hw.fib.trans hr.fib, ?_⟩
    rw [show atomicNew r.op r.uns r.n old (r.data.toNat % 2 ^ (8 * r.n)) (r.expect.toNat % 2 ^ (8 * r.n)) = some v from hv]
    exact (congrArg (fun m => mrd m r.pa r.n) hm).trans (mrd_mwr_same _ _ _ _ hc)
  | none =>
    have hr := performAtomic_of_none h3 hv
    refine ⟨hval, fun b _ => congrArg (fun m => mget m b) hr.mem, hr.full, hr.fib, ?_⟩
    rw [show atomicNew r.op r.uns r.n old (r.data.toNat % 2 ^ (8 * r.n)) (r.expect.toNat % 2 ^ (8 * r.n)) = none from hv]
    exact hr.mem

theorem mrd_lt (m : List Host.Cell) (a n : Nat) : mrd m a n < 2 ^ (8 * n) := by
  induction n generalizing a with
  | zero => exact Nat.one_pos
  | succ n ih =>
    have hb := (mget m a).isLt
    have hp : 2 ^ (8 * (n + 1)) = 256 * 2 ^ (8 * n) := by rw [Nat.mul_succ, Nat.pow_add, Nat.mul_comm]
    have := ih (a + 1)
    rw [mrd, hp]
    omega

/-- A load's value is its bytes: nothing is cut off. -/
theorem wordN_mrd (m : List Host.Cell) (a n : Nat) : wordN n (mrd m a n) = BitVec.ofNat 64 (mrd m a n) := by
  rw [wordN, Nat.mod_eq_of_lt (mrd_lt m a n)]

/-- Settles O14: a load and a store performed at issue at home storage. -/
theorem homeAccessEffects : Obligations.HomeAccessEffects := by
  unfold Obligations.HomeAccessEffects
  refine ⟨?load, ?store⟩
  case load =>
    intro s r d h hk hn hp
    have hpl := atHome_performHere_load h hk hp
    obtain ⟨c, hc⟩ := clocked_eq s r
    rw [hc] at hpl
    obtain ⟨-, hpa, -, -, -, hcp, hsc, -⟩ := id h
    obtain ⟨hs, hv⟩ := performLoad_of_plain (s := s) (r := { r with clock := c }) hpa hcp hsc
    rw [hv, wordN_mrd] at hpl
    exact ⟨_, doLoad_of_done (atHome_near h) (atHome_issues h) hpl, hs.fib, hs.fibres, hs.dev, hs.mem, hs.full, hs.poison⟩
  case store =>
    intro s r hcanon h hk
    have hps := atHome_performHere_store h hk
    obtain ⟨c, hc⟩ := clocked_eq s r
    rw [hc] at hps
    obtain ⟨-, -, -, -, -, hcp, hsc, -⟩ := id h
    obtain ⟨t, ht, hw⟩ := performStore_of_plain (s := s) (r := { r with clock := c }) hcp hsc
    obtain ⟨hm, hfib, hfibres, hdev, hfull, hreqs⟩ := ht.wrote hw
    rw [doStore_of_done (atHome_near h) (atHome_issues h) hps]
    refine ⟨?_, SameMemoryBut_of_mwr hcanon hm, hfib, hfibres, hdev, hfull, hreqs⟩
    rw [hm, mrd_mwr_same _ _ _ _ hcanon, Nat.pow_mul]

end Sys2Proof.Proofs

/-! The vector instructions (R312-R315, R319-R330). -/

namespace Sys2Proof.Proofs

open Sys2Proof Sys2Proof.Machine Sys2Proof.Safety Sys2Proof.Laws

/-! Where a vector instruction's conditions hold, it is ready. -/

/-- Checks that all hold fail nowhere. -/
theorem firstFail_none {l : List (Bool × Nat × Nat)} (h : ∀ x ∈ l, x.1 = true) : firstFail l = none := by
  have hf : (l.find? fun x => !x.1) = none := List.find?_eq_none.mpr fun x hx => by simp [h x hx]
  rw [firstFail, hf]
  rfl

theorem vecReady_of_ready {s : State} {op : VOp} {p : VPlan} (h : VectorReady s op p) : vecReady s op = .ok p := by
  obtain ⟨hnames, hfull, hchecks, hunread, hunowned, hperf, hunit⟩ := h
  have h1 : ((planTiles p).find? fun t => teState t.tile.ent != 2) = none :=
    List.find?_eq_none.mpr fun t ht => by simp [hfull t ht]
  have h2 : firstFail (vecFormats op p ++ vecShapes op p) = none := firstFail_none hchecks
  have h3 : ((planWrites p).find? fun t => matrixReads s s.fib.core t.idx || copyReads s s.fib.core t.tile (rowLen p t)) = none :=
    List.find?_eq_none.mpr fun t ht => by simp [hunread t ht]
  have h4 : ((planTiles p).any fun t => tileOwned s t.tile (rowLen p t)) = false :=
    List.any_eq_false.mpr fun t ht => by simp [hunowned t ht]
  simp only [vecReady, hnames, h1, h2, h3, h4, hperf, hunit, List.isEmpty_nil, Bool.not_true, Bool.false_eq_true, if_false]

/-- Every vector instruction, and BARQ, is the one instruction of its function. -/
theorem exec_of_vecOp {i : Instr} {op : VOp} (s : State) (h : vecOp i = some op) : exec i s = vecExec i (tileMarker i) op s := by
  unfold vecOp at h
  split at h
  case h_34 => cases h
  all_goals
    cases h
    rfl

/-- What a vector instruction raises is poison or an index out of range, never WINDOW. -/
theorem vecTrap_uncounted {s : State} {f : Fibre} {op : VOp} {p : VPlan} {k : Nat} {v : Word} (h : vecTrap s f op p = some (k, v)) :
    k ≠ cWINDOW := by
  unfold vecTrap at h
  split at h
  · cases h
    decide
  · split at h
    · cases h
      decide
    · cases h

/-- How a vector instruction uses its fibre. -/
def vecUse (i : Instr) : Use := { plainUse i (tileMarker i) [] 0 with pfxOk := true }

/-- What a vector instruction that is ready does once it has issued. -/
def vecEff (i : Instr) (op : VOp) (p : VPlan) (t : State) : Eff :=
  let c := coreOf t t.fib.core
  if t.sched.defer then
    .hold .vector (setCore t t.fib.core { c with vec := c.vec ++ [⟨t.fib.id, i, pendingPfx t.fib, p.d.tile.base,
      (planTiles p).foldl (fun e r => tset e r.num r.tile.ent) [], c.book⟩] })
  else match vecTrap t t.fib op p with
    | some (k, v) => .trap k v
    | none => .done { vecWrite t p (vecOut t op p c.book) with
      fib := orFlags (vecWrite t p (vecOut t op p c.book)).fib (vecOut t op p c.book).flags }

section
variable {i : Instr} {op : VOp} {s : State} {p : VPlan}

theorem vecExec_eq (i : Instr) (op : VOp) (s : State) : vecExec i (tileMarker i) op s = issue s (vecUse i) fun t _ =>
    match vecReady t op with
    | .error e => e
    | .ok p => vecEff i op p t := rfl

theorem exec_vector (hi : vecOp i = some op) (h : Issues s (vecUse i)) (hr : VectorReady (begun s (vecUse i)) op p) :
    exec i s = .next (carry (atReads s (vecUse i).y) (vecUse i) (vecEff i op p (begun s (vecUse i)))) := by
  rw [exec_of_vecOp s hi, vecExec_eq, issue_of s (vecUse i) _ h, vecReady_of_ready hr]

theorem vecEff_of_clear {t : State} (hd : t.sched.defer = false) (ht : vecTrap t t.fib op p = none) :
    let o := vecOut t op p (coreOf t t.fib.core).book
    vecEff i op p t = .done { vecWrite t p o with fib := orFlags (vecWrite t p o).fib o.flags } := by
  simp only [vecEff, hd, ht, Bool.false_eq_true, if_false]

theorem vecEff_of_trap {t : State} {k : Nat} {v : Word} (hd : t.sched.defer = false) (ht : vecTrap t t.fib op p = some (k, v)) :
    vecEff i op p t = .trap k v := by
  simp only [vecEff, hd, ht, Bool.false_eq_true, if_false]

theorem exec_vector_of_clear (hi : vecOp i = some op) (h : Issues s (vecUse i)) (hr : VectorReady (begun s (vecUse i)) op p)
    (hd : (begun s (vecUse i)).sched.defer = false) (ht : vecTrap (begun s (vecUse i)) (begun s (vecUse i)).fib op p = none) :
    let t := begun s (vecUse i)
    let o := vecOut t op p (coreOf t t.fib.core).book
    exec i s = .next (finished (vecUse i) { vecWrite t p o with fib := orFlags (vecWrite t p o).fib o.flags }) := by
  intro t o
  rw [exec_vector hi h hr, vecEff_of_clear hd ht]
  rfl

end

/-- Settles O41: a ready vector instruction goes to the unit, traps, or writes what it computes. -/
theorem vectorInstructions : Obligations.VectorInstructions := by
  intro i op s p hi u t c o h hr
  refine ⟨fun hd ht => exec_vector_of_clear hi h hr hd ht, fun k v hd ht => ?trap, fun hd => ?unit⟩
  case trap =>
    have he : vecEff i op p t = .trap k v := vecEff_of_trap hd ht
    rw [exec_vector hi h hr]
    refine (next_eq (congrArg (carry (atReads s u.y) u) he)).trans (next_eq ?_)
    exact congrArg (fun x => raise x k v) (found_of (vecTrap_uncounted ht))
  case unit =>
    have he : vecEff i op p t = .hold .vector (setCore t t.fib.core { c with vec := c.vec ++ [⟨t.fib.id, i, pendingPfx t.fib,
        p.d.tile.base, (planTiles p).foldl (fun e r => tset e r.num r.tile.ent) [], c.book⟩] }) := if_pos hd
    rw [exec_vector hi h hr]
    exact next_eq (congrArg (carry (atReads s u.y) u) he)

/-! The frame of the writes of tiles (R313). -/

/-- A byte written leaves every other byte alone, whatever the form of the memory. -/
theorem mget_mset_ne {a b : Nat} (m : List Host.Cell) (v : Byte) (h : b ≠ a) : mget (mset m a v) b = mget m b := by
  have h' : a ≠ b := h.symm
  induction m with
  | nil =>
    unfold mset
    split <;> simp only [mget, h', if_false]
  | cons c r ih =>
    obtain ⟨k, w⟩ := c
    unfold mset
    by_cases hk : a < k
    · simp only [hk, if_true]
      split <;> simp only [mget, h', if_false]
    · by_cases he : a = k
      · subst he
        simp only [hk, if_false, if_true]
        split <;> simp only [mget, h', if_false]
      · simp only [hk, he, if_false, mget, ih]

theorem mget_foldl_mset {α : Type} {b : Nat} (l : List α) (addr : α → Nat) (val : α → Byte) (m : List Host.Cell)
    (h : ∀ x ∈ l, b ≠ addr x) : mget (l.foldl (fun m x => mset m (addr x) (val x)) m) b = mget m b := by
  induction l generalizing m with
  | nil => rfl
  | cons x l ih =>
    rw [List.foldl_cons, ih _ fun y hy => h y (List.mem_cons_of_mem _ hy), mget_mset_ne m _ (h x List.mem_cons_self)]

/-- A byte that is none of some tiles'. -/
def OffTiles (s : State) (ts : List TileAt) (b : Nat) : Prop :=
  ∀ a ∈ ts, ∀ row off, b ≠ spadPa s a.core (tileByte a.base a.ent row off)

/-- Only poison marks and bytes of some tiles differ. -/
structure TileWrite (ts : List TileAt) (s t : State) : Prop where
  rest : t = { s with ms := { s.ms with
    mem := t.ms.mem
    poison := t.ms.poison } }
  bytes : ∀ b, OffTiles s ts b → mget t.ms.mem b = mget s.ms.mem b

namespace TileWrite
variable {ts : List TileAt} {s t u : State}

theorem refl (ts : List TileAt) (s : State) : TileWrite ts s s := ⟨rfl, fun _ _ => rfl⟩

theorem spadPa_eq (h : TileWrite ts s t) (core off : Nat) : spadPa t core off = spadPa s core off := by
  rw [h.rest]
  rfl

theorem trans (h : TileWrite ts s t) (k : TileWrite ts t u) : TileWrite ts s u where
  rest := by
    have hu := k.rest
    rw [h.rest] at hu
    exact hu
  bytes b hb := by
    have hb' : OffTiles t ts b := fun a ha row off => by
      rw [h.spadPa_eq]
      exact hb a ha row off
    exact (k.bytes b hb').trans (h.bytes b hb)

theorem foldl {α : Type} {f : State → α → State} (hf : ∀ t x, TileWrite ts t (f t x)) (l : List α) (s : State) :
    TileWrite ts s (l.foldl f s) := by
  induction l generalizing s with
  | nil => exact .refl ts s
  | cons x l ih => exact (hf s x).trans (ih _)

end TileWrite

section
variable {ts : List TileAt} {a : TileAt} (ha : a ∈ ts) (s : State)
include ha

theorem tileWrite_row (i rb v : Nat) : TileWrite ts s (tileWrRow s a i rb v) := by
  have hb : ∀ b, OffTiles s ts b → _ := fun b h => mget_foldl_mset (List.range rb) (fun o => spadPa s a.core (tileByte a.base a.ent i o))
    (fun o => BitVec.ofNat 8 (v / 2 ^ (8 * o))) s.ms.mem fun o _ => h a ha i o
  unfold tileWrRow
  dsimp only
  split <;> exact ⟨rfl, hb⟩

theorem tileWrite_rows (w i : Nat) (rows : List (List Nat)) : TileWrite ts s (tileWrRows s a w i rows) := by
  induction rows generalizing s i with
  | nil => exact .refl ts s
  | cons r rows ih => exact (tileWrite_row ha s i _ _).trans (ih _ _)

theorem tileWrite_elem (fmt i j code : Nat) : TileWrite ts s (tileWrElem s a fmt i j code) := by
  unfold tileWrElem
  dsimp only
  split <;> exact ⟨rfl, fun b h => mget_foldl_mset _ _ _ s.ms.mem fun k _ => h a ha i _⟩

theorem tileWrite_bytes (n : Nat) (bs : List Nat) : TileWrite ts s (tileWrBytes s a n bs) := by
  induction bs generalizing s n with
  | nil => exact .refl ts s
  | cons c bs ih => exact (tileWrite_elem ha s 9 _ _ c).trans (ih _ _)

end

/-- A vector instruction writes bytes of its destination, of its scales and of its residual only. -/
theorem tileWrite_vecWrite (s : State) (p : VPlan) (o : VOut) : TileWrite ((planWrites p).map (·.tile)) s (vecWrite s p o) := by
  have hd : p.d.tile ∈ (planWrites p).map (·.tile) := by simp [planWrites]
  have helems := (tileWrite_rows hd s (fmtWidth p.f.fd) 0 o.rows).trans
    (TileWrite.foldl (fun t e => tileWrite_elem hd t p.f.fd e.1 e.2.1 e.2.2) o.elems _)
  unfold vecWrite
  dsimp only
  generalize o.elems.foldl _ _ = t at helems
  have hscales : TileWrite ((planWrites p).map (·.tile)) s (match p.sd with
      | some x => tileWrBytes t x.tile 0 o.bytes
      | none => t) := by
    cases hsd : p.sd with
    | none => exact helems
    | some x => exact helems.trans (tileWrite_bytes (by simp [planWrites, hsd]) t 0 o.bytes)
  cases hres : p.res with
  | none => exact hscales
  | some x => exact hscales.trans (tileWrite_rows (by simp [planWrites, hres]) _ _ 0 o.resRows)

/-- A vector instruction's completion takes its flags, ends its issue and advances the PC. -/
theorem sameStatus_finished (u : Use) (w : State) (fl : BitVec 5) :
    SameStatus w.fib (finished u { w with fib := orFlags w.fib fl }).fib :=
  ⟨rfl, rfl, rfl, rfl, rfl, rfl, rfl, rfl, rfl, rfl, rfl, rfl⟩

section
variable {ts : List TileAt} {s t w : State} (hw : TileWrite ts t w)
include hw

theorem TileWrite.fib_eq : w.fib = t.fib := (congrArg State.fib hw.rest :)

/-- What differs from the state before issue once tiles are written and the instruction completes. -/
theorem finished_rest (u : Use) (fl : BitVec 5) (hbegun : t = { s with fib := t.fib, sched := t.sched }) :
    let r := finished u { w with fib := orFlags w.fib fl }
    r = { s with
      fib := r.fib
      sched := r.sched
      ms := { s.ms with
        mem := r.ms.mem
        poison := r.ms.poison } } := by
  have hrest := hw.rest
  rw [hbegun] at hrest
  rw [hrest]
  rfl

/-- A byte off the written tiles reads as before issue. -/
theorem finished_bytes (u : Use) (fl : BitVec 5) (hbegun : t = { s with fib := t.fib, sched := t.sched }) {b : Nat}
    (hb : OffTiles s ts b) : mget (finished u { w with fib := orFlags w.fib fl }).ms.mem b = mget s.ms.mem b := by
  have hoff : OffTiles t ts b := by
    rw [hbegun]
    exact hb
  have hmem : t.ms.mem = s.ms.mem := congrArg (fun x => x.ms.mem) hbegun
  exact (hw.bytes b hoff).trans (congrArg (fun m => mget m b) hmem)

end

/-- Settles O42: a vector instruction that completes writes its tiles and flags and goes on. -/
theorem vectorFrame : Obligations.VectorFrame := by
  intro i op s r p hi u t h hr hd ht hx
  have hbegun : t = { s with fib := t.fib, sched := t.sched } := onlyFibre_begun s u
  let o := vecOut t op p (coreOf t t.fib.core).book
  have hw : TileWrite ((planWrites p).map (·.tile)) t (vecWrite t p o) := tileWrite_vecWrite t p o
  have hr : r = finished u { vecWrite t p o with fib := orFlags (vecWrite t p o).fib o.flags } :=
    Host.Outcome.next.inj (hx.symm.trans (exec_vector_of_clear hi h hr hd ht))
  have hfib := TileWrite.fib_eq hw
  rw [hr]
  refine ⟨(congrArg Fibre.regs hfib :), (congrArg Fibre.live hfib :), (congrArg Fibre.marks hfib :), (congrArg Fibre.pend hfib :),
    hfib ▸ sameStatus_finished u (vecWrite t p o) o.flags, finished_rest hw u o.flags hbegun, fun b hb => ?bytes⟩
  case bytes =>
    refine finished_bytes hw u o.flags hbegun fun a ha row off => ?_
    obtain ⟨q, hq, rfl⟩ := List.mem_map.mp ha
    exact hb q hq row off

end Sys2Proof.Proofs

/-! The matrix commands and the lease of the array (R332-R338). -/

namespace Sys2Proof.Proofs

open Sys2Proof Sys2Proof.Machine Sys2Proof.Safety Sys2Proof.Laws

/-! The matrix commands (R312, R334-R337). -/

/-- How a matrix command uses its fibre. -/
def matrixUse (i : Instr) (fn : Nat) : Use :=
  { plainUse i (tileMarker i) [] 0 with
    pfxOk := decide (fn ≠ 2)
    ctx := leaseHeld true }

/-- The PFX value that a matrix command takes: MZERO takes none. -/
def matrixPfx (fn : Nat) (t : State) : Option (BitVec 64) := if fn = 2 then none else pendingPfx t.fib

/-- What a matrix command does once it has issued. -/
def matrixEff (fn : Nat) (ta tb td : Option Nat) (t : State) : Eff :=
  match matrixNamesOf t (matrixPfx fn t) fn ta tb td (matrixCores t fn).1 (matrixCores t fn).2.1 (matrixCores t fn).2.2 with
  | .error (c, v) => .trap c v
  | .ok n =>
    match (mTiles n).find? fun r => teState r.tile.ent != 2 with
    | some r => .park (.tile r.tile.core r.idx) t
    | none =>
      match matrixChecks fn (matrixFmts (matrixPfx fn t) (entOf n.a) (entOf n.b) (entOf n.d) fn) n with
      | some (c, v) => .trap c v
      | none =>
        match matrixWait t fn n with
        | some w => .park w t
        | none => hand t (mkCmd t fn (matrixCores t fn).1 (matrixCores t fn).2.1 (matrixPfx fn t) n) (fn == 4)

/-- Every matrix command is the one instruction of its function number. -/
theorem exec_of_matrixOp {i : Instr} {fn : Nat} {ta tb td : Option Nat} (s : State) (h : matrixOp i = some (fn, ta, tb, td)) :
    exec i s = issue s (matrixUse i fn) fun t _ => matrixEff fn ta tb td t := by
  unfold matrixOp at h
  split at h
  case h_6 => cases h
  all_goals
    cases h
    rfl

theorem matrixEff_of_ready {t : State} {fn : Nat} {ta tb td : Option Nat} {n : MNames} (h : MatrixReady t fn ta tb td n) :
    matrixEff fn ta tb td t = hand t (mkCmd t fn (matrixCores t fn).1 (matrixCores t fn).2.1 (matrixPfx fn t) n) (fn == 4) := by
  obtain ⟨hnames, hfull, hchecks, hwait⟩ := h
  have hf : ((mTiles n).find? fun r => teState r.tile.ent != 2) = none :=
    List.find?_eq_none.mpr fun r hr => by simp [hfull r hr]
  simp only [matrixEff, matrixPfx, hnames, hf, hchecks, hwait]

/-- The state in which a command waits in its array's queue. -/
def cmdQueued (t : State) (c : MCmd) : State :=
  let cl := clusterOf t.fib.core
  let w := useBound t cl
  setArray w cl { arrayOf w cl with cmds := (arrayOf w cl).cmds ++ [c] }

section
variable {t : State} {c : MCmd} {parks : Bool}

/-- A command handed to an idle array runs its steps at once. -/
theorem hand_of_idle (hc : (arrayOf (useBound t (clusterOf t.fib.core)) (clusterOf t.fib.core)).cmds = [])
    (hd : (useBound t (clusterOf t.fib.core)).sched.defer = false) :
    let r := runSteps (cmdSteps c) (useBound t (clusterOf t.fib.core)) c
    hand t c parks = .done (cmdFlags r.1 r.2) := by
  simp only [hand, hc, hd, List.isEmpty_nil, Bool.not_false, Bool.and_self, if_true]

/-- A command handed to a busy array is queued. -/
theorem hand_of_busy (h : (arrayOf (useBound t (clusterOf t.fib.core)) (clusterOf t.fib.core)).cmds ≠ []
      ∨ (useBound t (clusterOf t.fib.core)).sched.defer = true) :
    hand t c parks = if parks then .hold .store (cmdQueued t c) else .done (cmdQueued t c) := by
  have hc : ((arrayOf (useBound t (clusterOf t.fib.core)) (clusterOf t.fib.core)).cmds.isEmpty
      && !(useBound t (clusterOf t.fib.core)).sched.defer) = false := by
    obtain h | h := h
    · rw [List.isEmpty_eq_false_iff.mpr h, Bool.false_and]
    · rw [h, Bool.not_true, Bool.and_false]
  simp only [hand, hc, Bool.false_eq_true, if_false, cmdQueued]

end

/-- Settles O44: a ready command is handed to the array, idle or busy. -/
theorem matrixCommands : Obligations.MatrixCommands := by
  intro i fn ta tb td s n hi u t cl c w h hr
  have hx : exec i s = issue s u fun t _ => matrixEff fn ta tb td t := exec_of_matrixOp s hi
  have he := matrixEff_of_ready hr
  rw [hx]
  refine ⟨fun hc hd => issue_done h (he.trans (hand_of_idle hc hd)), fun hb => ⟨fun hn => ?queued, fun h4 => ?held⟩⟩
  case queued =>
    have hq : hand t c (fn == 4) = .done (cmdQueued t c) := (hand_of_busy hb).trans (if_neg (by simpa using hn))
    exact issue_done h (he.trans hq)
  case held =>
    have hq : hand t c (fn == 4) = .hold .store (cmdQueued t c) := (hand_of_busy hb).trans (if_pos (by simpa using h4))
    exact issue_hold h (he.trans hq)

/-! The lease (R332, R338). -/

/-- How MLEASE uses its fibre. -/
def mleaseUse (y : Bool) (bound : BitVec 8) : Use :=
  { plainUse (.mlease y bound) y [] 0 with ctx := leaseAsk (.mlease y bound) }

/-- What MLEASE does once it has issued. -/
def mleaseEff (t : State) (bound : Nat) : Eff :=
  let cl := clusterOf t.fib.core
  let a := arrayOf t cl
  if a.lease.isNone && a.wait.isEmpty && !a.retired && !t.sched.defer then .done (setArray t cl (grantTo t t.fib bound a))
  else .hold .lease (setArray t cl { a with wait := a.wait ++ [⟨t.fib.id, bound, false, false, []⟩] })

/-- How MREL uses its fibre. -/
def mrelUse (y : Bool) : Use := { plainUse (.mrel y) y [] 0 with ctx := leaseHeld false }

/-- What MREL does once it has issued. -/
def mrelEff (t : State) : Eff :=
  let cl := clusterOf t.fib.core
  let a := arrayOf t cl
  .done (setArray t cl { a with
    lease := if a.cmds.isEmpty then none else a.lease.map fun l => { l with rel := true } })

theorem exec_mlease (y : Bool) (bound : BitVec 8) (s : State) :
    exec (.mlease y bound) s = issue s (mleaseUse y bound) fun t _ => mleaseEff t bound.toNat := rfl

theorem exec_mrel (y : Bool) (s : State) : exec (.mrel y) s = issue s (mrelUse y) fun t _ => mrelEff t := rfl

theorem exec_mstep (y : Bool) (gd : Reg) (s : State) : exec (.mstep y gd) s
    = issue s (plainUse (.mstep y gd) y [] gd) fun t _ => .done (setLong t gd (mstepWord t t.fib) 0) := rfl

section
variable {t : State} {bound : Nat}

theorem mleaseEff_of_free (hl : (arrayOf t (clusterOf t.fib.core)).lease = none) (hw : (arrayOf t (clusterOf t.fib.core)).wait = [])
    (hr : (arrayOf t (clusterOf t.fib.core)).retired = false) (hd : t.sched.defer = false) :
    mleaseEff t bound = .done (setArray t (clusterOf t.fib.core) (grantTo t t.fib bound (arrayOf t (clusterOf t.fib.core)))) := by
  simp only [mleaseEff, hl, hw, hr, hd, Option.isNone_none, List.isEmpty_nil, Bool.not_false, Bool.and_self, if_true]

theorem mleaseEff_of_taken (h : (arrayOf t (clusterOf t.fib.core)).lease ≠ none ∨ (arrayOf t (clusterOf t.fib.core)).wait ≠ []
      ∨ (arrayOf t (clusterOf t.fib.core)).retired = true ∨ t.sched.defer = true) :
    mleaseEff t bound = .hold .lease (setArray t (clusterOf t.fib.core) { arrayOf t (clusterOf t.fib.core) with
      wait := (arrayOf t (clusterOf t.fib.core)).wait ++ [⟨t.fib.id, bound, false, false, []⟩] }) := by
  refine if_neg fun hc => ?_
  simp only [Bool.and_eq_true, Bool.not_eq_true', Option.isNone_iff_eq_none, List.isEmpty_iff] at hc
  obtain ⟨⟨⟨hl, hw⟩, hr⟩, hd⟩ := hc
  simp [hl, hw, hr, hd] at h

end

section
variable {s : State} {uses : Bool} {l : Lease}

theorem leaseHeld_of_none (h : (arrayOf s (clusterOf s.fib.core)).lease = none) : leaseHeld uses s = some (cLEASE, 1) := by
  simp only [leaseHeld, h]

theorem leaseHeld_of_other (h : (arrayOf s (clusterOf s.fib.core)).lease = some l) (ho : l.fib ≠ s.fib.id ∨ l.rel = true) :
    leaseHeld uses s = some (cLEASE, 1) := by
  simp only [leaseHeld, h, if_pos ho]

/-- The holder of a lease with a bound left, or that needs none, passes. -/
theorem leaseHeld_of_own (h : (arrayOf s (clusterOf s.fib.core)).lease = some l) (hf : l.fib = s.fib.id) (hr : l.rel = false) :
    leaseHeld uses s = if uses && l.left == 0 then some (cLEASE, 2) else none := by
  have ho : ¬(l.fib ≠ s.fib.id ∨ l.rel = true) := by simp [hf, hr]
  simp only [leaseHeld, h, if_neg ho]

end

/-- Settles O45: MLEASE by whether the array is free, MREL by whether it works, and the reasons of LEASE case by case. -/
theorem matrixLease : Obligations.MatrixLease := by
  unfold Obligations.MatrixLease
  refine ⟨?mlease, ?mrel, ?mstep, ?held, ?asks⟩
  case mlease =>
    intro s y bound i u t cl a h
    have hx : exec i s = issue s u fun t _ => mleaseEff t bound.toNat := exec_mlease y bound s
    rw [hx]
    exact ⟨fun hl hw hr hd => issue_done h (mleaseEff_of_free hl hw hr hd), fun hb => issue_hold h (mleaseEff_of_taken hb)⟩
  case mrel =>
    intro s y u t cl a h
    have hx : exec (.mrel y) s = issue s u fun t _ => mrelEff t := exec_mrel y s
    rw [hx]
    refine ⟨fun hc => issue_done h ?idle, fun l hc hl => issue_done h ?works⟩
    case idle =>
      have hi : a.cmds.isEmpty = true := List.isEmpty_iff.mpr hc
      exact congrArg (fun x => Eff.done (setArray t cl { a with lease := x })) (if_pos hi)
    case works =>
      have hi : ¬a.cmds.isEmpty = true := fun k => hc (List.isEmpty_iff.mp k)
      refine congrArg (fun x => Eff.done (setArray t cl { a with lease := x })) ((if_neg hi).trans ?_)
      rw [hl]
      rfl
  case mstep =>
    intro s y gd u h
    rw [exec_mstep]
    exact issue_done h rfl
  case held =>
    intro s uses a
    refine ⟨leaseHeld_of_none, fun l hl => ⟨leaseHeld_of_other hl, fun hf hr h0 => ?spent, fun hf hr hu => ?passes⟩⟩
    case spent =>
      rw [leaseHeld_of_own hl hf hr, h0]
      rfl
    case passes =>
      rw [leaseHeld_of_own hl hf hr, if_neg]
      obtain hu | hu := hu <;> simp [hu]
  case asks =>
    intro s y bound i hg
    have hask : leaseAsk i s = if holdsLease s s.fib then some (cLEASE, 3)
        else if !hasBank s s.fib then some (cLEASE, 4) else none := by simp only [leaseAsk, hg]
    rw [hask]
    refine ⟨fun l hl hf hr => if_pos ?_, fun hh hb => ?_, fun hh hb => ?_⟩
    · simp [holdsLease, hl, hf, hr]
    · simp [hh, hb]
    · simp [hh, hb]

end Sys2Proof.Proofs

/-! Copies and kicks (R214, R347-R356, R430). -/

namespace Sys2Proof.Proofs

open Sys2Proof Sys2Proof.Machine Sys2Proof.Safety Sys2Proof.Laws

/-! CPYQ (R349, R351). -/

/-- How CPYQ uses its fibre. -/
def cpyqUse (y : Bool) (ga : Reg) (la : Bool) (gb : Reg) (lb nb : Bool) : Use :=
  { plainUse (.cpyq y ga la gb lb nb) y [(ga, la), (gb, lb)] 0 with fail := true }

/-- CPYQ once its memory side's pages are found. -/
def copyPlaced (nb : Bool) (t : State) (r : CopyReq) (stamp : Nat) (sd : CopySide) (ps : List (Nat × Acc × Nat)) : Eff :=
  match ps.find? fun p => sideRefused t t.fib.core (r.kind == 1 || r.kind == 3) p.2.1 with
  | some p => .trap cXPROT (BitVec.ofNat 64 p.1)
  | none =>
    if nb && decide (16 ≤ fifoUsed (coreOf t t.fib.core)) then
      .done (stampNow t (BitVec.ofNat 4 r.scope) stamp (cQFULL * 2 ^ 58))
    else copyEff t (copyOf t r stamp sd (sideRuns ps))

/-- What CPYQ does once it has issued. -/
def cpyqEff (nb : Bool) (t : State) (a b : Word) : Eff :=
  let r := copyReq b
  if t.fib.ident.kind = .handler then .trap cTILEUNDEF 64
  else if copyReserved r nb then .trap cRESBITS b
  else match copyStamp t r with
    | .error (c, x) => .trap c x
    | .ok stamp =>
      match copySide t r a with
      | .error (c, x) => .trap c x
      | .ok sd =>
        match sideRows true t (if r.kind == 1 || r.kind == 3 then .store else .load) sd.rows [] with
        | .error e => e
        | .ok ps => copyPlaced nb t r stamp sd ps

theorem exec_cpyq (y : Bool) (ga : Reg) (la : Bool) (gb : Reg) (lb nb : Bool) (s : State) :
    exec (.cpyq y ga la gb lb nb) s = issue s (cpyqUse y ga la gb lb nb) fun t v => cpyqEff nb t (arg v 0) (arg v 1) := rfl

section
variable {nb : Bool} {t : State} {a b : Word} {stamp : Nat} {sd : CopySide} {ps : List (Nat × Acc × Nat)} {r : CopyReq} {c : Copy}

theorem cpyqEff_of_checks (hk : t.fib.ident.kind ≠ .handler) (hr : copyReserved (copyReq b) nb = false)
    (hs : copyStamp t (copyReq b) = .ok stamp) (hd : copySide t (copyReq b) a = .ok sd)
    (hp : sideRows true t (if (copyReq b).kind == 1 || (copyReq b).kind == 3 then .store else .load) sd.rows [] = .ok ps) :
    cpyqEff nb t a b = copyPlaced nb t (copyReq b) stamp sd ps := by
  simp only [cpyqEff, hk, hr, hs, hd, hp, Bool.false_eq_true, if_false]

/-- A command whose pages are all admitted is queued, or with NB at a full FIFO answers in its stamp. -/
theorem copyPlaced_of_admitted (h : ∀ p ∈ ps, sideRefused t t.fib.core (r.kind == 1 || r.kind == 3) p.2.1 = false) :
    copyPlaced nb t r stamp sd ps = if nb && decide (16 ≤ fifoUsed (coreOf t t.fib.core)) then
        .done (stampNow t (BitVec.ofNat 4 r.scope) stamp (cQFULL * 2 ^ 58))
      else copyEff t (copyOf t r stamp sd (sideRuns ps)) := by
  have hf : (ps.find? fun p => sideRefused t t.fib.core (r.kind == 1 || r.kind == 3) p.2.1) = none :=
    List.find?_eq_none.mpr fun p hp => by simp [h p hp]
  simp only [copyPlaced, hf]

theorem copyEff_of_full (h : 16 ≤ fifoUsed (coreOf t t.fib.core)) : copyEff t c = .later .queue (.copy c) t := if_pos h

theorem copyEff_of_outstanding (h : fifoUsed (coreOf t t.fib.core) < 16) (hp : allPerformed t t.fib.id = false) :
    copyEff t c = .later .accesses (.copy c) t := by
  simp only [copyEff, Nat.not_le.mpr h, hp, Bool.not_false, if_false, if_true]

theorem copyEff_of_performed (h : fifoUsed (coreOf t t.fib.core) < 16) (hp : allPerformed t t.fib.id = true) :
    copyEff t c = .done (queueCopy t c) := by
  simp only [copyEff, Nat.not_le.mpr h, hp, Bool.not_true, Bool.false_eq_true, if_false]

theorem stampNow_of_performed {sc : BitVec 4} {v : Nat} (hp : allPerformed t t.fib.id = true) :
    stampNow t sc stamp v = fullWord t t.fib.core t.fib.ident.tenant (t.fib.pl == 2) sc stamp v := by
  simp only [stampNow, hp, if_true]

theorem stampNow_of_outstanding {sc : BitVec 4} {v : Nat} (hp : allPerformed t t.fib.id = false) :
    stampNow t sc stamp v = queueReq t (withOrder t { mkReq t .feStore 7 8 ⟨stamp, 2, 0, 2, false, 0, 0, 0⟩ 0 with
      data := BitVec.ofNat 64 v } none (some sc) false) false := by
  simp only [stampNow, hp, Bool.false_eq_true, if_false]

end

/-! KICK (R356, R430). -/

/-- How KICK uses its fibre. -/
def kickUse (y : Bool) (ga : Reg) (la : Bool) (gb : Reg) (lb : Bool) : Use :=
  { plainUse (.kick y ga la gb lb) y [(ga, la), (gb, lb)] 0 with fail := true }

/-- A command's completion word, and what goes on with it. -/
def withCompletion (t : State) (va : Word) (go : Option Nat → Eff) : Eff :=
  match if va = 0 then Chk.ok ⟨0, 0, 0, 0, false, 0, 0, 0⟩ else checkWord t va with
  | .bad c x => .trap c x
  | .wait w t => .park w t
  | .ok st => go (if va = 0 then none else some st.pa)

/-- KICK once its block is read; `b` is the core that it names. -/
def kickBlock (a : Word) (b : Nat) (t : State) (ws : List Word) : Eff :=
  let src := ws.getD 0 0
  let dst := ws.getD 1 0
  let w4 := (ws.getD 4 0).toNat
  let len := w4 % 2 ^ 32
  if len % 8 ≠ 0 ∨ len < 8 ∨ 2 ^ 24 < len ∨ w4 / 2 ^ 32 ≠ 0 then .trap cRESBITS a
  else if src.toNat % 8 ≠ 0 then .trap cALIGN src
  else if dst.toNat % 8 ≠ 0 then .trap cALIGN dst
  else match sideRows false t .load [(src.toNat, len)] [] with
    | .error e => e
    | .ok ps => withCompletion t (ws.getD 3 0) fun cpl =>
      kickEff t (outstOf t 10 cpl (podIdent t (b / 1024) (b % 1024)) (sideRuns ps) src len) (ws.flatMap fun w => leBytes 8 w.toNat)

/-- What KICK does once it has issued. -/
def kickIssued (t : State) (a b : Word) : Eff :=
  if 65536 ≤ b.toNat ∨ populatedMod t (b.toNat / 1024) = false then .trap cBOUND b
  else if !aligned a 8 then .trap cALIGN a
  else readBlock 5 t a [] (kickBlock a b.toNat)

theorem exec_kick (y : Bool) (ga : Reg) (la : Bool) (gb : Reg) (lb : Bool) (s : State) :
    exec (.kick y ga la gb lb) s = issue s (kickUse y ga la gb lb) fun t v => kickIssued t (arg v 0) (arg v 1) := rfl

theorem populatedMod_begun (s : State) (u : Use) (m : Nat) : populatedMod (begun s u) m = populatedMod s m := by
  rw [onlyFibre_begun s u]
  rfl

section
variable {t : State} {va a : Word} {b : Nat} {cpl : Option Nat} {ws : List Word} {ps : List (Nat × Acc × Nat)} {o : Outst}
  {area : List Byte}

theorem withCompletion_of_word (go : Option Nat → Eff) (h : CompletionWord t va cpl) : withCompletion t va go = go cpl := by
  obtain ⟨hva, rfl⟩ | ⟨hva, x, hx, rfl⟩ := h
  · simp only [withCompletion, hva, if_true]
  · simp only [withCompletion, if_neg hva, hx]

theorem kickBlock_of_checks (h8 : (ws.getD 4 0).toNat % 2 ^ 32 % 8 = 0) (hlo : 8 ≤ (ws.getD 4 0).toNat % 2 ^ 32)
    (hhi : (ws.getD 4 0).toNat % 2 ^ 32 ≤ 2 ^ 24) (hz : (ws.getD 4 0).toNat / 2 ^ 32 = 0) (hs : (ws.getD 0 0).toNat % 8 = 0)
    (hd : (ws.getD 1 0).toNat % 8 = 0) (hp : sideRows false t .load [((ws.getD 0 0).toNat, (ws.getD 4 0).toNat % 2 ^ 32)] [] = .ok ps)
    (hc : CompletionWord t (ws.getD 3 0) cpl) :
    kickBlock a b t ws = kickEff t (outstOf t 10 cpl (podIdent t (b / 1024) (b % 1024)) (sideRuns ps) (ws.getD 0 0)
      ((ws.getD 4 0).toNat % 2 ^ 32)) (ws.flatMap fun w => leBytes 8 w.toNat) := by
  have hlen : ¬((ws.getD 4 0).toNat % 2 ^ 32 % 8 ≠ 0 ∨ (ws.getD 4 0).toNat % 2 ^ 32 < 8 ∨ 2 ^ 24 < (ws.getD 4 0).toNat % 2 ^ 32
      ∨ (ws.getD 4 0).toNat / 2 ^ 32 ≠ 0) := by omega
  simp only [kickBlock, if_neg hlen, if_neg (not_not_intro hs), if_neg (not_not_intro hd), hp]
  exact withCompletion_of_word _ hc

/-- With room and its accesses performed, KICK makes its release and sends its notice. -/
theorem kickEff_of_reachable (hm : msgOut t t.fib.core < 32) (hp : allPerformed t t.fib.id = true)
    (hu : unreachableId (releaseAt t o.ten t.fib.core o.scope) o.dst = none) :
    let r := releaseAt t o.ten t.fib.core o.scope
    let q := addOutst (freshId r).2 { o with id := (freshId r).1 }
    kickEff t o area = .done (sendPacket q (mkPacket q q.fib.core o.dst 10 o.ten (freshId r).1 o.scope true area [])) := by
  simp only [kickEff, Nat.not_le.mpr hm, hp, hu, Bool.not_true, Bool.false_eq_true, if_false]

theorem kickEff_of_unreachable {c : Nat} (hm : msgOut t t.fib.core < 32) (hp : allPerformed t t.fib.id = true)
    (hu : unreachableId (releaseAt t o.ten t.fib.core o.scope) o.dst = some c) :
    kickEff t o area = .done (completeWord (releaseAt t o.ten t.fib.core o.scope) o c) := by
  simp only [kickEff, Nat.not_le.mpr hm, hp, hu, Bool.not_true, Bool.false_eq_true, if_false]

end

/-! CPYWAIT and CPYSTAT (R354, R355). -/

/-- How CPYWAIT uses its fibre. -/
def cpywaitUse (y : Bool) : Use := { plainUse (.cpywait y) y [] 0 with fail := true }

/-- CPYWAIT with no copy outstanding and none failed: the acquires of the copies that have ended (R354). -/
def cpywaitDone (t : State) : State :=
  let r := ((coreOf t t.fib.core).waited.filter fun x => x.1 == t.fib.id).foldl
    (fun r x => acquireAt r t.fib.ident.tenant t.fib.core x.2) t
  setCore r t.fib.core { coreOf r t.fib.core with waited := (coreOf r t.fib.core).waited.filter fun x => x.1 != t.fib.id }

/-- What CPYWAIT does once it has issued. -/
def cpywaitEff (t : State) : Eff :=
  let c := coreOf t t.fib.core
  if c.fifo.any fun x => x.fib == t.fib.id then .park .copies t
  else match c.failed.find? fun x => x.1 == t.fib.id with
    | some x =>
      if !allReady t.fib then .park .marker t
      else .raw (raise (if (drain t.fib).failure.isNone then setCore t t.fib.core { c with failed := c.failed.filter fun z => z != x }
        else t) x.2.2.toNat (zext x.2.1))
    | none => .done (cpywaitDone t)

theorem exec_cpywait (y : Bool) (s : State) : exec (.cpywait y) s = issue s (cpywaitUse y) fun t _ => cpywaitEff t := rfl

/-- How CPYSTAT uses its fibre. -/
def cpystatUse (y : Bool) (gd : Reg) : Use := { plainUse (.cpystat y gd) y [] gd with fail := true }

theorem exec_cpystat (y : Bool) (gd : Reg) (s : State) :
    exec (.cpystat y gd) s = issue s (cpystatUse y gd) fun t _ => .done (setLong t gd (cpyStat (coreOf t t.fib.core)) 0) := rfl

section
variable {t : State}

theorem cpywaitEff_of_outstanding (h : ∃ x ∈ (coreOf t t.fib.core).fifo, x.fib = t.fib.id) : cpywaitEff t = .park .copies t := by
  obtain ⟨x, hx, hf⟩ := h
  exact if_pos (List.any_eq_true.mpr ⟨x, hx, by simp [hf]⟩)

theorem none_outstanding (h : ∀ x ∈ (coreOf t t.fib.core).fifo, x.fib ≠ t.fib.id) :
    ((coreOf t t.fib.core).fifo.any fun x => x.fib == t.fib.id) = false :=
  List.any_eq_false.mpr fun x hx => by simp [h x hx]

theorem cpywaitEff_of_ended (h : ∀ x ∈ (coreOf t t.fib.core).fifo, x.fib ≠ t.fib.id)
    (hf : ∀ x ∈ (coreOf t t.fib.core).failed, x.1 ≠ t.fib.id) : cpywaitEff t = .done (cpywaitDone t) := by
  have hn : ((coreOf t t.fib.core).failed.find? fun x => x.1 == t.fib.id) = none :=
    List.find?_eq_none.mpr fun x hx => by simp [hf x hx]
  simp only [cpywaitEff, none_outstanding h, hn, Bool.false_eq_true, if_false]

/-- A failed copy is raised once the fibre's long results are there (R354). -/
theorem cpywaitEff_of_failed {x : Nat × BitVec 32 × BitVec 6} (h : ∀ x ∈ (coreOf t t.fib.core).fifo, x.fib ≠ t.fib.id)
    (hf : ((coreOf t t.fib.core).failed.find? fun x => x.1 == t.fib.id) = some x) :
    cpywaitEff t = if !allReady t.fib then .park .marker t
      else .raw (raise (if (drain t.fib).failure.isNone then setCore t t.fib.core { coreOf t t.fib.core with
        failed := (coreOf t t.fib.core).failed.filter fun z => z != x } else t) x.2.2.toNat (zext x.2.1)) := by
  simp only [cpywaitEff, none_outstanding h, hf, Bool.false_eq_true, if_false]

end

/-- Settles O46: each of the four by what its effect finds at issue. -/
theorem copyAndKick : Obligations.CopyAndKick := by
  unfold Obligations.CopyAndKick
  refine ⟨?cpyq, ?kick, ?cpywait, ?cpystat⟩
  case cpyq =>
    intro s y ga la gb lb nb stamp sd ps i u t r wr h hk hres hs hd hps hok used w c
    have hx : exec i s = issue s u fun t v => cpyqEff nb t (arg v 0) (arg v 1) := exec_cpyq y ga la gb lb nb s
    have he := (cpyqEff_of_checks hk hres hs hd hps).trans (copyPlaced_of_admitted hok)
    have hperf : allPerformed t t.fib.id = allPerformed s s.fib.id := allPerformed_begun s u
    have hroom (hu : used < 16) : ¬(nb && decide (16 ≤ fifoUsed (coreOf t t.fib.core))) = true := by
      have : ¬16 ≤ fifoUsed (coreOf t t.fib.core) := Nat.not_le.mpr hu
      simp [this]
    have hfull (hu : 16 ≤ used) (hn : nb = true) : (nb && decide (16 ≤ fifoUsed (coreOf t t.fib.core))) = true := by
      have : 16 ≤ fifoUsed (coreOf t t.fib.core) := hu
      simp [this, hn]
    rw [hx]
    refine ⟨fun hu hp => ?queued, fun hu hp => ?behind, fun hu hn hp => ?stamped, fun hu hn hp => ?ordered, fun hu hn => ?waits⟩
    case queued => exact issue_done h (he.trans ((if_neg (hroom hu)).trans (copyEff_of_performed hu (hperf.trans hp))))
    case behind => exact issue_later h (he.trans ((if_neg (hroom hu)).trans (copyEff_of_outstanding hu (hperf.trans hp))))
    case stamped =>
      exact issue_done h (he.trans ((if_pos (hfull hu hn)).trans (congrArg Eff.done (stampNow_of_performed (hperf.trans hp)))))
    case ordered =>
      exact issue_done h (he.trans ((if_pos (hfull hu hn)).trans (congrArg Eff.done (stampNow_of_outstanding (hperf.trans hp)))))
    case waits => exact issue_later h (he.trans ((if_neg (by simp [hn])).trans (copyEff_of_full hu)))
  case kick =>
    intro s y ga la gb lb ws t ps cpl i u b w4 h hb hpop hal hblk h8 hlo hhi hz hsrc hdst hps hc hm hp dst sk r n o q
    have hx : exec i s = issue s u fun t v => kickIssued t (arg v 0) (arg v 1) := exec_kick y ga la gb lb s
    have hbound : ¬(65536 ≤ b ∨ populatedMod (begun s u) (b / 1024) = false) := by
      rw [populatedMod_begun, hpop]
      simp [hb]
    have halign : ¬(!aligned (operand s u 0) 8) = true := by simp [aligned, hal]
    have he : kickIssued (begun s u) (operand s u 0) (operand s u 1) = kickEff t o (ws.flatMap fun w => leBytes 8 w.toNat) :=
      (if_neg hbound).trans ((if_neg halign).trans ((readBlock_of [] _ hblk).trans (kickBlock_of_checks h8 hlo hhi hz hsrc hdst hps hc)))
    rw [hx]
    exact ⟨fun hu => issue_done h (he.trans (kickEff_of_reachable hm hp hu)),
      fun c hu => issue_done h (he.trans (kickEff_of_unreachable hm hp hu))⟩
  case cpywait =>
    intro s y u t c h
    have hx : exec (.cpywait y) s = issue s u fun t _ => cpywaitEff t := exec_cpywait y s
    rw [hx]
    refine ⟨fun ho => issue_park h (cpywaitEff_of_outstanding ho), fun ho hf => issue_done h (cpywaitEff_of_ended ho hf),
      fun x ho hf => ⟨fun hr => ?marker, fun hr hd => ?raised⟩⟩
    case marker => exact issue_park h ((cpywaitEff_of_failed ho hf).trans (if_pos (by rw [hr]; rfl)))
    case raised =>
      have hn : (drain t.fib).failure.isNone = true := by rw [hd]; rfl
      have he := (cpywaitEff_of_failed ho hf).trans (if_neg (by rw [hr]; decide))
      rw [if_pos hn] at he
      exact issue_raw h he
  case cpystat =>
    intro s y gd u c h
    have hx : exec (.cpystat y gd) s = issue s u fun t _ => .done (setLong t gd (cpyStat (coreOf t t.fib.core)) 0) := exec_cpystat y gd s
    rw [hx]
    exact issue_done h rfl

end Sys2Proof.Proofs

/-! Messages with tags (R215-R218, R362-R366). -/

namespace Sys2Proof.Proofs

open Sys2Proof Sys2Proof.Machine Sys2Proof.Safety Sys2Proof.Laws

/-- An address whose alignment is right passes that check. -/
theorem not_misaligned {va : Word} {n : Nat} (h : va.toNat % n = 0) : ¬(!aligned va n) = true := by simp [aligned, h]

theorem misaligned {va : Word} {n : Nat} (h : va.toNat % n ≠ 0) : (!aligned va n) = true := by simp [aligned, h]

/-- A block of `k` words at an address aligned to `n`, and what goes on with it (R343). -/
def alignedBlock (n k : Nat) (t : State) (a : Word) (go : State → List Word → Eff) : Eff :=
  if !aligned a n then .trap cALIGN a else readBlock k t a [] go

theorem alignedBlock_of {n k : Nat} {s t : State} {a : Word} {ws : List Word} (go : State → List Word → Eff) (ha : a.toNat % n = 0)
    (hb : BlockReads k s a ws t) : alignedBlock n k s a go = go t ws :=
  (if_neg (not_misaligned ha)).trans (readBlock_of [] go hb)

/-! SEND (R362, R363). -/

/-- How SEND, RPOST and RCANCEL use their fibre. -/
def msgUse (i : Instr) (y : Bool) (ga : Reg) (la : Bool) : Use := { plainUse i y [(ga, la)] 0 with fail := true }

/-- SEND once its block is read. -/
def sendBlock (a : Word) (scope : BitVec 4) (rel : Bool) (t : State) (ws : List Word) : Eff :=
  let w1 := (ws.getD 1 0).toNat
  let dst := BitVec.ofNat 26 w1
  let len := w1 / 2 ^ 32
  let src := ws.getD 2 0
  if nf w1 26 6 ≠ 0 ∨ idAgent dst < 0x444 ∨ 0x447 < idAgent dst ∨ 2 ^ 24 < len then .trap cRESBITS a
  else if idPod dst = t.dev.pod.toNat ∧ populatedMod t (idMod dst) = false then .trap cBOUND a
  else if idPod dst ≠ t.dev.pod.toNat ∧ 4096 < len then .trap cBOUND a
  else if src.toNat % 8 ≠ 0 then .trap cALIGN src
  else match sideRows false t .load [(src.toNat, len)] [] with
    | .error e => e
    | .ok ps => withCompletion t (ws.getD 3 0) fun cpl =>
      sendEff t (outstOf t (if len ≤ 4096 then 6 else 7) cpl dst (sideRuns ps) src len) (ws.getD 0 0) scope rel

theorem exec_send (y : Bool) (ga : Reg) (la : Bool) (scope : BitVec 4) (rel : Bool) (s : State) :
    exec (.send y ga la scope rel) s = issue s (msgUse (.send y ga la scope rel) y ga la) fun t v =>
      alignedBlock 32 4 t (arg v 0) (sendBlock (arg v 0) scope rel) := rfl

section
variable {t : State} {a : Word} {scope : BitVec 4} {rel : Bool} {ws : List Word} {ps : List (Nat × Acc × Nat)} {cpl : Option Nat}
  {o : Outst} {tag : Word}

theorem sendBlock_of_checks (hz : nf (ws.getD 1 0).toNat 26 6 = 0) (hlo : 0x444 ≤ idAgent (BitVec.ofNat 26 (ws.getD 1 0).toNat))
    (hhi : idAgent (BitVec.ofNat 26 (ws.getD 1 0).toNat) ≤ 0x447) (hlen : (ws.getD 1 0).toNat / 2 ^ 32 ≤ 2 ^ 24)
    (hpod : if idPod (BitVec.ofNat 26 (ws.getD 1 0).toNat) = t.dev.pod.toNat
      then populatedMod t (idMod (BitVec.ofNat 26 (ws.getD 1 0).toNat)) = true else (ws.getD 1 0).toNat / 2 ^ 32 ≤ 4096)
    (hsrc : (ws.getD 2 0).toNat % 8 = 0)
    (hps : sideRows false t .load [((ws.getD 2 0).toNat, (ws.getD 1 0).toNat / 2 ^ 32)] [] = .ok ps)
    (hc : CompletionWord t (ws.getD 3 0) cpl) :
    sendBlock a scope rel t ws = sendEff t (outstOf t (if (ws.getD 1 0).toNat / 2 ^ 32 ≤ 4096 then 6 else 7) cpl
      (BitVec.ofNat 26 (ws.getD 1 0).toNat) (sideRuns ps) (ws.getD 2 0) ((ws.getD 1 0).toNat / 2 ^ 32)) (ws.getD 0 0) scope rel := by
  have hform : ¬(nf (ws.getD 1 0).toNat 26 6 ≠ 0 ∨ idAgent (BitVec.ofNat 26 (ws.getD 1 0).toNat) < 0x444
      ∨ 0x447 < idAgent (BitVec.ofNat 26 (ws.getD 1 0).toNat) ∨ 2 ^ 24 < (ws.getD 1 0).toNat / 2 ^ 32) := by omega
  have hown : ¬(idPod (BitVec.ofNat 26 (ws.getD 1 0).toNat) = t.dev.pod.toNat
      ∧ populatedMod t (idMod (BitVec.ofNat 26 (ws.getD 1 0).toNat)) = false) := fun ⟨h, hn⟩ => by
    rw [if_pos h, hn] at hpod
    cases hpod
  have hfar : ¬(idPod (BitVec.ofNat 26 (ws.getD 1 0).toNat) ≠ t.dev.pod.toNat ∧ 4096 < (ws.getD 1 0).toNat / 2 ^ 32) := fun ⟨h, hn⟩ => by
    rw [if_neg h] at hpod
    omega
  unfold sendBlock
  dsimp only
  rw [if_neg hform, if_neg hown, if_neg hfar, if_neg (not_not_intro hsrc), hps]
  exact withCompletion_of_word _ hc

/-- The words of other modules that an eager message carries, asked for. -/
def sendGather (t : State) (o : Outst) : State × Bool :=
  if o.len ≤ 4096 then gather t (fibreAgent t) (runPieces o.runs) else (t, true)

theorem sendEff_of_gathered (hm : msgOut t t.fib.core < 32) (hp : allPerformed t t.fib.id = true) (hg : (sendGather t o).2 = true) :
    let r := releaseAt (sendGather t o).1 o.ten (sendGather t o).1.fib.core 4
    sendEff t o tag scope rel = .done (sendOut (if rel then releaseAt r o.ten r.fib.core scope else r) o tag scope rel) := by
  unfold sendGather at hg ⊢
  simp only [sendEff, Nat.not_le.mpr hm, hp, hg, Bool.not_true, Bool.false_eq_true, if_false]

theorem sendEff_of_missing (hm : msgOut t t.fib.core < 32) (hp : allPerformed t t.fib.id = true) (hg : (sendGather t o).2 = false) :
    sendEff t o tag scope rel = .later .fetch (.send o tag scope rel) (sendGather t o).1 := by
  unfold sendGather at hg ⊢
  simp only [sendEff, Nat.not_le.mpr hm, hp, hg, Bool.not_true, Bool.not_false, Bool.false_eq_true, if_false, if_true]

end

/-! RPOST (R215, R364). -/

/-- RPOST once its block is read. -/
def rpostBlock (a : Word) (t : State) (ws : List Word) : Eff :=
  if t.fib.ident.kind = .handler ∧ nb (ws.getD 5 0).toNat 7 = true then .trap cTILEUNDEF 64
  else if postReserved ws then .trap cRESBITS a
  else if nf (ws.getD 5 0).toNat 0 4 = 15 then .trap cFORMAT a
  else if (ws.getD 3 0).toNat % 32 ≠ 0 then .trap cALIGN (ws.getD 3 0)
  else match checkWord t (ws.getD 3 0) with
    | .bad c x => .trap c x
    | .wait w t => .park w t
    | .ok st =>
      match postDest t (recvOfBlock 0 t.fib ws st.pa) with
      | .error e => e
      | .ok r => postEff t r a

theorem exec_rpost (y : Bool) (ga : Reg) (la : Bool) (s : State) :
    exec (.rpost y ga la) s = issue s (msgUse (.rpost y ga la) y ga la) fun t v =>
      alignedBlock 32 12 t (arg v 0) (rpostBlock (arg v 0)) := rfl

section
variable {t : State} {a : Word} {ws : List Word} {st : Acc} {r : Recv}

theorem rpostBlock_of_checks (hk : t.fib.ident.kind = .handler → nb (ws.getD 5 0).toNat 7 = false) (hr : postReserved ws = false)
    (hf : nf (ws.getD 5 0).toNat 0 4 ≠ 15) (ha : (ws.getD 3 0).toNat % 32 = 0) (hw : checkWord t (ws.getD 3 0) = .ok st)
    (hd : postDest t (recvOfBlock 0 t.fib ws st.pa) = .ok r) : rpostBlock a t ws = postEff t r a := by
  have hh : ¬(t.fib.ident.kind = .handler ∧ nb (ws.getD 5 0).toNat 7 = true) := fun ⟨h, hn⟩ => by
    rw [hk h] at hn
    cases hn
  simp only [rpostBlock, if_neg hh, hr, if_neg hf, if_neg (not_not_intro ha), hw, hd, Bool.false_eq_true, if_false]

/-- The state in which a receive is posted: a release at die scope, and a number taken (R364). -/
def posting (t : State) (r : Recv) : Nat × State := freshId (releaseAt t r.ten t.fib.core 3)

section
variable (hp : allPerformed t t.fib.id = true)
include hp

theorem postEff_of_room (hd : (posting t r).2.sched.defer = false)
    (hn : (recvOf (posting t r).2 (dieOf (posting t r).2.fib.core)).posted.length < 4096) :
    postEff t r a = .done (postRecv (posting t r).2 (dieOf (posting t r).2.fib.core) { r with id := (posting t r).1 }) := by
  unfold posting at hd hn ⊢
  simp only [postEff, hp, hd, Nat.not_le.mpr hn, Bool.not_true, Bool.false_eq_true, if_false]

theorem postEff_of_full (hd : (posting t r).2.sched.defer = false)
    (hn : 4096 ≤ (recvOf (posting t r).2 (dieOf (posting t r).2.fib.core)).posted.length) : postEff t r a = .trap cQFULL a := by
  unfold posting at hd hn
  simp only [postEff, hp, hd, hn, Bool.not_true, Bool.false_eq_true, if_false, if_true]

theorem postEff_of_deferred (hd : (posting t r).2.sched.defer = true) :
    let z := (posting t r).2
    postEff t r a = .hold .post (setRecv z (dieOf z.fib.core) { recvOf z (dieOf z.fib.core) with
      posting := (recvOf z (dieOf z.fib.core)).posting ++ [(z.fib.id, a, { r with id := (posting t r).1 })] }) := by
  unfold posting at hd ⊢
  simp only [postEff, hp, hd, Bool.not_true, Bool.false_eq_true, if_false, if_true]

end

end

/-! RCANCEL, RPROBE and RSTAT (R365, R366). -/

/-- What RCANCEL does once it has issued. -/
def rcancelEff (t : State) (a : Word) : Eff :=
  if !aligned a 32 then .trap cALIGN a
  else if t.sched.defer then .hold (.cancel a) t
  else .done (cancelRecv t (dieOf t.fib.core) t.fib.ident.tenant a)

theorem exec_rcancel (y : Bool) (ga : Reg) (la : Bool) (s : State) : exec (.rcancel y ga la) s
    = issue s (msgUse (.rcancel y ga la) y ga la) fun t v => rcancelEff t (arg v 0) := rfl

/-- The earliest unexpected message that RPROBE's block matches. -/
def probed (t : State) (ws : List Word) : Option Packet :=
  let w2 := (ws.getD 2 0).toNat
  (recvOf t (dieOf t.fib.core)).unexp.find? fun p => p.ten == t.fib.ident.tenant
    && (p.src &&& BitVec.ofNat 26 (w2 / 2 ^ 32)) == (BitVec.ofNat 26 w2 &&& BitVec.ofNat 26 (w2 / 2 ^ 32))
    && (BitVec.ofNat 64 (msgTag p) &&& ws.getD 1 0) == (ws.getD 0 0 &&& ws.getD 1 0)

/-- RPROBE's result. -/
def probeWord (hit : Option Packet) : Word :=
  match hit with
  | some p => BitVec.ofNat 64 (2 ^ 63 + p.src.toNat * 2 ^ 32 + msgLen p % 2 ^ 32)
  | none => 0

/-- RPROBE once its block is read. -/
def rprobeBlock (a : Word) (gd : Reg) (t : State) (ws : List Word) : Eff :=
  if nf (ws.getD 2 0).toNat 26 6 ≠ 0 ∨ nf (ws.getD 2 0).toNat 58 6 ≠ 0 then .trap cRESBITS a
  else .done (setLong t gd (probeWord (probed t ws)) 0)

/-- How RPROBE and RSTAT use their fibre. -/
def probeUse (i : Instr) (y : Bool) (gd ga : Reg) (la : Bool) : Use := { plainUse i y [(ga, la)] gd with fail := true }

theorem exec_rprobe (y : Bool) (gd ga : Reg) (la : Bool) (s : State) :
    exec (.rprobe y gd ga la) s = issue s (probeUse (.rprobe y gd ga la) y gd ga la) fun t v =>
      alignedBlock 8 3 t (arg v 0) (rprobeBlock (arg v 0) gd) := rfl

/-- RSTAT's result: the posted receives and the unexpected messages of the tenant, or of every one. -/
def rstatWord (t : State) (a : Word) : Word :=
  let e := recvOf t (dieOf t.fib.core)
  let mine := fun (x : BitVec 4) => a == 1 || x == t.fib.ident.tenant
  BitVec.ofNat 64 ((e.posted.filter fun r => mine r.ten).length * 2 ^ 32 + (e.unexp.filter fun p => mine p.ten).length)

theorem exec_rstat (y : Bool) (gd ga : Reg) (la : Bool) (s : State) :
    exec (.rstat y gd ga la) s = issue s (probeUse (.rstat y gd ga la) y gd ga la) fun t v =>
      if 2 ≤ (arg v 0).toNat then .trap cRESBITS (arg v 0) else .done (setLong t gd (rstatWord t (arg v 0)) 0) := rfl

/-- Settles O48: each instruction by its block and its checks, in the spec's order. -/
theorem taggedMessages : Obligations.TaggedMessages := by
  unfold Obligations.TaggedMessages
  refine ⟨?send, ?rpost, ?rcancel, ?rprobe, ?rstat⟩
  case send =>
    intro s y ga la scope rel ws t ps cpl i u w1 dst len h ha hb hz hlo hhi hlen hpod hsrc hps hc hm hp g o r
    have he := (alignedBlock_of (sendBlock (operand s u 0) scope rel) ha hb).trans
      (sendBlock_of_checks hz hlo hhi hlen hpod hsrc hps hc)
    refine ⟨fun hg => (exec_send y ga la scope rel s).trans (issue_done h (he.trans (sendEff_of_gathered hm hp hg))),
      fun hg => (exec_send y ga la scope rel s).trans (issue_later h (he.trans (sendEff_of_missing hm hp hg)))⟩
  case rpost =>
    intro s y ga la ws t a r i u h ha hb hk hres hf h32 hw hd hp q z d p
    have he := (alignedBlock_of (rpostBlock (operand s u 0)) ha hb).trans (rpostBlock_of_checks hk hres hf h32 hw hd)
    refine ⟨fun hdef hn => ?posted, fun hdef hn => ?full, fun hdef => ?deferred⟩
    case posted => exact (exec_rpost y ga la s).trans (issue_done h (he.trans (postEff_of_room hp hdef hn)))
    case full => exact (exec_rpost y ga la s).trans (issue_trap_uncounted h (he.trans (postEff_of_full hp hdef hn)) (by decide))
    case deferred => exact (exec_rpost y ga la s).trans (issue_hold h (he.trans (postEff_of_deferred hp hdef)))
  case rcancel =>
    intro s y ga la i u t h
    refine ⟨fun ha => ?bad, fun ha hd => ?now, fun ha hd => ?later⟩
    case bad => exact (exec_rcancel y ga la s).trans (issue_trap_uncounted h (if_pos (misaligned ha)) (by decide))
    case now =>
      exact (exec_rcancel y ga la s).trans (issue_done h ((if_neg (not_misaligned ha)).trans (if_neg (Bool.eq_false_iff.mp hd))))
    case later => exact (exec_rcancel y ga la s).trans (issue_hold h ((if_neg (not_misaligned ha)).trans (if_pos hd)))
  case rprobe =>
    intro s y gd ga la ws t i u w2 hit h ha hb
    have he := alignedBlock_of (rprobeBlock (operand s u 0) gd) ha hb
    refine ⟨fun hr => ?bad, fun hz hz' => ?looked⟩
    case bad => exact (exec_rprobe y gd ga la s).trans (issue_trap_uncounted h (he.trans (if_pos hr)) (by decide))
    case looked =>
      have hd : rprobeBlock (operand s u 0) gd t ws = .done (setLong t gd (probeWord hit) 0) := if_neg fun hr =>
        hr.elim (fun k => k hz) (fun k => k hz')
      refine ⟨fun hn => ?none, fun p hn => ?some⟩
      case none =>
        rw [hn] at hd
        exact (exec_rprobe y gd ga la s).trans (issue_done h (he.trans hd))
      case some =>
        rw [hn] at hd
        exact (exec_rprobe y gd ga la s).trans (issue_done h (he.trans hd))
  case rstat =>
    intro s y gd ga la i u t e mine h
    refine ⟨fun hv => ?bad, fun hv => ?read⟩
    case bad => exact (exec_rstat y gd ga la s).trans (issue_trap_uncounted h (if_pos hv) (by decide))
    case read => exact (exec_rstat y gd ga la s).trans (issue_done h (if_neg (Nat.not_le.mpr hv)))

end Sys2Proof.Proofs

/-! Active messages, the handler table and switch memory (R210-R212, R367-R372, R430). -/

namespace Sys2Proof.Proofs

open Sys2Proof Sys2Proof.Machine Sys2Proof.Safety Sys2Proof.Laws

/-! AMSG (R367). -/

/-- How AMSG uses its fibre. -/
def amsgUse (y : Bool) (ga : Reg) (la : Bool) (gb : Reg) (lb : Bool) (scope : BitVec 4) (rel : Bool) : Use :=
  { plainUse (.amsg y ga la gb lb scope rel) y [(ga, la), (gb, lb), (1, false), (2, false), (3, false), (4, false), (5, false)] 0 with
    fail := true }

/-- The kind area of an active message: its HANDLER and four values. -/
def amsgArea (v : List Word) : List Byte :=
  leBytes 8 (arg v 1).toNat ++ leBytes 8 (arg v 2).toNat ++ leBytes 8 (arg v 3).toNat ++ leBytes 8 (arg v 4).toNat
    ++ leBytes 8 (arg v 5).toNat

/-- What AMSG does once it has issued. -/
def amsgIssued (scope : BitVec 4) (rel : Bool) (t : State) (v : List Word) : Eff :=
  let dst := (arg v 0).setWidth 26
  if 2 ^ 26 ≤ (arg v 0).toNat ∨ 1024 ≤ idAgent dst then .trap cRESBITS (arg v 0)
  else if handlerAllowed (arg v 1).toNat = false then .trap cRESBITS (arg v 1)
  else if idPod dst = t.dev.pod.toNat ∧ populatedMod t (idMod dst) = false then .trap cBOUND (arg v 0)
  else withCompletion t (arg v 6) fun cpl => amsgEff t (outstOf t 4 cpl dst [] 0 0) (amsgArea v) scope rel

theorem exec_amsg (y : Bool) (ga : Reg) (la : Bool) (gb : Reg) (lb : Bool) (scope : BitVec 4) (rel : Bool) (s : State) :
    exec (.amsg y ga la gb lb scope rel) s = issue s (amsgUse y ga la gb lb scope rel) (amsgIssued scope rel) := rfl

/-- An instruction whose effect reports a failure of its own. -/
theorem issue_report {s : State} {u : Use} {body : State → List Word → Eff} {c : Nat} {v : Word} (h : Issues s u)
    (hb : body (begun s u) (operands s u) = .report c v) : issue s u body = .next (raise (atReads s u.y) c v) := by
  rw [issue_of s u body h, hb]
  rfl

section
variable {scope : BitVec 4} {rel : Bool} {t : State} {v : List Word} {cpl : Option Nat} {o : Outst} {area : List Byte} {c : Nat}

/-- A completion word that fails a store's checks is the instruction's trap. -/
theorem withCompletion_of_fails {va : Word} (go : Option Nat → Eff) (hva : va ≠ 0) (h : WordFails t va c) :
    withCompletion t va go = .trap c va := by
  simp only [withCompletion, if_neg hva, checkWord_of_fails h]

theorem amsgIssued_of_form (hb : 2 ^ 26 ≤ (arg v 0).toNat ∨ 1024 ≤ idAgent ((arg v 0).setWidth 26)) :
    amsgIssued scope rel t v = .trap cRESBITS (arg v 0) := if_pos hb

section
variable (hlo : (arg v 0).toNat < 2 ^ 26) (hag : idAgent ((arg v 0).setWidth 26) < 1024)
include hlo hag

theorem amsgIssued_of_handler (hh : handlerAllowed (arg v 1).toNat = false) :
    amsgIssued scope rel t v = .trap cRESBITS (arg v 1) := by
  have hform : ¬(2 ^ 26 ≤ (arg v 0).toNat ∨ 1024 ≤ idAgent ((arg v 0).setWidth 26)) := by omega
  exact (if_neg hform).trans (if_pos hh)

variable (hh : handlerAllowed (arg v 1).toNat = true)
include hh

theorem amsgIssued_of_unpopulated (hpod : idPod ((arg v 0).setWidth 26) = t.dev.pod.toNat)
    (hm : populatedMod t (idMod ((arg v 0).setWidth 26)) = false) : amsgIssued scope rel t v = .trap cBOUND (arg v 0) := by
  have hform : ¬(2 ^ 26 ≤ (arg v 0).toNat ∨ 1024 ≤ idAgent ((arg v 0).setWidth 26)) := by omega
  exact (if_neg hform).trans ((if_neg (by simp [hh])).trans (if_pos ⟨hpod, hm⟩))

theorem amsgIssued_of_checks
    (hpod : idPod ((arg v 0).setWidth 26) = t.dev.pod.toNat → populatedMod t (idMod ((arg v 0).setWidth 26)) = true) :
    amsgIssued scope rel t v = withCompletion t (arg v 6) fun cpl =>
      amsgEff t (outstOf t 4 cpl ((arg v 0).setWidth 26) [] 0 0) (amsgArea v) scope rel := by
  have hform : ¬(2 ^ 26 ≤ (arg v 0).toNat ∨ 1024 ≤ idAgent ((arg v 0).setWidth 26)) := by omega
  have hown : ¬(idPod ((arg v 0).setWidth 26) = t.dev.pod.toNat ∧ populatedMod t (idMod ((arg v 0).setWidth 26)) = false) :=
    fun ⟨h, hn⟩ => by
      rw [hpod h] at hn
      cases hn
  exact (if_neg hform).trans ((if_neg (by simp [hh])).trans (if_neg hown))

end

/-- A message leaves: it is on record, and its packet is sent. -/
def amsgSent (t : State) (o : Outst) (area : List Byte) (scope : BitVec 4) (rel : Bool) : State :=
  let r := if rel then releaseAt t o.ten o.core scope else t
  let q := addOutst (freshId r).2 { o with id := (freshId r).1 }
  sendPacket q (mkPacket q o.core o.dst 4 o.ten (freshId r).1 scope rel area [])

theorem amsgEff_of_full (h : 32 ≤ msgOut t t.fib.core) : amsgEff t o area scope rel = .later .outst (.amsg o area scope rel) t :=
  if_pos h

/-- An AMSG that is no release follows nothing, and one that is follows accesses that are performed. -/
theorem amsg_follows (hp : rel = true → allPerformed t t.fib.id = true) : (rel && !allPerformed t t.fib.id) = false := by
  cases rel
  · rfl
  · rw [hp rfl]
    rfl

section
variable (hm : msgOut t t.fib.core < 32) (hp : rel = true → allPerformed t t.fib.id = true)
include hm hp

theorem amsgEff_of_completion {pa : Nat} (hu : unreachableId t o.dst = none) (hc : o.cpl = some pa) :
    amsgEff t o area scope rel = .done (amsgSent t o area scope rel) := by
  simp only [amsgEff, Nat.not_le.mpr hm, amsg_follows hp, hu, hc, Bool.false_eq_true, if_false, Option.isNone_some, amsgSent]

theorem amsgEff_of_synchronous (hu : unreachableId t o.dst = none) (hc : o.cpl = none) :
    amsgEff t o area scope rel
      = .hold (.amsg (freshId (if rel then releaseAt t o.ten o.core scope else t)).1) (amsgSent t o area scope rel) := by
  simp only [amsgEff, Nat.not_le.mpr hm, amsg_follows hp, hu, hc, Bool.false_eq_true, if_false, Option.isNone_none, if_true, amsgSent]

theorem amsgEff_of_cutOff (hu : unreachableId t o.dst = some c) (hc : o.cpl = none) :
    amsgEff t o area scope rel = .report c (zext o.dst) := by
  simp only [amsgEff, Nat.not_le.mpr hm, amsg_follows hp, hu, hc, Bool.false_eq_true, if_false]

theorem amsgEff_of_cutOff_completion {pa : Nat} (hu : unreachableId t o.dst = some c) (hc : o.cpl = some pa) :
    amsgEff t o area scope rel
      = .done (completeWord (if rel then releaseAt t o.ten o.core scope else t) o (causeStatus c)) := by
  simp only [amsgEff, Nat.not_le.mpr hm, amsg_follows hp, hu, hc, Bool.false_eq_true, if_false]

end

theorem completion_none {va : Word} (h : CompletionWord t va cpl) (hva : va = 0) : cpl = none := by
  obtain ⟨-, hc⟩ | ⟨hn, -⟩ := h
  · exact hc
  · exact absurd hva hn

theorem completion_some {va : Word} (h : CompletionWord t va cpl) (hva : va ≠ 0) : ∃ pa, cpl = some pa := by
  obtain ⟨hz, -⟩ | ⟨-, a, -, hc⟩ := h
  · exact absurd hz hva
  · exact ⟨a.pa, hc⟩

end

/-! HTSET and HTCLR (R368). -/

/-- How HTSET and HTCLR use their fibre. -/
def tableUse (i : Instr) (y : Bool) (reads : List (Reg × Bool)) : Use := { plainUse i y reads 0 with fail := true }

/-- What HTSET does once it has issued. -/
def htsetEff (t : State) (e p : Word) : Eff :=
  if 255 < e.toNat then .trap cBOUND e
  else if !aligned p 4 then .trap cALIGN p
  else rewriteEntry t e.toNat (BitVec.ofNat 65 (2 ^ 64 + p.toNat))

/-- What HTCLR does once it has issued. -/
def htclrEff (t : State) (e : Word) : Eff := if 255 < e.toNat then .trap cBOUND e else rewriteEntry t e.toNat 0

theorem exec_htset (y : Bool) (ga : Reg) (la : Bool) (gb : Reg) (lb : Bool) (s : State) : exec (.htset y ga la gb lb) s
    = issue s (tableUse (.htset y ga la gb lb) y [(ga, la), (gb, lb)]) fun t v => htsetEff t (arg v 0) (arg v 1) := rfl

theorem exec_htclr (y : Bool) (ga : Reg) (la : Bool) (s : State) :
    exec (.htclr y ga la) s = issue s (tableUse (.htclr y ga la) y [(ga, la)]) fun t v => htclrEff t (arg v 0) := rfl

section
variable {t : State} {e : Nat} {v : BitVec 65} (hp : allPerformed t t.fib.id = true)
include hp

/-- An entry that no rewrite is under way on is rewritten at once, where the fibre's work is not left to events (R211). -/
theorem rewriteEntry_of_free (hd : (releaseAt t t.fib.ident.tenant t.fib.core 4).sched.defer = false)
    (hf : ((tenantOf (releaseAt t t.fib.ident.tenant t.fib.core 4) t.fib.ident.tenant.toNat).rewrites.find? fun p => p.1 == e) = none) :
    rewriteEntry t e v = .done (putHandler (releaseAt t t.fib.ident.tenant t.fib.core 4) t.fib.ident.tenant.toNat e v) := by
  simp only [rewriteEntry, hp, hd, hf, Bool.not_true, Bool.false_eq_true, if_false]

theorem rewriteEntry_of_busy (hb : (releaseAt t t.fib.ident.tenant t.fib.core 4).sched.defer = true
      ∨ ((tenantOf (releaseAt t t.fib.ident.tenant t.fib.core 4) t.fib.ident.tenant.toNat).rewrites.find? fun p => p.1 == e) ≠ none) :
    rewriteEntry t e v = .hold (.rewrite (t.fib.ident.tenant.toNat * 256 + e))
      (startRewrite (releaseAt t t.fib.ident.tenant t.fib.core 4) t.fib.ident.tenant.toNat e v) := by
  simp only [rewriteEntry, hp, Bool.not_true, Bool.false_eq_true, if_false]
  split
  · rfl
  next hd =>
    split
    · rfl
    next hn => exact absurd hn (hb.resolve_left hd)

end

/-- Settles O49: AMSG by its checks and its destination, HTSET and HTCLR by the entry they rewrite. -/
theorem activeMessages : Obligations.ActiveMessages := by
  unfold Obligations.ActiveMessages
  refine ⟨?amsg, ?table⟩
  case amsg =>
    intro s y ga la gb lb scope rel cpl i u t f v dst h
    have hx : exec i s = issue s u (amsgIssued scope rel) := exec_amsg y ga la gb lb scope rel s
    rw [hx]
    refine ⟨fun hb => ?form, fun hlo hag hh => ?handler, fun hlo hag hh hpod hm => ?unpopulated, fun hlo hag hh hpod hv c hw => ?word,
      fun hlo hag hh hpod hc => ?sends⟩
    case form => exact issue_trap_uncounted h (amsgIssued_of_form hb) (by decide)
    case handler => exact issue_trap_uncounted h (amsgIssued_of_handler hlo hag hh) (by decide)
    case unpopulated => exact issue_trap_uncounted h (amsgIssued_of_unpopulated hlo hag hh hpod hm) (by decide)
    case word => exact issue_trap h ((amsgIssued_of_checks hlo hag hh hpod).trans (withCompletion_of_fails _ hv hw))
    case sends =>
      intro o area r n q z
      have he : amsgIssued scope rel t (operands s u) = amsgEff t o area scope rel :=
        (amsgIssued_of_checks hlo hag hh hpod).trans (withCompletion_of_word _ hc)
      refine ⟨fun hm => issue_later h (he.trans (amsgEff_of_full hm)), fun hm hp => ⟨fun hu => ⟨fun hv => ?sent, fun hv => ?held⟩,
        fun c hu => ⟨fun hv => ?raised, fun hv => ?completed⟩⟩⟩
      case sent =>
        obtain ⟨pa, hpa⟩ := completion_some hc hv
        exact issue_done h (he.trans (amsgEff_of_completion hm hp hu hpa))
      case held => exact issue_hold h (he.trans (amsgEff_of_synchronous hm hp hu (completion_none hc hv)))
      case raised => exact issue_report h (he.trans (amsgEff_of_cutOff hm hp hu (completion_none hc hv)))
      case completed =>
        obtain ⟨pa, hpa⟩ := completion_some hc hv
        exact issue_done h (he.trans (amsgEff_of_cutOff_completion hm hp hu hpa))
  case table =>
    intro s y ga la gb lb i reads v hi u t e ten r h
    have hperf (hp : allPerformed s s.fib.id = true) : allPerformed t t.fib.id = true := (allPerformed_begun s u).trans hp
    obtain ⟨rfl, rfl⟩ | ⟨rfl, rfl⟩ := hi
    case inl =>
      rw [(exec_htset y ga la gb lb s : exec _ s = issue s u fun t v => htsetEff t (arg v 0) (arg v 1))]
      refine ⟨fun hb => ?bound, fun hb _ ha => ?align, fun hb hv _ hp => ?rewrite⟩
      case bound => exact issue_trap_uncounted h (if_pos hb) (by decide)
      case align =>
        exact issue_trap_uncounted h ((if_neg (Nat.not_lt.mpr hb)).trans (if_pos (misaligned ha))) (by decide)
      case rewrite =>
        obtain ⟨ha, rfl⟩ := hv rfl
        have he : htsetEff t (operand s u 0) (operand s u 1) = rewriteEntry t e (BitVec.ofNat 65 (2 ^ 64 + (operand s u 1).toNat)) :=
          (if_neg (Nat.not_lt.mpr hb)).trans (if_neg (not_misaligned ha))
        exact ⟨fun hd hf => issue_done h (he.trans (rewriteEntry_of_free (hperf hp) hd hf)),
          fun hbusy => issue_hold h (he.trans (rewriteEntry_of_busy (hperf hp) hbusy))⟩
    case inr =>
      rw [(exec_htclr y ga la s : exec _ s = issue s u fun t v => htclrEff t (arg v 0))]
      refine ⟨fun hb => ?bound, fun _ hn => ?other, fun hb _ hv hp => ?rewrite⟩
      case bound => exact issue_trap_uncounted h (if_pos hb) (by decide)
      case other => cases hn
      case rewrite =>
        obtain rfl := hv rfl
        have he : htclrEff t (operand s u 0) = rewriteEntry t e 0 := if_neg (Nat.not_lt.mpr hb)
        exact ⟨fun hd hf => issue_done h (he.trans (rewriteEntry_of_free (hperf hp) hd hf)),
          fun hbusy => issue_hold h (he.trans (rewriteEntry_of_busy (hperf hp) hbusy))⟩

/-! Switch memory (R370-R372). -/

/-- How SMAL uses its fibre. -/
def smalUse (y : Bool) (gd ga : Reg) (la mir : Bool) : Use := { plainUse (.smal y gd ga la mir) y [(ga, la)] gd with fail := true }

/-- An allocation made: on record, and its granules zeroed. -/
def allocated (t : State) (x : Alloc) : State :=
  { t with
    allocs := t.allocs ++ [x]
    ms := { t.ms with mem := mzero t.ms.mem (switchPa t x.die (x.gran * 65536)) (x.count * 65536) } }

/-- SMAL's result where its granules have been placed, or nothing fits; `a` is its operand. -/
def smalPlaced (gd : Reg) (mir : Bool) (t : State) (a : Nat) (place : Option (Nat × Nat)) : Eff :=
  match place with
  | none => .done (setLong t gd 0 0)
  | some (d, g) => .done (setLong (allocated t ⟨d, g, nf a 0 14, mir, t.fib.ident.tenant, BitVec.ofNat 2 (nf a 16 2),
      BitVec.ofNat 2 (nf a 18 2), false, false⟩) gd (switchVa (d * 2 ^ 29 + g * 65536)) 0)

/-- What SMAL does once it has issued. -/
def smalEff (gd : Reg) (mir : Bool) (t : State) (w : Word) : Eff :=
  let a := w.toNat
  let n := nf a 0 14
  let ten := t.fib.ident.tenant
  if nf a 14 2 ≠ 0 ∨ a / 2 ^ 20 ≠ 0 ∨ nf a 16 2 = 3 ∨ nf a 18 2 = 3 ∨ n = 0 ∨ 15360 < n then .trap cRESBITS w
  else if (tenantOf t ten.toNat).quota.toNat < usedBy t ten + (if mir then 2 * n else n) then .trap cBOUND w
  else smalPlaced gd mir t a (placeRun t n mir)

theorem exec_smal (y : Bool) (gd ga : Reg) (la mir : Bool) (s : State) :
    exec (.smal y gd ga la mir) s = issue s (smalUse y gd ga la mir) fun t v => smalEff gd mir t (arg v 0) := rfl

/-- What SMFR does once it has issued. -/
def smfrEff (t : State) (w : Word) : Eff :=
  match allocBased t t.fib.ident.tenant w.toNat with
  | none => .trap cXNP w
  | some _ => freeEff t w

theorem exec_smfr (y : Bool) (ga : Reg) (la : Bool) (s : State) :
    exec (.smfr y ga la) s = issue s (msgUse (.smfr y ga la) y ga la) fun t v => smfrEff t (arg v 0) := rfl

theorem exec_smquota (y : Bool) (gd : Reg) (s : State) : exec (.smquota y gd) s
    = issue s { plainUse (.smquota y gd) y [] gd with fail := true } fun t _ => .done (setLong t gd (smaUse t t.fib.ident.tenant) 0) := rfl

theorem MemOnly.allocBased_eq {s t : State} (h : MemOnly s t) (ten : BitVec 4) (va : Nat) : allocBased t ten va = allocBased s ten va := by
  rw [h]
  rfl

section
variable {t : State} {w : Word} {a : Alloc}

theorem smfrEff_of_none (ha : allocBased t t.fib.ident.tenant w.toNat = none) : smfrEff t w = .trap cXNP w := by
  simp only [smfrEff, ha]

section
variable (ha : allocBased t t.fib.ident.tenant w.toNat = some a) (hp : allPerformed t t.fib.id = true)
include ha hp

theorem smfrEff_of_performed (hd : (releaseAt t t.fib.ident.tenant t.fib.core 4).sched.defer = false) :
    smfrEff t w = .done (freeAlloc (releaseAt t t.fib.ident.tenant t.fib.core 4) a) := by
  have hr : allocBased (releaseAt t t.fib.ident.tenant t.fib.core 4) t.fib.ident.tenant w.toNat = some a :=
    ((memOnly_releaseAt t _ _ _).allocBased_eq _ _).trans ha
  simp only [smfrEff, ha, freeEff, hp, hd, releaseAt_fib, hr, Bool.not_true, Bool.false_eq_true, if_false]

theorem smfrEff_of_deferred (hd : (releaseAt t t.fib.ident.tenant t.fib.core 4).sched.defer = true) :
    smfrEff t w = .hold (.free w.toNat) (releaseAt t t.fib.ident.tenant t.fib.core 4) := by
  simp only [smfrEff, ha, freeEff, hp, hd, Bool.not_true, Bool.false_eq_true, if_false, if_true]

end

end

/-- Settles O50: SMAL by its checks and where it finds room, SMFR by the allocation that it names. -/
theorem switchMemoryInstructions : Obligations.SwitchMemoryInstructions := by
  unfold Obligations.SwitchMemoryInstructions
  refine ⟨?smal, ?smfr, ?smquota⟩
  case smal =>
    intro s y gd ga la mir i u t a n ten reserved beyond h
    have hx : exec i s = issue s u fun t v => smalEff gd mir t (arg v 0) := exec_smal y gd ga la mir s
    rw [hx]
    refine ⟨fun hr => ?reserved, fun hr hb => ?beyond, fun hr hb hp => ?none, fun d g hr hb hp => ?placed⟩
    case reserved => exact issue_trap_uncounted h (if_pos hr) (by decide)
    case beyond => exact issue_trap_uncounted h ((if_neg hr).trans (if_pos hb)) (by decide)
    case none => exact issue_done h ((if_neg hr).trans ((if_neg hb).trans (congrArg (smalPlaced gd mir t a) hp)))
    case placed => exact issue_done h ((if_neg hr).trans ((if_neg hb).trans (congrArg (smalPlaced gd mir t a) hp)))
  case smfr =>
    intro s y ga la i u t r h
    have hx : exec i s = issue s u fun t v => smfrEff t (arg v 0) := exec_smfr y ga la s
    rw [hx]
    refine ⟨fun ha => issue_trap_uncounted h (smfrEff_of_none ha) (by decide), fun a ha hp => ?frees⟩
    case frees =>
      have hpt : allPerformed t t.fib.id = true := (allPerformed_begun s u).trans hp
      exact ⟨fun hd => issue_done h (smfrEff_of_performed ha hpt hd), fun hd => issue_hold h (smfrEff_of_deferred ha hpt hd)⟩
  case smquota =>
    intro s y gd u t h
    rw [exec_smquota]
    exact issue_done h rfl

end Sys2Proof.Proofs

/-! Keys, walks, histograms and queues (R373-R378). -/

namespace Sys2Proof.Proofs

open Sys2Proof Sys2Proof.Machine Sys2Proof.Safety Sys2Proof.Laws

/-! KLOAD and KTURN (R373, R374). -/

/-- KLOAD once its block is read. -/
def kloadBlock (rx : Bool) (t : State) (ws : List Word) : Eff :=
  let key := ws.flatMap fun w => leBytes 8 w.toNat
  if rx then .done (setPort t (ownPort t) (setRxIdle (portOf t (ownPort t)) (some key))) else keyEff t key

theorem kloadEff_eq (rx : Bool) (t : State) (a : Word) : kloadEff rx t a = alignedBlock 32 4 t a (kloadBlock rx) := rfl

theorem kloadBlock_tx {t : State} {ws : List Word} (h : (portOf t (ownPort t)).turning = false) :
    kloadBlock false t ws = .done (setPort t (ownPort t) (setTxIdle (portOf t (ownPort t))
      (some (ws.flatMap fun w => leBytes 8 w.toNat)))) := by
  simp only [kloadBlock, keyEff, h, Bool.false_eq_true, if_false]

section
variable {i : Instr} {t : State} (h : (portOf t (ownPort t)).turning = false)
include h

theorem kturnEff_of_noKey (hk : txIdle (portOf t (ownPort t)) = none) : kturnEff i t = .trap cILLEGAL (wordVal i) := by
  simp only [kturnEff, h, hk, Option.isNone_none, Bool.false_eq_true, if_false, if_true]

theorem kturnEff_of_key (hk : txIdle (portOf t (ownPort t)) ≠ none) (hr : (portOf t (ownPort t)).replay.length < 64) :
    kturnEff i t = .done (setPort t (ownPort t) (turnPort (portOf t (ownPort t)))) := by
  have hn : (txIdle (portOf t (ownPort t))).isNone = false := Option.isNone_eq_false_iff.mpr (Option.isSome_iff_ne_none.mpr hk)
  simp only [kturnEff, turnEff, h, hn, Nat.not_le.mpr hr, decide_false, Bool.or_self, Bool.false_eq_true, if_false]

end

/-! WALK (R375). -/

/-- How WALK uses its fibre. -/
def walkUse (y : Bool) (ga : Reg) (la : Bool) : Use :=
  { plainUse (.walk y ga la) y [(ga, la)] 0 with
    ctx := gangOnly (.walk y ga la)
    fail := true }

/-- What WALK does once it has issued. -/
def walkIssued (t : State) (a : Word) : Eff :=
  let w := walkerOf t (clusterOf t.fib.core)
  if !aligned a 32 then .trap cALIGN a
  else if w.gang.isSome && w.gang == gangKey t.fib then .trap cLEASE 6
  else graphEff t a

theorem exec_walk (y : Bool) (ga : Reg) (la : Bool) (s : State) :
    exec (.walk y ga la) s = issue s (walkUse y ga la) fun t v => walkIssued t (arg v 0) := rfl

/-- Whether node `k` of a graph is a task node. -/
def taskAt (gs : List (List Word)) (k : Nat) : Bool :=
  match gs[k]? with
  | some x => (nodeOf x).kind == 0
  | none => false

/-- The walker that a checked graph gives to a fibre's gang. -/
def walkerFor (f : Fibre) (t : State) (hs : List Word) (gs : List (List Word)) : Walker :=
  { Walker.reset with
    gang := gangKey f
    ten := f.ident.tenant
    pl := f.pl
    graph := gs.map nodeOf
    ready := [nf (hs.getD 0 0).toNat 16 16]
    done := hs.getD 1 0
    core := f.core
    who := { f.ident with lflags := launchFlags t f } }

/-- WALK once its nodes are read. -/
def nodesBlock (f : Fibre) (a : Word) (hs : List Word) (t : State) (ns : List Word) : Eff :=
  let gs := groups4 (nf (hs.getD 0 0).toNat 0 16) ns
  match firstBad (nf (hs.getD 0 0).toNat 0 16) (taskAt gs) 0 gs with
  | some k => .trap cRESBITS (a + BitVec.ofNat 64 (32 + 32 * k))
  | none => walkEff t (walkerFor f t hs gs)

/-- WALK once the graph's header is read. -/
def headBlock (f : Fibre) (a : Word) (t : State) (hs : List Word) : Eff :=
  let h0 := (hs.getD 0 0).toNat
  if nf h0 0 16 = 0 ∨ 256 < nf h0 0 16 ∨ nf h0 0 16 ≤ nf h0 16 16 ∨ h0 / 2 ^ 32 ≠ 0 ∨ hs.getD 2 0 ≠ 0 ∨ hs.getD 3 0 ≠ 0 then
    .trap cRESBITS a
  else readBlock (4 * nf h0 0 16) t (a + 32) [] (nodesBlock f a hs)

theorem graphEff_eq (t : State) (a : Word) : graphEff t a =
    let q := joinWalk t (clusterOf t.fib.core) t.fib.id
    if (walkerOf t (clusterOf t.fib.core)).gang.isSome || !walkTurn q (clusterOf t.fib.core) t.fib.id then .later .walker (.graph a) q
    else goOn (.graph a) (readBlock 4 q a [] (headBlock t.fib a)) := rfl

theorem joinWalk_fib (s : State) (cl f : Nat) : (joinWalk s cl f).fib = s.fib := by
  unfold joinWalk
  split <;> rfl

theorem walkerOf_joinWalk (s : State) (cl f d : Nat) : walkerOf (joinWalk s cl f) d = walkerOf s d := by
  unfold joinWalk
  split <;> rfl

section
variable {t r : State} {a : Word} {f : Fibre} {hs ns : List Word} {w : Walker}

theorem headBlock_of_checks (hn : nf (hs.getD 0 0).toNat 0 16 ≤ 256)
    (hst : nf (hs.getD 0 0).toNat 16 16 < nf (hs.getD 0 0).toNat 0 16) (hz : (hs.getD 0 0).toNat / 2 ^ 32 = 0)
    (h2 : hs.getD 2 0 = 0) (h3 : hs.getD 3 0 = 0) (hb : BlockReads (4 * nf (hs.getD 0 0).toNat 0 16) t (a + 32) ns r) :
    headBlock f a t hs = nodesBlock f a hs r ns := by
  have hok : ¬(nf (hs.getD 0 0).toNat 0 16 = 0 ∨ 256 < nf (hs.getD 0 0).toNat 0 16
      ∨ nf (hs.getD 0 0).toNat 0 16 ≤ nf (hs.getD 0 0).toNat 16 16 ∨ (hs.getD 0 0).toNat / 2 ^ 32 ≠ 0
      ∨ hs.getD 2 0 ≠ 0 ∨ hs.getD 3 0 ≠ 0) := by
    simp only [h2, h3, hz, ne_eq, not_true_eq_false, or_false]
    omega
  exact (if_neg hok).trans (readBlock_of [] _ hb)

theorem nodesBlock_of_good
    (h : firstBad (nf (hs.getD 0 0).toNat 0 16) (taskAt (groups4 (nf (hs.getD 0 0).toNat 0 16) ns)) 0
      (groups4 (nf (hs.getD 0 0).toNat 0 16) ns) = none) :
    nodesBlock f a hs t ns = walkEff t (walkerFor f t hs (groups4 (nf (hs.getD 0 0).toNat 0 16) ns)) := by
  simp only [nodesBlock, h]

theorem walkEff_of_performed (hp : allPerformed t t.fib.id = true) :
    walkEff t w = .done (setWalker (leaveWalk (releaseAt t t.fib.ident.tenant t.fib.core 2) t.fib.id) (clusterOf t.fib.core) w) := by
  simp only [walkEff, hp, Bool.not_true, Bool.false_eq_true, if_false]

/-- The first of those that wait for a free walker goes on with its graph. -/
theorem graphEff_of_turn (hg : (walkerOf t (clusterOf t.fib.core)).gang = none)
    (ht : walkTurn (joinWalk t (clusterOf t.fib.core) t.fib.id) (clusterOf t.fib.core) t.fib.id = true)
    (hb : BlockReads 4 (joinWalk t (clusterOf t.fib.core) t.fib.id) a hs r) :
    graphEff t a = goOn (.graph a) (headBlock t.fib a r hs) := by
  have hw : ((walkerOf t (clusterOf t.fib.core)).gang.isSome
      || !walkTurn (joinWalk t (clusterOf t.fib.core) t.fib.id) (clusterOf t.fib.core) t.fib.id) = false := by
    rw [hg, ht]
    rfl
  rw [graphEff_eq]
  dsimp only
  rw [hw, if_neg Bool.false_ne_true, readBlock_of [] _ hb, List.nil_append]

theorem graphEff_of_taken (hg : (walkerOf t (clusterOf t.fib.core)).gang ≠ none) :
    graphEff t a = .later .walker (.graph a) (joinWalk t (clusterOf t.fib.core) t.fib.id) := by
  have hs : (walkerOf t (clusterOf t.fib.core)).gang.isSome = true := Option.isSome_iff_ne_none.mpr hg
  rw [graphEff_eq]
  dsimp only
  rw [hs, Bool.true_or, if_pos rfl]

theorem walkIssued_of_own (ha : a.toNat % 32 = 0) (hg : (walkerOf t (clusterOf t.fib.core)).gang ≠ none)
    (ho : (walkerOf t (clusterOf t.fib.core)).gang = gangKey t.fib) : walkIssued t a = .trap cLEASE 6 := by
  have hs : (walkerOf t (clusterOf t.fib.core)).gang.isSome = true := Option.isSome_iff_ne_none.mpr hg
  refine (if_neg (not_misaligned ha)).trans (if_pos ?_)
  rw [hs, Bool.true_and, beq_iff_eq]
  exact ho

theorem walkIssued_of_other (ha : a.toNat % 32 = 0) (ho : (walkerOf t (clusterOf t.fib.core)).gang = none
      ∨ (walkerOf t (clusterOf t.fib.core)).gang ≠ gangKey t.fib) : walkIssued t a = graphEff t a := by
  refine (if_neg (not_misaligned ha)).trans (if_neg fun h => ?_)
  rw [Bool.and_eq_true, beq_iff_eq] at h
  obtain ⟨hs, he⟩ := h
  obtain hn | hn := ho
  · rw [hn] at hs
    cases hs
  · exact hn he

end

/-! HIST (R376). -/

/-- How HIST uses its fibre. -/
def histUse (y : Bool) (ga : Reg) (la : Bool) (gb : Reg) (lb : Bool) : Use :=
  { plainUse (.hist y ga la gb lb) y [(ga, la), (gb, lb)] 0 with
    ctx := gangOnly (.hist y ga la gb lb)
    fail := true }

/-- What HIST does once it has issued. -/
def histEff (t : State) (b n : Word) : Eff :=
  let w := walkerOf t (clusterOf t.fib.core)
  if w.gang.isNone || w.gang != gangKey t.fib then .trap cLEASE 5
  else if 255 < b.toNat then .trap cBOUND b
  else .done (setWalker t (clusterOf t.fib.core) { w with
    hist := tset w.hist b.toNat (BitVec.ofNat 32 (min (histBin w b.toNat + n.toNat) 4294967295)) })

theorem exec_hist (y : Bool) (ga : Reg) (la : Bool) (gb : Reg) (lb : Bool) (s : State) :
    exec (.hist y ga la gb lb) s = issue s (histUse y ga la gb lb) fun t v => histEff t (arg v 0) (arg v 1) := rfl

/-- The gang that holds the cluster's walker is the fibre's own. -/
theorem own_walker {t : State} (hg : (walkerOf t (clusterOf t.fib.core)).gang ≠ none)
    (ho : (walkerOf t (clusterOf t.fib.core)).gang = gangKey t.fib) :
    ¬((walkerOf t (clusterOf t.fib.core)).gang.isNone || (walkerOf t (clusterOf t.fib.core)).gang != gangKey t.fib) = true := by
  simp [hg, ← ho]

theorem other_walker {t : State} (h : (walkerOf t (clusterOf t.fib.core)).gang = none
      ∨ (walkerOf t (clusterOf t.fib.core)).gang ≠ gangKey t.fib) :
    ((walkerOf t (clusterOf t.fib.core)).gang.isNone || (walkerOf t (clusterOf t.fib.core)).gang != gangKey t.fib) = true := by
  obtain h | h := h <;> simp [h]

/-! GWTAKE (R378). -/

/-- What GWTAKE does once it has issued. -/
def gwtakeEff (gd : Reg) (t : State) (a : Word) : Eff :=
  let q := gwqOf t a.toNat
  if 15 < a.toNat then .trap cBOUND a
  else if q.armed && q.owner != t.fib.ident.tenant then .trap cWINDOW a
  else if behindAcquire t then .park .accesses t
  else if !q.armed || q.next == q.limit.setWidth 33 then .done (setLong t gd (BitVec.allOnes 64) 0)
  else .done (setLong (setGwq t a.toNat { q with next := q.next + 1 }) gd (q.next.setWidth 64) 0)

theorem exec_gwtake (y : Bool) (gd ga : Reg) (la : Bool) (s : State) :
    exec (.gwtake y gd ga la) s = issue s (probeUse (.gwtake y gd ga la) y gd ga la) fun t v => gwtakeEff gd t (arg v 0) := rfl

section
variable {gd : Reg} {t : State} {a : Word} (hk : a.toNat ≤ 15)
include hk

theorem gwtakeEff_of_foreign (ha : (gwqOf t a.toNat).armed = true) (ho : (gwqOf t a.toNat).owner ≠ t.fib.ident.tenant) :
    gwtakeEff gd t a = .trap cWINDOW a := by
  refine (if_neg (Nat.not_lt.mpr hk)).trans (if_pos ?_)
  simp [ha, ho]

variable (hb : behindAcquire t = false)
include hb

/-- A queue that is disarmed, or its tenant's and spent, gives no more. -/
theorem gwtakeEff_of_spent (h : (gwqOf t a.toNat).armed = false
      ∨ ((gwqOf t a.toNat).owner = t.fib.ident.tenant ∧ (gwqOf t a.toNat).next = (gwqOf t a.toNat).limit.setWidth 33)) :
    gwtakeEff gd t a = .done (setLong t gd (BitVec.allOnes 64) 0) := by
  refine (if_neg (Nat.not_lt.mpr hk)).trans ((if_neg ?_).trans ((if_neg ?_).trans (if_pos ?_)))
  · obtain h | ⟨ho, -⟩ := h
    · simp [h]
    · simp [ho]
  · simp [hb]
  · obtain h | ⟨-, hn⟩ := h
    · simp [h]
    · simp [hn]

theorem gwtakeEff_of_left (ha : (gwqOf t a.toNat).armed = true) (ho : (gwqOf t a.toNat).owner = t.fib.ident.tenant)
    (hn : (gwqOf t a.toNat).next ≠ (gwqOf t a.toNat).limit.setWidth 33) :
    gwtakeEff gd t a = .done (setLong (setGwq t a.toNat { gwqOf t a.toNat with next := (gwqOf t a.toNat).next + 1 }) gd
      ((gwqOf t a.toNat).next.setWidth 64) 0) := by
  refine (if_neg (Nat.not_lt.mpr hk)).trans ((if_neg ?_).trans ((if_neg ?_).trans (if_neg ?_)))
  · simp [ho]
  · simp [hb]
  · simpa [ha] using hn

end

theorem gangKey_begun (s : State) (u : Use) : gangKey (begun s u).fib = gangKey s.fib := by
  simp only [gangKey, begun_fib_ident]

theorem walkerOf_begun (s : State) (u : Use) (cl : Nat) : walkerOf (begun s u) cl = walkerOf s cl := by
  simp only [walkerOf, begun_walkers]

/-- Settles O51: KLOAD and KTURN by the port's keys, WALK by the walker of its cluster, HIST by its gang, GWTAKE by the queue. -/
theorem keysWalksAndQueues : Obligations.KeysWalksAndQueues := by
  unfold Obligations.KeysWalksAndQueues
  refine ⟨?kload, ?kturn, ?graph, ?taken, ?hist, ?gwtake⟩
  case kload =>
    intro s y ga la rx ws t i u p key h ha hb
    have hx : exec i s = issue s u fun t v => kloadEff rx t (arg v 0) := exec_kload y ga la rx s
    have he : kloadEff rx (begun s u) (operand s u 0) = kloadBlock rx t ws :=
      (kloadEff_eq rx _ _).trans (alignedBlock_of (kloadBlock rx) ha hb)
    rw [hx]
    refine ⟨fun hr => issue_done h (he.trans (if_pos hr)), fun hr hp => issue_done h (he.trans ?_)⟩
    rw [hr]
    exact kloadBlock_tx hp
  case kturn =>
    intro s y i u t p h hp
    have hx : exec i s = issue s u fun t _ => kturnEff i t := exec_kturn y s
    rw [hx]
    exact ⟨fun hk => issue_trap_uncounted h (kturnEff_of_noKey hp hk) (by decide),
      fun hk hr => issue_done h (kturnEff_of_key hp hk hr)⟩
  case graph =>
    intro s y ga la hs ns t r i u b cl h0 n gs h ha hg ht hb _ hn hst hz h2 h3 hbn hgood hp z
    have hx : exec i s = issue s u fun t v => walkIssued t (arg v 0) := exec_walk y ga la s
    have hjoin : joinWalk (begun s u) (clusterOf (begun s u).fib.core) (begun s u).fib.id = b := by
      rw [begun_fib_core, begun_fib_id]
    have hfree : (walkerOf (begun s u) (clusterOf (begun s u).fib.core)).gang = none := by
      rw [begun_fib_core, ← walkerOf_joinWalk (begun s u) (clusterOf s.fib.core) s.fib.id]
      exact hg
    have hfib : r.fib = (begun s u).fib := (blockReads_fib hbn).trans ((blockReads_fib hb).trans (joinWalk_fib _ _ _))
    have hw : walkIssued (begun s u) (operand s u 0) = .done (setWalker z cl (walkerFor (begun s u).fib r hs gs)) := by
      rw [walkIssued_of_other ha (.inl hfree), graphEff_of_turn hfree (by rw [hjoin, begun_fib_core, begun_fib_id]; exact ht)
        (by rw [hjoin]; exact hb), headBlock_of_checks hn hst hz h2 h3 hbn, nodesBlock_of_good hgood,
        walkEff_of_performed (by rw [hfib, begun_fib_id]; exact hp), hfib, begun_fib_core, begun_fib_id, begun_fib_ident]
      rfl
    rw [hx, issue_done h hw]
    simp only [walkerFor, gangKey_begun, begun_fib_core, begun_fib_ident, begun_fib_pl]
    rfl
  case taken =>
    intro s y ga la i u b w h ha
    have hx : exec i s = issue s u fun t v => walkIssued t (arg v 0) := exec_walk y ga la s
    have hw : walkerOf (begun s u) (clusterOf (begun s u).fib.core) = w := by rw [begun_fib_core, walkerOf_begun]
    rw [hx]
    refine ⟨fun hg ho => issue_trap_uncounted h (walkIssued_of_own ha (by rwa [hw]) (by rwa [hw, gangKey_begun])) (by decide),
      fun hg ho => ?later⟩
    case later =>
      have he : walkIssued (begun s u) (operand s u 0) = .later .walker (.graph (operand s u 0)) b := by
        rw [walkIssued_of_other ha (.inr (by rwa [hw, gangKey_begun])), graphEff_of_taken (by rwa [hw]), begun_fib_core, begun_fib_id]
      exact issue_later h he
  case hist =>
    intro s y ga la gb lb i u t cl w b h
    have hx : exec i s = issue s u fun t v => histEff t (arg v 0) (arg v 1) := exec_hist y ga la gb lb s
    have hk : gangKey t.fib = gangKey s.fib := gangKey_begun s u
    rw [hx]
    refine ⟨fun ho => ?foreign, fun hg ho hb => ?beyond, fun hg ho hb => ?counts⟩
    case foreign => exact issue_trap_uncounted h (if_pos (other_walker (by rwa [hk]))) (by decide)
    case beyond => exact issue_trap_uncounted h ((if_neg (own_walker hg (ho.trans hk.symm))).trans (if_pos hb)) (by decide)
    case counts => exact issue_done h ((if_neg (own_walker hg (ho.trans hk.symm))).trans (if_neg (Nat.not_lt.mpr hb)))
  case gwtake =>
    intro s y gd ga la i u t k q h
    have hx : exec i s = issue s u fun t v => gwtakeEff gd t (arg v 0) := exec_gwtake y gd ga la s
    rw [hx]
    exact ⟨fun hk => issue_trap_uncounted h (if_pos hk) (by decide), fun hk ha ho => issue_trap h (gwtakeEff_of_foreign hk ha ho),
      fun hk hb hq => issue_done h (gwtakeEff_of_spent hk hb hq), fun hk hb ha ho hn => issue_done h (gwtakeEff_of_left hk hb ha ho hn)⟩

end Sys2Proof.Proofs

/-! Words written out from the encoding tables (R251-R265). -/

namespace Sys2Proof.Proofs

open Sys2Proof Sys2Proof.Machine Sys2Proof.Safety Sys2Proof.Laws

/-- Settles O2: the words are concrete, and decoding them evaluates. -/
theorem wordsDecode : Obligations.WordsDecode := by
  unfold Obligations.WordsDecode
  refine ⟨?assigned, ?fieldNotZero, ?noOpcode, ?noSystem, ?noSpecial, ?notZero⟩
  case assigned => decide
  case fieldNotZero => rfl
  case noOpcode => rfl
  case noSystem => rfl
  case noSpecial => rfl
  case notZero => rfl

end Sys2Proof.Proofs

/-! The checks of the registers at issue (R39, R41, R45, R399, R406), and their order among the checks of R405. -/

namespace Sys2Proof.Proofs

open Sys2Proof Sys2Proof.Machine Sys2Proof.Safety Sys2Proof.Laws

/-! One register. -/

section
variable {f : Fibre} {y : Bool} {r : Reg}

/-- HZCHK lets a register pass that has no result pending, and every one of a marked instruction. -/
theorem hazard_passes (h : f.hzchk = false ∨ y = true ∨ pendOf f r = none) : (f.hzchk && !y && (pendOf f r).isSome) = false := by
  obtain h | h | h := h <;> simp [h]

theorem hazard_of_pending (hz : f.hzchk = true) (hy : y = false) (hp : (pendOf f r).isSome = true) :
    (f.hzchk && !y && (pendOf f r).isSome) = true := by
  simp [hz, hy, hp]

section
variable {k : Nat}

theorem readCheck_of_mark {e : Failure} (h : readMark k f r = some e) : readCheck f y k r = some (e.cause.toNat, e.addr) := by
  simp only [readCheck, h]

theorem readCheck_of_no_mark (h : readMark k f r = none) : readCheck f y k r =
    if f.hzchk && !y && (pendOf f r).isSome then some (cHAZARD, zext r)
    else if f.dchk && r != 0 && !isLive f r then some (cDEADREG, zext r)
    else none := by
  simp only [readCheck, h]

end

section
variable {freed : BitVec 16} (hr : r ≠ 0)
include hr

theorem destCheck_of_pending (h : (f.hzchk && !y && (pendOf f r).isSome) = true) : destCheck f y freed r = some (cHAZARD, zext r) :=
  (if_neg hr).trans (if_pos h)

/-- A write that HZCHK lets pass is within the budget or raises BOUND (R39, R45). -/
theorem destCheck_of_no_hazard (h : (f.hzchk && !y && (pendOf f r).isSome) = false) : destCheck f y freed r =
    if !(f.live &&& ~~~freed).getLsbD r.toNat && decide (f.ident.budget ≤ liveCount (f.live &&& ~~~freed))
    then some (cBOUND, zext r) else none :=
  (if_neg hr).trans (if_neg (by rw [h]; exact Bool.false_ne_true))

end

end

/-- Settles O35, check by check in their order. -/
theorem registerChecks : Obligations.RegisterChecks := by
  unfold Obligations.RegisterChecks
  intro f y k r freed
  refine ⟨fun e he => readCheck_of_mark he, ?hazardRead, ?dead, ?passes, rfl, ?hazardWritten, ?budget, ?fits⟩
  case hazardRead =>
    intro hm hz hy hp
    rw [readCheck_of_no_mark hm, if_pos (hazard_of_pending hz hy hp)]
  case dead =>
    intro hm hh hd hr hl
    have hdead : (f.dchk && r != 0 && !isLive f r) = true := by rw [hd, bne_iff_ne.mpr hr, isLive, hl, Bool.and_false]; rfl
    rw [readCheck_of_no_mark hm, hazard_passes hh, if_neg Bool.false_ne_true, if_pos hdead]
  case passes =>
    intro hm hh hd
    have hdead : (f.dchk && r != 0 && !isLive f r) = false := by
      obtain h | h | h := hd <;> simp [h, isLive]
    rw [readCheck_of_no_mark hm, hazard_passes hh, if_neg Bool.false_ne_true, hdead, if_neg Bool.false_ne_true]
  case hazardWritten => exact fun hr hz hy hp => destCheck_of_pending hr (hazard_of_pending hz hy hp)
  case budget =>
    intro hr hh hl hb
    rw [destCheck_of_no_hazard hr (hazard_passes hh), hl, decide_eq_true hb]
    rfl
  case fits =>
    intro hr hh hfit
    rw [destCheck_of_no_hazard hr (hazard_passes hh)]
    obtain hl | hb := hfit
    · rw [hl]
      rfl
    · rw [decide_eq_false (Nat.not_le.mpr hb), Bool.and_false, if_neg Bool.false_ne_true]

/-! The checks in their order. -/

/-- The first register read whose check fails gives the cause. -/
theorem readChecksFrom_of_first {f : Fibre} {y : Bool} {n : Nat} {all rs : List (Reg × Bool)} {i k : Nat} {r : Reg × Bool} {e : Nat × Word}
    (hk : rs[k]? = some r) (hbefore : ∀ j q, j < k → rs[j]? = some q → readCheck f y (n + readNo all (i + j) q.1) q.1 = none)
    (hr : readCheck f y (n + readNo all (i + k) r.1) r.1 = some e) : readChecksFrom f y n all i rs = some e := by
  induction rs generalizing i k with
  | nil => cases hk
  | cons q t ih =>
    cases k with
    | zero =>
      cases hk
      rw [Nat.add_zero] at hr
      simp only [readChecksFrom, hr]
    | succ m =>
      have hq : readCheck f y (n + readNo all i q.1) q.1 = none := hbefore 0 q (Nat.succ_pos m) rfl
      simp only [readChecksFrom, hq]
      refine ih hk (fun j p hj hp => ?_) ?_
      · rw [Nat.add_assoc, Nat.add_comm 1 j]
        exact hbefore (j + 1) p (Nat.succ_lt_succ hj) hp
      · rw [Nat.add_assoc, Nat.add_comm 1 m]
        exact hr

section
variable {s : State} {i : Instr} {y : Bool} {reads : List (Reg × Bool)} {dest : Reg}

/-- A register read that fails its check is the cause of an instruction whose encoding is admitted, with PFX 0. -/
theorem issueChecks_of_read {e : Nat × Word} (he : isEngine5 i = false) (hw : i.wf = true) (hp : s.fib.pfx = false)
    (hr : readChecks s.fib y s.sched.free reads = some e) : issueChecks s (plainUse i y reads dest) = some e := by
  simp [issueChecks, plainUse, he, hw, hp, hr]

/-- The register written is checked last. -/
theorem issueChecks_of_dest (he : isEngine5 i = false) (hw : i.wf = true) (hp : s.fib.pfx = false)
    (hr : readChecks s.fib y s.sched.free reads = none) :
    issueChecks s (plainUse i y reads dest) = destCheck s.fib y (freeMask (plainUse i y reads dest)) dest := by
  simp [issueChecks, plainUse, he, hw, hp, hr]

theorem issueChecks_of_not_wf (he : isEngine5 i = false) (hw : i.wf = false) :
    issueChecks s (plainUse i y reads dest) = some (rejectCause i, wordVal i) := by
  simp [issueChecks, plainUse, he, hw]

theorem issueChecks_of_pfx (he : isEngine5 i = false) (hw : i.wf = true) (hp : s.fib.pfx = true) :
    issueChecks s (plainUse i y reads dest) = some (cPREFIX, wordVal i) := by
  simp [issueChecks, plainUse, he, hw, hp]

end

theorem atReads_sched (s : State) (y : Bool) : (atReads s y).sched = s.sched := by cases y <;> rfl

theorem atReads_pfx (s : State) (y : Bool) : (atReads s y).fib.pfx = s.fib.pfx := by
  cases y
  · rfl
  · exact drain_pfx s.fib

/-- An instruction with its long results there and no failure pending raises what its checks find (R405). -/
theorem issue_of_check {s : State} {u : Use} (body : State → List Word → Eff) {e : Nat × Word} (hf : s.fib.failure = none)
    (hy : u.y = true → allReady s.fib = true) (hc : issueChecks (atReads s u.y) u = some e) :
    issue s u body = .next (raise (atReads s u.y) e.1 e.2) := by
  have hready : (u.y && !allReady s.fib) = false := by
    cases h : u.y
    · rfl
    · rw [hy h]
      rfl
  have hfail : (atReads s u.y).fib.failure = none := by
    cases u.y
    · exact hf
    · exact (drain_failure _).trans hf
  have hs : (if u.y = true then { s with fib := drain s.fib } else s) = atReads s u.y := rfl
  simp only [issue, hready, hs, hfail, hc, Option.isSome_none, Bool.false_and, Bool.false_eq_true, if_false]

/-- Settles O34, from the first of the checks that fails. -/
theorem issueCheckOrder : Obligations.IssueCheckOrder := by
  unfold Obligations.IssueCheckOrder
  intro s i y reads dest body u f he hf hy
  have raises {e : Nat × Word} (hc : issueChecks (atReads s y) u = some e) : issue s u body = .next (raise (atReads s y) e.1 e.2) :=
    issue_of_check body hf hy hc
  refine ⟨fun hw => raises (issueChecks_of_not_wf he hw), fun hw hp => raises (issueChecks_of_pfx he hw ((atReads_pfx s y).trans hp)),
    fun hw hp k r c x hk hbefore hr => raises (e := (c, x)) ?read, fun hw hp hreads c x hd => raises (e := (c, x)) ?dest⟩
  case read =>
    have hfirst : readChecks f y s.sched.free reads = some (c, x) := by
      refine readChecksFrom_of_first hk (fun j q hj hq => ?_) ?_
      · rw [Nat.zero_add]
        exact hbefore j q hj hq
      · rw [Nat.zero_add]
        exact hr
    exact issueChecks_of_read he hw ((atReads_pfx s y).trans hp) (by rw [atReads_sched]; exact hfirst)
  case dest =>
    have hall : readChecks f y s.sched.free reads = none := readChecks_none f y s.sched.free reads hreads
    exact (issueChecks_of_dest he hw ((atReads_pfx s y).trans hp) (by rw [atReads_sched]; exact hall)).trans hd

end Sys2Proof.Proofs

/-! The special registers (R34, R36, R37, R270, R307, R396): what each reads as, and what MTS writes of a fibre's own. -/

namespace Sys2Proof.Proofs

open Sys2Proof Sys2Proof.Machine Sys2Proof.Safety Sys2Proof.Laws

/-! Reading. -/

/-- FSTAT's fields fit in 16 bits, so none is lost (R34). -/
theorem fstat_toNat (f : Fibre) : (fstat f).toNat = f.flags.toNat + (if f.loops = [] then 0 else 2 ^ 7) + f.loops.length % 8 * 2 ^ 8
    + f.pl.toNat * 2 ^ 11 + (if f.hzchk then 2 ^ 13 else 0) + (if f.dchk then 2 ^ 14 else 0) + (if f.pfx then 2 ^ 15 else 0) := by
  have hflags := f.flags.isLt
  have hpl := f.pl.isLt
  rw [fstat, BitVec.toNat_ofNat, b1_mul, b1_mul, b1_mul]
  refine Nat.mod_eq_of_lt ?_
  split <;> split <;> split <;> split <;> omega

/-- ECAUSE's and MCAUSE's fields fit in 12 bits (R396). -/
theorem causeWord_toNat (x : TrapCtx) : (causeWord x).toNat = x.cause.toNat + x.ppl.toNat * 2 ^ 6 + (if x.ppfx then 2 ^ 8 else 0)
    + (if x.frame then 2 ^ 9 else 0) + (if x.dbl then 2 ^ 10 else 0) + (if x.rdir then 2 ^ 11 else 0) := by
  have hcause := x.cause.isLt
  have hppl := x.ppl.isLt
  rw [causeWord, BitVec.toNat_ofNat, b1_mul, b1_mul, b1_mul, b1_mul]
  refine Nat.mod_eq_of_lt ?_
  split <;> split <;> split <;> split <;> omega

theorem loopReg_of_no_loop {f : Fibre} (h : f.loops = []) (k : Nat) : loopReg f k = 0 := by simp only [loopReg, h]

theorem blockAddr_eq (pc : Word) (w : BitVec 16) : blockAddr pc w = BitVec.ofNat 64 (pc.toNat / 2 ^ 18 * 2 ^ 18 + 4 * w.toNat) := by
  rw [blockAddr, pcBlock, Nat.mul_comm w.toNat]

/-- LCOUNT, LSTART and LEND show the innermost level (R37). -/
theorem loopReg_of_loop {f : Fibre} {l : LoopLevel} {r : List LoopLevel} (h : f.loops = l :: r) : loopReg f 0 = l.count.setWidth 64
    ∧ loopReg f 1 = BitVec.ofNat 64 (f.pc.toNat / 2 ^ 18 * 2 ^ 18 + 4 * l.start.toNat)
    ∧ loopReg f 2 = BitVec.ofNat 64 (f.pc.toNat / 2 ^ 18 * 2 ^ 18 + 4 * l.stop.toNat) := by
  simp only [loopReg, h, blockAddr_eq]
  exact ⟨rfl, trivial, trivial⟩

theorem sregRead_mask (s : State) (k : Nat) : sregRead s (0x18 + k) = tget 0 (tenantOf s s.fib.ident.tenant.toNat).masks k := by
  rw [Nat.add_comm]
  rfl

/-- Settles O26, register by register. -/
theorem specialRegisterValues : Obligations.SpecialRegisterValues := by
  unfold Obligations.SpecialRegisterValues
  intro s f
  have hmod : sregRead s 0x10 = s.dev.mod.setWidth 64 := BitVec.ofNat_toNat 64 s.dev.mod
  exact ⟨fstat_toNat f, rfl, rfl, rfl, rfl, rfl, fun h => ⟨loopReg_of_no_loop h 0, loopReg_of_no_loop h 1, loopReg_of_no_loop h 2⟩,
    fun l r h => loopReg_of_loop h, rfl, rfl, rfl, rfl, causeWord_toNat f.sup, causeWord_toNat f.mon, rfl, hmod, rfl, rfl, rfl, rfl, rfl,
    fun k _ => sregRead_mask s k⟩

/-! Writing. -/

/-- What MTS keeps of the fibre, whichever register it names. -/
theorem sregWrite_keeps (f : Fibre) (r : Nat) (v : Word) : sregWrite f r v = { f with
    dchk := (sregWrite f r v).dchk
    hzchk := (sregWrite f r v).hzchk
    flags := (sregWrite f r v).flags
    loops := (sregWrite f r v).loops
    sup := (sregWrite f r v).sup
    mon := (sregWrite f r v).mon } := by
  unfold sregWrite
  split <;> rfl

theorem sregWrite_flags {r : Nat} (f : Fibre) (v : Word) (h : r ≠ 0) : (sregWrite f r v).flags = f.flags := by
  unfold sregWrite
  split
  · exact absurd rfl h
  all_goals rfl

theorem sregWrite_sup {r : Nat} (f : Fibre) (v : Word) (h : r < 0x09 ∨ 0x0B < r) : (sregWrite f r v).sup = f.sup := by
  unfold sregWrite
  split
  case h_5 | h_6 | h_7 => omega
  all_goals rfl

theorem sregWrite_mon {r : Nat} (f : Fibre) (v : Word) (h : r < 0x13 ∨ 0x15 < r) : (sregWrite f r v).mon = f.mon := by
  unfold sregWrite
  split
  case h_8 | h_9 | h_10 => omega
  all_goals rfl

/-- No write of a trap register makes or ends a frame (R396). -/
theorem sregWrite_sup_frame (f : Fibre) (r : Nat) (v : Word) : (sregWrite f r v).sup.frame = f.sup.frame := by
  unfold sregWrite
  split <;> rfl

theorem sregWrite_mon_frame (f : Fibre) (r : Nat) (v : Word) : (sregWrite f r v).mon.frame = f.mon.frame := by
  unfold sregWrite
  split <;> rfl

/-- A flag written as 1 is cleared, any other stays (R34). -/
theorem sregWrite_fstat_flag (f : Fibre) (v : Word) {k : Nat} (hk : k < 5) :
    (sregWrite f 0 v).flags.getLsbD k = (f.flags.getLsbD k && !v.getLsbD k) := by
  have hf : (sregWrite f 0 v).flags = f.flags &&& ~~~(v.setWidth 5) := rfl
  rw [hf, BitVec.getLsbD_and, BitVec.getLsbD_not, BitVec.getLsbD_setWidth, decide_eq_true hk, Bool.true_and, Bool.true_and]

/-- Settles O27: FSTAT's own write flag by flag, the rest from what each write keeps. -/
theorem fstatWrite : Obligations.FstatWrite := by
  unfold Obligations.FstatWrite
  intro f v g
  refine ⟨rfl, rfl, fun k hk => sregWrite_fstat_flag f v hk, rfl, fun r => ?_⟩
  intro h
  have hkeeps : h = _ := sregWrite_keeps f r v
  refine ⟨?_, ?_, ?_, ?_, ?_, ?_, sregWrite_flags f v, sregWrite_sup f v, sregWrite_mon f v, sregWrite_sup_frame f r v,
    sregWrite_mon_frame f r v⟩
  all_goals rw [hkeeps]

end Sys2Proof.Proofs

/-! Hardware loops (R54-R56, R285). -/

namespace Sys2Proof.Proofs

open Sys2Proof Sys2Proof.Machine Sys2Proof.Safety Sys2Proof.Laws

/-! LOOP. -/

/-- The conditions under which LOOP raises LOOPNEST (R54): four levels are active, or its last instruction lies in another block or
beyond the last of the enclosing level. -/
def LoopRefused (f : Fibre) (stop : Word) : Prop :=
  4 ≤ f.loops.length ∨ stop.toNat / 2 ^ 18 ≠ f.pc.toNat / 2 ^ 18 ∨ ∃ l r, f.loops = l :: r ∧ l.stop.toNat < (wordIndex stop).toNat

theorem pcBlock_ne_iff (a b : Word) : pcBlock a ≠ pcBlock b ↔ a.toNat / 2 ^ 18 ≠ b.toNat / 2 ^ 18 := by
  unfold pcBlock
  omega

/-- Whether LOOP's last instruction lies beyond the last of the enclosing level. -/
def beyondEnclosing (loops : List LoopLevel) (stop : Word) : Bool :=
  match loops with
  | [] => false
  | l :: _ => decide (l.stop.toNat < (wordIndex stop).toNat)

theorem beyondEnclosing_iff (loops : List LoopLevel) (stop : Word) :
    beyondEnclosing loops stop = true ↔ ∃ l r, loops = l :: r ∧ l.stop.toNat < (wordIndex stop).toNat := by
  cases loops with
  | nil => simp [beyondEnclosing]
  | cons l r => simp [beyondEnclosing]

theorem startLoop_eq (t : State) (n : BitVec 32) (dist : Nat) : startLoop t n dist =
    let stop := t.fib.pc + BitVec.ofNat 64 (4 * dist)
    if t.fib.loops.length ≥ 4 ∨ pcBlock stop ≠ pcBlock t.fib.pc ∨ beyondEnclosing t.fib.loops stop = true then .trap cLOOPNEST t.fib.pc
    else if n = 0 then .jump t (stop + 4)
    else .jump { t with fib := { t.fib with
      loops := ⟨n, wordIndex (t.fib.pc + 4), wordIndex stop⟩ :: t.fib.loops } } (t.fib.pc + 4) := rfl

section
variable {t : State} {n : BitVec 32} {dist : Nat}

theorem loopRefused_iff (f : Fibre) (stop : Word) : LoopRefused f stop ↔
    (f.loops.length ≥ 4 ∨ pcBlock stop ≠ pcBlock f.pc ∨ beyondEnclosing f.loops stop = true) := by
  rw [pcBlock_ne_iff, beyondEnclosing_iff]
  rfl

theorem startLoop_of_refused (h : LoopRefused t.fib (t.fib.pc + BitVec.ofNat 64 (4 * dist))) :
    startLoop t n dist = .trap cLOOPNEST t.fib.pc :=
  (startLoop_eq t n dist).trans (if_pos ((loopRefused_iff _ _).mp h))

variable (h : ¬LoopRefused t.fib (t.fib.pc + BitVec.ofNat 64 (4 * dist)))
include h

theorem startLoop_of_zero : startLoop t 0 dist = .jump t (t.fib.pc + BitVec.ofNat 64 (4 * dist) + 4) :=
  (startLoop_eq t 0 dist).trans ((if_neg (mt (loopRefused_iff _ _).mpr h)).trans (if_pos rfl))

theorem startLoop_of_count (hn : n ≠ 0) : startLoop t n dist = .jump { t with fib := { t.fib with
    loops := ⟨n, wordIndex (t.fib.pc + 4), wordIndex (t.fib.pc + BitVec.ofNat 64 (4 * dist))⟩ :: t.fib.loops } } (t.fib.pc + 4) :=
  (startLoop_eq t n dist).trans ((if_neg (mt (loopRefused_iff _ _).mpr h)).trans (if_neg hn))

end

theorem loopRefused_begun (s : State) (u : Use) (stop : Word) : LoopRefused (begun s u).fib stop ↔ LoopRefused s.fib stop := by
  simp only [LoopRefused, begun_fib_loops, begun_fib_pc]

theorem exec_loopReg (y : Bool) (ga : Reg) (la : Bool) (dist : BitVec 14) (s : State) : exec (.loopReg y ga la dist) s
    = issue s (plainUse (.loopReg y ga la dist) y [(ga, la)] 0) fun t v => startLoop t ((arg v 0).setWidth 32) dist.toNat := rfl

theorem exec_loopImm (y : Bool) (count : BitVec 16) (dist : BitVec 8) (s : State) : exec (.loopImm y count dist) s
    = issue s (plainUse (.loopImm y count dist) y [] 0) fun t _ => startLoop t (count.setWidth 32) dist.toNat := rfl

/-- Both forms of LOOP start a level by the count that they find. -/
theorem loopStarts_of {s : State} {u : Use} {i : Instr} {n : BitVec 32} {dist : Nat} {body : State → List Word → Eff} (h : Issues s u)
    (hx : exec i s = issue s u body) (hb : body (begun s u) (operands s u) = startLoop (begun s u) n dist) :
    LoopStarts s u.y u i n dist := by
  have hr := loopRefused_begun s u ((begun s u).fib.pc + BitVec.ofNat 64 (4 * dist))
  rw [LoopStarts, hx]
  simp only [begun_fib_pc] at hr
  refine ⟨fun hc => ?refused, fun hc hn => ?skips, fun hc hn => ?pushes⟩
  case refused =>
    have he : startLoop (begun s u) n dist = .trap cLOOPNEST s.fib.pc := by
      rw [startLoop_of_refused (by rw [begun_fib_pc]; exact hr.mpr hc), begun_fib_pc]
    exact issue_trap_uncounted h (hb.trans he) (by decide)
  case skips =>
    have he : startLoop (begun s u) n dist = .jump (begun s u) (s.fib.pc + BitVec.ofNat 64 (4 * dist) + 4) := by
      rw [hn, startLoop_of_zero (by rw [begun_fib_pc]; exact mt hr.mp hc), begun_fib_pc]
    exact issue_jump h (hb.trans he)
  case pushes =>
    have he := startLoop_of_count (t := begun s u) (by rw [begun_fib_pc]; exact mt hr.mp hc) hn
    rw [begun_fib_pc, begun_fib_loops] at he
    exact issue_jump h (hb.trans he)

/-! ENDLOOP. -/

/-- What ENDLOOP does once it has issued. -/
def endloopEff (t : State) : Eff :=
  match t.fib.loops with
  | [] => .trap cLOOPNEST t.fib.pc
  | l :: r => .jump { t with fib := { t.fib with loops := r } } (blockAddr t.fib.pc l.stop + 4)

theorem exec_endloop (y : Bool) (s : State) :
    exec (.endloop y) s = issue s (plainUse (.endloop y) y [] 0) fun t _ => endloopEff t := rfl

theorem endloopEff_of_no_loop {t : State} (h : t.fib.loops = []) : endloopEff t = .trap cLOOPNEST t.fib.pc := by
  simp only [endloopEff, h]

theorem endloopEff_of_loop {t : State} {l : LoopLevel} {r : List LoopLevel} (h : t.fib.loops = l :: r) :
    endloopEff t = .jump { t with fib := { t.fib with loops := r } } (blockAddr t.fib.pc l.stop + 4) := by
  simp only [endloopEff, h]

theorem and_not_getLsbD_zero (b : Bool) (k : Nat) : (b && !(0 : BitVec 16).getLsbD k) = b := by
  have hz : (0 : BitVec 16).getLsbD k = false := BitVec.getLsbD_zero
  rw [hz, Bool.not_false, Bool.and_true]

/-- A fibre whose registers stay as they are. -/
theorem sameRegs_of_same {f g : Fibre} (d : Reg) (hr : g.regs = f.regs) (hl : g.live = f.live) (hm : g.marks = f.marks) :
    SameRegs f g d 0 := by
  intro r _
  rw [hr, hl, hm]
  exact ⟨rfl, (and_not_getLsbD_zero _ _).symm, rfl⟩

/-- The state in which an instruction goes to an address with a loop stack of its own. -/
def wentWithLoops (s : State) (u : Use) (loops : List LoopLevel) (pc : Word) : State :=
  wentTo u { begun s u with fib := { (begun s u).fib with loops := loops } } pc

section
variable (s : State) (u : Use) (loops : List LoopLevel) (pc : Word)

theorem wentWithLoops_loops : (wentWithLoops s u loops pc).fib.loops = loops := rfl

theorem wentWithLoops_pc : (wentWithLoops s u loops pc).fib.pc = pc := rfl

theorem wentWithLoops_regs : (wentWithLoops s u loops pc).fib.regs = (begun s u).fib.regs := rfl

theorem wentWithLoops_live : (wentWithLoops s u loops pc).fib.live = (begun s u).fib.live := rfl

theorem wentWithLoops_marks : (wentWithLoops s u loops pc).fib.marks = (begun s u).fib.marks := rfl

theorem wentWithLoops_flags : (wentWithLoops s u loops pc).fib.flags = (begun s u).fib.flags := rfl

theorem onlyFibre_wentWithLoops : OnlyFibre s (wentWithLoops s u loops pc) := by
  have honly := onlyFibre_begun s u
  unfold OnlyFibre at honly ⊢
  unfold wentWithLoops wentTo
  rw [honly]

end

theorem exec_endloop_of_loop {s : State} {y : Bool} {l : LoopLevel} {r : List LoopLevel} (h : Issues s (plainUse (.endloop y) y [] 0))
    (hl : s.fib.loops = l :: r) : exec (.endloop y) s
      = .next (wentWithLoops s (plainUse (.endloop y) y [] 0) r (blockAddr s.fib.pc l.stop + 4)) := by
  have he := endloopEff_of_loop ((begun_fib_loops s (plainUse (.endloop y) y [] 0)).trans hl)
  refine (exec_endloop y s).trans ((issue_jump h he).trans (next_eq ?_))
  rw [wentWithLoops, begun_fib_pc]

/-! The end test (R55). -/

theorem endTest_of_other {pc : Word} {l : LoopLevel} (r : List LoopLevel) (h : l.stop ≠ wordIndex pc) :
    endTest pc (l :: r) = (l :: r, pc + 4) := if_neg h

theorem endTest_of_iterations {pc : Word} {l : LoopLevel} (r : List LoopLevel) (h : l.stop = wordIndex pc) (hc : l.count ≠ 1) :
    endTest pc (l :: r) = ({ l with count := l.count - 1 } :: r, blockAddr pc l.start) :=
  (if_pos h).trans (if_pos (sub_ne_zero.mpr hc))

theorem endTest_of_last {pc : Word} {l : LoopLevel} (r : List LoopLevel) (h : l.stop = wordIndex pc) (hc : l.count = 1) :
    endTest pc (l :: r) = endTest pc r :=
  (if_pos h).trans (if_neg (not_not_intro (sub_eq_zero.mpr hc)))

/-- Settles O10: LOOP by its checks and its count, ENDLOOP by the loop stack, and the end test by the innermost level. -/
theorem hardwareLoops : Obligations.HardwareLoops := by
  unfold Obligations.HardwareLoops
  refine ⟨⟨?reg, ?imm, ?endloop⟩, fun _ => rfl, fun pc l r h => endTest_of_other r h, fun pc l r h hc => endTest_of_iterations r h hc,
    fun pc l r h hc => endTest_of_last r h hc⟩
  case reg =>
    intro s y ga la dist u h
    exact loopStarts_of h (exec_loopReg y ga la dist s) rfl
  case imm =>
    intro s y count dist u h
    exact loopStarts_of h (exec_loopImm y count dist s) rfl
  case endloop =>
    intro s y u h
    have hfib : (begun s u).fib = (atReads s y).fib := begun_fib_of_no_reads s rfl
    refine ⟨fun hl => ?none, fun l r hl => ⟨_, exec_endloop_of_loop h hl, wentWithLoops_loops _ _ _ _, wentWithLoops_pc _ _ _ _, ?regs,
      ?flags, onlyFibre_wentWithLoops _ _ _ _⟩⟩
    case none =>
      have he := endloopEff_of_no_loop ((begun_fib_loops s u).trans hl)
      rw [begun_fib_pc] at he
      exact (exec_endloop y s).trans (issue_trap_uncounted h he (by decide))
    case regs =>
      exact sameRegs_of_same 0 ((wentWithLoops_regs _ _ _ _).trans (congrArg Fibre.regs hfib))
        ((wentWithLoops_live _ _ _ _).trans (congrArg Fibre.live hfib)) ((wentWithLoops_marks _ _ _ _).trans (congrArg Fibre.marks hfib))
    case flags => exact (wentWithLoops_flags _ _ _ _).trans (congrArg Fibre.flags hfib)

end Sys2Proof.Proofs

/-! The frames of the register instructions (R40, R42, R55, R100, R108, R276, R280). -/

namespace Sys2Proof.Proofs

open Sys2Proof Sys2Proof.Machine Sys2Proof.Safety Sys2Proof.Laws

/-! What freeing, writing and completing keep of each register and of the rest of the fibre. -/

theorem getLsbD_freeRegs_live (f : Fibre) (m : BitVec 16) (r : Reg) :
    (freeRegs f m).live.getLsbD r.toNat = (f.live.getLsbD r.toNat && !m.getLsbD r.toNat) := by
  unfold freeRegs
  split
  case isTrue h => rw [h, and_not_getLsbD_zero]
  case isFalse => rw [BitVec.getLsbD_and, BitVec.getLsbD_not, decide_eq_true r.isLt, Bool.true_and]

/-- Freed registers stay as they are but that they are dead (R40). -/
theorem sameRegs_freeRegs (f : Fibre) (d : Reg) (m : BitVec 16) : SameRegs f (freeRegs f m) d m := by
  intro r _
  rw [freeRegs_regs, freeRegs_marks]
  exact ⟨rfl, getLsbD_freeRegs_live f m r, rfl⟩

section
variable {f g h : Fibre} {d r : Reg} {m : BitVec 16}

theorem get_set_other {α : Type} (v : Vector α 16) (x : α) (hr : r ≠ d) : (v.set d.toFin x d.toFin.isLt).get r.toFin = v.get r.toFin :=
  Vector.getElem_set_ne d.toFin.isLt r.toFin.isLt fun e => hr (BitVec.eq_of_toNat_eq e.symm)

theorem getLsbD_or_regBit_other (l : BitVec 16) (hr : r ≠ d) : (l ||| regBit d).getLsbD r.toNat = l.getLsbD r.toNat := by
  rw [BitVec.getLsbD_or, getLsbD_regBit, decide_eq_false hr.symm, Bool.or_false]

/-- A short result changes no register but its own (R42). -/
theorem sameRegs_writeShort (h : SameRegs f g d m) (v : Word) : SameRegs f (writeShort g d v) d m := by
  intro r hr
  obtain ⟨hv, hl, hm⟩ := h r hr
  by_cases hd : d = 0
  · rw [hd, writeShort_zero]
    exact ⟨hv, hl, hm⟩
  · have hn : r.toNat ≠ d.toNat := fun e => hr (BitVec.eq_of_toNat_eq e)
    rw [writeShort_of_ne_zero g v hd, putReg_of_ne_zero _ v hd]
    exact ⟨(get_set_other _ v hr).trans hv, (getLsbD_or_regBit_other _ hr).trans hl, (find_tdel_other g.marks hn).trans hm⟩

theorem sameStatus_trans (h1 : SameStatus f g) (h2 : SameStatus g h) : SameStatus f h := by
  unfold SameStatus at *
  grind

end

/-- An instruction changes no register before its own effect but for those that it frees. -/
theorem sameRegs_begun (s : State) (u : Use) : SameRegs (atReads s u.y).fib (begun s u).fib u.dest (freeMask u) :=
  sameRegs_freeRegs (atReads s u.y).fib u.dest (freeMask u)

theorem sameStatus_freeRegs (f : Fibre) (m : BitVec 16) : SameStatus f (freeRegs f m) := by
  rw [freeRegs_keeps]
  exact ⟨rfl, rfl, rfl, rfl, rfl, rfl, rfl, rfl, rfl, rfl, rfl, rfl⟩

theorem sameStatus_begun (s : State) (u : Use) : SameStatus (atReads s u.y).fib (begun s u).fib :=
  sameStatus_freeRegs (atReads s u.y).fib (freeMask u)

theorem sameStatus_writeShort (f : Fibre) (d : Reg) (v : Word) : SameStatus f (writeShort f d v) := by
  rw [writeShort_keeps]
  exact ⟨rfl, rfl, rfl, rfl, rfl, rfl, rfl, rfl, rfl, rfl, rfl, rfl⟩

theorem sameStatus_completed (f : Fibre) (u : Use) : SameStatus f (stepPc (issued f u)) :=
  ⟨rfl, rfl, rfl, rfl, rfl, rfl, rfl, rfl, rfl, rfl, rfl, rfl⟩

/-- What a long result keeps of the fibre (R42). -/
theorem writeLong_keeps (f : Fibre) (n : Nat) (d : Reg) (v : Word) (fl : BitVec 5) : writeLong f n d v fl = { f with
    regs := (writeLong f n d v fl).regs
    live := (writeLong f n d v fl).live
    marks := (writeLong f n d v fl).marks
    pend := (writeLong f n d v fl).pend } := by
  unfold writeLong addPend makeLive
  repeat' split
  all_goals rfl

theorem sameStatus_writeLong (f : Fibre) (n : Nat) (d : Reg) (v : Word) (fl : BitVec 5) : SameStatus f (writeLong f n d v fl) := by
  rw [writeLong_keeps]
  exact ⟨rfl, rfl, rfl, rfl, rfl, rfl, rfl, rfl, rfl, rfl, rfl, rfl⟩

/-- The issue of a long result changes no register but its own, which it makes live (R40, R44). -/
theorem makeLive_other (f : Fibre) {d r : Reg} (hr : r ≠ d) : (makeLive f d).regs.get r.toFin = f.regs.get r.toFin
    ∧ (makeLive f d).live.getLsbD r.toNat = f.live.getLsbD r.toNat := by
  unfold makeLive
  split
  case isTrue => exact ⟨rfl, rfl⟩
  case isFalse =>
    split
    case isTrue => exact ⟨rfl, rfl⟩
    case isFalse => exact ⟨get_set_other _ 0 hr, getLsbD_or_regBit_other _ hr⟩

theorem writeLong_other (f : Fibre) (n : Nat) {d r : Reg} (v : Word) (fl : BitVec 5) (hr : r ≠ d) :
    (writeLong f n d v fl).regs.get r.toFin = f.regs.get r.toFin
    ∧ (writeLong f n d v fl).live.getLsbD r.toNat = f.live.getLsbD r.toNat := by
  unfold writeLong
  split
  case isTrue => exact ⟨rfl, rfl⟩
  case isFalse => exact makeLive_other f hr

theorem sameMemory_of_onlyFibre {s t : State} (h : OnlyFibre s t) : SameMemory s t := by
  unfold OnlyFibre at h
  rw [h]
  exact fun _ => rfl

theorem onlyFibre_trans {s t r : State} (h : OnlyFibre s t) (k : OnlyFibre t r) : OnlyFibre s r := by
  unfold OnlyFibre at *
  rw [k, h]

section
variable {s : State} {u : Use}

/-- A completed instruction makes the end test at its own address (R55). -/
theorem endTest_completed {t : State} (hpc : t.fib.pc = s.fib.pc) (hl : t.fib.loops = s.fib.loops) :
    ((finished u t).fib.loops, (finished u t).fib.pc) = endTest s.fib.pc s.fib.loops := by
  rw [← hpc, ← hl]
  rfl

/-- An instruction that takes no value of FPFX issues with PFX 0, and leaves it 0 (R117). -/
theorem finished_pfx_of_issues {t : State} (h : Issues s u) (hu : u.pfxOk = false) (ht : t.fib.pfx = s.fib.pfx) :
    (finished u t).fib.pfx = false := by
  have hp : s.fib.pfx = false := Bool.eq_false_iff.mpr fun hs => Bool.false_ne_true (hu.symm.trans (h.takesPrefix hs))
  have hf : (finished u t).fib.pfx = (t.fib.pfx && !u.pfxOk) := rfl
  rw [hf, ht, hp, Bool.false_and]

/-- The frame of an instruction with a short result (R42). -/
theorem short_frame (h : Issues s u) (hu : u.pfxOk = false) (v : Word) :
    let t := finished u (setShort (begun s u) u.dest v)
    OnlyFibre s t ∧ SameMemory s t ∧ SameRegs (atReads s u.y).fib t.fib u.dest (freeMask u)
      ∧ SameStatus (atReads s u.y).fib t.fib ∧ t.fib.flags = (atReads s u.y).fib.flags
      ∧ t.fib.pfx = false ∧ (t.fib.loops, t.fib.pc) = endTest s.fib.pc s.fib.loops := by
  intro t
  have honly : OnlyFibre s t := onlyFibre_trans (onlyFibre_begun s u) rfl
  have hkeeps := writeShort_keeps (begun s u).fib u.dest v
  have hflags : (begun s u).fib.flags = (atReads s u.y).fib.flags := freeRegs_flags _ _
  exact ⟨honly, sameMemory_of_onlyFibre honly, sameRegs_writeShort (sameRegs_begun s u) v,
    sameStatus_trans (sameStatus_trans (sameStatus_begun s u) (sameStatus_writeShort _ _ v)) (sameStatus_completed _ u),
    (congrArg Fibre.flags hkeeps).trans hflags, finished_pfx_of_issues h hu ((congrArg Fibre.pfx hkeeps).trans (begun_fib_pfx s u)),
    endTest_completed ((congrArg Fibre.pc hkeeps).trans (begun_fib_pc s u)) ((congrArg Fibre.loops hkeeps).trans (begun_fib_loops s u))⟩

/-- The frame of an instruction with a long result (R42, R108). -/
theorem long_frame (v : Word) (fl : BitVec 5) : let t := finished u (setLong (begun s u) u.dest v fl)
    OnlyFibre s t ∧ SameMemory s t ∧ SameStatus (atReads s u.y).fib t.fib ∧ t.fib.flags = (atReads s u.y).fib.flags
      ∧ (∀ r : Reg, r ≠ u.dest → t.fib.regs.get r.toFin = (atReads s u.y).fib.regs.get r.toFin
        ∧ t.fib.live.getLsbD r.toNat = ((atReads s u.y).fib.live.getLsbD r.toNat && !(freeMask u).getLsbD r.toNat))
      ∧ (t.fib.loops, t.fib.pc) = endTest s.fib.pc s.fib.loops := by
  intro t
  have honly : OnlyFibre s t := onlyFibre_trans (onlyFibre_begun s u) rfl
  have hkeeps := writeLong_keeps (begun s u).fib (begun s u).sched.nextId u.dest v fl
  have hflags : (begun s u).fib.flags = (atReads s u.y).fib.flags := freeRegs_flags _ _
  refine ⟨honly, sameMemory_of_onlyFibre honly,
    sameStatus_trans (sameStatus_trans (sameStatus_begun s u) (sameStatus_writeLong _ _ _ v fl)) (sameStatus_completed _ u),
    (congrArg Fibre.flags hkeeps).trans hflags, fun r hr => ?other,
    endTest_completed ((congrArg Fibre.pc hkeeps).trans (begun_fib_pc s u)) ((congrArg Fibre.loops hkeeps).trans (begun_fib_loops s u))⟩
  case other =>
    obtain ⟨hv, hl, -⟩ := sameRegs_begun s u r hr
    obtain ⟨hv', hl'⟩ := writeLong_other (begun s u).fib (begun s u).sched.nextId v fl hr
    exact ⟨hv'.trans hv, hl'.trans hl⟩

end

/-- Settles O37: the next state of each instruction stands in O3 to O6, so the frame of its kind of result is its own. -/
theorem registerInstructionFrames : Obligations.RegisterInstructionFrames := by
  unfold Obligations.RegisterInstructionFrames
  obtain ⟨⟨add, sub, and, or, xor, andn, shl, shr, sar, ror, min, max, cmpeq, cmpne, cmplt, cmple⟩, clz, popc, sextb, sexth, sextw, zextb,
    zexth, zextw, -⟩ := integerShortResults
  obtain ⟨addi, andi, ori, xori, shli, shri, sari, rori, cmpeqi, cmplti, cmpltiUns, -⟩ := integerImmediates
  obtain ⟨mul, mulh, div, rem, hmix⟩ := integerLongResults
  obtain ⟨fadd, fsub, fmul, fdiv, -, fmin, fmax, fcmpEq, fcmpLt, fcmpLe, -⟩ := scalarFloatResults
  refine ⟨?short, ?long⟩
  case short =>
    intro s t i y gd ga gb la lb sat uns imm n two one u hi h he
    have hplain : u.pfxOk = false ∧ u.y = y ∧ u.dest = gd := by obtain ⟨rfl, -⟩ | ⟨rfl, -⟩ := hi <;> exact ⟨rfl, rfl, rfl⟩
    obtain ⟨hu, rfl, rfl⟩ := hplain
    have hout : ∃ v, exec i s = .next (finished u (setShort (begun s u) u.dest v)) := by
      obtain ⟨hu, hi⟩ | ⟨hu, hi⟩ := hi
      · rw [hu] at h ⊢
        rcases hi with rfl | rfl | rfl | rfl | rfl | rfl | rfl | rfl | rfl | rfl | rfl | rfl | rfl | rfl | rfl | rfl
        exacts [⟨_, add sat uns _ _ _ _ _ _ _ h⟩, ⟨_, sub sat uns _ _ _ _ _ _ _ h⟩, ⟨_, and _ _ _ _ _ _ _ h⟩, ⟨_, or _ _ _ _ _ _ _ h⟩,
          ⟨_, xor _ _ _ _ _ _ _ h⟩, ⟨_, andn _ _ _ _ _ _ _ h⟩, ⟨_, shl _ _ _ _ _ _ _ h⟩, ⟨_, shr _ _ _ _ _ _ _ h⟩,
          ⟨_, sar _ _ _ _ _ _ _ h⟩, ⟨_, ror _ _ _ _ _ _ _ h⟩, ⟨_, min uns _ _ _ _ _ _ _ h⟩, ⟨_, max uns _ _ _ _ _ _ _ h⟩,
          ⟨_, cmpeq _ _ _ _ _ _ _ h⟩, ⟨_, cmpne _ _ _ _ _ _ _ h⟩, ⟨_, cmplt uns _ _ _ _ _ _ _ h⟩, ⟨_, cmple uns _ _ _ _ _ _ _ h⟩]
      · rw [hu] at h ⊢
        rcases hi with rfl | rfl | rfl | rfl | rfl | rfl | rfl | rfl | rfl | rfl | rfl | rfl | rfl | rfl | rfl | rfl | rfl | rfl | rfl
        exacts [⟨_, clz _ _ _ _ _ h⟩, ⟨_, popc _ _ _ _ _ h⟩, ⟨_, sextb _ _ _ _ _ h⟩, ⟨_, sexth _ _ _ _ _ h⟩, ⟨_, sextw _ _ _ _ _ h⟩,
          ⟨_, zextb _ _ _ _ _ h⟩, ⟨_, zexth _ _ _ _ _ h⟩, ⟨_, zextw _ _ _ _ _ h⟩, ⟨_, addi imm _ _ _ _ _ h⟩, ⟨_, andi imm _ _ _ _ _ h⟩,
          ⟨_, ori imm _ _ _ _ _ h⟩, ⟨_, xori imm _ _ _ _ _ h⟩, ⟨_, shli n _ _ _ _ _ h⟩, ⟨_, shri n _ _ _ _ _ h⟩, ⟨_, sari n _ _ _ _ _ h⟩,
          ⟨_, rori n _ _ _ _ _ h⟩, ⟨_, cmpeqi imm _ _ _ _ _ h⟩, ⟨_, cmplti imm _ _ _ _ _ h⟩, ⟨_, cmpltiUns imm _ _ _ _ _ h⟩]
    obtain ⟨v, hv⟩ := hout
    obtain rfl : finished u (setShort (begun s u) u.dest v) = t := by injection hv.symm.trans he
    exact short_frame h hu v
  case long =>
    intro s t i y gd ga gb la lb uns p hi u h he
    have hout : ∃ v fl, exec i s = .next (finished u (setLong (begun s u) gd v fl)) := by
      rcases hi with rfl | rfl | rfl | rfl | rfl | rfl | rfl | rfl | rfl | rfl | rfl | rfl | rfl | rfl
      exacts [⟨_, _, mul _ _ _ _ _ _ _ h⟩, ⟨_, _, mulh uns _ _ _ _ _ _ _ h⟩, ⟨_, _, div uns _ _ _ _ _ _ _ h⟩,
        ⟨_, _, rem uns _ _ _ _ _ _ _ h⟩, ⟨_, _, hmix _ _ _ _ _ _ _ h⟩, ⟨_, _, fadd p _ _ _ _ _ _ _ h⟩, ⟨_, _, fsub p _ _ _ _ _ _ _ h⟩,
        ⟨_, _, fmul p _ _ _ _ _ _ _ h⟩, ⟨_, _, fdiv p _ _ _ _ _ _ _ h⟩, ⟨_, _, fmin p _ _ _ _ _ _ _ h⟩, ⟨_, _, fmax p _ _ _ _ _ _ _ h⟩,
        ⟨_, _, fcmpEq p _ _ _ _ _ _ _ h⟩, ⟨_, _, fcmpLt p _ _ _ _ _ _ _ h⟩, ⟨_, _, fcmpLe p _ _ _ _ _ _ _ h⟩]
    obtain ⟨v, fl, hv⟩ := hout
    obtain rfl : finished u (setLong (begun s u) gd v fl) = t := by injection hv.symm.trans he
    exact long_frame (u := u) v fl

end Sys2Proof.Proofs

/-! A step of the machine: the turn that the agenda lays down, or the one that the model chooses (R46, R93, R128, R253, R391, R405). -/

namespace Sys2Proof.Proofs

open Sys2Proof Sys2Proof.Machine Sys2Proof.Safety Sys2Proof.Laws

/-! Decoding a word and its bytes. -/

/-- A word's four bytes decode as the word does, and nothing is left over (R251). -/
theorem decodeWord_of_decode {w : BitVec 32} {i : Instr} (h : decode (bytesOfWord w) = .ok (i, [])) : decodeWord w = .ok i := by
  simp only [decode, decodeWith, bytesOfWord, bytes_word] at h
  cases hd : decodeNat w.toNat with
  | error e =>
    rw [hd] at h
    cases h
  | ok j =>
    rw [hd] at h
    cases h
    exact hd

/-! The bytes that a fetch reads. -/

/-- A number read byte by byte (R5). -/
theorem leNat_map_mget (m : List Host.Cell) (a n : Nat) : leNat ((List.range n).map fun i => mget m (a + i)) = mrd m a n := by
  induction n generalizing a with
  | zero => rfl
  | succ k ih =>
    have hshift : ((List.range k).map Nat.succ).map (fun i => mget m (a + i)) = (List.range k).map fun i => mget m (a + 1 + i) := by
      rw [List.map_map]
      exact List.map_congr_left fun i _ => congrArg (mget m) (Nat.add_right_comm a i 1)
    rw [List.range_succ_eq_map, List.map_cons, leNat, hshift, ih, mrd, Nat.add_zero]

section
variable {s : State} (h : s.ms.copies = [])
include h

/-- Without copies a core reads home storage (R134). -/
theorem byteVia_of_no_copies (core : Nat) (l1 : Bool) (a : Nat) : byteVia s core l1 a = mget s.ms.mem a := by
  simp [byteVia, copyAt, h]

theorem rdVia_of_no_copies (core : Nat) (l1 : Bool) (pa n : Nat) : rdVia s core l1 pa n = mrd s.ms.mem pa n := by
  simp only [rdVia, byteVia_of_no_copies h, leNat_map_mget]

theorem poisonVia_of_no_copies (core : Nat) (l1 : Bool) (pa n : Nat) : poisonVia s core l1 pa n = poisoned s pa n := by
  simp [poisonVia, h]

end

/-- A word of this module's memory, within reach, that is neither lost nor poisoned, is fetched as its 4 bytes (R128). -/
theorem fetchWord_of_home {t : State} {a : Acc} (ht : translateFibre t t.fib .fetch t.fib.pc.toNat = .ok a) (hr : regionOf a.pa < 4)
    (hm : isRemote t a.pa = false) (ho : outOfReach t t.fib a.pa = false) (hx : attrRefused t a = false) (hl : homeLost t a.pa = false)
    (hp : poisoned t a.pa 4 = false) (hc : t.ms.copies = []) : fetchWord t = .word (BitVec.ofNat 32 (mrd t.ms.mem a.pa 4)) t := by
  have h4 : regionOf a.pa ≠ 4 := by omega
  have h5 : regionOf a.pa ≠ 5 := by omega
  simp only [fetchWord, ht, wordAt, h4, h5, hm, ho, hx, hl, hp, poisonVia_of_no_copies hc, rdVia_of_no_copies hc, if_false,
    Bool.false_eq_true]

/-! What a fibre's turn does, by its state and by what it fetches. -/

section
variable {s : State} {i : Instr} {w : BitVec 32} {r : State}

theorem runFibre_of_instr (hf : fetchWord s = .word w r) (hd : decodeWord w = .ok i) : runFibre s = exec i r := by
  simp only [runFibre, hf, hd]

theorem runFibre_of_reject {e : Reject} (hf : fetchWord s = .word w r) (hd : decodeWord w = .error e) :
    runFibre s = .next (refuseWord r w e) := by
  simp only [runFibre, hf, hd]

theorem runFibre_of_fault {c : Nat} (hf : fetchWord s = .fault c) : runFibre s = .next (raise (found s c) c s.fib.pc) := by
  simp only [runFibre, hf, fetchFault]

theorem runFibre_of_came {c : Nat} (hf : fetchWord s = .came c) : runFibre s = .next (raise s c s.fib.pc) := by
  simp only [runFibre, hf]

theorem runFibre_of_later (hf : fetchWord s = .later r) : runFibre s = .next r := by
  simp only [runFibre, hf]

variable {n : Nat} {d : Bool} {x : Fibre} (hx : fibreOf s n = some x)
include hx

theorem runNext_of_fetches (h : Fetches x) : runNext s n d = runFibre (takeTurn s n d) := by
  obtain ⟨htrap, hdoom, hjob⟩ := h
  unfold runNext
  rw [hx]
  dsimp only
  split
  case h_1 c v hr => exact absurd hr (htrap c v)
  case h_2 hr => exact absurd hr hdoom
  case h_3 free dest fail w j hr => exact absurd hr (hjob free dest fail w j)
  case h_4 => rfl

theorem runNext_of_trap {c : Nat} {v : Word} (hr : x.run = .parked (.trap c v)) :
    runNext s n d = .next (raise (takeTurn s n d) c v) := by
  simp only [runNext, hx, hr]

theorem runNext_of_doom (hr : x.run = .parked .doom) : runNext s n d = .next (endTrap (takeTurn s n d)) := by
  simp only [runNext, hx, hr]

theorem runNext_of_job {free : BitVec 16} {dest : Reg} {fail : Bool} {w : Wait} {j : Job} (hr : x.run = .parked (.job free dest fail w j)) :
    runNext s n d = .next (resumeWith (takeTurn s n d) (jobUse free dest fail) (jobEff free dest j)) := by
  simp only [runNext, hx, hr]

end

/-! The step itself. -/

theorem settled_of_next {o : Out} {t : State} (h : o = .next t) : settled o = .next (settle t) := by
  rw [h]
  rfl

section
variable {s : State} (hf : s.dev.failed = false)
include hf

theorem step_of_agenda {t : Turn} {rest : List Turn} (ha : s.sched.agenda = t :: rest) :
    Machine.step s = settled (runTurn (beginTurn s) t) := by
  simp only [Machine.step, hf, Bool.false_eq_true, if_false, takeOne, ha]

theorem step_of_choice (ha : s.sched.agenda = []) : Machine.step s = settled (runChoice (beginTurn s) (choose (beginTurn s))) := by
  simp only [Machine.step, hf, Bool.false_eq_true, if_false, takeOne, ha]

theorem step_of_issue {n : Nat} {d : Bool} {rest : List Turn} (ha : s.sched.agenda = .issue n d :: rest)
    (hc : canIssue (beginTurn s) n = true) : Machine.step s = settled (runNext (beginTurn s) n d) :=
  (step_of_agenda hf ha).trans (congrArg settled (if_pos hc))

theorem step_of_event {e : Instr} {rest : List Turn} (ha : s.sched.agenda = .event e :: rest) (he : isEvent e = true) :
    Machine.step s = settled (exec e (beginTurn s)) :=
  (step_of_agenda hf ha).trans (congrArg settled (if_pos he))

end

/-- Settles O60: a step by its turn, a turn by its fibre's state, and an instruction by what its fetch gives. -/
theorem stepRunsInstruction : Obligations.StepRunsInstruction := by
  unfold Obligations.StepRunsInstruction
  refine ⟨?turn, fun s e rest hf ha he => step_of_event hf ha he, ?chosen⟩
  case turn =>
    intro s n d rest hf ha hc t
    have hstep : Machine.step s = settled (runNext (beginTurn s) n d) := step_of_issue hf ha hc
    refine ⟨fun x hx hfetch => ?fetches, fun x hx => ?goesOn,
      fun a ht hr hm ho hatt hl hp hcopies => fetchWord_of_home ht hr hm ho hatt hl hp hcopies⟩
    case fetches =>
      have hrun : Machine.step s = settled (runFibre t) :=
        hstep.trans (congrArg settled (runNext_of_fetches (s := beginTurn s) hx hfetch))
      exact ⟨fun i w r hw hd => hrun.trans (congrArg settled (runFibre_of_instr hw (decodeWord_of_decode hd))),
        fun e w r hw hd => hrun.trans (settled_of_next (runFibre_of_reject hw hd)),
        fun c hw => hrun.trans (settled_of_next (runFibre_of_fault hw)),
        fun c hw => hrun.trans (settled_of_next (runFibre_of_came hw)),
        fun r hw => hrun.trans (settled_of_next (runFibre_of_later hw))⟩
    case goesOn =>
      have hx' : fibreOf (beginTurn s) n = some x := hx
      exact ⟨fun c v hr => hstep.trans (settled_of_next (runNext_of_trap hx' hr)),
        fun hr => hstep.trans (settled_of_next (runNext_of_doom hx' hr)),
        fun free dest fail w j hr => hstep.trans (settled_of_next (runNext_of_job hx' hr))⟩
  case chosen =>
    intro s hf ha
    have hstep := step_of_choice hf ha
    refine ⟨fun n x i w r hchoice hx hfetch hw hd => ?issue, fun t hchoice => ?goto, fun hchoice => ?tick⟩
    case issue =>
      rw [hchoice] at hstep
      have hx' : fibreOf (beginTurn s) n = some x := hx
      exact hstep.trans (congrArg settled ((runNext_of_fetches hx' hfetch).trans (runFibre_of_instr hw (decodeWord_of_decode hd))))
    case goto =>
      rw [hchoice] at hstep
      exact hstep
    case tick =>
      rw [hchoice] at hstep
      exact hstep

end Sys2Proof.Proofs

/-! The instructions that end, trigger, yield, align and move a fibre (R46, R53, R60-R62, R288-R290). -/

namespace Sys2Proof.Proofs

open Sys2Proof Sys2Proof.Machine Sys2Proof.Safety Sys2Proof.Laws

/-! EXIT and TRIG (R60-R62, R288). -/

/-- How EXIT uses its fibre: a task that returns a value reads g1. -/
def exitUse (s : State) (y : Bool) : Use :=
  ⟨.exit y, true, false, 0, fun _ => none, if s.fib.ident.kind = .task ∧ s.fib.ident.ret ≠ 0 then [(1, false)] else [], 0, true⟩

/-- How TRIG uses its fibre. -/
def trigUse (y : Bool) : Use := ⟨.trig y, y, false, 0, gangOnly (.trig y), [], 0, true⟩

/-- Whom a trigger is told: a guest fibre's gang's home (R51, log entry 13), or its own launch, which it may settle (R61). -/
def tellTrigger (t : State) : State :=
  match t.fib.ident.guest with
  | some (m, n) => tellHome t t.fib m n 6 0
  | none => settleLaunch t t.fib.ident.launch

/-- What TRIG does once it has issued: a task's has no effect. -/
def trigIssued (t : State) : Eff := if t.fib.ident.kind = .task then .done t else trigEff t

/-- A fibre that has triggered, after its release at the trigger scope (R60). -/
def triggered (s : State) : State :=
  let r := releaseAt s s.fib.ident.tenant s.fib.core s.fib.ident.tscope
  { r with fib := { r.fib with triggered := true } }

theorem exec_exit (y : Bool) (s : State) : exec (.exit y) s = issue s (exitUse s y) fun t v => exitEff t (arg v 0) := rfl

theorem exec_trig (y : Bool) (s : State) : exec (.trig y) s = issue s (trigUse y) fun t _ => trigIssued t := rfl

section
variable {t : State}

theorem exitEff_of_performed (v : Word) (hp : allPerformed t t.fib.id = true) : exitEff t v = .raw (endFibre t t.fib.id v) := by
  rw [exitEff, hp]
  rfl

theorem exitEff_of_outstanding (v : Word) (hp : allPerformed t t.fib.id = false) : exitEff t v = .later .accesses (.exit v) t := by
  rw [exitEff, hp]
  rfl

theorem trigEff_of_outstanding (hp : allPerformed t t.fib.id = false) : trigEff t = .later .accesses .trig t := by
  rw [trigEff, hp]
  rfl

theorem triggered_ident (t : State) : (triggered t).fib.ident = t.fib.ident := (congrArg Fibre.ident (releaseAt_fib t _ _ _) :)

theorem trigEff_of_performed (hp : allPerformed t t.fib.id = true) : trigEff t = .done (tellTrigger (triggered t)) := by
  rw [trigEff, hp]
  rfl

theorem trigEff_of_native (hp : allPerformed t t.fib.id = true) (hg : t.fib.ident.guest = none) :
    trigEff t = .done (settleLaunch (triggered t) t.fib.ident.launch) := by
  rw [trigEff_of_performed hp, tellTrigger, triggered_ident, hg]

theorem trigEff_of_guest {m n : Nat} (hp : allPerformed t t.fib.id = true) (hg : t.fib.ident.guest = some (m, n)) :
    trigEff t = .done (tellHome (triggered t) (triggered t).fib m n 6 0) := by
  rw [trigEff_of_performed hp, tellTrigger, triggered_ident, hg]

end

theorem triggered_begun (s : State) (u : Use) : triggered (begun s u) =
    let r := releaseAt (begun s u) s.fib.ident.tenant s.fib.core s.fib.ident.tscope
    { r with fib := { r.fib with triggered := true } } := by
  simp only [triggered, begun_fib_ident, begun_fib_core]

/-! YIELD and ALIGN (R53, R289). -/

/-- What ALIGN does once it has issued. -/
def alignEff (n : BitVec 6) (t : State) : Eff :=
  if n = 0 then .done t
  else match t.fibres.filter (alignMate t.fib) with
    | [] => .hold .align t
    | xs => .done (xs.foldl (fun t x => complete t x.id none) t)

theorem exec_yield (y : Bool) (s : State) : exec (.yield y) s = issue s (plainUse (.yield y) y [] 0) fun t _ => .done t := rfl

theorem exec_align (y : Bool) (n : BitVec 6) (s : State) :
    exec (.align y n) s = issue s (plainUse (.align y n) y [] 0) fun t _ => alignEff n t := rfl

section
variable {n : BitVec 6} {t : State} (hn : n ≠ 0)
include hn

/-- The first of its gang to reach the address waits there. -/
theorem alignEff_of_first (h : ∀ x ∈ t.fibres, alignMate t.fib x = false) : alignEff n t = .hold .align t := by
  have hnone : t.fibres.filter (alignMate t.fib) = [] := List.filter_eq_nil_iff.mpr fun x hx => Bool.eq_false_iff.mp (h x hx)
  simp only [alignEff, hn, if_false, hnone]

/-- A later one ends the wait of all that are there. -/
theorem alignEff_of_mates (h : ∃ x ∈ t.fibres, alignMate t.fib x = true) :
    alignEff n t = .done ((t.fibres.filter (alignMate t.fib)).foldl (fun t x => complete t x.id none) t) := by
  obtain ⟨x, hx, hm⟩ := h
  simp only [alignEff, hn, if_false]
  split
  case h_1 hnone => exact absurd hm (List.filter_eq_nil_iff.mp hnone x hx)
  case h_2 => rfl

end

/-! MIGR (R49, R50, R290). -/

/-- How MIGR uses its fibre. -/
def migrUse (y : Bool) (gd ga : Reg) (la : Bool) : Use :=
  ⟨.migr y gd ga la, y, false, 0, gangOnly (.migr y gd ga la), [(ga, la)], gd, true⟩

/-- What MIGR does once its address is a word of a scratchpad and its fibre holds no array. -/
def migrTo (free : BitVec 16) (gd : Reg) (pa : Nat) (t : State) : Eff :=
  if !isRemote t pa && spadCore pa == t.fib.core then .done (setLong t gd 1 0)
  else if t.fib.sup.frame || t.fib.mon.frame then .done (setLong t gd 2 0)
  else migrEff t free gd pa

/-- What MIGR of an address does once it has issued. -/
def migrIssued (free : BitVec 16) (gd : Reg) (t : State) (va : Word) : Eff :=
  match firstMark t.fib with
  | some e => .report e.cause.toNat e.addr
  | none =>
    if !aligned va 8 then .trap cALIGN va
    else match translateFibre t t.fib .load va.toNat with
      | .bad c => .trap c va
      | .ring => .park (.ring va) t
      | .miss => let w := askHome t va; .park w.1 w.2
      | .ok a =>
        if a.loc ≠ 2 then .trap cXPROT va
        else if holdsLease t t.fib then .trap cLEASE va
        else migrTo free gd a.pa t

theorem exec_migr (y : Bool) (gd ga : Reg) (la : Bool) (s : State) : exec (.migr y gd ga la) s
    = issue s (migrUse y gd ga la) fun t v => migrIssued (freeMask (migrUse y gd ga la)) gd t (arg v 0) := rfl

/-- An instruction whose fibre travels to a core of this module. -/
theorem issue_travel {s : State} {u : Use} {body : State → List Word → Eff} {core : Nat} {t : State} (h : Issues s u)
    (hb : body (begun s u) (operands s u) = .travel core t) :
    issue s u body = .next (carry (atReads s u.y) u (.travel core t)) := by
  rw [issue_of s u body h, hb]

section
variable {t : State} {free : BitVec 16} {gd : Reg}

theorem migrIssued_of_scratchpad {va : Word} {a : Acc} (hm : firstMark t.fib = none) (ha : va.toNat % 8 = 0)
    (ht : translateFibre t t.fib .load va.toNat = .ok a) (hl : a.loc = 2) (hh : holdsLease t t.fib = false) :
    migrIssued free gd t va = migrTo free gd a.pa t := by
  simp only [migrIssued, hm, if_neg (not_misaligned ha), ht, hl, hh, ne_eq, not_true_eq_false, if_false, Bool.false_eq_true]

variable {pa : Nat}

theorem migrTo_of_here (hr : isRemote t pa = false) (hc : spadCore pa = t.fib.core) : migrTo free gd pa t = .done (setLong t gd 1 0) := by
  simp only [migrTo, hr, hc, Bool.not_false, beq_self_eq_true, Bool.and_self, if_true]

section
variable (ho : isRemote t pa = true ∨ spadCore pa ≠ t.fib.core)
include ho

theorem not_here : ¬(!isRemote t pa && spadCore pa == t.fib.core) = true := by
  obtain h | h := ho <;> simp [h]

theorem migrTo_of_frame (hf : t.fib.sup.frame = true ∨ t.fib.mon.frame = true) : migrTo free gd pa t = .done (setLong t gd 2 0) :=
  (if_neg (not_here ho)).trans (if_pos ((Bool.or_eq_true _ _).mpr hf))

theorem migrTo_of_no_frame (hs : t.fib.sup.frame = false) (hm : t.fib.mon.frame = false) :
    migrTo free gd pa t = migrEff t free gd pa :=
  (if_neg (not_here ho)).trans (if_neg (by rw [hs, hm]; exact Bool.false_ne_true))

end

theorem migrEff_of_unready (h : allReady t.fib = false) : migrEff t free gd pa = .later .marker (.migr pa) t := by
  simp only [migrEff, h, Bool.not_false, if_true]

theorem migrEff_of_outstanding (h : allReady t.fib = true) (hp : allPerformed t t.fib.id = false) :
    migrEff t free gd pa = .later .accesses (.migr pa) t := by
  simp only [migrEff, h, hp, Bool.not_true, Bool.not_false, Bool.false_eq_true, if_false, if_true]

/-- Where a fibre goes that may leave its core: `t` is its state with its long results written. -/
def depart (t : State) (free : BitVec 16) (d : Reg) (pa : Nat) : Eff :=
  if isRemote t pa then
    let o := offerRemote t pa true (stepPc (freeRegs t.fib free)) d
    .hold o.1 o.2
  else if acceptsFibre t t.fib (spadCore pa) then .travel (spadCore pa) t
  else .done (setLong t d 2 0)

theorem migrEff_of_ready (h : allReady t.fib = true) (hp : allPerformed t t.fib.id = true)
    (hf : (drain t.fib).failure = none) (hm : firstMark (drain t.fib) = none) :
    migrEff t free gd pa = depart { t with fib := drain t.fib } free gd pa := by
  simp only [migrEff, h, hp, hf, hm, Bool.not_true, Option.isSome_none, Bool.false_eq_true, if_false, depart]

theorem depart_of_remote (hr : isRemote t pa = true) : depart t free gd pa
    = .hold (offerRemote t pa true (stepPc (freeRegs t.fib free)) gd).1 (offerRemote t pa true (stepPc (freeRegs t.fib free)) gd).2 :=
  if_pos hr

theorem depart_of_accepted (hr : isRemote t pa = false) (ha : acceptsFibre t t.fib (spadCore pa) = true) :
    depart t free gd pa = .travel (spadCore pa) t :=
  (if_neg (Bool.eq_false_iff.mp hr)).trans (if_pos ha)

theorem depart_of_refused (hr : isRemote t pa = false) (ha : acceptsFibre t t.fib (spadCore pa) = false) :
    depart t free gd pa = .done (setLong t gd 2 0) :=
  (if_neg (Bool.eq_false_iff.mp hr)).trans (if_neg (Bool.eq_false_iff.mp ha))

end

/-- Settles O11: EXIT, TRIG and MIGR by what their accesses and results have come to, ALIGN by the mates that wait. -/
theorem fibreControl : Obligations.FibreControl := by
  unfold Obligations.FibreControl
  refine ⟨?exit, ?trigTask, ?trig, ?yield, ?align, ?migr⟩
  case exit =>
    intro s y u h
    have hx : exec (.exit y) s = issue s u fun t v => exitEff t (arg v 0) := exec_exit y s
    rw [hx]
    refine ⟨fun hp => issue_raw h ?_, fun hp => issue_later h (exitEff_of_outstanding _ ((allPerformed_begun s u).trans hp))⟩
    have he := exitEff_of_performed (operand s u 0) ((allPerformed_begun s u).trans hp)
    rw [begun_fib_id] at he
    exact he
  case trigTask =>
    intro s y u h hk
    have hx : exec (.trig y) s = issue s u fun t _ => trigIssued t := exec_trig y s
    rw [hx]
    exact issue_done h (if_pos ((congrArg Ident.kind (begun_fib_ident s u)).trans hk))
  case trig =>
    intro s y u r t h hk
    have hx : exec (.trig y) s = issue s u fun t _ => trigIssued t := exec_trig y s
    have hne : ¬(begun s u).fib.ident.kind = .task := fun e => hk ((congrArg Ident.kind (begun_fib_ident s u)).symm.trans e)
    have ht : triggered (begun s u) = t := triggered_begun s u
    rw [hx]
    refine ⟨fun hp => ?performed, fun hp => issue_later h ((if_neg hne).trans (trigEff_of_outstanding ((allPerformed_begun s u).trans hp)))⟩
    case performed =>
      have hp' := (allPerformed_begun s u).trans hp
      refine ⟨fun hg => ?native, fun m n hg => ?guest⟩
      case native =>
        have he := trigEff_of_native hp' (by rw [begun_fib_ident]; exact hg)
        rw [ht, begun_fib_ident] at he
        exact issue_done h ((if_neg hne).trans he)
      case guest =>
        have he := trigEff_of_guest hp' (by rw [begun_fib_ident]; exact hg)
        rw [ht] at he
        exact issue_done h ((if_neg hne).trans he)
  case yield =>
    intro s y u h
    exact (exec_yield y s).trans (issue_done h rfl)
  case align =>
    intro s y n u h
    have hx : exec (.align y n) s = issue s u fun t _ => alignEff n t := exec_align y n s
    rw [hx]
    refine ⟨fun hn => issue_done h (if_pos hn), fun hn hm => issue_hold h (alignEff_of_first hn (by rw [begun_fibres]; exact hm)),
      fun hn hm => issue_done h ?_⟩
    have he := alignEff_of_mates hn (t := begun s u) (by rw [begun_fibres]; exact hm)
    rw [begun_fibres] at he
    exact he
  case migr =>
    intro s y gd ga la a u b t h hm ha ht hl hh
    have hx : exec (.migr y gd ga la) s = issue s u fun t v => migrIssued (freeMask u) gd t (arg v 0) := exec_migr y gd ga la s
    have hto : migrIssued (freeMask u) gd b (operand s u 0) = migrTo (freeMask u) gd a.pa b := migrIssued_of_scratchpad hm ha ht hl hh
    have hremote : isRemote b a.pa = isRemote s a.pa := isRemote_begun s u a.pa
    have hcore : b.fib.core = s.fib.core := begun_fib_core s u
    have hsup : b.fib.sup = s.fib.sup := begun_fib_sup s u
    have hmon : b.fib.mon = s.fib.mon := begun_fib_mon s u
    have hperf : allPerformed b b.fib.id = allPerformed s s.fib.id := allPerformed_begun s u
    rw [hx, ← hremote, ← hcore, ← hsup, ← hmon, ← hperf]
    refine ⟨fun hr hc => issue_done h (hto.trans (migrTo_of_here hr hc)), fun ho hf => issue_done h (hto.trans (migrTo_of_frame ho hf)),
      fun ho hs hf => ⟨fun hready => ?unready, fun hready hp => ?outstanding⟩,
      fun hs hf hready hp hfail hmark => ⟨fun hr hc => ?near, fun hr => ?far⟩⟩
    case unready => exact issue_later h (hto.trans ((migrTo_of_no_frame ho hs hf).trans (migrEff_of_unready hready)))
    case outstanding => exact issue_later h (hto.trans ((migrTo_of_no_frame ho hs hf).trans (migrEff_of_outstanding hready hp)))
    case near =>
      have hgo := (hto.trans (migrTo_of_no_frame (.inr hc) hs hf)).trans (migrEff_of_ready hready hp hfail hmark)
      exact ⟨fun hacc => issue_travel h (hgo.trans (depart_of_accepted hr hacc)),
        fun hacc => issue_done h (hgo.trans (depart_of_refused hr hacc))⟩
    case far =>
      intro o
      have hgo := (hto.trans (migrTo_of_no_frame (.inl hr) hs hf)).trans (migrEff_of_ready hready hp hfail hmark)
      exact issue_hold h (hgo.trans (depart_of_remote hr))

end Sys2Proof.Proofs

/-! The steps by which accesses and waits of fibres go on (R43, R44, R49, R53, R92, R130, R131, R139-R145, R167-R171, R286, R299, R301, R303,
R308, R371, R424). -/

namespace Sys2Proof.Proofs

open Sys2Proof Sys2Proof.Machine Sys2Proof.Safety Sys2Proof.Laws

theorem id_of_fibreOf {s : State} {f : Nat} {x : Fibre} (h : fibreOf s f = some x) : x.id = f :=
  beq_iff_eq.mp (List.find?_some (p := fun y : Fibre => y.id == f) h)

theorem id_of_reqOf {s : State} {id : Nat} {r : Req} (h : reqOf s id = some r) : r.id = id :=
  beq_iff_eq.mp (List.find?_some (p := fun q : Req => q.id == id) h)

/-! Values and acknowledgements that return (R43, R44, R171). -/

/-- A pending result whose value or failure is there is written (R44). -/
theorem dataReturn_of_pending {s : State} {f p : Nat} {x : Fibre} {b : Pend} {rest : List Pend} (hx : fibreOf s f = some x)
    (hw : farWaits s p = false)
    (hp : takeFirst (fun (e : Pend) => e.id == p && (e.val.isSome || e.fail.isSome)) x.pend = some (b, rest)) :
    dataReturn s f p = modFibre s f fun y => { arrive y b with pend := rest } := by
  simp only [dataReturn, hw, Bool.false_eq_true, if_false, hx, hp]

section
variable {s : State} {r : Req} {k : Nat} {q : Packet}

theorem storeAck_of_response {id : Nat} {wt : BitVec 64} {cause : BitVec 6} (hr : reqOf s id = some r) (hq : respTo s id = some (k, q))
    (hk : r.kind = .store) (hs : r.sent = true) (hwt : areaNat q 8 8 = wt.toNat) (hc : respCause q = cause.toNat)
    (hw : farWaits s id = false) : storeAck s id wt cause = takeResponse s r k q := by
  simp only [storeAck, hq, hwt, hc, ne_eq, not_true_eq_false, or_self, if_false, hw, Bool.false_eq_true, hr, hk, hs, and_self, if_true]

/-- A store that its home reports to have failed (R399). -/
theorem takeResponse_of_failure (hc : respCause q ≠ 0) :
    takeResponse s r k q = failReq (raiseClock (dropArrival s k) r.core q.clock.toNat) r.id (respCause q) := if_pos hc

/-- A store that its home reports to be performed raises its core's clock to the line's WT (R171). -/
theorem takeResponse_of_store (hk : r.kind = .store) (hc : respCause q = 0) :
    let t := raiseClock (dropArrival s k) r.core q.clock.toNat
    takeResponse s r k q = deliverReq (keepLease (acqEffect (dropReq (raiseClock t r.core (areaNat q 8 8)) r.id) r) r q) r
      (BitVec.ofNat 64 (areaNat q 0 8)) (BitVec.ofNat 5 (areaNat q 16 8)) := by
  simp [takeResponse, hk, hc]

end

/-! Page walks (R128, R130, R131). -/

/-- The state once a walk has left the walker. -/
def walkEnded (s : State) (w : Nat) : State :=
  { s with ms := { s.ms with walks := s.ms.walks.filter fun y => y.id != w } }

/-- The fibres that wait for a walk go on. -/
def walkServed (s : State) (w : Nat) : State :=
  modFibres s (waitsWalk w) fun f => { f with
    run := if f.run = .parked (.walk w) then .eligible else f.run
    walked := true }

section
variable {s : State} {w : Nat} {x : Walk} (hx : (s.ms.walks.find? fun y => y.id == w) = some x)
include hx

theorem walkComplete_of_no_leaf (hl : walkFrom (walkEnded s w) 3 x.va.toNat (rootOf (walkEnded s w) x.space) = none) :
    walkComplete s w = walkServed (walkEnded s w) w := by
  unfold walkEnded at *
  simp only [walkComplete, hx, hl, walkServed]

/-- The leaf that a walk finds goes into the TLBs of the cores that asked for it (R130). -/
theorem walkComplete_of_leaf {leaf lv : Nat}
    (hl : walkFrom (walkEnded s w) 3 x.va.toNat (rootOf (walkEnded s w) x.space) = some (leaf, lv)) :
    walkComplete s w = walkServed ((x.who.filterMap (fibreOf (walkEnded s w))).foldl (fun r f => noteTlb r f.core x.space
      ⟨0, 0, 0, 0, false, x.va.toNat / 2 ^ pageWidth lv, pageWidth lv, BitVec.ofNat 64 leaf⟩) (walkEnded s w)) w := by
  unfold walkEnded at *
  simp only [walkComplete, hx, hl, walkServed]

end

/-! Requests at their homes (R139, R140, R145, R154, R160, R162, R176). -/

/-- A request with its core's clock as it leaves (R167). -/
def leaving (s : State) (r : Req) : Req := { r with clock := BitVec.ofNat 64 (clockOf s r.core) }

/-- A request that may leave its core for its home now (R139, R162). -/
structure Leaves (s : State) (id : Nat) (r : Req) : Prop where
  names : reqOf s id = some r
  notThere : r.arrived = false
  notSent : r.sent = false
  notRefused : r.refused = false
  own : r.rem = none
  may : mayPerform s r = true

/-- A completion word whose reservation is gone (R176). -/
def StaleStamp (s : State) (r : Req) : Prop := r.kind = .feStore ∧ r.op = 7 ∧ spadHeld s r.ten r.mon r.pa = false

section
variable {s : State} {id : Nat} {r : Req}

theorem Leaves.not_held (h : Leaves s id r) :
    ¬(r.arrived || r.sent || r.refused || r.rem.isSome || !mayPerform s r) = true := by
  simp [h.notThere, h.notSent, h.notRefused, h.own, h.may]

theorem homeRequest_of_hint (h : Leaves s id r) {hint : BitVec 8} (hh : hint ≠ 0) :
    homeRequest s id hint = modReq s id fun x => { x with refused := true } := by
  simp only [homeRequest, h.names, if_neg h.not_held, if_pos hh]

theorem homeRequest_of_remote (h : Leaves s id r) (hr : isRemote s r.pa = true) : homeRequest s id 0
    = sendReq (modReq (relEffect s (leaving s r)) id fun x => { x with sent := true }) (leaving s r) (mayLease (leaving s r)) := by
  simp only [homeRequest, h.names, if_neg h.not_held, ne_eq, not_true_eq_false, if_false, hr, if_true, leaving]

theorem homeRequest_of_home (h : Leaves s id r) (hr : isRemote s r.pa = false) :
    homeRequest s id 0 = performReq s (leaving s r) := by
  simp only [homeRequest, h.names, if_neg h.not_held, ne_eq, not_true_eq_false, if_false, hr, Bool.false_eq_true, leaving]

theorem performReq_of_stale (h : StaleStamp s r) : performReq s r = dropReq s r.id := if_pos h

variable (h : ¬StaleStamp s r)
include h

theorem performReq_of_done {t : State} {v : Word} (hp : performHere s r = .done t v) :
    performReq s r = deliverReq (dropReq t r.id) r v 0 := by
  refine (if_neg h).trans ?_
  rw [hp]

theorem performReq_of_fail {t : State} {c : Nat} (hp : performHere s r = .fail t c) : performReq s r = failReq t r.id c := by
  refine (if_neg h).trans ?_
  rw [hp]

/-- A request that must wait at its home takes the next place there (R145). -/
theorem performReq_of_wait {t : State} (ha : r.arrived = false) (hp : performHere s r = .wait t) :
    performReq s r = modReq (freshId t).2 r.id fun x => { x with
      arrived := true
      place := (freshId t).1 } := by
  refine (if_neg h).trans ?_
  rw [hp, ha]
  rfl

theorem performReq_of_refused (hp : performHere s r = .refused) :
    performReq s r = modReq s r.id fun x => { x with refused := true } := by
  refine (if_neg h).trans ?_
  rw [hp]

end

/-- A full/empty access that is served is performed (R145). -/
theorem feServed_of_ready {s : State} {id : Nat} {r : Req} (hr : reqOf s id = some r) (hk : r.kind = .feLoad ∨ r.kind = .feStore)
    (ha : r.arrived = true) (hf : feReady s r.op r.pa = true) (hb : feBehind s r.place r.op r.pa = false) (hm : r.rem = none) :
    feServed s id = performReq s r := by
  have hno : ¬((r.kind ≠ .feLoad ∧ r.kind ≠ .feStore) ∨ r.arrived = false ∨ feReady s r.op r.pa = false
      ∨ feBehind s r.place r.op r.pa = true) := by
    rw [ha, hf, hb]
    obtain h | h := hk <;> simp [h]
  simp only [feServed, hr, if_neg hno, hm]

/-! The waits of fibres (R53, R92, R286, R299, R301, R303, R308, R371), and migrations that arrive (R48-R50, R290, R424). -/

theorem spuriousWake_of_watch {s : State} {f : Nat} {w : Watch} (h : (s.watches.find? fun x => x.fib == f && x.rem.isNone) = some w) :
    spuriousWake s f = wakeWatch s w 3 := by
  simp only [spuriousWake, h]

section
variable {s : State} {f : Nat} {x : Fibre} (hx : fibreOf s f = some x)
include hx

theorem alignTimeout_of_parked (h : x.run = .parked .align) : alignTimeout s f = complete s f none := by
  simp only [alignTimeout, hx, h, if_true]

section
variable {dest : Nat} {migr : Bool} (hm : x.run = .migrating dest migr) (hp : allPerformed s f = true)
include hm hp

theorem migrationArrival_of_open (hr : (coreOf s dest).retired = false) : migrationArrival s f = moveFibre s x dest migr := by
  simp only [migrationArrival, hx, hm, hp, hr, Bool.not_true, Bool.false_eq_true, if_false]

theorem migrationArrival_of_retired (hr : (coreOf s dest).retired = true) : migrationArrival s f = moveRefused s x migr := by
  simp only [migrationArrival, hx, hm, hp, hr, Bool.not_true, Bool.false_eq_true, if_false, if_true]

end

theorem tlbDone_of_parked {sc : BitVec 4} {m : Word} {all : Bool} {va : Word} (h : x.run = .parked (.tlb sc m all va)) :
    tlbDone s f = complete (tlbRemove s x sc m all va.toNat) f none := by
  simp only [tlbDone, hx, h]

theorem maskDone_of_parked {k : Nat} {v : Word} (h : x.run = .parked (.mask k v)) :
    maskDone s f = complete (setTenant s x.ident.tenant.toNat { tenantOf s x.ident.tenant.toNat with
      masks := tset (tenantOf s x.ident.tenant.toNat).masks k v }) f none := by
  simp only [maskDone, hx, h]

theorem callatAnswer_of_accepted {c : Nat} (h : x.run = .parked (.callat c (some true))) : callatAnswer s f = complete s f none := by
  simp only [callatAnswer, hx, h, if_true]

theorem callatAnswer_of_refused {c : Nat} (h : x.run = .parked (.callat c (some false))) :
    callatAnswer s f = completeTrap s f cQFULL (BitVec.ofNat 64 c) := by
  simp only [callatAnswer, hx, h, Bool.false_eq_true, if_false]

theorem execSwitchFreeDone_of_parked {b : Nat} {a : Alloc} (h : x.run = .parked (.free b)) (ha : allocBased s x.ident.tenant b = some a) :
    execSwitchFreeDone f s = .next (complete (freeAlloc s a) f none) := by
  simp only [execSwitchFreeDone, hx, h, ha]

end

section
variable {s : State} {b : Nat} {x : Barrier} (hx : (s.dist.barriers.find? fun y => barrierId y.grid y.key == b) = some x)
include hx

theorem episodeComplete_of_arrived (ha : allArrived s x = true) (hr : ∀ d ∈ barrierDies s x, d ∈ x.reports) :
    episodeComplete s b = completeBarrier s x := by
  have hall : ((barrierDies s x).all fun d => x.reports.contains d) = true :=
    List.all_eq_true.mpr fun d hd => List.contains_iff_mem.mpr (hr d hd)
  simp only [episodeComplete, hx, ha, hall, Bool.and_self, if_true]

theorem dieReport_of_arrived {d : Nat} (hd : d ∈ barrierDies s x) (hn : d ∉ x.reports) (ha : dieArrived s x d = true) :
    dieReport s b d = setBarrier s { x with reports := x.reports ++ [d] } := by
  have hdue : ((barrierDies s x).contains d && !x.reports.contains d && dieArrived s x d) = true := by simp [hd, hn, ha]
  simp only [dieReport, hx, hdue, if_true]

end

/-- Settles O52, event by event. -/
theorem accessAndWaitEvents : Obligations.AccessAndWaitEvents := by
  unfold Obligations.AccessAndWaitEvents
  refine ⟨?data, ?ack, ?walk, ?home, fun _ _ => rfl, fun s id ids => ⟨rfl, _, _, rfl, rfl, rfl⟩, ?served, fun _ => rfl, ?wakes, ?fibres,
    ?barriers⟩
  case data => exact fun s f p x b rest hx hw hp => next_eq (dataReturn_of_pending hx hw hp)
  case ack =>
    intro s id wt cause r k q hr hq hk hs hwt hc hw t
    have hack : storeAck s id wt cause = takeResponse s r k q := storeAck_of_response hr hq hk hs hwt hc hw
    refine ⟨fun hne => ?failed, fun he => ?performed⟩
    case failed =>
      have hne' : respCause q ≠ 0 := fun e => hne (BitVec.eq_of_toNat_eq (hc.symm.trans e))
      have hfail := takeResponse_of_failure (s := s) (r := r) (k := k) hne'
      rw [hc] at hfail
      exact next_eq (hack.trans hfail)
    case performed =>
      have he' : respCause q = 0 := by rw [hc, he]; rfl
      exact next_eq (hack.trans (takeResponse_of_store hk he'))
  case walk =>
    intro s w x hx t on
    exact ⟨fun hl => next_eq (walkComplete_of_no_leaf hx hl), fun leaf lv hl => next_eq (walkComplete_of_leaf hx hl)⟩
  case home =>
    intro s id r hr ha hs hf hm hmay q
    have h : Leaves s id r := ⟨hr, ha, hs, hf, hm, hmay⟩
    obtain rfl : r.id = id := id_of_reqOf hr
    refine ⟨fun hint hh => next_eq (homeRequest_of_hint h hh), fun hremote => next_eq (homeRequest_of_remote h hremote),
      fun hhome hk hop hgone => ?stale, fun hhome hlive => ?performed⟩
    case stale =>
      have he := (homeRequest_of_home h hhome).trans (performReq_of_stale (r := leaving s r) ⟨hk, hop, hgone⟩)
      exact ⟨next_eq he, next_eq he⟩
    case performed =>
      have hlive' : ¬StaleStamp s (leaving s r) := hlive
      have he := homeRequest_of_home h hhome
      exact ⟨fun t v hp => ⟨next_eq (he.trans (performReq_of_done hlive' hp)), next_eq (he.trans (performReq_of_done hlive' hp))⟩,
        fun t c hp => ⟨next_eq (he.trans (performReq_of_fail hlive' hp)), next_eq (he.trans (performReq_of_fail hlive' hp))⟩,
        fun t hp => next_eq (he.trans (performReq_of_wait hlive' ha hp)), fun hp => next_eq (he.trans (performReq_of_refused hlive' hp))⟩
  case served =>
    intro s id r t v hr hk ha hf hb hop hp hm
    exact next_eq ((feServed_of_ready hr hk ha hf hb hm).trans (performReq_of_done (fun hstale => hop hstale.2.1) hp))
  case wakes => exact fun s f w h => next_eq (spuriousWake_of_watch h)
  case fibres =>
    intro s f x hx
    refine ⟨fun h => next_eq (alignTimeout_of_parked hx h), ?migrates, fun sc m all va h => next_eq (tlbDone_of_parked hx h),
      fun k v h => next_eq (maskDone_of_parked hx h), fun c h => next_eq (callatAnswer_of_accepted hx h),
      fun c h => next_eq (callatAnswer_of_refused hx h), fun b a h hal => execSwitchFreeDone_of_parked hx h hal⟩
    case migrates =>
      intro dest migr h hp sc ten t m
      obtain rfl : x.id = f := id_of_fibreOf hx
      exact ⟨fun hr => next_eq (migrationArrival_of_open hx h hp hr), fun hr => next_eq (migrationArrival_of_retired hx h hp hr)⟩
  case barriers =>
    intro s b x hx
    exact ⟨fun ha hr => next_eq (episodeComplete_of_arrived hx ha hr), fun d hd hn ha => next_eq (dieReport_of_arrived hx hd hn ha)⟩

end Sys2Proof.Proofs
